-- ==== Sys2Proof/Word.lean ====
section
/-! DEFINITION. The word types of the Cotha CX7240 and their plainest arithmetic (00_scope.md R5-R9). -/
namespace Sys2Proof

/-- One byte of memory. -/
abbrev Byte := BitVec 8
/-- A register of a register page (R10). -/
abbrev Word32 := BitVec 32
/-- A value-stack cell, a scratch word, a bus datum (R108, R95). -/
abbrev Cell := BitVec 64
/-- A physical or program address (R37, R108). -/
abbrev Addr := BitVec 48

end Sys2Proof
end

