-- ==== Sys2Proof/Syntax.lean ====
section
/-! DEFINITION. The commands of the Cotha CX7240: one constructor per row of spec/opcode_table.json, with its operands. -/
namespace Sys2Proof

/-- A bus master identity (01_architecture.md R22). -/
abbrev MasterId := Fin 26

/-- What a command's sender says the array holds at the place it reads: how many bits of the stored code word are in error,
and the difference of the stored TAG (R86, R87, R95). `{}` is an undisturbed cell. -/
structure Upset where
  bits : Nat := 0
  tag : BitVec 5 := 0
deriving DecidableEq, Repr

/-- What executes an instruction: turret core `n`, in its current context, or context `c` of the sequencer of spire `s`
(04_dravaesor_isa.md R109, R142). -/
inductive Executor where
  | turret (n : Fin 8)
  | spire (s : Fin 8) (c : Fin 4)
deriving DecidableEq, Repr

/-- What befalls the hardware while the instruction runs (R143, R352, R356-R358). -/
inductive HwEvent where
  | quiet
  /-- The TCM word the instruction reads is disturbed: that many bits in error (R143); on a spire, the word of the program buffer,
  or the coefficient-RAM word of VCGET (R175, R183). -/
  | tcm (bits : Nat)
  /-- In lockstep, a tick of a directly sampled counter falls between the two cores' samples (R352). -/
  | skew
  /-- The comparator drives an invalid code in a group (R356). -/
  | selfFault (group : Fin 8)
  /-- A delay register's parity fails: output side, slice, and for the output side the group whose value it held (R357, R364). -/
  | dreg (output : Bool) (slice : BitVec 8) (group : Fin 8)
  /-- A core's logic fails, so that the two cores differ in a group (R358). -/
  | coreFault (group : Fin 8)
  /-- A 64-bit part of a word of a spire's control store that the sequencer reads is disturbed (R145, R175). -/
  | csword (word : BitVec 14) (part : Fin 4) (bits : Nat)
deriving DecidableEq, Repr

/-- The operands every DIS instruction carries: who executes it, its raw prefix bytes with their operand bytes (R116), the
number of completed iterations or steps after which an event is taken, if one is (R132, R134, R135), and the hardware event. -/
structure DisOp where
  ex : Executor
  pfx : List Byte := []
  stop : Option Nat := none
  hw : HwEvent := .quiet
  /-- The byte at the opcode's place, where it is one that the page's map reserves and not the command's own (R118, R179). -/
  reserved : Option Byte := none
deriving DecidableEq, Repr

/-- An immediate: opcode[1:0] and the unsigned value of its bytes (R116). -/
structure Imm where
  size : Fin 4
  value : BitVec 64
deriving DecidableEq, Repr

/-- A scratch or queue-store access (R95). -/
inductive SramOp where
  | read (len : Nat)
  | write (data : List Byte)
deriving DecidableEq, Repr

/-- Why a spare copy is abandoned (R93). -/
inductive SpareAbortWhy where
  | spareLasting | verifyFailed | spareUncorrectable
deriving DecidableEq, Repr

/-- The two sources of a reference crossing (R52). -/
inductive CrossSource where
  | cupola | cycPin
deriving DecidableEq, Repr


/-- What surrounds a row of a vendor program (R230-R241, R247, R309, R445): for each shard the body and tail a read returns, none where
the drive operation fails (TRANSCODE numbers the shards of its old stripes one after the other); for each shard whether its write is done
(0), fails (1), meets a reservation (2) or the end of its zone (3); the shard before which VERIFY and SCRUB pause; and what the program
itself chooses: a PUT's journal slot, its offset in the partner's mirror region and bytes 16-63 of its journal record, and the address of
a narrow program's handoff cell, which the status cell follows. -/
structure StripeIo where
  reads : List (Option (List Byte)) := []
  writes : List (Fin 4) := []
  upto : Option Nat := none
  jslot : BitVec 16 := 0
  moff : BitVec 48 := 0
  record : List Byte := []
  cell : BitVec 48 := 0
deriving DecidableEq, Repr

/-- A disturbance of a word that only the block itself reads (R268, R321, R391, R393, R398, R400, R404). -/
inductive InnerUpset where
  /-- A correctable event that the page counts: a corrected state word or parity error of the block; on a MG page, an FCS error. -/
  | counted (page : BitVec 12)
  /-- The route word of a source, with that many bits in error. -/
  | route (src : Fin 512) (bits : Nat)
  /-- A queued message of a mailbox channel: side B's or side A's outbound queue, its place from the head, bits in error. -/
  | message (ch : Fin 64) (sideB : Bool) (place : Fin 8) (bits : Nat)
deriving DecidableEq, Repr

/-- Who asks for a drive command that more than a ring may send: ring `r`, or PWR, a FLUSH on a port (R272). -/
inductive DriveFrom where
  | ring (r : Fin 48)
  | own (port : Fin 240)
deriving DecidableEq, Repr

/-- What a drive answers: SCSI status, sense key, ASC, ASCQ, bytes not transferred, data in; for a registration whether a reservation is
held (R292); for CHECK POWER MODE whether the drive reports active or idle (R273, R276). -/
structure DriveAnswer where
  sstat : Byte := 0
  skey : BitVec 4 := 0
  asc : Byte := 0
  ascq : Byte := 0
  resid : Word32 := 0
  data : List Byte := []
  held : Bool := false
  active : Bool := true
deriving DecidableEq, Repr

/-- One sample of a Cupola channel as the front end delivers it under the factory calibration: voltage in mV and current in mA of the
supply, and voltages at the voltage and current inputs in µV (R411, R412, R416). -/
structure CupSample where
  v : Int := 0
  i : Int := 0
  uv : Int := 0
  ui : Int := 0
deriving DecidableEq, Repr

/-- What the start-up meets (R432-R442): BOOT_RCV_N low; for each POLL of the register-write table whose first read does not show the
value, whether it comes true within 10 ms; the training channels that fail after their retry; the spires whose control-store read-back
fails; the failing groups of each pair's injection test. -/
structure StartIo where
  rcv : Bool := false
  polls : List Bool := []
  train : BitVec 64 := 0
  readback : BitVec 8 := 0
  inject : List (BitVec 8) := []
deriving DecidableEq, Repr

/-- What raises a device warm reset (R449): a write of KEEP_CTL.DWRST, RST_N low for 1 µs, or a DWRST that an earlier write raised. -/
inductive WarmSource where
  | dwrst (id : MasterId)
  | rstPin
  | raised
deriving DecidableEq, Repr

/-- The wake sources, in KEEP_WAKE order (R431, R450). -/
inductive WakeSource where
  | wakePin | mg0 | mg1 | bcmp | aonTimer
deriving DecidableEq, Repr

/-- The commands of the block: one constructor per row of spec/opcode_table.json, in the table's order. -/
inductive Instr where
  /-- REGISTER_WRITE (R11): A 32-bit write to a register that has no row of its own; it is applied according to the field access codes. -/
  | registerWrite (id : MasterId) (addr : Addr) (data : List Byte)
  /-- LOCK (R44): A write of a key to a page's LOCK register; the second key of the sequence from the same identity locks the page. -/
  | lock (id : MasterId) (page : BitVec 12) (key : Word32)
  /-- IRQ_SET (R43): A write to IRQ_SET sets IRQ_RAW bits as a hardware setting does. -/
  | irqSet (id : MasterId) (page : BitVec 12) (bits : Word32)
  /-- DRAM_READ (R87): A read of a DRAM line is checked by SECDED and TAG, then corrected, counted, recorded or returned poisoned. -/
  | dramRead (id : MasterId) (addr : Addr) (len : Nat) (upset : Upset)
  /-- DRAM_WRITE (R88): A full-line write stores a fresh check word; a partial write reads, merges and writes the line. -/
  | dramWrite (id : MasterId) (addr : Addr) (data : List Byte) (upset : Upset)
  /-- SRAM_ACCESS (R95): An access to a scratch or queue-store word, with SECDED check and read-merge-write for partial writes. -/
  | sramAccess (id : MasterId) (addr : Addr) (op : SramOp) (upset : Upset)
  /-- SCR_BSTATE_WRITE (R96): A write that changes the ON, RET, OFF or RETIRED state of scratch or queue-store banks. -/
  | scrBstateWrite (id : MasterId) (page : Fin 2) (reg : Fin 16) (v : Word32)
  /-- BANK_ZERO_FILL (R96): A bank moved out of OFF finishes being zero-filled with valid ECC, and the accesses waiting on it proceed. -/
  | bankZeroFill (page : Fin 2) (bank : Fin 256)
  /-- PATROL_REGION (R98): Every INTERVAL slots the patrol shadows one region, runs March C- on it, repairs failing rows and writes the region back. -/
  | patrolRegion (page : Fin 2) (failing : Nat)
  /-- DMA_STARVE (R97): A DMA request that has waited 1,024 bank cycles increments SCR_STARVE and sets STARVE. -/
  | dmaStarve (page : Fin 2)
  /-- SCRUB_READ (R89): A paced scrub read of a DRAM line, handled as a demand read. -/
  | scrubRead (pch : Fin 64) (j : Nat) (upset : Upset)
  /-- WIDEN (R85): A Custody write of 1 to MEMC_CTL.WIDEN in NARROW mode with all channels trained starts widening. -/
  | widen (id : MasterId) (v : Word32)
  /-- WIDENING_COPY_BLOCK (R85): A block of 32 lines is copied from the narrow layout to the wide layout, and the pointer P advances. -/
  | wideningCopyBlock (upsets : List Upset)
  /-- WIDE_DONE (R85): Widening ends, MODE becomes WIDE and the held lasting faults or FORCE requests act. -/
  | wideDone
  /-- SPARE_FORCE (R90): A Custody write of MEMC_SPARE_CTL.FORCE requests sparing of TARGET, or is held until MODE is WIDE. -/
  | spareForce (id : MasterId) (v : Word32)
  /-- SPARE_COPY_BLOCK (R91): A paced copy block of 32 lines is copied from the old channel to the spare, and MEMC_SPARE_PTR advances. -/
  | spareCopyBlock (upsets : List Upset)
  /-- SPARE_SWITCH (R91): After the last block, outstanding commands drain, VALID is set, SPARE_ST becomes USED and the old channel is retired. -/
  | spareSwitch
  /-- SPARE_ABORT (R93): A COPY is abandoned; traffic returns to the old channel and SPARE_ST becomes FAILED. -/
  | spareAbort (why : SpareAbortWhy)
  /-- PHASE_TICK (R49): A tick of the Belfry phase clock advances PHASE and, on a wrap, CYCLE. -/
  | phaseTick
  /-- REFERENCE_CROSSING (R52): A crossing on the selected reference is judged as starting point, valid or rejected, and the phase error is measured. -/
  | referenceCrossing (src : CrossSource) (elapsed : Nat)
  /-- BELFRY_STATE_CHANGE (R53): At a PHASE = 0 tick the Belfry moves to a new state, its phase clock changes frequency and the matching IRQ bit is set. -/
  | belfryStateChange
  /-- CROSSING_TIMEOUT (R53): No valid crossing has arrived within 2 tracked periods plus 1/16 of a period, so ACQUIRE or LOCKED heads for HOLDOVER. -/
  | crossingTimeout (elapsed : Nat)
  /-- HOLD_LIMIT_EXPIRY (R53): HOLD_LIM mcy have passed in HOLDOVER, so the Belfry heads for SYNTH. -/
  | holdLimitExpiry
  /-- SRC_WRITE (R53): A write to BELF_CTL.SRC selects the reference, restarts the count and may change the state. -/
  | srcWrite (id : MasterId) (v : Word32)
  /-- BELF_SLEW_WRITE (R57): A write of a signed count to BELF_SLEW replaces any remaining slew. -/
  | belfSlewWrite (id : MasterId) (v : Word32)
  /-- SLEW_STEP (R57): At a paced wrap CYCLE advances by 2 or stays unchanged, and the slew count moves toward 0; SLEW_DONE is set when it reaches 0. -/
  | slewStep
  /-- BELF_TIME_LO_READ (R58): A read of BELF_TIME_LO returns time[31:0] and latches time[63:32] for the reading identity. -/
  | belfTimeLoRead (id : MasterId)
  /-- BELF_TIME_HI_READ (R58): A read of BELF_TIME_HI returns the value latched for the reading identity. -/
  | belfTimeHiRead (id : MasterId)
  /-- SYNCHRONOUS_TICK (R353): Every eighth REFCLK cycle all capture-once shadows are captured. -/
  | synchronousTick (faults : List InnerUpset)
  /-- BCMP_CTL_WRITE (R60): A write to BCMP_CTL arms or disarms a comparator and clears SKIP when EN is written 1. -/
  | bcmpCtlWrite (id : MasterId) (c : Fin 64) (v : Word32)
  /-- BCMP_TARGET_WRITE (R62): A write to BCMP_TLO or BCMP_THI, refused while EN is 1. -/
  | bcmpTargetWrite (id : MasterId) (c : Fin 64) (high : Bool) (v : Word32)
  /-- COMPARATOR_FIRE (R60): A comparator reaches its target; it sets its IRQ bit, performs its route action and re-arms if periodic. -/
  | comparatorFire (c : Fin 64)
  /-- TCTL_WRITE (R66): A write to TCTL enables or freezes a timer, sets its source or its link, and restarts the prescaler. -/
  | tctlWrite (id : MasterId) (page : Fin 12) (t : Fin 8) (v : Word32)
  /-- TIMER_TICK (R66): A tick counts a timer up; it may overflow, copy a preload and match. -/
  | timerTick (page : Fin 12) (t : Fin 8)
  /-- CMP_WRITE (R68): A raw-layer write sets the live comparator of a timer. -/
  | cmpWrite (id : MasterId) (page : Fin 12) (t : Fin 8) (v : Word32) (edge : Bool)
  /-- CMP_PRE_WRITE (R69): A preload-layer write sets CMP_PRE and PRE_PEND. -/
  | cmpPreWrite (id : MasterId) (page : Fin 12) (t : Fin 8) (v : Word32)
  /-- COUNT_WRITE (R71): A write to a timer's COUNT sets it without causing a match or an overflow. -/
  | countWrite (id : MasterId) (page : Fin 12) (t : Fin 8) (v : Word32)
  /-- RELOAD_WRITE (R71): A write to a timer's RELOAD takes effect at once. -/
  | reloadWrite (id : MasterId) (page : Fin 12) (t : Fin 8) (v : Word32)
  /-- LINKED_COUNT_READ (R73): A read of a linked low half's COUNT samples both halves and latches the high half. -/
  | linkedCountRead (id : MasterId) (page : Fin 12) (t : Fin 8)
  /-- TIMER_STOP (R74): At the first slow-clock edge after sleep or VIGIL begins, a timer stops. -/
  | timerStop (page : Fin 12) (t : Fin 8)
  /-- TIMER_RESTART (R74): At the wake edge a timer restarts and adds the elapsed ticks in one step, setting its make-up flags. -/
  | timerRestart (page : Fin 12) (t : Fin 8) (elapsed : Nat)
  /-- NOP (R122): Does nothing. -/
  | nop (op : DisOp)
  /-- DUP (R122): Duplicates the top cell. -/
  | dup (op : DisOp)
  /-- DROP (R122): Removes the top cell. -/
  | drop (op : DisOp)
  /-- SWAP (R122): Exchanges the top two cells. -/
  | swap (op : DisOp)
  /-- OVER (R122): Pushes a copy of the second cell. -/
  | over (op : DisOp)
  /-- ROT (R122): Rotates the top three cells. -/
  | rot (op : DisOp)
  /-- NROT (R122): Rotates the top three cells the other way. -/
  | nrot (op : DisOp)
  /-- NIP (R122): Removes the second cell. -/
  | nip (op : DisOp)
  /-- TUCK (R122): Copies the top cell below the second cell. -/
  | tuck (op : DisOp)
  /-- PICK (R113): Pushes cell n, reaching below the window if needed. -/
  | pick (op : DisOp)
  /-- ROLL (R113): Moves cell n to the top. -/
  | roll (op : DisOp)
  /-- DEPTH (R113): Pushes the stack depth. -/
  | depth (op : DisOp)
  /-- DUP2 (R122): Duplicates the top two cells. -/
  | dup2 (op : DisOp)
  /-- DROP2 (R122): Removes the top two cells. -/
  | drop2 (op : DisOp)
  /-- SWAP2 (R122): Exchanges the top two pairs of cells. -/
  | swap2 (op : DisOp)
  /-- ZERO (R122): Pushes 0. -/
  | zero (op : DisOp)
  /-- ADD (R367): Adds a and b and sets the flags. -/
  | add (op : DisOp)
  /-- SUB (R367): Subtracts b from a and sets the flags. -/
  | sub (op : DisOp)
  /-- ADC (R367): Adds a, b and C. -/
  | adc (op : DisOp)
  /-- SBB (R367): Subtracts b and C from a. -/
  | sbb (op : DisOp)
  /-- NEG (R367): Negates a. -/
  | neg (op : DisOp)
  /-- INC (R367): Adds 1. -/
  | inc (op : DisOp)
  /-- DEC (R367): Subtracts 1. -/
  | dec (op : DisOp)
  /-- MUL (R367): Pushes the low w bits of the product. -/
  | mul (op : DisOp)
  /-- MULH (R367): Pushes the signed high half of the product. -/
  | mulh (op : DisOp)
  /-- MULHU (R367): Pushes the unsigned high half of the product. -/
  | mulhu (op : DisOp)
  /-- DIV (R369): Signed division pushing the quotient and the remainder, or trapping on a zero divisor. -/
  | div (op : DisOp)
  /-- DIVU (R369): Unsigned division pushing the quotient and the remainder. -/
  | divu (op : DisOp)
  /-- MIN (R367): Signed minimum. -/
  | min (op : DisOp)
  /-- MAX (R367): Signed maximum. -/
  | max (op : DisOp)
  /-- MINU (R367): Unsigned minimum. -/
  | minu (op : DisOp)
  /-- MAXU (R367): Unsigned maximum. -/
  | maxu (op : DisOp)
  /-- AND (R367): Bitwise AND. -/
  | and (op : DisOp)
  /-- OR (R367): Bitwise OR. -/
  | or (op : DisOp)
  /-- XOR (R367): Bitwise XOR. -/
  | xor (op : DisOp)
  /-- NOT (R367): Bitwise NOT. -/
  | not (op : DisOp)
  /-- ANDN (R367): a AND NOT b. -/
  | andn (op : DisOp)
  /-- SHL (R368): Shifts left. -/
  | shl (op : DisOp)
  /-- SHR (R368): Shifts right with zero fill. -/
  | shr (op : DisOp)
  /-- SAR (R368): Shifts right with sign fill. -/
  | sar (op : DisOp)
  /-- ROL (R368): Rotates left. -/
  | rol (op : DisOp)
  /-- ROR (R368): Rotates right. -/
  | ror (op : DisOp)
  /-- POPC (R368): Counts the one bits. -/
  | popc (op : DisOp)
  /-- CLZ (R368): Counts the leading zeros. -/
  | clz (op : DisOp)
  /-- CTZ (R368): Counts the trailing zeros. -/
  | ctz (op : DisOp)
  /-- BSWAP (R368): Reverses the bytes. -/
  | bswap (op : DisOp)
  /-- SEXT (R124): Sign-extends from the prefix width. -/
  | sext (op : DisOp)
  /-- ZEXT (R124): Zero-extends from the prefix width. -/
  | zext (op : DisOp)
  /-- EQ (R367): Pushes 1 if a = b, and sets the flags as SUB. -/
  | eq (op : DisOp)
  /-- NE (R367): Pushes 1 if a ≠ b. -/
  | ne (op : DisOp)
  /-- LT (R367): Signed less-than. -/
  | lt (op : DisOp)
  /-- LE (R367): Signed less-or-equal. -/
  | le (op : DisOp)
  /-- GT (R367): Signed greater-than. -/
  | gt (op : DisOp)
  /-- GE (R367): Signed greater-or-equal. -/
  | ge (op : DisOp)
  /-- LTU (R367): Unsigned less-than. -/
  | ltu (op : DisOp)
  /-- LEU (R367): Unsigned less-or-equal. -/
  | leu (op : DisOp)
  /-- GTU (R367): Unsigned greater-than. -/
  | gtu (op : DisOp)
  /-- GEU (R367): Unsigned greater-or-equal. -/
  | geu (op : DisOp)
  /-- CMP (R367): Sets the flags as a − b and pushes nothing. -/
  | cmp (op : DisOp)
  /-- TST (R367): Sets Z and N from a, and keeps a on the stack. -/
  | tst (op : DisOp)
  /-- SEL (R122): Pushes a or b according to c. -/
  | sel (op : DisOp)
  /-- LD (R125): A near or far load, zero-extended. -/
  | ld (op : DisOp)
  /-- LDS (R124): A sign-extending load. -/
  | lds (op : DisOp)
  /-- ST (R129): A store through the store buffer. -/
  | st (op : DisOp)
  /-- LDL (R127): LDLn pushes landing register n, or takes its pending error fault. -/
  | ldl (op : DisOp) (r : Fin 4)
  /-- LWAIT (R127): Waits until no landing register is pending, then takes any recorded error fault. -/
  | lwait (op : DisOp)
  /-- FENCE (R130): Waits until the store buffer is empty and all far write responses have returned. -/
  | fence (op : DisOp)
  /-- SWAPM (R131): Memory swap, atomic under ATOM. -/
  | swapm (op : DisOp)
  /-- CASM (R131): Compare-and-swap in memory. -/
  | casm (op : DisOp)
  /-- ADDM (R131): Adds to memory. -/
  | addm (op : DisOp)
  /-- ANDM (R131): ANDs into memory. -/
  | andm (op : DisOp)
  /-- ORM (R131): ORs into memory. -/
  | orm (op : DisOp)
  /-- XORM (R131): XORs into memory. -/
  | xorm (op : DisOp)
  /-- LDA (R115): Anchored load. -/
  | lda (op : DisOp)
  /-- LDA_POSTMOD (R115): Anchored load with post-modification of OFF (LDA+). -/
  | ldaPostmod (op : DisOp)
  /-- LDSA (R115): Anchored sign-extending load. -/
  | ldsa (op : DisOp)
  /-- LDSA_POSTMOD (R115): Anchored sign-extending load with post-modification (LDSA+). -/
  | ldsaPostmod (op : DisOp)
  /-- STA (R115): Anchored store. -/
  | sta (op : DisOp)
  /-- STA_POSTMOD (R115): Anchored store with post-modification (STA+). -/
  | staPostmod (op : DisOp)
  /-- ANLD (R114): Loads the base and control cell of an anchor and sets OFF to 0. -/
  | anld (op : DisOp)
  /-- ANOFF (R114): Pops an offset into OFF. -/
  | anoff (op : DisOp)
  /-- ANRD (R114): Pushes an anchor's base, control cell and OFF. -/
  | anrd (op : DisOp)
  /-- ANADR (R115): Pushes the effective address. -/
  | anadr (op : DisOp)
  /-- ANSTEP (R115): Applies the anchor update without an access. -/
  | anstep (op : DisOp)
  /-- RET (R122): Returns to a popped address. -/
  | ret (op : DisOp)
  /-- JMP (R122): Jumps to a popped address. -/
  | jmp (op : DisOp)
  /-- CALLI (R122): Indirect call. -/
  | calli (op : DisOp)
  /-- BRK (R122): Debug halt to Lantern, or a breakpoint fault when Lantern is not attached. -/
  | brk (op : DisOp)
  /-- RDRC (R122): Pushes RC. -/
  | rdrc (op : DisOp)
  /-- WRRC (R122): Pops into RC. -/
  | wrrc (op : DisOp)
  /-- RDFL (R110): Pushes FLAGS. -/
  | rdfl (op : DisOp)
  /-- WRFL (R110): Writes FLAGS. -/
  | wrfl (op : DisOp)
  /-- RDSP (R122): Pushes VSP. -/
  | rdsp (op : DisOp)
  /-- MOVB (R132): Byte copy of RC bytes, step by step. -/
  | movb (op : DisOp)
  /-- FILLB (R132): Byte fill of RC bytes. -/
  | fillb (op : DisOp)
  /-- CRCB (R132): CRC-32C over RC bytes. -/
  | crcb (op : DisOp)
  /-- CMPB (R132): Byte compare over RC bytes, stopping at the first unequal byte. -/
  | cmpb (op : DisOp)
  /-- PUSHI (R120): Pushes a sign-extended immediate. -/
  | pushi (op : DisOp) (imm : Imm)
  /-- PUSHU (R120): Pushes a zero-extended immediate. -/
  | pushu (op : DisOp) (imm : Imm)
  /-- ADDI (R120): Adds an immediate. -/
  | addi (op : DisOp) (imm : Imm)
  /-- ANDI (R120): ANDs with an immediate. -/
  | andi (op : DisOp) (imm : Imm)
  /-- ORI (R120): ORs with an immediate. -/
  | ori (op : DisOp) (imm : Imm)
  /-- LDD (R120): Anchored load with a displacement. -/
  | ldd (op : DisOp) (imm : Imm)
  /-- STD (R120): Anchored store with a displacement. -/
  | std (op : DisOp) (imm : Imm)
  /-- BR (R120): Branch. -/
  | br (op : DisOp) (imm : Imm)
  /-- BZ (R120): Branch if zero. -/
  | bz (op : DisOp) (imm : Imm)
  /-- BNZ (R120): Branch if not zero. -/
  | bnz (op : DisOp) (imm : Imm)
  /-- CALL (R120): Pushes the return address and branches. -/
  | call (op : DisOp) (imm : Imm)
  /-- LOOP (R120): Decrements RC and branches while RC is not 0. -/
  | loop (op : DisOp) (imm : Imm)
  /-- SYNC_I (R137): Commits the code-write buffer, waits until it reaches ITCM and refetches. -/
  | syncI (op : DisOp)
  /-- SYNC_C (R139): Applies the pending control-register writes after the pipeline drains. -/
  | syncC (op : DisOp)
  /-- GATE (R329): Checks a gate descriptor, pushes a frame and enters the gate code. -/
  | gate (op : DisOp)
  /-- RETE (R338): Checks and pops a frame, restores the FROM context and resumes context TO. -/
  | rete (op : DisOp)
  /-- CSW (R122): Switches to another enabled ordinary context. -/
  | csw (op : DisOp)
  /-- WAIT (R335): The context waits, and the core sleeps, until an event is routed to the core. -/
  | wait (op : DisOp)
  /-- CHKST (R363): Pushes a CRC-64 digest of the context's architectural state. -/
  | chkst (op : DisOp)
  /-- BANKRD (R343): Reads an item of the windowed context. -/
  | bankrd (op : DisOp)
  /-- BANKWR (R343): Writes an item of the windowed context. -/
  | bankwr (op : DisOp)
  /-- MFCR (R138): Pushes a control register. -/
  | mfcr (op : DisOp) (reg : BitVec 8)
  /-- MTCR (R139): Writes a control register, at once or pending until SYNC.C. -/
  | mtcr (op : DisOp) (reg : BitVec 8)
  /-- DADD (R379): Packed decimal add. -/
  | dadd (op : DisOp)
  /-- DSUB (R379): Packed decimal subtract. -/
  | dsub (op : DisOp)
  /-- DCHK (R381): Checks the digits of a decimal cell. -/
  | dchk (op : DisOp)
  /-- DTOB (R382): Decimal to binary conversion. -/
  | dtob (op : DisOp)
  /-- BTOD (R382): Binary to decimal conversion. -/
  | btod (op : DisOp)
  /-- FADD (R372): Floating add. -/
  | fadd (op : DisOp)
  /-- FSUB (R372): Floating subtract. -/
  | fsub (op : DisOp)
  /-- FMUL (R372): Floating multiply. -/
  | fmul (op : DisOp)
  /-- FDIV (R374): Floating divide. -/
  | fdiv (op : DisOp)
  /-- FSQRT (R374): Floating square root. -/
  | fsqrt (op : DisOp)
  /-- FMA (R371): Fused multiply-add. -/
  | fma (op : DisOp)
  /-- FMIN (R375): minimumNumber. -/
  | fmin (op : DisOp)
  /-- FMAX (R375): maximumNumber. -/
  | fmax (op : DisOp)
  /-- FEQ (R375): Quiet equality comparison. -/
  | feq (op : DisOp)
  /-- FLT (R375): Less-than comparison. -/
  | flt (op : DisOp)
  /-- FLE (R375): Less-or-equal comparison. -/
  | fle (op : DisOp)
  /-- FNEG (R373): Inverts the sign bit. -/
  | fneg (op : DisOp)
  /-- FABS (R373): Clears the sign bit. -/
  | fabs (op : DisOp)
  /-- FCLASS (R375): Pushes the class mask. -/
  | fclass (op : DisOp)
  /-- FCVT_I (R376): Float to signed integer. -/
  | fcvtI (op : DisOp)
  /-- FCVT_F (R376): Signed integer to float. -/
  | fcvtF (op : DisOp)
  /-- FWIDEN (R376): binary32 to binary64. -/
  | fwiden (op : DisOp)
  /-- FNARROW (R376): binary64 to binary32. -/
  | fnarrow (op : DisOp)
  /-- INTERRUPT_ENTRY (R339): An event above MASK at the port enters context 6 and the handler reaches D in 14 cycles. -/
  | interruptEntry (n : Fin 8)
  /-- SPILL_ENGINE_SPILL (R111): While OCC > 28 the engine writes the deepest window cell to stack memory. -/
  | spillEngineSpill (n : Fin 8)
  /-- SPILL_ENGINE_FILL (R111): While OCC < 4 the engine reads a cell from stack memory into the window, marking poisoned cells. -/
  | spillEngineFill (n : Fin 8)
  /-- FAR_LOAD_RETURN (R127): Far load data, or an error, arrives and lands in the issuing context's landing register. -/
  | farLoadReturn (n : Fin 8) (c : Fin 8) (r : Fin 4)
  /-- STORE_BUFFER_DRAIN (R129): An entry leaves the store buffer into DTCM or to the matrix. -/
  | storeBufferDrain (n : Fin 8)
  /-- CWB_LINE_WRITE (R137): A committed code-write buffer line is written into ITCM. -/
  | cwbLineWrite (n : Fin 8)
  /-- CORE_WARM_RESET (R337): A core or lockstep pair is reset to the R108 state, by TUR_CTL.WRST or a reset reason. -/
  | coreWarmReset (n : Fin 8)
  /-- VDLD (R153): Pushes a descriptor read from memory. -/
  | vdld (op : DisOp)
  /-- VDST (R153): Stores the top descriptor. -/
  | vdst (op : DisOp)
  /-- VDDROP (R153): Removes the top descriptor. -/
  | vddrop (op : DisOp)
  /-- VDDUP (R180): Duplicates the top descriptor. -/
  | vddup (op : DisOp)
  /-- VDSWAP (R180): Exchanges the top two descriptors. -/
  | vdswap (op : DisOp)
  /-- VGO (R155): Checks the open group and issues it to the admission queue. -/
  | vgo (op : DisOp)
  /-- VWAIT (R159): Waits for the admitted group and pushes its results, or handles its halt. -/
  | vwait (op : DisOp)
  /-- VEND (R165): Ends a program with a status code. -/
  | vend (op : DisOp)
  /-- VLDC (R182): Cell load. -/
  | vldc (op : DisOp)
  /-- VSTC (R182): Cell store. -/
  | vstc (op : DisOp)
  /-- VCGET (R183): Reads a coefficient-RAM cell. -/
  | vcget (op : DisOp)
  /-- VCPUT (R183): Writes a coefficient-RAM cell. -/
  | vcput (op : DisOp)
  /-- VMBRING (R184): Rings a mailbox doorbell. -/
  | vmbring (op : DisOp)
  /-- VMBWAIT (R184): Waits for doorbell bits. -/
  | vmbwait (op : DisOp)
  /-- VONF (R180): Arms or disarms the group-fault handler. -/
  | vonf (op : DisOp)
  /-- VFREC (R203): Pushes a fault-record word. -/
  | vfrec (op : DisOp)
  /-- VFDESC (R213): Pushes a descriptor of the fault image. -/
  | vfdesc (op : DisOp)
  /-- VRESUME (R212): Rebuilds the fault image from the watermark and admits it. -/
  | vresume (op : DisOp)
  /-- VDGET (R181): Pushes a field of the top descriptor. -/
  | vdget (op : DisOp) (field : BitVec 8)
  /-- VDSET (R181): Writes a field of the top descriptor. -/
  | vdset (op : DisOp) (field : BitVec 8)
  /-- VADD (R187): Wrapping element add. -/
  | vadd (op : DisOp)
  /-- VSUB (R187): Wrapping element subtract. -/
  | vsub (op : DisOp)
  /-- VADDS (R188): Signed saturating add. -/
  | vadds (op : DisOp)
  /-- VSUBS (R188): Signed saturating subtract. -/
  | vsubs (op : DisOp)
  /-- VADDUS (R188): Unsigned saturating add. -/
  | vaddus (op : DisOp)
  /-- VSUBUS (R188): Unsigned saturating subtract. -/
  | vsubus (op : DisOp)
  /-- VMIN (R187): Signed element minimum. -/
  | vmin (op : DisOp)
  /-- VMAX (R187): Signed element maximum. -/
  | vmax (op : DisOp)
  /-- VMINU (R187): Unsigned element minimum. -/
  | vminu (op : DisOp)
  /-- VMAXU (R187): Unsigned element maximum. -/
  | vmaxu (op : DisOp)
  /-- VAND (R187): Element AND. -/
  | vand (op : DisOp)
  /-- VOR (R187): Element OR. -/
  | vor (op : DisOp)
  /-- VXOR (R187): Element XOR. -/
  | vxor (op : DisOp)
  /-- VANDN (R187): Element AND NOT. -/
  | vandn (op : DisOp)
  /-- VNOT (R187): Element NOT. -/
  | vnot (op : DisOp)
  /-- VPOPC (R187): Element population count. -/
  | vpopc (op : DisOp)
  /-- VSHL (R188): Element shift left. -/
  | vshl (op : DisOp)
  /-- VSHR (R188): Element shift right. -/
  | vshr (op : DisOp)
  /-- VSAR (R188): Element arithmetic shift right. -/
  | vsar (op : DisOp)
  /-- VROL (R188): Element rotate left. -/
  | vrol (op : DisOp)
  /-- VROR (R188): Element rotate right. -/
  | vror (op : DisOp)
  /-- VCMPEQ (R187): Element equality compare. -/
  | vcmpeq (op : DisOp)
  /-- VCMPNE (R187): Element inequality compare. -/
  | vcmpne (op : DisOp)
  /-- VCMPLT (R188): Signed element less-than compare. -/
  | vcmplt (op : DisOp)
  /-- VCMPLTU (R188): Unsigned element less-than compare. -/
  | vcmpltu (op : DisOp)
  /-- VSEL (R188): Element select. -/
  | vsel (op : DisOp)
  /-- VCOPY (R187): Element copy. -/
  | vcopy (op : DisOp)
  /-- VFILL (R188): Element fill. -/
  | vfill (op : DisOp)
  /-- VPERM (R189): Permutes the elements within each step. -/
  | vperm (op : DisOp)
  /-- VGFMUL (R190): GF multiply. -/
  | vgfmul (op : DisOp)
  /-- VGFMULS (R190): GF multiply by a scalar. -/
  | vgfmuls (op : DisOp)
  /-- VGFMAC (R190): GF multiply-accumulate. -/
  | vgfmac (op : DisOp)
  /-- VGFINV (R187): GF inverse. -/
  | vgfinv (op : DisOp)
  /-- VGFMATX (R192): GF matrix apply. -/
  | vgfmatx (op : DisOp)
  /-- VBFLY (R193): Additive-FFT butterfly. -/
  | vbfly (op : DisOp)
  /-- VIBFLY (R193): Inverse butterfly. -/
  | vibfly (op : DisOp)
  /-- VPMUL (R194): GF(2^32) pair multiply. -/
  | vpmul (op : DisOp)
  /-- VCLD (R195): Stores a stream to the coefficient RAM. -/
  | vcld (op : DisOp)
  /-- VCRD (R195): Reads a stream from the coefficient RAM. -/
  | vcrd (op : DisOp)
  /-- VCRC32C (R197): Folds CRC-32C state over the stream. -/
  | vcrc32c (op : DisOp)
  /-- VCRC64 (R197): Folds CRC-64 state over the stream. -/
  | vcrc64 (op : DisOp)
  /-- VSHA256 (R198): Applies the SHA-256 compression function. -/
  | vsha256 (op : DisOp)
  /-- VGHASH (R198): Applies the GHASH update. -/
  | vghash (op : DisOp)
  /-- VAESX (R200): AES-256-XTS. -/
  | vaesx (op : DisOp)
  /-- VAESG (R201): AES-256-GCM in its AAD, ENC, DEC or TAG phase. -/
  | vaesg (op : DisOp)
  /-- VRXOR (R187): XOR reduction. -/
  | vrxor (op : DisOp)
  /-- VRADD (R187): Sum reduction. -/
  | vradd (op : DisOp)
  /-- VRFMIS (R187): First-mismatch reduction. -/
  | vrfmis (op : DisOp)
  /-- VRNZ (R187): Non-zero count reduction. -/
  | vrnz (op : DisOp)
  /-- SPR_GO (R164): A write of GO to SPR_CCTL starts a turret-owned spire context. -/
  | sprGo (id : MasterId) (sp : Fin 8) (c : Fin 4)
  /-- SPR_STOP (R167): A write of STOP to SPR_CCTL stops a spire context or clears its FAULT state. -/
  | sprStop (id : MasterId) (sp : Fin 8) (c : Fin 4)
  /-- SPIRE_RESET (R173): A write to SPR_CTL.SRST discards the spire's groups, idles its contexts and aborts its commands. -/
  | spireReset (id : MasterId) (sp : Fin 8)
  /-- PINV (R168): A write to SPR_CTL.PINV invalidates the program buffer. -/
  | pinv (id : MasterId) (sp : Fin 8)
  /-- PROGRAM_FETCH (R168): A program-buffer miss fetches program text, or raises a fetch fault. -/
  | programFetch (sp : Fin 8) (c : Fin 4)
  /-- GROUP_ADMIT (R161): The next admitted group starts when the previous group completes. -/
  | groupAdmit (sp : Fin 8)
  /-- GROUP_STEP (R157): A running group moves E elements of every stream. -/
  | groupStep (sp : Fin 8)
  /-- GROUP_COMPLETE (R160): A group completes after its last write response, and its XF state is written back. -/
  | groupComplete (sp : Fin 8)
  /-- GROUP_HALT (R207): A halting fault stops the group, drains it, writes the fault record and ends the group. -/
  | groupHalt (sp : Fin 8)
  /-- FENCED_SET (R175): A fenced spire with every context IDLE or FAULT and no group sets STAT.FENCED. -/
  | fencedSet (sp : Fin 8)
  /-- QUEUE_CONTEXT_WRITE (R251): A master write to a queue context, checked for binding and for enable (R252). -/
  | queueContextWrite (id : MasterId) (q : BitVec 18) (off : BitVec 6) (data : List Byte) (upset : Upset)
  /-- ECOMMIT (R26): A commit write swaps the active and shadow halves of a stripe program table entry and invalidates program buffers. -/
  | ecommit (id : MasterId) (entry : Byte) (v : Word32)
  /-- TENANT_TABLE_WRITE (R268): A write to a tenant-table entry, refused if it changes TENANT while a bound queue is enabled. -/
  | tenantTableWrite (id : MasterId) (slot : BitVec 12) (v : Word32)
  /-- SQ_DOORBELL (R258): A write to QST_SQDB sets SQTAIL of the selected queue. -/
  | sqDoorbell (id : MasterId) (v : Word32)
  /-- CQ_DOORBELL (R258): A write to QST_CQDB sets CQHEAD of the selected queue. -/
  | cqDoorbell (id : MasterId) (v : Word32)
  /-- SUBMISSION_INTAKE (R259): The queue engine reads the entry at SQHEAD and forms an immediate completion or a held command. -/
  | submissionIntake (q : BitVec 18) (upset : Upset)
  /-- SCHEDULER_SELECTION (R267): In a queue-engine cycle the scheduler selects an eligible queue by class, tenant and queue. -/
  | schedulerSelection
  /-- COMPLETION_WRITE (R256): The queue engine caches, mirrors and writes a completion, advances CQTAIL and frees the in-flight entry. -/
  | completionWrite (entry : BitVec 13)
  /-- GET (R230): Reads and, if needed, decodes a stripe, then decrypts it into BUF. -/
  | get (sp : Fin 8) (c : Fin 4) (io : StripeIo)
  /-- PUT (R227): Encrypts and encodes an object, mirrors it, completes and writes the shards. -/
  | put (sp : Fin 8) (c : Fin 4) (io : StripeIo)
  /-- ENCODE (R244): Computes parity for a range in a work area. -/
  | encode (sp : Fin 8) (c : Fin 4) (io : StripeIo)
  /-- RECON (R233): Rebuilds lost shards from a repair set or from device-formed rows. -/
  | recon (sp : Fin 8) (c : Fin 4) (io : StripeIo)
  /-- VERIFY (R240): Checks every shard and optionally the parity, and writes a result record. -/
  | verify (sp : Fin 8) (c : Fin 4) (io : StripeIo)
  /-- SCRUB (R241): Verifies as VERIFY but skips shards of sets that are down. -/
  | scrub (sp : Fin 8) (c : Fin 4) (io : StripeIo)
  /-- ACCUM_OUT (R236): Builds an output carry from the local survivors. -/
  | accumOut (sp : Fin 8) (c : Fin 4) (io : StripeIo)
  /-- ACCUM_IN (R237): Validates a carry, contributes to it and writes the lost shards when complete. -/
  | accumIn (sp : Fin 8) (c : Fin 4) (io : StripeIo)
  /-- TRANSCODE (R239): Converts G old stripes into one new stripe. -/
  | transcode (sp : Fin 8) (c : Fin 4) (io : StripeIo)
  /-- SPIN (R244): Queue-engine command requesting a spin-up or spin-down of a power set. -/
  | spin (entry : BitVec 13)
  /-- FLUSH (R244): Queue-engine command sending SYNCHRONIZE CACHE to a set's drives. -/
  | flush (entry : BitVec 13)
  /-- PROG (R242): Runs the operator program of entry 0x80 + selector. -/
  | prog (sp : Fin 8) (c : Fin 4)
  /-- READ_16 (R272): Ring request sending READ(16) to a drive. -/
  | read16 (r : Fin 48)
  /-- WRITE_16 (R272): Ring request sending WRITE(16) to a drive. -/
  | write16 (r : Fin 48)
  /-- SYNCHRONIZE_CACHE_16 (R272): Request sending SYNCHRONIZE CACHE(16) to a drive. -/
  | synchronizeCache16 (sender : DriveFrom)
  /-- START_STOP_UNIT (R272): PWR sends START STOP UNIT to start or stop a drive. -/
  | startStopUnit
  /-- LOG_SENSE (R272): Ring request for LOG SENSE. -/
  | logSense (r : Fin 48)
  /-- MODE_SENSE_10 (R272): Ring request for MODE SENSE(10). -/
  | modeSense10 (r : Fin 48)
  /-- MODE_SELECT_10 (R272): Ring request for MODE SELECT(10). -/
  | modeSelect10 (r : Fin 48)
  /-- PERSISTENT_RESERVE_IN (R272): Ring request for PERSISTENT RESERVE IN. -/
  | persistentReserveIn (r : Fin 48)
  /-- PERSISTENT_RESERVE_OUT (R292): The fencing engine sends PERSISTENT RESERVE OUT. -/
  | persistentReserveOut
  /-- INQUIRY (R272): Request for INQUIRY. -/
  | inquiry (sender : DriveFrom)
  /-- REPORT_LUNS (R272): Request for REPORT LUNS. -/
  | reportLuns (sender : DriveFrom)
  /-- TEST_UNIT_READY (R285): Request for TEST UNIT READY, sent also once per mcy while a set spins up. -/
  | testUnitReady (sender : DriveFrom)
  /-- REQUEST_SENSE (R272): Request for REQUEST SENSE. -/
  | requestSense (sender : DriveFrom)
  /-- REPORT_ZONES (R272): Ring request for REPORT ZONES. -/
  | reportZones (r : Fin 48)
  /-- CLOSE_ZONE (R272): Ring request for CLOSE ZONE. -/
  | closeZone (r : Fin 48)
  /-- FINISH_ZONE (R272): Ring request for FINISH ZONE. -/
  | finishZone (r : Fin 48)
  /-- OPEN_ZONE (R272): Ring request for OPEN ZONE. -/
  | openZone (r : Fin 48)
  /-- RESET_WRITE_POINTER (R272): Ring request for RESET WRITE POINTER. -/
  | resetWritePointer (r : Fin 48)
  /-- DRIVE_REQUEST_COMPLETE (R276): A drive request ends; W5 and W7 are written with OWNER = 3 and the doorbell is rung. -/
  | driveRequestComplete (port : Fin 240) (place : Fin 32) (answer : DriveAnswer)
  /-- COMMAND_TIMEOUT (R276): A drive command has no response within SASP_TMO and is aborted with TIMEOUT. -/
  | commandTimeout (port : Fin 240) (place : Fin 32)
  /-- SASP_RBASE_WRITE (R294): A write to a ring base enables or disables a drive request ring, and enabling sets HEAD to 0. -/
  | saspRbaseWrite (id : MasterId) (r : Fin 48) (v : Word32)
  /-- PORT_EN (R279): A write of 1 to a port's CTL.EN raises PORT_EN in its link program. -/
  | portEn (id : MasterId) (port : Fin 240)
  /-- PORT_RESET (R294): A write to CTL.PRST aborts the port's requests and raises PORT_RESET. -/
  | portReset (id : MasterId) (port : Fin 240)
  /-- DISABLE (R279): CTL.EN written 0, or a lasting fault, raises DISABLE. -/
  | disable (id : MasterId) (port : Fin 240)
  /-- TIMEOUT (R279): A link-program timer expires. -/
  | timeout (port : Fin 240)
  /-- COMINIT_RX (R279): COMINIT is received. -/
  | cominitRx (port : Fin 240)
  /-- COMSAS_RX (R279): COMSAS is received. -/
  | comsasRx (port : Fin 240)
  /-- COMWAKE_RX (R279): COMWAKE is received. -/
  | comwakeRx (port : Fin 240)
  /-- SNW_PASS (R279): Speed negotiation passes. -/
  | snwPass (port : Fin 240)
  /-- SNW_FAIL (R279): Speed negotiation fails. -/
  | snwFail (port : Fin 240)
  /-- IDENT_RX (R279): A valid IDENTIFY address frame is received. -/
  | identRx (port : Fin 240) (addr : BitVec 64)
  /-- SATA_SIG (R279): A SATA signature is received. -/
  | sataSig (port : Fin 240)
  /-- DWSYNC_LOST (R279): Dword sync is lost. -/
  | dwsyncLost (port : Fin 240)
  /-- HARD_RESET_RX (R279): A hard reset is received. -/
  | hardResetRx (port : Fin 240)
  /-- BAY_OFF (R283): Presence is lost or bay power is removed. -/
  | bayOff (port : Fin 240)
  /-- ERR_RATE (R279): More than ERRTH invalid dwords arrive in one mcy. -/
  | errRate (port : Fin 240)
  /-- LINK_PROGRAM_WRITE (R281): A write to a link-program entry, held on the low word and committed on the high word within the allowed changes. -/
  | linkProgramWrite (id : MasterId) (group : Fin 30) (entry : Fin 128) (high : Bool) (v : Word32)
  /-- PRESENCE_CHANGE (R282): A debounced change of BAY_PRSNT_N is accepted. -/
  | presenceChange (port : Fin 240) (seated : Bool)
  /-- SPIN_UP_REQUEST (R285): A PWR_SCMD write or SPIN with the up bit requests spin-up of a set. -/
  | spinUpRequest (id : MasterId) (set : Fin 64)
  /-- SPIN_DOWN_REQUEST (R285): A PWR_SCMD write or SPIN with the down bit requests spin-down of a set. -/
  | spinDownRequest (id : MasterId) (set : Fin 64)
  /-- BAY_POWER_ON (R285): In POWERING, PWR raises BAY_PWR_EN of the next live member at a Belfry slot. -/
  | bayPowerOn
  /-- LINK_UP_TIMEOUT (R285): A powered member that is not up within 200 mcy is excluded with reason LINK. -/
  | linkUpTimeout (port : Fin 240)
  /-- SPUTMO_EXPIRY (R285): A started member that is not ready after SPUTMO mcy is excluded with reason NOTREADY. -/
  | sputmoExpiry (port : Fin 240)
  /-- ADMISSION (R289): At a half-cycle boundary PWR binds queued members to comparators where the predicted inrush fits. -/
  | admission
  /-- FEEDBACK_UPDATE (R290): At h0 + 250 µs PWR updates CORR from the peak reading, or marks the feedback stale; it acts on over-budget (R291). -/
  | feedbackUpdate
  /-- REARM (R286): A write of SET_CTL.REARM ends DROPHOLD and sets the ready flag again. -/
  | rearm (id : MasterId) (set : Fin 64)
  /-- FENCE_REGISTER (R292): A write of SASP_FCTL.REG registers and reserves every live drive. -/
  | fenceRegister (id : MasterId)
  /-- PREEMPT (R293): A write of SASP_FCTL.PREEMPT preempts the partner's key on every live drive. -/
  | preempt (id : MasterId)
  /-- PWR_DREQ_WRITE (R48): A request to turn power domains on or off, refused if it breaks the dependency order. -/
  | pwrDreqWrite (id : MasterId) (word : Fin 6) (v : Word32)
  /-- REQ (R301): A CST request frame is answered from its window, submitted, or given a new window. -/
  | req (port : Fin 8) (frame : List Byte)
  /-- DATA (R303): A DATA frame is accepted into a window's inbound part, and the entry is submitted once the window is complete. -/
  | data (port : Fin 8) (frame : List Byte)
  /-- CREDIT (R304): A client CREDIT frame raises the outbound send limit. -/
  | credit (port : Fin 8) (frame : List Byte)
  /-- CREDIT_TIMER (R303): 50 µs after the last accepted frame the device sends CREDIT. -/
  | creditTimer (win : Fin 4096)
  /-- OUTBOUND_COMPLETION (R304): The port consumes a completion and sends the outbound DATA or RESP. -/
  | outboundCompletion (q : BitVec 18)
  /-- DATA_RETRANSMIT (R304): A DATA frame not covered by CREDIT within ETHP_RTO is sent again. -/
  | dataRetransmit (win : Fin 4096) (page : Nat)
  /-- RESP (R304): RESP is sent again every ETHP_RTO until a RACK, and the window is freed after ETHP_RSPTRY tries. -/
  | resp (win : Fin 4096)
  /-- RACK (R304): A RACK frees the window. -/
  | rack (port : Fin 8) (frame : List Byte)
  /-- SLOW_PATH_RX (R298): A non-CST frame is placed in the slow-path receive ring. -/
  | slowPathRx (port : Fin 8) (frame : List Byte)
  /-- SLOW_PATH_TX (R298): A write of the slow-path transmit TAIL sends the queued frames. -/
  | slowPathTx (id : MasterId) (port : Fin 8) (v : Word32)
  /-- MREQ (R313): A management request is executed with Operator rights, or its stored MRESP is returned. -/
  | mreq (mg : Fin 2) (peer frame : List Byte)
  /-- FLIT_RX (R307): A received flit is accepted in order, or answered with NAK. -/
  | flitRx (port : Fin 4) (flit : List Byte)
  /-- FLIT_RESEND (R307): On NAK or after 4 µs without progress, the sender resends from ACKSEQ. -/
  | flitResend (port : Fin 4)
  /-- PAIR_PORT_DOWN (R307): No valid flit has arrived for 10 µs, so the port is down. -/
  | pairPortDown (port : Fin 4)
  /-- JOIN (R317): A JOIN record is received and the host accepts or refuses it. -/
  | join (port : Fin 4)
  /-- JOINRSP (R317): A JOINRSP gives the joiner its outcome. -/
  | joinrsp (port : Fin 4)
  /-- RESYNC_DONE (R317): The resync copy ends; both devices enter PAIRED with the new epoch. -/
  | resyncDone
  /-- HB (R314): A heartbeat is received; the phase offset and the cycle difference are updated. -/
  | hb (port : Fin 4) (rtt : BitVec 16)
  /-- LOSS (R315): The second missed heartbeat window ends and the device takes over or fences itself. -/
  | loss
  /-- MIRROR_REQUEST (R310): The pair DMA serves a mirror ring request by sending WAB and JREC. -/
  | mirrorRequest (ring : Fin 32)
  /-- WAB (R310): The partner writes a write-ahead chunk into its mirror region. -/
  | wab (port : Fin 4)
  /-- JREC (R310): The partner writes the journal record and returns MACK after the writes. -/
  | jrec (port : Fin 4) (slot : BitVec 16)
  /-- MACK (R310): The mirror request completes with GOOD. -/
  | mack (port : Fin 4)
  /-- QDELTA (R311): The partner applies a queue delta and sends DACK. -/
  | qdelta (port : Fin 4)
  /-- DACK (R311): The home device's completion proceeds past step 2. -/
  | dack (port : Fin 4)
  /-- RETIRE (R310): A journal slot is freed on the receiving device. -/
  | retire (port : Fin 4)
  /-- PSTATE (R283): The non-master takes the set states and ready flags from the master. -/
  | pstate (port : Fin 4)
  /-- RESYNC (R317): A bulk copy chunk for the loser's resync. -/
  | resync (port : Fin 4) (send : Option (BitVec 48))
  /-- HOMESET (R312): The partner sets or clears HOME of a queue. -/
  | homeset (port : Fin 4)
  /-- HOMEREQ (R312): A write of PAIR_HOMEREQ moves a queue's home while PAIRED. -/
  | homereq (id : MasterId) (v : Word32)
  /-- LEASE_REQ (R320): The device requests or renews the witness lease. -/
  | leaseReq
  /-- LEASE_GRANT (R320): The witness grants the lease, and a fenced device takes over. -/
  | leaseGrant (mg : Fin 2) (frame : List Byte) (elapsed : BitVec 16)
  /-- LEASE_DENY (R320): The witness denies the lease. -/
  | leaseDeny (mg : Fin 2) (frame : List Byte)
  /-- LEASE_LAPSE (R320): The lease expires while the device is SOLO and the link is lost, so the device fences itself. -/
  | leaseLapse
  /-- PAIR_RECOVERY (R360): The Keep acts on a comparator halt with a pair warm reset, or takes the pair offline. -/
  | pairRecovery (p : Fin 4) (self : Option (Fin 8))
  /-- INJECTION_TEST (R362): A Keep write of CMP_INJ forces a difference in one comparator group. -/
  | injectionTest (id : MasterId) (p : Fin 4) (groups : BitVec 8) (fails : BitVec 8)
  /-- SOFTWARE_EVENT_SET (R385): A write to EVT_SWSET raises software events. -/
  | softwareEventSet (id : MasterId) (reg : Fin 4) (v : Word32)
  /-- ROUTE_WRITE (R386): A write of an event route word, checked for level and vector. -/
  | routeWrite (id : MasterId) (src : Fin 512) (v : Word32)
  /-- BINDING_WRITE (R392): A write of a mailbox binding word binds or unbinds a channel. -/
  | bindingWrite (id : MasterId) (ch : Fin 64) (v : Word32)
  /-- MB_TXLO (R394): Stages the low word of the next outbound message. -/
  | mbTxlo (id : MasterId) (ch : Fin 64) (v : Word32)
  /-- MB_TXHI (R394): Pushes a message onto the outbound queue, or sets TXOVF. -/
  | mbTxhi (id : MasterId) (ch : Fin 64) (v : Word32)
  /-- POP (R394): Removes the inbound head message, or sets RXUNF. -/
  | pop (id : MasterId) (ch : Fin 64)
  /-- MB_RING (R395): Sets bits of the other side's doorbell. -/
  | mbRing (id : MasterId) (ch : Fin 64) (v : Word32)
  /-- MB_WAIT (R396): A write of MB_CTL.WAIT sets this side's wait to push. -/
  | mbWait (id : MasterId) (ch : Fin 64) (v : Word32)
  /-- LOCK_READ (R399): A read of a lock register acquires it or reports it held. -/
  | lockRead (id : MasterId) (n : Fin 16)
  /-- LOCK_RELEASE (R400): The owner's write of 0, or the Keep's force-release, frees a lock. -/
  | lockRelease (id : MasterId) (n : Fin 16) (v : Word32)
  /-- BUCKET_SHIFT (R401): After B ticks a page's buckets shift and the oldest is dropped. -/
  | bucketShift (page : BitVec 12)
  /-- LASTING_FAULT_DECLARATION (R402): The fault manager declares a lasting fault, logs it and starts the page's action. -/
  | lastingFaultDeclaration (page : BitVec 12)
  /-- EVPOP (R426): A write of CUPW_EVPOP removes the head Cupola message. -/
  | evpop (id : MasterId)
  /-- ALIGN (R424): The Cupola takes a snapshot with the given tag and sends SNAP. -/
  | align (master : Bool)
  /-- SIGN (R421): The Cupola writes a signed record within 60 ms and sends SIGNED. -/
  | sign
  /-- PING (R424): The Cupola answers with PONG. -/
  | ping
  /-- SNAPINT (R424): Sets the periodic snapshot interval. -/
  | snapint
  /-- SNAPSHOT (R423): Every SNAPINT ms the Cupola updates the window bracketed by CW_SEQ. -/
  | snapshot
  /-- SAMPLE (R411): At 8,000 samples/s the Cupola forms per-channel power and integrates energy. -/
  | sample (c0 c1 c2 c3 : CupSample)
  /-- HALF_CYCLE_PEAK (R413): At the end of a half-cycle the peak readings are published and streamed to PWR. -/
  | halfCyclePeak
  /-- PHASE_MARK (R414): The Cupola emits a mark at the predicted positive crossing of CUP_V0. -/
  | phaseMark (elapsed : Nat)
  /-- SELF_CHECK (R415): The once-per-second reference self-check sets ACC_OK. -/
  | selfCheck (pass : Bool)
  /-- WARM_UP_END (R415): 60 mcy after ready or brown-out the warm-up ends. -/
  | warmUpEnd
  /-- IDENT (R418): Calibration port command returning identification. -/
  | ident
  /-- RDPARAM (R418): Calibration port command returning a parameter. -/
  | rdparam (param : Byte)
  /-- WRPARAM (R418): Logs and writes a calibration parameter. -/
  | wrparam (param : Byte) (v : Word32)
  /-- SEAL (R418): Logs the seal and blows the seal fuse. -/
  | sealCal
  /-- RDLOG (R418): Returns an audit entry. -/
  | rdlog (entry : Byte)
  /-- CALEN_CHANGE (R419): A change of CUP_CAL_EN is logged. -/
  | calenChange (level : Bool)
  /-- BROWN_OUT (R420): CUP_VDD falls below 2.95 V and the registers are saved from the hold-up store. -/
  | brownOut (done lost : Bool)
  /-- PERIODIC_SAVE (R420): Every 3,600 operating seconds the registers are written to non-volatile storage. -/
  | periodicSave
  /-- CUPOLA_POWER_UP (R420): The Cupola restores its last save, logs pending events and becomes ready. -/
  | cupolaPowerUp (calen : Bool)
  /-- POWER_ON_RESET (R432): Release of power-on reset runs the cold start through training. -/
  | powerOnReset (io : StartIo)
  /-- RELEASE (R443): At step 6 the Keep sets REMAP and RSVC and releases the turrets. -/
  | release
  /-- FULL_SERVICE (R446): When MODE becomes WIDE the Keep commits the full programs and clears RSVC. -/
  | fullService
  /-- DEVICE_WARM_RESET (R449): DWRST, RST_N or an image retry resets the device while keeping DRAM and Belfry state. -/
  | deviceWarmReset (src : WarmSource) (io : StartIo)
  /-- VIGIL_REQUEST (R430): A write of 1 to PWR_PSREQ.REQ runs the entry to VIGIL. -/
  | vigilRequest (id : MasterId)
  /-- OFF_REQUEST (R430): A write of 0 to PWR_PSREQ.REQ runs the entry to OFF. -/
  | offRequest (id : MasterId)
  /-- WAKE (R431): An enabled wake source resumes from VIGIL, or cancels an entry in progress. -/
  | wake (src : WakeSource) (io : StartIo)
  /-- VIN12_LOSS (R431): Loss of the 12 V main input enters OFF at once. -/
  | vin12Loss
  /-- VAUX33_LOSS (R460): Loss of VAUX33 holds power-on reset. -/
  | vaux33Loss
  /-- THERMAL_TRIP (R465): At 115 °C the device enters OFF and drives FAULT_N low. -/
  | thermalTrip
  /-- THERM_N (R465): THERM_N is driven at 100 °C and released below 97 °C. -/
  | thermN (hot : Bool)
  /-- SVNUP (R433): A Custody write blows the next SVN fuse bit. -/
  | svnup (id : MasterId)
  /-- KS_LOAD (R448): KS_CMD LOAD unwraps a key blob into a slot. -/
  | ksLoad (id : MasterId) (v : Word32)
  /-- KS_CLEAR (R448): KS_CMD CLEAR empties a key slot. -/
  | ksClear (id : MasterId) (v : Word32)
  /-- KS_GRANT (R448): KS_CMD GRANT sets a slot's spire grants. -/
  | ksGrant (id : MasterId) (v : Word32)
  /-- RCV_DATA (R450): Writes a staged image word and advances RCV_ADDR. -/
  | rcvData (id : MasterId) (v : Word32)
  /-- RCV_GO (R447): Checks the staged image, and programs a slot and/or applies the image. -/
  | rcvGo (id : MasterId) (v : Word32) (io : StartIo) (norOk : Bool)
  /-- LANT_HALT (R76): A write of LANT_HALT halts turrets or applies the global halt. -/
  | lantHalt (id : MasterId) (v : Word32)
  /-- TRAIN2_GROUP_DONE (R441): Phase-2 training of one group of 8 DRAM channels ends; a failing interleaved channel is given the spare without a copy or leaves MODE at NARROW, and after the last group the Keep writes WIDEN. -/
  | train2GroupDone (fails : BitVec 8)
  /-- RST_N_RISING_EDGE (R469): RST_N returns high after a device warm reset it held, and the restart of R449 runs from that edge. -/
  | rstNRisingEdge (io : StartIo)
  /-- VAUX33_POWER_GOOD (R460): VAUX33 becomes good, so PD_AON runs and the device rests in OFF with power-on reset held. -/
  | vaux33PowerGood
  /-- PORT_CAME_UP (R321): An Ethernet or management port completes link bring-up, sets STAT.UP and IRQ_RAW.UPC, and starts sending and receiving. -/
  | portCameUp (port : Fin 10) (sub : Fin 2)
  /-- PORT_WENT_DOWN (R321): An Ethernet or management port loses its link, clears STAT.UP and sets IRQ_RAW.DOWN. -/
  | portWentDown (port : Fin 10) (sub : Fin 2)
  /-- PRIORITY_FLOW_CONTROL (R297): A received 802.1Qbb PFC frame pauses or resumes transmission on a priority of an ETHP port. -/
  | priorityFlowControl (port : Fin 8) (prio : Fin 8) (pause : Bool)
  /-- INVALID_DWORD (R294): An invalid dword or disparity error arrives on a SAS port, is counted in SASP_LINKERR and ERRCNT, and may make the port page signal the fault manager. -/
  | invalidDword (port : Fin 240)
  /-- FEC_CORRECTED_CODEWORD (R321): An Ethernet lane delivers an FEC-corrected codeword, which counts in the ETHP port page's ERRCNT. -/
  | fecCorrectedCodeword (port : Fin 8)
  /-- DIE_TEMPERATURE_CHANGE (R415): The Cupola die temperature leaves or returns to 0–100 °C, so ACC_OK and ACCWHY change and a STATUS message is sent. -/
  | dieTemperatureChange (inRange : Bool)
  /-- CUPW_CMDGO (R426): A write of CUPW_CMDGO sends the master-slot request to the Cupola, or ends it at once with RESULT 3 when the die is absent; refused kinds end with a REFUSED message. -/
  | cupwCmdgo (id : MasterId) (v : Word32)
  /-- THERMAL_WAKE_RELEASE (R465): After a thermal trip the hottest sensor falls to 95 °C or less, and a held wake proceeds. -/
  | thermalWakeRelease
deriving DecidableEq, Repr

end Sys2Proof
end

