-- ==== Sys2Proof/Config.lean ====
section
/-! DEFINITION. What the specification leaves to the implementation: free values, opaque so that no proof can see them. -/
namespace Sys2Proof

/-- A fresh 64-bit value for each value of the free-value counter of State: the manual fixes the place where it is
used, not the value (log entry 3). -/
opaque Config.freeCell : Nat → BitVec 64

/-- The current of a sample after a phase correction other than 0, which the manual names (R418) and does not define: of the parameter,
the channel, the operating second, the sample's number in it and the current as sampled (log entry 72). -/
opaque Config.phasedCurrent : Nat → Nat → Nat → Nat → Int → Int

/-- The 11-bit single-error-correcting, double-error-detecting Hsiao code of a line's 512 data bits and 5 tag bits (R86): the manual gives
the kind of code and not its matrix (log entry 74). -/
opaque Config.hsiao : List (BitVec 8) → BitVec 5 → BitVec 11

end Sys2Proof
end

