-- ==== Sys2Proof/Machine/Bits.lean ====
section
/-! DEFINITION. Bit fields, byte order and small lists: the helpers every family uses (00_scope.md R8, R9). -/
namespace Sys2Proof.Machine

/-- Field of `w` bits at bit `lo` of a number (R8). -/
def fld (x lo w : Nat) : Nat := (x >>> lo) % 2 ^ w
/-- Bit `n` of a number. -/
def bit (x n : Nat) : Bool := (x >>> n) % 2 = 1
/-- The number with the field of `w` bits at `lo` replaced by the low bits of `v`. -/
def fldSet (x lo w v : Nat) : Nat := x - (fld x lo w) * 2 ^ lo + (v % 2 ^ w) * 2 ^ lo
/-- Field of a register. -/
def regFld (r : Word32) (lo w : Nat) : Nat := fld r.toNat lo w
/-- Bit of a register. -/
def regBit (r : Word32) (n : Nat) : Bool := r.getLsbD n
/-- Register with a field replaced. -/
def regSet (r : Word32) (lo w v : Nat) : Word32 := BitVec.ofNat 32 (fldSet r.toNat lo w v)
/-- A register from a number. -/
def w32 (n : Nat) : Word32 := BitVec.ofNat 32 n
/-- A cell from a number. -/
def cell (n : Nat) : Cell := BitVec.ofNat 64 n
/-- 1 for true, 0 for false. -/
def b2n (b : Bool) : Nat := if b then 1 else 0
/-- A byte from a number. -/
def byte (n : Nat) : Byte := BitVec.ofNat 8 n
/-- A one-bit mask. -/
def mask1 (n : Nat) : Word32 := BitVec.ofNat 32 (2 ^ n)

/-- `n` bytes of `x`, least significant first (R9). -/
def leBytes : Nat → Nat → List Byte
  | 0, _ => []
  | n + 1, x => byte x :: leBytes n (x / 256)
/-- Value of bytes, least significant first (R9). -/
def ofLE : List Byte → Nat
  | [] => 0
  | b :: t => b.toNat + 256 * ofLE t
/-- `n` bytes of `x`, most significant first (network order, R9). -/
def beBytes (n x : Nat) : List Byte := (leBytes n x).reverse
/-- Value of bytes, most significant first. -/
def ofBE (l : List Byte) : Nat := ofLE l.reverse

/-- Little-endian field of `n` bytes at offset `o` of a byte list; bytes past the end read 0. -/
def leAt (l : List Byte) (o n : Nat) : Nat := ofLE ((l.drop o).take n)
/-- Big-endian field of `n` bytes at offset `o` of a byte list. -/
def beAt (l : List Byte) (o n : Nat) : Nat := ofBE ((l.drop o).take n)
/-- List with the bytes `v` written at offset `o`, within its length. -/
def listPut {α : Type} (l : List α) (o : Nat) (v : List α) : List α :=
  ((l.take o) ++ v ++ l.drop (o + v.length)).take l.length

/-- Division rounded up; a divisor of 0 acts as 1. -/
def ceilDiv (a b : Nat) : Nat := (a + (max b 1 - 1)) / max b 1
/-- Addition that stops at `top`. -/
def satAdd (a b top : Nat) : Nat := min (a + b) top
/-- Signed value of the low `w` bits of `x`. -/
def sgn (x w : Nat) : Int := if (x % 2 ^ w) < 2 ^ (w - 1) then Int.ofNat (x % 2 ^ w) else Int.ofNat (x % 2 ^ w) - Int.ofNat (2 ^ w)
/-- The low `w` bits of an integer, as a number. -/
def uns (x : Int) (w : Nat) : Nat := (x % Int.ofNat (2 ^ w)).toNat

/-- Numbers `a`, `a+1`, … (`n` of them). -/
def rangeFrom (a : Nat) : Nat → List Nat
  | 0 => []
  | n + 1 => a :: rangeFrom (a + 1) n

/-- First element that satisfies `p`. -/
def firstNat (p : Nat → Bool) : List Nat → Option Nat
  | [] => none
  | a :: t => if p a then some a else firstNat p t

end Sys2Proof.Machine
end

