-- ==== Sys2Proof/Machine/RegTable.lean ====
section
/-! DEFINITION. The register pages: which block a page serves, and for each register its reset value and the access code of
each bit (01_architecture.md R41-R44 and the register tables of every chapter). A bit in no mask is read-only or reserved. -/
namespace Sys2Proof.Machine

/-- The blocks that have register pages (R43). -/
inductive Block where
  | keep | belf | tmr | evt | mbx | memc | scr | qst | spr | tur | lck | sasp | ethp | pair | mgmt | pwr | cupw | bus | lant
deriving DecidableEq, Repr

/-- PID type code of a block (R43). -/
def blockType : Block → Nat
  | .keep => 1 | .belf => 2 | .tmr => 3 | .evt => 4 | .mbx => 5 | .memc => 6 | .scr => 7 | .qst => 8 | .spr => 9 | .tur => 10
  | .lck => 11 | .sasp => 12 | .ethp => 13 | .pair => 14 | .mgmt => 15 | .pwr => 16 | .cupw => 17 | .bus => 18 | .lant => 19

/-- Reset value of a register and the masks of its writable bits, one mask per access code of R11. -/
structure RegInfo where
  reset : Nat := 0
  rw : Nat := 0
  rwl : Nat := 0
  rwc : Nat := 0
  w1c : Nat := 0
  /-- Bits whose write acts as the register's summary says (WO); they read 0. -/
  wo : Nat := 0
  /-- The register counts as an RWC register although no bit of it is RWC (R63). -/
  custody : Bool := false
deriving DecidableEq, Repr

/-- A read-only register. -/
def ro (reset : Nat) : Option RegInfo := some { reset := reset }
/-- A register whose bits in `m` are RW. -/
def rwr (reset m : Nat) : Option RegInfo := some { reset := reset, rw := m }
/-- A full 32-bit RW register. -/
def rw32 (reset : Nat) : Option RegInfo := some { reset := reset, rw := 0xFFFFFFFF }
/-- A register whose bits in `m` are RWC. -/
def rwcr (reset m : Nat) : Option RegInfo := some { reset := reset, rwc := m }
/-- A register whose bits in `m` are RWL. -/
def rwlr (reset m : Nat) : Option RegInfo := some { reset := reset, rwl := m }
/-- A register whose bits in `m` are W1C. -/
def w1cr (m : Nat) : Option RegInfo := some { w1c := m }
/-- A write-only register. -/
def wor (m : Nat) : Option RegInfo := some { wo := m }

/-- The header fields of a page that differ from block to block (R42). -/
structure Hdr where
  cap : Nat := 0
  ctl : RegInfo := {}
  stat : Nat := 0
  irq : Nat := 0
deriving DecidableEq, Repr

/-- Registers of the common page header (R42). -/
def hdrInfo (pid : Nat) (h : Hdr) (off : Nat) : Option RegInfo :=
  match off with
  | 0x000 => ro pid
  | 0x004 => ro h.cap
  | 0x008 => some h.ctl
  | 0x00C => ro h.stat
  | 0x010 => w1cr h.irq
  | 0x014 => rw32 0
  | 0x018 => ro 0
  | 0x01C => wor h.irq
  | 0x020 => wor 0xFFFFFFFF
  | 0x024 => ro 0
  | 0x028 => rwlr 0x00BB8010 0xFFFFFFFF
  | _ => none

/-- The word at offset `lo + stride * i`, `i < n`: its index and the offset within the element. -/
def arrIx (off lo stride n : Nat) : Option (Nat × Nat) :=
  if lo ≤ off ∧ off < lo + stride * n then some ((off - lo) / stride, (off - lo) % stride) else none

/-! ### BELF (02_belfry_timers.md R64) -/

/-- BELF page 0x010. -/
def belfInfo0 (off : Nat) : Option RegInfo :=
  match off with
  | 0x100 => ro 0 | 0x104 => ro 0 | 0x108 => ro 0 | 0x10C => ro 0
  | 0x110 => ro 0x00320000 | 0x114 => ro 0 | 0x118 => rwcr 0 0xFFFFFFFF
  | _ => none

/-- ROUTE of comparator `c` (R63). -/
def bcmpRoute (c : Nat) : Nat := if c = 0 then 1 else if c = 1 then 2 else if c = 2 then 3 else if c < 32 then 0 else 4

/-- A comparator register under the access codes of R63. -/
def bcmpAcc (c reset m w1c : Nat) : Option RegInfo :=
  if c < 4 then some { reset := reset, rwc := m, w1c := w1c, custody := true }
  else if c < 32 then some { reset := reset, rw := m, w1c := w1c }
  else ro reset

/-- Registers of comparator `c` (R64). -/
def bcmpInfo (c sub : Nat) : Option RegInfo :=
  match sub with
  | 0x0 => bcmpAcc c 0 0xFFFFFFFF 0
  | 0x4 => bcmpAcc c 0 0xFFFFFFFF 0
  | 0x8 => bcmpAcc c (0x4000 + bcmpRoute c * 4) 0xFFFFFF03 0
  | 0xC => bcmpAcc c 0 0 1
  | _ => none

def belfHdr (n : Nat) : Hdr :=
  if n = 0 then { cap := 0x140, ctl := { reset := 0x0BB80040, rwl := 0xFFFF0070, rwc := 3 }, irq := 0x3F }
  else { cap := 0x20, irq := 0xFFFFFFFF }

def belfInfo (n off : Nat) : Option RegInfo :=
  if n = 0 then belfInfo0 off
  else match arrIx off 0x100 16 32 with
    | some (c, sub) => bcmpInfo ((n - 1) * 32 + c) sub
    | none => none

/-! ### TMR (02_belfry_timers.md) -/

def tmrHdr : Hdr := { cap := 0x18, ctl := { rwl := 1 }, irq := 0xFFFF }

/-- Registers of timer `t` of a page; LINK exists on odd timers only. -/
def timerInfo (t sub : Nat) : Option RegInfo :=
  match sub with
  | 0x00 => rwr 0 (if t % 2 = 1 then 0x00FFFF7F else 0x00FFFF7B)
  | 0x04 => rw32 0 | 0x08 => ro 0
  | 0x0C => rw32 0xFFFFFFFF | 0x10 => rw32 0xFFFFFFFF | 0x14 => rw32 0xFFFFFFFF
  | 0x18 => w1cr 3
  | _ => none

def tmrInfo (off : Nat) : Option RegInfo :=
  match arrIx off 0x100 32 8 with
  | some (t, sub) => timerInfo t sub
  | none => none

/-! ### EVT, MBX, LCK (14_events_faults.md R391-R399) -/

def evtHdr (n : Nat) : Hdr := if n = 0 then { cap := 0x200, irq := 1 } else {}

def evtInfo (n off : Nat) : Option RegInfo :=
  if n = 0 then
    match arrIx off 0x100 4 41 with
    | some (i, 0) => if i < 16 then ro 0 else if i < 21 then w1cr 0xFFFFFFFF else if i < 25 then wor 0xFFFFFFFF else w1cr 0xFFFFFFFF
    | _ => none
  else match arrIx off 0x100 4 256 with
    | some (_, 0) => rwcr 0 0xE0FF0FFF
    | _ => none

def mbxHdr (n : Nat) : Hdr := if n = 0 then { cap := 0x40 } else { cap := 8, irq := 0xFFFF }

/-- Registers of a mailbox channel block (R393). -/
def mbInfo (sub : Nat) : Option RegInfo :=
  match sub with
  | 0x00 => wor 0xFFFFFFFF | 0x04 => wor 0xFFFFFFFF
  | 0x08 => ro 0 | 0x0C => ro 0 | 0x10 => ro 0
  | 0x14 => some { rw := 2, wo := 1 }
  | 0x18 => w1cr 0xF | 0x1C => ro 0
  | 0x20 => wor 0xFFFFFFFF | 0x24 => w1cr 0xFFFFFFFF | 0x28 => rw32 0 | 0x2C => rwr 0 3
  | _ => none

def mbxInfo (n off : Nat) : Option RegInfo :=
  if n = 0 then
    match arrIx off 0x100 4 64 with
    | some (_, 0) => rwcr 0 0x80001F1F
    | _ => none
  else match arrIx off 0x100 0x100 8 with
    | some (_, sub) => mbInfo sub
    | none => none

def lckHdr : Hdr := { cap := 0x10, irq := 3 }

def lckInfo (off : Nat) : Option RegInfo :=
  match arrIx off 0x100 4 17 with
  | some (i, 0) => if i = 16 then ro 0 else rw32 0
  | _ => none

/-! ### MEMC, SCR, BUS (03_memory_system.md R104-R106) -/

/-- MEMC: page number 0 is the controller, number 1 + p is channel p. -/
def memcHdr (n : Nat) : Hdr :=
  if n = 0 then { cap := 0x13F40, ctl := { rwc := 1 }, irq := 0x3F }
  else { cap := (n - 1) + (if n = 64 then 0x40 else 0), irq := 3 }

def memcInfo (n off : Nat) : Option RegInfo :=
  if n = 0 then
    match off with
    | 0x100 => ro 0
    | 0x104 => rwcr 8 0x003F010F
    | 0x108 => ro 0 | 0x10C => ro 0 | 0x110 => ro 0
    | 0x114 => w1cr 0x80000000
    | 0x118 => rwlr 0x800041EB 0x80FFFFFF
    | 0x11C => ro 0
    | _ => none
  else
    match off with
    | 0x100 => ro 0 | 0x104 => ro 0 | 0x108 => ro 0
    | _ => none

def scrHdr (n : Nat) : Hdr :=
  { cap := 0x40000 + (if n = 0 then 0x100 else 0x40), ctl := { reset := 1, rw := 1 }, irq := 0x1F }

def scrInfo (n off : Nat) : Option RegInfo :=
  match off with
  | 0x140 => rwr 1 0xFF
  | 0x144 => ro 0 | 0x148 => ro 0 | 0x14C => ro 0
  | _ => match arrIx off 0x100 4 (if n = 0 then 16 else 4) with
    | some (_, 0) => rw32 0x55555555
    | _ => none

def busHdr : Hdr := { cap := 0x301A, irq := 1 }

def busInfo (off : Nat) : Option RegInfo :=
  match off with
  | 0x100 => rwlr 0xFFFFFFFF 0xFFFFFFFF | 0x104 => rwlr 0xFFFFFFFF 0xFFFFFFFF | 0x108 => rwlr 0xFFFFFFFF 0xFFFFFFFF
  | 0x10C => rwlr 0xFF 0xFF
  | 0x110 => ro 0 | 0x114 => ro 0
  | 0x118 => w1cr 0x80000000
  | _ => none

/-! ### TUR pages (04_dravaesor_isa.md R143, 12_lockstep.md R364): n = 0-7 turrets, 8-11 comparators -/

def turHdr (n : Nat) : Hdr :=
  if n < 8 then { cap := 0x840100, ctl := { reset := 1, rwc := 1, wo := 2 }, irq := 7 }
  else { cap := 0x802, ctl := { rwc := 6 }, irq := 0x3F }

def turInfo (n off : Nat) : Option RegInfo :=
  if n < 8 then
    match off with
    | 0x100 => w1cr 0x80000000
    | 0x104 => ro 0
    | _ => none
  else
    match off with
    | 0x100 => w1cr 0x80000000
    | 0x104 => ro 0 | 0x108 => ro 0 | 0x10C => ro 0
    | 0x110 => wor 0xFF
    | 0x114 => ro 0
    | 0x118 => rwlr 0 0x83
    | 0x11C => ro 0
    | _ => none

/-! ### SPR (05_spire_streams.md R176) -/

def sprHdr (_n : Nat) : Hdr := { cap := 0x481040, ctl := { rw := 2, rwc := 1, wo := 0xC }, irq := 0x7FF }

/-- Registers of a spire context block. -/
def spctxInfo (sub : Nat) : Option RegInfo :=
  match sub with
  | 0x00 => wor 3
  | 0x04 => ro 0
  | 0x08 => rw32 0
  | 0x0C => rwr 0 0xFFFF
  | 0x20 => ro 0x03E00000
  | _ => if 0x10 ≤ sub ∧ sub < 0x20 then rw32 0 else if 0x20 ≤ sub ∧ sub < 0x40 then ro 0 else none

def sprInfo (_n off : Nat) : Option RegInfo :=
  match off with
  | 0x100 => rwlr 0x800 0xF0F
  | 0x104 => ro 0 | 0x108 => ro 0 | 0x10C => ro 0 | 0x110 => ro 0
  | 0x114 => w1cr 0x80000000
  | _ => match arrIx off 0x200 0x40 4 with
    | some (_, sub) => if sub % 4 = 0 then spctxInfo sub else none
    | none => none

/-! ### QST (07_codes_stripes.md R245, 08_queues.md R268): n = page - 0x120 -/

def qstHdr (n : Nat) : Hdr := if n = 0 then { cap := 0x40000, ctl := { rwc := 1 }, irq := 0x1F } else {}

/-- Registers of stripe program table entry `e` (R245). -/
def sptInfo (e sub : Nat) : Option RegInfo :=
  if sub % 4 ≠ 0 then none
  else if sub < 0x20 then rwr 0 (if sub % 16 = 4 then 0xFFFF else 0xFFFFFFFF)
  else match sub with
    | 0x20 => ro (if e = 0x0A ∨ e = 0x0B then 0x40000000 else 0)
    | 0x24 => wor 1
    | _ => ro 0

def qstInfo (n off : Nat) : Option RegInfo :=
  if n = 0 then
    match off with
    | 0x100 => rwr 0 0x3FFFF | 0x104 => wor 0xFFFF | 0x108 => wor 0xFFFF | 0x10C => rwr 0 0x1FFF
    | 0x140 => w1cr 0x80000000
    | _ => if 0x110 ≤ off ∧ off < 0x148 then ro 0 else none
  else if n < 16 then
    match arrIx off 0x100 0x40 32 with
    | some (e, sub) => sptInfo ((n - 8) * 32 + e) sub
    | none => none
  else
    match arrIx off 0x100 4 512 with
    | some (_, 0) => rwr 0 0x0FFFFFFF
    | _ => none

/-! ### SASP (09_drives_power_sets.md R294): n = page - 0x200 -/

def saspHdr (n : Nat) : Hdr := if n < 240 then { cap := 7, ctl := { rw := 1, wo := 2 }, irq := 0x1F } else {}

/-- Registers of a group block. -/
def saspGroup (sub : Nat) : Option RegInfo :=
  match sub with
  | 0 => rwlr 0x1000 0xFF03 | 4 => ro 0 | 8 => ro 0
  | _ => if 0x300 ≤ sub ∧ sub < 0x700 ∧ sub % 4 = 0 then rwlr 0 0xFFFFFFFF else none

def saspInfo (n off : Nat) : Option RegInfo :=
  if n < 240 then
    match off with
    | 0x100 => ro 0 | 0x104 => ro 0 | 0x108 => rwr 1 1 | 0x10C => rwr 0x7530 0xFFFF | 0x110 => rwr 0 3
    | 0x114 => ro 0 | 0x118 => ro 0
    | _ => none
  else if n < 255 then
    if off < 0x100 then none else if off < 0x800 then saspGroup (off - 0x100) else if off < 0xF00 then saspGroup (off - 0x800) else none
  else
    if 0x100 ≤ off ∧ off < 0x110 ∧ off % 4 = 0 then rwcr 0 0xFFFFFFFF
    else if off = 0x110 then some { wo := 3, custody := true }
    else if 0x114 ≤ off ∧ off < 0x138 ∧ off % 4 = 0 then ro 0
    else match arrIx off 0x140 8 48 with
      | some (_, 0) => rwr 0 0x83FFF000
      | some (_, 4) => ro 0
      | _ => none

/-! ### PWR (09_drives_power_sets.md R295): n = page - 0x350 -/

def pwrHdr (n : Nat) : Hdr :=
  if n = 0 then { cap := 0x1040B6, ctl := { reset := 1, rwc := 1 }, irq := 0x7F } else {}

/-- Reset value of PWR_DREQ and PWR_DON words: the domains on at power-on reset (R428, log entry 6). -/
def dreqReset (i : Nat) : Nat := if i = 0 then 7 else if i = 5 then 2 ^ 17 + 2 ^ 18 else 0

def pwrInfo (n off : Nat) : Option RegInfo :=
  if n = 0 then
    if 0x100 ≤ off ∧ off < 0x118 ∧ off % 4 = 0 then rwcr (dreqReset ((off - 0x100) / 4)) 0xFFFFFFFF
    else if 0x118 ≤ off ∧ off < 0x130 ∧ off % 4 = 0 then ro (dreqReset ((off - 0x118) / 4))
    else match off with
      | 0x130 => rwcr 0 0xFFFF | 0x134 => rwcr 0 0xFFFF | 0x138 => rwcr 0x00880033 0xFFFF0F73 | 0x13C => rwcr 0x32 0xFFFF
      | 0x140 => ro 0 | 0x144 => rwcr 0x00022000 0x001F3F1F | 0x148 => ro 0 | 0x14C => rwcr 0 0x13F
      | 0x150 => ro 0xFFFFFFFF | 0x154 => ro 0xFFFFFFFF
      | 0x158 => some { reset := 0x0202, rwc := 3 }
      | _ => none
  else if n = 1 then
    match arrIx off 0x100 8 64 with
    | some (_, 0) => some { reset := 1, rwl := 1, wo := 2 }
    | some (_, 4) => ro 0xB
    | _ => none
  else if n = 2 then
    match arrIx off 0x100 4 240 with
    | some (_, 0) => rwlr 0 0xBF0F0000
    | _ => none
  else if n = 3 then
    match arrIx off 0x100 4 32 with
    | some (_, 0) => ro 0
    | _ => none
  else
    match off with
    | 0x100 => rwlr 0 1 | 0x104 => rwlr 0 0xFFFF | 0x108 => rwlr 0x5DC 0xFFFF | 0x10C => rwlr 0 0xFFFFFFFF
    | _ => match arrIx off 0x200 4 128 with
      | some (_, 0) => rwlr 0 0xFFFFFFFF
      | _ => none

/-! ### ETHP, PAIR, MGMT (10_transport_pair.md R321) -/

def ethpHdr (n : Nat) : Hdr := if n < 8 then { cap := 1, ctl := { rw := 7 }, irq := 7 } else {}

def ethpInfo (n off : Nat) : Option RegInfo :=
  if n < 8 then
    match off with
    | 0x100 => ro 0 | 0x104 => ro 0
    | 0x108 => rwlr 0 0xFFFFFFFF
    | 0x11C => rwlr 0 0x1FFF | 0x120 => rwlr 0xB888 0xFFFF | 0x124 => rwlr 0x246 0x777 | 0x128 => rwlr 0x40000 0xFFFFFFFF
    | 0x12C => rwlr 0 0xFFFFFFFF | 0x130 => rwlr 0 0xFFFF | 0x134 => rwlr 0 0xFFFF
    | 0x138 => rwlr 0 0xFFFFFFFF | 0x13C => rwlr 0 0xFFFF
    | 0x140 => rwr 0 0xFF | 0x144 => rwr 0 0xFF0000 | 0x148 => ro 0
    | _ => if 0x10C ≤ off ∧ off < 0x11C ∧ off % 4 = 0 then rwlr 0 0xFFFFFFFF else none
  else
    match off with
    | 0x100 => rwlr 0x100000 0xFFFFFFFF | 0x104 => rwlr 0x1F4 0xFFFF | 0x108 => rwlr 8 0xF | 0x10C => ro 0
    | _ => if 0x110 ≤ off ∧ off < 0x120 ∧ off % 4 = 0 then rwlr 0 0xFFFFFFFF else none

def pairHdr (n : Nat) : Hdr := if n < 4 then { cap := 2, ctl := { rw := 1 }, irq := 3 } else if n = 4 then { irq := 0x3F } else {}

def pairInfo (n off : Nat) : Option RegInfo :=
  if n < 4 then none
  else if n = 4 then
    match off with
    | 0x100 => rwcr 1 3 | 0x104 => ro 4 | 0x120 => ro 1
    | 0x12C => wor 0x8003FFFF
    | 0x148 => rwlr 0x1F4 0xFFFF
    | _ => if off % 4 ≠ 0 then none
      else if 0x130 ≤ off ∧ off < 0x148 then rwlr 0 (if off % 8 = 4 then 0xFFFF else 0xFFFFFFFF)
      else if 0x108 ≤ off ∧ off < 0x170 then ro 0 else none
  else
    match arrIx off 0x100 8 32 with
    | some (_, 0) => rwr 0 0x83FFF000
    | some (_, 4) => ro 0
    | _ => none

def mgmtHdr (_n : Nat) : Hdr := { cap := 3, ctl := { rw := 1 }, irq := 3 }

def mgmtInfo (_n off : Nat) : Option RegInfo :=
  if off = 0x100 ∨ off = 0x104 then ro 0
  else if 0x108 ≤ off ∧ off < 0x12C ∧ off % 4 = 0 then rwlr 0 0xFFFFFFFF else none

/-! ### CUPW (15_cupola.md R426) -/

def cupwHdr (n : Nat) : Hdr := { irq := if n < 2 then 3 else 1 }

def cupwInfo (n off : Nat) : Option RegInfo :=
  if off % 4 ≠ 0 then none
  else match n with
    | 0 => if 0x100 ≤ off ∧ off < 0x110 then rw32 0 else if off = 0x110 then wor 1 else if off = 0x114 then ro 0 else none
    | 1 => if 0x100 ≤ off ∧ off < 0x110 then ro 0 else if off = 0x110 then wor 1 else if off = 0x114 then ro 0 else none
    | 2 => if 0x100 ≤ off ∧ off < 0x118 then ro 0 else none
    | _ => if off = 0x100 then w1cr 0x80000000 else none

/-! ### KEEP and LANT (14_events_faults.md R406, 16_startup.md R433, R450) -/

/-- KEEP pages other than 0x000-0x003 and 0x00E are unoccupied. -/
def keepHdr (n : Nat) : Hdr :=
  if n = 0 then { cap := 0x1000, ctl := { rwc := 3 }, stat := 0x010F0000, irq := 0xF }
  else if n = 14 then { irq := 7 } else {}

def keepInfo (n off : Nat) : Option RegInfo :=
  if off % 4 ≠ 0 then none
  else match n with
    | 0 => match off with
      | 0x100 => rwcr 0x1F 0x1F | 0x104 => w1cr 0x1F | 0x108 => rwcr 0 0xFFFFFF
      | 0x10C => ro 0 | 0x110 => ro 0 | 0x114 => ro 0 | 0x118 => ro 0
      | 0x11C => some { wo := 1, custody := true }
      | _ => none
    | 1 => if 0x100 ≤ off ∧ off < 0x1A0 then ro 0 else none
    | 2 => match off with
      | 0x100 => rwcr 0 0xFFF | 0x104 => ro 0 | 0x108 => rwcr 0 0xFFFFFFFF | 0x10C => rwcr 0 0xFFFF
      | 0x110 => rwcr 0 0xFF33 | 0x114 => ro 0
      | _ => none
    | 3 => match off with
      | 0x100 => rw32 0 | 0x104 => rwr 1 0xFFFF | 0x108 => rwr 0 0x1FFFFFC | 0x10C => wor 0xFFFFFFFF | 0x110 => wor 7 | 0x114 => ro 0
      | _ => none
    | 14 => match off with
      | 0x104 => rwr 0 0x3F
      | _ => if 0x100 ≤ off ∧ off < 0x118 then ro 0 else none
    | _ => none

def lantHdr (_n : Nat) : Hdr := {}
def lantInfo (n off : Nat) : Option RegInfo :=
  if n = 0 then
    match off with
    | 0x100 => rwr 0 0x1FF | 0x104 => ro 0
    | _ => none
  else match off with
    | 0x100 => rwr 0 0x701
    | _ => none


/-! ### The page index (R41) and the whole table -/

/-- The block a page serves and the page's place in the block; none for an unoccupied page (R41). -/
def pageBlock (p : Nat) : Option (Block × Nat) :=
  if p < 4 ∨ p = 0xE then some (.keep, p)
  else if 0x10 ≤ p ∧ p < 0x13 then some (.belf, p - 0x10)
  else if 0x20 ≤ p ∧ p < 0x2C then some (.tmr, p - 0x20)
  else if 0x40 ≤ p ∧ p < 0x43 then some (.evt, p - 0x40)
  else if 0x60 ≤ p ∧ p < 0x69 then some (.mbx, p - 0x60)
  else if p = 0x80 then some (.memc, 0)
  else if 0xC0 ≤ p ∧ p < 0x100 then some (.memc, p - 0xC0 + 1)
  else if 0x100 ≤ p ∧ p < 0x102 then some (.scr, p - 0x100)
  else if p = 0x120 then some (.qst, 0)
  else if 0x128 ≤ p ∧ p < 0x138 then some (.qst, p - 0x120)
  else if 0x160 ≤ p ∧ p < 0x168 then some (.spr, p - 0x160)
  else if 0x1A0 ≤ p ∧ p < 0x1AC then some (.tur, p - 0x1A0)
  else if p = 0x1C0 then some (.lck, 0)
  else if 0x200 ≤ p ∧ p < 0x300 then some (.sasp, p - 0x200)
  else if 0x300 ≤ p ∧ p < 0x309 then some (.ethp, p - 0x300)
  else if 0x320 ≤ p ∧ p < 0x326 then some (.pair, p - 0x320)
  else if 0x340 ≤ p ∧ p < 0x342 then some (.mgmt, p - 0x340)
  else if 0x350 ≤ p ∧ p < 0x354 then some (.pwr, p - 0x350)
  else if 0x360 ≤ p ∧ p < 0x370 then some (.pwr, p - 0x350)
  else if 0x380 ≤ p ∧ p < 0x384 then some (.cupw, p - 0x380)
  else if p = 0x390 then some (.bus, 0)
  else if 0x3A0 ≤ p ∧ p < 0x3A2 then some (.lant, p - 0x3A0)
  else none

/-- INST of a page's PID (R43): the instance the page serves, 0-based within its kind of page. For the pages of a block that has several
pages and one instance (KEEP, BELF, TMR, EVT, MBX, SCR, CUPW, LANT) the model answers the page's number within the block, and 0 on the
low PWR pages: the manual says only that INST is that of the instance served (DESIGN CHOICE, log entry 75). -/
def pageInst (b : Block) (n : Nat) : Nat :=
  match b with
  | .memc => n - 1
  | .tur => if n < 8 then n else n - 8
  | .sasp => if n < 240 then n else if n < 255 then n - 240 else 0
  | .ethp => if n < 8 then n else 0
  | .pair => if n < 4 then n else 0
  | .pwr => if n < 16 then 0 else n - 16
  | .qst => if n < 8 then 0 else if n < 16 then n - 8 else n - 16
  | _ => n

/-- PID word (R43). -/
def pidWord (b : Block) (n : Nat) : Nat := blockType b * 2 ^ 24 + pageInst b n * 2 ^ 12 + 0x10

/-- Header of a page. -/
def blockHdr (b : Block) (n : Nat) : Hdr :=
  match b with
  | .belf => belfHdr n | .tmr => tmrHdr | .evt => evtHdr n | .mbx => mbxHdr n | .lck => lckHdr | .memc => memcHdr n
  | .scr => scrHdr n | .bus => busHdr | .tur => turHdr n
  | .keep => keepHdr n | .qst => qstHdr n | .spr => sprHdr n | .sasp => saspHdr n | .ethp => ethpHdr n | .pair => pairHdr n
  | .mgmt => mgmtHdr n | .pwr => pwrHdr n | .cupw => cupwHdr n | .lant => lantHdr n

/-- Block registers of a page. -/
def blockInfo (b : Block) (n off : Nat) : Option RegInfo :=
  match b with
  | .belf => belfInfo n off | .tmr => tmrInfo off | .evt => evtInfo n off | .mbx => mbxInfo n off | .lck => lckInfo off
  | .memc => memcInfo n off | .scr => scrInfo n off | .bus => busInfo off | .tur => turInfo n off
  | .keep => keepInfo n off | .qst => qstInfo n off | .spr => sprInfo n off | .sasp => saspInfo n off | .ethp => ethpInfo n off
  | .pair => pairInfo n off | .mgmt => mgmtInfo n off | .pwr => pwrInfo n off | .cupw => cupwInfo n off | .lant => lantInfo n off

/-- The register at an offset of a page; none where no page defines it (R10, R42). -/
def regInfo (page off : Nat) : Option RegInfo :=
  match pageBlock page with
  | none => none
  | some (b, n) => if off < 0x100 then hdrInfo (pidWord b n) (blockHdr b n) off else blockInfo b n off

/-- Reset value of a register (R14). -/
def regReset (page off : Nat) : Word32 :=
  match regInfo page off with
  | some i => BitVec.ofNat 32 i.reset
  | none => 0

end Sys2Proof.Machine
end

