-- ==== Sys2Proof/Machine/SMap.lean ====
section
/-! DEFINITION. Sparse tables as plain data: lists of (key, value), keys strictly rising, no value equal to the table's default. -/
namespace Sys2Proof.Machine

/-- A sparse table. An unlisted key holds the table's default. -/
abbrev SMap (α : Type) := List (Nat × α)

/-- The value at key `k`; `d` where the key is not listed. -/
def sget {α : Type} : SMap α → Nat → α → α
  | [], _, d => d
  | (k', v) :: t, k, d => if k = k' then v else sget t k d

/-- The table with value `v` at key `k`, keeping the canonical form: a value equal to the default `d` is not listed. -/
def sput {α : Type} [DecidableEq α] : SMap α → Nat → α → α → SMap α
  | [], k, v, d => if v = d then [] else [(k, v)]
  | (k', v') :: t, k, v, d =>
    if k < k' then (if v = d then (k', v') :: t else (k, v) :: (k', v') :: t)
    else if k = k' then (if v = d then t else (k, v) :: t)
    else (k', v') :: sput t k v d

/-- The table without the keys that satisfy `p`. -/
def sdrop {α : Type} (p : Nat → Bool) : SMap α → SMap α
  | [] => []
  | (k, v) :: t => if p k then sdrop p t else (k, v) :: sdrop p t

/-- The canonical form: keys strictly rising, above `lo`, no listed value equal to its default `d k`. -/
def swfFrom {α : Type} [DecidableEq α] (d : Nat → α) : Nat → SMap α → Bool
  | _, [] => true
  | lo, (k, v) :: t => decide (lo ≤ k) && (decide (v ≠ d k) && swfFrom d (k + 1) t)

/-- The canonical form of a whole table. -/
def swf {α : Type} [DecidableEq α] (d : Nat → α) (m : SMap α) : Bool := swfFrom d 0 m

end Sys2Proof.Machine
end

