-- ==== Sys2Proof/Machine/State.lean ====
section
/-! DEFINITION. The state of the device: plain data, everything the specification gives the machine (INVENTORY.md, State),
the queue of waiting commands, and the reasons a step can stop. -/
namespace Sys2Proof.Machine

/-! ### Bus, register pages, memory (chapters 00, 01, 03) -/

/-- The cause of a bus error (R106). -/
inductive BusCause where
  | unmapped | width | access | power | binding | notmapped | identity
deriving DecidableEq, Repr

/-- CAUSE code of BUS_BERR_INFO (R106). -/
def causeCode : BusCause → Nat
  | .unmapped => 1 | .width => 2 | .access => 3 | .power => 4 | .binding => 5 | .notmapped => 6 | .identity => 7

/-- What the last bus access of a command returned to its master (an output of the block). -/
inductive Resp where
  | none
  /-- A write response without error. -/
  | done
  /-- Read data, with the poison mark of R87. -/
  | data (bytes : List Byte) (poison : Bool)
  | err (cause : BusCause)
deriving DecidableEq, Repr

/-- Per-page correctable-event counter (R401, R402): eight buckets, newest first. -/
structure PageErr where
  buckets : List Nat := [0, 0, 0, 0, 0, 0, 0, 0]
  /-- LASTING of ERRCNT. -/
  lasting : Nat := 0
  /-- Number of the fault-window tick (State.fwTicks) at which the ticks since the last shift began to count. -/
  shifted : Nat := 0
  /-- B of R401 that times the next shift: ceil(3000 / 8). -/
  period : Nat := 375
  /-- The page has signalled the fault manager and waits for the declaration (R402). -/
  signal : Bool := false
  /-- Comparator pages: number of the tick of the first DREG fault of the present window (R360). -/
  dreg : Option Nat := none
deriving DecidableEq, Repr

/-- LOCK sequence of a page (R44). -/
structure PageLock where
  locked : Bool := false
  /-- Identity whose first key was the last write to LOCK, plus 1; 0 when the sequence has not begun. -/
  first : Nat := 0
deriving DecidableEq, Repr

/-- Stored errors of a DRAM line or an SRAM word (R86, R95): bits of the stored code word in error, and the difference of
the stored TAG from the location's tag. -/
structure CellErr where
  bits : Nat := 0
  tag : Nat := 0
deriving DecidableEq, Repr

/-- DRAM mode (R84, R85). -/
inductive MemMode where
  | untrained | narrow | widening | wide
deriving DecidableEq, Repr

/-- SPARE_ST (R91). -/
inductive SpareSt where
  | idle | arm | copy | switch | used | failed
deriving DecidableEq, Repr

/-- A lasting fault or FORCE held for later (R90). -/
inductive HeldSpare where
  | lasting (pch : Nat)
  | force (lch : Nat)
deriving DecidableEq, Repr

/-- STAT of a channel page (R104): CSTATE and TRAINED. -/
structure Chan where
  cstate : Nat := 0
  trained : Bool := false
deriving DecidableEq, Repr

/-- The memory controller (R80-R94). -/
structure Memc where
  mode : MemMode := .untrained
  /-- P of R85, in lines. -/
  widenPtr : Nat := 0
  widen : Bool := false
  spareSt : SpareSt := .idle
  spareValid : Bool := false
  spareLogical : Nat := 0
  /-- MEMC_SPARE_PTR: finished blocks. -/
  sparePtr : Nat := 0
  held : List HeldSpare := []
  /-- Channel page state by physical channel. -/
  chans : SMap Chan := []
deriving DecidableEq, Repr

/-- A scratch or queue-store page's hidden state (R96-R99), for page 0 (scratch) or 1 (queue store). -/
structure Scr where
  /-- Banks being zero-filled, with the state they enter. -/
  filling : SMap Nat := []
  /-- Spare rows used per bank since power-on reset. -/
  repairs : SMap Nat := []
  /-- Spare rows of each bank that the factory repair of the fuses uses. -/
  factory : SMap Nat := []
  /-- Next region of the patrol: bank << 6 | region. -/
  next : Nat := 0
  /-- A bank left redirected because it has no spare row (R99). -/
  stuck : Option Nat := none
deriving DecidableEq, Repr

/-! ### Belfry and timers (chapter 02) -/

/-- Belfry state (R53). -/
inductive BelfSt where
  | synth | acquire | locked | holdover
deriving DecidableEq, Repr

/-- The Belfry time base (R49-R59). -/
structure Belf where
  cycle : BitVec 48 := 0
  phase : BitVec 16 := 0
  st : BelfSt := .synth
  /-- A change of state decided and waiting for the next PHASE = 0 tick (R53). -/
  next : Option BelfSt := none
  /-- Consecutive valid crossings (R52). -/
  valid : Nat := 0
  /-- The next crossing on the selected source is a starting point (R52). -/
  start : Bool := true
  /-- REFCLK cycles from the last crossing that was not rejected to the last crossing. -/
  since : Nat := 0
  /-- Valid crossings in a row with a phase error within 64 (R53). -/
  within : Nat := 0
  /-- Measured period of the last valid crossing, in REFCLK cycles. -/
  measured : Nat := 2000000
  /-- Tracked period in REFCLK cycles (R52, R55). -/
  tracked : Nat := 2000000
  holdCnt : BitVec 16 := 0
  /-- Signed remaining slew (R57). -/
  slew : Word32 := 0
  /-- Wraps until the next slew step, while the slew is not 0 (R57). -/
  slewWait : Nat := 0
  /-- The slew was written by this device's pair-link supervision (R318). -/
  own : Bool := false
  /-- time[63:32] latched per master identity (R58). -/
  latches : SMap Word32 := []
  /-- Capture-once shadow of the time (R59). -/
  shadow : Cell := 0
  /-- Slot boundaries and PHASE = 0 ticks generated so far: what SRC 0b001 and 0b010 count (R67, R74). -/
  slots : Nat := 0
  wraps : Nat := 0
deriving DecidableEq, Repr

/-- Hidden state of one timer (R67, R72-R74). -/
structure Timer where
  frac : Nat := 0
  /-- REFCLK cycles in the prescaler divider (R67). -/
  div : Nat := 0
  /-- Belfry slot boundaries or PHASE = 0 ticks already counted or passed over, as SRC selects (R67, R74). -/
  seen : Nat := 0
  /-- Stopped by sleep or VIGIL (R74). -/
  stopped : Bool := false
deriving DecidableEq, Repr

/-! ### Events, mailboxes, locks, faults (chapter 14) -/

/-- One side of a mailbox channel (R393). -/
structure MbSide where
  /-- Outbound queue, oldest first; the mark says the stored message is uncorrectable. -/
  queue : List (Cell × Bool) := []
  db : Word32 := 0
  dbmask : Word32 := 0
  even : Word32 := 0
  wait : Bool := false
  staged : Word32 := 0
  flags : Word32 := 0
  lost : Nat := 0
deriving DecidableEq, Repr

/-- A mailbox channel: both sides (R393). The binding word is a register of page 0x060. -/
structure MbChan where
  a : MbSide := {}
  b : MbSide := {}
deriving DecidableEq, Repr

/-- A record of the fault manager's log (R406). -/
structure FmRec where
  r0 : Word32 := 0
  r1 : Word32 := 0
  r2 : Word32 := 0
  r3 : Word32 := 0
deriving DecidableEq, Repr

/-- The fault manager (R405, R406). -/
structure Fm where
  recs : SMap FmRec := []
  head : Nat := 0
  written : Nat := 0
  /-- The turrets have been released (R405). -/
  released : Bool := false
  /-- The device has performed a self-stop (R405). -/
  selfStop : Bool := false
deriving DecidableEq, Repr

/-! ### Turret cores (chapters 04, 11, 12) -/

/-- A cell of the window bank; `bad` holds the stack address of a cell that the fill engine marked poisoned (R344). -/
structure WCell where
  v : Cell := 0
  bad : Option Nat := none
deriving DecidableEq, Repr

/-- An outstanding far load: its address, what the matrix or the sample port answered, the width in bytes and the sign
extension (R127, R128, R352). -/
structure FarLoad where
  addr : Nat := 0
  width : Nat := 8
  signed : Bool := false
  /-- Answer: data, or the vector of the fault (4 bus, 5 poison) that LDLn or LWAIT will raise. -/
  ans : Cell ⊕ Nat := .inl 0
  sampled : Bool := false
deriving DecidableEq, Repr

/-- A landing register (R108, R127, R128, R358). -/
structure Landing where
  v : Cell := 0
  pend : Option FarLoad := none
  /-- Error bit, with the vector of its fault. -/
  err : Option Nat := none
  /-- Filled by the sample port. -/
  sampled : Bool := false
deriving DecidableEq, Repr

/-- An anchor register (R108, R114). -/
structure Anchor where
  base : Cell := 0
  off : Word32 := 0
  inc : BitVec 16 := 0
  mode : BitVec 2 := 0
  param : Word32 := 0
deriving DecidableEq, Repr

/-- Lazy reservation of one unit (R341). -/
structure Resv where
  place : Option Nat := none
  /-- The unit's state was written out to the place. -/
  out : Bool := false
deriving DecidableEq, Repr

/-- A hardware context of a turret core (R108). -/
structure TCtx where
  pc : Addr := 0
  /-- Window cells, top first; its length is OCC (R111). -/
  win : List WCell := []
  /-- Bank cells at or above OCC that a BANKWR has written (R343). -/
  stage : SMap WCell := []
  /-- No instruction has used the window since the context's last reset. -/
  clean : Bool := true
  vsp : Addr := 0
  sbase : Addr := 0
  slim : Addr := 0
  flags : BitVec 6 := 0
  rc : Cell := 0
  ls : Vector Landing 4 := Vector.replicate 4 {}
  an : Vector Anchor 8 := Vector.replicate 8 {}
  custody : Bool := false
  super : Bool := false
  mask : BitVec 4 := 0
  /-- Pending SYNC.C writes: control register number, value (R139). -/
  pend : SMap (Option Cell) := []
  resv : Vector Resv 3 := Vector.replicate 3 {}
  /-- Bytes 0-7 of a unit's state that is held neither by the unit nor in a reservation (R341, R343). -/
  units : Vector Cell 3 := Vector.replicate 3 0
deriving DecidableEq, Repr

/-- A store-buffer entry (R129). -/
structure SbEntry where
  far : Bool
  addr : Nat
  data : List Byte
  /-- WORLD bit of the issuing context (R325). -/
  custody : Bool
deriving DecidableEq, Repr

/-- A code-write buffer line: ITCM line number, bytes by offset, committed by SYNC.I (R136). -/
structure CwbLine where
  line : Nat
  bytes : List (Nat × Byte)
  committed : Bool
deriving DecidableEq, Repr

/-- A turret core (R108, R109, R138, R341). -/
structure Core where
  ctxs : Vector TCtx 8
  cur : Fin 8 := 0
  bankcfg : BitVec 6 := 1
  world : Cell := 0
  edtb : Cell := 0
  mpubase : Cell := 0
  mpuctl : Cell := 0
  /-- Copied region table (R327). -/
  mpu : List (Cell × Cell) := []
  bankwin : Cell := 0
  trapmask : BitVec 2 := 0
  sb : List SbEntry := []
  cwb : List CwbLine := []
  /-- Outstanding frames of the handler contexts 6 and 7 (R332). -/
  depth6 : Nat := 0
  depth7 : Nat := 0
  /-- A double-fault frame is outstanding (R337). -/
  dfOut : Bool := false
  /-- Owner of the floating, decimal and stream units (R341). -/
  owner : Vector (Option (Fin 8)) 3 := Vector.replicate 3 none
  /-- FCSR, DSTAT, SCOUNT of the owners. -/
  unit : Vector Cell 3 := Vector.replicate 3 0
  sleep : Bool := false
  dhalt : Bool := false
deriving DecidableEq, Repr

/-- Comparator state of a pair (R347, R348, R359-R362). -/
inductive PairSt where
  | split | locked | halt | offline
deriving DecidableEq, Repr

/-- A lockstep pair's hidden state. -/
structure Pair where
  st : PairSt := .split
  splitOnly : Bool := false
  /-- The pair has been released in split mode: fixed until both cores are held again (R347, R348). -/
  relSplit : Bool := false
  injok : Nat := 0
  /-- Groups whose first forced difference has been seen (R362). -/
  injHalf : Nat := 0
  /-- Class code of the detection that halted the pair (R358); 0 for none. -/
  haltClass : Nat := 0
deriving DecidableEq, Repr

/-! ### Spires (chapters 05, 06) -/

/-- A stream descriptor: words D0 to D3 (R147). -/
structure SDesc where
  d0 : Cell := 0
  d1 : Cell := 0
  d2 : Cell := 0
  d3 : Cell := 0
deriving DecidableEq, Repr

/-- The element operations (R187). -/
inductive VOp where
  | vadd | vsub | vadds | vsubs | vaddus | vsubus | vmin | vmax | vminu | vmaxu | vand | vor | vxor | vandn | vnot | vpopc
  | vshl | vshr | vsar | vrol | vror | vcmpeq | vcmpne | vcmplt | vcmpltu | vsel | vcopy | vfill | vperm
  | vgfmul | vgfmuls | vgfmac | vgfinv | vgfmatx | vbfly | vibfly | vpmul | vcld | vcrd
  | vcrc32c | vcrc64 | vsha256 | vghash | vaesx | vaesg | vrxor | vradd | vrfmis | vrnz
deriving DecidableEq, Repr

/-- A source of an operation: the place of its descriptor in the group, and of its index descriptor. -/
structure SrcRef where
  d : Nat
  ix : Option Nat := none
deriving DecidableEq, Repr

/-- An operation of a group, in entry order (R155, R185). -/
structure GOp where
  op : VOp
  w : Nat
  /-- Parameter cell (p, c, n or x). -/
  p : Cell := 0
  /-- VAESX: the first data unit, and the bytes into it at which the stream starts (R200, R212). -/
  t : Cell := 0
  skip : Nat := 0
  srcs : List SrcRef := []
  dst : Option SrcRef := none
deriving DecidableEq, Repr

/-- A chain group: its op-group PC, its operations, the descriptors in take-in order (R154, R155, R203). -/
structure Group where
  pc : Addr := 0
  ops : List GOp := []
  descs : List SDesc := []
deriving DecidableEq, Repr

/-- The running state of one operation: outputs made so far, the window of outputs that a consumer has not taken yet (`base` is
the number of the first), bytes of an unfinished block, transform state, latched key, a reduction's value. -/
structure OpRun where
  made : Nat := 0
  base : Nat := 0
  outs : List (Option Nat) := []
  buf : List Byte := []
  st : List Byte := []
  key : List Byte := []
  acc : Option Nat := some 0
  /-- The operation failed at the first step and delivers nothing. -/
  dead : Bool := false
deriving DecidableEq, Repr

/-- A store of the running group: step, address, the bytes it replaced (R160). -/
structure GStore where
  step : Nat
  addr : Nat
  old : List Byte
deriving DecidableEq, Repr

/-- A halting fault of a group (R203, R206): the group element index that ranks it, the stream (3 none), the operation (7 none). -/
structure GFault where
  gix : Nat
  stream : Nat
  opn : Nat
  cause : Nat
  detail : Nat
  e : Nat
  user : Nat
deriving DecidableEq, Repr

/-- The running group of a spire (R157, R160, R161). -/
structure GRun where
  ctx : Fin 4
  group : Group
  step : Nat := 0
  runs : List OpRun := []
  recent : List GStore := []
  /-- Marked elements: element index of the stream, group element index (R152, R210). -/
  marks : List (Nat × Nat) := []
  /-- The halting fault and the first group element that was not delivered (R206, R208). -/
  halt : Option (GFault × Nat) := none
deriving DecidableEq, Repr

/-- State of a spire context's group (R159). -/
inductive AdmSt where
  | none | queued | running
  | ended (results : List Cell)
  | halted
deriving DecidableEq, Repr

/-- SPR_CSTAT.STATE (R176). -/
inductive SpSt where
  | idle | run | gwait | mwait | fault
deriving DecidableEq, Repr

/-- The kept image of a halted group: the group and its watermark (R211, R212). -/
structure FaultImage where
  group : Group
  w : Nat
deriving DecidableEq, Repr

/-- What a vendor program waits for between the steps of its command. -/
inductive VWait where
  /-- Turret 0's answer to handoff `k` of a narrow program (R445). -/
  | hand (k : Nat)
  /-- Mirror request `k` of a PUT, for a journal slot and an offset in the partner's mirror region (R36, R309); its ring slot, none while
  no slot of the ring is free. -/
  | mirror (k : Nat) (slot : Option Nat) (jslot moff : Nat)
  /-- VERIFY, SCRUB: the next shard, and the shards found good, unreadable and skipped (R240, R241). -/
  | scan (next : Nat) (good bad skip : List Nat)
deriving DecidableEq, Repr

/-- A spire context (R145, R146, R164, R203). -/
structure SpCtx where
  st : SpSt := .idle
  pc : Addr := 0
  /-- Value stack, top first: at most 32 cells. -/
  win : List Cell := []
  rc : Cell := 0
  flags : BitVec 6 := 0
  /-- Stream stack, top first: at most 8 descriptors. -/
  descs : List SDesc := []
  /-- Open group. -/
  opened : Option Group := none
  adm : AdmSt := .none
  handler : Addr := 0
  image : Option FaultImage := none
  /-- Fault record: FINFO to FAUX. -/
  finfo : Word32 := 0x03E00000
  fpc : Addr := 0
  fe : Word32 := 0
  fw : Word32 := 0
  fmlow : Word32 := 0
  fuser : Word32 := 0
  faux : Word32 := 0
  status : Byte := 0
  /-- SPR_CPC as written, for the next start. -/
  cpc : Addr := 0
  arg0 : Cell := 0
  arg1 : Cell := 0
  /-- STOP has been written. -/
  stop : Bool := false
  /-- A VCGET or VCPUT waits for the running group to end; no other group is admitted before its access (R183). -/
  coefWait : Bool := false
  /-- In-flight entry of the command the context runs (R164), and what its vendor program waits for. -/
  ift : Option Nat := none
  vwait : Option VWait := none
deriving DecidableEq, Repr

/-- A line of the program buffer: its address, its bytes and the bits in error of its eight words (R145, R168). -/
structure PbLine where
  addr : Nat
  data : List Byte
deriving DecidableEq, Repr

/-- A spire (R145). -/
structure Spire where
  ctxs : Vector SpCtx 4 := Vector.replicate 4 {}
  /-- Admission queue, oldest first (R161). -/
  queue : List (Fin 4 × Group) := []
  running : Option GRun := none
  pbuf : List PbLine := []
  /-- Control store: 16,384 microwords of 32 bytes, empty while nothing has been loaded; bits in error of its 64-bit parts, by
  microword * 4 + part (R145, R169). -/
  cstore : List Byte := []
  csErr : SMap Nat := []
deriving DecidableEq, Repr

/-- A key slot of the Keep (R448): KIND, GRANT, key material. -/
structure KeySlot where
  kind : Nat := 0
  grant : Byte := 0
  key : List Byte := []
deriving DecidableEq, Repr


/-! ### What leaves the device -/

/-- A command of a SATA drive, by the name that R273 gives it. -/
inductive AtaCmd where
  /-- Queued transfers: logical block address and number of blocks. -/
  | readFpdma (lba count : Nat)
  | writeFpdma (lba count : Nat)
  | flushCacheExt | idleImmediate | standbyImmediate | checkPowerMode | identifyDevice
  /-- Starting block, reporting options, bytes wanted. -/
  | reportZonesExt (lba options len : Nat)
  /-- Zone action, zone, ALL. -/
  | zacManagementOut (action lba : Nat) (all : Bool)
deriving DecidableEq, Repr

/-- An output of the block: what it sends on a link or a pin. -/
inductive Out where
  /-- A CST datagram from Ethernet port 0-7 or from MG0, MG1 (8, 9): priority, VLAN id where the port tags its frames, destination. -/
  | cst (port pcp : Nat) (vid : Option Nat) (peer : List Byte) (dgram : List Byte)
  /-- A slow-path frame of an Ethernet port (R298). -/
  | slow (port : Nat) (frame : List Byte)
  /-- Priority flow control: XOFF or XON of a priority (R299). -/
  | pfc (port prio : Nat) (xoff : Bool)
  /-- A message (R308) handed to a pair port, whose flits follow. -/
  | pair (port type : Nat) (tag : Nat) (payload : List Byte)
  /-- The 256 bytes of a flit on a pair port (R306). -/
  | flit (port : Nat) (bytes : List Byte)
  /-- A drive command on a port, with its data out (R272). -/
  | drive (port : Nat) (cdb : List Byte) (data : List Byte)
  /-- A command to a SATA drive, with its data out (R273). -/
  | sata (port : Nat) (cmd : AtaCmd) (data : List Byte)
  /-- The device's IDENTIFY address frame on a port, with the port's SAS address (R271, R280). -/
  | identify (port : Nat) (addr : Nat)
  /-- What a link-program action sends on a port: its action code (R279). -/
  | link (port action : Nat)
  /-- A command or acknowledgement from the main die to the Cupola, or from the Cupola to its optical port. -/
  | cupola (bytes : List Byte)
  | meter (bytes : List Byte)
  /-- A pin of the package changes. -/
  | pin (name : Nat) (level : Bool)
  /-- An instruction store or trace event of the debug port. -/
  | debug (value : Nat)
deriving DecidableEq, Repr

/-! ### Queue engine (chapter 08) -/

/-- A shard that a PUT writes to its drive: port, block, address and length in the work area, and whether the drive carries it out. -/
structure ShardOut where
  port : Nat
  lba : Nat
  addr : Nat
  len : Nat
  good : Bool
deriving DecidableEq, Repr

/-- What a PUT does after its completion (R36): its shard writes, then the retiring of the journal slot through mirror ring `ring`. -/
structure PutRest where
  writes : List ShardOut
  ring : Nat
  jslot : Nat
deriving DecidableEq, Repr

/-- An entry of the in-flight table (R262), with the outcome of a command that is completing. -/
structure IftEnt where
  /-- 0 DISPATCHED, 1 RUNNING, 2 COMPLETING. -/
  st : Nat := 0
  half : Bool := false
  opcode : Nat := 0
  /-- Stripe program table entry. -/
  entry : Nat := 0
  qid : Nat := 0
  seq : Word32 := 0
  sqidx : Nat := 0
  engine : Bool := false
  spire : Nat := 0
  ctx : Nat := 0
  start : Word32 := 0
  nr : Bool := false
  status : Nat := 0
  result : Word32 := 0
  /-- AUX0 of the command. -/
  aux0 : Cell := 0
  /-- The completion is to be discarded: the device was fenced after the dispatch (R315). -/
  drop : Bool := false
  /-- Dispatched in reduced service: GET and PUT run the narrow program (R445). -/
  narrow : Bool := false
  /-- FLUSH: one of its drive commands has failed. -/
  bad : Bool := false
  /-- PUT: what follows the completion. -/
  rest : Option PutRest := none
deriving DecidableEq, Repr

/-- A completion before it is written (R255). -/
structure Comp where
  seq : Word32 := 0
  sqidx : Nat := 0
  status : Nat := 0
  orig : Nat := 0
  result : Word32 := 0
  ift : Nat := 0
  nodisp : Bool := false
  stale : Bool := false
  nr : Bool := false
deriving DecidableEq, Repr

/-- A completion that waits for the DACK of its delta (R256 step 2, R311); `ift` is none for one formed at intake. -/
structure Wait where
  delta : Nat
  q : Nat
  comp : Comp
  ift : Option Nat := none
deriving DecidableEq, Repr

/-- A held command: its slot and its 64 bytes (R259). -/
structure Held where
  slot : Nat
  data : List Byte
deriving DecidableEq, Repr

/-- The queue engine (R259-R267). -/
structure Qe where
  /-- In-flight table, by index. -/
  ift : SMap (Option IftEnt) := []
  /-- Held commands, by queue. -/
  held : SMap (Option Held) := []
  /-- Slot pointers, remaining counts, and last queue chosen by class * 4096 + slot (R267). -/
  ptr : Vector Nat 3 := Vector.replicate 3 4095
  left : Vector Nat 3 := Vector.replicate 3 0
  last : SMap Nat := []
  /-- QST_DBSEL by identity (R258). -/
  dbsel : SMap Nat := []
  /-- Number of the next QDELTA; deltas without a DACK, with the pair port each travels on (R311). -/
  delta : Nat := 0
  deltas : List (Nat × Nat) := []
  waits : List Wait := []
deriving DecidableEq, Repr



/-! ### Drives and power sets (chapter 09) -/

/-- Who issued a drive command (R272). -/
inductive DSrc where
  /-- Ring and address of the slot. -/
  | ring (r addr : Nat)
  | start | stop | tur | probe
  | register | reserve | preempt
  | flush (ift : Nat)
deriving DecidableEq, Repr

/-- A drive command that holds a tag of its port (R277). -/
structure DReq where
  src : DSrc
  cdb : List Byte
  buf : Nat := 0
  len : Nat := 0
  /-- W6 of the drive request block (R274). -/
  w6 : Cell := 0
deriving DecidableEq, Repr

/-- A drive port (R271-R294). -/
structure Port where
  /-- Link-program state, retry count, timer running (R279). -/
  lp : Nat := 0
  retry : Nat := 0
  timer : Bool := false
  /-- Tags are open (R279). -/
  opened : Bool := false
  /-- STAT.RATE, and the rate of the last speed negotiation. -/
  rate : Nat := 0
  snw : Nat := 0
  active : List DReq := []
  /-- Invalid dwords in the cycle of the given number (R279). -/
  dwords : Nat := 0
  dwCycle : Nat := 0
  /-- The drive is registered for its set's present spin-up (R292). -/
  registered : Bool := false
  /-- Contribution to the inrush ring: entries from the current half-cycle on, and the constant that follows (R288). -/
  load : Option (List Nat × Nat) := none
deriving DecidableEq, Repr

/-- PWR and the fencing engine beyond their registers (R284-R293). -/
structure Pwr where
  /-- Members queued for admission, oldest first (R289). -/
  queue : List Nat := []
  /-- Commands of PWR, the fencing engine and FLUSH that wait to be sent: port, command (R277). -/
  ops : List (Nat × DSrc) := []
  /-- Bound members, in the order they were bound (R291). -/
  bound : List Nat := []
  /-- Sum of the members' contributions in the half-cycle just ended (R290). -/
  prev : Nat := 0
  /-- Budget in force (R295). -/
  budget : Nat := 0
  /-- Last peak reading in mW since the last update, and boundaries without one (R290). -/
  peak : Option Nat := none
  missed : Nat := 0
  /-- No admission until a half-cycle measures within the budget (R291). -/
  hold : Bool := false
deriving DecidableEq, Repr


/-! ### Shelf transport and the pair (chapter 10) -/

/-- State of a bulk window (R301). -/
inductive WinSt where
  | filling | submitted | sending | responded
deriving DecidableEq, Repr

/-- A bulk window of the CST port (R301-R304). -/
structure Win where
  st : WinSt := .filling
  client : Nat := 0
  seq : Nat := 0
  qid : Nat := 0
  /-- Ethernet port whose pool holds the window (R302). -/
  port : Nat := 0
  /-- Port and sender of its last REQ, to which its frames go (R299). -/
  rport : Nat := 0
  peer : List Byte := []
  /-- First unit and number of units of 64 KiB in the port's pool (R302). -/
  unit : Nat := 0
  units : Nat := 0
  blen : Nat := 0
  olen : Nat := 0
  /-- Bitmap of the inbound pages received; DATA frames accepted, and those accepted since the last CREDIT (R303). -/
  pages : Nat := 0
  got : Nat := 0
  since : Nat := 0
  entry : List Byte := []
  /-- Outbound part: bytes acknowledged and sent, and the client's limit (R304). -/
  acked : Nat := 0
  sent : Nat := 0
  limit : Nat := 0
  /-- RESPs sent, and the completion they carry. -/
  tries : Nat := 0
  comp : List Byte := []
deriving DecidableEq, Repr

/-- A submission the ports made, whose completion they await (R304): its queue, slot and SEQ, its window, and where the RESP of one
without a window goes. -/
structure Sub where
  qid : Nat
  slot : Nat
  seq : Nat
  win : Option Nat := none
  port : Nat
  peer : List Byte := []
  client : Nat := 0
deriving DecidableEq, Repr

/-- The last MREQ a management port executed, with its stored MRESP (R313). -/
structure Mreq where
  client : Nat
  seq : Nat
  resp : List Byte
deriving DecidableEq, Repr

/-- A CST frame held because its priority is paused (R297): priority, destination, datagram. -/
structure HeldFrame where
  prio : Nat
  peer : List Byte
  frame : List Byte
deriving DecidableEq, Repr

/-- The Ethernet and management ports (R297-R305, R313). -/
structure Eth where
  /-- Windows 0-4,095. -/
  wins : SMap (Option Win) := []
  /-- Newest first. -/
  subs : List Sub := []
  /-- Paused priorities of an Ethernet port, as a mask, and the frames they hold back (R297). -/
  paused : SMap Nat := []
  held : SMap (List HeldFrame) := []
  /-- Priorities for which a port has raised XOFF, as a mask (R299). -/
  xoff : SMap Nat := []
  /-- By management port. -/
  mreq : SMap (Option Mreq) := []
deriving DecidableEq, Repr

/-- A message of the pair link (R308). -/
structure PairMsg where
  type : Nat
  tag : Nat
  payload : List Byte
deriving DecidableEq, Repr

/-- A pair port (R306-R308). -/
structure PPort where
  /-- Next FSEQ expected; a NAK has been sent and the flits up to the expected one are discarded. -/
  expect : Nat := 0
  nak : Bool := false
  /-- FSEQ of the last flit of the run being discarded, where it is known (R307). -/
  last : Option Nat := none
  /-- Bytes of the MSG stream not yet made up to a message, and the messages received, oldest first. -/
  inBytes : List Byte := []
  inbox : List PairMsg := []
  /-- Next FSEQ to send, and the MSG flits without an acknowledgement: FSEQ and payload, oldest first; the first 1,024
  have been sent (R307). -/
  fseq : Nat := 0
  unacked : List (Nat × List Byte) := []
deriving DecidableEq, Repr

/-- A mirror request that waits for MACK (R310). -/
structure Mirror where
  mid : Nat
  /-- Address of its ring slot, and W6. -/
  addr : Nat
  w6 : Nat
deriving DecidableEq, Repr

/-- The pair-link supervision and the pair DMA (R309-R320). -/
structure PairLink where
  ports : SMap PPort := []
  /-- Next mirror id; requests awaiting MACK. -/
  mid : Nat := 0
  mirrors : List Mirror := []
  /-- Chunks received, by mirror id; JRECs whose chunks have not all arrived, with their port and journal slot. -/
  chunks : SMap Nat := []
  jrecs : List (Nat × (Nat × PairMsg)) := []
  /-- Next up port of the round robin over which WAB chunks are spread. -/
  robin : Nat := 0
  /-- The last 16 phase offsets, newest first (R314); the TIME of the last heartbeat taken (it counts once, R314). -/
  offs : List Int := []
  lastHb : Option Nat := none
  /-- Consecutive heartbeats with |d| > 1 (R318). -/
  far : Nat := 0
  /-- No heartbeat of a partner is expected: none has arrived, or the loss has been declared. -/
  lost : Bool := true
  /-- Firings of BCMP00 since the start, up to 100 (R319). -/
  mcys : Nat := 0
  /-- Record of the partner's last JOIN or JOINRSP: epoch, key. -/
  pepoch : Nat := 0
  pkey : Nat := 0
  /-- A join has been accepted and its copy runs; this device is its loser and receives the copy (R317). -/
  joined : Bool := false
  loser : Bool := false
  /-- A refused joiner stays in STANDBY until it restarts (R317). -/
  refused : Bool := false
  /-- The lease is valid (R320). -/
  lease : Bool := false
  /-- Sequence number of the lease frames (R300). -/
  leaseSeq : Nat := 0
  /-- A lease request of this device is on its way (R319). -/
  asked : Bool := false
deriving DecidableEq, Repr


/-! ### Cupola (chapter 15) -/

/-- An audit-log entry (R419). -/
structure CupLog where
  num : Nat := 0
  kind : Nat := 0
  param : Nat := 0
  opsec : Nat := 0
  old : Nat := 0
  new : Nat := 0
deriving DecidableEq, Repr

/-- The energy registers and their residues, in CW_E order (R412): registers as numbers of Wh, residues in µWh, and what is below
1 µWh as a sum of samples in µW. -/
structure CupEnergy where
  reg : Vector Nat 10 := Vector.replicate 10 0
  res : Vector Nat 10 := Vector.replicate 10 0
  part : Vector Nat 10 := Vector.replicate 10 0
deriving DecidableEq, Repr

/-- An image in the Cupola's non-volatile storage (R420). -/
structure CupSave where
  energy : CupEnergy := {}
  opsec : Nat := 0
  /-- The write was a completed power-fail write. -/
  fail : Bool := true
deriving DecidableEq, Repr

/-- What a channel has summed in the current second and half-cycle, and its readings of the last second (R413). -/
structure CupChan where
  sumV : Nat := 0
  sumI : Nat := 0
  sumP : Int := 0
  sumUv : Nat := 0
  sumUi : Nat := 0
  peak : Nat := 0
  vrms : Nat := 0
  irms : Nat := 0
  power : Int := 0
  /-- RMS at the voltage and the current input in µV over the last second (R412, R422). -/
  uv : Nat := 0
  ui : Nat := 0
deriving DecidableEq, Repr

/-- The Cupola (R409-R427). -/
structure Cup where
  /-- CUP_VDD is present and the die is ready. -/
  ready : Bool := true
  /-- CUP_CAL_EN as the pin is, and as the audit log last recorded it. -/
  calen : Bool := false
  calenLogged : Bool := false
  /-- Fuses: seal, serial, private key; mask-ROM version and CRC. -/
  sealed : Bool := false
  serial : Cell := 0
  key : Nat := 0
  fwver : BitVec 16 := 0
  fwcrc : Word32 := 0
  /-- Calibration parameters other than their reset values, by id (R418). -/
  params : SMap Nat := []
  /-- Audit log, oldest first. -/
  log : List CupLog := []
  save : CupSave := {}
  energy : CupEnergy := {}
  opsec : Nat := 0
  /-- OPSEC at the last periodic save. -/
  savedAt : Nat := 0
  holdupOk : Bool := true
  chans : Vector CupChan 4 := Vector.replicate 4 {}
  /-- Sum of the included channels in the current second; total power; peak of the total in the current half-cycle. -/
  sumTot : Int := 0
  total : Int := 0
  peakTot : Nat := 0
  /-- Samples of the current second; samples since the last half-cycle boundary, and since the last positive crossing in 1/65,536. -/
  nsec : Nat := 0
  /-- A whole second has been measured. -/
  measured : Bool := false
  nhalf : Nat := 0
  ncross : Nat := 0
  /-- Last sample of V0. -/
  v0 : Int := 0
  /-- Positive crossings seen, capped at 4 (R414); frequency in mHz. -/
  crossings : Nat := 0
  freq : Nat := 0
  /-- A half-cycle has ended: peaks of channels 0-3 and of the total (R413); half-cycles counted. -/
  ended : Option (List Nat) := none
  halves : Nat := 0
  /-- Warm-up left in mcy; warm-up, temperature and self-check of R415. -/
  warmLeft : Nat := 60
  warm : Bool := true
  tempOk : Bool := true
  selfOk : Bool := true
  /-- Periodic snapshot interval (R424). -/
  snapint : Nat := 100
  /-- Refused requests since power-up, and the entry that counts them (R419). -/
  refused : Nat := 0
  refusedEntry : Option Nat := none
  /-- ALIGN slot; master slot: the words of the request while BUSY (R424, R426). -/
  align : Option Nat := none
  master : Option (List Nat) := none
  /-- Messages queued on page 0x381, oldest first: four words each; messages discarded. -/
  evq : List (List Nat) := []
  evlost : Nat := 0
deriving DecidableEq, Repr


/-! ### Start-up and power states (chapters 16, 17) -/

/-- Power state of R428, with the state in which power-on reset is held (R460). -/
inductive PowerSt where
  | off | vigil | active
deriving DecidableEq, Repr

/-- Start-up, fuses and power states (R428-R451, R460-R470). -/
structure Boot where
  power : PowerSt := .active
  /-- Power-on reset is raised, or has been released and the cold start has not run. -/
  por : Bool := true
  vin12 : Bool := true
  vaux33 : Bool := true
  /-- A thermal trip holds every wake; a wake is held; FAULT_N and THERM_N are driven low (R465, R467). -/
  trip : Bool := false
  wakeHeld : Bool := false
  faultLow : Bool := false
  thermLow : Bool := false
  /-- RST_N is low; a device warm reset with the given cause has been raised and its start has not run (R469). -/
  rstLow : Bool := false
  warm : Option Nat := none
  /-- The entry of R430 in progress: true is VIGIL, false OFF. -/
  entry : Option Bool := none
  /-- Keys that only the Keep uses (R433). -/
  kimg : List Byte := List.replicate 32 0
  kwrap : List Byte := List.replicate 32 0
  kpatch : List Byte := List.replicate 32 0
  /-- The image in use: control-store contents after the patches, its version word, link-program entries and version, register-write
  table (R294, R437-R439). -/
  ucode : List Byte := []
  csver : Nat := 0
  linkprog : List Nat := []
  lpver : Nat := 0
  regtab : List Byte := []
  /-- Retention store: PWR_DREQ0-5, and the channels whose training codes are saved, as a mask (R430, R441). -/
  dreq : List Nat := []
  codes : Nat := 0
  /-- Slots of the NOR die, as a mask, whose last write was cut off (R451). -/
  torn : Nat := 0
  /-- Phase-2 groups trained (R441). -/
  group : Nat := 0
  /-- The pair-link supervision sends no heartbeats (R430). -/
  quiet : Bool := false
deriving DecidableEq, Repr

/-- Why a command stops with a fault. -/
inductive Fault where
  /-- Raised by a meaning whose operands are not a command of the device (`Instr.wf` is false). Safe: such a term stands for
  nothing the hardware can do. -/
  | illFormed
deriving DecidableEq, Repr

/-- Why a command has no meaning. -/
inductive Refusal where
  /-- Raised by the dispatcher for a command that has no meaning yet. Safe. -/
  | notModelled (mnemonic : String)
deriving DecidableEq, Repr

/-- The whole device. -/
structure State where
  /-- Commands waiting, first in, first out. -/
  pending : List Instr := []
  /-- Counter of free values: the model's own field (log entry 3). -/
  free : Nat := 0
  /-- What the last bus access returned: an output. -/
  resp : Resp := .none
  /-- The registers that are plain words: key page << 12 | offset. -/
  regs : SMap Word32 := []
  locks : SMap PageLock := []
  errs : SMap PageErr := []
  /-- Fault-window ticks (firings of BCMP01) since the last reset that empties the buckets (R63, R401). -/
  fwTicks : Nat := 0
  /-- Domains whose state is not the reset state (R47, R48): true is on. -/
  domains : SMap Bool := []
  /-- All memory: TCM, scratch, queue store, parameter blocks by address; DRAM by physical location. -/
  mem : List Host.Cell := []
  /-- Stored errors of DRAM lines, by line location. -/
  lineErr : SMap CellErr := []
  /-- Stored errors of scratch, queue-store and TCM words, by word address. -/
  wordErr : SMap CellErr := []
  memc : Memc := {}
  scr0 : Scr := {}
  scr1 : Scr := {}
  belf : Belf := {}
  timers : SMap Timer := []
  /-- Latched high-half counts, by timer and identity (R73). -/
  tlatch : SMap Word32 := []
  mbx : SMap MbChan := []
  /-- Lock registers: owner of a held lock (R399). -/
  lck : SMap (Option Nat) := []
  fm : Fm := {}
  /-- Spires whose fence has been declared (R175). -/
  spFence : SMap Bool := []
  cores : Vector Core 8
  pairs : Vector Pair 4 := Vector.replicate 4 {}
  spires : Vector Spire 8 := Vector.replicate 8 {}
  qe : Qe := {}
  /-- Key slots of the Keep (R448). -/
  keys : SMap KeySlot := []
  /-- Drive ports (R271). -/
  ports : SMap Port := []
  pwr : Pwr := {}
  /-- Committed link-program entries by group * 128 + entry; the entries as the Keep loader filled them; held low words (R278, R281). -/
  links : SMap Nat := []
  loaded : SMap Nat := []
  linkLo : SMap (Option Nat) := []
  eth : Eth := {}
  plink : PairLink := {}
  cup : Cup := {}
  boot : Boot := {}
  /-- What left the device, newest first: an output. -/
  out : List Out := []
deriving DecidableEq, Repr

/-- Reset state of context `n` of a core (R108). -/
def TCtx.reset (n : Nat) : TCtx :=
  { vsp := BitVec.ofNat 48 (0x80000 - n * 0x4000), sbase := BitVec.ofNat 48 (0x80000 - n * 0x4000),
    slim := BitVec.ofNat 48 (0x7C000 - n * 0x4000), custody := n = 0, super := n = 0, mask := if n = 0 then 15 else 0 }

/-- Reset state of a core (R108, R109). -/
def Core.reset : Core :=
  { ctxs := Vector.ofFn fun n => TCtx.reset n.val }

/-- The machine right after power-on reset (R14): every register at the reset value of its table, no command waiting. -/
def State.reset : State := { cores := Vector.replicate 8 Core.reset }

end Sys2Proof.Machine
end

