-- ==== Sys2Proof/Machine/Ops.lean ====
section
/-! DEFINITION. The named operations every family uses: registers, interrupt flags, events, domains, bus-error record,
correctable-event counts, free values, bytes of memory. -/
namespace Sys2Proof.Machine

/-- What a command answers. -/
abbrev Res := Host.Outcome State Fault Refusal

/-- The answer of a command that goes on. -/
def ok (s : State) : Res := .next s
/-- The answer of a command whose operands are well formed (`b`), and the stop of one whose operands are not. -/
def okIf (b : Bool) (s : State) : Res := if b then .next s else .fault .illFormed

/-! ### Registers -/

/-- Key of a register. -/
def regKey (page off : Nat) : Nat := page * 4096 + off
/-- Reset value of the register at a key (R14). -/
def regResetAt (k : Nat) : Word32 := regReset (k / 4096) (k % 4096)
/-- The stored word of a register; a register nobody has written holds its reset value (R14). -/
def State.reg (s : State) (page off : Nat) : Word32 := sget s.regs (regKey page off) (regResetAt (regKey page off))
/-- The state with a register's stored word replaced. -/
def State.setReg (s : State) (page off : Nat) (v : Word32) : State :=
  { s with regs := sput s.regs (regKey page off) v (regResetAt (regKey page off)) }
/-- A field of a register. -/
def State.regF (s : State) (page off lo w : Nat) : Nat := regFld (s.reg page off) lo w
/-- A bit of a register. -/
def State.regB (s : State) (page off n : Nat) : Bool := regBit (s.reg page off) n
/-- The state with a register's field replaced. -/
def State.setRegF (s : State) (page off lo w v : Nat) : State := s.setReg page off (regSet (s.reg page off) lo w v)
/-- Registers of a range of pages back at their reset values. -/
def State.dropRegs (s : State) (p : Nat → Nat → Bool) : State :=
  { s with regs := sdrop (fun k => p (k / 4096) (k % 4096)) s.regs }

/-- Offsets of the common header (R42). -/
abbrev oCtl : Nat := 0x008
abbrev oStat : Nat := 0x00C
abbrev oIrqRaw : Nat := 0x010
abbrev oIrqEn : Nat := 0x014
abbrev oErrcfg : Nat := 0x028

/-! ### Free values -/

/-- A fresh free value, and the state with the counter advanced (log entry 3). -/
def State.fresh (s : State) : Cell × State := (Config.freeCell s.free, { s with free := s.free + 1 })

/-! ### Power domains (R47, R48), numbered as page 0x350 numbers them -/

abbrev pdTur (n : Nat) : Nat := 3 + n
abbrev pdCmp (n : Nat) : Nat := 11 + n
abbrev pdSpd (n : Nat) : Nat := 15 + n
abbrev pdSps (n : Nat) : Nat := 23 + n
abbrev pdScr (n : Nat) : Nat := 31 + n
abbrev pdQst (n : Nat) : Nat := 63 + n
abbrev pdDch (n : Nat) : Nat := 71 + n
abbrev pdSasg (n : Nat) : Nat := 135 + n
abbrev pdEth (n : Nat) : Nat := 165 + n
abbrev pdPair (n : Nat) : Nat := 173 + n
abbrev pdFab0 : Nat := 177
abbrev pdFab1 : Nat := 178
abbrev pdMgmt : Nat := 179
abbrev pdNor : Nat := 180
abbrev pdLant : Nat := 181

/-- Domains that are on at power-on reset: PD_AON, PD_KEEP, PD_CUP and the two fabric halves (R428, log entry 6). -/
def domainReset (d : Nat) : Bool := d < 3 || (d == pdFab0 || d == pdFab1)
/-- A power domain is on. -/
def State.dom (s : State) (d : Nat) : Bool := sget s.domains d (domainReset d)
/-- The state with a power domain switched. -/
def State.setDom (s : State) (d : Nat) (on : Bool) : State := { s with domains := sput s.domains d on (domainReset d) }

/-- Domains a domain requires (R47). -/
def domainNeeds (d : Nat) : List Nat :=
  if d = 0 ∨ d = 2 then [] else if d = 1 then [0]
  else if d < 11 then [pdFab0]
  else if d < 15 then [pdTur (2 * (d - 11)), pdTur (2 * (d - 11) + 1)]
  else if d < 23 then [pdSps (d - 15)]
  else if d < 63 then [pdFab1]
  else if d < 71 then [pdFab0]
  else if d < 135 then [pdFab1]
  else if d < 177 then [pdFab0]
  else if d < 181 then [1]
  else [pdFab0]

/-- The block domain of a page (R48); none for a page no domain cuts off. -/
def pageDomain (page : Nat) : Option Nat :=
  match pageBlock page with
  | some (.tur, n) => if n < 8 then some (pdTur n) else some (pdCmp (n - 8))
  | some (.spr, n) => some (pdSps n)
  | some (.memc, n) => if n = 0 then none else some (pdDch (n - 1))
  | some (.sasp, n) => if n < 240 then some (pdSasg (n / 8)) else none
  | some (.ethp, n) => if n < 8 then some (pdEth n) else none
  | some (.pair, n) => if n < 4 then some (pdPair n) else none
  | some (.mgmt, _) => some pdMgmt
  | some (.lant, _) => some pdLant
  | _ => none

/-- A page's block domain is on (R48). -/
def State.pageOn (s : State) (page : Nat) : Bool :=
  match pageDomain page with
  | none => true
  | some d => s.dom d

/-! ### Cores and lockstep pairs -/

/-- Turret core `n`. -/
def State.core (s : State) (n : Fin 8) : Core := s.cores[n]
/-- The state with core `n` replaced. -/
def State.setCore (s : State) (n : Fin 8) (c : Core) : State := { s with cores := s.cores.set n c }
/-- Pair of a core. -/
def pairOf (n : Fin 8) : Fin 4 := ⟨n.val / 2, by omega⟩
/-- Even core of a pair. -/
def evenCore (p : Fin 4) : Fin 8 := ⟨2 * p.val, by omega⟩
/-- Odd core of a pair. -/
def oddCore (p : Fin 4) : Fin 8 := ⟨2 * p.val + 1, by omega⟩
/-- Pair `p`. -/
def State.pair (s : State) (p : Fin 4) : Pair := s.pairs[p]
def State.setPair (s : State) (p : Fin 4) (x : Pair) : State := { s with pairs := s.pairs.set p x }
/-- The pair of core `n` runs in lockstep or is halted in it (R346, R359). -/
def State.lockstep (s : State) (n : Fin 8) : Bool :=
  (s.pair (pairOf n)).st == .locked || (s.pair (pairOf n)).st == .halt
/-- Current context of a core. -/
def Core.ctx (c : Core) : TCtx := c.ctxs[c.cur]
/-- The core with its current context replaced. -/
def Core.setCtx (c : Core) (x : TCtx) : Core := { c with ctxs := c.ctxs.set c.cur x }
/-- TUR_CTL.HOLD of a core (R143). -/
def State.held (s : State) (n : Fin 8) : Bool := s.regB (0x1A0 + n.val) oCtl 0

/-! ### Event sources (14_events_faults.md R384-R389) -/

/-- The event source a page drives (R384). -/
def pageSource (p : Nat) : Option Nat :=
  if p < 0x10 then some p
  else if 0x10 ≤ p ∧ p < 0x13 then some (p - 0x10 + 16)
  else if 0x20 ≤ p ∧ p < 0x2C then some (p - 0x20 + 19)
  else if p = 0x390 then some 31
  else if p = 0x80 then some 160
  else if 0xC0 ≤ p ∧ p < 0x100 then some (p - 0xC0 + 161)
  else if p = 0x100 ∨ p = 0x101 then some (p - 0x100 + 225)
  else if p = 0x120 then some 227
  else if 0x128 ≤ p ∧ p < 0x130 then some 228
  else if 0x130 ≤ p ∧ p < 0x138 then some 229
  else if 0x160 ≤ p ∧ p < 0x168 then some (p - 0x160 + 230)
  else if 0x1A0 ≤ p ∧ p < 0x1AC then some (p - 0x1A0 + 238)
  else if p = 0x1C0 then some 250
  else if (0x40 ≤ p ∧ p < 0x43) ∨ (0x60 ≤ p ∧ p < 0x69) then some 251
  else if 0x380 ≤ p ∧ p < 0x384 then some (p - 0x380 + 252)
  else if 0x200 ≤ p ∧ p < 0x2F0 then some ((p - 0x200) / 8 + 256)
  else if 0x2F0 ≤ p ∧ p < 0x2FF then some (p - 0x2F0 + 286)
  else if p = 0x2FF then some 301
  else if 0x300 ≤ p ∧ p < 0x308 then some (p - 0x300 + 302)
  else if p = 0x308 then some 310
  else if 0x320 ≤ p ∧ p < 0x326 then some (p - 0x320 + 311)
  else if p = 0x340 ∨ p = 0x341 then some (p - 0x340 + 317)
  else if p = 0x350 then some 319
  else if 0x351 ≤ p ∧ p < 0x354 then some 320
  else if 0x360 ≤ p ∧ p < 0x370 then some 321
  else if 0x3A0 ≤ p ∧ p < 0x3B0 then some 322
  else none

/-- The pages that drive a page source (R384). -/
def sourcePages (e : Nat) : List Nat :=
  if e < 16 then [e]
  else if e < 19 then [e - 16 + 0x10]
  else if e < 31 then [e - 19 + 0x20]
  else if e = 31 then [0x390]
  else if e < 160 then []
  else if e = 160 then [0x80]
  else if e < 225 then [e - 161 + 0xC0]
  else if e < 227 then [e - 225 + 0x100]
  else if e = 227 then [0x120]
  else if e = 228 then rangeFrom 0x128 8
  else if e = 229 then rangeFrom 0x130 8
  else if e < 238 then [e - 230 + 0x160]
  else if e < 250 then [e - 238 + 0x1A0]
  else if e = 250 then [0x1C0]
  else if e = 251 then rangeFrom 0x40 3 ++ rangeFrom 0x60 9
  else if e < 256 then [e - 252 + 0x380]
  else if e < 286 then rangeFrom (0x200 + 8 * (e - 256)) 8
  else if e < 301 then [e - 286 + 0x2F0]
  else if e = 301 then [0x2FF]
  else if e < 310 then [e - 302 + 0x300]
  else if e = 310 then [0x308]
  else if e < 317 then [e - 311 + 0x320]
  else if e < 319 then [e - 317 + 0x340]
  else if e = 319 then [0x350]
  else if e = 320 then rangeFrom 0x351 3
  else if e = 321 then rangeFrom 0x360 16
  else if e = 322 then rangeFrom 0x3A0 2
  else []

/-- A page drives its source while any bit of IRQ_STAT is 1 (R43). -/
def State.pageLevel (s : State) (p : Nat) : Bool := (s.reg p oIrqRaw &&& s.reg p oIrqEn) != 0

/-- Mailbox channel `c`. -/
def State.chan (s : State) (c : Nat) : MbChan := sget s.mbx c {}
def State.setChan (s : State) (c : Nat) (x : MbChan) : State := { s with mbx := sput s.mbx c x {} }

/-- CROSS of a channel (R396). -/
def mbCross (x : MbChan) : Bool := x.a.queue.length ≥ 8 && (x.b.queue.length ≥ 8 && (x.a.wait && x.b.wait))

/-- The endpoint source of a side is raised (R398); `o` is the other side. -/
def mbRaised (x : MbChan) (m o : MbSide) : Bool :=
  (m.db &&& m.dbmask) != 0 || (regBit m.even 0 && !o.queue.isEmpty) ||
  (regBit m.even 1 && m.wait && decide (m.queue.length < 8)) || mbCross x || regBit m.flags 0

/-- Level of an event source (R384, R385). -/
def State.level (s : State) (e : Nat) : Bool :=
  if 32 ≤ e ∧ e < 160 then
    if (e - 32) % 2 = 0 then mbRaised (s.chan ((e - 32) / 2)) (s.chan ((e - 32) / 2)).a (s.chan ((e - 32) / 2)).b
    else mbRaised (s.chan ((e - 32) / 2)) (s.chan ((e - 32) / 2)).b (s.chan ((e - 32) / 2)).a
  else if 352 ≤ e ∧ e < 384 then s.regB 0x40 0x140 (e - 352)
  else if 384 ≤ e ∧ e < 512 then s.regB 0x40 (0x144 + 4 * ((e - 384) / 32)) ((e - 384) % 32)
  else (sourcePages e).any s.pageLevel

/-- Route word of a source (R386, R391). -/
def State.route (s : State) (e : Nat) : Word32 := s.reg (0x41 + e / 256) (0x100 + (e % 256) * 4)

/-- The route's TUR field names the port of core `n`: in a lockstep pair either bit delivers to the leading core (R388). -/
def State.routeTur (s : State) (w : Word32) (n : Fin 8) : Bool :=
  if s.lockstep n then n.val % 2 = 0 && (regBit w (16 + n.val) || regBit w (17 + n.val)) else regBit w (16 + n.val)

/-- The source is delivered to core `n` (R387). -/
def State.toTurret (s : State) (e : Nat) (n : Fin 8) : Bool :=
  regBit (s.route e) 31 && (s.routeTur (s.route e) n && s.level e)
/-- The source is delivered to the management block (R387). -/
def State.toMgmt (s : State) (e : Nat) : Bool := regBit (s.route e) 31 && (regBit (s.route e) 29 && s.level e)

/-- The Keep core receives the source (R387, R389). -/
def State.toKeep (s : State) (e : Nat) : Bool := regBit (s.route e) 31 && (regBit (s.route e) 30 && s.level e)

/-- Ends the sleep of one core. -/
def wakeOne (s : State) (n : Fin 8) : State :=
  if (s.core n).sleep then s.setCore n { s.core n with sleep := false } else s
/-- Wakes a core that sleeps in WAIT (R335); a lockstep pair wakes with both cores (R351). -/
def wakeCore (s : State) (n : Fin 8) : State :=
  if s.lockstep n then wakeOne (wakeOne s (evenCore (pairOf n))) (oddCore (pairOf n)) else wakeOne s n

/-- The cores to which source `e` is delivered in `s` and was not in `old` wake (R335). -/
def wakeNew (old s : State) (e : Nat) : List (Fin 8) → State
  | [] => s
  | n :: t => wakeNew old (if s.toTurret e n && !(old.toTurret e n) then wakeCore s n else s) e t

/-- The effects of a rising delivery of source `e` between `old` and `s`: EVT_MPEND is set (R389), waiting cores wake (R335). -/
def evtEdge (old s : State) (e : Nat) : State :=
  if (s.route e) = 0 then s
  else
    let s1 := if s.toMgmt e && !(old.toMgmt e) then
      s.setReg 0x40 (0x164 + 4 * (e / 32)) (s.reg 0x40 (0x164 + 4 * (e / 32)) ||| mask1 (e % 32)) else s
    wakeNew old s1 e (List.finRange 8)

/-- The edge of a page's source after a change of its flags or enables. -/
def pageEdge (old s : State) (page : Nat) : State :=
  match pageSource page with
  | some e => evtEdge old s e
  | none => s

/-- Hardware sets bits of IRQ_RAW of a page (R13, R43). -/
def State.irq (s : State) (page : Nat) (bits : Word32) : State :=
  pageEdge s (s.setReg page oIrqRaw (s.reg page oIrqRaw ||| bits)) page
/-- Hardware sets bit `n` of IRQ_RAW. -/
def State.irqBit (s : State) (page n : Nat) : State := s.irq page (mask1 n)

/-! ### Correctable events (R401, R402) -/

/-- The counter of a page. -/
def State.err (s : State) (page : Nat) : PageErr := sget s.errs page {}
def State.setErr (s : State) (page : Nat) (x : PageErr) : State := { s with errs := sput s.errs page x {} }

/-- COUNT: the sum of the eight buckets, saturating (R401). -/
def errSum (x : PageErr) : Nat := min (x.buckets.foldl (· + ·) 0) 0xFFFF
/-- W of R401: ERRCFG.WINDOW, with 0 taken as 1. -/
def State.errWindow (s : State) (page : Nat) : Nat := max 1 (s.regF page oErrcfg 12 20)
/-- ERRCFG.THRESH. -/
def State.errThresh (s : State) (page : Nat) : Nat := s.regF page oErrcfg 0 12
/-- Bucket list with one more event in the newest bucket. -/
def bumpBucket : List Nat → List Nat
  | [] => []
  | a :: t => (a + 1) :: t

/-- A correctable event of a page: bucket 0 counts it, and the page signals the fault manager when COUNT reaches THRESH
(R401, R402). -/
def State.correctable (s : State) (page : Nat) : State :=
  let x := { s.err page with buckets := bumpBucket (s.err page).buckets }
  s.setErr page { x with signal := x.signal || (s.errThresh page != 0 && decide (s.errThresh page ≤ errSum x)) }

/-! ### Bus errors (R106) -/

/-- BUS_BERR records the first bus error since VALID was cleared, and BERR is set on every one (R106). -/
def State.berr (s : State) (id : MasterId) (addr : Nat) (write : Bool) (c : BusCause) : State :=
  let s1 := if s.regB 0x390 0x118 31 then s else
    ((s.setReg 0x390 0x110 (w32 addr)).setReg 0x390 0x114 (w32 (addr / 2 ^ 32 % 2 ^ 16))).setReg 0x390 0x118
      (w32 (2 ^ 31 + causeCode c * 256 + b2n write * 32 + id.val))
  s1.irqBit 0x390 0

/-! ### Bytes of memory -/

/-- A byte of memory; an unlisted address reads 0 (log entry 2). -/
def State.byteAt (s : State) (a : Nat) : Byte := sget s.mem a 0
/-- The state with a byte of memory written. -/
def State.setByte (s : State) (a : Nat) (b : Byte) : State := { s with mem := sput s.mem a b 0 }
/-- `n` bytes from address `a`. -/
def State.bytes (s : State) (a : Nat) : Nat → List Byte
  | 0 => []
  | n + 1 => s.byteAt a :: s.bytes (a + 1) n
/-- Memory with bytes stored from address `a` on. -/
def memPut (m : List Host.Cell) (a : Nat) : List Byte → List Host.Cell
  | [] => m
  | b :: t => memPut (sput m a b 0) (a + 1) t
/-- The state with bytes stored from address `a` on. -/
def State.setBytes (s : State) (a : Nat) (l : List Byte) : State := { s with mem := memPut s.mem a l }
/-- The state with the memory keys in `[a, a+n)` cleared to 0. -/
def State.clearBytes (s : State) (a n : Nat) : State := { s with mem := sdrop (fun k => a ≤ k && k < a + n) s.mem }
/-- The canonical form of the memory. -/
def Memory.wf (s : State) : Bool := swf (fun _ => (0 : Byte)) s.mem

/-- The canonical form of the register table. -/
def Regs.wf (s : State) : Bool := swf regResetAt s.regs

/-- Little-endian number of `n` bytes at address `a`. -/
def State.le (s : State) (a n : Nat) : Nat := ofLE (s.bytes a n)

/-- Belfry time, 64 bits (R49). -/
def State.time (s : State) : Nat := s.belf.cycle.toNat * 65536 + s.belf.phase.toNat

/-- FZ_OPT.DBGOPEN (R433, R450). -/
def State.dbgOpen (s : State) : Bool := s.regB 0x001 0x118 5

/-- World carried by a master's transactions (R22): true is Custody. -/
def State.custodyOf (s : State) (id : MasterId) : Bool :=
  if h : id.val < 8 then (s.core ⟨id.val, h⟩).ctx.custody
  else if id.val = 23 ∨ id.val = 24 then true
  else if id.val = 25 then s.dbgOpen
  else false

end Sys2Proof.Machine
end

