-- ==== Sys2Proof/Machine/Belfry.lean ====
section
/-! DEFINITION. The Belfry time base and its comparators (02_belfry_timers.md R49-R64). -/
namespace Sys2Proof.Machine

def State.setBelf (s : State) (b : Belf) : State := { s with belf := b }

/-- BELF_CTL.SRC, SLEW_RATE, HOLD_LIM (R64). -/
def State.belfSrc (s : State) : Nat := s.regF 0x10 oCtl 0 2
def State.slewRate (s : State) : Nat := s.regF 0x10 oCtl 4 3
def State.holdLim (s : State) : Nat := max 1 (s.regF 0x10 oCtl 16 16)

/-! ### The tick and the slew (R49, R57) -/

/-- The effect of a PHASE wrap on CYCLE and on the slew (R49, R57), before SLEW_DONE. -/
def belfWrap (b : Belf) (rate : Nat) : Belf :=
  let b1 := { b with phase := 0, slots := b.slots + 1, wraps := b.wraps + 1, holdCnt := if b.st = BelfSt.holdover then (if b.holdCnt = 0xFFFF then b.holdCnt else b.holdCnt + 1) else 0 }
  if b.slew = 0 then { b1 with cycle := b.cycle + 1 }
  else if b.slewWait = 0 then
    if regBit b.slew 31 then { b1 with slew := b.slew + 1, slewWait := 2 ^ rate - 1 }
    else { b1 with cycle := b.cycle + 2, slew := b.slew - 1, slewWait := 2 ^ rate - 1 }
  else { b1 with cycle := b.cycle + 1, slewWait := b.slewWait - 1 }

/-- A tick of the phase clock within a cycle: a slot boundary every 1,024 ticks (R49, R50). -/
def belfStep (b : Belf) : Belf :=
  { b with phase := b.phase + 1, slots := b.slots + b2n (decide ((b.phase + 1).toNat % 1024 = 0)) }

/-- A tick of the phase clock (R49); a wrap that takes the slew to 0 sets SLEW_DONE (R57). In OFF nothing counts (R51). -/
def belfTick (s : State) : State :=
  if s.boot.power = .off then s
  else if s.belf.phase = 0xFFFF then
    let s1 := s.setBelf (belfWrap s.belf s.slewRate)
    if s.belf.slew ≠ 0 ∧ s1.belf.slew = 0 then s1.irqBit 0x10 4 else s1
  else s.setBelf (belfStep s.belf)

/-- The next wrap is a slew step (R57). -/
def slewDue (b : Belf) : Bool := decide (b.phase = 0xFFFF) && (decide (b.slew ≠ 0) && b.slewWait == 0)

def execPhaseTick (s : State) : Res := ok (belfTick s)
/-- R57: the paced wrap at which the slew takes a step. -/
def execSlewStep (s : State) : Res := ok (if slewDue s.belf then belfTick s else s)

/-! ### Crossings (R52-R55) -/

/-- Least and greatest valid interval per period, in REFCLK cycles: 15.385 ms and 22.222 ms (R52). -/
abbrev ivMin : Nat := 1538500
abbrev ivMax : Nat := 2222200

/-- n of R52: the whole number of tracked periods nearest to the interval, at least 1. -/
def ivCount (b : Belf) (iv : Nat) : Nat :=
  match b.st with
  | .synth => 1
  | .acquire => 1
  | .locked => max 1 ((2 * iv + b.tracked) / (2 * b.tracked))
  | .holdover => max 1 ((2 * iv + b.tracked) / (2 * b.tracked))

/-- The two tests of R52 on an interval of `iv` REFCLK cycles. -/
def ivValid (b : Belf) (iv : Nat) : Bool :=
  let n := ivCount b iv
  decide (ivMin * n ≤ iv ∧ iv ≤ ivMax * n) &&
  (match b.st with
   | .synth => true
   | .acquire => true
   | .locked => decide (16 * (iv - n * b.tracked) ≤ n * b.tracked ∧ 16 * (n * b.tracked - iv) ≤ n * b.tracked)
   | .holdover => decide (16 * (iv - n * b.tracked) ≤ n * b.tracked ∧ 16 * (n * b.tracked - iv) ≤ n * b.tracked))

/-- The phase error of a crossing at the present phase: signed distance from the nearest PHASE = 0 tick (R54). -/
def phaseError (b : Belf) : BitVec 16 := b.phase
/-- The error is within 64 phase units (R53). -/
def withinLock (e : BitVec 16) : Bool := decide (e.toInt ≤ 64 ∧ -64 ≤ e.toInt)

/-- What a valid crossing does to the Belfry: count, measured period, and the change of state it decides (R52-R55). -/
def belfValid (b : Belf) (iv : Nat) : Belf :=
  let n := ivCount b iv
  let w := if withinLock (phaseError b) then b.within + 1 else 0
  let b1 := { b with since := 0, valid := b.valid + 1, measured := iv / n }
  match b.st with
  | .synth => { b1 with next := if 4 ≤ b1.valid ∧ b.next = none then some .acquire else b.next }
  | .holdover => { b1 with next := if 4 ≤ b1.valid ∧ b.next = none then some .acquire else b.next }
  | .acquire => { b1 with tracked := iv / n, within := w, next := if 4 ≤ w ∧ b.next = none then some .locked else b.next }
  | .locked => { b1 with tracked := iv / n, within := w }

/-- A crossing on the selected source (R52). -/
def belfCross (s : State) (elapsed : Nat) : State :=
  let b := s.belf
  if b.start then s.setBelf { b with start := false, since := 0 }
  else if ivValid b (b.since + elapsed) then
    (s.setBelf (belfValid b (b.since + elapsed))).setReg 0x10 0x114 ((phaseError b).zeroExtend 32)
  else (s.setBelf { b with since := b.since + elapsed }).irqBit 0x10 5

/-- The source is the selected one (R52). -/
def crossSelected (s : State) (src : CrossSource) : Bool :=
  match src with
  | .cupola => s.belfSrc == 0
  | .cycPin => s.belfSrc == 1

def execReferenceCrossing (src : CrossSource) (elapsed : Nat) (s : State) : Res :=
  ok (if crossSelected s src then belfCross s elapsed else s)

/-! ### States (R53) -/

/-- IRQ_RAW bit of the entry into a state (R64). -/
def belfIrq : BelfSt → Nat | .acquire => 0 | .locked => 1 | .holdover => 2 | .synth => 3
/-- STATE code (R53). -/
def belfCode : BelfSt → Nat | .synth => 0 | .acquire => 1 | .locked => 2 | .holdover => 3

/-- Entry into a state at a PHASE = 0 tick (R53, R55). -/
def belfEnter (b : Belf) (x : BelfSt) : Belf :=
  { b with st := x, next := none, valid := 0, within := 0, holdCnt := 0,
           tracked := match x with | .synth => 2000000 | .acquire => b.measured | .locked => b.tracked | .holdover => b.tracked }

/-- The pending change of state takes effect at a PHASE = 0 tick (R53). -/
def belfStateChange (s : State) : State :=
  match s.belf.next with
  | some x => if s.belf.phase = 0 then (s.setBelf (belfEnter s.belf x)).irqBit 0x10 (belfIrq x) else s
  | none => s
def execBelfryStateChange (s : State) : Res := ok (belfStateChange s)

/-- No valid crossing within 2 tracked periods and 1/16 of a period (R53); `elapsed` in REFCLK cycles since the last one. -/
def crossingTimeout (s : State) (elapsed : Nat) : State :=
  if (s.belf.st == .acquire || s.belf.st == .locked) && (decide (33 * s.belf.tracked < 16 * elapsed) && s.belf.next == none) then
    s.setBelf { s.belf with next := some .holdover }
  else s
def execCrossingTimeout (elapsed : Nat) (s : State) : Res := ok (crossingTimeout s elapsed)

/-- HOLD_LIM mcy have passed in HOLDOVER (R53, R64). -/
def holdLimit (s : State) : State :=
  if s.belf.st == .holdover && decide (s.holdLim ≤ s.belf.holdCnt.toNat) then s.setBelf { s.belf with next := some .synth } else s
def execHoldLimitExpiry (s : State) : Res := ok (holdLimit s)

/-- The state change a write of SRC decides (R53). A change to SYNTH that was decided in HOLDOVER and waits for its tick stays decided
when SRC is then written 0b00 or 0b01 (DESIGN CHOICE, log entry 73). -/
def srcDecides (b : Belf) (v : Nat) : Option BelfSt :=
  match b.st with
  | .synth => none
  | .acquire => if v = 2 then some .synth else some .holdover
  | .locked => if v = 2 then some .synth else some .holdover
  | .holdover => if v = 2 then some .synth else (if b.next = some .synth then some .synth else none)

/-- A write to BELF_CTL (R52, R53, R64): `locked` freezes the RWL fields; a SRC of 0b11 is discarded. -/
def belfCtlWrite (s : State) (locked : Bool) (v : Word32) : State :=
  let old := s.reg 0x10 oCtl
  let m : Word32 := if locked then 0 else w32 0xFFFF0070
  let r := (old &&& ~~~m) ||| (v &&& m)
  let src := regFld v 0 2
  if src = 3 then s.setReg 0x10 oCtl r
  else
    (s.setReg 0x10 oCtl (regSet r 0 2 src)).setBelf
      { s.belf with start := true, valid := 0, since := 0, next := srcDecides s.belf src }

/-- A write to BELF_SLEW replaces any remaining count (R57). A write of 0 ends the slew and sets no SLEW_DONE: only a step does
(DESIGN CHOICE, log entry 73). -/
def belfSlewWrite (s : State) (v : Word32) : State := s.setBelf { s.belf with slew := v, slewWait := 0, own := false }

/-! ### Reading (R55, R58, R59, R64) -/

/-- BELF_FREQ (R55): in units of 1/65,536 Hz, from the tracked period in REFCLK cycles. -/
def belfFreq (b : Belf) : Nat :=
  match b.st with
  | .synth => 0x00320000
  | _ => 6553600000000 / max 1 b.tracked

/-- A read of page 0x010 by a master: BELF_TIME_LO latches the high half (R58). `absent`: the Cupola die is unpowered. -/
def belfRead (s : State) (id : MasterId) (off : Nat) (absent : Bool) : State × Word32 :=
  match off with
  | 0x00C => (s, w32 (s.belf.holdCnt.toNat * 65536 + b2n absent * 16 + b2n (s.belf.slew != 0) * 8 + belfCode s.belf.st))
  | 0x100 => (s.setBelf { s.belf with latches := sput s.belf.latches id.val (w32 (s.time / 2 ^ 32)) 0 }, w32 s.time)
  | 0x104 => (s, sget s.belf.latches id.val 0)
  | 0x108 => (s, w32 s.belf.shadow.toNat)
  | 0x10C => (s, w32 (s.belf.shadow.toNat / 2 ^ 32))
  | 0x110 => (s, w32 (belfFreq s.belf))
  | 0x118 => (s, s.belf.slew)
  | _ => (s, s.reg 0x10 off)

/-! ### Comparators (R60-R63) -/

/-- Page and offset of comparator `c`. -/
def bcmpPage (c : Nat) : Nat := 0x11 + c / 32
def bcmpOff (c : Nat) : Nat := 0x100 + (c % 32) * 16
def State.bcmpTarget (s : State) (c : Nat) : Nat :=
  2 ^ 32 * (s.reg (bcmpPage c) (bcmpOff c + 4)).toNat + (s.reg (bcmpPage c) (bcmpOff c)).toNat
def State.setBcmpTarget (s : State) (c t : Nat) : State :=
  (s.setReg (bcmpPage c) (bcmpOff c) (w32 t)).setReg (bcmpPage c) (bcmpOff c + 4) (w32 (t / 2 ^ 32))
def State.bcmpEn (s : State) (c : Nat) : Bool := s.regB (bcmpPage c) (bcmpOff c + 8) 0

/-- A write to a comparator register (R60-R62); the caller has checked the access code. `sub` is the offset within it. -/
def bcmpWrite (s : State) (c sub : Nat) (v : Word32) : State × Option BusCause :=
  if sub = 0 ∨ sub = 4 then
    if s.bcmpEn c then (s, some .binding) else (s.setReg (bcmpPage c) (bcmpOff c + sub) v, none)
  else if sub = 8 then
    let old := s.reg (bcmpPage c) (bcmpOff c + 8)
    let s1 := s.setReg (bcmpPage c) (bcmpOff c + 8) ((old &&& w32 0xFC) ||| (v &&& w32 0xFFFFFF03))
    (if regBit v 0 then s1.setRegF (bcmpPage c) (bcmpOff c + 12) 8 8 0 else s1, none)
  else (s.setReg (bcmpPage c) (bcmpOff c + 12) (s.reg (bcmpPage c) (bcmpOff c + 12) &&& ~~~(v &&& 1)), none)

/-- The comparator reaches its target (R60). -/
def bcmpDue (s : State) (c : Nat) : Bool := s.bcmpEn c && decide (s.bcmpTarget c ≤ s.time)

/-- How many periods beyond the first a periodic comparator skips, and its new target (R61). -/
def bcmpAdvance (target time period : Nat) : Nat × Nat :=
  let p := max 1 period * 1024
  let k := if target + p ≤ time then (time - (target + p)) / p + 1 else 0
  (k, target + p + k * p)

/-- What firing does to the comparator itself (R60, R61): LATE, the IRQ bit, EN or the next target. -/
def bcmpFired (s : State) (c : Nat) : State :=
  let late := decide (s.bcmpTarget c < s.time)
  let s1 := s.irqBit (bcmpPage c) (c % 32)
  let s2 := if late then s1.setRegF (bcmpPage c) (bcmpOff c + 12) 0 1 1 else s1
  let ctl := s.reg (bcmpPage c) (bcmpOff c + 8)
  if regBit ctl 1 then
    let a := bcmpAdvance (s.bcmpTarget c) s.time (regFld ctl 8 24)
    (s2.setBcmpTarget c (a.2 % 2 ^ 64)).setRegF (bcmpPage c) (bcmpOff c + 12) 8 8
      (satAdd (s2.regF (bcmpPage c) (bcmpOff c + 12) 8 8) a.1 255)
  else s2.setRegF (bcmpPage c) (bcmpOff c + 8) 0 1 0

end Sys2Proof.Machine
end

