-- ==== Sys2Proof/Machine/Crc.lean ====
section
/-! DEFINITION. The cyclic redundancy checks of the device: CRC-32C (04_dravaesor_isa.md R132) and CRC-64 ECMA-182
(06_spire_operations.md R197). -/
namespace Sys2Proof.Machine

/-- `n` shifts of a reflected CRC with polynomial `poly`. -/
def crcShiftR (poly : Nat) : Nat → Nat → Nat
  | 0, c => c
  | n + 1, c => crcShiftR poly n (if c % 2 = 1 then (c / 2) ^^^ poly else c / 2)
/-- CRC-32C over bytes, reflected, without inversions. -/
def crc32c (c : Nat) : List Byte → Nat
  | [] => c
  | b :: t => crc32c (crcShiftR 0x82F63B78 8 (c ^^^ b.toNat)) t

/-- CRC-32C with initial value 0xFFFF_FFFF and final inversion (R300, R306, R417). -/
def crcInv (l : List Byte) : Nat := crc32c 0xFFFFFFFF l ^^^ 0xFFFFFFFF

/-- `n` shifts of a 64-bit CRC, most significant bit first. -/
def crcShiftL64 : Nat → Nat → Nat
  | 0, c => c
  | n + 1, c => crcShiftL64 n (if 2 ^ 63 ≤ c then (c * 2 % 2 ^ 64) ^^^ 0x42F0E1EBA9EA3693 else c * 2)
/-- CRC-64 ECMA-182 over bytes, most significant bit first, without inversions. -/
def crc64 (c : Nat) : List Byte → Nat
  | [] => c
  | b :: t => crc64 (crcShiftL64 8 (c ^^^ (b.toNat * 2 ^ 56))) t

end Sys2Proof.Machine
end

