-- ==== Sys2Proof/Machine/Galois.lean ====
section
/-! DEFINITION. Galois-field arithmetic of the GF unit (06_spire_operations.md R190-R194) and of GHASH (R198). -/
namespace Sys2Proof.Machine

/-- Multiplication in GF(2^deg): `n` bits of `b`, most significant first, from accumulator `acc`; `poly` includes the term x^deg. -/
def gfMulLoop (deg poly a b : Nat) : Nat → Nat → Nat
  | 0, acc => acc
  | n + 1, acc =>
    let d := acc * 2
    let r := if 2 ^ deg ≤ d then d ^^^ poly else d
    gfMulLoop deg poly a b n (if bit b n then r ^^^ a else r)
/-- Product in GF(2^deg). -/
def gfMul (deg poly a b : Nat) : Nat := gfMulLoop deg poly (a % 2 ^ deg) b deg 0

/-- Product of the powers a^(2^1) to a^(2^n). -/
def gfInvLoop (deg poly : Nat) : Nat → Nat → Nat → Nat
  | 0, _, acc => acc
  | n + 1, a, acc => gfInvLoop deg poly n (gfMul deg poly a a) (gfMul deg poly acc (gfMul deg poly a a))
/-- Inverse in GF(2^deg); 0 gives 0 (R187). -/
def gfInv (deg poly a : Nat) : Nat := gfInvLoop deg poly (deg - 1) a 1

/-- The field polynomial of an element width (R190). -/
def gfPoly (w : Nat) : Nat := if w = 1 then 0x11D else 0x1100B
/-- Product of two elements of `w` bytes (R190). -/
def gfw (w a b : Nat) : Nat := gfMul (8 * w) (gfPoly w) a b
/-- Inverse of an element. -/
def gfwInv (w a : Nat) : Nat := gfInv (8 * w) (gfPoly w) a
/-- Product in GF(2^32) with x^32 + x^22 + x^2 + x + 1 (R194). -/
def gf32 (a b : Nat) : Nat := gfMul 32 0x100400007 a b

/-- GHASH's product of two 128-bit blocks, the most significant bit being the coefficient of x^0 (NIST SP 800-38D). -/
def ghashLoop (x : Nat) : Nat → Nat → Nat → Nat
  | 0, z, _ => z
  | n + 1, z, v => ghashLoop x n (if bit x n then z ^^^ v else z) (if v % 2 = 1 then (v / 2) ^^^ (0xE1 * 2 ^ 120) else v / 2)
def ghashMul (x y : Nat) : Nat := ghashLoop x 128 0 y

end Sys2Proof.Machine
end

