-- ==== Sys2Proof/Machine/Crypto.lean ====
section
/-! DEFINITION. AES-256, SHA-256, and the block steps of XTS and GCM that the XF unit and the Keep apply
(06_spire_operations.md R198-R201, 16_startup.md R448). -/
namespace Sys2Proof.Machine

/-! ### AES-256 (FIPS 197) -/

def rotl8 (x n : Nat) : Nat := (x * 2 ^ n + x / 2 ^ (8 - n)) % 256
/-- Inverse in the AES field. -/
def aesInv (x : Nat) : Nat := gfInv 8 0x11B x
def aesSbox (x : Nat) : Nat :=
  let b := aesInv x
  b ^^^ (rotl8 b 1 ^^^ (rotl8 b 2 ^^^ (rotl8 b 3 ^^^ (rotl8 b 4 ^^^ 0x63))))
def aesInvSbox (x : Nat) : Nat := aesInv (rotl8 x 1 ^^^ (rotl8 x 3 ^^^ (rotl8 x 6 ^^^ 0x05)))
/-- Product in the AES field. -/
def aesMul (a b : Nat) : Nat := gfMul 8 0x11B a b

def xorList : List Nat → List Nat → List Nat
  | a :: s, b :: t => (a ^^^ b) :: xorList s t
  | _, _ => []

/-- Key expansion: `n` more words of 4 bytes after the words `ws`, newest first; `i` is the number of the next word. -/
def aesExpand : Nat → Nat → Nat → List (List Nat) → List (List Nat)
  | 0, _, _, ws => ws
  | n + 1, i, rc, ws =>
    let prev := ws.getD 0 []
    let old := ws.getD 7 []
    let t := if i % 8 = 0 then
        (match prev with
         | [a, b, c, d] => [aesSbox b ^^^ rc, aesSbox c, aesSbox d, aesSbox a]
         | _ => prev)
      else if i % 8 = 4 then prev.map aesSbox else prev
    aesExpand n (i + 1) (if i % 8 = 0 then aesMul rc 2 else rc) (xorList old t :: ws)

/-- Splits a list into pieces of `k`. -/
def chunks {α : Type} (k : Nat) : Nat → List α → List (List α)
  | 0, _ => []
  | n + 1, l => match l with
    | [] => []
    | _ => l.take k :: chunks k n (l.drop k)

/-- The 15 round keys of a 32-byte key, 16 bytes each. -/
def aesKeys (key : List Byte) : List (List Nat) :=
  let w0 := (chunks 4 8 (key.map (·.toNat))).reverse
  chunks 16 15 ((aesExpand 52 8 1 w0).reverse.flatten)

/-- ShiftRows: byte r + 4c comes from column c + r. -/
def aesShift (l : List Nat) : List Nat := (rangeFrom 0 16).map fun i => l.getD ((i + 4 * (i % 4)) % 16) 0
def aesUnshift (l : List Nat) : List Nat := (rangeFrom 0 16).map fun i => l.getD ((i + 16 - 4 * (i % 4)) % 16) 0
/-- MixColumns with the four coefficients of its first row. -/
def aesMix (k0 k1 k2 k3 : Nat) (l : List Nat) : List Nat := (rangeFrom 0 16).map fun i =>
  let c := i / 4 * 4
  let r := i % 4
  aesMul k0 (l.getD (c + r) 0) ^^^ (aesMul k1 (l.getD (c + (r + 1) % 4) 0) ^^^
    (aesMul k2 (l.getD (c + (r + 2) % 4) 0) ^^^ aesMul k3 (l.getD (c + (r + 3) % 4) 0)))

/-- The rounds of encryption under the remaining round keys. -/
def aesEncRounds (x : List Nat) : List (List Nat) → List Nat
  | [] => x
  | [k] => xorList (aesShift (x.map aesSbox)) k
  | k :: t => aesEncRounds (xorList (aesMix 2 3 1 1 (aesShift (x.map aesSbox))) k) t
/-- AES-256 encryption of a 16-byte block. -/
def aesEnc (key b : List Byte) : List Byte :=
  match aesKeys key with
  | [] => b
  | k :: t => (aesEncRounds (xorList (b.map (·.toNat)) k) t).map byte

/-- The rounds of decryption, round keys last to first. -/
def aesDecRounds (x : List Nat) : List (List Nat) → List Nat
  | [] => x
  | [k] => xorList ((aesUnshift x).map aesInvSbox) k
  | k :: t => aesDecRounds (aesMix 14 11 13 9 (xorList ((aesUnshift x).map aesInvSbox) k)) t
/-- AES-256 decryption of a 16-byte block. -/
def aesDec (key b : List Byte) : List Byte :=
  match (aesKeys key).reverse with
  | [] => b
  | k :: t => (aesDecRounds (xorList (b.map (·.toNat)) k) t).map byte

def xorBytes : List Byte → List Byte → List Byte
  | a :: s, b :: t => (a ^^^ b) :: xorBytes s t
  | _, _ => []

/-! ### XTS (IEEE 1619, R200) -/

/-- The tweak multiplied by α `n` times; the tweak is a little-endian number. -/
def xtsAlpha : Nat → Nat → Nat
  | 0, t => t
  | n + 1, t => xtsAlpha n (if 2 ^ 127 ≤ t then (t * 2 % 2 ^ 128) ^^^ 0x87 else t * 2)
/-- Block `j` of the data unit with number `u` under a 64-byte key. -/
def xtsBlock (key : List Byte) (dec : Bool) (u j : Nat) (b : List Byte) : List Byte :=
  let t := leBytes 16 (xtsAlpha j (ofLE (aesEnc (key.drop 32) (leBytes 16 u))))
  let x := xorBytes b t
  xorBytes (if dec then aesDec (key.take 32) x else aesEnc (key.take 32) x) t

/-! ### GCM (NIST SP 800-38D, R201) -/

/-- inc32 of a counter block. -/
def inc32 (b : List Byte) : List Byte := b.take 12 ++ beBytes 4 ((ofBE (b.drop 12) + 1) % 2 ^ 32)
/-- H of a key. -/
def gcmH (key : List Byte) : Nat := ofBE (aesEnc key (List.replicate 16 0))
/-- A block, zero-padded to 16 bytes. -/
def pad16 (b : List Byte) : List Byte := (b ++ List.replicate 16 0).take 16
/-- Y with one more block folded in. -/
def ghashFold (h : Nat) (y : List Byte) (b : List Byte) : List Byte := beBytes 16 (ghashMul (ofBE y ^^^ ofBE (pad16 b)) h)
/-- GHASH over blocks. -/
def ghashAll (h : Nat) (y : List Byte) : List (List Byte) → List Byte
  | [] => y
  | b :: t => ghashAll h (ghashFold h y b) t
/-- Counter mode over blocks from counter block `cb`. -/
def gcmCtr (key cb : List Byte) : List (List Byte) → List Byte
  | [] => []
  | b :: t => xorBytes b (aesEnc key cb) ++ gcmCtr key (inc32 cb) t
/-- AES-256-GCM with a 12-byte IV: the output text and the tag. -/
def gcm (key iv aad x : List Byte) (dec : Bool) : List Byte × List Byte :=
  let j0 := iv ++ [0, 0, 0, 1]
  let h := gcmH key
  let y := gcmCtr key (inc32 j0) (chunks 16 (x.length / 16 + 1) x)
  let c := if dec then x else y
  let s1 := ghashAll h (List.replicate 16 0) (chunks 16 (aad.length / 16 + 1) aad)
  let s2 := ghashAll h s1 (chunks 16 (c.length / 16 + 1) c)
  let s3 := ghashFold h s2 (beBytes 8 (8 * aad.length) ++ beBytes 8 (8 * c.length))
  (y, xorBytes s3 (aesEnc key j0))

/-! ### SHA-256 (FIPS 180-4)

The constants are formed from their definition, the first 32 bits of the fractions of roots of primes. The eight working variables are
two sequences of words, one that a, b, c, d shift along and one that e, f, g, h do: a round puts one pair in front. -/

/-- The integer part of the `d`-th root of `x`, `r` so far, below 2^`b` more. -/
def rootBelow (d x : Nat) : Nat → Nat → Nat
  | 0, r => r
  | b + 1, r => rootBelow d x b (if (r + 2 ^ b) ^ d ≤ x then r + 2 ^ b else r)
/-- The first 32 bits of the fraction of the `d`-th root of `p`. -/
def rootBits (d p : Nat) : Word32 := BitVec.ofNat 32 (rootBelow d (p * 2 ^ (32 * d)) 40 0)
/-- The 64 primes below 312. -/
def smallPrimes : List Nat := (rangeFrom 2 310).filter fun n => (rangeFrom 2 16).all fun k => n % k != 0 || n == k
/-- The initial hash value, from square roots, and the round constants, from cube roots. -/
def shaInit : List Nat := (smallPrimes.take 8).map fun p => (rootBits 2 p).toNat
def shaConsts : List Word32 := smallPrimes.map (rootBits 3)

/-- Two rotations and a shift of a word, as the message schedule mixes it. -/
def schedMix (r q h : Nat) (x : Word32) : Word32 := x.rotateRight r ^^^ (x.rotateRight q ^^^ x >>> h)
/-- Three rotations of a word, as a round mixes it. -/
def roundMix (r q t : Nat) (x : Word32) : Word32 := x.rotateRight r ^^^ (x.rotateRight q ^^^ x.rotateRight t)

/-- The schedule, newest word first, lengthened by `n` words. -/
def shaSched : Nat → List Word32 → List Word32
  | 0, w => w
  | n + 1, w => shaSched n ((schedMix 17 19 10 (w.getD 1 0) + w.getD 6 0 + schedMix 7 18 3 (w.getD 14 0) + w.getD 15 0) :: w)

/-- A round with the sum `x` of its constant and its schedule word. -/
def shaRound (l : List (Word32 × Word32)) (x : Word32) : List (Word32 × Word32) :=
  let a := fun i => (l.getD i (0, 0)).1
  let e := fun i => (l.getD i (0, 0)).2
  let t := x + e 3 + roundMix 6 11 25 (e 0) + ((e 0 &&& e 1) ||| (~~~(e 0) &&& e 2))
  (t + roundMix 2 13 22 (a 0) + ((a 0 &&& (a 1 ||| a 2)) ||| (a 1 &&& a 2)), a 3 + t) :: l

/-- The compression function on a 64-byte block; the hash value is eight words. -/
def shaBlock (h : List Nat) (b : List Byte) : List Nat :=
  let w := (shaSched 48 ((chunks 4 16 b).map fun x => BitVec.ofNat 32 (ofBE x)).reverse).reverse
  let v := h.map (BitVec.ofNat 32)
  let r := ((List.zipWith (· + ·) shaConsts w).foldl shaRound ((v.take 4).zip (v.drop 4))).take 4
  (List.zipWith (· + ·) v (r.map Prod.fst ++ r.map Prod.snd)).map BitVec.toNat
/-- A message with its padding: a 1 bit, zeros, its length in bits. -/
def shaPad (m : List Byte) : List Byte :=
  let n := m.length
  m ++ [0x80] ++ List.replicate ((64 - (n + 9) % 64) % 64) 0 ++ beBytes 8 (8 * n)
/-- SHA-256 of a message. -/
def sha256 (m : List Byte) : List Byte :=
  let p := shaPad m
  (((chunks 64 (p.length / 64 + 1) p).foldl shaBlock shaInit).map (beBytes 4)).flatten

end Sys2Proof.Machine
end

