-- ==== Sys2Proof/Machine/Ecdsa.lean ====
section
/-! DEFINITION. ECDSA of FIPS 186-5 over P-256 and P-384, which the Cupola signs with and the Keep checks
(15_cupola.md R421; 16_startup.md R436, R438). -/
namespace Sys2Proof.Machine

/-- A prime curve y² = x³ - 3x + b over the integers mod p, with base point (gx, gy) of order n. -/
structure Curve where
  p : Nat
  b : Nat
  gx : Nat
  gy : Nat
  n : Nat
  /-- Bytes of a coordinate. -/
  len : Nat
deriving DecidableEq, Repr

def p256 : Curve :=
  { p := 0xFFFFFFFF00000001000000000000000000000000FFFFFFFFFFFFFFFFFFFFFFFF
    b := 0x5AC635D8AA3A93E7B3EBBD55769886BC651D06B0CC53B0F63BCE3C3E27D2604B
    gx := 0x6B17D1F2E12C4247F8BCE6E563A440F277037D812DEB33A0F4A13945D898C296
    gy := 0x4FE342E2FE1A7F9B8EE7EB4A7C0F9E162BCE33576B315ECECBB6406837BF51F5
    n := 0xFFFFFFFF00000000FFFFFFFFFFFFFFFFBCE6FAADA7179E84F3B9CAC2FC632551
    len := 32 }

def p384 : Curve :=
  { p := 0xFFFFFFFFFFFFFFFFFFFFFFFFFFFFFFFFFFFFFFFFFFFFFFFFFFFFFFFEFFFFFFFF0000000000000000FFFFFFFF
    b := 0xB3312FA7E23EE7E4988E056BE3F82D19181D9C6EFE8141120314088F5013875AC656398D8A2ED19D2A85C8EDD3EC2AEF
    gx := 0xAA87CA22BE8B05378EB1C71EF320AD746E1D3B628BA79B9859F741E082542A385502F25DBF55296C3A545E3872760AB7
    gy := 0x3617DE4A96262C6F5D9E98BF9292DC29F8F41DBD289A147CE9DA3113B5F0B8C00A60B1CE1D7E819D7A431D7C90EA0E5F
    n := 0xFFFFFFFFFFFFFFFFFFFFFFFFFFFFFFFFFFFFFFFFFFFFFFFFC7634D81F4372DDF581A0DB248B0A77AECEC196ACCC52973
    len := 48 }

/-- x^e mod m; `k` bounds the bits of e. -/
def powMod (m : Nat) : Nat → Nat → Nat → Nat
  | 0, _, _ => 1 % m
  | k + 1, x, e =>
    let h := powMod m k (x * x % m) (e / 2)
    if e % 2 = 1 then x * h % m else h

/-- Inverse modulo a prime. -/
def invMod (m x : Nat) : Nat := powMod m 512 (x % m) (m - 2)

/-- A point of a curve; none is the point at infinity. -/
abbrev EcPoint := Option (Nat × Nat)

/-- The third point on the line of slope `l` through (x1, _) and (x2, _), reflected. -/
def ecSlope (c : Curve) (l x1 y1 x2 : Nat) : EcPoint :=
  let x := (l * l + 2 * c.p - x1 - x2) % c.p
  some (x, (l * (x1 + c.p - x) + c.p - y1) % c.p)

/-- Sum of two points. -/
def ecAdd (c : Curve) : EcPoint → EcPoint → EcPoint
  | none, q => q
  | p, none => p
  | some (x1, y1), some (x2, y2) =>
    if x1 = x2 then
      if (y1 + y2) % c.p = 0 then none
      else ecSlope c (((3 * x1 * x1 + c.p - 3) * invMod c.p (2 * y1)) % c.p) x1 y1 x2
    else ecSlope c (((y2 + c.p - y1) * invMod c.p (x2 + c.p - x1)) % c.p) x1 y1 x2

/-- The multiple of a point by the low `k` bits of `e`. -/
def ecMul (c : Curve) : Nat → Nat → EcPoint → EcPoint
  | 0, _, _ => none
  | k + 1, e, p =>
    let h := ecMul c k (e / 2) (ecAdd c p p)
    if e % 2 = 1 then ecAdd c p h else h

/-- The point is on the curve. -/
def ecOn (c : Curve) (x y : Nat) : Bool :=
  decide (x < c.p ∧ y < c.p) && (y * y % c.p == (x * x * x + (c.p - 3) * x + c.b) % c.p)

/-- The public key of a private key: X then Y, most significant byte first. -/
def ecPublic (c : Curve) (d : Nat) : List Byte :=
  match ecMul c 512 d (some (c.gx, c.gy)) with
  | some (x, y) => beBytes c.len x ++ beBytes c.len y
  | none => List.replicate (2 * c.len) 0

/-- The signature of a 256-bit hash under private key `d` with the per-message secret `k`: r and s. -/
def ecSign (c : Curve) (d k hash : Nat) : Nat × Nat :=
  let r := match ecMul c 512 k (some (c.gx, c.gy)) with
    | some (x, _) => x % c.n
    | none => 0
  (r, invMod c.n k * (hash + r * d) % c.n)

/-- A signature of a 256-bit hash verifies under the public key (x, y). -/
def ecVerify (c : Curve) (x y hash r s : Nat) : Bool :=
  ecOn c x y && (decide (0 < r ∧ r < c.n ∧ 0 < s ∧ s < c.n) &&
  (let w := invMod c.n s
   match ecAdd c (ecMul c 512 (hash * w % c.n) (some (c.gx, c.gy))) (ecMul c 512 (r * w % c.n) (some (x, y))) with
   | some (px, _) => px % c.n == r
   | none => false))

end Sys2Proof.Machine
end

