-- ==== Sys2Proof/Machine/Float.lean ====
section
/-! DEFINITION. IEEE 754 arithmetic of the floating page, as pure functions of bit patterns (13_arithmetic.md R371-R377).
Every result comes with the five flags of FCSR: NV 16, DZ 8, OF 4, UF 2, NX 1. -/
namespace Sys2Proof.Machine

/-- A binary format: exponent bits and fraction bits. -/
structure FFmt where
  eb : Nat
  mb : Nat
deriving DecidableEq, Repr

def f64 : FFmt := { eb := 11, mb := 52 }
def f32 : FFmt := { eb := 8, mb := 23 }

/-- A decoded value: a finite one is (−1)^s · m · 2^e. -/
inductive FVal where
  | nan (signalling : Bool)
  | inf (s : Bool)
  | fin (s : Bool) (m : Nat) (e : Int)
deriving DecidableEq, Repr

def fBias (f : FFmt) : Int := 2 ^ (f.eb - 1) - 1
/-- Exponent of the least significant bit of a subnormal number. -/
def fEmin (f : FFmt) : Int := 1 - fBias f - f.mb

def fSign (f : FFmt) (x : Nat) : Bool := bit x (f.eb + f.mb)
def fExp (f : FFmt) (x : Nat) : Nat := fld x f.mb f.eb
def fFrac (f : FFmt) (x : Nat) : Nat := fld x 0 f.mb

/-- Decodes a bit pattern (R373: a NaN is signalling when its most significant fraction bit is 0). -/
def fDecode (f : FFmt) (x : Nat) : FVal :=
  let e := fExp f x
  let m := fFrac f x
  if e = 2 ^ f.eb - 1 then
    if m = 0 then .inf (fSign f x) else .nan (!(bit m (f.mb - 1)))
  else if e = 0 then .fin (fSign f x) m (fEmin f)
  else .fin (fSign f x) (m + 2 ^ f.mb) (e - 1 + fEmin f)

def fPack (f : FFmt) (s : Bool) (e m : Nat) : Nat := b2n s * 2 ^ (f.eb + f.mb) + e * 2 ^ f.mb + m
/-- Canonical NaN (R373). -/
def fNaN (f : FFmt) : Nat := fPack f false (2 ^ f.eb - 1) (2 ^ (f.mb - 1))
def fInf (f : FFmt) (s : Bool) : Nat := fPack f s (2 ^ f.eb - 1) 0
/-- Largest finite value. -/
def fMaxFin (f : FFmt) (s : Bool) : Nat := fPack f s (2 ^ f.eb - 2) (2 ^ f.mb - 1)

/-- Whether rounding goes away from zero: `odd` the last kept bit, `rem` against the half-way point. RM 0 nearest even,
1 toward zero, 2 up, 3 down, 4 nearest away (R326); 5-7 act as 0 (log entry 21). -/
def fRoundUp (rm : Nat) (s odd : Bool) (rem half : Nat) (sticky : Bool) : Bool :=
  let inexact := rem != 0 || sticky
  match rm with
  | 1 => false
  | 2 => !s && inexact
  | 3 => s && inexact
  | 4 => decide (half ≤ rem) && half != 0
  | _ => half != 0 && (decide (half < rem) || (rem == half && (sticky || odd)))

/-- The overflowed result of a rounding mode (R372). -/
def fOverflow (f : FFmt) (rm : Nat) (s : Bool) : Nat :=
  match rm with
  | 1 => fMaxFin f s
  | 2 => if s then fMaxFin f s else fInf f s
  | 3 => if s then fInf f s else fMaxFin f s
  | _ => fInf f s

/-- Rounds (−1)^s · (m + δ) · 2^e, with 0 < δ < 1 when `sticky`, into the format (R372). Tininess is judged on the delivered
result (log entry 20). -/
def fRound (f : FFmt) (rm : Nat) (s : Bool) (m : Nat) (e : Int) (sticky : Bool) : Nat × Nat :=
  if m = 0 ∧ sticky = false then (fPack f s 0 0, 0)
  else
    let p := f.mb + 1
    let q := max (e + (Nat.log2 m : Int) + 1 - p) (fEmin f)
    let sh := (q - e).toNat
    let m0 := if e ≤ q then m / 2 ^ sh else m * 2 ^ (e - q).toNat
    let rem := if e ≤ q then m % 2 ^ sh else 0
    let half := if sh = 0 then 0 else 2 ^ (sh - 1)
    let up := fRoundUp rm s (m0 % 2 = 1) rem half sticky
    let m1 := if up then m0 + 1 else m0
    let m2 := if m1 = 2 ^ p then 2 ^ (p - 1) else m1
    let q2 := if m1 = 2 ^ p then q + 1 else q
    let inexact := rem != 0 || sticky
    if 2 ^ (p - 1) ≤ m2 then
      let be := q2 - fEmin f + 1
      if (2 ^ f.eb - 1 : Nat) ≤ be then (fOverflow f rm s, 5)
      else (fPack f s be.toNat (m2 - 2 ^ (p - 1)), b2n inexact)
    else (fPack f s 0 m2, if inexact then 3 else 0)

def fIsNaN : FVal → Bool | .nan _ => true | _ => false
def fIsSNaN : FVal → Bool | .nan s => s | _ => false

/-- Exact sum of two finite values as a signed integer over a common exponent. -/
def fExactAdd (s1 : Bool) (m1 : Nat) (e1 : Int) (s2 : Bool) (m2 : Nat) (e2 : Int) : Int × Int :=
  let e := min e1 e2
  let a : Int := m1 * 2 ^ (e1 - e).toNat
  let b : Int := m2 * 2 ^ (e2 - e).toNat
  ((if s1 then -a else a) + (if s2 then -b else b), e)

/-- Rounded sum of two finite values; an exact zero sum takes the sign of R372. -/
def fSumFin (f : FFmt) (rm : Nat) (s1 : Bool) (m1 : Nat) (e1 : Int) (s2 : Bool) (m2 : Nat) (e2 : Int) : Nat × Nat :=
  let x := fExactAdd s1 m1 e1 s2 m2 e2
  if x.1 = 0 then (fPack f (if s1 = s2 then s1 else rm == 3) 0 0, 0)
  else fRound f rm (decide (x.1 < 0)) x.1.natAbs x.2 false

def fNeg : FVal → FVal
  | .nan s => .nan s
  | .inf s => .inf (!s)
  | .fin s m e => .fin (!s) m e

/-- a + b. -/
def fAddV (f : FFmt) (rm : Nat) (a b : FVal) : Nat × Nat :=
  match a, b with
  | .nan x, y => (fNaN f, if x || fIsSNaN y then 16 else 0)
  | _, .nan y => (fNaN f, if y then 16 else 0)
  | .inf s, .inf t => if s = t then (fInf f s, 0) else (fNaN f, 16)
  | .inf s, .fin _ _ _ => (fInf f s, 0)
  | .fin _ _ _, .inf t => (fInf f t, 0)
  | .fin s m e, .fin t n d => fSumFin f rm s m e t n d

/-- a × b. -/
def fMulV (f : FFmt) (rm : Nat) (a b : FVal) : Nat × Nat :=
  match a, b with
  | .nan x, y => (fNaN f, if x || fIsSNaN y then 16 else 0)
  | _, .nan y => (fNaN f, if y then 16 else 0)
  | .inf s, .inf t => (fInf f (s != t), 0)
  | .inf s, .fin t n _ => if n = 0 then (fNaN f, 16) else (fInf f (s != t), 0)
  | .fin s m _, .inf t => if m = 0 then (fNaN f, 16) else (fInf f (s != t), 0)
  | .fin s m e, .fin t n d => fRound f rm (s != t) (m * n) (e + d) false

/-- a ÷ b. -/
def fDivV (f : FFmt) (rm : Nat) (a b : FVal) : Nat × Nat :=
  match a, b with
  | .nan x, y => (fNaN f, if x || fIsSNaN y then 16 else 0)
  | _, .nan y => (fNaN f, if y then 16 else 0)
  | .inf _, .inf _ => (fNaN f, 16)
  | .inf s, .fin t _ _ => (fInf f (s != t), 0)
  | .fin s _ _, .inf t => (fPack f (s != t) 0 0, 0)
  | .fin s m e, .fin t n d =>
    if n = 0 then (if m = 0 then (fNaN f, 16) else (fInf f (s != t), 8))
    else if m = 0 then (fPack f (s != t) 0 0, 0)
    else
      let k := f.mb + 4 + Nat.log2 n
      fRound f rm (s != t) (m * 2 ^ k / n) (e - d - k) (m * 2 ^ k % n != 0)

/-- Integer square root, bit by bit from bit `k` down. -/
def isqrt (n : Nat) : Nat → Nat → Nat
  | 0, r => if (r + 1) * (r + 1) ≤ n then r + 1 else r
  | k + 1, r => isqrt n k (if (r + 2 ^ (k + 1)) * (r + 2 ^ (k + 1)) ≤ n then r + 2 ^ (k + 1) else r)

/-- √a. -/
def fSqrtV (f : FFmt) (rm : Nat) (a : FVal) : Nat × Nat :=
  match a with
  | .nan x => (fNaN f, if x then 16 else 0)
  | .inf s => if s then (fNaN f, 16) else (fInf f false, 0)
  | .fin s m e =>
    if m = 0 then (fPack f s 0 0, 0)
    else if s then (fNaN f, 16)
    else
      let k0 := 2 * (f.mb + 4)
      let k := if (e - k0) % 2 = 0 then k0 else k0 + 1
      let n := m * 2 ^ k
      let r := isqrt n (f.mb + f.mb + 4) 0
      fRound f rm false r ((e - k) / 2) (r * r != n)

/-- a × b + c, rounded once. -/
def fFmaV (f : FFmt) (rm : Nat) (a b c : FVal) : Nat × Nat :=
  let snan := fIsSNaN a || (fIsSNaN b || fIsSNaN c)
  match a, b with
  | .nan _, _ => (fNaN f, if snan then 16 else 0)
  | _, .nan _ => (fNaN f, if snan then 16 else 0)
  | .inf s, .inf t => fAddV f rm (.inf (s != t)) c
  | .inf s, .fin t n _ => if n = 0 then (fNaN f, 16) else fAddV f rm (.inf (s != t)) c
  | .fin s m _, .inf t => if m = 0 then (fNaN f, 16) else fAddV f rm (.inf (s != t)) c
  | .fin s m e, .fin t n d => fAddV f rm (.fin (s != t) (m * n) (e + d)) c

/-- Order of two values that are no NaN; −0 equals +0. -/
def fLtV (a b : FVal) : Bool :=
  match a, b with
  | .inf s, .inf t => s && !t
  | .inf s, _ => s
  | _, .inf t => !t
  | .fin s m e, .fin t n d => decide ((fExactAdd s m e (!t) n d).1 < 0)
  | _, _ => false
def fEqV (a b : FVal) : Bool :=
  match a, b with
  | .inf s, .inf t => s == t
  | .fin s m e, .fin t n d => decide ((fExactAdd s m e (!t) n d).1 = 0)
  | _, _ => false

/-- FMIN and FMAX (R375). -/
def fMinMax (f : FFmt) (mx : Bool) (x y : Nat) : Nat × Nat :=
  let a := fDecode f x
  let b := fDecode f y
  let fl := if fIsSNaN a || fIsSNaN b then 16 else 0
  if fIsNaN a && fIsNaN b then (fNaN f, fl)
  else if fIsNaN a then (y, fl)
  else if fIsNaN b then (x, fl)
  else if fEqV a b then ((if fSign f x != mx then x else y), fl)
  else ((if fLtV a b != mx then x else y), fl)

/-- FEQ, FLT, FLE (R375). -/
inductive FCmp where
  | eq | lt | le
deriving DecidableEq, Repr
def fCompare (f : FFmt) (o : FCmp) (x y : Nat) : Nat × Nat :=
  let a := fDecode f x
  let b := fDecode f y
  let sn := fIsSNaN a || fIsSNaN b
  let n := fIsNaN a || fIsNaN b
  match o with
  | .eq => (b2n (!n && fEqV a b), if sn then 16 else 0)
  | .lt => (b2n (!n && fLtV a b), if n then 16 else 0)
  | .le => (b2n (!n && (fLtV a b || fEqV a b)), if n then 16 else 0)

/-- FCLASS (R375). -/
def fClass (f : FFmt) (x : Nat) : Nat :=
  let s := fSign f x
  match fDecode f x with
  | .nan sig => if sig then 2 ^ 8 else 2 ^ 9
  | .inf _ => if s then 1 else 2 ^ 7
  | .fin _ m _ =>
    if m = 0 then (if s then 2 ^ 3 else 2 ^ 4)
    else if fExp f x = 0 then (if s then 2 ^ 2 else 2 ^ 5)
    else (if s then 2 ^ 1 else 2 ^ 6)

/-- FCVT.I (R376): a signed 64-bit integer. -/
def fToInt (f : FFmt) (rm x : Nat) : Nat × Nat :=
  match fDecode f x with
  | .nan _ => (2 ^ 63, 16)
  | .inf s => (if s then 2 ^ 63 else 2 ^ 63 - 1, 16)
  | .fin s m e =>
    let sh := (-e).toNat
    let m0 := if 0 ≤ e then m * 2 ^ e.toNat else m / 2 ^ sh
    let rem := if 0 ≤ e then 0 else m % 2 ^ sh
    let half := if sh = 0 then 0 else 2 ^ (sh - 1)
    let r := if fRoundUp rm s (m0 % 2 = 1) rem half false then m0 + 1 else m0
    if s then (if 2 ^ 63 < r then (2 ^ 63, 16) else ((2 ^ 64 - r) % 2 ^ 64, b2n (rem != 0)))
    else (if 2 ^ 63 ≤ r then (2 ^ 63 - 1, 16) else (r, b2n (rem != 0)))

/-- FCVT.F (R376). -/
def fFromInt (f : FFmt) (rm x : Nat) : Nat × Nat :=
  let i := sgn x 64
  fRound f rm (decide (i < 0)) i.natAbs 0 false

/-- FWIDEN and FNARROW (R376): a value of one format in another. -/
def fConvert (f g : FFmt) (rm x : Nat) : Nat × Nat :=
  match fDecode f x with
  | .nan sig => (fNaN g, if sig then 16 else 0)
  | .inf s => (fInf g s, 0)
  | .fin s m e => fRound g rm s m e false

end Sys2Proof.Machine
end

