-- ==== Sys2Proof/Machine/Spare.lean ====
section
/-! DEFINITION. The memory controller's registers and the live spare's decisions (03_memory_system.md R90-R94, R104, R107). -/
namespace Sys2Proof.Machine

/-! ### Channel pages and the controller's live registers (R104) -/

def State.mch (s : State) (p : Nat) : Chan := sget s.memc.chans p {}
def State.setMch (s : State) (p : Nat) (c : Chan) : State := { s with memc := { s.memc with chans := sput s.memc.chans p c {} } }
def State.setCstate (s : State) (p v : Nat) : State := s.setMch p { s.mch p with cstate := v }
def State.setSpareSt (s : State) (x : SpareSt) : State := { s with memc := { s.memc with spareSt := x } }

/-- Code of MODE (R104). -/
def memModeCode : MemMode → Nat | .untrained => 0 | .narrow => 1 | .widening => 2 | .wide => 3
/-- Code of SPARE_ST (R91). -/
def spareCode : SpareSt → Nat | .idle => 0 | .arm => 1 | .copy => 2 | .switch => 3 | .used => 4 | .failed => 5

/-- A FORCE is held until MODE is WIDE (R90). -/
def forceHeld (m : Memc) : Bool := m.mode != .wide && m.held.any fun h => match h with | .force _ => true | _ => false

/-- Live registers of page 0x080. -/
def memcRead (s : State) (off : Nat) : Word32 :=
  match off with
  | 0x008 => w32 (b2n s.memc.widen)
  | 0x00C => w32 (spareCode s.memc.spareSt * 32 + memModeCode s.memc.mode)
  | 0x100 => w32 (b2n s.memc.spareValid * 2 ^ 31 + s.memc.spareLogical)
  | 0x104 => s.reg 0x80 0x104 ||| w32 (b2n (forceHeld s.memc) * 256)
  | 0x108 => w32 s.memc.sparePtr
  | 0x11C => w32 ((rangeFrom 0 8).foldl (fun a n => a + b2n (s.mch (8 * n)).trained * 2 ^ n) 0)
  | _ => s.reg 0x80 off

/-- Live registers of channel page `p`; with PD_DCHp off the channel is not trained, and reads OFF unless it is RETIRED (R48, R94, R104). -/
def mchRead (s : State) (p off : Nat) : Word32 :=
  match off with
  | 0x00C =>
    w32 (b2n (s.dom (pdDch p) && (s.mch p).trained) * 4 + (if s.dom (pdDch p) || (s.mch p).cstate = 3 then (s.mch p).cstate else 0))
  | 0x108 =>
    if (s.mch p).cstate = 3 then 0
    else if p < 63 then w32 (2 ^ 31 + p)
    else if s.memc.spareSt == .used then w32 (2 ^ 31 + s.memc.spareLogical) else 0
  | _ => s.reg (0xC0 + p) off

/-! ### Live spare (R90-R93) -/

/-- SPARE_ARM: channel 63 leaves self-refresh, retrains and records LOGICAL (R91). -/
def spareArm (s : State) (lch : Nat) : State :=
  ({ s with memc := { s.memc with spareSt := .arm, spareLogical := lch, spareValid := false, sparePtr := 0 } }).setMch 63
    { cstate := 1, trained := true }

/-- No spare is left for a channel: NO_SPARE, and the channel stays in service DEGRADED (R90). -/
def noSpare (s : State) (pch : Nat) : State :=
  (if (s.mch pch).cstate = 3 then s else s.setCstate pch 2).irqBit 0x80 5

/-- The spare fails without a copy (R107). -/
def spareFail (s : State) : State := (s.setSpareSt .failed).irqBit 0x80 3

/-- Holds a lasting fault or FORCE for later (R90). -/
def holdSpare (s : State) (h : HeldSpare) : State := { s with memc := { s.memc with held := s.memc.held ++ [h] } }

/-- A lasting fault or FORCE that finds MODE WIDE and no procedure running (R90, R107). -/
def spareAct (s : State) (h : HeldSpare) : State :=
  match h with
  | .lasting p =>
    if p = 63 then
      (match s.memc.spareSt with
       | .idle => spareFail s
       | _ => noSpare s 63)
    else if s.memc.spareSt == .idle then spareArm s p
    else noSpare s p
  | .force l =>
    if s.memc.spareSt == .idle then spareArm s l
    else if s.memc.spareLogical = l ∧ s.memc.spareSt == .used then s
    else noSpare s l

/-- Held faults and FORCEs act in order; what finds a procedure running stays held (R90). -/
def releaseHeld (s : State) : List HeldSpare → State
  | [] => s
  | h :: t =>
    if s.memc.spareSt == .arm || (s.memc.spareSt == .copy || s.memc.spareSt == .switch) then releaseHeld (holdSpare s h) t
    else releaseHeld (spareAct s h) t

/-- The held ones act now. -/
def actHeld (s : State) : State := releaseHeld { s with memc := { s.memc with held := [] } } s.memc.held

/-- The copy is abandoned (R93). -/
def spareAbandon (s : State) : State :=
  actHeld ((((s.setSpareSt .failed).setCstate s.memc.spareLogical 2).irqBit 0x80 2).irqBit 0x80 3)

/-- The fault manager's sparing action for a lasting fault on channel page `p` (R90, R93, R107). -/
def spareLasting (s : State) (p : Nat) : State :=
  if s.memc.mode != .wide then holdSpare s (.lasting p)
  else if s.memc.spareSt == .copy ∧ p = 63 then spareAbandon s
  else if s.memc.spareSt == .arm || (s.memc.spareSt == .copy || s.memc.spareSt == .switch) then holdSpare s (.lasting p)
  else spareAct s (.lasting p)

/-- A spare procedure that a reset interrupted starts again from ARM (R94). -/
def spareAgain (s : State) : State :=
  if s.memc.spareSt == .arm || (s.memc.spareSt == .copy || s.memc.spareSt == .switch) then spareArm s s.memc.spareLogical else s

/-- A write to MEMC_SPARE_CTL: TARGET and RATE are stored, a 1 in FORCE requests sparing of TARGET (R90, R107). -/
def spareCtlWrite (s : State) (v : Word32) : State :=
  let s1 := s.setReg 0x80 0x104 (v &&& w32 0x003F000F)
  let l := regFld v 16 6
  if !(regBit v 8) ∨ 62 < l then s1
  else if s1.memc.mode != .wide then holdSpare s1 (.force l)
  else match s1.memc.spareSt with
    | .idle => spareArm s1 l
    | .arm => s1 | .copy => s1 | .switch => s1
    | .used => if s1.memc.spareLogical = l then s1 else noSpare s1 l
    | .failed => noSpare s1 l

end Sys2Proof.Machine
end

