-- ==== Sys2Proof/Machine/Memory.lean ====
section
/-! DEFINITION. DRAM, scratch and queue store (03_memory_system.md): address functions, inline ECC, bank states, and reads
and writes of the memory behind the bus matrix. -/
namespace Sys2Proof.Machine

/-! ### Address functions (R80-R85) -/

abbrev dramBase : Nat := 0x001000000000
/-- Lines of the 244 GiB map. -/
abbrev dramLines : Nat := 4093640704
/-- Lines of the narrow window (R84). -/
abbrev narrowLines : Nat := 134217728
/-- Data lines of one channel (R79). -/
abbrev chanLines : Nat := 65011712

/-- The fold of R81: the line address modulo 63. -/
def fold63 (l : Nat) : Nat :=
  let s1 := fld l 0 6 + fld l 6 6 + fld l 12 6 + fld l 18 6 + fld l 24 6 + fld l 30 2
  let s2 := fld s1 0 6 + fld s1 6 3
  let s3 := fld s2 0 6 + fld s2 6 1
  if s3 = 63 then 0 else s3

/-- Rank, bank, row and column of in-channel line `j`, and the row and byte offset of its check word, in the last row of the group of 32
(R79, R82). -/
structure DramPlace where
  rank : Nat
  bank : Nat
  row : Nat
  col : Nat
  crow : Nat
  coff : Nat
deriving DecidableEq, Repr

def dramPlace (j : Nat) : DramPlace :=
  let dr := j >>> 9
  let drr := dr % 63488
  { rank := dr / 63488, bank := (fld j 5 4) ^^^ (fld drr 0 4), row := (drr / 31) * 32 + drr % 31, col := fld j 0 5,
    crow := (drr / 31) * 32 + 31, coff := 2 * (drr % 31 * 32 + fld j 0 5) }

/-- The address tag of a location (R86). -/
def dramTag (p : DramPlace) : Nat :=
  let x := 2 ^ 20 * p.rank + p.bank * 2 ^ 16 + p.row
  (fld x 0 5) ^^^ ((fld x 5 5) ^^^ ((fld x 10 5) ^^^ ((fld x 15 5) ^^^ (fld x 20 1))))

/-- A location: physical channel and in-channel line. -/
abbrev Loc := Nat × Nat
/-- Number of a location. -/
def locIx (l : Loc) : Nat := l.1 * chanLines + l.2
/-- Memory key of a location's first byte: DRAM is kept by location. -/
def locKey (l : Loc) : Nat := 2 ^ 50 + locIx l * 64

/-- Narrow placement of window line `l` (R84). -/
def narrowLoc (l : Nat) : Loc := (8 * (l % 8), 32505856 + l / 8)

/-- Where line `l` of the wide map is read, and the locations a write goes to (R80, R92). -/
def State.wideLocs (s : State) (l : Nat) : Loc × List Loc :=
  let lch := fold63 l
  let j := (l - lch) / 63
  if s.memc.spareValid && s.memc.spareLogical == lch then ((63, j), [(63, j)])
  else if (s.memc.spareSt == .copy || s.memc.spareSt == .switch) && (s.memc.spareLogical == lch && decide (j / 32 < s.memc.sparePtr))
    then ((63, j), [(lch, j), (63, j)])
  else ((lch, j), [(lch, j)])

/-- Where line `l` above the base of DRAM lies in the present mode; none where the mode does not map it (R80, R84, R85). -/
def State.dramLocs (s : State) (l : Nat) : Option (Loc × List Loc) :=
  match s.memc.mode with
  | .untrained => none
  | .narrow => if l < narrowLines then some (narrowLoc l, [narrowLoc l]) else none
  | .widening =>
    if l < narrowLines then
      if l < s.memc.widenPtr then some (s.wideLocs l) else some (narrowLoc l, [narrowLoc l])
    else none
  | .wide => if l < dramLines then some (s.wideLocs l) else none

/-! ### Inline ECC (R86-R88) -/

/-- MEMC UE record (R87): the first uncorrectable line since VALID was cleared. -/
def State.memcRecord (s : State) (addr pch kind : Nat) : State :=
  if s.regB 0x80 0x114 31 then s
  else ((((s.setReg 0x80 0x10C (w32 addr)).setReg 0x80 0x110 (w32 (addr / 2 ^ 32 % 2 ^ 16))).setReg 0x80 0x114
    (w32 (2 ^ 31 + pch * 256 + kind))).irqBit 0x80 0)

/-- Saturating increment of a 32-bit counter register. -/
def State.bumpReg (s : State) (page off : Nat) : State :=
  s.setReg page off (w32 (satAdd (s.reg page off).toNat 1 0xFFFFFFFF))

/-- An uncorrectable line (R87). -/
def State.lineUE (s : State) (addr pch kind : Nat) : State :=
  (((s.bumpReg (0xC0 + pch) 0x104).irqBit (0xC0 + pch) 1).memcRecord addr pch kind)

/-- A corrected line (R87). -/
def State.lineCE (s : State) (pch : Nat) : State :=
  (((s.bumpReg (0xC0 + pch) 0x100).correctable (0xC0 + pch)).irqBit (0xC0 + pch) 0)

def State.lineErrAt (s : State) (l : Loc) : CellErr := sget s.lineErr (locIx l) {}
def State.setLineErr (s : State) (l : Loc) (e : CellErr) : State := { s with lineErr := sput s.lineErr (locIx l) e {} }

/-- `n` cells of free bytes. -/
def State.freshBytes (s : State) : Nat → List Byte × State
  | 0 => ([], s)
  | n + 1 =>
    let r := State.freshBytes { s with free := s.free + 1 } n
    (leBytes 8 (Config.freeCell s.free).toNat ++ r.1, r.2)

/-- KIND of a tag difference (R87). -/
def tagKind (tag : Nat) : Nat := if tag = 31 then 3 else 2

/-- TAG as the check word of location `l` holds it: the location's tag, with the bits in error that `tag` names (R86). -/
def storedTag (l : Loc) (tag : Nat) : Nat := dramTag (dramPlace l.2) ^^^ tag

/-- The 16-bit check word of the line at `l`: the code of its data and tag in [10:0], TAG in [15:11] (R86). It lies in row `crow`, at byte
`coff`, of the line's bank (R82). The manual gives the kind of code and not its matrix: the code is a free function (log entry 74). -/
def State.checkWord (s : State) (l : Loc) : BitVec 16 :=
  let t := storedTag l (s.lineErrAt l).tag
  BitVec.ofNat 16 (t * 2 ^ 11 + (Config.hsiao (s.bytes (locKey l) 64) (BitVec.ofNat 5 t)).toNat)

/-- A read of a DRAM line under R87: SECDED, then TAG against the tag of the location addressed. Answers the data, and whether it is
poisoned. `addr` is the address the UE record takes. -/
def lineRead (s : State) (addr : Nat) (l : Loc) (u : Upset) : State × List Byte × Bool :=
  let e0 := s.lineErrAt l
  let e : CellErr := { bits := e0.bits + u.bits, tag := e0.tag ^^^ u.tag.toNat }
  let s0 := s.setLineErr l e
  let data := s.bytes (locKey l) 64
  if 3 ≤ e.bits then
    let f := s0.freshBytes 8
    let c := f.2.fresh
    if c.1.toNat % 3 = 0 then (c.2.lineUE addr l.1 1, data, true)
    else if c.1.toNat % 3 = 1 then ((((c.2.setLineErr l {}).setBytes (locKey l) f.1).lineCE l.1), f.1, false)
    else (c.2, f.1, false)
  else if e.bits = 2 then (s0.lineUE addr l.1 1, data, true)
  else if storedTag l e.tag ≠ dramTag (dramPlace l.2) then
    (s0.lineUE addr l.1 (tagKind (storedTag l e.tag ^^^ dramTag (dramPlace l.2))), data, true)
  else if e.bits = 1 then (((s0.setLineErr l {}).lineCE l.1), data, false)
  else (s0, data, false)

/-- Stores a whole line with a fresh check word; a poisoned line gets TAG inverted in all 5 bits (R88). -/
def lineStore (s : State) (data : List Byte) (poison : Bool) : List Loc → State
  | [] => s
  | l :: t => lineStore ((s.setLineErr l (if poison then { bits := 0, tag := 31 } else {})).setBytes (locKey l) data) data poison t

/-- A demand read of a line: where the spare fails a read that a COPY directs to it, the copy is abandoned and the read is retried on the
old channel (R92, R93). -/
def chanRead (s : State) (addr : Nat) (l : Loc) (u : Upset) : State × List Byte × Bool :=
  let r := lineRead s addr l u
  if r.2.2 && (l.1 == 63 && s.memc.spareSt == .copy) then
    lineRead (spareAbandon r.1) addr (s.memc.spareLogical, l.2) {}
  else r

/-- The places a write still goes to after its read: an abandoned copy leaves the old channel alone (R93). -/
def writeLocs (s : State) (wr : List Loc) : List Loc :=
  if s.memc.spareSt == .failed then (if wr.length = 2 then wr.take 1 else wr) else wr

/-- A write within one line (R88): a full line is stored, a partial one is read, merged and stored. -/
def lineWrite (s : State) (addr : Nat) (rd : Loc) (wr : List Loc) (o : Nat) (data : List Byte) (u : Upset) : State :=
  if data.length = 64 then lineStore s data false wr
  else
    let r := chanRead s addr rd u
    lineStore r.1 (listPut r.2.1 o data) r.2.2 (writeLocs r.1 wr)

/-- The channels of these locations have power (R48). -/
def State.chansOn (s : State) (l : List Loc) : Bool := l.all fun x => s.dom (pdDch x.1)

/-! ### Scratch and queue store (R95, R96) -/

abbrev scrBase : Nat := 0x000100000000
abbrev qstBase : Nat := 0x000200000000
abbrev parmBase : Nat := 0x000201000000

/-- Page (0 scratch, 1 queue store) and bank of an address of either (R95). -/
def bankOf (a : Nat) : Option (Nat × Nat) :=
  if scrBase ≤ a ∧ a < scrBase + 0x4000000 then
    some (0, fld (a - scrBase) 21 5 * 8 + fld (a - scrBase) 6 3)
  else if qstBase ≤ a ∧ a < qstBase + 0x1000000 then
    some (1, fld (a - qstBase) 21 3 * 8 + fld (a - qstBase) 6 3)
  else none

/-- Register page of scratch or queue store. -/
def scrPage (p : Nat) : Nat := 0x100 + p
def State.scr (s : State) (p : Nat) : Scr := if p = 0 then s.scr0 else s.scr1
def State.setScr (s : State) (p : Nat) (x : Scr) : State := if p = 0 then { s with scr0 := x } else { s with scr1 := x }

/-- State code of a bank (R96). -/
def State.bankSt (s : State) (p b : Nat) : Nat := s.regF (scrPage p) (0x100 + 4 * (b / 16)) (2 * (b % 16)) 2
def State.setBankSt (s : State) (p b v : Nat) : State := s.setRegF (scrPage p) (0x100 + 4 * (b / 16)) (2 * (b % 16)) 2 v
/-- Power domain of a bank. -/
def bankDomain (p b : Nat) : Nat := if p = 0 then pdScr (b / 8) else pdQst (b / 8)

/-- All bytes and stored errors of a bank back to zero with valid ECC. -/
def State.zeroBank (s : State) (p b : Nat) : State :=
  { s with mem := sdrop (fun k => bankOf k == some (p, b)) s.mem,
           wordErr := sdrop (fun k => bankOf (k * 8) == some (p, b)) s.wordErr }

/-- The zero fill of a bank ends: its contents are 0 and it is in the state it was moved to (R96). -/
def State.endFill (s : State) (p b : Nat) : State :=
  if sget (s.scr p).filling b 0 = 0 then s
  else (s.zeroBank p b).setScr p { s.scr p with filling := sput (s.scr p).filling b 0 0 }

/-- What an access does to its bank before it is served: it waits for a zero fill, a bank in RET wakes to ON, a bank that is
OFF or RETIRED refuses it (R96). -/
def bankReady (s : State) (p b : Nat) : State × Option BusCause :=
  if s.bankSt p b = 1 then (s.endFill p b, none)
  else if s.bankSt p b = 2 then ((s.endFill p b).setBankSt p b 1, none)
  else (s, some .power)

def State.wordErrAt (s : State) (w : Nat) : Nat := (sget s.wordErr w {}).bits
def State.setWordErr (s : State) (w bits : Nat) : State := { s with wordErr := sput s.wordErr w { bits := bits } {} }

/-- A read of the 64-bit word number `w` (address `8w`) of scratch or queue store under SECDED (R95, R99). -/
def wordRead (s : State) (p w : Nat) (bits : Nat) : State × List Byte × Bool :=
  let e := s.wordErrAt w + bits
  let s0 := s.setWordErr w e
  let data := s.bytes (w * 8) 8
  let ue := fun (t : State) =>
    (t.setReg (scrPage p) 0x14C (w32 ((w * 8 - (if p = 0 then scrBase else qstBase)) % 2 ^ 26))).irqBit (scrPage p) 1
  if 3 ≤ e then
    let f := s0.freshBytes 1
    let c := f.2.fresh
    if c.1.toNat % 3 = 0 then (ue c.2, data, true)
    else if c.1.toNat % 3 = 1 then
      ((((c.2.setWordErr w 0).setBytes (w * 8) f.1).correctable (scrPage p)).irqBit (scrPage p) 0, f.1, false)
    else (c.2, f.1, false)
  else if e = 2 then (ue s0, data, true)
  else if e = 1 then (((s0.setWordErr w 0).correctable (scrPage p)).irqBit (scrPage p) 0, data, false)
  else (s0, data, false)

/-- A write within one word: all 8 bytes clear poison, fewer are merged and a poisoned word stays poisoned (R95). -/
def wordWrite (s : State) (p w o : Nat) (data : List Byte) (bits : Nat) : State :=
  if data.length = 8 then (s.setWordErr w 0).setBytes (w * 8) data
  else
    let r := wordRead s p w bits
    (r.1.setWordErr w (if r.2.2 then 2 else 0)).setBytes (w * 8) (listPut r.2.1 o data)

/-! ### Reads and writes of the memory behind the matrix -/

/-- A range cut at every multiple of `al`: address and length of each part. -/
def parts (al : Nat) : Nat → Nat → Nat → List (Nat × Nat)
  | 0, _, _ => []
  | fuel + 1, a, n =>
    if n = 0 then [] else
      let k := min n (al - a % al)
      (a, k) :: parts al fuel (a + k) (n - k)

/-- What a read of memory answers: the bytes and the poison mark, or a bus-error cause. -/
abbrev RdAns := Except BusCause (List Byte × Bool)

/-- A read within one line of DRAM; a channel without power answers POWER (R48, R106). -/
def dramPartRead (s : State) (a n : Nat) (u : Upset) : State × RdAns :=
  match s.dramLocs ((a - dramBase) / 64) with
  | none => (s, .error .notmapped)
  | some (rd, _) =>
    if s.chansOn [rd] then
      let r := chanRead s (a - a % 64) rd u
      (r.1, .ok ((r.2.1.drop (a % 64)).take n, r.2.2))
    else (s, .error .power)

/-- A write within one line of DRAM. -/
def dramPartWrite (s : State) (a : Nat) (data : List Byte) (u : Upset) : State × Option BusCause :=
  match s.dramLocs ((a - dramBase) / 64) with
  | none => (s, some .notmapped)
  | some (rd, wr) =>
    if s.chansOn (rd :: wr) then (lineWrite s (a - a % 64) rd wr (a % 64) data u, none) else (s, some .power)

/-- A read within one word of scratch or queue store. -/
def sramPartRead (s : State) (a n : Nat) (u : Upset) : State × RdAns :=
  match bankOf a with
  | none => (s, .error .unmapped)
  | some (p, b) =>
    match bankReady s p b with
    | (s1, some c) => (s1, .error c)
    | (s1, none) =>
      let r := wordRead s1 p (a / 8) u.bits
      (r.1, .ok ((r.2.1.drop (a % 8)).take n, r.2.2))

/-- A write within one word of scratch or queue store. -/
def sramPartWrite (s : State) (a : Nat) (data : List Byte) (u : Upset) : State × Option BusCause :=
  match bankOf a with
  | none => (s, some .unmapped)
  | some (p, b) =>
    match bankReady s p b with
    | (s1, some c) => (s1, some c)
    | (s1, none) => (wordWrite s1 p (a / 8) (a % 8) data u.bits, none)

/-- Kinds of memory by address (R37). -/
inductive MemKind where
  | dram | sram | parm | none
deriving DecidableEq, Repr

def memKind (a : Nat) : MemKind :=
  if dramBase ≤ a ∧ a < 0x004D00000000 then .dram
  else if (scrBase ≤ a ∧ a < scrBase + 0x4000000) ∨ (qstBase ≤ a ∧ a < qstBase + 0x1000000) then .sram
  else if parmBase ≤ a ∧ a < parmBase + 0x80000 then .parm
  else .none

/-- Reads the parts of a range in order; the first bus error ends the access. -/
def readParts (f : State → Nat → Nat → State × RdAns) : State → List (Nat × Nat) → State × RdAns
  | s, [] => (s, .ok ([], false))
  | s, (a, n) :: t =>
    match f s a n with
    | (s1, .error c) => (s1, .error c)
    | (s1, .ok (d, p)) =>
      match readParts f s1 t with
      | (s2, .error c) => (s2, .error c)
      | (s2, .ok (d2, p2)) => (s2, .ok (d ++ d2, p || p2))

/-- Writes the parts of a range in order; the first bus error ends the access. -/
def writeParts (f : State → Nat → List Byte → State × Option BusCause) : State → List (Nat × Nat) → List Byte → State × Option BusCause
  | s, [], _ => (s, none)
  | s, (a, n) :: t, d =>
    match f s a (d.take n) with
    | (s1, some c) => (s1, some c)
    | (s1, none) => writeParts f s1 t (d.drop n)

/-- A read within one word of a parameter block; its corrected words count on page 0x120 (R249). -/
def parmPartRead (s : State) (a n : Nat) (u : Upset) : State × RdAns :=
  let e := s.wordErrAt (a / 8) + u.bits
  let s0 := s.setWordErr (a / 8) e
  if 2 ≤ e then (s0, .ok (s.bytes a n, true))
  else if e = 1 then ((s0.setWordErr (a / 8) 0).correctable 0x120, .ok (s.bytes a n, false))
  else (s0, .ok (s.bytes a n, false))

/-- A read of one part that lies within a line: DRAM by line, SRAM word by word. -/
def memPartRead (u : Upset) (s : State) (a n : Nat) : State × RdAns :=
  match memKind a with
  | .dram => dramPartRead s a n u
  | .sram => readParts (fun s a n => sramPartRead s a n u) s (parts 8 n a n)
  | .parm => readParts (fun s a n => parmPartRead s a n u) s (parts 8 n a n)
  | .none => (s, .error .unmapped)

/-- A write of one part that lies within a line. The parameter blocks are read-only to masters (R37, R249). -/
def memPartWrite (u : Upset) (s : State) (a : Nat) (d : List Byte) : State × Option BusCause :=
  match memKind a with
  | .dram => dramPartWrite s a d u
  | .sram => writeParts (fun s a d => sramPartWrite s a d u) s (parts 8 d.length a d.length) d
  | .parm => (s, some .access)
  | .none => (s, some .unmapped)

/-- A read of memory, split at line boundaries (R103). -/
def memRead (s : State) (a n : Nat) (u : Upset := {}) : State × RdAns :=
  readParts (memPartRead u) s (parts 64 n a n)
/-- A write of memory, split at line boundaries (R103). -/
def memWrite (s : State) (a : Nat) (d : List Byte) (u : Upset := {}) : State × Option BusCause :=
  writeParts (memPartWrite u) s (parts 64 d.length a d.length) d

end Sys2Proof.Machine
end

