-- ==== Sys2Proof/Machine/Cupola.lean ====
section
/-! DEFINITION. The Cupola energy meter and its pages (15_cupola.md R409-R427). -/
namespace Sys2Proof.Machine

abbrev cupBase : Nat := 0xE00000000

/-! ### Parameters, status (R411, R415, R418, R422) -/

/-- A calibration parameter; ids without a parameter give none. -/
def cupParam (c : Cup) (id : Nat) : Option Nat :=
  if id = 0 then some (sget c.params id 0)
  else if 0x10 ≤ id ∧ id < 0x18 then some (sget c.params id 0x40000000)
  else if 0x18 ≤ id ∧ id < 0x1C then some (sget c.params id 0)
  else if 0x1C ≤ id ∧ id < 0x20 then some (sget c.params id 250)
  else none
/-- MODE (R411). -/
def cupMode (c : Cup) : Nat := sget c.params 0 0
/-- Channel `k` counts in the totals (R411). -/
def cupIncluded (c : Cup) (k : Nat) : Bool := !(cupMode c == 1 && k == 3)

/-- VLOSS: the voltage RMS at the input is below 10 % of the nominal 300 mV (R416, R422). -/
def cupVloss (c : Cup) (k : Fin 4) : Bool := c.measured && decide (c.chans[k].uv < 30000)
/-- Half-cycles are 10 ms of the Cupola clock (R413). -/
def cupTimed (c : Cup) : Bool := cupMode c == 3 || cupVloss c 0
/-- NOMARK (R414). -/
def cupNomark (c : Cup) : Bool :=
  cupTimed c || (decide (c.crossings < 4) || decide (c.freq < 45000 ∨ 65000 < c.freq))
/-- ACCWHY (R415). -/
def cupWhy (c : Cup) : Nat := if c.warm then 1 else if !c.tempOk then 2 else if !c.selfOk then 3 else 0
/-- 16 or fewer log entries are free. -/
def cupLow (c : Cup) : Bool := decide (240 ≤ c.log.length)

/-- The fields of the die's status (R422). -/
def cupStat (c : Cup) : Nat :=
  b2n c.sealed * 2 ^ 31 + b2n c.calen * 2 ^ 30 + b2n (cupWhy c == 0) * 2 ^ 29 + b2n (cupLow c) * 2 ^ 28 + b2n c.holdupOk * 2 ^ 27 +
  cupMode c % 8 * 2 ^ 24 + b2n (cupVloss c 3) * 2 ^ 23 + b2n (cupVloss c 2) * 2 ^ 22 + b2n (cupVloss c 1) * 2 ^ 21 +
  b2n (cupVloss c 0) * 2 ^ 20 + b2n (cupNomark c) * 2 ^ 19 + cupWhy c * 2 ^ 16 + min c.warmLeft 0xFFFF

/-! ### The window (R422, R423) -/

/-- CW_SEQ. -/
def State.cwSeq (s : State) : Nat := s.le cupBase 4
/-- CW_STAT of the update that comes next: at the die's first snapshot each field but SEALED and MODE holds its Reset value (R422). -/
def State.cwStat (s : State) : Nat :=
  if s.cwSeq = 0 then b2n s.cup.sealed * 2 ^ 31 + 2 ^ 27 + cupMode s.cup % 8 * 2 ^ 24 + 2 ^ 19 + 2 ^ 16 + 60 else cupStat s.cup
/-- CW_SEQ after one more update (R423). -/
def seqNext (x : Nat) : Nat := if x = 0xFFFFFFFE then 2 else x + 2

/-- Packed decimal of 12 digits (R412). -/
def bcd12 (x : Nat) : Nat := (rangeFrom 0 12).foldl (fun a i => a + x / 10 ^ i % 10 * 16 ^ i) 0

/-- A log entry's 16 bytes (R419). -/
def logBytes (e : CupLog) : List Byte :=
  leBytes 2 e.num ++ leBytes 1 e.kind ++ leBytes 1 e.param ++ leBytes 4 e.opsec ++ leBytes 4 e.old ++ leBytes 4 e.new

/-- A queue entry of page 0x381 (R425). -/
def evPush (s : State) (w : List Nat) : State :=
  if 16 ≤ s.cup.evq.length then
    ({ s with cup := { s.cup with evlost := satAdd s.cup.evlost 1 0xFFFF } }).irqBit 0x381 1
  else ({ s with cup := { s.cup with evq := s.cup.evq ++ [w] } }).irqBit 0x381 0
/-- Sends a message of a kind; word 3 is not stated. -/
def cupMsg (s : State) (kind w2 : Nat) : State :=
  let f := s.fresh
  evPush f.2 [kind, s.cwSeq, w2, f.1.toNat % 2 ^ 32]

/-- Bytes of the ten energy registers. -/
def energyBytes (e : CupEnergy) : List Byte := (e.reg.toList.map fun x => leBytes 8 (bcd12 x)).flatten

/-- Readings of channel `k` (R413); the peak is written with the half-cycle. -/
def chanBytes (x : CupChan) : List Byte := leBytes 4 x.vrms ++ leBytes 4 x.irms ++ leBytes 4 (uns x.power 32)

/-- What every snapshot writes, by window offset. -/
def windowParts (c : Cup) (stat tag : Nat) : List (Nat × List Byte) :=
  [(0x04, leBytes 4 stat), (0x08, leBytes 4 c.opsec), (0x0C, leBytes 4 tag), (0x10, leBytes 4 c.fwver.toNat),
   (0x14, leBytes 4 c.fwcrc.toNat), (0x18, leBytes 8 c.serial.toNat), (0x20, leBytes 4 c.log.length), (0x24, leBytes 4 c.refused),
   (0x100, energyBytes c.energy), (0x200, chanBytes c.chans[0]), (0x210, chanBytes c.chans[1]), (0x220, chanBytes c.chans[2]),
   (0x230, chanBytes c.chans[3]), (0x240, leBytes 4 (uns c.total 32)), (0x248, leBytes 4 c.freq)]

def putParts (s : State) : List (Nat × List Byte) → State
  | [] => s
  | x :: t => putParts (s.setBytes (cupBase + x.1) x.2) t

/-- One update of the window (R423): CW_SEQ is even again after it; the first snapshot also writes the log and the public key. A change
of CW_STAT[31:19] sends STATUS (R425). -/
def snapshot (s : State) (tag : Nat) (more : List (Nat × List Byte)) : State :=
  let first := s.cwSeq == 0
  let old := s.le (cupBase + 4) 4
  let seq := seqNext s.cwSeq
  let parts := (if first then (s.cup.log.map fun e => (0x1000 + 16 * e.num, logBytes e)) ++ [(0x3000, ecPublic p256 s.cup.key)] else []) ++
    windowParts s.cup s.cwStat tag ++ more ++ [(0, leBytes 4 seq)]
  let s1 := putParts s parts
  let new := s.cwStat
  if !first && old / 2 ^ 19 != new / 2 ^ 19 then cupMsg s1 3 new else s1

/-- The status shown follows the die's; before the first snapshot the window stays empty. What a sample changes shows with the next
window update (log entry 58). -/
def statUpdate (s : State) : State :=
  let seq := seqNext s.cwSeq
  let old := s.le (cupBase + 4) 4
  let new := cupStat s.cup
  if s.cwSeq = 0 ∨ old = new then s
  else
    let s1 := putParts s [(4, leBytes 4 new), (0, leBytes 4 seq)]
    if old / 2 ^ 19 != new / 2 ^ 19 then cupMsg s1 3 new else s1

def State.setCup (s : State) (c : Cup) : State := { s with cup := c }

/-! ### The audit log (R419) -/

/-- Appends an entry and shows it; LOG message. The log is never full here. -/
def logAdd (s : State) (kind param old new : Nat) : State :=
  let c := s.cup
  let e : CupLog := { num := c.log.length, kind := kind, param := param, opsec := c.opsec, old := old, new := new }
  cupMsg (snapshot (s.setCup { c with log := c.log ++ [e] }) 0 [(0x1000 + 16 * e.num, logBytes e)]) 4 e.num
/-- An entry is free. -/
def logFree (c : Cup) : Bool := decide (c.log.length < 256)

/-- A refused request (R34, R419, R424): counted, logged once while more than 16 entries are free, REFUSED message. -/
def cupRefuse (s : State) (kind : Nat) : State :=
  let c := { s.cup with refused := satAdd s.cup.refused 1 0xFFFFFFFF }
  let s1 := s.setCup c
  let s2 :=
    if cupLow c then s1
    else match c.refusedEntry with
      | none => logAdd (s1.setCup { c with refusedEntry := some c.log.length }) 5 kind 0 1
      | some n =>
        match c.log[n]? with
        | some e =>
          let e1 := { e with new := satAdd e.new 1 0xFFFFFFFF }
          snapshot (s1.setCup { c with log := c.log.set n e1 }) 0 [(0x1000 + 16 * n, logBytes e1)]
        | none => s1
  cupMsg s2 6 kind

/-! ### Samples (R411-R414) -/

/-- A gain of 2.30 fixed point applied. -/
def gained (x : Int) (g : Nat) : Int := x * Int.ofNat g / 1073741824

/-- µW samples in 1 µWh: 3,600 s at 8,000 samples/s. -/
abbrev uwhSamples : Nat := 28800000

/-- Adds a µW sample to a register (R412): the residue counts whole µWh, and each whole 1 Wh of it adds 1 to the register. -/
def energyAdd (e : CupEnergy) (r : Fin 10) (x : Nat) : CupEnergy :=
  let t := e.part[r] + x
  let u := e.res[r] + t / uwhSamples
  { reg := e.reg.set r ((e.reg[r] + u / 1000000) % 1000000000000), res := e.res.set r (u % 1000000), part := e.part.set r (t % uwhSamples) }

/-- Power of sample `p` in µW to the import register `i` or the export register `x`. -/
def energyPower (e : CupEnergy) (i x : Fin 10) (p : Int) : CupEnergy :=
  if 0 < p then energyAdd e i p.toNat else if p < 0 then energyAdd e x (-p).toNat else e

/-- Calibrated current of a channel in mA: the phase correction, then the gain (R418, log entry 72). -/
def calCurrent (c : Cup) (k : Nat) (i : Int) : Int :=
  let ph := (cupParam c (0x18 + k)).getD 0
  gained (if ph = 0 then i else Config.phasedCurrent ph k c.opsec c.nsec i) ((cupParam c (0x14 + k)).getD 0)

/-- Calibrated power of a channel in µW: mV times mA. -/
def samplePower (c : Cup) (k : Nat) (x : CupSample) : Int :=
  gained x.v ((cupParam c (0x10 + k)).getD 0) * calCurrent c k x.i

/-- The channel contributes: its current RMS over the last second is not below CREEP (R412). -/
def aboveCreep (c : Cup) (k : Fin 4) : Bool :=
  !c.measured || decide ((cupParam c (0x1C + k.val)).getD 0 ≤ c.chans[k].ui)

/-- Sums of a channel with one sample more. -/
def chanAdd (c : Cup) (k : Fin 4) (x : CupSample) : CupChan :=
  let ch := c.chans[k]
  let v := gained x.v ((cupParam c (0x10 + k.val)).getD 0)
  let i := calCurrent c k.val x.i
  let p := samplePower c k.val x
  { ch with sumV := ch.sumV + (v * v).toNat, sumI := ch.sumI + (i * i).toNat, sumP := ch.sumP + p,
            sumUv := ch.sumUv + (x.uv * x.uv).toNat, sumUi := ch.sumUi + (x.ui * x.ui).toNat, peak := max ch.peak (p / 1000).toNat }

/-- Root mean square of 8,000 squares. -/
def rms (sum : Nat) : Nat := isqrt (sum / 8000) 40 0

/-- A channel at the end of a second. -/
def chanSecond (x : CupChan) : CupChan :=
  { peak := x.peak, vrms := rms x.sumV, irms := rms x.sumI, power := x.sumP / 8000000, uv := rms x.sumUv, ui := rms x.sumUi }

/-- The crossing detector: whether V0 crossed zero upwards, or in either direction. -/
def crossUp (old new : Int) : Bool := decide (old < 0 ∧ 0 ≤ new)
def crossAny (old new : Int) : Bool := crossUp old new || decide (0 ≤ old ∧ new < 0)

/-- Crossing count, frequency and warm-up (R413-R415). -/
def cupCross (c : Cup) (v : Int) : Cup :=
  if crossUp c.v0 v then
    let frac := (v * 65536 / (v - c.v0)).toNat
    let dt := 65536 + c.ncross - frac
    { c with crossings := min 4 (c.crossings + 1), ncross := frac, freq := if c.crossings = 0 then c.freq else 524288000000 / max 1 dt,
             warmLeft := if cupTimed c then c.warmLeft else c.warmLeft - 1 }
  else { c with ncross := 65536 + c.ncross }

/-- A half-cycle ends where sample `v` of V0 has crossed zero, or after 80 samples (R413); the sample itself is of the half-cycle that
begins. The samples before the die's first crossing are of none (`nhalf` is 0). -/
def cupHalf (c : Cup) (v : Int) : Cup :=
  if c.nhalf = 0 ∧ cupTimed c = false then
    if (c.measured || c.nsec != 0) && crossAny c.v0 v then
      { c with nhalf := 1, peakTot := 0, chans := c.chans.map fun x => { x with peak := 0 } }
    else c
  else if (if cupTimed c then decide (80 ≤ c.nhalf) else crossAny c.v0 v) then
    { c with nhalf := 1, ended := some ((c.chans.toList.map (·.peak)) ++ [c.peakTot]), halves := c.halves + 1, peakTot := 0,
             chans := c.chans.map fun x => { x with peak := 0 },
             warmLeft := if cupTimed c then c.warmLeft - 1 else c.warmLeft }
  else { c with nhalf := c.nhalf + 1 }

/-- The end of a second (R413, R418): readings and OPSEC. -/
def cupSecond (c : Cup) : Cup :=
  if c.nsec + 1 < 8000 then { c with nsec := c.nsec + 1 }
  else { c with nsec := 0, measured := true, opsec := (c.opsec + 1) % 2 ^ 32, chans := c.chans.map chanSecond, total := c.sumTot / 8000000,
                sumTot := 0 }

/-- A sample of all channels (R411, R412). -/
def cupSample (c : Cup) (x0 x1 x2 x3 : CupSample) : Cup :=
  let xs : Vector CupSample 4 := #v[x0, x1, x2, x3]
  let p : Fin 4 → Int := fun k => if aboveCreep c k then samplePower c k.val xs[k] else 0
  let tot := (List.finRange 4).foldl (fun a k => if cupIncluded c k.val then a + p k else a) 0
  let raw := (List.finRange 4).foldl (fun a k => if cupIncluded c k.val then a + samplePower c k.val xs[k] else a) 0
  let e1 := (List.finRange 4).foldl (fun e k => energyPower e ⟨k.val, by omega⟩ ⟨5 + k.val, by omega⟩ (p k)) c.energy
  let e2 := energyPower e1 4 9 tot
  let v := gained x0.v ((cupParam c 0x10).getD 0)
  let h := cupHalf (cupCross c v) v
  let c1 : Cup := { h with energy := e2, chans := Vector.ofFn fun k => chanAdd h k xs[k], sumTot := h.sumTot + raw,
                           peakTot := max h.peakTot (raw / 1000).toNat, v0 := v }
  cupSecond c1

/-- The peaks of an ended half-cycle are published and streamed (R413, R423, R425). -/
def halfCyclePeak (s : State) : State :=
  match s.cup.ended with
  | none => s
  | some l =>
    if s.cup.ready then
      let s1 := s.setCup { s.cup with ended := none }
      let s2 := snapshot s1 0 ((rangeFrom 0 4).map (fun k => (0x20C + 16 * k, leBytes 4 (l.getD k 0))) ++
        [(0x244, leBytes 4 (l.getD 4 0)), (0x24C, leBytes 4 s.cup.halves)])
      if s.boot.power != .off then
        let s3 := (rangeFrom 0 5).foldl (fun t k => t.setReg 0x382 (0x100 + 4 * k) (w32 (l.getD k 0))) s2
        let s4 := (s3.setReg 0x382 0x114 (w32 s.cup.halves)).irqBit 0x382 0
        match l[s.regF 0x350 0x138 4 3]? with
        | some x => { s4 with pwr := { s4.pwr with peak := some x } }
        | none => s4
      else s2
    else s

/-! ### Requests (R421, R424) -/

/-- The master command ends (R426). -/
def cmdEnd (s : State) (result : Nat) : State :=
  ((s.setCup { s.cup with master := none }).setReg 0x380 0x114 (w32 result)).irqBit 0x380 0

/-- The master slot holds a request of a kind. -/
def cupHas (s : State) (kind : Nat) : Option (List Nat) :=
  match s.cup.master with
  | some w => if s.cup.ready && w.getD 0 0 == kind then some w else none
  | none => none

/-- A kind and its arguments are accepted (R424). -/
def cmdOk (w : List Nat) : Bool :=
  match w.getD 0 0 with
  | 1 => true
  | 2 => true
  | 3 => true
  | 4 => decide (10 ≤ w.getD 1 0 % 65536 ∧ w.getD 1 0 % 65536 ≤ 1000)
  | _ => false

/-- A write to CUPW_CMDGO (R424, R426, R427). -/
def cmdGo (s : State) (v : Word32) : State × Option BusCause :=
  if !(regBit v 0) then (s, none)
  else if s.cup.master.isSome then (s, some .binding)
  else if !s.cup.ready then (cmdEnd s 3, none)
  else
    let w := (rangeFrom 0 4).map fun i => (s.reg 0x380 (0x100 + 4 * i)).toNat
    if cmdOk w then ((s.setCup { s.cup with master := some w }).setReg 0x380 0x114 (mask1 31), none)
    else (cmdEnd (cupRefuse s (w.getD 0 0 % 256)) 2, none)

/-- ALIGN (R424): a snapshot with a tag and SNAP. -/
def cupAlign (s : State) (tag : Nat) : State := cupMsg (snapshot s tag []) 1 tag

/-- A 256-bit number whose value the manual leaves open. -/
def fresh256 (s : State) : Nat × State :=
  let r := s.freshBytes 4
  (ofLE r.1, r.2)

/-- The 192 bytes of a signed record (R421). -/
def signedBytes (c : Cup) (stat seq : Nat) (nonce : List Byte) : List Byte :=
  leBytes 4 0x43555052 ++ leBytes 8 c.serial.toNat ++ leBytes 4 c.fwver.toNat ++ leBytes 4 c.fwcrc.toNat ++ leBytes 4 c.opsec ++
  leBytes 4 seq ++ leBytes 4 stat ++ nonce ++ List.replicate 4 0 ++ energyBytes c.energy ++ List.replicate 64 0

/-- SIGN (R421): the record and its signature, under a per-message secret that FIPS 186-5 leaves to the signer. -/
def cupSign (s : State) (w : List Nat) : State :=
  let k := fresh256 s
  let rec0 := signedBytes s.cup s.cwStat (seqNext s.cwSeq) (leBytes 4 (w.getD 1 0) ++ leBytes 4 (w.getD 2 0) ++ leBytes 4 (w.getD 3 0))
  let sig := ecSign p256 s.cup.key (1 + k.1 % (p256.n - 1)) (ofBE (sha256 rec0))
  let s1 := snapshot k.2 0 [(0x2000, rec0), (0x20C0, beBytes 32 sig.1 ++ beBytes 32 sig.2)]
  let f := s1.fresh
  cupMsg f.2 2 (f.1.toNat % 2 ^ 32)

/-! ### Supply, self-check, temperature (R409, R415, R420) -/

/-- ABSENT changed (R426). -/
def absChange (s : State) : State := s.irqBit 0x380 1

/-- The die loses its supply: the window reads 0, a request in the master slot is lost (R423, R427). -/
def cupDown (s : State) : State :=
  let busy := s.cup.master.isSome
  let c := s.cup
  let c1 : Cup := { calen := c.calen, calenLogged := c.calenLogged, sealed := c.sealed, serial := c.serial, key := c.key, fwver := c.fwver,
                    fwcrc := c.fwcrc, params := c.params, log := c.log, save := c.save, evq := c.evq, evlost := c.evlost, ready := false,
                    holdupOk := c.holdupOk, tempOk := c.tempOk }
  let s1 := (s.clearBytes cupBase 0x10000).setCup c1
  absChange (if busy then cmdEnd s1 3 else s1)

/-- A power-fail write (R420). -/
def powerFail (c : Cup) (done : Bool) : Cup :=
  if done then { c with save := { energy := c.energy, opsec := c.opsec, fail := true }, holdupOk := true } else { c with save := { c.save with fail := false } }

/-- CUP_VDD falls below 2.95 V (R415, R420): `done`, the hold-up store completes the write; `lost`, the die loses its supply. -/
def brownOut (s : State) (done lost : Bool) : State :=
  if s.cup.ready then
    let s1 := s.setCup (powerFail s.cup done)
    if lost then cupDown s1 else statUpdate (s1.setCup { s1.cup with warm := true, warmLeft := 60 })
  else s

/-- The die comes up with CUP_CAL_EN at a level (R409, R417, R419, R420). -/
def cupPowerUp (s : State) (calen : Bool) : State :=
  if s.cup.ready then s
  else
    let c := s.cup
    let c1 : Cup := { c with ready := true, energy := c.save.energy, opsec := c.save.opsec, savedAt := c.save.opsec, calen := calen,
                             holdupOk := c.holdupOk && c.save.fail }
    let s1 := absChange (s.setCup c1)
    let f := s1.fresh
    let s2 := if c.save.fail then s1 else if logFree c1 then logAdd f.2 6 0 c.save.opsec (f.1.toNat % 2 ^ 32) else s1
    if calen == c.calenLogged then s2
    else
      let s3 := s2.setCup { s2.cup with calenLogged := calen }
      if logFree s3.cup then logAdd s3 (if calen then 3 else 4) 0 (b2n (!calen)) (b2n calen) else s3

/-- CUP_CAL_EN changes (R419, R427). -/
def calenChange (s : State) (level : Bool) : State :=
  if s.cup.calen == level then s
  else if s.cup.ready then
    let s1 := s.setCup { s.cup with calen := level, calenLogged := level }
    if logFree s1.cup then logAdd s1 (if level then 3 else 4) 0 (b2n (!level)) (b2n level) else statUpdate s1
  else s.setCup { s.cup with calen := level }

/-! ### The calibration port (R418) -/

/-- A response: the command, a status byte, data. -/
def calAnswer (s : State) (cmd status : Nat) (data : List Byte) : State :=
  let body := leBytes 1 cmd ++ leBytes 1 (1 + data.length) ++ leBytes 1 status ++ data
  { s with out := .meter (0x7E :: (body ++ beBytes 4 (crcInv body))) :: s.out }
/-- The port answers. -/
def calOpen (s : State) : Bool := s.cup.ready && s.cup.calen

def calIdent (s : State) : State :=
  calAnswer s 1 0 (beBytes 2 s.cup.fwver.toNat ++ beBytes 4 s.cup.fwcrc.toNat ++ beBytes 8 s.cup.serial.toNat ++ beBytes 1 (b2n s.cup.sealed))
def calRead (s : State) (id : Nat) : State :=
  match cupParam s.cup id with
  | some v => calAnswer s 2 0 (beBytes 4 v)
  | none => calAnswer s 2 1 []
/-- WRPARAM is not allowed: no such parameter, a MODE that does not exist, or MODE once sealed. -/
def wrRefused (c : Cup) (id v : Nat) : Bool := (cupParam c id).isNone || (id == 0 && (c.sealed || decide (3 < v)))
def calWrite (s : State) (id v : Nat) : State :=
  if wrRefused s.cup id v then calAnswer s 3 1 []
  else if !(logFree s.cup) then calAnswer s 3 2 []
  else
    let old := (cupParam s.cup id).getD 0
    let d := if 0x10 ≤ id ∧ id < 0x18 then 0x40000000 else if 0x1C ≤ id then 250 else 0
    let s1 := logAdd s 1 id old v
    calAnswer (statUpdate (s1.setCup { s1.cup with params := sput s1.cup.params id v d })) 3 0 []
def calSeal (s : State) : State :=
  if cupMode s.cup = 0 ∨ s.cup.sealed = true then calAnswer s 4 1 []
  else if !(logFree s.cup) then calAnswer s 4 2 []
  else
    let s1 := logAdd s 2 0 0 1
    calAnswer (statUpdate (s1.setCup { s1.cup with sealed := true })) 4 0 []
def calLog (s : State) (n : Nat) : State :=
  match s.cup.log[n]? with
  | some e => calAnswer s 5 0 (logBytes e)
  | none => calAnswer s 5 1 []

/-! ### The CUPW pages and the window on the bus (R423, R426, R427) -/

def cupwWrite (s : State) (n off : Nat) (v : Word32) : Option (State × Option BusCause) :=
  if n = 0 ∧ off = 0x110 then some (cmdGo s v)
  else if n = 1 ∧ off = 0x110 then some (if regBit v 0 then s.setCup { s.cup with evq := s.cup.evq.drop 1 } else s, none)
  else none

def cupwRead (s : State) (n off : Nat) : Option Word32 :=
  if off = oStat then some (w32 (b2n (!s.cup.ready)))
  else if n = 1 then
    if 0x100 ≤ off ∧ off < 0x110 then some (w32 ((s.cup.evq.headD []).getD ((off - 0x100) / 4) 0))
    else if off = 0x114 then some (w32 (s.cup.evq.length * 65536 + s.cup.evlost)) else none
  else none

/-- A read of the window: 4, 8 or 64 bytes, aligned; an upset word is corrected and counted, or poisons the response (R423, R426). -/
def windowRead (s : State) (a n : Nat) (u : Upset) : State × RdAns :=
  if (n = 4 ∨ n = 8 ∨ n = 64) ∧ a % n = 0 then
    let d := s.bytes a n
    if 2 ≤ u.bits then
      let s1 := if s.regB 0x383 0x100 31 then s else s.setReg 0x383 0x100 (w32 (2 ^ 31 + (a - cupBase) / 8 * 8))
      (s1.irqBit 0x383 0, .ok (d, true))
    else if u.bits = 1 then (s.correctable 0x383, .ok (d, false))
    else (s, .ok (d, false))
  else (s, .error .width)

end Sys2Proof.Machine
end

