-- ==== Sys2Proof/Machine/Binding.lean ====
section
/-! DEFINITION. Drive ports and comparator bindings of PWR, and the device's fence: what the power sets, the fault manager and the
pair-link supervision share (09_drives_power_sets.md R283, R289, R295, R296; 10_transport_pair.md R312, R315). -/
namespace Sys2Proof.Machine

/-! ### Ports, members, set words -/

def State.port (s : State) (p : Nat) : Port := sget s.ports p {}
def State.setPort (s : State) (p : Nat) (x : Port) : State := { s with ports := sput s.ports p x {} }
/-- Page of drive port `p`. -/
def portPage (p : Nat) : Nat := 0x200 + p
/-- Page and block offset of port group `g` (R294). -/
def grpPage (g : Nat) : Nat := 0x2F0 + g / 2
def grpOff (g : Nat) : Nat := 0x100 + g % 2 * 0x700
/-- This device is the power master (R283). -/
def State.pmaster (s : State) : Bool := s.regB 0x350 oStat 31
/-- PSTATE of the pair supervision (R315). -/
def State.pstate (s : State) : Nat := s.regF 0x324 0x104 0 3
/-- QST_STAT.FENCE. -/
def State.fence (s : State) : Bool := s.regB 0x120 oStat 2

/-- Port word of the port map (R295). -/
def State.pmap (s : State) (p : Nat) : Word32 := s.reg 0x352 (0x100 + 4 * p)
def State.inSet (s : State) (p : Nat) : Bool := regBit (s.pmap p) 31
def State.setNo (s : State) (p : Nat) : Nat := regFld (s.pmap p) 24 6
def State.modelNo (s : State) (p : Nat) : Nat := regFld (s.pmap p) 16 4
def State.excl (s : State) (p : Nat) : Nat := regFld (s.pmap p) 8 3
def State.mstate (s : State) (p : Nat) : Nat := regFld (s.pmap p) 4 4
def State.setExcl (s : State) (p v : Nat) : State := s.setRegF 0x352 (0x100 + 4 * p) 8 3 v
def State.setMstate (s : State) (p v : Nat) : State := s.setRegF 0x352 (0x100 + 4 * p) 4 4 v
def allPorts : List Nat := rangeFrom 0 240

/-! ### Bindings (R289, R295) -/

def State.bindWord (s : State) (c : Nat) : Word32 := s.reg 0x353 (0x100 + 4 * c)
def State.setBind (s : State) (c : Nat) (v : Nat) : State := s.setReg 0x353 (0x100 + 4 * c) (w32 v)
/-- The comparator, counted from BCMP32, that a port is bound to. -/
def boundTo (s : State) (p : Nat) : Option Nat := firstNat (fun c => s.bindWord c == w32 (2 ^ 31 + p)) (rangeFrom 0 32)
/-- Arms or disarms BCMP32 + c. -/
def armBcmp (s : State) (c : Nat) (on : Bool) : State := s.setRegF (bcmpPage (32 + c)) (bcmpOff (32 + c) + 8) 0 1 (b2n on)

/-- The drive of a port has been started, and no stop of it has completed (R287). -/
def State.started (s : State) (p : Nat) : Bool := decide (4 ≤ s.mstate p)

/-- A port's binding, its place in the queue, its waiting START and, unless its drive has been started, its inrush contribution are removed
(R287-R289, R296). -/
def unbind (s : State) (p : Nat) : State :=
  let s1 := match boundTo s p with
    | some c => (armBcmp s c false).setBind c 0
    | none => s
  { (if s1.started p then s1 else s1.setPort p { s1.port p with load := none }) with
    pwr := { s1.pwr with bound := s1.pwr.bound.filter (· ≠ p), queue := s1.pwr.queue.filter (· ≠ p),
                         ops := s1.pwr.ops.filter fun o => !(o.1 == p && (o.2 == .start || o.2 == .tur)) } }

/-- Every bound comparator that has not fired is disarmed. -/
def disarmAll (s : State) : List Nat → State
  | [] => s
  | p :: t => disarmAll ((unbind s p).setMstate p 2) t
/-- Disarmed members return to the head of the queue in their former order (R291, R296). -/
def requeueBound (s : State) : State :=
  let l := s.pwr.bound
  let s1 := disarmAll s l
  { s1 with pwr := { s1.pwr with queue := l ++ s1.pwr.queue } }

/-! ### The power master and the device's fence (R283, R312, R315) -/

def State.setBay (s : State) (p : Nat) (on : Bool) : State := s.setRegF (portPage p) 0x110 8 1 (b2n on)
/-- This device's power to a bay goes off: a member that it has not started is OFF (R295). -/
def bayDark (s : State) (p : Nat) : State :=
  let s1 := if s.regB (portPage p) 0x110 8 then s.setBay p false else s
  if s.mstate p = 0 ∨ s.started p = true then s1 else s1.setMstate p 0
/-- PMASTER clears (R283, R296): bound comparators are disarmed at once, every BAY_PWR_EN goes to 0, and the members are queued by the
new master alone; starts and stops that have not been sent are not sent. -/
def masterLost (s : State) : State :=
  if s.pmaster then
    let s1 := requeueBound (s.setRegF 0x350 oStat 31 1 0)
    allPorts.foldl bayDark { s1 with pwr := { s1.pwr with
      queue := [], ops := s1.pwr.ops.filter fun o => !(o.2 == .start || o.2 == .stop) } }
  else s
/-- HOME of every enabled queue becomes `v` (R312, R315): bit 1 of the first byte of each context whose EN, bit 0, is 1. -/
def homeAll (s : State) (v : Bool) : State :=
  { s with mem := s.mem.map fun c =>
      if 0x200000000 ≤ c.1 ∧ c.1 < 0x201000000 ∧ c.1 % 64 = 0 ∧ c.2.getLsbD 0 = true then (c.1, if v then c.2 ||| 2 else c.2 &&& 0xFD) else c }
/-- The device is fenced (R315, R405): FENCE, PSTATE STANDBY, PMASTER 0, HOME 0 on every enabled queue. -/
def fenceDevice (s : State) : State :=
  homeAll (masterLost ((s.setRegF 0x120 oStat 2 1 1).setRegF 0x324 0x104 0 3 4)) false

end Sys2Proof.Machine
end

