-- ==== Sys2Proof/Machine/FaultLog.lean ====
section
/-! DEFINITION. The fault manager's records, declarations and self-stop test (14_events_faults.md R402-R406). -/
namespace Sys2Proof.Machine

/-- Writes a record at HEAD of the fault log (R406). -/
def fmRecord (s : State) (kind action page count reason r3 : Nat) : State :=
  let rec0 : FmRec :=
    { r0 := w32 (s.belf.cycle.toNat % 2 ^ 32), r1 := w32 (kind * 2 ^ 28 + action * 2 ^ 24 + page),
      r2 := w32 (count * 2 ^ 16 + reason), r3 := w32 r3 }
  let s1 : State := { s with fm := { s.fm with
    recs := sput s.fm.recs s.fm.head rec0 {},
    head := (s.fm.head + 1) % 64,
    written := satAdd s.fm.written 1 0xFFFF } }
  let s2 := if s.fm.head = 63 then s1.irqBit 0x00E 2 else s1
  s2.irqBit 0x00E (if kind = 3 then 1 else 0)

/-- What a declaration does to the page's counter: LASTING increments, the buckets are emptied, the signal is served (R402). -/
def errDeclare (s : State) (page : Nat) : State :=
  s.setErr page { s.err page with buckets := [0, 0, 0, 0, 0, 0, 0, 0], lasting := satAdd (s.err page).lasting 1 255, signal := false }

/-- A declaration's log record and counter (R402, R403), before the page's action. Kind 1 is LASTING, kind 2 DIRECT. -/
def declareLog (s : State) (page kind action reason : Nat) : State :=
  fmRecord (errDeclare s page) kind action page (errSum (s.err page)) reason 0

/-- Core or pair `n` cannot run: held, offline, or its domain off (R405). -/
def coreStopped (s : State) (n : Fin 8) : Bool :=
  s.held n || ((s.pair (pairOf n)).st == .offline || !(s.dom (pdTur n.val)))

/-- The device has no way to serve (R405). -/
def noWayToServe (s : State) : Bool :=
  (rangeFrom 0 8).all (fun n => sget s.spFence n false || !(s.dom (pdSps n))) ||
  ((rangeFrom 0 8).all (fun n => s.regF (0x300 + n) oCtl 0 1 = 0 || s.regF (0x300 + n) oCtl 1 2 = 0) ||
  (List.finRange 8).all (coreStopped s))

/-- The self-stop test at a declaration, once its action has been taken (R405): the supervision fences the device, and heartbeats and
the lease's renewal stop. The declaration's record, the last written, then shows ACTION 7 (log entry 12), and FAULT_N is low (R467). -/
def selfStopTest (s : State) : State :=
  if s.fm.released && (noWayToServe s && !s.fm.selfStop) then
    let last := (s.fm.head + 63) % 64
    let r := sget s.fm.recs last {}
    let s1 := fenceDevice s
    { s1 with boot := { s1.boot with faultLow := true }, fm := { s1.fm with selfStop := true, recs := sput s1.fm.recs last { r with r1 := regSet r.r1 24 4 7 } {} } }
  else s

end Sys2Proof.Machine
end

