-- ==== Sys2Proof/Machine/Events.lean ====
section
/-! DEFINITION. Event routes, software events, mailboxes, lock registers and the fault windows' shifts (14_events_faults.md). -/
namespace Sys2Proof.Machine

/-! ### Routes and software events (R385-R391) -/

/-- A write of a route word; the caller has checked its access code (R386). -/
def routeWrite (s : State) (e : Nat) (v : Word32) : State × Option BusCause :=
  let w := v &&& w32 0xE0FF0FFF
  if regBit w 31 && (regFld w 16 8 != 0 && (regFld w 8 4 == 0 || decide (regFld w 0 8 < 0x20))) then (s, some .access)
  else (evtEdge s (s.setReg (0x41 + e / 256) (0x100 + (e % 256) * 4) w) e, none)

/-- Edges of the 32 sources from `e` on. -/
def edges32 (old s : State) (e : Nat) : Nat → State
  | 0 => s
  | n + 1 => edges32 old (evtEdge old s (e + n)) e n

/-- A write to EVT_SWSET register `n` (R385). -/
def swSet (s : State) (n : Nat) (v : Word32) : State :=
  edges32 s (s.setReg 0x40 (0x144 + 4 * n) (s.reg 0x40 (0x144 + 4 * n) ||| v)) (384 + 32 * n) 32

/-- The queue engine latches completion line `l` (R385). -/
def lineSet (s : State) (l : Nat) : State :=
  evtEdge s (s.setReg 0x40 0x140 (s.reg 0x40 0x140 ||| mask1 l)) (352 + l)

/-- A read of page 0x040. -/
def evtRead (s : State) (off : Nat) : Word32 :=
  if 0x100 ≤ off ∧ off < 0x140 then
    w32 ((rangeFrom 0 32).foldl (fun a b => a + b2n (s.level ((off - 0x100) / 4 * 32 + b)) * 2 ^ b) 0)
  else s.reg 0x40 off

/-- A route word read with `bits` bits in error (R391): one is corrected and counted; with more the route acts as EN = 0 until the word
is rewritten, and ROUTEUE is set. The model clears EN in the word, which a read of it then shows (DESIGN CHOICE, log entry 76). -/
def routeUpset (s : State) (e bits : Nat) : State :=
  match bits with
  | 0 => s
  | 1 => s.correctable (0x41 + e / 256)
  | _ => (evtEdge s (s.setRegF (0x41 + e / 256) (0x100 + (e % 256) * 4) 31 1 0) e).irqBit 0x40 0

/-! ### Mailboxes (R392-R398) -/

/-- Binding word of a channel. -/
def State.binding (s : State) (c : Nat) : Word32 := s.reg 0x60 (0x100 + 4 * c)
/-- Side of a channel that an identity reaches: false A, true B; none for any other identity or an unbound channel (R393). -/
def State.mbSide (s : State) (c : Nat) (id : Nat) : Option Bool :=
  if !(regBit (s.binding c) 31) then none
  else if regFld (s.binding c) 0 5 = id then some false
  else if regFld (s.binding c) 8 5 = id then some true
  else none

def MbChan.side (x : MbChan) (b : Bool) : MbSide := if b then x.b else x.a
def MbChan.setSide (x : MbChan) (b : Bool) (m : MbSide) : MbChan := if b then { x with b := m } else { x with a := m }

/-- Page of a channel, and its place on the page. -/
def mbPage (c : Nat) : Nat := 0x61 + c / 8
/-- Replaces a channel; both endpoint sources follow (R398). -/
def mbPut (s : State) (c : Nat) (x : MbChan) : State :=
  let s1 := s.setChan c x
  evtEdge s (evtEdge s s1 (32 + 2 * c)) (33 + 2 * c)

/-- A push on a side's outbound queue (R394). -/
def mbPush (s : State) (c : Nat) (b : Bool) (v : Word32) : State :=
  let x := s.chan c
  let m := x.side b
  if m.queue.length ≥ 8 then mbPut s c (x.setSide b { m with flags := m.flags ||| 4 })
  else mbPut s c (x.setSide b { m with queue := m.queue ++ [(cell (2 ^ 32 * v.toNat + m.staged.toNat), false)] })

/-- A queued message read with `bits` bits in error: one is corrected and counted, more leave it uncorrectable (R393, R398). -/
def messageUpset (s : State) (c : Nat) (b : Bool) (place bits : Nat) : State :=
  let x := s.chan c
  let m := x.side b
  match m.queue[place]?, bits with
  | none, _ => s
  | some _, 0 => s
  | some _, 1 => s.correctable (mbPage c)
  | some q, _ => s.setChan c (x.setSide b { m with queue := m.queue.set place (q.1, true) })

/-- A read of MB_RXLO or MB_RXHI finds the head message uncorrectable: RXUE of the side and of the page (R393, R398). -/
def mbHeadUE (s : State) (c : Nat) (b : Bool) (sub : Nat) : State :=
  let x := s.chan c
  if (sub = 0x08 ∨ sub = 0x0C) ∧ (x.side (!b)).queue.head?.map Prod.snd = some true then
    (mbPut s c (x.setSide b { x.side b with flags := (x.side b).flags ||| 8 })).irqBit (mbPage c) (8 + c % 8)
  else s

/-- A POP of a side's inbound head (R394). -/
def mbPop (s : State) (c : Nat) (b : Bool) : State :=
  let x := s.chan c
  let o := x.side (!b)
  match o.queue with
  | [] => mbPut s c (x.setSide b { x.side b with flags := (x.side b).flags ||| 2 })
  | _ :: t => mbPut s c (x.setSide (!b) { o with queue := t })

/-- A ring: bits [30:0] of the other side's doorbell (R395). -/
def mbRing (s : State) (c : Nat) (b : Bool) (v : Word32) : State :=
  let x := s.chan c
  let o := x.side (!b)
  mbPut s c (x.setSide (!b) { o with db := o.db ||| (v &&& w32 0x7FFFFFFF) })

/-- A write to the block of channel `c` by the identity of side `b`; `sub` is the offset in the block (R393). -/
def mbWrite (s : State) (c : Nat) (b : Bool) (sub : Nat) (v : Word32) : State :=
  let x := s.chan c
  let m := x.side b
  match sub with
  | 0x00 => mbPut s c (x.setSide b { m with staged := v })
  | 0x04 => mbPush s c b v
  | 0x14 =>
    let s1 := mbPut s c (x.setSide b { m with wait := regBit v 1 })
    if regBit v 0 then mbPop s1 c b else s1
  | 0x18 => mbPut s c (x.setSide b { m with flags := m.flags &&& ~~~v })
  | 0x20 => mbRing s c b v
  | 0x24 => mbPut s c (x.setSide b { m with db := m.db &&& ~~~v })
  | 0x28 => mbPut s c (x.setSide b { m with dbmask := v })
  | 0x2C => mbPut s c (x.setSide b { m with even := v &&& 3 })
  | _ => s

/-- A read of the block of a channel (R393, R396). -/
def mbRead (s : State) (c : Nat) (b : Bool) (sub : Nat) : Word32 :=
  let x := s.chan c
  let m := x.side b
  let o := x.side (!b)
  let head : Nat := match o.queue with
    | [] => 0
    | (v, bad) :: _ => if bad then 0 else v.toNat
  match sub with
  | 0x08 => w32 head
  | 0x0C => w32 (head / 2 ^ 32)
  | 0x10 => w32 (regFld (s.binding c) (if b then 0 else 8) 5 * 2 ^ 24 + b2n b * 2 ^ 16 + o.queue.length * 256 +
      m.queue.length * 16 + b2n (mbCross x) * 8 + b2n o.wait * 4)
  | 0x14 => w32 (b2n m.wait * 2)
  | 0x18 => m.flags
  | 0x1C => w32 m.lost
  | 0x24 => m.db
  | 0x28 => m.dbmask
  | 0x2C => m.even
  | _ => 0

/-- A write of a binding word, with the page unlocked and from the Custody world (R392). -/
def bindingWrite (s : State) (c : Nat) (v : Word32) : State × Option BusCause :=
  let w := v &&& w32 0x80001F1F
  let old := s.binding c
  if regBit w 31 && !(decide (regFld w 0 5 < regFld w 8 5 ∧ regFld w 8 5 ≤ 25)) then (s, some .access)
  else if regBit old 31 && v != 0 then (s, some .binding)
  else if regBit old 31 || regBit w 31 then (mbPut (s.setReg 0x60 (0x100 + 4 * c) w) c {}, none)
  else (s.setReg 0x60 (0x100 + 4 * c) w, none)

/-- A side after its own reset: everything but MB_LOST returns to 0 (R397). -/
def mbSelfReset (m : MbSide) : MbSide := { lost := m.lost }
/-- The other side after a reset: its messages are lost, WAIT clears, ABORT and doorbell bit 31 are set (R397). -/
def mbPeerReset (m : MbSide) : MbSide :=
  { m with queue := [], wait := false, lost := satAdd m.lost m.queue.length 0xFFFF, flags := m.flags ||| 1, db := m.db ||| mask1 31 }
/-- A side of a channel both of whose sides are reset in one cycle (R397). -/
def mbBothReset (m : MbSide) : MbSide := { lost := satAdd m.lost m.queue.length 0xFFFF }

/-- SIDE_RESET of the identities `ids` on channel `c` (R397). -/
def sideResetOne (s : State) (ids : List Nat) (c : Nat) : State :=
  let x := s.chan c
  let ra := regBit (s.binding c) 31 && ids.contains (regFld (s.binding c) 0 5)
  let rb := regBit (s.binding c) 31 && ids.contains (regFld (s.binding c) 8 5)
  if ra && rb then mbPut s c { a := mbBothReset x.a, b := mbBothReset x.b }
  else if ra then (mbPut s c { a := mbSelfReset x.a, b := mbPeerReset x.b }).irqBit (mbPage c) (c % 8)
  else if rb then (mbPut s c { a := mbPeerReset x.a, b := mbSelfReset x.b }).irqBit (mbPage c) (c % 8)
  else s

/-- SIDE_RESET over the first `n` channels. -/
def sideResetChans (s : State) (ids : List Nat) : Nat → State
  | 0 => s
  | n + 1 => sideResetOne (sideResetChans s ids n) ids n

/-- Locks held by reset identities are freed (R400). -/
def freeLocks (s : State) (ids : List Nat) : List Nat → State
  | [] => s
  | n :: t =>
    match sget s.lck n none with
    | some o => if ids.contains o then freeLocks ({ s with lck := sput s.lck n none none }.irqBit 0x1C0 1) ids t else freeLocks s ids t
    | none => freeLocks s ids t

/-- SIDE_RESET: the channels bound to reset identities are emptied, the other sides aborted (R397), and the locks of reset
turret identities are freed (R400). -/
def sideReset (s : State) (ids : List Nat) : State :=
  freeLocks (sideResetChans s ids 64) (ids.filter (· < 8)) (rangeFrom 0 16)

/-! ### Lock registers (R399, R400) -/

/-- A read of lock `n` by identity `id` (R399). -/
def lockRead (s : State) (id n : Nat) : State × Word32 :=
  match sget s.lck n none with
  | none => ({ s with lck := sput s.lck n (some id) none }, w32 (0x80000000 + id))
  | some o => (s, w32 (0x40000000 + o))

/-- A write to lock `n` by identity `id` (R400). -/
def lockWrite (s : State) (id n : Nat) (v : Word32) : State × Option BusCause :=
  if v ≠ 0 then (s, some .access)
  else if sget s.lck n none = some id then ({ s with lck := sput s.lck n none none }, none)
  else if id = 23 then (({ s with lck := sput s.lck n none none }).irqBit 0x1C0 0, none)
  else (s, some .access)

/-- LCK_STATE (R399). -/
def lckState (s : State) : Word32 :=
  w32 ((rangeFrom 0 16).foldl (fun a n => a + b2n (sget s.lck n none).isSome * 2 ^ n) 0)

/-! ### Fault windows (R401) -/

/-- ERRCNT of a page (R44, R401). -/
def errcntRead (s : State) (page : Nat) : Word32 := w32 ((s.err page).lasting * 65536 + errSum (s.err page))

/-- Drops the oldest bucket and starts a new newest one. -/
def shiftBuckets (l : List Nat) : List Nat := 0 :: l.take 7

/-- After B ticks the page's buckets shift; the next shift follows the WINDOW now in ERRCFG (R401). -/
def bucketShift (s : State) (page : Nat) : State :=
  let x := s.err page
  if (pageBlock page).isSome && decide (x.shifted + x.period ≤ s.fwTicks) then
    s.setErr page { x with buckets := shiftBuckets x.buckets, shifted := x.shifted + x.period,
                           period := ceilDiv (s.errWindow page) 8 }
  else s
def execBucketShift (page : BitVec 12) (s : State) : Res := ok (bucketShift s page.toNat)

end Sys2Proof.Machine
end

