-- ==== Sys2Proof/Machine/Tcm.lean ====
section
/-! DEFINITION. The turrets' TCMs and the turret-local view (01_architecture.md R38-R40, 04_dravaesor_isa.md R143). -/
namespace Sys2Proof.Machine

/-- First address of turret `n`'s block of the turret-TCM range (R40): the keys under which its TCMs are kept. -/
def tcmBase (n : Nat) : Nat := 0x80000000 + 0x100000 * n
/-- Memory key of boot ROM byte 0. -/
abbrev romKey : Nat := 2 ^ 48

/-- What a turret-local address reaches (R38). -/
inductive Near where
  | rom (off : Nat)
  | itcm (off : Nat)
  | dtcm (off : Nat)
  | bad
deriving DecidableEq, Repr

/-- KEEP_CTL.REMAP (R38, R39). -/
def State.remap (s : State) : Bool := s.regB 0x000 oCtl 0

/-- The turret-local view (R38). -/
def nearPlace (remap : Bool) (a : Nat) : Near :=
  if a < 0x10000 then (if remap then .itcm a else .rom a)
  else if a < 0x40000 then (if remap then .itcm a else .bad)
  else if a < 0x80000 then .dtcm (a - 0x40000)
  else if 0x100000 ≤ a ∧ a < 0x110000 then (if remap then .rom (a - 0x100000) else .itcm (a - 0x100000))
  else if 0x110000 ≤ a ∧ a < 0x140000 then (if remap then .bad else .itcm (a - 0x100000))
  else .bad

/-- TUR_TCMUE and TCM_UE for an uncorrectable word (R143); `off` counts from the block of turret `n`. -/
def tcmUE (s : State) (n off : Nat) : State :=
  let s1 := if s.regB (0x1A0 + n) 0x100 31 then s
    else s.setReg (0x1A0 + n) 0x100 (w32 (2 ^ 31 + off / 8 * 8 % 2 ^ 19))
  s1.irqBit (0x1A0 + n) 1

/-- A read of `k` bytes within one word of turret `n`'s TCM at block offset `off`, under SECDED (R143). -/
def tcmWordRead (s : State) (n off k bits : Nat) : State × List Byte × Bool :=
  let a := tcmBase n + off
  let e := s.wordErrAt (a / 8) + bits
  let s0 := s.setWordErr (a / 8) e
  if 2 ≤ e then (tcmUE s0 n off, s.bytes a k, true)
  else if e = 1 then (((s0.setWordErr (a / 8) 0).correctable (0x1A0 + n)).irqBit (0x1A0 + n) 0, s.bytes a k, false)
  else (s0, s.bytes a k, false)

/-- A write within one word of a TCM: a full word clears an error, a partial one reads and merges. -/
def tcmWordWrite (s : State) (n off : Nat) (d : List Byte) : State :=
  if d.length = 8 then (s.setWordErr ((tcmBase n + off) / 8) 0).setBytes (tcmBase n + off) d
  else (tcmWordRead s n off d.length 0).1.setBytes (tcmBase n + off) d

/-- Reads the parts of a TCM range. -/
def tcmReadParts (s : State) (n bits : Nat) : List (Nat × Nat) → State × List Byte × Bool
  | [] => (s, [], false)
  | (o, k) :: t =>
    let r := tcmWordRead s n o k bits
    let r2 := tcmReadParts r.1 n 0 t
    (r2.1, r.2.1 ++ r2.2.1, r.2.2 || r2.2.2)
/-- A read of a TCM range. -/
def tcmRead (s : State) (n off k bits : Nat) : State × List Byte × Bool := tcmReadParts s n bits (parts 8 k off k)
/-- Writes the parts of a TCM range. -/
def tcmWriteParts (s : State) (n : Nat) : List (Nat × Nat) → List Byte → State
  | [], _ => s
  | (o, k) :: t, d => tcmWriteParts (tcmWordWrite s n o (d.take k)) n t (d.drop k)
/-- A write of a TCM range. -/
def tcmWrite (s : State) (n off : Nat) (d : List Byte) : State := tcmWriteParts s n (parts 8 d.length off d.length) d

/-- Offset of DTCM in a turret's block (R40). -/
abbrev dtcmOff : Nat := 0x40000

end Sys2Proof.Machine
end

