-- ==== Sys2Proof/Machine/CoreCtl.lean ====
section
/-! DEFINITION. Core warm reset, hold and release of turret cores, and the lockstep pairs' comparators
(11_exceptions_privilege.md R337, 12_lockstep.md R346-R364). -/
namespace Sys2Proof.Machine

/-! ### Fuses and modes (R346-R348) -/

/-- LSFUSE of pair `p` in FZ_OPT (R433). -/
def State.lsfuse (s : State) (p : Fin 4) : Nat := s.regF 0x001 0x118 (8 + 2 * p.val) 2
/-- CMP_CTL.LOCK as it reads (R346). -/
def State.cmpLock (s : State) (p : Fin 4) : Bool :=
  match s.lsfuse p with
  | 0 => s.regB (0x1A8 + p.val) oCtl 1
  | 2 => false
  | _ => true
def State.cmpFallback (s : State) (p : Fin 4) : Bool := s.regB (0x1A8 + p.val) oCtl 2

/-- PD_TUR of both cores and PD_CMP of the pair are on (R348). -/
def State.pairDoms (s : State) (p : Fin 4) : Bool :=
  s.dom (pdTur (evenCore p).val) && (s.dom (pdTur (oddCore p).val) && s.dom (pdCmp p.val))

/-- The pair is to run in lockstep at its release (R348). -/
def State.wantsLock (s : State) (p : Fin 4) : Bool := s.cmpLock p && (!(s.pair p).splitOnly && s.pairDoms p)

/-- The core may run: not held, powered, and its pair released, in lockstep or split, and neither halted nor offline (R347, R348,
R359, R361). -/
def State.coreRuns (s : State) (n : Fin 8) : Bool :=
  !(s.held n) && (s.dom (pdTur n.val) && ((s.pair (pairOf n)).st == .locked ||
    ((s.pair (pairOf n)).st == .split && (s.pair (pairOf n)).relSplit)))

/-! ### Halts by Lantern (R76, R351, R450) -/

/-- Lantern halts core `n`: its bit of LANT_HALT while PD_LANT is on; the bit of either core of a lockstep pair halts both (R351). -/
def State.lantHalts (s : State) (n : Fin 8) : Bool :=
  s.dom pdLant && (if s.lockstep n then
    s.regB 0x3A0 0x100 (evenCore (pairOf n)).val || s.regB 0x3A0 0x100 (oddCore (pairOf n)).val
  else s.regB 0x3A0 0x100 n.val)
/-- LANT_HALT acts on the cores. -/
def lantApply (s : State) : State :=
  (List.finRange 8).foldl (fun t n => t.setCore n { t.core n with dhalt := t.lantHalts n }) s

/-! ### Core reset (R108, R337, R397) -/

/-- The R108 state of a core; a Lantern halt stays. -/
def coreClear (s : State) (n : Fin 8) : State := s.setCore n { Core.reset with dhalt := (s.core n).dhalt }

/-- One core's reset: the state of R108, IRQ_RAW.RESET, the fault manager's record (R337, R406). -/
def coreResetOne (s : State) (n : Fin 8) (reason : Nat) : State :=
  fmRecord ((coreClear s n).irqBit (0x1A0 + n.val) 2) 3 6 (0x1A0 + n.val) 0 reason n.val

/-- CORE_WARM_RESET: of both cores when the pair runs in lockstep, with SIDE_RESET (R337, R347, R397). -/
def coreReset (s : State) (n : Fin 8) (reason : Nat) : State :=
  if s.lockstep n then
    sideReset (coreResetOne (coreResetOne s (evenCore (pairOf n)) reason) (oddCore (pairOf n)) reason)
      [(evenCore (pairOf n)).val, (oddCore (pairOf n)).val]
  else sideReset (coreResetOne s n reason) [n.val]

/-- Both cores of a pair are held. -/
def holdPair (s : State) (p : Fin 4) : State :=
  (s.setRegF (0x1A0 + (evenCore p).val) oCtl 0 1 1).setRegF (0x1A0 + (oddCore p).val) oCtl 0 1 1

/-- What a release of a core leaves its pair in (R347, R348). A pair that is to be split-only and may not fall back stays held and is
OFFLINE; a pair that is to run in lockstep is LOCKED once both cores are released; any other is released split. -/
def pairRelease (s : State) (p : Fin 4) : State :=
  if (s.pair p).st == .split && (!((s.pair p).relSplit) && !(s.held (evenCore p) && s.held (oddCore p))) then
    if s.cmpLock p && ((s.pair p).splitOnly && !(s.cmpFallback p)) then
      let s1 := holdPair s p
      (s1.setPair p { s1.pair p with st := .offline }).irqBit (0x1A8 + p.val) 4
    else if s.wantsLock p then
      if s.held (evenCore p) || s.held (oddCore p) then s else lantApply (s.setPair p { s.pair p with st := .locked })
    else s.setPair p { s.pair p with relSplit := true }
  else s

/-- A Custody write to TUR_CTL (R143, R347): HOLD, and a 1 in WRST performs a core warm reset with reason 1. A held core is in
its reset state. -/
def turCtlWrite (s : State) (n : Fin 8) (v : Word32) : State :=
  let s1 := if regBit v 1 then coreReset s n 1 else s
  let s2 := s1.setReg (0x1A0 + n.val) oCtl (v &&& 1)
  if regBit v 0 then
    let p := pairOf n
    let s3 := coreClear s2 n
    let s4 := if (s3.pair p).st == .locked then s3.setPair p { s3.pair p with st := .split, relSplit := false } else s3
    if s4.held (evenCore p) && s4.held (oddCore p) then s4.setPair p { s4.pair p with relSplit := false } else s4
  else pairRelease s2 (pairOf n)

/-- What core `n`'s TCMs hold is lost. -/
def dropTcm (s : State) (n : Fin 8) : State :=
  let s1 := s.clearBytes (tcmBase n.val) 0x80000
  { s1 with wordErr := sdrop (fun k => tcmBase n.val ≤ k * 8 && decide (k * 8 < 0x80000 + tcmBase n.val)) s1.wordErr }
/-- PD_TURn goes off: core and TCM state is lost (R48). -/
def turOff (s : State) (n : Fin 8) : State := (dropTcm (coreClear s n) n).setDom (pdTur n.val) false

def execCoreWarmReset (n : Fin 8) (s : State) : Res := ok (coreReset s n 1)

/-! ### Detections (R358, R359) -/

/-- CMP_CNT field of a class (R364). -/
def cmpCntLo (cls : Nat) : Nat := 8 * (cls - 1)
/-- IRQ_RAW bit of a class. -/
def cmpIrq (cls : Nat) : Nat := cls - 1

/-- A core after its clock stops: landing returns and unsent stores are lost (R359). -/
def haltCore (c : Core) : Core :=
  { c with sb := [], ctxs := c.ctxs.map fun x => { x with ls := x.ls.map fun l => { l with pend := none } } }

/-- ERRCNT of the comparator page: CORE by the THRESH rule, DREG counted without it (R360, R402). -/
def cmpCount (s : State) (p : Fin 4) (cls : Nat) : State :=
  if cls = 1 then s.correctable (0x1A8 + p.val)
  else if cls = 3 then s.setErr (0x1A8 + p.val) { s.err (0x1A8 + p.val) with buckets := bumpBucket (s.err (0x1A8 + p.val)).buckets }
  else s

/-- The first-difference record, unless one is VALID (R359, R364). `pc` is the leading core's. -/
def frecWrite (s : State) (p : Fin 4) (cls group : Nat) (digest : Bool) (pc : Nat) : State :=
  let pg := 0x1A8 + p.val
  if s.regB pg 0x100 31 then s
  else ((((s.setReg pg 0x100 (w32 (2 ^ 31 + b2n digest * 2 ^ 30 + cls * 2 ^ 27 + group * 2 ^ 24 +
      (s.core (evenCore p)).cur.val * 256))).setReg pg 0x104 (w32 pc)).setReg pg 0x108 (w32 (pc / 2 ^ 32))).setReg pg 0x10C (w32 s.time))

/-- COMPARATOR_HALT: a detection of class `cls` (1 CORE, 2 INPUT, 3 DREG, 4 SELF) in a group (R358, R359). -/
def cmpHalt (s : State) (p : Fin 4) (cls group : Nat) (digest : Bool) (pc : Nat) : State :=
  let pg := 0x1A8 + p.val
  let s1 := frecWrite s p cls group digest pc
  let s2 := (s1.setCore (evenCore p) (haltCore (s1.core (evenCore p))))
  let s3 := s2.setCore (oddCore p) (haltCore (s2.core (oddCore p)))
  let s4 := s3.setPair p { s3.pair p with st := .halt, haltClass := cls }
  let s5 := cmpCount (s4.setRegF pg 0x114 (cmpCntLo cls) 8 (satAdd (s4.regF pg 0x114 (cmpCntLo cls) 8) 1 255)) p cls
  s5.irqBit pg (cmpIrq cls)

/-! ### The Keep acts (R360, R361) -/

/-- Route words of the offline pair move to the takeover pair (R390). -/
def moveRoutes (s : State) (p q : Nat) : Nat → State
  | 0 => s
  | e + 1 =>
    let s1 := moveRoutes s p q e
    let w := s1.route e
    if regBit w (16 + 2 * p) || regBit w (17 + 2 * p) then
      let w1 := (w &&& ~~~(mask1 (16 + 2 * p) ||| mask1 (17 + 2 * p))) ||| mask1 (16 + 2 * q)
      evtEdge s1 (s1.setReg (0x41 + e / 256) (0x100 + (e % 256) * 4) w1) e
    else s1

/-- The pair runs, in lockstep or split (R361). -/
def pairRunning (s : State) (q : Fin 4) : Bool :=
  ((s.pair q).st == .locked || (s.pair q).st == .split) && (s.coreRuns (evenCore q) || s.coreRuns (oddCore q))

/-- A lasting fault takes the pair offline (R361, R397). -/
def pairOffline (s : State) (p : Fin 4) : State :=
  let s1 := holdPair s p
  let s2 := (s1.setPair p { s1.pair p with st := .offline, relSplit := false, haltClass := 0 }).irqBit (0x1A8 + p.val) 4
  let s3 := sideReset s2 [(evenCore p).val, (oddCore p).val]
  let goal := s3.reg (0x1A8 + p.val) 0x118
  let q : Fin 4 := ⟨regFld goal 0 2, by unfold regFld fld; exact Nat.mod_lt _ (by decide)⟩
  let s4 := if regBit goal 7 && (q != p && pairRunning s3 q) then moveRoutes s3 p.val q.val 512 else s3
  turOff (turOff (s4.setDom (pdCmp p.val) false) (evenCore p)) (oddCore p)

/-- Pair warm reset: a core warm reset of both cores with reason 5; the pair runs LOCKED again (R360). -/
def pairWarmReset (s : State) (p : Fin 4) : State :=
  let s1 := s.setPair p { s.pair p with st := .locked, haltClass := 0 }
  coreReset s1 (evenCore p) 5

/-- A declaration on a comparator page: the record, the pair offline, the self-stop test (R402-R405). -/
def pairLasting (s : State) (p : Fin 4) (kind reason : Nat) : State :=
  selfStopTest (pairOffline (declareLog s (0x1A8 + p.val) kind 3 reason) p)

/-- A second DREG fault within the ERRCFG window of the first (R360). -/
def dregSecond (s : State) (p : Fin 4) : Bool :=
  match (s.err (0x1A8 + p.val)).dreg with
  | some t => decide (s.fwTicks - t < s.errWindow (0x1A8 + p.val))
  | none => false

/-- A SELF fault is lasting at its first occurrence, and makes the pair split-only (R360, R361). -/
def pairSelf (s : State) (p : Fin 4) : State := pairLasting (s.setPair p { s.pair p with splitOnly := true }) p 2 3

/-- The pair warm reset; where a comparator self-fault in group `g` is detected during it, the detection is recorded, the pair goes
offline and the reset does not complete (R360, R365). -/
def pairReset (s : State) (p : Fin 4) (self : Option (Fin 8)) : State :=
  match self with
  | none => pairWarmReset s p
  | some g => pairSelf (cmpHalt s p 4 g.val false (s.core (evenCore p)).ctx.pc.toNat) p

/-- PAIR_RECOVERY: the Keep, when the pair's source EV246 + p reaches it (R389), acts on a halt by its class (R360). -/
def pairRecovery (s : State) (p : Fin 4) (self : Option (Fin 8)) : State :=
  let pg := 0x1A8 + p.val
  if (s.pair p).st == .halt && s.toKeep (246 + p.val) then
    match (s.pair p).haltClass with
    | 4 => pairSelf s p
    | 3 => if dregSecond s p then pairLasting (s.setErr pg { s.err pg with dreg := none }) p 1 0
           else pairReset (s.setErr pg { s.err pg with dreg := some s.fwTicks }) p self
    | 2 => pairReset s p self
    | _ => if (s.err pg).signal then pairLasting s p 1 0 else pairReset s p self
  else s
/-- R360, R365: `self` is the group of a comparator self-fault detected while the pair warm reset runs. -/
def execPairRecovery (p : Fin 4) (self : Option (Fin 8)) (s : State) : Res := ok (pairRecovery s p self)

/-! ### Injection test (R362) -/

/-- The effect of a Keep write of CMP_INJ: each named group is forced, the leading rail on the first write and the trailing one
on the second; a group that passes both sets its INJOK bit. `fails` names groups that give no mismatch code. -/
def injectWrite (s : State) (p : Fin 4) (groups fails : Nat) : State :=
  let x := s.pair p
  if s.dom (pdCmp p.val) then
    let g := groups &&& (255 - fails % 256)
    s.setPair p { x with injok := x.injok ||| (g &&& x.injHalf), injHalf := (x.injHalf ||| g) &&& (255 - (g &&& x.injHalf)) }
  else s

/-- The test ends: a pair that lacks any INJOK bit is split-only (R362). -/
def injectEnd (s : State) (p : Fin 4) : State :=
  if s.dom (pdCmp p.val) && (s.pair p).injok != 255 then
    (s.setPair p { s.pair p with splitOnly := true }).irqBit (0x1A8 + p.val) 5
  else s

/-! ### CMP registers (R364) -/

/-- STATE code. -/
def pairCode : PairSt → Nat | .split => 0 | .locked => 1 | .halt => 2 | .offline => 3

/-- A read of a comparator page. -/
def cmpRead (s : State) (p : Fin 4) (off : Nat) : Word32 :=
  match off with
  | 0x008 => w32 (b2n (s.cmpFallback p) * 4 + b2n (s.cmpLock p) * 2)
  | 0x00C => w32 (s.lsfuse p * 65536 + (s.pair p).injok * 256 + b2n (s.pair p).splitOnly * 8 + pairCode (s.pair p).st)
  | _ => s.reg (0x1A8 + p.val) off

/-- A Custody write to CMP_CTL (R346, R347). -/
def cmpCtlWrite (s : State) (p : Fin 4) (v : Word32) : State × Option BusCause :=
  if (s.lsfuse p = 1 ∨ s.lsfuse p = 3) ∧ regBit v 1 = false then (s, some .access)
  else if s.lsfuse p = 2 ∧ regBit v 1 = true then (s, some .access)
  else if !(s.held (evenCore p)) || !(s.held (oddCore p)) then (s, some .binding)
  else (s.setReg (0x1A8 + p.val) oCtl (v &&& 6), none)

/-- A read of a turret page (R143). -/
def turRead (s : State) (n : Fin 8) (off : Nat) : Word32 :=
  match off with
  | 0x00C =>
    if s.dom (pdTur n.val) then
      w32 ((s.core n).bankcfg.toNat * 256 + b2n (s.core n).dhalt * 16 + b2n (s.core n).sleep * 8 + (s.core n).cur.val)
    else 0x100
  | 0x104 => w32 (s.core n).cwb.length
  | _ => s.reg (0x1A0 + n.val) off

end Sys2Proof.Machine
end

