-- ==== Sys2Proof/Machine/MemCtl.lean ====
section
/-! DEFINITION. The memory controllers at work (03_memory_system.md R84-R99): widening, live spare, scrub, bank states, patrol. -/
namespace Sys2Proof.Machine

/-! ### Copies (R85, R91) -/

/-- Copies one line between two locations as a read under R87; a poisoned source stays poisoned (R85, R88, R91). -/
def copyLine (s : State) (addr : Nat) (src : Loc) (dst : List Loc) (u : Upset) : State :=
  let r := lineRead s addr src u
  lineStore r.1 r.2.1 r.2.2 dst

/-- The upset a list gives for line `i` of a block. -/
def upsetAt (us : List Upset) (i : Nat) : Upset := us.getD i {}

/-- The address the UE record takes for in-channel line `j` of logical channel `l` read by a copy or a scrub: the line's address in the
wide map, also for a line of the training reserve or of channel 63, which no physical address reaches and for which the manual names no
address (DESIGN CHOICE, log entry 74). -/
def copyAddr (l j : Nat) : Nat := (dramBase + (j * 63 + l) * 64) % 2 ^ 48

/-- Copies the in-channel lines `j`, … of the old channel to channel 63. -/
def spareCopyLines (s : State) (us : List Upset) (lch : Nat) : List Nat → State
  | [] => s
  | j :: t =>
    spareCopyLines (copyLine s (copyAddr lch j) (lch, j) [(63, j)] (upsetAt us (j % 32))) us lch t

/-- Blocks of a whole channel copy (R91). -/
abbrev spareBlocks : Nat := 2031616

/-- A copy block; the first one ends ARM, the last one starts SWITCH (R91). -/
def spareCopyBlock (s : State) (us : List Upset) : State :=
  if s.memc.mode == .wide && ((s.memc.spareSt == .arm || s.memc.spareSt == .copy) && decide (s.memc.sparePtr < spareBlocks)) then
    let s1 := spareCopyLines (s.setSpareSt .copy) us s.memc.spareLogical (rangeFrom (s.memc.sparePtr * 32) 32)
    let n := s.memc.sparePtr + 1
    { s1 with memc := { s1.memc with sparePtr := n, spareSt := if n = spareBlocks then .switch else .copy } }
  else s

/-- Loses what a DRAM channel holds. -/
def dropChannel (s : State) (p : Nat) : State :=
  (s.clearBytes (locKey (p, 0)) (chanLines * 64)) |> fun t =>
    { t with lineErr := sdrop (fun k => k / chanLines = p) t.lineErr }

/-- The switch to the spare (R91): VALID, USED, SPARE_DONE; the old channel is RETIRED and its domain goes off. -/
def spareSwitch (s : State) : State :=
  if s.memc.spareSt == .switch then
    let old := s.memc.spareLogical
    let s1 : State := { s with memc := { s.memc with spareSt := .used, spareValid := true } }
    actHeld ((dropChannel (s1.setCstate old 3) old).setDom (pdDch old) false |>.irqBit 0x80 1)
  else s


def execSpareCopyBlock (upsets : List Upset) (s : State) : Res := ok (spareCopyBlock s upsets)
def execSpareSwitch (s : State) : Res := ok (spareSwitch s)
/-- R93: a COPY is abandoned, for any of the rule's three reasons. -/
def execSpareAbort (_why : SpareAbortWhy) (s : State) : Res :=
  ok (if s.memc.spareSt == .copy then spareAbandon s else s)

/-! ### Widening (R85) -/

/-- The physical channel of a logical one (R80). -/
def State.physChan (s : State) (lch : Nat) : Nat := if s.memc.spareValid ∧ s.memc.spareLogical = lch then 63 else lch
/-- All 63 interleaved channels are trained (R85). -/
def State.allTrained (s : State) : Bool := (rangeFrom 0 63).all fun l => (s.mch (s.physChan l)).trained

/-- A write to MEMC_CTL (R85): a 1 in WIDEN is accepted in NARROW with all 63 interleaved channels trained. -/
def memcCtlWrite (s : State) (v : Word32) : State :=
  if regBit v 0 && (s.memc.mode == .narrow && s.allTrained) then
    { s with memc := { s.memc with mode := .widening, widenPtr := 0, widen := true } }
  else s

/-- Copies window lines from their narrow to their wide place (R85). -/
def widenLines (s : State) (us : List Upset) : List Nat → State
  | [] => s
  | l :: t => widenLines (copyLine s (dramBase + l * 64) (narrowLoc l) (s.wideLocs l).2 (upsetAt us (l % 32))) us t

/-- A copy block of 32 lines (R85). -/
def widenBlock (s : State) (us : List Upset) : State :=
  if s.memc.mode == .widening && decide (s.memc.widenPtr < narrowLines) then
    let s1 := widenLines s us (rangeFrom s.memc.widenPtr 32)
    { s1 with memc := { s1.memc with widenPtr := s.memc.widenPtr + 32 } }
  else s

/-- Widening ends (R85): MODE is WIDE, a procedure that a reset interrupted restarts (R94), and what was held acts (R90). -/
def wideDone (s : State) : State :=
  if s.memc.mode == .widening && decide (narrowLines ≤ s.memc.widenPtr) then
    actHeld (spareAgain (({ s with memc := { s.memc with mode := .wide } }).irqBit 0x80 4))
  else s

def execWideningCopyBlock (upsets : List Upset) (s : State) : Res := ok (widenBlock s upsets)
def execWideDone (s : State) : Res := ok (wideDone s)

/-! ### Scrub (R89) -/

/-- A scrub read of in-channel line `j` of channel `p`, handled as a demand read; MEMC_SCRUB_CTL.EN enables it (R89). -/
def scrubRead (s : State) (p j : Nat) (u : Upset) : State :=
  if s.regB 0x80 0x118 31 && (s.dom (pdDch p) && decide (j < chanLines)) then
    (lineRead s (copyAddr p j) (p, j) u).1
  else s
def execScrubRead (pch : Fin 64) (j : Nat) (upset : Upset) (s : State) : Res := ok (scrubRead s pch.val j upset)

/-! ### Bank states (R96) -/

/-- The bank holds an enabled queue context: a listed byte 0 of a context with bit 0 set (R96, R250). -/
def bankHasQueue (s : State) (b : Nat) : Bool :=
  s.mem.any fun c => decide (c.1 % 64 = 0) && (c.2.getLsbD 0 && bankOf c.1 == some (1, b))

/-- The write moves queue-store bank `b` to OFF while it holds an enabled queue context (R96). -/
def bstateRefused (s : State) (page reg : Nat) (v : Word32) (i : Nat) : Bool :=
  page = 1 && (s.bankSt 1 (16 * reg + i) != 3 && (s.bankSt 1 (16 * reg + i) != 0 &&
    (regFld v (2 * i) 2 == 0 && bankHasQueue s (16 * reg + i))))

/-- PWR turns a bank's domain off when all 8 of its banks are OFF or RETIRED (R96). -/
def bankDomainOff (s : State) (p b : Nat) : State :=
  if (rangeFrom (b / 8 * 8) 8).all (fun x => s.bankSt p x = 0 || s.bankSt p x = 3) then s.setDom (bankDomain p b) false else s

/-- A bank's contents are lost (R96). -/
def loseBank (s : State) (p b : Nat) : State :=
  (s.zeroBank p b).setScr p { s.scr p with filling := sput (s.scr p).filling b 0 0 }

/-- A write of `f` to the state field of bank `b` (R96, R99). A bank whose domain's needs are off stays as it is. -/
def bankWrite (s : State) (p b f : Nat) : State :=
  let old := s.bankSt p b
  if old = 3 ∨ f = 3 ∨ old = f then s
  else if (s.scr p).stuck = some b then
    if f = 0 then
      let s1 := (loseBank s p b).setBankSt p b 3
      bankDomainOff (s1.setScr p { s1.scr p with stuck := none }) p b
    else s.setBankSt p b f
  else if f = 0 then bankDomainOff ((loseBank s p b).setBankSt p b 0) p b
  else if old = 0 then
    if (domainNeeds (bankDomain p b)).all s.dom then
      let s1 := (s.setDom (bankDomain p b) true).setBankSt p b f
      s1.setScr p { s1.scr p with filling := sput (s1.scr p).filling b f 0 }
    else s
  else s.setBankSt p b f

/-- The banks of one SCR_BSTATE register in turn. -/
def bstateFields (s : State) (p reg : Nat) (v : Word32) : List Nat → State
  | [] => s
  | i :: t => bstateFields (bankWrite s p (16 * reg + i) (regFld v (2 * i) 2)) p reg v t

/-- A write to SCR_BSTATE register `reg` of a page (R96). -/
def bstateWrite (s : State) (p reg : Nat) (v : Word32) : State × Option BusCause :=
  if (rangeFrom 0 16).any (bstateRefused s p reg v) then (s, some .binding)
  else (bstateFields s p reg v (rangeFrom 0 16), none)

/-- Number of banks of a page (R105). -/
def nbank (p : Nat) : Nat := if p = 0 then 256 else 64

def execBankZeroFill (page : Fin 2) (bank : Fin 256) (s : State) : Res := ok (s.endFill page.val bank.val)

/-- R97: a DMA request that has waited more than 1,024 bank cycles. -/
def execDmaStarve (page : Fin 2) (s : State) : Res :=
  ok ((s.bumpReg (scrPage page.val) 0x148).irqBit (scrPage page.val) 4)

/-! ### Patrol (R98, R99) -/

/-- The region the patrol takes next: the cursor's, or the first region of the next bank that is ON. -/
def patrolTarget (s : State) (p : Nat) : Option Nat :=
  let cur := (s.scr p).next % (nbank p * 64)
  if s.bankSt p (cur / 64) = 1 then some cur
  else match firstNat (fun b => s.bankSt p b = 1) ((rangeFrom (cur / 64 + 1) (nbank p)).map (· % nbank p)) with
    | some b => some (b * 64)
    | none => none

/-- Word numbers of a region. -/
def regionOf (p bank region : Nat) (w : Nat) : Bool :=
  bankOf (w * 8) == some (p, bank) && fld (w * 8 - (if p = 0 then scrBase else qstBase)) 15 6 = region

/-- The patrol's copy to the shadow buffer corrects by ECC: the stored errors of the region's words are read once. -/
def patrolRead (s : State) (p : Nat) : List Nat → State
  | [] => s
  | w :: t => patrolRead (wordRead s p w 0).1 p t

/-- Maps failing rows to spare rows, one after the other; a bank with none left stays redirected and a lasting fault is
declared (R98, R99, R403). -/
def patrolRepair (s : State) (p bank : Nat) : Nat → State
  | 0 => s
  | n + 1 =>
    let used := sget (s.scr p).repairs bank 0
    if used + sget (s.scr p).factory bank 0 < 4 then
      let s1 := s.setScr p { s.scr p with repairs := sput (s.scr p).repairs bank (used + 1) 0 }
      patrolRepair (((s1.setReg (scrPage p) 0x144 (s1.reg (scrPage p) 0x144 + 1))).irqBit (scrPage p) 2) p bank n
    else
      let s1 := (s.setScr p { s.scr p with stuck := some bank }).irqBit (scrPage p) 3
      selfStopTest (declareLog s1 (scrPage p) 2 0 1)

/-- One region of the patrol (R98). -/
def patrolRegion (s : State) (p failing : Nat) : State :=
  if s.regB (scrPage p) oCtl 0 && (s.scr p).stuck.isNone then
    match patrolTarget s p with
    | none => s
    | some r =>
      let s0 := s.endFill p (r / 64)
      let s1 := patrolRead s0 p ((s0.wordErr.map (·.1)).filter (regionOf p (r / 64) (r % 64)))
      let s2 := patrolRepair s1 p (r / 64) failing
      let s3 := s2.setRegF (scrPage p) oStat 0 14 r
      s3.setScr p { s3.scr p with next := (r + 1) % (nbank p * 64) }
  else s
def execPatrolRegion (page : Fin 2) (failing : Nat) (s : State) : Res := ok (patrolRegion s page.val failing)

/-- Live STAT of a SCR page: PATROL_BUSY while a region stays redirected (R105). -/
def scrStat (s : State) (p : Nat) : Word32 := s.reg (scrPage p) oStat ||| w32 (b2n (s.scr p).stuck.isSome * 2 ^ 16)

end Sys2Proof.Machine
end

