-- ==== Sys2Proof/Machine/SpireCtl.lean ====
section
/-! DEFINITION. Spire contexts: start, stop, faults, the fault record, spire reset, and the SPR pages
(05_spire_streams.md R163-R177, 06_spire_operations.md R203-R205). -/
namespace Sys2Proof.Machine

/-! ### Access to a spire and its contexts -/

def State.spire (s : State) (n : Fin 8) : Spire := s.spires[n]
def State.setSpire (s : State) (n : Fin 8) (x : Spire) : State := { s with spires := s.spires.set n x }
/-- Context `c` of spire `n`. -/
def State.sc (s : State) (n : Fin 8) (c : Fin 4) : SpCtx := (s.spire n).ctxs[c]
def State.setSc (s : State) (n : Fin 8) (c : Fin 4) (x : SpCtx) : State :=
  s.setSpire n { s.spire n with ctxs := (s.spire n).ctxs.set c x }
/-- Page of spire `n`. -/
def sprPage (n : Fin 8) : Nat := 0x160 + n.val
/-- Identity of spire `n` (R22). -/
def sprId (n : Fin 8) : MasterId := ⟨8 + n.val, by omega⟩
/-- SPR_QCTL.QEMASK: the context is owned by the queue engine. -/
def State.qeCtx (s : State) (n : Fin 8) (c : Fin 4) : Bool := s.regB (sprPage n) 0x100 c.val
/-- STAT.CS_OK. -/
def State.csOk (s : State) (n : Fin 8) : Bool := s.regB (sprPage n) oStat 0
/-- The spire is fenced: its lasting fault has been declared (R175). -/
def State.spireFenced (s : State) (n : Fin 8) : Bool := sget s.spFence n.val false
def State.fenceSpire (s : State) (n : Fin 8) : State := { s with spFence := sput s.spFence n.val true false }

/-- Memory key of a byte of spire `n`'s coefficient RAM. -/
def coefKey (n : Fin 8) (off : Nat) : Nat := 2 ^ 49 + n.val * 65536 + off

/-! ### The in-flight table, as the spires see it -/

def State.ift (s : State) (i : Nat) : Option IftEnt := sget s.qe.ift i none
def State.setIft (s : State) (i : Nat) (x : Option IftEnt) : State :=
  { s with qe := { s.qe with ift := sput s.qe.ift i x none } }
/-- Statuses no program may give turn into PARAM (R264). -/
def vendStatus (code : Nat) : Nat := if 0x0B ≤ code ∧ code ≤ 0x7F then 3 else code
/-- The command of an in-flight entry ends with a status and a result; COMPLETION_WRITE writes its completion. -/
def qeEnd (s : State) (i status : Nat) (result : Word32) : State :=
  match s.ift i with
  | some e => if e.st = 2 then s else s.setIft i (some { e with st := 2, status := status, result := result })
  | none => s

/-! ### Faults of a context (R203-R205) -/

/-- FINFO of a new record; the mark count stays. -/
def finfoWord (old : Word32) (cause stream opn : Nat) : Word32 :=
  w32 (2 ^ 31 + cause * 2 ^ 26 + stream * 2 ^ 24 + opn * 2 ^ 21 + old.toNat % 2 ^ 16)

/-- Status with which the queue engine completes the command of a context that enters FAULT (R204). -/
def faultStatus (cause : Nat) : Nat := if cause = 7 ∨ cause = 10 then 5 else if cause = 8 then 9 else if cause = 11 then 7 else 3

/-- The context enters FAULT: FAULTc is set, and the command it runs ends with the status of its cause (R204, R205, R211). -/
def spEnterFault (s : State) (n : Fin 8) (c : Fin 4) (cause : Nat) : State :=
  let x := s.sc n c
  let s1 := (s.setSc n c { x with st := .fault }).irqBit (sprPage n) c.val
  match x.ift with
  | some i => qeEnd s1 i (faultStatus cause) 0
  | none => s1

/-- A precise fault at the context's PC (R205). -/
def spPrecise (s : State) (n : Fin 8) (c : Fin 4) (cause detail : Nat) : State :=
  let x := s.sc n c
  spEnterFault (s.setSc n c (let y : SpCtx := { x with finfo := finfoWord x.finfo cause 3 7, fpc := x.pc }
    { y with fe := 0, fw := 0, fuser := 0, faux := w32 (detail % 2 ^ 16) })) n c cause

/-! ### Start and end (R164, R165, R167) -/

/-- The start of a context: `cells` bottom first. -/
def spStart (s : State) (n : Fin 8) (c : Fin 4) (pc : Addr) (cells : List Cell) (ift : Option Nat) : State :=
  let x := s.sc n c
  let y : SpCtx := { st := .run, pc := pc, win := cells.reverse, status := x.status }
  s.setSc n c { y with cpc := x.cpc, arg0 := x.arg0, arg1 := x.arg1, ift := ift }

/-- A context ends with a status code and the rest of the popped cell (R165, R167). -/
def spEnd (s : State) (n : Fin 8) (c : Fin 4) (code : Nat) (result : Word32) : State :=
  let x := s.sc n c
  let s1 := s.setSc n c { x with
    st := .idle, status := byte code, opened := none, adm := .none, image := none, stop := false, coefWait := false, ift := none,
    vwait := none }
  match x.ift with
  | some i => qeEnd s1 i (vendStatus code) result
  | none => s1.irqBit (sprPage n) (4 + c.val)

/-- A STOP that was waiting ends its context once the context's group has ended (R167). -/
def spStopDue (s : State) (n : Fin 8) (c : Fin 4) : State :=
  if (s.sc n c).stop then spEnd s n c 7 0 else s

/-- STOP (R167). -/
def spStop (s : State) (n : Fin 8) (c : Fin 4) : State :=
  let x := s.sc n c
  match x.st with
  | .idle => s
  | .fault => s.setSc n c { x with st := .idle, opened := none, adm := .none, image := none, stop := false, ift := none }
  | _ => match x.adm with
    | .queued => s.setSc n c { x with stop := true, coefWait := false }
    | .running => s.setSc n c { x with stop := true, coefWait := false }
    | _ => spEnd s n c 7 0

/-! ### Spire reset (R173, R397) -/

/-- Every context's command ends with ABORTED (R173, step 4). -/
def abortAll (s : State) (n : Fin 8) : List (Fin 4) → State
  | [] => s
  | c :: t => abortAll (match (s.sc n c).ift with | some i => qeEnd s i 7 0 | none => s) n t

/-- Bytes of memory at an address within one line, without access checks and without effects of error codes. -/
def State.peek (s : State) (a n : Nat) : List Byte :=
  match memKind a with
  | .dram => match s.dramLocs ((a - dramBase) / 64) with
    | some (l, _) => s.bytes (locKey l + a % 64) n
    | none => List.replicate n 0
  | _ => s.bytes a n
/-- Every copy of bytes within one line replaced, without access checks. -/
def State.poke (s : State) (a : Nat) (d : List Byte) : State :=
  match memKind a with
  | .dram => match s.dramLocs ((a - dramBase) / 64) with
    | some (_, ls) => ls.foldl (fun t l => t.setBytes (locKey l + a % 64) d) s
    | none => s
  | _ => s.setBytes a d

/-- One of the last 64 steps' stores, which had no write response yet: either it landed or it did not (R173). -/
def undoStores (s : State) : List GStore → State
  | [] => s
  | g :: t =>
    let f := s.fresh
    undoStores (if f.1.toNat % 2 = 1 then f.2.poke g.addr g.old else f.2) t

/-- The running group of a spire is lost: its last stores are indeterminate (R173). -/
def undoRunning (s : State) (n : Fin 8) : State :=
  match (s.spire n).running with
  | some r => undoStores s r.recent
  | none => s

/-- A register of a spire's page that spire reset keeps: SPR_QCTL, and with the control store STAT and SPR_CSVER (R173, R175, R449); CTL
holds what the write that reset the spire left. -/
def spireKept (off : Nat) : Bool := off == 0x100 || (off == oStat || (off == 0x104 || off == oCtl))
/-- Spire reset (R173, R449). -/
def spireReset (s : State) (n : Fin 8) : State :=
  let s1 := abortAll (undoRunning s n) n (List.finRange 4)
  let s2 := s1.dropRegs fun p off => p == sprPage n && !(spireKept off)
  sideReset (s2.setSpire n { cstore := (s2.spire n).cstore, csErr := (s2.spire n).csErr }) [8 + n.val]

/-! ### The SPR pages (R176, R177) -/

def spCode : SpSt → Nat | .idle => 0 | .run => 1 | .gwait => 2 | .mwait => 3 | .fault => 4

/-- STAT of a spire's page. -/
def sprStat (s : State) (n : Fin 8) : Word32 :=
  let busy := (List.finRange 4).foldl (fun a c => a + (if (s.sc n c).st = .idle then 0 else 2 ^ c.val)) 0
  w32 (busy * 256 + b2n (s.regB (sprPage n) oStat 2) * 4 + b2n (s.spire n).running.isSome * 2 + b2n (s.csOk n))

/-- A register of a spire context block. -/
def spctxRead (x : SpCtx) (sub : Nat) : Word32 :=
  match sub with
  | 0x04 => w32 (x.status.toNat * 2 ^ 16 + x.descs.length * 256 + spCode x.st)
  | 0x08 => w32 x.pc.toNat
  | 0x0C => w32 (x.pc.toNat / 2 ^ 32)
  | 0x10 => w32 x.arg0.toNat
  | 0x14 => w32 (x.arg0.toNat / 2 ^ 32)
  | 0x18 => w32 x.arg1.toNat
  | 0x1C => w32 (x.arg1.toNat / 2 ^ 32)
  | 0x20 => x.finfo
  | 0x24 => w32 x.fpc.toNat
  | 0x28 => w32 (x.fpc.toNat / 2 ^ 32)
  | 0x2C => x.fe
  | 0x30 => x.fw
  | 0x34 => x.fmlow
  | 0x38 => x.fuser
  | 0x3C => x.faux
  | _ => 0

/-- A read of a spire's page. -/
def sprRead (s : State) (n : Fin 8) (off : Nat) : Option Word32 :=
  if off = oStat then some (sprStat s n)
  else match arrIx off 0x200 0x40 4 with
    | some (c, sub) => some (spctxRead (s.sc n ⟨c % 4, Nat.mod_lt _ (by decide)⟩) sub)
    | none => none

/-- Replaces half `hi` of a 64-bit value. -/
def half64 (old : Nat) (hi : Bool) (v : Word32) : Nat :=
  if hi then old % 2 ^ 32 + 2 ^ 32 * v.toNat else 2 ^ 32 * (old / 2 ^ 32) + v.toNat

/-- A write to a context block (R164, R167, R177). -/
def spctxWrite (s : State) (n : Fin 8) (c : Fin 4) (sub : Nat) (v : Word32) : State × Option BusCause :=
  let x := s.sc n c
  if sub = 4 ∨ 0x20 ≤ sub then (s, none)
  else if s.qeCtx n c then (s, some .binding)
  else if sub = 0 then
    if regBit v 0 then
      if x.st ≠ .idle ∨ s.csOk n = false ∨ s.spireFenced n = true then (s, some .binding)
      else (spStart s n c x.cpc [x.arg0, x.arg1] none, none)
    else if regBit v 1 then (spStop s n c, none)
    else (s, none)
  else if x.st ≠ .idle then (s, some .binding)
  else
    let cpc : Addr := BitVec.ofNat 48 (half64 x.cpc.toNat (sub == 0xC) v)
    (s.setSc n c (match sub with
      | 0x08 => { x with cpc := cpc, pc := cpc }
      | 0x0C => { x with cpc := cpc, pc := cpc }
      | 0x10 => { x with arg0 := cell (half64 x.arg0.toNat false v) }
      | 0x14 => { x with arg0 := cell (half64 x.arg0.toNat true v) }
      | 0x18 => { x with arg1 := cell (half64 x.arg1.toNat false v) }
      | _ => { x with arg1 := cell (half64 x.arg1.toNat true v) }), none)

/-- Every context is IDLE. -/
def allIdle (s : State) (n : Fin 8) : Bool := (List.finRange 4).all fun c => (s.sc n c).st == .idle

/-- A write to a spire's page, the code and identity of the access checked. -/
def sprWrite (s : State) (n : Fin 8) (off : Nat) (v : Word32) : Option (State × Option BusCause) :=
  if off = oCtl then
    if !(regBit v 0) && !(allIdle s n) then some (s, some .binding)
    else
      let s1 := s.setReg (sprPage n) oCtl (v &&& 3)
      let s2 := if regBit v 3 then s1.setSpire n { s1.spire n with pbuf := [] } else s1
      some (if regBit v 2 then spireReset s2 n else s2, none)
  else if off = 0x100 then
    let change := ((s.reg (sprPage n) 0x100) ^^^ v) &&& 0xF
    if !(sget s.locks (sprPage n) {}).locked && (List.finRange 4).any (fun c => regBit change c.val && !((s.sc n c).st == .idle))
      then some (s, some .binding)
    else none
  else match arrIx off 0x200 0x40 4 with
    | some (c, sub) => some (spctxWrite s n ⟨c % 4, Nat.mod_lt _ (by decide)⟩ sub v)
    | none => none

end Sys2Proof.Machine
end

