-- ==== Sys2Proof/Machine/QueueCtl.lean ====
section
/-! DEFINITION. Queue contexts, the stripe program table, the tenant table, doorbells and context errors: what a register write
or a write to the queue store does (07_codes_stripes.md R245, R246; 08_queues.md R249-R258, R268, R269, R471). -/
namespace Sys2Proof.Machine

/-! ### The queue context (R250) -/

/-- A field of the context: word, lowest bit, width. -/
structure CF where
  w : Nat
  lo : Nat
  n : Nat

abbrev qEN : CF := ⟨0, 0, 1⟩
abbrev qHOME : CF := ⟨0, 1, 1⟩
abbrev qERR : CF := ⟨0, 2, 1⟩
abbrev qCLASS : CF := ⟨0, 4, 2⟩
abbrev qQOS : CF := ⟨0, 6, 4⟩
abbrev qPSET : CF := ⟨0, 10, 6⟩
abbrev qTENANT : CF := ⟨0, 16, 20⟩
abbrev qTSLOT : CF := ⟨0, 36, 12⟩
abbrev qCREDIT : CF := ⟨0, 48, 13⟩
abbrev qCLIENT : CF := ⟨1, 0, 48⟩
abbrev qSQLOG : CF := ⟨1, 48, 4⟩
abbrev qCQLOG : CF := ⟨1, 52, 4⟩
abbrev qEVSEL : CF := ⟨1, 56, 5⟩
abbrev qSQADDR : CF := ⟨2, 0, 48⟩
abbrev qSQTAIL : CF := ⟨2, 48, 16⟩
abbrev qCQADDR : CF := ⟨3, 0, 48⟩
abbrev qCQTAIL : CF := ⟨3, 48, 16⟩
abbrev qRCADDR : CF := ⟨4, 0, 48⟩
abbrev qSQHEAD : CF := ⟨4, 48, 16⟩
abbrev qCQHEAD : CF := ⟨5, 0, 16⟩
abbrev qCQPHASE : CF := ⟨5, 16, 1⟩
abbrev qINFL : CF := ⟨5, 17, 13⟩
abbrev qWBASE : CF := ⟨5, 32, 32⟩
abbrev qWMAP : CF := ⟨6, 0, 64⟩
abbrev qNCOMP : CF := ⟨7, 0, 32⟩
abbrev qLASTSTAT : CF := ⟨7, 32, 8⟩

/-- A context: its eight words. -/
abbrev QCtx := List Nat

def ctxOf (b : List Byte) : QCtx := (rangeFrom 0 8).map fun i => leAt b (8 * i) 8
def ctxBytes (c : QCtx) : List Byte := (c.map (leBytes 8)).flatten
/-- A field of a context. -/
def qf (c : QCtx) (f : CF) : Nat := fld (c.getD f.w 0) f.lo f.n
/-- A context with a field replaced. -/
def qset (c : QCtx) (f : CF) (v : Nat) : QCtx := c.set f.w (fldSet (c.getD f.w 0) f.lo f.n v)
/-- Address of context `q` (R249). -/
def ctxAddr (q : Nat) : Nat := qstBase + q * 64
/-- The stored context, without ECC. -/
def State.ctxRaw (s : State) (q : Nat) : QCtx := ctxOf (s.bytes (ctxAddr q) 64)

/-- Reserved bits of a context are 0. -/
def ctxReserved (c : QCtx) : Bool :=
  fld (c.getD 0 0) 3 1 == 0 && (fld (c.getD 0 0) 61 3 == 0 && (fld (c.getD 1 0) 61 3 == 0 &&
  (fld (c.getD 5 0) 30 2 == 0 && fld (c.getD 7 0) 40 24 == 0)))

/-- Stores a whole context with fresh ECC. -/
def ctxStore (s : State) (q : Nat) (c : QCtx) : State :=
  let w := ctxAddr q / 8
  ({ s with wordErr := sdrop (fun k => w ≤ k && k < w + 8) s.wordErr }).setBytes (ctxAddr q) (ctxBytes c)

/-! ### In-flight table counts (R245, R262) -/

/-- Indices of the in-flight entries that satisfy `p`. -/
def iftWhere (s : State) (p : IftEnt → Bool) : List Nat :=
  s.qe.ift.filterMap fun (i, x) => match x with
    | some e => if p e then some i else none
    | none => none
/-- Commands in flight on half `h` of stripe program table entry `e`. -/
def inflHalf (s : State) (e : Nat) (h : Bool) : Nat := (iftWhere s fun x => x.entry = e && x.half == h).length
/-- Entries in use. -/
def inflAll (s : State) : Nat := (iftWhere s fun _ => true).length

/-! ### Context errors (R269, R471) -/

/-- What runs the command of entry `i` runs on without it, and its end reaches no entry: a vendor program in its context, the drive
commands that a FLUSH has sent (R269). -/
def orphanCtx (s : State) (i : Nat) (e : IftEnt) : State :=
  if e.engine then
    { s with ports := s.ports.map fun x =>
               (x.1, { x.2 with active := x.2.active.map fun r => if r.src = .flush i then { r with src := .probe } else r }),
             pwr := { s.pwr with ops := s.pwr.ops.filter fun o => o.2 != .flush i } }
  else
    let n : Fin 8 := ⟨e.spire % 8, Nat.mod_lt _ (by decide)⟩
    let c : Fin 4 := ⟨e.ctx % 4, Nat.mod_lt _ (by decide)⟩
    if (s.sc n c).ift = some i then s.setSc n c { s.sc n c with ift := some (8192 + i) } else s

/-- Counts a discarded completion (R269). -/
def countOrphan (s : State) : State := (s.bumpReg 0x120 0x144).irqBit 0x120 3

/-- Discards the commands in flight of a queue: completions counted, entries freed (R269). -/
def discardAll (s : State) : List Nat → State
  | [] => s
  | i :: t =>
    match s.ift i with
    | some e => discardAll (countOrphan ((orphanCtx s i e).setIft i none)) t
    | none => discardAll s t

/-- QST_CTXERR takes the first queue since VALID was cleared (R268). -/
def ctxerrRecord (s : State) (q : Nat) : State :=
  if s.regB 0x120 0x140 31 then s else s.setReg 0x120 0x140 (w32 (2 ^ 31 + q))

/-- Counts the completions of a queue that wait for a DACK with no in-flight entry. -/
def countWaits (s : State) : List Wait → State
  | [] => s
  | w :: t => countWaits (if w.ift.isNone then countOrphan s else s) t

/-- A poisoned context (interrupt bit 1, R269), or a failed replay-cache or completion write (bit 4, R471): the context becomes
EN = 0, ERR = 1 and 0 elsewhere, and the queue's commands in flight are discarded. -/
def ctxError (s : State) (q irqb : Nat) : State :=
  let s1 := ctxStore ((ctxerrRecord s q).irqBit 0x120 irqb) q [4, 0, 0, 0, 0, 0, 0, 0]
  let s2 := countWaits s1 (s1.qe.waits.filter fun w => w.q = q)
  let s3 : State := { s2 with qe := { s2.qe with held := sput s2.qe.held q none none, waits := s2.qe.waits.filter fun w => w.q ≠ q } }
  discardAll s3 (iftWhere s3 fun e => e.qid = q)

/-- A read of a context by the queue engine; the error is true where the read was poisoned (R269), false where its bank is off. -/
def ctxRead (s : State) (q : Nat) : State × Except Bool QCtx :=
  match readParts (fun s a n => sramPartRead s a n {}) s (parts 8 64 (ctxAddr q) 64) with
  | (s1, .error _) => (s1, .error false)
  | (s1, .ok (_, true)) => (ctxError s1 q 1, .error true)
  | (s1, .ok (d, false)) => (s1, .ok (ctxOf d))

/-! ### A master's write to a context (R251, R252) -/

/-- A tenant-table entry (R268). -/
def State.tenant (s : State) (t : Nat) : Word32 := s.reg (0x130 + t / 512) (0x100 + t % 512 * 4)
/-- WEIGHT of a tenant slot. -/
def State.weight (s : State) (t : Nat) : Nat := regFld (s.tenant t) 0 8

def inDram (a n : Nat) : Bool := decide (dramBase ≤ a ∧ a + n ≤ 0x004D00000000)

/-- The conditions of an enable (R252). -/
def enableOk (s : State) (q : Nat) (c : QCtx) : Bool :=
  let sq := 2 ^ qf c qSQLOG
  let cq := 2 ^ qf c qCQLOG
  qf c qCLASS != 3 && (decide (4 ≤ qf c qSQLOG ∧ 4 ≤ qf c qCQLOG ∧ qf c qSQLOG ≤ 16 ∧ qf c qCQLOG ≤ 16) &&
  (qf c qSQADDR % 4096 == 0 && (qf c qCQADDR % 4096 == 0 && (qf c qRCADDR % 1024 == 0 &&
  (inDram (qf c qSQADDR) (sq * 64) && (inDram (qf c qCQADDR) (cq * 16) && (inDram (qf c qRCADDR) 1024 &&
  (decide (qf c qSQHEAD < sq ∧ qf c qSQTAIL < sq ∧ qf c qCQHEAD < cq ∧ qf c qCQTAIL < cq) &&
  (qf c qINFL == 0 && (qf c qERR == 0 && (ctxReserved c &&
  ((iftWhere s fun e => e.qid = q).isEmpty && regFld (s.tenant (qf c qTSLOT)) 8 20 == qf c qTENANT))))))))))))

/-- The two contexts differ outside EN. -/
def ctxDiffers (a b : QCtx) : Bool := qset a qEN 0 != qset b qEN 0

/-- What refuses a change of context `q` from `old` to `new` (R251, R252). -/
def ctxRefused (s : State) (q : Nat) (old new : QCtx) : Bool :=
  (qf old qEN == 1 && ctxDiffers old new) ||
  (qf old qEN == 0 && (qf old qINFL != 0 && ctxDiffers old new)) ||
  (qf old qEN == 0 && (qf new qEN == 1 && !(enableOk s q new)))

/-- A master's write of one part, within one context. -/
def ctxPartWrite (u : Upset) (s : State) (a : Nat) (d : List Byte) : State × Option BusCause :=
  let q := (a - qstBase) / 64
  match readParts (fun s a n => sramPartRead s a n {}) s (parts 8 64 (ctxAddr q) 64) with
  | (s1, .error c) => (s1, some c)
  | (s1, .ok (b, poison)) =>
    let s2 := if poison then ctxError s1 q 1 else s1
    let old := if poison then s2.bytes (ctxAddr q) 64 else b
    let new := listPut old (a % 64) d
    if ctxRefused s2 q (ctxOf old) (ctxOf new) then (s2, some .binding)
    else
      let r := memPartWrite u s2 a d
      if ctxDiffers (ctxOf old) (ctxOf new) then ({ r.1 with qe := { r.1.qe with held := sput r.1.qe.held q none none } }, r.2) else r

/-- A master's write to the queue store (R251). -/
def ctxWrite (s : State) (a : Nat) (d : List Byte) (u : Upset) : State × Option BusCause :=
  writeParts (ctxPartWrite u) s (parts 64 d.length a d.length) d

/-! ### The stripe program table (R26, R27, R245, R246) -/

def sptPage (e : Nat) : Nat := 0x128 + e / 32
def sptOff (e : Nat) : Nat := 0x100 + e % 32 * 64
/-- Active half of an entry. -/
def State.sptHalf (s : State) (e : Nat) : Bool := s.regB (sptPage e) (sptOff e + 0x20) 31
/-- Program address of a half. -/
def State.sptAddr (s : State) (e : Nat) (h : Bool) : Nat :=
  (s.reg (sptPage e) (sptOff e + b2n h * 16)).toNat + 2 ^ 32 * (s.reg (sptPage e) (sptOff e + b2n h * 16 + 4)).toNat
/-- Argument of a half. -/
def State.sptArg (s : State) (e : Nat) (h : Bool) : Nat :=
  (s.reg (sptPage e) (sptOff e + b2n h * 16 + 8)).toNat + 2 ^ 32 * (s.reg (sptPage e) (sptOff e + b2n h * 16 + 12)).toNat
/-- The entry is empty (R246); entries 0x0A and 0x0B belong to the queue engine. -/
def State.sptEmpty (s : State) (e : Nat) : Bool := e != 0x0A && (e != 0x0B && s.sptAddr e (s.sptHalf e) == 0)

/-- Every spire's program buffer is emptied (R168). -/
def pinvAll (s : State) : List (Fin 8) → State
  | [] => s
  | n :: t => pinvAll (s.setSpire n { s.spire n with pbuf := [] }) t

/-- A commit: the halves swap (R26), and every program buffer is invalidated (R168). -/
def sptCommit (s : State) (e : Nat) : State :=
  pinvAll (s.setReg (sptPage e) (sptOff e + 0x20) (s.reg (sptPage e) (sptOff e + 0x20) ^^^ mask1 31)) (List.finRange 8)

/-- A write to entry `e` at offset `sub` of its block (R246); none where the word is stored as written. -/
def sptWrite (s : State) (e sub : Nat) (v : Word32) : Option (State × Option BusCause) :=
  if e = 0x0A ∨ e = 0x0B then some (s, some .access)
  else if sub < 0x20 then
    let h := decide (0x10 ≤ sub)
    if h == s.sptHalf e || inflHalf s e h != 0 then some (s, some .binding) else none
  else if sub = 0x24 then some (if regBit v 0 then sptCommit s e else s, none)
  else none

/-- ESTAT (R245). -/
def estatRead (s : State) (e : Nat) : Word32 :=
  s.reg (sptPage e) (sptOff e + 0x20) ||| w32 (inflHalf s e true * 2 ^ 16 + inflHalf s e false)

/-! ### The tenant table (R268) -/

/-- An enabled queue is bound to tenant slot `t`. -/
def slotBound (s : State) (t : Nat) : Bool :=
  s.mem.any fun c => decide (qstBase ≤ c.1 ∧ c.1 < qstBase + 0x1000000 ∧ c.1 % 64 = 0) &&
    (c.2.getLsbD 0 && qf (s.ctxRaw ((c.1 - qstBase) / 64)) qTSLOT == t)

/-- A write to tenant-table entry `t`. -/
def tenantWrite (s : State) (t : Nat) (v : Word32) : Option (State × Option BusCause) :=
  if regFld v 8 20 != regFld (s.tenant t) 8 20 && slotBound s t then some (s, some .binding) else none

/-! ### Doorbells (R258) -/

/-- A doorbell write of `v` by identity `id`: to SQTAIL, or to CQHEAD. -/
def doorbell (s : State) (id : Nat) (sq : Bool) (v : Nat) : State × Option BusCause :=
  let q := sget s.qe.dbsel id 0
  match ctxRead s q with
  | (s1, .error true) => (s1.irqBit 0x120 0, none)
  | (s1, .error false) => (s1, some .binding)
  | (s1, .ok c) =>
    if qf c qEN = 0 then (s1, some .binding)
    else if sq then
      if v < 2 ^ qf c qSQLOG then (ctxStore s1 q (qset c qSQTAIL v), none) else (s1.irqBit 0x120 0, none)
    else
      let n := 2 ^ qf c qCQLOG
      if v < n ∧ (v + n - qf c qCQHEAD) % n ≤ (qf c qCQTAIL + n - qf c qCQHEAD) % n then (ctxStore s1 q (qset c qCQHEAD v), none)
      else (s1.irqBit 0x120 0, none)

/-! ### Page 0x120 (R262, R268) -/

/-- A word of an in-flight entry (R262). -/
def iftWord (e : IftEnt) (i : Nat) : Word32 :=
  match i with
  | 0 => w32 (2 ^ 31 + e.st * 2 ^ 29 + b2n e.half * 2 ^ 28 + e.opcode * 2 ^ 20 + e.qid)
  | 1 => e.seq
  | 2 => w32 (e.sqidx * 2 ^ 16 + b2n e.engine * 2 ^ 15 + e.spire * 16 + e.ctx)
  | 3 => e.start
  | _ => 0

def qstRead (s : State) (id n off : Nat) : Option Word32 :=
  if n = 0 then
    if off = oStat then
      some (w32 (b2n (s.regB 0x120 oStat 2) * 4 + b2n (s.regB 0x120 oStat 1) * 2 +
        b2n (inflAll s == 0 && s.qe.held.all fun h => h.2.isNone)))
    else if off = 0x100 then some (w32 (sget s.qe.dbsel id 0))
    else if 0x110 ≤ off ∧ off < 0x130 then
      some (match s.ift (s.regF 0x120 0x10C 0 13) with
        | some e => iftWord e ((off - 0x110) / 4)
        | none => 0)
    else if off = 0x130 then some (w32 (inflAll s))
    else none
  else if n < 16 then
    match arrIx off 0x100 0x40 32 with
    | some (e, 0x20) => some (estatRead s ((n - 8) * 32 + e))
    | _ => none
  else none

def qstWrite (s : State) (id n off : Nat) (v : Word32) : Option (State × Option BusCause) :=
  if n = 0 then
    match off with
    | 0x100 => some ({ s with qe := { s.qe with dbsel := sput s.qe.dbsel id (regFld v 0 18) 0 } }, none)
    | 0x104 => some (doorbell s id true (regFld v 0 16))
    | 0x108 => some (doorbell s id false (regFld v 0 16))
    | _ => none
  else if n < 16 then
    match arrIx off 0x100 0x40 32 with
    | some (e, sub) => sptWrite s ((n - 8) * 32 + e) sub v
    | none => none
  else
    match arrIx off 0x100 4 512 with
    | some (t, 0) => tenantWrite s ((n - 16) * 512 + t) v
    | _ => none

end Sys2Proof.Machine
end

