-- ==== Sys2Proof/Machine/Dma.lean ====
section
/-! DEFINITION. Accesses to memory by the device's own masters: the queue engine and the DMA identities (01_architecture.md R22,
R37), and the doorbells they ring. -/
namespace Sys2Proof.Machine

/-- A read of `n` bytes of memory by a hardware master. Any other target than memory answers UNMAPPED. -/
def dmaReadRaw (s : State) (a n : Nat) : State × RdAns :=
  match memKind a with
  | .none => (s, .error .unmapped)
  | _ => memRead s a n
/-- A write of memory by a hardware master; a write to the queue store obeys R251. -/
def dmaWriteRaw (s : State) (a : Nat) (d : List Byte) : State × Option BusCause :=
  match memKind a with
  | .none => (s, some .unmapped)
  | .dram => memWrite s a d
  | .parm => (s, some .access)
  | .sram => if qstBase ≤ a then ctxWrite s a d {} else memWrite s a d

/-- A read by hardware master `id`; a bus error is recorded (R106). -/
def dmaRead (s : State) (id : MasterId) (a n : Nat) : State × RdAns :=
  match dmaReadRaw s a n with
  | (s1, .error c) => (s1.berr id a false c, .error c)
  | r => r
/-- A write by hardware master `id`; a bus error is recorded (R106). -/
def dmaWrite (s : State) (id : MasterId) (a : Nat) (d : List Byte) : State × Option BusCause :=
  match dmaWriteRaw s a d with
  | (s1, some c) => (s1.berr id a true c, some c)
  | r => r

/-- Data of a read that is neither a bus error nor poisoned. -/
def goodData : RdAns → Option (List Byte)
  | .ok (d, false) => some d
  | _ => none

/-- Some line that the range touches is poisoned after a write: its write response carried the mark (R88, R471). -/
def stillPoisoned (s : State) (a n : Nat) : Bool :=
  (parts 64 n a n).any fun p =>
    memKind p.1 == .dram && (match s.dramLocs ((p.1 - dramBase) / 64) with
      | some (l, _) => decide (2 ≤ (s.lineErrAt l).bits) || (s.lineErrAt l).tag != 0
      | none => false)

/-- A hardware master rings doorbell bit `bell` of channel `ch` (R276, R395); a channel it is not bound to refuses it. -/
def dmaRing (s : State) (id : MasterId) (ch bell : Nat) : State :=
  match s.mbSide ch id.val with
  | some b => mbRing s ch b (mask1 bell)
  | none => s.berr id (0xF00000000 + mbPage ch * 4096 + 0x100 + ch % 8 * 0x100 + 0x20) true .identity

end Sys2Proof.Machine
end

