-- ==== Sys2Proof/Machine/PowerSets.lean ====
section
/-! DEFINITION. Power sets, inrush admission and feedback (09_drives_power_sets.md R282-R291, R295, R296). -/
namespace Sys2Proof.Machine

/-! ### Ports, members, set words -/

/-- BAY_PWR_EN and debounced presence of a bay (SASP_BAY). -/
def State.bayOn (s : State) (p : Nat) : Bool := s.regB (portPage p) 0x110 8
def State.present (s : State) (p : Nat) : Bool := s.regB (portPage p) 0x110 9
/-- STAT.UP: an up state with tags open. -/
def State.portUp (s : State) (p : Nat) : Bool :=
  (s.port p).opened && (((s.port p).lp == 6 || (s.port p).lp == 8) && s.dom (pdSasg (p / 8)))

/-- Member ports of a set, ascending. -/
def State.members (s : State) (k : Nat) : List Nat := allPorts.filter fun p => s.inSet p && s.setNo p == k
/-- A live member: present, not excluded, not held as SATA (R284). -/
def State.live (s : State) (p : Nat) : Bool := s.present p && (s.excl p == 0 && (s.port p).lp != 9)
def State.liveMembers (s : State) (k : Nat) : List Nat := (s.members k).filter s.live

/-- State of a set (R285). -/
def State.setSt (s : State) (k : Nat) : Nat := s.regF 0x351 (0x104 + 8 * k) 0 3
def State.dropHold (s : State) (k : Nat) : Bool := s.regB 0x351 (0x104 + 8 * k) 4
/-- Ready flag of a set. -/
def State.ready (s : State) (k : Nat) : Bool := s.regB 0x350 (0x150 + k / 32 * 4) (k % 32)
def State.setReady (s : State) (k : Nat) (b : Bool) : State := s.setRegF 0x350 (0x150 + k / 32 * 4) (k % 32) 1 (b2n b)
/-- A set enters a state; SETCHG. -/
def enterSt (s : State) (k v : Nat) : State := (s.setRegF 0x351 (0x104 + 8 * k) 0 3 v).irqBit 0x350 1

/-! ### The in-flight SPIN commands (R285) -/

/-- Ends the SPIN commands that wait for set `k` in a direction. -/
def spinDone (s : State) (k : Nat) (up : Bool) (status : Nat) : State :=
  (iftWhere s fun e => e.engine && (e.opcode == 0x0A && (e.st == 1 && (fld e.aux0.toNat 0 6 == k && e.aux0.getLsbD 8 == up)))).foldl
    (fun t i => qeEnd t i status 0) s

/-- A command is in flight on a set (R29). -/
def inFlightOn (s : State) (k : Nat) : Bool := !((iftWhere s fun e => qf (s.ctxRaw e.qid) qPSET == k).isEmpty)

/-! ### Progress of a set (R285) -/

/-- A preempt of a port is pending or under way (R293, R296). -/
def preemptPending (s : State) (p : Nat) : Bool :=
  s.regB 0x2FF (0x118 + p / 32 * 4) (p % 32) || (s.pwr.ops.contains (p, .preempt) || (s.port p).active.any fun r => r.src == .preempt)
/-- A stop of a port is waiting or under way. -/
def stopPending (s : State) (p : Nat) : Bool :=
  s.pwr.ops.contains (p, .stop) || (s.port p).active.any fun r => r.src == .stop

/-- POWERING ends once every live member is up (R285): the members are queued for admission. -/
def powered (s : State) (k : Nat) : State :=
  if s.setSt k = 1 ∧ (s.liveMembers k).all s.portUp = true then
    let l := s.liveMembers k
    let s1 := l.foldl (fun t p => t.setMstate p 2) (enterSt s k 2)
    { s1 with pwr := { s1.pwr with queue := s1.pwr.queue ++ l } }
  else s

/-- SPINNING ends once every live member is ready, registered and not waiting for a preempt (R285, R292, R293): the flag is set and
the spin-up requests complete. -/
def spunUp (s : State) (k : Nat) : State :=
  if s.setSt k = 2 ∧ ((s.liveMembers k).all fun p => s.mstate p == 5 && ((s.port p).registered && !(preemptPending s p))) = true then
    spinDone ((enterSt s k 3).setReady k true) k true (if (s.liveMembers k).isEmpty then 4 else 0)
  else s

/-- STOPPING ends once every stop has been answered or has timed out (R285): bays lose power if DEPOWER is 1. -/
def stopped (s : State) (k : Nat) : State :=
  if s.setSt k = 4 ∧ (s.members k).all (fun p => !(stopPending s p)) = true then
    let off := s.regB 0x351 (0x100 + 8 * k) 0
    let s1 := (s.members k).foldl (fun t p =>
      let t1 := t.setPort p { t.port p with load := none }
      if off then (t1.setBay p false).setMstate p 0 else t1.setMstate p (b2n (t1.bayOn p))) s
    spinDone (enterSt s1 k 0) k false 0
  else s

/-- Whatever a set can do now: the power master's work, the other device takes the states from it (R283). -/
def progress (s : State) (k : Nat) : State := if s.pmaster then stopped (spunUp (powered s k) k) k else s
/-- Progress of the set of a port. -/
def progressOf (s : State) (p : Nat) : State := if s.inSet p then progress s (s.setNo p) else s

/-- A member is excluded with a reason (R295); EXCL. -/
def exclude (s : State) (p reason : Nat) : State :=
  let s1 := unbind s p
  progressOf (((s1.setExcl p reason).setMstate p (b2n (s1.bayOn p))).irqBit 0x350 3) p

/-- A member of a READY set drops out: what the power master does (R286). -/
def dropOut (s : State) (p reason : Nat) : State :=
  if s.pmaster && (s.inSet p && (s.setSt (s.setNo p) == 3 && s.live p)) then
    let k := s.setNo p
    exclude (((s.setReady k false).setRegF 0x351 (0x104 + 8 * k) 4 1 1).irqBit 0x350 2) p reason
  else s

/-- REARM (R286): DROPHOLD ends, and the flag returns once no preempt is pending (R296). -/
def rearm (s : State) (k : Nat) : State :=
  if s.dropHold k then
    let s1 := s.setRegF 0x351 (0x104 + 8 * k) 4 1 0
    if s1.setSt k = 3 ∧ (s1.liveMembers k).all (fun p => !(preemptPending s1 p)) = true then s1.setReady k true else s1
  else s

/-! ### Spin requests (R285, R29) -/

/-- A request for a set: the status with which it completes at once, or none where it waits. -/
def spinRequest (s : State) (k : Nat) (up : Bool) : State × Option Nat :=
  if (s.members k).isEmpty || s.setSt k == (if up then 3 else 0) then (s, some 0)
  else if !s.pmaster then (s, some 2)
  else if up then
    match s.setSt k with
    | 4 => (s, some 2)
    | 0 =>
      let s1 := (s.members k).foldl (fun t p =>
        ((t.setExcl p 0).setMstate p (b2n (t.bayOn p))).setPort p { t.port p with registered := false }) (enterSt s k 1)
      let s2 := progress s1 k
      (s2, if s2.setSt k = 3 then some (if (s2.liveMembers k).isEmpty then 4 else 0) else none)
    | _ => (s, none)
  else
    match s.setSt k with
    | 3 =>
      if inFlightOn s k then (s, some 2)
      else
        let s1 := ((enterSt (s.setReady k false) k 4).setRegF 0x351 (0x104 + 8 * k) 4 1 0)
        let l := (s1.liveMembers k).filter s1.portUp
        let s2 := l.foldl (fun t p => t.setMstate p 6) s1
        let s3 := progress { s2 with pwr := { s2.pwr with ops := s2.pwr.ops ++ l.map fun p => (p, .stop) } } k
        (s3, if s3.setSt k = 0 then some 0 else none)
    | _ => (s, some 2)

/-- BAY_POWER_ON (R285): the next live member without power, in port order. -/
def bayPowerOn (s : State) : State :=
  match firstNat (fun p => s.inSet p && (s.setSt (s.setNo p) == 1 && (s.live p && !(s.bayOn p)))) allPorts with
  | some p => if s.pmaster then progressOf ((s.setBay p true).setMstate p 1) p else s
  | none => s
/-- A powered member is not up within 200 mcy (R285). -/
def linkUpTimeout (s : State) (p : Nat) : State :=
  if s.inSet p && (s.setSt (s.setNo p) == 1 && (s.live p && (s.bayOn p && !(s.portUp p)))) then exclude s p 1 else s
/-- A started member is not ready after SPUTMO mcy (R285). -/
def sputmo (s : State) (p : Nat) : State :=
  if s.inSet p && (s.setSt (s.setNo p) == 2 && (s.live p && s.mstate p == 4)) then exclude s p 2 else s

/-! ### Inrush (R287, R288) -/

/-- Entry `i` of a model's curve. -/
def State.curve (s : State) (m i : Nat) : Nat := s.regF (0x360 + m) (0x200 + 4 * (i / 2)) (i % 2 * 16) 16
def State.elec (s : State) (m : Nat) : Nat := s.regF (0x360 + m) 0x104 0 16

/-- The largest of `n` entries from `i` on. -/
def curveMax (s : State) (m i : Nat) : Nat → Nat
  | 0 => 0
  | n + 1 => max (s.curve m i) (curveMax s m (i + 1) n)

/-- add(h) of R288 for half-cycle a + j: times in units of 1/(32 F) ms, where F is BELF_FREQ. -/
def addAt (s : State) (m slotoff f : Nat) (j : Nat) : Nat :=
  let th : Int := 1048576000
  let o : Int := Int.ofNat slotoff * 32768000
  let ms : Int := 32 * Int.ofNat f
  let lo := Int.ofNat j * th - o - ms
  let hi := (Int.ofNat j + 1) * th - o + ms
  if hi ≤ 0 then 0
  else if 2560 * ms ≤ lo then s.curve m 255
  else
    let i0 := (lo / (10 * ms)).toNat
    let i1 := min ((hi + 10 * ms - 1) / (10 * ms)).toNat 256
    curveMax s m i0 (i1 - i0)

/-- The 384 contributions of a drive of a port's model. -/
def addList (s : State) (p : Nat) : List Nat :=
  (rangeFrom 0 384).map (addAt s (s.modelNo p) (s.regF 0x350 0x144 0 5) (max 1 (belfFreq s.belf)))

/-- Sum of ELEC over powered bays. -/
def elecSum (s : State) : Nat := allPorts.foldl (fun a p => if s.bayOn p then a + s.elec (s.modelNo p) else a) 0
/-- A port's contribution to the half-cycle `j` places on. -/
def portLoadAt (x : Port) (j : Nat) : Nat :=
  match x.load with
  | some (l, c) => l.getD j c
  | none => 0
/-- Sum of the contributions of bound and started drives. -/
def loadSum (s : State) (j : Nat) : Nat := s.ports.foldl (fun a p => a + portLoadAt p.2 j) 0
/-- Signed CORR. -/
def State.corr (s : State) : Int := sgn (s.reg 0x350 0x140).toNat 16
/-- The predicted load `j` half-cycles on (R288). -/
def predicted (s : State) (j : Nat) : Int :=
  Int.ofNat (s.regF 0x350 0x134 0 16 + elecSum s + loadSum s j) + s.corr
/-- PWR_MEAS[15:0]: the highest prediction in the ring. -/
def measUpdate (s : State) : State :=
  let base := Int.ofNat (s.regF 0x350 0x134 0 16 + elecSum s) + s.corr
  s.setRegF 0x350 0x148 0 16 (min 65535 ((rangeFrom 0 384).foldl (fun a j => max a (base + Int.ofNat (loadSum s j)).toNat) 0))

/-! ### Admission (R289) -/

/-- Start of the present half-cycle, in Belfry time units. -/
def halfStart (s : State) : Nat := s.time / 32768 * 32768

/-- Every half-cycle fits with the member started `k` half-cycles on. -/
def fitsAt (s : State) (pred : List Int) (adds : List Nat) (c k : Nat) : Bool :=
  (rangeFrom k 384).all fun h => decide (pred.getD h 0 + Int.ofNat (adds.getD (h - k) c) ≤ Int.ofNat s.pwr.budget)

/-- Binds a member to comparator BCMP32 + c, to start `k` half-cycles on. -/
def bindAt (s : State) (p c k : Nat) (adds : List Nat) : State :=
  let t := halfStart s + k * 32768 + s.regF 0x350 0x144 0 5 * 1024
  let s1 := armBcmp (s.setBcmpTarget (32 + c) t) c true
  let s2 := (s1.setBind c (2 ^ 31 + p)).setMstate p 3
  { s2.setPort p { s2.port p with load := some (List.replicate k 0 ++ adds, s.curve (s.modelNo p) 255) } with
    pwr := { s2.pwr with queue := s2.pwr.queue.filter (· ≠ p), bound := s2.pwr.bound ++ [p] } }

/-- One pass over the queued members (R289). -/
def admitAll (s : State) : List Nat → State
  | [] => s
  | p :: t =>
    match firstNat (fun c => !(regBit (s.bindWord c) 31)) (rangeFrom 0 32) with
    | none => s
    | some c =>
      let adds := addList s p
      let c255 := s.curve (s.modelNo p) 255
      let fixed := s.regF 0x350 0x134 0 16 + elecSum s
      if adds.any (fun a => decide (s.pwr.budget < fixed + a)) || decide (s.pwr.budget < fixed + c255) then
        admitAll ((exclude s p 3).irqBit 0x350 4) t
      else
        let lead := s.regF 0x350 0x144 16 5
        let look := max 1 (s.regF 0x350 0x144 8 6)
        let pred := (rangeFrom 0 (lead + look + 384)).map (predicted s)
        match firstNat (fitsAt s pred adds c255) (rangeFrom lead look) with
        | some k => admitAll (bindAt s p c k adds) t
        | none => s

/-- The ring advances one place (R288). -/
def ringAdvance (s : State) : State :=
  let s1 : State := { s with pwr := { s.pwr with prev := loadSum s 0 } }
  (s1.ports.filter fun x => x.2.load.isSome).foldl (fun t x =>
    t.setPort x.1 { t.port x.1 with load := (t.port x.1).load.map fun l => (l.1.drop 1, l.2) }) s1

/-- A half-cycle boundary (R288, R289). -/
def admission (s : State) : State :=
  if s.belf.phase = 0 ∨ s.belf.phase = 0x8000 then
    let s1 := ringAdvance s
    let s2 : State := { s1 with pwr := { s1.pwr with budget := s1.regF 0x350 0x130 0 16 } }
    let s3 := if s2.regB 0x350 oCtl 0 && (s2.pmaster && !s2.pwr.hold) then admitAll s2 s2.pwr.queue else s2
    measUpdate s3
  else s

/-- A bound comparator fires (R289): START is due, or after a LATE firing the member is queued again at the head. -/
def pwrFire (s : State) (c : Nat) (late : Bool) : State :=
  let w := s.bindWord c
  if regBit w 31 then
    let p := regFld w 0 8
    if late then
      let s1 := (unbind s p).setMstate p 2
      { s1 with pwr := { s1.pwr with queue := p :: s1.pwr.queue } }
    else
      let s1 := s.setBind c 0
      { s1 with pwr := { s1.pwr with bound := s1.pwr.bound.filter (· ≠ p), ops := s1.pwr.ops ++ [(p, .start)] } }
  else s

/-! ### Feedback (R290, R291) -/

/-- CORR after a measurement of `meas`. -/
def corrUpdate (s : State) (meas : Nat) : Int :=
  let err := Int.ofNat meas - Int.ofNat (s.regF 0x350 0x134 0 16 + elecSum s + s.pwr.prev)
  let c := s.corr + (err - s.corr) / Int.ofNat (2 ^ s.regF 0x350 0x138 8 4)
  let c1 := if s.regB 0x350 0x138 1 ∧ c < 0 then 0 else c
  max (-32768) (min 32767 c1)

/-- A write of PWR_FBCTL, after which CORR is 0 while FBEN is 0 (R290). -/
def fbctlWrite (s : State) (v : Word32) : State :=
  let s1 := s.setReg 0x350 0x138 (v &&& w32 0xFFFF0F73)
  if regBit v 0 then s1 else measUpdate (s1.setReg 0x350 0x140 0)

/-- The update of a boundary at h0 + 250 µs (R290, R291). -/
def feedbackUpdate (s : State) : State :=
  let fben := s.regB 0x350 0x138 0
  match s.pwr.peak with
  | some p =>
    let meas := ceilDiv p (s.regF 0x350 0x138 16 16)
    let s1 := s.setRegF 0x350 0x140 0 16 (if fben then uns (corrUpdate s meas) 16 else 0)
    let s2 : State := { (s1.setRegF 0x350 oStat 30 1 0).setRegF 0x350 0x148 16 16 (min 65535 meas) with
      pwr := { s1.pwr with peak := none, missed := 0, hold := decide (s1.pwr.budget < meas) } }
    let s3 := s2.setRegF 0x350 oStat 29 1 (b2n (decide (s.pwr.budget < meas)))
    measUpdate (if s.pwr.budget < meas then requeueBound (s3.irqBit 0x350 6) else s3)
  | none =>
    let n := satAdd s.pwr.missed 1 4
    let s1 : State := { s with pwr := { s.pwr with missed := n } }
    if n = 4 then
      let s2 := if s.pwr.missed = 4 then s1 else (s1.setRegF 0x350 oStat 30 1 1).irqBit 0x350 5
      let f := Int.ofNat (s.regF 0x350 0x13C 0 16)
      measUpdate (s2.setRegF 0x350 0x140 0 16 (if fben then uns (max s2.corr (min 32767 f)) 16 else 0))
    else s1

/-! ### Register writes (R285, R286, R287, R295) -/

/-- A set becomes non-empty (DOWN, flag 0) or empty (READY, flag 1) when its membership changes (R284). -/
def setShape (old s : State) (k : Nat) : State :=
  if (old.members k).isEmpty && !(s.members k).isEmpty then (s.setReg 0x351 (0x104 + 8 * k) 0).setReady k false
  else if !(old.members k).isEmpty && (s.members k).isEmpty then (s.setReg 0x351 (0x104 + 8 * k) 3).setReady k true
  else s

/-- A set with members is not DOWN. -/
def setBusy (s : State) (k : Nat) : Bool := !(s.members k).isEmpty && s.setSt k != 0

/-- A write of a port-map word, the page unlocked (R287, R295). -/
def pmapWrite (s : State) (p : Nat) (v : Word32) : State × Option BusCause :=
  let m : Word32 := w32 0xBF0F0000
  let old := s.pmap p
  let new := (old &&& ~~~m) ||| (v &&& m)
  if new = old then (s, none)
  else if (regBit old 31 && setBusy s (regFld old 24 6)) || (regBit new 31 && setBusy s (regFld new 24 6)) then (s, some .binding)
  else if regBit new 31 && !(s.regB (0x360 + regFld new 16 4) 0x100 0) then (s, some .binding)
  else
    let s1 := s.setReg 0x352 (0x100 + 4 * p) new
    (setShape s (setShape s s1 (regFld old 24 6)) (regFld new 24 6), none)

/-- A model is in use by a member of a set that is not DOWN (R295). -/
def modelBusy (s : State) (m : Nat) : Bool := allPorts.any fun p => s.inSet p && (s.modelNo p == m && s.setSt (s.setNo p) != 0)

/-- SET_STAT as read: EXCL and MEMBERS are counted, READY is the flag. -/
def setStatRead (s : State) (k : Nat) : Word32 :=
  let m := s.members k
  w32 ((m.filter fun p => s.excl p != 0).length * 2 ^ 24 + m.length * 2 ^ 16 + b2n (s.dropHold k) * 16 + b2n (s.ready k) * 8 + s.setSt k)

/-- Bits of the PWR_DON words. -/
def donRead (s : State) (i : Nat) : Word32 :=
  w32 ((rangeFrom 0 32).foldl (fun a b => a + (if 32 * i + b < 182 ∧ s.dom (32 * i + b) = true then 2 ^ b else 0)) 0)

end Sys2Proof.Machine
end

