-- ==== Sys2Proof/Machine/Drives.lean ====
section
/-! DEFINITION. Drive ports: requests and rings, link programs, fencing (09_drives_power_sets.md R271-R283, R292-R294, R296). -/
namespace Sys2Proof.Machine

/-! ### The end of a drive command (R276) -/

/-- Identity of a port's data transfers (R276). -/
def dataId (p : Nat) : MasterId := if p < 120 then 17 else 18

/-- What a drive answered: SCSI status, sense, bytes not transferred, data in; for a registration, whether a reservation is held; for CHECK POWER MODE, whether the drive is active or
idle. -/
structure Answer where
  sstat : Nat := 0
  skey : Nat := 0
  asc : Nat := 0
  ascq : Nat := 0
  resid : Nat := 0
  data : List Byte := []
  held : Bool := false
  active : Bool := true

/-- STATUS of an answer (R276). -/
def ansStatus (a : Answer) : Nat := if a.sstat = 0 then 0 else if a.sstat = 2 then 1 else if a.sstat = 0x18 then 2 else 9
/-- W5 of an answer (R274). -/
def ansW5 (a : Answer) : Nat :=
  a.resid % 2 ^ 32 + 2 ^ 32 * (a.sstat % 256) + 2 ^ 40 * (a.skey % 16) + 2 ^ 48 * (a.asc % 256) + 2 ^ 56 * (a.ascq % 256)

/-- The end of a ring's slot: W5 to W7 in one line write, then the doorbell (R276). -/
def slotDone (s : State) (addr : Nat) (w6 : Nat) (w5 status : Nat) : State :=
  match dmaWrite s 17 (addr + 40) (leBytes 8 w5 ++ leBytes 8 w6 ++ leBytes 8 (3 + status * 256)) with
  | (s1, some _) => s1
  | (s1, none) => if bit w6 13 then dmaRing s1 17 (fld w6 0 6) (fld w6 8 5) else s1

/-- Counts a fencing command (SASP_FSTAT). -/
def fenceCount (s : State) (good : Bool) : State :=
  if good then s.setRegF 0x2FF 0x114 0 9 (s.regF 0x2FF 0x114 0 9 + 1)
  else s.setRegF 0x2FF 0x114 16 8 (satAdd (s.regF 0x2FF 0x114 16 8) 1 255)

/-- A fencing command of port `p` has ended (R292, R293); a drive counts once, when its last command has ended. -/
def fenceDone (s : State) (p : Nat) (src : DSrc) (status : Nat) (held : Bool) : State :=
  let s1 := if src = .register ∧ status = 0 ∧ held = false then s else fenceCount s (status == 0)
  match src with
  | .register =>
    if status = 0 ∧ held = false then { s1 with pwr := { s1.pwr with ops := (p, .reserve) :: s1.pwr.ops } }
    else progressOf (s1.setPort p { s1.port p with registered := true }) p
  | .reserve => progressOf (s1.setPort p { s1.port p with registered := true }) p
  | _ =>
    let s2 := s1.setRegF 0x2FF (0x118 + p / 32 * 4) (p % 32) 1 0
    let s3 := progressOf s2 p
    if s3.inSet p && (s3.setSt (s3.setNo p) == 3 && (!(s3.dropHold (s3.setNo p)) &&
        (s3.liveMembers (s3.setNo p)).all fun q => !(preemptPending s3 q))) then s3.setReady (s3.setNo p) true
    else s3

/-- A TEST UNIT READY of PWR answered GOOD: the member is ready, and registered before its set can become READY (R285, R292). -/
def turGood (s : State) (p : Nat) : State :=
  if s.mstate p = 4 then
    let s1 := s.setMstate p 5
    if (s1.port p).rate = 3 then progressOf (s1.setPort p { s1.port p with registered := true }) p
    else if (s1.port p).registered ∨ s1.pwr.ops.contains (p, .register) then progressOf s1 p
    else { s1 with pwr := { s1.pwr with ops := s1.pwr.ops ++ [(p, .register)] } }
  else s

/-- Every drive command of a FLUSH has ended: its command completes (R244). -/
def flushEnd (s : State) (i : Nat) : State :=
  if s.pwr.ops.any (fun o => o.2 == .flush i) || s.ports.any (fun x => x.2.active.any fun r => r.src == .flush i) then s
  else match s.ift i with
    | some e => qeEnd s i (if e.bad then 4 else 0) 0
    | none => s

/-- A drive command of port `p` has left its tag with a status. -/
def reqDone (s : State) (p : Nat) (r : DReq) (status w5 : Nat) (held : Bool) : State :=
  match r.src with
  | .ring _ addr => slotDone s addr r.w6.toNat w5 status
  | .start => s
  | .stop => progressOf s p
  | .tur => if status = 0 then turGood s p else s
  | .probe => s
  | .flush i =>
    let s1 := match s.ift i with
      | some e => if status = 0 then s else s.setIft i (some { e with bad := true })
      | none => s
    flushEnd s1 i
  | src => fenceDone s p src status held

/-- Direction of a command's data. -/
inductive Dir where
  | none | dataIn | dataOut
deriving DecidableEq, Repr

/-- A drive command of R272 by opcode: its data direction; none where the device does not send it. -/
def cmdDir (op sa : Nat) : Option Dir :=
  match op with
  | 0x88 => some .dataIn | 0x8A => some .dataOut | 0x91 => some .none | 0x1B => some .none | 0x4D => some .dataIn
  | 0x5A => some .dataIn | 0x55 => some .dataOut | 0x5E => some .dataIn | 0x5F => some .dataOut
  | 0x12 => some .dataIn | 0xA0 => some .dataIn | 0x00 => some .none | 0x03 => some .dataIn
  | 0x95 => if sa = 0 then some .dataIn else none
  | 0x94 => if 1 ≤ sa ∧ sa ≤ 4 then some .none else none
  | _ => none

/-- W5 of a request that ends without a drive's answer: none of its bytes has been transferred (R274). -/
def noBytes (cdb : List Byte) (len : Nat) : Nat :=
  if cmdDir (leAt cdb 0 1) (leAt cdb 1 1 % 32) = some .none then 0 else len % 2 ^ 32

/-- Ends every active command of a port with a status (R279, R294). -/
def endAll (s : State) (p status : Nat) : State :=
  let l := (s.port p).active
  l.foldl (fun t r => reqDone t p r status (noBytes r.cdb r.len) false) (s.setPort p { s.port p with active := [] })

/-- Unsent stops and flushes of a port that has lost its link count as answered. -/
def dropOps (s : State) (p : Nat) : State :=
  let l := s.pwr.ops.filter fun o => o.1 = p
  let s1 : State := { s with pwr := { s.pwr with ops := s.pwr.ops.filter fun o =>
    !(o.1 == p && (match o.2 with | .stop => true | .flush _ => true | .tur => true | _ => false)) } }
  l.foldl (fun t o => match o.2 with
    | .stop => progressOf t p
    | .flush i => reqDone t p { src := .flush i, cdb := [] } 4 0 false
    | _ => t) s1

/-! ### Link state (R279, R286) -/

/-- UP changed between `old` and `s`: LINKUP or LINKDOWN, SASG_STAT, drop-out of a READY set, progress of a set. -/
def upEdge (old s : State) (p : Nat) : State :=
  if old.portUp p == s.portUp p then s
  else if s.portUp p then
    let s1 := ((s.irqBit (portPage p) 0).setRegF (grpPage (p / 8)) (grpOff (p / 8) + 4) (p % 8) 1 1)
    let s2 : State := if s1.regB 0x2FF (0x118 + p / 32 * 4) (p % 32) then
        -- a SATA drive takes no reservation and is reached by no partner (R273)
        (if (s1.port p).rate = 3 then s1.setRegF 0x2FF (0x118 + p / 32 * 4) (p % 32) 1 0
         else { s1 with pwr := { s1.pwr with ops := (p, .preempt) :: s1.pwr.ops } })
      else s1
    progressOf s2 p
  else
    let s1 := ((s.irqBit (portPage p) 1).setRegF (grpPage (p / 8)) (grpOff (p / 8) + 4) (p % 8) 1 0)
    dropOps (dropOut s1 p 4) p

/-- A port as its drive's loss or a state change leaves it outside the up states. -/
def closeTags (s : State) (p : Nat) : State := s.setPort p { s.port p with opened := false, rate := 0 }

/-! ### Link programs (R278-R281) -/

def linkKey (g e : Nat) : Nat := g * 128 + e
/-- A committed entry. -/
def State.link (s : State) (g e : Nat) : Nat := sget s.links (linkKey g e) 0

/-- Fields of an entry (R278). -/
def lkState (x : Nat) : Nat := fld x 56 6
def lkEvent (x : Nat) : Nat := fld x 51 5
def lkNext (x : Nat) : Nat := fld x 45 6
def lkAction (x : Nat) : Nat := fld x 40 5
def lkUnit (x : Nat) : Nat := fld x 38 2
def lkTimer (x : Nat) : Nat := fld x 24 14
def lkCode (x : Nat) : Nat := fld x 8 16
def lkLimit (x : Nat) : Nat := fld x 0 8

/-- The entry taken on an event: the lowest-numbered VALID match whose action is not reserved (R279). -/
def linkMatch (s : State) (g st ev : Nat) : Option Nat :=
  firstNat (fun e => let x := s.link g e
    bit x 63 && (lkState x == st && (lkEvent x == ev && decide (lkAction x < 0x0C)))) (rangeFrom 0 128)

/-- A port enters SATA_HELD with its PHY off (R280): its bay is unpowered, its member excluded with reason SATA, SATA_HELD reported (R3);
requests on it complete with LINK (R276). -/
def sataHold (s : State) (p : Nat) : State :=
  let s0 := endAll (s.setPort p { s.port p with lp := 9, opened := false, rate := 0, retry := 0 }) p 4
  let s1 := ((({ s0 with out := .link p 11 :: s0.out } : State).setBay p false).setPort p { s0.port p with load := none }).irqBit (portPage p) 3
  if s1.inSet p then exclude s1 p 6 else s1

/-- LINK_UP_SATA (R280): in solo mode the tags open; otherwise the port is held in SATA_HELD with its bay unpowered. -/
def sataUp (s : State) (p : Nat) : State :=
  if s.pstate = 0 then s.setPort p { s.port p with opened := true, rate := 3, retry := 0 } else sataHold s p

/-- What an action does, and the event it raises at once (R279, R280, R294). -/
def linkAction (s : State) (p act code : Nat) : State × Option Nat :=
  let tell := fun (t : State) => { t with out := .link p act :: t.out }
  match act with
  | 0 => (s, none)
  | 4 => if s.regB (grpPage (p / 8)) (grpOff (p / 8)) 1 then (tell (s.setPort p { s.port p with snw := 2 }), none) else (s, some 8)
  | 5 => if s.regB (grpPage (p / 8)) (grpOff (p / 8)) 0 then (tell (s.setPort p { s.port p with snw := 1 }), none) else (s, some 8)
  | 6 => (s.setPort p { s.port p with opened := true, rate := (s.port p).snw, retry := 0 }, none)
  | 7 => (sataUp s p, none)
  | 8 => (endAll (closeTags s p) p 4, none)
  | 9 => (tell (endAll s p 6), none)
  | 10 => ((s.setRegF (portPage p) 0x118 16 16 code).irqBit (portPage p) 4, none)
  | 11 => (tell (closeTags s p), none)
  | _ => (tell s, none)

/-- The device's SAS address on port `p` (R271): the fused base address, bits [7:0] of which are 0, with `p` added. -/
def sasAddr (s : State) (p : Nat) : Nat := (s.reg 1 0x108).toNat + 2 ^ 32 * (s.reg 1 0x10C).toNat + p

/-- A port takes entry `e` on an event; the event that follows at once, if any (R279). -/
def linkTake (s : State) (p e : Nat) : State × Option Nat :=
  let x := s.link (p / 8) e
  let s0 := s.setRegF (portPage p) 0x118 0 7 e
  let r := (s.port p).retry + 1
  if lkLimit x ≠ 0 ∧ lkLimit x < r then (s0.setPort p { s0.port p with retry := r, timer := false }, some 0x0F)
  else
    let y := s0.port p
    let s1 := s0.setPort p { y with retry := if lkLimit x ≠ 0 then r else y.retry, lp := lkNext x,
                                    timer := decide (lkUnit x ≠ 3 ∧ lkTimer x ≠ 0) }
    -- R280: the IDENTIFY address frame on entry to IDENT
    linkAction (if lkNext x = 5 then { s1 with out := .identify p (sasAddr s1 p) :: s1.out } else s1) p (lkAction x) (lkCode x)

/-- An event at a port and what it raises at once (R279). The count of 64 states, 2 such events and 255 retries bounds every chain that ends:
a longer one repeats itself for ever. -/
def linkRun (s : State) (p : Nat) : Nat → Nat → State
  | 0, _ => s
  | n + 1, ev =>
    match linkMatch s (p / 8) (s.port p).lp ev with
    | none => s.setRegF (portPage p) 0x118 8 8 (satAdd (s.regF (portPage p) 0x118 8 8) 1 255)
    | some e =>
      match linkTake s p e with
      | (s1, none) => s1
      | (s1, some ev1) => linkRun s1 p n ev1

/-- An event of a port's link program (R279). -/
def linkEvent (s : State) (p ev : Nat) : State :=
  let s1 := if ev = 0 then s.setPort p { s.port p with retry := 0 } else s
  upEdge s1 (linkRun s1 p 33024 ev) p

/-- The port is disabled: its requests complete with ABORTED and DISABLE is raised (R276, R279). -/
def portDisable (s : State) (p : Nat) : State :=
  let s1 := endAll s p 6
  linkEvent (dropOut s1 p 4) p 2
/-- A port reset (R294). -/
def portReset (s : State) (p : Nat) : State := linkEvent (endAll s p 6) p 1

/-- A write to a port page's CTL (R294). -/
def portCtlWrite (s : State) (p : Nat) (v : Word32) : State :=
  let s1 := if regBit v 1 then portReset s p else s
  let s2 := s1.setReg (portPage p) oCtl (v &&& 1)
  if regBit v 0 then linkEvent s2 p 0 else portDisable s2 p

/-- A port's action for a lasting fault (R294). -/
def portLasting (s : State) (p : Nat) : State :=
  let s1 := portReset s p
  let s2 := if s1.pmaster && (s1.inSet p && (s1.setSt (s1.setNo p) == 3 && s1.live p)) then dropOut s1 p 5
    else if s1.inSet p && s1.excl p == 0 then exclude s1 p 5 else s1
  linkEvent ((endAll s2 p 6).setReg (portPage p) oCtl 0) p 2

/-- STAT of a port page. -/
def portStat (s : State) (p : Nat) : Word32 :=
  if s.dom (pdSasg (p / 8)) then
    w32 ((s.port p).lp * 2 ^ 16 + (s.port p).active.length * 2 ^ 10 + (s.port p).rate * 256 + b2n (s.present p) * 2 + b2n (s.portUp p))
  else w32 (b2n (s.present p) * 2)

/-! ### Writes of the link table (R281) -/

/-- A vendor entry may change only in TIMER, from one half to four times its loaded value, and in LIMIT, 1 to 15 where a loaded
LIMIT is not 0. -/
def vendorOk (old loaded new : Nat) : Bool :=
  let t := lkTimer new
  let same := fldSet (fldSet new 24 14 (lkTimer old)) 0 8 (lkLimit old) == old
  same && ((t == lkTimer old || decide (lkTimer loaded ≤ 2 * t ∧ t ≤ 4 * lkTimer loaded)) &&
    (lkLimit new == lkLimit old || decide (lkLimit loaded ≠ 0 ∧ 1 ≤ lkLimit new ∧ lkLimit new ≤ 15)))

/-- The limits of an operator entry. -/
def operatorOk (new : Nat) : Bool :=
  (lkAction new == 0 || (lkAction new == 8 || (lkAction new == 9 || (lkAction new == 10 || lkAction new == 11)))) &&
  ((lkNext new == 0 || (lkNext new == 10 || (lkNext new == 11 || lkNext new == lkState new))) && decide (lkState new ≤ 12))

/-- A master's write to word `hi` of entry `e` of group `g`, the page unlocked (R281). -/
def linkWrite (s : State) (g e : Nat) (hi : Bool) (v : Word32) : State × Option BusCause :=
  if !hi then ({ s with linkLo := sput s.linkLo (linkKey g e) (some v.toNat) none }, none)
  else
    let old := s.link g e
    let new := fldSet (2 ^ 32 * v.toNat + (sget s.linkLo (linkKey g e) none).getD (old % 2 ^ 32)) 62 1 (fld old 62 1)
    let good := if e < 96 then bit old 62 && vendorOk old (sget s.loaded (linkKey g e) 0) new else operatorOk new
    if good then ({ s with links := sput s.links (linkKey g e) new 0 }, none) else (s, some .access)

/-- A read of word `hi` of an entry. -/
def linkRead (s : State) (g e : Nat) (hi : Bool) : Word32 := w32 (if hi then s.link g e / 2 ^ 32 else s.link g e)

/-- The Keep loader fills a group's table with the LINKPROG entries and clears entries 96-127 (R278, R294). -/
def linkFill (s : State) (g : Nat) (prog : List Nat) : State :=
  let l := (rangeFrom 0 96).map fun e => (linkKey g e, fldSet (prog.getD e 0) 62 1 1)
  let drop := fun k => decide (k / 128 = g)
  let put := fun (m : SMap Nat) => l.foldl (fun a x => sput a x.1 x.2 0) (sdrop drop m)
  { s with links := put s.links, loaded := put s.loaded, linkLo := sdrop drop s.linkLo }

/-- A group page's offset as group, and the offset in the group's block. -/
def grpOf (n off : Nat) : Option (Nat × Nat) :=
  if off < 0x100 then none else if off < 0x800 then some (2 * (n - 240), off - 0x100)
  else if off < 0xF00 then some (2 * (n - 240) + 1, off - 0x800) else none

/-! ### Rings (R274-R277) -/

def State.ringOn (s : State) (r : Nat) : Bool := s.regB 0x2FF (0x140 + 8 * r) 31
/-- Address of ring `r`. -/
def State.ringBase (s : State) (r : Nat) : Nat := scrBase + s.regF 0x2FF (0x140 + 8 * r) 12 14 * 4096
def State.ringHead (s : State) (r : Nat) : Nat := s.regF 0x2FF (0x144 + 8 * r) 0 6

/-- A write to SASP_RBASE or PAIR_RBASE (R294): `page` and `off` name the register; HEAD follows it. -/
def rbaseWrite (s : State) (page off : Nat) (v : Word32) : State × Option BusCause :=
  let old := s.reg page off
  let new := v &&& w32 0x83FFF000
  if regBit old 31 then
    if regBit new 31 then (s, some .binding) else (s.setReg page off new, none)
  else if regBit new 31 then ((s.setReg page off new).setReg page (off + 4) 0, none)
  else (s.setReg page off new, none)

/-- A ring may issue the opcode (R272). -/
def ringMay (op : Nat) : Bool := op != 0x1B && op != 0x5F

/-- Commands of a SATA port (R273). -/
def sataMay (op : Nat) : Bool :=
  [0x88, 0x8A, 0x91, 0x1B, 0x00, 0x12, 0x95, 0x94].contains op

/-- Transfer, allocation or parameter length of a CDB, in bytes; `bs` is the port's block size (R274). -/
def cdbLen (cdb : List Byte) (bs : Nat) : Nat :=
  match leAt cdb 0 1 with
  | 0x88 => beAt cdb 10 4 * bs
  | 0x8A => beAt cdb 10 4 * bs
  | 0x4D => beAt cdb 7 2 | 0x5A => beAt cdb 7 2 | 0x55 => beAt cdb 7 2 | 0x5E => beAt cdb 7 2
  | 0x12 => beAt cdb 3 2 | 0x03 => beAt cdb 4 1 | 0xA0 => beAt cdb 6 4 | 0x95 => beAt cdb 10 4
  | _ => 0

/-- Block size of a port (SASP_LBSZ). -/
def State.blockSize (s : State) (p : Nat) : Nat := if s.regB (portPage p) 0x108 0 then 4096 else 512
/-- Commands of PWR or the fencing engine wait for the port (R277, R293). -/
def opsWaiting (s : State) (p : Nat) : Bool := s.pwr.ops.any fun o => o.1 == p
/-- A free tag. -/
def tagFree (s : State) (p : Nat) : Bool := decide ((s.port p).active.length < 32)

/-- The SATA command into which the device translates a CDB (R273). -/
def ataOf (cdb : List Byte) : Option AtaCmd :=
  match leAt cdb 0 1 with
  | 0x88 => some (.readFpdma (beAt cdb 2 8) (beAt cdb 10 4))
  | 0x8A => some (.writeFpdma (beAt cdb 2 8) (beAt cdb 10 4))
  | 0x91 => some .flushCacheExt
  | 0x1B => some (if bit (leAt cdb 4 1) 0 then .idleImmediate else .standbyImmediate)
  | 0x00 => some .checkPowerMode
  | 0x12 => some .identifyDevice
  | 0x95 => some (.reportZonesExt (beAt cdb 2 8) (leAt cdb 14 1 % 64) (beAt cdb 10 4))
  | 0x94 => some (.zacManagementOut (leAt cdb 1 1 % 32) (beAt cdb 2 8) (bit (leAt cdb 14 1) 0))
  | _ => none

/-- A command goes out on a port: the CDB as it stands, or on a SATA port its translation. -/
def driveOut (s : State) (p : Nat) (cdb data : List Byte) : State :=
  match (if (s.port p).rate = 3 then ataOf cdb else none) with
  | some c => { s with out := .sata p c data :: s.out }
  | none => { s with out := .drive p cdb data :: s.out }

/-- Sends a command on a port under a tag. -/
def sendReq (s : State) (p : Nat) (r : DReq) (data : List Byte) : State :=
  driveOut (s.setPort p { s.port p with active := (s.port p).active ++ [r] }) p r.cdb data

/-- The words of a slot break R272, R273 or R274. -/
def drbRefused (s : State) (b : List Byte) : Bool :=
  let cdb := b.take 16
  let op := leAt b 0 1
  let p := leAt b 28 1
  let dir := cmdDir op (leAt b 1 1 % 32)
  dir.isNone || (!(ringMay op) || (decide (240 ≤ p) || (leAt b 22 2 != 0 || (fld (leAt b 24 8) 41 23 != 0 ||
  (fld (leAt b 48 8) 14 50 != 0 || (fld (leAt b 56 8) 16 48 != 0 ||
  ((dir != some .none && leAt b 24 4 != cdbLen cdb (s.blockSize p)) ||
  ((s.port p).rate == 3 && !(sataMay op)))))))))

/-- The ready flag that holds a port's requests back: a port in no set is never held (R277). -/
def flagReady (s : State) (p : Nat) : Bool := !(s.inSet p) || s.ready (s.setNo p)

/-- A slot starts: OWNER = 2, HEAD advances (R275). -/
def slotStart (s : State) (r addr : Nat) (b : List Byte) : State :=
  let s1 := (dmaWrite s 17 (addr + 56) (leBytes 8 (fldSet (leAt b 56 8) 0 8 2))).1
  s1.setReg 0x2FF (0x144 + 8 * r) (w32 ((s1.ringHead r + 1) % 64))

/-- Starts the request of a slot whose words are `b` (R275-R277). -/
def drbStart (s : State) (r addr : Nat) (b : List Byte) : State :=
  let p := leAt b 28 1
  let w6 := leAt b 48 8
  let now := fun (t : State) (st : Nat) => slotDone (slotStart t r addr b) addr w6 (noBytes (b.take 16) (leAt b 24 4)) st
  if drbRefused s b then now s 5
  else if !(flagReady s p) then (if bit (leAt b 24 8) 40 then s else now s 8)
  else if !(s.portUp p) then now s 4
  else if !(tagFree s p) || opsWaiting s p then s
  else
    let cdb := b.take 16
    let req : DReq := { src := .ring r addr, cdb := cdb, buf := leAt b 16 6, len := leAt b 24 4, w6 := cell w6 }
    if cmdDir (leAt b 0 1) (leAt b 1 1 % 32) = some .dataOut then
      match dmaRead (slotStart s r addr b) (dataId p) (leAt b 16 6) (leAt b 24 4) with
      | (s1, .ok (d, false)) => sendReq s1 p req d
      | (s1, _) => slotDone s1 addr w6 (leAt b 24 4) 7
    else sendReq (slotStart s r addr b) p req []

/-- The ring engine reads slot HEAD of ring `r` and starts it if its OWNER is 1 and it holds a command of opcode `op` and service
action `sa`; a slot that R272 refuses is ended by whichever row finds it (R275). -/
def ringServe (s : State) (r op : Nat) (sa : Option Nat) : State :=
  if s.ringOn r then
    let addr := s.ringBase r + s.ringHead r * 64
    match dmaRead s 17 addr 64 with
    | (s1, .ok (b, false)) =>
      if leAt b 56 1 = 1 then
        let mine := leAt b 0 1 == op && (match sa with | some a => leAt b 1 1 % 32 == a | none => true)
        if mine || drbRefused s1 b then drbStart s1 r addr b else s1
      else s1
    | (s1, _) => s1
  else s

/-! ### Commands of PWR, the fencing engine and FLUSH (R272, R277, R285, R292) -/

/-- 64-bit key from two words of page 0x2FF. -/
def State.key64 (s : State) (off : Nat) : Nat := (s.reg 0x2FF off).toNat + 2 ^ 32 * (s.reg 0x2FF (off + 4)).toNat

/-- PERSISTENT RESERVE OUT: service action, type, and its parameter list. -/
def proutCdb (sa ty : Nat) : List Byte := [0x5F, byte sa, byte ty, 0, 0, 0, 0, 0, 24, 0, 0, 0, 0, 0, 0, 0]
def proutData (key saKey : Nat) : List Byte := beBytes 8 key ++ beBytes 8 saKey ++ List.replicate 8 0

/-- CDB and data out of a command of the device itself. -/
def opCdb (s : State) : DSrc → List Byte × List Byte
  | .start => ([0x1B, 1, 0, 0, 1, 0, 0, 0, 0, 0, 0, 0, 0, 0, 0, 0], [])
  | .stop => ([0x1B, 0, 0, 0, 0, 0, 0, 0, 0, 0, 0, 0, 0, 0, 0, 0], [])
  | .register => (proutCdb 6 0, proutData 0 (s.key64 0x100))
  | .reserve => (proutCdb 1 5, proutData (s.key64 0x100) 0)
  | .preempt => (proutCdb 4 5, proutData (s.key64 0x100) (s.key64 0x108))
  | .flush _ => (0x91 :: List.replicate 15 0, [])
  | _ => (List.replicate 16 0, [])

/-- A preempt of a port waits to be sent: no other command of the device to it goes first (R293). -/
def preemptWaits (s : State) (p : Nat) : Bool := s.pwr.ops.contains (p, .preempt)

/-- Sends the first waiting command that satisfies `p` on a port that is up with a free tag (R277). -/
def opSend (s : State) (want : Nat → DSrc → Bool) : State :=
  match s.pwr.ops.find? fun o => want o.1 o.2 && ((o.2 == .preempt || !(preemptWaits s o.1)) && (s.portUp o.1 && tagFree s o.1)) with
  | none => s
  | some o =>
    let c := opCdb s o.2
    let s1 : State := { s with pwr := { s.pwr with ops := s.pwr.ops.erase o } }
    let s2 := if o.2 = .start then (s1.setMstate o.1 4) else s1
    sendReq s2 o.1 { src := o.2, cdb := c.1 } c.2

/-- START STOP UNIT (R272, R289): the lowest port whose START is due, else a waiting stop; the power master alone sends it (R283). -/
def startStop (s : State) : State :=
  if s.pmaster then
    match firstNat (fun p => s.pwr.ops.contains (p, .start) && (!(preemptWaits s p) && (s.portUp p && tagFree s p))) allPorts with
    | some p => opSend s fun q x => q == p && x == .start
    | none => opSend s fun _ x => x == .stop
  else s

/-- A command that PWR sends to a port of its own: TEST UNIT READY while a set spins up (R285), or a probe. -/
def pwrProbe (s : State) (p op : Nat) : State :=
  if s.portUp p && (tagFree s p && (!(preemptWaits s p) && ((s.port p).rate != 3 || sataMay op))) then
    let cdb := byte op :: List.replicate 15 0
    if op = 0 then
      (if s.inSet p && (s.setSt (s.setNo p) == 2 && s.mstate p == 4) then sendReq s p { src := .tur, cdb := cdb } [] else s)
    else sendReq s p { src := .probe, cdb := cdb } []
  else s

/-- The fencing engine starts a command on every live drive that is up (R292, R293), but on no SATA drive (R273); a preempt of a drive
that is seated and not up is recorded. -/
def fenceStart (s : State) (op : DSrc) : State :=
  allPorts.foldl (fun t p =>
    if t.portUp p then
      (if t.live p && (t.port p).rate != 3 then { t with pwr := { t.pwr with ops := t.pwr.ops ++ [(p, op)] } } else t)
    else if op = .preempt ∧ t.present p = true then t.setRegF 0x2FF (0x118 + p / 32 * 4) (p % 32) 1 1 else t) s

/-- A fencing command is unsent or under way: SASP_FSTAT.BUSY. -/
def fenceBusy (s : State) : Bool :=
  let f := fun (x : DSrc) => x == .register || (x == .reserve || x == .preempt)
  s.pwr.ops.any (fun o => f o.2) || s.ports.any fun x => x.2.active.any fun r => f r.src

/-- A write to SASP_FCTL (R292-R294). -/
def fctlWrite (s : State) (v : Word32) : State :=
  if fenceBusy s then s
  else
    let s0 := if regBit v 0 || regBit v 1 then s.setReg 0x2FF 0x114 0 else s
    let s1 := if regBit v 0 then fenceStart s0 .register else s0
    if regBit v 1 then fenceStart s1 .preempt else s1

/-! ### Ends and timeouts of drive commands (R276) -/

/-- The drive answers the command at place `k` of the port's active list. -/
def driveAnswer (s : State) (p k : Nat) (a : Answer) : State :=
  match (s.port p).active[k]? with
  | none => s
  | some r =>
    let s1 := s.setPort p { s.port p with active := (s.port p).active.eraseIdx k }
    -- R273: TEST UNIT READY of a SATA drive is GOOD where it reports active or idle
    let st := if (s.port p).rate = 3 ∧ leAt r.cdb 0 1 = 0 ∧ a.active = false ∧ ansStatus a = 0 then 1 else ansStatus a
    match r.src with
    | .ring _ _ =>
      if a.data.isEmpty then reqDone s1 p r st (ansW5 a) a.held
      else match dmaWrite s1 (dataId p) r.buf (a.data.take r.len) with
        | (s2, none) => reqDone s2 p r (if stillPoisoned s2 r.buf (a.data.take r.len).length then 7 else st) (ansW5 a) a.held
        | (s2, some _) => reqDone s2 p r 7 (ansW5 a) false
    | _ => reqDone s1 p r st (ansW5 a) a.held

/-- No answer within SASP_TMO: the command is aborted on the link (R276). -/
def driveTimeout (s : State) (p k : Nat) : State :=
  if s.regF (portPage p) 0x10C 0 16 = 0 then s
  else match (s.port p).active[k]? with
    | none => s
    | some r => reqDone (s.setPort p { s.port p with active := (s.port p).active.eraseIdx k }) p r 3 (noBytes r.cdb r.len) false

/-! ### Bays (R282, R283, R296) -/

/-- A debounced change of BAY_PRSNT_N (R282, R283, R286, R296). -/
def presenceChange (s : State) (p : Nat) (seated : Bool) : State :=
  if s.present p == seated then s
  else
    let s1 := ((s.setRegF (portPage p) 0x110 9 1 (b2n seated)).irqBit (portPage p) 2)
    if seated then s1
    else
      -- the bay's power goes first, and with the drive its contribution; `live` is that of the member that was there
      let s2 := if s.pmaster then ((s1.setBay p false).setPort p { s1.port p with load := none }) else s1
      let s3 := if !s.pmaster then s2 else if s.inSet p && (s.setSt (s.setNo p) == 3 && s.live p) then
          exclude (((s2.setReady (s.setNo p) false).setRegF 0x351 (0x104 + 8 * s.setNo p) 4 1 1).irqBit 0x350 2) p 4
        else if s.inSet p && s.live p then exclude s2 p 7 else s2
      progressOf s3 p

/-- BAY_OFF (R283): presence is lost or the bay's power is removed. -/
def bayOff (s : State) (p : Nat) : State := if s.present p && s.bayOn p then s else linkEvent s p 0x0D

/-- An invalid dword or disparity error (R294). -/
def invalidDword (s : State) (p : Nat) : State :=
  let cyc := s.belf.cycle.toNat
  let x := s.port p
  let s1 := s.setPort p { x with dwords := if x.dwCycle = cyc then x.dwords + 1 else 1, dwCycle := cyc }
  (s1.setRegF (portPage p) 0x114 16 16 (satAdd (s1.regF (portPage p) 0x114 16 16) 1 0xFFFF)).correctable (portPage p)

/-- ERR_RATE (R279). -/
def errRate (s : State) (p : Nat) : State :=
  if (s.port p).dwCycle = s.belf.cycle.toNat ∧ s.regF (grpPage (p / 8)) (grpOff (p / 8)) 8 8 < (s.port p).dwords then linkEvent s p 0x0E else s

/-- PD_SASG of a group goes off (R48): its ports return to RESET and their requests complete with ABORTED. -/
def sasgOff (s : State) (g : Nat) : State :=
  ((rangeFrom (8 * g) 8).foldl (fun t p =>
    let t1 := endAll t p 6
    upEdge t1 (t1.setPort p { t1.port p with lp := 0, opened := false, rate := 0, timer := false, retry := 0 }) p) s).setDom (pdSasg g) false

/-! ### Page writes and reads -/

def saspWrite (s : State) (locked : Bool) (n off : Nat) (v : Word32) : Option (State × Option BusCause) :=
  if n < 240 then
    match off with
    | 0x008 => some (portCtlWrite s n v, none)
    | _ => none
  else if n < 255 then
    match grpOf n off with
    | some (g, sub) => if 0x300 ≤ sub then
        (if locked then some (s, none) else some (linkWrite s g ((sub - 0x300) / 8) (sub % 8 == 4) v)) else none
    | none => none
  else if off = 0x110 then some (fctlWrite s v, none)
  else match arrIx off 0x140 8 48 with
    | some (_, 0) => some (rbaseWrite s 0x2FF off v)
    | _ => none

def saspRead (s : State) (n off : Nat) : Option Word32 :=
  if n < 240 then (if off = oStat then some (portStat s n) else none)
  else if n < 255 then
    match grpOf n off with
    | some (g, sub) => if 0x300 ≤ sub then some (linkRead s g ((sub - 0x300) / 8) (sub % 8 == 4)) else none
    | none => none
  else if off = 0x114 then some (w32 (b2n (fenceBusy s) * 2 ^ 31) ||| s.reg 0x2FF 0x114)
  else none

end Sys2Proof.Machine
end

