-- ==== Sys2Proof/Machine/PairPort.lean ====
section
/-! DEFINITION. The pair ports: flits, the reliable channel and messages (10_transport_pair.md R306-R308). -/
namespace Sys2Proof.Machine

def pairPage (n : Nat) : Nat := 0x320 + n
def State.pport (s : State) (n : Nat) : PPort := sget s.plink.ports n {}
def State.setPport (s : State) (n : Nat) (x : PPort) : State :=
  { s with plink := { s.plink with ports := sput s.plink.ports n x {} } }
/-- The port is up: STAT.UP while PD_PAIR is on. -/
def State.pairUp (s : State) (n : Nat) : Bool := s.regB (pairPage n) oStat 0 && s.dom (pdPair n)
/-- Ports that are up, ascending. -/
def State.upPorts (s : State) : List Nat := [0, 1, 2, 3].filter s.pairUp
/-- The lowest-numbered port that is up. -/
def State.deltaPort (s : State) : Option Nat := s.upPorts.head?

/-! ### Sending (R307, R308) -/

/-- Zeros that pad a payload of `n` bytes to a multiple of 8. -/
def msgPad (n : Nat) : Nat := (8 - n % 8) % 8
/-- Bytes of a message: header, payload, padding. -/
def msgBytes (type tag : Nat) (payload : List Byte) : List Byte :=
  byte type :: (List.replicate 3 0 ++ beBytes 4 payload.length ++ beBytes 8 tag ++ payload ++ List.replicate (msgPad payload.length) 0)

/-- A byte string cut into `k` flit payloads of 248 bytes, the last padded with zeros (a TYPE 0 header). -/
def chop : Nat → List Byte → List (List Byte)
  | 0, _ => []
  | k + 1, l => if l.isEmpty then [] else ((l ++ List.replicate 248 0).take 248) :: chop k (l.drop 248)

/-- Numbers flit payloads from an FSEQ on. -/
def numberFlits (q : Nat) : List (List Byte) → List (Nat × List Byte)
  | [] => []
  | f :: t => (q % 65536, f) :: numberFlits (q + 1) t

/-- The 256 bytes of a flit (R306): FSEQ, FKIND, the 248 bytes of its payload, FCRC. -/
def flitBytes (fseq kind : Nat) (payload : List Byte) : List Byte :=
  let b := beBytes 2 fseq ++ [byte kind, 0] ++ payload
  b ++ beBytes 4 (crcInv b)
/-- The most MSG flits without an acknowledgement that a port has sent (R307). -/
def flitWindow : Nat := 1024
/-- Puts MSG flits out on a port. -/
def msgFlits (s : State) (n : Nat) (l : List (Nat × List Byte)) : State :=
  l.foldl (fun t f => { t with out := .flit n (flitBytes f.1 0 f.2) :: t.out }) s
/-- FSEQ of the next MSG flit, which IDLE and CTRL flits repeat (R306). -/
def PPort.nextSeq (x : PPort) : Nat := match x.unacked.drop flitWindow with
  | f :: _ => f.1
  | [] => x.fseq

/-- Sends a message on a port: its flits are kept until they are acknowledged, and those beyond the window wait (R307). -/
def pairSend (s : State) (n type tag : Nat) (payload : List Byte) : State :=
  let b := msgBytes type tag payload
  let x := s.pport n
  let fl := numberFlits x.fseq (chop (b.length / 248 + 1) b)
  let s1 := s.setPport n { x with unacked := x.unacked ++ fl, fseq := (x.fseq + fl.length) % 65536 }
  msgFlits { s1 with out := .pair n type tag payload :: s1.out } n (fl.take (flitWindow - x.unacked.length))

/-- A CTRL flit: ACKSEQ, the next FSEQ expected, and NAK (R306). -/
def ctrlSend (s : State) (n : Nat) (nak : Bool) : State :=
  let x := s.pport n
  { s with out := .flit n (flitBytes x.nextSeq 2 (beBytes 2 x.expect ++ byte (b2n nak) :: List.replicate 245 0)) :: s.out }
/-- An IDLE flit. -/
def idleSend (s : State) (n : Nat) : State :=
  { s with out := .flit n (flitBytes (s.pport n).nextSeq 1 (List.replicate 248 0)) :: s.out }

/-- Every flit sent from ACKSEQ onward is sent again (R307). -/
def flitResend (s : State) (n : Nat) : State := msgFlits s n ((s.pport n).unacked.take flitWindow)

/-! ### Receiving (R306-R308) -/

/-- The messages at the start of a port's stream, which ends at a flit's end; a TYPE 0 header pads the rest of its flit. -/
def parseMsgs : Nat → List Byte → List PairMsg × List Byte
  | 0, b => ([], b)
  | k + 1, b =>
    if b.isEmpty then ([], [])
    else if leAt b 0 1 = 0 then parseMsgs k (b.drop (if b.length % 248 = 0 then 248 else b.length % 248))
    else
      let len := beAt b 4 4
      let tot := 16 + len + msgPad len
      if b.length < 16 ∨ b.length < tot then ([], b)
      else
        let r := parseMsgs k (b.drop tot)
        ({ type := leAt b 0 1, tag := beAt b 8 8, payload := (b.drop 16).take len } :: r.1, r.2)

/-- A distance from `a` to `b` in sequence numbers. -/
def seqAhead (a b : Nat) : Nat := (65536 + b - a) % 65536

/-- The flits before ACKSEQ are acknowledged, and as many that waited are sent; an ACKSEQ outside the flits sent changes nothing. -/
def flitAck (s : State) (n ack : Nat) : State :=
  let x := s.pport n
  match x.unacked with
  | [] => s
  | f :: _ =>
    let k := seqAhead f.1 ack
    if k ≤ min flitWindow x.unacked.length then
      msgFlits (s.setPport n { x with unacked := x.unacked.drop k }) n ((x.unacked.drop flitWindow).take k)
    else s

/-- An FCRC failure, or a gap up to flit `q`: CTRL with NAK, and the MSG flits up to the expected one are discarded. A flit that only
goes on with the run being discarded is no further gap (R307). -/
def flitGap (s : State) (n : Nat) (q : Option Nat) : State :=
  let x := s.pport n
  let s1 := s.setPport n { x with nak := true, last := q }
  let goesOn := match q, x.last with
    | none, _ => false
    | some _, none => true
    | some a, some l => a == l || a == (l + 1) % 65536
  if x.nak && goesOn then s1 else ctrlSend s1 n true

/-- An MSG flit that is expected joins the stream; its messages reach the inbox. -/
def flitTake (s : State) (n : Nat) (payload : List Byte) : State :=
  let x := s.pport n
  let r := parseMsgs 20 (x.inBytes ++ payload)
  ctrlSend (s.setPport n { x with expect := (x.expect + 1) % 65536, nak := false, last := none, inBytes := r.2,
                                  inbox := x.inbox ++ r.1.filter fun m => decide (m.type ≤ 12) }) n false

/-- FLIT_RX (R306, R307): 256 bytes on a port that is enabled and powered. -/
def flitRx (s : State) (n : Nat) (f : List Byte) : State :=
  if s.regB (pairPage n) oCtl 0 && s.dom (pdPair n) then
    if beAt f 252 4 ≠ crcInv (f.take 252) then flitGap (s.correctable (pairPage n)) n none
    else if 2 < leAt f 2 1 then s
    else
      let s1 := if s.pairUp n then s else (s.setRegF (pairPage n) oStat 0 1 1).irqBit (pairPage n) 0
      let d := seqAhead (s1.pport n).expect (beAt f 0 2)
      if leAt f 2 1 = 0 then
        if d = 0 then flitTake s1 n ((f.drop 4).take 248) else if d < 32768 then flitGap s1 n (some (beAt f 0 2)) else s1
      else
        let s2 := if 0 < d ∧ d < 32768 then flitGap s1 n (some ((beAt f 0 2 + 65535) % 65536)) else s1
        if leAt f 2 1 = 2 then
          let s3 := flitAck s2 n (beAt f 4 2)
          if bit (leAt f 6 1) 0 then flitResend s3 n else s3
        else s2
  else s

/-- The oldest message of a port, if it is of this type; it leaves the inbox. -/
def inboxTake (s : State) (n type : Nat) : Option (PairMsg × State) :=
  match (s.pport n).inbox with
  | [] => none
  | m :: t => if m.type = type then some (m, s.setPport n { s.pport n with inbox := t }) else none

end Sys2Proof.Machine
end

