-- ==== Sys2Proof/Machine/QueueEngine.lean ====
section
/-! DEFINITION. The queue engine: intake and the replay window, scheduling and dispatch, completions, and the commands it runs itself
(08_queues.md R254-R271, R471; 07_codes_stripes.md R242, R244; 10_transport_pair.md R311). -/
namespace Sys2Proof.Machine

/-- Identity of the queue engine (R22). -/
abbrev qeId : MasterId := 16
/-- QST_CTL.EN. -/
def State.qeOn (s : State) : Bool := s.regB 0x120 oCtl 0

/-! ### Pair deltas (R311) -/

/-- The queue engine mirrors its deltas. -/
def State.paired (s : State) : Bool := s.pstate == 3
/-- A delta may be sent: a port is up, and none is outstanding on another port that is still up. -/
def deltaReady (s : State) : Bool :=
  s.deltaPort.isSome && s.qe.deltas.all fun d => some d.2 == s.deltaPort || !(s.pairUp d.2)

/-- The 64-byte record of a QDELTA. -/
def deltaBytes (q kind slot : Nat) (c : QCtx) (entry : List Byte) : List Byte :=
  leBytes 4 q ++ leBytes 1 kind ++ leBytes 1 (qf c qLASTSTAT) ++ leBytes 2 0 ++ leBytes 4 (qf c qWBASE) ++ leBytes 4 (qf c qNCOMP) ++
  leBytes 8 (qf c qWMAP) ++ leBytes 2 (qf c qSQHEAD) ++ leBytes 2 (qf c qCQTAIL) ++ leBytes 1 (qf c qCQPHASE) ++ leBytes 1 slot ++
  leBytes 2 0 ++ (entry ++ List.replicate 16 0).take 16 ++ List.replicate 16 0

/-- Sends a delta; its number is the counter's value before. -/
def sendDelta (s : State) (rec : List Byte) : State :=
  let port := s.deltaPort.getD 0
  let s1 := pairSend s port 7 s.qe.delta rec
  { s1 with qe := { s1.qe with delta := (s.qe.delta + 1) % 2 ^ 64, deltas := (s.qe.delta, port) :: s.qe.deltas } }

/-! ### Completions (R255, R256) -/

/-- C0 of a completion. -/
def compC0 (c : Comp) : Nat := c.seq.toNat + 2 ^ 32 * (c.sqidx % 2 ^ 16) + 2 ^ 48 * (c.status % 256) + 2 ^ 56 * (c.orig % 256)
/-- C1 of a completion; the top bit is PHASE in the ring and VALID in the replay cache. -/
def compC1 (c : Comp) (top : Bool) : Nat :=
  c.result.toNat + 2 ^ 32 * (c.ift % 2 ^ 13) + 2 ^ 45 * b2n c.nodisp + 2 ^ 48 * b2n c.stale + 2 ^ 49 * b2n c.nr + 2 ^ 63 * b2n top
def compBytes (c : Comp) (top : Bool) : List Byte := leBytes 8 (compC0 c) ++ leBytes 8 (compC1 c top)

/-! ### Mirror requests of vendor programs (R309), and what follows a PUT's completion (R36) -/

/-- The slot of mirror ring `r` that its producer fills next: the first from HEAD on whose OWNER is FREE or DONE; none where the ring is
not enabled or full. -/
def mirrorSlot (s : State) (r : Nat) : Option Nat :=
  let w := s.reg 0x325 (0x100 + 8 * r)
  let base := scrBase + regFld w 12 14 * 4096
  if regBit w 31 then
    (firstNat (fun i => let o := leAt (s.bytes (base + i % 64 * 64 + 56) 1) 0 1
      o != 1 && o != 2) (rangeFrom (s.regF 0x325 (0x104 + 8 * r) 0 6) 64)).map fun i => base + i % 64 * 64
  else none
/-- The words of a mirror request that rings no doorbell. -/
def mirrorWords (src len moff jaddr jslot : Nat) (retire : Bool) : List Byte :=
  leBytes 8 src ++ leBytes 8 len ++ leBytes 8 moff ++ leBytes 8 (jaddr + 2 ^ 48 * jslot) ++ leBytes 8 (b2n retire) ++ leBytes 16 0 ++ leBytes 8 1

/-- WRITE(16) of a shard's body and tail (R225, R272). -/
def writeCdb (lba blocks : Nat) : List Byte := [0x8A, 0] ++ beBytes 8 lba ++ beBytes 4 blocks ++ [0, 0]

/-- One shard of a PUT goes from the work area to its drive; whether it is on the media. -/
def shardOut (s : State) (x : ShardOut) : State × Bool :=
  if x.good then
    match dmaRead s (dataId x.port) x.addr x.len with
    | (s1, .ok (d, false)) => (driveOut s1 x.port (writeCdb x.lba (x.len / s1.blockSize x.port)) d, true)
    | (s1, _) => (s1, false)
  else (s, false)

/-- Step 7 of a PUT (R36): the shards go to their drives, and once all are there the journal record is retired on both devices (R310).
A fenced device writes none (R293). -/
def putRest (s : State) (x : PutRest) : State :=
  if s.fence then s
  else
    let r := x.writes.foldl (fun (a : State × Bool) w => let b := shardOut a.1 w
      (b.1, a.2 && b.2)) (s, true)
    if r.2 then
      (match mirrorSlot r.1 x.ring with
       | some a => (memWrite r.1 a (mirrorWords 0 0 0 0 x.jslot true)).1
       | none => r.1)
    else r.1

/-- The context after steps 4 and 5 of R256. -/
def ctxCompleted (c : QCtx) (status : Nat) (freed : Bool) : QCtx :=
  let t := (qf c qCQTAIL + 1) % 2 ^ qf c qCQLOG
  let c1 := qset (qset c qCQTAIL t) qCQPHASE (if t = 0 then 1 - qf c qCQPHASE else qf c qCQPHASE)
  let c2 := qset (qset c1 qNCOMP (qf c qNCOMP + 1)) qLASTSTAT status
  if freed then qset c2 qINFL (qf c qINFL - 1) else c2

/-- A write of the queue engine that got a bus error or the poison mark (R471). -/
def qeWrite (s : State) (a : Nat) (d : List Byte) : State × Bool :=
  match dmaWrite s qeId a d with
  | (s1, some _) => (s1, false)
  | (s1, none) => (s1, !(stillPoisoned s1 a d.length))

/-- The context a queue-engine context returns to once its completion has been written (R167). -/
def freeCtx (s : State) (i : Nat) (e : IftEnt) : State :=
  if e.engine then s
  else
    let n : Fin 8 := ⟨e.spire % 8, Nat.mod_lt _ (by decide)⟩
    let c : Fin 4 := ⟨e.ctx % 4, Nat.mod_lt _ (by decide)⟩
    let x := s.sc n c
    if x.ift = some i ∧ x.st = .fault then
      s.setSc n c { x with st := .idle, opened := none, adm := .none, image := none, stop := false, ift := none }
    else s

/-- The entry of a completed command is freed (R262). -/
def freeEntry (s : State) : Option Nat → State
  | none => s
  | some i => match s.ift i with
    | some e => (freeCtx s i e).setIft i none
    | none => s

/-- A completion that could not be written (R471). -/
def compFailed (s : State) (q : Nat) (ift : Option Nat) : State :=
  let s1 := match ift with
    | some i => (match s.ift i with | some e => (orphanCtx s i e).setIft i none | none => s)
    | none => s
  ctxError (countOrphan s1) q 4

/-- Steps 3 to 6 of R256, and what a PUT does after them (R36). -/
def compTail (s : State) (q : Nat) (c : Comp) (ift : Option Nat) : State :=
  match ctxRead s q with
  | (s1, .error _) => if ift.isNone then countOrphan s1 else s1
  | (s1, .ok x) =>
    match qeWrite s1 (qf x qCQADDR + qf x qCQTAIL * 16) (compBytes c (qf x qCQPHASE == 1)) with
    | (s2, false) => compFailed s2 q ift
    | (s2, true) =>
      let s3 := lineSet (freeEntry (ctxStore s2 q (ctxCompleted (s2.ctxRaw q) c.status ift.isSome)) ift) (qf x qEVSEL)
      match (ift.bind s2.ift).bind IftEnt.rest with
      | some r => putRest s3 r
      | none => s3

/-- The context of a queue as it will stand once the completions that wait for a DACK have been written: what the next delta tells the
partner (R311). -/
def ctxAhead (s : State) (q : Nat) (c : QCtx) : QCtx :=
  (s.qe.waits.filter fun w => w.q = q).foldl (fun a w => ctxCompleted a w.comp.status w.ift.isSome) c

/-- A completion through step 2 of R256. `acc`: the replay check accepted the command. In pair mode the rest follows the DACK. -/
def complete (s : State) (q : Nat) (c : Comp) (ift : Option Nat) (acc : Bool) : State :=
  match ctxRead s q with
  | (s1, .error _) => if ift.isNone then countOrphan s1 else s1
  | (s1, .ok x) =>
    let slot := c.seq.toNat % 64
    let w := if acc then qeWrite s1 (qf x qRCADDR + slot * 16) (compBytes c true) else (s1, true)
    match w with
    | (s2, false) => compFailed s2 q ift
    | (s2, true) =>
      if s2.paired then
        let n := s2.qe.delta
        let s3 := sendDelta s2 (deltaBytes q (if acc then 2 else 1) (if acc then slot else 0) (ctxCompleted (ctxAhead s2 q x) c.status ift.isSome)
          (if acc then compBytes c true else []))
        { s3 with qe := { s3.qe with waits := s3.qe.waits ++ [{ delta := n, q := q, comp := c, ift := ift }] } }
      else compTail s2 q c ift

/-- A completion the queue engine forms itself, without a dispatch. -/
def formed (seq : Word32) (sqidx status : Nat) (nr : Bool) : Comp :=
  { seq := seq, sqidx := sqidx, status := status, orig := status, nodisp := true, nr := nr }

/-! ### Intake (R259, R260) -/

/-- Free completion slots (R257). -/
def freeSlots (c : QCtx) : Nat :=
  let n := 2 ^ qf c qCQLOG
  n - 1 - (qf c qCQTAIL + n - qf c qCQHEAD) % n

/-- The context with SQHEAD advanced by 1. -/
def advHead (c : QCtx) : QCtx := qset c qSQHEAD ((qf c qSQHEAD + 1) % 2 ^ qf c qSQLOG)

/-- Stripe program table entry of a submission: its number, none where the code is not valid (R242). -/
def subEntry (b : List Byte) : Option Nat :=
  let op := leAt b 0 1
  if 1 ≤ op ∧ op ≤ 0x0B then some op else if op = 0x0C then some (0x80 + leAt b 48 1 % 128) else none

/-- What the replay check decides (R260). -/
inductive Replay where
  | stale | limit | absorbed
  | cached (c : Comp)
  | go (c : QCtx)

/-- Distance of a sequence number from WBASE. -/
def seqDist (seq wbase : Nat) : Nat := (2 ^ 32 + seq - wbase) % 2 ^ 32

/-- The replay check of a sequence number (R260). -/
def replayCheck (s : State) (q : Nat) (c : QCtx) (seq : Nat) : State × Replay :=
  let d := seqDist seq (qf c qWBASE)
  if 2 ^ 31 ≤ d then (s, .stale)
  else if d < 64 then
    if !(bit (qf c qWMAP) d) then (s, .go (qset c qWMAP (qf c qWMAP + 2 ^ d)))
    else
      let r := dmaRead s qeId (qf c qRCADDR + seq % 64 * 16) 16
      match goodData r.2 with
      | some b =>
        if bit (leAt b 8 8) 63 && leAt b 0 4 == seq then
          (r.1, .cached { seq := w32 (leAt b 0 4), status := 1, orig := leAt b 6 1, result := w32 (leAt b 8 4), nodisp := true })
        else if (iftWhere r.1 fun e => e.qid == q && e.seq.toNat == seq).isEmpty then (r.1, .go c) else (r.1, .absorbed)
      | none => if (iftWhere r.1 fun e => e.qid == q && e.seq.toNat == seq).isEmpty then (r.1, .go c) else (r.1, .absorbed)
  else if (iftWhere s fun e => e.qid == q && decide (seqDist e.seq.toNat (qf c qWBASE) ≤ d - 64)).isEmpty then
    let k := d - 63
    (s, .go (qset (qset c qWBASE (2 ^ 32 + seq - 63)) qWMAP (2 ^ 63 + (qf c qWMAP >>> k) % 2 ^ 63)))
  else (s, .limit)

/-- The status of steps 5 and 6 (R259, R265); none where the command is held. -/
def intakeStatus (s : State) (b : List Byte) : Option Nat :=
  match subEntry b with
  | none => some 3
  | some e =>
    if s.sptEmpty e then some 3
    else if s.regB 0x120 oStat 1 && !([1, 2, 0x0A, 0x0B].contains (leAt b 0 1)) then some 2
    else if leAt b 0 1 == 0x0C && (List.finRange 8).all (fun n => !(s.regB (sprPage n) oCtl 1)) then some 2
    else none

/-- Steps 5 to 7 of R259 on entry `b`; `acc` says that the replay check accepted it. -/
def intakeRest (s : State) (q : Nat) (b : List Byte) (acc : Bool) : State :=
  let c := s.ctxRaw q
  match intakeStatus s b with
  | some st =>
    complete (ctxStore s q (advHead c)) q (formed (w32 (leAt b 4 4)) (qf c qSQHEAD) st (bit (leAt b 1 1) 0)) none acc
  | none => { s with qe := { s.qe with held := sput s.qe.held q (some { slot := qf c qSQHEAD, data := b }) none } }

/-- Step 4 of R259 and what follows it. -/
def intakeReplay (s : State) (q : Nat) (c : QCtx) (b : List Byte) : State :=
  let seq := leAt b 4 4
  let idx := qf c qSQHEAD
  match replayCheck s q c seq with
  | (s1, .stale) =>
    (complete (ctxStore s1 q (advHead c)) q { formed (w32 seq) idx 1 false with stale := true } none false).bumpReg 0x120 0x138
  | (s1, .limit) => complete (ctxStore s1 q (advHead c)) q (formed (w32 seq) idx 0x0A false) none false
  | (s1, .absorbed) => (ctxStore s1 q (advHead c)).bumpReg 0x120 0x13C
  | (s1, .cached m) => (complete (ctxStore s1 q (advHead c)) q { m with sqidx := idx } none false).bumpReg 0x120 0x138
  | (s1, .go c1) =>
    let s2 := ctxStore s1 q c1
    intakeRest (if s2.paired then sendDelta s2 (deltaBytes q 1 (seq % 64) (ctxAhead s2 q c1) []) else s2) q b true

/-- The queue may be taken in from (R257, R259). -/
def intakeReady (s : State) (q : Nat) (c : QCtx) : Bool :=
  s.qeOn && (qf c qEN == 1 && (qf c qHOME == 1 && (qf c qERR == 0 && (qf c qSQHEAD != qf c qSQTAIL &&
  ((sget s.qe.held q none).isNone && (decide (qf c qINFL + 1 ≤ freeSlots c) &&
  ((!(s.qe.waits.any fun w => w.q == q && w.ift.isNone)) && (!s.paired || deltaReady s))))))))

/-- Reserved bits of bytes 0-15 of a submission (R254). -/
def subReserved (b : List Byte) : Bool := leAt b 1 1 / 2 == 0 && (leAt b 2 2 == 0 && leAt b 14 2 == 0)

/-- SUBMISSION_INTAKE (R259) of queue `q`; `u` disturbs the entry's line. -/
def intake (s : State) (q : Nat) (u : Upset) : State :=
  match ctxRead s q with
  | (s1, .error _) => s1
  | (s1, .ok c) =>
    if !(intakeReady s1 q c) then s1
    else
      let a := qf c qSQADDR + qf c qSQHEAD * 64
      let idx := qf c qSQHEAD
      match memRead s1 a 64 u with
      | (s2, .error e) => complete (ctxStore (s2.berr qeId a false e) q (advHead c)) q (formed 0 idx 3 false) none false
      | (s2, .ok (_, true)) => complete (ctxStore s2 q (advHead c)) q (formed 0 idx 5 false) none false
      | (s2, .ok (b, false)) =>
        let seq := w32 (leAt b 4 4)
        let nr := bit (leAt b 1 1) 0
        if s2.fence then complete (ctxStore s2 q (advHead c)) q (formed seq idx 6 nr) none false
        else if leAt b 8 6 ≠ qf c qCLIENT ∨ subReserved b = false then complete (ctxStore s2 q (advHead c)) q (formed seq idx 3 nr) none false
        else if nr then intakeRest s2 q b false
        else intakeReplay s2 q c b

/-! ### Selection and dispatch (R166, R242, R262, R266, R267) -/

/-- A spire that meets R166. -/
def spireServes (s : State) (n : Fin 8) : Bool :=
  s.regB (sprPage n) oCtl 0 && (s.regB (sprPage n) oCtl 1 && (s.csOk n && (!(s.regB (sprPage n) oStat 2) && (!(s.spireFenced n) &&
  (List.finRange 4).any fun c => s.qeCtx n c && (s.sc n c).st == .idle))))
/-- Contexts of a spire that are not IDLE. -/
def busyCount (s : State) (n : Fin 8) : Nat := ((List.finRange 4).filter fun c => (s.sc n c).st != .idle).length
/-- The spire a command goes to (R166): the fewest busy contexts, the lowest number among equals. -/
def pickSpire (s : State) : Option (Fin 8) :=
  (List.finRange 8).foldl (fun a n => if spireServes s n then
    (match a with
     | none => some n
     | some m => if busyCount s n < busyCount s m then some n else some m) else a) none
/-- Its context: the lowest-numbered IDLE one of the queue engine. -/
def pickCtx (s : State) (n : Fin 8) : Fin 4 :=
  ((List.finRange 4).find? fun c => s.qeCtx n c && (s.sc n c).st == .idle).getD 0

/-- The submission is run by the queue engine. -/
def subEngine (b : List Byte) : Bool := leAt b 0 1 == 0x0A || leAt b 0 1 == 0x0B
/-- A free engine slot (R266). -/
def engineFree (s : State) : Bool := decide ((iftWhere s fun e => e.engine).length < 64)

/-- A queue with a held command is eligible (R266). -/
def eligible (s : State) (q : Nat) (h : Held) : Bool :=
  let c := s.ctxRaw q
  qf c qEN == 1 && (qf c qHOME == 1 && (decide (qf c qINFL < qf c qCREDIT) && (decide (qf c qINFL + 1 ≤ freeSlots c) &&
  (s.ready (qf c qPSET) && (s.weight (qf c qTSLOT) != 0 && (decide (inflAll s < 8192) &&
  (if subEngine h.data then engineFree s else (pickSpire s).isSome)))))))

/-- Eligible queues, ascending. -/
def eligibles (s : State) : List Nat :=
  s.qe.held.filterMap fun x => match x.2 with
    | some h => if eligible s x.1 h then some x.1 else none
    | none => none

def qClass (s : State) (q : Nat) : Nat := qf (s.ctxRaw q) qCLASS
def qSlot (s : State) (q : Nat) : Nat := qf (s.ctxRaw q) qTSLOT

/-- The smallest element above `x`, else the smallest. -/
def nextAfter (x : Nat) (l : List Nat) : Option Nat :=
  let least := fun (m : List Nat) => m.foldl (fun a y => match a with | none => some y | some z => some (min y z)) (none : Option Nat)
  match least (l.filter (x < ·)) with
  | some y => some y
  | none => least l

/-- The queue that is selected, with the scheduler's state after it (R267). -/
def selectQueue (s : State) : Option (Nat × Qe) :=
  let el := eligibles s
  match nextAfter 4095 (el.map (qClass s)) with
  | none => none
  | some cl =>
    let k : Fin 3 := ⟨cl % 3, Nat.mod_lt _ (by decide)⟩
    let mine := el.filter fun q => qClass s q = cl
    let stay := decide (0 < s.qe.left[k]) && mine.any (fun q => qSlot s q == s.qe.ptr[k])
    match (if stay then some s.qe.ptr[k] else nextAfter s.qe.ptr[k] (mine.map (qSlot s))) with
    | none => none
    | some t =>
      let left := if stay then s.qe.left[k] else s.weight t
      match nextAfter (sget s.qe.last (cl * 4096 + t) 0x3FFFF) (mine.filter fun q => qSlot s q = t) with
      | none => none
      | some q => some (q, { s.qe with ptr := s.qe.ptr.set k t, left := s.qe.left.set k (left - 1),
                                       last := sput s.qe.last (cl * 4096 + t) q 0x3FFFF })

/-- The lowest free in-flight entry. -/
def freeIft (s : State) : Option Nat := firstNat (fun i => (s.ift i).isNone) (rangeFrom 0 8192)

/-- Copies a submission into parameter block `i` (R249, R262). -/
def parmStore (s : State) (i : Nat) (b : List Byte) : State :=
  let a := parmBase + i * 64
  ({ s with wordErr := sdrop (fun k => a / 8 ≤ k && k < a / 8 + 8) s.wordErr }).setBytes a b

/-- The chosen context of a spire waits for the program's first instruction, which PROG or the vendor program's row starts (R164). -/
def claimCtx (s : State) (n : Fin 8) (c : Fin 4) (i e : Nat) (half : Bool) : State :=
  spStart s n c (BitVec.ofNat 48 (s.sptAddr e half)) [cell (parmBase + i * 64), cell (s.sptArg e half), cell i] (some i)

/-- Dispatch of a held command under entry `i` (R242, R262). -/
def dispatchAt (s : State) (q i e : Nat) (h : Held) : State :=
  let c := s.ctxRaw q
  let b := h.data
  let half := s.sptHalf e
  let n := (pickSpire s).getD 0
  let x := pickCtx s n
  let eng := subEngine b
  let ent : IftEnt := { half := half, opcode := leAt b 0 1, entry := e, qid := q, seq := w32 (leAt b 4 4), sqidx := h.slot, engine := eng,
                        spire := if eng then 0 else n.val, ctx := if eng then 0 else x.val, start := w32 s.belf.cycle.toNat,
                        nr := bit (leAt b 1 1) 0, narrow := s.regB 0x120 oStat 1, aux0 := cell (leAt b 48 8) }
  let s1 := (parmStore s i b).setIft i (some ent)
  let s2 := ctxStore s1 q (qset (advHead c) qINFL (qf c qINFL + 1))
  let s3 : State := { s2 with qe := { s2.qe with held := sput s2.qe.held q none none } }
  let s4 := s3.setReg 0x120 0x134 (s3.reg 0x120 0x134 + 1)
  let s5 := if inflAll s4 = 8192 then s4.irqBit 0x120 2 else s4
  if eng then s5 else claimCtx s5 n x i e half

/-- The selected queue's held command is dispatched, or completed because its entry has become empty (R242). -/
def dispatch (s : State) (q : Nat) (h : Held) : State :=
  match ctxRead s q with
  | (s1, .error _) => s1
  | (s1, .ok c) =>
    match subEntry h.data, freeIft s1 with
    | some e, some i =>
      if s1.sptEmpty e && (s1.paired && !(deltaReady s1)) then s1
      else if s1.sptEmpty e then
        let s2 : State := { s1 with qe := { s1.qe with held := sput s1.qe.held q none none } }
        let nr := bit (leAt h.data 1 1) 0
        complete (ctxStore s2 q (advHead c)) q (formed (w32 (leAt h.data 4 4)) h.slot 3 nr) none (!nr)
      else dispatchAt s1 q i e h
    | _, _ => s1

/-- SCHEDULER_SELECTION (R267). -/
def selection (s : State) : State :=
  if s.qeOn then
    match selectQueue s with
    | none => s
    | some (q, qe) =>
      match sget s.qe.held q none with
      | some h => dispatch { s with qe := qe } q h
      | none => s
  else s

/-! ### The end of a command (R256, R264, R315) -/

/-- COMPLETION_WRITE of in-flight entry `i`. A command dispatched before a fence has its completion discarded (R315). -/
def completionWrite (s : State) (i : Nat) : State :=
  match s.ift i with
  | none => s
  | some e =>
    if e.st ≠ 2 ∨ s.qe.waits.any (fun w => w.ift == some i) = true then s
    else if e.drop then
      let s1 := countOrphan (freeEntry s (some i))
      let c := s1.ctxRaw e.qid
      if qf c qINFL = 0 then s1 else ctxStore s1 e.qid (qset c qINFL (qf c qINFL - 1))
    else if s.paired && !(deltaReady s) then s
    else
      complete s e.qid { seq := e.seq, sqidx := e.sqidx, status := e.status, orig := e.status, result := e.result, ift := i, nr := e.nr }
        (some i) (!e.nr)

/-- DACK (R311): the delta is acknowledged, and the completion that waited for it goes on. -/
def dack (s : State) (n : Nat) : State :=
  let s1 : State := { s with qe := { s.qe with deltas := s.qe.deltas.filter fun d => d.1 ≠ n, waits := s.qe.waits.filter fun w => w.delta ≠ n } }
  match s.qe.waits.find? fun w => w.delta == n with
  | some w => compTail s1 w.q w.comp w.ift
  | none => s1

/-! ### SPIN and FLUSH (R244, R265, R285) -/

/-- Words of the parameter block of entry `i`: MAP, BUF, OFF, LEN, AUX0, AUX1 in place 0 to 5 (R243). -/
def parm (s : State) (i k : Nat) : Nat := leAt (s.bytes (parmBase + i * 64) 64) (16 + 8 * k) 8
/-- Every parameter but AUX0 is 0. -/
def onlyAux0 (s : State) (i : Nat) : Bool :=
  parm s i 0 == 0 && (parm s i 1 == 0 && (parm s i 2 == 0 && (parm s i 3 == 0 && parm s i 5 == 0)))

/-- SPIN of entry `i`. -/
def spinRun (s : State) (i : Nat) : State :=
  match s.ift i with
  | some e =>
    if e.engine && (e.opcode == 0x0A && e.st == 0) then
      let a := e.aux0.toNat
      if !(onlyAux0 s i) || a - fld a 0 6 - fld a 8 1 * 256 != 0 then qeEnd s i 3 0
      else
        match spinRequest s (fld a 0 6) (bit a 8) with
        | (s1, some st) => qeEnd s1 i st 0
        | (s1, none) => match s1.ift i with
          | some e1 => if e1.st = 0 then s1.setIft i (some { e1 with st := 1 }) else s1
          | none => s1
    else s
  | none => s

/-- FLUSH of entry `i`: SYNCHRONIZE CACHE(16) to the set's live members (R244, R265). -/
def flushRun (s : State) (i : Nat) : State :=
  match s.ift i with
  | some e =>
    if e.engine && (e.opcode == 0x0B && e.st == 0) then
      let a := e.aux0.toNat
      if !(onlyAux0 s i) || a - fld a 0 6 != 0 then qeEnd s i 3 0
      else if !(s.ready (fld a 0 6)) then qeEnd s i 0 0
      else
        let l := (s.liveMembers (fld a 0 6)).filter s.portUp
        let s1 : State := (s.setIft i (some { e with st := 1 }))
        flushEnd { s1 with pwr := { s1.pwr with ops := s1.pwr.ops ++ l.map fun p => (p, .flush i) } } i
    else s
  | none => s

end Sys2Proof.Machine
end

