-- ==== Sys2Proof/Machine/PowerDom.lean ====
section
/-! DEFINITION. Power domains, the PWR pages, and the entry to VIGIL or OFF (01_architecture.md R47, R48; 05_spire_streams.md R174;
09_drives_power_sets.md R295; 16_startup.md R428-R430). -/
namespace Sys2Proof.Machine

/-! ### Port pages of Ethernet, pair and management ports (R321) -/

/-- A port came up: STAT.UP bit `sub`, UPC. -/
def portUpEdge (s : State) (page sub : Nat) : State := (s.setRegF page oStat sub 1 1).irqBit page 0
/-- A port that is up goes down: UP, DOWN. -/
def portDownEdge (s : State) (page sub : Nat) : State :=
  if s.regB page oStat sub then (s.setRegF page oStat sub 1 0).irqBit page 1 else s
/-- Both sub-ports go down. -/
def portDownAll (s : State) (page : Nat) : State := portDownEdge (portDownEdge s page 0) page 1

/-! ### What a domain loses (R48) -/

/-- What a spire's coefficient RAM holds is lost. -/
def dropCoef (s : State) (n : Fin 8) : State :=
  let s1 := s.clearBytes (coefKey n 0) 65536
  { s1 with wordErr := sdrop (fun k => coefKey n 0 / 8 ≤ k && decide (k < 8192 + coefKey n 0 / 8)) s1.wordErr }

/-- A domain goes off: the state held in it is lost (R48). -/
def domainOff (s : State) (d : Nat) : State :=
  if d < 3 then s
  else if h : d - 3 < 8 then turOff s ⟨d - 3, h⟩
  else if h : d - 11 < 4 then
    let p : Fin 4 := ⟨d - 11, h⟩
    let x := s.pair p
    (if x.st == .locked || x.st == .halt then s.setPair p { x with st := .split, relSplit := true, haltClass := 0 } else s).setDom d false
  else if h : d - 15 < 8 then
    let n : Fin 8 := ⟨d - 15, h⟩
    ((dropCoef s n).setSpire n { s.spire n with queue := [], running := none }).setDom d false
  else if h : d - 23 < 8 then
    let n : Fin 8 := ⟨d - 23, h⟩
    ((s.setSpire n {}).setRegF (sprPage n) oStat 0 1 0).setDom d false
  else if d < 71 then s.setDom d false
  else if d < 135 then
    let p := d - 71
    let s1 := dropChannel s p
    (if (s1.mch p).cstate = 3 then s1 else s1.setMch p {}).setDom d false
  else if d < 165 then sasgOff s (d - 135)
  else if d < 173 then (portDownAll s (0x300 + (d - 165))).setDom d false
  else if d < 177 then ((portDownAll s (0x320 + (d - 173))).setPport (d - 173) {}).setDom d false
  else if d = pdMgmt then (portDownAll (portDownAll s 0x340) 0x341).setDom d false
  else if d = pdLant then lantApply (s.setDom d false)
  else s.setDom d false

/-- The Keep loader fills and verifies the control store of a spire whose PD_SPS is on (R439, R440). -/
def csLoad (s : State) (n : Fin 8) : State :=
  if s.dom (pdSps n.val) && !s.boot.ucode.isEmpty then
    ((s.setRegF (sprPage n) oStat 0 1 1).setReg (sprPage n) 0x104 (w32 s.boot.csver)).setSpire n
      { s.spire n with cstore := s.boot.ucode, csErr := [] }
  else s

/-- A domain goes on. -/
def domainOn (s : State) (d : Nat) : State :=
  let s1 := s.setDom d true
  if h : 23 ≤ d ∧ d - 23 < 8 then csLoad s1 ⟨d - 23, h.2⟩
  else if d = pdLant then lantApply s1 else s1

/-! ### Requests (R48, R174, R295) -/

/-- What refuses a change of domain `d`: REFCAUSE, 0 where nothing does. -/
def dreqCause (s : State) (d : Nat) (on : Bool) : Nat :=
  if d < 3 ∨ d = pdFab0 ∨ d = pdFab1 then 3
  else if on then (if (domainNeeds d).all s.dom then 0 else 1)
  else if 15 ≤ d ∧ d - 15 < 8 then (if s.regB (0x160 + (d - 15)) oCtl 0 then 4 else 0)
  else if (rangeFrom 0 182).any (fun x => s.dom x && (domainNeeds x).contains d) then 2 else 0

/-- The bank states, not PWR_DREQ, switch these domains (R96). -/
def bankGoverned (d : Nat) : Bool := decide (31 ≤ d ∧ d < 71)

/-- Records a refused request. -/
def dreqRefuse (s : State) (cause d : Nat) : State :=
  ((s.setRegF 0x350 oStat 8 8 cause).setRegF 0x350 oStat 0 8 d).irqBit 0x350 0

/-- The requests of a word that wait, performed in an order that R48 allows while there is one; then the others are refused in
ascending order. `n` bounds the passes. -/
def dreqRun (s : State) : Nat → List (Nat × Bool) → State
  | 0, l => l.foldl (fun t x => dreqRefuse t (dreqCause t x.1 x.2) x.1) s
  | n + 1, l =>
    match l.find? fun x => dreqCause s x.1 x.2 == 0 with
    | none => l.foldl (fun t x => dreqRefuse t (dreqCause t x.1 x.2) x.1) s
    | some x =>
      let s1 := if x.2 then domainOn s x.1 else domainOff s x.1
      let s2 := s1.setRegF 0x350 (0x100 + 4 * (x.1 / 32)) (x.1 % 32) 1 (b2n x.2)
      dreqRun s2 n (l.filter fun y => y.1 ≠ x.1)

/-- A write of word `i` of PWR_DREQ: a bit that differs from the present state of its domain is a request. -/
def dreqWrite (s : State) (i : Nat) (v : Word32) : State :=
  let ds := (rangeFrom (32 * i) 32).filter (· < 182)
  let s1 := ds.foldl (fun t d => if bankGoverned d then t.setRegF 0x350 (0x100 + 4 * i) (d % 32) 1 (b2n (regBit v (d % 32))) else t) s
  dreqRun s1 32 ((ds.filter fun d => !(bankGoverned d) && s.dom d != regBit v (d % 32)).map fun d => (d, regBit v (d % 32)))

/-! ### Entry to VIGIL or OFF (R430) -/

/-- The slots of the NOR die, as a mask, that a cut-off write has left incomplete: those, and the one that a running RCV_GO with PROG
writes, when a reset comes (R451, log entry 62). -/
def State.tornSlots (s : State) : Nat :=
  let r := s.reg 3 0x114
  if regBit r 31 && regBit r 9 then s.boot.torn ||| 2 ^ regFld r 10 1 else s.boot.torn

/-- The device without what a power-on reset loses: only the Cupola, the NOR die, the fuses, the supplies' and pins' levels and what is
not the device's own state remain (R433, R449). NOR lies at key 2^51 of the memory, the Cupola's window at its address. -/
def State.bare (s : State) : State :=
  { State.reset with
    pending := s.pending, free := s.free, out := s.out, cup := { s.cup with master := none, evq := [], evlost := 0 },
    mem := s.mem.filter fun c => decide (2 ^ 51 ≤ c.1) || decide (0xE00000000 ≤ c.1 ∧ c.1 < 0xE00010000),
    regs := s.regs.filter fun r => r.1 / 4096 == 1,
    scr0 := { factory := s.scr0.factory }, scr1 := { factory := s.scr1.factory },
    boot := { por := false, vin12 := s.boot.vin12, vaux33 := s.boot.vaux33, trip := s.boot.trip, wakeHeld := s.boot.wakeHeld, faultLow := s.boot.faultLow,
              thermLow := s.boot.thermLow, rstLow := s.boot.rstLow, kimg := s.boot.kimg, kwrap := s.boot.kwrap, kpatch := s.boot.kpatch, torn := s.tornSlots } }

/-- OFF (R428): PD_AON and PD_CUP; KEEP_WAKE and KEEP_AONTMR lie in PD_AON. -/
def powerOff (s : State) : State :=
  let t := s.bare
  let t1 : State := { t with boot := { t.boot with power := .off } }
  let t2 := (t1.setReg 0 0x100 (s.reg 0 0x100)).setReg 0 0x108 (s.reg 0 0x108)
  (((t2.setDom 1 false).setDom pdFab0 false).setDom pdFab1 false).setReg 0x350 0x158 0

/-- Domains that VIGIL turns off, in the order R48 asks for. -/
def vigilOff : List Nat :=
  [pdLant, pdNor] ++ rangeFrom 11 4 ++ rangeFrom 3 8 ++ rangeFrom 15 8 ++ rangeFrom 23 8 ++ rangeFrom 135 30 ++ rangeFrom 165 8 ++
  rangeFrom 173 4

/-- Step 6 of R430 for VIGIL: scratch goes OFF, the queue store to RET (R96), the DRAM stays in self-refresh. -/
def vigilEnter (s : State) : State :=
  let s1 := vigilOff.foldl (fun t d => if t.dom d then domainOff t d else t) s
  let s2 := (rangeFrom 0 256).foldl (fun t b => bankWrite t 0 b 0) s1
  let s3 := (rangeFrom 0 64).foldl (fun t b => bankWrite t 1 b 2) s2
  let s4 := (rangeFrom 71 64).foldl (fun t d => t.setDom d false) s3
  let s5 := ((s4.setDom pdFab1 false).setDom pdMgmt true).setRegF 0x350 0x158 8 2 1
  { s5 with boot := { s5.boot with power := .vigil, entry := none } }

/-- Steps 4 to 6 of R430. -/
def entryFinish (s : State) (vigil : Bool) : State :=
  let s1 := masterLost s
  let s2 : State := { s1 with boot := { s1.boot with
    quiet := true, dreq := (rangeFrom 0 6).map fun i => (s1.reg 0x350 (0x100 + 4 * i)).toNat,
    codes := (rangeFrom 0 64).foldl (fun a p => a + (if (s1.mch p).trained then 2 ^ p else 0)) 0 } }
  if vigil then vigilEnter s2 else powerOff s2

/-- A set keeps the entry waiting: it has members and is not DOWN. -/
def setsDown (s : State) : Bool := (rangeFrom 0 64).all fun k => !(setBusy s k)

/-- The entry goes on as far as it can (R430): in-flight commands, then the sets of the power master, then the rest. -/
def entryGo (s : State) : State :=
  match s.boot.entry with
  | none => s
  | some v =>
    if inflAll s ≠ 0 then s
    else if s.pmaster then
      let s1 := (rangeFrom 0 64).foldl (fun t k => if setBusy t k && t.setSt k == 3 then (spinRequest t k false).1 else t) s
      if setsDown s1 then entryFinish s1 v else s1
    else entryFinish s v

/-- Some TMR page is in CX5120 mode (R77). -/
def anyC5 (s : State) : Bool := (rangeFrom 0x20 12).any fun p => s.regB p oCtl 0
/-- R94: the sparing or widening that refuses VIGIL. -/
def vigilBusy (s : State) : Bool :=
  s.memc.mode == .widening || (s.memc.spareSt == .arm || (s.memc.spareSt == .copy || s.memc.spareSt == .switch))

/-- A request for VIGIL or OFF (R429, R430): steps 1 and 2, then as far as the entry goes. -/
def psRequest (s : State) (vigil : Bool) : State :=
  let s0 := s.setRegF 0x350 0x158 0 2 (b2n vigil)
  if s.boot.entry.isSome then s0
  else if vigil && anyC5 s then dreqRefuse s0 5 0xFF
  else if vigil && vigilBusy s then dreqRefuse s0 6 0xFF
  else
    let s1 := s0.setRegF 0x120 oCtl 0 1 0
    entryGo { s1 with qe := { s1.qe with held := [] }, boot := { s1.boot with entry := some vigil } }

/-- A wake before step 5 cancels the entry (R430). -/
def entryCancel (s : State) : State :=
  let s1 := (s.setRegF 0x120 oCtl 0 1 1).setRegF 0x350 0x158 0 2 2
  { s1 with boot := { s1.boot with entry := none } }

/-! ### The PWR pages (R285-R287, R295, R429) -/

/-- A write to the set word of set `k` (R286, R295). -/
def setWrite (s : State) (locked : Bool) (k : Nat) (v : Word32) : State :=
  let s1 := if locked then s else s.setRegF 0x351 (0x100 + 8 * k) 0 1 (regFld v 0 1)
  if regBit v 1 then rearm s1 k else s1

/-- A write to a page of PWR, `n` = page - 0x350. -/
def pwrWrite (s : State) (locked : Bool) (n off : Nat) (v : Word32) : Option (State × Option BusCause) :=
  if n = 0 then
    match off with
    | 0x14C =>
      let s1 := s.setReg 0x350 0x14C (v &&& w32 0x13F)
      some ((spinRequest s1 (regFld v 0 6) (regBit v 8)).1, none)
    | 0x138 => some (fbctlWrite s v, none)
    | 0x158 => some (if regFld v 0 2 = 0 then psRequest s false else if regFld v 0 2 = 1 then psRequest s true else s, none)
    | _ => if 0x100 ≤ off ∧ off < 0x118 then some (dreqWrite s ((off - 0x100) / 4) v, none) else none
  else if n = 1 then
    match arrIx off 0x100 8 64 with
    | some (k, 0) => some (setWrite s locked k v, none)
    | _ => none
  else if n = 2 then
    match arrIx off 0x100 4 240 with
    | some (p, 0) => if locked then some (s, none) else some (pmapWrite s p v)
    | _ => none
  else if 16 ≤ n then
    if 0x100 ≤ off ∧ !locked && modelBusy s (n - 16) then some (s, some .binding) else none
  else none

/-- A read of a page of PWR. -/
def pwrRead (s : State) (n off : Nat) : Option Word32 :=
  if n = 0 then (if 0x118 ≤ off ∧ off < 0x130 then some (donRead s ((off - 0x118) / 4)) else none)
  else if n = 1 then
    match arrIx off 0x100 8 64 with
    | some (k, 4) => some (setStatRead s k)
    | _ => none
  else none

end Sys2Proof.Machine
end

