-- ==== Sys2Proof/Machine/KeepCtl.lean ====
section
/-! DEFINITION. The Keep's pages: control, fuses, key slots, recovery staging, fault log; and the Lantern pages
(14_events_faults.md R406; 16_startup.md R433, R447, R448, R450; 01_architecture.md R39). -/
namespace Sys2Proof.Machine

/-- Identity of the Keep core (R22). -/
abbrev keepId : MasterId := 23
/-- KEEP_STAT.PHASE (R432). -/
def State.phase (s : State) : Nat := s.regF 0 oStat 28 4
def State.setPhase (s : State) (v : Nat) : State := s.setRegF 0 oStat 28 4 v
/-- The Keep is in recovery (R447). -/
def State.recovery (s : State) : Bool := s.phase == 8

/-! ### Key slots (R448) -/

def State.key (s : State) (n : Nat) : KeySlot := sget s.keys n {}
def State.setKey (s : State) (n : Nat) (k : KeySlot) : State := { s with keys := sput s.keys n k {} }
/-- Bytes of a key of a kind; none where the kind holds none. -/
def keyLen (kind : Nat) : Option Nat := if kind = 1 then some 64 else if kind = 2 then some 32 else none
/-- Ends a KS command with a code. -/
def ksEnd (s : State) (code : Nat) : State := s.setReg 2 0x114 (w32 code)

/-- LOAD: unwraps a blob of IV, tag and encrypted key into a slot. -/
def ksLoad (s : State) (slot kind : Nat) : State :=
  match keyLen kind with
  | none => ksEnd s 3
  | some n =>
    match dmaRead s keepId ((s.reg 2 0x108).toNat + 2 ^ 32 * (s.reg 2 0x10C).toNat) (28 + n) with
    | (s1, .ok (b, false)) =>
      let r := gcm s1.boot.kwrap (b.take 12) (leBytes 2 slot ++ [byte kind]) (b.drop 28) true
      if r.2 = (b.drop 12).take 16 then ksEnd (s1.setKey slot { s1.key slot with kind := kind, key := r.1 }) 1
      else ksEnd s1 2
    | (s1, _) => ksEnd s1 4

/-- A write to KS_CMD. -/
def ksCmd (s : State) (v : Word32) : State :=
  let s1 := s.setReg 2 0x110 (v &&& w32 0xFF33)
  let slot := s.regF 2 0x100 0 12
  match regFld v 0 2 with
  | 1 => ksLoad s1 slot (regFld v 4 2)
  | 2 => ksEnd (s1.setKey slot {}) 1
  | 3 => ksEnd (s1.setKey slot { s1.key slot with grant := byte (regFld v 8 8) }) 1
  | _ => s1

/-! ### Keep control (R39, R433, R450) -/

/-- A write of 0 to REMAP takes effect only while all turrets are held; at any other time it is discarded and recorded, also where REMAP
is 0 already (R39). -/
def keepCtlWrite (s : State) (v : Word32) : State :=
  let s1 :=
    if regBit v 0 then s.setRegF 0 oCtl 0 1 1
    else if (List.finRange 8).all s.held then s.setRegF 0 oCtl 0 1 0
    else fmRecord s 2 0 0 0 0 0
  if regBit v 1 then { s1 with boot := { s1.boot with warm := some 3 } } else s1

/-- SVNUP: the next fuse bit blows where the applied image's security version exceeds FZ_SVN (R433). -/
def svnUp (s : State) (v : Word32) : State :=
  if regBit v 0 ∧ s.regF 1 0x11C 0 6 < (s.reg 0 0x114).toNat ∧ s.regF 1 0x11C 0 6 < 32 then
    s.setRegF 1 0x11C 0 6 (s.regF 1 0x11C 0 6 + 1)
  else s

/-! ### Recovery and image update (R447, R450) -/

/-- A write to page 0x003 by identity `id` in the world `cust` has no right to it. -/
def rcvRefused (s : State) (id : Nat) (cust : Bool) : Bool :=
  if s.recovery then id != 22 else !(s.boot.power == .active && cust)

/-- Staging base: in recovery always the scratch base. -/
def rcvBase (s : State) : Nat :=
  if s.recovery then scrBase else (s.reg 3 0x100).toNat + 2 ^ 32 * s.regF 3 0x104 0 16

/-- A write to RCV_DATA: the word goes to the staging buffer, RCV_ADDR advances by 1 word. -/
def rcvData (s : State) (v : Word32) : State × Option BusCause :=
  let off := (s.reg 3 0x108).toNat
  match dmaWriteRaw s (rcvBase s + off) (leBytes 4 v.toNat) with
  | (s1, some c) => (s1, some c)
  | (s1, none) => (s1.setReg 3 0x108 (w32 (off + 4) &&& w32 0x1FFFFFC), none)

/-- A write to RCV_GO: BUSY until the row of that name performs it. -/
def rcvGo (s : State) (v : Word32) : State :=
  if s.regB 3 0x114 31 then s else s.setReg 3 0x114 (w32 (2 ^ 31 + regFld v 0 3 * 256))

/-! ### Page writes and reads -/

def keepWrite (s : State) (n off : Nat) (v : Word32) : Option (State × Option BusCause) :=
  match n, off with
  | 0, 0x008 => some (keepCtlWrite s v, none)
  | 0, 0x11C => some (svnUp s v, none)
  | 2, 0x110 => some (ksCmd s v, none)
  | 3, 0x10C => some (rcvData s v)
  | 3, 0x110 => some (rcvGo s v, none)
  | _, _ => none

/-- A word of the record that FM_SEL selects (R406). -/
def fmRead (s : State) (off : Nat) : Word32 :=
  let r := sget s.fm.recs (s.regF 0xE 0x104 0 6) {}
  match off with
  | 0x100 => w32 (s.fm.written * 65536 + s.fm.head)
  | 0x108 => r.r0 | 0x10C => r.r1 | 0x110 => r.r2 | 0x114 => r.r3
  | _ => s.reg 0xE off

def keepRead (s : State) (n off : Nat) : Option Word32 :=
  match n with
  | 0 => if off = 0x004 then some (w32 (0x1000 + b2n (!(s.regB 1 0x118 4)) * 65536)) else none
  | 2 => if off = 0x104 then
      let k := s.key (s.regF 2 0x100 0 12)
      some (w32 (k.grant.toNat * 256 + k.kind)) else none
  | 3 => if off = 0x114 then some (s.reg 3 0x114 &&& w32 0x8000000F) else none
  | 14 => if 0x100 ≤ off then some (fmRead s off) else none
  | _ => none

/-- A write to a Lantern page (R76, R450). -/
def lantWrite (s : State) (n off : Nat) (v : Word32) : Option (State × Option BusCause) :=
  if n = 0 ∧ off = 0x100 then some (lantApply (s.setReg 0x3A0 0x100 (v &&& w32 0x1FF)), none) else none

end Sys2Proof.Machine
end

