-- ==== Sys2Proof/Machine/EthFrame.lean ====
section
/-! DEFINITION. Received Ethernet frames: VLAN tag, IP rules, UDP checksum, and what is a CST datagram (10_transport_pair.md R297, R298).
A frame runs from its destination address to the byte before the FCS. -/
namespace Sys2Proof.Machine

def ethPage (n : Nat) : Nat := 0x300 + n

/-- What an Ethernet port makes of a frame. -/
inductive EthRx where
  /-- Longer than 9,216 bytes with its FCS: the port does not take it. -/
  | over
  /-- Dropped and counted by the IP rules and the checksum rule of R297. -/
  | ipRule
  /-- UDP to the port's address and to ETHP_UDPPORT: the sender, and the datagram. -/
  | cst (peer dgram : List Byte)
  /-- Every other frame (R298). -/
  | slow
deriving DecidableEq, Repr

/-- An 802.1Q tag, present or not: the priority, and the offset of the EtherType. An untagged frame has priority 0. -/
def ethTag (f : List Byte) : Nat × Nat := if beAt f 12 2 = 0x8100 then (beAt f 14 2 / 8192, 16) else (0, 12)

/-- Sum of the 16-bit words of a byte string; an odd last byte is followed by a zero. -/
def wordSum : List Byte → Nat
  | [] => 0
  | [a] => a.toNat * 256
  | a :: b :: t => a.toNat * 256 + b.toNat + wordSum t
/-- The UDP datagram `u` with the addresses `a` of its IP packet has a sound checksum; `zeroOk`: a checksum of 0 is accepted. -/
def udpSound (a u : List Byte) (zeroOk : Bool) : Bool :=
  let len := beAt u 4 2
  decide (8 ≤ len ∧ len ≤ u.length) &&
    (if beAt u 6 2 = 0 then zeroOk else (wordSum a + 17 + len + wordSum (u.take len)) % 65535 == 0)

/-- The extension headers of IPv6. -/
def ipExtension (h : Nat) : Bool := [0, 43, 44, 50, 51, 60, 135, 139, 140].contains h

/-- The port's IPv4 and IPv6 addresses (R321). -/
def ethIpv4 (s : State) (n : Nat) : List Byte := beBytes 4 (s.reg (ethPage n) 0x108).toNat
def ethIpv6 (s : State) (n : Nat) : List Byte :=
  ((rangeFrom 0 4).map fun i => beBytes 4 (s.reg (ethPage n) (0x10C + 4 * i)).toNat).flatten

/-- A UDP datagram in an IP packet of source `src` and destination `dst`. The sender is its MAC address, UDP port and IP address. -/
def udpClass (s : State) (n : Nat) (mac src dst own u : List Byte) (zeroOk : Bool) : EthRx :=
  if !(udpSound (src ++ dst) u zeroOk) then .ipRule
  else if dst = own ∧ beAt u 2 2 = s.regF (ethPage n) 0x120 0 16 then
    .cst (mac ++ u.take 2 ++ src) ((u.take (beAt u 4 2)).drop 8)
  else .slow

/-- R297, R298. -/
def ethClass (s : State) (n : Nat) (f : List Byte) : EthRx :=
  if 9212 < f.length then .over
  else
    let t := (ethTag f).2
    let mac := (f.drop 6).take 6
    let p := f.drop (t + 2)
    if beAt f t 2 = 0x0800 then
      if beAt p 0 1 ≠ 0x45 ∨ fld (beAt p 6 2) 0 14 ≠ 0 then .ipRule
      else if beAt p 9 1 = 17 then
        udpClass s n mac ((p.drop 12).take 4) ((p.drop 16).take 4) (ethIpv4 s n) ((p.take (beAt p 2 2)).drop 20) true
      else .slow
    else if beAt f t 2 = 0x86DD then
      if ipExtension (beAt p 6 1) then .ipRule
      else if beAt p 6 1 = 17 then
        udpClass s n mac ((p.drop 8).take 16) ((p.drop 24).take 16) (ethIpv6 s n) ((p.drop 40).take (beAt p 4 2)) false
      else .slow
    else .slow

end Sys2Proof.Machine
end

