-- ==== Sys2Proof/Machine/Transport.lean ====
section
/-! DEFINITION. The Cotha Shelf Transport: CST frames, bulk windows, the slow path, flow control (10_transport_pair.md R297-R305, R321). -/
namespace Sys2Proof.Machine

/-! ### Ports (R321) -/

/-- Ethernet DMA identity that serves port `n` (R22, log entry 10). -/
def ethId (n : Nat) : MasterId := if n < 4 then 19 else 20
/-- Page of port 0-7 (Ethernet) or 8, 9 (MG0, MG1). -/
def linkPage (n : Nat) : Nat := if n < 8 then 0x300 + n else 0x340 + (n - 8)
def linkDomain (n : Nat) : Nat := if n < 8 then pdEth n else pdMgmt
/-- The port is enabled, powered and up: it sends and receives. -/
def State.linkUp (s : State) (n : Nat) : Bool :=
  s.regB (linkPage n) oCtl 0 && (s.dom (linkDomain n) && s.regF (linkPage n) oStat 0 2 != 0)

/-- ETHP_DROP: a dropped CST datagram, or an IP rule drop; both counts saturate. -/
def dropCst (s : State) (n : Nat) : State := s.setRegF (ethPage n) 0x148 16 16 (satAdd (s.regF (ethPage n) 0x148 16 16) 1 0xFFFF)
def dropIp (s : State) (n : Nat) : State := s.setRegF (ethPage n) 0x148 0 16 (satAdd (s.regF (ethPage n) 0x148 0 16) 1 0xFFFF)

/-! ### CST frames (R300) -/

/-- A CST datagram, header fields and payload. -/
structure Cst where
  kind : Nat
  retry : Bool := false
  client : Nat
  seq : Nat
  qid : Nat
  win : Nat := 0xFFFF
  off : Nat := 0
  arg : Nat := 0
  payload : List Byte := []
deriving DecidableEq, Repr

/-- The frame kinds of R300. -/
def cstKinds : List Nat := [1, 2, 3, 4, 5, 6, 7, 8, 0x10, 0x11, 0x20, 0x21, 0x22]

/-- Bytes of a datagram. -/
def cstBytes (f : Cst) : List Byte :=
  let b := [0x10, byte f.kind] ++ beBytes 2 (b2n f.retry) ++ beBytes 6 f.client ++ beBytes 4 f.seq ++ beBytes 4 f.qid ++ beBytes 2 f.win ++
    beBytes 8 f.off ++ beBytes 4 f.arg ++ f.payload
  b ++ beBytes 4 (crcInv b)

/-- A datagram as received; none where R300 drops it. -/
def cstParse (b : List Byte) : Option Cst :=
  let n := b.length
  if n < 36 then none
  else if beAt b (n - 4) 4 ≠ crcInv (b.take (n - 4)) then none
  else if beAt b 0 1 ≠ 0x10 ∨ 1 < beAt b 2 2 ∨ cstKinds.contains (beAt b 1 1) = false then none
  else some { kind := beAt b 1 1, retry := beAt b 2 2 == 1, client := beAt b 4 6, seq := beAt b 10 4, qid := beAt b 14 4, win := beAt b 18 2,
              off := beAt b 20 8, arg := beAt b 28 4, payload := (b.drop 32).take (n - 36) }

/-- Priority of a queue's frames (R299). -/
def cstPrio (s : State) (n q : Nat) : Nat := s.regF (ethPage n) 0x124 (4 * qf (s.ctxRaw q) qCLASS) 3

/-- The VLAN id with which a port tags its frames (R297, R321). -/
def ethVid (s : State) (n : Nat) : Option Nat := if n < 8 ∧ s.regB (ethPage n) 0x11C 12 = true then some (s.regF (ethPage n) 0x11C 0 12) else none
/-- A datagram of a priority leaves the device. -/
def cstOut (s : State) (n prio : Nat) (peer b : List Byte) : State := { s with out := .cst n prio (ethVid s n) peer b :: s.out }

/-- Sends a datagram; a paused priority of an Ethernet port holds it (R297, R299). -/
def cstSend (s : State) (n : Nat) (peer : List Byte) (f : Cst) : State :=
  if s.linkUp n then
    let pr := if n < 8 then cstPrio s n (f.qid % 2 ^ 18) else 0
    if n < 8 ∧ bit (sget s.eth.paused n 0) pr = true then
      { s with eth := { s.eth with held := sput s.eth.held n (sget s.eth.held n [] ++ [{ prio := pr, peer := peer, frame := cstBytes f }]) [] } }
    else cstOut s n pr peer (cstBytes f)
  else s

/-- PFC received (R297): pauses a priority, or resumes it and sends what it held back. -/
def pfcRx (s : State) (n prio : Nat) (pause : Bool) : State :=
  if s.linkUp n then
    let m := sget s.eth.paused n 0
    if pause then { s with eth := { s.eth with paused := sput s.eth.paused n (fldSet m prio 1 1) 0 } }
    else
      let l := sget s.eth.held n []
      let go := l.filter fun f => f.prio = prio
      { s with eth := { s.eth with paused := sput s.eth.paused n (fldSet m prio 1 0) 0, held := sput s.eth.held n (l.filter fun f => f.prio ≠ prio) [] },
               out := (go.map fun f => Out.cst n f.prio (ethVid s n) f.peer f.frame).reverse ++ s.out }
  else s

/-- A frame of `len` bytes enters a priority's receive buffer, which holds nothing else, since a frame is served as it comes: XOFF where
that is more than ETHP_PFCTH (R299). -/
def bufferIn (s : State) (n prio len : Nat) : State :=
  let m := sget s.eth.xoff n 0
  if (s.reg (ethPage n) 0x128).toNat < len ∧ bit m prio = false then
    { s with eth := { s.eth with xoff := sput s.eth.xoff n (fldSet m prio 1 1) 0 }, out := .pfc n prio true :: s.out }
  else s
/-- The buffer is empty again: XON where that is below half of ETHP_PFCTH (R299). -/
def bufferOut (s : State) (n prio : Nat) : State :=
  let m := sget s.eth.xoff n 0
  if 0 < (s.reg (ethPage n) 0x128).toNat ∧ bit m prio = true then
    { s with eth := { s.eth with xoff := sput s.eth.xoff n (fldSet m prio 1 0) 0 }, out := .pfc n prio false :: s.out }
  else s

/-! ### Windows (R301, R302) -/

def State.win (s : State) (w : Nat) : Option Win := sget s.eth.wins w none
def State.setWin (s : State) (w : Nat) (x : Option Win) : State := { s with eth := { s.eth with wins := sput s.eth.wins w x none } }

/-- The window of a key, in a state that satisfies `p`. -/
def findWin (s : State) (p : Win → Bool) : Option (Nat × Win) :=
  s.eth.wins.findSome? fun x => match x.2 with
    | some w => if p w then some (x.1, w) else none
    | none => none
/-- The window has this key (R301). -/
def winKey (f : Cst) (w : Win) : Bool := w.client == f.client && (w.seq == f.seq && w.qid == f.qid)
/-- Windows in use (ETHP_WINUSE). -/
def winUse (s : State) : Nat := (s.eth.wins.filter fun x => x.2.isSome).length

/-- Base of a port's bulk pool. -/
def poolBase (s : State) (n : Nat) : Nat := (s.reg (ethPage n) 0x12C).toNat + 2 ^ 32 * s.regF (ethPage n) 0x130 0 16
/-- Address of a window's inbound part, and of its outbound part (R302). -/
def winIn (s : State) (w : Win) : Nat := poolBase s w.port + w.unit * 65536
def winOut (s : State) (w : Win) : Nat := winIn s w + w.blen

/-- Units of 64 KiB for the two lengths (R302). -/
def winUnits (blen olen : Nat) : Nat := (65535 + (if blen = 0 ∨ olen = 0 then max blen olen else blen + olen)) / 65536
/-- The units from `u` on are free in port `n`'s pool. -/
def unitsFree (s : State) (n u k : Nat) : Bool :=
  s.eth.wins.all fun x => match x.2 with
    | some w => w.port != n || decide (u + k ≤ w.unit ∨ w.unit + w.units ≤ u)
    | none => true
/-- First fit: a place is free from the pool's start or right behind a window. -/
def firstFit (s : State) (n k : Nat) : Option Nat :=
  let ends := s.eth.wins.filterMap fun x => match x.2 with
    | some w => if w.port = n then some (w.unit + w.units) else none
    | none => none
  let size := s.regF (ethPage n) 0x134 0 16
  (0 :: ends).foldl (fun a u => if decide (u + k ≤ size) && unitsFree s n u k then
    (match a with
     | none => some u
     | some v => some (min u v)) else a) none

/-- Number of 8 KiB pages of the inbound part. -/
def winPages (w : Win) : Nat := (8191 + w.blen) / 8192
/-- First missing page. -/
def firstMissing (w : Win) : Option Nat := firstNat (fun i => !(bit w.pages i)) (rangeFrom 0 (winPages w))
/-- The contiguous count (R303). -/
def contig (w : Win) : Nat :=
  match firstMissing w with
  | some i => i * 8192
  | none => w.blen
/-- The inbound limit (R303). -/
def inLimit (s : State) (w : Win) : Nat := min w.blen (contig w + (s.reg 0x308 0x100).toNat)

/-- A frame to a window's client. -/
def winFrame (w : Win) (ix kind off arg : Nat) (payload : List Byte) : Cst :=
  { kind := kind, client := w.client, seq := w.seq, qid := w.qid, win := ix, off := off, arg := arg, payload := payload }
def winSend (s : State) (ix : Nat) (w : Win) (kind off arg : Nat) (payload : List Byte) : State :=
  cstSend s w.rport w.peer (winFrame w ix kind off arg payload)

/-- CREDIT for the inbound part. -/
def sendCredit (s : State) (ix : Nat) : State :=
  match s.win ix with
  | some w => (winSend s ix w 4 (contig w) (inLimit s w) []).setWin ix (some { w with since := 0 })
  | none => s

/-! ### Submission (R258, R302) -/

/-- The port writes an entry at SQTAIL and rings the doorbell: the slot used; none where the ring is full. -/
def submit (s : State) (n q : Nat) (entry : List Byte) : State × Option Nat :=
  match ctxRead s q with
  | (s1, .error _) => (s1, none)
  | (s1, .ok c) =>
    let k := 2 ^ qf c qSQLOG
    let t := qf c qSQTAIL
    if qf c qEN = 0 ∨ (t + 1) % k = qf c qSQHEAD then (s1, none)
    else
      let s2 := (dmaWrite s1 (ethId n) (qf c qSQADDR + t * 64) entry).1
      let s3 : State := { s2 with qe := { s2.qe with dbsel := sput s2.qe.dbsel (ethId n).val q 0 } }
      ((doorbell s3 (ethId n).val true ((t + 1) % k)).1, some t)

/-- The entry with its address fields replaced (R302). -/
def winEntry (s : State) (w : Win) : List Byte :=
  let b := if w.olen = 0 then listPut w.entry 24 (leBytes 8 (winIn s w)) else listPut w.entry 24 (leBytes 8 (winOut s w))
  if w.blen ≠ 0 ∧ w.olen ≠ 0 then listPut b 48 (leBytes 8 (winIn s w)) else b

/-- A submission is remembered until its completion (R304). -/
def subPut (s : State) (x : Sub) : State :=
  { s with eth := { s.eth with subs := x :: s.eth.subs.filter fun y => !(y.qid == x.qid && (y.slot == x.slot && y.seq == x.seq)) } }
/-- A complete window submits its entry (R303). -/
def winSubmit (s : State) (ix : Nat) : State :=
  match s.win ix with
  | none => s
  | some w =>
    match submit s w.port w.qid (winEntry s w) with
    | (s1, some t) => (subPut s1 { qid := w.qid, slot := t, seq := w.seq, win := some ix, port := w.port }).setWin ix (some { w with st := .submitted })
    | (s1, none) => s1

/-- Submits an entry without a window and remembers where its RESP goes (R304); BUSY where the ring is full. -/
def plainSubmit (s : State) (n : Nat) (peer : List Byte) (f : Cst) (entry : List Byte) : State :=
  match submit s n f.qid entry with
  | (s1, some t) => subPut s1 { qid := f.qid, slot := t, seq := f.seq, port := n, peer := peer, client := f.client }
  | (s1, none) => cstSend s1 n peer { kind := 8, client := f.client, seq := f.seq, qid := f.qid }

/-! ### The outbound part (R304) -/

/-- Sends the DATA frame at an offset of the outbound part. -/
def sendData (s : State) (ix off : Nat) : State × Bool :=
  match s.win ix with
  | none => (s, false)
  | some w =>
    match dmaRead s (ethId w.port) (winOut s w + off) (min 8192 (w.olen - off)) with
    | (s1, .ok (d, false)) => (winSend s1 ix w 3 off 0 d, true)
    | (s1, _) => (s1, false)

/-- Sends DATA as far as the limit goes; `k` bounds the frames. -/
def sendMore (s : State) (ix : Nat) : Nat → State
  | 0 => s
  | k + 1 =>
    match s.win ix with
    | none => s
    | some w =>
      let n := min 8192 (w.olen - w.sent)
      if w.st = .sending ∧ 0 < n ∧ w.sent + n ≤ w.limit then
        match sendData s ix w.sent with
        | (s1, true) => sendMore (s1.setWin ix (some { w with sent := w.sent + n })) ix k
        | (s1, false) => s1
      else s

/-- Sends every outstanding DATA frame again. -/
def resendData (s : State) (ix : Nat) : State :=
  match s.win ix with
  | none => s
  | some w =>
    let first := w.acked / 8192
    (rangeFrom first ((8191 + w.sent) / 8192 - first)).foldl (fun t i => (sendData t ix (i * 8192)).1) s

/-- RESP of a window, which becomes RESPONDED. -/
def sendResp (s : State) (ix : Nat) : State :=
  match s.win ix with
  | none => s
  | some w => (winSend s ix w 5 w.sent 0 w.comp).setWin ix (some { w with st := .responded })

/-- The client has acknowledged everything: RESP. -/
def sentAll (s : State) (ix : Nat) : State :=
  match s.win ix with
  | some w => if w.st = .sending ∧ w.olen ≤ w.acked then sendResp s ix else s
  | none => s

/-- A completion of a command that has a window (R304). -/
def winComplete (s : State) (ix : Nat) (w : Win) (comp : List Byte) : State :=
  if leAt comp 6 1 = 0 ∧ 0 < w.olen then
    sendMore (s.setWin ix (some { w with st := .sending, comp := comp, limit := min w.olen 1048576 })) ix 128
  else sendResp (s.setWin ix (some { w with comp := comp })) ix

/-- The submission that a completion of queue `q` answers: the one of its slot and SEQ, or, where the entry was unreadable and SEQ is 0,
the last one of its slot (R255, R304). -/
def subOf (s : State) (q slot seq : Nat) : Option Sub :=
  (s.eth.subs.find? fun x => x.qid == q && (x.slot == slot && x.seq == seq)).orElse fun _ =>
    if seq = 0 then s.eth.subs.find? fun x => x.qid == q && x.slot == slot else none

/-- A completion of a submission: to its window while that awaits it, else as RESP with WIN = 0xFFFF (R304). -/
def subComplete (s : State) (x : Sub) (comp : List Byte) : State :=
  let s1 : State := { s with eth := { s.eth with subs := s.eth.subs.erase x } }
  match x.win with
  | none => cstSend s1 x.port x.peer { kind := 5, client := x.client, seq := leAt comp 0 4, qid := x.qid, payload := comp }
  | some ix =>
    match s1.win ix with
    | some w => if w.st = .submitted ∧ w.qid = x.qid ∧ w.seq = x.seq then winComplete s1 ix w comp else s1
    | none => s1

/-- CQHEAD of queue `q` advances by doorbell of the Ethernet DMA that serves port `n`. -/
def cqAdvance (s : State) (n q : Nat) (c : QCtx) : State :=
  let t : State := { s with qe := { s.qe with dbsel := sput s.qe.dbsel (ethId n).val q 0 } }
  (doorbell t (ethId n).val false ((qf c qCQHEAD + 1) % 2 ^ qf c qCQLOG)).1

/-- The port consumes the completion at CQHEAD of a queue that clients reach through CST (R304); one that answers no submission is
consumed and sent nowhere. -/
def outComplete (s : State) (q : Nat) : State :=
  match ctxRead s q with
  | (s1, .error _) => s1
  | (s1, .ok c) =>
    if qf c qEN = 0 ∨ qf c qCQHEAD = qf c qCQTAIL then s1
    else
      match dmaRead s1 19 (qf c qCQADDR + qf c qCQHEAD * 16) 16 with
      | (s2, .ok (b, false)) =>
        match subOf s2 q (leAt b 4 2) (leAt b 0 4) with
        | some x => subComplete (cqAdvance s2 x.port q c) x b
        | none => cqAdvance s2 0 q c
      | (s2, _) => s2

/-- DATA_RETRANSMIT: page `i` of the outbound part has not been covered by a CREDIT within ETHP_RTO. -/
def dataRetransmit (s : State) (ix i : Nat) : State :=
  match s.win ix with
  | some w => if w.st = .sending ∧ w.acked ≤ i * 8192 ∧ i * 8192 < w.sent then (sendData s ix (i * 8192)).1 else s
  | none => s

/-- RESP again after ETHP_RTO; the window is freed after ETHP_RSPTRY repeats. -/
def respAgain (s : State) (ix : Nat) : State :=
  match s.win ix with
  | some w =>
    if w.st = .responded then
      if w.tries < s.regF 0x308 0x108 0 4 then (sendResp s ix).setWin ix (some { w with tries := w.tries + 1 }) else s.setWin ix none
    else s
  | none => s

/-! ### Received frames (R301, R303, R304) -/

/-- NOTHOME's payload. -/
def peerAddr (s : State) : List Byte := ((rangeFrom 0 4).map fun i => beBytes 4 (s.reg 0x308 (0x110 + 4 * i)).toNat).flatten

/-- The replay cache holds the completion of a sequence whose window bit is set (R301). -/
def cachedSeq (s : State) (c : QCtx) (seq : Nat) : Bool :=
  let d := seqDist seq (qf c qWBASE)
  decide (d < 64) && (bit (qf c qWMAP) d &&
    (match goodData (dmaReadRaw s (qf c qRCADDR + seq % 64 * 16) 16).2 with
     | some b => bit (leAt b 8 8) 63 && leAt b 0 4 == seq
     | none => false))

/-- A new window, or BUSY. -/
def newWindow (s : State) (n : Nat) (peer : List Byte) (f : Cst) : State :=
  let busy := cstSend s n peer { kind := 8, client := f.client, seq := f.seq, qid := f.qid }
  match firstNat (fun i => (s.win i).isNone) (rangeFrom 0 4096), firstFit s n (winUnits f.off f.arg) with
  | some ix, some u =>
    let w : Win := { client := f.client, seq := f.seq, qid := f.qid, port := n, rport := n, peer := peer, unit := u, units := winUnits f.off f.arg,
                     blen := f.off, olen := f.arg, entry := f.payload }
    let s1 := winSend (s.setWin ix (some w)) ix w 2 0 (inLimit s w) []
    if w.blen = 0 then winSubmit s1 ix else s1
  | _, _ => busy

/-- REQ (R301). -/
def reqRx (s : State) (n : Nat) (peer : List Byte) (f : Cst) : State :=
  if f.payload.length ≠ 64 ∨ leAt f.payload 8 6 ≠ f.client ∨ leAt f.payload 4 4 ≠ f.seq ∨ 2 ^ 18 ≤ f.qid then dropCst s n
  else
    let away := fun (t : State) => cstSend t n peer { kind := 7, client := f.client, seq := f.seq, qid := f.qid, payload := peerAddr t }
    match ctxRead s f.qid with
    | (s1, .error _) => away s1
    | (s1, .ok c) =>
      if qf c qEN = 0 ∨ qf c qHOME = 0 then away s1
      else
        match findWin s1 (winKey f) with
        | some (ix, w0) =>
          let w := { w0 with rport := n, peer := peer }
          let s1 := s1.setWin ix (some w)
          match w.st with
          | .filling =>
            let s2 := winSend s1 ix w 2 (contig w) (inLimit s1 w) []
            if (firstMissing w).isNone then winSubmit s2 ix else s2
          | .submitted => winSend s1 ix w 2 w.blen w.blen []
          | .sending => resendData s1 ix
          | .responded => sendResp s1 ix
        | none =>
          if cachedSeq s1 c f.seq then plainSubmit s1 n peer f (listPut f.payload 24 (leBytes 8 0))
          else if f.off = 0 ∧ f.arg = 0 then plainSubmit s1 n peer f f.payload
          else newWindow s1 n peer f

/-- The frame has one of the two shapes of R303. -/
def dataShape (w : Win) (f : Cst) : Bool :=
  f.off % 8192 == 0 && decide (f.off < w.blen ∧ f.payload.length = min 8192 (w.blen - f.off))

/-- DATA (R303). -/
def dataRx (s : State) (n : Nat) (f : Cst) : State :=
  match s.win f.win with
  | none => s
  | some w =>
    if !(winKey f w) then s
    else if !(dataShape w f) then dropCst s n
    else if bit w.pages (f.off / 8192) then sendCredit s f.win
    else if inLimit s w < f.off + f.payload.length then s
    else
      match dmaWrite s (ethId w.port) (winIn s w + f.off) f.payload with
      | (s1, some _) => s1
      | (s1, none) =>
        let w1 := { w with pages := w.pages + 2 ^ (f.off / 8192), got := w.got + 1, since := w.since + 1 }
        let s2 := s1.setWin f.win (some w1)
        if (firstMissing w1).isNone then winSubmit (sendCredit s2 f.win) f.win
        else if w1.got % 32 = 0 then sendCredit s2 f.win else s2

/-- CREDIT of a client (R304). -/
def creditRx (s : State) (f : Cst) : State :=
  match s.win f.win with
  | some w =>
    if winKey f w && w.st == .sending then
      let w1 := { w with acked := max w.acked (min f.off w.sent), limit := max w.limit (min f.arg w.olen) }
      sentAll (sendMore (s.setWin f.win (some w1)) f.win 65536) f.win
    else s
  | none => s

/-- RACK (R304). -/
def rackRx (s : State) (f : Cst) : State :=
  match s.win f.win with
  | some w => if winKey f w && w.st == .responded then s.setWin f.win none else s
  | none => s

/-- A CST datagram of kind `want` received at an Ethernet port from a peer (R300). -/
def cstRx (s : State) (n : Nat) (peer dgram : List Byte) (want : Nat) : State :=
  match cstParse dgram with
  | none => dropCst s n
  | some f =>
    if f.kind ≠ want then s
    else if want = 1 then reqRx s n peer f
    else if want = 3 then dataRx s n f
    else if want = 4 then creditRx s f
    else rackRx s f

/-- A frame received at a port that is up, served by `f` (R299). -/
def ethRx (s : State) (n : Nat) (frame : List Byte) (f : State → EthRx → State) : State :=
  if s.linkUp n then
    let prio := (ethTag frame).1
    bufferOut (f (bufferIn s n prio frame.length) (ethClass s n frame)) n prio
  else s
/-- A frame that is a CST datagram of kind `want`; the row of another kind of frame does nothing (R298). -/
def cstFrame (s : State) (n : Nat) (frame : List Byte) (want : Nat) : State :=
  ethRx s n frame fun t c => match c with
    | .cst peer dgram => cstRx t n peer dgram want
    | _ => t

/-- 50 µs after the last accepted frame (R303). -/
def creditTimer (s : State) (ix : Nat) : State :=
  match s.win ix with
  | some w => if w.st = .filling ∧ 0 < w.since then sendCredit s ix else s
  | none => s

/-! ### Slow path (R298) -/

def spBase (s : State) (n : Nat) : Nat := (s.reg (ethPage n) 0x138).toNat + 2 ^ 32 * s.regF (ethPage n) 0x13C 0 16

/-- A frame goes to the receive ring. -/
def slowPut (s : State) (n : Nat) (frame : List Byte) : State :=
  let head := s.regF (ethPage n) 0x140 0 8
  let tail := s.regF (ethPage n) 0x140 16 8
  if (tail + 1) % 256 = head then s
  else
    match dmaWrite s (ethId n) (spBase s n + tail * 10240) (leBytes 4 frame.length ++ frame) with
    | (s1, some _) => s1
    | (s1, none) => (s1.setRegF (ethPage n) 0x140 16 8 ((tail + 1) % 256)).irqBit (ethPage n) 2
/-- A frame that is no CST datagram goes to the receive ring; one that breaks R297's IP rules is dropped and counted. -/
def slowRx (s : State) (n : Nat) (frame : List Byte) : State :=
  ethRx s n frame fun t c => match c with
    | .over => t
    | .ipRule => dropIp t n
    | .cst _ _ => t
    | .slow => slowPut t n frame

/-- Sends the queued frames of the transmit ring, at most `k`. -/
def slowTx (s : State) (n : Nat) : Nat → State
  | 0 => s
  | k + 1 =>
    let tail := s.regF (ethPage n) 0x144 16 8
    let head := s.regF (ethPage n) 0x144 0 8
    if head = tail ∨ s.linkUp n = false then s
    else
      let a := 2621440 + spBase s n + head * 10240
      match dmaRead s (ethId n) a 4 with
      | (s1, .ok (l, false)) =>
        match dmaRead s1 (ethId n) (a + 4) (min (ofLE l) 10236) with
        | (s2, .ok (d, false)) =>
          slowTx ({ s2 with out := .slow n d :: s2.out }.setRegF (ethPage n) 0x144 0 8 ((head + 1) % 256)) n k
        | (s2, _) => slowTx (s2.setRegF (ethPage n) 0x144 0 8 ((head + 1) % 256)) n k
      | (s1, _) => slowTx (s1.setRegF (ethPage n) 0x144 0 8 ((head + 1) % 256)) n k

/-! ### Link state, pages -/

/-- A write to CTL of an Ethernet, pair or management port page: a port that is no longer enabled, or changes its mode, goes down. -/
def linkCtlWrite (s : State) (page : Nat) (m v : Word32) : State :=
  let s1 := s.setReg page oCtl (v &&& m)
  if s1.reg page oCtl != s.reg page oCtl then portDownAll s1 page else s1

/-- PORT_CAME_UP of port 0-7 (Ethernet) or 8, 9 (management) and sub-port. -/
def portCameUp (s : State) (n sub : Nat) : State :=
  let mode := s.regF (linkPage n) oCtl 1 2
  let has := if n < 8 then (mode == 1 && sub == 0) || mode == 2 else sub == 0
  if has && (s.regB (linkPage n) oCtl 0 && (s.dom (linkDomain n) && !(s.regB (linkPage n) oStat sub))) then
    let s1 := portUpEdge s (linkPage n) sub
    if n < 8 then slowTx s1 n 256 else s1
  else s

/-- The action of a lasting fault on a port page (R404): CTL.EN is cleared. -/
def linkLasting (s : State) (page : Nat) : State := portDownAll (s.setRegF page oCtl 0 1 0) page

def ethpWrite (s : State) (n off : Nat) (v : Word32) : Option (State × Option BusCause) :=
  if n < 8 then
    match off with
    | 0x008 => some (linkCtlWrite s (ethPage n) 7 v, none)
    | 0x144 => some (slowTx (s.setRegF (ethPage n) 0x144 16 8 (regFld v 16 8)) n 256, none)
    | _ => none
  else none

/-- A fused MAC address plus `k`: its low or high word (R433). -/
def macWord (s : State) (k : Nat) (hi : Bool) : Word32 :=
  let m := ((s.reg 1 0x110).toNat + 2 ^ 32 * (s.reg 1 0x114).toNat + k) % 2 ^ 48
  w32 (if hi then m / 2 ^ 32 else m)

def ethpRead (s : State) (n off : Nat) : Option Word32 :=
  if n < 8 then
    match off with
    | 0x00C => some (if s.dom (pdEth n) then s.reg (ethPage n) oStat else 0)
    | 0x100 => some (macWord s n false)
    | 0x104 => some (macWord s n true)
    | _ => none
  else if off = 0x10C then some (w32 (winUse s)) else none

def mgmtRead (s : State) (n off : Nat) : Option Word32 :=
  match off with
  | 0x00C => some (if s.dom pdMgmt then s.reg (0x340 + n) oStat else 0)
  | 0x100 => some (macWord s (8 + n) false)
  | 0x104 => some (macWord s (8 + n) true)
  | _ => none

end Sys2Proof.Machine
end

