-- ==== Sys2Proof/Machine/PairLink.lean ====
section
/-! DEFINITION. The pair-link supervision and the pair DMA: mirroring, deltas, heartbeat, loss, join, lease
(10_transport_pair.md R309-R320, R322). -/
namespace Sys2Proof.Machine

/-- Identity of the pair DMA (R22). -/
abbrev pairId : MasterId := 21
/-- 64 bits from two words of page 0x324. -/
def State.sup64 (s : State) (off : Nat) : Nat := (s.reg 0x324 off).toNat + 2 ^ 32 * (s.reg 0x324 (off + 4)).toNat
def State.setSup64 (s : State) (off v : Nat) : State :=
  (s.setReg 0x324 off (w32 v)).setReg 0x324 (off + 4) (w32 (v / 2 ^ 32))
/-- Journal epoch. -/
def State.epoch (s : State) : Nat := s.sup64 0x108
def State.setEpoch (s : State) (v : Nat) : State := s.setSup64 0x108 v
/-- Own serial: FZ_SERIAL (R433). -/
def State.serialNo (s : State) : Nat := (s.reg 1 0x100).toNat + 2 ^ 32 * (s.reg 1 0x104).toNat
def State.setPstate (s : State) (v : Nat) : State := s.setRegF 0x324 0x104 0 3 v
def State.setPlink (s : State) (x : PairLink) : State := { s with plink := x }
/-- PAIR_CTL.NOWIT and JOINEN. -/
def State.nowit (s : State) : Bool := s.regB 0x324 0x100 1
def State.joinen (s : State) : Bool := s.regB 0x324 0x100 0

/-! ### The mirror region and the journal (R309) -/

def mirBase (s : State) : Nat := s.sup64 0x130 % 2 ^ 48
def mirSize (s : State) : Nat := s.sup64 0x138 % 2 ^ 48
/-- Address of a journal slot. -/
def jSlot (s : State) (k : Nat) : Nat := s.sup64 0x140 % 2 ^ 48 + k % 65536 * 64

/-! ### PMASTER and the survivor's and fenced device's steps (R283, R315) -/

/-- This device becomes the power master: it drives the bays of its powered sets and queues the members of a set that is
SPINNING (R283, R285, R296). -/
def masterTaken (s : State) : State :=
  if s.pmaster then s
  else
    let s1 := s.setRegF 0x350 oStat 31 1 1
    (rangeFrom 0 64).foldl (fun t k =>
      let st := t.setSt k
      let l := t.liveMembers k
      if st = 0 ∨ st = 1 then t
      else
        let t1 := l.foldl (fun u p => u.setBay p true) t
        if st = 2 then
          let t2 := l.foldl (fun u p => u.setMstate p 2) t1
          { t2 with pwr := { t2.pwr with queue := t2.pwr.queue ++ l } }
        else t1) s1

/-- Every mirror request that awaits MACK completes with LOST (R310). -/
def mirrorEnd (s : State) (m : Mirror) (status : Nat) : State :=
  match dmaWrite s pairId (m.addr + 56) (leBytes 8 (3 + status * 256)) with
  | (s1, some _) => s1
  | (s1, none) => if bit m.w6 13 then dmaRing s1 pairId (fld m.w6 0 6) (fld m.w6 8 5) else s1
def mirrorsLost (s : State) : State :=
  s.plink.mirrors.foldl (fun t m => mirrorEnd t m 2) (s.setPlink { s.plink with mirrors := [] })

/-- A survivor's steps (R315). -/
def survive (s : State) : State :=
  let s1 := masterTaken (homeAll ((s.setEpoch (s.epoch + 1)).setPstate 0) true)
  (fctlWrite s1 2).irqBit 0x324 1

/-- The device serves alone (R317, R319): SOLO, HOME on every enabled queue, power master. -/
def enterSolo (s : State) : State := masterTaken (homeAll (s.setPstate 0) true)

/-- The commands dispatched so far have their completions discarded (R315). -/
def dropDispatched (s : State) : State :=
  { s with qe := { s.qe with ift := s.qe.ift.map fun x => (x.1, x.2.map fun e => { e with drop := true }) } }

/-- The deltas without a DACK are released: a completion formed at intake is written, another one only where the device survives;
a fenced device discards it with its command (R315, R322). -/
def deltasReleased (s : State) (survivor : Bool) : State :=
  let ws := s.qe.waits
  let s1 : State := { s with qe := { s.qe with deltas := [], waits := [] } }
  ws.foldl (fun t w => if survivor || w.ift.isNone then compTail t w.q w.comp w.ift else t) s1

/-- A fenced device's steps (R315). -/
def fencedSteps (s : State) : State := fenceDevice (dropDispatched s)

/-- Loss of the partner (R315). -/
def loss (s : State) : State :=
  if s.nowit || s.plink.lost then s
  else
    let s1 := (s.setPlink { s.plink with lost := true, lastHb := none, offs := [], far := 0, joined := false, loser := false }).irqBit 0x324 0
    if s.plink.lease && !s.fm.selfStop then deltasReleased (mirrorsLost (survive s1)) true
    else deltasReleased (mirrorsLost (fencedSteps s1)) false

/-! ### Messages of the supervision (R314, R316) -/

/-- HB record. -/
def hbRecord (s : State) : List Byte :=
  beBytes 8 s.time ++ beBytes 8 s.epoch ++ [byte s.pstate, byte (b2n s.pmaster + 2 * b2n s.plink.lease)] ++ List.replicate 14 0

/-- The Keep sets the own reservation key at join (R292): one written before stays; else the spec states no value, and the key is free. -/
def joinKey (s : State) : State :=
  if (s.reg 0x2FF 0x100).toNat + 2 ^ 32 * (s.reg 0x2FF 0x104).toNat = 0 then
    let f := s.fresh
    (f.2.setReg 0x2FF 0x100 (w32 (max 1 f.1.toNat))).setReg 0x2FF 0x104 (w32 (f.1.toNat / 2 ^ 32))
  else s

/-- JOIN or JOINRSP record; `outcome` is byte 0 of the tail. -/
def joinRecord (s : State) (outcome : Nat) : List Byte :=
  beBytes 2 (s.regF 0x324 0x120 0 16) ++ List.replicate 6 0 ++ beBytes 8 s.serialNo ++ beBytes 8 s.epoch ++ beBytes 8 s.time ++
  ((rangeFrom 0 8).map fun i => beBytes 4 (s.reg 0x324 (0x150 + 4 * i)).toNat).flatten ++ beBytes 8 (s.key64 0x100) ++
  [byte s.pstate, byte (b2n s.plink.lease)] ++ List.replicate 6 0 ++ (byte outcome :: List.replicate 15 0)

/-- PSTATE record: the two words of each set, then the ready flags. -/
def pstateRecord (s : State) : List Byte :=
  ((rangeFrom 0 64).map fun k => beBytes 4 (s.reg 0x351 (0x100 + 8 * k)).toNat ++ beBytes 4 (setStatRead s k).toNat).flatten ++
  beBytes 4 (s.reg 0x350 0x150).toNat ++ beBytes 4 (s.reg 0x350 0x154).toNat

/-- The supervision sends no heartbeats: after a self-stop, or in an entry to VIGIL or OFF (R405, R430). -/
def hbStopped (s : State) : Bool := s.fm.selfStop || s.boot.quiet

/-- BCMP00 fires (R314, R317, R319): HB on every up port, JOIN and PSTATE on the lowest; a device without a witness enters SOLO. -/
def heartbeat (s : State) : State :=
  let s0 := s.setPlink { s.plink with mcys := min 100 (s.plink.mcys + 1) }
  if hbStopped s then s0
  else
    let s1 := s0.upPorts.foldl (fun t n => pairSend t n 3 t.serialNo (hbRecord t)) s0
    let s2 := match s1.deltaPort with
      | some n =>
        let t := if s1.joinen && (s1.pstate != 3 && s1.pstate != 2) then
          let u := joinKey s1
          pairSend u n 1 u.serialNo (joinRecord u 0) else s1
        if s1.paired && s1.pmaster then pairSend t n 10 0 (pstateRecord t) else t
      | none => s1
    if s2.nowit && (s2.pstate == 4 && !s2.fence) then enterSolo s2 else s2

/-! ### Cycle count and phase offset (R314, R318) -/

/-- d: the sender's CYCLE minus the local CYCLE at the local PHASE = 0 tick nearest the arrival; `t` is the sender's time at sending,
`rtt` the round-trip time in phase units. -/
def cycleDiff (s : State) (t rtt : Nat) : Int :=
  let near := (32768 + s.time) / 65536 * 65536
  (Int.ofNat (t + rtt / 2) + Int.ofNat near - Int.ofNat s.time) / 65536 - Int.ofNat (near / 65536)

/-- A difference of exactly 1 is left uncorrected. -/
def farOff (d : Int) : Bool := decide (1 < d ∨ d < -1)

/-- The lower serial writes BELF_SLEW = d, unless a slew is in progress (R318). -/
def supSlew (s : State) (d : Int) (partner : Nat) : State :=
  if farOff d && (decide (s.serialNo < partner) && s.belf.slew == 0) then
    s.setBelf { s.belf with slew := w32 (uns d 32), slewWait := 0, own := true }
  else s

/-- HB of the partner at port `n` (R314, R318). -/
def hbRx (s : State) (n rtt : Nat) : State :=
  match inboxTake s n 3 with
  | none => s
  | some (m, s1) =>
    let t := beAt m.payload 0 8
    if s1.plink.lastHb = some t ∨ m.payload.length ≠ 32 then s1
    else
      let off := sgn (uns (Int.ofNat s.belf.phase.toNat - Int.ofNat (t % 65536) - Int.ofNat (rtt / 2)) 16) 16
      let l := (off :: s1.plink.offs).take 16
      let d := cycleDiff s1 t rtt
      let far := if farOff d && s1.belf.slew == 0 then s1.plink.far + 1 else 0
      let s2 := s1.setPlink { s1.plink with lastHb := some t, lost := false, offs := l, far := if far = 16 then 0 else far }
      let s3 := (s2.setReg 0x324 0x124 (w32 (uns ((l.foldl (· + ·) 0).tdiv (Int.ofNat l.length)) 16))).setReg 0x324 0x128 (w32 (uns d 32))
      if far = 16 then supSlew s3 d m.tag else s3

/-! ### Join (R316, R317, R322) -/

/-- This device is the joiner against a partner with this serial and PSTATE. -/
def isJoiner (s : State) (serial pst : Nat) : Bool :=
  let here := s.pstate == 0
  let there := pst == 0 || pst == 3
  if here == there then decide (s.serialNo < serial) else !here

/-- A join is accepted: the winner serves alone, the loser resynchronises (R317). -/
def joinGo (s : State) (epoch serial key : Nat) : State :=
  let win := decide (epoch < s.epoch ∨ (epoch = s.epoch ∧ serial < s.serialNo))
  let s1 := s.setPlink { s.plink with joined := true, loser := !win, pepoch := epoch, pkey := key }
  if !win then homeAll (masterLost (s1.setPstate 2)) false
  else if s1.pstate = 0 ∨ s1.fence = true then s1
  else if s1.nowit || s1.plink.lease then enterSolo s1 else s1

/-- The parts of a JOIN or JOINRSP record: serial, epoch, time, digest, key, PSTATE. -/
def joinParts (b : List Byte) : Nat × Nat × Nat × List Byte × Nat × Nat :=
  (beAt b 8 8, beAt b 16 8, beAt b 24 8, (b.drop 32).take 32, beAt b 64 8, leAt b 72 1)

/-- The partner's serial, and the slew of R318. -/
def joinSeen (s : State) (serial time : Nat) : State := supSlew (s.setSup64 0x118 serial) (cycleDiff s time 0) serial

/-- No join is decided here: in RESYNC or PAIRED, after a refusal, which lasts until the restart, or after a self-stop, which lasts until
the device warm reset (R317, R405). -/
def joinShut (s : State) : Bool := s.pstate == 2 || (s.pstate == 3 || (s.plink.refused || s.fm.selfStop))

/-- JOIN at port `n`: the host accepts or refuses (R317). -/
def joinRx (s : State) (n : Nat) : State :=
  match inboxTake s n 1 with
  | none => s
  | some (m, s1) =>
    let (serial, epoch, time, digest, key, pst) := joinParts m.payload
    if m.payload.length ≠ 96 ∨ joinShut s1 = true then s1
    else
      let s2 := joinKey (joinSeen s1 serial time)
      if isJoiner s2 serial pst then s2
      else if beAt m.payload 0 2 ≠ s2.regF 0x324 0x120 0 16 then pairSend s2 n 2 s2.serialNo (joinRecord s2 1)
      else if digest ≠ (joinRecord s2 0 |>.drop 32 |>.take 32) then pairSend s2 n 2 s2.serialNo (joinRecord s2 2)
      else joinGo (pairSend s2 n 2 s2.serialNo (joinRecord s2 0)) epoch serial key

/-- JOINRSP at port `n` (R317). -/
def joinrspRx (s : State) (n : Nat) : State :=
  match inboxTake s n 2 with
  | none => s
  | some (m, s1) =>
    let (serial, epoch, time, _, key, _) := joinParts m.payload
    if m.payload.length ≠ 96 ∨ joinShut s1 = true then s1
    else
      let s2 := joinSeen s1 serial time
      if leAt m.payload 80 1 = 0 then joinGo s2 epoch serial key
      else (homeAll (masterLost ((s2.setPlink { s2.plink with refused := true, joined := false }).setPstate 4)) false).irqBit 0x324 3

/-- A SATA drive found on a port while a pair is joined is held powered down and reported (R3, R280). -/
def sataShut (s : State) : State := (allPorts.filter fun p => (s.port p).lp == 8).foldl (fun t p => upEdge t (sataHold t p) p) s

/-- The copy has ended (R317): both devices enter PAIRED; each key register holds its key (R292), and SATA ports are held (R3). -/
def resyncDone (s : State) : State :=
  if s.plink.joined && !s.fm.selfStop then
    let top := (if s.plink.loser then s.plink.pepoch else s.epoch) + 1
    let s1 := ((s.setEpoch top).setPstate 3).setPlink { s.plink with joined := false, loser := false }
    let s2 := ((s1.setReg 0x2FF 0x108 (w32 s.plink.pkey)).setReg 0x2FF 0x10C (w32 (s.plink.pkey / 2 ^ 32))).setRegF 0x120 oStat 2 1 0
    sataShut (((if s.plink.lease then masterTaken s2 else masterLost s2).irqBit 0x324 2).irqBit 0x324 5)
  else s

/-! ### The resync copy (R317): journal area, mirror region and queue records, laid end to end -/

/-- What a region offset names: an address and the length of its record; the queues' records follow the two areas. -/
def resyncPlace (s : State) (off : Nat) : Nat × Nat :=
  if off < 4194304 then (jSlot s 0 + off, min 4096 (4194304 - off))
  else if off - 4194304 < mirSize s then (mirBase s + (off - 4194304), min 4096 (mirSize s - (off - 4194304)))
  else (0, 0)
/-- The queue whose record a region offset names. -/
def resyncQueue (s : State) (off : Nat) : Nat := (off - 4194304 - mirSize s) / 1088

/-- The winner sends the chunk at a region offset. -/
def resyncSend (s : State) (n off : Nat) : State :=
  if s.plink.joined && (!s.plink.loser && s.pairUp n) then
    let a := resyncPlace s off
    if a.2 ≠ 0 then
      match dmaRead s pairId a.1 a.2 with
      | (s1, .ok (d, false)) => pairSend s1 n 11 off d
      | (s1, _) => s1
    else
      match ctxRead s (resyncQueue s off % 262144) with
      | (s1, .ok c) =>
        if qf c qEN = 1 then
          match dmaRead s1 pairId (qf c qRCADDR) 1024 with
          | (s2, .ok (d, false)) => pairSend s2 n 11 off (ctxBytes c ++ d)
          | (s2, _) => s2
        else s1
      | (s1, .error _) => s1
  else s

/-- The running fields of a context taken from another (R311). -/
def takeRunning (c x : QCtx) : QCtx :=
  [qWBASE, qNCOMP, qWMAP, qLASTSTAT, qSQHEAD, qCQTAIL, qCQPHASE].foldl (fun a f => qset a f (qf x f)) (qset c qCQHEAD (qf x qCQTAIL))

/-- The loser takes a chunk. -/
def resyncRx (s : State) (n : Nat) : State :=
  match inboxTake s n 11 with
  | none => s
  | some (m, s1) =>
    if s1.plink.loser then
      let a := resyncPlace s1 m.tag
      if a.2 ≠ 0 then (dmaWrite s1 pairId a.1 (m.payload.take a.2)).1
      else
        let q := resyncQueue s1 m.tag % 262144
        match ctxRead s1 q with
        | (s2, .ok c) =>
          if qf c qEN = 1 then
            (dmaWrite (ctxStore s2 q (takeRunning c (ctxOf (m.payload.take 64)))) pairId (qf c qRCADDR) (m.payload.drop 64)).1
          else s2
        | (s2, .error _) => s2
    else s1

/-! ### Mirroring (R309, R310) -/

/-- The next up port of the round robin. -/
def robinPort (s : State) : Option Nat := firstNat (fun n => s.pairUp (n % 4)) (rangeFrom s.plink.robin 4)
/-- Sends a message on the next port of the round robin. -/
def robinSend (s : State) (type tag : Nat) (payload : List Byte) : State :=
  match robinPort s with
  | some n => pairSend (s.setPlink { s.plink with robin := (n + 1) % 4 }) (n % 4) type tag payload
  | none => s

/-- Sends the data of a request as WAB chunks: how many, or none where a read failed. -/
def wabSend (s : State) (mid src moff : Nat) : Nat → Nat → Nat → State × Option Nat
  | 0, _, k => (s, some k)
  | _ + 1, 0, k => (s, some k)
  | f + 1, len, k =>
    let n := min 65528 len
    match dmaRead s pairId src n with
    | (s1, .ok (d, false)) => wabSend (robinSend s1 4 mid (beBytes 8 moff ++ d)) mid (src + n) (moff + n) f (len - n) (k + 1)
    | (s1, _) => (s1, none)

/-- Serves a request that starts (R310); `b` are the slot's words. -/
def mirrorServe (s : State) (addr : Nat) (b : List Byte) : State :=
  let m : Mirror := { mid := s.plink.mid, addr := addr, w6 := leAt b 48 8 }
  let js := jSlot s (leAt b 30 2)
  let wait := fun (t : State) (x : Mirror) => t.setPlink { t.plink with mirrors := t.plink.mirrors ++ [x] }
  if bit (leAt b 32 8) 0 then
    match dmaRead s pairId js 16 with
    | (s1, .ok (r, false)) =>
      match dmaWrite s1 pairId js (List.replicate 8 0) with
      | (s2, none) =>
        if s2.pstate = 0 then mirrorEnd s2 m 1
        else if s2.paired then wait (robinSend s2 9 (leAt b 30 2) []) { m with mid := leAt r 8 8 }
        else mirrorEnd s2 m 2
      | (s2, some _) => mirrorEnd s2 m 3
    | (s1, _) => mirrorEnd s1 m 3
  else
    let len := leAt b 8 4
    let moff := leAt b 16 6
    if len % 64 ≠ 0 ∨ mirSize s < moff + len then mirrorEnd s m 4
    else if s.pstate ≠ 0 ∧ s.paired = false then mirrorEnd s m 2
    else
      let s0 := s.setPlink { s.plink with mid := (s.plink.mid + 1) % 2 ^ 64 }
      match dmaRead s0 pairId (leAt b 24 6) 64 with
      | (s1, .ok (r, false)) =>
        let jr := leBytes 8 s.epoch ++ leBytes 8 m.mid ++ r.drop 16
        match dmaWrite s1 pairId (leAt b 24 6) (jr.take 16) with
        | (s2, some _) => mirrorEnd s2 m 3
        | (s2, none) =>
          match dmaWrite s2 pairId js jr with
          | (s3, some _) => mirrorEnd s3 m 3
          | (s3, none) =>
            if s3.pstate = 0 then mirrorEnd s3 m 1
            else
              match wabSend s3 m.mid (leAt b 0 6) moff 65537 len 0 with
              | (s4, some k) => wait (robinSend s4 5 m.mid (beBytes 8 k ++ jr)) m
              | (s4, none) => mirrorEnd s4 m 3
      | (s1, _) => mirrorEnd s1 m 3

/-- MIRROR_REQUEST: the pair DMA reads slot HEAD of ring `r` and serves it if its OWNER is 1 (R275, R309, R310); a device that is
PAIRED waits for a port that is up. -/
def mirrorRequest (s : State) (r : Nat) : State :=
  let w := s.reg 0x325 (0x100 + 8 * r)
  if regBit w 31 && (!s.paired || s.deltaPort.isSome) then
    let head := s.regF 0x325 (0x104 + 8 * r) 0 6
    let addr := scrBase + regFld w 12 14 * 4096 + head * 64
    match dmaRead s pairId addr 64 with
    | (s1, .ok (b, false)) =>
      if leAt b 56 1 = 1 then
        let s2 := (dmaWrite s1 pairId (addr + 56) (leBytes 8 (fldSet (leAt b 56 8) 0 8 2))).1
        mirrorServe (s2.setReg 0x325 (0x104 + 8 * r) (w32 ((head + 1) % 64))) addr b
      else s1
    | (s1, _) => s1
  else s

/-- The partner writes the record of a JREC into its slot and returns MACK (R310). -/
def jrecWrite (s : State) (n slot : Nat) (m : PairMsg) : State :=
  match dmaWrite s pairId (jSlot s slot) (m.payload.drop 8) with
  | (s1, none) => pairSend (s1.setPlink { s1.plink with chunks := sput s1.plink.chunks m.tag 0 0 }) n 6 m.tag []
  | (s1, some _) => s1

/-- Every chunk that a JREC counts has been written. -/
def jrecReady (s : State) (m : PairMsg) : Bool := decide (beAt m.payload 0 8 ≤ sget s.plink.chunks m.tag 0)

/-- WAB (R310). -/
def wabRx (s : State) (n : Nat) : State :=
  match inboxTake s n 4 with
  | none => s
  | some (m, s1) =>
    let off := beAt m.payload 0 8
    if mirSize s1 < off + (m.payload.length - 8) ∨ m.payload.length < 8 then s1
    else
      match dmaWrite s1 pairId (mirBase s1 + off) (m.payload.drop 8) with
      | (s2, some _) => s2
      | (s2, none) =>
        let s3 := s2.setPlink { s2.plink with chunks := sput s2.plink.chunks m.tag (sget s2.plink.chunks m.tag 0 + 1) 0 }
        match s3.plink.jrecs.find? fun j => j.2.2.tag == m.tag && jrecReady s3 j.2.2 with
        | some j => jrecWrite (s3.setPlink { s3.plink with jrecs := s3.plink.jrecs.erase j }) j.1 j.2.1 j.2.2
        | none => s3

/-- JREC for journal slot `slot` (R310). -/
def jrecRx (s : State) (n slot : Nat) : State :=
  match inboxTake s n 5 with
  | none => s
  | some (m, s1) =>
    if m.payload.length ≠ 72 then s1
    else if jrecReady s1 m then jrecWrite s1 n slot m
    else s1.setPlink { s1.plink with jrecs := s1.plink.jrecs ++ [(n, slot, m)] }

/-- MACK (R310): a MACK that no request awaits is discarded (R322). -/
def mackRx (s : State) (n : Nat) : State :=
  match inboxTake s n 6 with
  | none => s
  | some (m, s1) =>
    match s1.plink.mirrors.find? fun x => x.mid == m.tag with
    | some x => mirrorEnd (s1.setPlink { s1.plink with mirrors := s1.plink.mirrors.erase x }) x 0
    | none => s1

/-- RETIRE (R310): the slot is freed; MACK carries the mirror id of its record. -/
def retireRx (s : State) (n : Nat) : State :=
  match inboxTake s n 9 with
  | none => s
  | some (m, s1) =>
    match dmaRead s1 pairId (jSlot s1 m.tag) 16 with
    | (s2, .ok (r, false)) =>
      match dmaWrite s2 pairId (jSlot s2 m.tag) (List.replicate 8 0) with
      | (s3, none) => pairSend s3 n 6 (leAt r 8 8) []
      | (s3, some _) => s3
    | (s2, _) => s2

/-! ### Deltas, homes, set states (R283, R311, R312) -/

/-- QDELTA (R311). -/
def qdeltaRx (s : State) (n : Nat) : State :=
  match inboxTake s n 7 with
  | none => s
  | some (m, s1) =>
    let b := m.payload
    let q := leAt b 0 4 % 262144
    match ctxRead s1 q with
    | (s2, .error _) => s2
    | (s2, .ok c) =>
      let put := fun (f : CF) (o k : Nat) (x : QCtx) => qset x f (leAt b o k)
      let c1 := put qLASTSTAT 5 1 (put qWBASE 8 4 (put qNCOMP 12 4 (put qWMAP 16 8 (put qSQHEAD 24 2 (put qCQTAIL 26 2 (put qCQPHASE 28 1 c))))))
      let s3 := ctxStore s2 q (qset c1 qCQHEAD (leAt b 26 2))
      let s4 := if leAt b 4 1 = 2 then (dmaWrite s3 qeId (qf c qRCADDR + leAt b 29 1 % 64 * 16) ((b.drop 32).take 16)).1 else s3
      pairSend s4 n 8 m.tag []

/-- DACK (R311); one that comes after loss finds no delta (R322). -/
def dackRx (s : State) (n : Nat) : State :=
  match inboxTake s n 8 with
  | none => s
  | some (m, s1) => dack s1 m.tag

/-- HOME of queue `q` is set or cleared. -/
def setHome (s : State) (q : Nat) (v : Bool) : State :=
  match ctxRead s q with
  | (s1, .ok c) => ctxStore s1 q (qset c qHOME (b2n v))
  | (s1, .error _) => s1

/-- A write to PAIR_HOMEREQ (R312): discarded outside PAIRED, or while commands of the queue are in flight. -/
def homeReq (s : State) (v : Word32) : State :=
  let q := regFld v 0 18
  if s.paired && qf (s.ctxRaw q) qINFL == 0 then
    match s.deltaPort with
    | some n => pairSend (setHome s q (regBit v 31)) n 12 q [byte (b2n (regBit v 31))]
    | none => s
  else s

/-- HOMESET (R312): byte 0 is 1 for a home at the sender. -/
def homesetRx (s : State) (n : Nat) : State :=
  match inboxTake s n 12 with
  | none => s
  | some (m, s1) => setHome s1 (m.tag % 262144) (leAt m.payload 0 1 == 0)

/-- PSTATE (R283): a device that is not the power master takes the set states, DROPHOLD and the ready flags; a set that enters DOWN with
DEPOWER = 1 takes the power of its bays. -/
def pstateRx (s : State) (n : Nat) : State :=
  match inboxTake s n 10 with
  | none => s
  | some (m, s1) =>
    if s1.pmaster ∨ m.payload.length ≠ 520 then s1
    else
      (rangeFrom 0 64).foldl (fun t k =>
        let cfg := beAt m.payload (8 * k) 4
        let st := beAt m.payload (8 * k + 4) 4
        if (t.members k).isEmpty then t
        else
          let old := t.setSt k
          let t1 := if old = fld st 0 3 then t else enterSt t k (fld st 0 3)
          let t2 := (t1.setRegF 0x351 (0x104 + 8 * k) 4 1 (fld st 4 1)).setReady k (bit (beAt m.payload (512 + 4 * (k / 32)) 4) (k % 32))
          if old ≠ 0 ∧ fld st 0 3 = 0 ∧ bit cfg 0 = true then (t2.members k).foldl (fun u p => linkEvent u p 0x0D) t2 else t2) s1

/-! ### The lease (R319, R320) -/

/-- Address of the witness of port MG `k`. -/
def witness (s : State) (k : Nat) : List Byte := ((rangeFrom 0 4).map fun i => beBytes 4 (s.reg (0x340 + k) (0x11C + 4 * i)).toNat).flatten

/-- A device may ask for the lease (R319, R320, R405). -/
def mayAsk (s : State) : Bool :=
  !s.nowit && (!(hbStopped s) && (!s.plink.refused && (s.pstate == 0 || ((s.pstate == 3 && s.pmaster) ||
    (s.pstate == 4 && (s.fence || (s.plink.joined || s.plink.mcys == 100)))))))

/-- LEASE_REQ goes out on every management port that is up. -/
def leaseReq (s : State) : State :=
  if mayAsk s then
    let f : Cst := { kind := 0x20, client := 0, seq := s.plink.leaseSeq, qid := 0, off := s.serialNo, arg := s.regF 0x324 0x148 0 16 }
    let s1 := [0, 1].foldl (fun t k => if t.linkUp (8 + k) then { t with out := .cst (8 + k) 0 none (witness t k) (cstBytes f) :: t.out } else t) s
    s1.setPlink { s1.plink with leaseSeq := (s.plink.leaseSeq + 1) % 2 ^ 32, asked := true }
  else s

/-- A frame of a kind of R300 at port MG `k`, sound: in VIGIL a frame only wakes the device (R431), in recovery the ports accept MREQ
only (R447). -/
def mgFrame (s : State) (k : Nat) (frame : List Byte) (kind : Nat) : Option Cst :=
  if s.linkUp (8 + k) && (s.boot.power == .active && (s.regF 0 oStat 28 4 != 8 || kind == 0x10)) then (match cstParse frame with
    | some f => if f.kind = kind then some f else none
    | none => none) else none

/-- LEASE_GRANT, `elapsed` ms after the request was sent (R315, R319, R320). -/
def leaseGrant (s : State) (k : Nat) (frame : List Byte) (elapsed : Nat) : State :=
  match mgFrame s k frame 0x21 with
  | none => s
  | some f =>
    if f.off ≠ s.serialNo ∨ s.plink.asked = false ∨ hbStopped s = true ∨ f.arg ≤ 5 + elapsed then s
    else
      let s1 := (s.setPlink { s.plink with lease := true, asked := false }).setReg 0x324 0x14C (w32 (min 0xFFFF (f.arg - 5 - elapsed)))
      if s1.pstate = 4 ∧ s1.plink.refused = false then
        if s1.fence then (survive s1).setRegF 0x120 oStat 2 1 0 else enterSolo s1
      else s1

/-- LEASE_DENY: the request is answered; the device goes on asking (R319, R320). -/
def leaseDeny (s : State) (k : Nat) (frame : List Byte) : State :=
  match mgFrame s k frame 0x22 with
  | none => s
  | some _ => s.setPlink { s.plink with asked := false }

/-- The lease expires (R320): a device serves in SOLO only with a lease (R319), and is fenced where the pair link is lost. -/
def leaseLapse (s : State) : State :=
  if s.plink.lease then
    let s1 := ((s.setPlink { s.plink with lease := false }).setReg 0x324 0x14C 0).irqBit 0x324 4
    if s1.pstate ≠ 0 ∨ s1.nowit = true then s1
    else if s1.plink.lost then deltasReleased (fencedSteps s1) false
    else homeAll (masterLost (s1.setPstate 4)) false
  else s

/-! ### Pages (R321) -/

/-- A write of CTL of a pair port: the port sends from its enabling on (R306). -/
def pairCtlWrite (s : State) (n : Nat) (v : Word32) : State :=
  let s1 := linkCtlWrite s (pairPage n) 1 v
  if regBit v 0 && (!(s.regB (pairPage n) oCtl 0) && s.dom (pdPair n)) then idleSend s1 n else s1

def pairWrite (s : State) (n off : Nat) (v : Word32) : Option (State × Option BusCause) :=
  if n < 4 then (if off = oCtl then some (pairCtlWrite s n v, none) else none)
  else if n = 4 then (if off = 0x12C then some (homeReq s v, none) else none)
  else match arrIx off 0x100 8 32 with
    | some (_, 0) => some (rbaseWrite s 0x325 off v)
    | _ => none

/-- PAIR_STAT. -/
def pairStat (s : State) : Word32 :=
  w32 (b2n (s.belf.own && s.belf.slew != 0) * 512 + b2n s.plink.lease * 256 + b2n s.pmaster * 128 + s.pstate)

/-- PAIR_LLEFT: the milliseconds left while the lease is valid, which REFCLK counts: a free value, never above the last one read. -/
def leaseLeft (s : State) : State × Word32 :=
  let top := (s.reg 0x324 0x14C).toNat
  if top = 0 then (s, 0)
  else
    let f := s.fresh
    let v := w32 (f.1.toNat % top + 1)
    (f.2.setReg 0x324 0x14C v, v)

def pairRead (s : State) (n off : Nat) : Option (State × Word32) :=
  if n < 4 then (if off = oStat then some (s, if s.dom (pdPair n) then s.reg (pairPage n) oStat else 0) else none)
  else if n = 4 then
    match off with
    | 0x104 => some (s, pairStat s)
    | 0x110 => some (s, w32 s.serialNo)
    | 0x114 => some (s, w32 (s.serialNo / 2 ^ 32))
    | 0x14C => some (leaseLeft s)
    | _ => none
  else none

end Sys2Proof.Machine
end

