-- ==== Sys2Proof/Machine/Timers.lean ====
section
/-! DEFINITION. System and turret timers (02_belfry_timers.md R65-R78). Page index 0-3 are the system timers, 4 + n turret n. -/
namespace Sys2Proof.Machine

/-- Page, register offset and index of a timer. -/
def tmrPage (p : Nat) : Nat := 0x20 + p
def tmrOff (t : Nat) : Nat := 0x100 + t * 32
def tmrIx (p t : Nat) : Nat := p * 8 + t

def State.timer (s : State) (p t : Nat) : Timer := sget s.timers (tmrIx p t) {}
def State.setTimer (s : State) (p t : Nat) (x : Timer) : State := { s with timers := sput s.timers (tmrIx p t) x {} }

/-- What a tick reads and writes of a timer. -/
structure TView where
  count : Nat
  reload : Nat
  cmp : Nat
  pre : Nat
  preEn : Bool
  prePend : Bool
deriving DecidableEq, Repr

def State.tview (s : State) (p t : Nat) : TView :=
  { count := (s.reg (tmrPage p) (tmrOff t + 4)).toNat, reload := (s.reg (tmrPage p) (tmrOff t + 0xC)).toNat,
    cmp := (s.reg (tmrPage p) (tmrOff t + 0x10)).toNat, pre := (s.reg (tmrPage p) (tmrOff t + 0x14)).toNat,
    preEn := s.regB (tmrPage p) (tmrOff t) 1, prePend := s.regB (tmrPage p) (tmrOff t) 24 }

def State.setTview (s : State) (p t : Nat) (x : TView) : State :=
  ((s.setReg (tmrPage p) (tmrOff t + 4) (w32 x.count)).setReg (tmrPage p) (tmrOff t + 0x10) (w32 x.cmp)).setRegF
    (tmrPage p) (tmrOff t) 24 1 (b2n x.prePend)

/-- One tick (R66, R68, R69): the new view, whether it overflowed and whether it matched. `raw`: a raw write set the live comparator
in this very cycle, so that a copy waits for the next overflow (R70). -/
def tvTick (x : TView) (raw : Bool) : TView × Bool × Bool :=
  let ovf := decide (x.reload ≤ x.count)
  let copy := ovf && (x.preEn && (x.prePend && !raw))
  let y := { x with count := if ovf then 0 else x.count + 1, cmp := if copy then x.pre else x.cmp, prePend := x.prePend && !copy }
  (y, ovf, decide (y.count = y.cmp))

/-- `n` ticks in one step (R75): the new view, the number of overflows and of matches. -/
def tvTicks (x : TView) (n : Nat) : TView × Nat × Nat :=
  let d := if x.reload ≤ x.count then 1 else x.reload - x.count + 1
  if n < d then
    ({ x with count := x.count + n }, 0, if x.count < x.cmp ∧ x.cmp ≤ x.count + n then 1 else 0)
  else
    let copy := x.preEn && x.prePend
    let c := if copy then x.pre else x.cmp
    let r := n - d
    let p := x.reload + 1
    ({ x with count := r % p, cmp := c, prePend := x.prePend && !copy }, 1 + r / p,
      (if x.count < x.cmp ∧ x.cmp ≤ x.reload then 1 else 0) + (if c ≤ x.reload ∧ c ≤ r then (r - c) / p + 1 else 0))

/-- TCTL bits. -/
def State.tEn (s : State) (p t : Nat) : Bool := s.regB (tmrPage p) (tmrOff t) 0
def State.tLink (s : State) (p t : Nat) : Bool := t % 2 = 1 && s.regB (tmrPage p) (tmrOff t) 2
/-- The timer is the low half of a linked pair (R72). -/
def State.tLow (s : State) (p t : Nat) : Bool := t % 2 = 0 && s.regB (tmrPage p) (tmrOff (t + 1)) 2
/-- CTL.C5MODE of the page (R77). -/
def State.c5 (s : State) (p : Nat) : Bool := s.regB (tmrPage p) oCtl 0

/-- The timer's clock owner is in debug halt: its turret, or Lantern's global halt (R76), which acts while PD_LANT is on (R48). -/
def State.tDebug (s : State) (p : Nat) : Bool :=
  if h : 4 ≤ p ∧ p < 12 then (s.core ⟨p - 4, by omega⟩).dhalt else s.dom pdLant && s.regB 0x3A0 0x100 8

/-- The timer counts: enabled, not stopped, not in a debug halt that stops it (R66, R74, R76, R77). -/
def State.tRuns (s : State) (p t : Nat) : Bool :=
  s.tEn p t && (!(s.timer p t).stopped && (s.c5 p || !(s.regB (tmrPage p) (tmrOff t) 3 && s.tDebug p)))

/-- Flags of a tick: OVF and MATCH of the timer in IRQ_RAW of its page (R66, R68). -/
def tmrFlags (s : State) (p t : Nat) (ovf mat : Bool) : State :=
  s.irq (tmrPage p) (w32 (b2n ovf * 2 ^ (2 * t + 1) + b2n mat * 2 ^ (2 * t)))

/-- TCTL.SRC and TCTL.PRESC. -/
def State.tSrc (s : State) (p t : Nat) : Nat := s.regF (tmrPage p) (tmrOff t) 4 3
def State.tPresc (s : State) (p t : Nat) : Nat := s.regF (tmrPage p) (tmrOff t) 8 16

/-- Ticks of a Belfry source generated so far: slot boundaries for SRC 0b001, PHASE = 0 ticks for 0b010 (R67). -/
def Belf.ticks (b : Belf) (src : Nat) : Nat := if src = 1 then b.slots else b.wraps

/-- This edge of the source is a tick of the timer (R67): the REFCLK cycle that ends the prescaler's count, or a slot boundary or
PHASE = 0 tick that the Belfry has generated and the timer has not yet counted. -/
def State.tDue (s : State) (p t : Nat) : Bool :=
  if s.tSrc p t = 0 then decide (s.tPresc p t ≤ (s.timer p t).div)
  else decide ((s.timer p t).seen < s.belf.ticks (s.tSrc p t))

/-- What an edge of its source leaves of a running timer's divider and of the Belfry ticks it has counted (R67). -/
def tmrEdge (s : State) (p t : Nat) : State :=
  let x := s.timer p t
  if s.tSrc p t = 0 then s.setTimer p t { x with div := if s.tDue p t then 0 else x.div + 1 }
  else s.setTimer p t { x with seen := x.seen + b2n (s.tDue p t) }

/-- A tick of one timer, without its linked half. -/
def tmrTickOne (s : State) (p t : Nat) (raw : Bool) : State × Bool :=
  let r := tvTick (s.tview p t) raw
  (tmrFlags (s.setTview p t r.1) p t r.2.1 r.2.2, r.2.1)

/-- A tick of a timer that is no linked high half; the overflow of a linked low half ticks the high half (R66, R72). `raw` names the
timer whose live comparator is written in this cycle (R70). -/
def tmrCount (s : State) (p t : Nat) (raw : Option Nat) : State :=
  let r := tmrTickOne s p t (raw == some t)
  if r.2 && (s.tLow p t && s.tRuns p (t + 1)) then (tmrTickOne r.1 p (t + 1) (raw == some (t + 1))).1 else r.1

/-- An edge of a timer's source (R66, R67, R72): a running timer ticks where the edge is a tick; a tick of the Belfry that passes while
the timer is frozen or in debug halt is not counted (R66, R76). -/
def tmrTick (s : State) (p t : Nat) (raw : Option Nat) : State :=
  if s.tLink p t then s
  else if s.tRuns p t then
    if s.tDue p t then tmrCount (tmrEdge s p t) p t raw else tmrEdge s p t
  else if s.tSrc p t ≠ 0 ∧ !(s.timer p t).stopped then tmrEdge s p t
  else s
/-- R66: an edge of the timer's source: for SRC 0b000 a cycle of REFCLK, for 0b001 and 0b010 a tick the Belfry generated. -/
def execTimerTick (page : Fin 12) (t : Fin 8) (s : State) : Res := ok (tmrTick s page.val t.val none)

/-! ### Writes (R66-R73, R77) -/

/-- Sets the high-half latch of every identity (R73). -/
def latchAll (m : SMap Word32) (ix : Nat) (v : Word32) : Nat → SMap Word32
  | 0 => m
  | n + 1 => latchAll (sput m (ix * 32 + n) v 0) ix v n

/-- A write to TCTL (R66, R67, R72, R77): EN written 1 restarts the divider, and a new source or a start counts from the next tick. -/
def tctlWrite (s : State) (p t : Nat) (v : Word32) : State :=
  let old := s.reg (tmrPage p) (tmrOff t)
  let src := if regFld v 4 3 < 3 then regFld v 4 3 else regFld old 4 3
  let en := regBit v 0 || (s.c5 p && regBit old 0)
  let link := regBit v 2 && decide (t % 2 = 1)
  let new := w32 (b2n (regBit old 24) * 2 ^ 24 + regFld v 8 16 * 256 + src * 16 + b2n (regBit v 3) * 8 + b2n link * 4 +
    b2n (regBit v 1) * 2 + b2n en)
  let s0 := s.setReg (tmrPage p) (tmrOff t) new
  let x := s.timer p t
  let s1 := s0.setTimer p t { x with
    div := if regBit v 0 then 0 else x.div,
    seen := if src ≠ regFld old 4 3 ∨ (en && !(regBit old 0)) then s.belf.ticks src else x.seen }
  if link && !(regBit old 2) then
    { s1 with tlatch := latchAll s1.tlatch (tmrIx p t) (s.reg (tmrPage p) (tmrOff t + 4)) 26 }
  else s1

/-- A write to a timer register other than TCTL; `sub` is the offset within the timer (R68, R69, R71). -/
def tmrWrite (s : State) (p t sub : Nat) (v : Word32) : State :=
  if sub = 0 then tctlWrite s p t v
  else if sub = 0x14 then (s.setReg (tmrPage p) (tmrOff t + 0x14) v).setRegF (tmrPage p) (tmrOff t) 24 1 1
  else if sub = 0x18 then s.setReg (tmrPage p) (tmrOff t + 0x18) (s.reg (tmrPage p) (tmrOff t + 0x18) &&& ~~~(v &&& 3))
  else if sub = 0x08 then s
  else s.setReg (tmrPage p) (tmrOff t + sub) v

/-- A read of COUNT (R73): a linked low half latches the high half for the reader; a linked high half answers its latch. -/
def countRead (s : State) (id : Nat) (p t : Nat) : State × Word32 :=
  let v := s.reg (tmrPage p) (tmrOff t + 4)
  if s.tLow p t then
    ({ s with tlatch := sput s.tlatch (tmrIx p (t + 1) * 32 + id) (s.reg (tmrPage p) (tmrOff (t + 1) + 4)) 0 }, v)
  else if s.tLink p t then (s, sget s.tlatch (tmrIx p t * 32 + id) 0)
  else (s, v)

/-- STAT.RUN of a page (R65). -/
def tmrStat (s : State) (p : Nat) : Word32 :=
  w32 ((rangeFrom 0 8).foldl (fun a t => a + b2n (s.tRuns p t) * 2 ^ t) 0)

/-! ### Shadows (R59, R353) -/

/-- COUNT_S of each timer takes COUNT. -/
def captureTimers (s : State) : List Nat → State
  | [] => s
  | i :: t => captureTimers (s.setReg (tmrPage (i / 8)) (tmrOff (i % 8) + 8) (s.reg (tmrPage (i / 8)) (tmrOff (i % 8) + 4))) t

/-- The synchronous tick: every shadow of the asynchronous class is captured (R353). -/
def syncTick (s : State) : State :=
  captureTimers { s with belf := { s.belf with shadow := cell s.time } } (rangeFrom 0 96)

/-! ### Sleep make-up (R74, R75, R77) -/

/-- The device is in VIGIL (R428). -/
def State.vigil (s : State) : Bool := s.regF 0x350 0x158 8 2 = 1

/-- The timer's clock owner sleeps: its turret (the trailing core of a lockstep pair has no sleep of its own, R351), or the
device is in VIGIL (R74). -/
def State.tSleeps (s : State) (p : Nat) : Bool :=
  if h : 4 ≤ p ∧ p < 12 then
    !(s.lockstep ⟨p - 4, by omega⟩ && (p - 4) % 2 = 1) && (s.core ⟨p - 4, by omega⟩).sleep
  else s.vigil

/-- A timer stops at the first slow-clock edge after sleep or VIGIL begins, in native mode (R74, R77). -/
def tmrStop (s : State) (p t : Nat) : State :=
  if s.tSleeps p && !(s.c5 p) then s.setTimer p t { s.timer p t with stopped := true } else s
def execTimerStop (page : Fin 12) (t : Fin 8) (s : State) : Res := ok (tmrStop s page.val t.val)

/-- Ticks elapsed during a stop of `slow` slow-clock periods with SRC 0b000, and the new frac (R74). -/
def makeUp (presc frac slow : Nat) : Nat × Nat :=
  let acc := frac + 100000000 * slow
  let d := 32768 * (presc + 1)
  (acc / d, acc % d)

/-- What a restart adds (R74): the ticks, and the timer's hidden state after it. For SRC 0b001 and 0b010 these are the ticks the Belfry
generated that the timer has not counted; the divider restarts from 0 at the wake (R67). -/
def wakeTicks (s : State) (p t slow : Nat) : Nat × Timer :=
  let x := s.timer p t
  if s.tSrc p t = 0 then
    let m := makeUp (s.tPresc p t) x.frac slow
    (m.1, { x with frac := m.2, div := 0, stopped := false })
  else (s.belf.ticks (s.tSrc p t) - x.seen, { x with seen := s.belf.ticks (s.tSrc p t), div := 0, stopped := false })

/-- Adds `n` ticks to one timer in one step with the make-up flags of R75; answers its overflows. -/
def tmrAdd (s : State) (p t n : Nat) : State × Nat :=
  let r := tvTicks (s.tview p t) n
  let s1 := tmrFlags (s.setTview p t r.1) p t (decide (0 < r.2.1)) (decide (0 < r.2.2))
  let old := s1.reg (tmrPage p) (tmrOff t + 0x18)
  (s1.setReg (tmrPage p) (tmrOff t + 0x18)
    (old ||| w32 (b2n (decide (0 < r.2.1 ∨ 0 < r.2.2)) + b2n (decide (1 < r.2.1 ∨ 1 < r.2.2)) * 2)), r.2.1)

/-- A stopped timer restarts at the wake edge, once its owner is awake, and adds the elapsed ticks in one step (R74, R75); `slow` is the
number of slow-clock periods between the two edges. A disabled timer and a linked high half take no ticks of their own; the low half's
overflows tick the high half. -/
def tmrRestart (s : State) (p t slow : Nat) : State :=
  if (s.timer p t).stopped && !(s.tSleeps p) then
    let m := wakeTicks s p t slow
    let s1 := s.setTimer p t m.2
    if s.tEn p t && !(s.tLink p t) then
      let r := tmrAdd s1 p t m.1
      if s.tLow p t && (s.tEn p (t + 1) && decide (0 < r.2)) then (tmrAdd r.1 p (t + 1) r.2).1 else r.1
    else s.setTimer p t { m.2 with frac := (s.timer p t).frac }
  else s
def execTimerRestart (page : Fin 12) (t : Fin 8) (elapsed : Nat) (s : State) : Res := ok (tmrRestart s page.val t.val elapsed)

end Sys2Proof.Machine
end

