-- ==== Sys2Proof/Machine/Bus.lean ====
section
/-! DEFINITION. The bus matrix and the register pages: every read and write a master makes, with the order of bus-error causes
(00_scope.md R10, R11; 01_architecture.md R37-R44, R48; 03_memory_system.md R106). -/
namespace Sys2Proof.Machine

/-! ### LOCK (R44) -/

/-- Registers of a page that the page's LOCK freezes although their bits are not RWL: the binding words (R392). -/
def State.locked (s : State) (page : Nat) : Bool := (sget s.locks page {}).locked

/-- A write to a page's LOCK register (R44). -/
def lockKeyWrite (s : State) (id page : Nat) (v : Word32) : State :=
  let x := sget s.locks page {}
  if x.locked then s
  else if v = 0xA5E8 ∧ x.first = id + 1 then { s with locks := sput s.locks page { locked := true, first := 0 } {} }
  else if v = 0x5A17 then { s with locks := sput s.locks page { locked := false, first := id + 1 } {} }
  else { s with locks := sput s.locks page {} {} }

/-! ### Plain registers (R11-R13) -/

/-- The word a write of `v` leaves in a plain register. -/
def writeWord (i : RegInfo) (locked : Bool) (old v : Word32) : Word32 :=
  let m : Word32 := w32 i.rw ||| (w32 i.rwc ||| (if locked then 0 else w32 i.rwl))
  ((old &&& ~~~m) ||| (v &&& m)) &&& ~~~(v &&& w32 i.w1c)

/-- A write to a plain register. -/
def plainWrite (s : State) (page off : Nat) (i : RegInfo) (v : Word32) : State :=
  s.setReg page off (writeWord i (s.locked page) (s.reg page off) v)

/-- Bits of a page's IRQ_RAW. -/
def irqMask (page : Nat) : Word32 :=
  match pageBlock page with
  | some (b, n) => w32 (blockHdr b n).irq
  | none => 0

/-- A write to the header of a page, CTL apart (R42-R44). -/
def headerWrite (s : State) (id page off : Nat) (i : RegInfo) (v : Word32) : State :=
  match off with
  | 0x01C => s.irq page (v &&& irqMask page)
  | 0x014 => pageEdge s (plainWrite s page off i v) page
  | 0x020 => lockKeyWrite s id page v
  | _ => plainWrite s page off i v

/-! ### Writes by block: what a write does beyond storing the word -/

/-- What a block does with a write: none where the register is a plain one. -/
abbrev WrAns := Option (State × Option BusCause)

/-- The Belfry's pages. The targets of BCMP32 to BCMP63 are RO to every master (R63): a write of one is ignored, as R11 says of RO, also
while EN is 1, where R62 would answer BINDING (DESIGN CHOICE, log entry 73). -/
def belfPageWrite (s : State) (n off : Nat) (v : Word32) : WrAns :=
  if n = 0 then
    match off with
    | 0x008 => some (belfCtlWrite s (s.locked 0x10) v, none)
    | 0x118 => some (belfSlewWrite s v, none)
    | _ => none
  else match arrIx off 0x100 16 32 with
    | some (c, sub) => if (n - 1) * 32 + c < 32 then some (bcmpWrite s ((n - 1) * 32 + c) sub v) else none
    | none => none

def tmrPageWrite (s : State) (n off : Nat) (v : Word32) : WrAns :=
  match arrIx off 0x100 32 8 with
  | some (t, sub) => some (tmrWrite s n t sub v, none)
  | none => none

def evtPageWrite (s : State) (n off : Nat) (v : Word32) : WrAns :=
  if n = 0 then
    if 0x154 ≤ off ∧ off < 0x164 then some (swSet s ((off - 0x154) / 4) v, none) else none
  else if 0x100 ≤ off then some (routeWrite s ((n - 1) * 256 + (off - 0x100) / 4) v) else none

/-- Side of an identity on the channel a mailbox page offset names. -/
def mbOffSide (s : State) (id n off : Nat) : Option Bool := s.mbSide ((n - 1) * 8 + (off - 0x100) / 0x100) id

def mbxPageWrite (s : State) (id n off : Nat) (v : Word32) : WrAns :=
  if off < 0x100 then none
  else if n = 0 then (if s.locked 0x60 then some (s, none) else some (bindingWrite s ((off - 0x100) / 4) v))
  else match mbOffSide s id n off with
    | some b => some (mbWrite s ((n - 1) * 8 + (off - 0x100) / 0x100) b (off % 0x100) v, none)
    | none => some (s, some .identity)

def memcPageWrite (s : State) (n off : Nat) (v : Word32) : WrAns :=
  if n = 0 then
    match off with
    | 0x008 => some (memcCtlWrite s v, none)
    | 0x104 => some (spareCtlWrite s v, none)
    | _ => none
  else none

def scrPageWrite (s : State) (n off : Nat) (v : Word32) : WrAns :=
  if 0x100 ≤ off ∧ off < 0x140 then some (bstateWrite s n ((off - 0x100) / 4) v) else none

def turPageWrite (s : State) (n off : Nat) (v : Word32) : WrAns :=
  if h : n < 8 then (if off = 0x008 then some (turCtlWrite s ⟨n, h⟩ v, none) else none)
  else if h2 : n - 8 < 4 then
    match off with
    | 0x008 => some (cmpCtlWrite s ⟨n - 8, h2⟩ v)
    | 0x110 => some (injectWrite s ⟨n - 8, h2⟩ (regFld v 0 8) 0, none)
    | _ => none
  else none

/-- What the block of a page does with a write (R11: the register's summary). -/
def blockWrite (s : State) (id : Nat) (b : Block) (n off : Nat) (v : Word32) : WrAns :=
  match b with
  | .belf => belfPageWrite s n off v
  | .tmr => tmrPageWrite s n off v
  | .evt => evtPageWrite s n off v
  | .mbx => mbxPageWrite s id n off v
  | .lck => if 0x100 ≤ off ∧ off < 0x140 then some (lockWrite s id ((off - 0x100) / 4) v) else none
  | .memc => memcPageWrite s n off v
  | .scr => scrPageWrite s n off v
  | .tur => turPageWrite s n off v
  | .bus => none
  | .keep => keepWrite s n off v
  | .qst => qstWrite s id n off v
  | .spr => if h : n < 8 then sprWrite s ⟨n, h⟩ off v else none
  | .sasp => saspWrite s (s.locked (0x200 + n)) n off v
  | .ethp => ethpWrite s n off v
  | .pair => pairWrite s n off v
  | .mgmt => if off = oCtl then some (linkCtlWrite s (0x340 + n) 1 v, none) else none
  | .pwr => pwrWrite s (s.locked (0x350 + n)) n off v
  | .cupw => cupwWrite s n off v
  | .lant => lantWrite s n off v

/-! ### Reads by block -/

/-- What a block answers to a read: none where the stored word is the answer. -/
abbrev RegAns := Option (State × Word32)

def mbxPageRead (s : State) (id n off : Nat) : RegAns :=
  if n = 0 ∨ off < 0x100 then none
  else match mbOffSide s id n off with
    | some b =>
    let c := (n - 1) * 8 + (off - 0x100) / 0x100
    some (mbHeadUE s c b (off % 0x100), mbRead s c b (off % 0x100))
    | none => none

def tmrPageRead (s : State) (id n off : Nat) : RegAns :=
  if off = 0x00C then some (s, tmrStat s n)
  else match arrIx off 0x100 32 8 with
    | some (t, 4) => some (countRead s id n t)
    | _ => none

def turPageRead (s : State) (n off : Nat) : RegAns :=
  if h : n < 8 then some (s, turRead s ⟨n, h⟩ off)
  else if h2 : n - 8 < 4 then some (s, cmpRead s ⟨n - 8, h2⟩ off) else none

/-- What the block of a page answers to a read. -/
def blockRead (s : State) (id : MasterId) (b : Block) (n off : Nat) : RegAns :=
  match b with
  | .belf => if n = 0 then some (belfRead s id off (!s.cup.ready)) else none
  | .tmr => tmrPageRead s id.val n off
  | .evt => if n = 0 then some (s, evtRead s off) else none
  | .mbx => mbxPageRead s id.val n off
  | .lck => if off = 0x140 then some (s, lckState s) else if 0x100 ≤ off then some (lockRead s id.val ((off - 0x100) / 4)) else none
  | .memc => if n = 0 then some (s, memcRead s off) else some (s, mchRead s (n - 1) off)
  | .scr => if off = 0x00C then some (s, scrStat s n) else none
  | .tur => turPageRead s n off
  | .bus => none
  | .keep => (keepRead s n off).map fun v => (s, v)
  | .qst => (qstRead s id.val n off).map fun v => (s, v)
  | .spr => if h : n < 8 then (sprRead s ⟨n, h⟩ off).map fun v => (s, v) else none
  | .sasp => (saspRead s n off).map fun v => (s, v)
  | .ethp => (ethpRead s n off).map fun v => (s, v)
  | .pair => pairRead s n off
  | .mgmt => (mgmtRead s n off).map fun v => (s, v)
  | .pwr => (pwrRead s n off).map fun v => (s, v)
  | .cupw => (cupwRead s n off).map fun v => (s, v)
  | .lant => none

/-- A read of a register that exists (R11, R12, R42-R44). -/
def regRead (s : State) (id : MasterId) (page off : Nat) : State × Word32 :=
  match off with
  | 0x010 => (s, s.reg page off)
  | 0x014 => (s, s.reg page off)
  | 0x018 => (s, s.reg page oIrqRaw &&& s.reg page oIrqEn)
  | 0x01C => (s, 0)
  | 0x020 => (s, w32 (b2n (s.locked page)))
  | 0x024 => (s, errcntRead s page)
  | 0x028 => (s, s.reg page off)
  | _ => match pageBlock page with
    | none => (s, 0)
    | some (b, n) => (blockRead s id b n off).getD (s, s.reg page off)

/-! ### Register accesses: the order of causes (R10) -/

/-- The write needs a block domain that is off: CTL of the page, or SPR_CCTL (R48). -/
def powerBad (s : State) (page off : Nat) : Bool :=
  (off == oCtl || (0x160 ≤ page && (page < 0x168 && (0x200 ≤ off && (off < 0x300 && off % 64 == 0))))) && !(s.pageOn page)

/-- Cause IDENTITY (R32, R362, R393, R447, R450); `write` gives the world of a write. -/
def identityBad (s : State) (id page off : Nat) (write : Option Bool) : Bool :=
  match pageBlock page with
  | some (.keep, n) => n == 3 && (match write with | some cust => rcvRefused s id cust | none => false)
  | some (.mbx, n) => n != 0 && (0x100 ≤ off && (mbOffSide s id n off).isNone)
  | some (.tur, n) =>
    if h : 8 ≤ n ∧ n - 8 < 4 then
      write.isSome && (off == 0x110 && (id != 23 || (!(s.held (evenCore ⟨n - 8, h.2⟩)) || !(s.held (oddCore ⟨n - 8, h.2⟩)))))
    else false
  | _ => false

/-- Cause ACCESS of an Operator write to an RWC register (R11). -/
def accessBad (cust : Bool) (i : RegInfo) : Bool := !cust && (i.rwc != 0 || i.custody)

/-- A write of `v` to a register that exists, access codes and identity checked. -/
def regWriteOk (s : State) (id page off : Nat) (i : RegInfo) (v : Word32) : State × Option BusCause :=
  match pageBlock page with
  | none => (s, some .unmapped)
  | some (b, n) =>
    if off < 0x100 ∧ off ≠ oCtl then (headerWrite s id page off i v, none)
    else (blockWrite s id b n off v).getD (plainWrite s page off i v, none)

/-- A write of the bytes `d` at offset `off` of a page by a master whose transactions carry the world `cust` (R10, R11). -/
def regWrite (s : State) (id page off : Nat) (cust : Bool) (d : List Byte) : State × Option BusCause :=
  match pageBlock page with
  | none => (s, some .unmapped)
  | some _ =>
    if d.length ≠ 4 ∨ off % 4 ≠ 0 then (s, some .width)
    else if powerBad s page off then (s, some .power)
    else match regInfo page off with
      | none => (s, some .unmapped)
      | some i =>
        if identityBad s id page off (some cust) then (s, some .identity)
        else if accessBad cust i then (s, some .access)
        else regWriteOk s id page off i (w32 (ofLE d))

/-- A read of `n` bytes at an offset of a page (R10). -/
def regReadAcc (s : State) (id : MasterId) (page off n : Nat) : State × RdAns :=
  match pageBlock page with
  | none => (s, .error .unmapped)
  | some _ =>
    if n ≠ 4 ∨ off % 4 ≠ 0 then (s, .error .width)
    else match regInfo page off with
      | none => (s, .error .unmapped)
      | some _ =>
        if identityBad s id.val page off none then (s, .error .identity)
        else
          let r := regRead s id page off
          (r.1, .ok (leBytes 4 r.2.toNat, false))

/-! ### The turret-TCM alias (R40, R48, R350) -/

abbrev aliasBase : Nat := 0x80000000

/-- What the alias answers before it reads or writes: the turret and the offset, or a cause. -/
def aliasPlace (s : State) (id a n : Nat) : Except BusCause (Nat × Nat) :=
  let t : Fin 8 := ⟨(a - aliasBase) / 0x100000 % 8, Nat.mod_lt _ (by decide)⟩
  let off := (a - aliasBase) % 0x100000
  if 0x80000 < off + n then .error .unmapped
  else if !(s.dom (pdTur t.val)) || (s.lockstep t && t.val % 2 = 1) then .error .power
  else if id = 23 ∨ id = 24 ∨ (id = 25 ∧ s.dbgOpen) then .ok (t.val, off)
  else .error .identity

/-! ### Every target (R37) -/

/-- The address ranges of R37. -/
inductive Target where
  | turretLocal | tcmAlias | memory | cupola | page (p off : Nat) | nothing
deriving DecidableEq, Repr

def targetOf (a : Nat) : Target :=
  if a < 0x80000000 then .turretLocal
  else if a < 0x80800000 then .tcmAlias
  else if 0xF00000000 ≤ a ∧ a < 0xF01000000 then .page ((a - 0xF00000000) / 4096) (a % 4096)
  else if 0xE00000000 ≤ a ∧ a < 0xE00010000 then .cupola
  else match memKind a with
    | .none => .nothing
    | _ => .memory

/-- A read of `n` bytes by a master, without the bus-error record. -/
def busReadRaw (s : State) (id : MasterId) (a n : Nat) (u : Upset) : State × RdAns :=
  match targetOf a with
  | .turretLocal => (s, .error .identity)
  | .nothing => (s, .error .unmapped)
  | .page p off => regReadAcc s id p off n
  | .cupola => windowRead s a n u
  | .memory => memRead s a n u
  | .tcmAlias =>
    match aliasPlace s id.val a n with
    | .error c => (s, .error c)
    | .ok (t, off) =>
      let r := tcmRead s t off n u.bits
      (r.1, .ok (r.2.1, r.2.2))

/-- A write by a master, without the bus-error record. -/
def busWriteRaw (s : State) (id : MasterId) (cust : Bool) (a : Nat) (d : List Byte) (u : Upset) : State × Option BusCause :=
  match targetOf a with
  | .turretLocal => (s, some .identity)
  | .nothing => (s, some .unmapped)
  | .page p off => regWrite s id.val p off cust d
  | .cupola => (s, some .access)
  | .memory => if qstBase ≤ a ∧ a < qstBase + 0x1000000 then ctxWrite s a d u else memWrite s a d u
  | .tcmAlias =>
    match aliasPlace s id.val a d.length with
    | .error c => (s, some c)
    | .ok (t, off) => (tcmWrite s t off d, none)

/-- A read by a master; a bus error is recorded (R106). For an access split at a line boundary (R103) the address recorded is the start of
the whole access, also when a later part fails: the manual does not say which (DESIGN CHOICE, log entry 74). -/
def busRead (s : State) (id : MasterId) (a n : Nat) (u : Upset := {}) : State × RdAns :=
  match busReadRaw s id a n u with
  | (s1, .error c) => (s1.berr id a false c, .error c)
  | r => r

/-- A write by a master in a world; a bus error is recorded (R106). -/
def busWriteW (s : State) (id : MasterId) (cust : Bool) (a : Nat) (d : List Byte) (u : Upset := {}) : State × Option BusCause :=
  match busWriteRaw s id cust a d u with
  | (s1, some c) => (s1.berr id a true c, some c)
  | r => r

/-- A write by a master in the world it carries (R22). -/
def busWrite (s : State) (id : MasterId) (a : Nat) (d : List Byte) (u : Upset := {}) : State × Option BusCause :=
  busWriteW s id (s.custodyOf id) a d u

/-- Address of a register. -/
def regAddr (page off : Nat) : Nat := 0xF00000000 + page * 4096 + off

/-! ### Commands that are one bus access -/

/-- The identity issues transactions to every target: the odd core of a lockstep pair does not (R23), nor Lantern while debug access is
closed (R450); in OFF nobody does (R428). -/
def State.issues (s : State) (id : MasterId) : Bool :=
  s.boot.power != .off &&
    (if h : id.val < 8 then !(s.lockstep ⟨id.val, h⟩ && id.val % 2 = 1) else id.val != 25 || s.dbgOpen)
/-- Where Lantern's transactions go while debug access is closed: the LANT pages, and the turret-TCM alias, which answers IDENTITY
(R450). -/
def lantOwn (a : Nat) : Bool :=
  decide (0xF003A0000 ≤ a ∧ a < 0xF003A2000) || decide (aliasBase ≤ a ∧ a < aliasBase + 0x800000)
/-- The identity issues a transaction to address `a`. -/
def State.reaches (s : State) (id : MasterId) (a : Nat) : Bool :=
  s.issues id || (s.boot.power != .off && (id.val == 25 && lantOwn a))

/-- What a write answers its master. -/
def respOf : Option BusCause → Resp
  | none => .done
  | some c => .err c
/-- What a read answers its master. -/
def respRd : RdAns → Resp
  | .ok (d, p) => .data d p
  | .error c => .err c

/-- A write command. -/
def cmdWrite (s : State) (id : MasterId) (a : Nat) (d : List Byte) (u : Upset := {}) : State :=
  if s.reaches id a then
    let r := busWrite s id a d u
    { r.1 with resp := respOf r.2 }
  else s
/-- A read command. -/
def cmdRead (s : State) (id : MasterId) (a n : Nat) (u : Upset := {}) : State :=
  if s.reaches id a then
    let r := busRead s id a n u
    { r.1 with resp := respRd r.2 }
  else s
/-- A write command to one register. -/
def cmdReg (s : State) (id : MasterId) (page off : Nat) (v : Word32) : State :=
  cmdWrite s id (regAddr page off) (leBytes 4 v.toNat)
/-- A read command of one register. -/
def cmdRegRead (s : State) (id : MasterId) (page off : Nat) : State := cmdRead s id (regAddr page off) 4

def execRegisterWrite (id : MasterId) (addr : Addr) (data : List Byte) (s : State) : Res :=
  okIf (!data.isEmpty) (cmdWrite s id addr.toNat data)
def execLock (id : MasterId) (page : BitVec 12) (key : Word32) (s : State) : Res := ok (cmdReg s id page.toNat 0x020 key)
def execIrqSet (id : MasterId) (page : BitVec 12) (bits : Word32) (s : State) : Res := ok (cmdReg s id page.toNat 0x01C bits)
def execDramRead (id : MasterId) (addr : Addr) (len : Nat) (upset : Upset) (s : State) : Res :=
  okIf (decide (0 < len)) (cmdRead s id addr.toNat len upset)
def execDramWrite (id : MasterId) (addr : Addr) (data : List Byte) (upset : Upset) (s : State) : Res :=
  okIf (!data.isEmpty) (cmdWrite s id addr.toNat data upset)
def execSramAccess (id : MasterId) (addr : Addr) (op : SramOp) (upset : Upset) (s : State) : Res :=
  match op with
  | .read len => okIf (decide (0 < len)) (cmdRead s id addr.toNat len upset)
  | .write data => okIf (!data.isEmpty) (cmdWrite s id addr.toNat data upset)
def execScrBstateWrite (id : MasterId) (page : Fin 2) (reg : Fin 16) (v : Word32) (s : State) : Res :=
  ok (cmdReg s id (scrPage page.val) (0x100 + 4 * reg.val) v)
def execWiden (id : MasterId) (v : Word32) (s : State) : Res := ok (cmdReg s id 0x80 oCtl v)
def execSpareForce (id : MasterId) (v : Word32) (s : State) : Res := ok (cmdReg s id 0x80 0x104 v)
def execSrcWrite (id : MasterId) (v : Word32) (s : State) : Res := ok (cmdReg s id 0x10 oCtl v)
def execBelfSlewWrite (id : MasterId) (v : Word32) (s : State) : Res := ok (cmdReg s id 0x10 0x118 v)
def execBelfTimeLoRead (id : MasterId) (s : State) : Res := ok (cmdRegRead s id 0x10 0x100)
def execBelfTimeHiRead (id : MasterId) (s : State) : Res := ok (cmdRegRead s id 0x10 0x104)
def execBcmpCtlWrite (id : MasterId) (c : Fin 64) (v : Word32) (s : State) : Res :=
  ok (cmdReg s id (bcmpPage c.val) (bcmpOff c.val + 8) v)
def execBcmpTargetWrite (id : MasterId) (c : Fin 64) (high : Bool) (v : Word32) (s : State) : Res :=
  ok (cmdReg s id (bcmpPage c.val) (bcmpOff c.val + 4 * b2n high) v)
def execTctlWrite (id : MasterId) (page : Fin 12) (t : Fin 8) (v : Word32) (s : State) : Res :=
  ok (cmdReg s id (tmrPage page.val) (tmrOff t.val) v)
/-- R68, R70: a raw write of the live comparator; `edge`: an edge of the timer's source falls in the same cycle, and is compared against
the written value, a copy that falls in the cycle waiting for the next overflow. -/
def execCmpWrite (id : MasterId) (page : Fin 12) (t : Fin 8) (v : Word32) (edge : Bool) (s : State) : Res :=
  let s1 := cmdReg s id (tmrPage page.val) (tmrOff t.val + 0x10) v
  ok (if edge then
    tmrTick s1 page.val (if s1.tLink page.val t.val then t.val - 1 else t.val) (if s.issues id then some t.val else none)
  else s1)
def execCmpPreWrite (id : MasterId) (page : Fin 12) (t : Fin 8) (v : Word32) (s : State) : Res :=
  ok (cmdReg s id (tmrPage page.val) (tmrOff t.val + 0x14) v)
def execCountWrite (id : MasterId) (page : Fin 12) (t : Fin 8) (v : Word32) (s : State) : Res :=
  ok (cmdReg s id (tmrPage page.val) (tmrOff t.val + 4) v)
def execReloadWrite (id : MasterId) (page : Fin 12) (t : Fin 8) (v : Word32) (s : State) : Res :=
  ok (cmdReg s id (tmrPage page.val) (tmrOff t.val + 0xC) v)
def execLinkedCountRead (id : MasterId) (page : Fin 12) (t : Fin 8) (s : State) : Res :=
  ok (cmdRegRead s id (tmrPage page.val) (tmrOff t.val + 4))
def execSoftwareEventSet (id : MasterId) (reg : Fin 4) (v : Word32) (s : State) : Res :=
  ok (cmdReg s id 0x40 (0x154 + 4 * reg.val) v)
def execRouteWrite (id : MasterId) (src : Fin 512) (v : Word32) (s : State) : Res :=
  ok (cmdReg s id (0x41 + src.val / 256) (0x100 + src.val % 256 * 4) v)
def execBindingWrite (id : MasterId) (ch : Fin 64) (v : Word32) (s : State) : Res := ok (cmdReg s id 0x60 (0x100 + 4 * ch.val) v)
/-- Offset of a channel's block on its page. -/
def mbOff (c : Nat) : Nat := 0x100 + c % 8 * 0x100
def execMbTxlo (id : MasterId) (ch : Fin 64) (v : Word32) (s : State) : Res := ok (cmdReg s id (mbPage ch.val) (mbOff ch.val) v)
def execMbTxhi (id : MasterId) (ch : Fin 64) (v : Word32) (s : State) : Res := ok (cmdReg s id (mbPage ch.val) (mbOff ch.val + 4) v)
def execMbRing (id : MasterId) (ch : Fin 64) (v : Word32) (s : State) : Res := ok (cmdReg s id (mbPage ch.val) (mbOff ch.val + 0x20) v)
def execMbWait (id : MasterId) (ch : Fin 64) (v : Word32) (s : State) : Res := ok (cmdReg s id (mbPage ch.val) (mbOff ch.val + 0x14) v)
/-- R394: a write of MB_CTL with POP; WAIT keeps the value it has. -/
def execPop (id : MasterId) (ch : Fin 64) (s : State) : Res :=
  let w := match s.mbSide ch.val id.val with
    | some b => ((s.chan ch.val).side b).wait
    | none => false
  ok (cmdReg s id (mbPage ch.val) (mbOff ch.val + 0x14) (w32 (1 + 2 * b2n w)))
def execLockRead (id : MasterId) (n : Fin 16) (s : State) : Res := ok (cmdRegRead s id 0x1C0 (0x100 + 4 * n.val))
def execLockRelease (id : MasterId) (n : Fin 16) (v : Word32) (s : State) : Res := ok (cmdReg s id 0x1C0 (0x100 + 4 * n.val) v)
/-- R362: the Keep tests the groups of a pair; a lacking INJOK bit makes the pair split-only. Another identity's write of CMP_INJ
completes with IDENTITY. -/
def execInjectionTest (id : MasterId) (p : Fin 4) (groups : BitVec 8) (fails : BitVec 8) (s : State) : Res :=
  if id.val = 23 ∧ s.held (evenCore p) = true ∧ s.held (oddCore p) = true then
    ok { injectEnd (injectWrite (injectWrite s p groups.toNat fails.toNat) p groups.toNat fails.toNat) p with resp := .done }
  else ok (cmdReg s id (0x1A8 + p.val) 0x110 (groups.zeroExtend 32))

end Sys2Proof.Machine
end

