-- ==== Sys2Proof/Machine/CupolaRows.lean ====
section
/-! DEFINITION. The commands of the Cupola and its pages (15_cupola.md R409-R427). -/
namespace Sys2Proof.Machine

/-! ### The CUPW pages (R426) -/

def execEvpop (id : MasterId) (s : State) : Res := ok (cmdReg s id 0x381 0x110 1)
def execCupwCmdgo (id : MasterId) (v : Word32) (s : State) : Res := ok (cmdReg s id 0x380 0x110 v)

/-! ### Requests (R421, R424) -/

/-- The request in the ALIGN slot (`master` false) or the master slot. -/
def alignRun (s : State) (master : Bool) : State :=
  if master then
    match cupHas s 1 with
    | some w => cmdEnd (cupAlign s (w.getD 1 0)) 1
    | none => s
  else
    match s.cup.align with
    | some tag => if s.cup.ready then cupAlign (s.setCup { s.cup with align := none }) tag else s
    | none => s
def execAlign (master : Bool) (s : State) : Res := ok (alignRun s master)
def signRun (s : State) : State :=
  match cupHas s 2 with
  | some w => cmdEnd (cupSign s w) 1
  | none => s
def execSign (s : State) : Res := ok (signRun s)
def pingRun (s : State) : State :=
  match cupHas s 3 with
  | some w => cmdEnd (cupMsg s 5 (w.getD 1 0)) 1
  | none => s
def execPing (s : State) : Res := ok (pingRun s)
def snapintRun (s : State) : State :=
  match cupHas s 4 with
  | some w => cmdEnd (s.setCup { s.cup with snapint := w.getD 1 0 % 65536 }) 1
  | none => s
def execSnapint (s : State) : Res := ok (snapintRun s)

/-! ### Measurement (R411-R415, R423) -/

/-- The periodic snapshot. -/
def execSnapshot (s : State) : Res := ok (if s.cup.ready then snapshot s 0 [] else s)
/-- A sample (R411-R415). -/
def execSample (c0 c1 c2 c3 : CupSample) (s : State) : Res :=
  ok (if s.cup.ready then s.setCup (cupSample s.cup c0 c1 c2 c3) else s)
def execHalfCyclePeak (s : State) : Res := ok (halfCyclePeak s)
/-- A mark reaches the Belfry, `elapsed` REFCLK cycles after its last one (R52, R414). -/
def execPhaseMark (elapsed : Nat) (s : State) : Res :=
  ok (if s.cup.ready && (!(cupNomark s.cup) && s.belfSrc == 0) then belfCross s elapsed else s)
def execSelfCheck (pass : Bool) (s : State) : Res :=
  ok (if s.cup.ready then statUpdate (s.setCup { s.cup with selfOk := pass }) else s)
def execDieTemperatureChange (inRange : Bool) (s : State) : Res :=
  ok (if s.cup.ready then statUpdate (s.setCup { s.cup with tempOk := inRange }) else s.setCup { s.cup with tempOk := inRange })
/-- 60 mcy have been counted since the die became ready or since the brown-out. -/
def execWarmUpEnd (s : State) : Res :=
  ok (if s.cup.ready && (s.cup.warm && s.cup.warmLeft == 0) then statUpdate (s.setCup { s.cup with warm := false }) else s)

/-! ### The calibration port (R418): it answers only while CUP_CAL_EN is high -/

def execIdent (s : State) : Res := ok (if calOpen s then calIdent s else s)
def execRdparam (param : Byte) (s : State) : Res := ok (if calOpen s then calRead s param.toNat else s)
def execWrparam (param : Byte) (v : Word32) (s : State) : Res := ok (if calOpen s then calWrite s param.toNat v.toNat else s)
def execSealCal (s : State) : Res := ok (if calOpen s then calSeal s else s)
def execRdlog (entry : Byte) (s : State) : Res := ok (if calOpen s then calLog s entry.toNat else s)
def execCalenChange (level : Bool) (s : State) : Res := ok (calenChange s level)

/-! ### Supply (R409, R420) -/

def execBrownOut (done lost : Bool) (s : State) : Res := ok (brownOut s done lost)
/-- The write of every 3,600 operating seconds; it is no power-fail write. -/
def execPeriodicSave (s : State) : Res :=
  ok (if s.cup.ready && decide (3600 ≤ (2 ^ 32 + s.cup.opsec - s.cup.savedAt) % 2 ^ 32) then
    s.setCup { s.cup with save := { energy := s.cup.energy, opsec := s.cup.opsec, fail := false }, savedAt := s.cup.opsec } else s)
def execCupolaPowerUp (calen : Bool) (s : State) : Res := ok (cupPowerUp s calen)

end Sys2Proof.Machine
end

