-- ==== Sys2Proof/Machine/Alu.lean ====
section
/-! DEFINITION. Integer operations of the DIS primary map, as pure functions of cells and FLAGS
(04_dravaesor_isa.md R122-R124, 13_arithmetic.md R366-R369). Flags are the six bits DD DZ V C N Z (R110). -/
namespace Sys2Proof.Machine

abbrev Flags := BitVec 6

/-- FLAGS bits (R110). -/
def fZ (f : Flags) : Bool := f.getLsbD 0
def fN (f : Flags) : Bool := f.getLsbD 1
def fC (f : Flags) : Bool := f.getLsbD 2
def fV (f : Flags) : Bool := f.getLsbD 3

/-- FLAGS with Z, N, C and V replaced; DZ and DD stay (R123). -/
def setZNCV (f : Flags) (z n c v : Bool) : Flags :=
  (f &&& 0b110000) ||| BitVec.ofNat 6 (b2n z + b2n n * 2 + b2n c * 4 + b2n v * 8)
/-- FLAGS with Z replaced. -/
def setZ (f : Flags) (z : Bool) : Flags := (f &&& 0b111110) ||| BitVec.ofNat 6 (b2n z)

/-- The result of an operation: a number below 2^w, and C and V. -/
structure AluOut where
  r : Nat
  c : Bool := false
  v : Bool := false
deriving DecidableEq, Repr

/-- Most negative value at width `w`, as an unsigned number. -/
def mostNeg (w : Nat) : Nat := 2 ^ (w - 1)
/-- An integer lies outside the signed range of width `w`. -/
def sOver (x : Int) (w : Nat) : Bool := decide (x < -(2 ^ (w - 1) : Nat) ∨ (2 ^ (w - 1) : Nat) ≤ x)
/-- Negative as a signed value of width `w`. -/
def negAt (x w : Nat) : Bool := decide (mostNeg w ≤ x % 2 ^ w)

/-- a + b + carry at width `w` (R367). -/
def aluAdd (w a b ci : Nat) : AluOut :=
  { r := (a + b + ci) % 2 ^ w, c := decide (2 ^ w ≤ a + b + ci), v := sOver (sgn a w + sgn b w + ci) w }
/-- a − b − borrow at width `w` (R367). -/
def aluSub (w a b bi : Nat) : AluOut :=
  { r := (a + 2 ^ (w + 1) - b - bi) % 2 ^ w, c := decide (a < b + bi), v := sOver (sgn a w - sgn b w - bi) w }

/-- Operations with two operands. -/
inductive Bin where
  | add | sub | adc | sbb | mul | mulh | mulhu | min | max | minu | maxu | and | or | xor | andn
  | eq | ne | lt | le | gt | ge | ltu | leu | gtu | geu
deriving DecidableEq, Repr

/-- The comparison of EQ … GEU. -/
def binCompare (o : Bin) (w a b : Nat) : Bool :=
  match o with
  | .eq => a == b | .ne => a != b
  | .lt => decide (sgn a w < sgn b w) | .le => decide (sgn a w ≤ sgn b w)
  | .gt => decide (sgn b w < sgn a w) | .ge => decide (sgn b w ≤ sgn a w)
  | .ltu => decide (a < b) | .leu => decide (a ≤ b) | .gtu => decide (b < a) | .geu => decide (b ≤ a)
  | _ => false

/-- A comparison operation (R367: flags of a − b, result 1 or 0). -/
def isCompare (o : Bin) : Bool :=
  match o with
  | .eq => true | .ne => true | .lt => true | .le => true | .gt => true | .ge => true | .ltu => true | .leu => true | .gtu => true | .geu => true
  | _ => false

/-- Result of a two-operand operation at width `w` on operands below 2^w; `ci` is the C flag (R367). -/
def binOp (o : Bin) (w a b : Nat) (ci : Bool) : AluOut :=
  match o with
  | .add => aluAdd w a b 0
  | .sub => aluSub w a b 0
  | .adc => aluAdd w a b (b2n ci)
  | .sbb => aluSub w a b (b2n ci)
  | .mul => { r := a * b % 2 ^ w, c := decide (2 ^ w ≤ a * b), v := sOver (sgn a w * sgn b w) w }
  | .mulh => { r := uns (sgn a w * sgn b w / (2 ^ w : Nat)) w }
  | .mulhu => { r := a * b / 2 ^ w }
  | .min => { r := if sgn a w ≤ sgn b w then a else b }
  | .max => { r := if sgn a w ≤ sgn b w then b else a }
  | .minu => { r := Nat.min a b }
  | .maxu => { r := Nat.max a b }
  | .and => { r := a &&& b }
  | .or => { r := a ||| b }
  | .xor => { r := a ^^^ b }
  | .andn => { r := a &&& (2 ^ w - 1 - b) }
  | _ => aluSub w a b 0

/-- Two-operand operation on cells: the pushed cell and the flags (R123, R124, R367). -/
def binCell (o : Bin) (w : Nat) (f : Flags) (x y : Cell) : Cell × Flags :=
  let a := x.toNat % 2 ^ w
  let b := y.toNat % 2 ^ w
  let r := binOp o w a b (fC f)
  (cell (if isCompare o then b2n (binCompare o w a b) else r.r), setZNCV f (r.r == 0) (negAt r.r w) r.c r.v)

/-- Operations with one operand. -/
inductive Una where
  | neg | inc | dec | not | popc | clz | ctz | bswap | tst
deriving DecidableEq, Repr

/-- Number of one bits among the low `w`. -/
def popcount : Nat → Nat → Nat
  | 0, _ => 0
  | w + 1, x => x % 2 + popcount w (x / 2)
/-- Trailing zeros of a `w`-bit value; `w` for 0. -/
def ctzNat : Nat → Nat → Nat
  | 0, _ => 0
  | w + 1, x => if x % 2 = 1 then 0 else 1 + ctzNat w (x / 2)
/-- Leading zeros of a `w`-bit value; `w` for 0. -/
def clzNat : Nat → Nat → Nat
  | 0, _ => 0
  | w + 1, x => if 2 ^ w ≤ x then 0 else 1 + clzNat w x

def unaOp (o : Una) (w a : Nat) : AluOut :=
  match o with
  | .neg => { r := (2 ^ w - a) % 2 ^ w, c := a != 0, v := a == mostNeg w }
  | .inc => aluAdd w a 1 0
  | .dec => aluSub w a 1 0
  | .not => { r := 2 ^ w - 1 - a }
  | .popc => { r := popcount w a }
  | .clz => { r := clzNat w a }
  | .ctz => { r := ctzNat w a }
  | .bswap => { r := ofBE (leBytes (w / 8) a) }
  | .tst => { r := a }

/-- One-operand operation on a cell. -/
def unaCell (o : Una) (w : Nat) (f : Flags) (x : Cell) : Cell × Flags :=
  let r := unaOp o w (x.toNat % 2 ^ w)
  (cell r.r, setZNCV f (r.r == 0) (negAt r.r w) r.c r.v)

/-- Shifts and rotates. -/
inductive Shf where
  | shl | shr | sar | rol | ror
deriving DecidableEq, Repr

/-- R368; the count is the whole cell. -/
def shfOp (o : Shf) (w a n : Nat) : Nat :=
  match o with
  | .shl => if n < w then a * 2 ^ n % 2 ^ w else 0
  | .shr => if n < w then a / 2 ^ n else 0
  | .sar => if n < w then uns (sgn a w / (2 ^ n : Nat)) w else if negAt a w then 2 ^ w - 1 else 0
  | .rol => (a * 2 ^ (n % w) % 2 ^ w) + a / 2 ^ (w - n % w)
  | .ror => (a / 2 ^ (n % w)) + (a * 2 ^ (w - n % w)) % 2 ^ w

def shfCell (o : Shf) (w : Nat) (f : Flags) (x n : Cell) : Cell × Flags :=
  let r := shfOp o w (x.toNat % 2 ^ w) n.toNat
  (cell r, setZNCV f (r == 0) (negAt r w) false false)

/-- SEXT and ZEXT (R124, R366): flags from the 64-bit result. -/
def extCell (signed : Bool) (w : Nat) (f : Flags) (x : Cell) : Cell × Flags :=
  let r := if signed then uns (sgn x.toNat w) 64 else x.toNat % 2 ^ w
  (cell r, setZNCV f (r == 0) (negAt r 64) false false)

/-- Quotient and remainder truncated toward zero, for a divisor other than 0 (R369). -/
def divSigned (w a b : Nat) : Nat × Nat × Bool :=
  let q := Int.tdiv (sgn a w) (sgn b w)
  (uns q w, uns (Int.tmod (sgn a w) (sgn b w)) w, sOver q w)

/-- DIV and DIVU (R369): quotient, remainder and flags; `none` for a zero divisor whose trap is enabled. -/
def divCell (signed : Bool) (w : Nat) (f : Flags) (masked : Bool) (x y : Cell) : Option (Cell × Cell × Flags) :=
  let a := x.toNat % 2 ^ w
  let b := y.toNat % 2 ^ w
  if b = 0 then
    if masked then some (0, cell a, setZNCV f true false false false ||| 0b010000) else none
  else if signed then
    let r := divSigned w a b
    some (cell r.1, cell r.2.1, setZNCV f (r.1 == 0) (negAt r.1 w) false r.2.2)
  else some (cell (a / b), cell (a % b), setZNCV f (a / b == 0) (negAt (a / b) w) false false)

/-- SEL (R122, R367): C and V are 0; Z and N from the w-bit result. -/
def selCell (w : Nat) (f : Flags) (a b c : Cell) : Cell × Flags :=
  let r := (if c.toNat % 2 ^ w ≠ 0 then a else b).toNat % 2 ^ w
  (cell r, setZNCV f (r == 0) (negAt r w) false false)

end Sys2Proof.Machine
end

