-- ==== Sys2Proof/Machine/Decimal.lean ====
section
/-! DEFINITION. Packed decimal arithmetic, as pure functions of cells (13_arithmetic.md R378-R382). -/
namespace Sys2Proof.Machine

/-- Value of the low `n` BCD digits. -/
def bcdValue : Nat → Nat → Nat
  | 0, _ => 0
  | n + 1, x => x % 16 + 10 * bcdValue n (x / 16)
/-- The low `n` decimal digits of a number, as BCD. -/
def toBcd : Nat → Nat → Nat
  | 0, _ => 0
  | n + 1, x => x % 10 + 16 * toBcd n (x / 10)
/-- Lowest digit number that holds a nibble above 9; `none` when there is none. -/
def badDigit (x : Nat) : Nat → Nat → Option Nat
  | 0, _ => none
  | n + 1, i => if 9 < fld x (4 * i) 4 then some i else badDigit x n (i + 1)

/-- A sign cell's meaning: true is negative (R378). -/
def decNeg (c : Cell) : Bool := c.toNat % 16 == 0xB || c.toNat % 16 == 0xD
def decSign (neg : Bool) : Cell := if neg then 0xD else 0xC

/-- What a decimal instruction delivers: cells in push order, FLAGS, DSTAT. -/
structure DecOut where
  cells : List Cell
  flags : Flags
  dstat : Cell
deriving DecidableEq, Repr

/-- DSTAT from its fields (R341). -/
def dstatOf (carry ddv : Bool) (pos : Nat) : Cell := cell (b2n carry * 32 + b2n ddv * 16 + pos % 16)
/-- DSTAT with DCARRY written and DDV cleared; DDPOS stays. -/
def dstatCarry (d : Cell) (carry : Bool) : Cell := dstatOf carry false (d.toNat % 16)

/-- Lowest bad digit of two digit cells. -/
def badDigit2 (a b : Cell) : Option Nat :=
  match badDigit a.toNat 16 0, badDigit b.toNat 16 0 with
  | some i, some j => some (min i j)
  | some i, none => some i
  | none, r => r

/-- DADD and DSUB on valid digits (R379). -/
def decAdd (sub : Bool) (f : Flags) (d ad asg bd bsg : Cell) : DecOut :=
  let na := decNeg asg
  let nb := decNeg bsg != sub
  let a := bcdValue 16 ad.toNat
  let b := bcdValue 16 bd.toNat
  let top := 10 ^ 16
  let m := if na = nb then (a + b) % top else if b ≤ a then a - b else b - a
  let carry := if na = nb then decide (top ≤ a + b) else decide (a < b)
  let spill := na == nb && decide (top ≤ a + b)
  let neg := m != 0 && (if na = nb then na else if b ≤ a then na else nb)
  { cells := [cell (toBcd 16 m), decSign neg], flags := setZNCV f (m == 0) neg carry spill, dstat := dstatCarry d carry }

/-- The masked decimal-data condition (R380): the pushed cells, FLAGS.DD and DSTAT. -/
def decBad (cells : List Cell) (f : Flags) (pos : Nat) : DecOut :=
  { cells := cells, flags := setZNCV f true false false false ||| 0b100000, dstat := dstatOf false true pos }

/-- DCHK (R381). -/
def decChk (f : Flags) (d x : Cell) : DecOut :=
  match badDigit x.toNat 16 0 with
  | some p => { cells := [x], flags := setZNCV f false false false false, dstat := dstatOf (regBit (w32 d.toNat) 5) true p }
  | none => { cells := [x], flags := setZNCV f true false false false, dstat := dstatOf (regBit (w32 d.toNat) 5) false 0 }

/-- DTOB on valid digits (R382). -/
def decToBin (f : Flags) (d dig sg : Cell) : DecOut :=
  let v := bcdValue 16 dig.toNat
  let r := if decNeg sg then (2 ^ 64 - v) % 2 ^ 64 else v
  { cells := [cell r], flags := setZNCV f (r == 0) (negAt r 64) false false, dstat := dstatOf (regBit (w32 d.toNat) 5) false (d.toNat % 16) }

/-- BTOD (R382). -/
def binToDec (f : Flags) (d x : Cell) : DecOut :=
  let i := sgn x.toNat 64
  let a := i.natAbs
  let big := decide (10 ^ 16 ≤ a)
  let m := a % 10 ^ 16
  let neg := decide (i < 0) && m != 0
  { cells := [cell (toBcd 16 m), decSign neg], flags := setZNCV f (m == 0) neg big big, dstat := dstatCarry d big }

end Sys2Proof.Machine
end

