-- ==== Sys2Proof/Machine/TurretCore.lean ====
section
/-! DEFINITION. Prefixes, the value stack, memory protection, and near and far accesses of a turret core
(04_dravaesor_isa.md R111-R131, R136, 11_exceptions_privilege.md R327, 12_lockstep.md R352). -/
namespace Sys2Proof.Machine

/-! ### Traps (R331) -/

/-- A fault an instruction raises: vector, INFO, and the landing register whose error bit taking it clears (R128). -/
structure Trap where
  vec : Nat
  info : Nat := 0
  clr : Option (Fin 4) := none
deriving DecidableEq, Repr

/-- What a part of an instruction answers. -/
inductive Run (α : Type) where
  | ok (a : α) (s : State)
  | trap (t : Trap) (s : State)

/-- Goes on where nothing was raised. -/
def Run.bind {α β : Type} (r : Run α) (f : α → State → Run β) : Run β :=
  match r with
  | .ok a s => f a s
  | .trap t s => .trap t s

abbrev vILLEGAL : Nat := 0
abbrev vPRIV : Nat := 1
abbrev vPROT : Nat := 2
abbrev vALIGN : Nat := 3
abbrev vBUS : Nat := 4
abbrev vPOISON : Nat := 5
abbrev vSOVF : Nat := 6
abbrev vSUNF : Nat := 7
abbrev vDOUBLE : Nat := 8
abbrev vDZ : Nat := 9
abbrev vDD : Nat := 10
abbrev vBRKPT : Nat := 11
abbrev vGATE : Nat := 12
abbrev vSPILL : Nat := 13
abbrev vLAZY : Nat := 14

/-- INFO in the address format (R331): kind 0 read, 1 write, 2 fetch. -/
def infoAddr (a kind : Nat) (far : Bool) : Nat := a % 2 ^ 48 + 2 ^ 48 * kind + 2 ^ 50 * b2n far

/-! ### Prefixes (R116-R118) -/

/-- The prefixes of an instruction, with what R118 finds wrong with them whatever the instruction. -/
structure Pfx where
  repn : Bool := false
  repi : Bool := false
  w32 : Bool := false
  w16 : Bool := false
  w8 : Bool := false
  an : Option Nat := none
  atom : Bool := false
  far : Option Nat := none
  /-- Page prefix, 0 for none. -/
  page : Nat := 0
  count : Nat := 0
  illegal : Bool := false
deriving DecidableEq, Repr

/-- A prefix after the ones in `p`: one more, and illegal if it is a repetition or follows a page prefix. -/
def Pfx.next (p : Pfx) (again : Bool) : Pfx := { p with count := p.count + 1, illegal := p.illegal || (again || p.page != 0) }

/-- A prefix without operand byte; none for a byte that is no prefix or carries an operand. -/
def Pfx.plain (p : Pfx) (b : Nat) : Option Pfx :=
  match b with
  | 0xF0 => some { p.next p.repn with repn := true }
  | 0xF1 => some { p.next p.repi with repi := true }
  | 0xF2 => some { p.next p.w32 with w32 := true }
  | 0xF3 => some { p.next p.w16 with w16 := true }
  | 0xF4 => some { p.next p.w8 with w8 := true }
  | 0xF6 => some { p.next p.atom with atom := true }
  | 0xF8 => some { p.next false with page := 0xF8 }
  | 0xF9 => some { p.next false with page := 0xF9 }
  | 0xFA => some { p.next false with page := 0xFA }
  | 0xFB => some { p.next false with page := 0xFB }
  | 0xFC => some { p.next false with illegal := true }
  | 0xFD => some { p.next false with illegal := true }
  | 0xFE => some { p.next false with illegal := true }
  | 0xFF => some { p.next false with illegal := true }
  | _ => none

/-- ANSEL and FAR with their operand byte. -/
def Pfx.operand (p : Pfx) (b o : Nat) : Pfx :=
  if b = 0xF5 then { p.next p.an.isSome with an := some (o % 8), illegal := (p.next p.an.isSome).illegal || decide (8 ≤ o) }
  else { p.next p.far.isSome with far := some (o % 4), illegal := (p.next p.far.isSome).illegal || decide (4 ≤ o) }

/-- Reads the raw prefix bytes of an instruction; none when they are no sequence of prefixes. -/
def pfxParse (p : Pfx) : List Byte → Option Pfx
  | [] => some p
  | [b] => p.plain b.toNat
  | b :: o :: t =>
    if b.toNat = 0xF5 ∨ b.toNat = 0xF7 then pfxParse (p.operand b.toNat o.toNat) t
    else match p.plain b.toNat with
      | some q => pfxParse q (o :: t)
      | none => none

/-- An opcode byte that the map of a page (0: primary) does not assign (R118, R120, R121, R179). -/
def opcodeReserved (page b : Nat) : Bool :=
  !(match page with
    | 0 => decide (b < 0x3D ∨ (0x40 ≤ b ∧ b < 0x4F) ∨ (0x50 ≤ b ∧ b < 0x5B) ∨ (0x60 ≤ b ∧ b < 0x64) ∨ (0x70 ≤ b ∧ b < 0x75) ∨
        (0x80 ≤ b ∧ b < 0x84) ∨ 0xC0 ≤ b)
    | 0xF8 => decide (b < 0x12 ∨ (0x20 ≤ b ∧ b < 0x3D) ∨ (0x40 ≤ b ∧ b < 0x4A) ∨ (0x50 ≤ b ∧ b < 0x56) ∨ (0x60 ≤ b ∧ b < 0x64) ∨
        (b = 0xC0 ∨ b = 0xC4) ∨ 0xF0 ≤ b)
    | 0xF9 => decide (b < 9 ∨ (b = 0xC0 ∨ b = 0xC4) ∨ 0xF0 ≤ b)
    | 0xFA => decide (b < 5 ∨ 0xF0 ≤ b)
    | _ => decide (b < 0x12 ∨ 0xF0 ≤ b))
/-- The byte at the opcode's place is the row's own, or one that the page reserves. -/
def reservedOk (page : Nat) (r : Option Byte) : Bool :=
  match r with
  | none => true
  | some b => opcodeReserved page b.toNat

/-- What prefixes an instruction accepts (R117, R133, R134): `repn` is judged near. -/
structure Acc where
  page : Nat := 0
  w32 : Bool := false
  w16 : Bool := false
  an : Bool := false
  atom : Bool := false
  far : Bool := false
  rep : Bool := false
  repn : Bool := false
deriving DecidableEq, Repr

/-- R118 for the prefixes of one instruction. -/
def pfxBad (a : Acc) (p : Pfx) : Bool :=
  [p.illegal, decide (4 < p.count), decide (1 < b2n p.w32 + b2n p.w16 + b2n p.w8), p.repn && p.repi, p.w32 && !a.w32,
   (p.w16 || p.w8) && !a.w16, p.an.isSome && !a.an, p.atom && !a.atom, p.far.isSome && !a.far, p.repi && !a.rep,
   p.repn && !(a.repn && p.far.isNone)].any id

/-- The operation width in bits (R117, R124). -/
def Pfx.bits (p : Pfx) : Nat := if p.w32 then 32 else if p.w16 then 16 else if p.w8 then 8 else 64

/-! ### Contexts and the value stack (R111-R113, R344) -/

/-- Current context of core `n`. -/
def State.cx (s : State) (n : Fin 8) : TCtx := (s.core n).ctx
def State.setCx (s : State) (n : Fin 8) (x : TCtx) : State := s.setCore n ((s.core n).setCtx x)

/-- Cells of a context's value stack (R112). -/
def TCtx.depth (x : TCtx) : Nat := x.win.length + (x.sbase.toNat - x.vsp.toNat) / 8

/-- Bytes of a buffered entry overlap a range. -/
def SbEntry.hits (e : SbEntry) (far : Bool) (a n : Nat) : Bool :=
  e.far == far && (decide (e.addr < a + n) && decide (a < e.addr + e.data.length))
/-- The entry covers a range completely. -/
def SbEntry.covers (e : SbEntry) (a n : Nat) : Bool := decide (e.addr ≤ a ∧ a + n ≤ e.addr + e.data.length)

/-- Offset in a turret's block of a DTCM address of the turret-local view. -/
def dtcmIx (a : Nat) : Nat := max dtcmOff a

/-- An entry leaves the store buffer of core `n` (R129). -/
def sbLeave (s : State) (n : Fin 8) (e : SbEntry) : State :=
  if e.far then (busWriteW s ⟨n.val, by omega⟩ e.custody e.addr e.data).1 else tcmWrite s n.val (dtcmIx e.addr) e.data

/-- The oldest entry leaves. -/
def sbDrain (s : State) (n : Fin 8) : State :=
  match (s.core n).sb with
  | [] => s
  | e :: t => sbLeave (s.setCore n { s.core n with sb := t }) n e

/-- Entries leave until none overlaps a range; `fuel` bounds the buffer. -/
def sbSettle (s : State) (n : Fin 8) (far : Bool) (a k : Nat) : Nat → State
  | 0 => s
  | fuel + 1 => if (s.core n).sb.any (fun e => e.hits far a k) then sbSettle (sbDrain s n) n far a k fuel else s
/-- The whole buffer is emptied. -/
def sbEmpty (s : State) (n : Fin 8) : Nat → State
  | 0 => s
  | fuel + 1 => sbEmpty (sbDrain s n) n fuel

/-- The youngest buffered store that overlaps a range. -/
def sbYoungest (s : State) (n : Fin 8) (far : Bool) (a k : Nat) : Option SbEntry :=
  (s.core n).sb.reverse.find? (fun e => e.hits far a k)

/-- A store enters the buffer; a full buffer lets its oldest entry leave first (R129). -/
def sbPush (s : State) (n : Fin 8) (e : SbEntry) : State :=
  let s1 := if 8 ≤ (s.core n).sb.length then sbDrain s n else s
  s1.setCore n { s1.core n with sb := (s1.core n).sb ++ [e] }

/-- A read of DTCM by the core: forwarded from the store buffer, or from memory once every overlapping store has left (R129). -/
def dtcmLoad (s : State) (n : Fin 8) (a k bits : Nat) : State × List Byte × Bool :=
  match sbYoungest s n false a k with
  | some e =>
    if e.covers a k then (s, (e.data.drop (a - e.addr)).take k, false)
    else tcmRead (sbSettle s n false a k 9) n.val (dtcmIx a) k bits
  | none => tcmRead s n.val (dtcmIx a) k bits
/-- A write of DTCM by the core that does not pass through the store buffer (spills, reservations). -/
def dtcmPut (s : State) (n : Fin 8) (a : Nat) (d : List Byte) : State :=
  tcmWrite (sbSettle s n false a d.length 9) n.val (dtcmIx a) d

/-- The engine spills the deepest window cell (R111); a cell marked poisoned leaves a poisoned word. -/
def spillOne (s : State) (n : Fin 8) : State :=
  let x := s.cx n
  match x.win.getLast? with
  | none => s
  | some c =>
    let a := (x.vsp - 8).toNat
    let s1 := dtcmPut s n a (leBytes 8 c.v.toNat)
    let s2 := match c.bad with
      | some _ => s1.setWordErr ((tcmBase n.val + dtcmIx a) / 8) 2
      | none => s1
    s2.setCx n { s2.cx n with win := x.win.dropLast, vsp := x.vsp - 8 }
/-- `j` spills would not cross SLIM (R112); no spill always has room. -/
def spillRoom (x : TCtx) (j : Nat) : Bool := decide (j = 0 ∨ x.slim.toNat + 8 * j ≤ x.vsp.toNat)
def spillN (s : State) (n : Fin 8) : Nat → State
  | 0 => s
  | j + 1 => spillN (spillOne s n) n j

/-- The engine fills one cell; a poisoned word marks it (R111, R344). -/
def fillOne (s : State) (n : Fin 8) : State :=
  let x := s.cx n
  let r := dtcmLoad s n x.vsp.toNat 8 0
  r.1.setCx n { r.1.cx n with
    win := x.win ++ [if r.2.2 then { v := 0, bad := some x.vsp.toNat } else { v := cell (ofLE r.2.1), bad := none }],
    vsp := x.vsp + 8 }
def fillN (s : State) (n : Fin 8) : Nat → State
  | 0 => s
  | j + 1 => fillN (fillOne s n) n j

/-- The first marked cell among the cells an instruction consumes. -/
def badAddr : List WCell → Option Nat
  | [] => none
  | c :: t => match c.bad with
    | some a => some a
    | none => badAddr t

/-- An instruction that consumes `k` cells and pushes `m`: it waits for the spill engine, and raises SUNF, SPILL or SOVF
(R112, R344). Answers the cells, top first; nothing is popped yet. -/
def stackNeed (s : State) (n : Fin 8) (k m : Nat) : Run (List Cell) :=
  let x := s.cx n
  if x.depth < k then .trap { vec := vSUNF, info := x.vsp.toNat } s
  else
    let s1 := fillN s n (k - x.win.length)
    let y := s1.cx n
    match badAddr (y.win.take k) with
    | some a => .trap { vec := vSPILL, info := a } s1
    | none =>
      let j := y.win.length + m - k - 32
      if spillRoom y j then .ok ((y.win.take k).map (·.v)) (spillN s1 n j)
      else .trap { vec := vSOVF, info := y.vsp.toNat } s1

/-- Pops `k` cells and pushes `rs`, top first. -/
def stackPut (s : State) (n : Fin 8) (k : Nat) (rs : List Cell) : State :=
  let x := s.cx n
  s.setCx n { x with win := rs.map (fun v => ({ v := v } : WCell)) ++ x.win.drop k, stage := [], clean := false }

/-! ### Memory protection (R327) -/

/-- Rights of an entry: read, write, execute. -/
inductive Right where
  | read | write | exec
deriving DecidableEq, Repr

/-- A copied entry's reserved bits are 0. -/
def mpuClean (e : Cell × Cell) : Bool := fld e.1.toNat 48 16 == 0 && (fld e.2.toNat 62 2 == 0 && fld e.2.toNat 48 8 == 0)
/-- The entry matches an address. -/
def mpuHit (a : Nat) (e : Cell × Cell) : Bool :=
  mpuClean e && decide (fld e.1.toNat 0 48 ≤ a ∧ a < fld e.2.toNat 0 48)
/-- The entry's right at a level. -/
def mpuRight (super : Bool) (r : Right) (e : Cell × Cell) : Bool :=
  e.2.getLsbD ((if super then 59 else 56) + (match r with | .read => 2 | .write => 1 | .exec => 0))

/-- The check of one byte address. -/
def mpuByte (c : Core) (r : Right) (a : Nat) : Bool :=
  match c.mpu.find? (mpuHit a) with
  | some e => mpuRight c.ctx.super r e
  | none => false
/-- The check of an access of `k` bytes at its first and its last byte; Custody and EN = 0 pass. -/
def mpuOk (c : Core) (r : Right) (a k : Nat) : Bool :=
  c.ctx.custody || (!(c.mpuctl.getLsbD 0) || (mpuByte c r a && mpuByte c r (a + k - 1)))

def rightKind : Right → Nat | .read => 0 | .write => 1 | .exec => 2

/-- The checks of an aligned access: alignment, then protection (R126, R327). -/
def accessCheck (s : State) (n : Fin 8) (r : Right) (a k : Nat) (far : Bool) : Option Trap :=
  if a % k ≠ 0 then some { vec := vALIGN, info := infoAddr a (rightKind r) far }
  else if !(mpuOk (s.core n) r a k) then some { vec := vPROT, info := infoAddr a (rightKind r) far }
  else none
/-- The protection check alone. -/
def protCheck (s : State) (n : Fin 8) (r : Right) (a k : Nat) (far : Bool) : Option Trap :=
  if !(mpuOk (s.core n) r a k) then some { vec := vPROT, info := infoAddr a (rightKind r) far } else none

/-! ### The code-write buffer (R136, R137) -/

/-- Bytes of a line with one more written. -/
def linePut (l : List (Nat × Byte)) (o : Nat) (b : Byte) : List (Nat × Byte) :=
  match l with
  | [] => [(o, b)]
  | (p, c) :: t => if o < p then (o, b) :: (p, c) :: t else if o = p then (o, b) :: t else (p, c) :: linePut t o b
/-- Bytes of a line with a run written. -/
def linePuts (l : List (Nat × Byte)) (o : Nat) : List Byte → List (Nat × Byte)
  | [] => l
  | b :: t => linePuts (linePut l o b) (o + 1) t

/-- Writes the bytes of a line to ITCM. -/
def lineToItcm (s : State) (n : Fin 8) (base : Nat) : List (Nat × Byte) → State
  | [] => s
  | (o, b) :: t => lineToItcm (tcmWrite s n.val (base + o) [b]) n base t

/-- The first line that satisfies `p` reaches ITCM and leaves the buffer (R137). -/
def cwbLeave (s : State) (n : Fin 8) (p : CwbLine → Bool) : State :=
  match (s.core n).cwb.find? p with
  | none => s
  | some l => lineToItcm (s.setCore n { s.core n with cwb := (s.core n).cwb.erase l }) n (l.line * 64) l.bytes

/-- All committed lines reach ITCM. -/
def cwbFlush (s : State) (n : Fin 8) : Nat → State
  | 0 => s
  | f + 1 => cwbFlush (cwbLeave s n (·.committed)) n f

/-- SYNC.I without its wait: every line is committed (R137). -/
def cwbCommit (s : State) (n : Fin 8) : State :=
  s.setCore n { s.core n with cwb := (s.core n).cwb.map fun l => { l with committed := true } }
/-- SYNC.I: every line is committed and reaches ITCM (R137). -/
def syncI (s : State) (n : Fin 8) : State := cwbFlush (cwbCommit s n) n (s.core n).cwb.length

/-- A near store to ITCM (R136). -/
def cwbStore (s : State) (n : Fin 8) (off : Nat) (d : List Byte) : State :=
  let ln := off / 64
  let s1 := cwbLeave s n (fun l => l.committed && l.line == ln)
  if (s1.core n).cwb.any (fun l => l.line == ln) then
    s1.setCore n { s1.core n with cwb := (s1.core n).cwb.map fun l =>
      if l.line == ln then { l with bytes := linePuts l.bytes (off % 64) d } else l }
  else
    let s2 := if 16 ≤ (s1.core n).cwb.length then syncI s1 n else s1
    s2.setCore n { s2.core n with cwb := (s2.core n).cwb ++ [{ line := ln, bytes := linePuts [] (off % 64) d, committed := false }] }

/-- ITCM bytes with the buffered bytes over them (R136). -/
def cwbOver (cwb : List CwbLine) (off : Nat) : List Byte → List Byte
  | [] => []
  | b :: t =>
    (match (cwb.filter (fun l => l.line == off / 64)).getLast? with
     | some l => (match l.bytes.find? (fun e => e.1 == off % 64) with | some e => e.2 | none => b)
     | none => b) :: cwbOver cwb (off + 1) t

/-! ### Near accesses (R38, R125) -/

/-- A near read of `k` bytes that lie in one region; alignment and protection have been checked. -/
def nearRead (s : State) (n : Fin 8) (a k bits : Nat) : Run (List Byte) :=
  match nearPlace s.remap a with
  | .bad => .trap { vec := vBUS, info := infoAddr a 0 false } s
  | .rom off => .ok (s.bytes (romKey + off) k) s
  | .itcm off =>
    let r := tcmRead s n.val off k bits
    if r.2.2 then .trap { vec := vPOISON, info := infoAddr a 0 false } r.1
    else .ok (cwbOver (r.1.core n).cwb off r.2.1) r.1
  | .dtcm _ =>
    let r := dtcmLoad s n a k bits
    if r.2.2 then .trap { vec := vPOISON, info := infoAddr a 0 false } r.1 else .ok r.2.1 r.1

/-- The region takes no store: an unmapped region or the boot ROM (R125). -/
def nearNoStore (s : State) (a : Nat) : Bool :=
  match nearPlace s.remap a with
  | .bad => true
  | .rom _ => true
  | _ => false

/-- A near write; alignment and protection have been checked. -/
def nearWrite (s : State) (n : Fin 8) (a : Nat) (d : List Byte) : Run Unit :=
  match nearPlace s.remap a with
  | .bad => .trap { vec := vBUS, info := infoAddr a 1 false } s
  | .rom _ => .trap { vec := vBUS, info := infoAddr a 1 false } s
  | .itcm off => .ok () (cwbStore s n off d)
  | .dtcm _ => .ok () (sbPush s n { far := false, addr := a, data := d, custody := (s.cx n).custody })

/-! ### Far accesses (R125, R127, R128, R352) -/

/-- A far address that is refused before issue (R125). -/
def farBad (a : Nat) : Bool := decide (2 ^ 48 ≤ a ∨ a < 0x80000000)

/-- The registers of the asynchronous class: none, or whether it is BELF (R352). -/
def asyncReg (a : Nat) : Option (Nat × Nat) :=
  match targetOf a with
  | .page p off =>
    if p = 0x10 ∧ (off = 0x100 ∨ off = 0x104) then some (p, off)
    else if 0x20 ≤ p ∧ p < 0x2C ∧ 0x100 ≤ off ∧ off < 0x200 ∧ off % 32 = 4 then some (p, off)
    else none
  | _ => none

/-- The sample port reads a register of the asynchronous class under identity `id`; with `skew`, one tick of it later. -/
def sampleRead (s : State) (id : MasterId) (skew : Bool) (p off : Nat) : State × Word32 :=
  if p = 0x10 then
    let r := belfRead (if skew then belfTick s else s) id off (!s.cup.ready)
    ({ s with belf := { s.belf with latches := r.1.belf.latches } }, r.2)
  else
    let t := (off - 0x100) / 32
    let r := countRead (if skew then tmrTick s (p - 0x20) t none else s) id.val (p - 0x20) t
    ({ s with tlatch := r.1.tlatch }, r.2)

/-- What a far read answers: bytes, or the vector of the fault that LDLn, LWAIT or a long instruction raises. -/
abbrev FarAns := List Byte ⊕ Nat

/-- A far read of `k` bytes: forwarded from the store buffer, or, once every overlapping store has left, sampled or through the matrix
(R129, R352). The mark tells a sampled value. -/
def farRead (s : State) (n : Fin 8) (id : MasterId) (skew : Bool) (a k : Nat) : State × FarAns × Bool :=
  let read := fun (s : State) =>
    match busRead s ⟨n.val, by omega⟩ a k with
    | (s1, .ok (d, false)) => (s1, Sum.inl d, false)
    | (s1, .ok (_, true)) => (s1, Sum.inr vPOISON, false)
    | (s1, .error _) => (s1, Sum.inr vBUS, false)
  let fetch := fun (s : State) =>
    match asyncReg a with
    | some (p, off) =>
      if k = 4 then
        let r := sampleRead s id skew p off
        (r.1, Sum.inl (leBytes 4 r.2.toNat), true)
      else read s
    | none => read s
  match sbYoungest s n true a k with
  | some e =>
    if e.covers a k then (s, .inl ((e.data.drop (a - e.addr)).take k), false)
    else fetch (sbSettle s n true a k 9)
  | none => fetch s

/-- A far write enters the store buffer with the WORLD bit of the context (R129, R325). -/
def farWrite (s : State) (n : Fin 8) (a : Nat) (d : List Byte) : State :=
  sbPush s n { far := true, addr := a, data := d, custody := (s.cx n).custody }

/-- The outstanding load of a landing register returns (R127, R128). -/
def landOne (l : Landing) : Landing :=
  match l.pend with
  | none => l
  | some f => match f.ans with
    | .inl v => { l with v := v, pend := none, sampled := f.sampled }
    | .inr vec => { l with pend := none, err := some vec }

/-- Lands register `r` of context `c` of core `n`. -/
def landReg (s : State) (n c : Fin 8) (r : Fin 4) : State :=
  let x := (s.core n).ctxs[c]
  s.setCore n { s.core n with ctxs := (s.core n).ctxs.set c { x with ls := x.ls.set r (landOne x.ls[r]) } }

/-- Lands every pending register of the current context. -/
def landAll (s : State) (n : Fin 8) : State :=
  s.setCx n { s.cx n with ls := (s.cx n).ls.map landOne }

/-- Extension of a loaded value to 64 bits (R124). -/
def loadExt (signed : Bool) (d : List Byte) : Cell := cell (if signed then uns (sgn (ofLE d) (8 * d.length)) 64 else ofLE d)

/-- A far load of `w` bytes to landing register `r`: the register waits for an earlier load, then is pending with what the read answered
(R127). -/
def farIssue (s : State) (n : Fin 8) (r : Fin 4) (a w : Nat) (ans : FarAns) (signed sampled : Bool) : State :=
  let s1 := landReg s n (s.core n).cur r
  let x := s1.cx n
  let v : Cell ⊕ Nat := match ans with
    | .inl d => .inl (loadExt signed d)
    | .inr vec => .inr vec
  s1.setCx n { x with ls := x.ls.set r { x.ls[r] with pend := some { addr := a, width := w, signed := signed, ans := v, sampled := sampled } } }

end Sys2Proof.Machine
end

