-- ==== Sys2Proof/Machine/Exceptions.lean ====
section
/-! DEFINITION. Modes, pending control writes, lazy unit state, fault and interrupt entry, return and gates
(11_exceptions_privilege.md R323-R345, 04_dravaesor_isa.md R137-R139). -/
namespace Sys2Proof.Machine

/-! ### MODE (R110) -/

/-- MODE of context `c`. -/
def modeOf (x : TCtx) (c : Nat) : Nat := c * 256 + x.mask.toNat * 16 + b2n x.custody * 2 + b2n x.super
/-- A context with MODE[7:0] replaced. -/
def setMode (x : TCtx) (m : Nat) : TCtx := { x with mask := BitVec.ofNat 4 (fld m 4 4), custody := bit m 1, super := bit m 0 }
/-- The context is enabled: 6 and 7 always, 0-5 by BANKCFG (R109). -/
def Core.enabled (c : Core) (k : Nat) : Bool := decide (6 ≤ k) || c.bankcfg.getLsbD k

/-! ### Ranges (R113, R326) -/

/-- SBASE range (R113), bits [2:0] ignored. -/
def sbaseOk (v : Nat) : Bool := decide (0x40000 ≤ v ∧ v < 0x80008)
/-- SLIM range (R113). -/
def slimOk (v : Nat) : Bool := decide (0x40000 ≤ v ∧ v < 0x80000)
/-- A cell value with bits [2:0] ignored, as an address. -/
def stackAddr (v : Nat) : Addr := BitVec.ofNat 48 (v / 8 * 8)

/-! ### Pending writes (R139, R327) -/

/-- The MPU's copy of its region table (R327). A poisoned entry is copied as one that matches no address (log entry 22). -/
def mpuCopy (s : State) (n : Fin 8) (base : Nat) : Nat → State × List (Cell × Cell)
  | 0 => (s, [])
  | k + 1 =>
    let r := mpuCopy s n base k
    let d := dtcmLoad r.1 n (base + 16 * k) 16 0
    (d.1, r.2 ++ [if d.2.2 then (cell (2 ^ 64 - 1), 0) else (cell (leAt d.2.1 0 8), cell (leAt d.2.1 8 8))])

/-- Enables of ordinary contexts take effect: OCC 0 and VSP = SBASE for a newly enabled one (R109). -/
def enableCtx (old new : BitVec 6) (c : Core) (k : Fin 8) : Core :=
  if k.val < 6 ∧ new.getLsbD k.val = true ∧ old.getLsbD k.val = false then
    { c with ctxs := c.ctxs.set k { c.ctxs[k] with win := [], vsp := c.ctxs[k].sbase },
             bankwin := if fld c.bankwin.toNat 8 3 = k.val ∧ c.cur ≠ 7 then c.bankwin &&& ~~~1 else c.bankwin }
  else c

/-- One pending write takes effect. -/
def applyOne (c : Core) (r : Nat) (v : Cell) : Core :=
  match r with
  | 1 => { c with world := v }
  | 2 => { c with edtb := v }
  | 3 => { c with mpubase := v }
  | 4 => { c with mpuctl := v }
  | 5 => c.setCtx { c.ctx with sbase := stackAddr v.toNat }
  | 6 => c.setCtx { c.ctx with slim := stackAddr v.toNat }
  | 7 => (List.finRange 8).foldl (enableCtx c.bankcfg (v.setWidth 6)) { c with bankcfg := v.setWidth 6 }
  | _ => c

/-- Pending writes in ascending register order. -/
def applyList (c : Core) : SMap (Option Cell) → Core
  | [] => c
  | (r, some v) :: t => applyList (applyOne c r v) t
  | (_, none) :: t => applyList c t

/-- The pending SYNC.C writes of the running context take effect (R139); the region table is copied when a write to MPUBASE or
MPUCTL is among them (R327). -/
def applyPending (s : State) (n : Fin 8) : State :=
  let p := (s.cx n).pend
  let s1 := s.setCore n (applyList (s.core n) p)
  let s2 := s1.setCx n { s1.cx n with pend := [] }
  if (sget p 3 none).isSome || (sget p 4 none).isSome then
    let c := s2.core n
    let r := mpuCopy s2 n (fld c.mpubase.toNat 8 40 * 256) (fld c.mpuctl.toNat 4 5)
    r.1.setCore n { r.1.core n with mpu := r.2 }
  else s2

/-! ### Lazy unit state (R341, R342) -/

/-- Writes the present owner's state of unit `u` into the owner's reservation, if it has one not written out. -/
def unitOut (s : State) (n : Fin 8) (u : Fin 3) : State :=
  match (s.core n).owner[u] with
  | none => s
  | some o =>
    let x := (s.core n).ctxs[o]
    match x.resv[u].place with
    | some p =>
      if x.resv[u].out then s
      else
        let s1 := dtcmPut s n p (leBytes 8 ((s.core n).unit[u]).toNat ++ leBytes 8 0)
        let y := (s1.core n).ctxs[o]
        s1.setCore n { s1.core n with ctxs := (s1.core n).ctxs.set o { y with resv := y.resv.set u { place := some p, out := true } } }
    | none => s

/-- Makes the running context the owner of a unit with the value `v`. -/
def unitOwn (s : State) (n : Fin 8) (u : Fin 3) (v : Cell) : State :=
  s.setCore n { s.core n with owner := (s.core n).owner.set u (some (s.core n).cur), unit := (s.core n).unit.set u v }

/-- A handler context is active (R332). -/
def Core.active (c : Core) (k : Fin 8) : Bool :=
  if k = 6 then c.depth6 != 0 else if k = 7 then c.depth7 != 0 else true

/-- An instruction touches unit `u`: the running context becomes the owner, or the LAZY fault is raised (R341, R342). -/
def unitTouch (s : State) (n : Fin 8) (u : Fin 3) : Run Cell :=
  let c := s.core n
  match c.owner[u] with
  | none => .ok (s.cx n).units[u] (unitOwn s n u (s.cx n).units[u])
  | some o =>
    if o = c.cur then .ok c.unit[u] s
    else if c.ctxs[o].resv[u].place.isNone ∧ c.active o = true then
      .trap { vec := vLAZY, info := u.val * 16 + o.val } s
    else
      let s1 := unitOut s n u
      .ok (s.cx n).units[u] (unitOwn s1 n u (s.cx n).units[u])

/-- Writes the state of a unit the running context owns. -/
def unitSet (s : State) (n : Fin 8) (u : Fin 3) (v : Cell) : State :=
  s.setCore n { s.core n with unit := (s.core n).unit.set u v }

/-- Reservation of one unit for the running context (R341, R342). -/
def reserveOne (s : State) (n : Fin 8) (u : Fin 3) : State :=
  let c := s.core n
  let x := c.ctx
  if c.owner[u] = some c.cur ∧ x.resv[u].place = none ∧ x.slim.toNat + 16 ≤ x.vsp.toNat then
    s.setCx n { x with vsp := x.vsp - 16, resv := x.resv.set u { place := some (x.vsp - 16).toNat, out := false } }
  else s
/-- The running context is switched out: its reservations in unit-code order (R341). -/
def reserveAll (s : State) (n : Fin 8) : State := reserveOne (reserveOne (reserveOne s n 0) n 1) n 2

/-- Release of one reservation of the running context, with the reload of a state that was written out (R341). -/
def releaseOne (s : State) (n : Fin 8) (u : Fin 3) : State :=
  let x := s.cx n
  match x.resv[u].place with
  | none => s
  | some p =>
    let s1 := if x.resv[u].out then
        let s0 := if (s.core n).owner[u] = some (s.core n).cur then s else unitOut s n u
        let d := dtcmLoad s0 n p 8 0
        unitOwn d.1 n u (cell (ofLE d.2.1))
      else s
    let y := s1.cx n
    s1.setCx n { y with vsp := y.vsp + 16, resv := y.resv.set u {} }
/-- The running context has been switched in: reverse unit-code order (R341). -/
def switchIn (s : State) (n : Fin 8) : State := releaseOne (releaseOne (releaseOne s n 2) n 1) n 0

/-- An entry into a handler context starts every unit from its untouched value (R341). A nested entry leaves the places reserved when the
context was switched out: they are released when it is switched in again. -/
def handlerUnits (c : Core) (h : Fin 8) (nested : Bool) : Core :=
  { c with owner := c.owner.map (fun o => if o = some h then none else o),
           ctxs := c.ctxs.set h { c.ctxs[h] with
             resv := if nested then c.ctxs[h].resv else Vector.replicate 3 {}, units := Vector.replicate 3 0 } }

/-! ### Entry (R330-R337) -/

/-- An exception descriptor (R330). -/
structure Desc where
  handler : Nat
  pri : Nat
  ssel : Nat
  nmask : Nat
  custody : Bool
  super : Bool
deriving DecidableEq, Repr

/-- HANDLER lies in ITCM in the present layout. -/
def inItcm (s : State) (a : Nat) : Bool :=
  match nearPlace s.remap a with
  | .itcm _ => true
  | _ => false

/-- Reads entry `v`; none for an entry that makes a fault during entry (R333). -/
def descRead (s : State) (n : Fin 8) (v : Nat) : State × Option Desc :=
  let r := dtcmLoad s n ((s.core n).edtb.toNat + 16 * v) 16 0
  let a := leAt r.2.1 0 8
  let b := leAt r.2.1 8 8
  if r.2.2 || (fld a 48 16 != 0 || (fld b 16 48 != 0 || (fld b 10 2 != 0 || (bit b 3 || (!(bit b 0) || !(inItcm s (fld a 0 48)))))))
  then (r.1, none)
  else (r.1, some { handler := fld a 0 48, pri := fld b 12 4, ssel := fld b 8 2, nmask := fld b 4 4, custody := bit b 2, super := bit b 1 })

/-- Selects the stack of handler context `h` (R332); none when the record is out of range. `force`: the double fault. -/
def selectStack (s : State) (n h : Fin 8) (ssel : Nat) (force : Bool) : State × Bool :=
  if ssel = 0 ∨ ((s.core n).active h = true ∧ force = false) then (s, true)
  else
    let r := dtcmLoad s n (0x1000 + (s.core n).edtb.toNat + 16 * ssel) 16 0
    let a := leAt r.2.1 0 8
    let b := leAt r.2.1 8 8
    if r.2.2 || !(sbaseOk a && slimOk b) then (r.1, false)
    else
      let c := r.1.core n
      let y : TCtx := { c.ctxs[h] with sbase := stackAddr a, slim := stackAddr b, vsp := stackAddr a, win := [] }
      (r.1.setCore n { c with ctxs := c.ctxs.set h y }, true)

/-- A frame (R334): cells top first. -/
def frameCells (pc f1 : Nat) (rc : Cell) (info : Nat) : List Cell := [cell info, rc, cell f1, cell pc]

/-- F1 of a frame whose FROM is the running context. -/
def frameF1 (s : State) (n : Fin 8) (entry extra : Nat) : Nat :=
  extra + entry % 256 * 2 ^ 24 + (s.cx n).flags.toNat * 2 ^ 16 + (s.core n).cur.val * 2 ^ 12 + modeOf (s.cx n) (s.core n).cur.val

/-- Steps 4 to 9 of an entry into handler context `h` (R333); none for a fault during entry: a bad stack record, a stack overflow, or a
marked cell among those step 5 spills. `mask` is the new MASK. -/
def enterHandler (s : State) (n h : Fin 8) (d : Desc) (force : Bool) (mask : Nat) (frame : List Cell) : Option State :=
  let r := selectStack s n h d.ssel force
  if !r.2 then none
  else
    let c := handlerUnits (r.1.core n) h ((s.core n).active h && !force)
    let s1 := r.1.setCore n { c with cur := h, depth6 := c.depth6 + b2n (h == 6), depth7 := c.depth7 + b2n (h == 7) }
    let j := (s1.cx n).win.length - 28
    if spillRoom (s1.cx n) j && (badAddr ((s1.cx n).win.drop 28)).isNone then
      let s2 := stackPut (spillN s1 n j) n 0 frame
      let y := s2.cx n
      some (cwbCommit (s2.setCx n { y with pc := BitVec.ofNat 48 d.handler, mask := BitVec.ofNat 4 mask,
                                           custody := d.custody, super := d.super }) n)
    else none

/-- A double fault: vector 0x08 in context 7, or a core warm reset (R336, R337). `orig` is the vector that escalated. -/
def doubleFault (s : State) (n : Fin 8) (orig reason info : Nat) : State :=
  if (s.core n).dfOut then coreReset s n 3
  else if (s.core n).edtb = 0 then coreReset s n 2
  else
    match descRead s n vDOUBLE with
    | (s1, none) => coreReset s1 n 2
    | (s1, some d) =>
      if d.ssel = 0 then coreReset s1 n 2
      else
        let lost := (s1.core n).active 7
        let s2 := if lost then s1 else reserveAll s1 n
        let f1 := frameF1 s2 n vDOUBLE (2 ^ 48 * reason + 2 ^ 40 * (orig % 256) + 2 ^ 34 * b2n lost + 2 ^ 33)
        match enterHandler s2 n 7 d true 15 (frameCells (s2.cx n).pc.toNat f1 (s2.cx n).rc info) with
        | none => coreReset s2 n 2
        | some s3 => s3.setCore n { s3.core n with dfOut := true }

/-- An entry at vector `v` with level `lvl` given (an event) or taken from the entry's PRI (a fault) (R332-R336). -/
def enterAt (s : State) (n h : Fin 8) (v : Nat) (lvl : Option Nat) (info : Nat) : State :=
  let s0 := applyPending s n
  if (s0.core n).edtb = 0 then coreReset s0 n 2
  else
    match descRead s0 n v with
    | (s1, none) => doubleFault s1 n v 2 info
    | (s1, some d) =>
      let l := lvl.getD d.pri
      if l ≤ (s1.cx n).mask.toNat then doubleFault s1 n v 1 info
      else
        let s2 := if (s1.core n).active h then s1 else reserveAll s1 n
        match enterHandler s2 n h d false (max d.nmask l) (frameCells (s2.cx n).pc.toNat (frameF1 s2 n v 0) (s2.cx n).rc info) with
        | none => doubleFault s1 n v 2 info
        | some s3 => s3

/-- TAKING A FAULT: PC of the running context is the instruction's address already (R332-R337). -/
def faultEntry (s : State) (n : Fin 8) (t : Trap) : State :=
  let s1 := match t.clr with
    | none => s
    | some r =>
      let x := s.cx n
      s.setCx n { x with ls := x.ls.set r { x.ls[r] with err := none } }
  enterAt s1 n 7 t.vec none t.info

/-! ### Interrupts (R335, R339) -/

/-- Event sources with a written route word. -/
def routedSources (s : State) : List Nat :=
  s.regs.filterMap fun e =>
    if 0x41 ≤ e.1 / 4096 ∧ e.1 / 4096 < 0x43 ∧ 0x100 ≤ e.1 % 4096 then some ((e.1 / 4096 - 0x41) * 256 + (e.1 % 4096 - 0x100) / 4) else none

/-- The better of two waiting events: the higher level, then the lower vector (R335). -/
def betterEvent (s : State) (a b : Nat) : Nat :=
  let la := regFld (s.route a) 8 4
  let lb := regFld (s.route b) 8 4
  if lb < la ∨ (la = lb ∧ regFld (s.route a) 0 8 ≤ regFld (s.route b) 0 8) then a else b

/-- The event the core takes next, above its MASK (R335). -/
def takenEvent (s : State) (n : Fin 8) : Option Nat :=
  let l := (routedSources s).filter fun e => s.toTurret e n && decide ((s.cx n).mask.toNat < regFld (s.route e) 8 4)
  match l with
  | [] => none
  | e :: t => some (t.foldl (betterEvent s) e)

/-- Some event is routed to the core (R335). -/
def anyEvent (s : State) (n : Fin 8) : Bool := (routedSources s).any fun e => s.toTurret e n

/-- TAKING AN INTERRUPT (R332-R335). -/
def interruptEntry (s : State) (n : Fin 8) : State :=
  match takenEvent s n with
  | none => s
  | some e =>
    let s1 := s.setCore n { s.core n with sleep := false }
    enterAt s1 n 6 (regFld (s1.route e) 0 8) (some (regFld (s1.route e) 8 4)) e

/-! ### Return (R338) -/

/-- What RETE does once its checks have passed. -/
def reteTake (s : State) (n : Fin 8) (pc f1 : Nat) (rc : Cell) : State :=
  let run := (s.core n).cur
  let from' : Fin 8 := ⟨fld f1 8 3, by unfold fld; exact Nat.mod_lt _ (by decide)⟩
  let goal : Fin 8 := ⟨fld f1 12 3, by unfold fld; exact Nat.mod_lt _ (by decide)⟩
  if bit f1 33 && bit f1 34 then coreReset s n 4
  else
    let s1 := stackPut s n 4 []
    let c := s1.core n
    let x := setMode c.ctxs[from'] f1
    let c1 : Core := { c with
      ctxs := c.ctxs.set from' { x with pc := BitVec.ofNat 48 pc, flags := BitVec.ofNat 6 (fld f1 16 6), rc := rc },
      depth6 := if run = 6 ∧ bit f1 32 = false then c.depth6 - 1 else c.depth6,
      depth7 := if run = 7 ∧ bit f1 32 = false then c.depth7 - 1 else c.depth7,
      dfOut := c.dfOut && !(bit f1 33),
      bankwin := if run = 7 then c.bankwin &&& ~~~1 else c.bankwin }
    let s2 := cwbCommit (applyPending (s1.setCore n c1) n) n
    if goal = run then s2
    else
      let s3 := if (s2.core n).active run then reserveAll s2 n else s2
      switchIn (s3.setCore n { s3.core n with cur := goal }) n

/-- The first check of R338 that applies; none when RETE may go on. -/
def reteCheck (c : Core) (f1 : Nat) : Option Nat :=
  let x := c.ctx
  let fr := fld f1 8 3
  let goal := fld f1 12 3
  let toCust := (c.ctxs[(⟨goal % 8, Nat.mod_lt _ (by decide)⟩ : Fin 8)]).custody
  if !x.super then some vPRIV
  else if !x.custody && (bit f1 1 || toCust) then some vPRIV
  else if !x.custody && decide (fld c.world.toNat 52 4 < fld f1 4 4) then some vPRIV
  else if decide (c.cur.val < 6) && (fr != c.cur.val || goal != c.cur.val) then some vILLEGAL
  else if !(c.enabled fr && c.enabled goal) then some vILLEGAL
  else if fld f1 50 14 != 0 || (fld f1 35 5 != 0 || (fld f1 22 2 != 0 || (bit f1 15 || bit f1 11))) then some vILLEGAL
  else none

/-! ### Gates (R328, R329) -/

/-- INFO of a gate fault: g with the reason in [15:8] (R329). -/
def gateInfo (g reason : Nat) : Nat := 65536 * (g / 65536) + reason * 256 + g % 256

/-- Bit of CALLERS for a mode. -/
def callerBit (x : TCtx) : Nat := 12 + 2 * b2n x.custody + b2n x.super

/-- GATE with the gate number `g` on top of the stack; `next` is the address of the next instruction (R329). -/
def gateTake (s : State) (n : Fin 8) (g next : Nat) : Run Unit :=
  let c := s.core n
  if fld c.world.toNat 56 8 ≤ g then .trap { vec := vGATE, info := gateInfo g 1 } s
  else
    let at' := fld c.world.toNat 8 40 * 256 + 16 * g
    let r := dtcmLoad s n at' 16 0
    let a := leAt r.2.1 0 8
    let b := leAt r.2.1 8 8
    if r.2.2 then .trap { vec := vPOISON, info := infoAddr at' 0 false } r.1
    else if !(bit b 0) || (fld a 48 16 != 0 || (fld b 19 45 != 0 || (fld b 8 4 != 0 || bit b 3))) then
      .trap { vec := vGATE, info := gateInfo g 2 } r.1
    else if !(bit b (callerBit c.ctx)) then .trap { vec := vGATE, info := gateInfo g 3 } r.1
    else if (r.1.cx n).depth < 1 + fld b 16 3 then .trap { vec := vGATE, info := gateInfo g 4 } r.1
    else
      let s1 := stackPut r.1 n 1 (frameCells next (frameF1 r.1 n g (2 ^ 32)) (r.1.cx n).rc 0)
      let y := s1.cx n
      .ok () (s1.setCx n { y with pc := BitVec.ofNat 48 (fld a 0 48), custody := bit b 2, super := bit b 1,
                                  mask := BitVec.ofNat 4 (max y.mask.toNat (fld b 4 4)) })

end Sys2Proof.Machine
end

