-- ==== Sys2Proof/Machine/TurretExec.lean ====
section
/-! DEFINITION. How a turret core runs one instruction: fetch checks, prefixes, repetition, faults, and a lockstep pair's
comparison (04_dravaesor_isa.md R116-R135, 12_lockstep.md R349-R359). -/
namespace Sys2Proof.Machine

/-! ### What an instruction is -/

/-- What a running instruction sees. `id` is the identity whose latches the sample port uses, `skew` marks the trailing core's
later sample, `tcm` the bits in error in the TCM word it reads, `stop` the steps after which an event is taken. -/
structure Env where
  n : Fin 8
  id : MasterId
  skew : Bool
  p : Pfx
  pc : Nat
  next : Nat
  tcm : Nat
  imm : Imm
  stop : Option Nat

/-- Where a finished instruction leaves PC. -/
inductive Flow where
  | next
  | jump (a : Nat)
  /-- The instruction has set PC itself. -/
  | set
  /-- The instruction stays at its address (R132). -/
  | stay

/-- The effect of one execution. -/
abbrev Body := Env → State → Run Flow

/-- An instruction as the encoding gives it (R116, R117). -/
structure Insn where
  acc : Acc
  hasImm : Bool := false
  imm : Imm := { size := 0, value := 0 }
  /-- MOVB, FILLB, CRCB, CMPB and LWAIT: the body itself leaves the precise state of a fault or a stop. -/
  long : Bool := false
  /-- LDLn. -/
  ldl : Option (Fin 4) := none
  /-- CHKST; MTCR. -/
  digest : Bool := false
  mtcr : Bool := false
  body : Body

/-- Bytes of an immediate (R116). -/
def immBytes (i : Imm) : Nat := 2 ^ i.size.val
/-- The value fits its bytes. -/
def immOk (i : Imm) : Bool := decide (i.value.toNat < 2 ^ (8 * immBytes i))
/-- Sign-extended immediate, as a cell. -/
def immSx (i : Imm) : Cell := cell (uns (sgn i.value.toNat (8 * immBytes i)) 64)

/-! ### One run on one core -/

/-- After a fault: the context as it was, the buffered stores as they are (R112, R134). -/
def undo (s0 s1 : State) (n : Fin 8) : State :=
  s1.setCore n { s0.core n with sb := (s1.core n).sb, cwb := (s1.core n).cwb }

/-- The checks of the fetch of `len` bytes at PC (R38, R125, R143, R327). -/
def fetchCheck (s : State) (n : Fin 8) (len bits : Nat) : Run Unit :=
  let pc := (s.cx n).pc.toNat
  if !(mpuOk (s.core n) .exec pc len) then .trap { vec := vPROT, info := infoAddr pc 2 false } s
  else match nearPlace s.remap pc, nearPlace s.remap (pc + len - 1) with
    | .bad, _ => .trap { vec := vBUS, info := infoAddr pc 2 false } s
    | _, .bad => .trap { vec := vBUS, info := infoAddr pc 2 false } s
    | .itcm off, _ =>
      let r := tcmRead s n.val off len bits
      if r.2.2 then .trap { vec := vPOISON, info := infoAddr pc 2 false } r.1 else .ok () r.1
    | .dtcm off, _ =>
      let r := tcmRead s n.val (dtcmOff + off) len bits
      if r.2.2 then .trap { vec := vPOISON, info := infoAddr pc 2 false } r.1 else .ok () r.1
    | .rom _, _ => .ok () s

/-- PC moves as the flow says. -/
def flowTo (s : State) (e : Env) (f : Flow) : State :=
  match f with
  | .next => s.setCx e.n { s.cx e.n with pc := BitVec.ofNat 48 e.next }
  | .jump a => s.setCx e.n { s.cx e.n with pc := BitVec.ofNat 48 a }
  | .set => s
  | .stay => s

/-- `fuel` iterations of a repeated instruction (R133): each decrements RC when it completes; a fault is precise. -/
def repLoop (e : Env) (long : Bool) (b : Body) : Nat → State → State × Option Trap
  | 0, s => (s, none)
  | f + 1, s =>
    match b e s with
    | .trap t s1 => (if long then s1 else undo s s1 e.n, some t)
    | .ok _ s1 => repLoop e long b f (s1.setCx e.n { s1.cx e.n with rc := (s1.cx e.n).rc - 1 })

/-- A repeated instruction (R133-R135). -/
def runRep (e : Env) (long : Bool) (b : Body) (s : State) : State :=
  let rc := (s.cx e.n).rc.toNat
  if e.p.repn then
    if 64 < rc then faultEntry s e.n { vec := vILLEGAL }
    else if (match e.stop with | some j => decide (j < rc) | none => false) then s
    else match repLoop e long b rc s with
      | (s1, some t) => faultEntry (undo s s1 e.n) e.n t
      | (s1, none) => flowTo s1 e .next
  else
    let k := match e.stop with | some j => min j rc | none => rc
    match repLoop e long b k s with
    | (s1, some t) => faultEntry s1 e.n t
    | (s1, none) => if k < rc then s1 else flowTo s1 e .next

/-- One instruction on one core. -/
def runOn (e : Env) (x : Insn) (s0 : State) : State :=
  match fetchCheck s0 e.n (e.next - e.pc) 0 with
  | .trap t s => faultEntry s e.n t
  | .ok _ s =>
    if pfxBad x.acc e.p then faultEntry s e.n { vec := vILLEGAL }
    else if e.p.repn || e.p.repi then runRep e x.long x.body s
    else if x.long then
      match x.body e s with
      | .trap t s1 => faultEntry s1 e.n t
      | .ok f s1 => flowTo s1 e f
    else if e.stop.isSome then s
    else match x.body e s with
      | .trap t s1 => faultEntry (undo s s1 e.n) e.n t
      | .ok f s1 => flowTo s1 e f

/-! ### A pair in lockstep (R349-R359) -/

/-- The state in which the trailing core stands at the leading core's place, over the pair's one set of TCMs (R350). The trailing core's
copies of the store buffer and of the code-write buffer hold what it would have sent, until it is compared (R349, R355). -/
def trailIn (s : State) (p : Fin 4) : State := s.setCore (evenCore p) (s.core (oddCore p))

/-- Latches of the odd identity, which only the trailing core's sample port writes (R352). -/
def oddLatches (s1 s2 : State) (p : Fin 4) : State :=
  let id := (oddCore p).val
  { s1 with belf := { s1.belf with latches := sput s1.belf.latches id (sget s2.belf.latches id 0) 0 },
            tlatch := (rangeFrom 0 96).foldl (fun m t => sput m (t * 32 + id) (sget s2.tlatch (t * 32 + id) 0) 0) s1.tlatch }

/-- The pair after both cores ran: everything as the leading core left it, the trailing core beside. -/
def trailOut (s1 s2 : State) (p : Fin 4) : State := oddLatches (s1.setCore (oddCore p) (s2.core (evenCore p))) s2 p

/-- Cells the instruction pushed or changed: those above the part of the window it left alone. -/
def commonTail : List WCell → List WCell → Nat
  | a :: s, b :: t => if a = b then 1 + commonTail s t else 0
  | _, _ => 0
def pushed (old new : List WCell) : List WCell := new.take (new.length - commonTail old.reverse new.reverse)

/-- The bytes of memory with keys in `[a, a+n)`. -/
def memPart (s : State) (a n : Nat) : List Host.Cell := s.mem.filter fun c => decide (a ≤ c.1) && decide (c.1 < a + n)
/-- The far requests outstanding in a context: address, width, kind and landing register (G4). -/
def requests (x : TCtx) : List (Option (Nat × Nat × Bool)) := x.ls.toList.map fun l => l.pend.map fun f => (f.addr, f.width, f.signed)
/-- What pending writes set, and the writes pending, in each context (G5). -/
def ctlOf (c : Core) : List (Addr × Addr × SMap (Option Cell)) := c.ctxs.toList.map fun x => (x.sbase, x.slim, x.pend)

/-- The two runs did the same to everything outside the pair, the latches of the sample ports apart. -/
def sameOutside (a b : State) : Bool :=
  [decide (a.regs = b.regs), decide (a.locks = b.locks), decide (a.errs = b.errs), decide (a.domains = b.domains),
   decide (a.lineErr = b.lineErr), decide (a.memc = b.memc), decide (a.scr0 = b.scr0), decide (a.scr1 = b.scr1),
   decide (a.timers = b.timers), decide (a.mbx = b.mbx), decide (a.lck = b.lck), decide (a.fm = b.fm), decide (a.spFence = b.spFence),
   decide (a.pairs = b.pairs), decide (a.spires = b.spires), decide (a.qe = b.qe), decide (a.keys = b.keys), decide (a.ports = b.ports),
   decide (a.pwr = b.pwr), decide (a.links = b.links), decide (a.linkLo = b.linkLo), decide (a.eth = b.eth), decide (a.plink = b.plink),
   decide (a.cup = b.cup), decide (a.boot = b.boot), decide (a.out = b.out)].all id

/-- Number of the first output group in which two runs of the pair differ (R354); none while they agree. State that has not reached an
output is not compared (R355): what waits in the two store and code-write buffers shows when it leaves, as a TCM write (G3), a far
request (G4) or a line written to ITCM (G7). `ctl`: the instruction is MTCR, whose write of FCSR is an output. -/
def firstDiff (s0 s1 s2 : State) (n : Fin 8) (ctl : Bool) : Option Nat :=
  let c0 := s0.core n
  let c1 := s1.core n
  let c2 := s2.core n
  let itcm := fun (s : State) => memPart s (tcmBase n.val) dtcmOff
  let dtcm := fun (s : State) => memPart s (tcmBase n.val + dtcmOff) 0x40000
  let rest := fun (s : State) => s.mem.filter fun c => !(decide (tcmBase n.val ≤ c.1) && decide (c.1 < tcmBase n.val + 0x80000))
  if c1.ctx.pc ≠ c2.ctx.pc then some 0
  else if c1.ctx.win.length ≠ c2.ctx.win.length ∨ pushed c0.ctx.win c1.ctx.win ≠ c2.ctx.win.take (pushed c0.ctx.win c1.ctx.win).length
    then some 1
  else if c1.ctx.flags ≠ c2.ctx.flags ∨ c1.ctx.rc ≠ c2.ctx.rc ∨ modeOf c1.ctx c1.cur.val ≠ modeOf c2.ctx c2.cur.val then some 2
  else if dtcm s1 ≠ dtcm s2 ∨ s1.wordErr ≠ s2.wordErr then some 3
  else if rest s1 ≠ rest s2 ∨ sameOutside s1 s2 = false ∨ requests c1.ctxs[c0.cur] ≠ requests c2.ctxs[c0.cur] then some 4
  else if ctlOf c1 ≠ ctlOf c2 ∨ c1.edtb ≠ c2.edtb ∨ c1.world ≠ c2.world ∨ c1.mpubase ≠ c2.mpubase ∨ c1.mpuctl ≠ c2.mpuctl ∨
      c1.mpu ≠ c2.mpu ∨ c1.bankwin ≠ c2.bankwin ∨ c1.bankcfg ≠ c2.bankcfg ∨ c1.trapmask ≠ c2.trapmask ∨
      (ctl = true ∧ c1.unit[(0 : Fin 3)] ≠ c2.unit[(0 : Fin 3)]) then some 5
  else if c1.cur ≠ c2.cur ∨ c1.depth6 ≠ c2.depth6 ∨ c1.depth7 ≠ c2.depth7 ∨ c1.dfOut ≠ c2.dfOut then some 6
  else if c1.sleep ≠ c2.sleep ∨ c1.dhalt ≠ c2.dhalt ∨ itcm s1 ≠ itcm s2 then some 7
  else none

/-- Runs `f` on both cores of a lockstep pair and compares (R349, R354): a difference halts the pair with the state as it was
before (R359). `cls` gives the class of a difference in a group; the instruction may be CHKST (`digest`) or MTCR (`ctl`). -/
def pairRun (s : State) (p : Fin 4) (skew : Bool) (cls : Nat → Nat) (digest ctl : Bool) (f : MasterId → Bool → State → State) : State :=
  let s1 := f ⟨(evenCore p).val, by omega⟩ false s
  let s2 := f ⟨(oddCore p).val, by omega⟩ skew (trailIn s p)
  match firstDiff s s1 s2 (evenCore p) ctl with
  | some g => cmpHalt s p (cls g) g (digest && g == 1) (s.cx (evenCore p)).pc.toNat
  | none => trailOut s1 s2 p

/-- The core executes: it runs, is not halted by Lantern, does not sleep, and is not the odd core of a lockstep pair. -/
def State.executes (s : State) (n : Fin 8) : Bool :=
  s.coreRuns n && (!(s.core n).dhalt && (!(s.core n).sleep && !(s.lockstep n && n.val % 2 = 1)))

/-- A difference in group 1 is INPUT when the instruction is LDLn of a register the sample port filled (R358). -/
def diffClass (s : State) (n : Fin 8) (x : Insn) (g : Nat) : Nat :=
  match x.ldl with
  | some r => if g = 1 ∧ (s.cx n).ls[r].sampled = true then 2 else 1
  | none => 1

/-- An instruction on a core or a lockstep pair, with the event that befalls the hardware (R352, R356-R358). -/
def turretGo (s : State) (n : Fin 8) (x : Insn) (p : Pfx) (op : DisOp) : State :=
  if s.executes n then
    let pc := (s.cx n).pc.toNat
    let next := pc + op.pfx.length + 1 + (if x.hasImm then immBytes x.imm else 0)
    let bits := match op.hw with | .tcm b => b | _ => 0
    let run := fun (id : MasterId) (skew : Bool) (t : State) =>
      runOn { n := n, id := id, skew := skew, p := p, pc := pc, next := next, tcm := bits, imm := x.imm, stop := op.stop } x t
    if s.lockstep n then
      match op.hw with
      | .selfFault g => cmpHalt s (pairOf n) 4 g.val false pc
      | .dreg o sl g =>
        cmpHalt (s.setReg (0x1A8 + (pairOf n).val) 0x11C (w32 (b2n o * 2 ^ 15 + sl.toNat))) (pairOf n) 3 (if o then g.val else 0) false pc
      | .coreFault g => cmpHalt s (pairOf n) (diffClass s n x g.val) g.val (x.digest && g.val == 1) pc
      | .skew => pairRun s (pairOf n) true (diffClass s n x) x.digest x.mtcr run
      | .quiet => pairRun s (pairOf n) false (diffClass s n x) x.digest x.mtcr run
      | .tcm _ => pairRun s (pairOf n) false (diffClass s n x) x.digest x.mtcr run
      | .csword _ _ _ => pairRun s (pairOf n) false (diffClass s n x) x.digest x.mtcr run
    else run ⟨n.val, by omega⟩ false s
  else s

/-! ### Commands of a core that are no instruction -/

/-- A command of core `n`: on a lockstep pair it befalls both cores (R351). -/
def coreCmd (s : State) (n : Fin 8) (f : State → State) : State :=
  if s.coreRuns n && !(s.lockstep n && n.val % 2 = 1) then
    if s.lockstep n then pairRun s (pairOf n) false (fun _ => 1) false false (fun _ _ t => f t) else f s
  else s

/-- R335, R339. -/
def execInterruptEntry (n : Fin 8) (s : State) : Res :=
  ok (if (s.core n).dhalt then s else coreCmd s n (fun t => interruptEntry t n))
/-- R111, R112: a spill that would cross SLIM is not made. -/
def execSpillEngineSpill (n : Fin 8) (s : State) : Res :=
  ok (coreCmd s n fun t => if 28 < (t.cx n).win.length ∧ spillRoom (t.cx n) 1 = true then spillOne t n else t)
/-- R111, R344. -/
def execSpillEngineFill (n : Fin 8) (s : State) : Res :=
  ok (coreCmd s n fun t => if (t.cx n).win.length < 4 ∧ (t.cx n).vsp.toNat < (t.cx n).sbase.toNat then fillOne t n else t)
/-- R129: an entry leaves; a lockstep pair's is compared as it leaves (R354, R355). -/
def execStoreBufferDrain (n : Fin 8) (s : State) : Res := ok (coreCmd s n fun t => sbDrain t n)
/-- R137: a committed line is written to ITCM; a lockstep pair's is compared as it leaves. -/
def execCwbLineWrite (n : Fin 8) (s : State) : Res := ok (coreCmd s n fun t => cwbLeave t n (·.committed))
/-- R127, R128: the load lands in the context that issued it. -/
def execFarLoadReturn (n : Fin 8) (c : Fin 8) (r : Fin 4) (s : State) : Res :=
  ok (coreCmd s n fun t => landReg t n c r)

/-! ### Scalar instructions, shared with the spire sequencers (R142) -/

/-- What a scalar instruction reads. -/
structure SIn where
  bits : Nat
  /-- Cells consumed, top first. -/
  cells : List Cell
  flags : Flags
  rc : Cell
  depth : Nat
  next : Nat
  imm : Imm
  /-- TRAPMASK[0]. -/
  dzMasked : Bool

/-- What it writes. -/
structure SOut where
  /-- Cells pushed, top first. -/
  cells : List Cell := []
  flags : Flags
  rc : Cell
  jump : Option Nat := none

/-- A scalar instruction: it consumes `k` cells and pushes `m`; none is the DZ trap. -/
structure Scalar where
  k : Nat
  m : Nat
  f : SIn → Option SOut

/-- The `i`-th consumed cell, 0 on top. -/
def SIn.c (x : SIn) (i : Nat) : Cell := x.cells.getD i 0

/-- The body of a scalar instruction on a turret. -/
def scalarBody (x : Scalar) : Body := fun e s =>
  (stackNeed s e.n x.k x.m).bind fun cells s1 =>
    let y := s1.cx e.n
    match x.f { bits := e.p.bits, cells := cells, flags := y.flags, rc := y.rc, depth := y.depth, next := e.next, imm := e.imm,
                dzMasked := (s1.core e.n).trapmask.getLsbD 0 } with
    | none => .trap { vec := vDZ } s1
    | some o =>
      let s2 := if x.k = 0 ∧ x.m = 0 then s1 else stackPut s1 e.n x.k o.cells
      let z := s2.cx e.n
      .ok (match o.jump with | some a => .jump a | none => .next) (s2.setCx e.n { z with flags := o.flags, rc := o.rc })

end Sys2Proof.Machine
end

