-- ==== Sys2Proof/Machine/Scalars.lean ====
section
/-! DEFINITION. The scalar instructions of the DIS primary map, once for turrets and spire sequencers
(04_dravaesor_isa.md R119-R124, R142; 13_arithmetic.md R366-R369). -/
namespace Sys2Proof.Machine

/-- A scalar that only rearranges or pushes cells. -/
def scCells (k m : Nat) (f : SIn → List Cell) : Scalar :=
  { k := k, m := m, f := fun x => some { cells := f x, flags := x.flags, rc := x.rc } }
/-- A two-operand operation. -/
def scBin (o : Bin) : Scalar :=
  { k := 2, m := 1, f := fun x =>
      let r := binCell o x.bits x.flags (x.c 1) (x.c 0)
      some { cells := [r.1], flags := r.2, rc := x.rc } }
/-- A one-operand operation. -/
def scUna (o : Una) : Scalar :=
  { k := 1, m := 1, f := fun x =>
      let r := unaCell o x.bits x.flags (x.c 0)
      some { cells := [r.1], flags := r.2, rc := x.rc } }
/-- A shift or rotate: x n → result. -/
def scShf (o : Shf) : Scalar :=
  { k := 2, m := 1, f := fun x =>
      let r := shfCell o x.bits x.flags (x.c 1) (x.c 0)
      some { cells := [r.1], flags := r.2, rc := x.rc } }
/-- SEXT and ZEXT. -/
def scExt (signed : Bool) : Scalar :=
  { k := 1, m := 1, f := fun x =>
      let r := extCell signed x.bits x.flags (x.c 0)
      some { cells := [r.1], flags := r.2, rc := x.rc } }
/-- DIV and DIVU: a b → q r. -/
def scDiv (signed : Bool) : Scalar :=
  { k := 2, m := 2, f := fun x =>
      match divCell signed x.bits x.flags x.dzMasked (x.c 1) (x.c 0) with
      | none => none
      | some (q, r, f) => some { cells := [r, q], flags := f, rc := x.rc } }
/-- CMP: the flags of a − b. -/
def scCmp : Scalar :=
  { k := 2, m := 0, f := fun x => some { flags := (binCell .sub x.bits x.flags (x.c 1) (x.c 0)).2, rc := x.rc } }
/-- TST: Z and N from a, pushed back as its w bits zero-extended (R124). -/
def scTst : Scalar := scUna .tst
/-- SEL: a b c → (c ≠ 0 ? a : b). -/
def scSel : Scalar :=
  { k := 3, m := 1, f := fun x =>
      let r := selCell x.bits x.flags (x.c 2) (x.c 1) (x.c 0)
      some { cells := [r.1], flags := r.2, rc := x.rc } }
/-- ADDI, ANDI, ORI. -/
def scImm (o : Bin) (sx : Bool) : Scalar :=
  { k := 1, m := 1, f := fun x =>
      let r := binCell o x.bits x.flags (x.c 0) (if sx then immSx x.imm else cell x.imm.value.toNat)
      some { cells := [r.1], flags := r.2, rc := x.rc } }

/-- Branch target: a signed displacement from the next instruction, or absolute for 8 bytes (R120). -/
def brTarget (x : SIn) : Nat :=
  if x.imm.size.val = 3 then x.imm.value.toNat % 2 ^ 48
  else uns (x.next + sgn x.imm.value.toNat (8 * immBytes x.imm)) 48

/-- A control transfer: `f` says whether it is taken. -/
def scBranch (k : Nat) (f : SIn → Bool) : Scalar :=
  { k := k, m := 0, f := fun x => some { flags := x.flags, rc := x.rc, jump := if f x then some (brTarget x) else none } }
/-- CALL. -/
def scCall : Scalar :=
  { k := 0, m := 1, f := fun x => some { cells := [cell x.next], flags := x.flags, rc := x.rc, jump := some (brTarget x) } }
/-- LOOP: RC ← RC − 1; branch if RC ≠ 0. -/
def scLoop : Scalar :=
  { k := 0, m := 0, f := fun x =>
      some { flags := x.flags, rc := x.rc - 1, jump := if x.rc - 1 ≠ 0 then some (brTarget x) else none } }
/-- RET and JMP. -/
def scJump : Scalar := { k := 1, m := 0, f := fun x => some { flags := x.flags, rc := x.rc, jump := some ((x.c 0).toNat % 2 ^ 48) } }
/-- CALLI: addr → return address. -/
def scCallI : Scalar :=
  { k := 1, m := 1, f := fun x => some { cells := [cell x.next], flags := x.flags, rc := x.rc, jump := some ((x.c 0).toNat % 2 ^ 48) } }
/-- WRRC. -/
def scWrrc : Scalar := { k := 1, m := 0, f := fun x => some { flags := x.flags, rc := x.c 0 } }
/-- WRFL. -/
def scWrfl : Scalar := { k := 1, m := 0, f := fun x => some { flags := (x.c 0).setWidth 6, rc := x.rc } }
/-- NOP. -/
def scNop : Scalar := scCells 0 0 fun _ => []

/-! ### Prefixes accepted (R117, R133, R134, R142) -/

/-- Row 0x0_, PUSHI, PUSHU. -/
def accPlain : Acc := { rep := true, repn := true }
/-- Rows 0x1_ to 0x3_, ADDI, ANDI, ORI. -/
def accAlu : Acc := { w32 := true, w16 := true, rep := true, repn := true }
/-- Branches, transfers, row 0x7_. -/
def accNone : Acc := {}
/-- LD, LDS. -/
def accLoad : Acc := { w32 := true, w16 := true, far := true, rep := true, repn := true }
/-- ST. -/
def accStore : Acc := { w32 := true, w16 := true, far := true, rep := true }
/-- Atomics. -/
def accAtom : Acc := { w32 := true, w16 := true, far := true, atom := true, rep := true }
/-- Anchored loads and LDD. -/
def accAnLoad : Acc := { w32 := true, w16 := true, far := true, an := true, rep := true, repn := true }
/-- Anchored stores and STD. -/
def accAnStore : Acc := { w32 := true, w16 := true, far := true, an := true, rep := true }
/-- ANLD, ANOFF, ANRD. -/
def accAnchor : Acc := { an := true, rep := true }
/-- ANADR and ANSTEP. -/
def accAnStep : Acc := { an := true, rep := true, repn := true }
/-- LDLn. -/
def accLdl : Acc := { rep := true, repn := true }
/-- LWAIT and FENCE. -/
def accWait : Acc := { rep := true }
/-- 0x80–0x83. -/
def accLong : Acc := { far := true }
/-- System, decimal, floating pages. -/
def accSys : Acc := { page := 0xF9 }
def accDec : Acc := { page := 0xFA }
def accFlt : Acc := { page := 0xFB, w32 := true }
/-- FWIDEN and FNARROW refuse W32 (R371). -/
def accFlt0 : Acc := { page := 0xFB }

end Sys2Proof.Machine
end

