-- ==== Sys2Proof/Machine/SpireElem.lean ====
section
/-! DEFINITION. Stream descriptors, the table of element operations, take-in and the checks of a chain group
(05_spire_streams.md R147-R158, 06_spire_operations.md R181-R195). -/
namespace Sys2Proof.Machine

/-! ### Descriptor fields (R147, R148) -/

def SDesc.base (d : SDesc) : Nat := fld d.d0.toNat 0 48
def SDesc.mclass (d : SDesc) : Bool := bit d.d0.toNat 52
def SDesc.wcode (d : SDesc) : Nat := fld d.d0.toNat 53 3
def SDesc.mode (d : SDesc) : Nat := fld d.d0.toNat 56 3
def SDesc.fpol (d : SDesc) : Nat := fld d.d0.toNat 59 2
/-- Element width in bytes. -/
def SDesc.w (d : SDesc) : Nat := 2 ^ d.wcode
/-- COUNT; 0 means 2^32. -/
def SDesc.count (d : SDesc) : Nat := if fld d.d1.toNat 0 32 = 0 then 2 ^ 32 else fld d.d1.toNat 0 32
def SDesc.stride (d : SDesc) : Int := sgn (fld d.d1.toNat 32 32) 32
def SDesc.param (d : SDesc) : Nat := d.d2.toNat
def SDesc.user (d : SDesc) : Nat := fld d.d3.toNat 0 32
/-- MODULUS; 0 means 2^32. -/
def SDesc.modulus (d : SDesc) : Nat := if fld d.param 0 32 = 0 then 2 ^ 32 else fld d.param 0 32

abbrev mLINEAR : Nat := 0
abbrev mMODULO : Nat := 1
abbrev mBITREV : Nat := 2
abbrev mINDEXED : Nat := 3
abbrev mCHAIN : Nat := 4
def SDesc.chain (d : SDesc) : Bool := d.mode == mCHAIN
def SDesc.slot (d : SDesc) : Nat := fld d.param 0 3

/-- PARAM is legal for the mode (R148). -/
def SDesc.paramOk (d : SDesc) : Bool :=
  match d.mode with
  | 0 => d.param == 0
  | 1 => decide (fld d.param 32 32 < d.modulus)
  | 2 => decide (1 ≤ fld d.param 0 6 ∧ fld d.param 0 6 ≤ 32 ∧ d.param / 64 = 0)
  | 3 => d.param / 8 == 0
  | _ => decide (d.param < 6)

/-- The fields of a descriptor are valid (R147, R148, R150, R152). -/
def SDesc.ok (d : SDesc) (dst : Bool) : Bool :=
  fld d.d0.toNat 61 3 == 0 && (decide (d.fpol < (if dst then 1 else 2)) && (decide (d.mode < 5) && (decide (d.wcode < 5) &&
    (fld d.d3.toNat 32 32 == 0 && (d.paramOk && (d.chain || d.base % d.w == 0))))))

/-- Reversal of the low `b` bits. -/
def bitrev : Nat → Nat → Nat
  | 0, _ => 0
  | b + 1, i => (i % 2) * 2 ^ b + bitrev b (i / 2)

/-- Byte address of element `i`; `x` is the index element of an INDEXED stream (R149). -/
def SDesc.addr (d : SDesc) (i x : Nat) : Nat :=
  let pos : Int := match d.mode with
    | 1 => (Int.ofNat (fld d.param 32 32) + i * d.stride) % Int.ofNat d.modulus
    | 2 => Int.ofNat (bitrev (fld d.param 0 6) (i % 2 ^ fld d.param 0 6)) + (i / 2 ^ fld d.param 0 6 : Nat) * d.stride
    | 3 => x * d.stride
    | _ => i * d.stride
  uns (Int.ofNat d.base + pos * Int.ofNat d.w) 48

/-! ### VDGET and VDSET (R181) -/

/-- The word, position and width of field `i`. -/
def fieldPlace (i : Nat) : Nat × Nat × Nat :=
  match i with
  | 0 => (0, 0, 48) | 1 => (1, 0, 32) | 2 => (1, 32, 32) | 3 => (2, 0, 64) | 4 => (3, 0, 32)
  | 5 => (0, 56, 3) | 6 => (0, 53, 3) | 7 => (0, 52, 1) | 8 => (0, 48, 4) | _ => (0, 59, 2)
def SDesc.word (d : SDesc) (k : Nat) : Cell := if k = 0 then d.d0 else if k = 1 then d.d1 else if k = 2 then d.d2 else d.d3
def SDesc.setWord (d : SDesc) (k : Nat) (v : Cell) : SDesc :=
  if k = 0 then { d with d0 := v } else if k = 1 then { d with d1 := v } else if k = 2 then { d with d2 := v } else { d with d3 := v }
/-- Field `i`: STRIDE is sign-extended, the others zero-extended. -/
def SDesc.get (d : SDesc) (i : Nat) : Cell :=
  let p := fieldPlace i
  let v := fld (d.word p.1).toNat p.2.1 p.2.2
  if i = 2 then cell (uns (sgn v 32) 64) else cell v
/-- Field `i` replaced by the low bits of a cell. -/
def SDesc.set (d : SDesc) (i : Nat) (v : Cell) : SDesc :=
  let p := fieldPlace i
  d.setWord p.1 (cell (fldSet (d.word p.1).toNat p.2.1 p.2.2 v.toNat))
/-- The 32 bytes of a descriptor, and back. -/
def SDesc.bytes (d : SDesc) : List Byte := leBytes 8 d.d0.toNat ++ leBytes 8 d.d1.toNat ++ leBytes 8 d.d2.toNat ++ leBytes 8 d.d3.toNat
def SDesc.ofBytes (l : List Byte) : SDesc :=
  { d0 := cell (leAt l 0 8), d1 := cell (leAt l 8 8), d2 := cell (leAt l 16 8), d3 := cell (leAt l 24 8) }

/-! ### The table of element operations (R187) -/

/-- Units of the datapath. -/
inductive Unit4 where
  | gf | al | xf | rd
deriving DecidableEq, Repr

def VOp.unit : VOp → Unit4
  | .vgfmul => .gf | .vgfmuls => .gf | .vgfmac => .gf | .vgfinv => .gf | .vgfmatx => .gf | .vbfly => .gf | .vibfly => .gf
  | .vpmul => .gf
  | .vcrc32c => .xf | .vcrc64 => .xf | .vsha256 => .xf | .vghash => .xf | .vaesx => .xf | .vaesg => .xf
  | .vrxor => .rd | .vradd => .rd | .vrfmis => .rd | .vrnz => .rd
  | _ => .al
/-- Operation positions of a unit (R145). -/
def Unit4.places : Unit4 → Nat | .gf => 2 | .al => 2 | .xf => 1 | .rd => 1
/-- Parameter cells. -/
def VOp.cells : VOp → Nat
  | .vshl => 1 | .vshr => 1 | .vsar => 1 | .vrol => 1 | .vror => 1 | .vfill => 1 | .vperm => 1 | .vgfmuls => 1 | .vgfmac => 1
  | .vgfmatx => 1 | .vbfly => 1 | .vibfly => 1 | .vcrc32c => 1 | .vcrc64 => 1 | .vsha256 => 1 | .vghash => 1 | .vaesg => 1
  | .vaesx => 2
  | _ => 0
/-- Source descriptors. -/
def VOp.nsrc : VOp → Nat
  | .vfill => 0
  | .vsel => 3
  | .vadd => 2 | .vsub => 2 | .vadds => 2 | .vsubs => 2 | .vaddus => 2 | .vsubus => 2 | .vmin => 2 | .vmax => 2 | .vminu => 2
  | .vmaxu => 2 | .vand => 2 | .vor => 2 | .vxor => 2 | .vandn => 2 | .vcmpeq => 2 | .vcmpne => 2 | .vcmplt => 2 | .vcmpltu => 2
  | .vgfmul => 2 | .vgfmac => 2 | .vpmul => 2 | .vrfmis => 2
  | _ => 1
/-- The operation has a destination descriptor; a reduction has none. -/
def VOp.hasDst (v : VOp) : Bool := v.unit != .rd
/-- The operation accepts element width `w`. -/
def VOp.widthOk (v : VOp) (w : Nat) : Bool :=
  match v with
  | .vpmul => w == 2
  | .vgfmul => decide (w ≤ 2) | .vgfmuls => decide (w ≤ 2) | .vgfmac => decide (w ≤ 2) | .vgfinv => decide (w ≤ 2)
  | .vgfmatx => decide (w ≤ 2) | .vbfly => decide (w ≤ 2) | .vibfly => decide (w ≤ 2)
  | .vand => true | .vor => true | .vxor => true | .vandn => true | .vnot => true | .vsel => true | .vcopy => true | .vfill => true
  | .vperm => true | .vcld => true | .vcrd => true | .vcrc32c => true | .vcrc64 => true | .vsha256 => true | .vghash => true
  | .vaesx => true | .vaesg => true | .vrfmis => true | .vrnz => true
  | _ => decide (w ≤ 8)
/-- Restart is from the group's first element. -/
def VOp.restart0 : VOp → Bool
  | .vcrc32c => true | .vcrc64 => true | .vsha256 => true | .vghash => true | .vaesg => true
  | .vrxor => true | .vradd => true | .vrfmis => true | .vrnz => true
  | _ => false

/-- Outputs `m` and inputs `k` of a matrix operation (R192). -/
def matM (p : Cell) : Nat := fld p.toNat 24 6
def matK (p : Cell) : Nat := fld p.toNat 16 8
/-- Q of a CRC operation (R197). -/
def crcQ (p : Cell) : Nat := fld p.toNat 0 5 + 1
/-- SOFF (R196). -/
def soff (p : Cell) : Nat := fld p.toNat 16 16
/-- DULOG (R200). -/
def duLog (p : Cell) : Nat := fld p.toNat 16 5

/-- Granule (R187). -/
def GOp.granule (o : GOp) : Nat :=
  match o.op with
  | .vgfmatx => matM o.p
  | .vbfly => 2 | .vibfly => 2 | .vpmul => 2
  | .vaesx => max 1 (16 / o.w)
  | _ => 1

/-! ### Parameter cells and coefficient ranges at take-in (R185, R189, R192-R201) -/

/-- The parameter cell breaks a rule of its entry. -/
def paramBad (v : VOp) (w : Nat) (p : Cell) : Bool :=
  let x := p.toNat
  match v with
  | .vperm => x / 2 ^ 16 != 0
  | .vgfmatx => x / 2 ^ 30 != 0 || !(decide (1 ≤ matM p ∧ matM p ≤ 32 ∧ 1 ≤ matK p)) || fld x 0 16 % w != 0
  | .vbfly => x / 2 ^ 21 != 0 || fld x 0 16 % w != 0
  | .vibfly => x / 2 ^ 21 != 0 || fld x 0 16 % w != 0
  | .vcrc32c => x / 2 ^ 32 != 0 || (fld x 5 11 != 0 || soff p % 4 != 0)
  | .vcrc64 => x / 2 ^ 32 != 0 || (fld x 5 11 != 0 || soff p % 8 != 0)
  | .vsha256 => x / 2 ^ 32 != 0 || (fld x 0 16 != 0 || soff p % 4 != 0)
  | .vghash => x / 2 ^ 32 != 0 || (fld x 0 16 != 0 || soff p % 16 != 0)
  | .vaesx => x / 2 ^ 21 != 0 || (fld x 13 3 != 0 || !(decide (4 ≤ duLog p ∧ duLog p ≤ 20)))
  | .vaesg => x / 2 ^ 32 != 0 || (fld x 14 2 != 0 || soff p % 16 != 0)
  | _ => false

/-- Bytes of state that a transform operation keeps in the coefficient RAM. -/
def stateLen (v : VOp) (p : Cell) : Nat :=
  match v with
  | .vcrc32c => 4 * crcQ p
  | .vcrc64 => 8 * crcQ p
  | .vsha256 => 32
  | .vghash => 32
  | .vaesg => 64
  | _ => 0

/-- A coefficient-RAM range named at take-in does not fit (R192, R195-R201). -/
def rangeBad (v : VOp) (w : Nat) (p : Cell) (src dst : Option SDesc) : Bool :=
  let past := fun (d : Option SDesc) => match d with
    | some d => decide (65536 < d.base % 65536 + d.count * d.w)
    | none => false
  match v with
  | .vgfmatx => decide (65536 < fld p.toNat 0 16 + matM p * matK p * w)
  | .vcld => past dst
  | .vcrd => past src
  | _ => decide (65536 < soff p + stateLen v p) && stateLen v p != 0

/-- A descriptor that addresses the coefficient RAM is valid (R195). -/
def coefDescOk (d : SDesc) : Bool := d.mode == mLINEAR && (d.stride == 1 && d.base / 65536 == 0)

/-! ### Groups (R154-R158) -/

def Group.desc (g : Group) (i : Nat) : SDesc := g.descs.getD i {}
/-- The load streams of an operation, index streams before the streams they index. -/
def GOp.loads (g : Group) (o : GOp) : List Nat :=
  (o.srcs.map fun r => r.ix.toList ++ (if (g.desc r.d).chain then [] else [r.d])).flatten ++
    (match o.dst with | some r => r.ix.toList | none => [])
/-- The load streams in port order: LA, LB (R158). -/
def Group.loads (g : Group) : List Nat := (g.ops.map fun o => o.loads g).flatten
/-- The operation stores to memory or to the coefficient RAM. -/
def GOp.stores (g : Group) (o : GOp) : Bool :=
  match o.dst with | some r => !(g.desc r.d).chain | none => false
/-- Slot an operation writes. -/
def GOp.slotW (g : Group) (o : GOp) : Option Nat :=
  match o.dst with | some r => if (g.desc r.d).chain then some (g.desc r.d).slot else none | none => none
/-- The operation reads slot `k`. -/
def GOp.reads (g : Group) (o : GOp) (k : Nat) : Bool := o.srcs.any fun r => (g.desc r.d).chain && (g.desc r.d).slot == k
/-- Operation that writes slot `k`, with its place. -/
def writerOf (g : Group) (k : Nat) : List GOp → Nat → Option (Nat × GOp)
  | [], _ => none
  | o :: t, i => if o.slotW g = some k then some (i, o) else writerOf g k t (i + 1)
def Group.writer (g : Group) (k : Nat) : Option (Nat × GOp) := writerOf g k g.ops 0

/-- A group with one more operation breaks a limit that the element instruction checks (R155). `g` is the group after the
take-in, `o` its last operation, `before` the operations that were there. -/
def limitBad (g : Group) (before : List GOp) (o : GOp) : Bool :=
  decide (6 < g.ops.length) ||
  decide (o.op.unit.places < (g.ops.filter fun x => x.op.unit == o.op.unit).length) ||
  decide (2 < g.loads.length) ||
  decide (1 < (g.ops.filter fun x => x.stores g).length) ||
  (match o.slotW g with | some k => before.any (fun x => x.slotW g == some k) | none => false) ||
  o.srcs.any fun r => (g.desc r.d).chain && ((writerOf g (g.desc r.d).slot before 0).isNone ||
    decide (2 < (g.ops.filter fun x => x.reads g (g.desc r.d).slot).length))

/-! ### Take-in (R154, R185, R186) -/

/-- What the take-in of one operand checks of its index descriptor; `used` are the positions already taken. -/
def indexCheck (stack : List SDesc) (used : List Nat) (d : SDesc) : Option Nat :=
  if d.mode ≠ mINDEXED then none
  else match stack[d.slot]? with
    | none => some 0x01
    | some x =>
      if used.contains d.slot || !(x.ok false) || !(decide (x.mode < 3)) then some 0x03
      else if 8 < x.w then some 0x07
      else if x.count < d.count then some 0x06
      else none

/-- The first reason in a list of checks. -/
def firstReason : List (Option Nat) → Option Nat
  | [] => none
  | some r :: _ => some r
  | none :: t => firstReason t
def failIf (b : Bool) (r : Nat) : Option Nat := if b then some r else none

/-- Positions of the operands on the stream stack, sources first in listed order, then the destination (R154). -/
def operandPos (v : VOp) : List Nat :=
  let d := b2n v.hasDst
  (rangeFrom 0 v.nsrc).map (fun j => d + (v.nsrc - 1 - j)) ++ (if v.hasDst then [0] else [])

/-- Places of operands in the group's descriptor list from `i` on, an index descriptor before its stream. -/
def placeRefs : List SDesc → Nat → List SrcRef
  | [], _ => []
  | d :: t, i => if d.mode = mINDEXED then { d := i + 1, ix := some i } :: placeRefs t (i + 2) else { d := i } :: placeRefs t (i + 1)

/-- What an element instruction leaves: the stream stack and the open group, or the reason of an issue fault. `cells` are the
parameter cells, top first. -/
def takeIn (v : VOp) (pc : Addr) (stack : List SDesc) (og : Option Group) (cells : List Cell) : Except Nat (List SDesc × Group) :=
  let pos := operandPos v
  if stack.length < pos.length then .error 0x01
  else
    let ds := pos.map fun i => stack.getD i {}
    let srcs := ds.take v.nsrc
    let dst := if v.hasDst then ds[v.nsrc]? else none
    let idx := (ds.filter fun d => d.mode == mINDEXED).map (·.slot)
    let w := match dst with | some d => d.w | none => (ds.getD 0 {}).w
    let p := cells.getD 0 0
    let g0 := og.getD { pc := pc }
    let chainW := srcs.any fun d => d.chain && (match writerOf g0 d.slot g0.ops 0 with | some (_, o) => o.w != d.w | none => false)
    let coef := if v = .vcld then dst else if v = .vcrd then srcs[0]? else none
    match firstReason [
        failIf (srcs.any (fun d => !(d.ok false)) || (match dst with | some d => !(d.ok true) | none => false)) 0x03,
        firstReason (ds.map (indexCheck stack pos)), failIf (!idx.Nodup) 0x03,
        failIf (match coef with | some d => !(coefDescOk d) | none => false) 0x03,
        failIf (!(v.widthOk w) || (ds.any (fun d => d.w != w) || chainW)) 0x07,
        failIf (paramBad v w p) 0x08,
        failIf (rangeBad v w p srcs[0]? dst) 0x09] with
    | some r => .error r
    | none =>
      let refs := placeRefs ds g0.descs.length
      let o : GOp := { op := v, w := w, p := p, t := cells.getD 1 0, srcs := refs.take v.nsrc, dst := if v.hasDst then refs[v.nsrc]? else none }
      let descs := (ds.map fun d => if d.mode = mINDEXED then [stack.getD d.slot {}, d] else [d]).flatten
      let g : Group := { g0 with ops := g0.ops ++ [o], descs := g0.descs ++ descs }
      let gone := pos ++ idx
      let keep := ((List.range stack.length).filter fun i => !(gone.contains i)).map fun i => stack.getD i {}
      if limitBad g g0.ops o then .error 0x04 else .ok (keep, g)

/-! ### Lengths (R155-R157) -/

/-- The first source of a list of operations that is not a chain slot. -/
def firstSource (g : Group) (l : List GOp) : Option SrcRef :=
  ((l.map (·.srcs)).flatten.filter fun r => !(g.desc r.d).chain).head?
/-- N: the COUNT of the store stream, or of the first memory source stream (R156). VCRD's source is no memory (R195): it gives the length
only of a group that has neither (DEDUCED, log entry 77). -/
def Group.n (g : Group) : Nat :=
  match (g.ops.filter fun o => o.stores g).head? with
  | some o => match o.dst with | some r => (g.desc r.d).count | none => 0
  | none => match (firstSource g (g.ops.filter fun o => o.op != .vcrd)).orElse fun _ => firstSource g g.ops with
    | some r => (g.desc r.d).count
    | none => 0

/-- Inputs an operation needs for `t` outputs (R156, R192). -/
def GOp.need (o : GOp) (t : Nat) : Nat :=
  match o.op with
  | .vgfmatx => ceilDiv t (matM o.p) * matK o.p
  | _ => t

/-- Outputs an operation makes in a whole number of its blocks to reach `t` of its `total`; a block of VPERM is a step of `e` (R189). -/
def GOp.round (o : GOp) (e total t : Nat) : Nat :=
  match o.op with
  | .vperm => min total (ceilDiv t (max 1 e) * max 1 e)
  | .vgfmatx => min total (ceilDiv t (matM o.p) * matM o.p)
  | .vbfly => min total (ceilDiv t 2 * 2)
  | .vibfly => min total (ceilDiv t 2 * 2)
  | .vpmul => min total (ceilDiv t 2 * 2)
  | .vaesx => min total (ceilDiv (t * o.w) 16 * (16 / o.w))
  | .vaesg => min total (ceilDiv (t * o.w) 16 * (16 / o.w))
  | _ => t

/-- E (R157). -/
def Group.e (g : Group) : Nat :=
  let wmax := (g.ops.map (·.w) ++ g.loads.map fun i => (g.desc i).w).foldl max 1
  let e := 128 / wmax
  if g.ops.any (fun o => (o.srcs.any fun r => r.ix.isSome) || (match o.dst with | some r => r.ix.isSome | none => false)) && decide (16 < e)
    then 16 else e

/-- Outputs each operation makes when the sinks have `t` of `n` elements, from the last operation backwards; `later` are the
operations after it with their targets. With `t = n` these are the totals. -/
def targetsFrom (g : Group) (t : Nat) : List GOp → List Nat → List (GOp × Nat) → List Nat
  | [], _, later => later.map (·.2)
  | o :: rest, tot, later =>
    let want := match o.slotW g with
      | some k => (later.filter fun x => x.1.reads g k).foldl (fun a x => max a (x.1.need x.2)) 0
      | none => t
    let total := tot.getLast?.getD 0
    let made := if tot.isEmpty then want else o.round g.e total want
    targetsFrom g t rest tot.dropLast ((o, made) :: later)
/-- Total outputs of every operation. -/
def Group.totals (g : Group) : List Nat := targetsFrom g g.n g.ops.reverse [] []
/-- Outputs of every operation when the sinks have `t` elements. -/
def Group.targets (g : Group) (t : Nat) : List Nat := targetsFrom g t g.ops.reverse g.totals []

/-- G (R187). -/
def Group.granule (g : Group) : Nat := g.ops.foldl (fun a o => Nat.lcm a o.granule) 1
/-- The group's restart rule is 0. -/
def Group.restart0 (g : Group) : Bool := g.ops.any (·.op.restart0)

/-- The length checks of one operation with `t` outputs at VGO: parity and ratio, source counts, coefficient ranges. -/
def opLengthBad (g : Group) (o : GOp) (t : Nat) : Option Nat :=
  let odd := match o.op with
    | .vgfmatx => t % max 1 (matM o.p) != 0
    | .vbfly => t % 2 != 0 | .vibfly => t % 2 != 0 | .vpmul => t % 2 != 0
    | .vsha256 => t * o.w % 64 != 0
    | .vghash => t * o.w % 16 != 0
    | .vaesx => t * o.w % 16 != 0
    | _ => false
  let short := o.srcs.any fun r => !(g.desc r.d).chain && decide ((g.desc r.d).count < o.need t)
  let twid := fld o.p.toNat 0 16 + o.w * ((t / 2 - 1) >>> fld o.p.toNat 16 5) + o.w
  let coef := match o.op with
    | .vperm => decide (65536 < fld o.p.toNat 0 16 + g.e)
    | .vbfly => decide (65536 < twid)
    | .vibfly => decide (65536 < twid)
    | _ => false
  if odd || short then some 0x06 else failIf coef 0x09

/-- A slot's two readers need different numbers of elements. -/
def unequal (g : Group) (ops : List (GOp × Nat)) : Bool :=
  (rangeFrom 0 6).any fun k =>
    match ops.filter fun x => x.1.reads g k with
    | a :: t => t.any fun x => x.1.need x.2 != a.1.need a.2
    | [] => false

/-- What VGO finds wrong with the open group (R155, R156, R178). -/
def vgoBad (g : Group) : Option Nat :=
  let ot := g.ops.zip g.totals
  firstReason ([
    failIf ((rangeFrom 0 6).any fun k => (g.writer k).isSome && !(g.ops.any fun o => o.reads g k)) 0x05,
    failIf (!(g.ops.any fun o => o.stores g || o.op.unit == .rd)) 0x05,
    failIf (g.n == 0) 0x06, failIf (unequal g ot) 0x06] ++ ot.map fun x => opLengthBad g x.1 x.2)

/-! ### Rebuilding from a watermark (R212) -/

/-- Inputs that correspond to `r` outputs of operation `i` and its consumers: the element of each operation's output that
corresponds to sink element `r`. -/
def Group.scaled (g : Group) (r : Nat) : List Nat := targetsFrom g r g.ops.reverse [] []

/-- A descriptor moved on by `r` elements. -/
def SDesc.advance (d : SDesc) (r : Nat) : SDesc :=
  let moved := match d.mode with
    | 0 => d.set 0 (cell (uns (Int.ofNat d.base + r * d.stride * Int.ofNat d.w) 48))
    | 1 => { d with d2 := cell (fldSet d.param 32 32 ((Int.ofNat (fld d.param 32 32) + r * d.stride) % Int.ofNat d.modulus).toNat) }
    | 2 => d.set 0 (cell (uns (Int.ofNat d.base + (r / 2 ^ fld d.param 0 6 : Nat) * d.stride * Int.ofNat d.w) 48))
    | _ => d
  if d.chain then d else moved.set 1 (cell (d.count - r))

/-- How far each descriptor of the group moves when the sink moves by `r`: pairs of descriptor place and distance. -/
def Group.moves (g : Group) (r : Nat) : List (Nat × Nat) :=
  ((g.ops.zip (g.scaled r)).map fun x =>
    (x.1.srcs.map fun q => (q.d, x.1.need x.2) :: (q.ix.toList.map fun i => (i, x.1.need x.2))).flatten ++
    (match x.1.dst with | some q => (q.d, x.2) :: (q.ix.toList.map fun i => (i, x.2)) | none => [])).flatten

/-- Every BITREV stream would restart at a block boundary. -/
def Group.atBlocks (g : Group) (r : Nat) : Bool :=
  (g.moves r).all fun m => (g.desc m.1).mode != mBITREV || m.2 % 2 ^ fld (g.desc m.1).param 0 6 == 0

/-- The restart point at or below `r` that suits every BITREV stream; `k` granules remain. -/
def Group.restartAt (g : Group) (gr : Nat) : Nat → Nat
  | 0 => 0
  | k + 1 => if g.atBlocks ((k + 1) * gr) then (k + 1) * gr else g.restartAt gr k

/-- The group rebuilt to start at sink element `r`. -/
def Group.rebuild (g : Group) (r : Nat) : Group :=
  let mv := g.moves r
  { g with
    descs := (g.descs.zipIdx).map fun x => match mv.find? (·.1 == x.2) with
      | some m => x.1.advance m.2
      | none => x.1
    ops := (g.ops.zip (g.scaled r)).map fun x =>
      if x.1.op = .vaesx then
        let b := x.1.skip + x.2 * x.1.w
        { x.1 with t := x.1.t + cell (b / 2 ^ duLog x.1.p), skip := b % 2 ^ duLog x.1.p }
      else x.1 }

end Sys2Proof.Machine
end

