-- ==== Sys2Proof/Machine/SpireUnits.lean ====
section
/-! DEFINITION. What each element operation computes from its input elements (06_spire_operations.md R187-R202). An element is a
number; `none` stands for an element that was not delivered. -/
namespace Sys2Proof.Machine

/-- All ones of `w` bytes if the comparison holds. -/
def allOnes (w : Nat) (b : Bool) : Nat := if b then 2 ^ (8 * w) - 1 else 0
/-- Clamps to the signed range of `b` bits, as a number. -/
def clampS (b : Nat) (x : Int) : Nat := uns (max (-(2 ^ (b - 1) : Nat) : Int) (min x ((2 ^ (b - 1) : Nat) - 1))) b
/-- Clamps to the unsigned range. -/
def clampU (b : Nat) (x : Int) : Nat := (max 0 (min x ((2 ^ b : Nat) - 1))).toNat

/-- Element operations on one element of each source: `w` bytes, parameter cell `p`, sources in listed order (R187, R188). -/
def elemFn (v : VOp) (w : Nat) (p : Cell) (x : List Nat) : Nat :=
  let a := x.getD 0 0
  let b := x.getD 1 0
  let bits := 8 * w
  let top := 2 ^ bits
  let n := p.toNat
  match v with
  | .vadd => (a + b) % top
  | .vsub => (a + top - b) % top
  | .vadds => clampS bits (sgn a bits + sgn b bits)
  | .vsubs => clampS bits (sgn a bits - sgn b bits)
  | .vaddus => clampU bits (Int.ofNat a + Int.ofNat b)
  | .vsubus => clampU bits (Int.ofNat a - Int.ofNat b)
  | .vmin => if sgn a bits ≤ sgn b bits then a else b
  | .vmax => if sgn a bits ≤ sgn b bits then b else a
  | .vminu => min a b
  | .vmaxu => max a b
  | .vand => a &&& b
  | .vor => a ||| b
  | .vxor => a ^^^ b
  | .vandn => a &&& (top - 1 - b)
  | .vnot => top - 1 - a
  | .vpopc => popcount bits a
  | .vshl => if bits ≤ n then 0 else a * 2 ^ n % top
  | .vshr => if bits ≤ n then 0 else a / 2 ^ n
  | .vsar => if bits ≤ n then allOnes w (decide (top / 2 ≤ a)) else uns (sgn a bits / (2 ^ n : Nat)) bits
  | .vrol => (a * 2 ^ (n % bits) + a / 2 ^ (bits - n % bits)) % top
  | .vror => (a / 2 ^ (n % bits) + a * 2 ^ (bits - n % bits)) % top
  | .vcmpeq => allOnes w (a == b)
  | .vcmpne => allOnes w (a != b)
  | .vcmplt => allOnes w (decide (sgn a bits < sgn b bits))
  | .vcmpltu => allOnes w (decide (a < b))
  | .vsel => if a ≠ 0 then b else x.getD 2 0
  | .vfill => n % top
  | .vgfmul => gfw w a b
  | .vgfmuls => gfw w (n % top) a
  | .vgfmac => b ^^^ gfw w (n % top) a
  | .vgfinv => gfwInv w a
  | _ => a

/-- All elements are delivered. -/
def allSome : List (Option Nat) → Option (List Nat)
  | [] => some []
  | some a :: t => (allSome t).map (a :: ·)
  | none :: _ => none

/-- Applies `f` to the `i`-th elements of the sources, for `n` elements from the start. -/
def mapElems (f : List Nat → Nat) (ins : List (List (Option Nat))) (n : Nat) : List (Option Nat) :=
  (List.range n).map fun i => (allSome (ins.map fun l => (l[i]?).getD none)).map f

/-- Pairs (R193, R194): `f` answers both results for pair number `i`. -/
def mapPairs (f : Nat → List Nat → Nat × Nat) (ins : List (List (Option Nat))) (first n : Nat) : List (Option Nat) :=
  ((List.range (n / 2)).map fun i =>
    match allSome ((ins.map fun l => [(l[2 * i]?).getD none, (l[2 * i + 1]?).getD none]).flatten) with
    | some x => [some (f (first / 2 + i) x).1, some (f (first / 2 + i) x).2]
    | none => [none, none]).flatten

/-- VBFLY and VIBFLY on the pair (a, b) with twiddle `t` (R193). -/
def bfly (inv : Bool) (w t a b : Nat) : Nat × Nat :=
  if inv then (a ^^^ gfw w t (a ^^^ b), a ^^^ b)
  else (a ^^^ gfw w t b, b ^^^ (a ^^^ gfw w t b))
/-- VPMUL on the pairs (a0, a1) and (b0, b1) (R194). -/
def pmul (x : List Nat) : Nat × Nat :=
  let r := gf32 (x.getD 0 0 + x.getD 1 0 * 65536) (x.getD 2 0 + x.getD 3 0 * 65536)
  (r % 65536, r / 65536)

/-- One row of VGFMATX on the `k` source symbols of a position (R192); `c` are the row's coefficients. -/
def matRow (w : Nat) : List Nat → List Nat → Nat
  | c :: cs, x :: xs => gfw w c x ^^^ matRow w cs xs
  | _, _ => 0
/-- VGFMATX over whole positions: `rows` are the coefficient rows. -/
def matApply (w k : Nat) (rows : List (List Nat)) (xs : List (Option Nat)) (n : Nat) : List (Option Nat) :=
  ((List.range n).map fun t =>
    match allSome ((xs.drop (t * k)).take k) with
    | some x => rows.map fun r => some (matRow w r x)
    | none => rows.map fun _ => none).flatten

/-- VPERM within a step: output `j` takes the input at position P[j]; none where P[j] lies outside the step gives 0 (R189). -/
def permApply (pb : List Nat) (xs : List (Option Nat)) : List (Option Nat) :=
  (List.range xs.length).map fun j => if pb.getD j 0 < xs.length then (xs[pb.getD j 0]?).getD none else some 0

/-- Bytes of elements of `w` bytes, in order. -/
def elemBytes (w : Nat) (xs : List Nat) : List Byte := (xs.map (leBytes w)).flatten
/-- Elements of `w` bytes from bytes. -/
def bytesElems (w : Nat) (l : List Byte) : List Nat := (chunks w (l.length / max w 1 + 1) l).map ofLE

/-- CRC states after elements; `i` is the number of the first element (R197). -/
def crcStep (c64 : Bool) (q w : Nat) : Nat → List Nat → List Nat → List Nat
  | _, [], st => st
  | i, x :: t, st =>
    let j := i % q
    let old := st.getD j 0
    let new := if c64 then crc64 old (leBytes w x) else crc32c old (leBytes w x)
    crcStep c64 q w (i + 1) t (st.set j new)

/-- Whole blocks of `k` bytes of a byte list, and the rest. -/
def wholeBlocks (k : Nat) (l : List Byte) : List (List Byte) × List Byte :=
  (chunks k (l.length / k) (l.take (l.length / k * k)), l.drop (l.length / k * k))

/-- SHA-256 over blocks: H0-H7 as numbers. -/
def shaBlocks (h : List Nat) : List (List Byte) → List Nat
  | [] => h
  | b :: t => shaBlocks (shaBlock h b) t

/-- VAESX over whole blocks: `pos` is the byte position of the first within the data-unit sequence that starts at unit `t` (R200). -/
def xtsBlocks (key : List Byte) (dec : Bool) (t dulog : Nat) : Nat → List (List Byte) → List Byte
  | _, [] => []
  | pos, b :: r => xtsBlock key dec (t + pos / 2 ^ dulog) (pos % 2 ^ dulog / 16) b ++ xtsBlocks key dec t dulog (pos + 16) r

/-- Phase of a GCM state (R201). -/
def gcmPhase (st : List Byte) : Nat := leAt st 48 16
/-- The operation accepts a phase (R201). -/
def gcmAccepts (op phase : Nat) : Bool :=
  if op = 0 then phase == 0 else if op = 3 then decide (phase ≤ 2) else decide (phase ≤ 1)
/-- VAESG over blocks, the last possibly partial: the output bytes and the new state (R201). -/
def gcmStep (key : List Byte) (op : Nat) (st x : List Byte) : List Byte × List Byte :=
  let j0 := st.take 16
  let cb := (st.drop 16).take 16
  let y := (st.drop 32).take 16
  let h := gcmH key
  let bl := chunks 16 (x.length / 16 + 1) x
  let n := bl.length
  let part : Nat := if x.length % 16 = 0 then 0 else 1
  let pack := fun (cb y : List Byte) (ph : Nat) => j0 ++ cb ++ y ++ leBytes 16 ph
  if op = 0 then (x, pack cb (ghashAll h y bl) part)
  else if op = 3 then
    let y1 := ghashAll h y bl
    (xorBytes (aesEnc key j0) y1, pack cb y1 3)
  else
    let o := gcmCtr key cb bl
    let c := if op = 1 then o else x
    let cb1 := (List.range n).foldl (fun b _ => inc32 b) cb
    (o, pack cb1 (ghashAll h y (chunks 16 (c.length / 16 + 1) c)) (1 + part))

/-- A reduction's value after elements; `i` is the number of the first, `tot` the number of all (R187). -/
def reduce (v : VOp) : Nat → List Nat → List Nat → Nat → Nat
  | i, a :: s, t, acc =>
    let b := t.getD 0 0
    let acc1 := match v with
      | .vrxor => acc ^^^ a
      | .vradd => (acc + a) % 2 ^ 64
      | .vrfmis => if a ≠ b then min acc i else acc
      | _ => acc + (if a = 0 then 0 else 1)
    reduce v (i + 1) s (t.drop 1) acc1
  | _, [], _, acc => acc

end Sys2Proof.Machine
end

