-- ==== Sys2Proof/Machine/SpireGroup.lean ====
section
/-! DEFINITION. Running chain groups: the coefficient RAM, steps, completion, halting faults (05_spire_streams.md R157-R162,
06_spire_operations.md R195-R211). -/
namespace Sys2Proof.Machine

/-! ### The coefficient RAM (R145, R162, R183) -/

/-- A corrected word of the control store, coefficient RAM or program buffer (R175, R176). -/
def sprCE (s : State) (n : Fin 8) : State := (s.correctable (sprPage n)).irqBit (sprPage n) 8
/-- An uncorrectable word: `wh` 0 control store, 1 coefficient RAM, 2 program buffer (R176). -/
def sprUE (s : State) (n : Fin 8) (wh word : Nat) : State :=
  let s1 := s.irqBit (sprPage n) 9
  if s1.regB (sprPage n) 0x114 31 then s1 else s1.setReg (sprPage n) 0x114 (w32 (2 ^ 31 + wh * 2 ^ 29 + word % 2 ^ 14))

/-- A read of 64-bit word `k` of the coefficient RAM; none where it is uncorrectable. `bits` are bits in error found now. -/
def coefWord (s : State) (n : Fin 8) (k bits : Nat) : State × Option (List Byte) :=
  let w := coefKey n (8 * k) / 8
  let e := s.wordErrAt w + bits
  let s0 := s.setWordErr w e
  let data := s.bytes (8 * w) 8
  if 3 ≤ e then
    let f := s0.freshBytes 1
    let c := f.2.fresh
    if c.1.toNat % 3 = 0 then (sprUE c.2 n 1 k, none)
    else if c.1.toNat % 3 = 1 then (sprCE ((c.2.setWordErr w 0).setBytes (8 * w) f.1) n, some f.1)
    else (c.2, some f.1)
  else if e = 2 then (sprUE s0 n 1 k, none)
  else if e = 1 then (sprCE (s0.setWordErr w 0) n, some data)
  else (s0, some data)

/-- Bytes of the coefficient RAM word by word; a byte of an uncorrectable word is none. The last part is the first such word. -/
def coefParts (s : State) (n : Fin 8) : List (Nat × Nat) → State × List (Option Byte) × Option Nat
  | [] => (s, [], none)
  | (a, k) :: t =>
    let r := coefWord s n (a / 8) 0
    let q := coefParts r.1 n t
    match r.2 with
    | some d => (q.1, ((d.drop (a % 8)).take k).map some ++ q.2.1, q.2.2)
    | none => (q.1, List.replicate k none ++ q.2.1, some (a / 8))
def coefBytes (s : State) (n : Fin 8) (off len : Nat) : State × List (Option Byte) × Option Nat :=
  coefParts s n (parts 8 len off len)

/-- A write within one word: fewer than 8 bytes are merged. -/
def coefPut (s : State) (n : Fin 8) (off : Nat) (d : List Byte) : State :=
  let w := coefKey n off / 8
  if d.length = 8 then (s.setWordErr w 0).setBytes (coefKey n off) d
  else
    let r := coefWord s n (off / 8) 0
    (r.1.setWordErr w (if r.2.isSome then 0 else 2)).setBytes (coefKey n off) d
def coefWriteParts (s : State) (n : Fin 8) : List (Nat × Nat) → List Byte → State
  | [], _ => s
  | (a, k) :: t, d => coefWriteParts (coefPut s n a (d.take k)) n t (d.drop k)
/-- A write of bytes to the coefficient RAM. -/
def coefWrite (s : State) (n : Fin 8) (off : Nat) (d : List Byte) : State :=
  coefWriteParts s n (parts 8 d.length off d.length) d

/-- Elements of `w` bytes; one with a byte missing is none. -/
def optElems (w : Nat) (l : List (Option Byte)) : List (Option Nat) :=
  (chunks w (l.length / max w 1 + 1) l).map fun c => if c.any (·.isNone) then none else some (ofLE (c.map fun b => b.getD 0))

/-! ### Loads of a step (R149-R152, R160) -/

/-- A memory unit read once in a step: its address, what the bus answered, the KIND of its poison (R204). -/
abbrev UnitCache := List (Nat × RdAns × Nat)

/-- KIND of a poisoned unit (R87, R204). -/
def poisonKind (s : State) (a : Nat) : Nat :=
  match memKind a with
  | .dram => match s.dramLocs ((a - dramBase) / 64) with
    | some (l, _) => if 2 ≤ (s.lineErrAt l).bits then 1 else tagKind (s.lineErrAt l).tag
    | none => 1
  | _ => 4

/-- A unit of memory, read at most once in a step. -/
def unitRead (s : State) (n : Fin 8) (c : UnitCache) (a sz : Nat) : State × UnitCache × RdAns × Nat :=
  match c.find? (·.1 == a) with
  | some e => (s, c, e.2.1, e.2.2)
  | none =>
    let r := busRead s (sprId n) a sz
    let k := poisonKind r.1 a
    (r.1, (a, r.2, k) :: c, r.2, k)

/-- The bytes of an element, or the cause and detail of its fault. -/
def elemRead (s : State) (n : Fin 8) (c : UnitCache) : List (Nat × Nat) → Nat → State × UnitCache × Except (Nat × Nat) (List Byte)
  | [], _ => (s, c, .ok [])
  | (a, k) :: t, sz =>
    match unitRead s n c (a / sz * sz) sz with
    | (s1, c1, .error x, _) => (s1, c1, .error (6, causeCode x))
    | (s1, c1, .ok (_, true), kind) => (s1, c1, .error (7, kind))
    | (s1, c1, .ok (d, false), _) =>
      match elemRead s1 n c1 t sz with
      | (s2, c2, .ok r) => (s2, c2, .ok ((d.drop (a % sz)).take k ++ r))
      | x => x

/-- The range of a class holds the element (R150). -/
def classHolds (scratch : Bool) (a w : Nat) : Bool :=
  if scratch then decide (scrBase ≤ a ∧ a + w ≤ scrBase + 0x4000000) else decide (dramBase ≤ a ∧ a + w ≤ 0x004D00000000)

/-- The byte a load may see at address `a`: `cur`, or what one of the stores of the last 64 steps replaced, newest first; `j` counts
the choices (R160). -/
def seenByte (free : Nat) : List GStore → Nat → Nat → Byte → Byte
  | [], _, _, cur => cur
  | r :: t, j, a, cur =>
    if r.addr ≤ a ∧ a < r.addr + r.old.length then
      (if (Config.freeCell (free + j)).toNat % 2 = 1 then seenByte free t (j + 1) a (r.old.getD (a - r.addr) 0) else cur)
    else seenByte free t (j + 1) a cur

/-- What a load sees of memory that its own group stores to (R160). -/
def seenBytes (s : State) (rs : List GStore) (a : Nat) (d : List Byte) : State × List Byte :=
  match rs.filter fun r => decide (r.addr < a + d.length ∧ a < r.addr + r.old.length) with
  | [] => (s, d)
  | hit => ({ s with free := s.free + hit.length }, d.zipIdx.map fun x => seenByte s.free hit 0 (a + x.2) x.1)

/-- Progress of a step's loads: marks and faults by element index of the stream. -/
structure LdAcc where
  s : State
  cache : UnitCache
  vals : List (Option Nat) := []
  faults : List (Nat × Nat × Nat) := []
  marks : List Nat := []

/-- Loads element `i` of a memory stream; `x` is its index element. -/
def loadOne (n : Fin 8) (rs : List GStore) (d : SDesc) (q : LdAcc) (i x : Nat) : LdAcc :=
  let a := d.addr i x
  let sz := if d.mclass then 8 else 64
  let r := if classHolds d.mclass a d.w then elemRead q.s n q.cache (parts sz d.w a d.w) sz else (q.s, q.cache, .error (6, 1))
  match r with
  | (s1, c1, .ok b) =>
    let v := seenBytes s1 rs a b
    { q with s := v.1, cache := c1, vals := q.vals ++ [some (ofLE v.2)] }
  | (s1, c1, .error f) =>
    if d.fpol = 1 then { q with s := s1, cache := c1, vals := q.vals ++ [some 0], marks := q.marks ++ [i] }
    else { q with s := s1, cache := c1, vals := q.vals ++ [none], faults := q.faults ++ [(i, f)] }

/-- Loads the elements of a list of (number, index element); an index that was not delivered delivers nothing. -/
def loadList (n : Fin 8) (rs : List GStore) (d : SDesc) (q : LdAcc) : List (Nat × Option Nat) → LdAcc
  | [] => q
  | (i, some x) :: t => loadList n rs d (loadOne n rs d q i x) t
  | (_, none) :: t => loadList n rs d { q with vals := q.vals ++ [none] } t

/-! ### Evaluating one operation -/

/-- Place of an operation's output element in the group's element numbers (R156, R206). -/
def groupIx (g : Group) : Nat → Nat → Nat → Nat
  | 0, _, e => e
  | fuel + 1, i, e =>
    match (g.ops[i]?).bind (fun o => o.slotW g) with
    | none => e
    | some k =>
      let cons := (g.ops.zipIdx).filter fun x => x.1.reads g k
      let outs := cons.map fun x =>
        groupIx g fuel x.2 (if x.1.op = .vgfmatx then e / max 1 (matK x.1.p) * matM x.1.p else e)
      match outs with
      | [] => e
      | a :: t => t.foldl min a
/-- The same for an input element of operation `i`. -/
def inputIx (g : Group) (i : Nat) (o : GOp) (e : Nat) : Nat :=
  groupIx g 6 i (if o.op = .vgfmatx then e / max 1 (matK o.p) * matM o.p else e)

/-- Stream number of a load stream (R158). -/
def streamNo (g : Group) (d : Nat) : Nat := (g.loads.idxOf d)

/-- USER of an operation fault (R203). -/
def opUser (g : Group) (o : GOp) : Nat :=
  match o.dst with
  | some r => (g.desc r.d).user
  | none => match o.srcs with
    | r :: _ => (g.desc r.d).user
    | [] => 0

/-- Progress of a step through its operations. -/
structure StepAcc where
  s : State
  cache : UnitCache := []
  runs : List OpRun := []
  faults : List GFault := []
  marks : List (Nat × Nat) := []

/-- The key of a slot for an operation of spire `n`, or the DETAIL of the KEY fault (R199). -/
def keyLatch (s : State) (n : Fin 8) (p : Cell) (kind : Nat) : Except Nat (List Byte) :=
  let k := sget s.keys (fld p.toNat 0 12) {}
  if k.kind = 0 then .error 1
  else if !(k.grant.getLsbD n.val) then .error 2
  else if k.kind ≠ kind then .error 3
  else .ok k.key

/-- What an operation does at the group's first step: latches its key, reads its state, checks it (R196, R199, R201). `tot` are its
outputs. -/
def opSetup (s : State) (n : Fin 8) (o : GOp) (tot : Nat) : State × OpRun × Option (Nat × Nat) :=
  let run : OpRun := if o.op = .vrfmis then { acc := some tot } else {}
  let key : Except Nat (List Byte) := match o.op with
    | .vaesx => keyLatch s n o.p 1
    | .vaesg => keyLatch s n o.p 2
    | _ => .ok []
  match key with
  | .error d => (s, run, some (8, d))
  | .ok key =>
    if stateLen o.op o.p = 0 then (s, { run with key := key }, none)
    else
      let r := coefBytes s n (soff o.p) (stateLen o.op o.p)
      match r.2.2 with
      | some wd => (r.1, run, some (10, wd))
      | none =>
        let st := r.2.1.map fun b => b.getD 0
        let bad := if o.op = .vaesg then
            (if !(gcmAccepts (fld o.p.toNat 12 2) (gcmPhase st)) then some (9, 1)
             else if fld o.p.toNat 12 2 = 3 && tot * o.w != 16 then some (9, 2) else none)
          else none
        (r.1, { run with key := key, st := st }, bad)

/-- What an operation answers in a step: outputs, its new running state, a fault with the output element it falls on. -/
structure OpOut where
  s : State
  run : OpRun
  outs : List (Option Nat)
  fault : Option (Nat × Nat × Nat) := none

/-- Outputs of a matrix operation (R192). -/
def opMat (s : State) (n : Fin 8) (o : GOp) (run : OpRun) (xs : List (Option Nat)) : OpOut :=
  let k := matK o.p
  let m := matM o.p
  let r := coefBytes s n (fld o.p.toNat 0 16) (m * k * o.w)
  let rows := chunks k m (optElems o.w r.2.1)
  let outs := ((List.range (xs.length / max 1 k)).map fun t =>
    match allSome ((xs.drop (t * k)).take k) with
    | some x => rows.map fun c => (allSome c).map fun cc => matRow o.w cc x
    | none => rows.map fun _ => none).flatten
  let badRow := (rows.map fun c => (allSome c).isNone).idxOf true
  if xs.isEmpty then { s := s, run := run, outs := [] }
  else { s := r.1, run := run, outs := outs, fault := r.2.2.map fun wd => (run.made + badRow, 10, wd) }

/-- Outputs of a butterfly on `cnt` elements (R193). -/
def opBfly (s : State) (n : Fin 8) (o : GOp) (run : OpRun) (xs : List (Option Nat)) (cnt : Nat) : OpOut :=
  let tsh := fld o.p.toNat 16 5
  let toff := fld o.p.toNat 0 16
  let i0 := run.made / 2
  let t0 := i0 >>> tsh
  let t1 := (i0 + cnt / 2 - 1) >>> tsh
  if cnt = 0 then { s := s, run := run, outs := [] }
  else
    let r := coefBytes s n (toff + o.w * t0) (o.w * (t1 - t0 + 1))
    let tw := optElems o.w r.2.1
    let outs := ((List.range (cnt / 2)).map fun j =>
      match (tw[((i0 + j) >>> tsh) - t0]?).getD none, (xs[2 * j]?).getD none, (xs[2 * j + 1]?).getD none with
      | some t, some a, some b => let y := bfly (o.op == .vibfly) o.w t a b; [some y.1, some y.2]
      | _, _, _ => [none, none]).flatten
    let badT := t0 + tw.idxOf none
    { s := r.1, run := run, outs := outs, fault := r.2.2.map fun wd => (max run.made (2 * (badT <<< tsh)), 10, wd) }

/-- Outputs of VPERM on the elements of one step, the first of which is element `first` (R189). -/
def permStep (s : State) (n : Fin 8) (o : GOp) (first : Nat) (xs : List (Option Nat)) : State × List (Option Nat) × Option (Nat × Nat × Nat) :=
  let r := coefBytes s n (fld o.p.toNat 0 16) xs.length
  let outs := (List.range xs.length).map fun j =>
    match (r.2.1[j]?).getD none with
    | some b => if b.toNat < xs.length then (xs[b.toNat]?).getD none else some 0
    | none => none
  (r.1, outs, r.2.2.map fun wd => (first + r.2.1.idxOf none, 10, wd))
/-- VPERM over whole steps; the fault is the first. -/
def permSteps (s : State) (n : Fin 8) (o : GOp) : Nat → List (List (Option Nat)) → State × List (Option Nat) × Option (Nat × Nat × Nat)
  | _, [] => (s, [], none)
  | first, x :: t =>
    let r := permStep s n o first x
    let q := permSteps r.1 n o (first + x.length) t
    (q.1, r.2.1 ++ q.2.1, r.2.2.orElse fun _ => q.2.2)
/-- Outputs of VPERM, step by step of `e` elements (R157, R189). -/
def opPerm (s : State) (n : Fin 8) (o : GOp) (e : Nat) (run : OpRun) (xs : List (Option Nat)) : OpOut :=
  let r := permSteps s n o run.made (chunks (max 1 e) (xs.length / max 1 e + 1) xs)
  { s := r.1, run := run, outs := r.2.1, fault := r.2.2 }

/-- VAESX block by block, the first block being at byte `pos` of the stream; a block with an undelivered element gives none (R200, R207). -/
def xtsChunks (o : GOp) (key : List Byte) : Nat → List (List (Option Nat)) → List (Option Nat)
  | _, [] => []
  | pos, c :: t =>
    (match allSome c with
      | some v => (bytesElems o.w (xtsBlocks key (bit o.p.toNat 12) o.t.toNat (duLog o.p) pos [elemBytes o.w v])).map some
      | none => c.map fun _ => none) ++ xtsChunks o key (pos + 16) t
/-- VAESG: an element of AAD, ENC and DEC depends on no other element, and is delivered where its input was; the tag needs them all (R201,
R207). The state of a step with an undelivered element is never written back (R209). -/
def opGcm (s : State) (o : GOp) (run : OpRun) (xs : List (Option Nat)) : OpOut :=
  if xs.isEmpty then { s := s, run := run, outs := [] }
  else
    let op := fld o.p.toNat 12 2
    let r := gcmStep run.key op run.st (elemBytes o.w (xs.map fun x => x.getD 0))
    let hole := fun (x : Option Nat) => if op = 3 then xs.any (·.isNone) else x.isNone
    { s := s, run := { run with st := r.2 },
      outs := (xs.zip (bytesElems o.w r.1)).map fun x => if hole x.1 then none else some x.2 }
/-- Outputs of a block cipher operation, in whole blocks (R200, R201). -/
def opAes (s : State) (o : GOp) (run : OpRun) (xs : List (Option Nat)) : OpOut :=
  let per := max 1 (16 / o.w)
  if o.op = .vaesx then
    { s := s, run := run, outs := xtsChunks o run.key (o.skip + run.made * o.w) (chunks per (xs.length / per + 1) xs) }
  else opGcm s o run xs

/-- A pass-through transform: CRC, SHA-256, GHASH (R197, R198). -/
def opState (o : GOp) (run : OpRun) (v : List Nat) : OpRun :=
  let b := run.buf ++ elemBytes o.w v
  match o.op with
  | .vcrc32c =>
    let st := crcStep false (crcQ o.p) o.w run.made v ((chunks 4 (crcQ o.p) run.st).map ofLE)
    { run with st := (st.map (leBytes 4)).flatten }
  | .vcrc64 =>
    let st := crcStep true (crcQ o.p) o.w run.made v ((chunks 8 (crcQ o.p) run.st).map ofLE)
    { run with st := (st.map (leBytes 8)).flatten }
  | .vsha256 =>
    let wb := wholeBlocks 64 b
    { run with st := ((shaBlocks ((chunks 4 8 run.st).map ofLE) wb.1).map (leBytes 4)).flatten, buf := wb.2 }
  | .vghash =>
    let wb := wholeBlocks 16 b
    { run with st := ghashAll (ofBE (run.st.drop 16)) (run.st.take 16) wb.1 ++ run.st.drop 16, buf := wb.2 }
  | _ => run

/-- One operation makes `cnt` outputs from its inputs of this step; `e` is the group's E. -/
def opEval (s : State) (n : Fin 8) (o : GOp) (e : Nat) (run : OpRun) (ins : List (List (Option Nat))) (cnt : Nat) : OpOut :=
  let xs := ins.getD 0 []
  match o.op with
  | .vgfmatx => opMat s n o run xs
  | .vbfly => opBfly s n o run xs cnt
  | .vibfly => opBfly s n o run xs cnt
  | .vperm => opPerm s n o e run xs
  | .vaesx => opAes s o run xs
  | .vaesg => opAes s o run xs
  | .vpmul => { s := s, run := run, outs := mapPairs (fun _ x => pmul [x.getD 0 0, x.getD 1 0, x.getD 2 0, x.getD 3 0]) ins run.made cnt }
  | .vfill => { s := s, run := run, outs := List.replicate cnt (some (elemFn .vfill o.w o.p [])) }
  | _ =>
    if o.op.unit = .xf then
      match allSome xs with
      | some v => { s := s, run := opState o run v, outs := xs }
      | none => { s := s, run := run, outs := xs }
    else if o.op.unit = .rd then
      let acc := match allSome xs, allSome (ins.getD 1 []), run.acc with
        | some a, some b, some c => some (reduce o.op run.made a b c)
        | _, _, _ => none
      { s := s, run := { run with acc := acc }, outs := mapElems (fun _ => 0) ins cnt }
    else { s := s, run := run, outs := mapElems (elemFn o.op o.w o.p) ins cnt }

/-! ### One step (R157) -/

/-- The input elements [`a`, `b`) of one source of an operation. -/
def sourceRange (n : Fin 8) (g : Group) (rs : List GStore) (i : Nat) (o : GOp) (r : SrcRef) (a b : Nat) (q : StepAcc) :
    StepAcc × List (Option Nat) :=
  let d := g.desc r.d
  let nums := rangeFrom a (b - a)
  let fault := fun (k : Nat) (f : Nat × Nat × Nat) =>
    ({ gix := inputIx g i o f.1, stream := streamNo g k, opn := i, cause := f.2.1, detail := f.2.2, e := f.1, user := (g.desc k).user } : GFault)
  let mark := fun (e : Nat) => (e, inputIx g i o e)
  if d.chain then
    match g.writer d.slot with
    | some (j, _) =>
      let w := q.runs.getD j {}
      (q, (w.outs.drop (a - w.base)).take (b - a))
    | none => (q, nums.map fun _ => none)
  else if o.op = .vcrd then
    let c := coefBytes q.s n (d.base % 65536 + a * o.w) ((b - a) * o.w)
    let xs := optElems o.w c.2.1
    let f := c.2.2.map fun wd =>
      ({ gix := inputIx g i o (a + xs.idxOf none), stream := 3, opn := i, cause := 10, detail := wd, e := a + xs.idxOf none, user := opUser g o } : GFault)
    ({ q with s := c.1, faults := q.faults ++ f.toList }, xs)
  else
    let ix : LdAcc := match r.ix with
      | some k => loadList n rs (g.desc k) { s := q.s, cache := q.cache } (nums.map fun e => (e, some 0))
      | none => { s := q.s, cache := q.cache, vals := nums.map fun _ => some 0 }
    let ld := loadList n rs d { s := ix.s, cache := ix.cache } (nums.zip ix.vals)
    let fs := q.faults ++ ix.faults.map (fault (r.ix.getD 0)) ++ ld.faults.map (fault r.d)
    let ms := q.marks ++ ix.marks.map mark ++ ld.marks.map mark
    ({ q with s := ld.s, cache := ld.cache, faults := fs, marks := ms }, ld.vals)

/-- All sources of an operation. -/
def sourceRanges (n : Fin 8) (g : Group) (rs : List GStore) (i : Nat) (o : GOp) (a b : Nat) (q : StepAcc) :
    List SrcRef → StepAcc × List (List (Option Nat))
  | [] => (q, [])
  | r :: t =>
    let x := sourceRange n g rs i o r a b q
    let y := sourceRanges n g rs i o a b x.1 t
    (y.1, x.2 :: y.2)

/-- The operations of a step in entry order; each makes outputs up to its target. `old` are their states before the step. -/
def stepOps (n : Fin 8) (g : Group) (rs : List GStore) (q : StepAcc) : Nat → List (GOp × OpRun × Nat) → StepAcc
  | _, [] => q
  | i, (o, run, tgt) :: t =>
    let y := sourceRanges n g rs i o (o.need run.made) (o.need tgt) q o.srcs
    let cnt := tgt - run.made
    let r := opEval y.1.s n o g.e run y.2 cnt
    let outs := if run.dead then r.outs.map (fun _ => none) else r.outs
    let f := r.fault.map fun x =>
      ({ gix := groupIx g 6 i x.1, stream := 3, opn := i, cause := x.2.1, detail := x.2.2, e := x.1, user := opUser g o } : GFault)
    let runs := y.1.runs ++ [{ r.run with made := tgt, outs := run.outs ++ outs.take cnt }]
    stepOps n g rs { y.1 with s := r.s, faults := y.1.faults ++ f.toList, runs := runs } (i + 1) t

/-- Elements that every reader has taken leave an operation's window; a sink's outputs leave it at once. -/
def trimRuns (g : Group) (t : Nat) (rs : List (GOp × OpRun)) : List OpRun :=
  rs.map fun x =>
    let upto := match x.1.slotW g with
      | none => min t x.2.made
      | some k => ((rs.filter fun y => y.1.reads g k).map fun y => y.1.need y.2.made).foldl min x.2.made
    { x.2 with base := upto, outs := x.2.outs.drop (upto - x.2.base) }

/-- A step's outcome before it stores: running states, faults, marks, and the sink's elements with their group numbers. -/
structure StepOut where
  s : State
  runs : List OpRun
  faults : List GFault
  marks : List (Nat × Nat)
  sink : List (Nat × Option Nat)
  /-- First group element that some sink did not receive. -/
  hole : Nat

/-- Setup of every operation at the first step (R196, R199): a failed one delivers nothing. -/
def setupAll (s : State) (n : Fin 8) (g : Group) : Nat → List (GOp × Nat) → State × List OpRun × List GFault
  | _, [] => (s, [], [])
  | i, (o, tot) :: t =>
    let r := opSetup s n o tot
    let q := setupAll r.1 n g (i + 1) t
    match r.2.2 with
    | some f => (q.1, { r.2.1 with dead := true } :: q.2.1,
        { gix := 0, stream := 3, opn := i, cause := f.1, detail := f.2, e := 0, user := opUser g o } :: q.2.2)
    | none => (q.1, r.2.1 :: q.2.1, q.2.2)

/-- The loads and the operations of the next step. -/
def stepEval (s : State) (n : Fin 8) (r : GRun) : StepOut :=
  let g := r.group
  let st := if r.step = 0 then setupAll s n g 0 (g.ops.zip g.totals) else (s, r.runs, [])
  let from_ := min g.n (r.step * g.e)
  let upto := min g.n ((r.step + 1) * g.e)
  let tg := g.targets upto
  let q := stepOps n g r.recent { s := st.1, faults := st.2.2 } 0 (g.ops.zip (st.2.1.zip tg))
  let sinks := (g.ops.zip q.runs).filter fun x => (x.1.slotW g).isNone
  let outsOf := fun (x : GOp × OpRun) => (rangeFrom from_ (upto - from_)).zip (x.2.outs.drop (from_ - x.2.base))
  let holes := (sinks.map fun x => ((outsOf x).filter fun y => y.2.isNone).map (·.1)).flatten
  { s := q.s, runs := trimRuns g upto (g.ops.zip q.runs), faults := q.faults, marks := q.marks,
    sink := match sinks.find? fun x => x.1.stores g with | some x => outsOf x | none => [],
    hole := holes.foldl min upto }

/-! ### Stores of a step (R149, R150, R160) -/

/-- The place of sink element `i`: none where its index was not delivered. -/
def storeList (d : SDesc) (xs : List (Nat × Nat × Option Nat)) : List (Nat × Nat × List Byte) :=
  (xs.filter fun x => x.2.2.isSome).map fun x => (x.1, d.addr x.1 (x.2.2.getD 0), leBytes d.w x.2.1)

/-- Bytes of one line, by offset; later elements overwrite earlier ones. -/
abbrev LineBytes := List (Option Byte)

/-- Adds an element's bytes to the lines of a step, in order of first touch. -/
def addLine (a : Nat) (b : List Byte) : List (Nat × LineBytes) → List (Nat × LineBytes)
  | [] => [(a / 64, listPut (List.replicate 64 none) (a % 64) (b.map some))]
  | (l, x) :: t => if l = a / 64 then (l, listPut x (a % 64) (b.map some)) :: t else (l, x) :: addLine a b t

/-- The runs of bytes of a line: offset and bytes; `o` is the offset of the first byte. -/
def lineRuns : Nat → LineBytes → List (Nat × List Byte)
  | _, [] => []
  | o, none :: t => lineRuns (o + 1) t
  | o, some b :: t =>
    match lineRuns (o + 1) t with
    | (o2, d) :: r => if o2 = o + 1 then (o, b :: d) :: r else (o, [b]) :: (o2, d) :: r
    | [] => [(o, [b])]

/-- The writes of a step: address and bytes. -/
def stepWrites (xs : List (Nat × Nat × List Byte)) : List (Nat × List Byte) :=
  ((xs.foldl (fun ls x => addLine x.2.1 x.2.2 ls) []).map fun l => (lineRuns 0 l.2).map fun r => (l.1 * 64 + r.1, r.2)).flatten

/-- Performs the writes of a step; answers what they replaced, newest first, and the first one the bus refused. -/
def doWrites (s : State) (n : Fin 8) (step : Nat) (rec : List GStore) : List (Nat × List Byte) → State × List GStore × List (Nat × Nat)
  | [] => (s, rec, [])
  | (a, b) :: t =>
    let old := s.peek a b.length
    match busWriteRaw s (sprId n) false a b {} with
    | (s1, none) => doWrites s1 n step ({ step := step, addr := a, old := old } :: rec) t
    | (s1, some c) => match doWrites (s1.berr (sprId n) a true c) n step rec t with
      | (s2, r2, e2) => (s2, r2, (a, causeCode c) :: e2)

/-- Each element kept or dropped by a free choice (R209). -/
def chooseSome (s : State) : List (Nat × Nat × List Byte) → State × List (Nat × Nat × List Byte)
  | [] => (s, [])
  | x :: t =>
    let f := s.fresh
    let r := chooseSome f.2 t
    if f.1.toNat % 2 = 1 then (r.1, x :: r.2) else r

/-- The sink elements of a step with their index elements, where the store is a scatter. -/
def scatterIx (n : Fin 8) (g : Group) (rs : List GStore) (i : Nat) (r : SrcRef) (xs : List (Nat × Option Nat)) (q : StepAcc) :
    StepAcc × List (Nat × Nat × Option Nat) :=
  match r.ix with
  | none => (q, xs.filterMap fun x => x.2.map fun v => (x.1, v, some 0))
  | some k =>
    let ld := loadList n rs (g.desc k) { s := q.s, cache := q.cache } (xs.map fun x => (x.1, some 0))
    let fault := fun (f : Nat × Nat × Nat) =>
      ({ gix := f.1, stream := streamNo g k, opn := i, cause := f.2.1, detail := f.2.2, e := f.1, user := (g.desc k).user } : GFault)
    ({ q with s := ld.s, cache := ld.cache, faults := q.faults ++ ld.faults.map fault, marks := q.marks ++ ld.marks.map fun e => (e, e) },
      (xs.zip ld.vals).filterMap fun x => x.1.2.map fun v => (x.1.1, v, x.2))

/-- The lowest fault of a list (R206). -/
def lowestFault : List GFault → Option GFault
  | [] => none
  | f :: t => match lowestFault t with
    | none => some f
    | some h => if h.gix < f.gix ∨ (h.gix = f.gix ∧ (h.stream < f.stream ∨ (h.stream = f.stream ∧ h.opn < f.opn))) then some h else some f

/-- The sink operation of a group that stores, with its place and destination. -/
def Group.store (g : Group) : Option (Nat × GOp × SrcRef) :=
  ((g.ops.zipIdx).filterMap fun x => if x.1.stores g then x.1.dst.map fun r => (x.2, x.1, r) else none).head?

/-- A step evaluated with the addresses of its stores. -/
def stepFull (s : State) (n : Fin 8) (r : GRun) : StepOut × List (Nat × Nat × List Byte) :=
  let o := stepEval s n r
  match r.group.store with
  | none => (o, [])
  | some (i, op, d) =>
    if op.op = .vcld then
      (o, o.sink.filterMap fun x => x.2.map fun v => (x.1, (r.group.desc d.d).base % 65536 + x.1 * op.w, leBytes op.w v))
    else
      let q := scatterIx n r.group r.recent i d o.sink { s := o.s }
      let holes := (q.2.filter fun x => x.2.2.isNone).map (·.1)
      ({ o with s := q.1.s, faults := o.faults ++ q.1.faults, marks := o.marks ++ q.1.marks, hole := holes.foldl min o.hole },
        storeList (r.group.desc d.d) q.2)

/-- A fault of the store at element `x` (R150, R204). -/
def storeFault (g : Group) (i : Nat) (d : SrcRef) (x detail : Nat) : GFault :=
  { gix := x, stream := 2, opn := i, cause := 6, detail := detail, e := x, user := (g.desc d.d).user }

/-- Faults of the stores `xs` of a step: elements outside the class, and elements of writes that the bus would refuse. -/
def storeFaults (s : State) (n : Fin 8) (g : Group) (i : Nat) (d : SrcRef) (xs : List (Nat × Nat × List Byte)) : List GFault :=
  let out := xs.filter fun x => !(classHolds (g.desc d.d).mclass x.2.1 x.2.2.length)
  let inn := xs.filter fun x => classHolds (g.desc d.d).mclass x.2.1 x.2.2.length
  let bad := (doWrites s n 0 [] (stepWrites inn)).2.2
  (out.map fun x => storeFault g i d x.1 1) ++
  (inn.filterMap fun x => (bad.find? fun b => b.1 / 64 == x.2.1 / 64).map fun b => storeFault g i d x.1 b.2)

/-- After a store fault: up to `k` further steps, each element stored by a free choice, until one does not run cleanly (R209). -/
def trailSteps (n : Fin 8) : Nat → State → GRun → State
  | 0, s, _ => s
  | k + 1, s, r =>
    if r.group.n ≤ r.step * r.group.e then s
    else
      let o := stepFull s n r
      if !(o.1.faults.isEmpty) then o.1.s
      else
        let c := chooseSome o.1.s (o.2.filter fun x => classHolds (match r.group.store with
          | some (_, _, d) => (r.group.desc d.d).mclass | none => false) x.2.1 x.2.2.length)
        trailSteps n k (doWrites c.1 n r.step [] (stepWrites c.2)).1 { r with step := r.step + 1, runs := o.1.runs }

/-- The store of the elements of a step that ran cleanly up to element `upto`; above it by free choice. -/
def halfStore (s : State) (n : Fin 8) (g : Group) (d : SrcRef) (xs : List (Nat × Nat × List Byte)) (upto : Nat) (skip : List Nat) : State :=
  let good := xs.filter fun x => classHolds (g.desc d.d).mclass x.2.1 x.2.2.length && !(skip.contains (x.2.1 / 64))
  let c := chooseSome s (good.filter fun x => decide (upto ≤ x.1))
  (doWrites c.1 n 0 [] (stepWrites (good.filter (fun x => decide (x.1 < upto)) ++ c.2))).1

/-- The spire with its running group replaced. -/
def State.setRun (s : State) (n : Fin 8) (r : Option GRun) : State := s.setSpire n { s.spire n with running := r }

/-- W of a group that halts at fault `f`; elements below `hole` were delivered (R208). -/
def haltW (g : Group) (f : GFault) (hole : Nat) : Nat := min hole f.gix / g.granule * g.granule
/-- The step halts at fault `f` (R207-R209). -/
def haltAt (s : State) (n : Fin 8) (r : GRun) (f : GFault) (hole : Nat) : State :=
  s.setRun n (some { r with halt := some (f, haltW r.group f hole) })
/-- Steps after the faulting one whose elements a store fault may leave stored: those up to 64 after the step that contains W (R209). -/
def trailLimit (r : GRun) (f : GFault) (hole : Nat) : Nat := 64 - (r.step - haltW r.group f hole / max 1 r.group.e)

/-- A group element step (R157, R206-R209). -/
def groupStep (s : State) (n : Fin 8) (r : GRun) : State :=
  let g := r.group
  let o := stepFull s n r
  let r1 := { r with marks := r.marks ++ o.1.marks }
  let next := { r1 with step := r.step + 1, runs := o.1.runs }
  match g.store with
  | none =>
    match lowestFault o.1.faults with
    | some f => haltAt o.1.s n r1 f o.1.hole
    | none => o.1.s.setRun n (some next)
  | some (i, op, d) =>
    if op.op = .vcld then
      match lowestFault o.1.faults with
      | some f =>
        let s1 := (o.2.filter fun x => decide (x.1 < f.gix)).foldl (fun t x => coefWrite t n x.2.1 x.2.2) o.1.s
        let c := chooseSome s1 (o.2.filter fun x => decide (f.gix < x.1))
        haltAt (c.2.foldl (fun t x => coefWrite t n x.2.1 x.2.2) c.1) n r1 f o.1.hole
      | none => (o.2.foldl (fun t x => coefWrite t n x.2.1 x.2.2) o.1.s).setRun n (some next)
    else
      match lowestFault o.1.faults with
      | some f =>
        let below := o.2.filter fun x => decide (x.1 < f.gix)
        let sf := storeFaults o.1.s n g i d below
        let bad := sf.map fun y => (match o.2.find? (·.1 == y.e) with | some x => x.2.1 / 64 | none => 0)
        let h := (lowestFault (f :: sf)).getD f
        let s1 := (doWrites o.1.s n r.step [] (stepWrites (below.filter fun x => (classHolds (g.desc d.d).mclass x.2.1 x.2.2.length) &&
          bad.contains (x.2.1 / 64)))).1
        let s2 := if sf.isEmpty then o.1.s else s1
        haltAt (halfStore s2 n g d (o.2.filter fun x => decide (x.1 ≠ f.gix)) h.gix bad) n r1 h o.1.hole
      | none =>
        match lowestFault (storeFaults o.1.s n g i d o.2) with
        | none =>
          let w := doWrites o.1.s n r.step r.recent (stepWrites o.2)
          w.1.setRun n (some { next with recent := w.2.1.filter fun x => decide (r.step + 1 < x.step + 64) })
        | some f =>
          let bad := (storeFaults o.1.s n g i d o.2).map fun y => (match o.2.find? (·.1 == y.e) with | some x => x.2.1 / 64 | none => 0)
          let refused := o.2.filter fun x => classHolds (g.desc d.d).mclass x.2.1 x.2.2.length && (bad.contains (x.2.1 / 64) && x.1 == f.e)
          let s1 := (doWrites o.1.s n r.step [] (stepWrites refused)).1
          let s2 := halfStore s1 n g d o.2 f.gix bad
          let c := s2.fresh
          haltAt (trailSteps n (c.1.toNat % (trailLimit r f o.1.hole + 1)) c.2 next) n r1 f o.1.hole

/-! ### Admission, completion, halt (R160, R161, R203, R207-R210) -/

/-- The group engine of a spire can work: the datapath's domain is on. -/
def State.spdOn (s : State) (n : Fin 8) : Bool := s.dom (pdSpd n.val) && s.dom (pdSps n.val)

/-- A VCGET or VCPUT of a context of the spire waits for its access, which comes before the next admission (R183, R214). -/
def State.coefHeld (s : State) (n : Fin 8) : Bool :=
  (List.finRange 4).any fun c => (s.sc n c).st == .run && (s.sc n c).coefWait
/-- R161, R183. -/
def groupAdmit (s : State) (n : Fin 8) : State :=
  if s.spdOn n && ((s.spire n).running.isNone && !(s.coefHeld n)) then
    match (s.spire n).queue with
    | [] => s
    | (c, g) :: t =>
      let s1 := s.setSpire n { s.spire n with queue := t, running := some { ctx := c, group := g } }
      s1.setSc n c { s1.sc n c with adm := .running }
  else s

/-- Adds the marks of a group to the fault record (R152, R210). -/
def addMarks (x : SpCtx) (ms : List (Nat × Nat)) : SpCtx :=
  match ms with
  | [] => x
  | (e, _) :: t =>
    let low := w32 (t.foldl (fun a m => min a m.1) e)
    { x with finfo := regSet x.finfo 0 16 (satAdd (regFld x.finfo 0 16) ms.length 0xFFFF), fmlow := low }

/-- Results of the group's reductions, in entry order (R159). -/
def groupResults (r : GRun) : List Cell :=
  (r.group.ops.zip r.runs).filterMap fun x => if x.1.op.unit = .rd then x.2.acc.map cell else none

/-- Writes back the transform states of a completed group (R196). -/
def writeBack (s : State) (n : Fin 8) : List (GOp × OpRun) → State
  | [] => s
  | (o, x) :: t =>
    writeBack (if stateLen o.op o.p = 0 then s else coefWrite s n (soff o.p) (x.st.take (stateLen o.op o.p))) n t

/-- The counters of the spire's page change by amounts that no rule of the model gives (log: cycle counts). -/
def groupCounters (s : State) (n : Fin 8) : State :=
  let a := s.fresh
  let b := a.2.fresh
  (b.2.setReg (sprPage n) 0x10C (w32 a.1.toNat)).setReg (sprPage n) 0x110 (w32 b.1.toNat)

/-- R157, R171: one step of the running group. -/
def execGroupStep (sp : Fin 8) (s : State) : Res :=
  ok (match (s.spire sp).running with
    | none => s
    | some r => if s.spdOn sp && (r.halt.isNone && decide (r.step * r.group.e < r.group.n)) then groupStep (groupCounters s sp) sp r else s)

/-- R161. -/
def execGroupAdmit (sp : Fin 8) (s : State) : Res := ok (groupAdmit s sp)

/-- A group ends: its context learns it unless it has been started again meanwhile. -/
def groupEnd (s : State) (n : Fin 8) (r : GRun) (f : SpCtx → SpCtx) : State :=
  let s1 := s.setRun n none
  let x := s1.sc n r.ctx
  if x.adm = .running then spStopDue (s1.setSc n r.ctx (f x)) n r.ctx else s1

/-- R160, R196. -/
def execGroupComplete (sp : Fin 8) (s : State) : Res :=
  ok (match (s.spire sp).running with
    | none => s
    | some r =>
      if s.spdOn sp && (r.halt.isNone && decide (r.group.n ≤ r.step * r.group.e)) then
        let s1 := (writeBack s sp (r.group.ops.zip r.runs)).setReg (sprPage sp) 0x108 (s.reg (sprPage sp) 0x108 + 1)
        groupEnd s1 sp r fun x => { addMarks x r.marks with adm := .ended (groupResults r) }
      else s)

/-- The record of a halting fault (R203). -/
def haltRecord (x : SpCtx) (r : GRun) (f : GFault) (w : Nat) : SpCtx :=
  let y := addMarks x (r.marks.filter fun m => decide (m.2 < w))
  let z : SpCtx := { y with finfo := finfoWord y.finfo f.cause f.stream f.opn, fpc := r.group.pc, fe := w32 f.e, fw := w32 w }
  { z with fuser := w32 f.user, faux := w32 (f.detail % 2 ^ 16), adm := .halted, image := some { group := r.group, w := w } }

/-- R207, R208. -/
def execGroupHalt (sp : Fin 8) (s : State) : Res :=
  ok (match (s.spire sp).running with
    | none => s
    | some r => match r.halt with
      | none => s
      | some (f, w) => groupEnd s sp r fun x => haltRecord x r f w)

/-- R175: a fenced spire with every context IDLE or FAULT and no group. -/
def execFencedSet (sp : Fin 8) (s : State) : Res :=
  let quiet := (List.finRange 4).all (fun c => (s.sc sp c).st == .idle || (s.sc sp c).st == .fault) &&
    ((s.spire sp).queue.isEmpty && (s.spire sp).running.isNone)
  ok (if s.spireFenced sp && (quiet && !(s.regB (sprPage sp) oStat 2)) then
    (s.setReg (sprPage sp) oStat (s.reg (sprPage sp) oStat ||| 4)).irqBit (sprPage sp) 10 else s)

end Sys2Proof.Machine
end

