-- ==== Sys2Proof/Machine/SpireExec.lean ====
section
/-! DEFINITION. How a spire sequencer runs one instruction: program buffer, precise faults, scalar instructions, and the
vector-page instructions that are not element instructions (05_spire_streams.md R146, R153-R168, 06_spire_operations.md
R179-R184, R203-R213). -/
namespace Sys2Proof.Machine

/-! ### The sequencer -/

/-- What a running instruction sees. -/
structure SEnv where
  n : Fin 8
  c : Fin 4
  p : Pfx
  imm : Imm
  /-- Opcode byte. -/
  opc : Nat
  next : Nat
  /-- Bits in error of the coefficient-RAM word it reads. -/
  bits : Nat

/-- What an instruction answers. -/
inductive SRes where
  /-- It finished; PC goes to the next instruction or to the jump's target. -/
  | done (s : State) (jump : Option Nat)
  /-- It waits at its address in this state of the context. -/
  | wait (s : State) (st : SpSt)
  /-- A precise fault: cause and DETAIL (R204). -/
  | bad (s : State) (cause detail : Nat)
  /-- The context has entered FAULT. -/
  | stopped (s : State)

abbrev SBody := SEnv → State → SRes

/-- The context of a running instruction. -/
def SEnv.x (e : SEnv) (s : State) : SpCtx := s.sc e.n e.c
def SEnv.put (e : SEnv) (s : State) (x : SpCtx) : State := s.setSc e.n e.c x

abbrev cISSUE : Nat := 1
abbrev cSTACK : Nat := 2
abbrev cILLEGAL : Nat := 3
abbrev cFETCH : Nat := 4
abbrev cCELL : Nat := 5
abbrev cPOISON : Nat := 7
abbrev cCOEF : Nat := 10
abbrev cCSTORE : Nat := 11

/-- Goes on with the `k` top cells if the stack holds them and has room for `m` results (R146). -/
def withCells (e : SEnv) (s : State) (k m : Nat) (f : List Cell → SRes) : SRes :=
  let x := e.x s
  if x.win.length < k ∨ 32 < x.win.length - k + m then .bad s cSTACK 0 else f (x.win.take k)
/-- The context with its `k` top cells replaced by `r`, top first. -/
def swapCells (x : SpCtx) (k : Nat) (r : List Cell) : SpCtx := { x with win := r ++ x.win.drop k }

/-- The memory of program text: DRAM or scratch (R168). -/
def textPlace (a : Nat) : Bool := classHolds true a 1 || classHolds false a 1

/-- Brings the line of the program buffer that holds address `a`; the DETAIL of the fetch fault if that fails (R168). -/
def pbLine (s : State) (n : Fin 8) (a : Nat) : State × Option Nat :=
  let l := a / 64 * 64
  if (s.spire n).pbuf.any (·.addr == l) then (s, none)
  else if !(textPlace a) then (s, some 1)
  else
    match busRead s (sprId n) l 64 with
    | (s1, .error c) => (s1, some (causeCode c))
    | (s1, .ok (_, true)) => (s1, some 8)
    | (s1, .ok (d, false)) =>
      let b := (s1.spire n).pbuf
      if b.length < 256 then (s1.setSpire n { s1.spire n with pbuf := { addr := l, data := d } :: b }, none)
      else
        let f := s1.fresh
        (f.2.setSpire n { f.2.spire n with pbuf := { addr := l, data := d } :: b.eraseIdx (f.1.toNat % 256) }, none)

/-- Brings the lines of the `len` bytes at `a`. -/
def pbFetch (s : State) (n : Fin 8) (a len : Nat) : State × Option Nat :=
  match pbLine s n a with
  | (s1, some d) => (s1, some d)
  | (s1, none) => if a / 64 = (a + len - 1) / 64 then (s1, none) else pbLine s1 n (a + len - 1)

/-- A disturbed word of the program buffer: DETAIL of the fetch fault when it is uncorrectable (R175, R176). -/
def pbDisturb (s : State) (n : Fin 8) (bits : Nat) : State × Option Nat :=
  if 2 ≤ bits then
    let f := s.fresh
    (sprUE f.2 n 2 (f.1.toNat % 2048), some 8)
  else if bits = 1 then (sprCE s n, none)
  else (s, none)

/-- The sequencer executes a context: control store loaded, spire enabled and powered (R165, R169, R176). -/
def seqRuns (s : State) (n : Fin 8) : Bool := s.csOk n && (s.regB (sprPage n) oCtl 0 && s.dom (pdSps n.val))

/-- The context's program has been started: a command that is only dispatched has executed nothing (R164, R262). -/
def progOn (s : State) (x : SpCtx) : Bool :=
  match x.ift with
  | some i => (match s.ift i with | some e => e.st != 0 | none => true)
  | none => true

/-- Instructions that may be executed again by a waiting context. -/
inductive Waits where
  | none | group | mailbox
deriving DecidableEq, Repr
def waitsFor (w : Waits) (st : SpSt) : Bool :=
  match st, w with
  | .run, _ => true
  | .gwait, .group => true
  | .mwait, .mailbox => true
  | _, _ => false

/-- The sequencer reads part `k` of microword `wd` of the control store with `bits` more bits in error (R175): the DETAIL of the fault of
an uncorrectable one. Such a word is declared lasting at once and fences the spire (R403, R405, R406). -/
def csRead (s : State) (n : Fin 8) (wd k bits : Nat) : State × Option Nat :=
  let ix := 4 * wd + k
  let e := sget (s.spire n).csErr ix 0 + bits
  let put := fun (t : State) (v : Nat) => t.setSpire n { t.spire n with csErr := sput (t.spire n).csErr ix v 0 }
  if 2 ≤ e then
    (selfStopTest ((declareLog (sprUE (put s e) n 0 wd) (sprPage n) 2 2 2).fenceSpire n), some wd)
  else if e = 1 then (sprCE (put s 0) n, none)
  else (s, none)

/-- Fetch and control-store events before an instruction: none where they fault the context. -/
def seqFront (s : State) (n : Fin 8) (c : Fin 4) (len : Nat) (hw : HwEvent) (ownsTcm : Bool) : State × Option (Nat × Nat) :=
  match pbFetch s n (s.sc n c).pc.toNat len with
  | (s1, some d) => (s1, some (cFETCH, d))
  | (s1, none) =>
    match hw with
    | .tcm b =>
      if ownsTcm then (s1, none)
      else
        let r := pbDisturb s1 n b
        (r.1, r.2.map fun d => (cFETCH, d))
    | .csword wd k b =>
      let r := csRead s1 n wd.toNat k.val b
      (r.1, r.2.map fun d => (cCSTORE, d))
    | _ => (s1, none)

/-- Runs one instruction of a spire context whose operands are well formed. -/
def seqGo (s : State) (n : Fin 8) (c : Fin 4) (acc : Acc) (w : Waits) (len : Nat) (e : SEnv) (hw : HwEvent) (ownsTcm : Bool)
    (body : Option SBody) : State :=
  if seqRuns s n && (progOn s (s.sc n c) && waitsFor w (s.sc n c).st) then
    match seqFront s n c len hw ownsTcm with
    | (s1, some f) => spPrecise s1 n c f.1 f.2
    | (s1, none) =>
      match body with
      | none => spPrecise s1 n c cILLEGAL e.opc
      | some b =>
        if pfxBad acc e.p then spPrecise s1 n c cILLEGAL e.opc
        else
          let s2 := s1.setSc n c { s1.sc n c with st := .run }
          match b e s2 with
          | .done s3 j => s3.setSc n c { s3.sc n c with pc := BitVec.ofNat 48 (j.getD e.next) }
          | .wait s3 st => s3.setSc n c { s3.sc n c with st := st }
          | .bad s3 cause d => spPrecise s3 n c cause d
          | .stopped s3 => s3
  else s

/-- Prefixes a spire accepts: the widths of R117 and the page (R142). -/
def spireAcc (a : Acc) : Acc := { page := a.page, w32 := a.w32, w16 := a.w16 }

/-- A spire context runs an instruction: `body` is none where R142 does not list it; a reserved opcode is listed nowhere (R179). -/
def spireRun (s : State) (n : Fin 8) (c : Fin 4) (acc : Acc) (opc : Nat) (hasImm : Bool) (imm : Imm) (op : DisOp) (w : Waits)
    (ownsTcm : Bool) (body : Option SBody) : Res :=
  match pfxParse {} op.pfx with
  | none => .fault .illFormed
  | some p =>
    let im : Bool × Imm := match op.reserved with
      | none => (hasImm, imm)
      | some b => (decide (0xC0 ≤ b.toNat), { size := ⟨b.toNat % 4, Nat.mod_lt _ (by decide)⟩, value := 0 })
    let code := match op.reserved with | none => opc | some b => b.toNat
    let len := op.pfx.length + 1 + (if im.1 then immBytes im.2 else 0)
    let bits := match op.hw with | .tcm b => b | _ => 0
    okIf ((p.illegal || p.page == acc.page) && ((!hasImm || immOk imm) && reservedOk acc.page op.reserved))
      (seqGo s n c (spireAcc acc) w len { n := n, c := c, p := p, imm := im.2, opc := code, next := (s.sc n c).pc.toNat + len, bits := bits }
        op.hw ownsTcm (if op.reserved.isSome then none else body))

/-- A scalar instruction on a spire (R142, R146). -/
def scalarS (x : Scalar) : SBody := fun e s =>
  withCells e s x.k x.m fun cells =>
    let y := e.x s
    match x.f { bits := e.p.bits, cells := cells, flags := y.flags, rc := y.rc, depth := y.win.length, next := e.next, imm := e.imm, dzMasked := true } with
    | none => .bad s cILLEGAL e.opc
    | some o => .done (e.put s { swapCells y x.k o.cells with flags := o.flags, rc := o.rc }) o.jump

/-- PICK and ROLL on a spire: the whole stack is in the window (R145). -/
def pickS (roll : Bool) : SBody := fun e s =>
  withCells e s 1 (if roll then 0 else 1) fun c =>
    let k := (c.getD 0 0).toNat
    let x := e.x s
    match x.win[k + 1]? with
    | none => .bad s cSTACK 0
    | some v => if k + 1 < x.win.length then
        .done (e.put s { x with win := v :: (if roll then (x.win.drop 1).eraseIdx k else x.win.drop 1) }) none
      else .bad s cSTACK 0

/-! ### Descriptor instructions (R153, R181) -/

def vdldS : SBody := fun e s =>
  withCells e s 1 0 fun c =>
    let a := (c.getD 0 0).toNat
    let x := e.x s
    if 8 ≤ x.descs.length then .bad s cISSUE 1
    else if a % 32 ≠ 0 then .bad s cISSUE 2
    else if 2 ^ 48 ≤ a then .bad s cCELL 1
    else match busRead s (sprId e.n) a 32 with
      | (s1, .error b) => .bad s1 cCELL (causeCode b)
      | (s1, .ok (_, true)) => .bad s1 (if memKind a = .parm then cPOISON else cCELL) (if memKind a = .parm then 4 else 8)
      | (s1, .ok (d, false)) =>
        let y := e.x s1
        .done (e.put s1 { swapCells y 1 [] with descs := SDesc.ofBytes d :: y.descs }) none
/-- An address that is not 32-byte aligned is an issue fault of reason 0x02, as R153 states for VDLD (DESIGN CHOICE, log entry 77). -/
def vdstS : SBody := fun e s =>
  withCells e s 1 0 fun c =>
    let a := (c.getD 0 0).toNat
    match (e.x s).descs with
    | [] => .bad s cISSUE 1
    | d :: _ =>
      if a % 32 ≠ 0 then .bad s cISSUE 2
      else if 2 ^ 48 ≤ a then .bad s cCELL 1
      else match busWrite s (sprId e.n) a d.bytes with
        | (s1, some b) => .bad s1 cCELL (causeCode b)
        | (s1, none) => .done (e.put s1 (swapCells (e.x s1) 1 [])) none
def vddropS : SBody := fun e s =>
  let x := e.x s
  match x.descs with
  | [] => .bad s cISSUE 1
  | _ :: t => .done (e.put s { x with descs := t }) none
def vddupS : SBody := fun e s =>
  let x := e.x s
  match x.descs with
  | [] => .bad s cISSUE 1
  | d :: t => if 8 ≤ x.descs.length then .bad s cISSUE 1 else .done (e.put s { x with descs := d :: d :: t }) none
def vdswapS : SBody := fun e s =>
  let x := e.x s
  match x.descs with
  | a :: b :: t => .done (e.put s { x with descs := b :: a :: t }) none
  | _ => .bad s cISSUE 1
def vdgetS : SBody := fun e s =>
  if 9 < e.imm.value.toNat then .bad s cILLEGAL e.opc
  else withCells e s 0 1 fun _ =>
    let x := e.x s
    match x.descs with
    | [] => .bad s cISSUE 1
    | d :: _ => .done (e.put s (swapCells x 0 [d.get e.imm.value.toNat])) none
def vdsetS : SBody := fun e s =>
  if 9 < e.imm.value.toNat then .bad s cILLEGAL e.opc
  else withCells e s 1 0 fun c =>
    let x := e.x s
    match x.descs with
    | [] => .bad s cISSUE 1
    | d :: t => .done (e.put s { swapCells x 1 [] with descs := d.set e.imm.value.toNat (c.getD 0 0) :: t }) none

/-! ### Element instructions (R154, R155, R185) -/

def elemS (v : VOp) : SBody := fun e s =>
  withCells e s v.cells 0 fun c =>
    let x := e.x s
    match takeIn v x.pc x.descs x.opened c with
    | .error r => .bad s cISSUE r
    | .ok (st, g) => .done (e.put s { swapCells x v.cells [] with descs := st, opened := some g }) none

/-! ### Groups (R155, R159, R165, R211-R213) -/

/-- What collecting the context's group answers (R159, R211). -/
inductive Collected where
  | fine (s : State)
  | waits
  | full
  /-- The handler is entered at its address. -/
  | handler (s : State) (a : Nat)
  | fault (s : State)

/-- VWAIT's collection; the collecting instruction may push onto a stack from which `k` cells will be popped after it. -/
def collect (e : SEnv) (s : State) : Collected :=
  let x := e.x s
  match x.adm with
  | .none => .fine s
  | .queued => .waits
  | .running => .waits
  | .ended rs =>
    if 32 < x.win.length + rs.length then .full
    else .fine (e.put s { x with win := rs.reverse ++ x.win, adm := .none })
  | .halted =>
    let w := match x.image with | some i => i.w | none => 0
    if x.handler ≠ 0 ∧ x.win.length ≤ 30 then
      .handler (e.put s { x with win := cell w :: cell x.pc.toNat :: x.win, adm := .none, finfo := x.finfo ||| mask1 30 }) x.handler.toNat
    else .fault (spEnterFault (e.put s { x with adm := .none }) e.n e.c (regFld x.finfo 26 4))

def vwaitS : SBody := fun e s =>
  match collect e s with
  | .fine s1 => .done s1 none
  | .waits => .wait s .gwait
  | .full => .bad s cSTACK 0
  | .handler s1 a => .done s1 (some a)
  | .fault s1 => .stopped s1

/-- A group enters the admission queue (R161). -/
def enqueue (e : SEnv) (s : State) (g : Group) : State :=
  let x := e.x s
  let s1 := e.put s { x with opened := none, adm := .queued, image := none }
  s1.setSpire e.n { s1.spire e.n with queue := (s1.spire e.n).queue ++ [(e.c, g)] }

def vgoS : SBody := fun e s =>
  match collect e s with
  | .waits => .wait s .gwait
  | .full => .bad s cSTACK 0
  | .handler s1 a => .done s1 (some a)
  | .fault s1 => .stopped (e.put s1 { e.x s1 with opened := none })
  | .fine s1 =>
    match (e.x s1).opened with
    | none => .bad s cISSUE 5
    | some g => match vgoBad g with
      | some r => .bad (e.put s { e.x s with opened := none }) cISSUE r
      | none => .done (enqueue e s1 g) none

def vendS : SBody := fun e s =>
  match collect e s with
  | .waits => .wait s .gwait
  | .full => .bad s cSTACK 0
  | .handler s1 a => .done s1 (some a)
  | .fault s1 => .stopped s1
  | .fine s1 =>
    match (e.x s1).win with
    | [] => .bad s cSTACK 0
    | v :: t =>
      .done (spEnd (e.put s1 { e.x s1 with win := t }) e.n e.c (v.toNat % 256) (w32 (v.toNat / 256))) none

def vonfS : SBody := fun e s =>
  withCells e s 1 0 fun c => .done (e.put s { swapCells (e.x s) 1 [] with handler := BitVec.ofNat 48 (c.getD 0 0).toNat }) none

def vfrecS : SBody := fun e s =>
  withCells e s 1 1 fun c =>
    let k := (c.getD 0 0).toNat
    if 7 < k then .bad s cISSUE 0x0A
    else .done (e.put s (swapCells (e.x s) 1 [cell (spctxRead (e.x s) (0x20 + 4 * k)).toNat])) none

def vfdescS : SBody := fun e s =>
  withCells e s 1 0 fun c =>
    let x := e.x s
    match x.image.bind fun i => i.group.descs[(c.getD 0 0).toNat]? with
    | none => .bad s cISSUE 0x0A
    | some d => if 8 ≤ x.descs.length then .bad s cISSUE 1
      else .done (e.put s { swapCells x 1 [] with descs := d :: x.descs }) none

/-- SPIRE_RESUME (R212). -/
def vresumeS : SBody := fun e s =>
  withCells e s 1 0 fun c =>
    let x := e.x s
    let sk := (c.getD 0 0).toNat
    match x.image, x.adm with
    | some i, .none =>
      if i.group.restart0 && sk != 0 then .bad s cISSUE 0x0A
      else
        let gr := max 1 i.group.granule
        let r := if i.group.restart0 then 0 else i.group.restartAt gr ((i.w + sk) / gr)
        if i.group.n ≤ r then .done (e.put s { swapCells x 1 [] with image := none }) none
        else
          let s1 := e.put s { swapCells x 1 [] with finfo := regSet x.finfo 31 1 0 }
          let og := x.opened
          let s2 := enqueue e s1 (if r = 0 then i.group else i.group.rebuild r)
          .done (e.put s2 { e.x s2 with opened := og }) none
    | _, _ => .bad s cISSUE 0x0A

/-! ### Cells of memory and of the coefficient RAM (R182, R183) -/

/-- The context's group has not ended. -/
def busyGroup (x : SpCtx) : Bool := x.adm == .queued || x.adm == .running

/-- DETAIL of a cell address that breaks R182. -/
def cellBad (a : Nat) : Option Nat :=
  if a % 8 ≠ 0 then some 2 else if classHolds true a 8 || classHolds false a 8 then none else some 1

def vldcS : SBody := fun e s =>
  withCells e s 1 1 fun c =>
    let a := (c.getD 0 0).toNat
    if busyGroup (e.x s) then .wait s .run
    else match cellBad a with
      | some d => .bad s cCELL d
      | none => match busRead s (sprId e.n) a 8 with
        | (s1, .error b) => .bad s1 cCELL (causeCode b)
        | (s1, .ok (_, true)) => .bad s1 cCELL 8
        | (s1, .ok (d, false)) => .done (e.put s1 (swapCells (e.x s1) 1 [cell (ofLE d)])) none
def vstcS : SBody := fun e s =>
  withCells e s 2 0 fun c =>
    let a := (c.getD 0 0).toNat
    if busyGroup (e.x s) then .wait s .run
    else match cellBad a with
      | some d => .bad s cCELL d
      | none => match busWrite s (sprId e.n) a (leBytes 8 (c.getD 1 0).toNat) with
        | (s1, some b) => .bad s1 cCELL (causeCode b)
        | (s1, none) => .done (e.put s1 (swapCells (e.x s1) 2 [])) none

/-- The context waits for the running group of its spire to end (R183). -/
def coefWaits (e : SEnv) (s : State) : SRes := .wait (e.put s { e.x s with coefWait := true }) .run

/-- VCGET or VCPUT is done: the context with its `k` top cells replaced by `r`, no longer waiting. -/
def coefDone (e : SEnv) (s : State) (k : Nat) (r : List Cell) : SRes :=
  .done (e.put s { swapCells (e.x s) k r with coefWait := false }) none

/-- The datapath with the coefficient RAM has no power: what VCGET and VCPUT do then is not stated. VCGET gives a free value and VCPUT
stores nothing (DESIGN CHOICE, log entry 77). -/
def vcgetS : SBody := fun e s =>
  withCells e s 1 1 fun c =>
    let off := (c.getD 0 0).toNat
    if off % 8 ≠ 0 ∨ 65536 ≤ off then .bad s cISSUE 9
    else if (s.spire e.n).running.isSome then coefWaits e s
    else if !(s.dom (pdSpd e.n.val)) then coefDone e s.fresh.2 1 [s.fresh.1]
    else match coefWord s e.n (off / 8) e.bits with
      | (s1, none) => .bad s1 cCOEF (off / 8)
      | (s1, some d) => coefDone e s1 1 [cell (ofLE d)]
def vcputS : SBody := fun e s =>
  withCells e s 2 0 fun c =>
    let off := (c.getD 0 0).toNat
    if off % 8 ≠ 0 ∨ 65536 ≤ off then .bad s cISSUE 9
    else if (s.spire e.n).running.isSome then coefWaits e s
    else
      coefDone e (if s.dom (pdSpd e.n.val) then coefWrite s e.n off (leBytes 8 (c.getD 1 0).toNat) else s) 2 []

/-! ### Mailboxes (R184) -/

def vmbringS : SBody := fun e s =>
  withCells e s 2 0 fun c =>
    let ch := (c.getD 0 0).toNat
    if 64 ≤ ch then .bad s cISSUE 8
    else match busWrite s (sprId e.n) (regAddr (mbPage ch) (mbOff ch + 0x20)) (leBytes 4 ((c.getD 1 0).toNat % 2 ^ 31)) with
      | (s1, some b) => .bad s1 cCELL (causeCode b)
      | (s1, none) => .done (e.put s1 (swapCells (e.x s1) 2 [])) none
def vmbwaitS : SBody := fun e s =>
  withCells e s 2 1 fun c =>
    let ch := (c.getD 0 0).toNat
    let m := (c.getD 1 0).toNat % 2 ^ 32
    if m = 0 then .done (e.put s (swapCells (e.x s) 2 [0])) none
    else if 64 ≤ ch then .bad s cISSUE 8
    else match busRead s (sprId e.n) (regAddr (mbPage ch) (mbOff ch + 0x24)) 4 with
      | (s1, .error b) => .bad s1 cCELL (causeCode b)
      | (s1, .ok (d, _)) =>
        let hit := ofLE d &&& m
        if hit = 0 then .wait s1 .mwait
        else match busWrite s1 (sprId e.n) (regAddr (mbPage ch) (mbOff ch + 0x24)) (leBytes 4 hit) with
          | (s2, some b) => .bad s2 cCELL (causeCode b)
          | (s2, none) => .done (e.put s2 (swapCells (e.x s2) 2 [cell hit])) none

/-! ### Commands of the SPR pages -/

def execSprGo (id : MasterId) (sp : Fin 8) (c : Fin 4) (s : State) : Res := ok (cmdReg s id (sprPage sp) (0x200 + 64 * c.val) 1)
def execSprStop (id : MasterId) (sp : Fin 8) (c : Fin 4) (s : State) : Res := ok (cmdReg s id (sprPage sp) (0x200 + 64 * c.val) 2)
/-- A write of SRST that leaves EN and QEN as they are. -/
def execSpireReset (id : MasterId) (sp : Fin 8) (s : State) : Res :=
  ok (cmdReg s id (sprPage sp) oCtl ((s.reg (sprPage sp) oCtl &&& 3) ||| 4))
def execPinv (id : MasterId) (sp : Fin 8) (s : State) : Res :=
  ok (cmdReg s id (sprPage sp) oCtl ((s.reg (sprPage sp) oCtl &&& 3) ||| 8))
/-- R168: the program buffer takes the line at a running context's PC, or the context faults. -/
def execProgramFetch (sp : Fin 8) (c : Fin 4) (s : State) : Res :=
  ok (if seqRuns s sp && (progOn s (s.sc sp c) && (s.sc sp c).st == .run) then
    match pbLine s sp (s.sc sp c).pc.toNat with
    | (s1, some d) => spPrecise s1 sp c cFETCH d
    | (s1, none) => s1
  else s)

end Sys2Proof.Machine
end

