-- ==== Sys2Proof/Machine/TurretMem.lean ====
section
/-! DEFINITION. Bodies of the memory instructions of a turret: loads, stores, anchors, atomics, landing registers and the long
instructions (04_dravaesor_isa.md R113-R115, R125-R132). -/
namespace Sys2Proof.Machine

/-- Access width in bytes (R117). -/
def Env.w (e : Env) : Nat := e.p.bits / 8
def Env.far (e : Env) : Bool := e.p.far.isSome
/-- Landing register that FAR names. -/
def Env.ln (e : Env) : Fin 4 := ⟨(e.p.far.getD 0) % 4, Nat.mod_lt _ (by decide)⟩
/-- Anchor that ANSEL names, AN0 without it (R114). -/
def Env.an (e : Env) : Fin 8 := ⟨(e.p.an.getD 0) % 8, Nat.mod_lt _ (by decide)⟩

/-! ### Anchors (R114, R115) -/

/-- Modulus of an anchor in MODULO mode. -/
def Anchor.modulus (a : Anchor) : Nat := if a.param = 0 then 2 ^ 32 else a.param.toNat
/-- Bit count of an anchor in BITREV mode. -/
def Anchor.bitCount (a : Anchor) : Nat := regFld a.param 0 5
/-- The low `b` bits of `x` in reverse order. -/
def bitRev : Nat → Nat → Nat
  | 0, _ => 0
  | b + 1, x => (x % 2) * 2 ^ b + bitRev b (x / 2)

/-- Effective address (R115), modulo 2^64. -/
def Anchor.ea (a : Anchor) (d : Int) (w : Nat) : Nat :=
  match a.mode.toNat with
  | 0 => uns (a.base.toNat + a.off.toNat + d) 64
  | 1 => uns (a.base.toNat + (a.off.toNat + d) % (a.modulus : Int)) 64
  | _ => uns (a.base.toNat + bitRev a.bitCount a.off.toNat * w + d) 64
/-- The update of the post-modifying forms (R115). -/
def Anchor.step (a : Anchor) : Anchor :=
  match a.mode.toNat with
  | 0 => { a with off := BitVec.ofNat 32 (uns (a.off.toNat + a.inc.toInt) 32) }
  | 1 => { a with off := BitVec.ofNat 32 (((a.off.toNat + a.inc.toInt) % (a.modulus : Int)).toNat) }
  | _ => { a with off := BitVec.ofNat 32 ((a.off.toNat + 1) % 2 ^ a.bitCount) }

/-- A control cell that ANLD accepts (R114). -/
def anCtlOk (c : Nat) : Bool :=
  decide (fld c 0 2 ≠ 3) && (fld c 2 14 == 0 &&
    (fld c 0 2 != 2 || (decide (1 ≤ fld c 32 5 ∧ fld c 32 5 ≤ 24) && fld c 37 27 == 0)))
/-- An anchor's control cell in ANRD format. -/
def Anchor.ctl (a : Anchor) : Cell := cell (2 ^ 32 * a.param.toNat + a.inc.toNat * 2 ^ 16 + a.mode.toNat)
/-- An anchor with its control cell written. -/
def Anchor.setCtl (a : Anchor) (c : Nat) : Anchor :=
  { a with param := BitVec.ofNat 32 (fld c 32 32), inc := BitVec.ofNat 16 (fld c 16 16), mode := BitVec.ofNat 2 (fld c 0 2) }
/-- An offset as ANOFF stores it (R114). -/
def Anchor.offOf (a : Anchor) (v : Nat) : Word32 :=
  match a.mode.toNat with
  | 0 => BitVec.ofNat 32 v
  | 1 => BitVec.ofNat 32 (v % a.modulus)
  | _ => BitVec.ofNat 32 (v % 2 ^ a.bitCount)

def State.anchor (s : State) (e : Env) : Anchor := (s.cx e.n).an[e.an]
def State.setAnchor (s : State) (e : Env) (a : Anchor) : State :=
  s.setCx e.n { s.cx e.n with an := (s.cx e.n).an.set e.an a }

/-! ### Loads and stores -/

/-- The checks of an aligned access of the instruction (R125-R127). -/
def memCheck (e : Env) (s : State) (r : Right) (a : Nat) : Option Trap :=
  match accessCheck s e.n r a e.w e.far with
  | some t => some t
  | none => if e.far && farBad a then some { vec := vBUS, info := infoAddr a (rightKind r) true } else none

/-- A load at `a`: near, it pushes; far, it is issued to the landing register. `k` cells are popped. -/
def loadAt (e : Env) (s : State) (k a : Nat) (signed : Bool) : Run Unit :=
  match memCheck e s .read a with
  | some t => .trap t s
  | none =>
    if e.far then
      let r := farRead s e.n e.id e.skew a e.w
      .ok () (stackPut (farIssue r.1 e.n e.ln a e.w r.2.1 signed r.2.2) e.n k [])
    else (nearRead s e.n a e.w e.tcm).bind fun d s1 => .ok () (stackPut s1 e.n k [loadExt signed d])

/-- A store of `v` at `a`; `k` cells are popped. -/
def storeAt (e : Env) (s : State) (k a : Nat) (v : Cell) : Run Unit :=
  match memCheck e s .write a with
  | some t => .trap t s
  | none =>
    let d := leBytes e.w v.toNat
    if e.far then .ok () (stackPut (farWrite s e.n a d) e.n k [])
    else (nearWrite s e.n a d).bind fun _ s1 => .ok () (stackPut s1 e.n k [])

/-- LD and LDS: addr → value, or to a landing register (R125, R127). -/
def loadBody (signed : Bool) : Body := fun e s =>
  (stackNeed s e.n 1 (if e.far then 0 else 1)).bind fun c s1 =>
    (loadAt e s1 1 (c.getD 0 0).toNat signed).bind fun _ s2 => .ok .next s2
/-- ST: value addr → (log entry 23). -/
def storeBody : Body := fun e s =>
  (stackNeed s e.n 2 0).bind fun c s1 =>
    (storeAt e s1 2 (c.getD 0 0).toNat (c.getD 1 0)).bind fun _ s2 => .ok .next s2

/-- Anchored loads, with displacement `d` (R115). -/
def anLoadBody (signed post disp : Bool) : Body := fun e s =>
  (stackNeed s e.n 0 (if e.far then 0 else 1)).bind fun _ s1 =>
    let a := s1.anchor e
    let d : Int := if disp then (immSx e.imm).toInt else 0
    (loadAt e s1 0 (a.ea d e.w) signed).bind fun _ s2 => .ok .next (if post then s2.setAnchor e a.step else s2)
/-- Anchored stores. -/
def anStoreBody (post disp : Bool) : Body := fun e s =>
  (stackNeed s e.n 1 0).bind fun c s1 =>
    let a := s1.anchor e
    let d : Int := if disp then (immSx e.imm).toInt else 0
    (storeAt e s1 1 (a.ea d e.w) (c.getD 0 0)).bind fun _ s2 => .ok .next (if post then s2.setAnchor e a.step else s2)

/-- ANLD: base ctl → (R114). -/
def anldBody : Body := fun e s =>
  (stackNeed s e.n 2 0).bind fun c s1 =>
    let ctl := (c.getD 0 0).toNat
    if anCtlOk ctl then
      let s2 := stackPut s1 e.n 2 []
      .ok .next (s2.setAnchor e { (s2.anchor e).setCtl ctl with base := c.getD 1 0, off := 0 })
    else .trap { vec := vILLEGAL } s1
/-- ANOFF. -/
def anoffBody : Body := fun e s =>
  (stackNeed s e.n 1 0).bind fun c s1 =>
    let s2 := stackPut s1 e.n 1 []
    let a := s2.anchor e
    .ok .next (s2.setAnchor e { a with off := a.offOf (c.getD 0 0).toNat })
/-- ANRD: base, control cell, then OFF on top. -/
def anrdBody : Body := fun e s =>
  (stackNeed s e.n 0 3).bind fun _ s1 =>
    let a := s1.anchor e
    .ok .next (stackPut s1 e.n 0 [cell a.off.toNat, a.ctl, a.base])
/-- ANADR. -/
def anadrBody : Body := fun e s =>
  (stackNeed s e.n 0 1).bind fun _ s1 => .ok .next (stackPut s1 e.n 0 [cell ((s1.anchor e).ea 0 e.w)])
/-- ANSTEP. -/
def anstepBody : Body := fun e s => .ok .next (s.setAnchor e (s.anchor e).step)

/-! ### Landing registers (R127, R128) -/

/-- INFO of a fault raised at LDLn or LWAIT (R331). -/
def landInfo (r : Nat) : Nat := 2 ^ 50 + (2 ^ 54 + 2 ^ 51 * r)

/-- LDLn. -/
def ldlBody (r : Fin 4) : Body := fun e s =>
  match (s.cx e.n).ls[r].err with
  | some v => .trap { vec := v, info := landInfo r.val, clr := some r } s
  | none => (stackNeed s e.n 0 1).bind fun _ s1 => .ok .next (stackPut s1 e.n 0 [(s1.cx e.n).ls[r].v])

/-- The lowest-numbered landing register with its error bit set. -/
def firstErr (x : TCtx) : Option (Fin 4 × Nat) :=
  (List.finRange 4).findSome? fun r => (x.ls[r].err).map fun v => (r, v)

/-- LWAIT: the outstanding loads return, then the lowest error is raised. The loads have returned even when it faults. -/
def lwaitBody : Body := fun e s =>
  if e.stop.isSome && !e.p.repi then .ok .stay s else
  let s1 := landAll s e.n
  match firstErr (s1.cx e.n) with
  | some (r, v) => .trap { vec := v, info := landInfo r.val, clr := some r } s1
  | none => .ok .next s1

/-- FENCE (R130): every buffered store leaves; its write response returns with it. -/
def fenceBody : Body := fun e s => .ok .next (sbEmpty s e.n (s.core e.n).sb.length)

/-! ### Atomics (R131) -/

/-- Atomic operations. -/
inductive AtOp where
  | swap | cas | add | and | or | xor
deriving DecidableEq, Repr

/-- The new value; none for a CASM that does not write. -/
def atNew (o : AtOp) (w m v exp : Nat) : Option Nat :=
  match o with
  | .swap => some v
  | .cas => if m = exp % 2 ^ w then some v else none
  | .add => some ((m + v) % 2 ^ w)
  | .and => some (m &&& v)
  | .or => some (m ||| v)
  | .xor => some (m ^^^ v)

/-- FLAGS after a near CASM: Z alone (R123). -/
def atFlags (o : AtOp) (f : Flags) (wrote : Bool) : Flags := if o = .cas then setZ f wrote else f

/-- A near atomic: `k` cells popped, `m` pushed. Under ATOM the buffer empties first and the write is made at once. -/
def atNear (o : AtOp) (e : Env) (s : State) (k a : Nat) (v exp : Cell) : Run Flow :=
  (nearRead (if e.p.atom then sbEmpty s e.n (s.core e.n).sb.length else s) e.n a e.w e.tcm).bind fun d s1 =>
    let m := ofLE d
    match atNew o (8 * e.w) m v.toNat exp.toNat with
    | none =>
      let s2 := stackPut s1 e.n k [cell m]
      .ok .next (s2.setCx e.n { s2.cx e.n with flags := atFlags o (s2.cx e.n).flags false })
    | some x =>
      match accessCheck s1 e.n .write a e.w false with
      | some t => .trap t s1
      | none =>
        (nearWrite s1 e.n a (leBytes e.w x)).bind fun _ s2 =>
          let s3 := stackPut (if e.p.atom then sbEmpty s2 e.n (s2.core e.n).sb.length else s2) e.n k [cell m]
          .ok .next (s3.setCx e.n { s3.cx e.n with flags := atFlags o (s3.cx e.n).flags true })

/-- A far atomic: m goes to the landing register; a read that failed writes nothing (log entry 24). -/
def atFar (o : AtOp) (e : Env) (s : State) (k a : Nat) (v exp : Cell) : Run Flow :=
  let s0 := if e.p.atom then sbEmpty s e.n (s.core e.n).sb.length else s
  let r := farRead s0 e.n e.id e.skew a e.w
  let s1 := stackPut (farIssue r.1 e.n e.ln a e.w r.2.1 false r.2.2) e.n k []
  match r.2.1 with
  | .inr _ => .ok .next s1
  | .inl d =>
    match atNew o (8 * e.w) (ofLE d) v.toNat exp.toNat with
    | none => .ok .next s1
    | some x =>
      let s2 := farWrite s1 e.n a (leBytes e.w x)
      .ok .next (if e.p.atom then sbEmpty s2 e.n (s2.core e.n).sb.length else s2)

/-- SWAPM, ADDM, ANDM, ORM, XORM: v addr; CASM: new exp addr. A far atomic needs both rights unless CASM does not write. -/
def atBody (o : AtOp) : Body := fun e s =>
  let k := if o = .cas then 3 else 2
  (stackNeed s e.n k (if e.far then 0 else 1)).bind fun c s1 =>
    let a := (c.getD 0 0).toNat
    let exp := if o = .cas then c.getD 1 0 else 0
    let v := if o = .cas then c.getD 2 0 else c.getD 1 0
    match memCheck e s1 .read a with
    | some t => .trap t s1
    | none =>
      if e.far then
        match memCheck e s1 .write a with
        | some t => .trap t s1
        | none => atFar o e s1 k a v exp
      else atNear o e s1 k a v exp

/-! ### Long instructions (R132) -/

/-- Bytes of a step: up to the next 8-byte boundary of the first address operand, or what remains. -/
def stepLen (a rc : Nat) : Nat := min (8 - a % 8) rc

/-- Reads `k` near bytes from `a`, byte by byte; the disturbance befalls the first. -/
def nearBytes (s : State) (n : Fin 8) (a bits : Nat) : Nat → Run (List Byte)
  | 0 => .ok [] s
  | k + 1 =>
    (nearRead s n (a % 2 ^ 64) 1 bits).bind fun d s1 => (nearBytes s1 n (a + 1) 0 k).bind fun t s2 => .ok (d ++ t) s2

/-- Reads the `k` bytes of a step's operand. -/
def longRead (e : Env) (s : State) (a k : Nat) : Run (List Byte) :=
  match protCheck s e.n .read a k e.far with
  | some t => .trap t s
  | none =>
    if e.far then
      if farBad a then .trap { vec := vBUS, info := infoAddr a 0 true } s
      else match farRead s e.n e.id e.skew a k with
        | (s1, .inl d, _) => .ok d s1
        | (s1, .inr v, _) => .trap { vec := v, info := infoAddr a 0 true } s1
    else nearBytes s e.n a e.tcm k

/-- The checks of a step's store of `k` bytes at `a`. -/
def longStoreCheck (e : Env) (s : State) (a k : Nat) : Option Trap :=
  match protCheck s e.n .write a k e.far with
  | some t => some t
  | none =>
    if e.far then (if farBad a then some { vec := vBUS, info := infoAddr a 1 true } else none)
    else if nearNoStore s a then some { vec := vBUS, info := infoAddr a 1 false } else none

/-- The store of a step, its checks done. -/
def longStore (e : Env) (s : State) (a : Nat) (d : List Byte) : State :=
  if e.far then farWrite s e.n a d
  else match nearWrite s e.n a d with
    | .ok _ s1 => s1
    | .trap _ s1 => s1

/-- Bytes copied in ascending address order: a source byte that this step has already written reads as written. -/
def overlapCopy (dst src : Nat) (done : List Byte) (i : Nat) : List Byte → List Byte
  | [] => done
  | b :: t =>
    overlapCopy dst src (done ++ [if dst ≤ src + i ∧ src + i < dst + i then done.getD (src + i - dst) b else b]) (i + 1) t

/-- Byte (a mod 8) of x, for `k` addresses from `a`. -/
def fillBytes (a x : Nat) : Nat → List Byte
  | 0 => []
  | k + 1 => byte (fld x (8 * (a % 8)) 8) :: fillBytes (a + 1) x k

/-- First index at which two byte lists differ. -/
def firstNe : List Byte → List Byte → Nat → Option (Nat × Bool)
  | a :: s, b :: t, i => if a = b then firstNe s t (i + 1) else some (i, decide (a.toNat < b.toNat))
  | _, _, _ => none

/-- The long instructions. -/
inductive LongOp where
  | mov | fill | crc | cmp
deriving DecidableEq, Repr

/-- What a step answers: the cells, top first, the bytes done, whether the instruction ends, FLAGS. -/
structure LongStep where
  cells : List Cell
  done : Nat
  fin : Bool
  flags : Flags

/-- A cell plus a count, modulo 2^64. -/
def adv (c : Cell) (k : Nat) : Cell := cell (c.toNat + k)

/-- One step of a long instruction on the cells `top` and `sec` with `rc` bytes left. A CMPB that ends without an unequal byte clears C
(DEDUCED, log entry 17). -/
def longStep (o : LongOp) (e : Env) (s : State) (top sec : Cell) (rc : Nat) (f : Flags) : Run LongStep :=
  match o with
  | .mov =>
    let k := stepLen sec.toNat rc
    (longRead e s top.toNat k).bind fun d s1 =>
      match longStoreCheck e s1 sec.toNat k with
      | some t => .trap t s1
      | none => .ok { cells := [adv top k, adv sec k], done := k, fin := rc == k, flags := f }
          (longStore e s1 sec.toNat (overlapCopy sec.toNat top.toNat [] 0 d))
  | .fill =>
    let k := stepLen sec.toNat rc
    match longStoreCheck e s sec.toNat k with
    | some t => .trap t s
    | none => .ok { cells := [top, adv sec k], done := k, fin := rc == k, flags := f }
        (longStore e s sec.toNat (fillBytes sec.toNat top.toNat k))
  | .crc =>
    let k := stepLen top.toNat rc
    (longRead e s top.toNat k).bind fun d s1 =>
      .ok { cells := [adv top k, cell (crc32c (sec.toNat % 2 ^ 32) d)], done := k, fin := rc == k, flags := f } s1
  | .cmp =>
    let k := stepLen sec.toNat rc
    (longRead e s sec.toNat k).bind fun x s1 =>
      (longRead e s1 top.toNat k).bind fun y s2 =>
        match firstNe x y 0 with
        | some (i, lt) => .ok (LongStep.mk [adv top i, adv sec i] i true
            ((setZ f false &&& 0b111011) ||| BitVec.ofNat 6 (4 * b2n lt))) s2
        | none => .ok (LongStep.mk [adv top k, adv sec k] k (rc == k) (if rc = k then setZ f true &&& 0b111011 else f)) s2

/-- Cells left at completion: MOVB and FILLB pop both, CRCB leaves the crc, CMPB leaves both. -/
def longFinal (o : LongOp) (cells : List Cell) : List Cell :=
  match o with
  | .mov => []
  | .fill => []
  | .crc => cells.drop 1
  | .cmp => cells

/-- Steps of a long instruction, at most `fuel`; each finished step shows in RC, the cells and SCOUNT. -/
def longLoop (o : LongOp) (e : Env) : Nat → State → Run Flow
  | 0, s => .ok .stay s
  | fuel + 1, s =>
    let x := s.cx e.n
    let top := ((x.win.getD 0 {}).v)
    let sec := ((x.win.getD 1 {}).v)
    match longStep o e s top sec x.rc.toNat x.flags with
    | .trap t s1 => .trap t (undo s s1 e.n)
    | .ok r s1 =>
      let s2 := stackPut s1 e.n 2 r.cells
      let y := s2.cx e.n
      let s3 := s2.setCx e.n { y with rc := y.rc - cell r.done, flags := r.flags }
      let s4 := unitSet s3 e.n 2 ((s3.core e.n).unit[2] + cell r.done)
      if r.fin then .ok .next (stackPut s4 e.n 2 (longFinal o r.cells)) else longLoop o e fuel s4

/-- MOVB, FILLB, CRCB and CMPB: RC = 0 at the start completes with no access; CMPB then clears C (DEDUCED, log entry 17). -/
def longBody (o : LongOp) : Body := fun e s =>
  match stackNeed s e.n 2 0 with
  | .trap t s1 => .trap t (undo s s1 e.n)
  | .ok c s0 =>
    match unitTouch s0 e.n 2 with
    | .trap t s1 => .trap t (undo s s1 e.n)
    | .ok _ s1 =>
      let rc := (s1.cx e.n).rc.toNat
      if rc = 0 then
        let s2 := stackPut s1 e.n 2 (longFinal o c)
        .ok .next (if o = .cmp then s2.setCx e.n { s2.cx e.n with flags := setZ (s2.cx e.n).flags true &&& 0b111011 } else s2)
      else longLoop o e (match e.stop with | some j => min j rc | none => rc) s1

/-! ### PICK and ROLL (R113) -/

/-- Stack-memory address of the cell `m` places below the window. -/
def belowAddr (x : TCtx) (m : Nat) : Nat := x.vsp.toNat + 8 * m

/-- PICK: n → x_n. -/
def pickBody : Body := fun e s =>
  (stackNeed s e.n 1 1).bind fun c s1 =>
    let k := (c.getD 0 0).toNat
    let x := s1.cx e.n
    if x.depth < k + 2 then .trap { vec := vSUNF, info := x.vsp.toNat } s1
    else if k + 1 < x.win.length then
      let w := x.win.getD (k + 1) {}
      match w.bad with
      | some a => .trap { vec := vSPILL, info := a } s1
      | none => .ok .next (stackPut s1 e.n 1 [w.v])
    else
      let a := belowAddr x (k + 1 - x.win.length)
      let r := dtcmLoad s1 e.n a 8 e.tcm
      if r.2.2 then .trap { vec := vPOISON, info := infoAddr a 0 false } r.1
      else .ok .next (stackPut r.1 e.n 1 [cell (ofLE r.2.1)])

/-- Moves the spilled cells above place `m` one place deeper; a poisoned word stays poisoned in its new place. -/
def rollDown (s : State) (n : Fin 8) (x : TCtx) : Nat → State
  | 0 => s
  | m + 1 =>
    let r := dtcmLoad s n (belowAddr x m) 8 0
    let s1 := dtcmPut r.1 n (belowAddr x (m + 1)) r.2.1
    rollDown (if r.2.2 then s1.setWordErr ((tcmBase n.val + dtcmIx (belowAddr x (m + 1))) / 8) 2 else s1) n x m

/-- ROLL: n →, x_n moved to the top. A spilled cell moves to the window, and the spilled cells above it move by one place
(log entry 25). -/
def rollBody : Body := fun e s =>
  (stackNeed s e.n 1 1).bind fun c s1 =>
    let k := (c.getD 0 0).toNat
    let x := s1.cx e.n
    if x.depth < k + 2 then .trap { vec := vSUNF, info := x.vsp.toNat } s1
    else if k + 1 < x.win.length then
      let w := x.win.getD (k + 1) {}
      match w.bad with
      | some a => .trap { vec := vSPILL, info := a } s1
      | none => .ok .next (s1.setCx e.n { x with win := w :: (x.win.drop 1).eraseIdx k, stage := [], clean := false })
    else
      let m := k + 1 - x.win.length
      let a := belowAddr x m
      let r := dtcmLoad s1 e.n a 8 e.tcm
      if r.2.2 then .trap { vec := vPOISON, info := infoAddr a 0 false } r.1
      else
        let s2 := stackPut (rollDown r.1 e.n x m) e.n 1 [cell (ofLE r.2.1)]
        .ok .next (s2.setCx e.n { s2.cx e.n with vsp := x.vsp + 8 })

end Sys2Proof.Machine
end

