-- ==== Sys2Proof/Machine/TurretSys.lean ====
section
/-! DEFINITION. Bodies of the system, decimal and floating pages of a turret (11_exceptions_privilege.md R324, R326, R338, R343;
12_lockstep.md R363; 13_arithmetic.md R371-R382). -/
namespace Sys2Proof.Machine

/-! ### System page -/

/-- SYNC.I and SYNC.C (R137, R139). -/
def syncIBody : Body := fun e s => .ok .next (syncI s e.n)
def syncCBody : Body := fun e s => .ok .next (applyPending s e.n)

/-- GATE (R329). -/
def gateBody : Body := fun e s =>
  (stackNeed s e.n 1 4).bind fun c s1 => (gateTake s1 e.n (c.getD 0 0).toNat e.next).bind fun _ s2 => .ok .set s2

/-- RETE (R338). -/
def reteBody : Body := fun e s =>
  (stackNeed s e.n 4 0).bind fun c s1 =>
    let f1 := (c.getD 2 0).toNat
    match reteCheck (s1.core e.n) f1 with
    | some v => .trap { vec := v } s1
    | none => .ok .set (reteTake s1 e.n (fld (c.getD 3 0).toNat 0 48) f1 (c.getD 1 0))

/-- CSW (R122, R324, R338, R341). A context above 5 or disabled is ILLEGAL before PRIV is judged (DEDUCED, log entry 14). -/
def cswBody : Body := fun e s =>
  (stackNeed s e.n 1 0).bind fun c s1 =>
    let k := (c.getD 0 0).toNat
    let core := s1.core e.n
    if 5 < core.cur.val then .trap { vec := vILLEGAL } s1
    else if h : k ≤ 5 ∧ core.enabled k = true then
      let t : Fin 8 := ⟨k, by omega⟩
      if !core.ctx.super || (core.ctxs[t].custody && !core.ctx.custody) then .trap { vec := vPRIV } s1
      else
        let s2 := flowTo (stackPut s1 e.n 1 []) e .next
        let s3 := reserveAll s2 e.n
        .ok .set (switchIn (s3.setCore e.n { s3.core e.n with cur := t }) e.n)
    else .trap { vec := vILLEGAL } s1

/-- WAIT: the core sleeps unless an event is routed to it already (R335). -/
def waitBody : Body := fun e s =>
  if !(s.cx e.n).super then .trap { vec := vPRIV } s
  else .ok .next (if anyEvent s e.n then s else s.setCore e.n { s.core e.n with sleep := true })

/-- An SV0 session is open (R122, LANT_ATTACH). -/
def State.attached (s : State) : Bool := s.regB 0x3A0 0x104 0
/-- BRK (R122, R331). -/
def brkBody : Body := fun e s =>
  if s.attached then .ok .next (s.setCore e.n { s.core e.n with dhalt := true }) else .trap { vec := vBRKPT } s

/-- LSTAT (R128). -/
def lstatOf (x : TCtx) : Nat :=
  (List.finRange 4).foldl (fun a r => a + b2n (x.ls[r].pend.isSome) * 2 ^ r.val + b2n (x.ls[r].err.isSome) * 2 ^ (r.val + 4)) 0

/-- The state of unit `u` of context `c`, wherever it is held (R343). -/
def unitOf (s : State) (n c : Fin 8) (u : Fin 3) : State × Cell :=
  let k := s.core n
  if k.owner[u] = some c then (s, k.unit[u])
  else match k.ctxs[c].resv[u].place with
    | some p =>
      if k.ctxs[c].resv[u].out then
        let d := dtcmLoad s n p 8 0
        (d.1, cell (ofLE d.2.1))
      else (s, k.ctxs[c].units[u])
    | none => (s, k.ctxs[c].units[u])

/-- Writes the state of unit `u` of context `c` where it is held. -/
def unitPut (s : State) (n c : Fin 8) (u : Fin 3) (v : Cell) : State :=
  let k := s.core n
  let own := s.setCore n { k with ctxs := k.ctxs.set c { k.ctxs[c] with units := k.ctxs[c].units.set u v } }
  if k.owner[u] = some c then unitSet s n u v
  else match k.ctxs[c].resv[u].place with
    | some p => if k.ctxs[c].resv[u].out then dtcmPut s n p (leBytes 8 v.toNat) else own
    | none => own

/-- The cells of the digest (R363). -/
def chkCells (s : State) (n : Fin 8) (pc : Nat) : List Cell :=
  let x := s.cx n
  let c := (s.core n).cur
  [cell (modeOf x c.val), cell pc, cell x.flags.toNat, x.rc, cell x.win.length] ++ x.win.reverse.map (·.v) ++
  [cell x.vsp.toNat, cell x.sbase.toNat, cell x.slim.toNat] ++ x.ls.toList.map (·.v) ++ [cell (lstatOf x)] ++
  (x.an.toList.map fun a => [a.base, a.ctl, cell a.off.toNat]).flatten ++
  [(unitOf s n c 0).2, (unitOf s n c 1).2, (unitOf s n c 2).2, cell (s.core n).cwb.length]
/-- The digest. -/
def chkDigest (s : State) (n : Fin 8) (pc : Nat) : Cell :=
  cell (crc64 0 ((chkCells s n pc).map fun c => leBytes 8 c.toNat).flatten)
/-- CHKST (R363). -/
def chkstBody : Body := fun e s =>
  (stackNeed s e.n 0 1).bind fun _ s1 =>
    if !(s1.cx e.n).super then .trap { vec := vPRIV } s1
    else .ok .next (stackPut s1 e.n 0 [chkDigest s1 e.n e.pc])

/-! ### Control registers (R138, R324, R326) -/

/-- The number names a control register. -/
def crKnown (r : Nat) : Bool := decide (r ≤ 0x0C)
/-- The register is read-only. -/
def crRo (r : Nat) : Bool := r == 0 || (r == 0x0A || r == 0x0B)
/-- The running mode may write the register (R324). -/
def crMay (x : TCtx) (r : Nat) : Bool :=
  if r = 9 ∨ r = 0x0C then true else if r = 5 ∨ r = 6 then x.super else x.super && x.custody

/-- The value in effect of a control register, FCSR apart. -/
def crValue (s : State) (n : Fin 8) (r : Nat) : Cell :=
  let c := s.core n
  match r with
  | 0 => cell (modeOf c.ctx c.cur.val)
  | 1 => c.world
  | 2 => c.edtb
  | 3 => c.mpubase
  | 4 => c.mpuctl
  | 5 => cell c.ctx.sbase.toNat
  | 6 => cell c.ctx.slim.toNat
  | 7 => cell (c.bankcfg.toNat + 0xC0)
  | 8 => c.bankwin
  | 9 => cell c.trapmask.toNat
  | 0x0A => cell (lstatOf c.ctx)
  | _ => cell c.cur.val

/-- The range [a, a + k) lies in DTCM. -/
def inDtcm (a k : Nat) : Bool := decide (0x40000 ≤ a ∧ a + k ≤ 0x80000)

/-- A BANKWIN value that may be written (R343). -/
def bankwinOk (c : Core) (v : Nat) : Bool :=
  fld v 11 53 == 0 && (fld v 1 7 == 0 && (!(bit v 0) ||
    ((decide (1 ≤ fld v 8 3 ∧ fld v 8 3 ≤ 5) && !(c.enabled (fld v 8 3))) || (c.cur == 7 && fld v 8 3 != 7))))

/-- The value breaks no rule of R326 or R343. -/
def crOk (c : Core) (r v : Nat) : Bool :=
  match r with
  | 1 => fld v 48 4 == 0 && (fld v 0 8 == 0 && (fld v 56 8 == 0 || inDtcm (fld v 8 40 * 256) (fld v 56 8 * 16)))
  | 2 => fld v 48 16 == 0 && (fld v 0 12 == 0 && (v == 0 || inDtcm v 0x1040))
  | 3 => fld v 48 16 == 0 && (fld v 0 8 == 0 && inDtcm v 1)
  | 4 => fld v 9 55 == 0 && (fld v 1 3 == 0 && decide (fld v 4 5 ≤ 16))
  | 5 => sbaseOk v
  | 6 => slimOk v
  | 8 => bankwinOk c v
  | 0x0C => fld v 13 51 == 0 && (fld v 3 5 == 0 && decide (fld v 0 3 ≤ 4))
  | _ => true

/-- MFCR. -/
def mfcrBody (r : Nat) : Body := fun e s =>
  if !(crKnown r) then .trap { vec := vILLEGAL } s
  else (stackNeed s e.n 0 1).bind fun _ s1 =>
    if r = 0x0C then (unitTouch s1 e.n 0).bind fun v s2 => .ok .next (stackPut s2 e.n 0 [v])
    else .ok .next (stackPut s1 e.n 0 [crValue s1 e.n r])

/-- The write of a checked value: at once, or pending until SYNC.C (R139). -/
def crWrite (s : State) (n : Fin 8) (r : Nat) (v : Cell) : Run Unit :=
  let c := s.core n
  match r with
  | 8 => .ok () (s.setCore n { c with bankwin := v })
  | 9 => .ok () (s.setCore n { c with trapmask := v.setWidth 2 })
  | 0x0C => (unitTouch s n 0).bind fun _ s1 => .ok () (unitSet s1 n 0 v)
  | _ => .ok () (s.setCx n { c.ctx with pend := sput c.ctx.pend r (some v) none })

/-- MTCR. -/
def mtcrBody (r : Nat) : Body := fun e s =>
  if !(crKnown r) || crRo r then .trap { vec := vILLEGAL } s
  else (stackNeed s e.n 1 0).bind fun c s1 =>
    let v := c.getD 0 0
    if !(crMay (s1.cx e.n) r) then .trap { vec := vPRIV } s1
    else if !(crOk (s1.core e.n) r v.toNat) then .trap { vec := vILLEGAL } s1
    else (crWrite (stackPut s1 e.n 1 []) e.n r v).bind fun _ s2 => .ok .next s2

/-! ### The bank window (R343) -/

/-- Bank cell `i`, 0 deepest, of a context; a cell at or above OCC that nothing has staged is 0 while the window is unused since
reset, and otherwise a free value. -/
def bankCell (s : State) (x : TCtx) (i : Nat) : State × WCell :=
  if i < x.win.length then (s, x.win.getD (x.win.length - 1 - i) {})
  else match x.stage.find? (fun e => e.1 == i) with
    | some e => (s, e.2)
    | none => if x.clean then (s, {}) else (s.fresh.2, { v := s.fresh.1 })

/-- Bank cells `0 … m−1`, deepest first. -/
def bankCells (s : State) (x : TCtx) : Nat → State × List WCell
  | 0 => (s, [])
  | m + 1 =>
    let r := bankCells s x m
    let c := bankCell r.1 x m
    (c.1, r.2 ++ [c.2])

/-- Staged value of a bank cell: a plain list by cell number. -/
def stagePut (l : SMap WCell) (i : Nat) (v : WCell) : SMap WCell := linePutC l i v
where
  /-- Inserts or replaces by key. -/
  linePutC : SMap WCell → Nat → WCell → SMap WCell
    | [], i, v => [(i, v)]
    | (k, w) :: t, i, v => if i < k then (i, v) :: (k, w) :: t else if i = k then (i, v) :: t else (k, w) :: linePutC t i v

/-- A write of bank cell `i`. -/
def bankCellPut (x : TCtx) (i : Nat) (v : Cell) : TCtx :=
  if i < x.win.length then { x with win := x.win.set (x.win.length - 1 - i) { v := v } }
  else { x with stage := stagePut x.stage i { v := v } }

/-- A write of OCC: cells that leave the window stay staged; a cell's poisoned mark stays with it. -/
def bankOccPut (s : State) (x : TCtx) (m : Nat) : State × TCtx :=
  let r := bankCells s x (max m x.win.length)
  let lost := (rangeFrom m (x.win.length - m)).foldl (fun l i => stagePut l i (r.2.getD i {})) (x.stage.filter fun e => decide (m ≤ e.1))
  (r.1, { x with win := (r.2.take m).reverse, stage := lost })

/-- Target context of the window. -/
def bankTarget (c : Core) : Fin 8 := ⟨fld c.bankwin.toNat 8 3, by unfold fld; exact Nat.mod_lt _ (by decide)⟩
/-- The item is listed (R343). -/
def bankItem (i : Nat) : Bool := decide (i ≤ 0x2C ∨ (0x30 ≤ i ∧ i ≤ 0x4B))

/-- Value of an item of the windowed context. -/
def bankRead (s : State) (n : Fin 8) (i : Nat) : State × Cell :=
  let t := bankTarget (s.core n)
  let x := (s.core n).ctxs[t]
  if i < 0x20 then
    let r := bankCell s x i
    (r.1, r.2.v)
  else if i < 0x30 then
    (s, match i with
      | 0x20 => cell x.win.length
      | 0x21 => cell x.pc.toNat
      | 0x22 => cell x.vsp.toNat
      | 0x23 => cell x.sbase.toNat
      | 0x24 => cell x.slim.toNat
      | 0x25 => cell x.flags.toNat
      | 0x26 => x.rc
      | 0x27 => cell (modeOf x t.val)
      | 0x2C => cell (lstatOf x)
      | _ => x.ls[(⟨(i - 0x28) % 4, Nat.mod_lt _ (by decide)⟩ : Fin 4)].v)
  else if i < 0x48 then
    let a := x.an[(⟨i % 8, Nat.mod_lt _ (by decide)⟩ : Fin 8)]
    (s, if i < 0x38 then a.base else if i < 0x40 then a.ctl else cell a.off.toNat)
  else if i < 0x4B then unitOf s n t ⟨(i - 0x48) % 3, Nat.mod_lt _ (by decide)⟩
  else (s, cell ((List.finRange 3).foldl (fun a u => a + b2n x.resv[u].place.isSome * 2 ^ u.val + b2n x.resv[u].out * 2 ^ (u.val + 4)) 0))

/-- The value is in its item's range (R343). -/
def bankValueOk (i v : Nat) : Bool :=
  match i with
  | 0x20 => decide (v ≤ 32)
  | 0x21 => decide (v < 2 ^ 48)
  | 0x22 => sbaseOk v
  | 0x23 => sbaseOk v
  | 0x24 => slimOk v
  | _ => if 0x38 ≤ i ∧ i < 0x40 then anCtlOk v else true

/-- Landing registers with the error bits of LSTAT written; a bit that stays set keeps its vector, a new one is a bus fault. -/
def setErrBits (ls : Vector Landing 4) (v : Nat) : Vector Landing 4 :=
  Vector.ofFn fun r => { ls[r] with err := if bit v (4 + r.val) then some (ls[r].err.getD vBUS) else none }

/-- The windowed context with an item other than OCC and the units written. -/
def bankPut (x : TCtx) (i : Nat) (v : Cell) : TCtx :=
  if i < 0x20 then bankCellPut x i v
  else if i < 0x30 then
    match i with
    | 0x21 => { x with pc := BitVec.ofNat 48 v.toNat }
    | 0x22 => { x with vsp := stackAddr v.toNat }
    | 0x23 => { x with sbase := stackAddr v.toNat }
    | 0x24 => { x with slim := stackAddr v.toNat }
    | 0x25 => { x with flags := v.setWidth 6 }
    | 0x26 => { x with rc := v }
    | 0x27 => setMode x v.toNat
    | 0x2C => { x with ls := setErrBits x.ls v.toNat }
    | _ =>
      let r : Fin 4 := ⟨(i - 0x28) % 4, Nat.mod_lt _ (by decide)⟩
      { x with ls := x.ls.set r { x.ls[r] with v := v, sampled := false } }
  else if i < 0x48 then
    let k : Fin 8 := ⟨i % 8, Nat.mod_lt _ (by decide)⟩
    let a := x.an[k]
    { x with an := x.an.set k (if i < 0x38 then { a with base := v } else if i < 0x40 then a.setCtl v.toNat
                               else { a with off := BitVec.ofNat 32 v.toNat }) }
  else x

/-- A write of an item. -/
def bankWriteItem (s : State) (n : Fin 8) (i : Nat) (v : Cell) : State :=
  let t := bankTarget (s.core n)
  let x := (s.core n).ctxs[t]
  if 0x48 ≤ i ∧ i < 0x4B then unitPut s n t ⟨(i - 0x48) % 3, Nat.mod_lt _ (by decide)⟩ v
  else if i = 0x20 then
    let r := bankOccPut s x v.toNat
    r.1.setCore n { r.1.core n with ctxs := (r.1.core n).ctxs.set t r.2 }
  else s.setCore n { s.core n with ctxs := (s.core n).ctxs.set t (bankPut x i v) }

/-- BANKRD and BANKWR may run (R324). -/
def bankMay (x : TCtx) : Bool := x.custody && x.super
/-- BANKRD: item → value. -/
def bankrdBody : Body := fun e s =>
  (stackNeed s e.n 1 1).bind fun c s1 =>
    let i := (c.getD 0 0).toNat
    if !(bankMay (s1.cx e.n)) then .trap { vec := vPRIV } s1
    else if !((s1.core e.n).bankwin.getLsbD 0) || !(bankItem i) then .trap { vec := vILLEGAL } s1
    else
      let r := bankRead s1 e.n i
      .ok .next (stackPut r.1 e.n 1 [r.2])
/-- BANKWR: value item →. -/
def bankwrBody : Body := fun e s =>
  (stackNeed s e.n 2 0).bind fun c s1 =>
    let i := (c.getD 0 0).toNat
    let v := c.getD 1 0
    if !(bankMay (s1.cx e.n)) then .trap { vec := vPRIV } s1
    else if !((s1.core e.n).bankwin.getLsbD 0) || (!(bankItem i) || !(bankValueOk i v.toNat)) then .trap { vec := vILLEGAL } s1
    else .ok .next (bankWriteItem (stackPut s1 e.n 2 []) e.n i v)

/-! ### Decimal page (R378-R382) -/

/-- Delivers what a decimal instruction computed. -/
def decDeliver (s : State) (n : Fin 8) (k : Nat) (o : DecOut) : State :=
  let s1 := unitSet (stackPut s n k o.cells.reverse) n 1 o.dstat
  s1.setCx n { s1.cx n with flags := o.flags }

/-- A decimal instruction with `k` operands, `m` results: `bad` the position of a bad digit, `zero` the cells of a masked
condition, in push order. -/
def decBody (k m : Nat) (bad : List Cell → Option Nat) (zero : List Cell) (f : List Cell → Flags → Cell → DecOut) : Body := fun e s =>
  (stackNeed s e.n k m).bind fun c s1 =>
    (unitTouch s1 e.n 1).bind fun d s2 =>
      match bad c with
      | some p =>
        if (s2.core e.n).trapmask.getLsbD 1 then .ok .next (decDeliver s2 e.n k (decBad zero (s2.cx e.n).flags p))
        else .trap { vec := vDD } s2
      | none => .ok .next (decDeliver s2 e.n k (f c (s2.cx e.n).flags d))

/-- DADD and DSUB: ad as bd bs → rd rs. -/
def decAddBody (sub : Bool) : Body :=
  decBody 4 2 (fun c => badDigit2 (c.getD 3 0) (c.getD 1 0)) [0, 0xC]
    fun c f d => decAdd sub f d (c.getD 3 0) (c.getD 2 0) (c.getD 1 0) (c.getD 0 0)
def decChkBody : Body := decBody 1 1 (fun _ => none) [] fun c f d => decChk f d (c.getD 0 0)
/-- DTOB: d s → x. -/
def dtobBody : Body :=
  decBody 2 1 (fun c => badDigit2 (c.getD 1 0) 0) [0] fun c f d => decToBin f d (c.getD 1 0) (c.getD 0 0)
/-- BTOD: x → d s. -/
def btodBody : Body := decBody 1 2 (fun _ => none) [] fun c f d => binToDec f d (c.getD 0 0)

/-! ### Floating page (R371-R376) -/

/-- The format a floating instruction works in. -/
def Env.fmt (e : Env) : FFmt := if e.p.w32 then f32 else f64
/-- A floating operand of a format. -/
def fOp (f : FFmt) (c : Cell) : Nat := c.toNat % 2 ^ (1 + f.eb + f.mb)

/-- A floating instruction with `k` operands and one result; `f` gets the rounding mode and the operands, top first, and answers
the result and the flags it raises, which stick in FCSR. -/
def fltBody (k : Nat) (f : FFmt → Nat → List Cell → Nat × Nat) : Body := fun e s =>
  (stackNeed s e.n k 1).bind fun c s1 =>
    (unitTouch s1 e.n 0).bind fun v s2 =>
      let r := f e.fmt (fld v.toNat 0 3) c
      .ok .next (stackPut (unitSet s2 e.n 0 (v ||| cell (r.2 * 256))) e.n k [cell r.1])

def flt2 (f : FFmt → Nat → FVal → FVal → Nat × Nat) : Body :=
  fltBody 2 fun m rm c => f m rm (fDecode m (fOp m (c.getD 1 0))) (fDecode m (fOp m (c.getD 0 0)))
def fltCmp (o : FCmp) : Body := fltBody 2 fun m _ c => fCompare m o (fOp m (c.getD 1 0)) (fOp m (c.getD 0 0))
def fltMinMax (mx : Bool) : Body := fltBody 2 fun m _ c => fMinMax m mx (fOp m (c.getD 1 0)) (fOp m (c.getD 0 0))
/-- FMA: a b c → a × b + c. -/
def fmaBody : Body :=
  fltBody 3 fun m rm c => fFmaV m rm (fDecode m (fOp m (c.getD 2 0))) (fDecode m (fOp m (c.getD 1 0))) (fDecode m (fOp m (c.getD 0 0)))
/-- FNEG inverts the sign bit, FABS clears it (R373). -/
def fltSign (neg : Bool) : Body := fltBody 1 fun m _ c =>
  let x := fOp m (c.getD 0 0)
  (if fSign m x then x - 2 ^ (m.eb + m.mb) else if neg then x + 2 ^ (m.eb + m.mb) else x, 0)

/-! ### Running a turret instruction -/

/-- An illegal-instruction fault (R118). -/
def illegalBody : Body := fun _ s => .trap { vec := vILLEGAL } s
/-- An instruction whose opcode is reserved raises an illegal-instruction fault, whatever its prefixes; its immediate has the length that
R116 gives every opcode. -/
def reservedInsn (x : Insn) (r : Option Byte) : Insn :=
  match r with
  | none => x
  | some b => { acc := { page := x.acc.page }, hasImm := decide (0xC0 ≤ b.toNat),
                imm := { size := ⟨b.toNat % 4, Nat.mod_lt _ (by decide)⟩, value := 0 }, body := illegalBody }
/-- A turret runs an instruction whose operands are well formed: prefix bytes that parse and name the instruction's page, unless
they are illegal anyway (R118), and an immediate that fits its size. -/
def turretRun (s : State) (n : Fin 8) (x : Insn) (op : DisOp) : Res :=
  match pfxParse {} op.pfx with
  | none => .fault .illFormed
  | some p => okIf ((p.illegal || p.page == x.acc.page) && ((!x.hasImm || immOk x.imm) && reservedOk x.acc.page op.reserved))
      (turretGo s n (reservedInsn x op.reserved) p op)

end Sys2Proof.Machine
end

