-- ==== Sys2Proof/Machine/DisScalar.lean ====
section
/-! DEFINITION. The scalar instructions of the primary map, on a turret or on a spire context (04_dravaesor_isa.md R119-R124, R142;
13_arithmetic.md R366-R369). -/
namespace Sys2Proof.Machine

/-- An instruction of the primary map or of a page without immediate: on a turret by `tb`, on a spire context by `sb`, which is none
where R142 does not list it. -/
def disRun (op : DisOp) (acc : Acc) (opc : Nat) (tb : Body) (sb : Option SBody) (s : State) : Res :=
  match op.ex with
  | .turret n => turretRun s n { acc := acc, body := tb } op
  | .spire n c => spireRun s n c acc opc false { size := 0, value := 0 } op .none false sb
/-- An instruction with an immediate; the opcode's low bits give its size (R116). -/
def disImm (op : DisOp) (acc : Acc) (opc : Nat) (imm : Imm) (tb : Body) (sb : Option SBody) (s : State) : Res :=
  match op.ex with
  | .turret n => turretRun s n { acc := acc, hasImm := true, imm := imm, body := tb } op
  | .spire n c => spireRun s n c acc (opc + imm.size.val) true imm op .none false sb
/-- A scalar instruction that turrets and spires share. -/
def disScalar (op : DisOp) (acc : Acc) (opc : Nat) (x : Scalar) (s : State) : Res := disRun op acc opc (scalarBody x) (some (scalarS x)) s
/-- A scalar instruction of turrets only. -/
def disTurret (op : DisOp) (acc : Acc) (opc : Nat) (x : Scalar) (s : State) : Res := disRun op acc opc (scalarBody x) none s
/-- A scalar instruction with an immediate. -/
def disScalarImm (op : DisOp) (acc : Acc) (opc : Nat) (imm : Imm) (x : Scalar) (s : State) : Res :=
  disImm op acc opc imm (scalarBody x) (some (scalarS x)) s

/-- NOP: — (R122). -/
def execNop (op : DisOp) (s : State) : Res := disScalar op accPlain 0x00 (scCells 0 0 fun _ => []) s
/-- DUP: a → a a (R122). -/
def execDup (op : DisOp) (s : State) : Res := disScalar op accPlain 0x01 (scCells 1 2 fun x => [x.c 0, x.c 0]) s
/-- DROP: a → (R122). -/
def execDrop (op : DisOp) (s : State) : Res := disScalar op accPlain 0x02 (scCells 1 0 fun _ => []) s
/-- SWAP: a b → b a (R122). -/
def execSwap (op : DisOp) (s : State) : Res := disScalar op accPlain 0x03 (scCells 2 2 fun x => [x.c 1, x.c 0]) s
/-- OVER: a b → a b a (R122). -/
def execOver (op : DisOp) (s : State) : Res := disScalar op accPlain 0x04 (scCells 2 3 fun x => [x.c 1, x.c 0, x.c 1]) s
/-- ROT: a b c → b c a (R122). -/
def execRot (op : DisOp) (s : State) : Res := disScalar op accPlain 0x05 (scCells 3 3 fun x => [x.c 2, x.c 0, x.c 1]) s
/-- NROT: a b c → c a b (R122). -/
def execNrot (op : DisOp) (s : State) : Res := disScalar op accPlain 0x06 (scCells 3 3 fun x => [x.c 1, x.c 2, x.c 0]) s
/-- NIP: a b → b (R122). -/
def execNip (op : DisOp) (s : State) : Res := disScalar op accPlain 0x07 (scCells 2 1 fun x => [x.c 0]) s
/-- TUCK: a b → b a b (R122). -/
def execTuck (op : DisOp) (s : State) : Res := disScalar op accPlain 0x08 (scCells 2 3 fun x => [x.c 0, x.c 1, x.c 0]) s
/-- PICK: n → x_n (R122). -/
def execPick (op : DisOp) (s : State) : Res := disRun op accPlain 0x09 pickBody (some (pickS false)) s
/-- ROLL: n →, with x_n moved to the top (R122). -/
def execRoll (op : DisOp) (s : State) : Res := disRun op accPlain 0x0A rollBody (some (pickS true)) s
/-- DEPTH: → depth (R113) (R122). -/
def execDepth (op : DisOp) (s : State) : Res := disScalar op accPlain 0x0B (scCells 0 1 fun x => [cell x.depth]) s
/-- DUP2: a b → a b a b (R122). -/
def execDup2 (op : DisOp) (s : State) : Res := disScalar op accPlain 0x0C (scCells 2 4 fun x => [x.c 0, x.c 1, x.c 0, x.c 1]) s
/-- DROP2: a b → (R122). -/
def execDrop2 (op : DisOp) (s : State) : Res := disScalar op accPlain 0x0D (scCells 2 0 fun _ => []) s
/-- SWAP2: a b c d → c d a b (R122). -/
def execSwap2 (op : DisOp) (s : State) : Res := disScalar op accPlain 0x0E (scCells 4 4 fun x => [x.c 2, x.c 3, x.c 0, x.c 1]) s
/-- ZERO: → 0 (R122). -/
def execZero (op : DisOp) (s : State) : Res := disScalar op accPlain 0x0F (scCells 0 1 fun _ => [0]) s
def execAdd (op : DisOp) (s : State) : Res := disScalar op accAlu 0x10 (scBin .add) s
def execSub (op : DisOp) (s : State) : Res := disScalar op accAlu 0x11 (scBin .sub) s
def execAdc (op : DisOp) (s : State) : Res := disScalar op accAlu 0x12 (scBin .adc) s
def execSbb (op : DisOp) (s : State) : Res := disScalar op accAlu 0x13 (scBin .sbb) s
def execNeg (op : DisOp) (s : State) : Res := disScalar op accAlu 0x14 (scUna .neg) s
def execInc (op : DisOp) (s : State) : Res := disScalar op accAlu 0x15 (scUna .inc) s
def execDec (op : DisOp) (s : State) : Res := disScalar op accAlu 0x16 (scUna .dec) s
def execMul (op : DisOp) (s : State) : Res := disScalar op accAlu 0x17 (scBin .mul) s
def execMulh (op : DisOp) (s : State) : Res := disScalar op accAlu 0x18 (scBin .mulh) s
def execMulhu (op : DisOp) (s : State) : Res := disScalar op accAlu 0x19 (scBin .mulhu) s
def execDiv (op : DisOp) (s : State) : Res := disTurret op accAlu 0x1A (scDiv true) s
def execDivu (op : DisOp) (s : State) : Res := disTurret op accAlu 0x1B (scDiv false) s
def execMin (op : DisOp) (s : State) : Res := disScalar op accAlu 0x1C (scBin .min) s
def execMax (op : DisOp) (s : State) : Res := disScalar op accAlu 0x1D (scBin .max) s
def execMinu (op : DisOp) (s : State) : Res := disScalar op accAlu 0x1E (scBin .minu) s
def execMaxu (op : DisOp) (s : State) : Res := disScalar op accAlu 0x1F (scBin .maxu) s
def execAnd (op : DisOp) (s : State) : Res := disScalar op accAlu 0x20 (scBin .and) s
def execOr (op : DisOp) (s : State) : Res := disScalar op accAlu 0x21 (scBin .or) s
def execXor (op : DisOp) (s : State) : Res := disScalar op accAlu 0x22 (scBin .xor) s
def execNot (op : DisOp) (s : State) : Res := disScalar op accAlu 0x23 (scUna .not) s
def execAndn (op : DisOp) (s : State) : Res := disScalar op accAlu 0x24 (scBin .andn) s
def execShl (op : DisOp) (s : State) : Res := disScalar op accAlu 0x25 (scShf .shl) s
def execShr (op : DisOp) (s : State) : Res := disScalar op accAlu 0x26 (scShf .shr) s
def execSar (op : DisOp) (s : State) : Res := disScalar op accAlu 0x27 (scShf .sar) s
def execRol (op : DisOp) (s : State) : Res := disScalar op accAlu 0x28 (scShf .rol) s
def execRor (op : DisOp) (s : State) : Res := disScalar op accAlu 0x29 (scShf .ror) s
def execPopc (op : DisOp) (s : State) : Res := disScalar op accAlu 0x2A (scUna .popc) s
def execClz (op : DisOp) (s : State) : Res := disScalar op accAlu 0x2B (scUna .clz) s
def execCtz (op : DisOp) (s : State) : Res := disScalar op accAlu 0x2C (scUna .ctz) s
def execBswap (op : DisOp) (s : State) : Res := disScalar op accAlu 0x2D (scUna .bswap) s
def execSext (op : DisOp) (s : State) : Res := disScalar op accAlu 0x2E (scExt true) s
def execZext (op : DisOp) (s : State) : Res := disScalar op accAlu 0x2F (scExt false) s
def execEq (op : DisOp) (s : State) : Res := disScalar op accAlu 0x30 (scBin .eq) s
def execNe (op : DisOp) (s : State) : Res := disScalar op accAlu 0x31 (scBin .ne) s
def execLt (op : DisOp) (s : State) : Res := disScalar op accAlu 0x32 (scBin .lt) s
def execLe (op : DisOp) (s : State) : Res := disScalar op accAlu 0x33 (scBin .le) s
def execGt (op : DisOp) (s : State) : Res := disScalar op accAlu 0x34 (scBin .gt) s
def execGe (op : DisOp) (s : State) : Res := disScalar op accAlu 0x35 (scBin .ge) s
def execLtu (op : DisOp) (s : State) : Res := disScalar op accAlu 0x36 (scBin .ltu) s
def execLeu (op : DisOp) (s : State) : Res := disScalar op accAlu 0x37 (scBin .leu) s
def execGtu (op : DisOp) (s : State) : Res := disScalar op accAlu 0x38 (scBin .gtu) s
def execGeu (op : DisOp) (s : State) : Res := disScalar op accAlu 0x39 (scBin .geu) s
def execCmp (op : DisOp) (s : State) : Res := disScalar op accAlu 0x3A scCmp s
def execTst (op : DisOp) (s : State) : Res := disScalar op accAlu 0x3B scTst s
def execSel (op : DisOp) (s : State) : Res := disScalar op accAlu 0x3C scSel s
def execRdrc (op : DisOp) (s : State) : Res := disScalar op accNone 0x70 (scCells 0 1 fun x => [x.rc]) s
def execWrrc (op : DisOp) (s : State) : Res := disScalar op accNone 0x71 scWrrc s
def execRdfl (op : DisOp) (s : State) : Res := disScalar op accNone 0x72 (scCells 0 1 fun x => [x.flags.zeroExtend 64]) s
def execWrfl (op : DisOp) (s : State) : Res := disScalar op accNone 0x73 scWrfl s
def execRet (op : DisOp) (s : State) : Res := disScalar op accNone 0x60 scJump s
def execJmp (op : DisOp) (s : State) : Res := disScalar op accNone 0x61 scJump s
def execCalli (op : DisOp) (s : State) : Res := disTurret op accNone 0x62 scCallI s
/-- RDSP: → VSP (R122). -/
def rdspBody : Body := fun e s =>
  (stackNeed s e.n 0 1).bind fun _ s1 => .ok .next (stackPut s1 e.n 0 [(s1.cx e.n).vsp.zeroExtend 64])
def execRdsp (op : DisOp) (s : State) : Res := disRun op accNone 0x74 rdspBody none s
/-- BRK (R122, R332). -/
def execBrk (op : DisOp) (s : State) : Res := disRun op accNone 0x63 brkBody none s
def execPushi (op : DisOp) (imm : Imm) (s : State) : Res := disScalarImm op accPlain 0xC0 imm (scCells 0 1 fun x => [immSx x.imm]) s
def execPushu (op : DisOp) (imm : Imm) (s : State) : Res := disScalarImm op accPlain 0xC4 imm (scCells 0 1 fun x => [cell x.imm.value.toNat]) s
def execAddi (op : DisOp) (imm : Imm) (s : State) : Res := disScalarImm op accAlu 0xC8 imm (scImm .add true) s
def execAndi (op : DisOp) (imm : Imm) (s : State) : Res := disScalarImm op accAlu 0xCC imm (scImm .and true) s
def execOri (op : DisOp) (imm : Imm) (s : State) : Res := disScalarImm op accAlu 0xEC imm (scImm .or false) s
def execBr (op : DisOp) (imm : Imm) (s : State) : Res := disScalarImm op accNone 0xD8 imm (scBranch 0 fun _ => true) s
def execBz (op : DisOp) (imm : Imm) (s : State) : Res := disScalarImm op accNone 0xDC imm (scBranch 1 fun x => x.c 0 == 0) s
def execBnz (op : DisOp) (imm : Imm) (s : State) : Res := disScalarImm op accNone 0xE0 imm (scBranch 1 fun x => x.c 0 != 0) s
def execCall (op : DisOp) (imm : Imm) (s : State) : Res := disScalarImm op accNone 0xE4 imm scCall s
def execLoop (op : DisOp) (imm : Imm) (s : State) : Res := disScalarImm op accNone 0xE8 imm scLoop s

end Sys2Proof.Machine
end

