-- ==== Sys2Proof/Machine/DisMemory.lean ====
section
/-! DEFINITION. The memory instructions of the primary map (04_dravaesor_isa.md R114, R115, R119, R120, R125-R135): turrets only. -/
namespace Sys2Proof.Machine

/-- LD: addr → v, zero-extended (R125). -/
def execLd (op : DisOp) (s : State) : Res := disRun op accLoad 0x40 (loadBody false) none s
/-- LDS: addr → v, sign-extended (R124). -/
def execLds (op : DisOp) (s : State) : Res := disRun op accLoad 0x41 (loadBody true) none s
/-- ST: v addr → (R125). -/
def execSt (op : DisOp) (s : State) : Res := disRun op accStore 0x42 storeBody none s
/-- LDLn: → Ln (R127, R128). -/
def execLdl (op : DisOp) (r : Fin 4) (s : State) : Res :=
  match op.ex with
  | .turret n => turretRun s n { acc := accLdl, ldl := some r, body := ldlBody r } op
  | .spire n c => spireRun s n c accLdl (0x43 + r.val) false { size := 0, value := 0 } op .none false none
/-- An instruction that advances in steps of its own (R127, R132). -/
def disLong (op : DisOp) (acc : Acc) (opc : Nat) (b : Body) (s : State) : Res :=
  match op.ex with
  | .turret n => turretRun s n { acc := acc, long := true, body := b } op
  | .spire n c => spireRun s n c acc opc false { size := 0, value := 0 } op .none false none
/-- LWAIT (R127, R128). -/
def execLwait (op : DisOp) (s : State) : Res := disLong op accWait 0x47 lwaitBody s
/-- FENCE (R130). -/
def execFence (op : DisOp) (s : State) : Res := disRun op accWait 0x48 fenceBody none s
/-- SWAPM (R131). -/
def execSwapm (op : DisOp) (s : State) : Res := disRun op accAtom 0x49 (atBody .swap) none s
/-- CASM (R131). -/
def execCasm (op : DisOp) (s : State) : Res := disRun op accAtom 0x4A (atBody .cas) none s
/-- ADDM (R131). -/
def execAddm (op : DisOp) (s : State) : Res := disRun op accAtom 0x4B (atBody .add) none s
/-- ANDM (R131). -/
def execAndm (op : DisOp) (s : State) : Res := disRun op accAtom 0x4C (atBody .and) none s
/-- ORM (R131). -/
def execOrm (op : DisOp) (s : State) : Res := disRun op accAtom 0x4D (atBody .or) none s
/-- XORM (R131). -/
def execXorm (op : DisOp) (s : State) : Res := disRun op accAtom 0x4E (atBody .xor) none s
/-- LDA (R115). -/
def execLda (op : DisOp) (s : State) : Res := disRun op accAnLoad 0x50 (anLoadBody false false false) none s
/-- LDA+ (R115). -/
def execLdaPostmod (op : DisOp) (s : State) : Res := disRun op accAnLoad 0x51 (anLoadBody false true false) none s
/-- LDSA (R115). -/
def execLdsa (op : DisOp) (s : State) : Res := disRun op accAnLoad 0x52 (anLoadBody true false false) none s
/-- LDSA+ (R115). -/
def execLdsaPostmod (op : DisOp) (s : State) : Res := disRun op accAnLoad 0x53 (anLoadBody true true false) none s
/-- STA (R115). -/
def execSta (op : DisOp) (s : State) : Res := disRun op accAnStore 0x54 (anStoreBody false false) none s
/-- STA+ (R115). -/
def execStaPostmod (op : DisOp) (s : State) : Res := disRun op accAnStore 0x55 (anStoreBody true false) none s
/-- ANLD (R114, R115). -/
def execAnld (op : DisOp) (s : State) : Res := disRun op accAnchor 0x56 anldBody none s
/-- ANOFF (R114, R115). -/
def execAnoff (op : DisOp) (s : State) : Res := disRun op accAnchor 0x57 anoffBody none s
/-- ANRD (R114, R115). -/
def execAnrd (op : DisOp) (s : State) : Res := disRun op accAnchor 0x58 anrdBody none s
/-- ANADR (R114, R115). -/
def execAnadr (op : DisOp) (s : State) : Res := disRun op accAnStep 0x59 anadrBody none s
/-- ANSTEP (R114, R115). -/
def execAnstep (op : DisOp) (s : State) : Res := disRun op accAnStep 0x5A anstepBody none s
/-- MOVB (R132). -/
def execMovb (op : DisOp) (s : State) : Res := disLong op accLong 0x80 (longBody .mov) s
/-- FILLB (R132). -/
def execFillb (op : DisOp) (s : State) : Res := disLong op accLong 0x81 (longBody .fill) s
/-- CRCB (R132). -/
def execCrcb (op : DisOp) (s : State) : Res := disLong op accLong 0x82 (longBody .crc) s
/-- CMPB (R132). -/
def execCmpb (op : DisOp) (s : State) : Res := disLong op accLong 0x83 (longBody .cmp) s
/-- LDD: → v at the anchor's address with d = sx(i) (R120). -/
def execLdd (op : DisOp) (imm : Imm) (s : State) : Res := disImm op accAnLoad 0xD0 imm (anLoadBody false false true) none s
/-- STD: v → at the anchor's address with d = sx(i) (R120). -/
def execStd (op : DisOp) (imm : Imm) (s : State) : Res := disImm op accAnStore 0xD4 imm (anStoreBody false true) none s

end Sys2Proof.Machine
end

