-- ==== Sys2Proof/Machine/DisSystem.lean ====
section
/-! DEFINITION. The system, decimal and floating pages (04_dravaesor_isa.md R121, R136-R140; 11_exceptions_privilege.md;
13_arithmetic.md R370-R376): turrets only. -/
namespace Sys2Proof.Machine

/-- SYNC.I (R136, R137). -/
def execSyncI (op : DisOp) (s : State) : Res := disRun op accSys 0x00 syncIBody none s
/-- SYNC.C (R139). -/
def execSyncC (op : DisOp) (s : State) : Res := disRun op accSys 0x01 syncCBody none s
/-- GATE (R339). -/
def execGate (op : DisOp) (s : State) : Res := disRun op accSys 0x02 gateBody none s
/-- RETE (R338). -/
def execRete (op : DisOp) (s : State) : Res := disRun op accSys 0x03 reteBody none s
/-- CSW (R122). -/
def execCsw (op : DisOp) (s : State) : Res := disRun op accSys 0x04 cswBody none s
/-- WAIT (R122, R335). -/
def execWait (op : DisOp) (s : State) : Res := disRun op accSys 0x05 waitBody none s
/-- CHKST (R363). -/
def execChkst (op : DisOp) (s : State) : Res :=
  match op.ex with
  | .turret n => turretRun s n { acc := accSys, digest := true, body := chkstBody } op
  | .spire n c => spireRun s n c accSys 0x06 false { size := 0, value := 0 } op .none false none
/-- BANKRD (R343). -/
def execBankrd (op : DisOp) (s : State) : Res := disRun op accSys 0x07 bankrdBody none s
/-- BANKWR (R343). -/
def execBankwr (op : DisOp) (s : State) : Res := disRun op accSys 0x08 bankwrBody none s
/-- A system instruction whose 1-byte immediate names a control register (R121). -/
def disReg (op : DisOp) (opc : Nat) (r : BitVec 8) (b : Body) (s : State) : Res :=
  disImm op accSys opc { size := 0, value := r.zeroExtend 64 } b none s
/-- MFCR: → control register i (R138). -/
def execMfcr (op : DisOp) (reg : BitVec 8) (s : State) : Res := disReg op 0xC0 reg (mfcrBody reg.toNat) s
/-- MTCR: x → control register i (R138). -/
def execMtcr (op : DisOp) (reg : BitVec 8) (s : State) : Res :=
  let i : Imm := { size := 0, value := reg.zeroExtend 64 }
  match op.ex with
  | .turret n => turretRun s n { acc := accSys, hasImm := true, imm := i, mtcr := true, body := mtcrBody reg.toNat } op
  | .spire n c => spireRun s n c accSys 0xC4 true i op .none false none
/-- DADD (R370). -/
def execDadd (op : DisOp) (s : State) : Res := disRun op accDec 0x00 (decAddBody false) none s
/-- DSUB (R370). -/
def execDsub (op : DisOp) (s : State) : Res := disRun op accDec 0x01 (decAddBody true) none s
/-- DCHK (R370). -/
def execDchk (op : DisOp) (s : State) : Res := disRun op accDec 0x02 decChkBody none s
/-- DTOB (R370). -/
def execDtob (op : DisOp) (s : State) : Res := disRun op accDec 0x03 dtobBody none s
/-- BTOD (R370). -/
def execBtod (op : DisOp) (s : State) : Res := disRun op accDec 0x04 btodBody none s
/-- FADD (R371-R376). -/
def execFadd (op : DisOp) (s : State) : Res := disRun op accFlt 0x00 (flt2 fAddV) none s
/-- FSUB (R371-R376). -/
def execFsub (op : DisOp) (s : State) : Res := disRun op accFlt 0x01 (flt2 fun m rm a b => fAddV m rm a (fNeg b)) none s
/-- FMUL (R371-R376). -/
def execFmul (op : DisOp) (s : State) : Res := disRun op accFlt 0x02 (flt2 fMulV) none s
/-- FDIV (R371-R376). -/
def execFdiv (op : DisOp) (s : State) : Res := disRun op accFlt 0x03 (flt2 fDivV) none s
/-- FSQRT (R371-R376). -/
def execFsqrt (op : DisOp) (s : State) : Res := disRun op accFlt 0x04 (fltBody 1 fun m rm c => fSqrtV m rm (fDecode m (fOp m (c.getD 0 0)))) none s
/-- FMA (R371-R376). -/
def execFma (op : DisOp) (s : State) : Res := disRun op accFlt 0x05 fmaBody none s
/-- FMIN (R371-R376). -/
def execFmin (op : DisOp) (s : State) : Res := disRun op accFlt 0x06 (fltMinMax false) none s
/-- FMAX (R371-R376). -/
def execFmax (op : DisOp) (s : State) : Res := disRun op accFlt 0x07 (fltMinMax true) none s
/-- FEQ (R371-R376). -/
def execFeq (op : DisOp) (s : State) : Res := disRun op accFlt 0x08 (fltCmp .eq) none s
/-- FLT (R371-R376). -/
def execFlt (op : DisOp) (s : State) : Res := disRun op accFlt 0x09 (fltCmp .lt) none s
/-- FLE (R371-R376). -/
def execFle (op : DisOp) (s : State) : Res := disRun op accFlt 0x0A (fltCmp .le) none s
/-- FNEG (R371-R376). -/
def execFneg (op : DisOp) (s : State) : Res := disRun op accFlt 0x0B (fltSign true) none s
/-- FABS (R371-R376). -/
def execFabs (op : DisOp) (s : State) : Res := disRun op accFlt 0x0C (fltSign false) none s
/-- FCLASS (R371-R376). -/
def execFclass (op : DisOp) (s : State) : Res := disRun op accFlt 0x0D (fltBody 1 fun m _ c => (fClass m (fOp m (c.getD 0 0)), 0)) none s
/-- FCVT.I (R371-R376). -/
def execFcvtI (op : DisOp) (s : State) : Res := disRun op accFlt 0x0E (fltBody 1 fun m rm c => fToInt m rm (fOp m (c.getD 0 0))) none s
/-- FCVT.F (R371-R376). -/
def execFcvtF (op : DisOp) (s : State) : Res := disRun op accFlt 0x0F (fltBody 1 fun m rm c => fFromInt m rm (c.getD 0 0).toNat) none s
/-- FWIDEN (R371-R376). -/
def execFwiden (op : DisOp) (s : State) : Res := disRun op accFlt0 0x10 (fltBody 1 fun _ rm c => fConvert f32 f64 rm (fOp f32 (c.getD 0 0))) none s
/-- FNARROW (R371-R376). -/
def execFnarrow (op : DisOp) (s : State) : Res := disRun op accFlt0 0x11 (fltBody 1 fun _ rm c => fConvert f64 f32 rm (c.getD 0 0).toNat) none s

end Sys2Proof.Machine
end

