-- ==== Sys2Proof/Machine/DisVector.lean ====
section
/-! DEFINITION. The vector page (06_spire_operations.md R179-R202): spire contexts only; on a turret its prefix is illegal (R163). -/
namespace Sys2Proof.Machine

/-- The vector page accepts no prefix but F8 (R179). -/
def accVec : Acc := { page := 0xF8 }
/-- On a turret every vector-page instruction raises an illegal-instruction fault (R163). -/
def vecIllegal : Body := illegalBody
/-- A vector-page instruction. -/
def disVec (op : DisOp) (opc : Nat) (w : Waits) (b : SBody) (s : State) : Res :=
  match op.ex with
  | .turret n => turretRun s n { acc := accVec, body := vecIllegal } op
  | .spire n c => spireRun s n c accVec opc false { size := 0, value := 0 } op w false (some b)
/-- VDGET and VDSET with their 1-byte immediate (R181). -/
def disField (op : DisOp) (opc : Nat) (f : BitVec 8) (b : SBody) (s : State) : Res :=
  match op.ex with
  | .turret n => turretRun s n { acc := accVec, hasImm := true, imm := { size := 0, value := f.zeroExtend 64 }, body := vecIllegal } op
  | .spire n c => spireRun s n c accVec opc true { size := 0, value := f.zeroExtend 64 } op .none false (some b)
/-- An element instruction. -/
def disElem (op : DisOp) (opc : Nat) (v : VOp) (s : State) : Res := disVec op opc .none (elemS v) s

def execVdld (op : DisOp) (s : State) : Res := disVec op 0x00 .none vdldS s
def execVdst (op : DisOp) (s : State) : Res := disVec op 0x01 .none vdstS s
def execVddrop (op : DisOp) (s : State) : Res := disVec op 0x02 .none vddropS s
def execVddup (op : DisOp) (s : State) : Res := disVec op 0x03 .none vddupS s
def execVdswap (op : DisOp) (s : State) : Res := disVec op 0x04 .none vdswapS s
def execVgo (op : DisOp) (s : State) : Res := disVec op 0x05 .group vgoS s
def execVwait (op : DisOp) (s : State) : Res := disVec op 0x06 .group vwaitS s
def execVend (op : DisOp) (s : State) : Res := disVec op 0x07 .group vendS s
def execVldc (op : DisOp) (s : State) : Res := disVec op 0x08 .none vldcS s
def execVstc (op : DisOp) (s : State) : Res := disVec op 0x09 .none vstcS s
/-- VCGET: the disturbed word is the coefficient-RAM word (R183). -/
def execVcget (op : DisOp) (s : State) : Res :=
  match op.ex with
  | .turret n => turretRun s n { acc := accVec, body := vecIllegal } op
  | .spire n c => spireRun s n c accVec 0x0A false { size := 0, value := 0 } op .none true (some vcgetS)
def execVcput (op : DisOp) (s : State) : Res := disVec op 0x0B .none vcputS s
def execVmbring (op : DisOp) (s : State) : Res := disVec op 0x0C .none vmbringS s
def execVmbwait (op : DisOp) (s : State) : Res := disVec op 0x0D .mailbox vmbwaitS s
def execVonf (op : DisOp) (s : State) : Res := disVec op 0x0E .none vonfS s
def execVfrec (op : DisOp) (s : State) : Res := disVec op 0x0F .none vfrecS s
def execVfdesc (op : DisOp) (s : State) : Res := disVec op 0x10 .none vfdescS s
def execVresume (op : DisOp) (s : State) : Res := disVec op 0x11 .none vresumeS s
def execVdget (op : DisOp) (field : BitVec 8) (s : State) : Res := disField op 0xC0 field vdgetS s
def execVdset (op : DisOp) (field : BitVec 8) (s : State) : Res := disField op 0xC4 field vdsetS s
def execVadd (op : DisOp) (s : State) : Res := disElem op 0x20 .vadd s
def execVsub (op : DisOp) (s : State) : Res := disElem op 0x21 .vsub s
def execVadds (op : DisOp) (s : State) : Res := disElem op 0x22 .vadds s
def execVsubs (op : DisOp) (s : State) : Res := disElem op 0x23 .vsubs s
def execVaddus (op : DisOp) (s : State) : Res := disElem op 0x24 .vaddus s
def execVsubus (op : DisOp) (s : State) : Res := disElem op 0x25 .vsubus s
def execVmin (op : DisOp) (s : State) : Res := disElem op 0x26 .vmin s
def execVmax (op : DisOp) (s : State) : Res := disElem op 0x27 .vmax s
def execVminu (op : DisOp) (s : State) : Res := disElem op 0x28 .vminu s
def execVmaxu (op : DisOp) (s : State) : Res := disElem op 0x29 .vmaxu s
def execVand (op : DisOp) (s : State) : Res := disElem op 0x2A .vand s
def execVor (op : DisOp) (s : State) : Res := disElem op 0x2B .vor s
def execVxor (op : DisOp) (s : State) : Res := disElem op 0x2C .vxor s
def execVandn (op : DisOp) (s : State) : Res := disElem op 0x2D .vandn s
def execVnot (op : DisOp) (s : State) : Res := disElem op 0x2E .vnot s
def execVpopc (op : DisOp) (s : State) : Res := disElem op 0x2F .vpopc s
def execVshl (op : DisOp) (s : State) : Res := disElem op 0x30 .vshl s
def execVshr (op : DisOp) (s : State) : Res := disElem op 0x31 .vshr s
def execVsar (op : DisOp) (s : State) : Res := disElem op 0x32 .vsar s
def execVrol (op : DisOp) (s : State) : Res := disElem op 0x33 .vrol s
def execVror (op : DisOp) (s : State) : Res := disElem op 0x34 .vror s
def execVcmpeq (op : DisOp) (s : State) : Res := disElem op 0x35 .vcmpeq s
def execVcmpne (op : DisOp) (s : State) : Res := disElem op 0x36 .vcmpne s
def execVcmplt (op : DisOp) (s : State) : Res := disElem op 0x37 .vcmplt s
def execVcmpltu (op : DisOp) (s : State) : Res := disElem op 0x38 .vcmpltu s
def execVsel (op : DisOp) (s : State) : Res := disElem op 0x39 .vsel s
def execVcopy (op : DisOp) (s : State) : Res := disElem op 0x3A .vcopy s
def execVfill (op : DisOp) (s : State) : Res := disElem op 0x3B .vfill s
def execVperm (op : DisOp) (s : State) : Res := disElem op 0x3C .vperm s
def execVgfmul (op : DisOp) (s : State) : Res := disElem op 0x40 .vgfmul s
def execVgfmuls (op : DisOp) (s : State) : Res := disElem op 0x41 .vgfmuls s
def execVgfmac (op : DisOp) (s : State) : Res := disElem op 0x42 .vgfmac s
def execVgfinv (op : DisOp) (s : State) : Res := disElem op 0x43 .vgfinv s
def execVgfmatx (op : DisOp) (s : State) : Res := disElem op 0x44 .vgfmatx s
def execVbfly (op : DisOp) (s : State) : Res := disElem op 0x45 .vbfly s
def execVibfly (op : DisOp) (s : State) : Res := disElem op 0x46 .vibfly s
def execVpmul (op : DisOp) (s : State) : Res := disElem op 0x47 .vpmul s
def execVcld (op : DisOp) (s : State) : Res := disElem op 0x48 .vcld s
def execVcrd (op : DisOp) (s : State) : Res := disElem op 0x49 .vcrd s
def execVcrc32c (op : DisOp) (s : State) : Res := disElem op 0x50 .vcrc32c s
def execVcrc64 (op : DisOp) (s : State) : Res := disElem op 0x51 .vcrc64 s
def execVsha256 (op : DisOp) (s : State) : Res := disElem op 0x52 .vsha256 s
def execVghash (op : DisOp) (s : State) : Res := disElem op 0x53 .vghash s
def execVaesx (op : DisOp) (s : State) : Res := disElem op 0x54 .vaesx s
def execVaesg (op : DisOp) (s : State) : Res := disElem op 0x55 .vaesg s
def execVrxor (op : DisOp) (s : State) : Res := disElem op 0x60 .vrxor s
def execVradd (op : DisOp) (s : State) : Res := disElem op 0x61 .vradd s
def execVrfmis (op : DisOp) (s : State) : Res := disElem op 0x62 .vrfmis s
def execVrnz (op : DisOp) (s : State) : Res := disElem op 0x63 .vrnz s

end Sys2Proof.Machine
end

