-- ==== Sys2Proof/Machine/DriveRows.lean ====
section
/-! DEFINITION. The commands of the drive ports and the power sets (09_drives_power_sets.md R271-R296). -/
namespace Sys2Proof.Machine

/-! ### Drive commands of the rings and of PWR (R272) -/

def execRead16 (r : Fin 48) (s : State) : Res := ok (ringServe s r.val 0x88 none)
def execWrite16 (r : Fin 48) (s : State) : Res := ok (ringServe s r.val 0x8A none)
def execLogSense (r : Fin 48) (s : State) : Res := ok (ringServe s r.val 0x4D none)
def execModeSense10 (r : Fin 48) (s : State) : Res := ok (ringServe s r.val 0x5A none)
def execModeSelect10 (r : Fin 48) (s : State) : Res := ok (ringServe s r.val 0x55 none)
def execPersistentReserveIn (r : Fin 48) (s : State) : Res := ok (ringServe s r.val 0x5E none)
def execReportZones (r : Fin 48) (s : State) : Res := ok (ringServe s r.val 0x95 (some 0))
def execCloseZone (r : Fin 48) (s : State) : Res := ok (ringServe s r.val 0x94 (some 1))
def execFinishZone (r : Fin 48) (s : State) : Res := ok (ringServe s r.val 0x94 (some 2))
def execOpenZone (r : Fin 48) (s : State) : Res := ok (ringServe s r.val 0x94 (some 3))
def execResetWritePointer (r : Fin 48) (s : State) : Res := ok (ringServe s r.val 0x94 (some 4))

/-- A command that a ring or PWR sends. -/
def sentBy (s : State) (sender : DriveFrom) (op : Nat) : State :=
  match sender with
  | .ring r => ringServe s r.val op none
  | .own p => pwrProbe s p.val op

def execInquiry (sender : DriveFrom) (s : State) : Res := ok (sentBy s sender 0x12)
def execReportLuns (sender : DriveFrom) (s : State) : Res := ok (sentBy s sender 0xA0)
def execTestUnitReady (sender : DriveFrom) (s : State) : Res := ok (sentBy s sender 0x00)
def execRequestSense (sender : DriveFrom) (s : State) : Res := ok (sentBy s sender 0x03)
/-- A ring's SYNCHRONIZE CACHE, or one that a FLUSH has waiting for a port (R244). -/
def execSynchronizeCache16 (sender : DriveFrom) (s : State) : Res :=
  ok (match sender with
    | .ring r => ringServe s r.val 0x91 none
    | .own p => opSend s fun q x => q == p.val && (match x with | .flush _ => true | _ => false))
def execStartStopUnit (s : State) : Res := ok (startStop s)
def execPersistentReserveOut (s : State) : Res :=
  ok (opSend s fun _ x => x == .register || (x == .reserve || x == .preempt))

/-- The answer a drive gives, as the port takes it. -/
def answerOf (a : DriveAnswer) : Answer :=
  { sstat := a.sstat.toNat, skey := a.skey.toNat, asc := a.asc.toNat, ascq := a.ascq.toNat, resid := a.resid.toNat, data := a.data,
    held := a.held, active := a.active }
def execDriveRequestComplete (port : Fin 240) (place : Fin 32) (answer : DriveAnswer) (s : State) : Res :=
  ok (entryGo (driveAnswer s port.val place.val (answerOf answer)))
def execCommandTimeout (port : Fin 240) (place : Fin 32) (s : State) : Res := ok (entryGo (driveTimeout s port.val place.val))

/-! ### Register writes -/

def execSaspRbaseWrite (id : MasterId) (r : Fin 48) (v : Word32) (s : State) : Res := ok (cmdReg s id 0x2FF (0x140 + 8 * r.val) v)
def execPortEn (id : MasterId) (port : Fin 240) (s : State) : Res := ok (cmdReg s id (portPage port.val) oCtl 1)
/-- A write of CTL with PRST; EN keeps its value. -/
def execPortReset (id : MasterId) (port : Fin 240) (s : State) : Res :=
  ok (cmdReg s id (portPage port.val) oCtl (w32 (2 + b2n (s.regB (portPage port.val) oCtl 0))))
def execDisable (id : MasterId) (port : Fin 240) (s : State) : Res := ok (entryGo (cmdReg s id (portPage port.val) oCtl 0))
def execLinkProgramWrite (id : MasterId) (group : Fin 30) (entry : Fin 128) (high : Bool) (v : Word32) (s : State) : Res :=
  ok (cmdReg s id (grpPage group.val) (grpOff group.val + 0x300 + 8 * entry.val + 4 * b2n high) v)
def execSpinUpRequest (id : MasterId) (set : Fin 64) (s : State) : Res := ok (cmdReg s id 0x350 0x14C (w32 (256 + set.val)))
def execSpinDownRequest (id : MasterId) (set : Fin 64) (s : State) : Res := ok (cmdReg s id 0x350 0x14C (w32 set.val))
/-- A write of the set word with REARM; DEPOWER keeps its value. -/
def execRearm (id : MasterId) (set : Fin 64) (s : State) : Res :=
  ok (cmdReg s id 0x351 (0x100 + 8 * set.val) (w32 (2 + b2n (s.regB 0x351 (0x100 + 8 * set.val) 0))))
def execFenceRegister (id : MasterId) (s : State) : Res := ok (cmdReg s id 0x2FF 0x110 1)
def execPreempt (id : MasterId) (s : State) : Res := ok (cmdReg s id 0x2FF 0x110 2)
def execPwrDreqWrite (id : MasterId) (word : Fin 6) (v : Word32) (s : State) : Res := ok (cmdReg s id 0x350 (0x100 + 4 * word.val) v)

/-! ### Events of the link programs (R279, R280) -/

/-- An event reaches a port whose group has power. -/
def portEvent (s : State) (p ev : Nat) : State := if s.dom (pdSasg (p / 8)) then entryGo (linkEvent s p ev) else s

/-- The state's timer has run out, if it was running. -/
def execTimeout (port : Fin 240) (s : State) : Res := ok (if (s.port port.val).timer then portEvent s port.val 3 else s)
def execCominitRx (port : Fin 240) (s : State) : Res := ok (portEvent s port.val 4)
def execComsasRx (port : Fin 240) (s : State) : Res := ok (portEvent s port.val 5)
def execComwakeRx (port : Fin 240) (s : State) : Res := ok (portEvent s port.val 6)
def execSnwPass (port : Fin 240) (s : State) : Res := ok (portEvent s port.val 7)
def execSnwFail (port : Fin 240) (s : State) : Res := ok (portEvent s port.val 8)
/-- IDENTIFY: the drive's SAS address shows in SASP_DRV (R294). -/
def execIdentRx (port : Fin 240) (addr : BitVec 64) (s : State) : Res :=
  ok (if s.dom (pdSasg (port.val / 8)) then
    portEvent ((s.setReg (portPage port.val) 0x100 (w32 addr.toNat)).setReg (portPage port.val) 0x104 (w32 (addr.toNat / 2 ^ 32))) port.val 9
  else s)
def execSataSig (port : Fin 240) (s : State) : Res := ok (portEvent s port.val 0x0A)
/-- Loss of dword synchronization counts in SASP_LINKERR (R294). -/
def execDwsyncLost (port : Fin 240) (s : State) : Res :=
  ok (if s.dom (pdSasg (port.val / 8)) then
    portEvent (s.setRegF (portPage port.val) 0x114 0 16 (satAdd (s.regF (portPage port.val) 0x114 0 16) 1 0xFFFF)) port.val 0x0B
  else s)
def execHardResetRx (port : Fin 240) (s : State) : Res := ok (portEvent s port.val 0x0C)
def execBayOff (port : Fin 240) (s : State) : Res := ok (if s.dom (pdSasg (port.val / 8)) then entryGo (bayOff s port.val) else s)
def execErrRate (port : Fin 240) (s : State) : Res := ok (if s.dom (pdSasg (port.val / 8)) then entryGo (errRate s port.val) else s)
def execInvalidDword (port : Fin 240) (s : State) : Res := ok (if s.dom (pdSasg (port.val / 8)) then invalidDword s port.val else s)

/-! ### Bays and sets (R282-R291) -/

def execPresenceChange (port : Fin 240) (seated : Bool) (s : State) : Res := ok (entryGo (presenceChange s port.val seated))
def execBayPowerOn (s : State) : Res := ok (bayPowerOn s)
def execLinkUpTimeout (port : Fin 240) (s : State) : Res := ok (entryGo (linkUpTimeout s port.val))
def execSputmoExpiry (port : Fin 240) (s : State) : Res := ok (entryGo (sputmo s port.val))
def execAdmission (s : State) : Res := ok (admission s)
/-- The update of R290; without a half-cycle boundary's measurement of its own there is nothing to update. -/
def execFeedbackUpdate (s : State) : Res := ok (feedbackUpdate s)

/-! ### The end of a command (R256) -/

def execCompletionWrite (entry : BitVec 13) (s : State) : Res := ok (entryGo (completionWrite s entry.toNat))

end Sys2Proof.Machine
end

