-- ==== Sys2Proof/Machine/Image.lean ====
section
/-! DEFINITION. The configuration image: its checks, its register-write table, microcode, patches and link program
(16_startup.md R434-R440). -/
namespace Sys2Proof.Machine

/-! ### The NOR die and the image's parts (R434, R435) -/

/-- Memory key of the NOR die's first byte, and the offset of a slot. -/
abbrev norBase : Nat := 2 ^ 51
def slotKey (k : Nat) : Nat := norBase + 0x4000000 * k

/-- A section: type, length, load address, offset in the image. -/
structure Sect where
  type : Nat
  flags : Nat
  len : Nat
  load : Nat
  off : Nat
deriving DecidableEq, Repr

/-- The next multiple of 64. -/
def align64 (n : Nat) : Nat := (n + 63) / 64 * 64

/-- The sections in table order, each on a 64-byte boundary. -/
def sections (h : List Byte) : Nat → Nat → Nat → List Sect
  | 0, _, _ => []
  | n + 1, i, off =>
    let e := (h.drop (0x40 + 16 * i)).take 16
    { type := leAt e 0 1, flags := leAt e 1 1 + leAt e 2 2 * 256, len := leAt e 4 4, load := leAt e 8 8, off := off } ::
      sections h n (i + 1) (align64 (off + leAt e 4 4))

/-- An image that has passed checks 1 to 6. -/
structure Image where
  svn : Nat
  secs : List Sect
  /-- Decrypted body; it starts at offset 0x400 of the image. -/
  body : List Byte
deriving DecidableEq, Repr

/-- Bytes of a section. -/
def Image.sect (m : Image) (x : Sect) : List Byte := (m.body.drop (x.off - 0x400)).take x.len
/-- The sections of a type. -/
def Image.ofType (m : Image) (t : Nat) : List Sect := m.secs.filter fun x => x.type == t
/-- The first section of a type. -/
def Image.first (m : Image) (t : Nat) : List Byte :=
  match m.ofType t with
  | x :: _ => m.sect x
  | [] => []

/-- A fused SHA-256, 8 words from an offset of page 0x001, word 0 first. -/
def fuseHash (s : State) (off : Nat) : List Byte := ((rangeFrom 0 8).map fun i => beBytes 4 (s.reg 1 (off + 4 * i)).toNat).flatten

/-- A P-384 signature over a digest: key X, Y and signature r, s of 48 bytes each, most significant first. -/
def sigOk (key sig digest : List Byte) : Bool :=
  ecVerify p384 (beAt key 0 48) (beAt key 48 48) (ofBE digest) (beAt sig 0 48) (beAt sig 48 48)

/-- A LOAD section targets scratch or the turret-TCM alias (R436). -/
def loadOk (x : Sect) : Bool :=
  decide (scrBase ≤ x.load ∧ x.load + x.len ≤ scrBase + 0x4000000) || decide (aliasBase ≤ x.load ∧ x.load + x.len ≤ aliasBase + 0x800000)

/-- Checks 1 to 6 of R436 on an image whose first `n` bytes `get n` gives. -/
def imageCheck (s : State) (get : Nat → List Byte) : Option Image :=
  let h := get 0x400
  let len := leAt h 0x00C 4
  let nsec := leAt h 0x030 4
  let own := leAt h 0x006 2
  if leAt h 0 4 ≠ 0x49584354 ∨ leAt h 4 2 ≠ 1 ∨ len < 0x400 ∨ 0x2000000 < len ∨ len % 64 ≠ 0 ∨ nsec = 0 ∨ 32 < nsec then none
  else if 1 < own ∨ sha256 ((h.drop 0x240).take 96) ≠ fuseHash s (0x120 + 32 * own) ∨ s.regB 1 0x118 (2 + own) = true then none
  else if leAt h 0x008 4 < s.regF 1 0x11C 0 6 then none
  else
    let stored := (get len).drop 0x400
    if sigOk ((h.drop 0x240).take 96) ((h.drop 0x300).take 96) (sha256 (h.take 0x300 ++ stored)) = false then none
    else
      let g := gcm s.boot.kimg ((h.drop 0x010).take 12) (h.take 16) stored true
      if g.2 ≠ (h.drop 0x020).take 16 then none
      else
        let secs := sections h nsec 0 0x400
        let one := fun t => (secs.filter fun x => x.type == t).length == 1
        if secs.all (fun x => x.flags == 0 && (decide (x.off + x.len ≤ len ∧ 1 ≤ x.type ∧ x.type ≤ 5 ∧ x.load < 2 ^ 48) && (x.type != 4 || loadOk x))) &&
          (one 1 && (one 2 && one 5)) then some { svn := leAt h 0x008 4, secs := secs, body := g.1 }
        else none

/-! ### The register-write table (R437) -/

/-- Copies bytes to an address by writes of at most 64 bytes that do not cross a line; false on a bus error. -/
def loadBytes (s : State) (a : Nat) (d : List Byte) : Nat → State × Bool
  | 0 => (s, true)
  | n + 1 =>
    if d.isEmpty then (s, true)
    else
      let k := min d.length (64 - a % 64)
      let r := busWrite s keepId a (d.take k)
      if r.2.isNone then loadBytes r.1 (a + k) (d.drop k) n else (r.1, false)

/-- A 32-bit write of the Keep core; false on a bus error. -/
def keepPut (s : State) (a v : Nat) : State × Bool :=
  let r := busWrite s keepId a (leBytes 4 v)
  (r.1, r.2.isNone)
/-- The word that a read answered; none on a bus error or poison. -/
def goodWord : RdAns → Option Nat
  | .ok (d, false) => some (ofLE d)
  | _ => none
/-- A 32-bit read of the Keep core. -/
def keepGet (s : State) (a : Nat) : State × Option Nat :=
  let r := busRead s keepId a 4
  (r.1, goodWord r.2)

/-- OP, COLD, ADDR, VALUE, ARG of an entry. -/
def tabOp (e : List Byte) : Nat := fld (leAt e 0 2) 0 4
def tabCold (e : List Byte) : Bool := bit (leAt e 0 2) 4
def tabAddr (e : List Byte) : Nat := leAt e 2 6
def tabValue (e : List Byte) : Nat := leAt e 8 4
def tabArg (e : List Byte) : Nat := leAt e 12 4

/-- Two writes, the second only after a first without a bus error. -/
def keepPut2 (s : State) (a v w : Nat) : State × Bool :=
  let r := keepPut s a v
  if r.2 then keepPut r.1 a w else r

/-- A POLL whose read showed `x`: it holds, or the next of `polls` says that it comes true within 10 ms. -/
def pollEnd (x mask want : Nat) (polls : List Bool) : Option (List Bool) :=
  if x &&& mask = want then some polls else if polls.headD false then some (polls.drop 1) else none

/-- One entry: the state it leaves, and what is left of `polls`, or none where it fails; `polls` says of each POLL whose first read does
not show the value whether it comes true. -/
def tabEntry (m : Image) (s : State) (polls : List Bool) (e : List Byte) : State × Option (List Bool) :=
  let a := tabAddr e
  let fin := fun (r : State × Bool) => (r.1, if r.2 then some polls else none)
  match tabOp e with
  | 1 => fin (keepPut s a (tabValue e))
  | 2 =>
    let r := keepGet s a
    (match r.2 with
    | some old => fin (keepPut r.1 a ((old &&& (0xFFFFFFFF - tabArg e)) ||| (tabValue e &&& tabArg e)))
    | none => (r.1, none))
  | 3 =>
    let r := keepGet s a
    (r.1, r.2.bind fun x => pollEnd x (tabArg e) (tabValue e) polls)
  | 4 => (s, some polls)
  | 5 => fin (keepPut2 s (regAddr (fld a 12 12) 0x020) 0x5A17 0xA5E8)
  | 6 =>
    (match m.secs[tabValue e]? with
    | some x => fin (loadBytes s x.load (m.sect x) (x.len + 1))
    | none => (s, none))
  | _ => (s, none)

/-- The table: the state it leaves, and the bytes up to and including END with the entries that were applied, or none where it fails.
`cold`: COLD entries are applied. -/
def tabRun (m : Image) (cold : Bool) (s : State) (polls : List Bool) (done did : List Byte) :
    List (List Byte) → State × Option (List Byte × List Byte)
  | [] => (s, none)
  | e :: t =>
    if tabOp e = 15 then (s, some (done ++ e, did))
    else if tabCold e && !cold then tabRun m cold s polls (done ++ e) did t
    else
      let r := tabEntry m s polls e
      (match r.2 with
      | some p1 => tabRun m cold r.1 p1 (done ++ e) (did ++ e) t
      | none => (r.1, none))

/-- Stores a SHA-256 in 8 words from an offset of a page, word 0 first. -/
def putHash (s : State) (page off : Nat) (h : List Byte) : State :=
  (rangeFrom 0 8).foldl (fun t i => t.setReg page (off + 4 * i) (w32 (beAt h (4 * i) 4))) s

/-! ### Vendor sections (R438, R440) -/

/-- The payload of a vendor section whose key and signature hold. -/
def vendorPayload (s : State) (x : List Byte) : Option (List Byte) :=
  let k := leAt x 0 1
  let key := (x.drop 0x40).take 96
  if k ≤ 1 ∧ sha256 key = fuseHash s (0x160 + 32 * k) ∧ s.regB 1 0x118 k = false ∧
    sigOk key ((x.drop 0xA0).take 96) (sha256 (x.take 0xA0 ++ x.drop 0x100)) = true then some (x.drop 0x100)
  else none

/-- Applies patch records of 36 bytes; none where an index is 16,384 or more. -/
def patchApply (w : List Byte) (p : List Byte) : Nat → Option (List Byte)
  | 0 => some w
  | n + 1 =>
    if 16384 ≤ leAt p 0 4 then none
    else patchApply (listPut w (leAt p 0 4 * 32) ((p.drop 4).take 32)) (p.drop 36) n

/-- The patch sections in order. -/
def patchAll (s : State) (w : List Byte) (ver : Nat) : List (List Byte) → Option (List Byte × Nat)
  | [] => some (w, ver)
  | x :: t =>
    match vendorPayload s x with
    | none => none
    | some p =>
      let g := gcm s.boot.kpatch ((x.drop 0x10).take 12) [] p true
      if g.2 ≠ (x.drop 0x20).take 16 ∨ p.length ≠ leAt x 8 4 * 36 then none
      else match patchApply w g.1 (leAt x 8 4) with
        | some w1 => patchAll s w1 (ver / 65536 * 65536 + leAt x 4 2) t
        | none => none

/-- The microcode with its patches, and SPR_CSVER. -/
def microcode (s : State) (m : Image) : Option (List Byte × Nat) :=
  let x := m.first 2
  match vendorPayload s x with
  | some w => if w.length = 524288 ∧ leAt x 8 4 = 16384 then patchAll s w (leAt x 4 2 * 65536) ((m.ofType 3).map m.sect) else none
  | none => none

/-- A VALID link-program entry names only what R279 and R280 list. -/
def linkEntryOk (x : Nat) : Bool :=
  !(bit x 63) || decide (lkState x ≤ 12 ∧ lkEvent x ≤ 15 ∧ lkNext x ≤ 12 ∧ lkAction x ≤ 11)
/-- The link program: 96 entries and its version. -/
def linkProgram (s : State) (m : Image) : Option (List Nat × Nat) :=
  let x := m.first 5
  match vendorPayload s x with
  | some p =>
    let l := (rangeFrom 0 96).map fun i => leAt p (8 * i) 8
    if p.length = 768 ∧ leAt x 8 4 = 96 ∧ l.all linkEntryOk = true then some (l, leAt x 4 2) else none
  | none => none

/-- The Keep loader fills the tables of every port group (R278, R294). -/
def linkFillAll (s : State) (prog : List Nat) (ver : Nat) : State :=
  (rangeFrom 0 30).foldl (fun t g =>
    ((linkFill t g prog).setReg (grpPage g) (grpOff g + 8) (w32 ver)).setRegF (grpPage g) (grpOff g) 31 1 1) s

/-- The image is in use: its control-store contents, link program and the applied entries of its register-write table are kept. -/
def imageUse (s : State) (u : List Byte × Nat) (l : List Nat × Nat) (tab : List Byte) : State :=
  { s with boot := { s.boot with ucode := u.1, csver := u.2, linkprog := l.1, lpver := l.2, regtab := tab } }

/-- The link tables are filled where the link program passes. -/
def linkFillOk (s : State) : Option (List Nat × Nat) → State
  | some l => linkFillAll s l.1 l.2
  | none => s

/-- Applies an image: the link tables, the register-write table with the configuration digest, then the microcode, the patches and the
link program (checks 7 and 8); whether it passed, and the state it leaves (R432, R436). -/
def imageApply (s : State) (m : Image) (cold : Bool) (polls : List Bool) : State × Bool :=
  let l := linkProgram s m
  let r := tabRun m cold (linkFillOk s l) polls [] [] (chunks 16 65536 (m.first 1))
  match r.2, l, microcode s m with
  | some t, some l, some u => ((putHash (imageUse r.1 u l t.2) 0x324 0x150 (sha256 t.1)).setReg 0 0x114 (w32 m.svn), true)
  | _, _, _ => (r.1, false)

end Sys2Proof.Machine
end

