-- ==== Sys2Proof/Machine/FaultRows.lean ====
section
/-! DEFINITION. Comparator firings and lasting-fault declarations (02_belfry_timers.md R60-R63; 14_events_faults.md R402-R405). -/
namespace Sys2Proof.Machine

/-! ### COMPARATOR_FIRE (R60, R63) -/

/-- The route action of comparator `c`; `late` for a firing past its target. -/
def routeAction (s : State) (c : Nat) (late : Bool) : State :=
  if c = 0 then heartbeat s
  else if c = 1 then { s with fwTicks := s.fwTicks + 1 }
  else if c = 2 then (if s.cup.ready then s.setCup { s.cup with align := some (s.belf.cycle.toNat % 2 ^ 32) } else s)
  else if 32 ≤ c then pwrFire s (c - 32) late
  else s
def comparatorFire (s : State) (c : Nat) : State :=
  if bcmpDue s c then routeAction (bcmpFired s c) c (decide (s.bcmpTarget c < s.time)) else s
def execComparatorFire (c : Fin 64) (s : State) : Res := ok (comparatorFire s c.val)

/-! ### SYNCHRONOUS_TICK (R353), with what the blocks find in their own words since the last one -/

/-- The pages whose correctable events no other command raises: corrected words and parity errors of the block (R104, R268, R321, R391,
R398, R400, R404), FCS errors of a MG port (R321). A page whose domain is off counts nothing. -/
def innerCounted (page : Nat) : Bool :=
  match pageBlock page with
  | some (.keep, _) => true
  | some (.belf, _) => true
  | some (.tmr, _) => true
  | some (.evt, _) => true
  | some (.mbx, _) => true
  | some (.lck, _) => true
  | some (.bus, _) => true
  | some (.lant, _) => true
  | some (.pwr, _) => true
  | some (.cupw, _) => true
  | some (.qst, _) => true
  | some (.mgmt, _) => true
  | some (.memc, n) => n == 0
  | some (.sasp, n) => 240 ≤ n
  | some (.ethp, n) => n == 8
  | some (.pair, n) => 4 ≤ n
  | _ => false

/-- One disturbance (R268, R321, R391, R393, R404). -/
def innerUpset (s : State) : InnerUpset → State
  | .counted page => if innerCounted page.toNat && s.pageOn page.toNat then s.correctable page.toNat else s
  | .route e bits => routeUpset s e.val bits
  | .message c b place bits => messageUpset s c.val b place.val bits

def execSynchronousTick (faults : List InnerUpset) (s : State) : Res := ok (faults.foldl innerUpset (syncTick s))

/-! ### LASTING_FAULT_DECLARATION (R402, R404) -/

/-- ACTION of a page's declaration (R404, R406). -/
def lastingCode (page : Nat) : Nat :=
  if 0xC0 ≤ page ∧ page < 0x100 then 1
  else if 0x160 ≤ page ∧ page < 0x168 then 2
  else if 0x1A0 ≤ page ∧ page < 0x1AC then 3
  else if 0x200 ≤ page ∧ page < 0x2F0 then 4
  else if 0x2F0 ≤ page ∧ page < 0x2FF then 5
  else if (0x300 ≤ page ∧ page < 0x308) ∨ ((0x320 ≤ page ∧ page < 0x324) ∨ (0x340 ≤ page ∧ page < 0x342)) then 4
  else 0

/-- A core's lasting fault: a core in split mode is held and loses its domain; a lockstep pair goes offline (R361, R404). -/
def turLasting (s : State) (n : Fin 8) : State :=
  if s.lockstep n then pairOffline s (pairOf n)
  else
    let s1 := (s.setDom (pdCmp (pairOf n).val) false).setRegF (0x1A0 + n.val) oCtl 0 1 1
    turOff (sideReset s1 [n.val]) n

/-- The address lies in the link tables of a group page. -/
def inTables (page a : Nat) : Bool :=
  a / 4096 == 0xF00000 + page && (match grpOf (page - 0x200) (a % 4096) with
    | some (_, sub) => decide (0x300 ≤ sub)
    | none => false)

/-- A write of the register-write table to a link table, performed again by the loader. -/
def tableAgain (page : Nat) (s : State) (e : List Byte) : State :=
  let a := tabAddr e
  if inTables page a then
    match grpOf (page - 0x200) (a % 4096) with
    | some (g, sub) =>
      let put := fun (v : Nat) => (linkWrite s g ((sub - 0x300) / 8) (sub % 8 == 4) (w32 v)).1
      let old := (linkRead s g ((sub - 0x300) / 8) (sub % 8 == 4)).toNat
      if tabOp e = 1 then put (tabValue e)
      else if tabOp e = 2 then put ((old &&& (0xFFFFFFFF - tabArg e)) ||| (tabValue e &&& tabArg e))
      else s
    | none => s
  else s

/-- The Keep loader reloads both tables of a group page (R294). -/
def tablesReload (s : State) (page : Nat) : State :=
  let g := 2 * (page - 0x2F0)
  (chunks 16 65536 s.boot.regtab).foldl (tableAgain page) (linkFill (linkFill s g s.boot.linkprog) (g + 1) s.boot.linkprog)

/-- The action of R404 for a page. -/
def lastingAction (s : State) (page : Nat) : State :=
  match lastingCode page with
  | 1 => spareLasting s (page - 0xC0)
  | 2 => if h : page - 0x160 < 8 then s.fenceSpire ⟨page - 0x160, h⟩ else s
  | 3 => if h : page - 0x1A0 < 8 then turLasting s ⟨page - 0x1A0, h⟩
         else if h2 : page - 0x1A8 < 4 then pairOffline s ⟨page - 0x1A8, h2⟩ else s
  | 4 => if page < 0x2F0 then portLasting s (page - 0x200) else linkLasting s page
  | 5 => tablesReload s page
  | _ => s

/-- The declaration of a page that has signalled (R402). -/
def lastingFault (s : State) (page : Nat) : State :=
  if (s.err page).signal then selfStopTest (lastingAction (declareLog s page 1 (lastingCode page) 0) page) else s
def execLastingFaultDeclaration (page : BitVec 12) (s : State) : Res := ok (entryGo (lastingFault s page.toNat))

end Sys2Proof.Machine
end

