-- ==== Sys2Proof/Machine/PairRows.lean ====
section
/-! DEFINITION. The commands of the shelf transport, the management ports and the pair (10_transport_pair.md R297-R320). -/
namespace Sys2Proof.Machine

/-! ### CST frames and timers (R301-R304) -/

def execReq (port : Fin 8) (frame : List Byte) (s : State) : Res := ok (cstFrame s port.val frame 1)
def execData (port : Fin 8) (frame : List Byte) (s : State) : Res := ok (cstFrame s port.val frame 3)
def execCredit (port : Fin 8) (frame : List Byte) (s : State) : Res := ok (cstFrame s port.val frame 4)
def execRack (port : Fin 8) (frame : List Byte) (s : State) : Res := ok (cstFrame s port.val frame 6)
def execCreditTimer (win : Fin 4096) (s : State) : Res := ok (creditTimer s win.val)
def execOutboundCompletion (q : BitVec 18) (s : State) : Res := ok (outComplete s q.toNat)
def execDataRetransmit (win : Fin 4096) (page : Nat) (s : State) : Res := ok (dataRetransmit s win.val page)
def execResp (win : Fin 4096) (s : State) : Res := ok (respAgain s win.val)
def execSlowPathRx (port : Fin 8) (frame : List Byte) (s : State) : Res := ok (slowRx s port.val frame)
def execSlowPathTx (id : MasterId) (port : Fin 8) (v : Word32) (s : State) : Res := ok (cmdReg s id (ethPage port.val) 0x144 v)
def execPriorityFlowControl (port : Fin 8) (prio : Fin 8) (pause : Bool) (s : State) : Res := ok (pfcRx s port.val prio.val pause)

/-! ### Link state (R321) -/

def execPortCameUp (port : Fin 10) (sub : Fin 2) (s : State) : Res := ok (portCameUp s port.val sub.val)
def execPortWentDown (port : Fin 10) (sub : Fin 2) (s : State) : Res := ok (portDownEdge s (linkPage port.val) sub.val)
def execFecCorrectedCodeword (port : Fin 8) (s : State) : Res :=
  ok (if s.regB (ethPage port.val) oCtl 0 && s.dom (pdEth port.val) then s.correctable (ethPage port.val) else s)

/-! ### Management requests (R313, R447) -/

/-- Identity of the management DMA (R22). -/
abbrev mgmtId : MasterId := 22

/-- One operation: the state and its 16 bytes in the answer. In recovery only KEEP pages 0x000 and 0x003 are served. -/
def mreqOp (s : State) (b : List Byte) : State × List Byte :=
  let a := beAt b 2 6
  let cause := fun (c : BusCause) => listPut b 1 [byte (causeCode c)]
  if s.recovery && !(decide (a / 4096 = 0xF00000 ∨ a / 4096 = 0xF00003)) then (s, cause .identity)
  else if leAt b 0 1 = 2 then
    match busWriteW s mgmtId false a (leBytes 4 (beAt b 8 4)) with
    | (s1, none) => (s1, listPut b 1 [0])
    | (s1, some c) => (s1, cause c)
  else
    match busRead s mgmtId a 4 with
    | (s1, .ok (d, _)) => (s1, listPut (listPut b 1 [0]) 8 d.reverse)
    | (s1, .error c) => (s1, cause c)

/-- The operations in order. -/
def mreqOps (s : State) : List (List Byte) → State × List Byte
  | [] => (s, [])
  | b :: t =>
    let r := mreqOp s b
    let q := mreqOps r.1 t
    (q.1, r.2 ++ q.2)

/-- 1-64 operations of 16 bytes, each a read or a write. -/
def mreqShape (f : Cst) : Bool :=
  decide (1 ≤ f.arg ∧ f.arg ≤ 64 ∧ f.payload.length = 16 * f.arg) &&
    (chunks 16 64 f.payload).all fun b => leAt b 0 1 == 1 || leAt b 0 1 == 2

/-- MREQ at port MG `k`: executed and answered, or answered again from the stored MRESP. -/
def mreqRx (s : State) (k : Nat) (peer frame : List Byte) : State :=
  match mgFrame s k frame 0x10 with
  | none => s
  | some f =>
    if !(mreqShape f) then s
    else
      let send := fun (t : State) (b : List Byte) => ({ t with out := .cst (8 + k) 0 none peer b :: t.out } : State)
      let fresh :=
        let r := mreqOps s (chunks 16 64 f.payload)
        let b := cstBytes { kind := 0x11, client := f.client, seq := f.seq, qid := f.qid, arg := f.arg, payload := r.2 }
        send { r.1 with eth := { r.1.eth with mreq := sput r.1.eth.mreq k (some ⟨f.client, f.seq, b⟩) none } } b
      match sget s.eth.mreq k none with
      | some m => if m.client = f.client ∧ m.seq = f.seq then send s m.resp else fresh
      | none => fresh
def execMreq (mg : Fin 2) (peer frame : List Byte) (s : State) : Res := ok (mreqRx s mg.val peer frame)

/-! ### Pair ports (R306, R307) -/

def execFlitRx (port : Fin 4) (flit : List Byte) (s : State) : Res := okIf (decide (flit.length = 256)) (flitRx s port.val flit)
def execFlitResend (port : Fin 4) (s : State) : Res := ok (if s.pairUp port.val then flitResend s port.val else s)
def execPairPortDown (port : Fin 4) (s : State) : Res := ok (portDownEdge s (pairPage port.val) 0)

/-! ### Messages of the pair link: the oldest message that a port has received (R308-R317) -/

def execJoin (port : Fin 4) (s : State) : Res := ok (joinRx s port.val)
def execJoinrsp (port : Fin 4) (s : State) : Res := ok (joinrspRx s port.val)
def execHb (port : Fin 4) (rtt : BitVec 16) (s : State) : Res := ok (hbRx s port.val rtt.toNat)
def execWab (port : Fin 4) (s : State) : Res := ok (wabRx s port.val)
/-- R310: the record of a JREC goes to the slot JSLOT of the sender's request, which the layout of R308 does not carry: `slot` says which
it is (log entry 53). -/
def execJrec (port : Fin 4) (slot : BitVec 16) (s : State) : Res := ok (jrecRx s port.val slot.toNat)
def execMack (port : Fin 4) (s : State) : Res := ok (mackRx s port.val)
def execQdelta (port : Fin 4) (s : State) : Res := ok (qdeltaRx s port.val)
/-- R256, R311: the completion goes on past step 2, and with it an entry to VIGIL or OFF that waits for it (R430). -/
def execDack (port : Fin 4) (s : State) : Res := ok (entryGo (dackRx s port.val))
def execRetire (port : Fin 4) (s : State) : Res := ok (retireRx s port.val)
def execPstate (port : Fin 4) (s : State) : Res := ok (pstateRx s port.val)
def execHomeset (port : Fin 4) (s : State) : Res := ok (homesetRx s port.val)
/-- R317: the winner sends the chunk at a region offset, or the loser takes one. -/
def execResync (port : Fin 4) (send : Option (BitVec 48)) (s : State) : Res :=
  ok (match send with
    | some off => resyncSend s port.val off.toNat
    | none => resyncRx s port.val)
def execResyncDone (s : State) : Res := ok (resyncDone s)
/-- R315, R322: loss releases completions, and an entry to VIGIL or OFF goes on (R430). -/
def execLoss (s : State) : Res := ok (entryGo (loss s))
def execMirrorRequest (ring : Fin 32) (s : State) : Res := ok (mirrorRequest s ring.val)
def execHomereq (id : MasterId) (v : Word32) (s : State) : Res := ok (cmdReg s id 0x324 0x12C v)

/-! ### The lease (R319, R320) -/

def execLeaseReq (s : State) : Res := ok (leaseReq s)
def execLeaseGrant (mg : Fin 2) (frame : List Byte) (elapsed : BitVec 16) (s : State) : Res := ok (leaseGrant s mg.val frame elapsed.toNat)
def execLeaseDeny (mg : Fin 2) (frame : List Byte) (s : State) : Res := ok (leaseDeny s mg.val frame)
def execLeaseLapse (s : State) : Res := ok (entryGo (leaseLapse s))

end Sys2Proof.Machine
end

