-- ==== Sys2Proof/Machine/Startup.lean ====
section
/-! DEFINITION. Cold start, device warm reset, VIGIL resume, release, supplies and wakes (16_startup.md R428-R449, R451;
17_package_electrical.md R460, R465, R469, R470). -/
namespace Sys2Proof.Machine

def State.setBoot (s : State) (b : Boot) : State := { s with boot := b }

/-! ### Failures (R434, R441, R442) -/

/-- KEEP_STAT.BOOTERR and its interrupt. -/
def bootErr (s : State) (e : Nat) : State := (s.setRegF 0 oStat 8 8 e).irqBit 0 1
/-- The Keep stops: PHASE HALTED, FAULT_N low (R467). -/
def halted (s : State) (e : Nat) : State :=
  let s1 := bootErr (s.setPhase 9) e
  s1.setBoot { s1.boot with faultLow := true }

/-! ### Steps 1 and 2 (R432, R63) -/

/-- The Keep arms BCMP00 for slot 0 and BCMP01 for slot 32, each PERIODIC with PERIOD 64, at the first start after now; their ROUTE fields,
fixed in hardware, read 1 and 2. -/
def armKeep (s : State) : State :=
  let t := s.time
  let s1 := (s.setBcmpTarget 0 ((t / 65536 + 1) * 65536)).setReg 0x11 (bcmpOff 0 + 8) 0x4007
  (s1.setBcmpTarget 1 (32768 + (32768 + t) / 65536 * 65536)).setReg 0x11 (bcmpOff 1 + 8) 0x400B

/-- Steps 1 and 2. -/
def startEarly (s : State) : State := (armKeep (((s.setDom pdFab0 true).setDom pdFab1 true).setDom pdNor true)).setPhase 1

/-! ### Recovery (R434, R447) -/

/-- The link-local address that a MAC gives (modified EUI-64), in four words. -/
def linkLocal (mac : Nat) : List Nat :=
  [0xFE800000, 0, fld (mac ^^^ 2 ^ 41) 24 24 * 256 + 255, 0xFE000000 + fld mac 0 24]
/-- MG0 and MG1 are brought up on their link-local addresses. -/
def recoveryPorts (s : State) : State :=
  [0, 1].foldl (fun t k =>
    let mac := ((t.reg 1 0x110).toNat + 2 ^ 32 * (t.reg 1 0x114).toNat + 8 + k) % 2 ^ 48
    let a := linkLocal mac
    (rangeFrom 0 4).foldl (fun u i => u.setReg (0x340 + k) (0x10C + 4 * i) (w32 (a.getD i 0))) (t.setRegF (0x340 + k) oCtl 0 1 1)) (s.setDom pdMgmt true)

/-- The Keep enters recovery; its staging buffer, scratch, is on. -/
def recoveryEnter (s : State) : State :=
  let s1 := recoveryPorts ((s.setPhase 8).setRegF 0 oStat 16 4 2)
  (rangeFrom 0 256).foldl (fun t b => if t.bankSt 0 b = 0 then (t.setDom (bankDomain 0 b) true).setBankSt 0 b 1 else t) s1

/-- No slot serves (R434). -/
def noImage (s : State) : State := if s.regB 1 0x118 4 then halted s 1 else recoveryEnter s

/-! ### Step 4 (R432, R362, R439, R440) -/

/-- Loads the control stores; a spire whose read-back fails records a DIRECT fault. -/
def loadStores (s : State) (bad : BitVec 8) : State :=
  (List.finRange 8).foldl (fun t n =>
    if !(t.dom (pdSps n.val)) then t
    else if bad.getLsbD n.val then (declareLog t (0x160 + n.val) 2 2 2).fenceSpire n
    else csLoad t n) s

/-- The injection test of every pair whose comparator has power. -/
def injectAll (s : State) (fails : List (BitVec 8)) : State :=
  (List.finRange 4).foldl (fun t p =>
    let f := (fails.getD p.val 0).toNat
    injectEnd (injectWrite (injectWrite t p 255 f) p 255 f) p) s

/-! ### Training (R441, R442) -/

/-- Eight steps of the PRBS31 register, the byte least significant bit first. -/
def prbsByte : Nat → Nat → Nat → Nat → Nat × Nat
  | 0, _, x, b => (x, b)
  | n + 1, i, x, b =>
    let o := (x / 2 ^ 30 + x / 2 ^ 27) % 2
    prbsByte n (i + 1) ((x * 2 + o) % 2 ^ 31) (b + o * 2 ^ i)
def prbs : Nat → Nat → List Byte
  | 0, _ => []
  | n + 1, x =>
    let r := prbsByte 8 0 x 0
    byte r.2 :: prbs n r.1

/-- A channel is trained: TRAINED, ACTIVE unless DEGRADED, its codes saved, its pattern lines written. -/
def trainOne (s : State) (p : Nat) : State :=
  let s0 := s.setBoot { s.boot with codes := s.boot.codes ||| 2 ^ p }
  let s1 := s0.setMch p { cstate := if (s.mch p).cstate = 2 then 2 else 1, trained := true }
  (rangeFrom 64978432 256).foldl (fun t j => t.setLineErr (p, j) {}) (s1.setBytes (locKey (p, 64978432)) (prbs 16384 0x7FFFFFFF))

/-- A channel can be trained: its domain has power, and it does not fail after its retry. -/
def trains (s : State) (fails : BitVec 64) (p : Nat) : Bool := s.dom (pdDch p) && !(fails.getLsbD p)

/-- Step 5 (R441): phase 1; a failing channel stops the Keep. -/
def train1 (s : State) (fails : BitVec 64) : State :=
  let l := (rangeFrom 0 8).map (8 * ·)
  let s1 := (l.filter (trains s fails)).foldl trainOne (s.setPhase 4)
  if l.all (trains s fails) then { s1 with memc := { s1.memc with mode := .narrow }, boot := { s1.boot with group := 0 } }
  else halted s1 0x20

/-- The contents of every DRAM channel are lost. -/
def dropDram (s : State) : State :=
  { s with mem := s.mem.filter (fun c => !(decide (2 ^ 50 ≤ c.1 ∧ c.1 < 2 ^ 51))), lineErr := [] }

/-- R442: every channel in use is restored and checked, and MODE goes to WIDE; a channel that fails makes the start a cold one from
step 5. -/
def restore (s : State) (fails : BitVec 64) : State :=
  let l := (rangeFrom 0 64).filter fun p => (s.mch p).cstate != 3
  if l.all (trains s fails) then
    let s1 := l.foldl (fun t p => t.setMch p { cstate := if (t.mch p).cstate = 2 then 2 else if p = 63 ∧ t.memc.spareSt = .idle then 0 else 1, trained := true })
      (s.setPhase 4)
    spareAgain { s1 with memc := { s1.memc with mode := .wide } }
  else train1 (dropDram ((bootErr s 0x21).setRegF 0 oStat 0 1 0)) fails

/-! ### The start (R432, R434, R436) -/

/-- Steps 4 and 5 after the image has been applied. -/
def startLate (s : State) (kept : Bool) (io : StartIo) : State :=
  let s1 := injectAll (loadStores (s.setPhase 3) io.readback) io.inject
  if kept then restore s1 io.train else train1 s1 io.train

/-- What a slot makes of the start: it fails checks 1 to 6, or it is applied, or its application fails. -/
inductive SlotTry where
  | bad
  | done (s : State)
  | retry (s : State)

def slotTry (s : State) (k : Nat) (cold : Bool) (polls : List Bool) : SlotTry :=
  if bit s.boot.torn k then .bad
  else
    match imageCheck s (fun n => s.bytes (slotKey k) n) with
    | none => .bad
    | some m =>
      let r := imageApply (s.setRegF 0 oStat 16 4 k) m cold polls
      if r.2 then .done r.1 else .retry r.1

/-! ### Device warm reset and VIGIL resume (R449) -/

/-- A register that device warm reset keeps: fuses; the always-on domain (the PWR pages, SASP_BAY, KEEP_WAKE, WAKECAUSE, AONTMR); the
BELF registers; MCH_CECNT and UECNT; SCR_REPAIR_CNT; CMP_CNT; KEEP_SLOTST (R51, R94, R99, R365, R449). -/
def warmReg (page off : Nat) : Bool :=
  page == 1 || ((decide (0x350 ≤ page ∧ page < 0x370)) ||
  ((decide (0x200 ≤ page ∧ page < 0x2F0) && off == 0x110) ||
  ((page == 0 && (decide (0x100 ≤ off ∧ off < 0x10C) || off == 0x118)) ||
  ((page == 0x10 && (off == oCtl || decide (0x100 ≤ off))) ||
  ((decide (0xC0 ≤ page ∧ page < 0x100) && (off == 0x100 || off == 0x104)) ||
  ((decide (0x100 ≤ page ∧ page < 0x102) && off == 0x144) ||
  (decide (0x1A8 ≤ page ∧ page < 0x1AC) && off == 0x114)))))))

/-- The state of a device warm reset before its start runs; a VIGIL resume keeps the queue store too, the system timers, which R74
restarts, and the page locks, which only power-on and device warm reset undo (R44, log entry 63). The latches of linked timers are not
kept (log entry 63), and a bank left redirected for want of a spare row is redirected no more (DESIGN CHOICE, log entry 74). -/
def warmKeep (s : State) (vigil kept : Bool) : State :=
  let s0 := (List.finRange 8).foldl undoRunning (masterLost s)
  let qst := fun (a : Nat) => vigil && decide (qstBase ≤ a ∧ a < qstBase + 0x1000000)
  let dram := fun (a : Nat) => kept && decide (2 ^ 50 ≤ a ∧ a < 2 ^ 51)
  let busy := s0.memc.spareSt == .arm || (s0.memc.spareSt == .copy || s0.memc.spareSt == .switch)
  let retired := fun (d : Nat) => decide (71 ≤ d ∧ d < 135) && (s0.mch (d - 71)).cstate == 3
  let on := fun (d : Nat) => if vigil then (if bankGoverned d then decide (63 ≤ d) && s0.dom d else bit (s0.boot.dreq.getD (d / 32) 0) (d % 32) && !(retired d)) else !(bankGoverned d) && s0.dom d
  let s1 : State := { State.reset with
    pending := s0.pending, free := s0.free, out := s0.out,
    locks := if vigil then s0.locks else [],
    regs := s0.regs.filter fun r => warmReg (r.1 / 4096) (r.1 % 4096) ||
      (vigil && ((r.1 / 4096 == 0x101 && decide (0x100 ≤ r.1 % 4096 ∧ r.1 % 4096 < 0x140)) || decide (0x20 ≤ r.1 / 4096 ∧ r.1 / 4096 < 0x24))),
    timers := if vigil then s0.timers.filter fun x => decide (x.1 < 32) else [],
    mem := s0.mem.filter fun c => decide (2 ^ 51 ≤ c.1) || (decide (cupBase ≤ c.1 ∧ c.1 < cupBase + 0x10000) || (dram c.1 || qst c.1)),
    lineErr := if kept then s0.lineErr else [],
    wordErr := s0.wordErr.filter fun w => qst (w.1 * 8),
    memc := { spareSt := s0.memc.spareSt, spareValid := s0.memc.spareValid && !busy, spareLogical := s0.memc.spareLogical,
              chans := s0.memc.chans.filterMap fun c => if c.2.cstate = 2 ∨ c.2.cstate = 3 then some (c.1, { c.2 with trained := false }) else none },
    scr0 := { repairs := s0.scr0.repairs, factory := s0.scr0.factory },
    scr1 := { repairs := s0.scr1.repairs, factory := s0.scr1.factory },
    belf := { s0.belf with latches := [], shadow := 0 },
    fm := { s0.fm with released := false, selfStop := false },
    pairs := s0.pairs.map fun x => { splitOnly := x.splitOnly },
    pwr := s0.pwr,
    cup := { s0.cup with master := none, evq := [], evlost := 0 },
    boot := { vin12 := s0.boot.vin12, vaux33 := s0.boot.vaux33, por := false, faultLow := s0.boot.faultLow, thermLow := s0.boot.thermLow,
              rstLow := s0.boot.rstLow, kimg := s0.boot.kimg, kwrap := s0.boot.kwrap, kpatch := s0.boot.kpatch, dreq := s0.boot.dreq,
              codes := s0.boot.codes, torn := s0.tornSlots } }
  let s2 := (rangeFrom 3 179).foldl (fun t d => t.setDom d (d = pdFab0 || (d = pdFab1 || on d))) s1
  ((s2.setRegF 0x350 0x158 8 2 2).setRegF 0x350 0x158 0 2 2).setRegF 0 oStat 0 1 (b2n kept)

/-- A slot has failed: its bit of KEEP_SLOTST (R434). -/
def slotFail (s : State) (k : Nat) : State := s.setRegF 0 0x118 k 1 1
/-- A device warm reset of reason 5; it is raised while MODE is UNTRAINED, so the DRAM is not kept (R436, R449). -/
def imageRetry (s : State) : State := (warmKeep s false false).setRegF 0 oStat 24 4 5

/-- The start over the slots not in `skip`: slot A, then slot B. A slot whose application fails gives a device warm reset of reason 5,
which starts again at step 1 and skips it (R434, R436); a start of another cause tries each slot anew (R451). `n` bounds the slots. -/
def startSlots (s : State) (cold kept : Bool) (io : StartIo) (skip : Nat) : Nat → State
  | 0 => noImage s
  | n + 1 =>
    let s1 := (startEarly s).setPhase 2
    match firstNat (fun k => !(bit skip k)) [0, 1] with
    | none => noImage s1
    | some k =>
      match slotTry s1 k cold io.polls with
      | .bad => startSlots (slotFail s k) cold kept io (skip ||| 2 ^ k) n
      | .done s2 => startLate s2 kept io
      | .retry s2 => startSlots (imageRetry (slotFail s2 k)) true false io (skip ||| 2 ^ k) n

/-- The cold start of a power-on reset (R432). -/
def coldStart (s : State) (io : StartIo) : State :=
  if io.rcv then noImage (startEarly s) else startSlots s true false io 0 3

/-- The start of a device warm reset with cause `cause`: held while RST_N is low (R449, R469). -/
def warmStart (s : State) (cause : Nat) (io : StartIo) : State :=
  let kept := s.memc.mode == .wide
  let s1 := (warmKeep s false kept).setRegF 0 oStat 24 4 cause
  if s1.boot.rstLow then s1.setBoot { s1.boot with warm := some cause } else startSlots s1 (!kept) kept io 0 3

/-- VIGIL resume: steps 3 and 4 with COLD entries skipped, then R442 (R449). -/
def resume (s : State) (src : Nat) (io : StartIo) : State :=
  let kept := s.memc.mode == .wide
  let s1 := (warmKeep s true kept).setRegF 0 oStat 24 4 6
  startSlots ((s1.setReg 0 0x104 (w32 (2 ^ src))).irqBit 0 0) false kept io 0 3

/-! ### Release and full service (R443, R446) -/

/-- HOLD of both cores of a pair is cleared in one write cycle, if their domains are on and the pair is not OFFLINE. -/
def releasePair (s : State) (p : Fin 4) : State :=
  if (s.pair p).st == .offline then s
  else
    let go := fun (t : State) (n : Fin 8) => if t.dom (pdTur n.val) then t.setRegF (0x1A0 + n.val) oCtl 0 1 0 else t
    pairRelease (go (go s (evenCore p)) (oddCore p)) p

/-- The Keep's work when MODE becomes WIDE (R446). -/
def fullService (s : State) : State :=
  let s1 := sptCommit (sptCommit s 1) 2
  let t := s1.fresh
  (((t.2.setRegF 0x120 oStat 1 1 0).irqBit 0 3).setPhase 7).setRegF 0 0x110 0 16 t.1.toNat

/-- RELEASE (R443): in NARROW reduced service begins; in WIDE full service begins at once. -/
def release (s : State) : State :=
  if s.phase = 4 ∧ s.memc.mode ≠ .untrained then
    let rsvc := s.memc.mode == .narrow
    let s1 := (s.setRegF 0 oCtl 0 1 1).setRegF 0x120 oStat 1 1 (b2n rsvc)
    let s2 := (List.finRange 4).foldl releasePair s1
    let t := s2.fresh
    let s3 := ((if rsvc then t.2.irqBit 0 2 else t.2).setPhase 5).setRegF 0 0x10C 0 16 t.1.toNat
    let s4 := s3.setReg 0 0x118 0
    let s5 : State := { s4 with fm := { s4.fm with released := true } }
    if rsvc then s5 else fullService s5
  else s

/-- A channel of phase 2 that fails: the spare takes its place without a copy; a second failure, or the spare's own, leaves the device
in reduced service (R441). -/
def train2Fail (s : State) (p : Nat) : State :=
  if p < 63 ∧ s.memc.spareSt = .idle ∧ s.regF 0 oStat 8 8 ≠ 0x22 then
    let s1 : State := { s with memc := { s.memc with spareSt := .used, spareValid := true, spareLogical := p } }
    (s1.setMch p { cstate := 3 }).setDom (pdDch p) false
  else bootErr s 0x22

/-- TRAIN2_GROUP_DONE (R432, R441): the next group of phase 2; after group 7 the Keep writes WIDEN. A channel that was RETIRED before a
device warm reset stays so (R94). -/
def train2 (s : State) (fails : BitVec 8) : State :=
  if (s.phase = 5 ∨ s.phase = 6) ∧ s.memc.mode = .narrow ∧ s.boot.group < 7 then
    let g := s.boot.group + 1
    let s0 := s.setPhase 6
    let s1 := (rangeFrom 0 8).foldl (fun t i =>
      let p := 8 * i + g
      if (t.mch p).cstate = 3 then t
      else if t.dom (pdDch p) && !(fails.getLsbD i) then trainOne t p else train2Fail t p) (s0.setBoot { s0.boot with group := g })
    if g = 7 ∧ s1.regF 0 oStat 8 8 ≠ 0x22 then memcCtlWrite s1 1 else s1
  else s

/-! ### Supplies, wakes and pins (R431, R460, R465, R469) -/

/-- Power-on reset is raised and held; the cold start follows its release. -/
def raisePor (s : State) (cause : Nat) : State := (s.setBoot { s.boot with por := true, wakeHeld := false }).setRegF 0 oStat 24 4 cause

/-- POWER_ON_RESET: power-on reset is released, once both inputs have been good for 1 ms, and the cold start runs. After a thermal trip
the return of VIN12 is a wake that is held (R465). -/
def powerOnReset (s : State) (io : StartIo) : State :=
  if s.boot.vaux33 && (!(s.boot.trip) && (s.boot.por || !(s.boot.vin12))) then
    let cause := if s.boot.por then s.regF 0 oStat 24 4 else 2
    let b := s.bare
    coldStart ((b.setBoot { b.boot with por := false, vin12 := true, wakeHeld := false, faultLow := false }).setRegF 0 oStat 24 4 cause) io
  else if s.boot.trip && (s.boot.vaux33 && !s.boot.vin12) then s.setBoot { s.boot with vin12 := true, wakeHeld := true }
  else s

/-- A wake source's number in KEEP_WAKE. -/
def wakeBit : WakeSource → Nat
  | .wakePin => 0 | .mg0 => 1 | .mg1 => 2 | .bcmp => 3 | .aonTimer => 4

/-- WAKE (R430, R431, R460). -/
def wake (s : State) (src : WakeSource) (io : StartIo) : State :=
  match s.boot.power with
  | .active => if s.boot.entry.isSome && s.regB 0 0x100 (wakeBit src) then entryCancel s else s
  | .vigil => if s.regB 0 0x100 (wakeBit src) then resume s (wakeBit src) io else s
  | .off =>
    if src = .wakePin ∨ src = .aonTimer then
      if s.boot.por then s
      else if s.boot.trip || !(s.boot.vin12) then s.setBoot { s.boot with wakeHeld := true }
      else raisePor s 2
    else s

/-- Loss of the 12 V main input (R431, R460). -/
def vin12Loss (s : State) : State :=
  if s.boot.power = .off then s.setBoot { s.boot with vin12 := false }
  else powerOff (s.setBoot { s.boot with vin12 := false })
/-- Loss of the 3.3 V auxiliary input (R460, R470). -/
def vaux33Loss (s : State) : State :=
  let b := s.bare
  b.setBoot { b.boot with power := .off, por := true, vaux33 := false, trip := false, wakeHeld := false, faultLow := false, thermLow := false }
/-- The auxiliary input becomes good (R460). -/
def vaux33Good (s : State) : State :=
  if s.boot.vaux33 then s else raisePor (s.setBoot { s.boot with vaux33 := true }) 1
/-- 115 °C: OFF, FAULT_N low (R465). -/
def thermalTrip (s : State) : State :=
  let t := if s.boot.power = .off then s else powerOff s
  t.setBoot { t.boot with trip := true, faultLow := true }
/-- The hottest sensor reads 95 °C or less: a held wake acts (R465). -/
def thermalRelease (s : State) : State :=
  if s.boot.trip then
    let t := s.setBoot { s.boot with trip := false }
    if t.boot.wakeHeld && t.boot.vin12 then raisePor t 2 else t
  else s

/-- RST_N has been low for 1 µs (R469): no effect while power-on reset is raised. -/
def rstPin (s : State) (io : StartIo) : State :=
  if s.boot.power = .off ∨ s.boot.por = true then s.setBoot { s.boot with rstLow := true }
  else
    let early := decide (s.phase < 5) && (s.regF 0 oStat 24 4 == 3 || s.regF 0 oStat 24 4 == 5)
    warmStart (s.setBoot { s.boot with rstLow := true }) (if early then s.regF 0 oStat 24 4 else 4) io
/-- The rising edge of RST_N: the start that was held runs. -/
def rstRise (s : State) (io : StartIo) : State :=
  let t := s.setBoot { s.boot with rstLow := false, warm := none }
  match s.boot.warm with
  | some c =>
    if s.boot.power = .active then
      startSlots t (!(t.regB 0 oStat 0)) (t.regB 0 oStat 0) io (if c = 5 then (t.reg 0 0x118).toNat else 0) 3
    else t
  | none => t

/-! ### Recovery and image update (R436, R447, R450) -/

/-- Reads `n` bytes of the staging buffer; none on a bus error or poison. -/
def stagedBytes (s : State) (n : Nat) : List Byte := (goodData (dmaReadRaw s (rcvBase s) n).2).getD []

/-- The checked image is in a slot. -/
def slotStore (s : State) (k : Nat) (b : List Byte) : State :=
  let s1 := s.setBytes (slotKey k) b
  s1.setBoot { s1.boot with torn := s1.boot.torn &&& (3 - 2 ^ k) }

/-- The work that a write of RCV_GO started. An image whose application fails gives a device warm reset of reason 5, as at a start; it
skips the slots that have failed (R436). -/
def rcvRun (s : State) (io : StartIo) (norOk : Bool) : State :=
  let r := s.reg 3 0x114
  if regBit r 31 then
    let fin := fun (t : State) (code : Nat) => t.setReg 3 0x114 (w32 code)
    match imageCheck s (stagedBytes s) with
    | none => fin s 2
    | some m =>
      if regBit r 9 && !norOk then fin s 3
      else
        let b := stagedBytes s (leAt (stagedBytes s 16) 12 4)
        let s1 := if regBit r 9 then slotStore s (regFld r 10 1) b else s
        if regBit r 8 && s.recovery then
          let t := imageApply s1 m true io.polls
          if t.2 then startLate (fin t.1 1) false io
          else
            let s2 := fin (if regBit r 9 then slotFail t.1 (regFld r 10 1) else t.1) 2
            startSlots (imageRetry s2) true false io (s2.reg 0 0x118).toNat 3
        else fin s1 1
  else s

/-! ### Commands -/

def execPowerOnReset (io : StartIo) (s : State) : Res := ok (powerOnReset s io)
def execRelease (s : State) : Res := ok (release s)
def execTrain2GroupDone (fails : BitVec 8) (s : State) : Res := ok (train2 s fails)
/-- R446: MODE has become WIDE in reduced service. -/
def execFullService (s : State) : Res := ok (if s.memc.mode == .wide && s.regB 0x120 oStat 1 then fullService s else s)

/-- A raised warm reset runs. -/
def raisedReset (s : State) (io : StartIo) : State :=
  match s.boot.warm with
  | some c => if s.boot.rstLow then s else warmStart (s.setBoot { s.boot with warm := none }) c io
  | none => s
/-- R449: a write of DWRST (REMAP keeps its value), RST_N low, or a reset that an earlier write has raised. -/
def execDeviceWarmReset (src : WarmSource) (io : StartIo) (s : State) : Res :=
  ok (match src with
    | .dwrst id => raisedReset (cmdReg s id 0 oCtl (w32 (2 + b2n (s.regB 0 oCtl 0)))) io
    | .rstPin => rstPin s io
    | .raised => raisedReset s io)
def execRstNRisingEdge (io : StartIo) (s : State) : Res := ok (rstRise s io)
def execVigilRequest (id : MasterId) (s : State) : Res := ok (cmdReg s id 0x350 0x158 1)
def execOffRequest (id : MasterId) (s : State) : Res := ok (cmdReg s id 0x350 0x158 0)
def execWake (src : WakeSource) (io : StartIo) (s : State) : Res := ok (wake s src io)
def execVin12Loss (s : State) : Res := ok (vin12Loss s)
def execVaux33Loss (s : State) : Res := ok (vaux33Loss s)
def execVaux33PowerGood (s : State) : Res := ok (vaux33Good s)
def execThermalTrip (s : State) : Res := ok (thermalTrip s)
/-- THERM_N is low while the hottest sensor reads 100 °C or more, and released below 97 °C (R465). -/
def execThermN (hot : Bool) (s : State) : Res := ok (s.setBoot { s.boot with thermLow := hot && s.boot.vaux33 })
def execThermalWakeRelease (s : State) : Res := ok (thermalRelease s)
def execSvnup (id : MasterId) (s : State) : Res := ok (cmdReg s id 0 0x11C 1)
/-- R448: a write of KS_CMD with command 1; KIND and GRANT as `v` has them. -/
def execKsLoad (id : MasterId) (v : Word32) (s : State) : Res := ok (cmdReg s id 2 0x110 ((v &&& w32 0xFFFFFFFC) ||| 1))
def execKsClear (id : MasterId) (v : Word32) (s : State) : Res := ok (cmdReg s id 2 0x110 ((v &&& w32 0xFFFFFFFC) ||| 2))
def execKsGrant (id : MasterId) (v : Word32) (s : State) : Res := ok (cmdReg s id 2 0x110 (v ||| 3))
def execRcvData (id : MasterId) (v : Word32) (s : State) : Res := ok (cmdReg s id 3 0x10C v)
/-- R447: a write of RCV_GO and the work it starts. -/
def execRcvGo (id : MasterId) (v : Word32) (io : StartIo) (norOk : Bool) (s : State) : Res :=
  ok (rcvRun (cmdReg s id 3 0x110 v) io norOk)
def execLantHalt (id : MasterId) (v : Word32) (s : State) : Res := ok (cmdReg s id 0x3A0 0x100 v)

end Sys2Proof.Machine
end

