-- ==== Sys2Proof/Machine/Codes.lean ====
section
/-! DEFINITION. The erasure codes and the records of stripes as pure functions of bytes: code records, shard maps, tails, repair sets,
carries, encoding and decoding (07_codes_stripes.md R215-R239). -/
namespace Sys2Proof.Machine

/-- CRC-32C with initial value and final inversion (R226). -/
def crcStd (b : List Byte) : Nat := crc32c 0xFFFFFFFF b ^^^ 0xFFFFFFFF

/-- Every byte of a list is 0. -/
def allZero (b : List Byte) : Bool := b.all (· == 0)

/-! ### Code records (R216, R219-R221) -/

structure Code where
  id : Nat
  kind : Nat
  logl : Nat
  k : Nat
  m : Nat
  /-- S and Z. -/
  size : Nat
  slice : Nat
  genCrc : Nat
  gen : Nat
  genLen : Nat
deriving DecidableEq, Repr

/-- Symbol width. -/
def Code.w (c : Code) : Nat := if c.kind = 1 then 1 else 2
/-- Shards of a stripe. -/
def Code.n (c : Code) : Nat := c.k + c.m
/-- Pitch of a work area (R228). -/
def Code.pitch (c : Code) : Nat := 4160 + c.size
/-- λ of R218: the least λ ≥ 1 with 2^λ ≥ m. -/
def lambdaOf (m : Nat) : Nat := (firstNat (fun l => decide (m ≤ 2 ^ l)) (rangeFrom 1 10)).getD 10
/-- Chunks of a wide code. -/
def Code.chunks (c : Code) : Nat := ceilDiv c.k (2 ^ c.logl)

def codeOf (b : List Byte) : Code :=
  { id := leAt b 0 4, kind := leAt b 4 1, logl := leAt b 5 1, k := leAt b 8 2, m := leAt b 10 2, size := leAt b 0x10 8,
    slice := leAt b 0x18 4, genCrc := leAt b 0x1C 4, gen := leAt b 0x20 8, genLen := leAt b 0x28 4 }

/-- The record lies within R216 and its reserved fields are 0 (R219). -/
def codeOk (b : List Byte) (c : Code) : Bool :=
  (match c.kind with
   | 1 => decide (1 ≤ c.k ∧ c.k ≤ 240 ∧ 1 ≤ c.m ∧ c.m ≤ 32 ∧ c.k + c.m ≤ 256 ∧ c.logl = 0 ∧ c.genLen = c.m * c.k)
   | 2 => decide (1 ≤ c.k ∧ c.k ≤ 240 ∧ 1 ≤ c.m ∧ c.m ≤ 32 ∧ c.m * c.k ≤ 7168 ∧ c.logl = 0 ∧ c.genLen = c.m * c.k * 2)
   | 3 => decide (1 ≤ c.k ∧ c.k ≤ 4095 ∧ 1 ≤ c.m ∧ c.m ≤ 1024 ∧ c.k + c.m ≤ 4096) &&
      (c.logl == lambdaOf c.m && c.genLen == (c.chunks + 1) * 2 ^ c.logl * 2)
   | _ => false) &&
  (decide (4096 ≤ c.size ∧ c.size ≤ 2 ^ 30 ∧ c.size % 4096 = 0 ∧ 0 < c.slice ∧ c.slice % 4096 = 0 ∧ c.slice ≤ 2 ^ 24) &&
  (decide (c.size % max 1 c.slice = 0 ∧ c.gen < 2 ^ 48) &&
  (leAt b 6 2 == 0 && (leAt b 0xC 4 == 0 && allZero ((b.drop 0x2C).take 20)))))

/-! ### Shard maps (R224) -/

structure MapEnt where
  state : Nat
  port : Nat
  lba : Nat
  crc : Nat
deriving DecidableEq, Repr

structure SMapRec where
  id : Nat
  code : Nat
  objlen : Nat
  tweak : Nat
  key : Nat
  nsh : Nat
  ents : List MapEnt
deriving DecidableEq, Repr

def entOf (b : List Byte) : MapEnt := { state := fld (leAt b 0 8) 62 2, port := leAt b 6 1, lba := leAt b 0 6, crc := leAt b 8 4 }
def mapOf (b : List Byte) : SMapRec :=
  let n := leAt b 0x24 2
  { id := leAt b 0 8, code := leAt b 8 8, objlen := leAt b 0x10 8, tweak := leAt b 0x18 8, key := fld (leAt b 0x20 4) 0 12, nsh := n,
    ents := (rangeFrom 0 n).map fun i => entOf ((b.drop (64 + 16 * i)).take 16) }
/-- MCRC of a map's bytes: the field taken as 0. -/
def mapCrc (b : List Byte) : Nat := crcStd (listPut b 0x3C [0, 0, 0, 0])
/-- Reserved fields, PORT and MCRC of a map (R224). -/
def mapOk (b : List Byte) : Bool :=
  mapCrc b == leAt b 0x3C 4 && (fld (leAt b 0x20 4) 12 20 == 0 && (allZero ((b.drop 0x26).take 22) && (leAt b 0xE 2 == 0 &&
  (rangeFrom 0 (leAt b 0x24 2)).all fun i =>
    let e := (b.drop (64 + 16 * i)).take 16
    fld (leAt e 0 8) 56 6 == 0 && (leAt e 12 4 == 0 && decide (leAt e 6 1 < 240)))))
/-- The map's bytes with BODY_CRC of the listed shards and a fresh MCRC. -/
def mapWithCrcs (b : List Byte) (l : List (Nat × Nat)) : List Byte :=
  let b1 := l.foldl (fun a x => listPut a (64 + 16 * x.1 + 8) (leBytes 4 x.2)) b
  listPut b1 0x3C (leBytes 4 (mapCrc b1))

/-! ### Tails (R225, R226) -/

/-- The tail block of shard `x`. -/
def tailOf (c : Code) (m : SMapRec) (x crc epoch : Nat) : List Byte :=
  let h := leBytes 4 0x53484454 ++ leBytes 2 1 ++ leBytes 2 x ++ leBytes 8 m.id ++ leBytes 4 c.id ++ leBytes 2 c.k ++ leBytes 2 c.m ++
    leBytes 8 c.size ++ leBytes 8 m.objlen ++ leBytes 4 crc ++ leBytes 4 0 ++ leBytes 8 epoch
  let b := (h ++ List.replicate 4096 0).take 4092
  b ++ leBytes 4 (crcStd b)

/-- What a read of a shard gives: its body, or the reason it is unreadable (R226, R230). -/
inductive ShardRead where
  | body (b : List Byte)
  | media
  | badBody
  | badTail
deriving DecidableEq, Repr

/-- The checks of R226 on the bytes of shard `x`. -/
def shardCheck (c : Code) (m : SMapRec) (x : Nat) : Option (List Byte) → ShardRead
  | none => .media
  | some b =>
    let body := b.take c.size
    let t := (b.drop c.size).take 4096
    if b.length < 4096 + c.size then .media
    else if crcStd body ≠ (m.ents.getD x ⟨0, 0, 0, 0⟩).crc then .badBody
    else if crcStd (t.take 4092) = leAt t 4092 4 ∧ leAt t 0 4 = 0x53484454 ∧ leAt t 4 2 = 1 ∧ leAt t 6 2 = x ∧ leAt t 8 8 = m.id then .body body
    else .badTail
def ShardRead.get : ShardRead → Option (List Byte)
  | .body b => some b
  | _ => none

/-! ### Symbols (R215, R217) -/

abbrev Vec := List Nat
def vxor (a b : Vec) : Vec := List.zipWith (· ^^^ ·) a b
def vscale (w c : Nat) (v : Vec) : Vec := v.map (gfw w c)
/-- A vector plus a multiple of another. -/
def vmac (w : Nat) (a : Vec) (c : Nat) (v : Vec) : Vec := vxor a (vscale w c v)
/-- Σ r[s] · v[s] over vectors of `n` symbols. -/
def rowApply (w n : Nat) (row : List Nat) (vs : List Vec) : Vec :=
  (row.zip vs).foldl (fun a x => vmac w a x.1 x.2) (List.replicate n 0)
/-- The rows of a matrix applied to vectors. -/
def rowsApply (w n : Nat) (rows : List (List Nat)) (vs : List Vec) : List Vec := rows.map fun r => rowApply w n r vs

/-- Words of a coefficient table: row `q` of `k` words (R220). -/
def genRow (w k : Nat) (gen : List Byte) (q : Nat) : List Nat := (rangeFrom 0 k).map fun j => leAt gen ((q * k + j) * w) w
/-- The defined coefficient c[q][j] of a matrix code (R217). -/
def cauchy (w m q j : Nat) : Nat := gfw w (m + j) (gfwInv w (q ^^^ (m + j)))
/-- Row `x` of the code's generator: a unit row for a data shard, a parity row otherwise. -/
def codeRow (c : Code) (gen : List Byte) (x : Nat) : List Nat :=
  if x < c.k then (rangeFrom 0 c.k).map fun j => if j = x then 1 else 0 else genRow c.w c.k gen (x - c.k)

/-! ### Wide codes (R218, R221) -/

/-- Twiddle word `i` of coset block `b`. -/
def twiddle (gen : List Byte) (l b i : Nat) : Nat := leAt gen ((b * l + i) * 2) 2
/-- Twiddle of layer `i` at index `x` of block `b` (R221). -/
def layerTwiddle (gen : List Byte) (l b i x : Nat) : Nat := twiddle gen l b (l - l / 2 ^ i + x / 2 ^ (i + 1))

/-- One butterfly of the forward (`inv` false) or inverse transform on values `x` and `x + 2^i`. -/
def butterfly (inv : Bool) (t i : Nat) (v : List Vec) (x : Nat) : List Vec :=
  let a := v.getD x []
  let b := v.getD (x + 2 ^ i) []
  if inv then
    let b1 := vxor b a
    (v.set (x + 2 ^ i) b1).set x (vmac 2 a t b1)
  else
    let a1 := vmac 2 a t b
    (v.set x a1).set (x + 2 ^ i) (vxor b a1)

/-- Layer `i` over the `l` values of coset block `b`. -/
def layer (inv : Bool) (gen : List Byte) (l b : Nat) (v : List Vec) (i : Nat) : List Vec :=
  ((rangeFrom 0 l).filter fun x => !(bit x i)).foldl (fun u x => butterfly inv (layerTwiddle gen l b i x) i u x) v
/-- fft(v, c) with the twiddles of coset block `b` (R218). -/
def wideFft (gen : List Byte) (lam b : Nat) (v : List Vec) : List Vec :=
  (rangeFrom 0 lam).reverse.foldl (layer false gen (2 ^ lam) b) v
/-- ifft(v, c). -/
def wideIfft (gen : List Byte) (lam b : Nat) (v : List Vec) : List Vec :=
  (rangeFrom 0 lam).foldl (layer true gen (2 ^ lam) b) v

/-- Chunk `b` of the data vectors, missing indices 0 (R218). -/
def wideChunk (l n : Nat) (data : List Vec) (b : Nat) : List Vec :=
  (rangeFrom 0 l).map fun x => data.getD ((b - 1) * l + x) (List.replicate n 0)
/-- Parity of a wide code (R218, R229). -/
def wideParity (c : Code) (gen : List Byte) (n : Nat) (data : List Vec) : List Vec :=
  let l := 2 ^ c.logl
  let zero := List.replicate l (List.replicate n 0)
  let a := (rangeFrom 1 c.chunks).foldl (fun a b => List.zipWith vxor a (wideIfft gen c.logl b (wideChunk l n data b))) zero
  (wideFft gen c.logl 0 a).take c.m

/-- Parity bodies of the data bodies, which all have one length (R217, R218). -/
def parityOf (c : Code) (gen : List Byte) (bodies : List (List Byte)) : List (List Byte) :=
  let vs := bodies.map (bytesElems c.w)
  let n := (vs.getD 0 []).length
  let out := if c.kind = 3 then wideParity c gen n vs else rowsApply c.w n ((rangeFrom 0 c.m).map (genRow c.w c.k gen)) vs
  out.map (elemBytes c.w)

/-! ### Elimination (R230) -/

/-- Row `i` made 1 in column `col` and every other row 0 there; none where no row from `col` on has a nonzero there. -/
def pivot (w col : Nat) (rows : List (List Nat)) : Option (List (List Nat)) :=
  match firstNat (fun i => (rows.getD i []).getD col 0 != 0) (rangeFrom col (rows.length - col)) with
  | none => none
  | some i =>
    let r := rows.getD i []
    let p := vscale w (gfwInv w (r.getD col 0)) r
    let sw := (rows.set i (rows.getD col [])).set col p
    some ((rangeFrom 0 sw.length).map fun j => let x := sw.getD j []
      if j = col then x else vmac w x (x.getD col 0) p)
/-- Gauss-Jordan elimination of the columns `col`, … (`n` of them). -/
def eliminate (w : Nat) : Nat → Nat → List (List Nat) → Option (List (List Nat))
  | 0, _, rows => some rows
  | n + 1, col, rows => (pivot w col rows).bind (eliminate w n (col + 1))
/-- Inverse of a square matrix. -/
def invert (w : Nat) (m : List (List Nat)) : Option (List (List Nat)) :=
  let k := m.length
  let aug := (rangeFrom 0 k).map fun i => m.getD i [] ++ (rangeFrom 0 k).map fun j => if j = i then 1 else 0
  (eliminate w k 0 aug).map fun r => r.map (List.drop k)

/-- Rows that give shards `want` from the chosen shards `have_` of a matrix code (R230, R232). -/
def repairRows (c : Code) (gen : List Byte) (chosen want : List Nat) : Option (List (List Nat)) :=
  (invert c.w (chosen.map (codeRow c gen))).map fun inv =>
    want.map fun x => rowApply c.w c.k (codeRow c gen x) inv

/-! ### Repair sets (R232) -/

structure RepairSet where
  surv : List Nat
  lost : List Nat
  rows : List (List Nat)
  digest : Nat
deriving DecidableEq, Repr

/-- Bytes of a repair set with `u` survivors and `r` lost shards; the coefficients start at an 8-byte boundary. -/
def coefStart (u r : Nat) : Nat := (8 + 2 * u + 2 * r + 7) / 8 * 8
def repairLen (u r w : Nat) : Nat := coefStart u r + r * u * w
def repairOf (w : Nat) (b : List Byte) : RepairSet :=
  let u := leAt b 0 2
  let r := leAt b 2 2
  { surv := (rangeFrom 0 u).map fun i => leAt b (8 + 2 * i) 2,
    lost := (rangeFrom 0 r).map fun i => leAt b (8 + 2 * u + 2 * i) 2,
    rows := (rangeFrom 0 r).map fun q => genRow w u (b.drop (coefStart u r)) q, digest := crcStd b }
/-- Strictly ascending. -/
def ascending : List Nat → Bool
  | a :: b :: t => decide (a < b) && ascending (b :: t)
  | _ => true

/-! ### Carries (R234, R235) -/

/-- κ_j = g^(j+1), from κ = `k` on. -/
def fprintLoop (k : Nat) : Nat → List Nat → Nat → Nat
  | _, [], acc => acc
  | i, u :: t, acc =>
    let kk := if i % 8192 = 0 then 2 else gf32 k 2
    fprintLoop kk (i + 1) t (acc ^^^ gf32 u kk)
/-- φ of a payload (R235): its 32-bit little-endian words, zero bytes appended. -/
def fingerprint (b : List Byte) : Nat := fprintLoop 2 0 (bytesElems 4 (b ++ List.replicate ((4 - b.length % 4) % 4) 0)) 0

structure Carry where
  stripe : Nat
  code : Nat
  plan : Nat
  start : Nat
  len : Nat
  fprint : Nat
  need : Nat
  nlost : Nat
  bitmap : List Byte
  payload : List Byte
deriving DecidableEq, Repr

/-- Bit `x` of a bitmap. -/
def mapBit (b : List Byte) (x : Nat) : Bool := (b.getD (x / 8) 0).getLsbD (x % 8)
/-- A bitmap of 512 bytes with the listed bits. -/
def bitmapOf (l : List Nat) : List Byte :=
  (rangeFrom 0 512).map fun i => byte ((rangeFrom 0 8).foldl (fun a j => a + (if l.contains (8 * i + j) then 2 ^ j else 0)) 0)
/-- Bits of a bitmap. -/
def bitsOf (b : List Byte) : List Nat := (rangeFrom 0 4096).filter (mapBit b)

def carryHeader (c : Carry) : List Byte :=
  let h := leBytes 4 0x43415259 ++ leBytes 2 1 ++ leBytes 2 0 ++ leBytes 8 c.stripe ++ leBytes 4 c.code ++ leBytes 4 c.plan ++
    leBytes 8 c.start ++ leBytes 8 c.len ++ leBytes 4 c.fprint ++ leBytes 2 c.need ++ leBytes 2 (bitsOf c.bitmap).length ++
    leBytes 2 c.nlost
  let b := ((h ++ List.replicate 128 0).take 128 ++ c.bitmap ++ List.replicate 512 0).take 0x3FC
  b ++ leBytes 4 (crcStd b)
def carryBytes (c : Carry) : List Byte := carryHeader c ++ c.payload
def carryOf (h payload : List Byte) : Carry :=
  { stripe := leAt h 8 8, code := leAt h 0x10 4, plan := leAt h 0x14 4, start := leAt h 0x18 8, len := leAt h 0x20 8,
    fprint := leAt h 0x28 4, need := leAt h 0x2C 2, nlost := leAt h 0x30 2, bitmap := (h.drop 0x80).take 512, payload := payload }
/-- MAGIC, VERSION and HCRC of a carry (R237). -/
def carryOk (h : List Byte) : Bool :=
  leAt h 0 4 == 0x43415259 && (leAt h 4 2 == 1 && leAt h 0x3FC 4 == crcStd (h.take 0x3FC))

/-- Vectors interleaved position by position (R234). -/
def interleave (n : Nat) (vs : List Vec) : Vec := ((rangeFrom 0 n).map fun t => vs.map fun v => v.getD t 0).flatten
/-- Vector `q` of `r` interleaved ones. -/
def deinterleave (r : Nat) (x : Vec) (q : Nat) : Vec :=
  ((chunks (max 1 r) (x.length + 1) x).map fun g => g.getD q 0)

/-! ### The data area (R227) -/

/-- The data area of object bytes, zeros appended. -/
def padTo (n : Nat) (b : List Byte) : List Byte := (b ++ List.replicate n 0).take n
/-- XTS over an area of 4,096-byte units whose first unit is `tweak` (R227, R200). -/
def areaCrypt (key : List Byte) (dec : Bool) (tweak : Nat) (b : List Byte) : List Byte :=
  xtsBlocks key dec tweak 12 0 (chunks 16 (b.length / 16 + 1) b)
/-- Shards of `n` bytes each. -/
def cutBodies (n : Nat) (b : List Byte) : List (List Byte) := chunks (max 1 n) (b.length / max 1 n + 1) b

end Sys2Proof.Machine
end

