-- ==== Sys2Proof/Machine/Stripes.lean ====
section
/-! DEFINITION. The stripe commands that vendor programs run (07_codes_stripes.md R222-R248; 16_startup.md R444, R445). A row runs a
vendor program up to its next wait or its end; its drive requests are answered by the row's operand. -/
namespace Sys2Proof.Machine

/-- A vendor program at work: it changes the device, and ends early with a status. -/
abbrev VM := ExceptT Nat (StateM State)

/-- What a vendor program runs with: its spire and context, its command's in-flight entry and index, what surrounds the row, and what it
has waited for. -/
structure VEnv where
  n : Fin 8
  c : Fin 4
  i : Nat
  ent : IftEnt
  io : StripeIo
  wait : Option VWait
/-- A program ends with OK, or waits. -/
abbrev VOut := Option VWait

/-- Ends the program with a status unless the condition holds. -/
def need (b : Bool) (status : Nat) : VM Unit := if b then pure () else throw status

/-- A read of memory by the program: a bus error ends it with PARAM, poison with INTEGRITY (R204). -/
def vRead (e : VEnv) (a n : Nat) : VM (List Byte) := do
  let r := busRead (← get) (sprId e.n) a n
  set r.1
  match r.2 with
  | .error _ => throw 3
  | .ok (d, p) => if p then throw 5 else pure d
/-- A write of memory by the program. -/
def vWrite (e : VEnv) (a : Nat) (d : List Byte) : VM Unit := do
  if d.isEmpty then pure () else
  let r := busWrite (← get) (sprId e.n) a d
  set r.1
  match r.2 with
  | some _ => throw 3
  | none => pure ()
/-- Bytes that the manual does not state. -/
def vFree (n : Nat) : VM (List Byte) := do
  let r := (← get).freshBytes (n / 8)
  set r.2
  pure r.1

/-- Parameters of the command, read from the parameter block: MAP, BUF, OFF, LEN, AUX0, AUX1 (R243). -/
structure Parms where
  map : Nat
  buf : Nat
  off : Nat
  len : Nat
  aux0 : Nat
  aux1 : Nat

def vParms (e : VEnv) : VM Parms := do
  let b ← vRead e (parmBase + e.i * 64) 64
  pure { map := leAt b 16 8, buf := leAt b 24 8, off := leAt b 32 8, len := leAt b 40 8, aux0 := leAt b 48 8, aux1 := leAt b 56 8 }

/-- A map, its bytes and its code record, with the code's table (R219-R224). -/
structure Job where
  map : SMapRec
  raw : List Byte
  code : Code
  gen : List Byte

/-- The map and the code record at a map address. -/
def vHeader (e : VEnv) (a : Nat) : VM Job := do
  need (decide (a % 64 = 0) && inDram a 64) 3
  let h ← vRead e a 64
  let raw ← vRead e a (64 + 16 * leAt h 0x24 2)
  need (mapOk raw) 3
  let m := mapOf raw
  need (decide (m.code % 64 = 0 ∧ m.code < 2 ^ 48) && inDram m.code 64) 3
  let r ← vRead e m.code 64
  let c := codeOf r
  need (codeOk r c) 3
  need (decide (m.nsh = c.n ∧ 1 ≤ m.objlen ∧ m.objlen ≤ c.k * c.size)) 3
  pure { map := m, raw := raw, code := c, gen := [] }

/-- The code's table, checked against GENCRC (R222); it passes through the program's quarter of the coefficient RAM (R223). -/
def vGen (e : VEnv) (j : Job) : VM Job := do
  let g ← vRead e j.code.gen j.code.genLen
  need (crcStd g == j.code.genCrc) 5
  let f ← vFree 16384
  set (coefWrite (← get) e.n (e.c.val * 0x4000) f)
  pure { j with gen := g }

/-- Bytes of a code's scratch area (R244). -/
def Code.scratchLen (c : Code) : Nat := (if c.kind = 3 then 2 * 2 ^ c.logl else 32) * (c.slice + 64)
/-- The scratch area of a command is 2 MiB-aligned in scratch (R244). -/
def scratchOk (a : Nat) (c : Code) : Bool := decide (scrBase ≤ a ∧ a + c.scratchLen ≤ scrBase + 0x4000000 ∧ a % 0x200000 = 0)
/-- What the scratch area holds after a command is not stated. -/
def vScratch (e : VEnv) (a : Nat) (c : Code) : VM Unit := do
  let f ← vFree c.scratchLen
  vWrite e a f
/-- The walk of R228 over a work area does not fit a descriptor, and goes over staging slots. -/
def Code.staged (c : Code) : Bool := decide (2 ^ 32 < c.k * c.pitch / c.w)
/-- A work area is 64-byte aligned in DRAM (R244): the slots of the shards, and k staging slots where the walk needs them (R228). -/
def workOk (a : Nat) (c : Code) : Bool :=
  decide (a % 64 = 0) && inDram a (c.n * c.pitch + (if c.staged then c.k * (c.slice + 64) else 0))
/-- The staging slots after a walk over the shards whose ranges are given: each holds its shard's last slice (R228). -/
def vStage (e : VEnv) (c : Code) (work : Nat) (l : List (List Byte)) : VM Unit :=
  if c.staged then
    ((rangeFrom 0 c.k).zip l).forM fun x => vWrite e (work + c.n * c.pitch + x.1 * (c.slice + 64)) (x.2.drop (x.2.length - c.slice))
  else pure ()

/-- A range of whole slices (R244). -/
def rangeOk (p : Parms) (c : Code) : Bool :=
  decide (p.off % max 1 c.slice = 0 ∧ p.len % max 1 c.slice = 0 ∧ 0 < p.len ∧ p.off + p.len ≤ c.size)

/-- Reads shard `x` of the map; `k` is its place among the answers. A readable one is left in its slot of the work area (R228). -/
def vShard (e : VEnv) (j : Job) (work : Option Nat) (x k : Nat) : VM ShardRead := do
  let b := e.io.reads.getD k none
  let r := shardCheck j.code j.map x b
  match work, b with
  | some a, some d => vWrite e (a + x * j.code.pitch) (d.take (4096 + j.code.size))
  | _, _ => pure ()
  pure r

/-- The entry of shard `x`. -/
def Job.ent (j : Job) (x : Nat) : MapEnt := j.map.ents.getD x ⟨0, 0, 0, 0⟩
/-- Reads a shard if its entry is PRESENT. -/
def vPresent (e : VEnv) (j : Job) (work : Option Nat) (x k : Nat) : VM ShardRead :=
  if (j.ent x).state = 0 then vShard e j work x k else pure .media


/-- Writes shards to their drives: index, body and tail. A fenced device writes none (R293); where a drive does not carry its write out,
the command has written none (R263). -/
def vDrives (e : VEnv) (j : Job) (l : List (Nat × List Byte)) : VM Unit := do
  need (l.isEmpty || !((← get).fence)) 6
  match l.find? fun x => e.io.writes.getD x.1 0 != 0 with
  | some x => throw (if e.io.writes.getD x.1 0 = 1 then 4 else if e.io.writes.getD x.1 0 = 2 then 6 else 8)
  | none =>
    l.forM fun x => do
      let t := j.ent x.1
      modify fun s => driveOut s t.port (writeCdb t.lba ((4096 + j.code.size) / s.blockSize t.port)) x.2

/-- Parameters that a command does not use are 0, and its addresses are DRAM addresses (R244). -/
def addr48 (a : Nat) : Bool := decide (a < 2 ^ 48)

/-- The key of the map's slot for the program's spire (R199, R247). -/
def vKey (e : VEnv) (m : SMapRec) : VM (List Byte) := do
  match keyLatch (← get) e.n (cell m.key) 1 with
  | .ok k => pure k
  | .error _ => throw 9

/-! ### Handoffs of the narrow programs (R21, R445) -/

/-- Address of a register of the spire's side of its handoff channel 56 + n. -/
def handReg (e : VEnv) (off : Nat) : Nat := regAddr (mbPage (56 + e.n.val)) (mbOff (56 + e.n.val) + off)
/-- Transfer `k` is handed to the service firmware on Turret 0: the in-flight index to the handoff cell, doorbell bit c. -/
def vHand (e : VEnv) (k : Nat) : VM VOut := do
  vWrite e e.io.cell.toNat (leBytes 8 e.i)
  vWrite e (handReg e 0x20) (leBytes 4 (2 ^ e.c.val))
  pure (some (.hand k))
/-- The wait on doorbell bit c and bit 31: none while neither is set, else the status cell; bit 31 ends the program with ABORTED. -/
def vAnswer (e : VEnv) : VM (Option Nat) := do
  let d ← vRead e (handReg e 0x24) 4
  let hit := ofLE d &&& (2 ^ e.c.val + 2 ^ 31)
  if hit = 0 then pure none
  else do
    vWrite e (handReg e 0x24) (leBytes 4 hit)
    need (!(bit hit 31)) 7
    let b ← vRead e (e.io.cell.toNat + 8) 8
    pure (some (ofLE b))

/-! ### GET and PUT (R227, R230, R231, R36) -/

/-- Bodies of the data shards of a matrix code from `k` chosen readable shards (R230). -/
def decodeData (c : Code) (gen : List Byte) (chosen : List (Nat × List Byte)) : Option (List (List Byte)) :=
  (repairRows c gen (chosen.map (·.1)) (rangeFrom 0 c.k)).map fun rows =>
    let vs := chosen.map fun x => bytesElems c.w x.2
    (rowsApply c.w ((vs.getD 0 []).length) rows vs).map (elemBytes c.w)

/-- Readable shards among the results, by index. -/
def readable (l : List (Nat × ShardRead)) : List (Nat × List Byte) := l.filterMap fun x => x.2.get.map fun b => (x.1, b)
/-- The status of too few readable shards (R230). -/
def lostStatus (l : List (Nat × ShardRead)) : Nat := if l.any (fun x => x.2 == .badBody) then 5 else 4

/-- Parity shards are read, lowest number first, until `k` shards are readable (R230). -/
def vMore (e : VEnv) (j : Job) (work : Option Nat) : List Nat → List (Nat × ShardRead) → VM (List (Nat × ShardRead))
  | [], l => pure l
  | x :: t, l =>
    if j.code.k ≤ (readable l).length then pure l
    else do
      let r ← vPresent e j work x x
      vMore e j work t (l ++ [(x, r)])

/-- The parameters, map and code of a GET or PUT (R244, R444). -/
def vObject (e : VEnv) : VM (Parms × Job) := do
  let p ← vParms e
  need (decide (p.off = 0) && addr48 p.map) 3
  let j ← vHeader e p.map
  need (decide (p.len = j.map.objlen) && (inDram p.buf p.len && (workOk p.aux0 j.code && scratchOk p.aux1 j.code))) 3
  need (!(e.ent.narrow && j.code.kind == 3)) 2
  pure (p, j)

/-- The object from its data area. -/
def vPlain (e : VEnv) (p : Parms) (j : Job) (bodies : List (List Byte)) : VM VOut := do
  let key ← vKey e j.map
  vWrite e p.buf ((areaCrypt key true j.map.tweak bodies.flatten).take j.map.objlen)
  pure none

/-- GET by a narrow program (R444, R445): each data shard comes to the work area by a handoff; one that is unreadable gives STATE. -/
def vGetNarrow (e : VEnv) (p : Parms) (j : Job) : VM VOut := do
  need ((rangeFrom 0 j.code.k).all fun x => (j.ent x).state == 0) 2
  match e.wait with
  | some (.hand k) =>
    match ← vAnswer e with
    | none => pure e.wait
    | some st => do
      need (st == 0) 2
      if k + 1 < j.code.k then vHand e (k + 1)
      else do
        let l ← (rangeFrom 0 j.code.k).mapM fun x => do
          let b ← vRead e (p.aux0 + x * j.code.pitch) (4096 + j.code.size)
          pure (shardCheck j.code j.map x (some b)).get
        need (l.all (·.isSome)) 2
        vPlain e p j (l.filterMap id)
  | _ => do
    let _ ← vGen e j
    vScratch e p.aux1 j.code
    let _ ← vKey e j.map
    vHand e 0

def vGet (e : VEnv) : VM VOut := do
  let (p, j0) ← vObject e
  if e.ent.narrow then vGetNarrow e p j0
  else do
    let j ← vGen e j0
    vScratch e p.aux1 j.code
    let _ ← vKey e j.map
    let data ← (rangeFrom 0 j.code.k).mapM fun x => do
      let r ← vPresent e j (some p.aux0) x x
      pure (x, r)
    let bodies ← if (readable data).length = j.code.k then pure ((readable data).map (·.2))
      else if j.code.kind = 3 then throw (lostStatus data)
      else do
        let l ← vMore e j (some p.aux0) (rangeFrom j.code.k j.code.m) data
        need (decide (j.code.k ≤ (readable l).length)) (lostStatus l)
        vStage e j.code p.aux0 ((readable l).map (·.2))
        match decodeData j.code j.gen (readable l) with
        | some d => pure d
        | none => throw 5
    vPlain e p j bodies

/-- Encrypts and encodes the object into the work area, with tails, and writes BODY_CRC and MCRC of the map (R225-R227). -/
def vSealed (e : VEnv) (p : Parms) (j0 : Job) : VM Unit := do
  let j ← vGen e j0
  vScratch e p.aux1 j.code
  let key ← vKey e j.map
  let obj ← vRead e p.buf j.map.objlen
  let data := cutBodies j.code.size (areaCrypt key false j.map.tweak (padTo (j.code.k * j.code.size) obj))
  if j.code.kind = 3 then pure () else vStage e j.code p.aux0 data
  let bodies := data ++ parityOf j.code j.gen data
  let epoch := (← get).epoch
  let crcs := bodies.map crcStd
  (rangeFrom 0 j.code.n).forM fun x =>
    vWrite e (p.aux0 + x * j.code.pitch) (bodies.getD x [] ++ tailOf j.code j.map x (crcs.getD x 0) epoch)
  vWrite e p.map (mapWithCrcs j.raw ((rangeFrom 0 j.code.n).zip crcs))

/-- The most bytes of one mirror request, whose LEN has 32 bits (R309). -/
def mirrorPart : Nat := 2 ^ 31
/-- Mirror request `k` of a PUT (R36, R309): a part of the work area, with the journal record at the start of the scratch area. It waits for a free slot of the program's ring. -/
def vMirror (e : VEnv) (p : Parms) (j : Job) (k jslot moff : Nat) : VM VOut := do
  match mirrorSlot (← get) (4 * e.n.val + e.c.val) with
  | none => pure (some (.mirror k none jslot moff))
  | some a => do
    let at_ := k * mirrorPart
    vWrite e p.aux1 (List.replicate 16 0 ++ padTo 48 e.io.record)
    vWrite e a (mirrorWords (p.aux0 + at_) (min mirrorPart (j.code.n * j.code.pitch - at_)) (moff + at_) p.aux1 jslot false)
    pure (some (.mirror k (some a) jslot moff))

/-- The STATUS of a mirror request (R310): SOLO counts as GOOD; LOST as GOOD on a device that is not fenced, else FENCED. For DMAERR and
REFUSED the manual gives no code: one of STATE, PARAM, MEDIA and INTEGRITY, a free value (log entry 38). -/
def vMirrored (st : Nat) : VM Unit := do
  if st < 2 then pure ()
  else if st = 2 then need (!((← get).fence)) 6
  else do
    let f := (← get).fresh
    set f.2
    throw (f.1.toNat % 4 + 2)

/-- PUT ends; its shards go to their drives and its journal record is retired after the completion (R36). -/
def vPutDone (e : VEnv) (p : Parms) (j : Job) (jslot : Nat) : VM VOut := do
  let w := (rangeFrom 0 j.code.n).map fun x =>
    ({ port := (j.ent x).port, lba := (j.ent x).lba, addr := p.aux0 + x * j.code.pitch, len := 4096 + j.code.size,
       good := e.io.writes.getD x 0 == 0 } : ShardOut)
  let s ← get
  match s.ift e.i with
  | some ent => set (s.setIft e.i (some { ent with rest := some { writes := w, ring := 4 * e.n.val + e.c.val, jslot := jslot } }))
  | none => pure ()
  pure none

/-- PUT by a narrow program (R445): handoff 0 is the mirror request, 1 to n the drive transfers that follow its acknowledgement, n + 1
the retiring of the journal record; a fenced device hands over no drive write (R293). -/
def vPutNarrow (e : VEnv) (p : Parms) (j : Job) : VM VOut := do
  match e.wait with
  | some (.hand k) =>
    match ← vAnswer e with
    | none => pure e.wait
    | some st => do
      if k = 0 then vMirrored st else pure ()
      if k ≤ j.code.n && !((← get).fence) then vHand e (k + 1) else pure none
  | _ => do
    vSealed e p j
    need (!((← get).fence)) 6
    vHand e 0

def vPut (e : VEnv) : VM VOut := do
  let (p, j) ← vObject e
  need (j.map.ents.all fun t => t.state == 3) 3
  if e.ent.narrow then vPutNarrow e p j
  else match e.wait with
    | some (.mirror k none jslot moff) => vMirror e p j k jslot moff
    | some (.mirror k (some a) jslot moff) => do
      let b ← vRead e (a + 56) 8
      if leAt b 0 1 ≠ 3 then pure e.wait
      else do
        vMirrored (leAt b 1 1)
        if (k + 1) * mirrorPart < j.code.n * j.code.pitch then vMirror e p j (k + 1) jslot moff
        else vPutDone e p j jslot
    | _ => do
      vSealed e p j
      need (!((← get).fence)) 6
      vMirror e p j 0 e.io.jslot.toNat e.io.moff.toNat

/-! ### ENCODE and RECON (R229, R232, R233, R244) -/

def vEncode (e : VEnv) : VM VOut := do
  let p ← vParms e
  need (addr48 p.map && p.aux1 == 0) 3
  let j0 ← vHeader e p.map
  need (rangeOk p j0.code && (workOk p.buf j0.code && scratchOk p.aux0 j0.code)) 3
  let j ← vGen e j0
  vScratch e p.aux0 j.code
  let data ← (rangeFrom 0 j.code.k).mapM fun x => vRead e (p.buf + x * j.code.pitch + p.off) p.len
  if j.code.kind = 3 then pure () else vStage e j.code p.buf data
  let par := parityOf j.code j.gen data
  (rangeFrom 0 j.code.m).forM fun q => vWrite e (p.buf + (j.code.k + q) * j.code.pitch + p.off) (par.getD q [])
  pure none

/-- The repair set at an address, checked against the map (R232, R248). -/
def vRepair (e : VEnv) (j : Job) (a : Nat) : VM RepairSet := do
  need (decide (a % 8 = 0) && inDram a 8) 3
  let h ← vRead e a 8
  let u := leAt h 0 2
  let r := leAt h 2 2
  need (decide (u = j.code.k ∧ 1 ≤ r ∧ r ≤ 32 ∧ leAt h 4 4 = 0)) 3
  let b ← vRead e a (repairLen u r j.code.w)
  let rs := repairOf j.code.w b
  need (ascending rs.surv && (rs.surv.all (fun x => decide (x < j.code.n) && (j.ent x).state != 1) &&
    rs.lost.all fun x => decide (x < j.code.n))) 3
  pure rs

/-- Body checks of rebuilt whole bodies against BODY_CRC (R237). -/
def crcsMatch (j : Job) (l : List (Nat × List Byte)) : Bool := l.all fun x => crcStd x.2 == (j.ent x.1).crc
/-- A body with its tail. -/
def withTail (j : Job) (epoch x : Nat) (b : List Byte) : List Byte := b ++ tailOf j.code j.map x (crcStd b) epoch

/-- Leaves rebuilt ranges in the work area and, when the range is the whole body and every output's check matches BODY_CRC of the map,
builds new tails behind the LOST shards and writes them (R228, R237, R239). -/
def vRebuilt (e : VEnv) (j : Job) (work : Nat) (p : Parms) (out : List (Nat × List Byte)) : VM VOut := do
  out.forM fun x => vWrite e (work + x.1 * j.code.pitch + p.off) x.2
  if p.off = 0 ∧ p.len = j.code.size then do
    need (crcsMatch j out) 5
    let epoch := (← get).epoch
    let l := (out.filter fun x => (j.ent x.1).state == 1).map fun x => (x.1, withTail j epoch x.1 x.2)
    l.forM fun x => vWrite e (work + x.1 * j.code.pitch) x.2
    vDrives e j l
  else pure ()
  pure none

/-- The range of a body. -/
def cutRange (p : Parms) (b : List Byte) : List Byte := (b.drop p.off).take p.len

def vRecon (e : VEnv) : VM VOut := do
  let p ← vParms e
  need (addr48 p.map && addr48 p.aux0) 3
  let j0 ← vHeader e p.map
  need (rangeOk p j0.code && (workOk p.buf j0.code && (scratchOk p.aux1 j0.code && !(p.aux0 == 0 && j0.code.kind == 3)))) 3
  let rs0 ← if p.aux0 = 0 then pure none else some <$> vRepair e j0 p.aux0
  let j ← vGen e j0
  vScratch e p.aux1 j.code
  match rs0 with
  | none => do
    let lost := (rangeFrom 0 j.code.n).filter fun x => (j.ent x).state == 1
    let l ← vMore e j (some p.buf) (rangeFrom 0 j.code.n) []
    need (decide (j.code.k ≤ (readable l).length)) (lostStatus (l.filter fun x => (j.ent x.1).state == 0))
    match repairRows j.code j.gen ((readable l).map (·.1)) lost with
    | none => throw 5
    | some rows =>
      vStage e j.code p.buf ((readable l).map fun x => cutRange p x.2)
      let vs := (readable l).map fun x => bytesElems j.code.w (cutRange p x.2)
      vRebuilt e j p.buf p (lost.zip ((rowsApply j.code.w (p.len / j.code.w) rows vs).map (elemBytes j.code.w)))
  | some rs => do
    let l ← rs.surv.mapM fun x => do
      let r ← vPresent e j (some p.buf) x x
      pure (x, r)
    need (decide ((readable l).length = rs.surv.length)) (lostStatus l)
    vStage e j.code p.buf ((readable l).map fun x => cutRange p x.2)
    let vs := (readable l).map fun x => bytesElems j.code.w (cutRange p x.2)
    vRebuilt e j p.buf p (rs.lost.zip ((rowsApply j.code.w (p.len / j.code.w) rs.rows vs).map (elemBytes j.code.w)))

/-! ### VERIFY and SCRUB (R240, R241) -/

/-- The result record (R240). -/
def verifyRecord (m : SMapRec) (checked : Nat) (bad skip : List Nat) (parity : Nat) : List Byte :=
  leBytes 8 m.id ++ leBytes 2 checked ++ leBytes 2 bad.length ++ leBytes 2 skip.length ++ leBytes 2 parity ++ List.replicate 48 0 ++
  bitmapOf bad ++ bitmapOf skip

/-- Reads the shards in turn: SCRUB passes over one whose set's flag is 0 when its read would be issued, VERIFY waits for the set; where
the row pauses or the set is not ready, the shard to go on with (R240, R241). -/
def vScan (scrub : Bool) (e : VEnv) (j : Job) (work : Nat) : List Nat → List Nat × List Nat × List Nat →
    VM (Option Nat × List Nat × List Nat × List Nat)
  | [], a => pure (none, a)
  | x :: t, (good, bad, skip) => do
    let up := flagReady (← get) (j.ent x).port
    if e.io.upto.any (· ≤ x) || !(up || scrub) then pure (some x, good, bad, skip)
    else if !up then vScan scrub e j work t (good, bad, skip ++ [x])
    else do
      let r ← vShard e j (some work) x x
      vScan scrub e j work t (if r.get.isSome then (good ++ [x], bad, skip) else (good, bad ++ [x], skip))

def vVerify (scrub : Bool) (e : VEnv) : VM VOut := do
  let p ← vParms e
  need (decide (p.off = 0 ∧ p.aux0 < 2) && (addr48 p.map && inDram p.buf 1088)) 3
  let j0 ← vHeader e p.map
  need (decide (p.len = j0.code.size) && workOk p.aux1 j0.code) 3
  let j ← vGen e j0
  let (next, acc) := match e.wait with
    | some (.scan x g b k) => (x, (g, b, k))
    | _ => (0, ([], [], []))
  match ← vScan scrub e j p.aux1 ((rangeFrom next (j.code.n - next)).filter fun x => (j.ent x).state != 2) acc with
  | (some x, g, b, k) => pure (some (.scan x g b k))
  | (none, good, bad, skip) => do
    let data := good.filter (· < j.code.k)
    let parity ← if p.aux0 = 1 ∧ data.length = j.code.k then do
        let l ← good.mapM fun x => vRead e (p.aux1 + x * j.code.pitch) j.code.size
        let d := l.take j.code.k
        if j.code.kind = 3 then pure () else vStage e j.code p.aux1 d
        let par := parityOf j.code j.gen d
        pure (if (good.zip l).all (fun x => decide (x.1 < j.code.k) || par.getD (x.1 - j.code.k) [] == x.2) then 1 else 2)
      else pure 0
    vWrite e p.buf (verifyRecord j.map (good.length + bad.length) bad skip parity)
    need (scrub || (bad.isEmpty && parity != 2)) 5
    pure none

/-! ### Accumulator carries (R234-R238) -/

/-- Adds the local survivors' contribution to a carry (R236 steps 2 to 4); none where there is no local survivor. -/
def vContribute (e : VEnv) (j : Job) (p : Parms) (rs : RepairSet) (c : Carry) : VM (Option Carry) := do
  let local_ := (rs.surv.zip (rangeFrom 0 rs.surv.length)).filter fun x => (j.ent x.1).state == 0 && !(mapBit c.bitmap x.1)
  let l ← local_.mapM fun x => do
    let r ← vShard e j none x.1 x.1
    pure (x, r)
  need (l.all fun x => x.2.get.isSome) (lostStatus (l.map fun x => (x.1.1, x.2)))
  if l.isEmpty then pure none
  else do
    let w := j.code.w
    let n := p.len / w
    let vs := l.map fun x => bytesElems w (cutRange p (x.2.get.getD []))
    let rows := rs.rows.map fun row => l.map fun x => row.getD x.1.2 0
    let add := elemBytes w (interleave n (rowsApply w n rows vs))
    let pay := List.zipWith (fun (a b : Byte) => a ^^^ b) c.payload add
    pure (some { c with payload := pay, fprint := c.fprint ^^^ fingerprint add, bitmap := bitmapOf (bitsOf c.bitmap ++ l.map (·.1.1)) })

/-- The carry at AUX0, validated (R237 step 1). -/
def vCarry (e : VEnv) (j : Job) (p : Parms) (rs : RepairSet) : VM Carry := do
  let h ← vRead e p.aux0 1024
  need (carryOk h) 3
  let c0 := carryOf h []
  need (decide (c0.stripe = j.map.id ∧ c0.code = j.code.id ∧ c0.plan = rs.digest ∧ c0.start = p.off ∧ c0.len = p.len ∧
    c0.nlost = rs.lost.length)) 3
  let pay ← vRead e (1024 + p.aux0) (rs.lost.length * p.len)
  need (fingerprint pay == c0.fprint) 5
  pure { c0 with payload := pay }

/-- An empty carry (R236 step 1). -/
def emptyCarry (j : Job) (p : Parms) (rs : RepairSet) : Carry :=
  { stripe := j.map.id, code := j.code.id, plan := rs.digest, start := p.off, len := p.len, fprint := 0, need := rs.surv.length,
    nlost := rs.lost.length, bitmap := List.replicate 512 0, payload := List.replicate (rs.lost.length * p.len) 0 }

/-- Parameters, map, table and repair set of a carry command. -/
def vAccum (e : VEnv) (flagged : Bool) : VM (Parms × Job × RepairSet) := do
  let p ← vParms e
  need (addr48 p.map && decide (p.aux1 % 2 ^ 63 < 2 ^ 48)) 3
  need (flagged || decide (p.aux1 < 2 ^ 63)) 3
  let j0 ← vHeader e p.map
  need (rangeOk p j0.code) 3
  let rs ← vRepair e j0 (p.aux1 % 2 ^ 48)
  let n := 1024 + rs.lost.length * p.len
  need (inDram p.buf n && (inDram p.aux0 n || (!flagged && p.aux0 == 0))) 3
  let j ← vGen e j0
  pure (p, j, rs)

def vAccumOut (e : VEnv) : VM VOut := do
  let (p, j, rs) ← vAccum e false
  let c ← if p.aux0 = 0 then pure (emptyCarry j p rs) else vCarry e j p rs
  match ← vContribute e j p rs c with
  | some c1 => vWrite e p.buf (carryBytes c1)
  | none => vWrite e p.buf (carryBytes c)
  pure none

def vAccumIn (e : VEnv) : VM VOut := do
  let (p, j, rs) ← vAccum e true
  let c ← vCarry e j p rs
  match ← vContribute e j p rs c with
  | none => throw 1
  | some c1 => do
    vWrite e p.buf (carryBytes c1)
    if (bitsOf c1.bitmap).length = c1.need ∧ bit p.aux1 63 = true ∧ p.off = 0 ∧ p.len = j.code.size then do
      let r := rs.lost.length
      let x := bytesElems j.code.w c1.payload
      let out := rs.lost.zip ((rangeFrom 0 r).map fun q => elemBytes j.code.w (deinterleave r x q))
      need (crcsMatch j out) 5
      let epoch := (← get).epoch
      vDrives e j ((out.filter fun x => (j.ent x.1).state == 1).map fun x => (x.1, withTail j epoch x.1 x.2))
    else pure ()
    pure none

/-! ### TRANSCODE (R239) -/

/-- Chosen survivors of old stripe `g`: `k` readable ones, data first. Answers are numbered stripe after stripe. -/
def vSurvivors (e : VEnv) (g : Nat) (j : Job) : VM (List (Nat × List Byte)) := do
  let rec go : List Nat → List (Nat × ShardRead) → VM (List (Nat × ShardRead))
    | [], l => pure l
    | x :: t, l =>
      if j.code.k ≤ (readable l).length then pure l
      else do
        let r ← vPresent e j none x (g * j.code.n + x)
        go t (l ++ [(x, r)])
  let l ← go (rangeFrom 0 j.code.n) []
  need (decide (j.code.k ≤ (readable l).length)) (lostStatus l)
  pure (readable l)

/-- Rows over all survivors for one old stripe's data shard: its decode row at the stripe's place. -/
def placeRow (g stripes k : Nat) (row : List Nat) : List Nat :=
  ((rangeFrom 0 stripes).map fun h => if h = g then row else List.replicate k 0).flatten

def vTranscode (e : VEnv) : VM VOut := do
  let p ← vParms e
  let g := fld p.aux0 56 8
  need (addr48 p.map && (inDram (p.aux0 % 2 ^ 48) (8 * g) && (fld p.aux0 48 8 == 0 && decide (1 ≤ g)))) 3
  let j0 ← vHeader e p.map
  need (rangeOk p j0.code && (workOk p.buf j0.code && (scratchOk p.aux1 j0.code && j0.code.kind != 3))) 3
  let lst ← vRead e (p.aux0 % 2 ^ 48) (8 * g)
  let olds0 ← (rangeFrom 0 g).mapM fun i => vHeader e (leAt lst (8 * i) 8)
  let a := (olds0.map (·.code)).getD 0 j0.code
  need (olds0.all (fun o => o.code == a) && decide (a.kind = j0.code.kind ∧ j0.code.k = g * a.k ∧ a.size = j0.code.size)) 3
  let same := (rangeFrom 0 g).all fun i => (rangeFrom 0 a.k).all fun x =>
    match olds0[i]? with
    | some o => (o.ent x).port == (j0.ent (i * a.k + x)).port && (o.ent x).lba == (j0.ent (i * a.k + x)).lba
    | none => false
  need same 3
  let lost := ((rangeFrom 0 g).map fun i => ((rangeFrom 0 a.k).filter fun x =>
    match olds0[i]? with | some o => (o.ent x).state == 1 | none => false).map fun x => (i, x)).flatten
  need (decide (lost.length + j0.code.m ≤ 32 ∧ g * a.k ≤ 255)) 3
  let j ← vGen e j0
  let oldj ← (match olds0 with | o :: _ => vGen e o | [] => throw 3)
  vScratch e p.aux1 j.code
  let surv ← ((rangeFrom 0 g).zip olds0).mapM fun x => vSurvivors e x.1 x.2
  let dec := surv.map fun l => repairRows a oldj.gen (l.map (·.1)) (rangeFrom 0 a.k)
  let rowOf := fun (i x : Nat) => placeRow i g a.k (((dec.getD i none).getD []).getD x [])
  need (dec.all (·.isSome)) 5
  let all := ((rangeFrom 0 g).map fun i => (rangeFrom 0 a.k).map fun x => rowOf i x).flatten
  let w := j.code.w
  let rows := lost.map (fun y => rowOf y.1 y.2) ++
    (rangeFrom 0 j.code.m).map fun q => rowApply w (g * a.k) (genRow w j.code.k j.gen q) all
  let vs := (surv.flatten).map fun x => bytesElems w (cutRange p x.2)
  let out := (rowsApply w (p.len / w) rows vs).map (elemBytes w)
  vStage e j.code p.buf ((surv.flatten).map fun x => cutRange p x.2)
  let idx := lost.map (fun y => y.1 * a.k + y.2) ++ rangeFrom j.code.k j.code.m
  vRebuilt e j p.buf p (idx.zip out)

/-! ### Running a vendor program -/

/-- The end of a run of the program in its context: it waits, or VEND ends it; the result that VEND pops is not stated (R165, R247). -/
def vEnd (s : State) (n : Fin 8) (c : Fin 4) (r : Except Nat VOut) : State :=
  let stop := fun (st : Nat) => let f := s.fresh
    spEnd f.2 n c st (w32 f.1.toNat)
  match r with
  | .ok (some w) => s.setSc n c { s.sc n c with vwait := some w, st := match w with | .hand _ => .mwait | _ => .run }
  | .ok none => stop 0
  | .error st => stop st

/-- The vendor program of a command runs in its context up to its next wait or its end.
A program whose command's completion has been discarded ends with no effect that the manual states (R269). -/
def vendorRun (s : State) (n : Fin 8) (c : Fin 4) (op : Nat) (io : StripeIo) (body : VEnv → VM VOut) : State :=
  let x := s.sc n c
  if seqRuns s n && (x.st == .run || x.st == .gwait || x.st == .mwait) then
    match x.ift with
    | none => s
    | some i =>
      if 8192 ≤ i then spEnd s n c 7 0
      else match s.ift i with
        | none => s
        | some ent =>
          if ent.opcode = op ∧ ent.st ≠ 2 then
            let s0 := s.setIft i (some { ent with st := 1 })
            let r := (body { n := n, c := c, i := i, ent := ent, io := io, wait := x.vwait }).run s0
            vEnd r.2 n c r.1
          else s
  else s

def execGet (sp : Fin 8) (c : Fin 4) (io : StripeIo) (s : State) : Res := ok (vendorRun s sp c 1 io vGet)
def execPut (sp : Fin 8) (c : Fin 4) (io : StripeIo) (s : State) : Res := ok (vendorRun s sp c 2 io vPut)
def execEncode (sp : Fin 8) (c : Fin 4) (io : StripeIo) (s : State) : Res := ok (vendorRun s sp c 3 io vEncode)
def execRecon (sp : Fin 8) (c : Fin 4) (io : StripeIo) (s : State) : Res := ok (vendorRun s sp c 4 io vRecon)
def execVerify (sp : Fin 8) (c : Fin 4) (io : StripeIo) (s : State) : Res := ok (vendorRun s sp c 5 io (vVerify false))
def execScrub (sp : Fin 8) (c : Fin 4) (io : StripeIo) (s : State) : Res := ok (vendorRun s sp c 6 io (vVerify true))
def execAccumOut (sp : Fin 8) (c : Fin 4) (io : StripeIo) (s : State) : Res := ok (vendorRun s sp c 7 io vAccumOut)
def execAccumIn (sp : Fin 8) (c : Fin 4) (io : StripeIo) (s : State) : Res := ok (vendorRun s sp c 8 io vAccumIn)
def execTranscode (sp : Fin 8) (c : Fin 4) (io : StripeIo) (s : State) : Res := ok (vendorRun s sp c 9 io vTranscode)

/-- R164, R242: the operator program of the command starts in its context. -/
def progStart (s : State) (n : Fin 8) (c : Fin 4) : State :=
  if seqRuns s n then
    match (s.sc n c).ift with
    | none => s
    | some i => match s.ift i with
      | some e => if e.st = 0 then s.setIft i (some { e with st := 1 }) else s
      | none => s
  else s
def execProg (sp : Fin 8) (c : Fin 4) (s : State) : Res := ok (progStart s sp c)

/-! ### The queue engine's rows -/

def execQueueContextWrite (id : MasterId) (q : BitVec 18) (off : BitVec 6) (data : List Byte) (upset : Upset) (s : State) : Res :=
  okIf (!data.isEmpty) (cmdWrite s id (ctxAddr q.toNat + off.toNat) data upset)
def execEcommit (id : MasterId) (entry : Byte) (v : Word32) (s : State) : Res :=
  ok (cmdReg s id (sptPage entry.toNat) (sptOff entry.toNat + 0x24) v)
def execTenantTableWrite (id : MasterId) (slot : BitVec 12) (v : Word32) (s : State) : Res :=
  ok (cmdReg s id (0x130 + slot.toNat / 512) (0x100 + slot.toNat % 512 * 4) v)
def execSqDoorbell (id : MasterId) (v : Word32) (s : State) : Res := ok (cmdReg s id 0x120 0x104 v)
def execCqDoorbell (id : MasterId) (v : Word32) (s : State) : Res := ok (cmdReg s id 0x120 0x108 v)
def execSubmissionIntake (q : BitVec 18) (upset : Upset) (s : State) : Res := ok (intake s q.toNat upset)
def execSchedulerSelection (s : State) : Res := ok (selection s)
def execSpin (entry : BitVec 13) (s : State) : Res := ok (spinRun s entry.toNat)
def execFlush (entry : BitVec 13) (s : State) : Res := ok (flushRun s entry.toNat)

end Sys2Proof.Machine
end

