-- ==== Sys2Proof/Machine/Dispatch.lean ====
section
/-! DEFINITION. The effect of each command: one arm per constructor of Instr. -/
namespace Sys2Proof.Machine

def exec (i : Instr) (s : State) : Host.Outcome State Fault Refusal :=
  match i with
  | .registerWrite id addr data => Sys2Proof.Machine.execRegisterWrite id addr data s
  | .lock id page key => Sys2Proof.Machine.execLock id page key s
  | .irqSet id page bits => Sys2Proof.Machine.execIrqSet id page bits s
  | .dramRead id addr len upset => Sys2Proof.Machine.execDramRead id addr len upset s
  | .dramWrite id addr data upset => Sys2Proof.Machine.execDramWrite id addr data upset s
  | .sramAccess id addr op upset => Sys2Proof.Machine.execSramAccess id addr op upset s
  | .scrBstateWrite id page reg v => Sys2Proof.Machine.execScrBstateWrite id page reg v s
  | .bankZeroFill page bank => Sys2Proof.Machine.execBankZeroFill page bank s
  | .patrolRegion page failing => Sys2Proof.Machine.execPatrolRegion page failing s
  | .dmaStarve page => Sys2Proof.Machine.execDmaStarve page s
  | .scrubRead pch j upset => Sys2Proof.Machine.execScrubRead pch j upset s
  | .widen id v => Sys2Proof.Machine.execWiden id v s
  | .wideningCopyBlock upsets => Sys2Proof.Machine.execWideningCopyBlock upsets s
  | .wideDone => Sys2Proof.Machine.execWideDone s
  | .spareForce id v => Sys2Proof.Machine.execSpareForce id v s
  | .spareCopyBlock upsets => Sys2Proof.Machine.execSpareCopyBlock upsets s
  | .spareSwitch => Sys2Proof.Machine.execSpareSwitch s
  | .spareAbort why => Sys2Proof.Machine.execSpareAbort why s
  | .phaseTick => Sys2Proof.Machine.execPhaseTick s
  | .referenceCrossing src elapsed => Sys2Proof.Machine.execReferenceCrossing src elapsed s
  | .belfryStateChange => Sys2Proof.Machine.execBelfryStateChange s
  | .crossingTimeout elapsed => Sys2Proof.Machine.execCrossingTimeout elapsed s
  | .holdLimitExpiry => Sys2Proof.Machine.execHoldLimitExpiry s
  | .srcWrite id v => Sys2Proof.Machine.execSrcWrite id v s
  | .belfSlewWrite id v => Sys2Proof.Machine.execBelfSlewWrite id v s
  | .slewStep => Sys2Proof.Machine.execSlewStep s
  | .belfTimeLoRead id => Sys2Proof.Machine.execBelfTimeLoRead id s
  | .belfTimeHiRead id => Sys2Proof.Machine.execBelfTimeHiRead id s
  | .synchronousTick faults => Sys2Proof.Machine.execSynchronousTick faults s
  | .bcmpCtlWrite id c v => Sys2Proof.Machine.execBcmpCtlWrite id c v s
  | .bcmpTargetWrite id c high v => Sys2Proof.Machine.execBcmpTargetWrite id c high v s
  | .comparatorFire c => Sys2Proof.Machine.execComparatorFire c s
  | .tctlWrite id page t v => Sys2Proof.Machine.execTctlWrite id page t v s
  | .timerTick page t => Sys2Proof.Machine.execTimerTick page t s
  | .cmpWrite id page t v edge => Sys2Proof.Machine.execCmpWrite id page t v edge s
  | .cmpPreWrite id page t v => Sys2Proof.Machine.execCmpPreWrite id page t v s
  | .countWrite id page t v => Sys2Proof.Machine.execCountWrite id page t v s
  | .reloadWrite id page t v => Sys2Proof.Machine.execReloadWrite id page t v s
  | .linkedCountRead id page t => Sys2Proof.Machine.execLinkedCountRead id page t s
  | .timerStop page t => Sys2Proof.Machine.execTimerStop page t s
  | .timerRestart page t elapsed => Sys2Proof.Machine.execTimerRestart page t elapsed s
  | .nop op => Sys2Proof.Machine.execNop op s
  | .dup op => Sys2Proof.Machine.execDup op s
  | .drop op => Sys2Proof.Machine.execDrop op s
  | .swap op => Sys2Proof.Machine.execSwap op s
  | .over op => Sys2Proof.Machine.execOver op s
  | .rot op => Sys2Proof.Machine.execRot op s
  | .nrot op => Sys2Proof.Machine.execNrot op s
  | .nip op => Sys2Proof.Machine.execNip op s
  | .tuck op => Sys2Proof.Machine.execTuck op s
  | .pick op => Sys2Proof.Machine.execPick op s
  | .roll op => Sys2Proof.Machine.execRoll op s
  | .depth op => Sys2Proof.Machine.execDepth op s
  | .dup2 op => Sys2Proof.Machine.execDup2 op s
  | .drop2 op => Sys2Proof.Machine.execDrop2 op s
  | .swap2 op => Sys2Proof.Machine.execSwap2 op s
  | .zero op => Sys2Proof.Machine.execZero op s
  | .add op => Sys2Proof.Machine.execAdd op s
  | .sub op => Sys2Proof.Machine.execSub op s
  | .adc op => Sys2Proof.Machine.execAdc op s
  | .sbb op => Sys2Proof.Machine.execSbb op s
  | .neg op => Sys2Proof.Machine.execNeg op s
  | .inc op => Sys2Proof.Machine.execInc op s
  | .dec op => Sys2Proof.Machine.execDec op s
  | .mul op => Sys2Proof.Machine.execMul op s
  | .mulh op => Sys2Proof.Machine.execMulh op s
  | .mulhu op => Sys2Proof.Machine.execMulhu op s
  | .div op => Sys2Proof.Machine.execDiv op s
  | .divu op => Sys2Proof.Machine.execDivu op s
  | .min op => Sys2Proof.Machine.execMin op s
  | .max op => Sys2Proof.Machine.execMax op s
  | .minu op => Sys2Proof.Machine.execMinu op s
  | .maxu op => Sys2Proof.Machine.execMaxu op s
  | .and op => Sys2Proof.Machine.execAnd op s
  | .or op => Sys2Proof.Machine.execOr op s
  | .xor op => Sys2Proof.Machine.execXor op s
  | .not op => Sys2Proof.Machine.execNot op s
  | .andn op => Sys2Proof.Machine.execAndn op s
  | .shl op => Sys2Proof.Machine.execShl op s
  | .shr op => Sys2Proof.Machine.execShr op s
  | .sar op => Sys2Proof.Machine.execSar op s
  | .rol op => Sys2Proof.Machine.execRol op s
  | .ror op => Sys2Proof.Machine.execRor op s
  | .popc op => Sys2Proof.Machine.execPopc op s
  | .clz op => Sys2Proof.Machine.execClz op s
  | .ctz op => Sys2Proof.Machine.execCtz op s
  | .bswap op => Sys2Proof.Machine.execBswap op s
  | .sext op => Sys2Proof.Machine.execSext op s
  | .zext op => Sys2Proof.Machine.execZext op s
  | .eq op => Sys2Proof.Machine.execEq op s
  | .ne op => Sys2Proof.Machine.execNe op s
  | .lt op => Sys2Proof.Machine.execLt op s
  | .le op => Sys2Proof.Machine.execLe op s
  | .gt op => Sys2Proof.Machine.execGt op s
  | .ge op => Sys2Proof.Machine.execGe op s
  | .ltu op => Sys2Proof.Machine.execLtu op s
  | .leu op => Sys2Proof.Machine.execLeu op s
  | .gtu op => Sys2Proof.Machine.execGtu op s
  | .geu op => Sys2Proof.Machine.execGeu op s
  | .cmp op => Sys2Proof.Machine.execCmp op s
  | .tst op => Sys2Proof.Machine.execTst op s
  | .sel op => Sys2Proof.Machine.execSel op s
  | .ld op => Sys2Proof.Machine.execLd op s
  | .lds op => Sys2Proof.Machine.execLds op s
  | .st op => Sys2Proof.Machine.execSt op s
  | .ldl op r => Sys2Proof.Machine.execLdl op r s
  | .lwait op => Sys2Proof.Machine.execLwait op s
  | .fence op => Sys2Proof.Machine.execFence op s
  | .swapm op => Sys2Proof.Machine.execSwapm op s
  | .casm op => Sys2Proof.Machine.execCasm op s
  | .addm op => Sys2Proof.Machine.execAddm op s
  | .andm op => Sys2Proof.Machine.execAndm op s
  | .orm op => Sys2Proof.Machine.execOrm op s
  | .xorm op => Sys2Proof.Machine.execXorm op s
  | .lda op => Sys2Proof.Machine.execLda op s
  | .ldaPostmod op => Sys2Proof.Machine.execLdaPostmod op s
  | .ldsa op => Sys2Proof.Machine.execLdsa op s
  | .ldsaPostmod op => Sys2Proof.Machine.execLdsaPostmod op s
  | .sta op => Sys2Proof.Machine.execSta op s
  | .staPostmod op => Sys2Proof.Machine.execStaPostmod op s
  | .anld op => Sys2Proof.Machine.execAnld op s
  | .anoff op => Sys2Proof.Machine.execAnoff op s
  | .anrd op => Sys2Proof.Machine.execAnrd op s
  | .anadr op => Sys2Proof.Machine.execAnadr op s
  | .anstep op => Sys2Proof.Machine.execAnstep op s
  | .ret op => Sys2Proof.Machine.execRet op s
  | .jmp op => Sys2Proof.Machine.execJmp op s
  | .calli op => Sys2Proof.Machine.execCalli op s
  | .brk op => Sys2Proof.Machine.execBrk op s
  | .rdrc op => Sys2Proof.Machine.execRdrc op s
  | .wrrc op => Sys2Proof.Machine.execWrrc op s
  | .rdfl op => Sys2Proof.Machine.execRdfl op s
  | .wrfl op => Sys2Proof.Machine.execWrfl op s
  | .rdsp op => Sys2Proof.Machine.execRdsp op s
  | .movb op => Sys2Proof.Machine.execMovb op s
  | .fillb op => Sys2Proof.Machine.execFillb op s
  | .crcb op => Sys2Proof.Machine.execCrcb op s
  | .cmpb op => Sys2Proof.Machine.execCmpb op s
  | .pushi op imm => Sys2Proof.Machine.execPushi op imm s
  | .pushu op imm => Sys2Proof.Machine.execPushu op imm s
  | .addi op imm => Sys2Proof.Machine.execAddi op imm s
  | .andi op imm => Sys2Proof.Machine.execAndi op imm s
  | .ori op imm => Sys2Proof.Machine.execOri op imm s
  | .ldd op imm => Sys2Proof.Machine.execLdd op imm s
  | .std op imm => Sys2Proof.Machine.execStd op imm s
  | .br op imm => Sys2Proof.Machine.execBr op imm s
  | .bz op imm => Sys2Proof.Machine.execBz op imm s
  | .bnz op imm => Sys2Proof.Machine.execBnz op imm s
  | .call op imm => Sys2Proof.Machine.execCall op imm s
  | .loop op imm => Sys2Proof.Machine.execLoop op imm s
  | .syncI op => Sys2Proof.Machine.execSyncI op s
  | .syncC op => Sys2Proof.Machine.execSyncC op s
  | .gate op => Sys2Proof.Machine.execGate op s
  | .rete op => Sys2Proof.Machine.execRete op s
  | .csw op => Sys2Proof.Machine.execCsw op s
  | .wait op => Sys2Proof.Machine.execWait op s
  | .chkst op => Sys2Proof.Machine.execChkst op s
  | .bankrd op => Sys2Proof.Machine.execBankrd op s
  | .bankwr op => Sys2Proof.Machine.execBankwr op s
  | .mfcr op reg => Sys2Proof.Machine.execMfcr op reg s
  | .mtcr op reg => Sys2Proof.Machine.execMtcr op reg s
  | .dadd op => Sys2Proof.Machine.execDadd op s
  | .dsub op => Sys2Proof.Machine.execDsub op s
  | .dchk op => Sys2Proof.Machine.execDchk op s
  | .dtob op => Sys2Proof.Machine.execDtob op s
  | .btod op => Sys2Proof.Machine.execBtod op s
  | .fadd op => Sys2Proof.Machine.execFadd op s
  | .fsub op => Sys2Proof.Machine.execFsub op s
  | .fmul op => Sys2Proof.Machine.execFmul op s
  | .fdiv op => Sys2Proof.Machine.execFdiv op s
  | .fsqrt op => Sys2Proof.Machine.execFsqrt op s
  | .fma op => Sys2Proof.Machine.execFma op s
  | .fmin op => Sys2Proof.Machine.execFmin op s
  | .fmax op => Sys2Proof.Machine.execFmax op s
  | .feq op => Sys2Proof.Machine.execFeq op s
  | .flt op => Sys2Proof.Machine.execFlt op s
  | .fle op => Sys2Proof.Machine.execFle op s
  | .fneg op => Sys2Proof.Machine.execFneg op s
  | .fabs op => Sys2Proof.Machine.execFabs op s
  | .fclass op => Sys2Proof.Machine.execFclass op s
  | .fcvtI op => Sys2Proof.Machine.execFcvtI op s
  | .fcvtF op => Sys2Proof.Machine.execFcvtF op s
  | .fwiden op => Sys2Proof.Machine.execFwiden op s
  | .fnarrow op => Sys2Proof.Machine.execFnarrow op s
  | .interruptEntry n => Sys2Proof.Machine.execInterruptEntry n s
  | .spillEngineSpill n => Sys2Proof.Machine.execSpillEngineSpill n s
  | .spillEngineFill n => Sys2Proof.Machine.execSpillEngineFill n s
  | .farLoadReturn n c r => Sys2Proof.Machine.execFarLoadReturn n c r s
  | .storeBufferDrain n => Sys2Proof.Machine.execStoreBufferDrain n s
  | .cwbLineWrite n => Sys2Proof.Machine.execCwbLineWrite n s
  | .coreWarmReset n => Sys2Proof.Machine.execCoreWarmReset n s
  | .vdld op => Sys2Proof.Machine.execVdld op s
  | .vdst op => Sys2Proof.Machine.execVdst op s
  | .vddrop op => Sys2Proof.Machine.execVddrop op s
  | .vddup op => Sys2Proof.Machine.execVddup op s
  | .vdswap op => Sys2Proof.Machine.execVdswap op s
  | .vgo op => Sys2Proof.Machine.execVgo op s
  | .vwait op => Sys2Proof.Machine.execVwait op s
  | .vend op => Sys2Proof.Machine.execVend op s
  | .vldc op => Sys2Proof.Machine.execVldc op s
  | .vstc op => Sys2Proof.Machine.execVstc op s
  | .vcget op => Sys2Proof.Machine.execVcget op s
  | .vcput op => Sys2Proof.Machine.execVcput op s
  | .vmbring op => Sys2Proof.Machine.execVmbring op s
  | .vmbwait op => Sys2Proof.Machine.execVmbwait op s
  | .vonf op => Sys2Proof.Machine.execVonf op s
  | .vfrec op => Sys2Proof.Machine.execVfrec op s
  | .vfdesc op => Sys2Proof.Machine.execVfdesc op s
  | .vresume op => Sys2Proof.Machine.execVresume op s
  | .vdget op field => Sys2Proof.Machine.execVdget op field s
  | .vdset op field => Sys2Proof.Machine.execVdset op field s
  | .vadd op => Sys2Proof.Machine.execVadd op s
  | .vsub op => Sys2Proof.Machine.execVsub op s
  | .vadds op => Sys2Proof.Machine.execVadds op s
  | .vsubs op => Sys2Proof.Machine.execVsubs op s
  | .vaddus op => Sys2Proof.Machine.execVaddus op s
  | .vsubus op => Sys2Proof.Machine.execVsubus op s
  | .vmin op => Sys2Proof.Machine.execVmin op s
  | .vmax op => Sys2Proof.Machine.execVmax op s
  | .vminu op => Sys2Proof.Machine.execVminu op s
  | .vmaxu op => Sys2Proof.Machine.execVmaxu op s
  | .vand op => Sys2Proof.Machine.execVand op s
  | .vor op => Sys2Proof.Machine.execVor op s
  | .vxor op => Sys2Proof.Machine.execVxor op s
  | .vandn op => Sys2Proof.Machine.execVandn op s
  | .vnot op => Sys2Proof.Machine.execVnot op s
  | .vpopc op => Sys2Proof.Machine.execVpopc op s
  | .vshl op => Sys2Proof.Machine.execVshl op s
  | .vshr op => Sys2Proof.Machine.execVshr op s
  | .vsar op => Sys2Proof.Machine.execVsar op s
  | .vrol op => Sys2Proof.Machine.execVrol op s
  | .vror op => Sys2Proof.Machine.execVror op s
  | .vcmpeq op => Sys2Proof.Machine.execVcmpeq op s
  | .vcmpne op => Sys2Proof.Machine.execVcmpne op s
  | .vcmplt op => Sys2Proof.Machine.execVcmplt op s
  | .vcmpltu op => Sys2Proof.Machine.execVcmpltu op s
  | .vsel op => Sys2Proof.Machine.execVsel op s
  | .vcopy op => Sys2Proof.Machine.execVcopy op s
  | .vfill op => Sys2Proof.Machine.execVfill op s
  | .vperm op => Sys2Proof.Machine.execVperm op s
  | .vgfmul op => Sys2Proof.Machine.execVgfmul op s
  | .vgfmuls op => Sys2Proof.Machine.execVgfmuls op s
  | .vgfmac op => Sys2Proof.Machine.execVgfmac op s
  | .vgfinv op => Sys2Proof.Machine.execVgfinv op s
  | .vgfmatx op => Sys2Proof.Machine.execVgfmatx op s
  | .vbfly op => Sys2Proof.Machine.execVbfly op s
  | .vibfly op => Sys2Proof.Machine.execVibfly op s
  | .vpmul op => Sys2Proof.Machine.execVpmul op s
  | .vcld op => Sys2Proof.Machine.execVcld op s
  | .vcrd op => Sys2Proof.Machine.execVcrd op s
  | .vcrc32c op => Sys2Proof.Machine.execVcrc32c op s
  | .vcrc64 op => Sys2Proof.Machine.execVcrc64 op s
  | .vsha256 op => Sys2Proof.Machine.execVsha256 op s
  | .vghash op => Sys2Proof.Machine.execVghash op s
  | .vaesx op => Sys2Proof.Machine.execVaesx op s
  | .vaesg op => Sys2Proof.Machine.execVaesg op s
  | .vrxor op => Sys2Proof.Machine.execVrxor op s
  | .vradd op => Sys2Proof.Machine.execVradd op s
  | .vrfmis op => Sys2Proof.Machine.execVrfmis op s
  | .vrnz op => Sys2Proof.Machine.execVrnz op s
  | .sprGo id sp c => Sys2Proof.Machine.execSprGo id sp c s
  | .sprStop id sp c => Sys2Proof.Machine.execSprStop id sp c s
  | .spireReset id sp => Sys2Proof.Machine.execSpireReset id sp s
  | .pinv id sp => Sys2Proof.Machine.execPinv id sp s
  | .programFetch sp c => Sys2Proof.Machine.execProgramFetch sp c s
  | .groupAdmit sp => Sys2Proof.Machine.execGroupAdmit sp s
  | .groupStep sp => Sys2Proof.Machine.execGroupStep sp s
  | .groupComplete sp => Sys2Proof.Machine.execGroupComplete sp s
  | .groupHalt sp => Sys2Proof.Machine.execGroupHalt sp s
  | .fencedSet sp => Sys2Proof.Machine.execFencedSet sp s
  | .queueContextWrite id q off data upset => Sys2Proof.Machine.execQueueContextWrite id q off data upset s
  | .ecommit id entry v => Sys2Proof.Machine.execEcommit id entry v s
  | .tenantTableWrite id slot v => Sys2Proof.Machine.execTenantTableWrite id slot v s
  | .sqDoorbell id v => Sys2Proof.Machine.execSqDoorbell id v s
  | .cqDoorbell id v => Sys2Proof.Machine.execCqDoorbell id v s
  | .submissionIntake q upset => Sys2Proof.Machine.execSubmissionIntake q upset s
  | .schedulerSelection => Sys2Proof.Machine.execSchedulerSelection s
  | .completionWrite entry => Sys2Proof.Machine.execCompletionWrite entry s
  | .get sp c io => Sys2Proof.Machine.execGet sp c io s
  | .put sp c io => Sys2Proof.Machine.execPut sp c io s
  | .encode sp c io => Sys2Proof.Machine.execEncode sp c io s
  | .recon sp c io => Sys2Proof.Machine.execRecon sp c io s
  | .verify sp c io => Sys2Proof.Machine.execVerify sp c io s
  | .scrub sp c io => Sys2Proof.Machine.execScrub sp c io s
  | .accumOut sp c io => Sys2Proof.Machine.execAccumOut sp c io s
  | .accumIn sp c io => Sys2Proof.Machine.execAccumIn sp c io s
  | .transcode sp c io => Sys2Proof.Machine.execTranscode sp c io s
  | .spin entry => Sys2Proof.Machine.execSpin entry s
  | .flush entry => Sys2Proof.Machine.execFlush entry s
  | .prog sp c => Sys2Proof.Machine.execProg sp c s
  | .read16 r => Sys2Proof.Machine.execRead16 r s
  | .write16 r => Sys2Proof.Machine.execWrite16 r s
  | .synchronizeCache16 sender => Sys2Proof.Machine.execSynchronizeCache16 sender s
  | .startStopUnit => Sys2Proof.Machine.execStartStopUnit s
  | .logSense r => Sys2Proof.Machine.execLogSense r s
  | .modeSense10 r => Sys2Proof.Machine.execModeSense10 r s
  | .modeSelect10 r => Sys2Proof.Machine.execModeSelect10 r s
  | .persistentReserveIn r => Sys2Proof.Machine.execPersistentReserveIn r s
  | .persistentReserveOut => Sys2Proof.Machine.execPersistentReserveOut s
  | .inquiry sender => Sys2Proof.Machine.execInquiry sender s
  | .reportLuns sender => Sys2Proof.Machine.execReportLuns sender s
  | .testUnitReady sender => Sys2Proof.Machine.execTestUnitReady sender s
  | .requestSense sender => Sys2Proof.Machine.execRequestSense sender s
  | .reportZones r => Sys2Proof.Machine.execReportZones r s
  | .closeZone r => Sys2Proof.Machine.execCloseZone r s
  | .finishZone r => Sys2Proof.Machine.execFinishZone r s
  | .openZone r => Sys2Proof.Machine.execOpenZone r s
  | .resetWritePointer r => Sys2Proof.Machine.execResetWritePointer r s
  | .driveRequestComplete port place answer => Sys2Proof.Machine.execDriveRequestComplete port place answer s
  | .commandTimeout port place => Sys2Proof.Machine.execCommandTimeout port place s
  | .saspRbaseWrite id r v => Sys2Proof.Machine.execSaspRbaseWrite id r v s
  | .portEn id port => Sys2Proof.Machine.execPortEn id port s
  | .portReset id port => Sys2Proof.Machine.execPortReset id port s
  | .disable id port => Sys2Proof.Machine.execDisable id port s
  | .timeout port => Sys2Proof.Machine.execTimeout port s
  | .cominitRx port => Sys2Proof.Machine.execCominitRx port s
  | .comsasRx port => Sys2Proof.Machine.execComsasRx port s
  | .comwakeRx port => Sys2Proof.Machine.execComwakeRx port s
  | .snwPass port => Sys2Proof.Machine.execSnwPass port s
  | .snwFail port => Sys2Proof.Machine.execSnwFail port s
  | .identRx port addr => Sys2Proof.Machine.execIdentRx port addr s
  | .sataSig port => Sys2Proof.Machine.execSataSig port s
  | .dwsyncLost port => Sys2Proof.Machine.execDwsyncLost port s
  | .hardResetRx port => Sys2Proof.Machine.execHardResetRx port s
  | .bayOff port => Sys2Proof.Machine.execBayOff port s
  | .errRate port => Sys2Proof.Machine.execErrRate port s
  | .linkProgramWrite id group entry high v => Sys2Proof.Machine.execLinkProgramWrite id group entry high v s
  | .presenceChange port seated => Sys2Proof.Machine.execPresenceChange port seated s
  | .spinUpRequest id set => Sys2Proof.Machine.execSpinUpRequest id set s
  | .spinDownRequest id set => Sys2Proof.Machine.execSpinDownRequest id set s
  | .bayPowerOn => Sys2Proof.Machine.execBayPowerOn s
  | .linkUpTimeout port => Sys2Proof.Machine.execLinkUpTimeout port s
  | .sputmoExpiry port => Sys2Proof.Machine.execSputmoExpiry port s
  | .admission => Sys2Proof.Machine.execAdmission s
  | .feedbackUpdate => Sys2Proof.Machine.execFeedbackUpdate s
  | .rearm id set => Sys2Proof.Machine.execRearm id set s
  | .fenceRegister id => Sys2Proof.Machine.execFenceRegister id s
  | .preempt id => Sys2Proof.Machine.execPreempt id s
  | .pwrDreqWrite id word v => Sys2Proof.Machine.execPwrDreqWrite id word v s
  | .req port frame => Sys2Proof.Machine.execReq port frame s
  | .data port frame => Sys2Proof.Machine.execData port frame s
  | .credit port frame => Sys2Proof.Machine.execCredit port frame s
  | .creditTimer win => Sys2Proof.Machine.execCreditTimer win s
  | .outboundCompletion q => Sys2Proof.Machine.execOutboundCompletion q s
  | .dataRetransmit win page => Sys2Proof.Machine.execDataRetransmit win page s
  | .resp win => Sys2Proof.Machine.execResp win s
  | .rack port frame => Sys2Proof.Machine.execRack port frame s
  | .slowPathRx port frame => Sys2Proof.Machine.execSlowPathRx port frame s
  | .slowPathTx id port v => Sys2Proof.Machine.execSlowPathTx id port v s
  | .mreq mg peer frame => Sys2Proof.Machine.execMreq mg peer frame s
  | .flitRx port flit => Sys2Proof.Machine.execFlitRx port flit s
  | .flitResend port => Sys2Proof.Machine.execFlitResend port s
  | .pairPortDown port => Sys2Proof.Machine.execPairPortDown port s
  | .join port => Sys2Proof.Machine.execJoin port s
  | .joinrsp port => Sys2Proof.Machine.execJoinrsp port s
  | .resyncDone => Sys2Proof.Machine.execResyncDone s
  | .hb port rtt => Sys2Proof.Machine.execHb port rtt s
  | .loss => Sys2Proof.Machine.execLoss s
  | .mirrorRequest ring => Sys2Proof.Machine.execMirrorRequest ring s
  | .wab port => Sys2Proof.Machine.execWab port s
  | .jrec port slot => Sys2Proof.Machine.execJrec port slot s
  | .mack port => Sys2Proof.Machine.execMack port s
  | .qdelta port => Sys2Proof.Machine.execQdelta port s
  | .dack port => Sys2Proof.Machine.execDack port s
  | .retire port => Sys2Proof.Machine.execRetire port s
  | .pstate port => Sys2Proof.Machine.execPstate port s
  | .resync port send => Sys2Proof.Machine.execResync port send s
  | .homeset port => Sys2Proof.Machine.execHomeset port s
  | .homereq id v => Sys2Proof.Machine.execHomereq id v s
  | .leaseReq => Sys2Proof.Machine.execLeaseReq s
  | .leaseGrant mg frame elapsed => Sys2Proof.Machine.execLeaseGrant mg frame elapsed s
  | .leaseDeny mg frame => Sys2Proof.Machine.execLeaseDeny mg frame s
  | .leaseLapse => Sys2Proof.Machine.execLeaseLapse s
  | .pairRecovery p self => Sys2Proof.Machine.execPairRecovery p self s
  | .injectionTest id p groups fails => Sys2Proof.Machine.execInjectionTest id p groups fails s
  | .softwareEventSet id reg v => Sys2Proof.Machine.execSoftwareEventSet id reg v s
  | .routeWrite id src v => Sys2Proof.Machine.execRouteWrite id src v s
  | .bindingWrite id ch v => Sys2Proof.Machine.execBindingWrite id ch v s
  | .mbTxlo id ch v => Sys2Proof.Machine.execMbTxlo id ch v s
  | .mbTxhi id ch v => Sys2Proof.Machine.execMbTxhi id ch v s
  | .pop id ch => Sys2Proof.Machine.execPop id ch s
  | .mbRing id ch v => Sys2Proof.Machine.execMbRing id ch v s
  | .mbWait id ch v => Sys2Proof.Machine.execMbWait id ch v s
  | .lockRead id n => Sys2Proof.Machine.execLockRead id n s
  | .lockRelease id n v => Sys2Proof.Machine.execLockRelease id n v s
  | .bucketShift page => Sys2Proof.Machine.execBucketShift page s
  | .lastingFaultDeclaration page => Sys2Proof.Machine.execLastingFaultDeclaration page s
  | .evpop id => Sys2Proof.Machine.execEvpop id s
  | .align master => Sys2Proof.Machine.execAlign master s
  | .sign => Sys2Proof.Machine.execSign s
  | .ping => Sys2Proof.Machine.execPing s
  | .snapint => Sys2Proof.Machine.execSnapint s
  | .snapshot => Sys2Proof.Machine.execSnapshot s
  | .sample c0 c1 c2 c3 => Sys2Proof.Machine.execSample c0 c1 c2 c3 s
  | .halfCyclePeak => Sys2Proof.Machine.execHalfCyclePeak s
  | .phaseMark elapsed => Sys2Proof.Machine.execPhaseMark elapsed s
  | .selfCheck pass => Sys2Proof.Machine.execSelfCheck pass s
  | .warmUpEnd => Sys2Proof.Machine.execWarmUpEnd s
  | .ident => Sys2Proof.Machine.execIdent s
  | .rdparam param => Sys2Proof.Machine.execRdparam param s
  | .wrparam param v => Sys2Proof.Machine.execWrparam param v s
  | .sealCal => Sys2Proof.Machine.execSealCal s
  | .rdlog entry => Sys2Proof.Machine.execRdlog entry s
  | .calenChange level => Sys2Proof.Machine.execCalenChange level s
  | .brownOut done lost => Sys2Proof.Machine.execBrownOut done lost s
  | .periodicSave => Sys2Proof.Machine.execPeriodicSave s
  | .cupolaPowerUp calen => Sys2Proof.Machine.execCupolaPowerUp calen s
  | .powerOnReset io => Sys2Proof.Machine.execPowerOnReset io s
  | .release => Sys2Proof.Machine.execRelease s
  | .fullService => Sys2Proof.Machine.execFullService s
  | .deviceWarmReset src io => Sys2Proof.Machine.execDeviceWarmReset src io s
  | .vigilRequest id => Sys2Proof.Machine.execVigilRequest id s
  | .offRequest id => Sys2Proof.Machine.execOffRequest id s
  | .wake src io => Sys2Proof.Machine.execWake src io s
  | .vin12Loss => Sys2Proof.Machine.execVin12Loss s
  | .vaux33Loss => Sys2Proof.Machine.execVaux33Loss s
  | .thermalTrip => Sys2Proof.Machine.execThermalTrip s
  | .thermN hot => Sys2Proof.Machine.execThermN hot s
  | .svnup id => Sys2Proof.Machine.execSvnup id s
  | .ksLoad id v => Sys2Proof.Machine.execKsLoad id v s
  | .ksClear id v => Sys2Proof.Machine.execKsClear id v s
  | .ksGrant id v => Sys2Proof.Machine.execKsGrant id v s
  | .rcvData id v => Sys2Proof.Machine.execRcvData id v s
  | .rcvGo id v io norOk => Sys2Proof.Machine.execRcvGo id v io norOk s
  | .lantHalt id v => Sys2Proof.Machine.execLantHalt id v s
  | .train2GroupDone fails => Sys2Proof.Machine.execTrain2GroupDone fails s
  | .rstNRisingEdge io => Sys2Proof.Machine.execRstNRisingEdge io s
  | .vaux33PowerGood => Sys2Proof.Machine.execVaux33PowerGood s
  | .portCameUp port sub => Sys2Proof.Machine.execPortCameUp port sub s
  | .portWentDown port sub => Sys2Proof.Machine.execPortWentDown port sub s
  | .priorityFlowControl port prio pause => Sys2Proof.Machine.execPriorityFlowControl port prio pause s
  | .invalidDword port => Sys2Proof.Machine.execInvalidDword port s
  | .fecCorrectedCodeword port => Sys2Proof.Machine.execFecCorrectedCodeword port s
  | .dieTemperatureChange inRange => Sys2Proof.Machine.execDieTemperatureChange inRange s
  | .cupwCmdgo id v => Sys2Proof.Machine.execCupwCmdgo id v s
  | .thermalWakeRelease => Sys2Proof.Machine.execThermalWakeRelease s

end Sys2Proof.Machine
end

