-- ==== Sys2Proof/WellFormed.lean ====
section
/-! DEFINITION. Which commands are commands of the device: an instruction's prefix bytes parse and name its page, or are illegal
whatever it is (04_dravaesor_isa.md R116-R118); its immediate fits its bytes; an access has at least one byte; a flit has 256 bytes
(10_transport_pair.md R306). -/
namespace Sys2Proof
open Sys2Proof.Machine (pfxParse immOk reservedOk)

/-- An access names at least one byte. -/
def SramOp.wf : SramOp → Bool
  | .read n => decide (0 < n)
  | .write d => !d.isEmpty

/-- The prefix bytes are prefixes, and name the page (0 for none) unless they are illegal whatever the instruction;
a reserved opcode is one the page reserves. -/
def DisOp.wf (op : DisOp) (page : Nat) : Bool :=
  match pfxParse {} op.pfx with
  | some p => (p.illegal || p.page == page) && reservedOk page op.reserved
  | none => false

/-- The operands of a command are ones the device can meet. -/
def Instr.wf (i : Instr) : Bool :=
  match i with
  | .nop op | .dup op | .drop op | .swap op | .over op | .rot op | .nrot op | .nip op | .tuck op | .pick op | .roll op
  | .depth op | .dup2 op | .drop2 op | .swap2 op | .zero op | .add op | .sub op | .adc op | .sbb op | .neg op | .inc op
  | .dec op | .mul op | .mulh op | .mulhu op | .div op | .divu op | .min op | .max op | .minu op | .maxu op | .and op | .or op
  | .xor op | .not op | .andn op | .shl op | .shr op | .sar op | .rol op | .ror op | .popc op | .clz op | .ctz op | .bswap op
  | .sext op | .zext op | .eq op | .ne op | .lt op | .le op | .gt op | .ge op | .ltu op | .leu op | .gtu op | .geu op | .cmp op
  | .tst op | .sel op | .ld op | .lds op | .st op | .lwait op | .fence op | .swapm op | .casm op | .addm op | .andm op
  | .orm op | .xorm op | .lda op | .ldaPostmod op | .ldsa op | .ldsaPostmod op | .sta op | .staPostmod op | .anld op
  | .anoff op | .anrd op | .anadr op | .anstep op | .ret op | .jmp op | .calli op | .brk op | .rdrc op | .wrrc op | .rdfl op
  | .wrfl op | .rdsp op | .movb op | .fillb op | .crcb op | .cmpb op =>
    op.wf 0x0
  | .ldl op _ =>
    op.wf 0x0
  | .pushi op imm | .pushu op imm | .addi op imm | .andi op imm | .ori op imm | .ldd op imm | .std op imm | .br op imm
  | .bz op imm | .bnz op imm | .call op imm | .loop op imm =>
    op.wf 0x0 && immOk imm
  | .syncI op | .syncC op | .gate op | .rete op | .csw op | .wait op | .chkst op | .bankrd op | .bankwr op =>
    op.wf 0xF9
  | .mfcr op _ | .mtcr op _ =>
    op.wf 0xF9
  | .dadd op | .dsub op | .dchk op | .dtob op | .btod op =>
    op.wf 0xFA
  | .fadd op | .fsub op | .fmul op | .fdiv op | .fsqrt op | .fma op | .fmin op | .fmax op | .feq op | .flt op | .fle op
  | .fneg op | .fabs op | .fclass op | .fcvtI op | .fcvtF op | .fwiden op | .fnarrow op =>
    op.wf 0xFB
  | .vdld op | .vdst op | .vddrop op | .vddup op | .vdswap op | .vgo op | .vwait op | .vend op | .vldc op | .vstc op
  | .vcget op | .vcput op | .vmbring op | .vmbwait op | .vonf op | .vfrec op | .vfdesc op | .vresume op | .vadd op | .vsub op
  | .vadds op | .vsubs op | .vaddus op | .vsubus op | .vmin op | .vmax op | .vminu op | .vmaxu op | .vand op | .vor op
  | .vxor op | .vandn op | .vnot op | .vpopc op | .vshl op | .vshr op | .vsar op | .vrol op | .vror op | .vcmpeq op
  | .vcmpne op | .vcmplt op | .vcmpltu op | .vsel op | .vcopy op | .vfill op | .vperm op | .vgfmul op | .vgfmuls op
  | .vgfmac op | .vgfinv op | .vgfmatx op | .vbfly op | .vibfly op | .vpmul op | .vcld op | .vcrd op | .vcrc32c op | .vcrc64 op
  | .vsha256 op | .vghash op | .vaesx op | .vaesg op | .vrxor op | .vradd op | .vrfmis op | .vrnz op =>
    op.wf 0xF8
  | .vdget op _ | .vdset op _ =>
    op.wf 0xF8
  | .registerWrite _ _ d => !d.isEmpty
  | .dramRead _ _ len _ => decide (0 < len)
  | .dramWrite _ _ d _ => !d.isEmpty
  | .sramAccess _ _ op _ => op.wf
  | .queueContextWrite _ _ _ d _ => !d.isEmpty
  | .flitRx _ flit => decide (flit.length = 256)
  | .wideDone | .spareSwitch | .phaseTick | .belfryStateChange | .holdLimitExpiry | .slewStep | .schedulerSelection
  | .startStopUnit | .persistentReserveOut | .bayPowerOn | .admission | .feedbackUpdate | .resyncDone | .loss | .leaseReq
  | .leaseLapse | .sign | .ping | .snapint | .snapshot | .halfCyclePeak | .warmUpEnd | .ident | .sealCal | .periodicSave
  | .release | .fullService | .vin12Loss | .vaux33Loss | .thermalTrip | .vaux33PowerGood | .thermalWakeRelease =>
    true
  | .dmaStarve _ | .wideningCopyBlock _ | .spareCopyBlock _ | .spareAbort _ | .crossingTimeout _ | .belfTimeLoRead _
  | .belfTimeHiRead _ | .synchronousTick _ | .comparatorFire _ | .interruptEntry _ | .spillEngineSpill _ | .spillEngineFill _
  | .storeBufferDrain _ | .cwbLineWrite _ | .coreWarmReset _ | .groupAdmit _ | .groupStep _ | .groupComplete _ | .groupHalt _
  | .fencedSet _ | .completionWrite _ | .spin _ | .flush _ | .read16 _ | .write16 _ | .synchronizeCache16 _ | .logSense _
  | .modeSense10 _ | .modeSelect10 _ | .persistentReserveIn _ | .inquiry _ | .reportLuns _ | .testUnitReady _ | .requestSense _
  | .reportZones _ | .closeZone _ | .finishZone _ | .openZone _ | .resetWritePointer _ | .timeout _ | .cominitRx _
  | .comsasRx _ | .comwakeRx _ | .snwPass _ | .snwFail _ | .sataSig _ | .dwsyncLost _ | .hardResetRx _ | .bayOff _ | .errRate _
  | .linkUpTimeout _ | .sputmoExpiry _ | .fenceRegister _ | .preempt _ | .creditTimer _ | .outboundCompletion _ | .resp _
  | .flitResend _ | .pairPortDown _ | .join _ | .joinrsp _ | .mirrorRequest _ | .wab _ | .mack _ | .qdelta _ | .dack _
  | .retire _ | .pstate _ | .homeset _ | .bucketShift _ | .lastingFaultDeclaration _ | .evpop _ | .align _ | .phaseMark _
  | .selfCheck _ | .rdparam _ | .rdlog _ | .calenChange _ | .cupolaPowerUp _ | .powerOnReset _ | .vigilRequest _
  | .offRequest _ | .thermN _ | .svnup _ | .train2GroupDone _ | .rstNRisingEdge _ | .invalidDword _ | .fecCorrectedCodeword _
  | .dieTemperatureChange _ =>
    true
  | .bankZeroFill _ _ | .patrolRegion _ _ | .widen _ _ | .spareForce _ _ | .referenceCrossing _ _ | .srcWrite _ _
  | .belfSlewWrite _ _ | .timerTick _ _ | .timerStop _ _ | .spireReset _ _ | .pinv _ _ | .programFetch _ _ | .sqDoorbell _ _
  | .cqDoorbell _ _ | .submissionIntake _ _ | .prog _ _ | .commandTimeout _ _ | .portEn _ _ | .portReset _ _ | .disable _ _
  | .identRx _ _ | .presenceChange _ _ | .spinUpRequest _ _ | .spinDownRequest _ _ | .rearm _ _ | .req _ _ | .data _ _
  | .credit _ _ | .dataRetransmit _ _ | .rack _ _ | .slowPathRx _ _ | .hb _ _ | .jrec _ _ | .resync _ _ | .homereq _ _
  | .leaseDeny _ _ | .pairRecovery _ _ | .pop _ _ | .lockRead _ _ | .wrparam _ _ | .brownOut _ _ | .deviceWarmReset _ _
  | .wake _ _ | .ksLoad _ _ | .ksClear _ _ | .ksGrant _ _ | .rcvData _ _ | .lantHalt _ _ | .portCameUp _ _ | .portWentDown _ _
  | .cupwCmdgo _ _ =>
    true
  | .lock _ _ _ | .irqSet _ _ _ | .scrubRead _ _ _ | .bcmpCtlWrite _ _ _ | .linkedCountRead _ _ _ | .timerRestart _ _ _
  | .farLoadReturn _ _ _ | .sprGo _ _ _ | .sprStop _ _ _ | .ecommit _ _ _ | .tenantTableWrite _ _ _ | .get _ _ _ | .put _ _ _
  | .encode _ _ _ | .recon _ _ _ | .verify _ _ _ | .scrub _ _ _ | .accumOut _ _ _ | .accumIn _ _ _ | .transcode _ _ _
  | .driveRequestComplete _ _ _ | .saspRbaseWrite _ _ _ | .pwrDreqWrite _ _ _ | .slowPathTx _ _ _ | .mreq _ _ _
  | .leaseGrant _ _ _ | .softwareEventSet _ _ _ | .routeWrite _ _ _ | .bindingWrite _ _ _ | .mbTxlo _ _ _ | .mbTxhi _ _ _
  | .mbRing _ _ _ | .mbWait _ _ _ | .lockRelease _ _ _ | .priorityFlowControl _ _ _ =>
    true
  | .scrBstateWrite _ _ _ _ | .bcmpTargetWrite _ _ _ _ | .tctlWrite _ _ _ _ | .cmpPreWrite _ _ _ _ | .countWrite _ _ _ _
  | .reloadWrite _ _ _ _ | .injectionTest _ _ _ _ | .sample _ _ _ _ | .rcvGo _ _ _ _ =>
    true
  | .cmpWrite _ _ _ _ _ | .linkProgramWrite _ _ _ _ _ =>
    true

end Sys2Proof
end

