-- ==== Sys2Proof/Certificates/Slice0/Obligations.lean ====
section
/-! DEFINITION. The statements about the machine: what its commands do, from the numbered rules of the specification. -/
open Sys2Proof Sys2Proof.Machine

/-- For every state whose queue begins with command c, a step is the effect of c on the state with the queue's rest; this is how every statement about a command reaches a run. -/
def StepRunsFrontCommand : Prop :=
  ∀ (c : Instr) (rest : List Instr) (s : State), s.pending = c :: rest → step s = exec c { s with pending := rest }

/-- The model's choice (log entry 1): a step on an empty queue answers the same state. -/
def StepIdlesOnEmptyQueue : Prop := ∀ s : State, s.pending = [] → step s = .next s

/-- For every state whose queue begins with command c, a step is the effect of c on the state with the queue's rest; this is how every statement about a command reaches a run. The model's choice (log entry 1): a step on an empty queue answers the same state. -/
def Obligations.StepsRunTheCommandQueue : Prop := StepRunsFrontCommand ∧ StepIdlesOnEmptyQueue

/-- Every command whose operands are well formed goes on in every state; every other one stops with the fault illFormed, whatever the state (the fault is the model's own, log entry 70). No command is ever refused. -/
def Obligations.OnlyIllFormedCommandsStop : Prop :=
  ∀ (c : Instr) (s : State), (c.wf = true → ∃ t, exec c s = .next t) ∧ (c.wf = false → exec c s = .fault .illFormed)

/-- Over all 436 commands and every state: when a step goes on, the queue afterwards is the queue before without its front command. No effect of the device adds, drops or reorders a waiting command, a reset of the device included. -/
def Obligations.NoCommandTouchesTheQueue : Prop := ∀ s t : State, step s = .next t → t.pending = s.pending.tail

/-- The invariant: the listed memory bytes and the listed registers have strictly rising keys and none is equal to what an unlisted key holds (0 for a byte, the reset value for a register). Every step keeps it, from every state, so that equal memories and equal register files are equal data. -/
def Obligations.StepKeepsMemoryCanonical : Prop :=
  ∀ s t : State, Memory.wf s = true → Regs.wf s = true → step s = .next t → Memory.wf t = true ∧ Regs.wf t = true

/-- Right after reset every register of every page reads as the stored word its table gives for reset, no command waits, no memory is listed, and the memory and the register table are in canonical form (what an unlisted byte of RAM reads as, 0, is the model's choice, log entry 2, and so are the reset values of registers whose table gives none, log entry 8). -/
def Obligations.ResetState : Prop :=
  State.reset.pending = [] ∧ Memory.wf State.reset = true ∧ Regs.wf State.reset = true ∧ State.reset.mem = [] ∧
  ∀ (page off : Nat) (i : RegInfo), off < 4096 → regInfo page off = some i → State.reset.reg page off = BitVec.ofNat 32 i.reset

/-- Over every state and every command except the Cupola's own SAMPLE, and its loss and return of supply (BROWN_OUT, CUPOLA_POWER_UP): the ten energy registers of the Cupola and their residues are the same afterwards. No register write, instruction, reset or power-state change of the main side reaches them. -/
def Obligations.MeterReadingsAreIsolated : Prop :=
  ∀ (c : Instr) (s t : State),
    (∀ c0 c1 c2 c3, c ≠ .sample c0 c1 c2 c3) → (∀ d l, c ≠ .brownOut d l) → (∀ b, c ≠ .cupolaPowerUp b) →
    exec c s = .next t → t.cup.energy = s.cup.energy

/-- For every register to which its block gives no action of its own, every identity that issues transactions in the Custody world, and every word v: REGISTER_WRITE completes, and each bit of the register takes the bit of v where it is RW or RWC, or RWL on a page that is not locked; a 1 written to a W1C bit clears it; every other bit keeps its value. Nothing but the register and the answer changes: no other register, no memory byte. -/
def PlainRegisterWritesFollowAccessCodes : Prop :=
  ∀ (s : State) (id : MasterId) (page off n : Nat) (b : Block) (i : RegInfo) (v : Word32), s.issues id = true →
    s.custodyOf id = true → pageBlock page = some (b, n) → regInfo page off = some i → page < 4096 → off < 4096 → off % 4 = 0 →
    0x100 ≤ off → powerBad s page off = false → identityBad s id.val page off (some true) = false →
    blockWrite s id.val b n off v = none →
    ∃ w : Word32, exec (.registerWrite id (BitVec.ofNat 48 (regAddr page off)) (leBytes 4 v.toNat)) s =
        .next { s.setReg page off w with resp := .done } ∧
      ∀ k < 32, regBit w k =
        ((if bit i.rw k || (bit i.rwc k || (bit i.rwl k && !(s.locked page))) then regBit v k else regBit (s.reg page off) k) &&
          !(regBit v k && bit i.w1c k))

/-- On a page that a block occupies: a write that is not 4 bytes at a multiple of 4 ends with cause WIDTH; a write at an offset the page does not define (and that needs no power domain) with UNMAPPED; an Operator-world write to a register that holds an RWC field with ACCESS, whether or not the page is locked. A write to a page no block occupies ends with UNMAPPED. In each case nothing but the bus-error record (R106) and the answer changes. -/
def RefusedRegisterWritesChangeNothing : Prop :=
  ∀ (s : State) (id : MasterId) (page off : Nat) (d : List Byte), s.issues id = true → page < 4096 → off < 4096 → d ≠ [] →
    (∀ b n, pageBlock page = some (b, n) → d.length ≠ 4 ∨ off % 4 ≠ 0 →
      exec (.registerWrite id (BitVec.ofNat 48 (regAddr page off)) d) s =
        .next { s.berr id (regAddr page off) true .width with resp := .err .width }) ∧
    (∀ b n, pageBlock page = some (b, n) → d.length = 4 → off % 4 = 0 → powerBad s page off = false → regInfo page off = none →
      exec (.registerWrite id (BitVec.ofNat 48 (regAddr page off)) d) s =
        .next { s.berr id (regAddr page off) true .unmapped with resp := .err .unmapped }) ∧
    (∀ b n i, pageBlock page = some (b, n) → d.length = 4 → off % 4 = 0 → powerBad s page off = false →
      regInfo page off = some i → i.rwc ≠ 0 → s.custodyOf id = false →
      identityBad s id.val page off (some false) = false →
      exec (.registerWrite id (BitVec.ofNat 48 (regAddr page off)) d) s =
        .next { s.berr id (regAddr page off) true .access with resp := .err .access }) ∧
    (pageBlock page = none → exec (.registerWrite id (BitVec.ofNat 48 (regAddr page off)) d) s =
        .next { s.berr id (regAddr page off) true .unmapped with resp := .err .unmapped })

/-- For every register to which its block gives no action of its own, every identity that issues transactions in the Custody world, and every word v: REGISTER_WRITE completes, and each bit of the register takes the bit of v where it is RW or RWC, or RWL on a page that is not locked; a 1 written to a W1C bit clears it; every other bit keeps its value. Nothing but the register and the answer changes: no other register, no memory byte. On a page that a block occupies: a write that is not 4 bytes at a multiple of 4 ends with cause WIDTH; a write at an offset the page does not define (and that needs no power domain) with UNMAPPED; an Operator-world write to a register that holds an RWC field with ACCESS, whether or not the page is locked. A write to a page no block occupies ends with UNMAPPED. In each case nothing but the bus-error record (R106) and the answer changes. -/
def Obligations.RegisterWritesFollowAccessCodes : Prop := PlainRegisterWritesFollowAccessCodes ∧ RefusedRegisterWritesChangeNothing

/-- For every page a block occupies (page 3 of the Keep, which takes writes from its own firmware only, apart): on an unlocked page a write of 0x5A17 remembers its master; a write of 0xA5E8 by the remembered master locks the page; a write of any other value, or of 0xA5E8 by another master, forgets the first one and leaves the page unlocked. On a locked page a write to LOCK changes nothing but the answer. -/
def LockNeedsBothKeysFromOneMaster : Prop :=
  ∀ (s : State) (id : MasterId) (page : BitVec 12) (b : Block) (n : Nat), s.issues id = true →
    pageBlock page.toNat = some (b, n) → ¬ (b = .keep ∧ n = 3) →
    (s.locked page.toNat = false → exec (.lock id page 0x5A17) s =
      .next { s with locks := sput s.locks page.toNat { locked := false, first := id.val + 1 } {}, resp := .done }) ∧
    (s.locked page.toNat = false → (sget s.locks page.toNat {}).first = id.val + 1 →
      ∃ t, exec (.lock id page 0xA5E8) s = .next t ∧ t.regs = s.regs ∧ t.mem = s.mem ∧ t.resp = .done ∧
        t.locks = sput s.locks page.toNat { locked := true, first := 0 } {}) ∧
    (∀ v, s.locked page.toNat = false → v ≠ 0x5A17 → v ≠ 0xA5E8 ∨ (sget s.locks page.toNat {}).first ≠ id.val + 1 →
      exec (.lock id page v) s = .next { s with locks := sput s.locks page.toNat {} {}, resp := .done }) ∧
    (∀ v, s.locked page.toNat = true → exec (.lock id page v) s = .next { s with resp := .done })

/-- For every page a block occupies (page 3 of the Keep apart): IRQ_SET sets in IRQ_RAW the written bits that the page has and leaves the others; memory and the Belfry stay. Where this makes the page's event source reach a core that sleeps in WAIT and did not before, the core no longer sleeps. -/
def IrqSetRaisesFlagsAsHardwareDoes : Prop :=
  ∀ (s : State) (id : MasterId) (page : BitVec 12) (b : Block) (n : Nat) (v : Word32), s.issues id = true →
    pageBlock page.toNat = some (b, n) → ¬ (b = .keep ∧ n = 3) → Regs.wf s = true →
    ∃ t, exec (.irqSet id page v) s = .next t ∧ t.reg page.toNat oIrqRaw = s.reg page.toNat oIrqRaw ||| (v &&& irqMask page.toNat) ∧
      t.mem = s.mem ∧ t.belf = s.belf ∧ t.resp = .done ∧
      ∀ e (c : Fin 8), pageSource page.toNat = some e → s.toTurret e c = false → t.toTurret e c = true → (t.core c).sleep = false

/-- For every page a block occupies (page 3 of the Keep, which takes writes from its own firmware only, apart): on an unlocked page a write of 0x5A17 remembers its master; a write of 0xA5E8 by the remembered master locks the page; a write of any other value, or of 0xA5E8 by another master, forgets the first one and leaves the page unlocked. On a locked page a write to LOCK changes nothing but the answer. For every page a block occupies (page 3 of the Keep apart): IRQ_SET sets in IRQ_RAW the written bits that the page has and leaves the others; memory and the Belfry stay. Where this makes the page's event source reach a core that sleeps in WAIT and did not before, the core no longer sleeps. -/
def Obligations.LocksAndInterruptFlags : Prop := LockNeedsBothKeysFromOneMaster ∧ IrqSetRaisesFlagsAsHardwareDoes

/-- PHASE_TICK runs in every state. Unless the device is in OFF, or the tick is a wrap at which a slew step falls, the 64-bit time goes up by 1 (modulo 2^64), so that PHASE wraps from 0xFFFF to 0 and CYCLE then goes up by 1. In OFF, where the Belfry has no supply (R51), nothing changes. Memory and every command waiting stay as they were, and away from a wrap every register does. -/
def Obligations.PhaseTickAdvancesBelfryTime : Prop :=
  ∀ s : State, ∃ t, exec .phaseTick s = .next t ∧
    (s.boot.power ≠ .off → slewDue s.belf = false → t.time = (s.time + 1) % 2 ^ 64) ∧ (s.boot.power = .off → t = s) ∧
    t.mem = s.mem ∧ t.pending = s.pending ∧ (s.belf.phase ≠ 0xFFFF → t.regs = s.regs)

/-- BELF_SLEW_WRITE by an identity of the Custody world stores the signed count and makes the next wrap a step. At a wrap with a slew step due, in any power state but OFF, SLEW_STEP takes PHASE to 0; a positive count adds 2 to CYCLE and goes down by 1, a negative one leaves CYCLE and goes up by 1; the next step waits 2^SLEW_RATE wraps; when the count reaches 0, SLEW_DONE (bit 4 of IRQ_RAW) is set. A wrap between steps adds 1 to CYCLE. With no step due, SLEW_STEP changes nothing. -/
def Obligations.SlewStepsMoveOnlyTheCycleCount : Prop :=
  (∀ (s : State) (id : MasterId) (v : Word32), s.issues id = true → s.custodyOf id = true →
    exec (.belfSlewWrite id v) s =
      .next { s with belf := { s.belf with slew := v, slewWait := 0, own := false }, resp := .done }) ∧
  (∀ s : State, slewDue s.belf = false → exec .slewStep s = .next s) ∧
  (∀ s : State, slewDue s.belf = true → s.boot.power ≠ .off → Regs.wf s = true → ∃ t, exec .slewStep s = .next t ∧ t.belf.phase = 0 ∧
    t.belf.slewWait = 2 ^ s.slewRate - 1 ∧
    (regBit s.belf.slew 31 = false → t.belf.cycle = s.belf.cycle + 2 ∧ t.belf.slew = s.belf.slew - 1) ∧
    (regBit s.belf.slew 31 = true → t.belf.cycle = s.belf.cycle ∧ t.belf.slew = s.belf.slew + 1) ∧
    (t.belf.slew = 0 → regBit (t.reg 0x10 oIrqRaw) 4 = true) ∧ t.mem = s.mem) ∧
  (∀ s : State, s.belf.phase = 0xFFFF → s.belf.slew ≠ 0 → s.belf.slewWait ≠ 0 → s.boot.power ≠ .off →
    ∃ t, exec .phaseTick s = .next t ∧ t.belf.phase = 0 ∧ t.belf.cycle = s.belf.cycle + 1 ∧ t.belf.slew = s.belf.slew ∧
      t.belf.slewWait = s.belf.slewWait - 1)

/-- For every identity that issues transactions: a read of BELF_TIME_LO answers time[31:0] and latches time[63:32] for that identity alone; a read of BELF_TIME_HI answers the identity's own latch (one for each of the 26 identities; 0 after reset) and changes nothing else. A synchronous tick captures the time into the shadow and touches no latch (R59), whatever else the blocks find in their own words at it; with nothing found it leaves memory and every core. -/
def Obligations.BelfryTimeReadsAreConsistent : Prop :=
  (∀ (s : State) (id : MasterId), s.issues id = true →
    exec (.belfTimeLoRead id) s = .next { s with
      belf := { s.belf with latches := sput s.belf.latches id.val (w32 (s.time / 2 ^ 32)) 0 },
      resp := .data (leBytes 4 (w32 s.time).toNat) false }) ∧
  (∀ (s : State) (id : MasterId), s.issues id = true →
    exec (.belfTimeHiRead id) s = .next { s with resp := .data (leBytes 4 (sget s.belf.latches id.val 0).toNat) false }) ∧
  (∀ id : MasterId, sget State.reset.belf.latches id.val 0 = 0) ∧
  (∀ (s : State) (us : List InnerUpset), ∃ t, exec (.synchronousTick us) s = .next t ∧
    t.belf = { s.belf with shadow := cell s.time } ∧ t.mem = s.mem ∧ (us = [] → t.cores = s.cores))

/-- REFERENCE_CROSSING: a crossing on a source that is not selected changes nothing. On the selected source the first crossing only starts the count. Later, in SYNTH and ACQUIRE, an interval from 15.385 ms to 22.222 ms counts as valid, puts the signed phase error into BELF_PERR and leaves IRQ_RAW alone; any other interval sets REJECT (bit 5), and neither restarts nor raises the count of valid crossings. -/
def CrossingsAreJudgedByTheirInterval : Prop :=
  (∀ (s : State) (src : CrossSource) (e : Nat), crossSelected s src = false → exec (.referenceCrossing src e) s = .next s) ∧
  (∀ (s : State) (src : CrossSource) (e : Nat), crossSelected s src = true → s.belf.start = true →
    exec (.referenceCrossing src e) s = .next { s with belf := { s.belf with start := false, since := 0 } }) ∧
  (∀ (s : State) (src : CrossSource) (e : Nat), crossSelected s src = true → s.belf.start = false →
    s.belf.st = .synth ∨ s.belf.st = .acquire →
    (1538500 ≤ s.belf.since + e ∧ s.belf.since + e ≤ 2222200 → ∃ t, exec (.referenceCrossing src e) s = .next t ∧
      t.belf.valid = s.belf.valid + 1 ∧ t.belf.since = 0 ∧ t.belf.measured = s.belf.since + e ∧ t.belf.st = s.belf.st ∧
      t.belf.cycle = s.belf.cycle ∧ t.belf.phase = s.belf.phase ∧
      t = (s.setBelf t.belf).setReg 0x10 0x114 (s.belf.phase.zeroExtend 32)) ∧
    (¬ (1538500 ≤ s.belf.since + e ∧ s.belf.since + e ≤ 2222200) →
      exec (.referenceCrossing src e) s = .next ((s.setBelf { s.belf with since := s.belf.since + e }).irqBit 0x10 5)))

/-- BELFRY_STATE_CHANGE with a change decided and PHASE 0 enters the decided state, sets its IRQ_RAW bit and clears the count of valid crossings; at any other phase it changes nothing. CROSSING_TIMEOUT decides HOLDOVER in ACQUIRE and LOCKED when more than 33/16 of a tracked period has passed; HOLD_LIMIT_EXPIRY decides SYNTH in HOLDOVER after HOLD_LIM mcy (0 acts as 1); SRC_WRITE of 0 or 1 decides HOLDOVER in ACQUIRE and LOCKED, of 2 decides SYNTH outside SYNTH, and makes the next crossing a starting point. None of them moves CYCLE or PHASE. -/
def BelfryStatesChangeAtPhaseZero : Prop :=
  (∀ (s : State) (x : BelfSt), s.belf.next = some x → s.belf.phase = 0 → Regs.wf s = true →
    ∃ t, exec .belfryStateChange s = .next t ∧ t.belf.st = x ∧ t.belf.next = none ∧ t.belf.valid = 0 ∧
      t.belf.cycle = s.belf.cycle ∧ t.belf.phase = s.belf.phase ∧ regBit (t.reg 0x10 oIrqRaw) (belfIrq x) = true) ∧
  (∀ s : State, s.belf.phase ≠ 0 → exec .belfryStateChange s = .next s) ∧
  (∀ (s : State) (e : Nat), s.belf.st = .acquire ∨ s.belf.st = .locked → s.belf.next = none → 33 * s.belf.tracked < 16 * e →
    exec (.crossingTimeout e) s = .next { s with belf := { s.belf with next := some .holdover } }) ∧
  (∀ s : State, s.belf.st = .holdover → max 1 (s.regF 0x10 oCtl 16 16) ≤ s.belf.holdCnt.toNat →
    exec .holdLimitExpiry s = .next { s with belf := { s.belf with next := some .synth } }) ∧
  (∀ (s : State) (id : MasterId) (v : Word32), s.issues id = true → s.custodyOf id = true → regFld v 0 2 ≠ 3 →
    ∃ t, exec (.srcWrite id v) s = .next t ∧ t.belf.start = true ∧ t.belf.valid = 0 ∧ t.belf.st = s.belf.st ∧
      t.belf.cycle = s.belf.cycle ∧ t.belf.phase = s.belf.phase ∧
      (s.belf.st = .acquire ∨ s.belf.st = .locked → regFld v 0 2 ≠ 2 → t.belf.next = some .holdover) ∧
      (s.belf.st ≠ .synth → regFld v 0 2 = 2 → t.belf.next = some .synth) ∧ t.resp = .done)

/-- REFERENCE_CROSSING: a crossing on a source that is not selected changes nothing. On the selected source the first crossing only starts the count. Later, in SYNTH and ACQUIRE, an interval from 15.385 ms to 22.222 ms counts as valid, puts the signed phase error into BELF_PERR and leaves IRQ_RAW alone; any other interval sets REJECT (bit 5), and neither restarts nor raises the count of valid crossings. BELFRY_STATE_CHANGE with a change decided and PHASE 0 enters the decided state, sets its IRQ_RAW bit and clears the count of valid crossings; at any other phase it changes nothing. CROSSING_TIMEOUT decides HOLDOVER in ACQUIRE and LOCKED when more than 33/16 of a tracked period has passed; HOLD_LIMIT_EXPIRY decides SYNTH in HOLDOVER after HOLD_LIM mcy (0 acts as 1); SRC_WRITE of 0 or 1 decides HOLDOVER in ACQUIRE and LOCKED, of 2 decides SYNTH outside SYNTH, and makes the next crossing a starting point. None of them moves CYCLE or PHASE. -/
def Obligations.CrossingsMoveTheBelfry : Prop := CrossingsAreJudgedByTheirInterval ∧ BelfryStatesChangeAtPhaseZero

/-- For comparators 4 to 31 and every identity that issues transactions, and for comparators 0 to 3 and every such identity of the Custody world: a write of either half of the target while EN is 0 stores it; while EN is 1 it ends with a bus error of cause BINDING, and beside the bus-error record (R106) and the answer nothing changes. -/
def Obligations.ComparatorTargetsFreezeWhileArmed : Prop :=
  ∀ (s : State) (id : MasterId) (c : Fin 64) (high : Bool) (v : Word32), s.issues id = true → c.val < 32 →
    4 ≤ c.val ∨ s.custodyOf id = true →
    (s.bcmpEn c.val = false → exec (.bcmpTargetWrite id c high v) s =
      .next { s.setReg 0x11 (0x100 + c.val * 16 + 4 * b2n high) v with resp := .done }) ∧
    (s.bcmpEn c.val = true → exec (.bcmpTargetWrite id c high v) s =
      .next { s.berr id (regAddr 0x11 (0x100 + c.val * 16 + 4 * b2n high)) true .binding with resp := .err .binding })

/-- BCMP_CTL_WRITE to a comparator of firmware (4 to 31), or of the Custody world to 0 to 3, stores EN, PERIODIC and PERIOD, keeps ROUTE, and clears SKIP when EN is written 1. COMPARATOR_FIRE on one of 4 to 31 that is armed and whose target is not after the time sets its bit of IRQ_RAW; a one-shot comparator then has EN 0 and keeps its target, LATE is set if the time is past the target; a periodic one stays armed with a target after the time. A comparator that is not due changes nothing. An Operator-world write to comparators 0 to 3 ends with ACCESS; a target write to comparators 32 to 63 is ignored (the model's reading of R62 beside R63, log entry 73). -/
def Obligations.ComparatorsArmAndFire : Prop :=
  (∀ (s : State) (id : MasterId) (c : Fin 64) (v : Word32), s.issues id = true → c.val < 32 →
    4 ≤ c.val ∨ s.custodyOf id = true → Regs.wf s = true → ∃ t, exec (.bcmpCtlWrite id c v) s = .next t ∧ t.resp = .done ∧
      t.reg 0x11 (0x108 + c.val * 16) = (s.reg 0x11 (0x108 + c.val * 16) &&& 0xFC) ||| (v &&& 0xFFFFFF03) ∧
      (regBit v 0 = true → t.regF 0x11 (0x10C + c.val * 16) 8 8 = 0) ∧ t.mem = s.mem) ∧
  (∀ (s : State) (c : Fin 64), bcmpDue s c.val = false → exec (.comparatorFire c) s = .next s) ∧
  (∀ (s : State) (c : Fin 64), 4 ≤ c.val → c.val < 32 → bcmpDue s c.val = true → Regs.wf s = true →
    ∃ t, exec (.comparatorFire c) s = .next t ∧ regBit (t.reg 0x11 oIrqRaw) c.val = true ∧ t.mem = s.mem ∧ t.belf = s.belf ∧
      (s.regB 0x11 (0x108 + c.val * 16) 1 = false →
        t.bcmpEn c.val = false ∧ t.bcmpTarget c.val = s.bcmpTarget c.val ∧
        (s.bcmpTarget c.val < s.time → t.regB 0x11 (0x10C + c.val * 16) 0 = true)) ∧
      (s.regB 0x11 (0x108 + c.val * 16) 1 = true → t.bcmpEn c.val = true ∧
        (s.time + 2 ^ 35 < 2 ^ 64 → s.time < t.bcmpTarget c.val))) ∧
  (∀ (s : State) (id : MasterId) (c : Fin 64) (high : Bool) (v : Word32), s.issues id = true → c.val < 4 → s.custodyOf id = false →
    exec (.bcmpTargetWrite id c high v) s =
      .next { s.berr id (regAddr 0x11 (0x100 + c.val * 16 + 4 * b2n high)) true .access with resp := .err .access }) ∧
  (∀ (s : State) (id : MasterId) (c : Fin 64) (high : Bool) (v : Word32), s.issues id = true → 32 ≤ c.val → Regs.wf s = true →
    exec (.bcmpTargetWrite id c high v) s = .next { s with resp := .done })

/-- A register of a timer whose write only stores the word (R68, R71): command, offset in the timer. -/
def timerStores : List ((MasterId → Fin 12 → Fin 8 → Word32 → Instr) × Nat) :=
  [(fun id p t v => .cmpWrite id p t v false, 0x10), (.countWrite, 4), (.reloadWrite, 0xC)]

/-- For every identity that issues transactions and every timer: COUNT_WRITE, RELOAD_WRITE and CMP_WRITE (with no edge of the source in its cycle) store the word and nothing else; where a tick of a running, unlinked timer falls in the cycle of CMP_WRITE, the new COUNT is compared with the written value, which stays the live comparator, and PRE_PEND keeps its value; CMP_PRE_WRITE stores it and sets PRE_PEND; TCTL_WRITE with a legal source on a page in native mode stores EN, PRE_EN, DBG_STOP, SRC and PRESC as written, LINK on odd timers only, and keeps PRE_PEND. Without an edge in its cycle none sets an interrupt flag. -/
def TimerWritesTakeEffectAtOnce : Prop :=
  (∀ r ∈ timerStores, ∀ (s : State) (id : MasterId) (p : Fin 12) (t : Fin 8) (v : Word32), s.issues id = true →
    exec (r.1 id p t v) s = .next { s.setReg (tmrPage p.val) (tmrOff t.val + r.2) v with resp := .done }) ∧
  (∀ (s : State) (id : MasterId) (p : Fin 12) (t : Fin 8) (v : Word32), s.issues id = true → s.tRuns p.val t.val = true →
    s.tDue p.val t.val = true → s.tLink p.val t.val = false → s.tLow p.val t.val = false → Regs.wf s = true →
    ∃ u, exec (.cmpWrite id p t v true) s = .next u ∧ (u.tview p.val t.val).cmp = v.toNat ∧
      (u.tview p.val t.val).prePend = (s.tview p.val t.val).prePend ∧
      (u.tview p.val t.val).count = (if (s.tview p.val t.val).reload ≤ (s.tview p.val t.val).count then 0
        else (s.tview p.val t.val).count + 1) ∧
      ((u.tview p.val t.val).count = v.toNat → regBit (u.reg (tmrPage p.val) oIrqRaw) (2 * t.val) = true)) ∧
  (∀ (s : State) (id : MasterId) (p : Fin 12) (t : Fin 8) (v : Word32), s.issues id = true →
    exec (.cmpPreWrite id p t v) s =
      .next { (s.setReg (tmrPage p.val) (tmrOff t.val + 0x14) v).setRegF (tmrPage p.val) (tmrOff t.val) 24 1 1 with resp := .done }) ∧
  (∀ (s : State) (id : MasterId) (p : Fin 12) (t : Fin 8) (v : Word32), s.issues id = true → s.c5 p.val = false →
    regFld v 4 3 < 3 → Regs.wf s = true → ∃ u, exec (.tctlWrite id p t v) s = .next u ∧ u.resp = .done ∧ u.mem = s.mem ∧
      u.reg (tmrPage p.val) oIrqRaw = s.reg (tmrPage p.val) oIrqRaw ∧
      (∀ k < 32, regBit (u.reg (tmrPage p.val) (tmrOff t.val)) k =
        (if k = 24 then regBit (s.reg (tmrPage p.val) (tmrOff t.val)) 24
         else if k = 2 then regBit v 2 && decide (t.val % 2 = 1)
         else if k < 7 ∨ (8 ≤ k ∧ k < 24) then regBit v k else false)))

/-- TIMER_TICK is an edge of the timer's source (the model's choice, log entry 73). On a timer that runs, where the edge is a tick of the timer (the prescaler's count has ended, or the Belfry has generated a tick the timer has not counted), and is no linked high half: COUNT goes up by 1, or to 0 when it stood at RELOAD or above, which sets OVF; with PRE_EN and PRE_PEND an overflow copies CMP_PRE to CMP and clears PRE_PEND first; MATCH is set when the new COUNT equals CMP. The overflow of a linked low half ticks the running high half in the same way; without one the high half's COUNT stays. A REFCLK edge that is no tick moves the divider alone; a linked high half and a stopped timer change nothing, and a timer that does not run changes no register. -/
def TimerTicksCountMatchAndOverflow : Prop :=
  (∀ (s : State) (p : Fin 12) (t : Fin 8), s.tLink p.val t.val = true ∨ (s.timer p.val t.val).stopped = true →
    exec (.timerTick p t) s = .next s) ∧
  (∀ (s : State) (p : Fin 12) (t : Fin 8), s.tRuns p.val t.val = false →
    ∃ u, exec (.timerTick p t) s = .next u ∧ u.regs = s.regs ∧ u.mem = s.mem) ∧
  (∀ (s : State) (p : Fin 12) (t : Fin 8), s.tRuns p.val t.val = true → s.tLink p.val t.val = false → s.tSrc p.val t.val = 0 →
    (s.timer p.val t.val).div < s.tPresc p.val t.val → exec (.timerTick p t) s =
      .next (s.setTimer p.val t.val { s.timer p.val t.val with div := (s.timer p.val t.val).div + 1 })) ∧
  (∀ (s : State) (p : Fin 12) (t : Fin 8), s.tRuns p.val t.val = true → s.tLink p.val t.val = false → s.tDue p.val t.val = true →
    Regs.wf s = true → ∃ u, exec (.timerTick p t) s = .next u ∧ u.mem = s.mem ∧
      (u.tview p.val t.val).reload = (s.tview p.val t.val).reload ∧
      (u.tview p.val t.val).count = (if (s.tview p.val t.val).reload ≤ (s.tview p.val t.val).count then 0
        else (s.tview p.val t.val).count + 1) ∧
      (u.tview p.val t.val).cmp = (if (s.tview p.val t.val).reload ≤ (s.tview p.val t.val).count ∧
        (s.tview p.val t.val).preEn = true ∧ (s.tview p.val t.val).prePend = true then (s.tview p.val t.val).pre
        else (s.tview p.val t.val).cmp) ∧
      ((s.tview p.val t.val).reload ≤ (s.tview p.val t.val).count → regBit (u.reg (tmrPage p.val) oIrqRaw) (2 * t.val + 1) = true) ∧
      ((u.tview p.val t.val).count = (u.tview p.val t.val).cmp → regBit (u.reg (tmrPage p.val) oIrqRaw) (2 * t.val) = true) ∧
      (s.tLow p.val t.val = true → (u.tview p.val (t.val + 1)).count =
        (if (s.tview p.val t.val).reload ≤ (s.tview p.val t.val).count ∧ s.tRuns p.val (t.val + 1) = true then
          (if (s.tview p.val (t.val + 1)).reload ≤ (s.tview p.val (t.val + 1)).count then 0
           else (s.tview p.val (t.val + 1)).count + 1)
         else (s.tview p.val (t.val + 1)).count)))

/-- LINKED_COUNT_READ of a linked low half answers its COUNT and latches the high half's COUNT for the reader; of a linked high half it answers the reader's latch. TIMER_STOP marks a timer stopped only while its clock owner sleeps in native mode. TIMER_RESTART of a stopped timer whose owner is awake, enabled and not linked, adds its ticks in one step: for SRC 0, floor((frac + s × 10^8) / (32,768 × (PRESC + 1))), keeping the remainder; for SRC 1 and 2, the slot boundaries or PHASE = 0 ticks the Belfry generated in the meantime. A timer that is not stopped, or whose owner sleeps, changes nothing. -/
def LinkedReadsAndSleepMakeUp : Prop :=
  (∀ (s : State) (id : MasterId) (p : Fin 12) (t : Fin 8), s.issues id = true → s.tLow p.val t.val = true →
    exec (.linkedCountRead id p t) s = .next { s with
      tlatch := sput s.tlatch (tmrIx p.val (t.val + 1) * 32 + id.val) (s.reg (tmrPage p.val) (tmrOff (t.val + 1) + 4)) 0,
      resp := .data (leBytes 4 (s.reg (tmrPage p.val) (tmrOff t.val + 4)).toNat) false }) ∧
  (∀ (s : State) (id : MasterId) (p : Fin 12) (t : Fin 8), s.issues id = true → s.tLink p.val t.val = true →
    exec (.linkedCountRead id p t) s = .next { s with
      resp := .data (leBytes 4 (sget s.tlatch (tmrIx p.val t.val * 32 + id.val) 0).toNat) false }) ∧
  (∀ (s : State) (p : Fin 12) (t : Fin 8), exec (.timerStop p t) s = .next
    (if s.tSleeps p.val = true ∧ s.c5 p.val = false then s.setTimer p.val t.val { s.timer p.val t.val with stopped := true } else s)) ∧
  (∀ (s : State) (p : Fin 12) (t : Fin 8) (e : Nat), (s.timer p.val t.val).stopped = false ∨ s.tSleeps p.val = true →
    exec (.timerRestart p t e) s = .next s) ∧
  (∀ (s : State) (p : Fin 12) (t : Fin 8) (e : Nat), (s.timer p.val t.val).stopped = true → s.tSleeps p.val = false →
    s.tEn p.val t.val = true → s.tLink p.val t.val = false → s.tLow p.val t.val = false →
    exec (.timerRestart p t e) s = .next (
      if s.tSrc p.val t.val = 0 then (tmrAdd (s.setTimer p.val t.val { s.timer p.val t.val with
        frac := ((s.timer p.val t.val).frac + e * 100000000) % (32768 * (s.tPresc p.val t.val + 1)), div := 0, stopped := false })
          p.val t.val (((s.timer p.val t.val).frac + e * 100000000) / (32768 * (s.tPresc p.val t.val + 1)))).1
      else (tmrAdd (s.setTimer p.val t.val { s.timer p.val t.val with
        seen := s.belf.ticks (s.tSrc p.val t.val), div := 0, stopped := false })
          p.val t.val (s.belf.ticks (s.tSrc p.val t.val) - (s.timer p.val t.val).seen)).1))

/-- For every identity that issues transactions and every timer: COUNT_WRITE, RELOAD_WRITE and CMP_WRITE (with no edge of the source in its cycle) store the word and nothing else; where a tick of a running, unlinked timer falls in the cycle of CMP_WRITE, the new COUNT is compared with the written value, which stays the live comparator, and PRE_PEND keeps its value; CMP_PRE_WRITE stores it and sets PRE_PEND; TCTL_WRITE with a legal source on a page in native mode stores EN, PRE_EN, DBG_STOP, SRC and PRESC as written, LINK on odd timers only, and keeps PRE_PEND. Without an edge in its cycle none sets an interrupt flag. TIMER_TICK is an edge of the timer's source (the model's choice, log entry 73). On a timer that runs, where the edge is a tick of the timer (the prescaler's count has ended, or the Belfry has generated a tick the timer has not counted), and is no linked high half: COUNT goes up by 1, or to 0 when it stood at RELOAD or above, which sets OVF; with PRE_EN and PRE_PEND an overflow copies CMP_PRE to CMP and clears PRE_PEND first; MATCH is set when the new COUNT equals CMP. The overflow of a linked low half ticks the running high half in the same way; without one the high half's COUNT stays. A REFCLK edge that is no tick moves the divider alone; a linked high half and a stopped timer change nothing, and a timer that does not run changes no register. LINKED_COUNT_READ of a linked low half answers its COUNT and latches the high half's COUNT for the reader; of a linked high half it answers the reader's latch. TIMER_STOP marks a timer stopped only while its clock owner sleeps in native mode. TIMER_RESTART of a stopped timer whose owner is awake, enabled and not linked, adds its ticks in one step: for SRC 0, floor((frac + s × 10^8) / (32,768 × (PRESC + 1))), keeping the remainder; for SRC 1 and 2, the slot boundaries or PHASE = 0 ticks the Belfry generated in the meantime. A timer that is not stopped, or whose owner sleeps, changes nothing. -/
def Obligations.TimersCountMatchAndMakeUp : Prop := TimerWritesTakeEffectAtOnce ∧ TimerTicksCountMatchAndOverflow ∧ LinkedReadsAndSleepMakeUp

/-- For every line address of 32 bits, the fold by digits of 6 bits that the device uses gives exactly the residue modulo 63, and the quotient by 63 of the rest is exact. -/
def Obligations.ChannelFoldIsTheResidue : Prop := ∀ l : Nat, l < 2 ^ 32 → fold63 l = l % 63 ∧ 63 * ((l - fold63 l) / 63) + fold63 l = l

/-- Over every pair of line addresses of the 244 GiB map: where the channel (the fold of the line address) and the rank, bank, row and column of the in-channel line all agree, the two lines are the same. No bit of an address is dropped between the address and the device pins. -/
def Obligations.WideMapIsInjective : Prop :=
  ∀ l m : Nat, l < dramLines → m < dramLines → fold63 l = fold63 m →
    dramPlace ((l - fold63 l) / 63) = dramPlace ((m - fold63 m) / 63) → l = m

/-- Every stored-error table is in canonical form. -/
def errsWf (s : State) : Prop := swf (fun _ => ({} : CellErr)) s.lineErr = true ∧ swf (fun _ => ({} : CellErr)) s.wordErr = true
/-- DRAM address of byte `o` of line `l`. -/
def dramAddr (l o : Nat) : Addr := BitVec.ofNat 48 (dramBase + l * 64 + o)

/-- DRAM_READ of bytes within one mapped line whose channel has power, and which no copy to the spare serves. With no bit in error and the tag right the answer is the stored bytes and no register and no byte of memory changes. With one bit in error and the tag right, the answer is the stored bytes, MCH_CECNT of the channel goes up by 1, its IRQ_RAW bit 0 is set, and the line's error is gone. With two bits in error, or with fewer and the tag wrong, the answer is marked poisoned, MCH_UECNT goes up by 1 and bit 1 of IRQ_RAW is set. With fewer than three bits in error memory is unchanged. A line that the mode does not map answers a bus error of cause NOTMAPPED, one of a channel whose domain is off POWER. A read that a COPY directs to channel 63 and that has two bits in error there abandons the copy (FAILED) and answers the old channel's bytes. -/
def DramReadsFollowTheCheckWord : Prop :=
  ∀ (s : State) (id : MasterId) (l o n : Nat) (u : Upset), s.issues id = true → l < dramLines → o + n ≤ 64 → 0 < n →
    (s.dramLocs l = none → exec (.dramRead id (dramAddr l o) n u) s =
      .next { s.berr id (dramBase + l * 64 + o) false .notmapped with resp := .err .notmapped }) ∧
    (∀ rd wr, s.dramLocs l = some (rd, wr) → s.dom (pdDch rd.1) = false → exec (.dramRead id (dramAddr l o) n u) s =
      .next { s.berr id (dramBase + l * 64 + o) false .power with resp := .err .power }) ∧
    (∀ rd wr, s.dramLocs l = some (rd, wr) → s.dom (pdDch rd.1) = true → rd.1 ≠ 63 ∨ s.memc.spareSt ≠ .copy → Regs.wf s = true →
      errsWf s → ∃ t, exec (.dramRead id (dramAddr l o) n u) s = .next t ∧ (((s.lineErrAt rd).bits + u.bits < 3) → t.mem = s.mem) ∧
        ((s.lineErrAt rd).bits + u.bits = 0 → (s.lineErrAt rd).tag ^^^ u.tag.toNat = 0 →
          t.resp = .data (s.bytes (locKey rd + o) n) false ∧ t.regs = s.regs) ∧
        ((s.lineErrAt rd).bits + u.bits = 1 → (s.lineErrAt rd).tag ^^^ u.tag.toNat = 0 →
          t.resp = .data (s.bytes (locKey rd + o) n) false ∧ t.lineErrAt rd = {} ∧
          (t.reg (0xC0 + rd.1) 0x100).toNat = min ((s.reg (0xC0 + rd.1) 0x100).toNat + 1) 0xFFFFFFFF ∧
          t.regB (0xC0 + rd.1) oIrqRaw 0 = true) ∧
        ((s.lineErrAt rd).bits + u.bits = 2 ∨ (s.lineErrAt rd).bits + u.bits < 2 ∧ (s.lineErrAt rd).tag ^^^ u.tag.toNat ≠ 0 →
          t.resp = .data (s.bytes (locKey rd + o) n) true ∧
          (t.reg (0xC0 + rd.1) 0x104).toNat = min ((s.reg (0xC0 + rd.1) 0x104).toNat + 1) 0xFFFFFFFF ∧
          t.regB (0xC0 + rd.1) oIrqRaw 1 = true)) ∧
    (∀ j wr, s.dramLocs l = some ((63, j), wr) → s.dom (pdDch 63) = true → s.memc.spareSt = .copy → s.memc.held = [] → errsWf s →
      (s.lineErrAt (63, j)).bits + u.bits = 2 → s.memc.spareLogical < 63 → s.lineErrAt (s.memc.spareLogical, j) = {} →
      ∃ t, exec (.dramRead id (dramAddr l o) n u) s = .next t ∧ t.memc.spareSt = .failed ∧ t.mem = s.mem ∧
        t.resp = .data (s.bytes (locKey (s.memc.spareLogical, j) + o) n) false)

/-- DRAM_WRITE of bytes within one line that has a single place, whose channel has power, and no error: the bytes of the place take the written bytes, every other byte of memory reads as before, and no register changes. A write of a whole line also clears every error of its place, whatever stood there; of a line with two places (a copy to the spare has passed it) it stores to both and nowhere else. A line the mode does not map answers NOTMAPPED, one with a place whose channel has no power POWER. -/
def DramWritesStoreTheirBytesAlone : Prop :=
  ∀ (s : State) (id : MasterId) (l o : Nat) (d : List Byte), s.issues id = true → l < dramLines → o + d.length ≤ 64 → d ≠ [] →
    Memory.wf s = true → errsWf s →
    (s.dramLocs l = none → exec (.dramWrite id (dramAddr l o) d {}) s =
      .next { s.berr id (dramBase + l * 64 + o) true .notmapped with resp := .err .notmapped }) ∧
    (∀ rd wr, s.dramLocs l = some (rd, wr) → s.chansOn (rd :: wr) = false → exec (.dramWrite id (dramAddr l o) d {}) s =
      .next { s.berr id (dramBase + l * 64 + o) true .power with resp := .err .power }) ∧
    (∀ rd, s.dramLocs l = some (rd, [rd]) → s.dom (pdDch rd.1) = true → s.lineErrAt rd = {} ∨ d.length = 64 →
      ∃ t, exec (.dramWrite id (dramAddr l o) d {}) s = .next t ∧ t.resp = .done ∧ t.regs = s.regs ∧
        t.bytes (locKey rd + o) d.length = d ∧ t.lineErrAt rd = {} ∧
        ∀ a, a < locKey rd + o ∨ locKey rd + o + d.length ≤ a → t.byteAt a = s.byteAt a) ∧
    (∀ rd x y, s.dramLocs l = some (rd, [x, y]) → s.chansOn [rd, x, y] = true → d.length = 64 →
      ∃ t, exec (.dramWrite id (dramAddr l o) d {}) s = .next t ∧ t.resp = .done ∧ t.regs = s.regs ∧
        t.bytes (locKey x) 64 = d ∧ t.bytes (locKey y) 64 = d ∧ t.lineErrAt x = {} ∧ t.lineErrAt y = {} ∧
        ∀ a, a < locKey x ∨ locKey x + 64 ≤ a → a < locKey y ∨ locKey y + 64 ≤ a → t.byteAt a = s.byteAt a)

/-- DRAM_READ of bytes within one mapped line whose channel has power, and which no copy to the spare serves. With no bit in error and the tag right the answer is the stored bytes and no register and no byte of memory changes. With one bit in error and the tag right, the answer is the stored bytes, MCH_CECNT of the channel goes up by 1, its IRQ_RAW bit 0 is set, and the line's error is gone. With two bits in error, or with fewer and the tag wrong, the answer is marked poisoned, MCH_UECNT goes up by 1 and bit 1 of IRQ_RAW is set. With fewer than three bits in error memory is unchanged. A line that the mode does not map answers a bus error of cause NOTMAPPED, one of a channel whose domain is off POWER. A read that a COPY directs to channel 63 and that has two bits in error there abandons the copy (FAILED) and answers the old channel's bytes. DRAM_WRITE of bytes within one line that has a single place, whose channel has power, and no error: the bytes of the place take the written bytes, every other byte of memory reads as before, and no register changes. A write of a whole line also clears every error of its place, whatever stood there; of a line with two places (a copy to the spare has passed it) it stores to both and nowhere else. A line the mode does not map answers NOTMAPPED, one with a place whose channel has no power POWER. -/
def Obligations.DramAccessesActOnTheirLine : Prop := DramReadsFollowTheCheckWord ∧ DramWritesStoreTheirBytesAlone

/-- In WIDENING, with no error stored in any line and none striking: after WIDENING_COPY_BLOCK the pointer is 32 lines further, and for every line of the 8 GiB window the place it is read from after the block holds the 64 bytes that the place it was read from before held. The block touches no register. -/
def Obligations.WideningKeepsEveryLine : Prop :=
  ∀ s : State, s.memc.mode = .widening → s.memc.widenPtr + 32 ≤ narrowLines → s.lineErr = [] → Memory.wf s = true →
    ∃ t, exec (.wideningCopyBlock []) s = .next t ∧ t.memc = { s.memc with widenPtr := s.memc.widenPtr + 32 } ∧ t.regs = s.regs ∧
      ∀ l < narrowLines, ∃ rd wr rd' wr', s.dramLocs l = some (rd, wr) ∧ t.dramLocs l = some (rd', wr') ∧
        t.bytes (locKey rd') 64 = s.bytes (locKey rd) 64

/-- WIDEN in the Custody world is accepted in NARROW with all 63 channels trained (MODE becomes WIDENING, the pointer 0), and otherwise discarded. WIDE_DONE with the whole window copied makes MODE WIDE and sets bit 4 of IRQ_RAW; a spare procedure that a reset interrupted starts again from ARM. SPARE_FORCE of channel l below 63 in WIDE with the spare idle arms the spare for l; SPARE_COPY_BLOCK advances the pointer by one block, the first one from ARM to COPY and the last one to SWITCH; SPARE_SWITCH makes the spare USED and VALID, retires the old channel and turns its domain off; SPARE_ABORT in COPY leaves the spare FAILED and the old channel DEGRADED; outside COPY it changes nothing. SCRUB_READ changes nothing while scrub or the channel's domain is off. Otherwise, with fewer than three bits in error, it changes no byte of memory and no answer; one bit in error is put right and counted in MCH_CECNT with bit 0 of the channel's IRQ_RAW, two are counted in MCH_UECNT with bit 1. -/
def Obligations.WideningAndSparingRun : Prop :=
  (∀ (s : State) (id : MasterId) (v : Word32), s.issues id = true → s.custodyOf id = true → exec (.widen id v) s =
    .next (if regBit v 0 = true ∧ s.memc.mode = .narrow ∧ s.allTrained = true
      then { s with memc := { s.memc with mode := .widening, widenPtr := 0, widen := true }, resp := .done }
      else { s with resp := .done })) ∧
  (∀ s : State, s.memc.mode = .widening → narrowLines ≤ s.memc.widenPtr → s.memc.held = [] → Regs.wf s = true →
    ∃ t, exec .wideDone s = .next t ∧ t.memc.mode = .wide ∧ t.regB 0x80 oIrqRaw 4 = true ∧ t.mem = s.mem ∧
      (s.memc.spareSt ≠ .arm → s.memc.spareSt ≠ .copy → s.memc.spareSt ≠ .switch → t.memc = { s.memc with mode := .wide }) ∧
      (s.memc.spareSt = .arm ∨ s.memc.spareSt = .copy ∨ s.memc.spareSt = .switch → t.memc.spareSt = .arm ∧ t.memc.sparePtr = 0 ∧
        t.memc.spareLogical = s.memc.spareLogical)) ∧
  (∀ (s : State) (id : MasterId) (v : Word32), s.issues id = true → s.custodyOf id = true → s.memc.mode = .wide →
    s.memc.spareSt = .idle → regBit v 8 = true → regFld v 16 6 < 63 →
    ∃ t, exec (.spareForce id v) s = .next t ∧ t.memc.spareSt = .arm ∧ t.memc.spareLogical = regFld v 16 6 ∧ t.memc.sparePtr = 0 ∧
      t.memc.spareValid = false ∧ (t.mch 63).trained = true ∧ t.mem = s.mem ∧ t.resp = .done) ∧
  (∀ (s : State) (us : List Upset), s.memc.mode = .wide → s.memc.spareSt = .arm ∨ s.memc.spareSt = .copy →
    s.memc.sparePtr < spareBlocks → ∃ t, exec (.spareCopyBlock us) s = .next t ∧ t.memc.sparePtr = s.memc.sparePtr + 1 ∧
      t.memc.spareSt = (if s.memc.sparePtr + 1 = spareBlocks then .switch else .copy) ∧ t.memc.mode = .wide) ∧
  (∀ s : State, s.memc.spareSt = .switch → s.memc.held = [] → Regs.wf s = true → swf domainReset s.domains = true → ∃ t, exec .spareSwitch s = .next t ∧ t.memc.spareSt = .used ∧
    t.memc.spareValid = true ∧ (t.mch s.memc.spareLogical).cstate = 3 ∧ t.dom (pdDch s.memc.spareLogical) = false ∧
    t.regB 0x80 oIrqRaw 1 = true) ∧
  (∀ (s : State) (w : SpareAbortWhy), s.memc.spareSt = .copy → s.memc.held = [] → Regs.wf s = true →
    ∃ t, exec (.spareAbort w) s = .next t ∧ t.memc.spareSt = .failed ∧ (t.mch s.memc.spareLogical).cstate = 2 ∧
      t.regB 0x80 oIrqRaw 3 = true ∧ t.mem = s.mem) ∧
  (∀ (s : State) (w : SpareAbortWhy), s.memc.spareSt ≠ .copy → exec (.spareAbort w) s = .next s) ∧
  (∀ (s : State) (p : Fin 64) (j : Nat) (u : Upset), s.regB 0x80 0x118 31 = false ∨ s.dom (pdDch p.val) = false → exec (.scrubRead p j u) s = .next s) ∧
  (∀ (s : State) (p : Fin 64) (j : Nat) (u : Upset), s.regB 0x80 0x118 31 = true → s.dom (pdDch p.val) = true → j < chanLines →
    (s.lineErrAt (p.val, j)).bits + u.bits < 3 → errsWf s → Regs.wf s = true →
    ∃ t, exec (.scrubRead p j u) s = .next t ∧ t.mem = s.mem ∧ t.resp = s.resp ∧
      ((s.lineErrAt (p.val, j)).bits + u.bits = 1 → (s.lineErrAt (p.val, j)).tag ^^^ u.tag.toNat = 0 → t.lineErrAt (p.val, j) = {} ∧
        (t.reg (0xC0 + p.val) 0x100).toNat = min ((s.reg (0xC0 + p.val) 0x100).toNat + 1) 0xFFFFFFFF ∧
        t.regB (0xC0 + p.val) oIrqRaw 0 = true) ∧
      ((s.lineErrAt (p.val, j)).bits + u.bits = 2 →
        (t.reg (0xC0 + p.val) 0x104).toNat = min ((s.reg (0xC0 + p.val) 0x104).toNat + 1) 0xFFFFFFFF ∧
        t.regB (0xC0 + p.val) oIrqRaw 1 = true))

/-- SRAM_ACCESS within one 8-byte word. In a bank of scratch or queue store that is ON or RET with no fill pending, a read leaves the bank ON; it answers the bytes of a word with no bit in error and, in a bank that is ON, changes no byte and no register; a word with one bit in error is answered, put right and flagged (bit 0 of IRQ_RAW); one with two bits in error is answered poisoned. With a fill pending a read answers zeros. In a bank of scratch that is ON a write stores its bytes and changes no other byte; a write of all 8 bytes clears the word's error. In a bank that is OFF or RETIRED a read, and in scratch a write, ends with a bus error of cause POWER and changes nothing else. -/
def SramAccessesFollowTheBankState : Prop :=
  ∀ (s : State) (id : MasterId) (a : Addr) (p b : Nat), s.issues id = true → bankOf a.toNat = some (p, b) →
    (∀ n, 0 < n → a.toNat % 8 + n ≤ 8 → s.bankSt p b = 1 ∨ s.bankSt p b = 2 → sget (s.scr p).filling b 0 = 0 → Regs.wf s = true →
      errsWf s → ∃ t, exec (.sramAccess id a (.read n) {}) s = .next t ∧ t.bankSt p b = 1 ∧
        (s.wordErrAt (a.toNat / 8) < 3 → t.mem = s.mem) ∧
        (s.wordErrAt (a.toNat / 8) = 0 → (s.bankSt p b = 1 → t.regs = s.regs) ∧ t.resp = .data (s.bytes a.toNat n) false) ∧
        (s.wordErrAt (a.toNat / 8) = 1 → t.wordErrAt (a.toNat / 8) = 0 ∧ t.regB (scrPage p) oIrqRaw 0 = true ∧
          t.resp = .data (s.bytes a.toNat n) false) ∧
        (s.wordErrAt (a.toNat / 8) = 2 → t.resp = .data (s.bytes a.toNat n) true)) ∧
    (∀ n, 0 < n → a.toNat % 8 + n ≤ 8 → s.bankSt p b = 1 → sget (s.scr p).filling b 0 ≠ 0 → Memory.wf s = true → errsWf s →
      ∃ t, exec (.sramAccess id a (.read n) {}) s = .next t ∧ t.regs = s.regs ∧ t.resp = .data (List.replicate n 0) false) ∧
    (∀ d : List Byte, p = 0 → d ≠ [] → a.toNat % 8 + d.length ≤ 8 → s.bankSt 0 b = 1 → sget s.scr0.filling b 0 = 0 → Memory.wf s = true →
      errsWf s → s.wordErrAt (a.toNat / 8) = 0 ∨ d.length = 8 →
      ∃ t, exec (.sramAccess id a (.write d) {}) s = .next t ∧ t.resp = .done ∧ t.bytes a.toNat d.length = d ∧
        t.wordErrAt (a.toNat / 8) = 0 ∧ t.regs = s.regs ∧
        ∀ x, x < a.toNat ∨ a.toNat + d.length ≤ x → t.byteAt x = s.byteAt x) ∧
    (s.bankSt p b = 0 ∨ s.bankSt p b = 3 →
      (∀ n, 0 < n → a.toNat % 8 + n ≤ 8 → exec (.sramAccess id a (.read n) {}) s =
        .next { s.berr id a.toNat false .power with resp := .err .power }) ∧
      (∀ d : List Byte, p = 0 → d ≠ [] → a.toNat % 8 + d.length ≤ 8 → exec (.sramAccess id a (.write d) {}) s =
        .next { s.berr id a.toNat true .power with resp := .err .power }))

/-- The state SCR_BSTATE's field `f` moves a bank to from state `old`, whose domain's needs are on (`on`) (R96). -/
def bankMoves (old f : Nat) (on : Bool) : Nat :=
  if old = 3 ∨ f = 3 then old else if old = 0 ∧ on = false then old else f

/-- SCR_BSTATE_WRITE that switches off no queue-store bank holding an enabled queue context moves every bank of the register to its field's state (3, and a RETIRED bank's field, are ignored; a bank leaves OFF only while the domains its own needs are on; no bank of the register is redirected by the patrol), a bank moved to OFF loses its contents, and the other registers of the array stay; one that would ends with BINDING. BANK_ZERO_FILL of a bank with a fill pending clears every byte of the bank, ends the fill, and leaves every byte outside it; with none pending it changes nothing. PATROL_REGION with the patrol off changes nothing; on a bank that is ON, with no stored error, it records the region in STAT and goes on to the next one, and maps each failing row to a spare row while the bank has one, flagged in bit 2 of IRQ_RAW. DMA_STARVE counts in SCR_STARVE and sets bit 4 of IRQ_RAW. -/
def BanksPatrolAndStarvation : Prop :=
  (∀ (s : State) (id : MasterId) (p : Fin 2) (r : Fin 16) (v : Word32), s.issues id = true → p = 0 ∨ r.val < 4 → Regs.wf s = true →
    (∀ i < 16, bstateRefused s p.val r.val v i = false) → (∀ b, (s.scr p.val).stuck = some b → b / 16 ≠ r.val) →
    ∃ t, exec (.scrBstateWrite id p r v) s = .next t ∧ t.resp = .done ∧
      (∀ i < 16, t.bankSt p.val (16 * r.val + i) = bankMoves (s.bankSt p.val (16 * r.val + i)) (regFld v (2 * i) 2)
        ((domainNeeds (bankDomain p.val (16 * r.val + i))).all s.dom)) ∧
      (∀ i < 16, ∀ a, bankOf a = some (p.val, 16 * r.val + i) → regFld v (2 * i) 2 = 0 → s.bankSt p.val (16 * r.val + i) ≠ 0 →
        s.bankSt p.val (16 * r.val + i) ≠ 3 → t.byteAt a = 0) ∧
      (∀ r' < 16, r' ≠ r.val → t.reg (scrPage p.val) (0x100 + 4 * r') = s.reg (scrPage p.val) (0x100 + 4 * r'))) ∧
  (∀ (s : State) (id : MasterId) (r : Fin 16) (v : Word32) (i : Nat), s.issues id = true → r.val < 4 → i < 16 →
    s.bankSt 1 (16 * r.val + i) = 1 ∨ s.bankSt 1 (16 * r.val + i) = 2 → regFld v (2 * i) 2 = 0 → bankHasQueue s (16 * r.val + i) = true →
      exec (.scrBstateWrite id 1 r v) s = .next { s.berr id (regAddr 0x101 (0x100 + 4 * r.val)) true .binding with resp := .err .binding }) ∧
  (∀ (s : State) (p : Fin 2) (b : Fin 256), (sget (s.scr p.val).filling b.val 0 = 0 → exec (.bankZeroFill p b) s = .next s) ∧
    (sget (s.scr p.val).filling b.val 0 ≠ 0 → swf (fun _ => 0) (s.scr p.val).filling = true → ∃ t, exec (.bankZeroFill p b) s = .next t ∧ t.regs = s.regs ∧
      sget (t.scr p.val).filling b.val 0 = 0 ∧ ∀ a, t.byteAt a = if bankOf a = some (p.val, b.val) then 0 else s.byteAt a)) ∧
  (∀ (s : State) (p : Fin 2) (f : Nat), s.regB (scrPage p.val) oCtl 0 = false → exec (.patrolRegion p f) s = .next s) ∧
  (∀ (s : State) (p : Fin 2) (r : Nat), s.regB (scrPage p.val) oCtl 0 = true → (s.scr p.val).stuck = none →
    patrolTarget s p.val = some r → sget (s.scr p.val).filling (r / 64) 0 = 0 → s.wordErr = [] →
    exec (.patrolRegion p 0) s = .next ((s.setRegF (scrPage p.val) oStat 0 14 r).setScr p.val
      { s.scr p.val with next := (r + 1) % (nbank p.val * 64) })) ∧
  (∀ (s : State) (p : Fin 2) (r f : Nat), s.regB (scrPage p.val) oCtl 0 = true → (s.scr p.val).stuck = none →
    patrolTarget s p.val = some r → sget (s.scr p.val).filling (r / 64) 0 = 0 → s.wordErr = [] → Regs.wf s = true → 0 < f →
    sget (s.scr p.val).repairs (r / 64) 0 + sget (s.scr p.val).factory (r / 64) 0 + f ≤ 4 →
    ∃ t, exec (.patrolRegion p f) s = .next t ∧ t.mem = s.mem ∧
      sget (t.scr p.val).repairs (r / 64) 0 = sget (s.scr p.val).repairs (r / 64) 0 + f ∧ t.regB (scrPage p.val) oIrqRaw 2 = true ∧
      t.regF (scrPage p.val) oStat 0 14 = r % 16384 ∧ (t.scr p.val).next = (r + 1) % (nbank p.val * 64)) ∧
  (∀ (s : State) (p : Fin 2), Regs.wf s = true → ∃ t, exec (.dmaStarve p) s = .next t ∧ t.mem = s.mem ∧ t.regB (scrPage p.val) oIrqRaw 4 = true ∧
    (t.reg (scrPage p.val) 0x148).toNat = min ((s.reg (scrPage p.val) 0x148).toNat + 1) 0xFFFFFFFF)

/-- SRAM_ACCESS within one 8-byte word. In a bank of scratch or queue store that is ON or RET with no fill pending, a read leaves the bank ON; it answers the bytes of a word with no bit in error and, in a bank that is ON, changes no byte and no register; a word with one bit in error is answered, put right and flagged (bit 0 of IRQ_RAW); one with two bits in error is answered poisoned. With a fill pending a read answers zeros. In a bank of scratch that is ON a write stores its bytes and changes no other byte; a write of all 8 bytes clears the word's error. In a bank that is OFF or RETIRED a read, and in scratch a write, ends with a bus error of cause POWER and changes nothing else. SCR_BSTATE_WRITE that switches off no queue-store bank holding an enabled queue context moves every bank of the register to its field's state (3, and a RETIRED bank's field, are ignored; a bank leaves OFF only while the domains its own needs are on; no bank of the register is redirected by the patrol), a bank moved to OFF loses its contents, and the other registers of the array stay; one that would ends with BINDING. BANK_ZERO_FILL of a bank with a fill pending clears every byte of the bank, ends the fill, and leaves every byte outside it; with none pending it changes nothing. PATROL_REGION with the patrol off changes nothing; on a bank that is ON, with no stored error, it records the region in STAT and goes on to the next one, and maps each failing row to a spare row while the bank has one, flagged in bit 2 of IRQ_RAW. DMA_STARVE counts in SCR_STARVE and sets bit 4 of IRQ_RAW. -/
def Obligations.ScratchAndBanksActByState : Prop := SramAccessesFollowTheBankState ∧ BanksPatrolAndStarvation

/-- Core `n` runs instruction `op` whose prefixes are `p`, accepted by `a`, with no event and no disturbance, not as one of a
lockstep pair; the fetch of its `len` bytes raises nothing. -/
def plainRun (s : State) (n : Fin 8) (op : DisOp) (p : Pfx) (a : Acc) (len : Nat) : Prop :=
  op.ex = .turret n ∧ op.stop = none ∧ op.hw = .quiet ∧ op.reserved = none ∧ pfxParse {} op.pfx = some p ∧ p.page = a.page ∧ pfxBad a p = false ∧
    s.executes n = true ∧ s.lockstep n = false ∧ fetchCheck s n (op.pfx.length + 1 + len) 0 = .ok () s
/-- The instruction is not repeated. -/
def once (p : Pfx) : Prop := p.repn = false ∧ p.repi = false
/-- Address of the instruction after one with prefixes and `len` more bytes after its opcode. -/
def nextPc (s : State) (n : Fin 8) (op : DisOp) (len : Nat) : Nat := (s.cx n).pc.toNat + (op.pfx.length + 1 + len)
/-- Window cells with no fill fault on them. -/
def cellsOf (l : List Cell) : List WCell := l.map fun v => { v := v }
/-- Core `n` after an instruction that leaves `w` in its window and `f` in FLAGS and goes to `pc`: nothing else has changed. -/
def afterOp (s : State) (n : Fin 8) (w : List WCell) (f : Flags) (pc : Nat) : State :=
  s.setCx n { s.cx n with win := w, flags := f, pc := BitVec.ofNat 48 pc, stage := [], clean := false }

/-- An instruction of rows 0x0_ to 0x3_: what it makes of its `k` top cells (top first) and FLAGS, at width `w`. -/
structure ScalarRow where
  instr : DisOp → Instr
  k : Nat
  m : Nat
  wide : Bool
  f : Nat → Flags → List Cell → List Cell × Flags
/-- A row that only moves cells. -/
def moves (mk : DisOp → Instr) (k m : Nat) (f : List Cell → List Cell) : ScalarRow := ⟨mk, k, m, false, fun _ fl c => (f c, fl)⟩
/-- A row of a two-operand operation. -/
def binRow (mk : DisOp → Instr) (o : Bin) : ScalarRow :=
  ⟨mk, 2, 1, true, fun w fl c => ([(binCell o w fl (c.getD 1 0) (c.getD 0 0)).1], (binCell o w fl (c.getD 1 0) (c.getD 0 0)).2)⟩
/-- A row of a one-operand operation. -/
def unaRow (mk : DisOp → Instr) (o : Una) : ScalarRow :=
  ⟨mk, 1, 1, true, fun w fl c => ([(unaCell o w fl (c.getD 0 0)).1], (unaCell o w fl (c.getD 0 0)).2)⟩
/-- A row of a shift. -/
def shfRow (mk : DisOp → Instr) (o : Shf) : ScalarRow :=
  ⟨mk, 2, 1, true, fun w fl c => ([(shfCell o w fl (c.getD 1 0) (c.getD 0 0)).1], (shfCell o w fl (c.getD 1 0) (c.getD 0 0)).2)⟩

/-- The stack rows (R122). -/
def stackRows : List ScalarRow :=
  [moves .dup 1 2 (fun c => [c.getD 0 0, c.getD 0 0]), moves .drop 1 0 (fun _ => []),
   moves .swap 2 2 (fun c => [c.getD 1 0, c.getD 0 0]), moves .over 2 3 (fun c => [c.getD 1 0, c.getD 0 0, c.getD 1 0]),
   moves .rot 3 3 (fun c => [c.getD 2 0, c.getD 0 0, c.getD 1 0]), moves .nrot 3 3 (fun c => [c.getD 1 0, c.getD 2 0, c.getD 0 0]),
   moves .nip 2 1 (fun c => [c.getD 0 0]), moves .tuck 2 3 (fun c => [c.getD 0 0, c.getD 1 0, c.getD 0 0]),
   moves .dup2 2 4 (fun c => [c.getD 0 0, c.getD 1 0, c.getD 0 0, c.getD 1 0]), moves .drop2 2 0 (fun _ => []),
   moves .swap2 4 4 (fun c => [c.getD 2 0, c.getD 3 0, c.getD 0 0, c.getD 1 0]), moves .zero 0 1 (fun _ => [0])]
/-- Arithmetic and logic rows (R122, R367). -/
def aluRows : List ScalarRow :=
  [binRow .add .add, binRow .sub .sub, binRow .adc .adc, binRow .sbb .sbb, unaRow .neg .neg, unaRow .inc .inc, unaRow .dec .dec,
   binRow .mul .mul, binRow .mulh .mulh, binRow .mulhu .mulhu, binRow .min .min, binRow .max .max, binRow .minu .minu,
   binRow .maxu .maxu, binRow .and .and, binRow .or .or, binRow .xor .xor, unaRow .not .not, binRow .andn .andn]
/-- Shifts, bit counts, extensions (R122, R368). -/
def bitRows : List ScalarRow :=
  [shfRow .shl .shl, shfRow .shr .shr, shfRow .sar .sar, shfRow .rol .rol, shfRow .ror .ror, unaRow .popc .popc, unaRow .clz .clz,
   unaRow .ctz .ctz, unaRow .bswap .bswap,
   ⟨.sext, 1, 1, true, fun w fl c => ([(extCell true w fl (c.getD 0 0)).1], (extCell true w fl (c.getD 0 0)).2)⟩,
   ⟨.zext, 1, 1, true, fun w fl c => ([(extCell false w fl (c.getD 0 0)).1], (extCell false w fl (c.getD 0 0)).2)⟩]
/-- Comparisons and selection (R122, R367). -/
def cmpRows : List ScalarRow :=
  [binRow .eq .eq, binRow .ne .ne, binRow .lt .lt, binRow .le .le, binRow .gt .gt, binRow .ge .ge, binRow .ltu .ltu,
   binRow .leu .leu, binRow .gtu .gtu, binRow .geu .geu,
   ⟨.cmp, 2, 0, true, fun w fl c => ([], (binCell .sub w fl (c.getD 1 0) (c.getD 0 0)).2)⟩,
   unaRow .tst .tst,
   ⟨.sel, 3, 1, true, fun w fl c => ([(selCell w fl (c.getD 2 0) (c.getD 1 0) (c.getD 0 0)).1],
      (selCell w fl (c.getD 2 0) (c.getD 1 0) (c.getD 0 0)).2)⟩]
/-- All of them. -/
def scalarRows : List ScalarRow := stackRows ++ (aluRows ++ (bitRows ++ cmpRows))
/-- The prefixes a row accepts (R117, R133, R134): a width where its operation has one, and a repetition. -/
def ScalarRow.acc (r : ScalarRow) : Acc := { w32 := r.wide, w16 := r.wide, rep := true, repn := true }

/-- For each of 55 instructions (DUP to SWAP2 and ZERO; ADD to MAXU but DIV and DIVU; AND to ZEXT; EQ to SEL), on a turret core that runs it once with accepted prefixes: with its k operands in the window and room for its results, it replaces them by its results, sets FLAGS to the row's flags, and goes to the next instruction. Every other cell, register, core and byte of memory stays as it was. NOP only goes to the next instruction. -/
def Obligations.ScalarInstructionsDoTheirRow : Prop :=
  (∀ r ∈ scalarRows, ∀ (s : State) (n : Fin 8) (op : DisOp) (p : Pfx) (cs : List Cell) (rest : List WCell),
    plainRun s n op p r.acc 0 → once p → (s.cx n).win = cellsOf cs ++ rest → cs.length = r.k → rest.length + r.m ≤ 32 →
    exec (r.instr op) s = .next (afterOp s n (cellsOf (r.f p.bits (s.cx n).flags cs).1 ++ rest) (r.f p.bits (s.cx n).flags cs).2
      (nextPc s n op 0))) ∧
  (∀ (s : State) (n : Fin 8) (op : DisOp) (p : Pfx), plainRun s n op p { rep := true, repn := true } 0 → once p →
    (s.cx n).win.length ≤ 32 → exec (.nop op) s = .next (s.setCx n { s.cx n with pc := BitVec.ofNat 48 (nextPc s n op 0) }))

/-- `j` executions of a row, one after the other, on a window; none where one of them would lack operands or room. -/
def rowTimes (r : ScalarRow) (w : Nat) : Nat → Flags → List Cell → Option (List Cell × Flags)
  | 0, fl, c => some (c, fl)
  | j + 1, fl, c =>
    if r.k ≤ c.length ∧ c.length - r.k + r.m ≤ 32 then
      rowTimes r w j (r.f w fl (c.take r.k)).2 ((r.f w fl (c.take r.k)).1 ++ c.drop r.k)
    else none

/-- For each of the 55 instructions of rows 0x0_ to 0x3_ under REPI, or under REPN with RC at most 64, whose executions all find their operands and room: it does what RC single executions do, RC is 0 at the end and PC at the next instruction; with RC = 0 only PC moves. With an event that takes effect after j < RC iterations: REPN changes nothing at all; REPI has done j iterations, RC holds those that remain and PC still addresses the instruction. REPN with RC above 64 takes the illegal-instruction fault instead. -/
def RepeatedInstructionsRunRcTimes : Prop :=
  ∀ r ∈ scalarRows, ∀ (s : State) (n : Fin 8) (op : DisOp) (p : Pfx) (cs : List Cell), plainRun s n op p r.acc 0 →
    (s.cx n).win = cellsOf cs → cs.length ≤ 32 →
    ((s.cx n).rc = 0 → p.repi = true ∨ p.repn = true →
      exec (r.instr op) s = .next (s.setCx n { s.cx n with pc := BitVec.ofNat 48 (nextPc s n op 0) })) ∧
    (p.repn = true → 64 < (s.cx n).rc.toNat → exec (r.instr op) s = .next (faultEntry s n { vec := vILLEGAL })) ∧
    (∀ c2 f2, p.repi = true ∨ (p.repn = true ∧ (s.cx n).rc.toNat ≤ 64) → (s.cx n).rc ≠ 0 →
      rowTimes r p.bits (s.cx n).rc.toNat (s.cx n).flags cs = some (c2, f2) →
      exec (r.instr op) s = .next ((afterOp s n (cellsOf c2) f2 (nextPc s n op 0)).setCx n
        { (afterOp s n (cellsOf c2) f2 (nextPc s n op 0)).cx n with rc := 0 })) ∧
    (∀ j, p.repn = true → j < (s.cx n).rc.toNat → (s.cx n).rc.toNat ≤ 64 → exec (r.instr { op with stop := some j }) s = .next s) ∧
    (∀ j c2 f2, p.repi = true → 0 < j → j < (s.cx n).rc.toNat → rowTimes r p.bits j (s.cx n).flags cs = some (c2, f2) →
      exec (r.instr { op with stop := some j }) s = .next ((afterOp s n (cellsOf c2) f2 (s.cx n).pc.toNat).setCx n
        { (afterOp s n (cellsOf c2) f2 (s.cx n).pc.toNat).cx n with rc := (s.cx n).rc - cell j }))

/-- At every width of 8, 16, 32 and 64 bits and for all operands: ADD and ADC give the w-bit result with 2^w times C the exact sum; SUB (and CMP and the comparisons) and SBB give the exact difference with C the borrow; V is 1 exactly when the signed result is not the exact signed value. NEG sets C for a non-zero operand and V for the most negative one; INC and DEC are a + 1 and a − 1. EQ to GEU push 1 or 0 by their comparison while their flags are those of a − b. -/
def Obligations.IntegerSumsAreExact : Prop :=
  ∀ w ∈ [8, 16, 32, 64], ∀ a b : Nat, a < 2 ^ w → b < 2 ^ w → ∀ c : Bool,
    ((binOp .add w a b c).r + 2 ^ w * b2n (binOp .add w a b c).c = a + b ∧
      ((binOp .add w a b c).v = true ↔ sgn a w + sgn b w ≠ sgn (binOp .add w a b c).r w)) ∧
    ((binOp .adc w a b c).r + 2 ^ w * b2n (binOp .adc w a b c).c = a + b + b2n c ∧
      ((binOp .adc w a b c).v = true ↔ sgn a w + sgn b w + b2n c ≠ sgn (binOp .adc w a b c).r w)) ∧
    ((binOp .sub w a b c).r + b = a + 2 ^ w * b2n (binOp .sub w a b c).c ∧ (binOp .sub w a b c).r < 2 ^ w ∧
      ((binOp .sub w a b c).v = true ↔ sgn a w - sgn b w ≠ sgn (binOp .sub w a b c).r w)) ∧
    ((binOp .sbb w a b c).r + b + b2n c = a + 2 ^ w * b2n (binOp .sbb w a b c).c ∧ (binOp .sbb w a b c).r < 2 ^ w ∧
      ((binOp .sbb w a b c).v = true ↔ sgn a w - sgn b w - b2n c ≠ sgn (binOp .sbb w a b c).r w)) ∧
    (((unaOp .neg w a).r + a) % 2 ^ w = 0 ∧ ((unaOp .neg w a).c = true ↔ a ≠ 0) ∧ ((unaOp .neg w a).v = true ↔ a = 2 ^ (w - 1))) ∧
    ((unaOp .inc w a).r = (a + 1) % 2 ^ w ∧ (unaOp .dec w a).r = (a + 2 ^ w - 1) % 2 ^ w) ∧
    (∀ (x y : Cell) (f : Flags), x.toNat % 2 ^ w = a → y.toNat % 2 ^ w = b →
      ((binCell .eq w f x y).1 = cell (b2n (decide (a = b))) ∧ (binCell .ne w f x y).1 = cell (b2n (decide (a ≠ b))) ∧
       (binCell .lt w f x y).1 = cell (b2n (decide (sgn a w < sgn b w))) ∧ (binCell .le w f x y).1 = cell (b2n (decide (sgn a w ≤ sgn b w))) ∧
       (binCell .gt w f x y).1 = cell (b2n (decide (sgn b w < sgn a w))) ∧ (binCell .ge w f x y).1 = cell (b2n (decide (sgn b w ≤ sgn a w))) ∧
       (binCell .ltu w f x y).1 = cell (b2n (decide (a < b))) ∧ (binCell .leu w f x y).1 = cell (b2n (decide (a ≤ b))) ∧
       (binCell .gtu w f x y).1 = cell (b2n (decide (b < a))) ∧ (binCell .geu w f x y).1 = cell (b2n (decide (b ≤ a)))) ∧
      ∀ o ∈ [Bin.eq, .ne, .lt, .le, .gt, .ge, .ltu, .leu, .gtu, .geu], (binCell o w f x y).2 = (binCell .sub w f x y).2)

/-- At every width and for all operands: MUL gives the low half of the unsigned product, C when it does not fit, V when the signed product does not; MULHU and MULH give the high half of the unsigned and of the signed product. DIVU gives the quotient and remainder; DIV truncates toward zero with a remainder of the dividend's sign, except the most negative value by −1, which gives itself, remainder 0 and V. SHL, SHR and SAR with a count of the width or more give 0, 0 and the sign copies, however large the count; ROL and ROR undo each other. Division by zero with the trap masked gives quotient 0 and remainder a and sets DZ. -/
def Obligations.ProductsQuotientsAndShiftsAreExact : Prop :=
  ∀ w ∈ [8, 16, 32, 64], ∀ a b : Nat, a < 2 ^ w → b < 2 ^ w →
    ((binOp .mul w a b false).r = a * b % 2 ^ w ∧ ((binOp .mul w a b false).c = true ↔ 2 ^ w ≤ a * b) ∧
      ((binOp .mul w a b false).v = true ↔ sgn a w * sgn b w ≠ sgn (binOp .mul w a b false).r w)) ∧
    (binOp .mulhu w a b false).r * 2 ^ w + (binOp .mul w a b false).r = a * b ∧
    sgn (binOp .mulh w a b false).r w * 2 ^ w + (binOp .mul w a b false).r = sgn a w * sgn b w ∧
    (b ≠ 0 → ¬ (a = 2 ^ (w - 1) ∧ b = 2 ^ w - 1) →
      sgn (divSigned w a b).1 w * sgn b w + sgn (divSigned w a b).2.1 w = sgn a w ∧
      (sgn (divSigned w a b).2.1 w).natAbs < (sgn b w).natAbs ∧
      (sgn (divSigned w a b).2.1 w = 0 ∨ (sgn (divSigned w a b).2.1 w < 0 ↔ sgn a w < 0)) ∧ (divSigned w a b).2.2 = false) ∧
    divSigned w (2 ^ (w - 1)) (2 ^ w - 1) = (2 ^ (w - 1), 0, true) ∧
    (∀ (x y : Cell) (f : Flags), x.toNat % 2 ^ w = a → y.toNat % 2 ^ w = 0 → divCell true w f false x y = none ∧
      divCell true w f true x y = some (0, cell a, setZNCV f true false false false ||| 0b010000) ∧
      divCell false w f true x y = some (0, cell a, setZNCV f true false false false ||| 0b010000)) ∧
    (∀ n, w ≤ n → shfOp .shl w a n = 0 ∧ shfOp .shr w a n = 0 ∧ shfOp .sar w a n = (if a < 2 ^ (w - 1) then 0 else 2 ^ w - 1)) ∧
    (∀ n, n < w → shfOp .shl w a n = a * 2 ^ n % 2 ^ w ∧ shfOp .shr w a n = a / 2 ^ n ∧
      sgn (shfOp .sar w a n) w = sgn a w / 2 ^ n) ∧
    (∀ n, shfOp .ror w (shfOp .rol w a n) n = a ∧ shfOp .rol w a n = shfOp .rol w a (n % w))

/-- Length of an instruction's immediate. -/
def immLen (i : Imm) : Nat := 2 ^ i.size.val
/-- The immediate as a signed number. -/
def immSigned (i : Imm) : Int := sgn i.value.toNat (8 * immLen i)
/-- Target of a branch whose next instruction lies at `next` (R120): a signed displacement, or absolute for 8 bytes. -/
def branchTo (next : Nat) (i : Imm) : Nat :=
  if i.size = 3 then i.value.toNat % 2 ^ 48 else uns (next + immSigned i) 48
/-- A context with its window, FLAGS, RC and PC set by an instruction that used the window. -/
def afterRc (s : State) (n : Fin 8) (w : List WCell) (f : Flags) (rc : Cell) (pc : Nat) : State :=
  s.setCx n { s.cx n with win := w, flags := f, rc := rc, pc := BitVec.ofNat 48 pc, stage := [], clean := false }

/-- On a turret core that runs it once: BR, CALL, RET, JMP and CALLI go to their target, the calls pushing the address of the next instruction; BZ and BNZ pop a cell and branch on it; LOOP decrements RC and branches while it is not 0. PUSHI and PUSHU push their immediate sign- and zero-extended; ADDI, ANDI and ORI combine it with the top cell. RDRC, RDFL and DEPTH push RC, FLAGS and the depth; RDSP pushes VSP; WRRC and WRFL pop a cell into RC and FLAGS. PICK and ROLL reach cell n of the window. DIV and DIVU push quotient and remainder, or take the division trap with nothing popped where the divisor is 0 and the trap is not masked. Nothing else changes. -/
def Obligations.ControlFlowAndImmediates : Prop :=
  ∀ (s : State) (n : Fin 8) (op : DisOp) (p : Pfx) (i : Imm) (v : Cell) (rest : List WCell), immOk i = true → once p →
    rest.length ≤ 31 →
    (plainRun s n op p {} (immLen i) →
      ((s.cx n).win = rest →
        exec (.br op i) s = .next (s.setCx n { s.cx n with pc := BitVec.ofNat 48 (branchTo (nextPc s n op (immLen i)) i) }) ∧
        exec (.call op i) s = .next (afterOp s n ({ v := cell (nextPc s n op (immLen i)) } :: rest) (s.cx n).flags
          (branchTo (nextPc s n op (immLen i)) i)) ∧
        exec (.loop op i) s = .next (s.setCx n { s.cx n with
          rc := (s.cx n).rc - 1,
          pc := BitVec.ofNat 48 (if (s.cx n).rc ≠ 1 then branchTo (nextPc s n op (immLen i)) i else nextPc s n op (immLen i)) })) ∧
      ((s.cx n).win = { v := v } :: rest →
        exec (.bz op i) s = .next (afterOp s n rest (s.cx n).flags
          (if v = 0 then branchTo (nextPc s n op (immLen i)) i else nextPc s n op (immLen i))) ∧
        exec (.bnz op i) s = .next (afterOp s n rest (s.cx n).flags
          (if v ≠ 0 then branchTo (nextPc s n op (immLen i)) i else nextPc s n op (immLen i))))) ∧
    (plainRun s n op p { rep := true, repn := true } (immLen i) → (s.cx n).win = rest →
      exec (.pushi op i) s = .next (afterOp s n ({ v := cell (uns (immSigned i) 64) } :: rest) (s.cx n).flags (nextPc s n op (immLen i))) ∧
      exec (.pushu op i) s = .next (afterOp s n ({ v := i.value } :: rest) (s.cx n).flags (nextPc s n op (immLen i)))) ∧
    (plainRun s n op p { w32 := true, w16 := true, rep := true, repn := true } (immLen i) → (s.cx n).win = { v := v } :: rest →
      (∀ x ∈ [(Instr.addi, Bin.add, cell (uns (immSigned i) 64)), (.andi, .and, cell (uns (immSigned i) 64)), (.ori, .or, i.value)],
        exec (x.1 op i) s = .next (afterOp s n ({ v := (binCell x.2.1 p.bits (s.cx n).flags v x.2.2).1 } :: rest)
          (binCell x.2.1 p.bits (s.cx n).flags v x.2.2).2 (nextPc s n op (immLen i))))) ∧
    (plainRun s n op p {} 0 →
      ((s.cx n).win = rest →
        exec (.rdrc op) s = .next (afterOp s n ({ v := (s.cx n).rc } :: rest) (s.cx n).flags (nextPc s n op 0)) ∧
        exec (.rdfl op) s = .next (afterOp s n ({ v := (s.cx n).flags.zeroExtend 64 } :: rest) (s.cx n).flags (nextPc s n op 0)) ∧
        exec (.rdsp op) s = .next (afterOp s n ({ v := (s.cx n).vsp.zeroExtend 64 } :: rest) (s.cx n).flags (nextPc s n op 0))) ∧
      ((s.cx n).win = { v := v } :: rest →
        exec (.ret op) s = .next (afterOp s n rest (s.cx n).flags (v.toNat % 2 ^ 48)) ∧
        exec (.jmp op) s = .next (afterOp s n rest (s.cx n).flags (v.toNat % 2 ^ 48)) ∧
        exec (.calli op) s = .next (afterOp s n ({ v := cell (nextPc s n op 0) } :: rest) (s.cx n).flags (v.toNat % 2 ^ 48)) ∧
        exec (.wrrc op) s = .next (afterRc s n rest (s.cx n).flags v (nextPc s n op 0)) ∧
        exec (.wrfl op) s = .next (afterOp s n rest (v.setWidth 6) (nextPc s n op 0)))) ∧
    (plainRun s n op p { rep := true, repn := true } 0 →
      ((s.cx n).win = rest → exec (.depth op) s =
        .next (afterOp s n ({ v := cell (rest.length + ((s.cx n).sbase.toNat - (s.cx n).vsp.toNat) / 8) } :: rest)
          (s.cx n).flags (nextPc s n op 0))) ∧
      (∀ x, (s.cx n).win = { v := v } :: rest → rest[v.toNat]? = some { v := x } →
        exec (.pick op) s = .next (afterOp s n ({ v := x } :: rest) (s.cx n).flags (nextPc s n op 0)) ∧
        exec (.roll op) s = .next (afterOp s n ({ v := x } :: rest.eraseIdx v.toNat) (s.cx n).flags (nextPc s n op 0)))) ∧
    (∀ sg y q r f, rest.length ≤ 30 → plainRun s n op p { w32 := true, w16 := true, rep := true, repn := true } 0 →
      (s.cx n).win = { v := y } :: { v := v } :: rest →
      divCell sg p.bits (s.cx n).flags ((s.core n).trapmask.getLsbD 0) v y = some (q, r, f) →
      exec ((if sg then Instr.div else Instr.divu) op) s = .next (afterOp s n ({ v := r } :: { v := q } :: rest) f (nextPc s n op 0))) ∧
    (∀ sg y, rest.length ≤ 30 → plainRun s n op p { w32 := true, w16 := true, rep := true, repn := true } 0 →
      (s.cx n).win = { v := y } :: { v := v } :: rest →
      divCell sg p.bits (s.cx n).flags ((s.core n).trapmask.getLsbD 0) v y = none →
      exec ((if sg then Instr.div else Instr.divu) op) s = .next (faultEntry s n { vec := vDZ }))

/-- Block address of a byte of core `n`'s DTCM, by its turret-local address. -/
def dtcmKey (n : Fin 8) (a : Nat) : Nat := tcmBase n.val + 0x40000 + (a - 0x40000)

/-- For every core and every aligned width: a near read of DTCM that the youngest overlapping buffered store covers returns that store's bytes and touches no memory; with no buffered store over it and no error in its word it returns the DTCM bytes; neither changes anything. A near read of the boot ROM returns its bytes. A near read of ITCM with no error in its word returns the ITCM bytes with every byte the code-write buffer holds over them. A read of an unmapped region raises a bus fault and changes nothing. -/
def NearReadsSeeTheYoungestStore : Prop :=
  ∀ (s : State) (n : Fin 8) (a w : Nat), w ∈ [1, 2, 4, 8] → a % w = 0 → errsWf s →
    (0x40000 ≤ a → a < 0x80000 → ∀ e ∈ sbYoungest s n false a w, e.covers a w = true →
      nearRead s n a w 0 = .ok ((e.data.drop (a - e.addr)).take w) s) ∧
    (0x40000 ≤ a → a < 0x80000 → sbYoungest s n false a w = none → s.wordErrAt (dtcmKey n a / 8) = 0 →
      nearRead s n a w 0 = .ok (s.bytes (dtcmKey n a) w) s) ∧
    (∀ off, nearPlace s.remap a = .rom off → nearRead s n a w 0 = .ok (s.bytes (romKey + off) w) s) ∧
    (∀ off, nearPlace s.remap a = .itcm off → s.wordErrAt ((tcmBase n.val + off) / 8) = 0 →
      ∃ d, nearRead s n a w 0 = .ok d s ∧ d.length = w ∧ ∀ i < w, d[i]? = some
        (match ((s.core n).cwb.filter (fun l => l.line == (off + i) / 64)).getLast?.bind
            (fun l => (l.bytes.find? (fun e => e.1 == (off + i) % 64)).map (·.2)) with
         | some b => b
         | none => s.byteAt (tcmBase n.val + off + i))) ∧
    (nearPlace s.remap a = .bad → nearRead s n a w 0 = .trap { vec := vBUS, info := infoAddr a 0 false } s)

/-- A near store to DTCM with room in the store buffer appends one entry and changes nothing else. STORE_BUFFER_DRAIN of a near entry whose words have no error removes it, writes its bytes to DTCM and leaves every other byte of memory; with an empty buffer it changes nothing. CWB_LINE_WRITE with no committed line changes nothing; otherwise the first committed line leaves the buffer. FENCE over near stores leaves the store buffer empty and goes on; SYNC.I leaves the code-write buffer empty and goes on. -/
def StoresReachMemoryInOrder : Prop :=
  (∀ (s : State) (n : Fin 8) (a : Nat) (d : List Byte), 0x40000 ≤ a → a < 0x80000 → (s.core n).sb.length < 8 →
    nearWrite s n a d = .ok () (s.setCore n { s.core n with
      sb := (s.core n).sb ++ [{ far := false, addr := a, data := d, custody := (s.cx n).custody }] })) ∧
  (∀ (s : State) (n : Fin 8), s.coreRuns n = true → s.lockstep n = false →
    ((s.core n).sb = [] → exec (.storeBufferDrain n) s = .next s) ∧
    (∀ a d c t, (s.core n).sb = { far := false, addr := a, data := d, custody := c } :: t → 0x40000 ≤ a → a < 0x80000 →
      d.length ∈ [1, 2, 4, 8] → a % d.length = 0 → s.wordErrAt (dtcmKey n a / 8) = 0 → errsWf s → Memory.wf s = true →
      ∃ u, exec (.storeBufferDrain n) s = .next u ∧ (u.core n).sb = t ∧ u.bytes (dtcmKey n a) d.length = d ∧ u.regs = s.regs ∧
        ∀ k, k < dtcmKey n a ∨ dtcmKey n a + d.length ≤ k → u.byteAt k = s.byteAt k)) ∧
  (∀ (s : State) (n : Fin 8), s.coreRuns n = true → s.lockstep n = false →
    ((s.core n).cwb.find? (·.committed) = none → exec (.cwbLineWrite n) s = .next s) ∧
    (∀ l, (s.core n).cwb.find? (·.committed) = some l →
      ∃ u, exec (.cwbLineWrite n) s = .next u ∧ (u.core n).cwb = (s.core n).cwb.erase l ∧ (u.core n).sb = (s.core n).sb)) ∧
  (∀ (s : State) (n : Fin 8) (op : DisOp) (p : Pfx), once p →
    (plainRun s n op p { rep := true } 0 → (∀ e ∈ (s.core n).sb, e.far = false) → ∃ u, exec (.fence op) s = .next u ∧ (u.core n).sb = [] ∧
      (u.cx n).win = (s.cx n).win ∧ (u.cx n).pc = BitVec.ofNat 48 (nextPc s n op 0) ∧
      ((s.core n).sb = [] → u = s.setCx n { s.cx n with pc := BitVec.ofNat 48 (nextPc s n op 0) })) ∧
    (plainRun s n op p { page := 0xF9 } 0 → ∃ u, exec (.syncI op) s = .next u ∧ (u.core n).cwb = [] ∧ (u.core n).sb = (s.core n).sb ∧
      (u.cx n).win = (s.cx n).win ∧ (u.cx n).pc = BitVec.ofNat 48 (nextPc s n op 0)))

/-- For every core and every aligned width: a near read of DTCM that the youngest overlapping buffered store covers returns that store's bytes and touches no memory; with no buffered store over it and no error in its word it returns the DTCM bytes; neither changes anything. A near read of the boot ROM returns its bytes. A near read of ITCM with no error in its word returns the ITCM bytes with every byte the code-write buffer holds over them. A read of an unmapped region raises a bus fault and changes nothing. A near store to DTCM with room in the store buffer appends one entry and changes nothing else. STORE_BUFFER_DRAIN of a near entry whose words have no error removes it, writes its bytes to DTCM and leaves every other byte of memory; with an empty buffer it changes nothing. CWB_LINE_WRITE with no committed line changes nothing; otherwise the first committed line leaves the buffer. FENCE over near stores leaves the store buffer empty and goes on; SYNC.I leaves the code-write buffer empty and goes on. -/
def Obligations.NearMemoryThroughTheStoreBuffer : Prop := NearReadsSeeTheYoungestStore ∧ StoresReachMemoryInOrder

/-- Prefixes of near and far loads and stores. -/
def loadAcc (anchored : Bool) : Acc := { w32 := true, w16 := true, far := true, an := anchored, rep := true, repn := true }
def storeAcc (anchored : Bool) : Acc := { w32 := true, w16 := true, far := true, an := anchored, rep := true }
/-- Anchor that the prefixes select. -/
def anOf (s : State) (n : Fin 8) (p : Pfx) : Anchor := (s.cx n).an[(⟨(p.an.getD 0) % 8, Nat.mod_lt _ (by decide)⟩ : Fin 8)]
/-- Core `n` with the anchor that the prefixes select replaced. -/
def withAn (s : State) (n : Fin 8) (p : Pfx) (a : Anchor) : State :=
  s.setCx n { s.cx n with an := (s.cx n).an.set (⟨(p.an.getD 0) % 8, Nat.mod_lt _ (by decide)⟩ : Fin 8) a }
/-- A store of the bytes `d` at `a` leaves the state `t` and the running context as it was: a near store (R125, R136), or with FAR one
that enters the store buffer (R129). -/
def storesTo (s : State) (n : Fin 8) (p : Pfx) (a : Nat) (d : List Byte) (t : State) : Prop :=
  ((p.far = none ∧ nearWrite s n a d = .ok () t) ∨ (p.far.isSome = true ∧ farBad a = false ∧ t = farWrite s n a d)) ∧ t.cx n = s.cx n
/-- The access of `w` bytes at `a` is aligned and permitted. -/
def mayAccess (s : State) (n : Fin 8) (r : Right) (a w : Nat) (_far : Bool) : Prop := a % w = 0 ∧ mpuOk (s.core n) r a w = true

/-- LD and LDS at the popped address, and LDA, LDA+, LDSA, LDSA+ and LDD at the anchor's address, push the bytes read near, zero- or sign-extended; ST, STA, STA+ and STD hand the low bytes of their value to the near memory, or with FAR to the store buffer; the post-modifying forms step the anchor. Each then goes to the next instruction and changes nothing else. A misaligned LD, LDS or ST takes the alignment fault instead, with nothing popped. -/
def NearLoadsAndStores : Prop :=
  ∀ (s : State) (n : Fin 8) (op : DisOp) (p : Pfx) (rest : List WCell), once p → rest.length ≤ 31 →
    (∀ x ∈ [(Instr.ld, false), (.lds, true)], ∀ (a : Cell) (d : List Byte), p.far = none → plainRun s n op p (loadAcc false) 0 →
      (s.cx n).win = { v := a } :: rest → mayAccess s n .read a.toNat (p.bits / 8) false →
      nearRead s n a.toNat (p.bits / 8) 0 = .ok d s →
      exec (x.1 op) s = .next (afterOp s n ({ v := loadExt x.2 d } :: rest) (s.cx n).flags (nextPc s n op 0))) ∧
    (∀ x ∈ [(Instr.ld, false), (.lds, true)], ∀ a : Cell, plainRun s n op p (loadAcc false) 0 → (s.cx n).win = { v := a } :: rest →
      a.toNat % (p.bits / 8) ≠ 0 →
      exec (x.1 op) s = .next (faultEntry s n { vec := vALIGN, info := infoAddr a.toNat 0 p.far.isSome })) ∧
    (∀ a v : Cell, plainRun s n op p (storeAcc false) 0 → (s.cx n).win = { v := a } :: { v := v } :: rest → a.toNat % (p.bits / 8) ≠ 0 →
      exec (.st op) s = .next (faultEntry s n { vec := vALIGN, info := infoAddr a.toNat 1 p.far.isSome })) ∧
    (∀ x ∈ [(Instr.lda, false, false), (.ldaPostmod, false, true), (.ldsa, true, false), (.ldsaPostmod, true, true)],
      ∀ d : List Byte, p.far = none → plainRun s n op p (loadAcc true) 0 → (s.cx n).win = rest →
      mayAccess s n .read ((anOf s n p).ea 0 (p.bits / 8)) (p.bits / 8) false →
      nearRead s n ((anOf s n p).ea 0 (p.bits / 8)) (p.bits / 8) 0 = .ok d s →
      exec (x.1 op) s = .next (afterOp (if x.2.2 then withAn s n p (anOf s n p).step else s) n
        ({ v := loadExt x.2.1 d } :: rest) (s.cx n).flags (nextPc s n op 0))) ∧
    (∀ (i : Imm) (d : List Byte), p.far = none → immOk i = true → plainRun s n op p (loadAcc true) (immLen i) → (s.cx n).win = rest →
      mayAccess s n .read ((anOf s n p).ea (immSigned i) (p.bits / 8)) (p.bits / 8) false →
      nearRead s n ((anOf s n p).ea (immSigned i) (p.bits / 8)) (p.bits / 8) 0 = .ok d s →
      exec (.ldd op i) s = .next (afterOp s n ({ v := loadExt false d } :: rest) (s.cx n).flags (nextPc s n op (immLen i)))) ∧
    (∀ (a v : Cell) (t : State), plainRun s n op p (storeAcc false) 0 → (s.cx n).win = { v := a } :: { v := v } :: rest →
      mayAccess s n .write a.toNat (p.bits / 8) false → storesTo s n p a.toNat (leBytes (p.bits / 8) v.toNat) t →
      exec (.st op) s = .next (afterOp t n rest (s.cx n).flags (nextPc s n op 0))) ∧
    (∀ x ∈ [(Instr.sta, false), (.staPostmod, true)], ∀ (v : Cell) (t : State), plainRun s n op p (storeAcc true) 0 →
      (s.cx n).win = { v := v } :: rest → mayAccess s n .write ((anOf s n p).ea 0 (p.bits / 8)) (p.bits / 8) false →
      storesTo s n p ((anOf s n p).ea 0 (p.bits / 8)) (leBytes (p.bits / 8) v.toNat) t →
      exec (x.1 op) s = .next (afterOp (if x.2 then withAn t n p (anOf s n p).step else t) n rest (s.cx n).flags (nextPc s n op 0))) ∧
    (∀ (i : Imm) (v : Cell) (t : State), immOk i = true → plainRun s n op p (storeAcc true) (immLen i) →
      (s.cx n).win = { v := v } :: rest →
      mayAccess s n .write ((anOf s n p).ea (immSigned i) (p.bits / 8)) (p.bits / 8) false →
      storesTo s n p ((anOf s n p).ea (immSigned i) (p.bits / 8)) (leBytes (p.bits / 8) v.toNat) t →
      exec (.std op i) s = .next (afterOp t n rest (s.cx n).flags (nextPc s n op (immLen i))))

/-- In LINEAR, MODULO and BITREV mode the effective address and the step are the manual's, and a step of MODULO stays below the modulus. ANLD takes a legal control cell and base and clears OFF; ANOFF writes OFF, modulo M or 2^b; ANRD pushes base, control cell and OFF; ANADR pushes the address with d = 0; ANSTEP steps the anchor. Nothing else changes. -/
def AnchorsFormAddresses : Prop :=
  (∀ (a : Anchor) (d : Int) (w : Nat), w ∈ [1, 2, 4, 8] →
    (a.mode = 0 → (a.ea d w : Int) = (a.base.toNat + a.off.toNat + d) % 2 ^ 64 ∧
      (a.step.off.toNat : Int) = (a.off.toNat + a.inc.toInt) % 2 ^ 32) ∧
    (a.mode = 1 → (a.ea d w : Int) = (a.base.toNat + (a.off.toNat + d) % (a.modulus : Int)) % 2 ^ 64 ∧ a.step.off.toNat < a.modulus ∧
      (a.step.off.toNat : Int) = (a.off.toNat + a.inc.toInt) % (a.modulus : Int)) ∧
    (a.mode = 2 → a.bitCount ≤ 24 → a.step.off.toNat = (a.off.toNat + 1) % 2 ^ a.bitCount ∧
      a.ea 0 w = (a.base.toNat + bitRev a.bitCount a.off.toNat * w) % 2 ^ 64 ∧
      bitRev a.bitCount (bitRev a.bitCount a.off.toNat) = a.off.toNat % 2 ^ a.bitCount)) ∧
  (∀ (s : State) (n : Fin 8) (op : DisOp) (p : Pfx) (x y : Cell) (rest : List WCell), once p → rest.length ≤ 29 →
    (plainRun s n op p { an := true, rep := true } 0 →
      ((s.cx n).win = { v := x } :: { v := y } :: rest → anCtlOk x.toNat = true →
        exec (.anld op) s = .next (afterOp (withAn s n p { (anOf s n p).setCtl x.toNat with base := y, off := 0 }) n rest
          (s.cx n).flags (nextPc s n op 0))) ∧
      ((s.cx n).win = { v := x } :: rest →
        exec (.anoff op) s = .next (afterOp (withAn s n p { anOf s n p with off := (anOf s n p).offOf x.toNat }) n rest
          (s.cx n).flags (nextPc s n op 0))) ∧
      ((s.cx n).win = rest →
        exec (.anrd op) s = .next (afterOp s n ({ v := cell (anOf s n p).off.toNat } :: { v := (anOf s n p).ctl } ::
          { v := (anOf s n p).base } :: rest) (s.cx n).flags (nextPc s n op 0)))) ∧
    (plainRun s n op p { an := true, rep := true, repn := true } 0 → (s.cx n).win = rest →
      exec (.anadr op) s = .next (afterOp s n ({ v := cell ((anOf s n p).ea 0 (p.bits / 8)) } :: rest) (s.cx n).flags
        (nextPc s n op 0)) ∧
      exec (.anstep op) s = .next ((withAn s n p (anOf s n p).step).setCx n
        { (withAn s n p (anOf s n p).step).cx n with pc := BitVec.ofNat 48 (nextPc s n op 0) })))

/-- LD and LDS at the popped address, and LDA, LDA+, LDSA, LDSA+ and LDD at the anchor's address, push the bytes read near, zero- or sign-extended; ST, STA, STA+ and STD hand the low bytes of their value to the near memory, or with FAR to the store buffer; the post-modifying forms step the anchor. Each then goes to the next instruction and changes nothing else. A misaligned LD, LDS or ST takes the alignment fault instead, with nothing popped. In LINEAR, MODULO and BITREV mode the effective address and the step are the manual's, and a step of MODULO stays below the modulus. ANLD takes a legal control cell and base and clears OFF; ANOFF writes OFF, modulo M or 2^b; ANRD pushes base, control cell and OFF; ANADR pushes the address with d = 0; ANSTEP steps the anchor. Nothing else changes. -/
def Obligations.NearLoadsStoresAndAnchors : Prop := NearLoadsAndStores ∧ AnchorsFormAddresses

/-- The state `t` after the last write of an instruction: under ATOM the store buffer has been emptied (R131). -/
def afterAtom (p : Pfx) (n : Fin 8) (t : State) : State := if p.atom then sbEmpty t n (t.core n).sb.length else t
/-- Core `n` with a far load of `w` bytes at `a` issued to landing register `r` of the running context, answered by `ans`: a load
already outstanding there returns first (R127). -/
def withLoad (s : State) (n : Fin 8) (r : Fin 4) (a w : Nat) (sg : Bool) (ans : FarAns) (sm : Bool) : State :=
  let v : Cell ⊕ Nat := match ans with
    | .inl d => .inl (loadExt sg d)
    | .inr vec => .inr vec
  let l := landOne (s.cx n).ls[r]
  s.setCx n { s.cx n with ls := (s.cx n).ls.set r { l with pend := some { addr := a, width := w, signed := sg, ans := v, sampled := sm } } }
/-- The landing register that FAR names. -/
def landOf (p : Pfx) : Fin 4 := ⟨(p.far.getD 0) % 4, Nat.mod_lt _ (by decide)⟩

/-- Near, SWAPM, ADDM, ANDM, ORM and XORM push the old value m and store v, m + v, m AND v, m OR v or m XOR v at the operation's width. CASM pushes m, and stores the new value and sets Z only where m equals the expected value at that width; otherwise it writes nothing and clears Z. Under ATOM, begun with an empty store buffer, the write leaves the buffer at once. No other flag, cell or register changes. With FAR the old value goes to the landing register in place of the stack, the new value into the store buffer, and CASM leaves Z. -/
def AtomicsReadAndWriteOnce : Prop :=
  ∀ (s t : State) (n : Fin 8) (op : DisOp) (p : Pfx) (a v e : Cell) (d : List Byte) (rest : List WCell), once p → rest.length ≤ 29 →
    plainRun s n op p { w32 := true, w16 := true, far := true, atom := true, rep := true } 0 →
    mayAccess s n .read a.toNat (p.bits / 8) false → mayAccess s n .write a.toNat (p.bits / 8) false →
    (p.far = none → (p.atom = true → (s.core n).sb = []) → nearRead s n a.toNat (p.bits / 8) 0 = .ok d s → (afterAtom p n t).cx n = s.cx n →
    (∀ x ∈ [(Instr.swapm, fun _ y => y), (.addm, fun m y => (m + y) % 2 ^ p.bits), (.andm, fun m y => m &&& y),
        (.orm, fun m y => m ||| y), (.xorm, fun m y => m ^^^ y)],
      (s.cx n).win = { v := a } :: { v := v } :: rest →
      nearWrite s n a.toNat (leBytes (p.bits / 8) (x.2 (ofLE d) v.toNat)) = .ok () t →
      exec (x.1 op) s = .next (afterOp (afterAtom p n t) n ({ v := cell (ofLE d) } :: rest) (s.cx n).flags (nextPc s n op 0))) ∧
    ((s.cx n).win = { v := a } :: { v := e } :: { v := v } :: rest →
      (ofLE d = e.toNat % 2 ^ p.bits → nearWrite s n a.toNat (leBytes (p.bits / 8) v.toNat) = .ok () t →
        exec (.casm op) s = .next (afterOp (afterAtom p n t) n ({ v := cell (ofLE d) } :: rest) (setZ (s.cx n).flags true) (nextPc s n op 0))) ∧
      (ofLE d ≠ e.toNat % 2 ^ p.bits →
        exec (.casm op) s = .next (afterOp s n ({ v := cell (ofLE d) } :: rest) (setZ (s.cx n).flags false) (nextPc s n op 0))))) ∧
    (∀ sm, p.far.isSome = true → p.atom = false → farBad a.toNat = false → (s.core n).sb.length < 8 →
      farRead s n ⟨n.val, by omega⟩ false a.toNat (p.bits / 8) = (s, .inl d, sm) →
      (∀ x ∈ [(Instr.swapm, fun _ y => y), (.addm, fun m y => (m + y) % 2 ^ p.bits), (.andm, fun m y => m &&& y),
          (.orm, fun m y => m ||| y), (.xorm, fun m y => m ^^^ y)], (s.cx n).win = { v := a } :: { v := v } :: rest →
        exec (x.1 op) s = .next (farWrite (afterOp (withLoad s n (landOf p) a.toNat (p.bits / 8) false (.inl d) sm) n rest
          (s.cx n).flags (nextPc s n op 0)) n a.toNat (leBytes (p.bits / 8) (x.2 (ofLE d) v.toNat)))) ∧
      ((s.cx n).win = { v := a } :: { v := e } :: { v := v } :: rest →
        exec (.casm op) s = .next (if ofLE d = e.toNat % 2 ^ p.bits then
          farWrite (afterOp (withLoad s n (landOf p) a.toNat (p.bits / 8) false (.inl d) sm) n rest (s.cx n).flags (nextPc s n op 0))
            n a.toNat (leBytes (p.bits / 8) v.toNat)
          else afterOp (withLoad s n (landOf p) a.toNat (p.bits / 8) false (.inl d) sm) n rest (s.cx n).flags (nextPc s n op 0))))

/-- LD and LDS at the popped address, LDA, LDA+, LDSA, LDSA+ and LDD at the anchor's, with FAR, on a read that changes nothing: they push nothing and make the landing register pending with what the read answers, sign- or zero-extended, or its fault; an earlier load of the register returns first, and the post-modifying forms step the anchor. FAR_LOAD_RETURN writes the answer to the register of the context that issued it, or sets its error bit and leaves its value, and clears pending; with nothing pending it changes nothing. LDLn pushes the register's value whether or not it is pending; with its error bit set it takes the fault, which clears that bit. LWAIT lands every register of the running context and goes on when none is in error. -/
def FarLoadsLandInTheirRegister : Prop :=
  (∀ (s : State) (n : Fin 8) (op : DisOp) (p : Pfx) (a : Nat) (ans : FarAns) (sm : Bool) (rest : List WCell), once p →
    p.far.isSome = true → rest.length ≤ 32 → a < 2 ^ 64 → mayAccess s n .read a (p.bits / 8) true → farBad a = false →
    farRead s n ⟨n.val, by omega⟩ false a (p.bits / 8) = (s, ans, sm) →
    (∀ x ∈ [(Instr.ld, false), (.lds, true)], plainRun s n op p (loadAcc false) 0 → (s.cx n).win = { v := cell a } :: rest →
      exec (x.1 op) s = .next (afterOp (withLoad s n (landOf p) a (p.bits / 8) x.2 ans sm) n rest (s.cx n).flags (nextPc s n op 0))) ∧
    (∀ x ∈ [(Instr.lda, false, false), (.ldaPostmod, false, true), (.ldsa, true, false), (.ldsaPostmod, true, true)],
      plainRun s n op p (loadAcc true) 0 → (s.cx n).win = rest → a = (anOf s n p).ea 0 (p.bits / 8) →
      exec (x.1 op) s = .next (afterOp (if x.2.2 then withAn (withLoad s n (landOf p) a (p.bits / 8) x.2.1 ans sm) n p (anOf s n p).step
        else withLoad s n (landOf p) a (p.bits / 8) x.2.1 ans sm) n rest (s.cx n).flags (nextPc s n op 0))) ∧
    (∀ i : Imm, immOk i = true → plainRun s n op p (loadAcc true) (immLen i) → (s.cx n).win = rest →
      a = (anOf s n p).ea (immSigned i) (p.bits / 8) →
      exec (.ldd op i) s = .next (afterOp (withLoad s n (landOf p) a (p.bits / 8) false ans sm) n rest (s.cx n).flags
        (nextPc s n op (immLen i))))) ∧
  (∀ (s : State) (n c : Fin 8) (r : Fin 4), s.coreRuns n = true → s.lockstep n = false →
    ∃ t, exec (.farLoadReturn n c r) s = .next t ∧ t.mem = s.mem ∧ t.regs = s.regs ∧
      ((t.core n).ctxs[c]).win = ((s.core n).ctxs[c]).win ∧ ((t.core n).ctxs[c]).ls[r].pend = none ∧
      (((s.core n).ctxs[c]).ls[r].pend = none → t = s) ∧
      (∀ f v, ((s.core n).ctxs[c]).ls[r].pend = some f → f.ans = .inl v → ((t.core n).ctxs[c]).ls[r].v = v ∧
        ((t.core n).ctxs[c]).ls[r].err = ((s.core n).ctxs[c]).ls[r].err) ∧
      (∀ f e, ((s.core n).ctxs[c]).ls[r].pend = some f → f.ans = .inr e →
        ((t.core n).ctxs[c]).ls[r].v = ((s.core n).ctxs[c]).ls[r].v ∧ ((t.core n).ctxs[c]).ls[r].err = some e)) ∧
  (∀ (s : State) (n : Fin 8) (op : DisOp) (p : Pfx) (r : Fin 4) (rest : List WCell), once p → rest.length ≤ 31 →
    plainRun s n op p { rep := true, repn := true } 0 → (s.cx n).win = rest →
    ((s.cx n).ls[r].err = none →
      exec (.ldl op r) s = .next (afterOp s n ({ v := (s.cx n).ls[r].v } :: rest) (s.cx n).flags (nextPc s n op 0))) ∧
    (∀ v, (s.cx n).ls[r].err = some v →
      exec (.ldl op r) s = .next (faultEntry s n { vec := v, info := 2 ^ 54 + r.val * 2 ^ 51 + 2 ^ 50, clr := some r }))) ∧
  (∀ (s : State) (n : Fin 8) (op : DisOp) (p : Pfx), once p → plainRun s n op p { rep := true } 0 →
    (∀ r : Fin 4, (landOne (s.cx n).ls[r]).err = none) →
    exec (.lwait op) s = .next (s.setCx n { s.cx n with ls := (s.cx n).ls.map landOne, pc := BitVec.ofNat 48 (nextPc s n op 0) }))

/-- Near, SWAPM, ADDM, ANDM, ORM and XORM push the old value m and store v, m + v, m AND v, m OR v or m XOR v at the operation's width. CASM pushes m, and stores the new value and sets Z only where m equals the expected value at that width; otherwise it writes nothing and clears Z. Under ATOM, begun with an empty store buffer, the write leaves the buffer at once. No other flag, cell or register changes. With FAR the old value goes to the landing register in place of the stack, the new value into the store buffer, and CASM leaves Z. LD and LDS at the popped address, LDA, LDA+, LDSA, LDSA+ and LDD at the anchor's, with FAR, on a read that changes nothing: they push nothing and make the landing register pending with what the read answers, sign- or zero-extended, or its fault; an earlier load of the register returns first, and the post-modifying forms step the anchor. FAR_LOAD_RETURN writes the answer to the register of the context that issued it, or sets its error bit and leaves its value, and clears pending; with nothing pending it changes nothing. LDLn pushes the register's value whether or not it is pending; with its error bit set it takes the fault, which clears that bit. LWAIT lands every register of the running context and goes on when none is in error. -/
def Obligations.AtomicsAndFarLoads : Prop := AtomicsReadAndWriteOnce ∧ FarLoadsLandInTheirRegister

/-- A long instruction's near operand of `k` bytes at `a` reads as `d`, changing nothing; and `a` may be stored to. -/
def nearOperand (s : State) (n : Fin 8) (a k : Nat) (d : List Byte) : Prop :=
  mpuOk (s.core n) .read a k = true ∧ nearBytes s n a 0 k = .ok d s
def nearTarget (s : State) (n : Fin 8) (a k : Nat) : Prop :=
  mpuOk (s.core n) .write a k = true ∧ 0x40000 ≤ a ∧ a + k ≤ 0x80000 ∧ (s.core n).sb.length < 8
/-- The store buffer of core `n` with a near store of `d` at `a` behind its entries. -/
def sbWith (s : State) (n : Fin 8) (a : Nat) (d : List Byte) : List SbEntry :=
  (s.core n).sb ++ [{ far := false, addr := a, data := d, custody := (s.cx n).custody }]

/-- With RC = 0 at the start MOVB and FILLB pop their cells, CRCB leaves the CRC and CMPB both cells with Z = 1 (and C = 0, the model's reading, log entry 17), with no access. Over RC bytes within one step of near memory: MOVB stores the source bytes in ascending order, FILLB at each address a byte (a mod 8) of x; both end with their cells popped. CRCB leaves the CRC-32C over the bytes. CMPB on equal bytes ends with RC = 0, both addresses advanced by the count, Z = 1; on unequal ones it stops at the first of them, RC counts the bytes left including it, Z = 0 and C tells the unsigned comparison. Each goes to the next instruction, and changes no byte of memory but through the store buffer. A step covers the bytes up to the next multiple of 8 of the first address, or what remains; an event after the first of several steps of MOVB or FILLB finds RC, the cells and the store buffer advanced by that step, and PC at the instruction. -/
def LongInstructionsCountDownRc : Prop :=
  (∀ (s : State) (n : Fin 8) (op : DisOp) (p : Pfx) (x y : Cell) (rest : List WCell), plainRun s n op p { far := true } 0 → once p →
    (s.cx n).win = { v := x } :: { v := y } :: rest → rest.length ≤ 30 → (s.cx n).rc = 0 →
    (s.core n).owner[2] = some (s.core n).cur →
    exec (.movb op) s = .next (afterOp s n rest (s.cx n).flags (nextPc s n op 0)) ∧
    exec (.fillb op) s = .next (afterOp s n rest (s.cx n).flags (nextPc s n op 0)) ∧
    exec (.crcb op) s = .next (afterOp s n ({ v := y } :: rest) (s.cx n).flags (nextPc s n op 0)) ∧
    exec (.cmpb op) s = .next (afterOp s n ({ v := x } :: { v := y } :: rest) (setZ (s.cx n).flags true &&& 0b111011)
      (nextPc s n op 0))) ∧
  (∀ (s : State) (n : Fin 8) (op : DisOp) (p : Pfx) (x y : Cell) (d e : List Byte) (rest : List WCell) (k : Nat),
    plainRun s n op p { far := true } 0 → once p → p.far = none → (s.cx n).win = { v := x } :: { v := y } :: rest →
    rest.length ≤ 30 → (s.cx n).rc = cell k → 0 < k → (s.core n).owner[2] = some (s.core n).cur →
    (y.toNat % 8 + k ≤ 8 → nearOperand s n x.toNat k d → nearTarget s n y.toNat k → ∃ t, exec (.movb op) s = .next t ∧ t.mem = s.mem ∧
      (t.core n).sb = sbWith s n y.toNat (overlapCopy y.toNat x.toNat [] 0 d) ∧ (t.cx n).win = rest ∧ (t.cx n).rc = 0 ∧
      (t.cx n).flags = (s.cx n).flags ∧ (t.cx n).pc = BitVec.ofNat 48 (nextPc s n op 0)) ∧
    (y.toNat % 8 + k ≤ 8 → nearTarget s n y.toNat k → ∃ t, exec (.fillb op) s = .next t ∧ t.mem = s.mem ∧
      (t.core n).sb = sbWith s n y.toNat ((List.range k).map fun i => byte (x.toNat / 2 ^ (8 * ((y.toNat + i) % 8)))) ∧
      (t.cx n).win = rest ∧ (t.cx n).rc = 0 ∧ (t.cx n).flags = (s.cx n).flags ∧ (t.cx n).pc = BitVec.ofNat 48 (nextPc s n op 0)) ∧
    (x.toNat % 8 + k ≤ 8 → nearOperand s n x.toNat k d → ∃ t, exec (.crcb op) s = .next t ∧ t.mem = s.mem ∧
      (t.cx n).win = { v := cell (crc32c (y.toNat % 2 ^ 32) d) } :: rest ∧ (t.cx n).rc = 0 ∧ (t.cx n).flags = (s.cx n).flags ∧
      (t.cx n).pc = BitVec.ofNat 48 (nextPc s n op 0)) ∧
    (y.toNat % 8 + k ≤ 8 → nearOperand s n y.toNat k d → nearOperand s n x.toNat k e → ∃ t, exec (.cmpb op) s = .next t ∧ t.mem = s.mem ∧
      (t.cx n).pc = BitVec.ofNat 48 (nextPc s n op 0) ∧ fN (t.cx n).flags = fN (s.cx n).flags ∧ fV (t.cx n).flags = fV (s.cx n).flags ∧
      (d = e → (t.cx n).rc = 0 ∧ (t.cx n).win = { v := x + cell k } :: { v := y + cell k } :: rest ∧ fZ (t.cx n).flags = true) ∧
      (∀ i b c, d.take i = e.take i → d[i]? = some b → e[i]? = some c → b ≠ c → (t.cx n).rc = cell (k - i) ∧
        (t.cx n).win = { v := x + cell i } :: { v := y + cell i } :: rest ∧ fZ (t.cx n).flags = false ∧
        fC (t.cx n).flags = decide (b.toNat < c.toNat)))) ∧
  (∀ (s : State) (n : Fin 8) (op : DisOp) (p : Pfx) (x y : Cell) (d : List Byte) (rest : List WCell) (k : Nat),
    plainRun s n op p { far := true } 0 → once p → p.far = none → (s.cx n).win = { v := x } :: { v := y } :: rest →
    rest.length ≤ 30 → (s.core n).owner[2] = some (s.core n).cur → k = 8 - y.toNat % 8 → k < (s.cx n).rc.toNat →
    nearTarget s n y.toNat k →
    (nearOperand s n x.toNat k d → ∃ t, exec (.movb { op with stop := some 1 }) s = .next t ∧ t.mem = s.mem ∧
      (t.core n).sb = sbWith s n y.toNat (overlapCopy y.toNat x.toNat [] 0 d) ∧ (t.cx n).rc = (s.cx n).rc - cell k ∧
      (t.cx n).win = { v := x + cell k } :: { v := y + cell k } :: rest ∧ (t.cx n).pc = (s.cx n).pc) ∧
    (∃ t, exec (.fillb { op with stop := some 1 }) s = .next t ∧ t.mem = s.mem ∧
      (t.core n).sb = sbWith s n y.toNat ((List.range k).map fun i => byte (x.toNat / 2 ^ (8 * ((y.toNat + i) % 8)))) ∧
      (t.cx n).rc = (s.cx n).rc - cell k ∧ (t.cx n).win = { v := x } :: { v := y + cell k } :: rest ∧ (t.cx n).pc = (s.cx n).pc)) ∧
  (∀ (dst src : Nat) (d : List Byte), dst + d.length ≤ src ∨ src + d.length ≤ dst → overlapCopy dst src [] 0 d = d) ∧
  (∀ a r : Nat, 0 < r → 0 < stepLen a r ∧ stepLen a r ≤ 8 ∧ stepLen a r ≤ r ∧ a / 8 = (a + stepLen a r - 1) / 8)

/-- For each of the 55 instructions of rows 0x0_ to 0x3_ under REPI, or under REPN with RC at most 64, whose executions all find their operands and room: it does what RC single executions do, RC is 0 at the end and PC at the next instruction; with RC = 0 only PC moves. With an event that takes effect after j < RC iterations: REPN changes nothing at all; REPI has done j iterations, RC holds those that remain and PC still addresses the instruction. REPN with RC above 64 takes the illegal-instruction fault instead. With RC = 0 at the start MOVB and FILLB pop their cells, CRCB leaves the CRC and CMPB both cells with Z = 1 (and C = 0, the model's reading, log entry 17), with no access. Over RC bytes within one step of near memory: MOVB stores the source bytes in ascending order, FILLB at each address a byte (a mod 8) of x; both end with their cells popped. CRCB leaves the CRC-32C over the bytes. CMPB on equal bytes ends with RC = 0, both addresses advanced by the count, Z = 1; on unequal ones it stops at the first of them, RC counts the bytes left including it, Z = 0 and C tells the unsigned comparison. Each goes to the next instruction, and changes no byte of memory but through the store buffer. A step covers the bytes up to the next multiple of 8 of the first address, or what remains; an event after the first of several steps of MOVB or FILLB finds RC, the cells and the store buffer advanced by that step, and PC at the instruction. -/
def Obligations.CountedInstructionsStepByRc : Prop := RepeatedInstructionsRunRcTimes ∧ LongInstructionsCountDownRc

/-- MODE of the running context (R110). -/
def modeCell (s : State) (n : Fin 8) : Nat :=
  (s.core n).cur.val * 256 + (s.cx n).mask.toNat * 16 + b2n (s.cx n).custody * 2 + b2n (s.cx n).super
/-- The frame of R334 that an entry with number `v` pushes for the running context, top first, with INFO `info`; `extra` holds
bits of F1 above 31. -/
def frameOf (s : State) (n : Fin 8) (v extra info pc : Nat) : List WCell :=
  cellsOf [cell info, (s.cx n).rc, cell (extra + v * 2 ^ 24 + (s.cx n).flags.toNat * 2 ^ 16 + (s.core n).cur.val * 2 ^ 12 + modeCell s n),
    cell pc]
/-- What an entry at vector `v` into handler context `h` with level `lvl` needs in order to be taken plainly: an ordinary context
runs with nothing pending and owns no unit, the descriptor `d` is readable with the present stack, the level is above MASK, and
the handler context is free with room in its window. -/
def entryReady (s : State) (n h : Fin 8) (v lvl : Nat) (d : Desc) : Prop :=
  (s.core n).cur.val < 6 ∧ 6 ≤ h.val ∧ (s.cx n).pend = [] ∧ (s.core n).edtb ≠ 0 ∧ descRead s n v = (s, some d) ∧ d.ssel = 0 ∧
    (s.cx n).mask.toNat < lvl ∧ ((s.core n).ctxs[h]).win.length ≤ 28 ∧ (s.core n).owner = Vector.replicate 3 none ∧
    (s.core n).active h = false

/-- BRK with no Lantern session attached takes the breakpoint fault: where the entry is ready, the core runs context 7 at the descriptor's HANDLER, in its world and level, with MASK the larger of NMASK and the level, and its window holds the frame: INFO, RC, F1 (entry number, FLAGS, contexts, MODE) and the address of BRK. The interrupted context, every byte of memory and every register page stay as they were. With a session attached BRK halts the core for Lantern after it has gone on to the next instruction. -/
def BreakpointEntersItsHandler : Prop :=
  (∀ (s : State) (n : Fin 8) (op : DisOp) (p : Pfx) (d : Desc), plainRun s n op p {} 0 → once p → s.attached = false →
    entryReady s n 7 vBRKPT d.pri d → ∃ t, exec (.brk op) s = .next t ∧ (t.core n).cur = 7 ∧
      (t.cx n).pc = BitVec.ofNat 48 d.handler ∧ (t.cx n).custody = d.custody ∧ (t.cx n).super = d.super ∧
      (t.cx n).mask = BitVec.ofNat 4 (max d.nmask d.pri) ∧
      (t.cx n).win = frameOf s n vBRKPT 0 0 (s.cx n).pc.toNat ++ ((s.core n).ctxs[(7 : Fin 8)]).win ∧
      (t.core n).ctxs[(s.core n).cur] = s.cx n ∧ t.mem = s.mem ∧ t.regs = s.regs ∧ (t.core n).depth7 = (s.core n).depth7 + 1) ∧
  (∀ (s : State) (n : Fin 8) (op : DisOp) (p : Pfx), plainRun s n op p {} 0 → once p → s.attached = true →
    exec (.brk op) s = .next ((s.setCore n { s.core n with dhalt := true }).setCx n
      { s.cx n with pc := BitVec.ofNat 48 (nextPc s n op 0) }))

/-- INTERRUPT_ENTRY on a core that runs: with no event routed to it above its MASK, nothing changes. Otherwise, for the event the core takes (level and vector from its route word), where the entry is ready: the core no longer sleeps and runs context 6 at the descriptor's HANDLER with MASK the larger of NMASK and the event's level, and the frame's INFO is the source number. The interrupted context and every byte of memory stay as they were. -/
def InterruptsAreTakenAboveMask : Prop :=
  ∀ (s : State) (n : Fin 8), s.coreRuns n = true → s.lockstep n = false → (s.core n).dhalt = false →
    (takenEvent s n = none → exec (.interruptEntry n) s = .next s) ∧
    (∀ e d, takenEvent s n = some e → entryReady s n 6 (regFld (s.route e) 0 8) (regFld (s.route e) 8 4) d →
      descRead (s.setCore n { s.core n with sleep := false }) n (regFld (s.route e) 0 8) =
        (s.setCore n { s.core n with sleep := false }, some d) →
      ∃ t, exec (.interruptEntry n) s = .next t ∧ (t.core n).cur = 6 ∧ (t.core n).sleep = false ∧
        (t.cx n).pc = BitVec.ofNat 48 d.handler ∧ (t.cx n).mask = BitVec.ofNat 4 (max d.nmask (regFld (s.route e) 8 4)) ∧
        (t.cx n).win = frameOf s n (regFld (s.route e) 0 8) 0 e (s.cx n).pc.toNat ++ ((s.core n).ctxs[(6 : Fin 8)]).win ∧
        (t.core n).ctxs[(s.core n).cur] = s.cx n ∧ t.mem = s.mem ∧ e ∈ routedSources s ∧
        ∀ e' ∈ routedSources s, s.toTurret e' n = true → regFld (s.route e') 8 4 ≤ max (s.cx n).mask.toNat (regFld (s.route e) 8 4))

/-- BRK with no Lantern session attached takes the breakpoint fault: where the entry is ready, the core runs context 7 at the descriptor's HANDLER, in its world and level, with MASK the larger of NMASK and the level, and its window holds the frame: INFO, RC, F1 (entry number, FLAGS, contexts, MODE) and the address of BRK. The interrupted context, every byte of memory and every register page stay as they were. With a session attached BRK halts the core for Lantern after it has gone on to the next instruction. INTERRUPT_ENTRY on a core that runs: with no event routed to it above its MASK, nothing changes. Otherwise, for the event the core takes (level and vector from its route word), where the entry is ready: the core no longer sleeps and runs context 6 at the descriptor's HANDLER with MASK the larger of NMASK and the event's level, and the frame's INFO is the source number. The interrupted context and every byte of memory stay as they were. -/
def Obligations.BreakpointsAndInterruptsEnterHandlers : Prop := BreakpointEntersItsHandler ∧ InterruptsAreTakenAboveMask

/-- For every state in which BRK enters its handler from an enabled ordinary context, into a handler of the Custody world at Supervisor level: where the handler's first instruction is RETE, the state after it has the interrupted context running again, with the same window, PC, FLAGS, RC, MASK, world, level, anchors and landing registers; the handler context is no longer active and holds the cells it held before, and no byte of memory has changed. -/
def Obligations.ReturnRestoresTheInterruptedContext : Prop :=
  ∀ (s t : State) (n : Fin 8) (op op2 : DisOp) (p p2 : Pfx) (d : Desc), plainRun s n op p {} 0 → once p → s.attached = false →
    entryReady s n 7 vBRKPT d.pri d → d.custody = true → d.super = true → (s.core n).bankcfg.getLsbD (s.core n).cur.val = true →
    (s.cx n).resv = Vector.replicate 3 {} → ((s.core n).ctxs[(7 : Fin 8)]).pend = [] → (s.core n).dfOut = false →
    (s.core n).depth7 = 0 → exec (.brk op) s = .next t → plainRun t n op2 p2 { page := 0xF9 } 0 → once p2 →
    ∃ u, exec (.rete op2) t = .next u ∧ (u.core n).cur = (s.core n).cur ∧ u.cx n = s.cx n ∧
      ((u.core n).ctxs[(7 : Fin 8)]).win = ((s.core n).ctxs[(7 : Fin 8)]).win ∧ (u.core n).depth7 = 0 ∧ u.mem = s.mem ∧ u.regs = s.regs

/-- GATE g with a descriptor that is valid, lists the caller's mode and finds its argument cells replaces g by the gate frame (GATE = 1, ENTRY = g, PC of the next instruction), sets the descriptor's world and level, raises MASK to the descriptor's, and goes to TARGET; g at or above NGATE takes the gate fault, whose INFO is g with the reason 1 in bits 15:8. CSW at Supervisor level to an enabled ordinary context of no higher world switches to it, the old context being at its next instruction. WAIT puts the core to sleep unless an event is routed to it already; at User level it takes the privilege fault. -/
def Obligations.GatesCallMorePrivilegedCode : Prop :=
  (∀ (s : State) (n : Fin 8) (op : DisOp) (p : Pfx) (g : Cell) (a b : Nat) (bs : List Byte) (rest : List WCell),
    plainRun s n op p { page := 0xF9 } 0 → once p → (s.cx n).win = { v := g } :: rest → rest.length ≤ 28 →
    (g.toNat < fld (s.core n).world.toNat 56 8 →
      dtcmLoad s n (fld (s.core n).world.toNat 8 40 * 256 + 16 * g.toNat) 16 0 = (s, bs, false) → leAt bs 0 8 = a → leAt bs 8 8 = b →
      bit b 0 = true → fld a 48 16 = 0 → fld b 19 45 = 0 → fld b 8 4 = 0 → bit b 3 = false →
      bit b (12 + 2 * b2n (s.cx n).custody + b2n (s.cx n).super) = true → fld b 16 3 ≤ rest.length →
      ∃ t, exec (.gate op) s = .next t ∧ (t.cx n).pc = BitVec.ofNat 48 (fld a 0 48) ∧ (t.cx n).custody = bit b 2 ∧
        (t.cx n).super = bit b 1 ∧ (t.cx n).mask.toNat = max (s.cx n).mask.toNat (fld b 4 4) ∧ (t.core n).cur = (s.core n).cur ∧
        (t.cx n).win = frameOf s n g.toNat (2 ^ 32) 0 (nextPc s n op 0) ++ rest ∧ t.mem = s.mem ∧ t.regs = s.regs) ∧
    (fld (s.core n).world.toNat 56 8 ≤ g.toNat → exec (.gate op) s =
      .next (faultEntry s n { vec := vGATE, info := 65536 * (g.toNat / 65536) + 256 + g.toNat % 256 }))) ∧
  (∀ (s : State) (n k : Fin 8) (op : DisOp) (p : Pfx) (rest : List WCell), plainRun s n op p { page := 0xF9 } 0 → once p →
    (s.cx n).win = { v := cell k.val } :: rest → rest.length ≤ 31 → k.val < 6 → (s.core n).cur.val < 6 → k ≠ (s.core n).cur →
    (s.core n).bankcfg.getLsbD k.val = true → (s.cx n).super = true →
    (((s.core n).ctxs[k]).custody = true → (s.cx n).custody = true) → (s.core n).owner = Vector.replicate 3 none →
    ((s.core n).ctxs[k]).resv = Vector.replicate 3 {} →
    ∃ t, exec (.csw op) s = .next t ∧ (t.core n).cur = k ∧ t.cx n = (s.core n).ctxs[k] ∧
      (t.core n).ctxs[(s.core n).cur] = { s.cx n with
        win := rest, stage := [], clean := false, pc := BitVec.ofNat 48 (nextPc s n op 0) } ∧ t.mem = s.mem) ∧
  (∀ (s : State) (n : Fin 8) (op : DisOp) (p : Pfx), plainRun s n op p { page := 0xF9 } 0 → once p →
    ((s.cx n).super = true → anyEvent s n = true →
      exec (.wait op) s = .next (s.setCx n { s.cx n with pc := BitVec.ofNat 48 (nextPc s n op 0) })) ∧
    ((s.cx n).super = true → anyEvent s n = false →
      exec (.wait op) s = .next ((s.setCore n { s.core n with sleep := true }).setCx n
        { s.cx n with pc := BitVec.ofNat 48 (nextPc s n op 0) })) ∧
    ((s.cx n).super = false → exec (.wait op) s = .next (faultEntry s n { vec := vPRIV })))

/-- MFCR of every register but FCSR pushes the value in effect. MTCR by Custody Supervisor of TRAPMASK takes effect at once; of BANKWIN with a legal value too; of WORLD, EDTB, MPUBASE, MPUCTL, SBASE, SLIM or BANKCFG with a legal value it is held pending, and SYNC.C makes WORLD, EDTB, SBASE or SLIM the value in effect. At User level MTCR of any writable register but TRAPMASK and FCSR takes the privilege fault. BANKRD by Custody Supervisor pushes an item of the windowed context other than a bank cell or a unit; what BANKWR wrote to its PC, RC or a landing register BANKRD reads. CHKST pushes the digest of the context's cells. -/
def Obligations.ControlRegistersAndBankWindow : Prop :=
  (∀ (s : State) (n : Fin 8) (op : DisOp) (p : Pfx) (r : BitVec 8) (rest : List WCell), plainRun s n op p { page := 0xF9 } 1 → once p →
    (s.cx n).win = rest → rest.length ≤ 31 → r.toNat < 0x0C →
    exec (.mfcr op r) s = .next (afterOp s n ({ v := crValue s n r.toNat } :: rest) (s.cx n).flags (nextPc s n op 1))) ∧
  (∀ (s : State) (n : Fin 8) (op : DisOp) (p : Pfx) (r : BitVec 8) (v : Cell) (rest : List WCell), plainRun s n op p { page := 0xF9 } 1 →
    once p → (s.cx n).win = { v := v } :: rest → rest.length ≤ 31 →
    (r = 9 → exec (.mtcr op r) s = .next (afterOp (s.setCore n { s.core n with trapmask := v.setWidth 2 }) n rest (s.cx n).flags
      (nextPc s n op 1))) ∧
    (r = 8 → (s.cx n).super = true → (s.cx n).custody = true → crOk (s.core n) 8 v.toNat = true →
      exec (.mtcr op r) s = .next (afterOp (s.setCore n { s.core n with bankwin := v }) n rest (s.cx n).flags (nextPc s n op 1))) ∧
    (r ∈ [(1 : BitVec 8), 2, 3, 4, 5, 6, 7] → (s.cx n).super = true → (s.cx n).custody = true → crOk (s.core n) r.toNat v.toNat = true →
      exec (.mtcr op r) s = .next (afterOp (s.setCx n { s.cx n with pend := sput (s.cx n).pend r.toNat (some v) none }) n rest
        (s.cx n).flags (nextPc s n op 1))) ∧
    (r.toNat ∈ [1, 2, 3, 4, 5, 6, 7, 8] → (s.cx n).super = false →
      exec (.mtcr op r) s = .next (faultEntry s n { vec := vPRIV }))) ∧
  (∀ (s : State) (n : Fin 8) (op : DisOp) (p : Pfx) (r : Nat) (v : Cell), plainRun s n op p { page := 0xF9 } 0 → once p →
    (s.cx n).pend = [(r, some v)] → r ∈ [1, 2, 5, 6] → (r = 5 ∨ r = 6 → v.toNat % 8 = 0 ∧ v.toNat < 2 ^ 48) →
    ∃ t, exec (.syncC op) s = .next t ∧ crValue t n r = v ∧ (t.cx n).pend = [] ∧ t.mem = s.mem ∧
      (t.cx n).pc = BitVec.ofNat 48 (nextPc s n op 0) ∧ (t.cx n).vsp = (s.cx n).vsp ∧ (t.cx n).win = (s.cx n).win) ∧
  (∀ (s : State) (n : Fin 8) (op : DisOp) (p : Pfx) (i v : Cell) (rest : List WCell), plainRun s n op p { page := 0xF9 } 0 → once p →
    rest.length ≤ 30 → (s.cx n).super = true → (s.cx n).custody = true → (s.core n).bankwin.getLsbD 0 = true →
    bankTarget (s.core n) ≠ (s.core n).cur →
    ((s.cx n).win = { v := i } :: rest → 0x20 ≤ i.toNat → i.toNat < 0x48 → bankItem i.toNat = true → exec (.bankrd op) s =
      .next (afterOp s n ({ v := (bankRead s n i.toNat).2 } :: rest) (s.cx n).flags (nextPc s n op 0))) ∧
    ((s.cx n).win = { v := i } :: { v := v } :: rest → i.toNat ∈ [0x21, 0x26, 0x28, 0x29, 0x2A, 0x2B] →
      (i.toNat = 0x21 → v.toNat < 2 ^ 48) →
      ∃ t, exec (.bankwr op) s = .next t ∧ (bankRead t n i.toNat).2 = v ∧ (t.cx n).win = rest ∧ t.mem = s.mem ∧
        (t.cx n).pc = BitVec.ofNat 48 (nextPc s n op 0))) ∧
  (∀ (s : State) (n : Fin 8) (op : DisOp) (p : Pfx) (rest : List WCell), plainRun s n op p { page := 0xF9 } 0 → once p →
    (s.cx n).win = rest → rest.length ≤ 31 → (s.cx n).super = true →
    exec (.chkst op) s = .next (afterOp s n ({ v := chkDigest s n (s.cx n).pc.toNat } :: rest) (s.cx n).flags (nextPc s n op 0)))

/-- SPILL_ENGINE_SPILL with OCC above 28 and room above SLIM writes the deepest window cell to VSP − 8 and takes it off the window; SPILL_ENGINE_FILL with OCC below 4 and VSP below SBASE reads the cell at VSP into the window below the deepest one. Outside those limits neither changes anything. A spilled cell reads back from stack memory. CORE_WARM_RESET puts a core that is not in lockstep into its reset state, sets bit 2 of its page's IRQ_RAW, and leaves every other core's contexts and all memory. -/
def Obligations.SpillFillAndCoreReset : Prop :=
  (∀ (s : State) (n : Fin 8), s.coreRuns n = true → s.lockstep n = false →
    ((s.cx n).win.length ≤ 28 ∨ (s.cx n).vsp.toNat < (s.cx n).slim.toNat + 8 → exec (.spillEngineSpill n) s = .next s) ∧
    (4 ≤ (s.cx n).win.length ∨ (s.cx n).sbase.toNat ≤ (s.cx n).vsp.toNat → exec (.spillEngineFill n) s = .next s) ∧
    (∀ (w : List WCell) (c : Cell), (s.cx n).win = w ++ [{ v := c }] → 28 ≤ w.length → (s.core n).sb = [] → Memory.wf s = true → errsWf s →
      (s.cx n).vsp.toNat % 8 = 0 → 0x40008 ≤ (s.cx n).vsp.toNat → (s.cx n).vsp.toNat ≤ 0x80000 →
      (s.cx n).slim.toNat + 8 ≤ (s.cx n).vsp.toNat →
      ∃ t, exec (.spillEngineSpill n) s = .next t ∧ (t.cx n).win = w ∧ (t.cx n).vsp = (s.cx n).vsp - 8 ∧
        t.bytes (dtcmKey n ((s.cx n).vsp.toNat - 8)) 8 = leBytes 8 c.toNat ∧ t.regs = s.regs ∧
        ∀ k, k < dtcmKey n ((s.cx n).vsp.toNat - 8) ∨ dtcmKey n (s.cx n).vsp.toNat ≤ k → t.byteAt k = s.byteAt k) ∧
    ((s.cx n).win.length < 4 → (s.cx n).vsp.toNat < (s.cx n).sbase.toNat → (s.core n).sb = [] → errsWf s → (s.cx n).vsp.toNat % 8 = 0 →
      0x40000 ≤ (s.cx n).vsp.toNat → (s.cx n).vsp.toNat < 0x80000 → s.wordErrAt (dtcmKey n (s.cx n).vsp.toNat / 8) = 0 →
      exec (.spillEngineFill n) s = .next (s.setCx n { s.cx n with vsp := (s.cx n).vsp + 8, win := (s.cx n).win ++
        [{ v := cell (ofLE (s.bytes (dtcmKey n (s.cx n).vsp.toNat) 8)) }] }))) ∧
  (∀ (s : State) (n : Fin 8), s.lockstep n = false → Regs.wf s = true → ∃ t, exec (.coreWarmReset n) s = .next t ∧ t.mem = s.mem ∧
    (t.core n).ctxs = Core.reset.ctxs ∧ (t.core n).cur = Core.reset.cur ∧ (t.core n).sb = [] ∧
    t.regB (0x1A0 + n.val) oIrqRaw 2 = true ∧ ∀ m : Fin 8, m ≠ n → (t.core m).ctxs = (s.core m).ctxs)

/-- An instruction of the floating page: operands, and result and raised flags by format and rounding mode (operands top first). -/
structure FloatRow where
  instr : DisOp → Instr
  k : Nat
  /-- W32 selects binary32; FWIDEN and FNARROW take no width. -/
  wide : Bool
  f : FFmt → Nat → List Cell → Nat × Nat
/-- The operand at position `i` in a format. -/
def fOpAt (m : FFmt) (c : List Cell) (i : Nat) : Nat := (c.getD i 0).toNat % 2 ^ (1 + m.eb + m.mb)
/-- The floating page (R371). -/
def floatRows : List FloatRow :=
  [⟨.fadd, 2, true, fun m rm c => fAddV m rm (fDecode m (fOpAt m c 1)) (fDecode m (fOpAt m c 0))⟩,
   ⟨.fsub, 2, true, fun m rm c => fAddV m rm (fDecode m (fOpAt m c 1)) (fNeg (fDecode m (fOpAt m c 0)))⟩,
   ⟨.fmul, 2, true, fun m rm c => fMulV m rm (fDecode m (fOpAt m c 1)) (fDecode m (fOpAt m c 0))⟩,
   ⟨.fdiv, 2, true, fun m rm c => fDivV m rm (fDecode m (fOpAt m c 1)) (fDecode m (fOpAt m c 0))⟩,
   ⟨.fsqrt, 1, true, fun m rm c => fSqrtV m rm (fDecode m (fOpAt m c 0))⟩,
   ⟨.fma, 3, true, fun m rm c => fFmaV m rm (fDecode m (fOpAt m c 2)) (fDecode m (fOpAt m c 1)) (fDecode m (fOpAt m c 0))⟩,
   ⟨.fmin, 2, true, fun m _ c => fMinMax m false (fOpAt m c 1) (fOpAt m c 0)⟩,
   ⟨.fmax, 2, true, fun m _ c => fMinMax m true (fOpAt m c 1) (fOpAt m c 0)⟩,
   ⟨.feq, 2, true, fun m _ c => fCompare m .eq (fOpAt m c 1) (fOpAt m c 0)⟩,
   ⟨.flt, 2, true, fun m _ c => fCompare m .lt (fOpAt m c 1) (fOpAt m c 0)⟩,
   ⟨.fle, 2, true, fun m _ c => fCompare m .le (fOpAt m c 1) (fOpAt m c 0)⟩,
   ⟨.fneg, 1, true, fun m _ c => ((fOpAt m c 0 + 2 ^ (m.eb + m.mb)) % 2 ^ (1 + m.eb + m.mb), 0)⟩,
   ⟨.fabs, 1, true, fun m _ c => (fOpAt m c 0 % 2 ^ (m.eb + m.mb), 0)⟩,
   ⟨.fclass, 1, true, fun m _ c => (fClass m (fOpAt m c 0), 0)⟩,
   ⟨.fcvtI, 1, true, fun m rm c => fToInt m rm (fOpAt m c 0)⟩,
   ⟨.fcvtF, 1, true, fun m rm c => fFromInt m rm (c.getD 0 0).toNat⟩,
   ⟨.fwiden, 1, false, fun _ rm c => fConvert f32 f64 rm (fOpAt f32 c 0)⟩,
   ⟨.fnarrow, 1, false, fun _ rm c => fConvert f64 f32 rm (c.getD 0 0).toNat⟩]

/-- For each of the 18 instructions of the floating page, run once by a core whose running context owns the floating unit: it pops its operands, pushes the result in the mode FCSR.RM and the format W32 selects, and ORs the raised flags into FCSR[12:8]; FLAGS and everything else stay. FNEG and FABS change the sign bit alone. -/
def Obligations.FloatInstructionsPushTheirResult : Prop :=
  ∀ r ∈ floatRows, ∀ (s : State) (n : Fin 8) (op : DisOp) (p : Pfx) (cs : List Cell) (rest : List WCell),
    plainRun s n op p { page := 0xFB, w32 := r.wide } 0 → once p → (s.cx n).win = cellsOf cs ++ rest → cs.length = r.k →
    rest.length ≤ 31 → (s.core n).owner[0] = some (s.core n).cur →
    exec (r.instr op) s = .next (afterOp (unitSet s n 0
        ((s.core n).unit[0] ||| cell ((r.f (if p.w32 then f32 else f64) (fld (s.core n).unit[0].toNat 0 3) cs).2 * 256))) n
      ({ v := cell (r.f (if p.w32 then f32 else f64) (fld (s.core n).unit[0].toNat 0 3) cs).1 } :: rest) (s.cx n).flags
      (nextPc s n op 0))

/-- Bits of FCSR.FLAGS (R326): invalid, overflow, underflow, inexact. -/
def flNV : Nat := 16
def flOF : Nat := 4
def flUF : Nat := 2
def flNX : Nat := 1
/-- A row of the edge table: instruction result on binary64 operands (R377). -/
def op2 (f : FFmt → Nat → FVal → FVal → Nat × Nat) (m : FFmt) (rm a b : Nat) : Nat × Nat := f m rm (fDecode m a) (fDecode m b)

/-- With s the smallest positive subnormal (1) and M the largest finite value, and RM = 0: every row of the manual's two tables of edge operands, in binary64 and binary32. With RM = 1 every row that gives an infinity with OF gives the largest finite value with OF and NX; with RM = 2 FMUL s, s gives s and FCVT.I s gives 1. -/
def Obligations.FloatEdgeOperands : Prop :=
  let M := 0x7FEFFFFFFFFFFFFF
  let M3 := 0x7F7FFFFF
  let neg := fun m a => ((a + 2 ^ (m.eb + m.mb)) % 2 ^ (1 + m.eb + m.mb) : Nat)
  let sub := op2 fun m rm a b => fAddV m rm a (fNeg b)
  (op2 fAddV f64 0 1 1 = (2, 0) ∧ op2 fAddV f64 0 M M = (0x7FF0000000000000, flOF + flNX) ∧ op2 fAddV f64 0 M 1 = (M, flNX) ∧
   sub f64 0 M M = (0, 0) ∧ sub f64 0 1 M = (0xFFEFFFFFFFFFFFFF, flNX)) ∧
  (op2 fMulV f64 0 1 1 = (0, flUF + flNX) ∧ op2 fMulV f64 0 M 1 = (0x3CCFFFFFFFFFFFFF, 0) ∧
   op2 fMulV f64 0 M M = (0x7FF0000000000000, flOF + flNX)) ∧
  (op2 fDivV f64 0 1 1 = (0x3FF0000000000000, 0) ∧ op2 fDivV f64 0 M M = (0x3FF0000000000000, 0) ∧
   op2 fDivV f64 0 1 M = (0, flUF + flNX) ∧ op2 fDivV f64 0 M 1 = (0x7FF0000000000000, flOF + flNX)) ∧
  (fSqrtV f64 0 (fDecode f64 1) = (0x1E60000000000000, 0) ∧ fSqrtV f64 0 (fDecode f64 M) = (0x5FEFFFFFFFFFFFFF, flNX) ∧
   fFmaV f64 0 (fDecode f64 1) (fDecode f64 1) (fDecode f64 1) = (1, flUF + flNX) ∧
   fFmaV f64 0 (fDecode f64 M) (fDecode f64 M) (fDecode f64 (neg f64 M)) = (0x7FF0000000000000, flOF + flNX)) ∧
  (fMinMax f64 false 1 M = (1, 0) ∧ fMinMax f64 true 1 M = (M, 0) ∧ fCompare f64 .eq 1 M = (0, 0) ∧ fCompare f64 .lt 1 M = (1, 0) ∧
   fCompare f64 .le 1 M = (1, 0) ∧ neg f64 1 = 0x8000000000000001 ∧ neg f64 M % 2 ^ 63 = M ∧ fClass f64 1 = 0x020 ∧
   fClass f64 M = 0x040) ∧
  (fToInt f64 0 1 = (0, flNX) ∧ fToInt f64 0 M = (0x7FFFFFFFFFFFFFFF, flNV) ∧
   fFromInt f64 0 1 = (0x3FF0000000000000, 0) ∧ fFromInt f64 0 0x7FFFFFFFFFFFFFFF = (0x43E0000000000000, flNX) ∧
   fConvert f64 f32 0 1 = (0, flUF + flNX) ∧ fConvert f64 f32 0 M = (0x7F800000, flOF + flNX) ∧
   fConvert f32 f64 0 1 = (0x36A0000000000000, 0) ∧ fConvert f32 f64 0 M3 = (0x47EFFFFFE0000000, 0)) ∧
  (op2 fAddV f32 0 M3 M3 = (0x7F800000, flOF + flNX) ∧ op2 fMulV f32 0 1 1 = (0, flUF + flNX) ∧
   op2 fMulV f32 0 M3 1 = (0x34FFFFFF, 0) ∧ op2 fDivV f32 0 1 1 = (0x3F800000, 0) ∧ op2 fDivV f32 0 M3 1 = (0x7F800000, flOF + flNX) ∧
   fSqrtV f32 0 (fDecode f32 1) = (0x1A3504F3, flNX) ∧ fSqrtV f32 0 (fDecode f32 M3) = (0x5F7FFFFF, flNX) ∧
   fFmaV f32 0 (fDecode f32 1) (fDecode f32 1) (fDecode f32 1) = (1, flUF + flNX)) ∧
  (op2 fAddV f64 1 M M = (M, flOF + flNX) ∧ op2 fMulV f64 1 M M = (M, flOF + flNX) ∧ op2 fDivV f64 1 M 1 = (M, flOF + flNX) ∧
   fFmaV f64 1 (fDecode f64 M) (fDecode f64 M) (fDecode f64 (neg f64 M)) = (M, flOF + flNX) ∧
   fConvert f64 f32 1 M = (M3, flOF + flNX) ∧ op2 fAddV f32 1 M3 M3 = (M3, flOF + flNX) ∧
   op2 fDivV f32 1 M3 1 = (M3, flOF + flNX)) ∧
  op2 fMulV f64 2 1 1 = (1, flUF + flNX) ∧ op2 fMulV f32 2 1 1 = (1, flUF + flNX) ∧ fToInt f64 2 1 = (1, flNX)

/-- Value of a decimal number: digit cell and sign cell (R378). -/
def decValue (d sg : Cell) : Int := if decNeg sg then -(bcdValue 16 d.toNat : Int) else bcdValue 16 d.toNat
/-- Core `n` after a decimal instruction that delivered `o`. -/
def afterDec (s : State) (n : Fin 8) (o : DecOut) (rest : List WCell) (pc : Nat) : State :=
  afterOp (unitSet s n 1 o.dstat) n (cellsOf o.cells.reverse ++ rest) o.flags pc

/-- DADD, DSUB, DCHK, DTOB and BTOD, run once by a core whose running context owns the decimal unit: on operands without a bad digit (DCHK and BTOD: on any) they replace them by the result and set FLAGS and DSTAT. A bad digit of DADD, DSUB or DTOB with TRAPMASK[1] = 0 takes the decimal-data fault with nothing changed, and with TRAPMASK[1] = 1 delivers the zero result with the digit's position in DSTAT. Where the magnitude fits 16 digits, the value that DADD and DSUB deliver is the exact sum and difference. -/
def Obligations.DecimalInstructionsPushTheirResult : Prop :=
  (∀ (s : State) (n : Fin 8) (op : DisOp) (p : Pfx) (a b c d : Cell) (rest : List WCell), plainRun s n op p { page := 0xFA } 0 → once p →
    rest.length ≤ 28 → (s.core n).owner[1] = some (s.core n).cur →
    ((s.cx n).win = { v := d } :: { v := c } :: { v := b } :: { v := a } :: rest → badDigit2 a c = none →
      exec (.dadd op) s = .next (afterDec s n (decAdd false (s.cx n).flags (s.core n).unit[1] a b c d) rest (nextPc s n op 0)) ∧
      exec (.dsub op) s = .next (afterDec s n (decAdd true (s.cx n).flags (s.core n).unit[1] a b c d) rest (nextPc s n op 0))) ∧
    (∀ i, (s.cx n).win = { v := d } :: { v := c } :: { v := b } :: { v := a } :: rest → badDigit2 a c = some i →
      if (s.core n).trapmask.getLsbD 1 then
        exec (.dadd op) s = .next (afterDec s n (decBad [0, 0xC] (s.cx n).flags i) rest (nextPc s n op 0)) ∧
        exec (.dsub op) s = .next (afterDec s n (decBad [0, 0xC] (s.cx n).flags i) rest (nextPc s n op 0))
      else exec (.dadd op) s = .next (faultEntry s n { vec := vDD }) ∧ exec (.dsub op) s = .next (faultEntry s n { vec := vDD })) ∧
    (∀ i, (s.cx n).win = { v := b } :: { v := a } :: rest → badDigit2 a 0 = some i →
      if (s.core n).trapmask.getLsbD 1 then
        exec (.dtob op) s = .next (afterDec s n (decBad [0] (s.cx n).flags i) rest (nextPc s n op 0))
      else exec (.dtob op) s = .next (faultEntry s n { vec := vDD })) ∧
    ((s.cx n).win = { v := a } :: rest →
      exec (.dchk op) s = .next (afterDec s n (decChk (s.cx n).flags (s.core n).unit[1] a) rest (nextPc s n op 0)) ∧
      exec (.btod op) s = .next (afterDec s n (binToDec (s.cx n).flags (s.core n).unit[1] a) rest (nextPc s n op 0))) ∧
    ((s.cx n).win = { v := b } :: { v := a } :: rest → badDigit2 a 0 = none →
      exec (.dtob op) s = .next (afterDec s n (decToBin (s.cx n).flags (s.core n).unit[1] a b) rest (nextPc s n op 0)))) ∧
  (∀ (sub : Bool) (f : Flags) (st a b c d : Cell), badDigit2 a c = none →
    ((decValue a b) + (if sub then -(decValue c d) else decValue c d)).natAbs < 10 ^ 16 →
    ∃ r sg, (decAdd sub f st a b c d).cells = [r, sg] ∧
      decValue r sg = decValue a b + (if sub then -(decValue c d) else decValue c d) ∧
      (fZ (decAdd sub f st a b c d).flags = true ↔ decValue r sg = 0))

/-- For every cell whose signed value has a magnitude below 10^16, whatever FLAGS and DSTAT hold: BTOD gives a digit cell with no bad digit and a sign cell, and DTOB of the two gives the cell back, with N and Z of its value and C and V 0. -/
def Obligations.DecimalAndBinaryRoundTrip : Prop :=
  ∀ (x : Cell) (f g : Flags) (st st2 : Cell), (sgn x.toNat 64).natAbs < 10 ^ 16 →
    ∃ d sg, (binToDec f st x).cells = [d, sg] ∧ badDigit2 d 0 = none ∧ decValue d sg = sgn x.toNat 64 ∧
      (decToBin g st2 d sg).cells = [x] ∧ fC (decToBin g st2 d sg).flags = false ∧ fV (decToBin g st2 d sg).flags = false ∧
      (fZ (decToBin g st2 d sg).flags = true ↔ x = 0) ∧ (fN (decToBin g st2 d sg).flags = true ↔ sgn x.toNat 64 < 0)

/-- Context `c` of spire `n` runs instruction `op` with prefixes `p`, accepted by `a`, with no disturbance: the sequencer executes, the
context is in RUN or in the wait `w`, and its program's bytes raise nothing; `k` bytes follow the prefixes. -/
def spireRuns (s : State) (n : Fin 8) (c : Fin 4) (op : DisOp) (p : Pfx) (a : Acc) (w : Waits) (k : Nat) : Prop :=
  op.ex = .spire n c ∧ op.reserved = none ∧ op.hw = .quiet ∧ pfxParse {} op.pfx = some p ∧ p.page = a.page ∧ pfxBad (spireAcc a) p = false ∧
    seqRuns s n = true ∧ progOn s (s.sc n c) = true ∧ waitsFor w (s.sc n c).st = true ∧
    pbFetch s n (s.sc n c).pc.toNat (op.pfx.length + k) = (s, none)
/-- Rows of the opcode tables that spires do not have (R142), without immediate: the page and the opcode. -/
def turretRows : List ((DisOp → Instr) × Nat × Nat) :=
  [(.div, 0, 0x1A), (.divu, 0, 0x1B), (.calli, 0, 0x62), (.brk, 0, 0x63), (.rdsp, 0, 0x74), (.ld, 0, 0x40), (.lds, 0, 0x41), (.st, 0, 0x42),
   (fun o => .ldl o 0, 0, 0x43), (fun o => .ldl o 1, 0, 0x44), (fun o => .ldl o 2, 0, 0x45), (fun o => .ldl o 3, 0, 0x46),
   (.lwait, 0, 0x47), (.fence, 0, 0x48), (.swapm, 0, 0x49), (.casm, 0, 0x4A), (.addm, 0, 0x4B), (.andm, 0, 0x4C), (.orm, 0, 0x4D),
   (.xorm, 0, 0x4E)] ++
  ([(.lda, 0, 0x50), (.ldaPostmod, 0, 0x51), (.ldsa, 0, 0x52), (.ldsaPostmod, 0, 0x53), (.sta, 0, 0x54), (.staPostmod, 0, 0x55),
    (.anld, 0, 0x56), (.anoff, 0, 0x57), (.anrd, 0, 0x58), (.anadr, 0, 0x59), (.anstep, 0, 0x5A), (.movb, 0, 0x80), (.fillb, 0, 0x81),
    (.crcb, 0, 0x82), (.cmpb, 0, 0x83), (.syncI, 0xF9, 0), (.syncC, 0xF9, 1), (.gate, 0xF9, 2), (.rete, 0xF9, 3), (.csw, 0xF9, 4),
    (.wait, 0xF9, 5), (.chkst, 0xF9, 6), (.bankrd, 0xF9, 7), (.bankwr, 0xF9, 8)] ++
   [(.dadd, 0xFA, 0), (.dsub, 0xFA, 1), (.dchk, 0xFA, 2), (.dtob, 0xFA, 3), (.btod, 0xFA, 4), (.fadd, 0xFB, 0), (.fsub, 0xFB, 1),
    (.fmul, 0xFB, 2), (.fdiv, 0xFB, 3), (.fsqrt, 0xFB, 4), (.fma, 0xFB, 5), (.fmin, 0xFB, 6), (.fmax, 0xFB, 7), (.feq, 0xFB, 8),
    (.flt, 0xFB, 9), (.fle, 0xFB, 0xA), (.fneg, 0xFB, 0xB), (.fabs, 0xFB, 0xC), (.fclass, 0xFB, 0xD), (.fcvtI, 0xFB, 0xE),
    (.fcvtF, 0xFB, 0xF), (.fwiden, 0xFB, 0x10), (.fnarrow, 0xFB, 0x11)])
/-- Address of the instruction after one with `k` bytes after its prefixes. -/
def spNextN (s : State) (n : Fin 8) (c : Fin 4) (op : DisOp) (k : Nat) : Nat := (s.sc n c).pc.toNat + (op.pfx.length + k)
/-- The same as an address. -/
def spNext (s : State) (n : Fin 8) (c : Fin 4) (op : DisOp) (k : Nat) : Addr := BitVec.ofNat 48 (spNextN s n c op k)
/-- The context after an instruction: `x`, running, at address `pc`. -/
def spDone (t : State) (n : Fin 8) (c : Fin 4) (x : SpCtx) (pc : Addr) : State := t.setSc n c { x with st := .run, pc := pc }
/-- The same on the state `t` that a bus access or another part of the instruction has left. -/
def spOn (t : State) (n : Fin 8) (c : Fin 4) (x : SpCtx) (pc : Addr) : State := t.setSc n c { x with pc := pc }
/-- The vector page accepts no prefix but its own. -/
abbrev vecPage : Acc := { page := 0xF8 }

/-- For each of the 55 scalar instructions (rows 0x0_ to 0x3_ but NOP, PICK, ROLL, DEPTH, DIV, DIVU) on a running spire context with its operands and room for its results in 32 cells: the operands are replaced by the results, FLAGS takes the row's flags, PC goes on, nothing else changes. With too few cells or too little room the context records STACK and faults at its PC. NOP, DEPTH, PICK, ROLL, RDRC, WRRC, RDFL, WRFL, RET, JMP, PUSHI, PUSHU, ADDI, ANDI, ORI, BR, BZ, BNZ, CALL and LOOP act as on a turret, DEPTH counting the context's own cells. Every other instruction without immediate of the four turret pages, and MFCR, MTCR, LDD and STD, record ILLEGAL with their opcode. -/
def Obligations.SpireScalarInstructions : Prop :=
  (∀ r ∈ scalarRows, ∀ (s : State) (n : Fin 8) (c : Fin 4) (op : DisOp) (p : Pfx) (cs rest : List Cell),
    spireRuns s n c op p r.acc .none 1 →
    ((s.sc n c).win = cs ++ rest → cs.length = r.k → rest.length + r.m ≤ 32 →
      exec (r.instr op) s = .next (spDone s n c { s.sc n c with
        win := (r.f p.bits (s.sc n c).flags cs).1 ++ rest, flags := (r.f p.bits (s.sc n c).flags cs).2 } (spNext s n c op 1))) ∧
    ((s.sc n c).win.length < r.k ∨ 32 < (s.sc n c).win.length - r.k + r.m →
      exec (r.instr op) s = .next (spPrecise s n c cSTACK 0))) ∧
  (∀ (s : State) (n : Fin 8) (c : Fin 4) (op : DisOp) (p : Pfx) (v : Cell) (rest : List Cell), rest.length ≤ 31 →
    (spireRuns s n c op p { rep := true, repn := true } .none 1 →
      ((s.sc n c).win = rest → exec (.nop op) s = .next (spDone s n c { s.sc n c with win := rest } (spNext s n c op 1)) ∧
        exec (.depth op) s = .next (spDone s n c { s.sc n c with win := cell rest.length :: rest } (spNext s n c op 1))) ∧
      ((s.sc n c).win = v :: rest → ∀ x, rest[v.toNat]? = some x →
        exec (.pick op) s = .next (spDone s n c { s.sc n c with win := x :: rest } (spNext s n c op 1)) ∧
        exec (.roll op) s = .next (spDone s n c { s.sc n c with win := x :: rest.eraseIdx v.toNat } (spNext s n c op 1)))) ∧
    (spireRuns s n c op p {} .none 1 →
      ((s.sc n c).win = rest →
        exec (.rdrc op) s = .next (spDone s n c { s.sc n c with win := (s.sc n c).rc :: rest } (spNext s n c op 1)) ∧
        exec (.rdfl op) s = .next (spDone s n c { s.sc n c with win := (s.sc n c).flags.zeroExtend 64 :: rest } (spNext s n c op 1))) ∧
      ((s.sc n c).win = v :: rest →
        exec (.wrrc op) s = .next (spDone s n c { s.sc n c with win := rest, rc := v } (spNext s n c op 1)) ∧
        exec (.wrfl op) s = .next (spDone s n c { s.sc n c with win := rest, flags := v.setWidth 6 } (spNext s n c op 1)) ∧
        exec (.ret op) s = .next (spDone s n c { s.sc n c with win := rest } (v.setWidth 48)) ∧
        exec (.jmp op) s = .next (spDone s n c { s.sc n c with win := rest } (v.setWidth 48)))) ∧
    (∀ i : Imm, immOk i = true →
      (spireRuns s n c op p { rep := true, repn := true } .none (1 + immBytes i) → (s.sc n c).win = rest →
        exec (.pushi op i) s = .next (spDone s n c { s.sc n c with win := cell (uns (immSigned i) 64) :: rest }
          (spNext s n c op (1 + immBytes i))) ∧
        exec (.pushu op i) s = .next (spDone s n c { s.sc n c with win := i.value :: rest } (spNext s n c op (1 + immBytes i)))) ∧
      (spireRuns s n c op p { w32 := true, w16 := true, rep := true, repn := true } .none (1 + immBytes i) → (s.sc n c).win = v :: rest →
        ∀ x ∈ [(Instr.addi, Bin.add, cell (uns (immSigned i) 64)), (.andi, .and, cell (uns (immSigned i) 64)), (.ori, .or, i.value)],
          exec (x.1 op i) s = .next (spDone s n c { s.sc n c with
            win := (binCell x.2.1 p.bits (s.sc n c).flags v x.2.2).1 :: rest,
            flags := (binCell x.2.1 p.bits (s.sc n c).flags v x.2.2).2 } (spNext s n c op (1 + immBytes i)))) ∧
      (spireRuns s n c op p {} .none (1 + immBytes i) →
        ((s.sc n c).win = rest →
          exec (.br op i) s = .next (spDone s n c (s.sc n c) (BitVec.ofNat 48 (branchTo (spNextN s n c op (1 + immBytes i)) i))) ∧
          exec (.call op i) s = .next (spDone s n c { s.sc n c with win := cell (spNextN s n c op (1 + immBytes i)) :: rest }
            (BitVec.ofNat 48 (branchTo (spNextN s n c op (1 + immBytes i)) i))) ∧
          exec (.loop op i) s = .next (spDone s n c { s.sc n c with rc := (s.sc n c).rc - 1 } (BitVec.ofNat 48
            (if (s.sc n c).rc ≠ 1 then branchTo (spNextN s n c op (1 + immBytes i)) i else spNextN s n c op (1 + immBytes i))))) ∧
        ((s.sc n c).win = v :: rest →
          exec (.bz op i) s = .next (spDone s n c { s.sc n c with win := rest } (BitVec.ofNat 48
            (if v = 0 then branchTo (spNextN s n c op (1 + immBytes i)) i else spNextN s n c op (1 + immBytes i)))) ∧
          exec (.bnz op i) s = .next (spDone s n c { s.sc n c with win := rest } (BitVec.ofNat 48
            (if v ≠ 0 then branchTo (spNextN s n c op (1 + immBytes i)) i else spNextN s n c op (1 + immBytes i)))))))) ∧
  (∀ (s : State) (n : Fin 8) (c : Fin 4) (op : DisOp) (p : Pfx),
    (∀ r ∈ turretRows, spireRuns s n c op p { page := r.2.1 } .none 1 → exec (r.1 op) s = .next (spPrecise s n c cILLEGAL r.2.2)) ∧
    (spireRuns s n c op p { page := 0xF9 } .none 2 → ∀ i, exec (.mfcr op i) s = .next (spPrecise s n c cILLEGAL 0xC0) ∧
      exec (.mtcr op i) s = .next (spPrecise s n c cILLEGAL 0xC4)) ∧
    (∀ i : Imm, immOk i = true → spireRuns s n c op p {} .none (1 + immBytes i) →
      exec (.ldd op i) s = .next (spPrecise s n c cILLEGAL (0xD0 + i.size.val)) ∧
      exec (.std op i) s = .next (spPrecise s n c cILLEGAL (0xD4 + i.size.val)))) ∧
  (∀ (s : State) (n : Fin 8) (c : Fin 4) (cause detail : Nat), cause < 32 → ((spPrecise s n c cause detail).sc n c).st = .fault ∧
    ((spPrecise s n c cause detail).sc n c).fpc = (s.sc n c).pc ∧ ((spPrecise s n c cause detail).sc n c).pc = (s.sc n c).pc ∧
    regBit ((spPrecise s n c cause detail).sc n c).finfo 31 = true ∧
    regFld ((spPrecise s n c cause detail).sc n c).finfo 26 5 = cause ∧
    ((spPrecise s n c cause detail).sc n c).faux = w32 (detail % 2 ^ 16) ∧ (spPrecise s n c cause detail).mem = s.mem)

/-- For each of the 49 element instructions on a running spire context whose stack holds its parameter cells: where take-in accepts the operands, the cells leave the stack, the descriptors leave the stream stack, the group holds one more operation, PC goes on and nothing else changes; where it refuses them, the context records ISSUE with the reason and faults. For an operation with one source, take-in of two valid descriptors that are neither CHAIN nor INDEXED and have one legal width always makes a group of that one operation, with the source first. -/
def ElementInstructionsJoinTheGroup : Prop :=
  (∀ r ∈ ([(.vadd, .vadd), (.vsub, .vsub), (.vadds, .vadds), (.vsubs, .vsubs), (.vaddus, .vaddus), (.vsubus, .vsubus), (.vmin, .vmin),
   (.vmax, .vmax), (.vminu, .vminu), (.vmaxu, .vmaxu), (.vand, .vand), (.vor, .vor), (.vxor, .vxor), (.vandn, .vandn)] ++
  ([(.vnot, .vnot), (.vpopc, .vpopc), (.vshl, .vshl), (.vshr, .vshr), (.vsar, .vsar), (.vrol, .vrol), (.vror, .vror),
   (.vcmpeq, .vcmpeq), (.vcmpne, .vcmpne), (.vcmplt, .vcmplt), (.vcmpltu, .vcmpltu), (.vsel, .vsel), (.vcopy, .vcopy)] ++
  ([(.vfill, .vfill), (.vperm, .vperm), (.vgfmul, .vgfmul), (.vgfmuls, .vgfmuls), (.vgfmac, .vgfmac), (.vgfinv, .vgfinv),
   (.vgfmatx, .vgfmatx), (.vbfly, .vbfly), (.vibfly, .vibfly), (.vpmul, .vpmul), (.vcld, .vcld), (.vcrd, .vcrd)] ++
   [(.vcrc32c, .vcrc32c), (.vcrc64, .vcrc64), (.vsha256, .vsha256), (.vghash, .vghash), (.vaesx, .vaesx), (.vaesg, .vaesg),
    (.vrxor, .vrxor), (.vradd, .vradd), (.vrfmis, .vrfmis), (.vrnz, .vrnz)])) : List ((DisOp → Instr) × VOp)), ∀ (s : State) (n : Fin 8) (c : Fin 4) (op : DisOp) (p : Pfx) (cs rest : List Cell),
    spireRuns s n c op p vecPage .none 1 → (s.sc n c).win = cs ++ rest → cs.length = r.2.cells → rest.length ≤ 32 →
    (∀ st g, takeIn r.2 (s.sc n c).pc (s.sc n c).descs (s.sc n c).opened cs = .ok (st, g) →
      exec (r.1 op) s = .next (spDone s n c { s.sc n c with win := rest, descs := st, opened := some g } (spNext s n c op 1))) ∧
    (∀ why, takeIn r.2 (s.sc n c).pc (s.sc n c).descs (s.sc n c).opened cs = .error why →
      exec (r.1 op) s = .next (spPrecise s n c cISSUE why))) ∧
  (∀ v ∈ ([.vnot, .vpopc, .vcopy, .vgfinv] : List VOp), ∀ (pc : Addr) (a d : SDesc) (rest : List SDesc),
    a.ok false = true → d.ok true = true → a.mode < 3 → d.mode < 3 → a.w = d.w → v.widthOk d.w = true →
    takeIn v pc (d :: a :: rest) none [] = .ok (rest,
      { pc := pc, descs := [a, d], ops := [{ op := v, w := d.w, p := 0, t := 0, srcs := [⟨0, none⟩], dst := some ⟨1, none⟩ }] }))

/-- For every element width of 1, 2, 4 and 8 bytes and all elements: VADD and VSUB are the sum and difference modulo 2^bits; VADDUS and VSUBUS clamp at the unsigned ends, VADDS and VSUBS at the signed ends; VNOT undoes itself; VCMPLT gives all ones or zero by the signed comparison; VROL and VROR by one amount undo each other; a shift by the width or more gives 0. VBFLY followed by VIBFLY with the same twiddle gives back the pair, and so the other way round. -/
def ElementOperationsComputeTheirValue : Prop :=
  (∀ w ∈ [1, 2, 4, 8], ∀ a b : Nat, a < 2 ^ (8 * w) → b < 2 ^ (8 * w) → ∀ p : Cell,
    (elemFn .vadd w p [a, b] + 2 ^ (8 * w) * ((a + b) / 2 ^ (8 * w)) = a + b) ∧
    (elemFn .vadd w p [elemFn .vsub w p [a, b], b] = a) ∧
    elemFn .vaddus w p [a, b] = min (a + b) (2 ^ (8 * w) - 1) ∧ elemFn .vsubus w p [a, b] = a - b ∧
    sgn (elemFn .vadds w p [a, b]) (8 * w) =
      max (-(2 ^ (8 * w - 1) : Int)) (min (sgn a (8 * w) + sgn b (8 * w)) (2 ^ (8 * w - 1) - 1)) ∧
    sgn (elemFn .vsubs w p [a, b]) (8 * w) =
      max (-(2 ^ (8 * w - 1) : Int)) (min (sgn a (8 * w) - sgn b (8 * w)) (2 ^ (8 * w - 1) - 1)) ∧
    elemFn .vnot w p [elemFn .vnot w p [a]] = a ∧
    elemFn .vcmplt w p [a, b] = (if sgn a (8 * w) < sgn b (8 * w) then 2 ^ (8 * w) - 1 else 0) ∧
    elemFn .vror w p [elemFn .vrol w p [a]] = a ∧
    (8 * w ≤ p.toNat → elemFn .vshl w p [a] = 0 ∧ elemFn .vshr w p [a] = 0)) ∧
  (∀ w t a b : Nat, bfly true w t (bfly false w t a b).1 (bfly false w t a b).2 = (a, b) ∧
    bfly false w t (bfly true w t a b).1 (bfly true w t a b).2 = (a, b))

/-- For each of the 49 element instructions on a running spire context whose stack holds its parameter cells: where take-in accepts the operands, the cells leave the stack, the descriptors leave the stream stack, the group holds one more operation, PC goes on and nothing else changes; where it refuses them, the context records ISSUE with the reason and faults. For an operation with one source, take-in of two valid descriptors that are neither CHAIN nor INDEXED and have one legal width always makes a group of that one operation, with the source first. For every element width of 1, 2, 4 and 8 bytes and all elements: VADD and VSUB are the sum and difference modulo 2^bits; VADDUS and VSUBUS clamp at the unsigned ends, VADDS and VSUBS at the signed ends; VNOT undoes itself; VCMPLT gives all ones or zero by the signed comparison; VROL and VROR by one amount undo each other; a shift by the width or more gives 0. VBFLY followed by VIBFLY with the same twiddle gives back the pair, and so the other way round. -/
def Obligations.ElementInstructionsAndTheirValues : Prop := ElementInstructionsJoinTheGroup ∧ ElementOperationsComputeTheirValue

/-- On a running spire context: VDLD at a multiple of 32 replaces the address by the descriptor read there and VDST stores the top descriptor; VDDROP, VDDUP and VDSWAP rearrange the stream stack; VDGET pushes and VDSET replaces a field of the top descriptor, and a field written reads back as written; VLDC and VSTC read and write 8 bytes of memory, VCGET and VCPUT of the coefficient RAM while no group runs and its domain is on. Each goes on to the next instruction. While a group runs on the spire VCGET and VCPUT wait, and the wait is recorded. VDLD and VDST at another address fault ISSUE with 2, VDDROP on an empty stream stack with 1; the model's choices (log entry 77): VDST's alignment fault, and, with the domain off, VCGET pushing a free value and VCPUT storing nothing. -/
def Obligations.DescriptorAndCellInstructions : Prop :=
  (∀ (s : State) (n : Fin 8) (c : Fin 4) (op : DisOp) (p : Pfx) (rest : List Cell), spireRuns s n c op p vecPage .none 1 →
    rest.length ≤ 31 →
    (∀ (a : Cell) (t : State) (d : List Byte), (s.sc n c).win = a :: rest → (s.sc n c).descs.length < 8 → a.toNat % 32 = 0 →
      a.toNat < 2 ^ 48 → busRead s (sprId n) a.toNat 32 = (t, .ok (d, false)) →
      exec (.vdld op) s = .next (spOn t n c { t.sc n c with win := (t.sc n c).win.drop 1, descs := SDesc.ofBytes d :: (t.sc n c).descs }
        (spNext s n c op 1))) ∧
    (∀ (a : Cell) (t : State) (d : SDesc) (ds : List SDesc), (s.sc n c).win = a :: rest → (s.sc n c).descs = d :: ds →
      a.toNat % 32 = 0 → a.toNat < 2 ^ 48 → busWrite s (sprId n) a.toNat d.bytes = (t, none) →
      exec (.vdst op) s = .next (spOn t n c { t.sc n c with win := (t.sc n c).win.drop 1 } (spNext s n c op 1))) ∧
    (∀ (a : Cell), (s.sc n c).win = a :: rest → a.toNat % 32 ≠ 0 →
      ((s.sc n c).descs.length < 8 → exec (.vdld op) s = .next (spPrecise s n c cISSUE 2)) ∧
      ((s.sc n c).descs ≠ [] → exec (.vdst op) s = .next (spPrecise s n c cISSUE 2))) ∧
    (∀ (d : SDesc) (ds : List SDesc), (s.sc n c).descs = d :: ds →
      exec (.vddrop op) s = .next (spDone s n c { s.sc n c with descs := ds } (spNext s n c op 1)) ∧
      (ds.length < 7 → exec (.vddup op) s = .next (spDone s n c { s.sc n c with descs := d :: d :: ds } (spNext s n c op 1))) ∧
      (∀ e es, ds = e :: es → exec (.vdswap op) s = .next (spDone s n c { s.sc n c with descs := e :: d :: es } (spNext s n c op 1)))) ∧
    ((s.sc n c).descs = [] → exec (.vddrop op) s = .next (spPrecise s n c cISSUE 1)) ∧
    (∀ (a : Cell) (t : State) (d : List Byte), (s.sc n c).win = a :: rest → busyGroup (s.sc n c) = false → cellBad a.toNat = none →
      busRead s (sprId n) a.toNat 8 = (t, .ok (d, false)) →
      exec (.vldc op) s = .next (spOn t n c { t.sc n c with win := cell (ofLE d) :: (t.sc n c).win.drop 1 } (spNext s n c op 1))) ∧
    (∀ (a v : Cell) (t : State), (s.sc n c).win = a :: v :: rest → busyGroup (s.sc n c) = false → cellBad a.toNat = none →
      busWrite s (sprId n) a.toNat (leBytes 8 v.toNat) = (t, none) →
      exec (.vstc op) s = .next (spOn t n c { t.sc n c with win := (t.sc n c).win.drop 2 } (spNext s n c op 1))) ∧
    (∀ (a : Cell), (s.sc n c).win = a :: rest → a.toNat % 8 = 0 → a.toNat < 65536 →
      (∀ (t : State) (d : List Byte), (s.spire n).running = none → s.dom (pdSpd n.val) = true →
        coefWord s n (a.toNat / 8) 0 = (t, some d) → exec (.vcget op) s = .next (spOn t n c
          { t.sc n c with win := cell (ofLE d) :: (t.sc n c).win.drop 1, coefWait := false } (spNext s n c op 1))) ∧
      ((s.spire n).running = none → s.dom (pdSpd n.val) = false → exec (.vcget op) s = .next (spDone s.fresh.2 n c
          { s.sc n c with win := s.fresh.1 :: rest, coefWait := false } (spNext s n c op 1))) ∧
      ((s.spire n).running ≠ none → exec (.vcget op) s = .next (s.setSc n c { s.sc n c with coefWait := true }))) ∧
    (∀ (a v : Cell), (s.sc n c).win = a :: v :: rest → a.toNat % 8 = 0 → a.toNat < 65536 →
      ((s.spire n).running = none → s.dom (pdSpd n.val) = true →
        exec (.vcput op) s = .next (spDone ((s.setWordErr (coefKey n a.toNat / 8) 0).setBytes (coefKey n a.toNat) (leBytes 8 v.toNat)) n c
          { s.sc n c with win := rest, coefWait := false } (spNext s n c op 1))) ∧
      ((s.spire n).running = none → s.dom (pdSpd n.val) = false → exec (.vcput op) s =
        .next (spDone s n c { s.sc n c with win := rest, coefWait := false } (spNext s n c op 1))) ∧
      ((s.spire n).running ≠ none → exec (.vcput op) s = .next (s.setSc n c { s.sc n c with coefWait := true })))) ∧
  (∀ (s : State) (n : Fin 8) (c : Fin 4) (op : DisOp) (p : Pfx) (d : SDesc) (ds : List SDesc) (f : BitVec 8), f.toNat ≤ 9 →
    spireRuns s n c op p vecPage .none 2 → (s.sc n c).descs = d :: ds →
    ((s.sc n c).win.length ≤ 31 → exec (.vdget op f) s =
      .next (spDone s n c { s.sc n c with win := d.get f.toNat :: (s.sc n c).win } (spNext s n c op 2))) ∧
    (∀ v rest, (s.sc n c).win = v :: rest → rest.length ≤ 32 → exec (.vdset op f) s =
      .next (spDone s n c { s.sc n c with win := rest, descs := d.set f.toNat v :: ds } (spNext s n c op 2)))) ∧
  (∀ (d : SDesc) (v : Cell) (i j : Nat), i ≤ 9 → j ≤ 9 →
    (d.set i v).get i = (if i = 2 then cell (uns (sgn (v.toNat % 2 ^ 32) 32) 64) else cell (v.toNat % 2 ^ (fieldPlace i).2.2)) ∧
    (i ≠ j → (d.set i v).get j = d.get j)) ∧
  (∀ d : SDesc, SDesc.ofBytes d.bytes = d)

/-- On a running spire context: VGO of a sound group with none outstanding closes it and puts it last into the admission queue; while a group is outstanding VGO, VWAIT and VEND wait at their address; VWAIT of an ended group pushes its results in order, and of a halted one enters the handler with PC and the watermark pushed. VEND pops the completion cell and ends the context: SPR flag 4 + context for a program started by SPR_GO, the command's status and result for a queue command. VONF sets the handler; VFREC pushes a word of the fault record; VFDESC takes a descriptor of the image; VRESUME queues a group that restarts from 0 again. VMBRING and VMBWAIT write and take doorbell bits. -/
def Obligations.GroupsMailboxesAndHandlers : Prop :=
  ∀ (s : State) (n : Fin 8) (c : Fin 4) (op : DisOp) (p : Pfx),
    (spireRuns s n c op p vecPage .group 1 → (s.sc n c).win.length ≤ 32 →
      (∀ g, (s.sc n c).adm = .none → (s.sc n c).opened = some g → vgoBad g = none → ∃ t, exec (.vgo op) s = .next t ∧
        (t.spire n).queue = (s.spire n).queue ++ [(c, g)] ∧ t.mem = s.mem ∧ t.regs = s.regs ∧
        t.sc n c = { s.sc n c with st := .run, opened := none, adm := .queued, image := none, pc := spNext s n c op 1 }) ∧
      ((s.sc n c).adm = .queued ∨ (s.sc n c).adm = .running →
        exec (.vgo op) s = .next (s.setSc n c { s.sc n c with st := .gwait }) ∧
        exec (.vwait op) s = .next (s.setSc n c { s.sc n c with st := .gwait }) ∧
        exec (.vend op) s = .next (s.setSc n c { s.sc n c with st := .gwait })) ∧
      ((s.sc n c).adm = .none → exec (.vwait op) s = .next (spDone s n c (s.sc n c) (spNext s n c op 1))) ∧
      (∀ rs, (s.sc n c).adm = .ended rs → (s.sc n c).win.length + rs.length ≤ 32 → exec (.vwait op) s =
        .next (spDone s n c { s.sc n c with win := rs.reverse ++ (s.sc n c).win, adm := .none } (spNext s n c op 1))) ∧
      (∀ i, (s.sc n c).adm = .halted → (s.sc n c).image = some i → (s.sc n c).handler ≠ 0 → (s.sc n c).win.length ≤ 30 →
        ∃ t, exec (.vwait op) s = .next t ∧ (t.sc n c).pc = (s.sc n c).handler ∧ (t.sc n c).adm = .none ∧
          (t.sc n c).win = cell i.w :: cell (s.sc n c).pc.toNat :: (s.sc n c).win ∧ (t.sc n c).image = some i) ∧
      (∀ v rest, (s.sc n c).adm = .none → (s.sc n c).win = v :: rest → ∃ t, exec (.vend op) s = .next t ∧ (t.sc n c).st = .idle ∧
        (t.sc n c).status = byte (v.toNat % 256) ∧ (t.sc n c).win = rest ∧ (t.sc n c).opened = none ∧ (t.sc n c).ift = none ∧
        t.mem = s.mem ∧
        ((s.sc n c).ift = none → Regs.wf s = true → regBit (t.reg (sprPage n) oIrqRaw) (4 + c.val) = true) ∧
        (∀ i e, (s.sc n c).ift = some i → s.ift i = some e → e.st ≠ 2 → t.regs = s.regs ∧
          t.ift i = some { e with st := 2, status := vendStatus (v.toNat % 256), result := w32 (v.toNat / 256) }))) ∧
    (spireRuns s n c op p vecPage .none 1 →
      (∀ a rest, (s.sc n c).win = a :: rest → rest.length ≤ 31 →
        exec (.vonf op) s = .next (spDone s n c { s.sc n c with win := rest, handler := BitVec.ofNat 48 a.toNat } (spNext s n c op 1)) ∧
        (a.toNat ≤ 7 → exec (.vfrec op) s =
          .next (spDone s n c { s.sc n c with win := cell (spctxRead (s.sc n c) (0x20 + 4 * a.toNat)).toNat :: rest } (spNext s n c op 1))) ∧
        (∀ i d, (s.sc n c).image = some i → i.group.descs[a.toNat]? = some d → (s.sc n c).descs.length < 8 →
          exec (.vfdesc op) s = .next (spDone s n c { s.sc n c with win := rest, descs := d :: (s.sc n c).descs } (spNext s n c op 1))) ∧
        (∀ i, (s.sc n c).image = some i → (s.sc n c).adm = .none → a = 0 → i.group.restart0 = true → 0 < i.group.n →
          ∃ t, exec (.vresume op) s = .next t ∧ (t.spire n).queue = (s.spire n).queue ++ [(c, i.group)] ∧ (t.sc n c).adm = .queued ∧
            (t.sc n c).opened = (s.sc n c).opened ∧ (t.sc n c).win = rest ∧ (t.sc n c).image = none ∧
            (t.sc n c).pc = spNext s n c op 1 ∧ t.mem = s.mem)) ∧
      (∀ (a v : Cell) rest t, (s.sc n c).win = a :: v :: rest → rest.length ≤ 32 → a.toNat < 64 →
        busWrite s (sprId n) (regAddr (mbPage a.toNat) (mbOff a.toNat + 0x20)) (leBytes 4 (v.toNat % 2 ^ 31)) = (t, none) →
        exec (.vmbring op) s = .next (spOn t n c { t.sc n c with win := (t.sc n c).win.drop 2 } (spNext s n c op 1)))) ∧
    (spireRuns s n c op p vecPage .mailbox 1 → ∀ (a m : Cell) rest, (s.sc n c).win = a :: m :: rest → rest.length ≤ 31 →
      (m.toNat % 2 ^ 32 = 0 → exec (.vmbwait op) s = .next (spDone s n c { s.sc n c with win := 0 :: rest } (spNext s n c op 1))) ∧
      (∀ t d q, m.toNat % 2 ^ 32 ≠ 0 → a.toNat < 64 →
        busRead (s.setSc n c { s.sc n c with st := .run }) (sprId n) (regAddr (mbPage a.toNat) (mbOff a.toNat + 0x24)) 4 =
          (t, .ok (d, q)) →
        (ofLE d &&& (m.toNat % 2 ^ 32) = 0 → exec (.vmbwait op) s = .next (t.setSc n c { t.sc n c with st := .mwait })) ∧
        (∀ u, ofLE d &&& (m.toNat % 2 ^ 32) ≠ 0 → busWrite t (sprId n) (regAddr (mbPage a.toNat) (mbOff a.toNat + 0x24))
            (leBytes 4 (ofLE d &&& (m.toNat % 2 ^ 32))) = (u, none) →
          exec (.vmbwait op) s = .next (spOn u n c { u.sc n c with
            win := cell (ofLE d &&& (m.toNat % 2 ^ 32)) :: (u.sc n c).win.drop 2 } (spNext s n c op 1)))))

/-- On an SPR page whose domain is on: GO starts an idle context of firmware at CPC with both arguments on its stack; STOP ends it with status 7, or, while its group is outstanding, once that ends; SRST returns every context to its reset state and keeps the control store; PINV empties the program buffer. PROGRAM_FETCH brings a missing line. GROUP_ADMIT takes the oldest queued group when none runs and no VCGET or VCPUT waits; a GROUP_STEP without faults advances it by one step and does its stores, in memory or, for VCLD, in the coefficient RAM; a step whose operations fault halts it; GROUP_COMPLETE writes the transform states back, hands results and marks to its context, counts it and frees the datapath; GROUP_HALT records the fault and frees it. FENCED_SET marks a fenced quiet spire. -/
def Obligations.SpiresStartStopAndRunGroups : Prop :=
  (∀ (s : State) (id : MasterId) (n : Fin 8) (c : Fin 4), s.issues id = true → s.pageOn (sprPage n) = true → s.qeCtx n c = false →
    ((s.sc n c).st = .idle → s.csOk n = true → s.spireFenced n = false → ∃ t, exec (.sprGo id n c) s = .next t ∧ t.resp = .done ∧
      t = { s.setSc n c (t.sc n c) with resp := .done } ∧ (t.sc n c).st = .run ∧ (t.sc n c).pc = (s.sc n c).cpc ∧
      (t.sc n c).win = [(s.sc n c).arg1, (s.sc n c).arg0] ∧ (t.sc n c).descs = [] ∧ (t.sc n c).opened = none ∧ (t.sc n c).ift = none) ∧
    ((s.sc n c).st ≠ .idle → (s.sc n c).st ≠ .fault → (s.sc n c).adm = .queued ∨ (s.sc n c).adm = .running →
      exec (.sprStop id n c) s = .next { s.setSc n c { s.sc n c with stop := true, coefWait := false } with resp := .done }) ∧
    ((s.sc n c).st ≠ .idle → (s.sc n c).st ≠ .fault → (s.sc n c).adm ≠ .queued → (s.sc n c).adm ≠ .running → (s.sc n c).ift = none →
      Regs.wf s = true → ∃ t, exec (.sprStop id n c) s = .next t ∧
      (t.sc n c).st = .idle ∧ (t.sc n c).status = 7 ∧ regBit (t.reg (sprPage n) oIrqRaw) (4 + c.val) = true ∧ t.mem = s.mem) ∧
    ((s.sc n c).st = .fault → ∃ t, exec (.sprStop id n c) s = .next t ∧ (t.sc n c).st = .idle ∧ (t.sc n c).finfo = (s.sc n c).finfo ∧
      t.regs = s.regs ∧ t.mem = s.mem)) ∧
  (∀ (s : State) (id : MasterId) (n : Fin 8), s.issues id = true → s.custodyOf id = true → s.pageOn (sprPage n) = true →
    regBit (s.reg (sprPage n) oCtl) 0 = true →
    (∃ t, exec (.spireReset id n) s = .next t ∧ t.resp = .done ∧ (t.spire n).running = none ∧ (t.spire n).queue = [] ∧
      (∀ c, t.sc n c = {}) ∧ (t.spire n).cstore = (s.spire n).cstore ∧ (t.spire n).pbuf = []) ∧
    exec (.pinv id n) s = .next { (s.setReg (sprPage n) oCtl (s.reg (sprPage n) oCtl &&& 3)).setSpire n { s.spire n with pbuf := [] }
      with resp := .done }) ∧
  (∀ (s : State) (n : Fin 8) (c : Fin 4) (t : State) (d : List Byte), seqRuns s n = true → progOn s (s.sc n c) = true →
    (s.sc n c).st = .run → (s.spire n).pbuf.any (fun l => l.addr == (s.sc n c).pc.toNat / 64 * 64) = false →
    textPlace (s.sc n c).pc.toNat = true → busRead s (sprId n) ((s.sc n c).pc.toNat / 64 * 64) 64 = (t, .ok (d, false)) →
    (t.spire n).pbuf.length < 256 → exec (.programFetch n c) s = .next (t.setSpire n { t.spire n with
      pbuf := ⟨(s.sc n c).pc.toNat / 64 * 64, d⟩ :: (t.spire n).pbuf })) ∧
  (∀ (s : State) (n : Fin 8), s.spdOn n = true →
    (∀ c g q, (s.spire n).running = none → s.coefHeld n = false → (s.spire n).queue = (c, g) :: q → ∃ t, exec (.groupAdmit n) s = .next t ∧
      (t.spire n).running = some { ctx := c, group := g } ∧ (t.spire n).queue = q ∧ t.sc n c = { s.sc n c with adm := .running } ∧
      t.mem = s.mem ∧ t.regs = s.regs) ∧
    ((s.spire n).running ≠ none ∨ s.coefHeld n = true ∨ (s.spire n).queue = [] → exec (.groupAdmit n) s = .next s) ∧
    (∀ r o xs f, (s.spire n).running = some r → r.halt = none → r.step * r.group.e < r.group.n → r.group.store = none →
      stepFull (groupCounters s n) n r = (o, xs) → lowestFault o.faults = some f →
      exec (.groupStep n) s = .next (haltAt o.s n { r with marks := r.marks ++ o.marks } f o.hole)) ∧
    (∀ r o xs i op d, (s.spire n).running = some r → r.halt = none → r.step * r.group.e < r.group.n →
      r.group.store = some (i, op, d) → op.op = .vcld → stepFull (groupCounters s n) n r = (o, xs) → o.faults = [] →
      exec (.groupStep n) s = .next ((xs.foldl (fun t x => coefWrite t n x.2.1 x.2.2) o.s).setRun n
        (some { r with step := r.step + 1, runs := o.runs, marks := r.marks ++ o.marks }))) ∧
    (∀ r o, (s.spire n).running = some r → r.halt = none → r.step * r.group.e < r.group.n → r.group.store = none →
      stepFull (groupCounters s n) n r = (o, []) → o.faults = [] → exec (.groupStep n) s =
        .next (o.s.setRun n (some { r with step := r.step + 1, runs := o.runs, marks := r.marks ++ o.marks }))) ∧
    (∀ r o xs i op d, (s.spire n).running = some r → r.halt = none → r.step * r.group.e < r.group.n →
      r.group.store = some (i, op, d) → op.op ≠ .vcld → stepFull (groupCounters s n) n r = (o, xs) → o.faults = [] →
      storeFaults o.s n r.group i d xs = [] → ∃ t q, exec (.groupStep n) s = .next t ∧ (t.spire n).running = some q ∧
        q.step = r.step + 1 ∧ q.group = r.group ∧ q.halt = none ∧ q.runs = o.runs ∧ q.marks = r.marks ++ o.marks ∧
        t.mem = (doWrites o.s n r.step r.recent (stepWrites xs)).1.mem) ∧
    (∀ r, (s.spire n).running = some r → r.halt = none → r.group.n ≤ r.step * r.group.e →
      (s.sc n r.ctx).adm = .running → (s.sc n r.ctx).stop = false → exec (.groupComplete n) s =
        .next ((((writeBack s n (r.group.ops.zip r.runs)).setReg (sprPage n) 0x108 (s.reg (sprPage n) 0x108 + 1)).setRun n none).setSc n r.ctx
          { addMarks (s.sc n r.ctx) r.marks with adm := .ended (groupResults r) })) ∧
    (∀ r f w, (s.spire n).running = some r → r.halt = some (f, w) → (s.sc n r.ctx).adm = .running → (s.sc n r.ctx).stop = false →
      f.cause < 32 → f.stream < 4 → f.opn < 8 → ∃ t, exec (.groupHalt n) s = .next t ∧ (t.spire n).running = none ∧ t.mem = s.mem ∧
        t.regs = s.regs ∧ (t.sc n r.ctx).adm = .halted ∧ (t.sc n r.ctx).image = some { group := r.group, w := w } ∧
        (t.sc n r.ctx).fpc = r.group.pc ∧ (t.sc n r.ctx).fe = w32 f.e ∧ (t.sc n r.ctx).fw = w32 w ∧
        regFld (t.sc n r.ctx).finfo 26 5 = f.cause ∧ regFld (t.sc n r.ctx).finfo 24 2 = f.stream ∧
        regFld (t.sc n r.ctx).finfo 21 3 = f.opn)) ∧
  (∀ (s : State) (n : Fin 8), s.spireFenced n = true → Regs.wf s = true → (∀ c, (s.sc n c).st = .idle ∨ (s.sc n c).st = .fault) → (s.spire n).queue = [] →
    (s.spire n).running = none → regBit (s.reg (sprPage n) oStat) 2 = false → ∃ t, exec (.fencedSet n) s = .next t ∧
      regBit (t.reg (sprPage n) oStat) 2 = true ∧ regBit (t.reg (sprPage n) oIrqRaw) 10 = true ∧ t.spires = s.spires ∧ t.mem = s.mem)

/-- The bank of queue context `q` is on and its eight words have no error. -/
def cleanCtx (s : State) (q : Nat) : Prop :=
  errsWf s ∧ (∃ b, bankOf (ctxAddr q) = some (1, b) ∧ s.bankSt 1 b = 1 ∧ sget (s.scr 1).filling b 0 = 0) ∧
    ∀ k < 8, sget s.wordErr (ctxAddr q / 8 + k) {} = {}
/-- The completion of a command that ran under in-flight entry `i` (R255). -/
def ownCompletion (e : IftEnt) (i : Nat) : Comp :=
  { seq := e.seq, sqidx := e.sqidx, status := e.status, orig := e.status, result := e.result, ift := i, nr := e.nr }

/-- For every identity that issues transactions: QUEUE_CONTEXT_WRITE of a whole readable context is stored where R251 and R252 allow it and otherwise answers BINDING and changes nothing else; ECOMMIT swaps the halves of an entry and empties every program buffer, and entries 0x0A and 0x0B answer ACCESS; TENANT_TABLE_WRITE stores the 28 bits unless it changes the TENANT of a slot an enabled queue is bound to; SQ_DOORBELL and CQ_DOORBELL move SQTAIL and CQHEAD of the writer's selected queue, an index off the ring is discarded with DBERR (bit 0), and a disabled queue answers BINDING. -/
def Obligations.QueueRegistersAndContexts : Prop :=
  (∀ (s : State) (id : MasterId) (q : BitVec 18) (d : List Byte), s.issues id = true → d.length = 64 → Memory.wf s = true →
    cleanCtx s q.toNat →
    (ctxRefused s q.toNat (s.ctxRaw q.toNat) (ctxOf d) = false → ∃ t, exec (.queueContextWrite id q 0 d {}) s = .next t ∧ t.resp = .done ∧
      t.ctxRaw q.toNat = ctxOf d ∧ t.regs = s.regs ∧
      ∀ a, a < ctxAddr q.toNat ∨ ctxAddr q.toNat + 64 ≤ a → t.byteAt a = s.byteAt a) ∧
    (ctxRefused s q.toNat (s.ctxRaw q.toNat) (ctxOf d) = true → exec (.queueContextWrite id q 0 d {}) s =
      .next { s.berr id (ctxAddr q.toNat) true .binding with resp := .err .binding })) ∧
  (∀ (s : State) (id : MasterId) (e : Byte) (v : Word32), s.issues id = true → Regs.wf s = true →
    (e.toNat ≠ 0x0A → e.toNat ≠ 0x0B → regBit v 0 = true → ∃ t, exec (.ecommit id e v) s = .next t ∧ t.resp = .done ∧
      t.sptHalf e.toNat = !(s.sptHalf e.toNat) ∧ (∀ n, (t.spire n).pbuf = []) ∧ t.mem = s.mem ∧
      (∀ n c, t.sc n c = s.sc n c)) ∧
    (e.toNat ≠ 0x0A → e.toNat ≠ 0x0B → regBit v 0 = false → exec (.ecommit id e v) s = .next { s with resp := .done }) ∧
    (e.toNat = 0x0A ∨ e.toNat = 0x0B → exec (.ecommit id e v) s = .next
      { s.berr id (regAddr (sptPage e.toNat) (sptOff e.toNat + 0x24)) true .access with resp := .err .access })) ∧
  (∀ (s : State) (id : MasterId) (t : BitVec 12) (v : Word32), s.issues id = true →
    (regFld v 8 20 = regFld (s.tenant t.toNat) 8 20 ∨ slotBound s t.toNat = false → ∃ w, exec (.tenantTableWrite id t v) s =
      .next { s.setReg (0x130 + t.toNat / 512) (0x100 + t.toNat % 512 * 4) w with resp := .done } ∧
      regFld w 0 28 = regFld v 0 28 ∧ regFld w 28 4 = regFld (s.tenant t.toNat) 28 4) ∧
    (regFld v 8 20 ≠ regFld (s.tenant t.toNat) 8 20 → slotBound s t.toNat = true → exec (.tenantTableWrite id t v) s =
      .next { s.berr id (regAddr (0x130 + t.toNat / 512) (0x100 + t.toNat % 512 * 4)) true .binding with resp := .err .binding })) ∧
  (∀ (s : State) (id : MasterId) (v : Word32) (c : QCtx), s.issues id = true → ctxRead s (sget s.qe.dbsel id.val 0) = (s, .ok c) →
    (qf c qEN = 0 → exec (.sqDoorbell id v) s = .next { s.berr id (regAddr 0x120 0x104) true .binding with resp := .err .binding } ∧
      exec (.cqDoorbell id v) s = .next { s.berr id (regAddr 0x120 0x108) true .binding with resp := .err .binding }) ∧
    (qf c qEN = 1 → regFld v 0 16 < 2 ^ qf c qSQLOG → exec (.sqDoorbell id v) s =
      .next { ctxStore s (sget s.qe.dbsel id.val 0) (qset c qSQTAIL (regFld v 0 16)) with resp := .done }) ∧
    (qf c qEN = 1 → 2 ^ qf c qSQLOG ≤ regFld v 0 16 → exec (.sqDoorbell id v) s = .next { s.irqBit 0x120 0 with resp := .done }) ∧
    (qf c qEN = 1 → qf c qCQHEAD ≤ regFld v 0 16 → regFld v 0 16 ≤ qf c qCQTAIL → qf c qCQTAIL < 2 ^ qf c qCQLOG →
      exec (.cqDoorbell id v) s =
        .next { ctxStore s (sget s.qe.dbsel id.val 0) (qset c qCQHEAD (regFld v 0 16)) with resp := .done }) ∧
    (qf c qEN = 1 → qf c qCQHEAD ≤ qf c qCQTAIL → qf c qCQTAIL < regFld v 0 16 → regFld v 0 16 < 2 ^ qf c qCQLOG →
      exec (.cqDoorbell id v) s = .next { s.irqBit 0x120 0 with resp := .done }))

/-- SUBMISSION_INTAKE of a queue that is ready: in a fenced device, or with a foreign CLIENT, the submission completes at once; one without replay check whose entry exists is held; one behind the window completes DUP with STALE; a new one in the window sets its WMAP bit and is held. A queue that is not ready is left alone. The scheduler selects whenever some held command is eligible, and always from the lowest class number; SCHEDULER_SELECTION allocates an in-flight entry with the command's identity, copies the submission into its parameter block, counts INFL and, for a vendor or operator program, starts the chosen spire's context with the entry. COMPLETION_WRITE writes the cache slot, the entry at CQTAIL, then the context, signals EVSEL, and only then sends a PUT's drive writes and retires its journal record. -/
def Obligations.CommandsAreTakenInAndScheduled : Prop :=
  (∀ (s t : State) (q : BitVec 18) (c : QCtx) (b : List Byte), ctxRead s q.toNat = (s, .ok c) →
    (intakeReady s q.toNat c = false → exec (.submissionIntake q {}) s = .next s) ∧
    (intakeReady s q.toNat c = true → memRead s (qf c qSQADDR + qf c qSQHEAD * 64) 64 {} = (t, .ok (b, false)) →
      (t.fence = true → exec (.submissionIntake q {}) s = .next (complete (ctxStore t q.toNat (advHead c)) q.toNat
        (formed (w32 (leAt b 4 4)) (qf c qSQHEAD) 6 (bit (leAt b 1 1) 0)) none false)) ∧
      (t.fence = false → leAt b 8 6 ≠ qf c qCLIENT → exec (.submissionIntake q {}) s =
        .next (complete (ctxStore t q.toNat (advHead c)) q.toNat
          (formed (w32 (leAt b 4 4)) (qf c qSQHEAD) 3 (bit (leAt b 1 1) 0)) none false)) ∧
      (t.fence = false → leAt b 8 6 = qf c qCLIENT → subReserved b = true →
        (bit (leAt b 1 1) 0 = true → intakeStatus t b = none → exec (.submissionIntake q {}) s = .next { t with
          qe := { t.qe with held := sput t.qe.held q.toNat (some { slot := qf (t.ctxRaw q.toNat) qSQHEAD, data := b }) none } }) ∧
        (bit (leAt b 1 1) 0 = false → 2 ^ 31 ≤ seqDist (leAt b 4 4) (qf c qWBASE) → exec (.submissionIntake q {}) s =
          .next ((complete (ctxStore t q.toNat (advHead c)) q.toNat
            { formed (w32 (leAt b 4 4)) (qf c qSQHEAD) 1 false with stale := true } none false).bumpReg 0x120 0x138)) ∧
        (bit (leAt b 1 1) 0 = false → seqDist (leAt b 4 4) (qf c qWBASE) < 64 →
          bit (qf c qWMAP) (seqDist (leAt b 4 4) (qf c qWBASE)) = false → t.paired = false → intakeStatus t b = none → Memory.wf t = true →
          ∃ u, exec (.submissionIntake q {}) s = .next u ∧ u.regs = t.regs ∧
            u.ctxRaw q.toNat = qset c qWMAP (qf c qWMAP + 2 ^ seqDist (leAt b 4 4) (qf c qWBASE)) ∧
            u.qe.held = sput t.qe.held q.toNat (some { slot := qf c qSQHEAD, data := b }) none)))) ∧
  (∀ s : State, (eligibles s ≠ [] → selectQueue s ≠ none) ∧ ∀ q e, selectQueue s = some (q, e) →
    q ∈ eligibles s ∧ ∀ p ∈ eligibles s, qClass s q ≤ qClass s p) ∧
  (∀ (s t : State) (q : BitVec 18) (e : Qe) (h : Held) (c : QCtx) (n i : Nat), s.qeOn = true → selectQueue s = some (q.toNat, e) →
    sget s.qe.held q.toNat none = some h → ctxRead { s with qe := e } q.toNat = (t, .ok c) → subEntry h.data = some n →
    t.sptEmpty n = false → freeIft t = some i → Memory.wf t = true → h.data.length = 64 →
    ∃ u x, exec .schedulerSelection s = .next u ∧ u.ift i = some x ∧ x.st = 0 ∧ x.qid = q.toNat ∧ x.seq = w32 (leAt h.data 4 4) ∧
      x.opcode = leAt h.data 0 1 ∧ x.sqidx = h.slot ∧ x.entry = n ∧ x.half = t.sptHalf n ∧
      u.bytes (parmBase + i * 64) 64 = h.data ∧
      u.ctxRaw q.toNat = qset (advHead (t.ctxRaw q.toNat)) qINFL (qf (t.ctxRaw q.toNat) qINFL + 1) ∧
      (subEngine h.data = false → ∀ m, pickSpire t = some m → u.sc m (pickCtx t m) = { t.sc m (pickCtx t m) with
        st := .run, pc := BitVec.ofNat 48 (t.sptAddr n (t.sptHalf n)),
        win := [cell i, cell (t.sptArg n (t.sptHalf n)), cell (parmBase + i * 64)],
        rc := 0, flags := 0, descs := [], opened := none, adm := .none, handler := 0, image := none, finfo := 0x03E00000, fpc := 0, fe := 0,
        fw := 0, fmlow := 0, fuser := 0, faux := 0, stop := false, coefWait := false, vwait := none, ift := some i })) ∧
  (∀ (s t u : State) (i : BitVec 13) (e : IftEnt) (x y : QCtx), s.ift i.toNat = some e → e.st = 2 → e.drop = false → e.nr = false →
    s.qe.waits = [] → s.paired = false → s.ctxRaw e.qid = x → ctxRead s e.qid = (s, .ok x) →
    qeWrite s (qf x qRCADDR + e.seq.toNat % 64 * 16) (compBytes (ownCompletion e i.toNat) true) = (t, true) → t.paired = false → ctxRead t e.qid = (t, .ok y) →
    qeWrite t (qf y qCQADDR + qf y qCQTAIL * 16) (compBytes (ownCompletion e i.toNat) (qf y qCQPHASE == 1)) = (u, true) →
    exec (.completionWrite i) s = .next (entryGo (
      let v := lineSet (freeEntry (ctxStore u e.qid (ctxCompleted (u.ctxRaw e.qid) e.status true)) (some i.toNat)) (qf y qEVSEL)
      match e.rest with | some r => putRest v r | none => v))) ∧
  (∀ (s : State) (i : BitVec 13), s.ift i.toNat = none → exec (.completionWrite i) s = .next (entryGo s))

/-- For the nine vendor commands: on a started context whose in-flight entry is its command, the program's effects happen in order up to its next wait, which the context keeps, or to its end; then the context ends with the status the program gives, or OK, and a result word that the manual leaves open (log entry 3). GET, PUT, VERIFY and SCRUB with OFF other than 0 end with PARAM, having read nothing but the parameter block. PROG starts its operator program. SPIN and FLUSH with a parameter that must be 0 end with PARAM; FLUSH of a set that is not ready ends with OK, and one of a ready set gives each member that is up the drive command; a SPIN that its set takes up leaves the command running, and one answered at once ends with the answer. -/
def Obligations.StripeCommandsEndWithTheirStatus : Prop :=
  (∀ r ∈ ([(.get, 1, vGet), (.put, 2, vPut), (.encode, 3, vEncode), (.recon, 4, vRecon), (.verify, 5, vVerify false),
      (.scrub, 6, vVerify true), (.accumOut, 7, vAccumOut), (.accumIn, 8, vAccumIn), (.transcode, 9, vTranscode)] :
        List ((Fin 8 → Fin 4 → StripeIo → Instr) × Nat × (VEnv → VM VOut))),
    ∀ (s : State) (n : Fin 8) (c : Fin 4) (io : StripeIo) (i : Nat) (e : IftEnt), seqRuns s n = true →
      (s.sc n c).st = .run ∨ (s.sc n c).st = .gwait ∨ (s.sc n c).st = .mwait →
      (s.sc n c).ift = some i → i < 8192 → s.ift i = some e → e.opcode = r.2.1 → e.st ≠ 2 →
      ∃ res t, (r.2.2 { n := n, c := c, i := i, ent := e, io := io, wait := (s.sc n c).vwait }).run (s.setIft i (some { e with st := 1 })) =
          (res, t) ∧
        (∀ w, res = .ok (some w) → exec (r.1 n c io) s = .next (t.setSc n c { t.sc n c with
          vwait := some w, st := match w with | .hand _ => .mwait | _ => .run })) ∧
        (res = .ok none → exec (r.1 n c io) s = .next (spEnd t.fresh.2 n c 0 (w32 t.fresh.1.toNat))) ∧
        (∀ st, res = .error st → exec (r.1 n c io) s = .next (spEnd t.fresh.2 n c st (w32 t.fresh.1.toNat)))) ∧
  (∀ r ∈ ([(.get, 1), (.put, 2), (.verify, 5), (.scrub, 6)] : List ((Fin 8 → Fin 4 → StripeIo → Instr) × Nat)),
    ∀ (s t : State) (n : Fin 8) (c : Fin 4) (io : StripeIo) (i : Nat) (e : IftEnt) (b : List Byte), seqRuns s n = true →
      (s.sc n c).st = .run → (s.sc n c).ift = some i → i < 8192 → s.ift i = some e → e.opcode = r.2 → e.st ≠ 2 →
      busRead (s.setIft i (some { e with st := 1 })) (sprId n) (parmBase + i * 64) 64 = (t, .ok (b, false)) → leAt b 32 8 ≠ 0 →
      (t.sc n c).ift = some i → t.ift i = some { e with st := 1 } →
      ∃ u x, exec (r.1 n c io) s = .next u ∧ (u.sc n c).st = .idle ∧ (u.sc n c).status = 3 ∧ u.mem = t.mem ∧ u.out = t.out ∧
        u.regs = t.regs ∧ u.ift i = some { e with st := 2, status := 3, result := x }) ∧
  (∀ (s : State) (n : Fin 8) (c : Fin 4) (i : Nat) (e : IftEnt), seqRuns s n = true → (s.sc n c).ift = some i → s.ift i = some e →
    e.st = 0 → exec (.prog n c) s = .next (s.setIft i (some { e with st := 1 }))) ∧
  (∀ (s : State) (i : BitVec 13) (e : IftEnt), s.ift i.toNat = some e → e.engine = true → e.st = 0 →
    (e.opcode = 0x0A → onlyAux0 s i.toNat = false → exec (.spin i) s =
      .next (s.setIft i.toNat (some { e with st := 2, status := 3, result := 0 }))) ∧
    (e.opcode = 0x0A → onlyAux0 s i.toNat = true → e.aux0.toNat < 64 ∨ (256 ≤ e.aux0.toNat ∧ e.aux0.toNat < 320) →
      (s.members (e.aux0.toNat % 64) = [] → exec (.spin i) s =
        .next (s.setIft i.toNat (some { e with st := 2, status := 0, result := 0 }))) ∧
      (∀ t st, spinRequest s (e.aux0.toNat % 64) (decide (256 ≤ e.aux0.toNat)) = (t, some st) → t.ift i.toNat = some e →
        exec (.spin i) s = .next (t.setIft i.toNat (some { e with st := 2, status := st, result := 0 }))) ∧
      (∀ t, spinRequest s (e.aux0.toNat % 64) (decide (256 ≤ e.aux0.toNat)) = (t, none) → t.ift i.toNat = some e →
        exec (.spin i) s = .next (t.setIft i.toNat (some { e with st := 1 })))) ∧
    (e.opcode = 0x0B → onlyAux0 s i.toNat = false → exec (.flush i) s =
      .next (s.setIft i.toNat (some { e with st := 2, status := 3, result := 0 }))) ∧
    (e.opcode = 0x0B → onlyAux0 s i.toNat = true → e.aux0.toNat < 64 → s.ready e.aux0.toNat = false → exec (.flush i) s =
      .next (s.setIft i.toNat (some { e with st := 2, status := 0, result := 0 }))) ∧
    (e.opcode = 0x0B → onlyAux0 s i.toNat = true → e.aux0.toNat < 64 → s.ready e.aux0.toNat = true → ∀ p l,
      (s.liveMembers e.aux0.toNat).filter s.portUp = p :: l → ∃ t, exec (.flush i) s = .next t ∧
        t.ift i.toNat = some { e with st := 1 } ∧ t.pwr.ops = s.pwr.ops ++ (p :: l).map fun x => (x, .flush i.toNat)))

/-- Address of slot HEAD of a ring. -/
def headSlot (s : State) (r : Fin 48) : Nat := s.ringBase r.val + s.ringHead r.val * 64
/-- A command of the device itself may be sent: its port is up with a free tag, and no preempt goes before it (R277, R293). -/
def canSend (s : State) (o : Nat × DSrc) : Bool :=
  (o.2 == .preempt || !(s.pwr.ops.contains (o.1, .preempt))) && (s.portUp o.1 && tagFree s o.1)
/-- The device after it has sent `src` on port `p`, `ops` still waiting. -/
def sentOp (s : State) (ops : List (Nat × DSrc)) (p : Nat) (src : DSrc) (cdb data : List Byte) : State :=
  sendReq { s with pwr := { s.pwr with ops := ops } } p { src := src, cdb := cdb } data
/-- The request of a slot as it takes a tag. -/
def slotReq (r : Fin 48) (addr : Nat) (b : List Byte) : DReq :=
  { src := .ring r.val addr, cdb := b.take 16, buf := leAt b 16 6, len := leAt b 24 4, w6 := cell (leAt b 48 8) }

/-- For each of the 16 ring commands, on an enabled ring whose slot at HEAD is submitted: a refused one ends REFUSED; with that command, one on a set that is not ready waits, or ends NOTREADY; one on a port that is down ends LINK; one without a free tag waits; otherwise it starts: OWNER 2, HEAD advances, the request takes a tag and the CDB leaves (on a SATA port its translation), with its data for a write, or ends DMAERR where its data cannot be read. RESID then is LEN. With the ring off nothing happens. An answer, or a timeout, frees the tag and writes the slot. START STOP UNIT (of the power master), PERSISTENT RESERVE OUT, FLUSH's SYNCHRONIZE CACHE and PWR's probes take a free tag of a port that is up, after a waiting preempt. SASP_RBASE and SASP_FCTL act as R294 and R292 say. -/
def Obligations.DriveRequestsRunFromTheirRings : Prop :=
  (∀ x ∈ ([(.read16, 0x88, none), (.write16, 0x8A, none), (.logSense, 0x4D, none), (.modeSense10, 0x5A, none), (.modeSelect10, 0x55, none),
   (.persistentReserveIn, 0x5E, none), (.reportZones, 0x95, some 0), (.closeZone, 0x94, some 1), (.finishZone, 0x94, some 2),
   (.openZone, 0x94, some 3), (.resetWritePointer, 0x94, some 4), (fun r => .inquiry (.ring r), 0x12, none),
   (fun r => .reportLuns (.ring r), 0xA0, none), (fun r => .testUnitReady (.ring r), 0x00, none),
   (fun r => .requestSense (.ring r), 0x03, none), (fun r => .synchronizeCache16 (.ring r), 0x91, none)] :
      List ((Fin 48 → Instr) × Nat × Option Nat)), ∀ (s t : State) (r : Fin 48) (b : List Byte),
    (s.ringOn r.val = false → exec (x.1 r) s = .next s) ∧
    (s.ringOn r.val = true → dmaRead s 17 (headSlot s r) 64 = (t, .ok (b, false)) → leAt b 56 1 = 1 → drbRefused t b = true →
      exec (x.1 r) s = .next (slotDone (slotStart t r.val (headSlot s r) b) (headSlot s r) (leAt b 48 8)
        (noBytes (b.take 16) (leAt b 24 4)) 5)) ∧
    (s.ringOn r.val = true → dmaRead s 17 (headSlot s r) 64 = (t, .ok (b, false)) → leAt b 56 1 = 1 → leAt b 0 1 = x.2.1 →
      (∀ a, x.2.2 = some a → leAt b 1 1 % 32 = a) →
      (drbRefused t b = false → flagReady t (leAt b 28 1) = false → exec (x.1 r) s =
        .next (if bit (leAt b 24 8) 40 then t else slotDone (slotStart t r.val (headSlot s r) b) (headSlot s r) (leAt b 48 8)
          (noBytes (b.take 16) (leAt b 24 4)) 8)) ∧
      (drbRefused t b = false → flagReady t (leAt b 28 1) = true → t.portUp (leAt b 28 1) = false → exec (x.1 r) s =
        .next (slotDone (slotStart t r.val (headSlot s r) b) (headSlot s r) (leAt b 48 8) (noBytes (b.take 16) (leAt b 24 4)) 4)) ∧
      (drbRefused t b = false → flagReady t (leAt b 28 1) = true → t.portUp (leAt b 28 1) = true →
        tagFree t (leAt b 28 1) = false ∨ opsWaiting t (leAt b 28 1) = true → exec (x.1 r) s = .next t) ∧
      (drbRefused t b = false → flagReady t (leAt b 28 1) = true → t.portUp (leAt b 28 1) = true → tagFree t (leAt b 28 1) = true →
        opsWaiting t (leAt b 28 1) = false →
        (x.2.1 ≠ 0x8A → x.2.1 ≠ 0x55 → exec (x.1 r) s =
          .next (sendReq (slotStart t r.val (headSlot s r) b) (leAt b 28 1) (slotReq r (headSlot s r) b) [])) ∧
        (∀ u d, x.2.1 = 0x8A ∨ x.2.1 = 0x55 →
          dmaRead (slotStart t r.val (headSlot s r) b) (dataId (leAt b 28 1)) (leAt b 16 6) (leAt b 24 4) = (u, .ok (d, false)) →
          exec (x.1 r) s = .next (sendReq u (leAt b 28 1) (slotReq r (headSlot s r) b) d)) ∧
        (∀ u e, x.2.1 = 0x8A ∨ x.2.1 = 0x55 →
          dmaRead (slotStart t r.val (headSlot s r) b) (dataId (leAt b 28 1)) (leAt b 16 6) (leAt b 24 4) = (u, e) →
          (∀ d, e ≠ .ok (d, false)) → exec (x.1 r) s = .next (slotDone u (headSlot s r) (leAt b 48 8) (leAt b 24 4) 7))))) ∧
  (∀ x ∈ ([(.inquiry, 0x12), (.reportLuns, 0xA0), (.requestSense, 0x03)] : List ((DriveFrom → Instr) × Nat)),
    ∀ (s : State) (p : Fin 240), canSend s (p.val, .probe) = true → (s.port p.val).rate ≠ 3 ∨ sataMay x.2 = true → exec (x.1 (.own p)) s =
      .next (sendReq s p.val { src := .probe, cdb := byte x.2 :: List.replicate 15 0 } [])) ∧
  (∀ (s : State) (p : Fin 240) (pre post : List (Nat × DSrc)),
    (canSend s (p.val, .tur) = true → s.inSet p.val = true → s.setSt (s.setNo p.val) = 2 → s.mstate p.val = 4 →
      exec (.testUnitReady (.own p)) s = .next (sendReq s p.val { src := .tur, cdb := List.replicate 16 0 } [])) ∧
    (∀ i, s.pwr.ops = pre ++ (p.val, .flush i) :: post → canSend s (p.val, .flush i) = true → (∀ o ∈ pre, ∀ j, o ≠ (p.val, .flush j)) →
      exec (.synchronizeCache16 (.own p)) s = .next (sentOp s (pre ++ post) p.val (.flush i) (0x91 :: List.replicate 15 0) [])) ∧
    (s.pmaster = true → firstNat (fun q => s.pwr.ops.contains (q, .start) && canSend s (q, .start)) allPorts = some p.val →
      exec .startStopUnit s = .next (sendReq (({ s with pwr := { s.pwr with ops := s.pwr.ops.erase (p.val, .start) } } : State).setMstate p.val 4)
        p.val { src := .start, cdb := [0x1B, 1, 0, 0, 1, 0, 0, 0, 0, 0, 0, 0, 0, 0, 0, 0] } [])) ∧
    (s.pmaster = true → firstNat (fun q => s.pwr.ops.contains (q, .start) && canSend s (q, .start)) allPorts = none →
      s.pwr.ops = pre ++ (p.val, .stop) :: post → canSend s (p.val, .stop) = true → (∀ o ∈ pre, o.2 = .stop → canSend s o = false) →
      exec .startStopUnit s = .next (sentOp s (pre ++ post) p.val .stop [0x1B, 0, 0, 0, 0, 0, 0, 0, 0, 0, 0, 0, 0, 0, 0, 0] [])) ∧
    (s.pmaster = false → exec .startStopUnit s = .next s) ∧
    (∀ x ∈ ([(.register, proutCdb 6 0, proutData 0 (s.key64 0x100)), (.reserve, proutCdb 1 5, proutData (s.key64 0x100) 0),
        (.preempt, proutCdb 4 5, proutData (s.key64 0x100) (s.key64 0x108))] : List (DSrc × List Byte × List Byte)),
      s.pwr.ops = pre ++ (p.val, x.1) :: post → canSend s (p.val, x.1) = true →
      (∀ o ∈ pre, o.2 = .register ∨ o.2 = .reserve ∨ o.2 = .preempt → canSend s o = false) →
      exec .persistentReserveOut s = .next (sentOp s (pre ++ post) p.val x.1 x.2.1 x.2.2))) ∧
  (∀ (s : State) (p : Fin 240) (k : Fin 32) (a : DriveAnswer) (r : DReq) (q addr : Nat), (s.port p.val).active[k.val]? = some r →
    r.src = .ring q addr → ∀ (v : State) (st : Nat),
    v = s.setPort p.val { s.port p.val with active := (s.port p.val).active.eraseIdx k.val } →
    st = (if (s.port p.val).rate = 3 ∧ leAt r.cdb 0 1 = 0 ∧ a.active = false ∧ ansStatus (answerOf a) = 0 then 1
      else ansStatus (answerOf a)) →
    (a.data = [] → exec (.driveRequestComplete p k a) s = .next (entryGo (slotDone v addr r.w6.toNat (ansW5 (answerOf a)) st))) ∧
    (∀ u, a.data ≠ [] → dmaWrite v (dataId p.val) r.buf (a.data.take r.len) = (u, none) → exec (.driveRequestComplete p k a) s =
      .next (entryGo (slotDone u addr r.w6.toNat (ansW5 (answerOf a)) (if stillPoisoned u r.buf (a.data.take r.len).length then 7 else st)))) ∧
    (∀ u e, a.data ≠ [] → dmaWrite v (dataId p.val) r.buf (a.data.take r.len) = (u, some e) → exec (.driveRequestComplete p k a) s =
      .next (entryGo (slotDone u addr r.w6.toNat (ansW5 (answerOf a)) 7))) ∧
    (s.regF (portPage p.val) 0x10C 0 16 ≠ 0 → exec (.commandTimeout p k) s =
      .next (entryGo (slotDone v addr r.w6.toNat (noBytes r.cdb r.len) 3)))) ∧
  (∀ (s : State) (p : Fin 240) (k : Fin 32), (s.port p.val).active = [] → (∀ a, exec (.driveRequestComplete p k a) s =
    .next (entryGo s)) ∧ exec (.commandTimeout p k) s = .next (entryGo s)) ∧
  (∀ (s : State) (id : MasterId) (r : Fin 48) (v : Word32), s.issues id = true →
    (regBit (s.reg 0x2FF (0x140 + 8 * r.val)) 31 = false → regBit v 31 = true → exec (.saspRbaseWrite id r v) s =
      .next { (s.setReg 0x2FF (0x140 + 8 * r.val) (v &&& 0x83FFF000)).setReg 0x2FF (0x144 + 8 * r.val) 0 with resp := .done }) ∧
    (regBit v 31 = false → exec (.saspRbaseWrite id r v) s =
      .next { s.setReg 0x2FF (0x140 + 8 * r.val) (v &&& 0x83FFF000) with resp := .done }) ∧
    (regBit (s.reg 0x2FF (0x140 + 8 * r.val)) 31 = true → regBit v 31 = true → exec (.saspRbaseWrite id r v) s =
        .next { s.berr id (regAddr 0x2FF (0x140 + 8 * r.val)) true .binding with resp := .err .binding })) ∧
  (∀ (s : State) (id : MasterId), s.issues id = true → s.custodyOf id = true →
    (fenceBusy s = true → exec (.fenceRegister id) s = .next { s with resp := .done } ∧
      exec (.preempt id) s = .next { s with resp := .done }) ∧
    (fenceBusy s = false →
      (∃ t, exec (.fenceRegister id) s = .next t ∧ t.resp = .done ∧ t.mem = s.mem ∧
        t.pwr.ops = s.pwr.ops ++ (allPorts.filter fun p => s.portUp p && (s.live p && (s.port p).rate != 3)).map fun p => (p, .register)) ∧
      (∃ t, exec (.preempt id) s = .next t ∧ t.resp = .done ∧ t.mem = s.mem ∧
        t.pwr.ops = s.pwr.ops ++ (allPorts.filter fun p => s.portUp p && (s.live p && (s.port p).rate != 3)).map (fun p => (p, .preempt)) ∧
        (Regs.wf s = true → ∀ p < 240, s.present p = true → s.portUp p = false →
          regBit (t.reg 0x2FF (0x118 + p / 32 * 4)) (p % 32) = true))))

/-- Each link event reaches the port only while its group has power. With no matching entry the port only counts UNMATCHED; a matching entry without limit whose action is NONE moves the port to NEXT, restarts its timer, shows in SASP_LPEV and, where NEXT is IDENT, sends the device's IDENTIFY frame. PORT_EN, PORT_RESET and DISABLE write CTL.EN and raise their event; TIMEOUT comes only from a running timer; IDENT_RX stores the drive's address, DWSYNC_LOST counts; BAY_OFF needs presence or power lost, ERR_RATE more invalid dwords than ERRTH. A low word of the link table is held, a high word commits an entry that R281 allows and otherwise answers ACCESS. PRESENCE_CHANGE to seated sets SASP_BAY.PRSNT and its flag. -/
def Obligations.PortsFollowTheirLinkPrograms : Prop :=
  (∀ x ∈ ([(.cominitRx, 4), (.comsasRx, 5), (.comwakeRx, 6), (.snwPass, 7), (.snwFail, 8), (.sataSig, 0x0A), (.hardResetRx, 0x0C)] :
      List ((Fin 240 → Instr) × Nat)), ∀ (s : State) (p : Fin 240),
    (s.dom (pdSasg (p.val / 8)) = false → exec (x.1 p) s = .next s) ∧
    (s.dom (pdSasg (p.val / 8)) = true → linkMatch s (p.val / 8) (s.port p.val).lp x.2 = none → exec (x.1 p) s =
      .next (entryGo (s.setRegF (portPage p.val) 0x118 8 8 (satAdd (s.regF (portPage p.val) 0x118 8 8) 1 255)))) ∧
    (∀ e, s.dom (pdSasg (p.val / 8)) = true → linkMatch s (p.val / 8) (s.port p.val).lp x.2 = some e →
      lkLimit (s.link (p.val / 8) e) = 0 → lkAction (s.link (p.val / 8) e) = 0 → exec (x.1 p) s =
        .next (entryGo (upEdge s (
          let u := (s.setRegF (portPage p.val) 0x118 0 7 e).setPort p.val { s.port p.val with
            lp := lkNext (s.link (p.val / 8) e),
            timer := decide (lkUnit (s.link (p.val / 8) e) ≠ 3 ∧ lkTimer (s.link (p.val / 8) e) ≠ 0) }
          if lkNext (s.link (p.val / 8) e) = 5 then { u with out := .identify p.val (sasAddr u p.val) :: u.out } else u) p.val)))) ∧
  (∀ (s : State) (p : Fin 240), s.dom (pdSasg (p.val / 8)) = true →
    exec (.timeout p) s = .next (if (s.port p.val).timer then entryGo (linkEvent s p.val 3) else s) ∧
    (∀ a, exec (.identRx p a) s = .next (entryGo (linkEvent ((s.setReg (portPage p.val) 0x100 (w32 a.toNat)).setReg (portPage p.val) 0x104
      (w32 (a.toNat / 2 ^ 32))) p.val 9))) ∧
    exec (.dwsyncLost p) s = .next (entryGo (linkEvent (s.setRegF (portPage p.val) 0x114 0 16
      (satAdd (s.regF (portPage p.val) 0x114 0 16) 1 0xFFFF)) p.val 0x0B)) ∧
    exec (.bayOff p) s = .next (entryGo (if s.present p.val && s.bayOn p.val then s else linkEvent s p.val 0x0D)) ∧
    exec (.errRate p) s = .next (entryGo (if (s.port p.val).dwCycle = s.belf.cycle.toNat ∧
      s.regF (grpPage (p.val / 8)) (grpOff (p.val / 8)) 8 8 < (s.port p.val).dwords then linkEvent s p.val 0x0E else s)) ∧
    (∃ t, exec (.invalidDword p) s = .next t ∧ (t.port p.val).dwCycle = s.belf.cycle.toNat ∧ (t.port p.val).dwords =
      (if (s.port p.val).dwCycle = s.belf.cycle.toNat then (s.port p.val).dwords + 1 else 1)) ∧
    (∀ id, s.issues id = true →
      exec (.portEn id p) s = .next { linkEvent (s.setReg (portPage p.val) oCtl 1) p.val 0 with resp := .done } ∧
      (s.regB (portPage p.val) oCtl 0 = true → exec (.portReset id p) s =
        .next { linkEvent ((portReset s p.val).setReg (portPage p.val) oCtl 1) p.val 0 with resp := .done }) ∧
      exec (.disable id p) s = .next (entryGo { portDisable (s.setReg (portPage p.val) oCtl 0) p.val with resp := .done }))) ∧
  (∀ (s : State) (p : Fin 240) (b : Bool),
    (s.present p.val = b → exec (.presenceChange p b) s = .next (entryGo s)) ∧
    (s.present p.val = false → exec (.presenceChange p true) s = .next (entryGo ((s.setRegF (portPage p.val) 0x110 9 1 1).irqBit
      (portPage p.val) 2)))) ∧
  (∀ (s : State) (id : MasterId) (g : Fin 30) (e : Fin 128) (v : Word32), s.issues id = true → s.locked (grpPage g.val) = false →
    exec (.linkProgramWrite id g e false v) s =
      .next { s with linkLo := sput s.linkLo (linkKey g.val e.val) (some v.toNat) none, resp := .done } ∧
    ∀ new, new = fldSet (2 ^ 32 * v.toNat + (sget s.linkLo (linkKey g.val e.val) none).getD (s.link g.val e.val % 2 ^ 32)) 62 1
      (fld (s.link g.val e.val) 62 1) →
    ((if e.val < 96 then bit (s.link g.val e.val) 62 && vendorOk (s.link g.val e.val) (sget s.loaded (linkKey g.val e.val) 0) new
      else operatorOk new) = true → exec (.linkProgramWrite id g e true v) s =
        .next { s with links := sput s.links (linkKey g.val e.val) new 0, resp := .done }) ∧
    ((if e.val < 96 then bit (s.link g.val e.val) 62 && vendorOk (s.link g.val e.val) (sget s.loaded (linkKey g.val e.val) 0) new
      else operatorOk new) = false → exec (.linkProgramWrite id g e true v) s = .next { s.berr id (regAddr (grpPage g.val) (grpOff g.val + 0x300 + 8 * e.val + 4)) true .access with resp := .err .access }))

/-- A spin request stores PWR_SCMD; on an empty set, or a device that is not power master, it does nothing more. SPIN_UP of a DOWN set with a live member not up enters POWERING with every exclusion cleared; SPIN_DOWN of a READY set enters STOPPING with its flag 0, but not while a command is in flight on it. BAY_POWER_ON powers the next live bay; LINK_UP_TIMEOUT and SPUTMO_EXPIRY exclude the member with LINK and NOTREADY. REARM returns the flag. ADMISSION acts at half-cycle boundaries alone, and a bound member has its comparator armed for the start of its half-cycle. FEEDBACK_UPDATE takes a reading once. A PWR_DREQ bit switches its domain, or is refused. -/
def Obligations.PowerSetsSpinUpAndDown : Prop :=
  (∀ (s : State) (id : MasterId) (k : Fin 64), s.issues id = true → s.custodyOf id = true →
    (s.members k.val = [] ∨ s.pmaster = false →
      exec (.spinUpRequest id k) s = .next { s.setReg 0x350 0x14C (w32 (256 + k.val)) with resp := .done } ∧
      exec (.spinDownRequest id k) s = .next { s.setReg 0x350 0x14C (w32 k.val) with resp := .done }) ∧
    (∀ p, p ∈ s.members k.val → s.pmaster = true → Regs.wf s = true → s.setSt k.val = 0 → s.present p = true →
      (s.port p).lp ≠ 9 → s.portUp p = false → ∃ t, exec (.spinUpRequest id k) s = .next t ∧ t.setSt k.val = 1 ∧
        (∀ q ∈ s.members k.val, t.excl q = 0) ∧ regBit (t.reg 0x350 oIrqRaw) 1 = true ∧ t.mem = s.mem ∧ t.resp = .done) ∧
    (∀ p, p ∈ s.liveMembers k.val → s.portUp p = true → s.pmaster = true → Regs.wf s = true → s.setSt k.val = 3 →
      (inFlightOn s k.val = true → exec (.spinDownRequest id k) s =
        .next { s.setReg 0x350 0x14C (w32 k.val) with resp := .done }) ∧
      (inFlightOn s k.val = false → ∃ t, exec (.spinDownRequest id k) s = .next t ∧ t.setSt k.val = 4 ∧ t.ready k.val = false ∧
        (p, DSrc.stop) ∈ t.pwr.ops ∧ t.mem = s.mem ∧ t.resp = .done)) ∧
    (Regs.wf s = true → s.dropHold k.val = true → s.setSt k.val = 3 →
      (s.liveMembers k.val).all (fun p => !(preemptPending s p)) = true → ∃ t, exec (.rearm id k) s = .next t ∧
        t.ready k.val = true ∧ t.dropHold k.val = false ∧ t.setSt k.val = 3 ∧ t.mem = s.mem ∧ t.resp = .done) ∧
    (Regs.wf s = true → s.dropHold k.val = false → exec (.rearm id k) s = .next { s with resp := .done })) ∧
  (∀ s : State, (∀ p, firstNat (fun q => s.inSet q && (s.setSt (s.setNo q) == 1 && (s.live q && !(s.bayOn q)))) allPorts = some p →
      exec .bayPowerOn s = .next (if s.pmaster then progressOf ((s.setBay p true).setMstate p 1) p else s)) ∧
    (∀ p : Fin 240, s.inSet p.val = true → s.live p.val = true →
      (s.setSt (s.setNo p.val) = 1 → s.bayOn p.val = true → s.portUp p.val = false →
        exec (.linkUpTimeout p) s = .next (entryGo (exclude s p.val 1))) ∧
      (s.setSt (s.setNo p.val) = 2 → s.mstate p.val = 4 → exec (.sputmoExpiry p) s = .next (entryGo (exclude s p.val 2)))) ∧
    (∀ p : Fin 240, s.inSet p.val = false → exec (.linkUpTimeout p) s = .next (entryGo s) ∧
      exec (.sputmoExpiry p) s = .next (entryGo s)) ∧
    (∀ (p : Fin 240) (r : Nat), Regs.wf s = true → r < 8 → (exclude s p.val r).excl p.val = r ∧
      regBit ((exclude s p.val r).reg 0x350 oIrqRaw) 3 = true)) ∧
  (∀ s : State, (s.belf.phase ≠ 0 → s.belf.phase ≠ 0x8000 → exec .admission s = .next s) ∧
    (∀ t, s.belf.phase = 0 ∨ s.belf.phase = 0x8000 → t = ringAdvance s → exec .admission s = .next (measUpdate
      (if t.regB 0x350 oCtl 0 = true ∧ t.pmaster = true ∧ t.pwr.hold = false
        then admitAll { t with pwr := { t.pwr with budget := t.regF 0x350 0x130 0 16 } } t.pwr.queue
        else { t with pwr := { t.pwr with budget := t.regF 0x350 0x130 0 16 } }))) ∧
    (∀ (p : Fin 240) (c : Fin 32) (k : Nat) (adds : List Nat), Regs.wf s = true →
      (bindAt s p.val c.val k adds).bcmpEn (32 + c.val) = true ∧ (bindAt s p.val c.val k adds).mstate p.val = 3 ∧
      (bindAt s p.val c.val k adds).bcmpTarget (32 + c.val) = (halfStart s + k * 32768 + s.regF 0x350 0x144 0 5 * 1024) % 2 ^ 64 ∧
      p.val ∉ (bindAt s p.val c.val k adds).pwr.queue)) ∧
  (∀ s : State, (s.pwr.peak = none → s.pwr.missed < 3 →
      exec .feedbackUpdate s = .next { s with pwr := { s.pwr with missed := s.pwr.missed + 1 } }) ∧
    (∀ p, s.pwr.peak = some p → Regs.wf s = true → ∃ t, exec .feedbackUpdate s = .next t ∧ t.pwr.peak = none ∧ t.pwr.missed = 0 ∧
      t.mem = s.mem ∧ t.regB 0x350 oStat 30 = false ∧
      t.regB 0x350 oStat 29 = decide (s.pwr.budget < ceilDiv p (s.regF 0x350 0x138 16 16)) ∧
      (s.pwr.budget < ceilDiv p (s.regF 0x350 0x138 16 16) → regBit (t.reg 0x350 oIrqRaw) 6 = true) ∧
      (s.regB 0x350 0x138 0 = false → t.regF 0x350 0x140 0 16 = 0))) ∧
  (∀ (s : State) (id : MasterId) (i : Fin 6) (v : Word32) (d : Nat), s.issues id = true → s.custodyOf id = true → 3 ≤ i.val →
    (((rangeFrom (32 * i.val) 32).filter (· < 182)).filter fun x => s.dom x != regBit v (x % 32)) = [d] →
    (dreqCause s d (regBit v (d % 32)) = 0 → exec (.pwrDreqWrite id i v) s = .next
      { (if regBit v (d % 32) then domainOn s d else domainOff s d).setRegF 0x350 (0x100 + 4 * (d / 32)) (d % 32) 1 (b2n (regBit v (d % 32)))
        with resp := .done }) ∧
    (dreqCause s d (regBit v (d % 32)) ≠ 0 → exec (.pwrDreqWrite id i v) s = .next
      { dreqRefuse s (dreqCause s d (regBit v (d % 32))) d with resp := .done }))

/-- NOTHOME or BUSY: an answer to REQ `f` without a window (R300, R301). -/
def plainAnswer (s : State) (n : Nat) (peer : List Byte) (f : Cst) (kind : Nat) (p : List Byte) : State :=
  cstSend s n peer { kind := kind, client := f.client, seq := f.seq, qid := f.qid, payload := p }
/-- The window that REQ `f` opens at unit `u` of port `n`'s pool (R302). -/
def reqWin (n : Nat) (peer : List Byte) (f : Cst) (u : Nat) : Win :=
  { client := f.client, seq := f.seq, qid := f.qid, port := n, rport := n, peer := peer, unit := u, units := winUnits f.off f.arg,
    blen := f.off, olen := f.arg, entry := f.payload }
/-- Port `p` has taken frame `b` into its receive buffer; XOFF leaves where the buffer is then above its threshold (R299). -/
def frameIn (s : State) (p : Fin 8) (b : List Byte) : State := bufferIn s p.val (ethTag b).1 b.length
/-- Port `p` has served frame `b`; XON leaves where it is due. -/
def frameOut (s : State) (p : Fin 8) (b : List Byte) : State := bufferOut s p.val (ethTag b).1
/-- Frame `b` at port `p`, which is up, carries the CST datagram `f` of sender `peer`. -/
def carries (s : State) (p : Fin 8) (b peer : List Byte) (f : Cst) : Prop :=
  s.linkUp p.val = true ∧ ∃ d, ethClass s p.val b = .cst peer d ∧ cstParse d = some f
/-- The port has consumed the completion at CQHEAD (R304). -/
def consumed (s : State) (n q : Nat) (c : QCtx) : State :=
  (doorbell { s with qe := { s.qe with dbsel := sput s.qe.dbsel (ethId n).val q 0 } } (ethId n).val false
    ((qf c qCQHEAD + 1) % 2 ^ qf c qCQLOG)).1
/-- The window table is in canonical form. -/
def winsWf (s : State) : Prop := swf (fun _ => (none : Option Win)) s.eth.wins = true

/-- For every datagram of a kind of R300, with a client id of 48 bits, sequence number, queue id and ARG of 32 bits, a window of 16 bits, an offset of 64 bits and any payload: the receiver of its bytes reads exactly its fields and payload. Bytes of fewer than 36, or whose trailer is not the CRC-32C of what precedes it, are no datagram. -/
def CstDatagramsRoundTrip : Prop :=
  (∀ f : Cst, f.kind ∈ cstKinds → f.client < 2 ^ 48 → f.seq < 2 ^ 32 → f.qid < 2 ^ 32 → f.win < 2 ^ 16 → f.off < 2 ^ 64 → f.arg < 2 ^ 32 →
    cstParse (cstBytes f) = some f) ∧
  (∀ b : List Byte, b.length < 36 ∨ beAt b (b.length - 4) 4 ≠ crcInv (b.take (b.length - 4)) → cstParse b = none)

/-- A frame on a port that is down does nothing; one that carries no CST datagram of the row's kind does nothing but pass the receive buffer, and one whose datagram is not sound is counted in BADCST. REQ: a header that differs from its entry is counted; a queue not enabled or not home answers NOTHOME; a known window, which then answers to this sender, gives GRANT, DATA or RESP by its state; a new request without data is submitted at once, another gets a window and GRANT, and is submitted where no data comes in, or BUSY. DATA: an unknown window drops it, a wrong shape is counted, a duplicate page answers CREDIT, one beyond the limit is dropped, an accepted one sets its page bit, answers CREDIT if it is a 32nd one or the last, and the last submits the entry. CREDIT that covers OLEN makes the window RESPONDED; RACK frees it. The credit timer, the DATA timer and the RESP timer send again, and the last RESP frees the window. A completion goes to the window, or as RESP without a window to the sender, of the submission it answers, and is consumed. -/
def RequestsAndWindowsFollowTheTable : Prop :=
  (∀ x ∈ ([(.req, 1), (.data, 3), (.credit, 4), (.rack, 6)] : List ((Fin 8 → List Byte → Instr) × Nat)),
    ∀ (s : State) (p : Fin 8) (b : List Byte),
    (s.linkUp p.val = false → exec (x.1 p b) s = .next s) ∧
    (s.linkUp p.val = true → (∀ peer d, ethClass s p.val b ≠ .cst peer d) → exec (x.1 p b) s = .next (frameOut (frameIn s p b) p b)) ∧
    (∀ peer d, s.linkUp p.val = true → ethClass s p.val b = .cst peer d → cstParse d = none →
      exec (x.1 p b) s = .next (frameOut (dropCst (frameIn s p b) p.val) p b)) ∧
    (∀ peer f, carries s p b peer f → f.kind ≠ x.2 → exec (x.1 p b) s = .next (frameOut (frameIn s p b) p b))) ∧
  (∀ (s v : State) (p : Fin 8) (peer b : List Byte) (f : Cst), carries s p b peer f → f.kind = 1 → frameIn s p b = v →
    (f.payload.length ≠ 64 ∨ leAt f.payload 8 6 ≠ f.client ∨ leAt f.payload 4 4 ≠ f.seq ∨ 2 ^ 18 ≤ f.qid →
      exec (.req p b) s = .next (frameOut (dropCst v p.val) p b)) ∧
    (∀ t c, f.payload.length = 64 → leAt f.payload 8 6 = f.client → leAt f.payload 4 4 = f.seq → f.qid < 2 ^ 18 →
      ctxRead v f.qid = (t, .ok c) →
      (qf c qEN = 0 ∨ qf c qHOME = 0 → exec (.req p b) s = .next (frameOut (plainAnswer t p.val peer f 7 (peerAddr t)) p b)) ∧
      (qf c qEN ≠ 0 → qf c qHOME ≠ 0 →
        (∀ ix w x u, findWin t (winKey f) = some (ix, w) → x = { w with rport := p.val, peer := peer } → u = t.setWin ix (some x) →
          (w.st = .filling → firstMissing w ≠ none → exec (.req p b) s =
            .next (frameOut (winSend u ix x 2 (contig w) (inLimit u x) []) p b)) ∧
          (w.st = .filling → firstMissing w = none → exec (.req p b) s =
            .next (frameOut (winSubmit (winSend u ix x 2 (contig w) (inLimit u x) []) ix) p b)) ∧
          (w.st = .submitted → exec (.req p b) s = .next (frameOut (winSend u ix x 2 w.blen w.blen []) p b)) ∧
          (w.st = .sending → exec (.req p b) s = .next (frameOut (resendData u ix) p b)) ∧
          (w.st = .responded → exec (.req p b) s =
            .next (frameOut ((winSend u ix x 5 w.sent 0 w.comp).setWin ix (some x)) p b))) ∧
        (findWin t (winKey f) = none → cachedSeq t c f.seq = true →
          exec (.req p b) s = .next (frameOut (plainSubmit t p.val peer f (listPut f.payload 24 (leBytes 8 0))) p b)) ∧
        (findWin t (winKey f) = none → cachedSeq t c f.seq = false →
          (f.off = 0 → f.arg = 0 → exec (.req p b) s = .next (frameOut (plainSubmit t p.val peer f f.payload) p b)) ∧
          (f.off ≠ 0 ∨ f.arg ≠ 0 →
            firstFit t p.val (winUnits f.off f.arg) = none ∨ firstNat (fun i => (t.win i).isNone) (rangeFrom 0 4096) = none →
            exec (.req p b) s = .next (frameOut (plainAnswer t p.val peer f 8 []) p b)) ∧
          (∀ ix u x, f.off ≠ 0 ∨ f.arg ≠ 0 → firstNat (fun i => (t.win i).isNone) (rangeFrom 0 4096) = some ix →
            firstFit t p.val (winUnits f.off f.arg) = some u →
            x = winSend (t.setWin ix (some (reqWin p.val peer f u))) ix (reqWin p.val peer f u) 2 0 (inLimit t (reqWin p.val peer f u)) [] →
            exec (.req p b) s = .next (frameOut (if f.off = 0 then winSubmit x ix else x) p b)))))) ∧
  (∀ (s v : State) (p : Fin 8) (peer b : List Byte) (f : Cst), carries s p b peer f → f.kind = 3 → frameIn s p b = v →
    (v.win f.win = none → exec (.data p b) s = .next (frameOut v p b)) ∧
    (∀ w, v.win f.win = some w →
      (winKey f w = false → exec (.data p b) s = .next (frameOut v p b)) ∧
      (winKey f w = true → dataShape w f = false → exec (.data p b) s = .next (frameOut (dropCst v p.val) p b)) ∧
      (winKey f w = true → dataShape w f = true → bit w.pages (f.off / 8192) = true → exec (.data p b) s =
        .next (frameOut ((winSend v f.win w 4 (contig w) (inLimit v w) []).setWin f.win (some { w with since := 0 })) p b)) ∧
      (winKey f w = true → dataShape w f = true → bit w.pages (f.off / 8192) = false → inLimit v w < f.off + f.payload.length →
        exec (.data p b) s = .next (frameOut v p b)) ∧
      (∀ t x u, winKey f w = true → dataShape w f = true → bit w.pages (f.off / 8192) = false → f.off + f.payload.length ≤ inLimit v w →
        dmaWrite v (ethId w.port) (winIn v w + f.off) f.payload = (t, none) →
        x = { w with pages := w.pages + 2 ^ (f.off / 8192), got := w.got + 1, since := w.since + 1 } → u = t.setWin f.win (some x) →
        (firstMissing x ≠ none → x.got % 32 ≠ 0 → exec (.data p b) s = .next (frameOut u p b)) ∧
        (firstMissing x ≠ none → x.got % 32 = 0 → exec (.data p b) s =
          .next (frameOut ((winSend u f.win x 4 (contig x) (inLimit u x) []).setWin f.win (some { x with since := 0 })) p b)) ∧
        (firstMissing x = none → exec (.data p b) s = .next (frameOut (winSubmit
          ((winSend u f.win x 4 (contig x) (inLimit u x) []).setWin f.win (some { x with since := 0 })) f.win) p b))))) ∧
  (∀ (s v : State) (p : Fin 8) (peer b : List Byte) (f : Cst) (w : Win), carries s p b peer f → frameIn s p b = v →
    v.win f.win = some w → winKey f w = true → winsWf s →
    (f.kind = 4 → w.st = .sending → w.sent = w.olen → w.olen ≤ f.off → ∃ t, exec (.credit p b) s = .next t ∧
      t.win f.win = some { w with acked := max w.acked w.olen, limit := max w.limit (min f.arg w.olen), st := .responded } ∧
      t.mem = s.mem ∧ t.regs = s.regs) ∧
    (f.kind = 4 → w.st ≠ .sending → exec (.credit p b) s = .next (frameOut v p b)) ∧
    (f.kind = 6 → w.st = .responded → exec (.rack p b) s = .next (frameOut (v.setWin f.win none) p b)) ∧
    (f.kind = 6 → w.st ≠ .responded → exec (.rack p b) s = .next (frameOut v p b))) ∧
  (∀ (s : State) (ix : Fin 4096),
    (s.win ix.val = none → exec (.creditTimer ix) s = .next s ∧ exec (.resp ix) s = .next s ∧
      ∀ i, exec (.dataRetransmit ix i) s = .next s) ∧
    (∀ w, s.win ix.val = some w →
      (w.st = .filling → 0 < w.since → exec (.creditTimer ix) s =
        .next ((winSend s ix.val w 4 (contig w) (inLimit s w) []).setWin ix.val (some { w with since := 0 }))) ∧
      (w.since = 0 → exec (.creditTimer ix) s = .next s) ∧
      (∀ t i d, w.st = .sending → w.acked ≤ i * 8192 → i * 8192 < w.sent →
        dmaRead s (ethId w.port) (winOut s w + i * 8192) (min 8192 (w.olen - i * 8192)) = (t, .ok (d, false)) → t.win ix.val = some w →
        exec (.dataRetransmit ix i) s = .next (winSend t ix.val w 3 (i * 8192) 0 d)) ∧
      (w.st = .responded → w.tries < s.regF 0x308 0x108 0 4 → winsWf s → ∃ t, exec (.resp ix) s = .next t ∧
        t.win ix.val = some { w with tries := w.tries + 1 } ∧ t.mem = s.mem ∧ t.regs = s.regs) ∧
      (w.st = .responded → s.regF 0x308 0x108 0 4 ≤ w.tries → exec (.resp ix) s = .next (s.setWin ix.val none)))) ∧
  (∀ (s t : State) (q : BitVec 18) (c : QCtx), ctxRead s q.toNat = (t, .ok c) →
    (qf c qEN = 0 ∨ qf c qCQHEAD = qf c qCQTAIL → exec (.outboundCompletion q) s = .next t) ∧
    (∀ u b, qf c qEN ≠ 0 → qf c qCQHEAD ≠ qf c qCQTAIL →
      dmaRead t 19 (qf c qCQADDR + qf c qCQHEAD * 16) 16 = (u, .ok (b, false)) →
      (∀ x, subOf u q.toNat (leAt b 4 2) (leAt b 0 4) = some x →
        (x.win = none → exec (.outboundCompletion q) s =
          .next (cstSend { consumed u x.port q.toNat c with eth := { u.eth with subs := u.eth.subs.erase x } } x.port x.peer
            { kind := 5, client := x.client, seq := leAt b 0 4, qid := x.qid, payload := b })) ∧
        (∀ ix w, x.win = some ix → u.win ix = some w → w.st = .submitted → w.qid = x.qid → w.seq = x.seq → exec (.outboundCompletion q) s =
          .next (winComplete { consumed u x.port q.toNat c with eth := { u.eth with subs := u.eth.subs.erase x } } ix w b))) ∧
      (subOf u q.toNat (leAt b 4 2) (leAt b 0 4) = none → exec (.outboundCompletion q) s = .next (consumed u 0 q.toNat c))))

/-- For every datagram of a kind of R300, with a client id of 48 bits, sequence number, queue id and ARG of 32 bits, a window of 16 bits, an offset of 64 bits and any payload: the receiver of its bytes reads exactly its fields and payload. Bytes of fewer than 36, or whose trailer is not the CRC-32C of what precedes it, are no datagram. A frame on a port that is down does nothing; one that carries no CST datagram of the row's kind does nothing but pass the receive buffer, and one whose datagram is not sound is counted in BADCST. REQ: a header that differs from its entry is counted; a queue not enabled or not home answers NOTHOME; a known window, which then answers to this sender, gives GRANT, DATA or RESP by its state; a new request without data is submitted at once, another gets a window and GRANT, and is submitted where no data comes in, or BUSY. DATA: an unknown window drops it, a wrong shape is counted, a duplicate page answers CREDIT, one beyond the limit is dropped, an accepted one sets its page bit, answers CREDIT if it is a 32nd one or the last, and the last submits the entry. CREDIT that covers OLEN makes the window RESPONDED; RACK frees it. The credit timer, the DATA timer and the RESP timer send again, and the last RESP frees the window. A completion goes to the window, or as RESP without a window to the sender, of the submission it answers, and is consumed. -/
def Obligations.ShelfTransportWindows : Prop := CstDatagramsRoundTrip ∧ RequestsAndWindowsFollowTheTable

/-- SLOW_PATH_RX on a port that is up: a frame that breaks the IP rules is counted; one that is too long or a CST datagram changes nothing but the flow control; another one goes into the slot at TAIL, TAIL advances and SPRX is set, unless the ring is full. A frame over ETHP_PFCTH sends XOFF of its priority, and XON once it is served. A write of TAIL sends the frame at HEAD and advances HEAD; with no frame queued only TAIL is stored. PFC pauses a priority, and its resume sends the frames held for it. A port comes up only while enabled, powered, of a mode with that sub-port and down: UP and UPC; one that is up goes down: UP cleared, DOWN. A corrected codeword counts. MREQ that is no sound frame of its kind or shape does nothing; a repeated one is answered from the stored MRESP; another one is executed, stored and answered. A write of PAIR_CTL by MREQ answers CAUSE 3, and in recovery an operation outside two KEEP pages CAUSE 7. -/
def Obligations.PortsCarryTheSlowPathAndManagement : Prop :=
  (∀ (s v : State) (p : Fin 8) (b : List Byte), frameIn s p b = v → (s.linkUp p.val = false → exec (.slowPathRx p b) s = .next s) ∧
    (s.linkUp p.val = true → ethClass s p.val b = .ipRule → exec (.slowPathRx p b) s = .next (frameOut (dropIp v p.val) p b)) ∧
    (s.linkUp p.val = true → ethClass s p.val b = .over ∨ (∃ peer d, ethClass s p.val b = .cst peer d) →
      exec (.slowPathRx p b) s = .next (frameOut v p b)) ∧
    (s.linkUp p.val = true → ethClass s p.val b = .slow → (s.regF (ethPage p.val) 0x140 16 8 + 1) % 256 = s.regF (ethPage p.val) 0x140 0 8 →
      exec (.slowPathRx p b) s = .next (frameOut v p b)) ∧
    (∀ t, s.linkUp p.val = true → ethClass s p.val b = .slow →
      (s.regF (ethPage p.val) 0x140 16 8 + 1) % 256 ≠ s.regF (ethPage p.val) 0x140 0 8 →
      dmaWrite v (ethId p.val) (spBase s p.val + s.regF (ethPage p.val) 0x140 16 8 * 10240) (leBytes 4 b.length ++ b) = (t, none) →
      exec (.slowPathRx p b) s = .next (frameOut ((t.setRegF (ethPage p.val) 0x140 16 8
        ((s.regF (ethPage p.val) 0x140 16 8 + 1) % 256)).irqBit (ethPage p.val) 2) p b)) ∧
    (bit (sget s.eth.xoff p.val 0) (ethTag b).1 = false →
      ((s.reg (ethPage p.val) 0x128).toNat < b.length → v.out = .pfc p.val (ethTag b).1 true :: s.out) ∧
      (b.length ≤ (s.reg (ethPage p.val) 0x128).toNat → v = s)) ∧
    (∀ t : State, bit (sget t.eth.xoff p.val 0) (ethTag b).1 = true → 0 < (t.reg (ethPage p.val) 0x128).toNat →
      (frameOut t p b).out = .pfc p.val (ethTag b).1 false :: t.out)) ∧
  (∀ (s : State) (id : MasterId) (p : Fin 8) (v : Word32), s.issues id = true → Regs.wf s = true →
    (regFld v 16 8 = s.regF (ethPage p.val) 0x144 0 8 ∨ s.linkUp p.val = false → exec (.slowPathTx id p v) s =
      .next { s.setRegF (ethPage p.val) 0x144 16 8 (regFld v 16 8) with resp := .done }) ∧
    (∀ t u l d, regFld v 16 8 ≠ s.regF (ethPage p.val) 0x144 0 8 → s.linkUp p.val = true →
      dmaRead (s.setRegF (ethPage p.val) 0x144 16 8 (regFld v 16 8)) (ethId p.val)
        (2621440 + spBase s p.val + s.regF (ethPage p.val) 0x144 0 8 * 10240) 4 = (t, .ok (l, false)) →
      dmaRead t (ethId p.val) (2621440 + spBase s p.val + s.regF (ethPage p.val) 0x144 0 8 * 10240 + 4) (min (ofLE l) 10236) =
        (u, .ok (d, false)) → exec (.slowPathTx id p v) s =
        .next { slowTx (({ u with out := .slow p.val d :: u.out } : State).setRegF (ethPage p.val) 0x144 0 8
          ((s.regF (ethPage p.val) 0x144 0 8 + 1) % 256)) p.val 255 with resp := .done })) ∧
  (∀ (s : State) (p q : Fin 8), (∀ b, s.linkUp p.val = false → exec (.priorityFlowControl p q b) s = .next s) ∧
    (s.linkUp p.val = true → exec (.priorityFlowControl p q true) s =
      .next { s with eth := { s.eth with paused := sput s.eth.paused p.val (fldSet (sget s.eth.paused p.val 0) q.val 1 1) 0 } }) ∧
    (s.linkUp p.val = true → ∃ t, exec (.priorityFlowControl p q false) s = .next t ∧ t.mem = s.mem ∧ t.regs = s.regs ∧
      t.eth.paused = sput s.eth.paused p.val (fldSet (sget s.eth.paused p.val 0) q.val 1 0) 0 ∧
      t.out = (((sget s.eth.held p.val []).filter fun f => f.prio = q.val).map fun f => Out.cst p.val f.prio (ethVid s p.val) f.peer f.frame).reverse ++ s.out)) ∧
  (∀ (s : State) (n : Fin 10) (k : Fin 2),
    (s.regB (linkPage n.val) oCtl 0 = false ∨ s.dom (linkDomain n.val) = false ∨ s.regB (linkPage n.val) oStat k.val = true ∨
      (n.val < 8 ∧ s.regF (linkPage n.val) oCtl 1 2 = 0) → exec (.portCameUp n k) s = .next s) ∧
    (s.regB (linkPage n.val) oCtl 0 = true → s.dom (linkDomain n.val) = true → s.regB (linkPage n.val) oStat k.val = false →
      (8 ≤ n.val → k.val = 0 → exec (.portCameUp n k) s = .next (portUpEdge s (linkPage n.val) 0)) ∧
      (n.val < 8 → s.regF (linkPage n.val) oCtl 1 2 = 2 ∨ (s.regF (linkPage n.val) oCtl 1 2 = 1 ∧ k.val = 0) →
        s.regF (linkPage n.val) 0x144 0 8 = s.regF (linkPage n.val) 0x144 16 8 →
        exec (.portCameUp n k) s = .next (portUpEdge s (linkPage n.val) k.val))) ∧
    (s.regB (linkPage n.val) oStat k.val = true → exec (.portWentDown n k) s =
      .next ((s.setRegF (linkPage n.val) oStat k.val 1 0).irqBit (linkPage n.val) 1)) ∧
    (s.regB (linkPage n.val) oStat k.val = false → exec (.portWentDown n k) s = .next s)) ∧
  (∀ (s : State) (p : Fin 8), exec (.fecCorrectedCodeword p) s =
    .next (if s.regB (ethPage p.val) oCtl 0 ∧ s.dom (pdEth p.val) then s.correctable (ethPage p.val) else s)) ∧
  (∀ (s : State) (k : Fin 2) (peer b : List Byte), (mgFrame s k.val b 0x10 = none → exec (.mreq k peer b) s = .next s) ∧
    (∀ f, mgFrame s k.val b 0x10 = some f →
      (mreqShape f = false → exec (.mreq k peer b) s = .next s) ∧
      (∀ m, mreqShape f = true → sget s.eth.mreq k.val none = some m → m.client = f.client → m.seq = f.seq →
        exec (.mreq k peer b) s = .next { s with out := .cst (8 + k.val) 0 none peer m.resp :: s.out }) ∧
      (∀ t d, mreqShape f = true → (∀ m, sget s.eth.mreq k.val none = some m → m.client ≠ f.client ∨ m.seq ≠ f.seq) →
        mreqOps s (chunks 16 64 f.payload) = (t, d) →
        ∃ u, exec (.mreq k peer b) s = .next u ∧ u.regs = t.regs ∧ u.mem = t.mem ∧
          sget u.eth.mreq k.val none = some ⟨f.client, f.seq,
            cstBytes { kind := 0x11, client := f.client, seq := f.seq, qid := f.qid, arg := f.arg, payload := d }⟩ ∧
          u.out = .cst (8 + k.val) 0 none peer (cstBytes { kind := 0x11, client := f.client, seq := f.seq, qid := f.qid, arg := f.arg, payload := d })
            :: t.out))) ∧
  (∀ (s : State) (b : List Byte), b.length = 16 →
    (s.recovery = false → leAt b 0 1 = 2 → beAt b 2 6 = regAddr 0x324 0x100 →
      mreqOp s b = (s.berr mgmtId (regAddr 0x324 0x100) true .access, listPut b 1 [3])) ∧
    (s.recovery = true → beAt b 2 6 / 4096 ≠ 0xF00000 → beAt b 2 6 / 4096 ≠ 0xF00003 → mreqOp s b = (s, listPut b 1 [7])))

/-- The table of pair ports is in canonical form. -/
def pportsWf (s : State) : Prop := swf (fun _ => ({} : PPort)) s.plink.ports = true

/-- A pair port with its CTRL flit out: ACKSEQ is the flit it expects (R306, R307). -/
def ctrlOut (s : State) (p : Fin 4) (nak : Bool) : State :=
  { s with out := .flit p.val (flitBytes (s.pport p.val).nextSeq 2
      (beBytes 2 (s.pport p.val).expect ++ (if nak then 1 else 0) :: List.replicate 245 0)) :: s.out }
/-- The port discards up to the expected flit; `q` is the last flit it discarded, if that was numbered. -/
def gapAt (s : State) (p : Fin 4) (q : Option Nat) : State := s.setPport p.val { s.pport p.val with nak := true, last := q }

/-- A flit carries its FSEQ, FKIND, payload and FCRC. FLIT_RX on a port that is not enabled or has no power does nothing. A failing FCRC counts and answers NAK; an unknown FKIND does nothing. A sound flit brings a port up. On a port that is up, the expected MSG flit joins the stream, advances the expected number and is acknowledged; a repeated one is ignored; one after a gap answers NAK, but not again while it goes on with the run being discarded; a CTRL flit acknowledges the flits before ACKSEQ, of at most 1,024 sent, and with NAK has the rest sent again. A resend sends every MSG flit outstanding. A port that goes down clears UP and sets DOWN. Each message command acts only where the oldest message of the port is of its type. -/
def PairPortsAreReliableChannels : Prop :=
  (∀ (q k : Nat) (d : List Byte), q < 65536 → k < 256 → d.length = 248 → (flitBytes q k d).length = 256 ∧ beAt (flitBytes q k d) 0 2 = q ∧
    leAt (flitBytes q k d) 2 1 = k ∧ ((flitBytes q k d).drop 4).take 248 = d ∧
    beAt (flitBytes q k d) 252 4 = crcInv ((flitBytes q k d).take 252)) ∧
  (∀ (s : State) (p : Fin 4) (f : List Byte), f.length = 256 → pportsWf s →
    (s.regB (pairPage p.val) oCtl 0 = false ∨ s.dom (pdPair p.val) = false → exec (.flitRx p f) s = .next s) ∧
    (s.regB (pairPage p.val) oCtl 0 = true → s.dom (pdPair p.val) = true →
      (beAt f 252 4 ≠ crcInv (f.take 252) → exec (.flitRx p f) s =
        .next (ctrlOut (gapAt (s.correctable (pairPage p.val)) p none) p true)) ∧
      (beAt f 252 4 = crcInv (f.take 252) → 2 < leAt f 2 1 → exec (.flitRx p f) s = .next s) ∧
      (beAt f 252 4 = crcInv (f.take 252) → s.pairUp p.val = false → leAt f 2 1 = 1 → beAt f 0 2 = (s.pport p.val).expect →
        exec (.flitRx p f) s = .next ((s.setRegF (pairPage p.val) oStat 0 1 1).irqBit (pairPage p.val) 0)) ∧
      (beAt f 252 4 = crcInv (f.take 252) → s.pairUp p.val = true →
        (leAt f 2 1 = 0 → (s.pport p.val).expect < 65536 → beAt f 0 2 = (s.pport p.val).expect → ∃ t, exec (.flitRx p f) s = .next t ∧
          t = flitTake s p.val ((f.drop 4).take 248) ∧ (t.pport p.val).expect = ((s.pport p.val).expect + 1) % 65536 ∧
          (t.pport p.val).nak = false ∧ t.mem = s.mem ∧ t.out = .flit p.val (flitBytes (s.pport p.val).nextSeq 2
            (beBytes 2 (((s.pport p.val).expect + 1) % 65536) ++ 0 :: List.replicate 245 0)) :: s.out) ∧
        (leAt f 2 1 = 0 → 32768 ≤ seqAhead (s.pport p.val).expect (beAt f 0 2) → exec (.flitRx p f) s = .next s) ∧
        (leAt f 2 1 = 0 → 0 < seqAhead (s.pport p.val).expect (beAt f 0 2) → seqAhead (s.pport p.val).expect (beAt f 0 2) < 32768 →
          ((s.pport p.val).nak = false → exec (.flitRx p f) s = .next (ctrlOut (gapAt s p (some (beAt f 0 2))) p true)) ∧
          ((s.pport p.val).nak = true → (∀ l, (s.pport p.val).last = some l → beAt f 0 2 = l ∨ beAt f 0 2 = (l + 1) % 65536) →
            exec (.flitRx p f) s = .next (gapAt s p (some (beAt f 0 2)))) ∧
          (∀ l, (s.pport p.val).nak = true → (s.pport p.val).last = some l → beAt f 0 2 ≠ l → beAt f 0 2 ≠ (l + 1) % 65536 →
            exec (.flitRx p f) s = .next (ctrlOut (gapAt s p (some (beAt f 0 2))) p true))) ∧
        (leAt f 2 1 = 1 → (s.pport p.val).expect < 65536 → beAt f 0 2 = (s.pport p.val).expect → exec (.flitRx p f) s = .next s) ∧
        (leAt f 2 1 = 2 → (s.pport p.val).expect < 65536 → beAt f 0 2 = (s.pport p.val).expect → exec (.flitRx p f) s =
          .next (if bit (leAt f 6 1) 0 then flitResend (flitAck s p.val (beAt f 4 2)) p.val else flitAck s p.val (beAt f 4 2)))))) ∧
  (∀ (s : State) (p : Fin 4) (a : Nat) (g : Nat × List Byte) (r : List (Nat × List Byte)), pportsWf s → (s.pport p.val).unacked = g :: r →
    (seqAhead g.1 a ≤ min 1024 (r.length + 1) → ((flitAck s p.val a).pport p.val).unacked = (g :: r).drop (seqAhead g.1 a) ∧
      (flitAck s p.val a).out = (((((g :: r).drop 1024).take (seqAhead g.1 a)).map fun h => Out.flit p.val (flitBytes h.1 0 h.2)).reverse) ++ s.out ∧
      (flitAck s p.val a).mem = s.mem ∧ (flitAck s p.val a).regs = s.regs) ∧
    (min 1024 (r.length + 1) < seqAhead g.1 a → flitAck s p.val a = s)) ∧
  (∀ (s : State) (p : Fin 4),
    (s.pairUp p.val = false → exec (.flitResend p) s = .next s) ∧
    (s.pairUp p.val = true → exec (.flitResend p) s = .next { s with
      out := (((s.pport p.val).unacked.take 1024).map fun h => Out.flit p.val (flitBytes h.1 0 h.2)).reverse ++ s.out }) ∧
    (s.regB (pairPage p.val) oStat 0 = true → exec (.pairPortDown p) s =
      .next ((s.setRegF (pairPage p.val) oStat 0 1 0).irqBit (pairPage p.val) 1)) ∧
    (s.regB (pairPage p.val) oStat 0 = false → exec (.pairPortDown p) s = .next s)) ∧
  (∀ (k : BitVec 16), ∀ x ∈ ([(.join, 1), (.joinrsp, 2), (.wab, 4), (fun p => .jrec p k, 5), (.mack, 6), (.qdelta, 7), (.retire, 9),
    (.pstate, 10), (fun p => .resync p none, 11), (.homeset, 12)] : List ((Fin 4 → Instr) × Nat)), ∀ (s : State) (p : Fin 4),
    ((s.pport p.val).inbox.head?.map (·.type)) ≠ some x.2 → exec (x.1 p) s = .next s)

/-- The two devices' join records after JOIN or JOINRSP `m` has been seen: the partner's serial and the slew of R318. -/
def seen (s : State) (m : PairMsg) : State := joinSeen s (beAt m.payload 8 8) (beAt m.payload 24 8)
/-- The host side of a JOIN, which has its own reservation key set (R292). -/
def met (s : State) (m : PairMsg) : State := joinKey (seen s m)
/-- LEASE_REQ as R300 and R319 have it. -/
def leaseFrame (s : State) : Cst :=
  { kind := 0x20, client := 0, seq := s.plink.leaseSeq, qid := 0, off := s.serialNo, arg := s.regF 0x324 0x148 0 16 }
/-- Address of the slot at HEAD of mirror ring `r`. -/
def mirSlot (s : State) (r : Fin 32) : Nat :=
  scrBase + regFld (s.reg 0x325 (0x100 + 8 * r.val)) 12 14 * 4096 + s.regF 0x325 (0x104 + 8 * r.val) 0 6 * 64

/-- WAB inside the region is written and counted for its mirror id; outside it is dropped. JREC waits for its chunks, then its record is written to its journal slot and MACK returned (which slot is the command's operand, log entry 53); the last chunk does the same for a JREC that waits. MACK ends its request GOOD, RETIRE frees the slot and answers MACK, QDELTA writes the running fields with CQHEAD equal to CQTAIL and answers DACK, DACK releases its delta, HOMESET writes HOME, PSTATE gives a device that is not power master the states, holds and ready flags of its sets. The winner sends a resync chunk of the areas or of a queue's record, the loser writes one of the areas. A mirror request is served from a ring that is on and submitted: outside the region REFUSED, in neither SOLO nor PAIRED LOST, in SOLO journalled and answered SOLO. PAIR_HOMEREQ outside PAIRED is discarded. -/
def MirrorRequestsAndDeltasAreAcknowledged : Prop :=
  (∀ (s t : State) (p : Fin 4) (m : PairMsg), inboxTake s p.val 4 = some (m, t) →
    (m.payload.length < 8 ∨ mirSize t < beAt m.payload 0 8 + (m.payload.length - 8) → exec (.wab p) s = .next t) ∧
    (∀ u, 8 ≤ m.payload.length → beAt m.payload 0 8 + (m.payload.length - 8) ≤ mirSize t →
      dmaWrite t pairId (mirBase t + beAt m.payload 0 8) (m.payload.drop 8) = (u, none) →
      ∀ x, x = u.setPlink { u.plink with chunks := sput u.plink.chunks m.tag (sget u.plink.chunks m.tag 0 + 1) 0 } →
        (x.plink.jrecs.find? (fun j => j.2.2.tag == m.tag && jrecReady x j.2.2) = none → exec (.wab p) s = .next x) ∧
        (∀ j v y, x.plink.jrecs.find? (fun j => j.2.2.tag == m.tag && jrecReady x j.2.2) = some j →
          y = x.setPlink { x.plink with jrecs := x.plink.jrecs.erase j } →
          dmaWrite y pairId (jSlot y j.2.1) (j.2.2.payload.drop 8) = (v, none) → exec (.wab p) s =
            .next (pairSend (v.setPlink { v.plink with chunks := sput v.plink.chunks j.2.2.tag 0 0 }) j.1 6 j.2.2.tag [])))) ∧
  (∀ (s t : State) (p : Fin 4) (k : BitVec 16) (m : PairMsg), inboxTake s p.val 5 = some (m, t) →
    (m.payload.length ≠ 72 → exec (.jrec p k) s = .next t) ∧
    (m.payload.length = 72 → sget t.plink.chunks m.tag 0 < beAt m.payload 0 8 → exec (.jrec p k) s =
      .next (t.setPlink { t.plink with jrecs := t.plink.jrecs ++ [(p.val, k.toNat, m)] })) ∧
    (∀ u, m.payload.length = 72 → beAt m.payload 0 8 ≤ sget t.plink.chunks m.tag 0 →
      dmaWrite t pairId (jSlot t k.toNat) (m.payload.drop 8) = (u, none) → exec (.jrec p k) s =
        .next (pairSend (u.setPlink { u.plink with chunks := sput u.plink.chunks m.tag 0 0 }) p.val 6 m.tag []))) ∧
  (∀ (s t : State) (p : Fin 4) (m : PairMsg), inboxTake s p.val 6 = some (m, t) →
    (t.plink.mirrors.find? (fun x => x.mid == m.tag) = none → exec (.mack p) s = .next t) ∧
    (∀ x, t.plink.mirrors.find? (fun x => x.mid == m.tag) = some x →
      exec (.mack p) s = .next (mirrorEnd (t.setPlink { t.plink with mirrors := t.plink.mirrors.erase x }) x 0))) ∧
  (∀ (s t u v : State) (p : Fin 4) (m : PairMsg) (r : List Byte), inboxTake s p.val 9 = some (m, t) →
    dmaRead t pairId (jSlot t m.tag) 16 = (u, .ok (r, false)) → dmaWrite u pairId (jSlot u m.tag) (List.replicate 8 0) = (v, none) →
    exec (.retire p) s = .next (pairSend v p.val 6 (leAt r 8 8) [])) ∧
  (∀ (s t u : State) (p : Fin 4) (m : PairMsg) (c : QCtx), inboxTake s p.val 7 = some (m, t) →
    ctxRead t (leAt m.payload 0 4 % 262144) = (u, .ok c) → ∃ c' v, v = ctxStore u (leAt m.payload 0 4 % 262144) c' ∧
      exec (.qdelta p) s = .next (pairSend (if leAt m.payload 4 1 = 2 then (dmaWrite v qeId (qf c qRCADDR + leAt m.payload 29 1 % 64 * 16)
        ((m.payload.drop 32).take 16)).1 else v) p.val 8 m.tag []) ∧
      qf c' qWBASE = leAt m.payload 8 4 ∧ qf c' qNCOMP = leAt m.payload 12 4 ∧ qf c' qWMAP = leAt m.payload 16 8 ∧
      qf c' qSQHEAD = leAt m.payload 24 2 ∧ qf c' qCQTAIL = leAt m.payload 26 2 ∧ qf c' qCQHEAD = leAt m.payload 26 2 ∧
      qf c' qLASTSTAT = leAt m.payload 5 1 ∧ qf c' qCQPHASE = leAt m.payload 28 1 % 2 ∧ qf c' qHOME = qf c qHOME ∧
      qf c' qINFL = qf c qINFL ∧ qf c' qSQTAIL = qf c qSQTAIL) ∧
  (∀ (s : State) (p : Fin 4), ((s.pport p.val).inbox.head?.map (·.type)) ≠ some 8 → exec (.dack p) s = .next (entryGo s)) ∧
  (∀ (s t : State) (p : Fin 4) (m : PairMsg), inboxTake s p.val 8 = some (m, t) →
    (t.qe.waits = [] → exec (.dack p) s =
      .next (entryGo { t with qe := { t.qe with deltas := t.qe.deltas.filter fun d => d.1 ≠ m.tag } })) ∧
    (∀ w, t.qe.waits = [w] → w.delta = m.tag → exec (.dack p) s = .next (entryGo (compTail
      { t with qe := { t.qe with deltas := t.qe.deltas.filter fun d => d.1 ≠ m.tag, waits := [] } } w.q w.comp w.ift)))) ∧
  (∀ (s t u : State) (p : Fin 4) (m : PairMsg) (c : QCtx), inboxTake s p.val 12 = some (m, t) → ctxRead t (m.tag % 262144) = (u, .ok c) →
    exec (.homeset p) s = .next (ctxStore u (m.tag % 262144) (qset c qHOME (if leAt m.payload 0 1 = 0 then 1 else 0)))) ∧
  (∀ (s t : State) (p : Fin 4) (m : PairMsg), inboxTake s p.val 10 = some (m, t) →
    (t.pmaster = true ∨ m.payload.length ≠ 520 → exec (.pstate p) s = .next t) ∧
    (t.pmaster = false → m.payload.length = 520 → Regs.wf t = true →
      (∀ k < 64, fld (beAt m.payload (8 * k + 4) 4) 0 3 ≠ 0 ∨ bit (beAt m.payload (8 * k) 4) 0 = false) →
      ∃ u, exec (.pstate p) s = .next u ∧ u.mem = t.mem ∧ u.ports = t.ports ∧ ∀ k < 64,
        (t.members k ≠ [] → u.setSt k = fld (beAt m.payload (8 * k + 4) 4) 0 3 ∧ u.dropHold k = bit (beAt m.payload (8 * k + 4) 4) 4 ∧
          u.ready k = bit (beAt m.payload (512 + 4 * (k / 32)) 4) (k % 32)) ∧
        (t.members k = [] → u.setSt k = t.setSt k ∧ u.dropHold k = t.dropHold k ∧ u.ready k = t.ready k))) ∧
  (∀ (s : State) (p : Fin 4) (off : BitVec 48),
    (s.plink.joined = false ∨ s.plink.loser = true ∨ s.pairUp p.val = false → exec (.resync p (some off)) s = .next s) ∧
    (∀ t d, s.plink.joined = true → s.plink.loser = false → s.pairUp p.val = true → (resyncPlace s off.toNat).2 ≠ 0 →
      dmaRead s pairId (resyncPlace s off.toNat).1 (resyncPlace s off.toNat).2 = (t, .ok (d, false)) →
      exec (.resync p (some off)) s = .next (pairSend t p.val 11 off.toNat d)) ∧
    (∀ t u c d, s.plink.joined = true → s.plink.loser = false → s.pairUp p.val = true → (resyncPlace s off.toNat).2 = 0 →
      ctxRead s (resyncQueue s off.toNat % 262144) = (t, .ok c) → qf c qEN = 1 →
      dmaRead t pairId (qf c qRCADDR) 1024 = (u, .ok (d, false)) →
      exec (.resync p (some off)) s = .next (pairSend u p.val 11 off.toNat (ctxBytes c ++ d)))) ∧
  (∀ (s t : State) (p : Fin 4) (m : PairMsg), inboxTake s p.val 11 = some (m, t) →
    (t.plink.loser = false → exec (.resync p none) s = .next t) ∧
    (t.plink.loser = true → (resyncPlace t m.tag).2 ≠ 0 → exec (.resync p none) s =
      .next (dmaWrite t pairId (resyncPlace t m.tag).1 (m.payload.take (resyncPlace t m.tag).2)).1)) ∧
  (∀ (s : State) (r : Fin 32), (s.regB 0x325 (0x100 + 8 * r.val) 31 = false → exec (.mirrorRequest r) s = .next s) ∧
    (s.paired = true → s.deltaPort = none → exec (.mirrorRequest r) s = .next s) ∧
    (∀ t b, s.regB 0x325 (0x100 + 8 * r.val) 31 = true → s.paired = false ∨ s.deltaPort ≠ none →
      dmaRead s pairId (mirSlot s r) 64 = (t, .ok (b, false)) →
      (leAt b 56 1 ≠ 1 → exec (.mirrorRequest r) s = .next t) ∧
      (leAt b 56 1 = 1 → exec (.mirrorRequest r) s = .next (mirrorServe
        (((dmaWrite t pairId (mirSlot s r + 56) (leBytes 8 (fldSet (leAt b 56 8) 0 8 2))).1).setReg 0x325 (0x104 + 8 * r.val)
          (w32 ((s.regF 0x325 (0x104 + 8 * r.val) 0 6 + 1) % 64))) (mirSlot s r) b)))) ∧
  (∀ (s : State) (addr : Nat) (b : List Byte), bit (leAt b 32 8) 0 = false →
    (leAt b 8 4 % 64 ≠ 0 ∨ mirSize s < leAt b 16 6 + leAt b 8 4 →
      mirrorServe s addr b = mirrorEnd s { mid := s.plink.mid, addr := addr, w6 := leAt b 48 8 } 4) ∧
    (leAt b 8 4 % 64 = 0 → leAt b 16 6 + leAt b 8 4 ≤ mirSize s → s.pstate ≠ 0 → s.paired = false →
      mirrorServe s addr b = mirrorEnd s { mid := s.plink.mid, addr := addr, w6 := leAt b 48 8 } 2) ∧
    (∀ t u v d, leAt b 8 4 % 64 = 0 → leAt b 16 6 + leAt b 8 4 ≤ mirSize s → s.pstate = 0 →
      dmaRead (s.setPlink { s.plink with mid := (s.plink.mid + 1) % 2 ^ 64 }) pairId (leAt b 24 6) 64 = (t, .ok (d, false)) →
      dmaWrite t pairId (leAt b 24 6) ((leBytes 8 s.epoch ++ leBytes 8 s.plink.mid ++ d.drop 16).take 16) = (u, none) →
      dmaWrite u pairId (jSlot s (leAt b 30 2)) (leBytes 8 s.epoch ++ leBytes 8 s.plink.mid ++ d.drop 16) = (v, none) → v.pstate = 0 →
      mirrorServe s addr b = mirrorEnd v { mid := s.plink.mid, addr := addr, w6 := leAt b 48 8 } 1)) ∧
  (∀ (s : State) (id : MasterId) (v : Word32), s.issues id = true →
    (s.paired = false → exec (.homereq id v) s = .next { s with resp := .done }) ∧
    (∀ n, s.paired = true → qf (s.ctxRaw (regFld v 0 18)) qINFL = 0 → s.deltaPort = some n → exec (.homereq id v) s =
      .next { pairSend (setHome s (regFld v 0 18) (regBit v 31)) n 12 (regFld v 0 18) [if regBit v 31 then 1 else 0] with resp := .done }))

/-- A flit carries its FSEQ, FKIND, payload and FCRC. FLIT_RX on a port that is not enabled or has no power does nothing. A failing FCRC counts and answers NAK; an unknown FKIND does nothing. A sound flit brings a port up. On a port that is up, the expected MSG flit joins the stream, advances the expected number and is acknowledged; a repeated one is ignored; one after a gap answers NAK, but not again while it goes on with the run being discarded; a CTRL flit acknowledges the flits before ACKSEQ, of at most 1,024 sent, and with NAK has the rest sent again. A resend sends every MSG flit outstanding. A port that goes down clears UP and sets DOWN. Each message command acts only where the oldest message of the port is of its type. WAB inside the region is written and counted for its mirror id; outside it is dropped. JREC waits for its chunks, then its record is written to its journal slot and MACK returned (which slot is the command's operand, log entry 53); the last chunk does the same for a JREC that waits. MACK ends its request GOOD, RETIRE frees the slot and answers MACK, QDELTA writes the running fields with CQHEAD equal to CQTAIL and answers DACK, DACK releases its delta, HOMESET writes HOME, PSTATE gives a device that is not power master the states, holds and ready flags of its sets. The winner sends a resync chunk of the areas or of a queue's record, the loser writes one of the areas. A mirror request is served from a ring that is on and submitted: outside the region REFUSED, in neither SOLO nor PAIRED LOST, in SOLO journalled and answered SOLO. PAIR_HOMEREQ outside PAIRED is discarded. -/
def Obligations.PairLinkChannelsAndMirroring : Prop := PairPortsAreReliableChannels ∧ MirrorRequestsAndDeltasAreAcknowledged

/-- No join is decided in RESYNC or PAIRED, after a refusal or after a self-stop. JOIN of the host side: another revision is refused with outcome 1, another digest with 2, otherwise it is accepted with outcome 0 and the higher epoch, or serial, wins. JOINRSP with another outcome leaves the joiner STANDBY with REFUSED, not power master. The end of the copy enters PAIRED with both flags and holds SATA ports. A repeated HB counts once; a new one sets the HB time and PAIR_CYCD. Loss without a witness, or declared already, changes nothing; a holder of the lease that has not stopped itself takes the survivor's steps: epoch + 1, SOLO, power master, TAKEOVER; another device is fenced: FENCE, STANDBY, not power master. LEASE_REQ goes out where the device may ask; a grant in STANDBY lets it serve, a fenced device as a survivor; LEASE_DENY only ends the request; the lapse clears LEASE and sets LEASE_LOST, fences a SOLO device that has lost its link and takes another SOLO device to STANDBY, unless it serves without a witness. -/
def Obligations.JoinLossAndLeaseDecideWhoServes : Prop :=
  (∀ (s t : State) (p : Fin 4) (m : PairMsg), inboxTake s p.val 1 = some (m, t) →
    (m.payload.length ≠ 96 ∨ t.pstate = 2 ∨ t.pstate = 3 ∨ t.plink.refused = true ∨ t.fm.selfStop = true → exec (.join p) s = .next t) ∧
    (m.payload.length = 96 → t.pstate ≠ 2 → t.pstate ≠ 3 → t.plink.refused = false → t.fm.selfStop = false →
      (isJoiner (met t m) (beAt m.payload 8 8) (leAt m.payload 72 1) = true → exec (.join p) s = .next (met t m)) ∧
      (isJoiner (met t m) (beAt m.payload 8 8) (leAt m.payload 72 1) = false →
        (beAt m.payload 0 2 ≠ (met t m).regF 0x324 0x120 0 16 → exec (.join p) s =
          .next (pairSend (met t m) p.val 2 (met t m).serialNo (joinRecord (met t m) 1))) ∧
        (beAt m.payload 0 2 = (met t m).regF 0x324 0x120 0 16 →
          (m.payload.drop 32).take 32 ≠ ((joinRecord (met t m) 0).drop 32).take 32 → exec (.join p) s =
            .next (pairSend (met t m) p.val 2 (met t m).serialNo (joinRecord (met t m) 2))) ∧
        (beAt m.payload 0 2 = (met t m).regF 0x324 0x120 0 16 →
          (m.payload.drop 32).take 32 = ((joinRecord (met t m) 0).drop 32).take 32 → exec (.join p) s =
            .next (joinGo (pairSend (met t m) p.val 2 (met t m).serialNo (joinRecord (met t m) 0)) (beAt m.payload 16 8)
              (beAt m.payload 8 8) (beAt m.payload 64 8)))))) ∧
  (∀ (s t : State) (p : Fin 4) (m : PairMsg), inboxTake s p.val 2 = some (m, t) → m.payload.length = 96 → t.pstate ≠ 2 →
    t.pstate ≠ 3 → t.plink.refused = false → t.fm.selfStop = false →
    (leAt m.payload 80 1 = 0 → exec (.joinrsp p) s =
      .next (joinGo (seen t m) (beAt m.payload 16 8) (beAt m.payload 8 8) (beAt m.payload 64 8))) ∧
    (leAt m.payload 80 1 ≠ 0 → Regs.wf t = true → ∃ u, exec (.joinrsp p) s = .next u ∧ u.pstate = 4 ∧ u.plink.refused = true ∧
      u.plink.joined = false ∧ u.pmaster = false ∧ u.regB 0x324 oIrqRaw 3 = true)) ∧
  (∀ (s : State) (e z k : Nat), ((joinGo s e z k).plink.loser = true ↔ s.epoch < e ∨ (s.epoch = e ∧ s.serialNo ≤ z)) ∧
    (joinGo s e z k).plink.joined = true) ∧
  (∀ s : State, (s.plink.joined = false ∨ s.fm.selfStop = true → exec .resyncDone s = .next s) ∧
    (s.plink.joined = true → s.fm.selfStop = false → Regs.wf s = true → ∃ t, exec .resyncDone s = .next (sataShut t) ∧ t.pstate = 3 ∧
      t.plink.joined = false ∧ t.epoch = ((if s.plink.loser then s.plink.pepoch else s.epoch) + 1) % 2 ^ 64 ∧ t.pmaster = s.plink.lease ∧
      t.fence = false ∧ t.regB 0x324 oIrqRaw 2 = true ∧ t.regB 0x324 oIrqRaw 5 = true ∧ (∀ p, (t.port p).lp = (s.port p).lp) ∧
      ((∀ p < 240, (s.port p).lp ≠ 8) → sataShut t = t))) ∧
  (∀ (s : State) (p : Fin 4) (r : BitVec 16), inboxTake s p.val 3 = none → exec (.hb p r) s = .next s) ∧
  (∀ (s t : State) (p : Fin 4) (r : BitVec 16) (m : PairMsg), inboxTake s p.val 3 = some (m, t) →
    (t.plink.lastHb = some (beAt m.payload 0 8) ∨ m.payload.length ≠ 32 → exec (.hb p r) s = .next t) ∧
    (t.plink.lastHb ≠ some (beAt m.payload 0 8) → m.payload.length = 32 → Regs.wf s = true → ∃ u, exec (.hb p r) s = .next u ∧
      u.plink.lastHb = some (beAt m.payload 0 8) ∧ u.plink.lost = false ∧ u.mem = s.mem ∧
      u.reg 0x324 0x128 = w32 (uns (cycleDiff t (beAt m.payload 0 8) r.toNat) 32) ∧
      (farOff (cycleDiff t (beAt m.payload 0 8) r.toNat) = false → u.belf = s.belf ∧ u.plink.far = 0))) ∧
  (∀ s : State, (s.nowit = true ∨ s.plink.lost = true → exec .loss s = .next (entryGo s)) ∧
    (s.nowit = false → s.plink.lost = false → Regs.wf s = true → ∃ t u, exec .loss s = .next (entryGo u) ∧
      u = deltasReleased (mirrorsLost t) (s.plink.lease && !s.fm.selfStop) ∧ t.plink.lost = true ∧
      (s.plink.lease = true → s.fm.selfStop = false → t.pstate = 0 ∧ t.epoch = (s.epoch + 1) % 2 ^ 64 ∧ t.pmaster = true ∧ t.regB 0x324 oIrqRaw 1 = true) ∧
      (s.plink.lease = false ∨ s.fm.selfStop = true → t.pstate = 4 ∧ t.fence = true ∧ t.pmaster = false ∧ ∀ a, (a % 64 ≠ 0 ∨ a < 0x200000000) → t.byteAt a = s.byteAt a))) ∧
  (∀ s : State, (mayAsk s = false → exec .leaseReq s = .next s) ∧
    (mayAsk s = true → ∃ t, exec .leaseReq s = .next t ∧ t.mem = s.mem ∧ t.regs = s.regs ∧ t.plink.asked = true ∧
      (s.linkUp 8 = false → s.linkUp 9 = false → t.out = s.out) ∧
      (s.linkUp 8 = true → s.linkUp 9 = false → t.out = .cst 8 0 none (witness s 0) (cstBytes (leaseFrame s)) :: s.out) ∧
      (s.linkUp 8 = true → s.linkUp 9 = true → t.out = .cst 9 0 none (witness s 1) (cstBytes (leaseFrame s)) ::
        .cst 8 0 none (witness s 0) (cstBytes (leaseFrame s)) :: s.out))) ∧
  (∀ (s : State) (k : Fin 2) (b : List Byte) (e : BitVec 16),
    (mgFrame s k.val b 0x21 = none → exec (.leaseGrant k b e) s = .next s) ∧
    (mgFrame s k.val b 0x22 = none → exec (.leaseDeny k b) s = .next s) ∧
    (∀ f, mgFrame s k.val b 0x22 = some f → exec (.leaseDeny k b) s = .next (s.setPlink { s.plink with asked := false })) ∧
    (∀ f, mgFrame s k.val b 0x21 = some f →
      (f.off ≠ s.serialNo ∨ s.plink.asked = false ∨ hbStopped s = true ∨ f.arg ≤ 5 + e.toNat → exec (.leaseGrant k b e) s = .next s) ∧
      (f.off = s.serialNo → s.plink.asked = true → hbStopped s = false → 5 + e.toNat < f.arg → s.pstate = 0 ∨ s.pstate = 3 →
        exec (.leaseGrant k b e) s = .next ((s.setPlink { s.plink with lease := true, asked := false }).setReg 0x324 0x14C
          (w32 (min 0xFFFF (f.arg - 5 - e.toNat))))) ∧
      (f.off = s.serialNo → s.plink.asked = true → hbStopped s = false → 5 + e.toNat < f.arg → s.pstate = 4 → s.plink.refused = false →
        Regs.wf s = true → ∃ t, exec (.leaseGrant k b e) s = .next t ∧ t.pstate = 0 ∧ t.pmaster = true ∧ t.plink.lease = true ∧
          t.fence = false ∧ t.epoch = (if s.fence then (s.epoch + 1) % 2 ^ 64 else s.epoch)))) ∧
  (∀ s : State, (s.plink.lease = false → exec .leaseLapse s = .next (entryGo s)) ∧
    (s.plink.lease = true → ∀ t, t = ((s.setPlink { s.plink with lease := false }).setReg 0x324 0x14C 0).irqBit 0x324 4 →
      (s.pstate ≠ 0 ∨ s.nowit = true → exec .leaseLapse s = .next (entryGo t)) ∧
      (s.pstate = 0 → s.nowit = false → s.plink.lost = true → exec .leaseLapse s = .next (entryGo (deltasReleased (fencedSteps t) false))) ∧
      (s.pstate = 0 → s.nowit = false → s.plink.lost = false →
        exec .leaseLapse s = .next (entryGo (homeAll (masterLost (t.setPstate 4)) false)))))

/-- The answer to a write that is refused with a cause: the error is recorded, nothing else changes (R106). -/
def refusedWrite (s : State) (id : MasterId) (page off : Nat) (c : BusCause) : State :=
  { s.berr id (regAddr page off) true c with resp := .err c }
/-- Page and offset of mailbox register `sub` of channel `c` (R393). -/
def mbAt (c sub : Nat) : Nat × Nat := (mbPage c, mbOff c + sub)

/-- A lockstep pair, led by core `n`, runs an instruction with prefixes `p` that are of the instruction's page. -/
def pairRuns (s : State) (n : Fin 8) (op : DisOp) (p : Pfx) (a : Acc) : Prop :=
  op.ex = .turret n ∧ op.stop = none ∧ op.reserved = none ∧ pfxParse {} op.pfx = some p ∧ p.page = a.page ∧ s.executes n = true ∧
    s.lockstep n = true

/-- SOFTWARE_EVENT_SET sets the bits written. A route word that is enabled for a turret with LEVEL 0 or a vector below 0x20 ends ACCESS; another one is stored. A binding that sets VALID needs IDA < IDB <= 25; a bound word takes only 0, which clears the channel; on a locked page nothing happens. A mailbox register answers only its channel's two identities: TXLO stages, TXHI pushes or sets TXOVF, RING rings the other side below bit 31, WAIT and POP act on the own side, POP of an empty queue sets RXUNF. A read of a free lock acquires it, of a held one names the owner; a release by the owner frees it, by the Keep sets FORCED, by another ends ACCESS. -/
def Obligations.EventsMailboxesAndLocks : Prop :=
  (∀ (s : State) (id : MasterId) (r : Fin 4) (v : Word32), s.issues id = true → Regs.wf s = true → ∃ t,
    exec (.softwareEventSet id r v) s = .next t ∧ t.reg 0x40 (0x144 + 4 * r.val) = s.reg 0x40 (0x144 + 4 * r.val) ||| v ∧
    t.mem = s.mem ∧ t.resp = .done) ∧
  (∀ (s : State) (id : MasterId) (e : Fin 512) (v : Word32), s.issues id = true →
    (s.custodyOf id = false → exec (.routeWrite id e v) s =
      .next (refusedWrite s id (0x41 + e.val / 256) (0x100 + e.val % 256 * 4) .access)) ∧
    (s.custodyOf id = true → regBit v 31 = true → regFld v 16 8 ≠ 0 → regFld v 8 4 = 0 ∨ regFld v 0 8 < 0x20 →
      exec (.routeWrite id e v) s = .next (refusedWrite s id (0x41 + e.val / 256) (0x100 + e.val % 256 * 4) .access)) ∧
    (s.custodyOf id = true → Regs.wf s = true → regBit v 31 = false ∨ regFld v 16 8 = 0 ∨ (regFld v 8 4 ≠ 0 ∧ 0x20 ≤ regFld v 0 8) →
      ∃ t, exec (.routeWrite id e v) s = .next t ∧ t.route e.val = v &&& 0xE0FF0FFF ∧ t.mem = s.mem ∧ t.resp = .done)) ∧
  (∀ (s : State) (id : MasterId) (c : Fin 64) (v : Word32), s.issues id = true → s.custodyOf id = true →
    (s.locked 0x60 = true → exec (.bindingWrite id c v) s = .next { s with resp := .done }) ∧
    (s.locked 0x60 = false → regBit v 31 = true → ¬(regFld v 0 5 < regFld v 8 5 ∧ regFld v 8 5 ≤ 25) →
      exec (.bindingWrite id c v) s = .next (refusedWrite s id 0x60 (0x100 + 4 * c.val) .access)) ∧
    (s.locked 0x60 = false → regBit v 31 = false ∨ (regFld v 0 5 < regFld v 8 5 ∧ regFld v 8 5 ≤ 25) →
      (regBit (s.binding c.val) 31 = true → v ≠ 0 →
        exec (.bindingWrite id c v) s = .next (refusedWrite s id 0x60 (0x100 + 4 * c.val) .binding)) ∧
      (regBit (s.binding c.val) 31 = true → v = 0 →
        exec (.bindingWrite id c v) s = .next { mbPut (s.setReg 0x60 (0x100 + 4 * c.val) 0) c.val {} with resp := .done }) ∧
      (regBit (s.binding c.val) 31 = false → regBit v 31 = true → exec (.bindingWrite id c v) s =
        .next { mbPut (s.setReg 0x60 (0x100 + 4 * c.val) (v &&& 0x80001F1F)) c.val {} with resp := .done }))) ∧
  (∀ x ∈ ([((fun id c v => .mbTxlo id c v), 0x00), ((fun id c v => .mbTxhi id c v), 0x04), ((fun id c v => .mbRing id c v), 0x20),
      ((fun id c v => .mbWait id c v), 0x14), ((fun id c _ => .pop id c), 0x14)] : List ((MasterId → Fin 64 → Word32 → Instr) × Nat)),
    ∀ (s : State) (id : MasterId) (c : Fin 64) (v : Word32), s.issues id = true → s.mbSide c.val id.val = none →
      exec (x.1 id c v) s = .next (refusedWrite s id (mbAt c.val x.2).1 (mbAt c.val x.2).2 .identity)) ∧
  (∀ (s : State) (id : MasterId) (c : Fin 64) (b : Bool) (v : Word32), s.issues id = true → s.mbSide c.val id.val = some b →
    exec (.mbTxlo id c v) s =
      .next { mbPut s c.val ((s.chan c.val).setSide b { (s.chan c.val).side b with staged := v }) with resp := .done } ∧
    (8 ≤ ((s.chan c.val).side b).queue.length → exec (.mbTxhi id c v) s = .next
      { mbPut s c.val ((s.chan c.val).setSide b { (s.chan c.val).side b with flags := ((s.chan c.val).side b).flags ||| 4 }) with resp := .done }) ∧
    (((s.chan c.val).side b).queue.length < 8 → exec (.mbTxhi id c v) s = .next
      { mbPut s c.val ((s.chan c.val).setSide b { (s.chan c.val).side b with queue := ((s.chan c.val).side b).queue ++
          [(cell (v.toNat * 2 ^ 32 + ((s.chan c.val).side b).staged.toNat), false)] }) with resp := .done }) ∧
    exec (.mbRing id c v) s = .next { mbPut s c.val ((s.chan c.val).setSide (!b)
      { (s.chan c.val).side (!b) with db := ((s.chan c.val).side (!b)).db ||| (v &&& 0x7FFFFFFF) }) with resp := .done } ∧
    (regBit v 0 = false → exec (.mbWait id c v) s = .next
      { mbPut s c.val ((s.chan c.val).setSide b { (s.chan c.val).side b with wait := regBit v 1 }) with resp := .done }) ∧
    (swf (fun _ => ({} : MbChan)) s.mbx = true →
      (((s.chan c.val).side (!b)).queue = [] → ∃ t, exec (.pop id c) s = .next t ∧ t.mem = s.mem ∧ t.resp = .done ∧
        (t.chan c.val).side b = { (s.chan c.val).side b with flags := ((s.chan c.val).side b).flags ||| 2 } ∧
        (t.chan c.val).side (!b) = (s.chan c.val).side (!b)) ∧
      (∀ m r, ((s.chan c.val).side (!b)).queue = m :: r → ∃ t, exec (.pop id c) s = .next t ∧ t.mem = s.mem ∧ t.resp = .done ∧
        (t.chan c.val).side b = (s.chan c.val).side b ∧
        (t.chan c.val).side (!b) = { (s.chan c.val).side (!b) with queue := r }))) ∧
  (∀ (s : State) (id : MasterId) (n : Fin 16), s.issues id = true →
    (sget s.lck n.val none = none → exec (.lockRead id n) s = .next { s with lck := sput s.lck n.val (some id.val) none,
                                                                             resp := .data (leBytes 4 (0x80000000 + id.val)) false }) ∧
    (∀ o, sget s.lck n.val none = some o → exec (.lockRead id n) s =
      .next { s with resp := .data (leBytes 4 (w32 (0x40000000 + o)).toNat) false }) ∧
    (∀ v, v ≠ 0 → exec (.lockRelease id n v) s = .next (refusedWrite s id 0x1C0 (0x100 + 4 * n.val) .access)) ∧
    (sget s.lck n.val none = some id.val → exec (.lockRelease id n 0) s =
      .next { s with lck := sput s.lck n.val none none, resp := .done }) ∧
    (sget s.lck n.val none ≠ some id.val → id.val ≠ 23 → exec (.lockRelease id n 0) s =
      .next (refusedWrite s id 0x1C0 (0x100 + 4 * n.val) .access)) ∧
    (sget s.lck n.val none ≠ some id.val → id.val = 23 → exec (.lockRelease id n 0) s =
      .next { ({ s with lck := sput s.lck n.val none none } : State).irqBit 0x1C0 0 with resp := .done }))

/-- BUCKET_SHIFT of a page whose B ticks have passed drops its oldest bucket and takes the WINDOW now in ERRCFG; before that it changes nothing. A page that has not signalled declares nothing; one that has gets a LASTING record, its buckets emptied and LASTING one higher, and the action of its page, then the self-stop test. In a lockstep pair whose cores hold the same state, each of the 55 scalar instructions does its row on both, and they hold the same state again. A comparator self-fault, a delay-register fault or a difference in its stead halts the pair with class 4, 3 or 1: the first-difference record, unless one is VALID, the class's IRQ bit, stores not yet sent lost, memory as it was. The Keep acts on a halted pair whose source reaches it: INPUT, a CORE that has not signalled and a first DREG in the window give a pair warm reset, after which the pair is LOCKED; a SELF fault during that reset is recorded and makes the pair split-only and offline instead. SELF makes the pair split-only and offline, a signalled CORE or a second DREG in the window offline. SYNCHRONOUS_TICK ticks, then takes the disturbances named with it in order: one bad bit of a route word or of a queued message is corrected and counted, more clear the route's EN and set ROUTEUE, or mark the message; a parity or corrected-word event of a powered block whose page counts such events is counted there. The injection test from another identity ends IDENTITY; the Keep's sets INJOK for every group that passes, and a pair that lacks one is split-only with INJFAIL. -/
def Obligations.FaultsAreCountedDeclaredAndRecovered : Prop :=
  (∀ (s : State) (p : BitVec 12), (s.fwTicks < (s.err p.toNat).shifted + (s.err p.toNat).period ∨ pageBlock p.toNat = none →
      exec (.bucketShift p) s = .next s) ∧
    ((s.err p.toNat).shifted + (s.err p.toNat).period ≤ s.fwTicks → pageBlock p.toNat ≠ none →
      exec (.bucketShift p) s = .next (s.setErr p.toNat { s.err p.toNat with
        buckets := 0 :: (s.err p.toNat).buckets.take 7, shifted := (s.err p.toNat).shifted + (s.err p.toNat).period,
        period := ceilDiv (s.errWindow p.toNat) 8 }))) ∧
  (∀ (s : State) (p : BitVec 12), ((s.err p.toNat).signal = false → exec (.lastingFaultDeclaration p) s = .next (entryGo s)) ∧
    ((s.err p.toNat).signal = true →
      (lastingCode p.toNat = 0 → exec (.lastingFaultDeclaration p) s =
        .next (entryGo (selfStopTest (declareLog s p.toNat 1 0 0)))) ∧
      (∀ n < 8, p.toNat = 0x160 + n → exec (.lastingFaultDeclaration p) s =
        .next (entryGo (selfStopTest ((declareLog s p.toNat 1 2 0).fenceSpire ⟨n % 8, Nat.mod_lt _ (by decide)⟩)))) ∧
      (0x300 ≤ p.toNat → p.toNat < 0x308 → exec (.lastingFaultDeclaration p) s =
        .next (entryGo (selfStopTest (linkLasting (declareLog s p.toNat 1 4 0) p.toNat))))) ∧
    (swf (fun _ => ({} : PageErr)) s.errs = true → swf (fun _ => ({} : FmRec)) s.fm.recs = true → ∀ kind act why,
      (declareLog s p.toNat kind act why).err p.toNat = { s.err p.toNat with
        buckets := List.replicate 8 0, lasting := min ((s.err p.toNat).lasting + 1) 255, signal := false } ∧
      (declareLog s p.toNat kind act why).fm.head = (s.fm.head + 1) % 64 ∧
      (sget (declareLog s p.toNat kind act why).fm.recs s.fm.head {}).r1 = w32 (kind * 2 ^ 28 + act * 2 ^ 24 + p.toNat))) ∧
  (∀ (s : State) (p : BitVec 12), (s.err p.toNat).signal = true → exec (.lastingFaultDeclaration p) s =
    .next (entryGo (selfStopTest (lastingAction (declareLog s p.toNat 1 (lastingCode p.toNat) 0) p.toNat)))) ∧
  (∀ r ∈ scalarRows, ∀ (s : State) (n : Fin 8) (op : DisOp) (p : Pfx), pairRuns s n op p r.acc →
    (∀ (cs : List Cell) (rest : List WCell), op.hw = .quiet → pfxBad r.acc p = false → once p →
      fetchCheck s n (op.pfx.length + 1) 0 = .ok () s → s.core (oddCore (pairOf n)) = s.core n → (s.cx n).win = cellsOf cs ++ rest →
      cs.length = r.k → rest.length + r.m ≤ 32 → ∃ t, exec (r.instr op) s = .next t ∧
        t.core n = (afterOp s n (cellsOf (r.f p.bits (s.cx n).flags cs).1 ++ rest) (r.f p.bits (s.cx n).flags cs).2 (nextPc s n op 0)).core n ∧
        t.core (oddCore (pairOf n)) = t.core n ∧ t.mem = s.mem ∧ t.regs = s.regs ∧ t.pairs = s.pairs) ∧
    (∀ g, op.hw = .selfFault g → exec (r.instr op) s = .next (cmpHalt s (pairOf n) 4 g.val false (s.cx n).pc.toNat)) ∧
    (∀ o sl g, op.hw = .dreg o sl g → exec (r.instr op) s = .next (cmpHalt (s.setReg (0x1A8 + (pairOf n).val) 0x11C
      (w32 (b2n o * 2 ^ 15 + sl.toNat))) (pairOf n) 3 (if o then g.val else 0) false (s.cx n).pc.toNat)) ∧
    (∀ g, op.hw = .coreFault g → exec (r.instr op) s = .next (cmpHalt s (pairOf n) 1 g.val false (s.cx n).pc.toNat))) ∧
  (∀ (s : State) (p : Fin 4) (cls : Nat) (g : Fin 8) (d : Bool) (pc : Nat), 1 ≤ cls → cls ≤ 4 → Regs.wf s = true →
    ((cmpHalt s p cls g.val d pc).pair p).st = .halt ∧ ((cmpHalt s p cls g.val d pc).pair p).haltClass = cls ∧
    (cmpHalt s p cls g.val d pc).regB (0x1A8 + p.val) oIrqRaw (cls - 1) = true ∧ (cmpHalt s p cls g.val d pc).mem = s.mem ∧
    ((cmpHalt s p cls g.val d pc).core (evenCore p)).sb = [] ∧ ((cmpHalt s p cls g.val d pc).core (oddCore p)).sb = [] ∧
    (s.regB (0x1A8 + p.val) 0x100 31 = false → (cmpHalt s p cls g.val d pc).regF (0x1A8 + p.val) 0x100 27 3 = cls ∧
      (cmpHalt s p cls g.val d pc).regF (0x1A8 + p.val) 0x100 24 3 = g.val ∧
      (cmpHalt s p cls g.val d pc).reg (0x1A8 + p.val) 0x104 = w32 pc) ∧
    (s.regB (0x1A8 + p.val) 0x100 31 = true →
      (cmpHalt s p cls g.val d pc).reg (0x1A8 + p.val) 0x100 = s.reg (0x1A8 + p.val) 0x100)) ∧
  (∀ (s : State) (p : Fin 4) (self : Option (Fin 8)),
    ((s.pair p).st ≠ .halt ∨ s.toKeep (246 + p.val) = false → exec (.pairRecovery p self) s = .next s) ∧
    ((s.pair p).st = .halt → s.toKeep (246 + p.val) = true →
      ((s.pair p).haltClass = 4 → exec (.pairRecovery p self) s =
        .next (pairLasting (s.setPair p { s.pair p with splitOnly := true }) p 2 3)) ∧
      ((s.pair p).haltClass = 3 → dregSecond s p = true → exec (.pairRecovery p self) s =
        .next (pairLasting (s.setErr (0x1A8 + p.val) { s.err (0x1A8 + p.val) with dreg := none }) p 1 0)) ∧
      ((s.pair p).haltClass = 1 → (s.err (0x1A8 + p.val)).signal = true → exec (.pairRecovery p self) s = .next (pairLasting s p 1 0)) ∧
      (∀ x : State, ((s.pair p).haltClass = 3 ∧ dregSecond s p = false ∧
            x = s.setErr (0x1A8 + p.val) { s.err (0x1A8 + p.val) with dreg := some s.fwTicks }) ∨
          (((s.pair p).haltClass = 2 ∨ ((s.pair p).haltClass = 1 ∧ (s.err (0x1A8 + p.val)).signal = false)) ∧ x = s) →
        (self = none → exec (.pairRecovery p self) s = .next (coreReset (x.setPair p { x.pair p with st := .locked, haltClass := 0 })
            (evenCore p) 5) ∧ ((pairWarmReset x p).pair p).st = .locked) ∧
        (∀ g, self = some g → exec (.pairRecovery p self) s = .next (pairLasting
          ((cmpHalt x p 4 g.val false (x.core (evenCore p)).ctx.pc.toNat).setPair p
            { (cmpHalt x p 4 g.val false (x.core (evenCore p)).ctx.pc.toNat).pair p with splitOnly := true }) p 2 3)))) ∧
    (swf domainReset s.domains = true → ∀ k r, ((pairLasting s p k r).pair p).st = .offline ∧
      ((pairLasting s p k r).pair p).splitOnly = (s.pair p).splitOnly ∧ (pairLasting s p k r).dom (pdCmp p.val) = false)) ∧
  (∀ (s : State) (us : List InnerUpset), exec (.synchronousTick []) s = .next (syncTick s) ∧
    (∀ t, exec (.synchronousTick us) s = .next t →
      (∀ e : Fin 512, exec (.synchronousTick (us ++ [.route e 1])) s = .next (t.correctable (0x41 + e.val / 256)) ∧
        (∀ b, 2 ≤ b → Regs.wf t = true → ∃ r, exec (.synchronousTick (us ++ [.route e b])) s = .next r ∧
          regBit (r.route e.val) 31 = false ∧ r.regB 0x40 oIrqRaw 0 = true ∧ r.mem = t.mem)) ∧
      (∀ (c : Fin 64) (side : Bool) (k : Fin 8) m, ((t.chan c.val).side side).queue[k.val]? = some m →
        exec (.synchronousTick (us ++ [.message c side k 1])) s = .next (t.correctable (mbPage c.val)) ∧
        (∀ b, 2 ≤ b → exec (.synchronousTick (us ++ [.message c side k b])) s = .next (t.setChan c.val ((t.chan c.val).setSide side
          { (t.chan c.val).side side with queue := ((t.chan c.val).side side).queue.set k.val (m.1, true) })))) ∧
      (∀ p : BitVec 12, innerCounted p.toNat = true → t.pageOn p.toNat = true →
        exec (.synchronousTick (us ++ [.counted p])) s = .next (t.correctable p.toNat)))) ∧
  (∀ (s : State) (id : MasterId) (p : Fin 4) (g f : BitVec 8), s.issues id = true →
    (id.val ≠ 23 ∨ s.held (evenCore p) = false ∨ s.held (oddCore p) = false →
      exec (.injectionTest id p g f) s = .next (refusedWrite s id (0x1A8 + p.val) 0x110 .identity)) ∧
    (id.val = 23 → s.held (evenCore p) = true → s.held (oddCore p) = true →
      (s.dom (pdCmp p.val) = false → exec (.injectionTest id p g f) s = .next { s with resp := .done }) ∧
      (s.dom (pdCmp p.val) = true → (s.pair p).injok = 0 → (s.pair p).injHalf = 0 → Regs.wf s = true →
        ∃ t, exec (.injectionTest id p g f) s = .next t ∧ t.mem = s.mem ∧ t.resp = .done ∧ (t.pair p).injok = (g &&& ~~~f).toNat ∧
          (g &&& ~~~f = 255 → t.regs = s.regs ∧ (t.pair p).splitOnly = (s.pair p).splitOnly) ∧
          (g &&& ~~~f ≠ 255 → (t.pair p).splitOnly = true ∧ t.regB (0x1A8 + p.val) oIrqRaw 5 = true))))

/-- A frame of the calibration port: the command, a status byte, data, and their CRC-32C (R418). -/
def calFrame (cmd status : Nat) (data : List Byte) : Out :=
  let body := leBytes 1 cmd ++ leBytes 1 (1 + data.length) ++ leBytes 1 status ++ data
  .meter (0x7E :: (body ++ beBytes 4 (crcInv body)))
/-- The next entry of the audit log (R419). -/
def cupEntry (s : State) (kind param old new : Nat) : CupLog :=
  { num := s.cup.log.length, kind := kind, param := param, opsec := s.cup.opsec, old := old, new := new }
/-- The register and parameter tables the Cupola statements read are in canonical form. -/
def cupWf (s : State) : Prop := Regs.wf s = true ∧ Memory.wf s = true

/-- A die that is not ready takes no sample and makes no snapshot. A sample leaves every energy register below 10^12; a positive power counts in the import register, a negative one in the export register, and no other: the residue takes the whole µWh (28,800,000 µW samples each; what is less stays, log entry 57), and each whole Wh of it raises the register by 1 modulo 10^12. A sample in which CUP_V0 crosses zero ends the half-cycle with the peaks before it and is the first of the next; before the first crossing no half-cycle ends. A snapshot raises CW_SEQ to the next even value, shows CW_TAG and OPSEC, at the first snapshot CW_STAT with its Reset values, and changes nothing below the window. An ended half-cycle shows its peaks in CUPW_PK and sets PEAK. A mark reaches the Belfry only while marks are emitted and CUP_V0 is its source. Self-check, temperature and warm-up change what they name. A completed power-fail write saves registers and OPSEC, a periodic one is no power-fail write, and at power-up the saved registers return; a save that was no power-fail write makes HOLDUP_OK 0. -/
def Obligations.CupolaMeasuresAndPublishes : Prop :=
  (∀ (s : State) (a b c d : CupSample),
    (s.cup.ready = false → exec (.sample a b c d) s = .next s ∧ exec .snapshot s = .next s ∧ exec .halfCyclePeak s = .next s ∧
      exec .warmUpEnd s = .next s ∧ exec .periodicSave s = .next s ∧ (∀ x, exec (.selfCheck x) s = .next s) ∧
      (∀ n, exec (.phaseMark n) s = .next s) ∧ (∀ x y, exec (.brownOut x y) s = .next s) ∧
      (∀ x, exec (.dieTemperatureChange x) s = .next { s with cup := { s.cup with tempOk := x } })) ∧
    (s.cup.ready = true → ∃ c', exec (.sample a b c d) s = .next { s with cup := c' } ∧
      c'.log = s.cup.log ∧ c'.params = s.cup.params ∧ c'.sealed = s.cup.sealed ∧ c'.save = s.cup.save ∧
      ((∀ r : Fin 10, s.cup.energy.reg[r] < 1000000000000) → ∀ r : Fin 10, c'.energy.reg[r] < 1000000000000))) ∧
  (∀ (e : CupEnergy) (i x : Fin 10) (p : Int), i ≠ x →
    (energyPower e i x 0 = e) ∧
    (p ≠ 0 → ∀ y q, (y, q) = (if 0 < p then (i, p.toNat) else (x, (-p).toNat)) →
      (energyPower e i x p).reg[y] = (e.reg[y] + (e.res[y] + (e.part[y] + q) / 28800000) / 1000000) % 1000000000000 ∧
      (energyPower e i x p).res[y] = (e.res[y] + (e.part[y] + q) / 28800000) % 1000000 ∧
      (energyPower e i x p).part[y] = (e.part[y] + q) % 28800000 ∧
      ∀ r : Fin 10, r ≠ y → (energyPower e i x p).reg[r] = e.reg[r] ∧ (energyPower e i x p).res[r] = e.res[r] ∧
        (energyPower e i x p).part[r] = e.part[r])) ∧
  (∀ (s : State) (a b c d : CupSample), s.cup.ready = true → cupTimed s.cup = false → s.cup.nhalf = 0 →
    ∃ t, exec (.sample a b c d) s = .next t ∧ t.cup.ended = s.cup.ended ∧ t.cup.halves = s.cup.halves) ∧
  (∀ (s : State) (a b c d : CupSample), s.cup.ready = true → cupTimed s.cup = false → s.cup.nhalf ≠ 0 →
    crossAny s.cup.v0 (gained a.v ((cupParam s.cup 0x10).getD 0)) = true → ∃ t, exec (.sample a b c d) s = .next t ∧
      t.cup.ended = some (s.cup.chans.toList.map (·.peak) ++ [s.cup.peakTot]) ∧ t.cup.halves = s.cup.halves + 1 ∧
      ∀ k : Fin 4, t.cup.chans[k].peak = (samplePower s.cup k.val (#v[a, b, c, d] : Vector CupSample 4)[k] / 1000).toNat) ∧
  (∀ s : State, s.cup.ready = true → cupWf s → (∀ e ∈ s.cup.log, e.num < 256) → ∃ t, exec .snapshot s = .next t ∧ t.cup.energy = s.cup.energy ∧
    t.cwSeq = seqNext s.cwSeq % 2 ^ 32 ∧ t.le (cupBase + 0x0C) 4 = 0 ∧ t.le (cupBase + 0x08) 4 = s.cup.opsec % 2 ^ 32 ∧
    (s.cwSeq = 0 → t.le (cupBase + 0x04) 4 = (if s.cup.sealed then 2 ^ 31 else 0) + 2 ^ 27 + cupMode s.cup % 8 * 2 ^ 24 + 2 ^ 19 + 2 ^ 16 + 60) ∧
    ∀ a, a < cupBase → t.byteAt a = s.byteAt a) ∧
  (∀ s : State, (s.cup.ended = none → exec .halfCyclePeak s = .next s) ∧
    (∀ l, s.cup.ready = true → s.cup.ended = some l → s.boot.power ≠ .off → cupWf s → ∃ t, exec .halfCyclePeak s = .next t ∧
      (∀ k < 5, t.reg 0x382 (0x100 + 4 * k) = w32 (l.getD k 0)) ∧ t.reg 0x382 0x114 = w32 s.cup.halves ∧
      t.regB 0x382 oIrqRaw 0 = true ∧ t.cup.energy = s.cup.energy ∧ t.cup.ended = none)) ∧
  (∀ (s : State) (n : Nat), s.cup.ready = true → exec (.phaseMark n) s =
    .next (if cupNomark s.cup = false ∧ s.belfSrc = 0 then belfCross s n else s)) ∧
  (∀ (s : State) (b : Bool), s.cup.ready = true →
    exec (.selfCheck b) s = .next (statUpdate { s with cup := { s.cup with selfOk := b } }) ∧
    exec (.dieTemperatureChange b) s = .next (statUpdate { s with cup := { s.cup with tempOk := b } }) ∧
    exec .warmUpEnd s = .next (if s.cup.warm = true ∧ s.cup.warmLeft = 0
      then statUpdate { s with cup := { s.cup with warm := false } } else s)) ∧
  (∀ s : State, s.cup.ready = true →
    (∀ l, cupWf s → ∃ t, exec (.brownOut true l) s = .next t ∧ t.cup.save = { energy := s.cup.energy, opsec := s.cup.opsec, fail := true } ∧
      t.cup.holdupOk = true ∧ (l = false → t.cup.ready = true ∧ t.cup.warm = true ∧ t.cup.warmLeft = 60 ∧ t.cup.energy = s.cup.energy) ∧
      (l = true → t.cup.ready = false ∧ t.regB 0x380 oIrqRaw 1 = true ∧ ∀ a, cupBase ≤ a → a < cupBase + 0x10000 → t.byteAt a = 0)) ∧
    ((s.cup.opsec + 2 ^ 32 - s.cup.savedAt) % 2 ^ 32 < 3600 → exec .periodicSave s = .next s) ∧
    (3600 ≤ (s.cup.opsec + 2 ^ 32 - s.cup.savedAt) % 2 ^ 32 → exec .periodicSave s = .next { s with cup := { s.cup with
      save := { energy := s.cup.energy, opsec := s.cup.opsec, fail := false }, savedAt := s.cup.opsec } }) ∧
    (∀ b, exec (.cupolaPowerUp b) s = .next s)) ∧
  (∀ (s : State) (b : Bool), s.cup.ready = false → ∃ t, exec (.cupolaPowerUp b) s = .next t ∧ t.cup.ready = true ∧
    t.cup.energy = s.cup.save.energy ∧ t.cup.opsec = s.cup.save.opsec ∧ t.cup.holdupOk = (s.cup.holdupOk && s.cup.save.fail) ∧
    (s.cup.save.fail = true → b = s.cup.calenLogged → t.cup.log = s.cup.log) ∧
    (s.cup.save.fail = false → b = s.cup.calenLogged → s.cup.log.length < 256 → ∃ n, t.cup.log = s.cup.log ++
      [{ num := s.cup.log.length, kind := 6, param := 0, opsec := s.cup.save.opsec, old := s.cup.save.opsec, new := n }]))

/-- CUPW_CMDGO while BUSY ends BINDING, on an absent die ends with RESULT 3, an accepted request makes the slot BUSY, another is refused and counted. ALIGN, SIGN, PING and SNAPINT act only on a request of their kind, and end it with RESULT 1: a snapshot with the tag and SNAP, a signed record and SIGNED, PONG with the value, the interval stored. EVPOP removes the head. The calibration port answers only while the die is ready and CUP_CAL_EN high: IDENT, RDPARAM and RDLOG answer data or status 1; WRPARAM and SEAL are refused with status 1, or 2 without a free entry, and otherwise are logged before they apply. A change of CUP_CAL_EN is logged. -/
def Obligations.CupolaAnswersRequestsAndCalibration : Prop :=
  (∀ (s : State) (id : MasterId) (v : Word32), s.issues id = true →
    (regBit v 0 = false → exec (.cupwCmdgo id v) s = .next { s with resp := .done }) ∧
    (regBit v 0 = true → s.cup.master.isSome = true → exec (.cupwCmdgo id v) s = .next (refusedWrite s id 0x380 0x110 .binding)) ∧
    (regBit v 0 = true → s.cup.master = none → s.cup.ready = false →
      exec (.cupwCmdgo id v) s = .next { cmdEnd s 3 with resp := .done }) ∧
    (∀ w, regBit v 0 = true → s.cup.master = none → s.cup.ready = true →
      w = (rangeFrom 0 4).map (fun i => (s.reg 0x380 (0x100 + 4 * i)).toNat) →
      (cmdOk w = true → exec (.cupwCmdgo id v) s =
        .next { ({ s with cup := { s.cup with master := some w } } : State).setReg 0x380 0x114 0x80000000 with resp := .done }) ∧
      (cmdOk w = false → exec (.cupwCmdgo id v) s = .next { cmdEnd (cupRefuse s (w.getD 0 0 % 256)) 2 with resp := .done })) ∧
    exec (.evpop id) s = .next { s with cup := { s.cup with evq := s.cup.evq.drop 1 }, resp := .done }) ∧
  (∀ s : State, (cupHas s 1 = none → exec (.align true) s = .next s) ∧ (cupHas s 2 = none → exec .sign s = .next s) ∧
    (cupHas s 3 = none → exec .ping s = .next s) ∧ (cupHas s 4 = none → exec .snapint s = .next s) ∧
    (s.cup.align = none ∨ s.cup.ready = false → exec (.align false) s = .next s) ∧
    (∀ w, cupHas s 1 = some w → exec (.align true) s = .next (cmdEnd (cupMsg (snapshot s (w.getD 1 0) []) 1 (w.getD 1 0)) 1)) ∧
    (∀ g, s.cup.align = some g → s.cup.ready = true → exec (.align false) s =
      .next (cupMsg (snapshot { s with cup := { s.cup with align := none } } g []) 1 g)) ∧
    (∀ w, cupHas s 2 = some w → cupWf s → (∀ e ∈ s.cup.log, e.num < 256) → ∃ t, exec .sign s = .next t ∧ t.cup.master = none ∧
      t.reg 0x380 0x114 = 1 ∧ t.cup.energy = s.cup.energy ∧ t.bytes (cupBase + 0x2000) 4 = leBytes 4 0x43555052 ∧
      t.bytes (cupBase + 0x2020) 12 = leBytes 4 (w.getD 1 0) ++ leBytes 4 (w.getD 2 0) ++ leBytes 4 (w.getD 3 0)) ∧
    (∀ w, cupHas s 3 = some w → exec .ping s = .next (cmdEnd (cupMsg s 5 (w.getD 1 0)) 1)) ∧
    (∀ w, cupHas s 4 = some w → exec .snapint s =
      .next (cmdEnd { s with cup := { s.cup with snapint := w.getD 1 0 % 65536 } } 1))) ∧
  (∀ (s : State) (p n : Byte) (v : Word32),
    (s.cup.ready = false ∨ s.cup.calen = false → exec .ident s = .next s ∧ exec (.rdparam p) s = .next s ∧
      exec (.wrparam p v) s = .next s ∧ exec .sealCal s = .next s ∧ exec (.rdlog n) s = .next s) ∧
    (s.cup.ready = true → s.cup.calen = true →
      exec .ident s = .next { s with out := calFrame 1 0 (beBytes 2 s.cup.fwver.toNat ++ beBytes 4 s.cup.fwcrc.toNat ++
        beBytes 8 s.cup.serial.toNat ++ beBytes 1 (if s.cup.sealed then 1 else 0)) :: s.out } ∧
      (∀ x, cupParam s.cup p.toNat = some x → exec (.rdparam p) s = .next { s with out := calFrame 2 0 (beBytes 4 x) :: s.out }) ∧
      (cupParam s.cup p.toNat = none → exec (.rdparam p) s = .next { s with out := calFrame 2 1 [] :: s.out } ∧
        exec (.wrparam p v) s = .next { s with out := calFrame 3 1 [] :: s.out }) ∧
      (p.toNat = 0 → s.cup.sealed = true ∨ 3 < v.toNat → exec (.wrparam p v) s = .next { s with out := calFrame 3 1 [] :: s.out }) ∧
      (∀ x, cupParam s.cup p.toNat = some x → p.toNat ≠ 0 ∨ (s.cup.sealed = false ∧ v.toNat ≤ 3) →
        (256 ≤ s.cup.log.length → exec (.wrparam p v) s = .next { s with out := calFrame 3 2 [] :: s.out }) ∧
        (s.cup.log.length < 256 → swf (fun k => if 0x10 ≤ k ∧ k < 0x18 then 0x40000000 else if 0x1C ≤ k then 250 else 0) s.cup.params = true →
          ∃ t, exec (.wrparam p v) s = .next t ∧ cupParam t.cup p.toNat = some v.toNat ∧ t.cup.energy = s.cup.energy ∧
            t.out = calFrame 3 0 [] :: s.out ∧ t.cup.log = s.cup.log ++ [cupEntry s 1 p.toNat x v.toNat])) ∧
      (cupMode s.cup = 0 ∨ s.cup.sealed = true → exec .sealCal s = .next { s with out := calFrame 4 1 [] :: s.out }) ∧
      (cupMode s.cup ≠ 0 → s.cup.sealed = false →
        (256 ≤ s.cup.log.length → exec .sealCal s = .next { s with out := calFrame 4 2 [] :: s.out }) ∧
        (s.cup.log.length < 256 → ∃ t, exec .sealCal s = .next t ∧ t.cup.sealed = true ∧ t.cup.energy = s.cup.energy ∧
          t.out = calFrame 4 0 [] :: s.out ∧ t.cup.log = s.cup.log ++ [cupEntry s 2 0 0 1])) ∧
      (∀ e, s.cup.log[n.toNat]? = some e → exec (.rdlog n) s = .next { s with out := calFrame 5 0 (logBytes e) :: s.out }) ∧
      (s.cup.log.length ≤ n.toNat → exec (.rdlog n) s = .next { s with out := calFrame 5 1 [] :: s.out }))) ∧
  (∀ (s : State) (b : Bool), (s.cup.calen = b → exec (.calenChange b) s = .next s) ∧
    (s.cup.calen ≠ b → s.cup.ready = false → exec (.calenChange b) s = .next { s with cup := { s.cup with calen := b } }) ∧
    (s.cup.calen ≠ b → s.cup.ready = true → s.cup.log.length < 256 → ∃ t, exec (.calenChange b) s = .next t ∧ t.cup.calen = b ∧
      t.cup.energy = s.cup.energy ∧ t.cup.log = s.cup.log ++
        [cupEntry s (if b then 3 else 4) 0 (if b then 0 else 1) (if b then 1 else 0)]))

/-- The state after a write of RCV_GO whose work has not run (R447). -/
def rcvStarted (s : State) (v : Word32) : State := { s.setReg 3 0x114 (w32 (2 ^ 31 + regFld v 0 3 * 256)) with resp := .done }
/-- Byte `a` is a key of a DRAM line's place. -/
def dramKey (a : Nat) : Prop := 2 ^ 50 ≤ a ∧ a < 2 ^ 51
/-- Byte `a` survives the loss of every supply but the Cupola's: the NOR die and the Cupola's window. -/
def lasting (a : Nat) : Bool := decide (2 ^ 51 ≤ a ∨ (cupBase ≤ a ∧ a < cupBase + 0x10000))

/-- POWER_ON_RESET does nothing while the auxiliary input is not good. With both slots blank or cut off while they were written, or with BOOT_RCV_N low, and recovery disabled by fuse, it ends HALTED with BOOTERR 0x01 and FAULT_N low; such a slot sets its bit of KEEP_SLOTST. It keeps the Cupola's registers and the NOR die. RELEASE acts only after training: REMAP is set, the turrets with power whose pair is neither offline nor split-only are not held, and PHASE is RELEASED with RSVC in NARROW, or FULL without it in WIDE. TRAIN2_GROUP_DONE trains its group of channels. FULL_SERVICE acts only in WIDE with RSVC set: RSVC cleared, IRQ FULL, PHASE FULL. -/
def Obligations.StartReleaseAndFullService : Prop :=
  (∀ (s : State) (io : StartIo), (s.boot.vaux33 = false → exec (.powerOnReset io) s = .next s) ∧
    (s.boot.vaux33 = true → s.boot.trip = false → s.boot.por = true → Regs.wf s = true →
      (∃ t, exec (.powerOnReset io) s = .next t ∧ t.cup.energy = s.cup.energy ∧
        (io.rcv = true → ∀ a, t.byteAt a = if lasting a then s.byteAt a else 0)) ∧
      (s.regB 1 0x118 4 = true → (io.rcv = true ∨ ∀ k < 2, bit s.tornSlots k = true ∨ leAt (s.bytes (slotKey k) 0x400) 0 4 ≠ 0x49584354) →
        ∃ t, exec (.powerOnReset io) s = .next t ∧ t.regF 0 oStat 28 4 = 9 ∧ t.regF 0 oStat 8 8 = 1 ∧ t.boot.faultLow = true ∧
          t.regB 0 oIrqRaw 1 = true ∧ (io.rcv = false → t.reg 0 0x118 = 3)))) ∧
  (∀ s : State, (s.regF 0 oStat 28 4 ≠ 4 ∨ s.memc.mode = .untrained → exec .release s = .next s) ∧
    (s.regF 0 oStat 28 4 = 4 → s.memc.mode = .narrow → Regs.wf s = true → ∃ t, exec .release s = .next t ∧
      t.regF 0 oStat 28 4 = 5 ∧ t.regB 0 oCtl 0 = true ∧ t.regB 0x120 oStat 1 = true ∧ t.regB 0 oIrqRaw 2 = true ∧ t.fm.released = true ∧
      t.reg 0 0x118 = 0 ∧ (∀ n : Fin 8, s.dom (pdTur n.val) = true → (s.pair (pairOf n)).st ≠ .offline →
        (s.pair (pairOf n)).splitOnly = false → t.held n = false)) ∧
    (s.regF 0 oStat 28 4 = 4 → s.memc.mode = .wide → Regs.wf s = true → ∃ t, exec .release s = .next t ∧
      t.regF 0 oStat 28 4 = 7 ∧ t.regB 0 oCtl 0 = true ∧ t.regB 0x120 oStat 1 = false ∧ t.regB 0 oIrqRaw 3 = true ∧ t.fm.released = true)) ∧
  (∀ s : State, (s.memc.mode ≠ .wide ∨ s.regB 0x120 oStat 1 = false → exec .fullService s = .next s) ∧
    (s.memc.mode = .wide → s.regB 0x120 oStat 1 = true → Regs.wf s = true → ∃ t, exec .fullService s = .next t ∧ t.mem = s.mem ∧
      t.regF 0 oStat 28 4 = 7 ∧ t.regB 0x120 oStat 1 = false ∧ t.regB 0 oIrqRaw 3 = true)) ∧
  (∀ (s : State) (f : BitVec 8), ((s.regF 0 oStat 28 4 ≠ 5 ∧ s.regF 0 oStat 28 4 ≠ 6) ∨ s.memc.mode ≠ .narrow ∨ 7 ≤ s.boot.group →
      exec (.train2GroupDone f) s = .next s) ∧
    (s.regF 0 oStat 28 4 = 5 ∨ s.regF 0 oStat 28 4 = 6 → s.memc.mode = .narrow → s.boot.group < 6 →
      (∀ i < 8, s.dom (pdDch (8 * i + (s.boot.group + 1))) = true) → swf (fun _ => ({} : Chan)) s.memc.chans = true → Regs.wf s = true →
      ∃ t, exec (.train2GroupDone 0) s = .next t ∧ t.boot.group = s.boot.group + 1 ∧ t.regF 0 oStat 28 4 = 6 ∧ t.memc.mode = .narrow ∧
        (∀ i < 8, (t.mch (8 * i + (s.boot.group + 1))).trained = true) ∧ ∀ a, ¬dramKey a → t.byteAt a = s.byteAt a))

/-- RST_N low holds a device warm reset until its rising edge: the DRAM is kept in WIDE alone, where of the last stores of a running spire group each has landed or has not; the Cupola's registers always, other RAM never; while power-on reset is raised it only shows. A write of DWRST from outside Custody ends ACCESS. A request for VIGIL while a timer page is in CX5120 mode is refused with REFDOM 0xFF; a second request during an entry is only stored; another one clears QST_CTL.EN and starts the entry. A wake that is not enabled does nothing; in OFF, WAKE_N and the timer raise power-on reset, or are held. The loss of 12 V enters OFF at once and loses everything but NOR and Cupola; the loss of the auxiliary input also clears FAULT_N; a thermal trip enters OFF and drives FAULT_N, and its release lets a held wake act. -/
def Obligations.ResetsWakesAndSupplies : Prop :=
  (∀ (s : State) (io : StartIo), (s.boot.power = .off ∨ s.boot.por = true → exec (.deviceWarmReset .rstPin io) s =
      .next { s with boot := { s.boot with rstLow := true } }) ∧
    (s.boot.power ≠ .off → s.boot.por = false → 5 ≤ s.regF 0 oStat 28 4 → Regs.wf s = true → ∃ t,
      exec (.deviceWarmReset .rstPin io) s = .next t ∧ t.boot.rstLow = true ∧ t.boot.warm = some 4 ∧ t.regF 0 oStat 24 4 = 4 ∧
      t.pending = s.pending ∧ t.cup.energy = s.cup.energy ∧ (∀ n : Fin 8, t.held n = true) ∧
      ((∀ n : Fin 8, (s.spire n).running = none) → ∀ a, dramKey a → t.byteAt a = if s.memc.mode = .wide then s.byteAt a else 0) ∧
      (∀ a, dramKey a → t.byteAt a = if s.memc.mode = .wide then
        ((List.finRange 8).foldl undoRunning (masterLost { s with boot := { s.boot with rstLow := true } })).byteAt a else 0) ∧
      (∀ a, a < 2 ^ 50 → ¬lasting a → t.byteAt a = 0)) ∧
    (s.boot.warm = none ∨ s.boot.rstLow = true → exec (.deviceWarmReset .raised io) s = .next s) ∧
    (s.boot.warm = none → exec (.rstNRisingEdge io) s = .next { s with boot := { s.boot with rstLow := false, warm := none } }) ∧
    (∀ id, s.issues id = true → s.custodyOf id = false → s.boot.warm = none →
      exec (.deviceWarmReset (.dwrst id) io) s = .next (refusedWrite s id 0 oCtl .access))) ∧
  (∀ (s : State) (id : MasterId), s.issues id = true → s.custodyOf id = true →
    (∀ v, s.boot.entry = some v → exec (.vigilRequest id) s = .next { s.setRegF 0x350 0x158 0 2 1 with resp := .done } ∧
      exec (.offRequest id) s = .next { s.setRegF 0x350 0x158 0 2 0 with resp := .done }) ∧
    (s.boot.entry = none → anyC5 s = true → exec (.vigilRequest id) s =
      .next { dreqRefuse (s.setRegF 0x350 0x158 0 2 1) 5 0xFF with resp := .done }) ∧
    (s.boot.entry = none → anyC5 s = false → vigilBusy s = true → exec (.vigilRequest id) s =
      .next { dreqRefuse (s.setRegF 0x350 0x158 0 2 1) 6 0xFF with resp := .done }) ∧
    (s.boot.entry = none → inflAll s ≠ 0 → Regs.wf s = true →
      (anyC5 s = false → vigilBusy s = false → ∃ t, exec (.vigilRequest id) s = .next t ∧ t.boot.entry = some true ∧
        t.regB 0x120 oCtl 0 = false ∧ t.qe.held = [] ∧ t.boot.power = s.boot.power ∧ t.mem = s.mem) ∧
      (∃ t, exec (.offRequest id) s = .next t ∧ t.boot.entry = some false ∧ t.regB 0x120 oCtl 0 = false ∧ t.qe.held = [] ∧
        t.boot.power = s.boot.power ∧ t.mem = s.mem)) ∧
    (s.boot.entry = none → inflAll s = 0 → s.pmaster = false → ∃ t, exec (.offRequest id) s = .next t ∧ t.boot.power = .off ∧
      ∀ a, ¬lasting a → t.byteAt a = 0)) ∧
  (∀ (s : State) (w : WakeSource) (io : StartIo),
    (s.boot.power = .active → s.boot.entry = none → exec (.wake w io) s = .next s) ∧
    (∀ v, s.boot.power = .active → s.boot.entry = some v → s.regB 0 0x100 (wakeBit w) = true → Regs.wf s = true → ∃ t,
      exec (.wake w io) s = .next t ∧ t.boot.entry = none ∧ t.regB 0x120 oCtl 0 = true ∧ t.regF 0x350 0x158 0 2 = 2 ∧ t.mem = s.mem) ∧
    (s.boot.power ≠ .off → s.regB 0 0x100 (wakeBit w) = false → exec (.wake w io) s = .next s) ∧
    (s.boot.power = .vigil → s.regB 0 0x100 (wakeBit w) = true → exec (.wake w io) s = .next (resume s (wakeBit w) io)) ∧
    (s.boot.power = .off → (w ≠ .wakePin ∧ w ≠ .aonTimer) ∨ s.boot.por = true → exec (.wake w io) s = .next s) ∧
    (s.boot.power = .off → w = .wakePin ∨ w = .aonTimer → s.boot.por = false →
      (s.boot.trip = true ∨ s.boot.vin12 = false → exec (.wake w io) s = .next { s with boot := { s.boot with wakeHeld := true } }) ∧
      (s.boot.trip = false → s.boot.vin12 = true → exec (.wake w io) s = .next (raisePor s 2)))) ∧
  (∀ s : State, (∃ t, exec .vin12Loss s = .next t ∧ t.boot.vin12 = false ∧ t.boot.power = .off ∧ t.cup.energy = s.cup.energy ∧
      (s.boot.power ≠ .off → ∀ a, t.byteAt a = if lasting a then s.byteAt a else 0)) ∧
    (∃ t, exec .vaux33Loss s = .next t ∧ t.boot.vaux33 = false ∧ t.boot.power = .off ∧ t.boot.por = true ∧ t.boot.faultLow = false ∧
      t.cup.energy = s.cup.energy ∧ ∀ a, t.byteAt a = if lasting a then s.byteAt a else 0) ∧
    (s.boot.vaux33 = true → exec .vaux33PowerGood s = .next s) ∧
    (s.boot.vaux33 = false → exec .vaux33PowerGood s = .next (raisePor { s with boot := { s.boot with vaux33 := true } } 1)) ∧
    (∃ t, exec .thermalTrip s = .next t ∧ t.boot.power = .off ∧ t.boot.trip = true ∧ t.boot.faultLow = true ∧
      t.cup.energy = s.cup.energy) ∧
    (∀ h, exec (.thermN h) s = .next { s with boot := { s.boot with thermLow := h && s.boot.vaux33 } }) ∧
    (s.boot.trip = false → exec .thermalWakeRelease s = .next s) ∧
    (s.boot.trip = true → s.boot.wakeHeld = false ∨ s.boot.vin12 = false → exec .thermalWakeRelease s =
      .next { s with boot := { s.boot with trip := false } }) ∧
    (s.boot.trip = true → s.boot.wakeHeld = true → s.boot.vin12 = true → exec .thermalWakeRelease s =
      .next (raisePor { s with boot := { s.boot with trip := false } } 2)))

/-- SVNUP outside Custody ends ACCESS, and blows the next bit only where the applied image's version exceeds FZ_SVN. CLEAR empties the selected slot and GRANT sets its GRANT, each with KS_STAT 1 and no other slot changed; LOAD of a kind without a key ends with 3, of a blob that cannot be read with 4, of one whose tag fails with 2 and the slot unchanged, and otherwise stores kind and key. RCV_DATA and RCV_GO by a master without the right to page 0x003 end IDENTITY; RCV_DATA stores the word at the staging offset and advances it. RCV_GO of an image that fails its checks ends with RCV_STAT 2. While FZ_OPT.DBGOPEN is 0, a write by Lantern outside the LANT pages and the turret-TCM alias changes nothing. LANT_HALT halts the turrets it names while PD_LANT is on; the bit of either core of a lockstep pair halts both. -/
def Obligations.KeepServesKeysRecoveryAndDebug : Prop :=
  (∀ (s : State) (id : MasterId), s.issues id = true →
    (s.custodyOf id = false → exec (.svnup id) s = .next (refusedWrite s id 0 0x11C .access) ∧
      ∀ v, exec (.ksClear id v) s = .next (refusedWrite s id 2 0x110 .access) ∧
        exec (.ksGrant id v) s = .next (refusedWrite s id 2 0x110 .access) ∧ exec (.ksLoad id v) s = .next (refusedWrite s id 2 0x110 .access)) ∧
    (s.custodyOf id = true → Regs.wf s = true →
      ((s.reg 0 0x114).toNat ≤ s.regF 1 0x11C 0 6 → exec (.svnup id) s = .next { s with resp := .done }) ∧
      (s.regF 1 0x11C 0 6 < (s.reg 0 0x114).toNat → s.regF 1 0x11C 0 6 < 32 → ∃ t, exec (.svnup id) s = .next t ∧
        t.regF 1 0x11C 0 6 = s.regF 1 0x11C 0 6 + 1 ∧ t.mem = s.mem ∧ t.resp = .done) ∧
      (∀ v, swf (fun _ => ({} : KeySlot)) s.keys = true →
        (∃ t, exec (.ksClear id v) s = .next t ∧ t.key (s.regF 2 0x100 0 12) = {} ∧ t.reg 2 0x114 = 1 ∧ t.mem = s.mem ∧
          ∀ n, n ≠ s.regF 2 0x100 0 12 → t.key n = s.key n) ∧
        (∃ t, exec (.ksGrant id v) s = .next t ∧ t.reg 2 0x114 = 1 ∧ t.mem = s.mem ∧
          t.key (s.regF 2 0x100 0 12) = { s.key (s.regF 2 0x100 0 12) with grant := BitVec.ofNat 8 (regFld v 8 8) } ∧
          ∀ n, n ≠ s.regF 2 0x100 0 12 → t.key n = s.key n) ∧
        (keyLen (regFld v 4 2) = none → ∃ t, exec (.ksLoad id v) s = .next t ∧ t.keys = s.keys ∧ t.reg 2 0x114 = 3) ∧
        (∀ k u b, keyLen (regFld v 4 2) = some k →
          dmaRead (s.setReg 2 0x110 (((v &&& 0xFFFFFFFC) ||| 1) &&& 0xFF33)) keepId
            ((s.reg 2 0x108).toNat + (s.reg 2 0x10C).toNat * 2 ^ 32) (28 + k) = (u, .ok (b, false)) → u.keys = s.keys →
          ((gcm u.boot.kwrap (b.take 12) (leBytes 2 (s.regF 2 0x100 0 12) ++ [byte (regFld v 4 2)]) (b.drop 28) true).2 =
              (b.drop 12).take 16 → ∃ t, exec (.ksLoad id v) s = .next t ∧ (t.key (s.regF 2 0x100 0 12)).kind = regFld v 4 2 ∧
            (t.key (s.regF 2 0x100 0 12)).key =
              (gcm u.boot.kwrap (b.take 12) (leBytes 2 (s.regF 2 0x100 0 12) ++ [byte (regFld v 4 2)]) (b.drop 28) true).1) ∧
          ((gcm u.boot.kwrap (b.take 12) (leBytes 2 (s.regF 2 0x100 0 12) ++ [byte (regFld v 4 2)]) (b.drop 28) true).2 ≠
              (b.drop 12).take 16 → ∃ t, exec (.ksLoad id v) s = .next t ∧ t.keys = s.keys))))) ∧
  (∀ (s : State) (id : MasterId) (v : Word32), s.issues id = true →
    (rcvRefused s id.val (s.custodyOf id) = true → exec (.rcvData id v) s = .next (refusedWrite s id 3 0x10C .identity) ∧
      (s.regB 3 0x114 31 = false → ∀ io ok, exec (.rcvGo id v io ok) s = .next (refusedWrite s id 3 0x110 .identity))) ∧
    (∀ t, rcvRefused s id.val (s.custodyOf id) = false →
      dmaWriteRaw s (rcvBase s + (s.reg 3 0x108).toNat) (leBytes 4 v.toNat) = (t, none) → exec (.rcvData id v) s =
        .next { t.setReg 3 0x108 (w32 ((s.reg 3 0x108).toNat + 4) &&& 0x1FFFFFC) with resp := .done }) ∧
    (∀ io ok, rcvRefused s id.val (s.custodyOf id) = false → s.regB 3 0x114 31 = false → Regs.wf s = true →
      imageCheck (rcvStarted s v) (stagedBytes (rcvStarted s v)) = none →
      exec (.rcvGo id v io ok) s = .next ((rcvStarted s v).setReg 3 0x114 2))) ∧
  (∀ (s : State) (id : MasterId) (a : Addr) (d : List Byte), id.val = 25 → s.regB 1 0x118 5 = false → d ≠ [] → lantOwn a.toNat = false →
    exec (.registerWrite id a d) s = .next s) ∧
  (∀ (s : State) (id : MasterId) (v : Word32), s.issues id = true ∨ (id.val = 25 ∧ s.boot.power ≠ .off) → ∃ t, exec (.lantHalt id v) s = .next t ∧ t.mem = s.mem ∧
    t.resp = .done ∧ ∀ n : Fin 8, Regs.wf s = true → (t.core n).dhalt = (s.dom pdLant &&
      (if s.lockstep n then regBit v (evenCore (pairOf n)).val || regBit v (oddCore (pairOf n)).val else regBit v n.val)))
end

