-- ==== Sys2Proof/Laws/State.lean ====
section
/-! SUPPORT. What each update of one part of the state leaves as it was: one lemma per field and update. -/
namespace Sys2Proof.Laws
open Sys2Proof.Machine

variable (s : State)

section setReg
variable (p o : Nat) (v : Word32)
@[simp] theorem setReg_pending : (s.setReg p o v).pending = s.pending := rfl
@[simp] theorem setReg_free : (s.setReg p o v).free = s.free := rfl
@[simp] theorem setReg_resp : (s.setReg p o v).resp = s.resp := rfl
@[simp] theorem setReg_locks : (s.setReg p o v).locks = s.locks := rfl
@[simp] theorem setReg_errs : (s.setReg p o v).errs = s.errs := rfl
@[simp] theorem setReg_fwTicks : (s.setReg p o v).fwTicks = s.fwTicks := rfl
@[simp] theorem setReg_domains : (s.setReg p o v).domains = s.domains := rfl
@[simp] theorem setReg_mem : (s.setReg p o v).mem = s.mem := rfl
@[simp] theorem setReg_lineErr : (s.setReg p o v).lineErr = s.lineErr := rfl
@[simp] theorem setReg_wordErr : (s.setReg p o v).wordErr = s.wordErr := rfl
@[simp] theorem setReg_memc : (s.setReg p o v).memc = s.memc := rfl
@[simp] theorem setReg_scr0 : (s.setReg p o v).scr0 = s.scr0 := rfl
@[simp] theorem setReg_scr1 : (s.setReg p o v).scr1 = s.scr1 := rfl
@[simp] theorem setReg_belf : (s.setReg p o v).belf = s.belf := rfl
@[simp] theorem setReg_timers : (s.setReg p o v).timers = s.timers := rfl
@[simp] theorem setReg_tlatch : (s.setReg p o v).tlatch = s.tlatch := rfl
@[simp] theorem setReg_mbx : (s.setReg p o v).mbx = s.mbx := rfl
@[simp] theorem setReg_lck : (s.setReg p o v).lck = s.lck := rfl
@[simp] theorem setReg_fm : (s.setReg p o v).fm = s.fm := rfl
@[simp] theorem setReg_spFence : (s.setReg p o v).spFence = s.spFence := rfl
@[simp] theorem setReg_cores : (s.setReg p o v).cores = s.cores := rfl
@[simp] theorem setReg_pairs : (s.setReg p o v).pairs = s.pairs := rfl
@[simp] theorem setReg_spires : (s.setReg p o v).spires = s.spires := rfl
@[simp] theorem setReg_qe : (s.setReg p o v).qe = s.qe := rfl
@[simp] theorem setReg_keys : (s.setReg p o v).keys = s.keys := rfl
@[simp] theorem setReg_ports : (s.setReg p o v).ports = s.ports := rfl
@[simp] theorem setReg_pwr : (s.setReg p o v).pwr = s.pwr := rfl
@[simp] theorem setReg_links : (s.setReg p o v).links = s.links := rfl
@[simp] theorem setReg_loaded : (s.setReg p o v).loaded = s.loaded := rfl
@[simp] theorem setReg_linkLo : (s.setReg p o v).linkLo = s.linkLo := rfl
@[simp] theorem setReg_eth : (s.setReg p o v).eth = s.eth := rfl
@[simp] theorem setReg_plink : (s.setReg p o v).plink = s.plink := rfl
@[simp] theorem setReg_cup : (s.setReg p o v).cup = s.cup := rfl
@[simp] theorem setReg_boot : (s.setReg p o v).boot = s.boot := rfl
@[simp] theorem setReg_out : (s.setReg p o v).out = s.out := rfl
end setReg

section setRegF
variable (p o lo w v : Nat)
@[simp] theorem setRegF_pending : (s.setRegF p o lo w v).pending = s.pending := rfl
@[simp] theorem setRegF_free : (s.setRegF p o lo w v).free = s.free := rfl
@[simp] theorem setRegF_resp : (s.setRegF p o lo w v).resp = s.resp := rfl
@[simp] theorem setRegF_locks : (s.setRegF p o lo w v).locks = s.locks := rfl
@[simp] theorem setRegF_errs : (s.setRegF p o lo w v).errs = s.errs := rfl
@[simp] theorem setRegF_fwTicks : (s.setRegF p o lo w v).fwTicks = s.fwTicks := rfl
@[simp] theorem setRegF_domains : (s.setRegF p o lo w v).domains = s.domains := rfl
@[simp] theorem setRegF_mem : (s.setRegF p o lo w v).mem = s.mem := rfl
@[simp] theorem setRegF_lineErr : (s.setRegF p o lo w v).lineErr = s.lineErr := rfl
@[simp] theorem setRegF_wordErr : (s.setRegF p o lo w v).wordErr = s.wordErr := rfl
@[simp] theorem setRegF_memc : (s.setRegF p o lo w v).memc = s.memc := rfl
@[simp] theorem setRegF_scr0 : (s.setRegF p o lo w v).scr0 = s.scr0 := rfl
@[simp] theorem setRegF_scr1 : (s.setRegF p o lo w v).scr1 = s.scr1 := rfl
@[simp] theorem setRegF_belf : (s.setRegF p o lo w v).belf = s.belf := rfl
@[simp] theorem setRegF_timers : (s.setRegF p o lo w v).timers = s.timers := rfl
@[simp] theorem setRegF_tlatch : (s.setRegF p o lo w v).tlatch = s.tlatch := rfl
@[simp] theorem setRegF_mbx : (s.setRegF p o lo w v).mbx = s.mbx := rfl
@[simp] theorem setRegF_lck : (s.setRegF p o lo w v).lck = s.lck := rfl
@[simp] theorem setRegF_fm : (s.setRegF p o lo w v).fm = s.fm := rfl
@[simp] theorem setRegF_spFence : (s.setRegF p o lo w v).spFence = s.spFence := rfl
@[simp] theorem setRegF_cores : (s.setRegF p o lo w v).cores = s.cores := rfl
@[simp] theorem setRegF_pairs : (s.setRegF p o lo w v).pairs = s.pairs := rfl
@[simp] theorem setRegF_spires : (s.setRegF p o lo w v).spires = s.spires := rfl
@[simp] theorem setRegF_qe : (s.setRegF p o lo w v).qe = s.qe := rfl
@[simp] theorem setRegF_keys : (s.setRegF p o lo w v).keys = s.keys := rfl
@[simp] theorem setRegF_ports : (s.setRegF p o lo w v).ports = s.ports := rfl
@[simp] theorem setRegF_pwr : (s.setRegF p o lo w v).pwr = s.pwr := rfl
@[simp] theorem setRegF_links : (s.setRegF p o lo w v).links = s.links := rfl
@[simp] theorem setRegF_loaded : (s.setRegF p o lo w v).loaded = s.loaded := rfl
@[simp] theorem setRegF_linkLo : (s.setRegF p o lo w v).linkLo = s.linkLo := rfl
@[simp] theorem setRegF_eth : (s.setRegF p o lo w v).eth = s.eth := rfl
@[simp] theorem setRegF_plink : (s.setRegF p o lo w v).plink = s.plink := rfl
@[simp] theorem setRegF_cup : (s.setRegF p o lo w v).cup = s.cup := rfl
@[simp] theorem setRegF_boot : (s.setRegF p o lo w v).boot = s.boot := rfl
@[simp] theorem setRegF_out : (s.setRegF p o lo w v).out = s.out := rfl
end setRegF

section dropRegs
variable (f : Nat → Nat → Bool)
@[simp] theorem dropRegs_pending : (s.dropRegs f).pending = s.pending := rfl
@[simp] theorem dropRegs_free : (s.dropRegs f).free = s.free := rfl
@[simp] theorem dropRegs_resp : (s.dropRegs f).resp = s.resp := rfl
@[simp] theorem dropRegs_locks : (s.dropRegs f).locks = s.locks := rfl
@[simp] theorem dropRegs_errs : (s.dropRegs f).errs = s.errs := rfl
@[simp] theorem dropRegs_fwTicks : (s.dropRegs f).fwTicks = s.fwTicks := rfl
@[simp] theorem dropRegs_domains : (s.dropRegs f).domains = s.domains := rfl
@[simp] theorem dropRegs_mem : (s.dropRegs f).mem = s.mem := rfl
@[simp] theorem dropRegs_lineErr : (s.dropRegs f).lineErr = s.lineErr := rfl
@[simp] theorem dropRegs_wordErr : (s.dropRegs f).wordErr = s.wordErr := rfl
@[simp] theorem dropRegs_memc : (s.dropRegs f).memc = s.memc := rfl
@[simp] theorem dropRegs_scr0 : (s.dropRegs f).scr0 = s.scr0 := rfl
@[simp] theorem dropRegs_scr1 : (s.dropRegs f).scr1 = s.scr1 := rfl
@[simp] theorem dropRegs_belf : (s.dropRegs f).belf = s.belf := rfl
@[simp] theorem dropRegs_timers : (s.dropRegs f).timers = s.timers := rfl
@[simp] theorem dropRegs_tlatch : (s.dropRegs f).tlatch = s.tlatch := rfl
@[simp] theorem dropRegs_mbx : (s.dropRegs f).mbx = s.mbx := rfl
@[simp] theorem dropRegs_lck : (s.dropRegs f).lck = s.lck := rfl
@[simp] theorem dropRegs_fm : (s.dropRegs f).fm = s.fm := rfl
@[simp] theorem dropRegs_spFence : (s.dropRegs f).spFence = s.spFence := rfl
@[simp] theorem dropRegs_cores : (s.dropRegs f).cores = s.cores := rfl
@[simp] theorem dropRegs_pairs : (s.dropRegs f).pairs = s.pairs := rfl
@[simp] theorem dropRegs_spires : (s.dropRegs f).spires = s.spires := rfl
@[simp] theorem dropRegs_qe : (s.dropRegs f).qe = s.qe := rfl
@[simp] theorem dropRegs_keys : (s.dropRegs f).keys = s.keys := rfl
@[simp] theorem dropRegs_ports : (s.dropRegs f).ports = s.ports := rfl
@[simp] theorem dropRegs_pwr : (s.dropRegs f).pwr = s.pwr := rfl
@[simp] theorem dropRegs_links : (s.dropRegs f).links = s.links := rfl
@[simp] theorem dropRegs_loaded : (s.dropRegs f).loaded = s.loaded := rfl
@[simp] theorem dropRegs_linkLo : (s.dropRegs f).linkLo = s.linkLo := rfl
@[simp] theorem dropRegs_eth : (s.dropRegs f).eth = s.eth := rfl
@[simp] theorem dropRegs_plink : (s.dropRegs f).plink = s.plink := rfl
@[simp] theorem dropRegs_cup : (s.dropRegs f).cup = s.cup := rfl
@[simp] theorem dropRegs_boot : (s.dropRegs f).boot = s.boot := rfl
@[simp] theorem dropRegs_out : (s.dropRegs f).out = s.out := rfl
end dropRegs

section setDom
variable (d : Nat) (x : Bool)
@[simp] theorem setDom_pending : (s.setDom d x).pending = s.pending := rfl
@[simp] theorem setDom_free : (s.setDom d x).free = s.free := rfl
@[simp] theorem setDom_resp : (s.setDom d x).resp = s.resp := rfl
@[simp] theorem setDom_regs : (s.setDom d x).regs = s.regs := rfl
@[simp] theorem setDom_locks : (s.setDom d x).locks = s.locks := rfl
@[simp] theorem setDom_errs : (s.setDom d x).errs = s.errs := rfl
@[simp] theorem setDom_fwTicks : (s.setDom d x).fwTicks = s.fwTicks := rfl
@[simp] theorem setDom_mem : (s.setDom d x).mem = s.mem := rfl
@[simp] theorem setDom_lineErr : (s.setDom d x).lineErr = s.lineErr := rfl
@[simp] theorem setDom_wordErr : (s.setDom d x).wordErr = s.wordErr := rfl
@[simp] theorem setDom_memc : (s.setDom d x).memc = s.memc := rfl
@[simp] theorem setDom_scr0 : (s.setDom d x).scr0 = s.scr0 := rfl
@[simp] theorem setDom_scr1 : (s.setDom d x).scr1 = s.scr1 := rfl
@[simp] theorem setDom_belf : (s.setDom d x).belf = s.belf := rfl
@[simp] theorem setDom_timers : (s.setDom d x).timers = s.timers := rfl
@[simp] theorem setDom_tlatch : (s.setDom d x).tlatch = s.tlatch := rfl
@[simp] theorem setDom_mbx : (s.setDom d x).mbx = s.mbx := rfl
@[simp] theorem setDom_lck : (s.setDom d x).lck = s.lck := rfl
@[simp] theorem setDom_fm : (s.setDom d x).fm = s.fm := rfl
@[simp] theorem setDom_spFence : (s.setDom d x).spFence = s.spFence := rfl
@[simp] theorem setDom_cores : (s.setDom d x).cores = s.cores := rfl
@[simp] theorem setDom_pairs : (s.setDom d x).pairs = s.pairs := rfl
@[simp] theorem setDom_spires : (s.setDom d x).spires = s.spires := rfl
@[simp] theorem setDom_qe : (s.setDom d x).qe = s.qe := rfl
@[simp] theorem setDom_keys : (s.setDom d x).keys = s.keys := rfl
@[simp] theorem setDom_ports : (s.setDom d x).ports = s.ports := rfl
@[simp] theorem setDom_pwr : (s.setDom d x).pwr = s.pwr := rfl
@[simp] theorem setDom_links : (s.setDom d x).links = s.links := rfl
@[simp] theorem setDom_loaded : (s.setDom d x).loaded = s.loaded := rfl
@[simp] theorem setDom_linkLo : (s.setDom d x).linkLo = s.linkLo := rfl
@[simp] theorem setDom_eth : (s.setDom d x).eth = s.eth := rfl
@[simp] theorem setDom_plink : (s.setDom d x).plink = s.plink := rfl
@[simp] theorem setDom_cup : (s.setDom d x).cup = s.cup := rfl
@[simp] theorem setDom_boot : (s.setDom d x).boot = s.boot := rfl
@[simp] theorem setDom_out : (s.setDom d x).out = s.out := rfl
end setDom

section setErr
variable (p : Nat) (x : PageErr)
@[simp] theorem setErr_pending : (s.setErr p x).pending = s.pending := rfl
@[simp] theorem setErr_free : (s.setErr p x).free = s.free := rfl
@[simp] theorem setErr_resp : (s.setErr p x).resp = s.resp := rfl
@[simp] theorem setErr_regs : (s.setErr p x).regs = s.regs := rfl
@[simp] theorem setErr_locks : (s.setErr p x).locks = s.locks := rfl
@[simp] theorem setErr_fwTicks : (s.setErr p x).fwTicks = s.fwTicks := rfl
@[simp] theorem setErr_domains : (s.setErr p x).domains = s.domains := rfl
@[simp] theorem setErr_mem : (s.setErr p x).mem = s.mem := rfl
@[simp] theorem setErr_lineErr : (s.setErr p x).lineErr = s.lineErr := rfl
@[simp] theorem setErr_wordErr : (s.setErr p x).wordErr = s.wordErr := rfl
@[simp] theorem setErr_memc : (s.setErr p x).memc = s.memc := rfl
@[simp] theorem setErr_scr0 : (s.setErr p x).scr0 = s.scr0 := rfl
@[simp] theorem setErr_scr1 : (s.setErr p x).scr1 = s.scr1 := rfl
@[simp] theorem setErr_belf : (s.setErr p x).belf = s.belf := rfl
@[simp] theorem setErr_timers : (s.setErr p x).timers = s.timers := rfl
@[simp] theorem setErr_tlatch : (s.setErr p x).tlatch = s.tlatch := rfl
@[simp] theorem setErr_mbx : (s.setErr p x).mbx = s.mbx := rfl
@[simp] theorem setErr_lck : (s.setErr p x).lck = s.lck := rfl
@[simp] theorem setErr_fm : (s.setErr p x).fm = s.fm := rfl
@[simp] theorem setErr_spFence : (s.setErr p x).spFence = s.spFence := rfl
@[simp] theorem setErr_cores : (s.setErr p x).cores = s.cores := rfl
@[simp] theorem setErr_pairs : (s.setErr p x).pairs = s.pairs := rfl
@[simp] theorem setErr_spires : (s.setErr p x).spires = s.spires := rfl
@[simp] theorem setErr_qe : (s.setErr p x).qe = s.qe := rfl
@[simp] theorem setErr_keys : (s.setErr p x).keys = s.keys := rfl
@[simp] theorem setErr_ports : (s.setErr p x).ports = s.ports := rfl
@[simp] theorem setErr_pwr : (s.setErr p x).pwr = s.pwr := rfl
@[simp] theorem setErr_links : (s.setErr p x).links = s.links := rfl
@[simp] theorem setErr_loaded : (s.setErr p x).loaded = s.loaded := rfl
@[simp] theorem setErr_linkLo : (s.setErr p x).linkLo = s.linkLo := rfl
@[simp] theorem setErr_eth : (s.setErr p x).eth = s.eth := rfl
@[simp] theorem setErr_plink : (s.setErr p x).plink = s.plink := rfl
@[simp] theorem setErr_cup : (s.setErr p x).cup = s.cup := rfl
@[simp] theorem setErr_boot : (s.setErr p x).boot = s.boot := rfl
@[simp] theorem setErr_out : (s.setErr p x).out = s.out := rfl
end setErr

section setCore
variable (n : Fin 8) (c : Core)
@[simp] theorem setCore_pending : (s.setCore n c).pending = s.pending := rfl
@[simp] theorem setCore_free : (s.setCore n c).free = s.free := rfl
@[simp] theorem setCore_resp : (s.setCore n c).resp = s.resp := rfl
@[simp] theorem setCore_regs : (s.setCore n c).regs = s.regs := rfl
@[simp] theorem setCore_locks : (s.setCore n c).locks = s.locks := rfl
@[simp] theorem setCore_errs : (s.setCore n c).errs = s.errs := rfl
@[simp] theorem setCore_fwTicks : (s.setCore n c).fwTicks = s.fwTicks := rfl
@[simp] theorem setCore_domains : (s.setCore n c).domains = s.domains := rfl
@[simp] theorem setCore_mem : (s.setCore n c).mem = s.mem := rfl
@[simp] theorem setCore_lineErr : (s.setCore n c).lineErr = s.lineErr := rfl
@[simp] theorem setCore_wordErr : (s.setCore n c).wordErr = s.wordErr := rfl
@[simp] theorem setCore_memc : (s.setCore n c).memc = s.memc := rfl
@[simp] theorem setCore_scr0 : (s.setCore n c).scr0 = s.scr0 := rfl
@[simp] theorem setCore_scr1 : (s.setCore n c).scr1 = s.scr1 := rfl
@[simp] theorem setCore_belf : (s.setCore n c).belf = s.belf := rfl
@[simp] theorem setCore_timers : (s.setCore n c).timers = s.timers := rfl
@[simp] theorem setCore_tlatch : (s.setCore n c).tlatch = s.tlatch := rfl
@[simp] theorem setCore_mbx : (s.setCore n c).mbx = s.mbx := rfl
@[simp] theorem setCore_lck : (s.setCore n c).lck = s.lck := rfl
@[simp] theorem setCore_fm : (s.setCore n c).fm = s.fm := rfl
@[simp] theorem setCore_spFence : (s.setCore n c).spFence = s.spFence := rfl
@[simp] theorem setCore_pairs : (s.setCore n c).pairs = s.pairs := rfl
@[simp] theorem setCore_spires : (s.setCore n c).spires = s.spires := rfl
@[simp] theorem setCore_qe : (s.setCore n c).qe = s.qe := rfl
@[simp] theorem setCore_keys : (s.setCore n c).keys = s.keys := rfl
@[simp] theorem setCore_ports : (s.setCore n c).ports = s.ports := rfl
@[simp] theorem setCore_pwr : (s.setCore n c).pwr = s.pwr := rfl
@[simp] theorem setCore_links : (s.setCore n c).links = s.links := rfl
@[simp] theorem setCore_loaded : (s.setCore n c).loaded = s.loaded := rfl
@[simp] theorem setCore_linkLo : (s.setCore n c).linkLo = s.linkLo := rfl
@[simp] theorem setCore_eth : (s.setCore n c).eth = s.eth := rfl
@[simp] theorem setCore_plink : (s.setCore n c).plink = s.plink := rfl
@[simp] theorem setCore_cup : (s.setCore n c).cup = s.cup := rfl
@[simp] theorem setCore_boot : (s.setCore n c).boot = s.boot := rfl
@[simp] theorem setCore_out : (s.setCore n c).out = s.out := rfl
end setCore

section setCx
variable (n : Fin 8) (x : TCtx)
@[simp] theorem setCx_pending : (s.setCx n x).pending = s.pending := rfl
@[simp] theorem setCx_free : (s.setCx n x).free = s.free := rfl
@[simp] theorem setCx_resp : (s.setCx n x).resp = s.resp := rfl
@[simp] theorem setCx_regs : (s.setCx n x).regs = s.regs := rfl
@[simp] theorem setCx_locks : (s.setCx n x).locks = s.locks := rfl
@[simp] theorem setCx_errs : (s.setCx n x).errs = s.errs := rfl
@[simp] theorem setCx_fwTicks : (s.setCx n x).fwTicks = s.fwTicks := rfl
@[simp] theorem setCx_domains : (s.setCx n x).domains = s.domains := rfl
@[simp] theorem setCx_mem : (s.setCx n x).mem = s.mem := rfl
@[simp] theorem setCx_lineErr : (s.setCx n x).lineErr = s.lineErr := rfl
@[simp] theorem setCx_wordErr : (s.setCx n x).wordErr = s.wordErr := rfl
@[simp] theorem setCx_memc : (s.setCx n x).memc = s.memc := rfl
@[simp] theorem setCx_scr0 : (s.setCx n x).scr0 = s.scr0 := rfl
@[simp] theorem setCx_scr1 : (s.setCx n x).scr1 = s.scr1 := rfl
@[simp] theorem setCx_belf : (s.setCx n x).belf = s.belf := rfl
@[simp] theorem setCx_timers : (s.setCx n x).timers = s.timers := rfl
@[simp] theorem setCx_tlatch : (s.setCx n x).tlatch = s.tlatch := rfl
@[simp] theorem setCx_mbx : (s.setCx n x).mbx = s.mbx := rfl
@[simp] theorem setCx_lck : (s.setCx n x).lck = s.lck := rfl
@[simp] theorem setCx_fm : (s.setCx n x).fm = s.fm := rfl
@[simp] theorem setCx_spFence : (s.setCx n x).spFence = s.spFence := rfl
@[simp] theorem setCx_pairs : (s.setCx n x).pairs = s.pairs := rfl
@[simp] theorem setCx_spires : (s.setCx n x).spires = s.spires := rfl
@[simp] theorem setCx_qe : (s.setCx n x).qe = s.qe := rfl
@[simp] theorem setCx_keys : (s.setCx n x).keys = s.keys := rfl
@[simp] theorem setCx_ports : (s.setCx n x).ports = s.ports := rfl
@[simp] theorem setCx_pwr : (s.setCx n x).pwr = s.pwr := rfl
@[simp] theorem setCx_links : (s.setCx n x).links = s.links := rfl
@[simp] theorem setCx_loaded : (s.setCx n x).loaded = s.loaded := rfl
@[simp] theorem setCx_linkLo : (s.setCx n x).linkLo = s.linkLo := rfl
@[simp] theorem setCx_eth : (s.setCx n x).eth = s.eth := rfl
@[simp] theorem setCx_plink : (s.setCx n x).plink = s.plink := rfl
@[simp] theorem setCx_cup : (s.setCx n x).cup = s.cup := rfl
@[simp] theorem setCx_boot : (s.setCx n x).boot = s.boot := rfl
@[simp] theorem setCx_out : (s.setCx n x).out = s.out := rfl
end setCx

section setPair
variable (p : Fin 4) (x : Pair)
@[simp] theorem setPair_pending : (s.setPair p x).pending = s.pending := rfl
@[simp] theorem setPair_free : (s.setPair p x).free = s.free := rfl
@[simp] theorem setPair_resp : (s.setPair p x).resp = s.resp := rfl
@[simp] theorem setPair_regs : (s.setPair p x).regs = s.regs := rfl
@[simp] theorem setPair_locks : (s.setPair p x).locks = s.locks := rfl
@[simp] theorem setPair_errs : (s.setPair p x).errs = s.errs := rfl
@[simp] theorem setPair_fwTicks : (s.setPair p x).fwTicks = s.fwTicks := rfl
@[simp] theorem setPair_domains : (s.setPair p x).domains = s.domains := rfl
@[simp] theorem setPair_mem : (s.setPair p x).mem = s.mem := rfl
@[simp] theorem setPair_lineErr : (s.setPair p x).lineErr = s.lineErr := rfl
@[simp] theorem setPair_wordErr : (s.setPair p x).wordErr = s.wordErr := rfl
@[simp] theorem setPair_memc : (s.setPair p x).memc = s.memc := rfl
@[simp] theorem setPair_scr0 : (s.setPair p x).scr0 = s.scr0 := rfl
@[simp] theorem setPair_scr1 : (s.setPair p x).scr1 = s.scr1 := rfl
@[simp] theorem setPair_belf : (s.setPair p x).belf = s.belf := rfl
@[simp] theorem setPair_timers : (s.setPair p x).timers = s.timers := rfl
@[simp] theorem setPair_tlatch : (s.setPair p x).tlatch = s.tlatch := rfl
@[simp] theorem setPair_mbx : (s.setPair p x).mbx = s.mbx := rfl
@[simp] theorem setPair_lck : (s.setPair p x).lck = s.lck := rfl
@[simp] theorem setPair_fm : (s.setPair p x).fm = s.fm := rfl
@[simp] theorem setPair_spFence : (s.setPair p x).spFence = s.spFence := rfl
@[simp] theorem setPair_cores : (s.setPair p x).cores = s.cores := rfl
@[simp] theorem setPair_spires : (s.setPair p x).spires = s.spires := rfl
@[simp] theorem setPair_qe : (s.setPair p x).qe = s.qe := rfl
@[simp] theorem setPair_keys : (s.setPair p x).keys = s.keys := rfl
@[simp] theorem setPair_ports : (s.setPair p x).ports = s.ports := rfl
@[simp] theorem setPair_pwr : (s.setPair p x).pwr = s.pwr := rfl
@[simp] theorem setPair_links : (s.setPair p x).links = s.links := rfl
@[simp] theorem setPair_loaded : (s.setPair p x).loaded = s.loaded := rfl
@[simp] theorem setPair_linkLo : (s.setPair p x).linkLo = s.linkLo := rfl
@[simp] theorem setPair_eth : (s.setPair p x).eth = s.eth := rfl
@[simp] theorem setPair_plink : (s.setPair p x).plink = s.plink := rfl
@[simp] theorem setPair_cup : (s.setPair p x).cup = s.cup := rfl
@[simp] theorem setPair_boot : (s.setPair p x).boot = s.boot := rfl
@[simp] theorem setPair_out : (s.setPair p x).out = s.out := rfl
end setPair

section setSpire
variable (n : Fin 8) (x : Spire)
@[simp] theorem setSpire_pending : (s.setSpire n x).pending = s.pending := rfl
@[simp] theorem setSpire_free : (s.setSpire n x).free = s.free := rfl
@[simp] theorem setSpire_resp : (s.setSpire n x).resp = s.resp := rfl
@[simp] theorem setSpire_regs : (s.setSpire n x).regs = s.regs := rfl
@[simp] theorem setSpire_locks : (s.setSpire n x).locks = s.locks := rfl
@[simp] theorem setSpire_errs : (s.setSpire n x).errs = s.errs := rfl
@[simp] theorem setSpire_fwTicks : (s.setSpire n x).fwTicks = s.fwTicks := rfl
@[simp] theorem setSpire_domains : (s.setSpire n x).domains = s.domains := rfl
@[simp] theorem setSpire_mem : (s.setSpire n x).mem = s.mem := rfl
@[simp] theorem setSpire_lineErr : (s.setSpire n x).lineErr = s.lineErr := rfl
@[simp] theorem setSpire_wordErr : (s.setSpire n x).wordErr = s.wordErr := rfl
@[simp] theorem setSpire_memc : (s.setSpire n x).memc = s.memc := rfl
@[simp] theorem setSpire_scr0 : (s.setSpire n x).scr0 = s.scr0 := rfl
@[simp] theorem setSpire_scr1 : (s.setSpire n x).scr1 = s.scr1 := rfl
@[simp] theorem setSpire_belf : (s.setSpire n x).belf = s.belf := rfl
@[simp] theorem setSpire_timers : (s.setSpire n x).timers = s.timers := rfl
@[simp] theorem setSpire_tlatch : (s.setSpire n x).tlatch = s.tlatch := rfl
@[simp] theorem setSpire_mbx : (s.setSpire n x).mbx = s.mbx := rfl
@[simp] theorem setSpire_lck : (s.setSpire n x).lck = s.lck := rfl
@[simp] theorem setSpire_fm : (s.setSpire n x).fm = s.fm := rfl
@[simp] theorem setSpire_spFence : (s.setSpire n x).spFence = s.spFence := rfl
@[simp] theorem setSpire_cores : (s.setSpire n x).cores = s.cores := rfl
@[simp] theorem setSpire_pairs : (s.setSpire n x).pairs = s.pairs := rfl
@[simp] theorem setSpire_qe : (s.setSpire n x).qe = s.qe := rfl
@[simp] theorem setSpire_keys : (s.setSpire n x).keys = s.keys := rfl
@[simp] theorem setSpire_ports : (s.setSpire n x).ports = s.ports := rfl
@[simp] theorem setSpire_pwr : (s.setSpire n x).pwr = s.pwr := rfl
@[simp] theorem setSpire_links : (s.setSpire n x).links = s.links := rfl
@[simp] theorem setSpire_loaded : (s.setSpire n x).loaded = s.loaded := rfl
@[simp] theorem setSpire_linkLo : (s.setSpire n x).linkLo = s.linkLo := rfl
@[simp] theorem setSpire_eth : (s.setSpire n x).eth = s.eth := rfl
@[simp] theorem setSpire_plink : (s.setSpire n x).plink = s.plink := rfl
@[simp] theorem setSpire_cup : (s.setSpire n x).cup = s.cup := rfl
@[simp] theorem setSpire_boot : (s.setSpire n x).boot = s.boot := rfl
@[simp] theorem setSpire_out : (s.setSpire n x).out = s.out := rfl
end setSpire

section setChan
variable (c : Nat) (x : MbChan)
@[simp] theorem setChan_pending : (s.setChan c x).pending = s.pending := rfl
@[simp] theorem setChan_free : (s.setChan c x).free = s.free := rfl
@[simp] theorem setChan_resp : (s.setChan c x).resp = s.resp := rfl
@[simp] theorem setChan_regs : (s.setChan c x).regs = s.regs := rfl
@[simp] theorem setChan_locks : (s.setChan c x).locks = s.locks := rfl
@[simp] theorem setChan_errs : (s.setChan c x).errs = s.errs := rfl
@[simp] theorem setChan_fwTicks : (s.setChan c x).fwTicks = s.fwTicks := rfl
@[simp] theorem setChan_domains : (s.setChan c x).domains = s.domains := rfl
@[simp] theorem setChan_mem : (s.setChan c x).mem = s.mem := rfl
@[simp] theorem setChan_lineErr : (s.setChan c x).lineErr = s.lineErr := rfl
@[simp] theorem setChan_wordErr : (s.setChan c x).wordErr = s.wordErr := rfl
@[simp] theorem setChan_memc : (s.setChan c x).memc = s.memc := rfl
@[simp] theorem setChan_scr0 : (s.setChan c x).scr0 = s.scr0 := rfl
@[simp] theorem setChan_scr1 : (s.setChan c x).scr1 = s.scr1 := rfl
@[simp] theorem setChan_belf : (s.setChan c x).belf = s.belf := rfl
@[simp] theorem setChan_timers : (s.setChan c x).timers = s.timers := rfl
@[simp] theorem setChan_tlatch : (s.setChan c x).tlatch = s.tlatch := rfl
@[simp] theorem setChan_lck : (s.setChan c x).lck = s.lck := rfl
@[simp] theorem setChan_fm : (s.setChan c x).fm = s.fm := rfl
@[simp] theorem setChan_spFence : (s.setChan c x).spFence = s.spFence := rfl
@[simp] theorem setChan_cores : (s.setChan c x).cores = s.cores := rfl
@[simp] theorem setChan_pairs : (s.setChan c x).pairs = s.pairs := rfl
@[simp] theorem setChan_spires : (s.setChan c x).spires = s.spires := rfl
@[simp] theorem setChan_qe : (s.setChan c x).qe = s.qe := rfl
@[simp] theorem setChan_keys : (s.setChan c x).keys = s.keys := rfl
@[simp] theorem setChan_ports : (s.setChan c x).ports = s.ports := rfl
@[simp] theorem setChan_pwr : (s.setChan c x).pwr = s.pwr := rfl
@[simp] theorem setChan_links : (s.setChan c x).links = s.links := rfl
@[simp] theorem setChan_loaded : (s.setChan c x).loaded = s.loaded := rfl
@[simp] theorem setChan_linkLo : (s.setChan c x).linkLo = s.linkLo := rfl
@[simp] theorem setChan_eth : (s.setChan c x).eth = s.eth := rfl
@[simp] theorem setChan_plink : (s.setChan c x).plink = s.plink := rfl
@[simp] theorem setChan_cup : (s.setChan c x).cup = s.cup := rfl
@[simp] theorem setChan_boot : (s.setChan c x).boot = s.boot := rfl
@[simp] theorem setChan_out : (s.setChan c x).out = s.out := rfl
end setChan

section setByte
variable (a : Nat) (x : Byte)
@[simp] theorem setByte_pending : (s.setByte a x).pending = s.pending := rfl
@[simp] theorem setByte_free : (s.setByte a x).free = s.free := rfl
@[simp] theorem setByte_resp : (s.setByte a x).resp = s.resp := rfl
@[simp] theorem setByte_regs : (s.setByte a x).regs = s.regs := rfl
@[simp] theorem setByte_locks : (s.setByte a x).locks = s.locks := rfl
@[simp] theorem setByte_errs : (s.setByte a x).errs = s.errs := rfl
@[simp] theorem setByte_fwTicks : (s.setByte a x).fwTicks = s.fwTicks := rfl
@[simp] theorem setByte_domains : (s.setByte a x).domains = s.domains := rfl
@[simp] theorem setByte_lineErr : (s.setByte a x).lineErr = s.lineErr := rfl
@[simp] theorem setByte_wordErr : (s.setByte a x).wordErr = s.wordErr := rfl
@[simp] theorem setByte_memc : (s.setByte a x).memc = s.memc := rfl
@[simp] theorem setByte_scr0 : (s.setByte a x).scr0 = s.scr0 := rfl
@[simp] theorem setByte_scr1 : (s.setByte a x).scr1 = s.scr1 := rfl
@[simp] theorem setByte_belf : (s.setByte a x).belf = s.belf := rfl
@[simp] theorem setByte_timers : (s.setByte a x).timers = s.timers := rfl
@[simp] theorem setByte_tlatch : (s.setByte a x).tlatch = s.tlatch := rfl
@[simp] theorem setByte_mbx : (s.setByte a x).mbx = s.mbx := rfl
@[simp] theorem setByte_lck : (s.setByte a x).lck = s.lck := rfl
@[simp] theorem setByte_fm : (s.setByte a x).fm = s.fm := rfl
@[simp] theorem setByte_spFence : (s.setByte a x).spFence = s.spFence := rfl
@[simp] theorem setByte_cores : (s.setByte a x).cores = s.cores := rfl
@[simp] theorem setByte_pairs : (s.setByte a x).pairs = s.pairs := rfl
@[simp] theorem setByte_spires : (s.setByte a x).spires = s.spires := rfl
@[simp] theorem setByte_qe : (s.setByte a x).qe = s.qe := rfl
@[simp] theorem setByte_keys : (s.setByte a x).keys = s.keys := rfl
@[simp] theorem setByte_ports : (s.setByte a x).ports = s.ports := rfl
@[simp] theorem setByte_pwr : (s.setByte a x).pwr = s.pwr := rfl
@[simp] theorem setByte_links : (s.setByte a x).links = s.links := rfl
@[simp] theorem setByte_loaded : (s.setByte a x).loaded = s.loaded := rfl
@[simp] theorem setByte_linkLo : (s.setByte a x).linkLo = s.linkLo := rfl
@[simp] theorem setByte_eth : (s.setByte a x).eth = s.eth := rfl
@[simp] theorem setByte_plink : (s.setByte a x).plink = s.plink := rfl
@[simp] theorem setByte_cup : (s.setByte a x).cup = s.cup := rfl
@[simp] theorem setByte_boot : (s.setByte a x).boot = s.boot := rfl
@[simp] theorem setByte_out : (s.setByte a x).out = s.out := rfl
end setByte

section setBytes
variable (a : Nat) (l : List Byte)
@[simp] theorem setBytes_pending : (s.setBytes a l).pending = s.pending := rfl
@[simp] theorem setBytes_free : (s.setBytes a l).free = s.free := rfl
@[simp] theorem setBytes_resp : (s.setBytes a l).resp = s.resp := rfl
@[simp] theorem setBytes_regs : (s.setBytes a l).regs = s.regs := rfl
@[simp] theorem setBytes_locks : (s.setBytes a l).locks = s.locks := rfl
@[simp] theorem setBytes_errs : (s.setBytes a l).errs = s.errs := rfl
@[simp] theorem setBytes_fwTicks : (s.setBytes a l).fwTicks = s.fwTicks := rfl
@[simp] theorem setBytes_domains : (s.setBytes a l).domains = s.domains := rfl
@[simp] theorem setBytes_lineErr : (s.setBytes a l).lineErr = s.lineErr := rfl
@[simp] theorem setBytes_wordErr : (s.setBytes a l).wordErr = s.wordErr := rfl
@[simp] theorem setBytes_memc : (s.setBytes a l).memc = s.memc := rfl
@[simp] theorem setBytes_scr0 : (s.setBytes a l).scr0 = s.scr0 := rfl
@[simp] theorem setBytes_scr1 : (s.setBytes a l).scr1 = s.scr1 := rfl
@[simp] theorem setBytes_belf : (s.setBytes a l).belf = s.belf := rfl
@[simp] theorem setBytes_timers : (s.setBytes a l).timers = s.timers := rfl
@[simp] theorem setBytes_tlatch : (s.setBytes a l).tlatch = s.tlatch := rfl
@[simp] theorem setBytes_mbx : (s.setBytes a l).mbx = s.mbx := rfl
@[simp] theorem setBytes_lck : (s.setBytes a l).lck = s.lck := rfl
@[simp] theorem setBytes_fm : (s.setBytes a l).fm = s.fm := rfl
@[simp] theorem setBytes_spFence : (s.setBytes a l).spFence = s.spFence := rfl
@[simp] theorem setBytes_cores : (s.setBytes a l).cores = s.cores := rfl
@[simp] theorem setBytes_pairs : (s.setBytes a l).pairs = s.pairs := rfl
@[simp] theorem setBytes_spires : (s.setBytes a l).spires = s.spires := rfl
@[simp] theorem setBytes_qe : (s.setBytes a l).qe = s.qe := rfl
@[simp] theorem setBytes_keys : (s.setBytes a l).keys = s.keys := rfl
@[simp] theorem setBytes_ports : (s.setBytes a l).ports = s.ports := rfl
@[simp] theorem setBytes_pwr : (s.setBytes a l).pwr = s.pwr := rfl
@[simp] theorem setBytes_links : (s.setBytes a l).links = s.links := rfl
@[simp] theorem setBytes_loaded : (s.setBytes a l).loaded = s.loaded := rfl
@[simp] theorem setBytes_linkLo : (s.setBytes a l).linkLo = s.linkLo := rfl
@[simp] theorem setBytes_eth : (s.setBytes a l).eth = s.eth := rfl
@[simp] theorem setBytes_plink : (s.setBytes a l).plink = s.plink := rfl
@[simp] theorem setBytes_cup : (s.setBytes a l).cup = s.cup := rfl
@[simp] theorem setBytes_boot : (s.setBytes a l).boot = s.boot := rfl
@[simp] theorem setBytes_out : (s.setBytes a l).out = s.out := rfl
end setBytes

section clearBytes
variable (a n : Nat)
@[simp] theorem clearBytes_pending : (s.clearBytes a n).pending = s.pending := rfl
@[simp] theorem clearBytes_free : (s.clearBytes a n).free = s.free := rfl
@[simp] theorem clearBytes_resp : (s.clearBytes a n).resp = s.resp := rfl
@[simp] theorem clearBytes_regs : (s.clearBytes a n).regs = s.regs := rfl
@[simp] theorem clearBytes_locks : (s.clearBytes a n).locks = s.locks := rfl
@[simp] theorem clearBytes_errs : (s.clearBytes a n).errs = s.errs := rfl
@[simp] theorem clearBytes_fwTicks : (s.clearBytes a n).fwTicks = s.fwTicks := rfl
@[simp] theorem clearBytes_domains : (s.clearBytes a n).domains = s.domains := rfl
@[simp] theorem clearBytes_lineErr : (s.clearBytes a n).lineErr = s.lineErr := rfl
@[simp] theorem clearBytes_wordErr : (s.clearBytes a n).wordErr = s.wordErr := rfl
@[simp] theorem clearBytes_memc : (s.clearBytes a n).memc = s.memc := rfl
@[simp] theorem clearBytes_scr0 : (s.clearBytes a n).scr0 = s.scr0 := rfl
@[simp] theorem clearBytes_scr1 : (s.clearBytes a n).scr1 = s.scr1 := rfl
@[simp] theorem clearBytes_belf : (s.clearBytes a n).belf = s.belf := rfl
@[simp] theorem clearBytes_timers : (s.clearBytes a n).timers = s.timers := rfl
@[simp] theorem clearBytes_tlatch : (s.clearBytes a n).tlatch = s.tlatch := rfl
@[simp] theorem clearBytes_mbx : (s.clearBytes a n).mbx = s.mbx := rfl
@[simp] theorem clearBytes_lck : (s.clearBytes a n).lck = s.lck := rfl
@[simp] theorem clearBytes_fm : (s.clearBytes a n).fm = s.fm := rfl
@[simp] theorem clearBytes_spFence : (s.clearBytes a n).spFence = s.spFence := rfl
@[simp] theorem clearBytes_cores : (s.clearBytes a n).cores = s.cores := rfl
@[simp] theorem clearBytes_pairs : (s.clearBytes a n).pairs = s.pairs := rfl
@[simp] theorem clearBytes_spires : (s.clearBytes a n).spires = s.spires := rfl
@[simp] theorem clearBytes_qe : (s.clearBytes a n).qe = s.qe := rfl
@[simp] theorem clearBytes_keys : (s.clearBytes a n).keys = s.keys := rfl
@[simp] theorem clearBytes_ports : (s.clearBytes a n).ports = s.ports := rfl
@[simp] theorem clearBytes_pwr : (s.clearBytes a n).pwr = s.pwr := rfl
@[simp] theorem clearBytes_links : (s.clearBytes a n).links = s.links := rfl
@[simp] theorem clearBytes_loaded : (s.clearBytes a n).loaded = s.loaded := rfl
@[simp] theorem clearBytes_linkLo : (s.clearBytes a n).linkLo = s.linkLo := rfl
@[simp] theorem clearBytes_eth : (s.clearBytes a n).eth = s.eth := rfl
@[simp] theorem clearBytes_plink : (s.clearBytes a n).plink = s.plink := rfl
@[simp] theorem clearBytes_cup : (s.clearBytes a n).cup = s.cup := rfl
@[simp] theorem clearBytes_boot : (s.clearBytes a n).boot = s.boot := rfl
@[simp] theorem clearBytes_out : (s.clearBytes a n).out = s.out := rfl
end clearBytes

section setLineErr
variable (l : Loc) (e : CellErr)
@[simp] theorem setLineErr_pending : (s.setLineErr l e).pending = s.pending := rfl
@[simp] theorem setLineErr_free : (s.setLineErr l e).free = s.free := rfl
@[simp] theorem setLineErr_resp : (s.setLineErr l e).resp = s.resp := rfl
@[simp] theorem setLineErr_regs : (s.setLineErr l e).regs = s.regs := rfl
@[simp] theorem setLineErr_locks : (s.setLineErr l e).locks = s.locks := rfl
@[simp] theorem setLineErr_errs : (s.setLineErr l e).errs = s.errs := rfl
@[simp] theorem setLineErr_fwTicks : (s.setLineErr l e).fwTicks = s.fwTicks := rfl
@[simp] theorem setLineErr_domains : (s.setLineErr l e).domains = s.domains := rfl
@[simp] theorem setLineErr_mem : (s.setLineErr l e).mem = s.mem := rfl
@[simp] theorem setLineErr_wordErr : (s.setLineErr l e).wordErr = s.wordErr := rfl
@[simp] theorem setLineErr_memc : (s.setLineErr l e).memc = s.memc := rfl
@[simp] theorem setLineErr_scr0 : (s.setLineErr l e).scr0 = s.scr0 := rfl
@[simp] theorem setLineErr_scr1 : (s.setLineErr l e).scr1 = s.scr1 := rfl
@[simp] theorem setLineErr_belf : (s.setLineErr l e).belf = s.belf := rfl
@[simp] theorem setLineErr_timers : (s.setLineErr l e).timers = s.timers := rfl
@[simp] theorem setLineErr_tlatch : (s.setLineErr l e).tlatch = s.tlatch := rfl
@[simp] theorem setLineErr_mbx : (s.setLineErr l e).mbx = s.mbx := rfl
@[simp] theorem setLineErr_lck : (s.setLineErr l e).lck = s.lck := rfl
@[simp] theorem setLineErr_fm : (s.setLineErr l e).fm = s.fm := rfl
@[simp] theorem setLineErr_spFence : (s.setLineErr l e).spFence = s.spFence := rfl
@[simp] theorem setLineErr_cores : (s.setLineErr l e).cores = s.cores := rfl
@[simp] theorem setLineErr_pairs : (s.setLineErr l e).pairs = s.pairs := rfl
@[simp] theorem setLineErr_spires : (s.setLineErr l e).spires = s.spires := rfl
@[simp] theorem setLineErr_qe : (s.setLineErr l e).qe = s.qe := rfl
@[simp] theorem setLineErr_keys : (s.setLineErr l e).keys = s.keys := rfl
@[simp] theorem setLineErr_ports : (s.setLineErr l e).ports = s.ports := rfl
@[simp] theorem setLineErr_pwr : (s.setLineErr l e).pwr = s.pwr := rfl
@[simp] theorem setLineErr_links : (s.setLineErr l e).links = s.links := rfl
@[simp] theorem setLineErr_loaded : (s.setLineErr l e).loaded = s.loaded := rfl
@[simp] theorem setLineErr_linkLo : (s.setLineErr l e).linkLo = s.linkLo := rfl
@[simp] theorem setLineErr_eth : (s.setLineErr l e).eth = s.eth := rfl
@[simp] theorem setLineErr_plink : (s.setLineErr l e).plink = s.plink := rfl
@[simp] theorem setLineErr_cup : (s.setLineErr l e).cup = s.cup := rfl
@[simp] theorem setLineErr_boot : (s.setLineErr l e).boot = s.boot := rfl
@[simp] theorem setLineErr_out : (s.setLineErr l e).out = s.out := rfl
end setLineErr

section setWordErr
variable (a n : Nat)
@[simp] theorem setWordErr_pending : (s.setWordErr a n).pending = s.pending := rfl
@[simp] theorem setWordErr_free : (s.setWordErr a n).free = s.free := rfl
@[simp] theorem setWordErr_resp : (s.setWordErr a n).resp = s.resp := rfl
@[simp] theorem setWordErr_regs : (s.setWordErr a n).regs = s.regs := rfl
@[simp] theorem setWordErr_locks : (s.setWordErr a n).locks = s.locks := rfl
@[simp] theorem setWordErr_errs : (s.setWordErr a n).errs = s.errs := rfl
@[simp] theorem setWordErr_fwTicks : (s.setWordErr a n).fwTicks = s.fwTicks := rfl
@[simp] theorem setWordErr_domains : (s.setWordErr a n).domains = s.domains := rfl
@[simp] theorem setWordErr_mem : (s.setWordErr a n).mem = s.mem := rfl
@[simp] theorem setWordErr_lineErr : (s.setWordErr a n).lineErr = s.lineErr := rfl
@[simp] theorem setWordErr_memc : (s.setWordErr a n).memc = s.memc := rfl
@[simp] theorem setWordErr_scr0 : (s.setWordErr a n).scr0 = s.scr0 := rfl
@[simp] theorem setWordErr_scr1 : (s.setWordErr a n).scr1 = s.scr1 := rfl
@[simp] theorem setWordErr_belf : (s.setWordErr a n).belf = s.belf := rfl
@[simp] theorem setWordErr_timers : (s.setWordErr a n).timers = s.timers := rfl
@[simp] theorem setWordErr_tlatch : (s.setWordErr a n).tlatch = s.tlatch := rfl
@[simp] theorem setWordErr_mbx : (s.setWordErr a n).mbx = s.mbx := rfl
@[simp] theorem setWordErr_lck : (s.setWordErr a n).lck = s.lck := rfl
@[simp] theorem setWordErr_fm : (s.setWordErr a n).fm = s.fm := rfl
@[simp] theorem setWordErr_spFence : (s.setWordErr a n).spFence = s.spFence := rfl
@[simp] theorem setWordErr_cores : (s.setWordErr a n).cores = s.cores := rfl
@[simp] theorem setWordErr_pairs : (s.setWordErr a n).pairs = s.pairs := rfl
@[simp] theorem setWordErr_spires : (s.setWordErr a n).spires = s.spires := rfl
@[simp] theorem setWordErr_qe : (s.setWordErr a n).qe = s.qe := rfl
@[simp] theorem setWordErr_keys : (s.setWordErr a n).keys = s.keys := rfl
@[simp] theorem setWordErr_ports : (s.setWordErr a n).ports = s.ports := rfl
@[simp] theorem setWordErr_pwr : (s.setWordErr a n).pwr = s.pwr := rfl
@[simp] theorem setWordErr_links : (s.setWordErr a n).links = s.links := rfl
@[simp] theorem setWordErr_loaded : (s.setWordErr a n).loaded = s.loaded := rfl
@[simp] theorem setWordErr_linkLo : (s.setWordErr a n).linkLo = s.linkLo := rfl
@[simp] theorem setWordErr_eth : (s.setWordErr a n).eth = s.eth := rfl
@[simp] theorem setWordErr_plink : (s.setWordErr a n).plink = s.plink := rfl
@[simp] theorem setWordErr_cup : (s.setWordErr a n).cup = s.cup := rfl
@[simp] theorem setWordErr_boot : (s.setWordErr a n).boot = s.boot := rfl
@[simp] theorem setWordErr_out : (s.setWordErr a n).out = s.out := rfl
end setWordErr

section setMch
variable (p : Nat) (c : Chan)
@[simp] theorem setMch_pending : (s.setMch p c).pending = s.pending := rfl
@[simp] theorem setMch_free : (s.setMch p c).free = s.free := rfl
@[simp] theorem setMch_resp : (s.setMch p c).resp = s.resp := rfl
@[simp] theorem setMch_regs : (s.setMch p c).regs = s.regs := rfl
@[simp] theorem setMch_locks : (s.setMch p c).locks = s.locks := rfl
@[simp] theorem setMch_errs : (s.setMch p c).errs = s.errs := rfl
@[simp] theorem setMch_fwTicks : (s.setMch p c).fwTicks = s.fwTicks := rfl
@[simp] theorem setMch_domains : (s.setMch p c).domains = s.domains := rfl
@[simp] theorem setMch_mem : (s.setMch p c).mem = s.mem := rfl
@[simp] theorem setMch_lineErr : (s.setMch p c).lineErr = s.lineErr := rfl
@[simp] theorem setMch_wordErr : (s.setMch p c).wordErr = s.wordErr := rfl
@[simp] theorem setMch_scr0 : (s.setMch p c).scr0 = s.scr0 := rfl
@[simp] theorem setMch_scr1 : (s.setMch p c).scr1 = s.scr1 := rfl
@[simp] theorem setMch_belf : (s.setMch p c).belf = s.belf := rfl
@[simp] theorem setMch_timers : (s.setMch p c).timers = s.timers := rfl
@[simp] theorem setMch_tlatch : (s.setMch p c).tlatch = s.tlatch := rfl
@[simp] theorem setMch_mbx : (s.setMch p c).mbx = s.mbx := rfl
@[simp] theorem setMch_lck : (s.setMch p c).lck = s.lck := rfl
@[simp] theorem setMch_fm : (s.setMch p c).fm = s.fm := rfl
@[simp] theorem setMch_spFence : (s.setMch p c).spFence = s.spFence := rfl
@[simp] theorem setMch_cores : (s.setMch p c).cores = s.cores := rfl
@[simp] theorem setMch_pairs : (s.setMch p c).pairs = s.pairs := rfl
@[simp] theorem setMch_spires : (s.setMch p c).spires = s.spires := rfl
@[simp] theorem setMch_qe : (s.setMch p c).qe = s.qe := rfl
@[simp] theorem setMch_keys : (s.setMch p c).keys = s.keys := rfl
@[simp] theorem setMch_ports : (s.setMch p c).ports = s.ports := rfl
@[simp] theorem setMch_pwr : (s.setMch p c).pwr = s.pwr := rfl
@[simp] theorem setMch_links : (s.setMch p c).links = s.links := rfl
@[simp] theorem setMch_loaded : (s.setMch p c).loaded = s.loaded := rfl
@[simp] theorem setMch_linkLo : (s.setMch p c).linkLo = s.linkLo := rfl
@[simp] theorem setMch_eth : (s.setMch p c).eth = s.eth := rfl
@[simp] theorem setMch_plink : (s.setMch p c).plink = s.plink := rfl
@[simp] theorem setMch_cup : (s.setMch p c).cup = s.cup := rfl
@[simp] theorem setMch_boot : (s.setMch p c).boot = s.boot := rfl
@[simp] theorem setMch_out : (s.setMch p c).out = s.out := rfl
end setMch

section setBelf
variable (x : Belf)
@[simp] theorem setBelf_pending : (s.setBelf x).pending = s.pending := rfl
@[simp] theorem setBelf_free : (s.setBelf x).free = s.free := rfl
@[simp] theorem setBelf_resp : (s.setBelf x).resp = s.resp := rfl
@[simp] theorem setBelf_regs : (s.setBelf x).regs = s.regs := rfl
@[simp] theorem setBelf_locks : (s.setBelf x).locks = s.locks := rfl
@[simp] theorem setBelf_errs : (s.setBelf x).errs = s.errs := rfl
@[simp] theorem setBelf_fwTicks : (s.setBelf x).fwTicks = s.fwTicks := rfl
@[simp] theorem setBelf_domains : (s.setBelf x).domains = s.domains := rfl
@[simp] theorem setBelf_mem : (s.setBelf x).mem = s.mem := rfl
@[simp] theorem setBelf_lineErr : (s.setBelf x).lineErr = s.lineErr := rfl
@[simp] theorem setBelf_wordErr : (s.setBelf x).wordErr = s.wordErr := rfl
@[simp] theorem setBelf_memc : (s.setBelf x).memc = s.memc := rfl
@[simp] theorem setBelf_scr0 : (s.setBelf x).scr0 = s.scr0 := rfl
@[simp] theorem setBelf_scr1 : (s.setBelf x).scr1 = s.scr1 := rfl
@[simp] theorem setBelf_timers : (s.setBelf x).timers = s.timers := rfl
@[simp] theorem setBelf_tlatch : (s.setBelf x).tlatch = s.tlatch := rfl
@[simp] theorem setBelf_mbx : (s.setBelf x).mbx = s.mbx := rfl
@[simp] theorem setBelf_lck : (s.setBelf x).lck = s.lck := rfl
@[simp] theorem setBelf_fm : (s.setBelf x).fm = s.fm := rfl
@[simp] theorem setBelf_spFence : (s.setBelf x).spFence = s.spFence := rfl
@[simp] theorem setBelf_cores : (s.setBelf x).cores = s.cores := rfl
@[simp] theorem setBelf_pairs : (s.setBelf x).pairs = s.pairs := rfl
@[simp] theorem setBelf_spires : (s.setBelf x).spires = s.spires := rfl
@[simp] theorem setBelf_qe : (s.setBelf x).qe = s.qe := rfl
@[simp] theorem setBelf_keys : (s.setBelf x).keys = s.keys := rfl
@[simp] theorem setBelf_ports : (s.setBelf x).ports = s.ports := rfl
@[simp] theorem setBelf_pwr : (s.setBelf x).pwr = s.pwr := rfl
@[simp] theorem setBelf_links : (s.setBelf x).links = s.links := rfl
@[simp] theorem setBelf_loaded : (s.setBelf x).loaded = s.loaded := rfl
@[simp] theorem setBelf_linkLo : (s.setBelf x).linkLo = s.linkLo := rfl
@[simp] theorem setBelf_eth : (s.setBelf x).eth = s.eth := rfl
@[simp] theorem setBelf_plink : (s.setBelf x).plink = s.plink := rfl
@[simp] theorem setBelf_cup : (s.setBelf x).cup = s.cup := rfl
@[simp] theorem setBelf_boot : (s.setBelf x).boot = s.boot := rfl
@[simp] theorem setBelf_out : (s.setBelf x).out = s.out := rfl
end setBelf

section setTimer
variable (p t : Nat) (x : Timer)
@[simp] theorem setTimer_pending : (s.setTimer p t x).pending = s.pending := rfl
@[simp] theorem setTimer_free : (s.setTimer p t x).free = s.free := rfl
@[simp] theorem setTimer_resp : (s.setTimer p t x).resp = s.resp := rfl
@[simp] theorem setTimer_regs : (s.setTimer p t x).regs = s.regs := rfl
@[simp] theorem setTimer_locks : (s.setTimer p t x).locks = s.locks := rfl
@[simp] theorem setTimer_errs : (s.setTimer p t x).errs = s.errs := rfl
@[simp] theorem setTimer_fwTicks : (s.setTimer p t x).fwTicks = s.fwTicks := rfl
@[simp] theorem setTimer_domains : (s.setTimer p t x).domains = s.domains := rfl
@[simp] theorem setTimer_mem : (s.setTimer p t x).mem = s.mem := rfl
@[simp] theorem setTimer_lineErr : (s.setTimer p t x).lineErr = s.lineErr := rfl
@[simp] theorem setTimer_wordErr : (s.setTimer p t x).wordErr = s.wordErr := rfl
@[simp] theorem setTimer_memc : (s.setTimer p t x).memc = s.memc := rfl
@[simp] theorem setTimer_scr0 : (s.setTimer p t x).scr0 = s.scr0 := rfl
@[simp] theorem setTimer_scr1 : (s.setTimer p t x).scr1 = s.scr1 := rfl
@[simp] theorem setTimer_belf : (s.setTimer p t x).belf = s.belf := rfl
@[simp] theorem setTimer_tlatch : (s.setTimer p t x).tlatch = s.tlatch := rfl
@[simp] theorem setTimer_mbx : (s.setTimer p t x).mbx = s.mbx := rfl
@[simp] theorem setTimer_lck : (s.setTimer p t x).lck = s.lck := rfl
@[simp] theorem setTimer_fm : (s.setTimer p t x).fm = s.fm := rfl
@[simp] theorem setTimer_spFence : (s.setTimer p t x).spFence = s.spFence := rfl
@[simp] theorem setTimer_cores : (s.setTimer p t x).cores = s.cores := rfl
@[simp] theorem setTimer_pairs : (s.setTimer p t x).pairs = s.pairs := rfl
@[simp] theorem setTimer_spires : (s.setTimer p t x).spires = s.spires := rfl
@[simp] theorem setTimer_qe : (s.setTimer p t x).qe = s.qe := rfl
@[simp] theorem setTimer_keys : (s.setTimer p t x).keys = s.keys := rfl
@[simp] theorem setTimer_ports : (s.setTimer p t x).ports = s.ports := rfl
@[simp] theorem setTimer_pwr : (s.setTimer p t x).pwr = s.pwr := rfl
@[simp] theorem setTimer_links : (s.setTimer p t x).links = s.links := rfl
@[simp] theorem setTimer_loaded : (s.setTimer p t x).loaded = s.loaded := rfl
@[simp] theorem setTimer_linkLo : (s.setTimer p t x).linkLo = s.linkLo := rfl
@[simp] theorem setTimer_eth : (s.setTimer p t x).eth = s.eth := rfl
@[simp] theorem setTimer_plink : (s.setTimer p t x).plink = s.plink := rfl
@[simp] theorem setTimer_cup : (s.setTimer p t x).cup = s.cup := rfl
@[simp] theorem setTimer_boot : (s.setTimer p t x).boot = s.boot := rfl
@[simp] theorem setTimer_out : (s.setTimer p t x).out = s.out := rfl
end setTimer

section setKey
variable (n : Nat) (k : KeySlot)
@[simp] theorem setKey_pending : (s.setKey n k).pending = s.pending := rfl
@[simp] theorem setKey_free : (s.setKey n k).free = s.free := rfl
@[simp] theorem setKey_resp : (s.setKey n k).resp = s.resp := rfl
@[simp] theorem setKey_regs : (s.setKey n k).regs = s.regs := rfl
@[simp] theorem setKey_locks : (s.setKey n k).locks = s.locks := rfl
@[simp] theorem setKey_errs : (s.setKey n k).errs = s.errs := rfl
@[simp] theorem setKey_fwTicks : (s.setKey n k).fwTicks = s.fwTicks := rfl
@[simp] theorem setKey_domains : (s.setKey n k).domains = s.domains := rfl
@[simp] theorem setKey_mem : (s.setKey n k).mem = s.mem := rfl
@[simp] theorem setKey_lineErr : (s.setKey n k).lineErr = s.lineErr := rfl
@[simp] theorem setKey_wordErr : (s.setKey n k).wordErr = s.wordErr := rfl
@[simp] theorem setKey_memc : (s.setKey n k).memc = s.memc := rfl
@[simp] theorem setKey_scr0 : (s.setKey n k).scr0 = s.scr0 := rfl
@[simp] theorem setKey_scr1 : (s.setKey n k).scr1 = s.scr1 := rfl
@[simp] theorem setKey_belf : (s.setKey n k).belf = s.belf := rfl
@[simp] theorem setKey_timers : (s.setKey n k).timers = s.timers := rfl
@[simp] theorem setKey_tlatch : (s.setKey n k).tlatch = s.tlatch := rfl
@[simp] theorem setKey_mbx : (s.setKey n k).mbx = s.mbx := rfl
@[simp] theorem setKey_lck : (s.setKey n k).lck = s.lck := rfl
@[simp] theorem setKey_fm : (s.setKey n k).fm = s.fm := rfl
@[simp] theorem setKey_spFence : (s.setKey n k).spFence = s.spFence := rfl
@[simp] theorem setKey_cores : (s.setKey n k).cores = s.cores := rfl
@[simp] theorem setKey_pairs : (s.setKey n k).pairs = s.pairs := rfl
@[simp] theorem setKey_spires : (s.setKey n k).spires = s.spires := rfl
@[simp] theorem setKey_qe : (s.setKey n k).qe = s.qe := rfl
@[simp] theorem setKey_ports : (s.setKey n k).ports = s.ports := rfl
@[simp] theorem setKey_pwr : (s.setKey n k).pwr = s.pwr := rfl
@[simp] theorem setKey_links : (s.setKey n k).links = s.links := rfl
@[simp] theorem setKey_loaded : (s.setKey n k).loaded = s.loaded := rfl
@[simp] theorem setKey_linkLo : (s.setKey n k).linkLo = s.linkLo := rfl
@[simp] theorem setKey_eth : (s.setKey n k).eth = s.eth := rfl
@[simp] theorem setKey_plink : (s.setKey n k).plink = s.plink := rfl
@[simp] theorem setKey_cup : (s.setKey n k).cup = s.cup := rfl
@[simp] theorem setKey_boot : (s.setKey n k).boot = s.boot := rfl
@[simp] theorem setKey_out : (s.setKey n k).out = s.out := rfl
end setKey

section setPort
variable (p : Nat) (x : Port)
@[simp] theorem setPort_pending : (s.setPort p x).pending = s.pending := rfl
@[simp] theorem setPort_free : (s.setPort p x).free = s.free := rfl
@[simp] theorem setPort_resp : (s.setPort p x).resp = s.resp := rfl
@[simp] theorem setPort_regs : (s.setPort p x).regs = s.regs := rfl
@[simp] theorem setPort_locks : (s.setPort p x).locks = s.locks := rfl
@[simp] theorem setPort_errs : (s.setPort p x).errs = s.errs := rfl
@[simp] theorem setPort_fwTicks : (s.setPort p x).fwTicks = s.fwTicks := rfl
@[simp] theorem setPort_domains : (s.setPort p x).domains = s.domains := rfl
@[simp] theorem setPort_mem : (s.setPort p x).mem = s.mem := rfl
@[simp] theorem setPort_lineErr : (s.setPort p x).lineErr = s.lineErr := rfl
@[simp] theorem setPort_wordErr : (s.setPort p x).wordErr = s.wordErr := rfl
@[simp] theorem setPort_memc : (s.setPort p x).memc = s.memc := rfl
@[simp] theorem setPort_scr0 : (s.setPort p x).scr0 = s.scr0 := rfl
@[simp] theorem setPort_scr1 : (s.setPort p x).scr1 = s.scr1 := rfl
@[simp] theorem setPort_belf : (s.setPort p x).belf = s.belf := rfl
@[simp] theorem setPort_timers : (s.setPort p x).timers = s.timers := rfl
@[simp] theorem setPort_tlatch : (s.setPort p x).tlatch = s.tlatch := rfl
@[simp] theorem setPort_mbx : (s.setPort p x).mbx = s.mbx := rfl
@[simp] theorem setPort_lck : (s.setPort p x).lck = s.lck := rfl
@[simp] theorem setPort_fm : (s.setPort p x).fm = s.fm := rfl
@[simp] theorem setPort_spFence : (s.setPort p x).spFence = s.spFence := rfl
@[simp] theorem setPort_cores : (s.setPort p x).cores = s.cores := rfl
@[simp] theorem setPort_pairs : (s.setPort p x).pairs = s.pairs := rfl
@[simp] theorem setPort_spires : (s.setPort p x).spires = s.spires := rfl
@[simp] theorem setPort_qe : (s.setPort p x).qe = s.qe := rfl
@[simp] theorem setPort_keys : (s.setPort p x).keys = s.keys := rfl
@[simp] theorem setPort_pwr : (s.setPort p x).pwr = s.pwr := rfl
@[simp] theorem setPort_links : (s.setPort p x).links = s.links := rfl
@[simp] theorem setPort_loaded : (s.setPort p x).loaded = s.loaded := rfl
@[simp] theorem setPort_linkLo : (s.setPort p x).linkLo = s.linkLo := rfl
@[simp] theorem setPort_eth : (s.setPort p x).eth = s.eth := rfl
@[simp] theorem setPort_plink : (s.setPort p x).plink = s.plink := rfl
@[simp] theorem setPort_cup : (s.setPort p x).cup = s.cup := rfl
@[simp] theorem setPort_boot : (s.setPort p x).boot = s.boot := rfl
@[simp] theorem setPort_out : (s.setPort p x).out = s.out := rfl
end setPort

section setWin
variable (w : Nat) (x : Option Win)
@[simp] theorem setWin_pending : (s.setWin w x).pending = s.pending := rfl
@[simp] theorem setWin_free : (s.setWin w x).free = s.free := rfl
@[simp] theorem setWin_resp : (s.setWin w x).resp = s.resp := rfl
@[simp] theorem setWin_regs : (s.setWin w x).regs = s.regs := rfl
@[simp] theorem setWin_locks : (s.setWin w x).locks = s.locks := rfl
@[simp] theorem setWin_errs : (s.setWin w x).errs = s.errs := rfl
@[simp] theorem setWin_fwTicks : (s.setWin w x).fwTicks = s.fwTicks := rfl
@[simp] theorem setWin_domains : (s.setWin w x).domains = s.domains := rfl
@[simp] theorem setWin_mem : (s.setWin w x).mem = s.mem := rfl
@[simp] theorem setWin_lineErr : (s.setWin w x).lineErr = s.lineErr := rfl
@[simp] theorem setWin_wordErr : (s.setWin w x).wordErr = s.wordErr := rfl
@[simp] theorem setWin_memc : (s.setWin w x).memc = s.memc := rfl
@[simp] theorem setWin_scr0 : (s.setWin w x).scr0 = s.scr0 := rfl
@[simp] theorem setWin_scr1 : (s.setWin w x).scr1 = s.scr1 := rfl
@[simp] theorem setWin_belf : (s.setWin w x).belf = s.belf := rfl
@[simp] theorem setWin_timers : (s.setWin w x).timers = s.timers := rfl
@[simp] theorem setWin_tlatch : (s.setWin w x).tlatch = s.tlatch := rfl
@[simp] theorem setWin_mbx : (s.setWin w x).mbx = s.mbx := rfl
@[simp] theorem setWin_lck : (s.setWin w x).lck = s.lck := rfl
@[simp] theorem setWin_fm : (s.setWin w x).fm = s.fm := rfl
@[simp] theorem setWin_spFence : (s.setWin w x).spFence = s.spFence := rfl
@[simp] theorem setWin_cores : (s.setWin w x).cores = s.cores := rfl
@[simp] theorem setWin_pairs : (s.setWin w x).pairs = s.pairs := rfl
@[simp] theorem setWin_spires : (s.setWin w x).spires = s.spires := rfl
@[simp] theorem setWin_qe : (s.setWin w x).qe = s.qe := rfl
@[simp] theorem setWin_keys : (s.setWin w x).keys = s.keys := rfl
@[simp] theorem setWin_ports : (s.setWin w x).ports = s.ports := rfl
@[simp] theorem setWin_pwr : (s.setWin w x).pwr = s.pwr := rfl
@[simp] theorem setWin_links : (s.setWin w x).links = s.links := rfl
@[simp] theorem setWin_loaded : (s.setWin w x).loaded = s.loaded := rfl
@[simp] theorem setWin_linkLo : (s.setWin w x).linkLo = s.linkLo := rfl
@[simp] theorem setWin_plink : (s.setWin w x).plink = s.plink := rfl
@[simp] theorem setWin_cup : (s.setWin w x).cup = s.cup := rfl
@[simp] theorem setWin_boot : (s.setWin w x).boot = s.boot := rfl
@[simp] theorem setWin_out : (s.setWin w x).out = s.out := rfl
end setWin

section setPlink
variable (x : PairLink)
@[simp] theorem setPlink_pending : (s.setPlink x).pending = s.pending := rfl
@[simp] theorem setPlink_free : (s.setPlink x).free = s.free := rfl
@[simp] theorem setPlink_resp : (s.setPlink x).resp = s.resp := rfl
@[simp] theorem setPlink_regs : (s.setPlink x).regs = s.regs := rfl
@[simp] theorem setPlink_locks : (s.setPlink x).locks = s.locks := rfl
@[simp] theorem setPlink_errs : (s.setPlink x).errs = s.errs := rfl
@[simp] theorem setPlink_fwTicks : (s.setPlink x).fwTicks = s.fwTicks := rfl
@[simp] theorem setPlink_domains : (s.setPlink x).domains = s.domains := rfl
@[simp] theorem setPlink_mem : (s.setPlink x).mem = s.mem := rfl
@[simp] theorem setPlink_lineErr : (s.setPlink x).lineErr = s.lineErr := rfl
@[simp] theorem setPlink_wordErr : (s.setPlink x).wordErr = s.wordErr := rfl
@[simp] theorem setPlink_memc : (s.setPlink x).memc = s.memc := rfl
@[simp] theorem setPlink_scr0 : (s.setPlink x).scr0 = s.scr0 := rfl
@[simp] theorem setPlink_scr1 : (s.setPlink x).scr1 = s.scr1 := rfl
@[simp] theorem setPlink_belf : (s.setPlink x).belf = s.belf := rfl
@[simp] theorem setPlink_timers : (s.setPlink x).timers = s.timers := rfl
@[simp] theorem setPlink_tlatch : (s.setPlink x).tlatch = s.tlatch := rfl
@[simp] theorem setPlink_mbx : (s.setPlink x).mbx = s.mbx := rfl
@[simp] theorem setPlink_lck : (s.setPlink x).lck = s.lck := rfl
@[simp] theorem setPlink_fm : (s.setPlink x).fm = s.fm := rfl
@[simp] theorem setPlink_spFence : (s.setPlink x).spFence = s.spFence := rfl
@[simp] theorem setPlink_cores : (s.setPlink x).cores = s.cores := rfl
@[simp] theorem setPlink_pairs : (s.setPlink x).pairs = s.pairs := rfl
@[simp] theorem setPlink_spires : (s.setPlink x).spires = s.spires := rfl
@[simp] theorem setPlink_qe : (s.setPlink x).qe = s.qe := rfl
@[simp] theorem setPlink_keys : (s.setPlink x).keys = s.keys := rfl
@[simp] theorem setPlink_ports : (s.setPlink x).ports = s.ports := rfl
@[simp] theorem setPlink_pwr : (s.setPlink x).pwr = s.pwr := rfl
@[simp] theorem setPlink_links : (s.setPlink x).links = s.links := rfl
@[simp] theorem setPlink_loaded : (s.setPlink x).loaded = s.loaded := rfl
@[simp] theorem setPlink_linkLo : (s.setPlink x).linkLo = s.linkLo := rfl
@[simp] theorem setPlink_eth : (s.setPlink x).eth = s.eth := rfl
@[simp] theorem setPlink_cup : (s.setPlink x).cup = s.cup := rfl
@[simp] theorem setPlink_boot : (s.setPlink x).boot = s.boot := rfl
@[simp] theorem setPlink_out : (s.setPlink x).out = s.out := rfl
end setPlink

section setCup
variable (c : Cup)
@[simp] theorem setCup_pending : (s.setCup c).pending = s.pending := rfl
@[simp] theorem setCup_free : (s.setCup c).free = s.free := rfl
@[simp] theorem setCup_resp : (s.setCup c).resp = s.resp := rfl
@[simp] theorem setCup_regs : (s.setCup c).regs = s.regs := rfl
@[simp] theorem setCup_locks : (s.setCup c).locks = s.locks := rfl
@[simp] theorem setCup_errs : (s.setCup c).errs = s.errs := rfl
@[simp] theorem setCup_fwTicks : (s.setCup c).fwTicks = s.fwTicks := rfl
@[simp] theorem setCup_domains : (s.setCup c).domains = s.domains := rfl
@[simp] theorem setCup_mem : (s.setCup c).mem = s.mem := rfl
@[simp] theorem setCup_lineErr : (s.setCup c).lineErr = s.lineErr := rfl
@[simp] theorem setCup_wordErr : (s.setCup c).wordErr = s.wordErr := rfl
@[simp] theorem setCup_memc : (s.setCup c).memc = s.memc := rfl
@[simp] theorem setCup_scr0 : (s.setCup c).scr0 = s.scr0 := rfl
@[simp] theorem setCup_scr1 : (s.setCup c).scr1 = s.scr1 := rfl
@[simp] theorem setCup_belf : (s.setCup c).belf = s.belf := rfl
@[simp] theorem setCup_timers : (s.setCup c).timers = s.timers := rfl
@[simp] theorem setCup_tlatch : (s.setCup c).tlatch = s.tlatch := rfl
@[simp] theorem setCup_mbx : (s.setCup c).mbx = s.mbx := rfl
@[simp] theorem setCup_lck : (s.setCup c).lck = s.lck := rfl
@[simp] theorem setCup_fm : (s.setCup c).fm = s.fm := rfl
@[simp] theorem setCup_spFence : (s.setCup c).spFence = s.spFence := rfl
@[simp] theorem setCup_cores : (s.setCup c).cores = s.cores := rfl
@[simp] theorem setCup_pairs : (s.setCup c).pairs = s.pairs := rfl
@[simp] theorem setCup_spires : (s.setCup c).spires = s.spires := rfl
@[simp] theorem setCup_qe : (s.setCup c).qe = s.qe := rfl
@[simp] theorem setCup_keys : (s.setCup c).keys = s.keys := rfl
@[simp] theorem setCup_ports : (s.setCup c).ports = s.ports := rfl
@[simp] theorem setCup_pwr : (s.setCup c).pwr = s.pwr := rfl
@[simp] theorem setCup_links : (s.setCup c).links = s.links := rfl
@[simp] theorem setCup_loaded : (s.setCup c).loaded = s.loaded := rfl
@[simp] theorem setCup_linkLo : (s.setCup c).linkLo = s.linkLo := rfl
@[simp] theorem setCup_eth : (s.setCup c).eth = s.eth := rfl
@[simp] theorem setCup_plink : (s.setCup c).plink = s.plink := rfl
@[simp] theorem setCup_boot : (s.setCup c).boot = s.boot := rfl
@[simp] theorem setCup_out : (s.setCup c).out = s.out := rfl
end setCup

section setBoot
variable (x : Boot)
@[simp] theorem setBoot_pending : (s.setBoot x).pending = s.pending := rfl
@[simp] theorem setBoot_free : (s.setBoot x).free = s.free := rfl
@[simp] theorem setBoot_resp : (s.setBoot x).resp = s.resp := rfl
@[simp] theorem setBoot_regs : (s.setBoot x).regs = s.regs := rfl
@[simp] theorem setBoot_locks : (s.setBoot x).locks = s.locks := rfl
@[simp] theorem setBoot_errs : (s.setBoot x).errs = s.errs := rfl
@[simp] theorem setBoot_fwTicks : (s.setBoot x).fwTicks = s.fwTicks := rfl
@[simp] theorem setBoot_domains : (s.setBoot x).domains = s.domains := rfl
@[simp] theorem setBoot_mem : (s.setBoot x).mem = s.mem := rfl
@[simp] theorem setBoot_lineErr : (s.setBoot x).lineErr = s.lineErr := rfl
@[simp] theorem setBoot_wordErr : (s.setBoot x).wordErr = s.wordErr := rfl
@[simp] theorem setBoot_memc : (s.setBoot x).memc = s.memc := rfl
@[simp] theorem setBoot_scr0 : (s.setBoot x).scr0 = s.scr0 := rfl
@[simp] theorem setBoot_scr1 : (s.setBoot x).scr1 = s.scr1 := rfl
@[simp] theorem setBoot_belf : (s.setBoot x).belf = s.belf := rfl
@[simp] theorem setBoot_timers : (s.setBoot x).timers = s.timers := rfl
@[simp] theorem setBoot_tlatch : (s.setBoot x).tlatch = s.tlatch := rfl
@[simp] theorem setBoot_mbx : (s.setBoot x).mbx = s.mbx := rfl
@[simp] theorem setBoot_lck : (s.setBoot x).lck = s.lck := rfl
@[simp] theorem setBoot_fm : (s.setBoot x).fm = s.fm := rfl
@[simp] theorem setBoot_spFence : (s.setBoot x).spFence = s.spFence := rfl
@[simp] theorem setBoot_cores : (s.setBoot x).cores = s.cores := rfl
@[simp] theorem setBoot_pairs : (s.setBoot x).pairs = s.pairs := rfl
@[simp] theorem setBoot_spires : (s.setBoot x).spires = s.spires := rfl
@[simp] theorem setBoot_qe : (s.setBoot x).qe = s.qe := rfl
@[simp] theorem setBoot_keys : (s.setBoot x).keys = s.keys := rfl
@[simp] theorem setBoot_ports : (s.setBoot x).ports = s.ports := rfl
@[simp] theorem setBoot_pwr : (s.setBoot x).pwr = s.pwr := rfl
@[simp] theorem setBoot_links : (s.setBoot x).links = s.links := rfl
@[simp] theorem setBoot_loaded : (s.setBoot x).loaded = s.loaded := rfl
@[simp] theorem setBoot_linkLo : (s.setBoot x).linkLo = s.linkLo := rfl
@[simp] theorem setBoot_eth : (s.setBoot x).eth = s.eth := rfl
@[simp] theorem setBoot_plink : (s.setBoot x).plink = s.plink := rfl
@[simp] theorem setBoot_cup : (s.setBoot x).cup = s.cup := rfl
@[simp] theorem setBoot_out : (s.setBoot x).out = s.out := rfl
end setBoot

end Sys2Proof.Laws
end

