-- ==== Sys2Proof/Laws/Tables.lean ====
section
/-! SUPPORT. Laws of the sparse tables: what a read after a write gives, and that every operation keeps the canonical form. -/
namespace Sys2Proof.Laws
open Sys2Proof.Machine

variable {α : Type}

/-- A write leaves every other key alone. -/
theorem sget_sput_ne [DecidableEq α] (m : SMap α) {k j : Nat} (v d e : α) (h : j ≠ k) :
    sget (sput m k v d) j e = sget m j e := by
  fun_induction sput m k v d <;> grind [sget]

theorem sget_lt [DecidableEq α] {dd : Nat → α} {lo k : Nat} {m : SMap α} (e : α) (w : swfFrom dd lo m = true) (h : k < lo) :
    sget m k e = e := by
  induction m generalizing lo with
  | nil => rfl
  | cons c t ih =>
    obtain ⟨j, v⟩ := c
    simp only [swfFrom, Bool.and_eq_true, decide_eq_true_eq] at w
    have : k ≠ j := by omega
    simp only [sget, this, if_false]
    exact ih w.2.2 (by omega)

/-- In a canonical table a read gives the value just written. -/
theorem sget_sput_from [DecidableEq α] {dd : Nat → α} {lo : Nat} (m : SMap α) (k : Nat) (v : α) (w : swfFrom dd lo m = true) :
    sget (sput m k v (dd k)) k (dd k) = v := by
  induction m generalizing lo with
  | nil => by_cases h : v = dd k <;> simp [sput, sget, h]
  | cons c t ih =>
    obtain ⟨j, x⟩ := c
    simp only [swfFrom, Bool.and_eq_true, decide_eq_true_eq] at w
    simp only [sput]
    split
    · rename_i hk
      split
      · rename_i hv
        have : k ≠ j := by omega
        simp only [sget, this, if_false]
        rw [sget_lt (dd := dd) (lo := j + 1) _ w.2.2 (by omega), hv]
      · simp [sget]
    · split
      · rename_i hk
        subst hk
        split
        · rename_i hv
          rw [sget_lt (dd := dd) _ w.2.2 (by omega), hv]
        · simp [sget]
      · rename_i hk hn
        simp only [sget, hn, if_false]
        exact ih w.2.2

theorem sget_sput_eq [DecidableEq α] {dd : Nat → α} (m : SMap α) (k : Nat) (v : α) (w : swf dd m = true) :
    sget (sput m k v (dd k)) k (dd k) = v := sget_sput_from m k v w

theorem swfFrom_mono [DecidableEq α] {dd : Nat → α} {lo lo' : Nat} {m : SMap α} (h : lo' ≤ lo) (w : swfFrom dd lo m = true) :
    swfFrom dd lo' m = true := by
  cases m with
  | nil => rfl
  | cons c t =>
    obtain ⟨j, x⟩ := c
    simp only [swfFrom, Bool.and_eq_true, decide_eq_true_eq] at w ⊢
    exact ⟨by omega, w.2⟩

/-- A write keeps the canonical form. -/
theorem swfFrom_sput [DecidableEq α] {dd : Nat → α} {lo : Nat} (m : SMap α) (k : Nat) (v : α) (h : lo ≤ k)
    (w : swfFrom dd lo m = true) : swfFrom dd lo (sput m k v (dd k)) = true := by
  induction m generalizing lo with
  | nil => by_cases hv : v = dd k <;> simp [sput, swfFrom, hv, h]
  | cons c t ih =>
    obtain ⟨j, x⟩ := c
    have w0 := w
    simp only [swfFrom, Bool.and_eq_true, decide_eq_true_eq] at w
    simp only [sput]
    split
    · split
      · exact w0
      · rename_i hk hv
        simp only [swfFrom, Bool.and_eq_true, decide_eq_true_eq]
        exact ⟨h, hv, by omega, w.2.1, w.2.2⟩
    · split
      · rename_i hk
        subst hk
        split
        · exact swfFrom_mono (by omega) w.2.2
        · rename_i hv
          simp only [swfFrom, Bool.and_eq_true, decide_eq_true_eq]
          exact ⟨h, hv, w.2.2⟩
      · simp only [swfFrom, Bool.and_eq_true, decide_eq_true_eq]
        exact ⟨w.1, w.2.1, ih (by omega) w.2.2⟩

theorem swf_sput [DecidableEq α] {dd : Nat → α} (m : SMap α) (k : Nat) (v : α) (w : swf dd m = true) :
    swf dd (sput m k v (dd k)) = true := swfFrom_sput m k v (Nat.zero_le k) w

theorem swfFrom_sdrop [DecidableEq α] {dd : Nat → α} {lo : Nat} (p : Nat → Bool) (m : SMap α) (w : swfFrom dd lo m = true) :
    swfFrom dd lo (sdrop p m) = true := by
  induction m generalizing lo with
  | nil => rfl
  | cons c t ih =>
    obtain ⟨j, x⟩ := c
    simp only [swfFrom, Bool.and_eq_true, decide_eq_true_eq] at w
    simp only [sdrop]
    split
    · exact swfFrom_mono (by omega) (ih w.2.2)
    · simp only [swfFrom, Bool.and_eq_true, decide_eq_true_eq]
      exact ⟨w.1, w.2.1, ih w.2.2⟩

/-- Dropping keys keeps the canonical form. -/
theorem swf_sdrop [DecidableEq α] {dd : Nat → α} (p : Nat → Bool) (m : SMap α) (w : swf dd m = true) :
    swf dd (sdrop p m) = true := swfFrom_sdrop p m w

theorem swfFrom_filter [DecidableEq α] {dd : Nat → α} {lo : Nat} (p : Nat × α → Bool) (m : SMap α) (w : swfFrom dd lo m = true) :
    swfFrom dd lo (m.filter p) = true := by
  induction m generalizing lo with
  | nil => rfl
  | cons c t ih =>
    obtain ⟨j, x⟩ := c
    simp only [swfFrom, Bool.and_eq_true, decide_eq_true_eq] at w
    simp only [List.filter]
    split
    · simp only [swfFrom, Bool.and_eq_true, decide_eq_true_eq]
      exact ⟨w.1, w.2.1, ih w.2.2⟩
    · exact swfFrom_mono (by omega) (ih w.2.2)

/-- Filtering keeps the canonical form. -/
theorem swf_filter [DecidableEq α] {dd : Nat → α} (p : Nat × α → Bool) (m : SMap α) (w : swf dd m = true) :
    swf dd (m.filter p) = true := swfFrom_filter p m w

theorem swfFrom_map [DecidableEq α] {dd : Nat → α} {lo : Nat} (g : Nat × α → Nat × α) (m : SMap α) (hk : ∀ c, (g c).1 = c.1)
    (hv : ∀ c, c.2 ≠ dd c.1 → (g c).2 ≠ dd c.1) (w : swfFrom dd lo m = true) : swfFrom dd lo (m.map g) = true := by
  induction m generalizing lo with
  | nil => rfl
  | cons c t ih =>
    obtain ⟨j, x⟩ := c
    have h1 := hk (j, x)
    have h2 := hv (j, x)
    simp only [swfFrom, Bool.and_eq_true, decide_eq_true_eq] at w
    rw [List.map_cons]
    rcases hg : g (j, x) with ⟨j', x'⟩
    rw [hg] at h1 h2
    dsimp only at h1 h2
    subst h1
    simp only [swfFrom, Bool.and_eq_true, decide_eq_true_eq]
    exact ⟨w.1, h2 w.2.1, ih w.2.2⟩

/-- Changing values to values that are no default keeps the canonical form. -/
theorem swf_map [DecidableEq α] {dd : Nat → α} (g : Nat × α → Nat × α) (m : SMap α) (hk : ∀ c, (g c).1 = c.1)
    (hv : ∀ c, c.2 ≠ dd c.1 → (g c).2 ≠ dd c.1) (w : swf dd m = true) : swf dd (m.map g) = true := swfFrom_map g m hk hv w

end Sys2Proof.Laws
end

