-- ==== Sys2Proof/Laws/Access.lean ====
section
/-! SUPPORT. What a read after a write gives, for each part of the state: the value written at the place written, and the value
from before at every other place. -/
namespace Sys2Proof.Laws
open Sys2Proof.Machine

/-! ### Registers -/

theorem regKey_inj {p o p' o' : Nat} (ho : o < 4096) (ho' : o' < 4096) : regKey p' o' = regKey p o ↔ p' = p ∧ o' = o := by
  unfold regKey; omega

/-- The word just written is read back. -/
theorem reg_setReg (s : State) (p o : Nat) (v : Word32) (h : Regs.wf s = true) : (s.setReg p o v).reg p o = v :=
  sget_sput_eq _ _ _ h

/-- A write leaves every other register alone. -/
theorem reg_setReg_key (s : State) (p o p' o' : Nat) (v : Word32) (h : regKey p' o' ≠ regKey p o) :
    (s.setReg p o v).reg p' o' = s.reg p' o' := sget_sput_ne _ _ _ _ h

theorem reg_setReg_ne (s : State) (p o p' o' : Nat) (v : Word32) (ho : o < 4096) (ho' : o' < 4096) (h : ¬ (p' = p ∧ o' = o)) :
    (s.setReg p o v).reg p' o' = s.reg p' o' := reg_setReg_key s p o p' o' v (by rw [Ne, regKey_inj ho ho']; exact h)

/-- Reading depends on the table of registers alone. -/
theorem reg_congr {s t : State} (h : t.regs = s.regs) (p o : Nat) : t.reg p o = s.reg p o := by unfold State.reg; rw [h]

/-! ### The cores, the pairs, the spires -/

@[simp] theorem core_setCore (s : State) (n : Fin 8) (c : Core) : (s.setCore n c).core n = c := by
  simp [State.core, State.setCore]
theorem core_setCore_ne (s : State) (n m : Fin 8) (c : Core) (h : m ≠ n) : (s.setCore n c).core m = s.core m := by
  have : n.val ≠ m.val := fun e => h (Fin.ext e.symm)
  simp [State.core, State.setCore, this]
@[simp] theorem pair_setPair (s : State) (p : Fin 4) (x : Pair) : (s.setPair p x).pair p = x := by
  simp [State.pair, State.setPair]
theorem pair_setPair_ne (s : State) (p q : Fin 4) (x : Pair) (h : q ≠ p) : (s.setPair p x).pair q = s.pair q := by
  have : p.val ≠ q.val := fun e => h (Fin.ext e.symm)
  simp [State.pair, State.setPair, this]
@[simp] theorem spire_setSpire (s : State) (n : Fin 8) (x : Spire) : (s.setSpire n x).spire n = x := by
  simp [State.spire, State.setSpire]
theorem spire_setSpire_ne (s : State) (n m : Fin 8) (x : Spire) (h : m ≠ n) : (s.setSpire n x).spire m = s.spire m := by
  have : n.val ≠ m.val := fun e => h (Fin.ext e.symm)
  simp [State.spire, State.setSpire, this]

/-! ### The tables -/

theorem chan_setChan_ne (s : State) (c d : Nat) (x : MbChan) (h : d ≠ c) : (s.setChan c x).chan d = s.chan d := sget_sput_ne _ _ _ _ h
theorem err_setErr_ne (s : State) (p q : Nat) (x : PageErr) (h : q ≠ p) : (s.setErr p x).err q = s.err q := sget_sput_ne _ _ _ _ h
theorem key_setKey_ne (s : State) (n m : Nat) (k : KeySlot) (h : m ≠ n) : (s.setKey n k).key m = s.key m := sget_sput_ne _ _ _ _ h
theorem port_setPort_ne (s : State) (p q : Nat) (x : Port) (h : q ≠ p) : (s.setPort p x).port q = s.port q := sget_sput_ne _ _ _ _ h
theorem mch_setMch_ne (s : State) (p q : Nat) (c : Chan) (h : q ≠ p) : (s.setMch p c).mch q = s.mch q := sget_sput_ne _ _ _ _ h
theorem win_setWin_ne (s : State) (w v : Nat) (x : Option Win) (h : v ≠ w) : (s.setWin w x).win v = s.win v := sget_sput_ne _ _ _ _ h
theorem dom_setDom_ne (s : State) (d e : Nat) (b : Bool) (h : e ≠ d) : (s.setDom d b).dom e = s.dom e := sget_sput_ne _ _ _ _ h
theorem dom_setDom (s : State) (d : Nat) (b : Bool) (h : swf domainReset s.domains = true) : (s.setDom d b).dom d = b :=
  sget_sput_eq _ _ _ h

/-! ### Memory -/

/-- The byte just written is read back. -/
theorem byteAt_setByte (s : State) (a : Nat) (x : Byte) (h : Memory.wf s = true) : (s.setByte a x).byteAt a = x :=
  sget_sput_eq (dd := fun _ => (0 : Byte)) _ _ _ h
/-- A write leaves every other byte alone. -/
theorem byteAt_setByte_ne (s : State) (a b : Nat) (x : Byte) (h : b ≠ a) : (s.setByte a x).byteAt b = s.byteAt b := sget_sput_ne _ _ _ _ h

theorem sget_memPut_out {m : List Host.Cell} {a b : Nat} {l : List Byte} (h : b < a ∨ a + l.length ≤ b) :
    sget (memPut m a l) b (0 : Byte) = sget m b 0 := by
  induction l generalizing m a with
  | nil => rfl
  | cons x t ih =>
    simp only [List.length_cons] at h
    rw [memPut, ih (by omega), sget_sput_ne _ _ _ _ (by omega)]
/-- A write of several bytes leaves the bytes outside of them alone. -/
theorem byteAt_setBytes_out (s : State) (a b : Nat) (l : List Byte) (h : b < a ∨ a + l.length ≤ b) :
    (s.setBytes a l).byteAt b = s.byteAt b := sget_memPut_out h

theorem sget_memPut_in {m : List Host.Cell} {a i : Nat} {l : List Byte} (w : swf (fun _ => (0 : Byte)) m = true) (h : i < l.length) :
    sget (memPut m a l) (a + i) (0 : Byte) = l[i] := by
  induction l generalizing m a i with
  | nil => simp at h
  | cons x t ih =>
    rw [memPut]
    have w' := swf_sput (dd := fun _ => (0 : Byte)) m a x w
    cases i with
    | zero =>
      rw [sget_memPut_out (by omega)]
      exact sget_sput_eq (dd := fun _ => (0 : Byte)) _ _ _ w
    | succ i =>
      have := ih (a := a + 1) (i := i) w' (by simpa using h)
      rw [show a + (i + 1) = a + 1 + i by omega, this]
      rfl
/-- A write of several bytes is read back byte for byte. -/
theorem byteAt_setBytes_in (s : State) (a i : Nat) (l : List Byte) (w : Memory.wf s = true) (h : i < l.length) :
    (s.setBytes a l).byteAt (a + i) = l[i] := sget_memPut_in w h

@[simp] theorem length_bytes (s : State) (a n : Nat) : (s.bytes a n).length = n := by
  induction n generalizing a with
  | zero => rfl
  | succ n ih => simp [State.bytes, ih]
theorem getElem_bytes (s : State) (a n i : Nat) (h : i < n) : (s.bytes a n)[i]'(by simpa using h) = s.byteAt (a + i) := by
  induction n generalizing a i with
  | zero => omega
  | succ n ih =>
    cases i with
    | zero => rfl
    | succ i => simp only [State.bytes, List.getElem_cons_succ, ih (a + 1) i (by omega)]; congr 1; omega
/-- Bytes written are read back. -/
theorem bytes_setBytes (s : State) (a : Nat) (l : List Byte) (w : Memory.wf s = true) : (s.setBytes a l).bytes a l.length = l :=
  List.ext_getElem (by simp) fun i h1 h2 => by rw [getElem_bytes _ _ _ _ h2, byteAt_setBytes_in _ _ _ _ w h2]
/-- A read of bytes that a write does not touch gives what it gave before. -/
theorem bytes_setBytes_out (s : State) (a b n : Nat) (l : List Byte) (h : b + n ≤ a ∨ a + l.length ≤ b) :
    (s.setBytes a l).bytes b n = s.bytes b n :=
  List.ext_getElem (by simp) fun i h1 h2 => by
    have hi : i < n := by simpa using h2
    rw [getElem_bytes _ _ _ _ hi, getElem_bytes _ _ _ _ hi, byteAt_setBytes_out _ _ _ _ (by omega)]

/-! ### The canonical form of the memory -/

theorem wf_setByte (s : State) (a : Nat) (x : Byte) (h : Memory.wf s = true) : Memory.wf (s.setByte a x) = true :=
  swf_sput (dd := fun _ => (0 : Byte)) _ _ _ h
theorem wf_setBytes (s : State) (a : Nat) (l : List Byte) (h : Memory.wf s = true) : Memory.wf (s.setBytes a l) = true := by
  have k : ∀ (l : List Byte) (m : List Host.Cell) (a : Nat), swf (fun _ => (0 : Byte)) m = true →
      swf (fun _ => (0 : Byte)) (memPut m a l) = true := by
    intro l
    induction l with
    | nil => exact fun _ _ h => h
    | cons b t ih => exact fun m a h => ih _ _ (swf_sput (dd := fun _ => (0 : Byte)) m a b h)
  exact k l _ a h
theorem wf_clearBytes (s : State) (a n : Nat) (h : Memory.wf s = true) : Memory.wf (s.clearBytes a n) = true :=
  swf_sdrop _ _ h
theorem wf_setReg (s : State) (p o : Nat) (v : Word32) (h : Regs.wf s = true) : Regs.wf (s.setReg p o v) = true := swf_sput _ _ _ h

/-! ### Bus commands -/

/-- A command of an identity that issues transactions is the bus write and its answer. -/
theorem cmdWrite_of_issues {s : State} {id : MasterId} (h : s.issues id = true) (a : Nat) (d : List Byte) (u : Upset) :
    cmdWrite s id a d u = { (busWrite s id a d u).1 with resp := respOf (busWrite s id a d u).2 } := by
  simp [cmdWrite, State.reaches, h]
/-- A command of an identity that issues transactions is the bus read and its answer. -/
theorem cmdRead_of_issues {s : State} {id : MasterId} (h : s.issues id = true) (a n : Nat) (u : Upset) :
    cmdRead s id a n u = { (busRead s id a n u).1 with resp := respRd (busRead s id a n u).2 } := by
  simp [cmdRead, State.reaches, h]

end Sys2Proof.Laws
end

