-- ==== Sys2Proof/Laws/Kept.lean ====
section
/-! SUPPORT. What no operation of a command touches: the queue of waiting commands, the canonical form of the memory and of the
register table, and the energy registers of the Cupola. Each operation of the model has one lemma that says so. -/
namespace Sys2Proof.Laws
open Sys2Proof.Machine

/-- From `s` to `t`: the queue and the energy registers are the same, and the canonical forms are kept. -/
structure Kept (s t : State) : Prop where
  pending : t.pending = s.pending
  mem : Memory.wf s = true → Memory.wf t = true
  regs : Regs.wf s = true → Regs.wf t = true
  energy : t.cup.energy = s.cup.energy

theorem Kept.refl {s : State} : Kept s s := ⟨rfl, id, id, rfl⟩
theorem Kept.trans {s t u : State} (h : Kept s t) (k : Kept t u) : Kept s u :=
  ⟨k.pending.trans h.pending, k.mem ∘ h.mem, k.regs ∘ h.regs, k.energy.trans h.energy⟩
/-- A change of other fields. -/
theorem Kept.upd {s t u : State} (h : Kept s t) (h1 : u.pending = t.pending) (h2 : u.mem = t.mem) (h3 : u.regs = t.regs)
    (h4 : u.cup.energy = t.cup.energy) : Kept s u :=
  ⟨h1.trans h.pending, fun w => by have := h.mem w; simpa [Memory.wf, h2] using this,
   fun w => by have := h.regs w; simpa [Regs.wf, h3] using this, h4.trans h.energy⟩

theorem Kept.foldl {α : Type} {s t : State} {g : State → α → State} {l : List α} (hg : ∀ x a, Kept x (g x a)) (h : Kept s t) :
    Kept s (l.foldl g t) := by
  induction l generalizing t with
  | nil => exact h
  | cons a l ih => exact ih (h.trans (hg t a))

theorem Kept.ite {s a b : State} {c : Prop} [Decidable c] (ha : Kept s a) (hb : Kept s b) : Kept s (if c then a else b) := by
  split <;> assumption

/-- Every state in an answer is kept. -/
def KeptO (s : State) {α : Type} (f : α → State) (o : Option α) : Prop := ∀ r, o = some r → Kept s (f r)

/-- The state of a pair that an operation answered. -/
theorem Kept.viaFst {s t a : State} {α : Type} {p : State × α} {x : α} (e : p = (a, x)) (k : Kept t p.1) (h : Kept s t) : Kept s a := by
  subst e; exact h.trans k
theorem Kept.viaSnd {s t a : State} {α : Type} {p : α × State} {x : α} (e : p = (x, a)) (k : Kept t p.2) (h : Kept s t) : Kept s a := by
  subst e; exact h.trans k

/-- A change of any fields but these. -/
theorem mk_kept_iff {s t : State} {free : Nat} {resp : Resp} {locks : SMap PageLock} {errs : SMap PageErr} {fwTicks : Nat}
    {domains : SMap Bool} {lineErr : SMap CellErr} {wordErr : SMap CellErr} {memc : Memc} {scr0 : Scr} {scr1 : Scr}
    {belf : Belf} {timers : SMap Timer} {tlatch : SMap Word32} {mbx : SMap MbChan} {lck : SMap (Option Nat)} {fm : Fm}
    {spFence : SMap Bool} {cores : Vector Core 8} {pairs : Vector Pair 4} {spires : Vector Spire 8} {qe : Qe}
    {keys : SMap KeySlot} {ports : SMap Port} {pwr : Pwr} {links : SMap Nat} {loaded : SMap Nat} {linkLo : SMap (Option Nat)}
    {eth : Eth} {plink : PairLink} {cup : Cup} {boot : Boot} {out : List Out} (h : cup.energy = t.cup.energy) : Kept s
    (State.mk t.pending free resp t.regs locks errs fwTicks domains t.mem lineErr wordErr memc scr0 scr1 belf timers tlatch
    mbx lck fm spFence cores pairs spires qe keys ports pwr links loaded linkLo eth plink cup boot out) ↔ Kept s t :=
  ⟨fun k => ⟨k.pending, k.mem, k.regs, h.symm.trans k.energy⟩, fun k => ⟨k.pending, k.mem, k.regs, h.trans k.energy⟩⟩

theorem KeptO.none {s : State} {α : Type} {f : α → State} : KeptO s f none := fun _ e => by cases e
theorem KeptO.some {s : State} {α : Type} {f : α → State} {r : α} (h : Kept s (f r)) : KeptO s f (some r) :=
  fun _ e => by cases e; exact h
theorem KeptO.ite {s : State} {α : Type} {f : α → State} {a b : Option α} {c : Prop} [Decidable c] (ha : KeptO s f a)
    (hb : KeptO s f b) : KeptO s f (if c then a else b) := by split <;> assumption
theorem KeptO.getD {s : State} {α : Type} {f : α → State} {o : Option α} {d : α} (h : KeptO s f o) (hd : Kept s (f d)) :
    Kept s (f (o.getD d)) := by
  cases o with
  | none => exact hd
  | some r => exact h r rfl
theorem KeptO.map {s t : State} {α β : Type} {o : Option α} {g : α → β} (h : Kept s t) :
    KeptO s Prod.fst (o.map fun v => (t, g v)) := fun r e => by
  cases o with
  | none => cases e
  | some v => cases e; exact h

theorem KeptO.via {s t : State} {α : Type} {f : α → State} {o : Option α} {r : α} (e : o = Option.some r) (k : KeptO t f o)
    (h : Kept s t) : Kept s (f r) := h.trans (k r e)

/-- Every state in an answer is kept. -/
def KeptR (s : State) (r : Res) : Prop := ∀ t, r = .next t → Kept s t

theorem KeptR.ok {s t : State} (h : Kept s t) : KeptR s (ok t) := fun _ e => by cases e; exact h
theorem KeptR.okIf {s t : State} {b : Bool} (h : Kept s t) : KeptR s (okIf b t) := fun u e => by
  unfold Machine.okIf at e; split at e <;> cases e; exact h

theorem KeptR.fault {s : State} {f : Fault} : KeptR s (.fault f) := fun _ e => by cases e
theorem KeptR.ite {s : State} {a b : Res} {c : Prop} [Decidable c] (ha : KeptR s a) (hb : KeptR s b) : KeptR s (if c then a else b) := by
  split <;> assumption

theorem setReg_kept {s : State} {p o : Nat} {v : Word32} : Kept s (s.setReg p o v) :=
  ⟨rfl, id, fun h => swf_sput _ _ _ h, rfl⟩
theorem dropRegs_kept {s : State} {p : Nat → Nat → Bool} : Kept s (s.dropRegs p) := ⟨rfl, id, fun h => swf_sdrop _ _ h, rfl⟩
theorem setByte_kept {s : State} {a : Nat} {b : Byte} : Kept s (s.setByte a b) :=
  ⟨rfl, fun h => swf_sput (dd := fun _ => (0 : Byte)) _ _ _ h, id, rfl⟩
theorem memPut_wf {m : List Host.Cell} {a : Nat} {l : List Byte} (h : swf (fun _ => (0 : Byte)) m = true) :
    swf (fun _ => (0 : Byte)) (memPut m a l) = true := by
  induction l generalizing m a with
  | nil => exact h
  | cons b t ih => exact ih (swf_sput (dd := fun _ => (0 : Byte)) _ _ _ h)
theorem setBytes_kept {s : State} {a : Nat} {l : List Byte} : Kept s (s.setBytes a l) := ⟨rfl, memPut_wf, id, rfl⟩
theorem clearBytes_kept {s : State} {a n : Nat} : Kept s (s.clearBytes a n) := ⟨rfl, fun h => swf_sdrop _ _ h, id, rfl⟩

end Sys2Proof.Laws
end

