-- ==== Sys2Proof/Laws/KeepOps.lean ====
section
/-! SUPPORT. What the operations of Machine/Ops.lean leave alone (Laws/Kept.lean). -/
namespace Sys2Proof.Laws
set_option linter.unusedTactic false
set_option linter.unreachableTactic false
open Sys2Proof.Machine
theorem State_setRegF_kept {s : State} {page : Nat} {off : Nat} {lo : Nat} {w : Nat} {v : Nat} :
    Kept s (State.setRegF s page off lo w v) := by
  unfold State.setRegF
  (try simp only [])
  repeat' first
    | with_reducible apply Kept.ite ?_ ?_
    | with_reducible exact Kept.refl
    | with_reducible apply Kept.trans ?_ setReg_kept
    | (with_reducible apply Kept.foldl ?_ ?_; intro x a; (try simp only []))
    | simp only [mk_kept_iff]
    | split
theorem State_fresh_kept {s : State} : Kept s (State.fresh s).2 := by
  unfold State.fresh
  (try simp only [])
  repeat' first
    | with_reducible apply Kept.ite ?_ ?_
    | with_reducible exact Kept.refl
    | (with_reducible apply Kept.foldl ?_ ?_; intro x a; (try simp only []))
    | simp only [mk_kept_iff]
    | split
theorem State_setDom_kept {s : State} {d : Nat} {on : Bool} : Kept s (State.setDom s d on) := by
  unfold State.setDom
  (try simp only [])
  repeat' first
    | with_reducible apply Kept.ite ?_ ?_
    | with_reducible exact Kept.refl
    | (with_reducible apply Kept.foldl ?_ ?_; intro x a; (try simp only []))
    | simp only [mk_kept_iff]
    | split
theorem State_setCore_kept {s : State} {n : Fin 8} {c : Core} : Kept s (State.setCore s n c) := by
  unfold State.setCore
  (try simp only [])
  repeat' first
    | with_reducible apply Kept.ite ?_ ?_
    | with_reducible exact Kept.refl
    | (with_reducible apply Kept.foldl ?_ ?_; intro x a; (try simp only []))
    | simp only [mk_kept_iff]
    | split
theorem State_setPair_kept {s : State} {p : Fin 4} {x : Pair} : Kept s (State.setPair s p x) := by
  unfold State.setPair
  (try simp only [])
  repeat' first
    | with_reducible apply Kept.ite ?_ ?_
    | with_reducible exact Kept.refl
    | (with_reducible apply Kept.foldl ?_ ?_; intro x a; (try simp only []))
    | simp only [mk_kept_iff]
    | split
theorem State_setChan_kept {s : State} {c : Nat} {x : MbChan} : Kept s (State.setChan s c x) := by
  unfold State.setChan
  (try simp only [])
  repeat' first
    | with_reducible apply Kept.ite ?_ ?_
    | with_reducible exact Kept.refl
    | (with_reducible apply Kept.foldl ?_ ?_; intro x a; (try simp only []))
    | simp only [mk_kept_iff]
    | split
theorem wakeOne_kept {s : State} {n : Fin 8} : Kept s (wakeOne s n) := by
  unfold wakeOne
  (try simp only [])
  repeat' first
    | with_reducible apply Kept.ite ?_ ?_
    | with_reducible exact Kept.refl
    | with_reducible apply Kept.trans ?_ State_setCore_kept
    | (with_reducible apply Kept.foldl ?_ ?_; intro x a; (try simp only []))
    | simp only [mk_kept_iff]
    | split
theorem wakeCore_kept {s : State} {n : Fin 8} : Kept s (wakeCore s n) := by
  unfold wakeCore
  (try simp only [])
  repeat' first
    | with_reducible apply Kept.ite ?_ ?_
    | with_reducible exact Kept.refl
    | with_reducible apply Kept.trans ?_ wakeOne_kept
    | (with_reducible apply Kept.foldl ?_ ?_; intro x a; (try simp only []))
    | simp only [mk_kept_iff]
    | split
theorem wakeNew_kept {old : State} {s : State} {e : Nat} {x3 : List (Fin 8)} : Kept s (wakeNew old s e x3) := by
  fun_induction wakeNew old s e x3 <;> (try simp only []) <;>
    repeat' first
      | with_reducible apply Kept.ite ?_ ?_
      | with_reducible exact Kept.refl
      | with_reducible apply Kept.trans ?_ wakeCore_kept
      | with_reducible apply Kept.trans ?_ (by assumption)
      | (with_reducible apply Kept.foldl ?_ ?_; intro x a; (try simp only []))
      | simp only [mk_kept_iff]
      | (split <;> (try simp only []))
theorem evtEdge_kept {old : State} {s : State} {e : Nat} : Kept s (evtEdge old s e) := by
  unfold evtEdge
  (try simp only [])
  repeat' first
    | with_reducible apply Kept.ite ?_ ?_
    | with_reducible exact Kept.refl
    | with_reducible apply Kept.trans ?_ setReg_kept
    | with_reducible apply Kept.trans ?_ wakeNew_kept
    | (with_reducible apply Kept.foldl ?_ ?_; intro x a; (try simp only []))
    | simp only [mk_kept_iff]
    | split
theorem pageEdge_kept {old : State} {s : State} {page : Nat} : Kept s (pageEdge old s page) := by
  unfold pageEdge
  (try simp only [])
  repeat' first
    | with_reducible apply Kept.ite ?_ ?_
    | with_reducible exact Kept.refl
    | with_reducible apply Kept.trans ?_ evtEdge_kept
    | (with_reducible apply Kept.foldl ?_ ?_; intro x a; (try simp only []))
    | simp only [mk_kept_iff]
    | split
theorem State_irq_kept {s : State} {page : Nat} {bits : Word32} : Kept s (State.irq s page bits) := by
  unfold State.irq
  (try simp only [])
  repeat' first
    | with_reducible apply Kept.ite ?_ ?_
    | with_reducible exact Kept.refl
    | with_reducible apply Kept.trans ?_ pageEdge_kept
    | with_reducible apply Kept.trans ?_ setReg_kept
    | (with_reducible apply Kept.foldl ?_ ?_; intro x a; (try simp only []))
    | simp only [mk_kept_iff]
    | split
theorem State_irqBit_kept {s : State} {page : Nat} {n : Nat} : Kept s (State.irqBit s page n) := by
  unfold State.irqBit
  (try simp only [])
  repeat' first
    | with_reducible apply Kept.ite ?_ ?_
    | with_reducible exact Kept.refl
    | with_reducible apply Kept.trans ?_ State_irq_kept
    | (with_reducible apply Kept.foldl ?_ ?_; intro x a; (try simp only []))
    | simp only [mk_kept_iff]
    | split
theorem State_setErr_kept {s : State} {page : Nat} {x : PageErr} : Kept s (State.setErr s page x) := by
  unfold State.setErr
  (try simp only [])
  repeat' first
    | with_reducible apply Kept.ite ?_ ?_
    | with_reducible exact Kept.refl
    | (with_reducible apply Kept.foldl ?_ ?_; intro x a; (try simp only []))
    | simp only [mk_kept_iff]
    | split
theorem State_correctable_kept {s : State} {page : Nat} : Kept s (State.correctable s page) := by
  unfold State.correctable
  (try simp only [])
  repeat' first
    | with_reducible apply Kept.ite ?_ ?_
    | with_reducible exact Kept.refl
    | with_reducible apply Kept.trans ?_ State_setErr_kept
    | (with_reducible apply Kept.foldl ?_ ?_; intro x a; (try simp only []))
    | simp only [mk_kept_iff]
    | split
theorem State_berr_kept {s : State} {id : MasterId} {addr : Nat} {write : Bool} {c : BusCause} :
    Kept s (State.berr s id addr write c) := by
  unfold State.berr
  (try simp only [])
  repeat' first
    | with_reducible apply Kept.ite ?_ ?_
    | with_reducible exact Kept.refl
    | with_reducible apply Kept.trans ?_ setReg_kept
    | with_reducible apply Kept.trans ?_ State_irqBit_kept
    | (with_reducible apply Kept.foldl ?_ ?_; intro x a; (try simp only []))
    | simp only [mk_kept_iff]
    | split
end Sys2Proof.Laws
end

