-- ==== Sys2Proof/Laws/KeepBelfry.lean ====
section
/-! SUPPORT. What the operations of Machine/Belfry.lean leave alone (Laws/Kept.lean). -/
namespace Sys2Proof.Laws
set_option linter.unusedTactic false
set_option linter.unreachableTactic false
open Sys2Proof.Machine
theorem State_setBelf_kept {s : State} {b : Belf} : Kept s (State.setBelf s b) := by
  unfold State.setBelf
  (try simp only [])
  repeat' first
    | with_reducible apply Kept.ite ?_ ?_
    | with_reducible exact Kept.refl
    | (with_reducible apply Kept.foldl ?_ ?_; intro x a; (try simp only []))
    | simp only [mk_kept_iff]
    | split
theorem belfTick_kept {s : State} : Kept s (belfTick s) := by
  unfold belfTick
  (try simp only [])
  repeat' first
    | with_reducible apply Kept.ite ?_ ?_
    | with_reducible exact Kept.refl
    | with_reducible apply Kept.trans ?_ State_setBelf_kept
    | with_reducible apply Kept.trans ?_ State_irqBit_kept
    | (with_reducible apply Kept.foldl ?_ ?_; intro x a; (try simp only []))
    | simp only [mk_kept_iff]
    | split
theorem execPhaseTick_kept {s : State} : KeptR s (execPhaseTick s) := by
  unfold execPhaseTick
  (try simp only [])
  repeat' first
    | with_reducible exact KeptR.fault
    | with_reducible apply KeptR.ok
    | with_reducible apply KeptR.okIf
    | with_reducible apply KeptR.ite ?_ ?_
    | with_reducible apply Kept.ite ?_ ?_
    | with_reducible exact Kept.refl
    | with_reducible apply Kept.trans ?_ belfTick_kept
    | (with_reducible apply Kept.foldl ?_ ?_; intro x a; (try simp only []))
    | simp only [mk_kept_iff]
    | split
theorem execSlewStep_kept {s : State} : KeptR s (execSlewStep s) := by
  unfold execSlewStep
  (try simp only [])
  repeat' first
    | with_reducible exact KeptR.fault
    | with_reducible apply KeptR.ok
    | with_reducible apply KeptR.okIf
    | with_reducible apply KeptR.ite ?_ ?_
    | with_reducible apply Kept.ite ?_ ?_
    | with_reducible exact Kept.refl
    | with_reducible apply Kept.trans ?_ belfTick_kept
    | (with_reducible apply Kept.foldl ?_ ?_; intro x a; (try simp only []))
    | simp only [mk_kept_iff]
    | split
theorem belfCross_kept {s : State} {elapsed : Nat} : Kept s (belfCross s elapsed) := by
  unfold belfCross
  (try simp only [])
  repeat' first
    | with_reducible apply Kept.ite ?_ ?_
    | with_reducible exact Kept.refl
    | with_reducible apply Kept.trans ?_ State_setBelf_kept
    | with_reducible apply Kept.trans ?_ setReg_kept
    | with_reducible apply Kept.trans ?_ State_irqBit_kept
    | (with_reducible apply Kept.foldl ?_ ?_; intro x a; (try simp only []))
    | simp only [mk_kept_iff]
    | split
theorem execReferenceCrossing_kept {src : CrossSource} {elapsed : Nat} {s : State} :
    KeptR s (execReferenceCrossing src elapsed s) := by
  unfold execReferenceCrossing
  (try simp only [])
  repeat' first
    | with_reducible exact KeptR.fault
    | with_reducible apply KeptR.ok
    | with_reducible apply KeptR.okIf
    | with_reducible apply KeptR.ite ?_ ?_
    | with_reducible apply Kept.ite ?_ ?_
    | with_reducible exact Kept.refl
    | with_reducible apply Kept.trans ?_ belfCross_kept
    | (with_reducible apply Kept.foldl ?_ ?_; intro x a; (try simp only []))
    | simp only [mk_kept_iff]
    | split
theorem belfStateChange_kept {s : State} : Kept s (belfStateChange s) := by
  unfold belfStateChange
  (try simp only [])
  repeat' first
    | with_reducible apply Kept.ite ?_ ?_
    | with_reducible exact Kept.refl
    | with_reducible apply Kept.trans ?_ State_irqBit_kept
    | with_reducible apply Kept.trans ?_ State_setBelf_kept
    | (with_reducible apply Kept.foldl ?_ ?_; intro x a; (try simp only []))
    | simp only [mk_kept_iff]
    | split
theorem execBelfryStateChange_kept {s : State} : KeptR s (execBelfryStateChange s) := by
  unfold execBelfryStateChange
  (try simp only [])
  repeat' first
    | with_reducible exact KeptR.fault
    | with_reducible apply KeptR.ok
    | with_reducible apply KeptR.okIf
    | with_reducible apply KeptR.ite ?_ ?_
    | with_reducible apply Kept.ite ?_ ?_
    | with_reducible exact Kept.refl
    | with_reducible apply Kept.trans ?_ belfStateChange_kept
    | (with_reducible apply Kept.foldl ?_ ?_; intro x a; (try simp only []))
    | simp only [mk_kept_iff]
    | split
theorem crossingTimeout_kept {s : State} {elapsed : Nat} : Kept s (crossingTimeout s elapsed) := by
  unfold crossingTimeout
  (try simp only [])
  repeat' first
    | with_reducible apply Kept.ite ?_ ?_
    | with_reducible exact Kept.refl
    | with_reducible apply Kept.trans ?_ State_setBelf_kept
    | (with_reducible apply Kept.foldl ?_ ?_; intro x a; (try simp only []))
    | simp only [mk_kept_iff]
    | split
theorem execCrossingTimeout_kept {elapsed : Nat} {s : State} : KeptR s (execCrossingTimeout elapsed s) := by
  unfold execCrossingTimeout
  (try simp only [])
  repeat' first
    | with_reducible exact KeptR.fault
    | with_reducible apply KeptR.ok
    | with_reducible apply KeptR.okIf
    | with_reducible apply KeptR.ite ?_ ?_
    | with_reducible apply Kept.ite ?_ ?_
    | with_reducible exact Kept.refl
    | with_reducible apply Kept.trans ?_ crossingTimeout_kept
    | (with_reducible apply Kept.foldl ?_ ?_; intro x a; (try simp only []))
    | simp only [mk_kept_iff]
    | split
theorem holdLimit_kept {s : State} : Kept s (holdLimit s) := by
  unfold holdLimit
  (try simp only [])
  repeat' first
    | with_reducible apply Kept.ite ?_ ?_
    | with_reducible exact Kept.refl
    | with_reducible apply Kept.trans ?_ State_setBelf_kept
    | (with_reducible apply Kept.foldl ?_ ?_; intro x a; (try simp only []))
    | simp only [mk_kept_iff]
    | split
theorem execHoldLimitExpiry_kept {s : State} : KeptR s (execHoldLimitExpiry s) := by
  unfold execHoldLimitExpiry
  (try simp only [])
  repeat' first
    | with_reducible exact KeptR.fault
    | with_reducible apply KeptR.ok
    | with_reducible apply KeptR.okIf
    | with_reducible apply KeptR.ite ?_ ?_
    | with_reducible apply Kept.ite ?_ ?_
    | with_reducible exact Kept.refl
    | with_reducible apply Kept.trans ?_ holdLimit_kept
    | (with_reducible apply Kept.foldl ?_ ?_; intro x a; (try simp only []))
    | simp only [mk_kept_iff]
    | split
theorem belfCtlWrite_kept {s : State} {locked : Bool} {v : Word32} : Kept s (belfCtlWrite s locked v) := by
  unfold belfCtlWrite
  (try simp only [])
  repeat' first
    | with_reducible apply Kept.ite ?_ ?_
    | with_reducible exact Kept.refl
    | with_reducible apply Kept.trans ?_ setReg_kept
    | with_reducible apply Kept.trans ?_ State_setBelf_kept
    | (with_reducible apply Kept.foldl ?_ ?_; intro x a; (try simp only []))
    | simp only [mk_kept_iff]
    | split
theorem belfSlewWrite_kept {s : State} {v : Word32} : Kept s (belfSlewWrite s v) := by
  unfold belfSlewWrite
  (try simp only [])
  repeat' first
    | with_reducible apply Kept.ite ?_ ?_
    | with_reducible exact Kept.refl
    | with_reducible apply Kept.trans ?_ State_setBelf_kept
    | (with_reducible apply Kept.foldl ?_ ?_; intro x a; (try simp only []))
    | simp only [mk_kept_iff]
    | split
theorem belfRead_kept {s : State} {id : MasterId} {off : Nat} {absent : Bool} : Kept s (belfRead s id off absent).1 := by
  unfold belfRead
  (try simp only [])
  repeat' first
    | with_reducible apply Kept.ite ?_ ?_
    | with_reducible exact Kept.refl
    | with_reducible apply Kept.trans ?_ State_setBelf_kept
    | (with_reducible apply Kept.foldl ?_ ?_; intro x a; (try simp only []))
    | simp only [mk_kept_iff]
    | split
theorem State_setBcmpTarget_kept {s : State} {c : Nat} {t : Nat} : Kept s (State.setBcmpTarget s c t) := by
  unfold State.setBcmpTarget
  (try simp only [])
  repeat' first
    | with_reducible apply Kept.ite ?_ ?_
    | with_reducible exact Kept.refl
    | with_reducible apply Kept.trans ?_ setReg_kept
    | (with_reducible apply Kept.foldl ?_ ?_; intro x a; (try simp only []))
    | simp only [mk_kept_iff]
    | split
theorem bcmpWrite_kept {s : State} {c : Nat} {sub : Nat} {v : Word32} : Kept s (bcmpWrite s c sub v).1 := by
  unfold bcmpWrite
  (try simp only [])
  repeat' first
    | with_reducible apply Kept.ite ?_ ?_
    | with_reducible exact Kept.refl
    | with_reducible apply Kept.trans ?_ setReg_kept
    | with_reducible apply Kept.trans ?_ State_setRegF_kept
    | (with_reducible apply Kept.foldl ?_ ?_; intro x a; (try simp only []))
    | simp only [mk_kept_iff]
    | split
theorem bcmpFired_kept {s : State} {c : Nat} : Kept s (bcmpFired s c) := by
  unfold bcmpFired
  (try simp only [])
  repeat' first
    | with_reducible apply Kept.ite ?_ ?_
    | with_reducible exact Kept.refl
    | with_reducible apply Kept.trans ?_ State_irqBit_kept
    | with_reducible apply Kept.trans ?_ State_setRegF_kept
    | with_reducible apply Kept.trans ?_ State_setBcmpTarget_kept
    | (with_reducible apply Kept.foldl ?_ ?_; intro x a; (try simp only []))
    | simp only [mk_kept_iff]
    | split
end Sys2Proof.Laws
end

