-- ==== Sys2Proof/Laws/KeepTimers.lean ====
section
/-! SUPPORT. What the operations of Machine/Timers.lean leave alone (Laws/Kept.lean). -/
namespace Sys2Proof.Laws
set_option linter.unusedTactic false
set_option linter.unreachableTactic false
open Sys2Proof.Machine
theorem State_setTimer_kept {s : State} {p : Nat} {t : Nat} {x : Timer} : Kept s (State.setTimer s p t x) := by
  unfold State.setTimer
  (try simp only [])
  repeat' first
    | with_reducible apply Kept.ite ?_ ?_
    | with_reducible exact Kept.refl
    | (with_reducible apply Kept.foldl ?_ ?_; intro x a; (try simp only []))
    | simp only [mk_kept_iff]
    | split
theorem State_setTview_kept {s : State} {p : Nat} {t : Nat} {x : TView} : Kept s (State.setTview s p t x) := by
  unfold State.setTview
  (try simp only [])
  repeat' first
    | with_reducible apply Kept.ite ?_ ?_
    | with_reducible exact Kept.refl
    | with_reducible apply Kept.trans ?_ State_setRegF_kept
    | with_reducible apply Kept.trans ?_ setReg_kept
    | (with_reducible apply Kept.foldl ?_ ?_; intro x a; (try simp only []))
    | simp only [mk_kept_iff]
    | split
theorem tmrFlags_kept {s : State} {p : Nat} {t : Nat} {ovf : Bool} {mat : Bool} : Kept s (tmrFlags s p t ovf mat) := by
  unfold tmrFlags
  (try simp only [])
  repeat' first
    | with_reducible apply Kept.ite ?_ ?_
    | with_reducible exact Kept.refl
    | with_reducible apply Kept.trans ?_ State_irq_kept
    | (with_reducible apply Kept.foldl ?_ ?_; intro x a; (try simp only []))
    | simp only [mk_kept_iff]
    | split
theorem tmrEdge_kept {s : State} {p : Nat} {t : Nat} : Kept s (tmrEdge s p t) := by
  unfold tmrEdge
  (try simp only [])
  repeat' first
    | with_reducible apply Kept.ite ?_ ?_
    | with_reducible exact Kept.refl
    | with_reducible apply Kept.trans ?_ State_setTimer_kept
    | (with_reducible apply Kept.foldl ?_ ?_; intro x a; (try simp only []))
    | simp only [mk_kept_iff]
    | split
theorem tmrTickOne_kept {s : State} {p : Nat} {t : Nat} {raw : Bool} : Kept s (tmrTickOne s p t raw).1 := by
  unfold tmrTickOne
  (try simp only [])
  repeat' first
    | with_reducible apply Kept.ite ?_ ?_
    | with_reducible exact Kept.refl
    | with_reducible apply Kept.trans ?_ tmrFlags_kept
    | with_reducible apply Kept.trans ?_ State_setTview_kept
    | (with_reducible apply Kept.foldl ?_ ?_; intro x a; (try simp only []))
    | simp only [mk_kept_iff]
    | split
theorem tmrCount_kept {s : State} {p : Nat} {t : Nat} {raw : Option Nat} : Kept s (tmrCount s p t raw) := by
  unfold tmrCount
  (try simp only [])
  repeat' first
    | with_reducible apply Kept.ite ?_ ?_
    | with_reducible exact Kept.refl
    | with_reducible apply Kept.trans ?_ tmrTickOne_kept
    | (with_reducible apply Kept.foldl ?_ ?_; intro x a; (try simp only []))
    | simp only [mk_kept_iff]
    | split
theorem tmrTick_kept {s : State} {p : Nat} {t : Nat} {raw : Option Nat} : Kept s (tmrTick s p t raw) := by
  unfold tmrTick
  (try simp only [])
  repeat' first
    | with_reducible apply Kept.ite ?_ ?_
    | with_reducible exact Kept.refl
    | with_reducible apply Kept.trans ?_ tmrCount_kept
    | with_reducible apply Kept.trans ?_ tmrEdge_kept
    | (with_reducible apply Kept.foldl ?_ ?_; intro x a; (try simp only []))
    | simp only [mk_kept_iff]
    | split
theorem execTimerTick_kept {page : Fin 12} {t : Fin 8} {s : State} : KeptR s (execTimerTick page t s) := by
  unfold execTimerTick
  (try simp only [])
  repeat' first
    | with_reducible exact KeptR.fault
    | with_reducible apply KeptR.ok
    | with_reducible apply KeptR.okIf
    | with_reducible apply KeptR.ite ?_ ?_
    | with_reducible apply Kept.ite ?_ ?_
    | with_reducible exact Kept.refl
    | with_reducible apply Kept.trans ?_ tmrTick_kept
    | (with_reducible apply Kept.foldl ?_ ?_; intro x a; (try simp only []))
    | simp only [mk_kept_iff]
    | split
theorem tctlWrite_kept {s : State} {p : Nat} {t : Nat} {v : Word32} : Kept s (tctlWrite s p t v) := by
  unfold tctlWrite
  (try simp only [])
  repeat' first
    | with_reducible apply Kept.ite ?_ ?_
    | with_reducible exact Kept.refl
    | with_reducible apply Kept.trans ?_ setReg_kept
    | with_reducible apply Kept.trans ?_ State_setTimer_kept
    | (with_reducible apply Kept.foldl ?_ ?_; intro x a; (try simp only []))
    | simp only [mk_kept_iff]
    | split
theorem tmrWrite_kept {s : State} {p : Nat} {t : Nat} {sub : Nat} {v : Word32} : Kept s (tmrWrite s p t sub v) := by
  unfold tmrWrite
  (try simp only [])
  repeat' first
    | with_reducible apply Kept.ite ?_ ?_
    | with_reducible exact Kept.refl
    | with_reducible apply Kept.trans ?_ tctlWrite_kept
    | with_reducible apply Kept.trans ?_ State_setRegF_kept
    | with_reducible apply Kept.trans ?_ setReg_kept
    | (with_reducible apply Kept.foldl ?_ ?_; intro x a; (try simp only []))
    | simp only [mk_kept_iff]
    | split
theorem countRead_kept {s : State} {id : Nat} {p : Nat} {t : Nat} : Kept s (countRead s id p t).1 := by
  unfold countRead
  (try simp only [])
  repeat' first
    | with_reducible apply Kept.ite ?_ ?_
    | with_reducible exact Kept.refl
    | (with_reducible apply Kept.foldl ?_ ?_; intro x a; (try simp only []))
    | simp only [mk_kept_iff]
    | split
theorem captureTimers_kept {s : State} {x1 : List Nat} : Kept s (captureTimers s x1) := by
  fun_induction captureTimers s x1 <;> (try simp only []) <;>
    repeat' first
      | with_reducible apply Kept.ite ?_ ?_
      | with_reducible exact Kept.refl
      | with_reducible apply Kept.trans ?_ setReg_kept
      | with_reducible apply Kept.trans ?_ (by assumption)
      | (with_reducible apply Kept.foldl ?_ ?_; intro x a; (try simp only []))
      | simp only [mk_kept_iff]
      | (split <;> (try simp only []))
theorem syncTick_kept {s : State} : Kept s (syncTick s) := by
  unfold syncTick
  (try simp only [])
  repeat' first
    | with_reducible apply Kept.ite ?_ ?_
    | with_reducible exact Kept.refl
    | with_reducible apply Kept.trans ?_ captureTimers_kept
    | (with_reducible apply Kept.foldl ?_ ?_; intro x a; (try simp only []))
    | simp only [mk_kept_iff]
    | split
theorem tmrStop_kept {s : State} {p : Nat} {t : Nat} : Kept s (tmrStop s p t) := by
  unfold tmrStop
  (try simp only [])
  repeat' first
    | with_reducible apply Kept.ite ?_ ?_
    | with_reducible exact Kept.refl
    | with_reducible apply Kept.trans ?_ State_setTimer_kept
    | (with_reducible apply Kept.foldl ?_ ?_; intro x a; (try simp only []))
    | simp only [mk_kept_iff]
    | split
theorem execTimerStop_kept {page : Fin 12} {t : Fin 8} {s : State} : KeptR s (execTimerStop page t s) := by
  unfold execTimerStop
  (try simp only [])
  repeat' first
    | with_reducible exact KeptR.fault
    | with_reducible apply KeptR.ok
    | with_reducible apply KeptR.okIf
    | with_reducible apply KeptR.ite ?_ ?_
    | with_reducible apply Kept.ite ?_ ?_
    | with_reducible exact Kept.refl
    | with_reducible apply Kept.trans ?_ tmrStop_kept
    | (with_reducible apply Kept.foldl ?_ ?_; intro x a; (try simp only []))
    | simp only [mk_kept_iff]
    | split
theorem tmrAdd_kept {s : State} {p : Nat} {t : Nat} {n : Nat} : Kept s (tmrAdd s p t n).1 := by
  unfold tmrAdd
  (try simp only [])
  repeat' first
    | with_reducible apply Kept.ite ?_ ?_
    | with_reducible exact Kept.refl
    | with_reducible apply Kept.trans ?_ tmrFlags_kept
    | with_reducible apply Kept.trans ?_ State_setTview_kept
    | with_reducible apply Kept.trans ?_ setReg_kept
    | (with_reducible apply Kept.foldl ?_ ?_; intro x a; (try simp only []))
    | simp only [mk_kept_iff]
    | split
theorem tmrRestart_kept {s : State} {p : Nat} {t : Nat} {slow : Nat} : Kept s (tmrRestart s p t slow) := by
  unfold tmrRestart
  (try simp only [])
  repeat' first
    | with_reducible apply Kept.ite ?_ ?_
    | with_reducible exact Kept.refl
    | with_reducible apply Kept.trans ?_ State_setTimer_kept
    | with_reducible apply Kept.trans ?_ tmrAdd_kept
    | (with_reducible apply Kept.foldl ?_ ?_; intro x a; (try simp only []))
    | simp only [mk_kept_iff]
    | split
theorem execTimerRestart_kept {page : Fin 12} {t : Fin 8} {elapsed : Nat} {s : State} :
    KeptR s (execTimerRestart page t elapsed s) := by
  unfold execTimerRestart
  (try simp only [])
  repeat' first
    | with_reducible exact KeptR.fault
    | with_reducible apply KeptR.ok
    | with_reducible apply KeptR.okIf
    | with_reducible apply KeptR.ite ?_ ?_
    | with_reducible apply Kept.ite ?_ ?_
    | with_reducible exact Kept.refl
    | with_reducible apply Kept.trans ?_ tmrRestart_kept
    | (with_reducible apply Kept.foldl ?_ ?_; intro x a; (try simp only []))
    | simp only [mk_kept_iff]
    | split
end Sys2Proof.Laws
end

