-- ==== Sys2Proof/Laws/KeepSpare.lean ====
section
/-! SUPPORT. What the operations of Machine/Spare.lean leave alone (Laws/Kept.lean). -/
namespace Sys2Proof.Laws
set_option linter.unusedTactic false
set_option linter.unreachableTactic false
open Sys2Proof.Machine
theorem State_setMch_kept {s : State} {p : Nat} {c : Chan} : Kept s (State.setMch s p c) := by
  unfold State.setMch
  (try simp only [])
  repeat' first
    | with_reducible apply Kept.ite ?_ ?_
    | with_reducible exact Kept.refl
    | (with_reducible apply Kept.foldl ?_ ?_; intro x a; (try simp only []))
    | simp only [mk_kept_iff]
    | split
theorem State_setCstate_kept {s : State} {p : Nat} {v : Nat} : Kept s (State.setCstate s p v) := by
  unfold State.setCstate
  (try simp only [])
  repeat' first
    | with_reducible apply Kept.ite ?_ ?_
    | with_reducible exact Kept.refl
    | with_reducible apply Kept.trans ?_ State_setMch_kept
    | (with_reducible apply Kept.foldl ?_ ?_; intro x a; (try simp only []))
    | simp only [mk_kept_iff]
    | split
theorem State_setSpareSt_kept {s : State} {x : SpareSt} : Kept s (State.setSpareSt s x) := by
  unfold State.setSpareSt
  (try simp only [])
  repeat' first
    | with_reducible apply Kept.ite ?_ ?_
    | with_reducible exact Kept.refl
    | (with_reducible apply Kept.foldl ?_ ?_; intro x a; (try simp only []))
    | simp only [mk_kept_iff]
    | split
theorem spareArm_kept {s : State} {lch : Nat} : Kept s (spareArm s lch) := by
  unfold spareArm
  (try simp only [])
  repeat' first
    | with_reducible apply Kept.ite ?_ ?_
    | with_reducible exact Kept.refl
    | with_reducible apply Kept.trans ?_ State_setMch_kept
    | (with_reducible apply Kept.foldl ?_ ?_; intro x a; (try simp only []))
    | simp only [mk_kept_iff]
    | split
theorem noSpare_kept {s : State} {pch : Nat} : Kept s (noSpare s pch) := by
  unfold noSpare
  (try simp only [])
  repeat' first
    | with_reducible apply Kept.ite ?_ ?_
    | with_reducible exact Kept.refl
    | with_reducible apply Kept.trans ?_ State_irqBit_kept
    | with_reducible apply Kept.trans ?_ State_setCstate_kept
    | (with_reducible apply Kept.foldl ?_ ?_; intro x a; (try simp only []))
    | simp only [mk_kept_iff]
    | split
theorem spareFail_kept {s : State} : Kept s (spareFail s) := by
  unfold spareFail
  (try simp only [])
  repeat' first
    | with_reducible apply Kept.ite ?_ ?_
    | with_reducible exact Kept.refl
    | with_reducible apply Kept.trans ?_ State_irqBit_kept
    | with_reducible apply Kept.trans ?_ State_setSpareSt_kept
    | (with_reducible apply Kept.foldl ?_ ?_; intro x a; (try simp only []))
    | simp only [mk_kept_iff]
    | split
theorem holdSpare_kept {s : State} {h : HeldSpare} : Kept s (holdSpare s h) := by
  unfold holdSpare
  (try simp only [])
  repeat' first
    | with_reducible apply Kept.ite ?_ ?_
    | with_reducible exact Kept.refl
    | (with_reducible apply Kept.foldl ?_ ?_; intro x a; (try simp only []))
    | simp only [mk_kept_iff]
    | split
theorem spareAct_kept {s : State} {h : HeldSpare} : Kept s (spareAct s h) := by
  unfold spareAct
  (try simp only [])
  repeat' first
    | with_reducible apply Kept.ite ?_ ?_
    | with_reducible exact Kept.refl
    | with_reducible apply Kept.trans ?_ spareFail_kept
    | with_reducible apply Kept.trans ?_ noSpare_kept
    | with_reducible apply Kept.trans ?_ spareArm_kept
    | (with_reducible apply Kept.foldl ?_ ?_; intro x a; (try simp only []))
    | simp only [mk_kept_iff]
    | split
theorem releaseHeld_kept {s : State} {x1 : List HeldSpare} : Kept s (releaseHeld s x1) := by
  fun_induction releaseHeld s x1 <;> (try simp only []) <;>
    repeat' first
      | with_reducible apply Kept.ite ?_ ?_
      | with_reducible exact Kept.refl
      | with_reducible apply Kept.trans ?_ holdSpare_kept
      | with_reducible apply Kept.trans ?_ spareAct_kept
      | with_reducible apply Kept.trans ?_ (by assumption)
      | (with_reducible apply Kept.foldl ?_ ?_; intro x a; (try simp only []))
      | simp only [mk_kept_iff]
      | (split <;> (try simp only []))
theorem actHeld_kept {s : State} : Kept s (actHeld s) := by
  unfold actHeld
  (try simp only [])
  repeat' first
    | with_reducible apply Kept.ite ?_ ?_
    | with_reducible exact Kept.refl
    | with_reducible apply Kept.trans ?_ releaseHeld_kept
    | (with_reducible apply Kept.foldl ?_ ?_; intro x a; (try simp only []))
    | simp only [mk_kept_iff]
    | split
theorem spareAbandon_kept {s : State} : Kept s (spareAbandon s) := by
  unfold spareAbandon
  (try simp only [])
  repeat' first
    | with_reducible apply Kept.ite ?_ ?_
    | with_reducible exact Kept.refl
    | with_reducible apply Kept.trans ?_ actHeld_kept
    | with_reducible apply Kept.trans ?_ State_irqBit_kept
    | with_reducible apply Kept.trans ?_ State_setCstate_kept
    | with_reducible apply Kept.trans ?_ State_setSpareSt_kept
    | (with_reducible apply Kept.foldl ?_ ?_; intro x a; (try simp only []))
    | simp only [mk_kept_iff]
    | split
theorem spareLasting_kept {s : State} {p : Nat} : Kept s (spareLasting s p) := by
  unfold spareLasting
  (try simp only [])
  repeat' first
    | with_reducible apply Kept.ite ?_ ?_
    | with_reducible exact Kept.refl
    | with_reducible apply Kept.trans ?_ holdSpare_kept
    | with_reducible apply Kept.trans ?_ spareAbandon_kept
    | with_reducible apply Kept.trans ?_ spareAct_kept
    | (with_reducible apply Kept.foldl ?_ ?_; intro x a; (try simp only []))
    | simp only [mk_kept_iff]
    | split
theorem spareAgain_kept {s : State} : Kept s (spareAgain s) := by
  unfold spareAgain
  (try simp only [])
  repeat' first
    | with_reducible apply Kept.ite ?_ ?_
    | with_reducible exact Kept.refl
    | with_reducible apply Kept.trans ?_ spareArm_kept
    | (with_reducible apply Kept.foldl ?_ ?_; intro x a; (try simp only []))
    | simp only [mk_kept_iff]
    | split
theorem spareCtlWrite_kept {s : State} {v : Word32} : Kept s (spareCtlWrite s v) := by
  unfold spareCtlWrite
  (try simp only [])
  repeat' first
    | with_reducible apply Kept.ite ?_ ?_
    | with_reducible exact Kept.refl
    | with_reducible apply Kept.trans ?_ setReg_kept
    | with_reducible apply Kept.trans ?_ holdSpare_kept
    | with_reducible apply Kept.trans ?_ spareArm_kept
    | with_reducible apply Kept.trans ?_ noSpare_kept
    | (with_reducible apply Kept.foldl ?_ ?_; intro x a; (try simp only []))
    | simp only [mk_kept_iff]
    | split
end Sys2Proof.Laws
end

