-- ==== Sys2Proof/Laws/KeepMemory.lean ====
section
/-! SUPPORT. What the operations of Machine/Memory.lean leave alone (Laws/Kept.lean). -/
namespace Sys2Proof.Laws
set_option linter.unusedTactic false
set_option linter.unreachableTactic false
open Sys2Proof.Machine
theorem State_memcRecord_kept {s : State} {addr : Nat} {pch : Nat} {kind : Nat} : Kept s (State.memcRecord s addr pch kind) := by
  unfold State.memcRecord
  (try simp only [])
  repeat' first
    | with_reducible apply Kept.ite ?_ ?_
    | with_reducible exact Kept.refl
    | with_reducible apply Kept.trans ?_ State_irqBit_kept
    | with_reducible apply Kept.trans ?_ setReg_kept
    | (with_reducible apply Kept.foldl ?_ ?_; intro x a; (try simp only []))
    | simp only [mk_kept_iff]
    | split
theorem State_bumpReg_kept {s : State} {page : Nat} {off : Nat} : Kept s (State.bumpReg s page off) := by
  unfold State.bumpReg
  (try simp only [])
  repeat' first
    | with_reducible apply Kept.ite ?_ ?_
    | with_reducible exact Kept.refl
    | with_reducible apply Kept.trans ?_ setReg_kept
    | (with_reducible apply Kept.foldl ?_ ?_; intro x a; (try simp only []))
    | simp only [mk_kept_iff]
    | split
theorem State_lineUE_kept {s : State} {addr : Nat} {pch : Nat} {kind : Nat} : Kept s (State.lineUE s addr pch kind) := by
  unfold State.lineUE
  (try simp only [])
  repeat' first
    | with_reducible apply Kept.ite ?_ ?_
    | with_reducible exact Kept.refl
    | with_reducible apply Kept.trans ?_ State_memcRecord_kept
    | with_reducible apply Kept.trans ?_ State_irqBit_kept
    | with_reducible apply Kept.trans ?_ State_bumpReg_kept
    | (with_reducible apply Kept.foldl ?_ ?_; intro x a; (try simp only []))
    | simp only [mk_kept_iff]
    | split
theorem State_lineCE_kept {s : State} {pch : Nat} : Kept s (State.lineCE s pch) := by
  unfold State.lineCE
  (try simp only [])
  repeat' first
    | with_reducible apply Kept.ite ?_ ?_
    | with_reducible exact Kept.refl
    | with_reducible apply Kept.trans ?_ State_irqBit_kept
    | with_reducible apply Kept.trans ?_ State_correctable_kept
    | with_reducible apply Kept.trans ?_ State_bumpReg_kept
    | (with_reducible apply Kept.foldl ?_ ?_; intro x a; (try simp only []))
    | simp only [mk_kept_iff]
    | split
theorem State_setLineErr_kept {s : State} {l : Loc} {e : CellErr} : Kept s (State.setLineErr s l e) := by
  unfold State.setLineErr
  (try simp only [])
  repeat' first
    | with_reducible apply Kept.ite ?_ ?_
    | with_reducible exact Kept.refl
    | (with_reducible apply Kept.foldl ?_ ?_; intro x a; (try simp only []))
    | simp only [mk_kept_iff]
    | split
theorem State_freshBytes_kept {s : State} {x1 : Nat} : Kept s (State.freshBytes s x1).2 := by
  fun_induction State.freshBytes s x1 <;> (try simp only []) <;>
    repeat' first
      | with_reducible apply Kept.ite ?_ ?_
      | with_reducible exact Kept.refl
      | with_reducible apply Kept.trans ?_ (by assumption)
      | (with_reducible apply Kept.foldl ?_ ?_; intro x a; (try simp only []))
      | simp only [mk_kept_iff]
      | (split <;> (try simp only []))
theorem lineRead_kept {s : State} {addr : Nat} {l : Loc} {u : Upset} : Kept s (lineRead s addr l u).1 := by
  unfold lineRead
  (try simp only [])
  repeat' first
    | with_reducible apply Kept.ite ?_ ?_
    | with_reducible exact Kept.refl
    | with_reducible apply Kept.trans ?_ State_setLineErr_kept
    | with_reducible apply Kept.trans ?_ State_freshBytes_kept
    | with_reducible apply Kept.trans ?_ State_fresh_kept
    | with_reducible apply Kept.trans ?_ State_lineUE_kept
    | with_reducible apply Kept.trans ?_ State_lineCE_kept
    | with_reducible apply Kept.trans ?_ setBytes_kept
    | (with_reducible apply Kept.foldl ?_ ?_; intro x a; (try simp only []))
    | simp only [mk_kept_iff]
    | split
theorem lineStore_kept {s : State} {data : List Byte} {poison : Bool} {x3 : List Loc} : Kept s (lineStore s data poison x3) := by
  fun_induction lineStore s data poison x3 <;> (try simp only []) <;>
    repeat' first
      | with_reducible apply Kept.ite ?_ ?_
      | with_reducible exact Kept.refl
      | with_reducible apply Kept.trans ?_ setBytes_kept
      | with_reducible apply Kept.trans ?_ State_setLineErr_kept
      | with_reducible apply Kept.trans ?_ (by assumption)
      | (with_reducible apply Kept.foldl ?_ ?_; intro x a; (try simp only []))
      | simp only [mk_kept_iff]
      | (split <;> (try simp only []))
theorem chanRead_kept {s : State} {addr : Nat} {l : Loc} {u : Upset} : Kept s (chanRead s addr l u).1 := by
  unfold chanRead
  (try simp only [])
  repeat' first
    | with_reducible apply Kept.ite ?_ ?_
    | with_reducible exact Kept.refl
    | with_reducible apply Kept.trans ?_ lineRead_kept
    | with_reducible apply Kept.trans ?_ spareAbandon_kept
    | (with_reducible apply Kept.foldl ?_ ?_; intro x a; (try simp only []))
    | simp only [mk_kept_iff]
    | split
theorem lineWrite_kept {s : State} {addr : Nat} {rd : Loc} {wr : List Loc} {o : Nat} {data : List Byte} {u : Upset} :
    Kept s (lineWrite s addr rd wr o data u) := by
  unfold lineWrite
  (try simp only [])
  repeat' first
    | with_reducible apply Kept.ite ?_ ?_
    | with_reducible exact Kept.refl
    | with_reducible apply Kept.trans ?_ lineStore_kept
    | with_reducible apply Kept.trans ?_ chanRead_kept
    | (with_reducible apply Kept.foldl ?_ ?_; intro x a; (try simp only []))
    | simp only [mk_kept_iff]
    | split
theorem State_setScr_kept {s : State} {p : Nat} {x : Scr} : Kept s (State.setScr s p x) := by
  unfold State.setScr
  (try simp only [])
  repeat' first
    | with_reducible apply Kept.ite ?_ ?_
    | with_reducible exact Kept.refl
    | (with_reducible apply Kept.foldl ?_ ?_; intro x a; (try simp only []))
    | simp only [mk_kept_iff]
    | split
theorem State_setBankSt_kept {s : State} {p : Nat} {b : Nat} {v : Nat} : Kept s (State.setBankSt s p b v) := by
  unfold State.setBankSt
  (try simp only [])
  repeat' first
    | with_reducible apply Kept.ite ?_ ?_
    | with_reducible exact Kept.refl
    | with_reducible apply Kept.trans ?_ State_setRegF_kept
    | (with_reducible apply Kept.foldl ?_ ?_; intro x a; (try simp only []))
    | simp only [mk_kept_iff]
    | split
theorem State_zeroBank_kept {s : State} {p b : Nat} : Kept s (State.zeroBank s p b) := ⟨rfl, fun h => swf_sdrop _ _ h, id, rfl⟩
theorem State_endFill_kept {s : State} {p : Nat} {b : Nat} : Kept s (State.endFill s p b) := by
  unfold State.endFill
  (try simp only [])
  repeat' first
    | with_reducible apply Kept.ite ?_ ?_
    | with_reducible exact Kept.refl
    | with_reducible apply Kept.trans ?_ State_setScr_kept
    | with_reducible apply Kept.trans ?_ State_zeroBank_kept
    | (with_reducible apply Kept.foldl ?_ ?_; intro x a; (try simp only []))
    | simp only [mk_kept_iff]
    | split
theorem bankReady_kept {s : State} {p : Nat} {b : Nat} : Kept s (bankReady s p b).1 := by
  unfold bankReady
  (try simp only [])
  repeat' first
    | with_reducible apply Kept.ite ?_ ?_
    | with_reducible exact Kept.refl
    | with_reducible apply Kept.trans ?_ State_endFill_kept
    | with_reducible apply Kept.trans ?_ State_setBankSt_kept
    | (with_reducible apply Kept.foldl ?_ ?_; intro x a; (try simp only []))
    | simp only [mk_kept_iff]
    | split
theorem State_setWordErr_kept {s : State} {w : Nat} {bits : Nat} : Kept s (State.setWordErr s w bits) := by
  unfold State.setWordErr
  (try simp only [])
  repeat' first
    | with_reducible apply Kept.ite ?_ ?_
    | with_reducible exact Kept.refl
    | (with_reducible apply Kept.foldl ?_ ?_; intro x a; (try simp only []))
    | simp only [mk_kept_iff]
    | split
theorem wordRead_kept {s : State} {p : Nat} {w : Nat} {bits : Nat} : Kept s (wordRead s p w bits).1 := by
  unfold wordRead
  (try simp only [])
  repeat' first
    | with_reducible apply Kept.ite ?_ ?_
    | with_reducible exact Kept.refl
    | with_reducible apply Kept.trans ?_ State_setWordErr_kept
    | with_reducible apply Kept.trans ?_ State_irqBit_kept
    | with_reducible apply Kept.trans ?_ setReg_kept
    | with_reducible apply Kept.trans ?_ State_freshBytes_kept
    | with_reducible apply Kept.trans ?_ State_fresh_kept
    | with_reducible apply Kept.trans ?_ State_correctable_kept
    | with_reducible apply Kept.trans ?_ setBytes_kept
    | (with_reducible apply Kept.foldl ?_ ?_; intro x a; (try simp only []))
    | simp only [mk_kept_iff]
    | split
theorem wordWrite_kept {s : State} {p : Nat} {w : Nat} {o : Nat} {data : List Byte} {bits : Nat} :
    Kept s (wordWrite s p w o data bits) := by
  unfold wordWrite
  (try simp only [])
  repeat' first
    | with_reducible apply Kept.ite ?_ ?_
    | with_reducible exact Kept.refl
    | with_reducible apply Kept.trans ?_ setBytes_kept
    | with_reducible apply Kept.trans ?_ State_setWordErr_kept
    | with_reducible apply Kept.trans ?_ wordRead_kept
    | (with_reducible apply Kept.foldl ?_ ?_; intro x a; (try simp only []))
    | simp only [mk_kept_iff]
    | split
theorem dramPartRead_kept {s : State} {a : Nat} {n : Nat} {u : Upset} : Kept s (dramPartRead s a n u).1 := by
  unfold dramPartRead
  (try simp only [])
  repeat' first
    | with_reducible apply Kept.ite ?_ ?_
    | with_reducible exact Kept.refl
    | with_reducible apply Kept.trans ?_ chanRead_kept
    | (with_reducible apply Kept.foldl ?_ ?_; intro x a; (try simp only []))
    | simp only [mk_kept_iff]
    | split
theorem dramPartWrite_kept {s : State} {a : Nat} {data : List Byte} {u : Upset} : Kept s (dramPartWrite s a data u).1 := by
  unfold dramPartWrite
  (try simp only [])
  repeat' first
    | with_reducible apply Kept.ite ?_ ?_
    | with_reducible exact Kept.refl
    | with_reducible apply Kept.trans ?_ lineWrite_kept
    | (with_reducible apply Kept.foldl ?_ ?_; intro x a; (try simp only []))
    | simp only [mk_kept_iff]
    | split
theorem sramPartRead_kept {s : State} {a : Nat} {n : Nat} {u : Upset} : Kept s (sramPartRead s a n u).1 := by
  unfold sramPartRead
  (try simp only [])
  repeat' first
    | with_reducible apply Kept.ite ?_ ?_
    | with_reducible exact Kept.refl
    | with_reducible apply Kept.trans ?_ bankReady_kept
    | with_reducible apply Kept.trans ?_ wordRead_kept
    | with_reducible refine Kept.viaFst ‹bankReady _ _ _ = (_, _)› bankReady_kept ?_
    | with_reducible refine Kept.viaFst ‹wordRead _ _ _ _ = (_, _)› wordRead_kept ?_
    | (with_reducible apply Kept.foldl ?_ ?_; intro x a; (try simp only []))
    | simp only [mk_kept_iff]
    | (split <;> (try simp only []))
theorem sramPartWrite_kept {s : State} {a : Nat} {data : List Byte} {u : Upset} : Kept s (sramPartWrite s a data u).1 := by
  unfold sramPartWrite
  (try simp only [])
  repeat' first
    | with_reducible apply Kept.ite ?_ ?_
    | with_reducible exact Kept.refl
    | with_reducible apply Kept.trans ?_ bankReady_kept
    | with_reducible apply Kept.trans ?_ wordWrite_kept
    | with_reducible refine Kept.viaFst ‹bankReady _ _ _ = (_, _)› bankReady_kept ?_
    | (with_reducible apply Kept.foldl ?_ ?_; intro x a; (try simp only []))
    | simp only [mk_kept_iff]
    | (split <;> (try simp only []))
theorem readParts_kept {f : State → Nat → Nat → State × RdAns} {s : State} {l : List (Nat × Nat)} (hf : ∀ s a n, Kept s (f s a n).1) : Kept s (readParts f s l).1 := by induction l generalizing s with | nil => exact Kept.refl | cons c t ih => (obtain ⟨a, n⟩ := c; have h1 := hf s a n; unfold readParts; rcases hr : f s a n with ⟨s1, r⟩; rw [hr] at h1; cases r with | error c => exact h1 | ok x => (obtain ⟨d, p⟩ := x; have h2 := @ih s1; dsimp only at h1 ⊢; rcases hr2 : readParts f s1 t with ⟨s2, r2⟩; rw [hr2] at h2; cases r2 with | error c => exact h1.trans h2 | ok x => exact h1.trans h2))
theorem writeParts_kept {f : State → Nat → List Byte → State × Option BusCause} {s : State} {l : List (Nat × Nat)} {d : List Byte} (hf : ∀ s a d, Kept s (f s a d).1) : Kept s (writeParts f s l d).1 := by induction l generalizing s d with | nil => exact Kept.refl | cons c t ih => (obtain ⟨a, n⟩ := c; have h1 := hf s a (d.take n); unfold writeParts; rcases hr : f s a (d.take n) with ⟨s1, r⟩; rw [hr] at h1; cases r with | some c => exact h1 | none => exact h1.trans (@ih s1 (d.drop n)))
theorem parmPartRead_kept {s : State} {a : Nat} {n : Nat} {u : Upset} : Kept s (parmPartRead s a n u).1 := by
  unfold parmPartRead
  (try simp only [])
  repeat' first
    | with_reducible apply Kept.ite ?_ ?_
    | with_reducible exact Kept.refl
    | with_reducible apply Kept.trans ?_ State_setWordErr_kept
    | with_reducible apply Kept.trans ?_ State_correctable_kept
    | (with_reducible apply Kept.foldl ?_ ?_; intro x a; (try simp only []))
    | simp only [mk_kept_iff]
    | split
theorem memPartRead_kept {u : Upset} {s : State} {a : Nat} {n : Nat} : Kept s (memPartRead u s a n).1 := by
  unfold memPartRead
  (try simp only [])
  repeat' first
    | with_reducible apply Kept.ite ?_ ?_
    | with_reducible exact Kept.refl
    | with_reducible apply Kept.trans ?_ dramPartRead_kept
    | with_reducible apply Kept.trans ?_ (readParts_kept ?_)
    | with_reducible apply Kept.trans ?_ sramPartRead_kept
    | with_reducible apply Kept.trans ?_ parmPartRead_kept
    | intro _ _ _
    | (with_reducible apply Kept.foldl ?_ ?_; intro x a; (try simp only []))
    | simp only [mk_kept_iff]
    | split
theorem memPartWrite_kept {u : Upset} {s : State} {a : Nat} {d : List Byte} : Kept s (memPartWrite u s a d).1 := by
  unfold memPartWrite
  (try simp only [])
  repeat' first
    | with_reducible apply Kept.ite ?_ ?_
    | with_reducible exact Kept.refl
    | with_reducible apply Kept.trans ?_ dramPartWrite_kept
    | with_reducible apply Kept.trans ?_ (writeParts_kept ?_)
    | with_reducible apply Kept.trans ?_ sramPartWrite_kept
    | intro _ _ _
    | (with_reducible apply Kept.foldl ?_ ?_; intro x a; (try simp only []))
    | simp only [mk_kept_iff]
    | split
theorem memRead_kept {s : State} {a : Nat} {n : Nat} {u : optParam Upset { }} : Kept s (memRead s a n u).1 := by
  unfold memRead
  (try simp only [])
  repeat' first
    | with_reducible apply Kept.ite ?_ ?_
    | with_reducible exact Kept.refl
    | with_reducible apply Kept.trans ?_ (readParts_kept ?_)
    | with_reducible apply Kept.trans ?_ memPartRead_kept
    | intro _ _ _
    | (with_reducible apply Kept.foldl ?_ ?_; intro x a; (try simp only []))
    | simp only [mk_kept_iff]
    | split
theorem memWrite_kept {s : State} {a : Nat} {d : List Byte} {u : optParam Upset { }} : Kept s (memWrite s a d u).1 := by
  unfold memWrite
  (try simp only [])
  repeat' first
    | with_reducible apply Kept.ite ?_ ?_
    | with_reducible exact Kept.refl
    | with_reducible apply Kept.trans ?_ (writeParts_kept ?_)
    | with_reducible apply Kept.trans ?_ memPartWrite_kept
    | intro _ _ _
    | (with_reducible apply Kept.foldl ?_ ?_; intro x a; (try simp only []))
    | simp only [mk_kept_iff]
    | split
end Sys2Proof.Laws
end

