-- ==== Sys2Proof/Laws/KeepTcm.lean ====
section
/-! SUPPORT. What the operations of Machine/Tcm.lean leave alone (Laws/Kept.lean). -/
namespace Sys2Proof.Laws
set_option linter.unusedTactic false
set_option linter.unreachableTactic false
open Sys2Proof.Machine
theorem tcmUE_kept {s : State} {n : Nat} {off : Nat} : Kept s (tcmUE s n off) := by
  unfold tcmUE
  (try simp only [])
  repeat' first
    | with_reducible apply Kept.ite ?_ ?_
    | with_reducible exact Kept.refl
    | with_reducible apply Kept.trans ?_ setReg_kept
    | with_reducible apply Kept.trans ?_ State_irqBit_kept
    | (with_reducible apply Kept.foldl ?_ ?_; intro x a; (try simp only []))
    | simp only [mk_kept_iff]
    | split
theorem tcmWordRead_kept {s : State} {n : Nat} {off : Nat} {k : Nat} {bits : Nat} : Kept s (tcmWordRead s n off k bits).1 := by
  unfold tcmWordRead
  (try simp only [])
  repeat' first
    | with_reducible apply Kept.ite ?_ ?_
    | with_reducible exact Kept.refl
    | with_reducible apply Kept.trans ?_ State_setWordErr_kept
    | with_reducible apply Kept.trans ?_ tcmUE_kept
    | with_reducible apply Kept.trans ?_ State_irqBit_kept
    | with_reducible apply Kept.trans ?_ State_correctable_kept
    | (with_reducible apply Kept.foldl ?_ ?_; intro x a; (try simp only []))
    | simp only [mk_kept_iff]
    | split
theorem tcmWordWrite_kept {s : State} {n : Nat} {off : Nat} {d : List Byte} : Kept s (tcmWordWrite s n off d) := by
  unfold tcmWordWrite
  (try simp only [])
  repeat' first
    | with_reducible apply Kept.ite ?_ ?_
    | with_reducible exact Kept.refl
    | with_reducible apply Kept.trans ?_ setBytes_kept
    | with_reducible apply Kept.trans ?_ State_setWordErr_kept
    | with_reducible apply Kept.trans ?_ tcmWordRead_kept
    | (with_reducible apply Kept.foldl ?_ ?_; intro x a; (try simp only []))
    | simp only [mk_kept_iff]
    | split
theorem tcmReadParts_kept {s : State} {n : Nat} {bits : Nat} {x3 : List (Nat × Nat)} : Kept s (tcmReadParts s n bits x3).1 := by
  fun_induction tcmReadParts s n bits x3 <;> (try simp only []) <;>
    repeat' first
      | with_reducible apply Kept.ite ?_ ?_
      | with_reducible exact Kept.refl
      | with_reducible apply Kept.trans ?_ tcmWordRead_kept
      | with_reducible refine Kept.viaFst ‹tcmWordRead _ _ _ _ _ = (_, _)› tcmWordRead_kept ?_
      | with_reducible apply Kept.trans ?_ (by assumption)
      | (with_reducible apply Kept.foldl ?_ ?_; intro x a; (try simp only []))
      | simp only [mk_kept_iff]
      | (split <;> (try simp only []))
theorem tcmRead_kept {s : State} {n : Nat} {off : Nat} {k : Nat} {bits : Nat} : Kept s (tcmRead s n off k bits).1 := by
  unfold tcmRead
  (try simp only [])
  repeat' first
    | with_reducible apply Kept.ite ?_ ?_
    | with_reducible exact Kept.refl
    | with_reducible apply Kept.trans ?_ tcmReadParts_kept
    | (with_reducible apply Kept.foldl ?_ ?_; intro x a; (try simp only []))
    | simp only [mk_kept_iff]
    | split
theorem tcmWriteParts_kept {s : State} {n : Nat} {x2 : List (Nat × Nat)} {x3 : List Byte} : Kept s (tcmWriteParts s n x2 x3) := by
  fun_induction tcmWriteParts s n x2 x3 <;> (try simp only []) <;>
    repeat' first
      | with_reducible apply Kept.ite ?_ ?_
      | with_reducible exact Kept.refl
      | with_reducible apply Kept.trans ?_ tcmWordWrite_kept
      | with_reducible apply Kept.trans ?_ (by assumption)
      | (with_reducible apply Kept.foldl ?_ ?_; intro x a; (try simp only []))
      | simp only [mk_kept_iff]
      | (split <;> (try simp only []))
theorem tcmWrite_kept {s : State} {n : Nat} {off : Nat} {d : List Byte} : Kept s (tcmWrite s n off d) := by
  unfold tcmWrite
  (try simp only [])
  repeat' first
    | with_reducible apply Kept.ite ?_ ?_
    | with_reducible exact Kept.refl
    | with_reducible apply Kept.trans ?_ tcmWriteParts_kept
    | (with_reducible apply Kept.foldl ?_ ?_; intro x a; (try simp only []))
    | simp only [mk_kept_iff]
    | split
end Sys2Proof.Laws
end

