-- ==== Sys2Proof/Laws/KeepBinding.lean ====
section
/-! SUPPORT. What the operations of Machine/Binding.lean leave alone (Laws/Kept.lean). -/
namespace Sys2Proof.Laws
set_option linter.unusedTactic false
set_option linter.unreachableTactic false
open Sys2Proof.Machine
theorem homeByte {b : Byte} {v : Bool} (h : b.getLsbD 0 = true) : (if v then b ||| 2 else b &&& 0xFD) ≠ 0 := by (intro e; have e2 := congrArg (fun x => BitVec.getLsbD x 0) e; (have e3 : b.getLsbD 0 = false := by (cases v <;> simpa using e2)); rw [h] at e3; cases e3)
theorem State_setPort_kept {s : State} {p : Nat} {x : Port} : Kept s (State.setPort s p x) := by
  unfold State.setPort
  (try simp only [])
  repeat' first
    | with_reducible apply Kept.ite ?_ ?_
    | with_reducible exact Kept.refl
    | (with_reducible apply Kept.foldl ?_ ?_; intro x a; (try simp only []))
    | simp only [mk_kept_iff]
    | split
theorem State_setExcl_kept {s : State} {p : Nat} {v : Nat} : Kept s (State.setExcl s p v) := by
  unfold State.setExcl
  (try simp only [])
  repeat' first
    | with_reducible apply Kept.ite ?_ ?_
    | with_reducible exact Kept.refl
    | with_reducible apply Kept.trans ?_ State_setRegF_kept
    | (with_reducible apply Kept.foldl ?_ ?_; intro x a; (try simp only []))
    | simp only [mk_kept_iff]
    | split
theorem State_setMstate_kept {s : State} {p : Nat} {v : Nat} : Kept s (State.setMstate s p v) := by
  unfold State.setMstate
  (try simp only [])
  repeat' first
    | with_reducible apply Kept.ite ?_ ?_
    | with_reducible exact Kept.refl
    | with_reducible apply Kept.trans ?_ State_setRegF_kept
    | (with_reducible apply Kept.foldl ?_ ?_; intro x a; (try simp only []))
    | simp only [mk_kept_iff]
    | split
theorem State_setBind_kept {s : State} {c : Nat} {v : Nat} : Kept s (State.setBind s c v) := by
  unfold State.setBind
  (try simp only [])
  repeat' first
    | with_reducible apply Kept.ite ?_ ?_
    | with_reducible exact Kept.refl
    | with_reducible apply Kept.trans ?_ setReg_kept
    | (with_reducible apply Kept.foldl ?_ ?_; intro x a; (try simp only []))
    | simp only [mk_kept_iff]
    | split
theorem armBcmp_kept {s : State} {c : Nat} {on : Bool} : Kept s (armBcmp s c on) := by
  unfold armBcmp
  (try simp only [])
  repeat' first
    | with_reducible apply Kept.ite ?_ ?_
    | with_reducible exact Kept.refl
    | with_reducible apply Kept.trans ?_ State_setRegF_kept
    | (with_reducible apply Kept.foldl ?_ ?_; intro x a; (try simp only []))
    | simp only [mk_kept_iff]
    | split
theorem unbind_kept {s : State} {p : Nat} : Kept s (unbind s p) := by
  unfold unbind
  (try simp only [])
  repeat' first
    | with_reducible apply Kept.ite ?_ ?_
    | with_reducible exact Kept.refl
    | with_reducible apply Kept.trans ?_ State_setBind_kept
    | with_reducible apply Kept.trans ?_ armBcmp_kept
    | with_reducible apply Kept.trans ?_ State_setPort_kept
    | (with_reducible apply Kept.foldl ?_ ?_; intro x a; (try simp only []))
    | simp only [mk_kept_iff]
    | split
theorem disarmAll_kept {s : State} {x1 : List Nat} : Kept s (disarmAll s x1) := by
  fun_induction disarmAll s x1 <;> (try simp only []) <;>
    repeat' first
      | with_reducible apply Kept.ite ?_ ?_
      | with_reducible exact Kept.refl
      | with_reducible apply Kept.trans ?_ State_setMstate_kept
      | with_reducible apply Kept.trans ?_ unbind_kept
      | with_reducible apply Kept.trans ?_ (by assumption)
      | (with_reducible apply Kept.foldl ?_ ?_; intro x a; (try simp only []))
      | simp only [mk_kept_iff]
      | (split <;> (try simp only []))
theorem requeueBound_kept {s : State} : Kept s (requeueBound s) := by
  unfold requeueBound
  (try simp only [])
  repeat' first
    | with_reducible apply Kept.ite ?_ ?_
    | with_reducible exact Kept.refl
    | with_reducible apply Kept.trans ?_ disarmAll_kept
    | (with_reducible apply Kept.foldl ?_ ?_; intro x a; (try simp only []))
    | simp only [mk_kept_iff]
    | split
theorem State_setBay_kept {s : State} {p : Nat} {on : Bool} : Kept s (State.setBay s p on) := by
  unfold State.setBay
  (try simp only [])
  repeat' first
    | with_reducible apply Kept.ite ?_ ?_
    | with_reducible exact Kept.refl
    | with_reducible apply Kept.trans ?_ State_setRegF_kept
    | (with_reducible apply Kept.foldl ?_ ?_; intro x a; (try simp only []))
    | simp only [mk_kept_iff]
    | split
theorem bayDark_kept {s : State} {p : Nat} : Kept s (bayDark s p) := by
  unfold bayDark
  (try simp only [])
  repeat' first
    | with_reducible apply Kept.ite ?_ ?_
    | with_reducible exact Kept.refl
    | with_reducible apply Kept.trans ?_ State_setBay_kept
    | with_reducible apply Kept.trans ?_ State_setMstate_kept
    | (with_reducible apply Kept.foldl ?_ ?_; intro x a; (try simp only []))
    | simp only [mk_kept_iff]
    | split
theorem masterLost_kept {s : State} : Kept s (masterLost s) := by
  unfold masterLost
  (try simp only [])
  repeat' first
    | with_reducible apply Kept.ite ?_ ?_
    | with_reducible exact Kept.refl
    | with_reducible apply Kept.trans ?_ requeueBound_kept
    | with_reducible apply Kept.trans ?_ State_setRegF_kept
    | with_reducible apply Kept.trans ?_ bayDark_kept
    | (with_reducible apply Kept.foldl ?_ ?_; intro x a; (try simp only []))
    | simp only [mk_kept_iff]
    | split
theorem homeAll_kept {s : State} {v : Bool} : Kept s (homeAll s v) := ⟨rfl, fun h => swf_map (dd := fun _ => (0 : Byte)) _ _ (fun c => by split <;> rfl) (fun c hc => by split; exacts [homeByte (And.right (And.right (And.right ‹_›))), hc]) h, id, rfl⟩
theorem fenceDevice_kept {s : State} : Kept s (fenceDevice s) := by
  unfold fenceDevice
  (try simp only [])
  repeat' first
    | with_reducible apply Kept.ite ?_ ?_
    | with_reducible exact Kept.refl
    | with_reducible apply Kept.trans ?_ homeAll_kept
    | with_reducible apply Kept.trans ?_ masterLost_kept
    | with_reducible apply Kept.trans ?_ State_setRegF_kept
    | (with_reducible apply Kept.foldl ?_ ?_; intro x a; (try simp only []))
    | simp only [mk_kept_iff]
    | split
end Sys2Proof.Laws
end

