-- ==== Sys2Proof/Laws/KeepFaultLog.lean ====
section
/-! SUPPORT. What the operations of Machine/FaultLog.lean leave alone (Laws/Kept.lean). -/
namespace Sys2Proof.Laws
set_option linter.unusedTactic false
set_option linter.unreachableTactic false
open Sys2Proof.Machine
theorem fmRecord_kept {s : State} {kind : Nat} {action : Nat} {page : Nat} {count : Nat} {reason : Nat} {r3 : Nat} :
    Kept s (fmRecord s kind action page count reason r3) := by
  unfold fmRecord
  (try simp only [])
  repeat' first
    | with_reducible apply Kept.ite ?_ ?_
    | with_reducible exact Kept.refl
    | with_reducible apply Kept.trans ?_ State_irqBit_kept
    | (with_reducible apply Kept.foldl ?_ ?_; intro x a; (try simp only []))
    | simp only [mk_kept_iff]
    | split
theorem errDeclare_kept {s : State} {page : Nat} : Kept s (errDeclare s page) := by
  unfold errDeclare
  (try simp only [])
  repeat' first
    | with_reducible apply Kept.ite ?_ ?_
    | with_reducible exact Kept.refl
    | with_reducible apply Kept.trans ?_ State_setErr_kept
    | (with_reducible apply Kept.foldl ?_ ?_; intro x a; (try simp only []))
    | simp only [mk_kept_iff]
    | split
theorem declareLog_kept {s : State} {page : Nat} {kind : Nat} {action : Nat} {reason : Nat} :
    Kept s (declareLog s page kind action reason) := by
  unfold declareLog
  (try simp only [])
  repeat' first
    | with_reducible apply Kept.ite ?_ ?_
    | with_reducible exact Kept.refl
    | with_reducible apply Kept.trans ?_ fmRecord_kept
    | with_reducible apply Kept.trans ?_ errDeclare_kept
    | (with_reducible apply Kept.foldl ?_ ?_; intro x a; (try simp only []))
    | simp only [mk_kept_iff]
    | split
theorem selfStopTest_kept {s : State} : Kept s (selfStopTest s) := by
  unfold selfStopTest
  (try simp only [])
  repeat' first
    | with_reducible apply Kept.ite ?_ ?_
    | with_reducible exact Kept.refl
    | with_reducible apply Kept.trans ?_ fenceDevice_kept
    | (with_reducible apply Kept.foldl ?_ ?_; intro x a; (try simp only []))
    | simp only [mk_kept_iff]
    | split
end Sys2Proof.Laws
end

