-- ==== Sys2Proof/Laws/KeepEvents.lean ====
section
/-! SUPPORT. What the operations of Machine/Events.lean leave alone (Laws/Kept.lean). -/
namespace Sys2Proof.Laws
set_option linter.unusedTactic false
set_option linter.unreachableTactic false
open Sys2Proof.Machine
theorem routeWrite_kept {s : State} {e : Nat} {v : Word32} : Kept s (routeWrite s e v).1 := by
  unfold routeWrite
  (try simp only [])
  repeat' first
    | with_reducible apply Kept.ite ?_ ?_
    | with_reducible exact Kept.refl
    | with_reducible apply Kept.trans ?_ evtEdge_kept
    | with_reducible apply Kept.trans ?_ setReg_kept
    | (with_reducible apply Kept.foldl ?_ ?_; intro x a; (try simp only []))
    | simp only [mk_kept_iff]
    | split
theorem edges32_kept {old : State} {s : State} {e : Nat} {x3 : Nat} : Kept s (edges32 old s e x3) := by
  fun_induction edges32 old s e x3 <;> (try simp only []) <;>
    repeat' first
      | with_reducible apply Kept.ite ?_ ?_
      | with_reducible exact Kept.refl
      | with_reducible apply Kept.trans ?_ evtEdge_kept
      | with_reducible apply Kept.trans ?_ (by assumption)
      | (with_reducible apply Kept.foldl ?_ ?_; intro x a; (try simp only []))
      | simp only [mk_kept_iff]
      | (split <;> (try simp only []))
theorem swSet_kept {s : State} {n : Nat} {v : Word32} : Kept s (swSet s n v) := by
  unfold swSet
  (try simp only [])
  repeat' first
    | with_reducible apply Kept.ite ?_ ?_
    | with_reducible exact Kept.refl
    | with_reducible apply Kept.trans ?_ edges32_kept
    | with_reducible apply Kept.trans ?_ setReg_kept
    | (with_reducible apply Kept.foldl ?_ ?_; intro x a; (try simp only []))
    | simp only [mk_kept_iff]
    | split
theorem lineSet_kept {s : State} {l : Nat} : Kept s (lineSet s l) := by
  unfold lineSet
  (try simp only [])
  repeat' first
    | with_reducible apply Kept.ite ?_ ?_
    | with_reducible exact Kept.refl
    | with_reducible apply Kept.trans ?_ evtEdge_kept
    | with_reducible apply Kept.trans ?_ setReg_kept
    | (with_reducible apply Kept.foldl ?_ ?_; intro x a; (try simp only []))
    | simp only [mk_kept_iff]
    | split
theorem routeUpset_kept {s : State} {e : Nat} {bits : Nat} : Kept s (routeUpset s e bits) := by
  unfold routeUpset
  (try simp only [])
  repeat' first
    | with_reducible apply Kept.ite ?_ ?_
    | with_reducible exact Kept.refl
    | with_reducible apply Kept.trans ?_ State_correctable_kept
    | with_reducible apply Kept.trans ?_ State_irqBit_kept
    | with_reducible apply Kept.trans ?_ evtEdge_kept
    | with_reducible apply Kept.trans ?_ State_setRegF_kept
    | (with_reducible apply Kept.foldl ?_ ?_; intro x a; (try simp only []))
    | simp only [mk_kept_iff]
    | split
theorem mbPut_kept {s : State} {c : Nat} {x : MbChan} : Kept s (mbPut s c x) := by
  unfold mbPut
  (try simp only [])
  repeat' first
    | with_reducible apply Kept.ite ?_ ?_
    | with_reducible exact Kept.refl
    | with_reducible apply Kept.trans ?_ State_setChan_kept
    | with_reducible apply Kept.trans ?_ evtEdge_kept
    | (with_reducible apply Kept.foldl ?_ ?_; intro x a; (try simp only []))
    | simp only [mk_kept_iff]
    | split
theorem mbPush_kept {s : State} {c : Nat} {b : Bool} {v : Word32} : Kept s (mbPush s c b v) := by
  unfold mbPush
  (try simp only [])
  repeat' first
    | with_reducible apply Kept.ite ?_ ?_
    | with_reducible exact Kept.refl
    | with_reducible apply Kept.trans ?_ mbPut_kept
    | (with_reducible apply Kept.foldl ?_ ?_; intro x a; (try simp only []))
    | simp only [mk_kept_iff]
    | split
theorem messageUpset_kept {s : State} {c : Nat} {b : Bool} {place : Nat} {bits : Nat} : Kept s (messageUpset s c b place bits) := by
  unfold messageUpset
  (try simp only [])
  repeat' first
    | with_reducible apply Kept.ite ?_ ?_
    | with_reducible exact Kept.refl
    | with_reducible apply Kept.trans ?_ State_correctable_kept
    | with_reducible apply Kept.trans ?_ State_setChan_kept
    | (with_reducible apply Kept.foldl ?_ ?_; intro x a; (try simp only []))
    | simp only [mk_kept_iff]
    | split
theorem mbHeadUE_kept {s : State} {c : Nat} {b : Bool} {sub : Nat} : Kept s (mbHeadUE s c b sub) := by
  unfold mbHeadUE
  (try simp only [])
  repeat' first
    | with_reducible apply Kept.ite ?_ ?_
    | with_reducible exact Kept.refl
    | with_reducible apply Kept.trans ?_ State_irqBit_kept
    | with_reducible apply Kept.trans ?_ mbPut_kept
    | (with_reducible apply Kept.foldl ?_ ?_; intro x a; (try simp only []))
    | simp only [mk_kept_iff]
    | split
theorem mbPop_kept {s : State} {c : Nat} {b : Bool} : Kept s (mbPop s c b) := by
  unfold mbPop
  (try simp only [])
  repeat' first
    | with_reducible apply Kept.ite ?_ ?_
    | with_reducible exact Kept.refl
    | with_reducible apply Kept.trans ?_ mbPut_kept
    | (with_reducible apply Kept.foldl ?_ ?_; intro x a; (try simp only []))
    | simp only [mk_kept_iff]
    | split
theorem mbRing_kept {s : State} {c : Nat} {b : Bool} {v : Word32} : Kept s (mbRing s c b v) := by
  unfold mbRing
  (try simp only [])
  repeat' first
    | with_reducible apply Kept.ite ?_ ?_
    | with_reducible exact Kept.refl
    | with_reducible apply Kept.trans ?_ mbPut_kept
    | (with_reducible apply Kept.foldl ?_ ?_; intro x a; (try simp only []))
    | simp only [mk_kept_iff]
    | split
theorem mbWrite_kept {s : State} {c : Nat} {b : Bool} {sub : Nat} {v : Word32} : Kept s (mbWrite s c b sub v) := by
  unfold mbWrite
  (try simp only [])
  repeat' first
    | with_reducible apply Kept.ite ?_ ?_
    | with_reducible exact Kept.refl
    | with_reducible apply Kept.trans ?_ mbPut_kept
    | with_reducible apply Kept.trans ?_ mbPush_kept
    | with_reducible apply Kept.trans ?_ mbPop_kept
    | with_reducible apply Kept.trans ?_ mbRing_kept
    | (with_reducible apply Kept.foldl ?_ ?_; intro x a; (try simp only []))
    | simp only [mk_kept_iff]
    | split
theorem bindingWrite_kept {s : State} {c : Nat} {v : Word32} : Kept s (bindingWrite s c v).1 := by
  unfold bindingWrite
  (try simp only [])
  repeat' first
    | with_reducible apply Kept.ite ?_ ?_
    | with_reducible exact Kept.refl
    | with_reducible apply Kept.trans ?_ mbPut_kept
    | with_reducible apply Kept.trans ?_ setReg_kept
    | (with_reducible apply Kept.foldl ?_ ?_; intro x a; (try simp only []))
    | simp only [mk_kept_iff]
    | split
theorem sideResetOne_kept {s : State} {ids : List Nat} {c : Nat} : Kept s (sideResetOne s ids c) := by
  unfold sideResetOne
  (try simp only [])
  repeat' first
    | with_reducible apply Kept.ite ?_ ?_
    | with_reducible exact Kept.refl
    | with_reducible apply Kept.trans ?_ mbPut_kept
    | with_reducible apply Kept.trans ?_ State_irqBit_kept
    | (with_reducible apply Kept.foldl ?_ ?_; intro x a; (try simp only []))
    | simp only [mk_kept_iff]
    | split
theorem sideResetChans_kept {s : State} {ids : List Nat} {x2 : Nat} : Kept s (sideResetChans s ids x2) := by
  fun_induction sideResetChans s ids x2 <;> (try simp only []) <;>
    repeat' first
      | with_reducible apply Kept.ite ?_ ?_
      | with_reducible exact Kept.refl
      | with_reducible apply Kept.trans ?_ sideResetOne_kept
      | with_reducible apply Kept.trans ?_ (by assumption)
      | (with_reducible apply Kept.foldl ?_ ?_; intro x a; (try simp only []))
      | simp only [mk_kept_iff]
      | (split <;> (try simp only []))
theorem freeLocks_kept {s : State} {ids : List Nat} {x2 : List Nat} : Kept s (freeLocks s ids x2) := by
  fun_induction freeLocks s ids x2 <;> (try simp only []) <;>
    repeat' first
      | with_reducible apply Kept.ite ?_ ?_
      | with_reducible exact Kept.refl
      | with_reducible apply Kept.trans ?_ State_irqBit_kept
      | with_reducible apply Kept.trans ?_ (by assumption)
      | (with_reducible apply Kept.foldl ?_ ?_; intro x a; (try simp only []))
      | simp only [mk_kept_iff]
      | (split <;> (try simp only []))
theorem sideReset_kept {s : State} {ids : List Nat} : Kept s (sideReset s ids) := by
  unfold sideReset
  (try simp only [])
  repeat' first
    | with_reducible apply Kept.ite ?_ ?_
    | with_reducible exact Kept.refl
    | with_reducible apply Kept.trans ?_ freeLocks_kept
    | with_reducible apply Kept.trans ?_ sideResetChans_kept
    | (with_reducible apply Kept.foldl ?_ ?_; intro x a; (try simp only []))
    | simp only [mk_kept_iff]
    | split
theorem lockRead_kept {s : State} {id : Nat} {n : Nat} : Kept s (lockRead s id n).1 := by
  unfold lockRead
  (try simp only [])
  repeat' first
    | with_reducible apply Kept.ite ?_ ?_
    | with_reducible exact Kept.refl
    | (with_reducible apply Kept.foldl ?_ ?_; intro x a; (try simp only []))
    | simp only [mk_kept_iff]
    | split
theorem lockWrite_kept {s : State} {id : Nat} {n : Nat} {v : Word32} : Kept s (lockWrite s id n v).1 := by
  unfold lockWrite
  (try simp only [])
  repeat' first
    | with_reducible apply Kept.ite ?_ ?_
    | with_reducible exact Kept.refl
    | with_reducible apply Kept.trans ?_ State_irqBit_kept
    | (with_reducible apply Kept.foldl ?_ ?_; intro x a; (try simp only []))
    | simp only [mk_kept_iff]
    | split
theorem bucketShift_kept {s : State} {page : Nat} : Kept s (bucketShift s page) := by
  unfold bucketShift
  (try simp only [])
  repeat' first
    | with_reducible apply Kept.ite ?_ ?_
    | with_reducible exact Kept.refl
    | with_reducible apply Kept.trans ?_ State_setErr_kept
    | (with_reducible apply Kept.foldl ?_ ?_; intro x a; (try simp only []))
    | simp only [mk_kept_iff]
    | split
theorem execBucketShift_kept {page : BitVec 12} {s : State} : KeptR s (execBucketShift page s) := by
  unfold execBucketShift
  (try simp only [])
  repeat' first
    | with_reducible exact KeptR.fault
    | with_reducible apply KeptR.ok
    | with_reducible apply KeptR.okIf
    | with_reducible apply KeptR.ite ?_ ?_
    | with_reducible apply Kept.ite ?_ ?_
    | with_reducible exact Kept.refl
    | with_reducible apply Kept.trans ?_ bucketShift_kept
    | (with_reducible apply Kept.foldl ?_ ?_; intro x a; (try simp only []))
    | simp only [mk_kept_iff]
    | split
end Sys2Proof.Laws
end

