-- ==== Sys2Proof/Laws/KeepCoreCtl.lean ====
section
/-! SUPPORT. What the operations of Machine/CoreCtl.lean leave alone (Laws/Kept.lean). -/
namespace Sys2Proof.Laws
set_option linter.unusedTactic false
set_option linter.unreachableTactic false
open Sys2Proof.Machine
theorem lantApply_kept {s : State} : Kept s (lantApply s) := by
  unfold lantApply
  (try simp only [])
  repeat' first
    | with_reducible apply Kept.ite ?_ ?_
    | with_reducible exact Kept.refl
    | with_reducible apply Kept.trans ?_ State_setCore_kept
    | (with_reducible apply Kept.foldl ?_ ?_; intro x a; (try simp only []))
    | simp only [mk_kept_iff]
    | split
theorem coreClear_kept {s : State} {n : Fin 8} : Kept s (coreClear s n) := by
  unfold coreClear
  (try simp only [])
  repeat' first
    | with_reducible apply Kept.ite ?_ ?_
    | with_reducible exact Kept.refl
    | with_reducible apply Kept.trans ?_ State_setCore_kept
    | (with_reducible apply Kept.foldl ?_ ?_; intro x a; (try simp only []))
    | simp only [mk_kept_iff]
    | split
theorem coreResetOne_kept {s : State} {n : Fin 8} {reason : Nat} : Kept s (coreResetOne s n reason) := by
  unfold coreResetOne
  (try simp only [])
  repeat' first
    | with_reducible apply Kept.ite ?_ ?_
    | with_reducible exact Kept.refl
    | with_reducible apply Kept.trans ?_ fmRecord_kept
    | with_reducible apply Kept.trans ?_ State_irqBit_kept
    | with_reducible apply Kept.trans ?_ coreClear_kept
    | (with_reducible apply Kept.foldl ?_ ?_; intro x a; (try simp only []))
    | simp only [mk_kept_iff]
    | split
theorem coreReset_kept {s : State} {n : Fin 8} {reason : Nat} : Kept s (coreReset s n reason) := by
  unfold coreReset
  (try simp only [])
  repeat' first
    | with_reducible apply Kept.ite ?_ ?_
    | with_reducible exact Kept.refl
    | with_reducible apply Kept.trans ?_ sideReset_kept
    | with_reducible apply Kept.trans ?_ coreResetOne_kept
    | (with_reducible apply Kept.foldl ?_ ?_; intro x a; (try simp only []))
    | simp only [mk_kept_iff]
    | split
theorem holdPair_kept {s : State} {p : Fin 4} : Kept s (holdPair s p) := by
  unfold holdPair
  (try simp only [])
  repeat' first
    | with_reducible apply Kept.ite ?_ ?_
    | with_reducible exact Kept.refl
    | with_reducible apply Kept.trans ?_ State_setRegF_kept
    | (with_reducible apply Kept.foldl ?_ ?_; intro x a; (try simp only []))
    | simp only [mk_kept_iff]
    | split
theorem pairRelease_kept {s : State} {p : Fin 4} : Kept s (pairRelease s p) := by
  unfold pairRelease
  (try simp only [])
  repeat' first
    | with_reducible apply Kept.ite ?_ ?_
    | with_reducible exact Kept.refl
    | with_reducible apply Kept.trans ?_ holdPair_kept
    | with_reducible apply Kept.trans ?_ State_irqBit_kept
    | with_reducible apply Kept.trans ?_ State_setPair_kept
    | with_reducible apply Kept.trans ?_ lantApply_kept
    | (with_reducible apply Kept.foldl ?_ ?_; intro x a; (try simp only []))
    | simp only [mk_kept_iff]
    | split
theorem turCtlWrite_kept {s : State} {n : Fin 8} {v : Word32} : Kept s (turCtlWrite s n v) := by
  unfold turCtlWrite
  (try simp only [])
  repeat' first
    | with_reducible apply Kept.ite ?_ ?_
    | with_reducible exact Kept.refl
    | with_reducible apply Kept.trans ?_ coreReset_kept
    | with_reducible apply Kept.trans ?_ setReg_kept
    | with_reducible apply Kept.trans ?_ coreClear_kept
    | with_reducible apply Kept.trans ?_ State_setPair_kept
    | with_reducible apply Kept.trans ?_ pairRelease_kept
    | (with_reducible apply Kept.foldl ?_ ?_; intro x a; (try simp only []))
    | simp only [mk_kept_iff]
    | split
theorem dropTcm_kept {s : State} {n : Fin 8} : Kept s (dropTcm s n) := by
  unfold dropTcm
  (try simp only [])
  repeat' first
    | with_reducible apply Kept.ite ?_ ?_
    | with_reducible exact Kept.refl
    | with_reducible apply Kept.trans ?_ clearBytes_kept
    | (with_reducible apply Kept.foldl ?_ ?_; intro x a; (try simp only []))
    | simp only [mk_kept_iff]
    | split
theorem turOff_kept {s : State} {n : Fin 8} : Kept s (turOff s n) := by
  unfold turOff
  (try simp only [])
  repeat' first
    | with_reducible apply Kept.ite ?_ ?_
    | with_reducible exact Kept.refl
    | with_reducible apply Kept.trans ?_ State_setDom_kept
    | with_reducible apply Kept.trans ?_ dropTcm_kept
    | with_reducible apply Kept.trans ?_ coreClear_kept
    | (with_reducible apply Kept.foldl ?_ ?_; intro x a; (try simp only []))
    | simp only [mk_kept_iff]
    | split
theorem execCoreWarmReset_kept {n : Fin 8} {s : State} : KeptR s (execCoreWarmReset n s) := by
  unfold execCoreWarmReset
  (try simp only [])
  repeat' first
    | with_reducible exact KeptR.fault
    | with_reducible apply KeptR.ok
    | with_reducible apply KeptR.okIf
    | with_reducible apply KeptR.ite ?_ ?_
    | with_reducible apply Kept.ite ?_ ?_
    | with_reducible exact Kept.refl
    | with_reducible apply Kept.trans ?_ coreReset_kept
    | (with_reducible apply Kept.foldl ?_ ?_; intro x a; (try simp only []))
    | simp only [mk_kept_iff]
    | split
theorem cmpCount_kept {s : State} {p : Fin 4} {cls : Nat} : Kept s (cmpCount s p cls) := by
  unfold cmpCount
  (try simp only [])
  repeat' first
    | with_reducible apply Kept.ite ?_ ?_
    | with_reducible exact Kept.refl
    | with_reducible apply Kept.trans ?_ State_correctable_kept
    | with_reducible apply Kept.trans ?_ State_setErr_kept
    | (with_reducible apply Kept.foldl ?_ ?_; intro x a; (try simp only []))
    | simp only [mk_kept_iff]
    | split
theorem frecWrite_kept {s : State} {p : Fin 4} {cls : Nat} {group : Nat} {digest : Bool} {pc : Nat} :
    Kept s (frecWrite s p cls group digest pc) := by
  unfold frecWrite
  (try simp only [])
  repeat' first
    | with_reducible apply Kept.ite ?_ ?_
    | with_reducible exact Kept.refl
    | with_reducible apply Kept.trans ?_ setReg_kept
    | (with_reducible apply Kept.foldl ?_ ?_; intro x a; (try simp only []))
    | simp only [mk_kept_iff]
    | split
theorem cmpHalt_kept {s : State} {p : Fin 4} {cls : Nat} {group : Nat} {digest : Bool} {pc : Nat} :
    Kept s (cmpHalt s p cls group digest pc) := by
  unfold cmpHalt
  (try simp only [])
  repeat' first
    | with_reducible apply Kept.ite ?_ ?_
    | with_reducible exact Kept.refl
    | with_reducible apply Kept.trans ?_ frecWrite_kept
    | with_reducible apply Kept.trans ?_ State_setCore_kept
    | with_reducible apply Kept.trans ?_ State_setPair_kept
    | with_reducible apply Kept.trans ?_ cmpCount_kept
    | with_reducible apply Kept.trans ?_ State_setRegF_kept
    | with_reducible apply Kept.trans ?_ State_irqBit_kept
    | (with_reducible apply Kept.foldl ?_ ?_; intro x a; (try simp only []))
    | simp only [mk_kept_iff]
    | split
theorem moveRoutes_kept {s : State} {p : Nat} {q : Nat} {x3 : Nat} : Kept s (moveRoutes s p q x3) := by
  fun_induction moveRoutes s p q x3 <;> (try simp only []) <;>
    repeat' first
      | with_reducible apply Kept.ite ?_ ?_
      | with_reducible exact Kept.refl
      | with_reducible apply Kept.trans ?_ evtEdge_kept
      | with_reducible apply Kept.trans ?_ setReg_kept
      | with_reducible apply Kept.trans ?_ (by assumption)
      | (with_reducible apply Kept.foldl ?_ ?_; intro x a; (try simp only []))
      | simp only [mk_kept_iff]
      | (split <;> (try simp only []))
theorem pairOffline_kept {s : State} {p : Fin 4} : Kept s (pairOffline s p) := by
  unfold pairOffline
  (try simp only [])
  repeat' first
    | with_reducible apply Kept.ite ?_ ?_
    | with_reducible exact Kept.refl
    | with_reducible apply Kept.trans ?_ holdPair_kept
    | with_reducible apply Kept.trans ?_ State_irqBit_kept
    | with_reducible apply Kept.trans ?_ State_setPair_kept
    | with_reducible apply Kept.trans ?_ sideReset_kept
    | with_reducible apply Kept.trans ?_ moveRoutes_kept
    | with_reducible apply Kept.trans ?_ turOff_kept
    | with_reducible apply Kept.trans ?_ State_setDom_kept
    | (with_reducible apply Kept.foldl ?_ ?_; intro x a; (try simp only []))
    | simp only [mk_kept_iff]
    | split
theorem pairWarmReset_kept {s : State} {p : Fin 4} : Kept s (pairWarmReset s p) := by
  unfold pairWarmReset
  (try simp only [])
  repeat' first
    | with_reducible apply Kept.ite ?_ ?_
    | with_reducible exact Kept.refl
    | with_reducible apply Kept.trans ?_ State_setPair_kept
    | with_reducible apply Kept.trans ?_ coreReset_kept
    | (with_reducible apply Kept.foldl ?_ ?_; intro x a; (try simp only []))
    | simp only [mk_kept_iff]
    | split
theorem pairLasting_kept {s : State} {p : Fin 4} {kind : Nat} {reason : Nat} : Kept s (pairLasting s p kind reason) := by
  unfold pairLasting
  (try simp only [])
  repeat' first
    | with_reducible apply Kept.ite ?_ ?_
    | with_reducible exact Kept.refl
    | with_reducible apply Kept.trans ?_ selfStopTest_kept
    | with_reducible apply Kept.trans ?_ pairOffline_kept
    | with_reducible apply Kept.trans ?_ declareLog_kept
    | (with_reducible apply Kept.foldl ?_ ?_; intro x a; (try simp only []))
    | simp only [mk_kept_iff]
    | split
theorem pairSelf_kept {s : State} {p : Fin 4} : Kept s (pairSelf s p) := by
  unfold pairSelf
  (try simp only [])
  repeat' first
    | with_reducible apply Kept.ite ?_ ?_
    | with_reducible exact Kept.refl
    | with_reducible apply Kept.trans ?_ pairLasting_kept
    | with_reducible apply Kept.trans ?_ State_setPair_kept
    | (with_reducible apply Kept.foldl ?_ ?_; intro x a; (try simp only []))
    | simp only [mk_kept_iff]
    | split
theorem pairReset_kept {s : State} {p : Fin 4} {self : Option (Fin 8)} : Kept s (pairReset s p self) := by
  unfold pairReset
  (try simp only [])
  repeat' first
    | with_reducible apply Kept.ite ?_ ?_
    | with_reducible exact Kept.refl
    | with_reducible apply Kept.trans ?_ pairWarmReset_kept
    | with_reducible apply Kept.trans ?_ pairSelf_kept
    | with_reducible apply Kept.trans ?_ cmpHalt_kept
    | (with_reducible apply Kept.foldl ?_ ?_; intro x a; (try simp only []))
    | simp only [mk_kept_iff]
    | split
theorem pairRecovery_kept {s : State} {p : Fin 4} {self : Option (Fin 8)} : Kept s (pairRecovery s p self) := by
  unfold pairRecovery
  (try simp only [])
  repeat' first
    | with_reducible apply Kept.ite ?_ ?_
    | with_reducible exact Kept.refl
    | with_reducible apply Kept.trans ?_ pairSelf_kept
    | with_reducible apply Kept.trans ?_ pairLasting_kept
    | with_reducible apply Kept.trans ?_ State_setErr_kept
    | with_reducible apply Kept.trans ?_ pairReset_kept
    | (with_reducible apply Kept.foldl ?_ ?_; intro x a; (try simp only []))
    | simp only [mk_kept_iff]
    | split
theorem execPairRecovery_kept {p : Fin 4} {self : Option (Fin 8)} {s : State} : KeptR s (execPairRecovery p self s) := by
  unfold execPairRecovery
  (try simp only [])
  repeat' first
    | with_reducible exact KeptR.fault
    | with_reducible apply KeptR.ok
    | with_reducible apply KeptR.okIf
    | with_reducible apply KeptR.ite ?_ ?_
    | with_reducible apply Kept.ite ?_ ?_
    | with_reducible exact Kept.refl
    | with_reducible apply Kept.trans ?_ pairRecovery_kept
    | (with_reducible apply Kept.foldl ?_ ?_; intro x a; (try simp only []))
    | simp only [mk_kept_iff]
    | split
theorem injectWrite_kept {s : State} {p : Fin 4} {groups : Nat} {fails : Nat} : Kept s (injectWrite s p groups fails) := by
  unfold injectWrite
  (try simp only [])
  repeat' first
    | with_reducible apply Kept.ite ?_ ?_
    | with_reducible exact Kept.refl
    | with_reducible apply Kept.trans ?_ State_setPair_kept
    | (with_reducible apply Kept.foldl ?_ ?_; intro x a; (try simp only []))
    | simp only [mk_kept_iff]
    | split
theorem injectEnd_kept {s : State} {p : Fin 4} : Kept s (injectEnd s p) := by
  unfold injectEnd
  (try simp only [])
  repeat' first
    | with_reducible apply Kept.ite ?_ ?_
    | with_reducible exact Kept.refl
    | with_reducible apply Kept.trans ?_ State_irqBit_kept
    | with_reducible apply Kept.trans ?_ State_setPair_kept
    | (with_reducible apply Kept.foldl ?_ ?_; intro x a; (try simp only []))
    | simp only [mk_kept_iff]
    | split
theorem cmpCtlWrite_kept {s : State} {p : Fin 4} {v : Word32} : Kept s (cmpCtlWrite s p v).1 := by
  unfold cmpCtlWrite
  (try simp only [])
  repeat' first
    | with_reducible apply Kept.ite ?_ ?_
    | with_reducible exact Kept.refl
    | with_reducible apply Kept.trans ?_ setReg_kept
    | (with_reducible apply Kept.foldl ?_ ?_; intro x a; (try simp only []))
    | simp only [mk_kept_iff]
    | split
end Sys2Proof.Laws
end

