-- ==== Sys2Proof/Laws/KeepMemCtl.lean ====
section
/-! SUPPORT. What the operations of Machine/MemCtl.lean leave alone (Laws/Kept.lean). -/
namespace Sys2Proof.Laws
set_option linter.unusedTactic false
set_option linter.unreachableTactic false
open Sys2Proof.Machine
theorem copyLine_kept {s : State} {addr : Nat} {src : Loc} {dst : List Loc} {u : Upset} : Kept s (copyLine s addr src dst u) := by
  unfold copyLine
  (try simp only [])
  repeat' first
    | with_reducible apply Kept.ite ?_ ?_
    | with_reducible exact Kept.refl
    | with_reducible apply Kept.trans ?_ lineRead_kept
    | with_reducible apply Kept.trans ?_ lineStore_kept
    | (with_reducible apply Kept.foldl ?_ ?_; intro x a; (try simp only []))
    | simp only [mk_kept_iff]
    | split
theorem spareCopyLines_kept {s : State} {us : List Upset} {lch : Nat} {x3 : List Nat} : Kept s (spareCopyLines s us lch x3) := by
  fun_induction spareCopyLines s us lch x3 <;> (try simp only []) <;>
    repeat' first
      | with_reducible apply Kept.ite ?_ ?_
      | with_reducible exact Kept.refl
      | with_reducible apply Kept.trans ?_ copyLine_kept
      | with_reducible apply Kept.trans ?_ (by assumption)
      | (with_reducible apply Kept.foldl ?_ ?_; intro x a; (try simp only []))
      | simp only [mk_kept_iff]
      | (split <;> (try simp only []))
theorem spareCopyBlock_kept {s : State} {us : List Upset} : Kept s (spareCopyBlock s us) := by
  unfold spareCopyBlock
  (try simp only [])
  repeat' first
    | with_reducible apply Kept.ite ?_ ?_
    | with_reducible exact Kept.refl
    | with_reducible apply Kept.trans ?_ spareCopyLines_kept
    | with_reducible apply Kept.trans ?_ State_setSpareSt_kept
    | (with_reducible apply Kept.foldl ?_ ?_; intro x a; (try simp only []))
    | simp only [mk_kept_iff]
    | split
theorem dropChannel_kept {s : State} {p : Nat} : Kept s (dropChannel s p) := by
  unfold dropChannel
  (try simp only [])
  repeat' first
    | with_reducible apply Kept.ite ?_ ?_
    | with_reducible exact Kept.refl
    | with_reducible apply Kept.trans ?_ clearBytes_kept
    | (with_reducible apply Kept.foldl ?_ ?_; intro x a; (try simp only []))
    | simp only [mk_kept_iff]
    | split
theorem spareSwitch_kept {s : State} : Kept s (spareSwitch s) := by
  unfold spareSwitch
  (try simp only [])
  repeat' first
    | with_reducible apply Kept.ite ?_ ?_
    | with_reducible exact Kept.refl
    | with_reducible apply Kept.trans ?_ actHeld_kept
    | with_reducible apply Kept.trans ?_ State_irqBit_kept
    | with_reducible apply Kept.trans ?_ State_setDom_kept
    | with_reducible apply Kept.trans ?_ dropChannel_kept
    | with_reducible apply Kept.trans ?_ State_setCstate_kept
    | (with_reducible apply Kept.foldl ?_ ?_; intro x a; (try simp only []))
    | simp only [mk_kept_iff]
    | split
theorem execSpareCopyBlock_kept {upsets : List Upset} {s : State} : KeptR s (execSpareCopyBlock upsets s) := by
  unfold execSpareCopyBlock
  (try simp only [])
  repeat' first
    | with_reducible exact KeptR.fault
    | with_reducible apply KeptR.ok
    | with_reducible apply KeptR.okIf
    | with_reducible apply KeptR.ite ?_ ?_
    | with_reducible apply Kept.ite ?_ ?_
    | with_reducible exact Kept.refl
    | with_reducible apply Kept.trans ?_ spareCopyBlock_kept
    | (with_reducible apply Kept.foldl ?_ ?_; intro x a; (try simp only []))
    | simp only [mk_kept_iff]
    | split
theorem execSpareSwitch_kept {s : State} : KeptR s (execSpareSwitch s) := by
  unfold execSpareSwitch
  (try simp only [])
  repeat' first
    | with_reducible exact KeptR.fault
    | with_reducible apply KeptR.ok
    | with_reducible apply KeptR.okIf
    | with_reducible apply KeptR.ite ?_ ?_
    | with_reducible apply Kept.ite ?_ ?_
    | with_reducible exact Kept.refl
    | with_reducible apply Kept.trans ?_ spareSwitch_kept
    | (with_reducible apply Kept.foldl ?_ ?_; intro x a; (try simp only []))
    | simp only [mk_kept_iff]
    | split
theorem execSpareAbort_kept {_why : SpareAbortWhy} {s : State} : KeptR s (execSpareAbort _why s) := by
  unfold execSpareAbort
  (try simp only [])
  repeat' first
    | with_reducible exact KeptR.fault
    | with_reducible apply KeptR.ok
    | with_reducible apply KeptR.okIf
    | with_reducible apply KeptR.ite ?_ ?_
    | with_reducible apply Kept.ite ?_ ?_
    | with_reducible exact Kept.refl
    | with_reducible apply Kept.trans ?_ spareAbandon_kept
    | (with_reducible apply Kept.foldl ?_ ?_; intro x a; (try simp only []))
    | simp only [mk_kept_iff]
    | split
theorem memcCtlWrite_kept {s : State} {v : Word32} : Kept s (memcCtlWrite s v) := by
  unfold memcCtlWrite
  (try simp only [])
  repeat' first
    | with_reducible apply Kept.ite ?_ ?_
    | with_reducible exact Kept.refl
    | (with_reducible apply Kept.foldl ?_ ?_; intro x a; (try simp only []))
    | simp only [mk_kept_iff]
    | split
theorem widenLines_kept {s : State} {us : List Upset} {x2 : List Nat} : Kept s (widenLines s us x2) := by
  fun_induction widenLines s us x2 <;> (try simp only []) <;>
    repeat' first
      | with_reducible apply Kept.ite ?_ ?_
      | with_reducible exact Kept.refl
      | with_reducible apply Kept.trans ?_ copyLine_kept
      | with_reducible apply Kept.trans ?_ (by assumption)
      | (with_reducible apply Kept.foldl ?_ ?_; intro x a; (try simp only []))
      | simp only [mk_kept_iff]
      | (split <;> (try simp only []))
theorem widenBlock_kept {s : State} {us : List Upset} : Kept s (widenBlock s us) := by
  unfold widenBlock
  (try simp only [])
  repeat' first
    | with_reducible apply Kept.ite ?_ ?_
    | with_reducible exact Kept.refl
    | with_reducible apply Kept.trans ?_ widenLines_kept
    | (with_reducible apply Kept.foldl ?_ ?_; intro x a; (try simp only []))
    | simp only [mk_kept_iff]
    | split
theorem wideDone_kept {s : State} : Kept s (wideDone s) := by
  unfold wideDone
  (try simp only [])
  repeat' first
    | with_reducible apply Kept.ite ?_ ?_
    | with_reducible exact Kept.refl
    | with_reducible apply Kept.trans ?_ actHeld_kept
    | with_reducible apply Kept.trans ?_ spareAgain_kept
    | with_reducible apply Kept.trans ?_ State_irqBit_kept
    | (with_reducible apply Kept.foldl ?_ ?_; intro x a; (try simp only []))
    | simp only [mk_kept_iff]
    | split
theorem execWideningCopyBlock_kept {upsets : List Upset} {s : State} : KeptR s (execWideningCopyBlock upsets s) := by
  unfold execWideningCopyBlock
  (try simp only [])
  repeat' first
    | with_reducible exact KeptR.fault
    | with_reducible apply KeptR.ok
    | with_reducible apply KeptR.okIf
    | with_reducible apply KeptR.ite ?_ ?_
    | with_reducible apply Kept.ite ?_ ?_
    | with_reducible exact Kept.refl
    | with_reducible apply Kept.trans ?_ widenBlock_kept
    | (with_reducible apply Kept.foldl ?_ ?_; intro x a; (try simp only []))
    | simp only [mk_kept_iff]
    | split
theorem execWideDone_kept {s : State} : KeptR s (execWideDone s) := by
  unfold execWideDone
  (try simp only [])
  repeat' first
    | with_reducible exact KeptR.fault
    | with_reducible apply KeptR.ok
    | with_reducible apply KeptR.okIf
    | with_reducible apply KeptR.ite ?_ ?_
    | with_reducible apply Kept.ite ?_ ?_
    | with_reducible exact Kept.refl
    | with_reducible apply Kept.trans ?_ wideDone_kept
    | (with_reducible apply Kept.foldl ?_ ?_; intro x a; (try simp only []))
    | simp only [mk_kept_iff]
    | split
theorem scrubRead_kept {s : State} {p : Nat} {j : Nat} {u : Upset} : Kept s (scrubRead s p j u) := by
  unfold scrubRead
  (try simp only [])
  repeat' first
    | with_reducible apply Kept.ite ?_ ?_
    | with_reducible exact Kept.refl
    | with_reducible apply Kept.trans ?_ lineRead_kept
    | (with_reducible apply Kept.foldl ?_ ?_; intro x a; (try simp only []))
    | simp only [mk_kept_iff]
    | split
theorem execScrubRead_kept {pch : Fin 64} {j : Nat} {upset : Upset} {s : State} : KeptR s (execScrubRead pch j upset s) := by
  unfold execScrubRead
  (try simp only [])
  repeat' first
    | with_reducible exact KeptR.fault
    | with_reducible apply KeptR.ok
    | with_reducible apply KeptR.okIf
    | with_reducible apply KeptR.ite ?_ ?_
    | with_reducible apply Kept.ite ?_ ?_
    | with_reducible exact Kept.refl
    | with_reducible apply Kept.trans ?_ scrubRead_kept
    | (with_reducible apply Kept.foldl ?_ ?_; intro x a; (try simp only []))
    | simp only [mk_kept_iff]
    | split
theorem bankDomainOff_kept {s : State} {p : Nat} {b : Nat} : Kept s (bankDomainOff s p b) := by
  unfold bankDomainOff
  (try simp only [])
  repeat' first
    | with_reducible apply Kept.ite ?_ ?_
    | with_reducible exact Kept.refl
    | with_reducible apply Kept.trans ?_ State_setDom_kept
    | (with_reducible apply Kept.foldl ?_ ?_; intro x a; (try simp only []))
    | simp only [mk_kept_iff]
    | split
theorem loseBank_kept {s : State} {p : Nat} {b : Nat} : Kept s (loseBank s p b) := by
  unfold loseBank
  (try simp only [])
  repeat' first
    | with_reducible apply Kept.ite ?_ ?_
    | with_reducible exact Kept.refl
    | with_reducible apply Kept.trans ?_ State_setScr_kept
    | with_reducible apply Kept.trans ?_ State_zeroBank_kept
    | (with_reducible apply Kept.foldl ?_ ?_; intro x a; (try simp only []))
    | simp only [mk_kept_iff]
    | split
theorem bankWrite_kept {s : State} {p : Nat} {b : Nat} {f : Nat} : Kept s (bankWrite s p b f) := by
  unfold bankWrite
  (try simp only [])
  repeat' first
    | with_reducible apply Kept.ite ?_ ?_
    | with_reducible exact Kept.refl
    | with_reducible apply Kept.trans ?_ State_setBankSt_kept
    | with_reducible apply Kept.trans ?_ loseBank_kept
    | with_reducible apply Kept.trans ?_ bankDomainOff_kept
    | with_reducible apply Kept.trans ?_ State_setScr_kept
    | with_reducible apply Kept.trans ?_ State_setDom_kept
    | (with_reducible apply Kept.foldl ?_ ?_; intro x a; (try simp only []))
    | simp only [mk_kept_iff]
    | split
theorem bstateFields_kept {s : State} {p : Nat} {reg : Nat} {v : Word32} {x4 : List Nat} : Kept s (bstateFields s p reg v x4) := by
  fun_induction bstateFields s p reg v x4 <;> (try simp only []) <;>
    repeat' first
      | with_reducible apply Kept.ite ?_ ?_
      | with_reducible exact Kept.refl
      | with_reducible apply Kept.trans ?_ bankWrite_kept
      | with_reducible apply Kept.trans ?_ (by assumption)
      | (with_reducible apply Kept.foldl ?_ ?_; intro x a; (try simp only []))
      | simp only [mk_kept_iff]
      | (split <;> (try simp only []))
theorem bstateWrite_kept {s : State} {p : Nat} {reg : Nat} {v : Word32} : Kept s (bstateWrite s p reg v).1 := by
  unfold bstateWrite
  (try simp only [])
  repeat' first
    | with_reducible apply Kept.ite ?_ ?_
    | with_reducible exact Kept.refl
    | with_reducible apply Kept.trans ?_ bstateFields_kept
    | (with_reducible apply Kept.foldl ?_ ?_; intro x a; (try simp only []))
    | simp only [mk_kept_iff]
    | split
theorem execBankZeroFill_kept {page : Fin 2} {bank : Fin 256} {s : State} : KeptR s (execBankZeroFill page bank s) := by
  unfold execBankZeroFill
  (try simp only [])
  repeat' first
    | with_reducible exact KeptR.fault
    | with_reducible apply KeptR.ok
    | with_reducible apply KeptR.okIf
    | with_reducible apply KeptR.ite ?_ ?_
    | with_reducible apply Kept.ite ?_ ?_
    | with_reducible exact Kept.refl
    | with_reducible apply Kept.trans ?_ State_endFill_kept
    | (with_reducible apply Kept.foldl ?_ ?_; intro x a; (try simp only []))
    | simp only [mk_kept_iff]
    | split
theorem execDmaStarve_kept {page : Fin 2} {s : State} : KeptR s (execDmaStarve page s) := by
  unfold execDmaStarve
  (try simp only [])
  repeat' first
    | with_reducible exact KeptR.fault
    | with_reducible apply KeptR.ok
    | with_reducible apply KeptR.okIf
    | with_reducible apply KeptR.ite ?_ ?_
    | with_reducible apply Kept.ite ?_ ?_
    | with_reducible exact Kept.refl
    | with_reducible apply Kept.trans ?_ State_irqBit_kept
    | with_reducible apply Kept.trans ?_ State_bumpReg_kept
    | (with_reducible apply Kept.foldl ?_ ?_; intro x a; (try simp only []))
    | simp only [mk_kept_iff]
    | split
theorem patrolRead_kept {s : State} {p : Nat} {x2 : List Nat} : Kept s (patrolRead s p x2) := by
  fun_induction patrolRead s p x2 <;> (try simp only []) <;>
    repeat' first
      | with_reducible apply Kept.ite ?_ ?_
      | with_reducible exact Kept.refl
      | with_reducible apply Kept.trans ?_ wordRead_kept
      | with_reducible refine Kept.viaFst ‹wordRead _ _ _ _ = (_, _)› wordRead_kept ?_
      | with_reducible apply Kept.trans ?_ (by assumption)
      | (with_reducible apply Kept.foldl ?_ ?_; intro x a; (try simp only []))
      | simp only [mk_kept_iff]
      | (split <;> (try simp only []))
theorem patrolRepair_kept {s : State} {p : Nat} {bank : Nat} {x3 : Nat} : Kept s (patrolRepair s p bank x3) := by
  fun_induction patrolRepair s p bank x3 <;> (try simp only []) <;>
    repeat' first
      | with_reducible apply Kept.ite ?_ ?_
      | with_reducible exact Kept.refl
      | with_reducible apply Kept.trans ?_ State_setScr_kept
      | with_reducible apply Kept.trans ?_ State_irqBit_kept
      | with_reducible apply Kept.trans ?_ setReg_kept
      | with_reducible apply Kept.trans ?_ selfStopTest_kept
      | with_reducible apply Kept.trans ?_ declareLog_kept
      | with_reducible apply Kept.trans ?_ (by assumption)
      | (with_reducible apply Kept.foldl ?_ ?_; intro x a; (try simp only []))
      | simp only [mk_kept_iff]
      | (split <;> (try simp only []))
theorem patrolRegion_kept {s : State} {p : Nat} {failing : Nat} : Kept s (patrolRegion s p failing) := by
  unfold patrolRegion
  (try simp only [])
  repeat' first
    | with_reducible apply Kept.ite ?_ ?_
    | with_reducible exact Kept.refl
    | with_reducible apply Kept.trans ?_ State_endFill_kept
    | with_reducible apply Kept.trans ?_ patrolRead_kept
    | with_reducible apply Kept.trans ?_ patrolRepair_kept
    | with_reducible apply Kept.trans ?_ State_setRegF_kept
    | with_reducible apply Kept.trans ?_ State_setScr_kept
    | (with_reducible apply Kept.foldl ?_ ?_; intro x a; (try simp only []))
    | simp only [mk_kept_iff]
    | split
theorem execPatrolRegion_kept {page : Fin 2} {failing : Nat} {s : State} : KeptR s (execPatrolRegion page failing s) := by
  unfold execPatrolRegion
  (try simp only [])
  repeat' first
    | with_reducible exact KeptR.fault
    | with_reducible apply KeptR.ok
    | with_reducible apply KeptR.okIf
    | with_reducible apply KeptR.ite ?_ ?_
    | with_reducible apply Kept.ite ?_ ?_
    | with_reducible exact Kept.refl
    | with_reducible apply Kept.trans ?_ patrolRegion_kept
    | (with_reducible apply Kept.foldl ?_ ?_; intro x a; (try simp only []))
    | simp only [mk_kept_iff]
    | split
end Sys2Proof.Laws
end

