-- ==== Sys2Proof/Laws/KeepSpireCtl.lean ====
section
/-! SUPPORT. What the operations of Machine/SpireCtl.lean leave alone (Laws/Kept.lean). -/
namespace Sys2Proof.Laws
set_option linter.unusedTactic false
set_option linter.unreachableTactic false
open Sys2Proof.Machine
theorem State_setSpire_kept {s : State} {n : Fin 8} {x : Spire} : Kept s (State.setSpire s n x) := by
  unfold State.setSpire
  (try simp only [])
  repeat' first
    | with_reducible apply Kept.ite ?_ ?_
    | with_reducible exact Kept.refl
    | (with_reducible apply Kept.foldl ?_ ?_; intro x a; (try simp only []))
    | simp only [mk_kept_iff]
    | split
theorem State_setSc_kept {s : State} {n : Fin 8} {c : Fin 4} {x : SpCtx} : Kept s (State.setSc s n c x) := by
  unfold State.setSc
  (try simp only [])
  repeat' first
    | with_reducible apply Kept.ite ?_ ?_
    | with_reducible exact Kept.refl
    | with_reducible apply Kept.trans ?_ State_setSpire_kept
    | (with_reducible apply Kept.foldl ?_ ?_; intro x a; (try simp only []))
    | simp only [mk_kept_iff]
    | split
theorem State_fenceSpire_kept {s : State} {n : Fin 8} : Kept s (State.fenceSpire s n) := by
  unfold State.fenceSpire
  (try simp only [])
  repeat' first
    | with_reducible apply Kept.ite ?_ ?_
    | with_reducible exact Kept.refl
    | (with_reducible apply Kept.foldl ?_ ?_; intro x a; (try simp only []))
    | simp only [mk_kept_iff]
    | split
theorem State_setIft_kept {s : State} {i : Nat} {x : Option IftEnt} : Kept s (State.setIft s i x) := by
  unfold State.setIft
  (try simp only [])
  repeat' first
    | with_reducible apply Kept.ite ?_ ?_
    | with_reducible exact Kept.refl
    | (with_reducible apply Kept.foldl ?_ ?_; intro x a; (try simp only []))
    | simp only [mk_kept_iff]
    | split
theorem qeEnd_kept {s : State} {i : Nat} {status : Nat} {result : Word32} : Kept s (qeEnd s i status result) := by
  unfold qeEnd
  (try simp only [])
  repeat' first
    | with_reducible apply Kept.ite ?_ ?_
    | with_reducible exact Kept.refl
    | with_reducible apply Kept.trans ?_ State_setIft_kept
    | (with_reducible apply Kept.foldl ?_ ?_; intro x a; (try simp only []))
    | simp only [mk_kept_iff]
    | split
theorem spEnterFault_kept {s : State} {n : Fin 8} {c : Fin 4} {cause : Nat} : Kept s (spEnterFault s n c cause) := by
  unfold spEnterFault
  (try simp only [])
  repeat' first
    | with_reducible apply Kept.ite ?_ ?_
    | with_reducible exact Kept.refl
    | with_reducible apply Kept.trans ?_ State_irqBit_kept
    | with_reducible apply Kept.trans ?_ State_setSc_kept
    | with_reducible apply Kept.trans ?_ qeEnd_kept
    | (with_reducible apply Kept.foldl ?_ ?_; intro x a; (try simp only []))
    | simp only [mk_kept_iff]
    | split
theorem spPrecise_kept {s : State} {n : Fin 8} {c : Fin 4} {cause : Nat} {detail : Nat} :
    Kept s (spPrecise s n c cause detail) := by
  unfold spPrecise
  (try simp only [])
  repeat' first
    | with_reducible apply Kept.ite ?_ ?_
    | with_reducible exact Kept.refl
    | with_reducible apply Kept.trans ?_ spEnterFault_kept
    | with_reducible apply Kept.trans ?_ State_setSc_kept
    | (with_reducible apply Kept.foldl ?_ ?_; intro x a; (try simp only []))
    | simp only [mk_kept_iff]
    | split
theorem spStart_kept {s : State} {n : Fin 8} {c : Fin 4} {pc : Addr} {cells : List Cell} {ift : Option Nat} :
    Kept s (spStart s n c pc cells ift) := by
  unfold spStart
  (try simp only [])
  repeat' first
    | with_reducible apply Kept.ite ?_ ?_
    | with_reducible exact Kept.refl
    | with_reducible apply Kept.trans ?_ State_setSc_kept
    | (with_reducible apply Kept.foldl ?_ ?_; intro x a; (try simp only []))
    | simp only [mk_kept_iff]
    | split
theorem spEnd_kept {s : State} {n : Fin 8} {c : Fin 4} {code : Nat} {result : Word32} : Kept s (spEnd s n c code result) := by
  unfold spEnd
  (try simp only [])
  repeat' first
    | with_reducible apply Kept.ite ?_ ?_
    | with_reducible exact Kept.refl
    | with_reducible apply Kept.trans ?_ State_setSc_kept
    | with_reducible apply Kept.trans ?_ qeEnd_kept
    | with_reducible apply Kept.trans ?_ State_irqBit_kept
    | (with_reducible apply Kept.foldl ?_ ?_; intro x a; (try simp only []))
    | simp only [mk_kept_iff]
    | split
theorem spStopDue_kept {s : State} {n : Fin 8} {c : Fin 4} : Kept s (spStopDue s n c) := by
  unfold spStopDue
  (try simp only [])
  repeat' first
    | with_reducible apply Kept.ite ?_ ?_
    | with_reducible exact Kept.refl
    | with_reducible apply Kept.trans ?_ spEnd_kept
    | (with_reducible apply Kept.foldl ?_ ?_; intro x a; (try simp only []))
    | simp only [mk_kept_iff]
    | split
theorem spStop_kept {s : State} {n : Fin 8} {c : Fin 4} : Kept s (spStop s n c) := by
  unfold spStop
  (try simp only [])
  repeat' first
    | with_reducible apply Kept.ite ?_ ?_
    | with_reducible exact Kept.refl
    | with_reducible apply Kept.trans ?_ State_setSc_kept
    | with_reducible apply Kept.trans ?_ spEnd_kept
    | (with_reducible apply Kept.foldl ?_ ?_; intro x a; (try simp only []))
    | simp only [mk_kept_iff]
    | split
theorem abortAll_kept {s : State} {n : Fin 8} {x2 : List (Fin 4)} : Kept s (abortAll s n x2) := by
  fun_induction abortAll s n x2 <;> (try simp only []) <;>
    repeat' first
      | with_reducible apply Kept.ite ?_ ?_
      | with_reducible exact Kept.refl
      | with_reducible apply Kept.trans ?_ qeEnd_kept
      | with_reducible apply Kept.trans ?_ (by assumption)
      | (with_reducible apply Kept.foldl ?_ ?_; intro x a; (try simp only []))
      | simp only [mk_kept_iff]
      | (split <;> (try simp only []))
theorem State_poke_kept {s : State} {a : Nat} {d : List Byte} : Kept s (State.poke s a d) := by
  unfold State.poke
  (try simp only [])
  repeat' first
    | with_reducible apply Kept.ite ?_ ?_
    | with_reducible exact Kept.refl
    | with_reducible apply Kept.trans ?_ setBytes_kept
    | (with_reducible apply Kept.foldl ?_ ?_; intro x a; (try simp only []))
    | simp only [mk_kept_iff]
    | split
theorem undoStores_kept {s : State} {x1 : List GStore} : Kept s (undoStores s x1) := by
  fun_induction undoStores s x1 <;> (try simp only []) <;>
    repeat' first
      | with_reducible apply Kept.ite ?_ ?_
      | with_reducible exact Kept.refl
      | with_reducible apply Kept.trans ?_ State_fresh_kept
      | with_reducible apply Kept.trans ?_ State_poke_kept
      | with_reducible refine Kept.viaSnd ‹State.fresh _ = (_, _)› State_fresh_kept ?_
      | with_reducible apply Kept.trans ?_ (by assumption)
      | (with_reducible apply Kept.foldl ?_ ?_; intro x a; (try simp only []))
      | simp only [mk_kept_iff]
      | (split <;> (try simp only []))
theorem undoRunning_kept {s : State} {n : Fin 8} : Kept s (undoRunning s n) := by
  unfold undoRunning
  (try simp only [])
  repeat' first
    | with_reducible apply Kept.ite ?_ ?_
    | with_reducible exact Kept.refl
    | with_reducible apply Kept.trans ?_ undoStores_kept
    | (with_reducible apply Kept.foldl ?_ ?_; intro x a; (try simp only []))
    | simp only [mk_kept_iff]
    | split
theorem spireReset_kept {s : State} {n : Fin 8} : Kept s (spireReset s n) := by
  unfold spireReset
  (try simp only [])
  repeat' first
    | with_reducible apply Kept.ite ?_ ?_
    | with_reducible exact Kept.refl
    | with_reducible apply Kept.trans ?_ abortAll_kept
    | with_reducible apply Kept.trans ?_ undoRunning_kept
    | with_reducible apply Kept.trans ?_ dropRegs_kept
    | with_reducible apply Kept.trans ?_ sideReset_kept
    | with_reducible apply Kept.trans ?_ State_setSpire_kept
    | (with_reducible apply Kept.foldl ?_ ?_; intro x a; (try simp only []))
    | simp only [mk_kept_iff]
    | split
theorem spctxWrite_kept {s : State} {n : Fin 8} {c : Fin 4} {sub : Nat} {v : Word32} : Kept s (spctxWrite s n c sub v).1 := by
  unfold spctxWrite
  (try simp only [])
  repeat' first
    | with_reducible apply Kept.ite ?_ ?_
    | with_reducible exact Kept.refl
    | with_reducible apply Kept.trans ?_ spStart_kept
    | with_reducible apply Kept.trans ?_ spStop_kept
    | with_reducible apply Kept.trans ?_ State_setSc_kept
    | (with_reducible apply Kept.foldl ?_ ?_; intro x a; (try simp only []))
    | simp only [mk_kept_iff]
    | split
theorem sprWrite_kept {s : State} {n : Fin 8} {off : Nat} {v : Word32} : KeptO s Prod.fst (sprWrite s n off v) := by
  unfold sprWrite
  (try simp only [])
  repeat' first
    | with_reducible exact KeptO.none
    | with_reducible apply KeptO.some
    | with_reducible apply KeptO.ite ?_ ?_
    | with_reducible apply KeptO.map
    | with_reducible apply Kept.ite ?_ ?_
    | with_reducible exact Kept.refl
    | with_reducible apply Kept.trans ?_ setReg_kept
    | with_reducible apply Kept.trans ?_ State_setSpire_kept
    | with_reducible apply Kept.trans ?_ spireReset_kept
    | with_reducible apply Kept.trans ?_ spctxWrite_kept
    | with_reducible refine Kept.viaFst ‹spctxWrite _ _ _ _ _ = (_, _)› spctxWrite_kept ?_
    | (with_reducible apply Kept.foldl ?_ ?_; intro x a; (try simp only []))
    | simp only [mk_kept_iff]
    | split
end Sys2Proof.Laws
end

