-- ==== Sys2Proof/Laws/KeepQueueCtl.lean ====
section
/-! SUPPORT. What the operations of Machine/QueueCtl.lean leave alone (Laws/Kept.lean). -/
namespace Sys2Proof.Laws
set_option linter.unusedTactic false
set_option linter.unreachableTactic false
open Sys2Proof.Machine
theorem ctxStore_kept {s : State} {q : Nat} {c : QCtx} : Kept s (ctxStore s q c) := by
  unfold ctxStore
  (try simp only [])
  repeat' first
    | with_reducible apply Kept.ite ?_ ?_
    | with_reducible exact Kept.refl
    | with_reducible apply Kept.trans ?_ setBytes_kept
    | (with_reducible apply Kept.foldl ?_ ?_; intro x a; (try simp only []))
    | simp only [mk_kept_iff]
    | split
theorem orphanCtx_kept {s : State} {i : Nat} {e : IftEnt} : Kept s (orphanCtx s i e) := by
  unfold orphanCtx
  (try simp only [])
  repeat' first
    | with_reducible apply Kept.ite ?_ ?_
    | with_reducible exact Kept.refl
    | with_reducible apply Kept.trans ?_ State_setSc_kept
    | (with_reducible apply Kept.foldl ?_ ?_; intro x a; (try simp only []))
    | simp only [mk_kept_iff]
    | split
theorem countOrphan_kept {s : State} : Kept s (countOrphan s) := by
  unfold countOrphan
  (try simp only [])
  repeat' first
    | with_reducible apply Kept.ite ?_ ?_
    | with_reducible exact Kept.refl
    | with_reducible apply Kept.trans ?_ State_irqBit_kept
    | with_reducible apply Kept.trans ?_ State_bumpReg_kept
    | (with_reducible apply Kept.foldl ?_ ?_; intro x a; (try simp only []))
    | simp only [mk_kept_iff]
    | split
theorem discardAll_kept {s : State} {x1 : List Nat} : Kept s (discardAll s x1) := by
  fun_induction discardAll s x1 <;> (try simp only []) <;>
    repeat' first
      | with_reducible apply Kept.ite ?_ ?_
      | with_reducible exact Kept.refl
      | with_reducible apply Kept.trans ?_ countOrphan_kept
      | with_reducible apply Kept.trans ?_ State_setIft_kept
      | with_reducible apply Kept.trans ?_ orphanCtx_kept
      | with_reducible apply Kept.trans ?_ (by assumption)
      | (with_reducible apply Kept.foldl ?_ ?_; intro x a; (try simp only []))
      | simp only [mk_kept_iff]
      | (split <;> (try simp only []))
theorem ctxerrRecord_kept {s : State} {q : Nat} : Kept s (ctxerrRecord s q) := by
  unfold ctxerrRecord
  (try simp only [])
  repeat' first
    | with_reducible apply Kept.ite ?_ ?_
    | with_reducible exact Kept.refl
    | with_reducible apply Kept.trans ?_ setReg_kept
    | (with_reducible apply Kept.foldl ?_ ?_; intro x a; (try simp only []))
    | simp only [mk_kept_iff]
    | split
theorem countWaits_kept {s : State} {x1 : List Wait} : Kept s (countWaits s x1) := by
  fun_induction countWaits s x1 <;> (try simp only []) <;>
    repeat' first
      | with_reducible apply Kept.ite ?_ ?_
      | with_reducible exact Kept.refl
      | with_reducible apply Kept.trans ?_ countOrphan_kept
      | with_reducible apply Kept.trans ?_ (by assumption)
      | (with_reducible apply Kept.foldl ?_ ?_; intro x a; (try simp only []))
      | simp only [mk_kept_iff]
      | (split <;> (try simp only []))
theorem ctxError_kept {s : State} {q : Nat} {irqb : Nat} : Kept s (ctxError s q irqb) := by
  unfold ctxError
  (try simp only [])
  repeat' first
    | with_reducible apply Kept.ite ?_ ?_
    | with_reducible exact Kept.refl
    | with_reducible apply Kept.trans ?_ ctxStore_kept
    | with_reducible apply Kept.trans ?_ State_irqBit_kept
    | with_reducible apply Kept.trans ?_ ctxerrRecord_kept
    | with_reducible apply Kept.trans ?_ countWaits_kept
    | with_reducible apply Kept.trans ?_ discardAll_kept
    | (with_reducible apply Kept.foldl ?_ ?_; intro x a; (try simp only []))
    | simp only [mk_kept_iff]
    | split
theorem ctxRead_kept {s : State} {q : Nat} : Kept s (ctxRead s q).1 := by
  unfold ctxRead
  (try simp only [])
  repeat' first
    | with_reducible apply Kept.ite ?_ ?_
    | with_reducible exact Kept.refl
    | with_reducible apply Kept.trans ?_ (readParts_kept ?_)
    | with_reducible apply Kept.trans ?_ sramPartRead_kept
    | with_reducible apply Kept.trans ?_ ctxError_kept
    | intro _ _ _
    | with_reducible refine Kept.viaFst ‹readParts _ _ _ = (_, _)› (readParts_kept ?_) ?_
    | with_reducible refine Kept.viaFst ‹sramPartRead _ _ _ _ = (_, _)› sramPartRead_kept ?_
    | (with_reducible apply Kept.foldl ?_ ?_; intro x a; (try simp only []))
    | simp only [mk_kept_iff]
    | (split <;> (try simp only []))
theorem ctxPartWrite_kept {u : Upset} {s : State} {a : Nat} {d : List Byte} : Kept s (ctxPartWrite u s a d).1 := by
  unfold ctxPartWrite
  (try simp only [])
  repeat' first
    | with_reducible apply Kept.ite ?_ ?_
    | with_reducible exact Kept.refl
    | with_reducible apply Kept.trans ?_ (readParts_kept ?_)
    | with_reducible apply Kept.trans ?_ sramPartRead_kept
    | with_reducible apply Kept.trans ?_ ctxError_kept
    | with_reducible apply Kept.trans ?_ memPartWrite_kept
    | intro _ _ _
    | with_reducible refine Kept.viaFst ‹readParts _ _ _ = (_, _)› (readParts_kept ?_) ?_
    | with_reducible refine Kept.viaFst ‹sramPartRead _ _ _ _ = (_, _)› sramPartRead_kept ?_
    | with_reducible refine Kept.viaFst ‹memPartWrite _ _ _ _ = (_, _)› memPartWrite_kept ?_
    | (with_reducible apply Kept.foldl ?_ ?_; intro x a; (try simp only []))
    | simp only [mk_kept_iff]
    | (split <;> (try simp only []))
theorem ctxWrite_kept {s : State} {a : Nat} {d : List Byte} {u : Upset} : Kept s (ctxWrite s a d u).1 := by
  unfold ctxWrite
  (try simp only [])
  repeat' first
    | with_reducible apply Kept.ite ?_ ?_
    | with_reducible exact Kept.refl
    | with_reducible apply Kept.trans ?_ (writeParts_kept ?_)
    | with_reducible apply Kept.trans ?_ ctxPartWrite_kept
    | intro _ _ _
    | (with_reducible apply Kept.foldl ?_ ?_; intro x a; (try simp only []))
    | simp only [mk_kept_iff]
    | split
theorem pinvAll_kept {s : State} {x1 : List (Fin 8)} : Kept s (pinvAll s x1) := by
  fun_induction pinvAll s x1 <;> (try simp only []) <;>
    repeat' first
      | with_reducible apply Kept.ite ?_ ?_
      | with_reducible exact Kept.refl
      | with_reducible apply Kept.trans ?_ State_setSpire_kept
      | with_reducible apply Kept.trans ?_ (by assumption)
      | (with_reducible apply Kept.foldl ?_ ?_; intro x a; (try simp only []))
      | simp only [mk_kept_iff]
      | (split <;> (try simp only []))
theorem sptCommit_kept {s : State} {e : Nat} : Kept s (sptCommit s e) := by
  unfold sptCommit
  (try simp only [])
  repeat' first
    | with_reducible apply Kept.ite ?_ ?_
    | with_reducible exact Kept.refl
    | with_reducible apply Kept.trans ?_ pinvAll_kept
    | with_reducible apply Kept.trans ?_ setReg_kept
    | (with_reducible apply Kept.foldl ?_ ?_; intro x a; (try simp only []))
    | simp only [mk_kept_iff]
    | split
theorem sptWrite_kept {s : State} {e : Nat} {sub : Nat} {v : Word32} : KeptO s Prod.fst (sptWrite s e sub v) := by
  unfold sptWrite
  (try simp only [])
  repeat' first
    | with_reducible exact KeptO.none
    | with_reducible apply KeptO.some
    | with_reducible apply KeptO.ite ?_ ?_
    | with_reducible apply KeptO.map
    | with_reducible apply Kept.ite ?_ ?_
    | with_reducible exact Kept.refl
    | with_reducible apply Kept.trans ?_ sptCommit_kept
    | (with_reducible apply Kept.foldl ?_ ?_; intro x a; (try simp only []))
    | simp only [mk_kept_iff]
    | split
theorem tenantWrite_kept {s : State} {t : Nat} {v : Word32} : KeptO s Prod.fst (tenantWrite s t v) := by
  unfold tenantWrite
  (try simp only [])
  repeat' first
    | with_reducible exact KeptO.none
    | with_reducible apply KeptO.some
    | with_reducible apply KeptO.ite ?_ ?_
    | with_reducible apply KeptO.map
    | with_reducible apply Kept.ite ?_ ?_
    | with_reducible exact Kept.refl
    | (with_reducible apply Kept.foldl ?_ ?_; intro x a; (try simp only []))
    | simp only [mk_kept_iff]
    | split
theorem doorbell_kept {s : State} {id : Nat} {sq : Bool} {v : Nat} : Kept s (doorbell s id sq v).1 := by
  unfold doorbell
  (try simp only [])
  repeat' first
    | with_reducible apply Kept.ite ?_ ?_
    | with_reducible exact Kept.refl
    | with_reducible apply Kept.trans ?_ ctxRead_kept
    | with_reducible apply Kept.trans ?_ State_irqBit_kept
    | with_reducible apply Kept.trans ?_ ctxStore_kept
    | with_reducible refine Kept.viaFst ‹ctxRead _ _ = (_, _)› ctxRead_kept ?_
    | (with_reducible apply Kept.foldl ?_ ?_; intro x a; (try simp only []))
    | simp only [mk_kept_iff]
    | (split <;> (try simp only []))
theorem qstWrite_kept {s : State} {id : Nat} {n : Nat} {off : Nat} {v : Word32} : KeptO s Prod.fst (qstWrite s id n off v) := by
  unfold qstWrite
  (try simp only [])
  repeat' first
    | with_reducible exact KeptO.none
    | with_reducible apply KeptO.some
    | with_reducible apply KeptO.ite ?_ ?_
    | with_reducible apply KeptO.map
    | with_reducible exact sptWrite_kept
    | with_reducible exact tenantWrite_kept
    | with_reducible apply Kept.ite ?_ ?_
    | with_reducible exact Kept.refl
    | with_reducible apply Kept.trans ?_ doorbell_kept
    | with_reducible refine Kept.viaFst ‹doorbell _ _ _ _ = (_, _)› doorbell_kept ?_
    | with_reducible refine KeptO.via (f := Prod.fst) ‹sptWrite _ _ _ _ = some _› sptWrite_kept ?_
    | exact KeptO.via (f := Prod.fst) ‹sptWrite _ _ _ _ = some _› sptWrite_kept Kept.refl
    | with_reducible apply KeptO.getD sptWrite_kept
    | with_reducible refine KeptO.via (f := Prod.fst) ‹tenantWrite _ _ _ = some _› tenantWrite_kept ?_
    | exact KeptO.via (f := Prod.fst) ‹tenantWrite _ _ _ = some _› tenantWrite_kept Kept.refl
    | with_reducible apply KeptO.getD tenantWrite_kept
    | (with_reducible apply Kept.foldl ?_ ?_; intro x a; (try simp only []))
    | simp only [mk_kept_iff]
    | split
end Sys2Proof.Laws
end

