-- ==== Sys2Proof/Laws/KeepDma.lean ====
section
/-! SUPPORT. What the operations of Machine/Dma.lean leave alone (Laws/Kept.lean). -/
namespace Sys2Proof.Laws
set_option linter.unusedTactic false
set_option linter.unreachableTactic false
open Sys2Proof.Machine
theorem dmaReadRaw_kept {s : State} {a : Nat} {n : Nat} : Kept s (dmaReadRaw s a n).1 := by
  unfold dmaReadRaw
  (try simp only [])
  repeat' first
    | with_reducible apply Kept.ite ?_ ?_
    | with_reducible exact Kept.refl
    | with_reducible apply Kept.trans ?_ memRead_kept
    | (with_reducible apply Kept.foldl ?_ ?_; intro x a; (try simp only []))
    | simp only [mk_kept_iff]
    | split
theorem dmaWriteRaw_kept {s : State} {a : Nat} {d : List Byte} : Kept s (dmaWriteRaw s a d).1 := by
  unfold dmaWriteRaw
  (try simp only [])
  repeat' first
    | with_reducible apply Kept.ite ?_ ?_
    | with_reducible exact Kept.refl
    | with_reducible apply Kept.trans ?_ memWrite_kept
    | with_reducible apply Kept.trans ?_ ctxWrite_kept
    | (with_reducible apply Kept.foldl ?_ ?_; intro x a; (try simp only []))
    | simp only [mk_kept_iff]
    | split
theorem dmaRead_kept {s : State} {id : MasterId} {a : Nat} {n : Nat} : Kept s (dmaRead s id a n).1 := by
  unfold dmaRead
  (try simp only [])
  repeat' first
    | with_reducible apply Kept.ite ?_ ?_
    | with_reducible exact Kept.refl
    | with_reducible apply Kept.trans ?_ dmaReadRaw_kept
    | with_reducible apply Kept.trans ?_ State_berr_kept
    | with_reducible refine Kept.viaFst ‹dmaReadRaw _ _ _ = (_, _)› dmaReadRaw_kept ?_
    | (with_reducible apply Kept.foldl ?_ ?_; intro x a; (try simp only []))
    | simp only [mk_kept_iff]
    | (split <;> (try simp only []))
theorem dmaWrite_kept {s : State} {id : MasterId} {a : Nat} {d : List Byte} : Kept s (dmaWrite s id a d).1 := by
  unfold dmaWrite
  (try simp only [])
  repeat' first
    | with_reducible apply Kept.ite ?_ ?_
    | with_reducible exact Kept.refl
    | with_reducible apply Kept.trans ?_ dmaWriteRaw_kept
    | with_reducible apply Kept.trans ?_ State_berr_kept
    | with_reducible refine Kept.viaFst ‹dmaWriteRaw _ _ _ = (_, _)› dmaWriteRaw_kept ?_
    | (with_reducible apply Kept.foldl ?_ ?_; intro x a; (try simp only []))
    | simp only [mk_kept_iff]
    | (split <;> (try simp only []))
theorem dmaRing_kept {s : State} {id : MasterId} {ch : Nat} {bell : Nat} : Kept s (dmaRing s id ch bell) := by
  unfold dmaRing
  (try simp only [])
  repeat' first
    | with_reducible apply Kept.ite ?_ ?_
    | with_reducible exact Kept.refl
    | with_reducible apply Kept.trans ?_ mbRing_kept
    | with_reducible apply Kept.trans ?_ State_berr_kept
    | (with_reducible apply Kept.foldl ?_ ?_; intro x a; (try simp only []))
    | simp only [mk_kept_iff]
    | split
end Sys2Proof.Laws
end

