-- ==== Sys2Proof/Laws/KeepPowerSets.lean ====
section
/-! SUPPORT. What the operations of Machine/PowerSets.lean leave alone (Laws/Kept.lean). -/
namespace Sys2Proof.Laws
set_option linter.unusedTactic false
set_option linter.unreachableTactic false
open Sys2Proof.Machine
theorem State_setReady_kept {s : State} {k : Nat} {b : Bool} : Kept s (State.setReady s k b) := by
  unfold State.setReady
  (try simp only [])
  repeat' first
    | with_reducible apply Kept.ite ?_ ?_
    | with_reducible exact Kept.refl
    | with_reducible apply Kept.trans ?_ State_setRegF_kept
    | (with_reducible apply Kept.foldl ?_ ?_; intro x a; (try simp only []))
    | simp only [mk_kept_iff]
    | split
theorem enterSt_kept {s : State} {k : Nat} {v : Nat} : Kept s (enterSt s k v) := by
  unfold enterSt
  (try simp only [])
  repeat' first
    | with_reducible apply Kept.ite ?_ ?_
    | with_reducible exact Kept.refl
    | with_reducible apply Kept.trans ?_ State_irqBit_kept
    | with_reducible apply Kept.trans ?_ State_setRegF_kept
    | (with_reducible apply Kept.foldl ?_ ?_; intro x a; (try simp only []))
    | simp only [mk_kept_iff]
    | split
theorem spinDone_kept {s : State} {k : Nat} {up : Bool} {status : Nat} : Kept s (spinDone s k up status) := by
  unfold spinDone
  (try simp only [])
  repeat' first
    | with_reducible apply Kept.ite ?_ ?_
    | with_reducible exact Kept.refl
    | with_reducible apply Kept.trans ?_ qeEnd_kept
    | (with_reducible apply Kept.foldl ?_ ?_; intro x a; (try simp only []))
    | simp only [mk_kept_iff]
    | split
theorem powered_kept {s : State} {k : Nat} : Kept s (powered s k) := by
  unfold powered
  (try simp only [])
  repeat' first
    | with_reducible apply Kept.ite ?_ ?_
    | with_reducible exact Kept.refl
    | with_reducible apply Kept.trans ?_ State_setMstate_kept
    | with_reducible apply Kept.trans ?_ enterSt_kept
    | (with_reducible apply Kept.foldl ?_ ?_; intro x a; (try simp only []))
    | simp only [mk_kept_iff]
    | split
theorem spunUp_kept {s : State} {k : Nat} : Kept s (spunUp s k) := by
  unfold spunUp
  (try simp only [])
  repeat' first
    | with_reducible apply Kept.ite ?_ ?_
    | with_reducible exact Kept.refl
    | with_reducible apply Kept.trans ?_ spinDone_kept
    | with_reducible apply Kept.trans ?_ State_setReady_kept
    | with_reducible apply Kept.trans ?_ enterSt_kept
    | (with_reducible apply Kept.foldl ?_ ?_; intro x a; (try simp only []))
    | simp only [mk_kept_iff]
    | split
theorem stopped_kept {s : State} {k : Nat} : Kept s (stopped s k) := by
  unfold stopped
  (try simp only [])
  repeat' first
    | with_reducible apply Kept.ite ?_ ?_
    | with_reducible exact Kept.refl
    | with_reducible apply Kept.trans ?_ State_setPort_kept
    | with_reducible apply Kept.trans ?_ State_setMstate_kept
    | with_reducible apply Kept.trans ?_ State_setBay_kept
    | with_reducible apply Kept.trans ?_ spinDone_kept
    | with_reducible apply Kept.trans ?_ enterSt_kept
    | (with_reducible apply Kept.foldl ?_ ?_; intro x a; (try simp only []))
    | simp only [mk_kept_iff]
    | split
theorem progress_kept {s : State} {k : Nat} : Kept s (progress s k) := by
  unfold progress
  (try simp only [])
  repeat' first
    | with_reducible apply Kept.ite ?_ ?_
    | with_reducible exact Kept.refl
    | with_reducible apply Kept.trans ?_ stopped_kept
    | with_reducible apply Kept.trans ?_ spunUp_kept
    | with_reducible apply Kept.trans ?_ powered_kept
    | (with_reducible apply Kept.foldl ?_ ?_; intro x a; (try simp only []))
    | simp only [mk_kept_iff]
    | split
theorem progressOf_kept {s : State} {p : Nat} : Kept s (progressOf s p) := by
  unfold progressOf
  (try simp only [])
  repeat' first
    | with_reducible apply Kept.ite ?_ ?_
    | with_reducible exact Kept.refl
    | with_reducible apply Kept.trans ?_ progress_kept
    | (with_reducible apply Kept.foldl ?_ ?_; intro x a; (try simp only []))
    | simp only [mk_kept_iff]
    | split
theorem exclude_kept {s : State} {p : Nat} {reason : Nat} : Kept s (exclude s p reason) := by
  unfold exclude
  (try simp only [])
  repeat' first
    | with_reducible apply Kept.ite ?_ ?_
    | with_reducible exact Kept.refl
    | with_reducible apply Kept.trans ?_ unbind_kept
    | with_reducible apply Kept.trans ?_ progressOf_kept
    | with_reducible apply Kept.trans ?_ State_irqBit_kept
    | with_reducible apply Kept.trans ?_ State_setMstate_kept
    | with_reducible apply Kept.trans ?_ State_setExcl_kept
    | (with_reducible apply Kept.foldl ?_ ?_; intro x a; (try simp only []))
    | simp only [mk_kept_iff]
    | split
theorem dropOut_kept {s : State} {p : Nat} {reason : Nat} : Kept s (dropOut s p reason) := by
  unfold dropOut
  (try simp only [])
  repeat' first
    | with_reducible apply Kept.ite ?_ ?_
    | with_reducible exact Kept.refl
    | with_reducible apply Kept.trans ?_ exclude_kept
    | with_reducible apply Kept.trans ?_ State_irqBit_kept
    | with_reducible apply Kept.trans ?_ State_setRegF_kept
    | with_reducible apply Kept.trans ?_ State_setReady_kept
    | (with_reducible apply Kept.foldl ?_ ?_; intro x a; (try simp only []))
    | simp only [mk_kept_iff]
    | split
theorem rearm_kept {s : State} {k : Nat} : Kept s (rearm s k) := by
  unfold rearm
  (try simp only [])
  repeat' first
    | with_reducible apply Kept.ite ?_ ?_
    | with_reducible exact Kept.refl
    | with_reducible apply Kept.trans ?_ State_setRegF_kept
    | with_reducible apply Kept.trans ?_ State_setReady_kept
    | (with_reducible apply Kept.foldl ?_ ?_; intro x a; (try simp only []))
    | simp only [mk_kept_iff]
    | split
theorem spinRequest_kept {s : State} {k : Nat} {up : Bool} : Kept s (spinRequest s k up).1 := by
  unfold spinRequest
  (try simp only [])
  repeat' first
    | with_reducible apply Kept.ite ?_ ?_
    | with_reducible exact Kept.refl
    | with_reducible apply Kept.trans ?_ State_setPort_kept
    | with_reducible apply Kept.trans ?_ State_setMstate_kept
    | with_reducible apply Kept.trans ?_ State_setExcl_kept
    | with_reducible apply Kept.trans ?_ enterSt_kept
    | with_reducible apply Kept.trans ?_ progress_kept
    | with_reducible apply Kept.trans ?_ State_setRegF_kept
    | with_reducible apply Kept.trans ?_ State_setReady_kept
    | (with_reducible apply Kept.foldl ?_ ?_; intro x a; (try simp only []))
    | simp only [mk_kept_iff]
    | split
theorem bayPowerOn_kept {s : State} : Kept s (bayPowerOn s) := by
  unfold bayPowerOn
  (try simp only [])
  repeat' first
    | with_reducible apply Kept.ite ?_ ?_
    | with_reducible exact Kept.refl
    | with_reducible apply Kept.trans ?_ progressOf_kept
    | with_reducible apply Kept.trans ?_ State_setMstate_kept
    | with_reducible apply Kept.trans ?_ State_setBay_kept
    | (with_reducible apply Kept.foldl ?_ ?_; intro x a; (try simp only []))
    | simp only [mk_kept_iff]
    | split
theorem linkUpTimeout_kept {s : State} {p : Nat} : Kept s (linkUpTimeout s p) := by
  unfold linkUpTimeout
  (try simp only [])
  repeat' first
    | with_reducible apply Kept.ite ?_ ?_
    | with_reducible exact Kept.refl
    | with_reducible apply Kept.trans ?_ exclude_kept
    | (with_reducible apply Kept.foldl ?_ ?_; intro x a; (try simp only []))
    | simp only [mk_kept_iff]
    | split
theorem sputmo_kept {s : State} {p : Nat} : Kept s (sputmo s p) := by
  unfold sputmo
  (try simp only [])
  repeat' first
    | with_reducible apply Kept.ite ?_ ?_
    | with_reducible exact Kept.refl
    | with_reducible apply Kept.trans ?_ exclude_kept
    | (with_reducible apply Kept.foldl ?_ ?_; intro x a; (try simp only []))
    | simp only [mk_kept_iff]
    | split
theorem measUpdate_kept {s : State} : Kept s (measUpdate s) := by
  unfold measUpdate
  (try simp only [])
  repeat' first
    | with_reducible apply Kept.ite ?_ ?_
    | with_reducible exact Kept.refl
    | with_reducible apply Kept.trans ?_ State_setRegF_kept
    | (with_reducible apply Kept.foldl ?_ ?_; intro x a; (try simp only []))
    | simp only [mk_kept_iff]
    | split
theorem bindAt_kept {s : State} {p : Nat} {c : Nat} {k : Nat} {adds : List Nat} : Kept s (bindAt s p c k adds) := by
  unfold bindAt
  (try simp only [])
  repeat' first
    | with_reducible apply Kept.ite ?_ ?_
    | with_reducible exact Kept.refl
    | with_reducible apply Kept.trans ?_ armBcmp_kept
    | with_reducible apply Kept.trans ?_ State_setBcmpTarget_kept
    | with_reducible apply Kept.trans ?_ State_setMstate_kept
    | with_reducible apply Kept.trans ?_ State_setBind_kept
    | with_reducible apply Kept.trans ?_ State_setPort_kept
    | (with_reducible apply Kept.foldl ?_ ?_; intro x a; (try simp only []))
    | simp only [mk_kept_iff]
    | split
theorem admitAll_kept {s : State} {x1 : List Nat} : Kept s (admitAll s x1) := by
  fun_induction admitAll s x1 <;> (try simp only []) <;>
    repeat' first
      | with_reducible apply Kept.ite ?_ ?_
      | with_reducible exact Kept.refl
      | with_reducible apply Kept.trans ?_ State_irqBit_kept
      | with_reducible apply Kept.trans ?_ exclude_kept
      | with_reducible apply Kept.trans ?_ bindAt_kept
      | with_reducible apply Kept.trans ?_ (by assumption)
      | (with_reducible apply Kept.foldl ?_ ?_; intro x a; (try simp only []))
      | simp only [mk_kept_iff]
      | (split <;> (try simp only []))
theorem ringAdvance_kept {s : State} : Kept s (ringAdvance s) := by
  unfold ringAdvance
  (try simp only [])
  repeat' first
    | with_reducible apply Kept.ite ?_ ?_
    | with_reducible exact Kept.refl
    | with_reducible apply Kept.trans ?_ State_setPort_kept
    | (with_reducible apply Kept.foldl ?_ ?_; intro x a; (try simp only []))
    | simp only [mk_kept_iff]
    | split
theorem admission_kept {s : State} : Kept s (admission s) := by
  unfold admission
  (try simp only [])
  repeat' first
    | with_reducible apply Kept.ite ?_ ?_
    | with_reducible exact Kept.refl
    | with_reducible apply Kept.trans ?_ ringAdvance_kept
    | with_reducible apply Kept.trans ?_ admitAll_kept
    | with_reducible apply Kept.trans ?_ measUpdate_kept
    | (with_reducible apply Kept.foldl ?_ ?_; intro x a; (try simp only []))
    | simp only [mk_kept_iff]
    | split
theorem pwrFire_kept {s : State} {c : Nat} {late : Bool} : Kept s (pwrFire s c late) := by
  unfold pwrFire
  (try simp only [])
  repeat' first
    | with_reducible apply Kept.ite ?_ ?_
    | with_reducible exact Kept.refl
    | with_reducible apply Kept.trans ?_ State_setMstate_kept
    | with_reducible apply Kept.trans ?_ unbind_kept
    | with_reducible apply Kept.trans ?_ State_setBind_kept
    | (with_reducible apply Kept.foldl ?_ ?_; intro x a; (try simp only []))
    | simp only [mk_kept_iff]
    | split
theorem fbctlWrite_kept {s : State} {v : Word32} : Kept s (fbctlWrite s v) := by
  unfold fbctlWrite
  (try simp only [])
  repeat' first
    | with_reducible apply Kept.ite ?_ ?_
    | with_reducible exact Kept.refl
    | with_reducible apply Kept.trans ?_ setReg_kept
    | with_reducible apply Kept.trans ?_ measUpdate_kept
    | (with_reducible apply Kept.foldl ?_ ?_; intro x a; (try simp only []))
    | simp only [mk_kept_iff]
    | split
theorem feedbackUpdate_kept {s : State} : Kept s (feedbackUpdate s) := by
  unfold feedbackUpdate
  (try simp only [])
  repeat' first
    | with_reducible apply Kept.ite ?_ ?_
    | with_reducible exact Kept.refl
    | with_reducible apply Kept.trans ?_ State_setRegF_kept
    | with_reducible apply Kept.trans ?_ measUpdate_kept
    | with_reducible apply Kept.trans ?_ requeueBound_kept
    | with_reducible apply Kept.trans ?_ State_irqBit_kept
    | (with_reducible apply Kept.foldl ?_ ?_; intro x a; (try simp only []))
    | simp only [mk_kept_iff]
    | split
theorem setShape_kept {old : State} {s : State} {k : Nat} : Kept s (setShape old s k) := by
  unfold setShape
  (try simp only [])
  repeat' first
    | with_reducible apply Kept.ite ?_ ?_
    | with_reducible exact Kept.refl
    | with_reducible apply Kept.trans ?_ State_setReady_kept
    | with_reducible apply Kept.trans ?_ setReg_kept
    | (with_reducible apply Kept.foldl ?_ ?_; intro x a; (try simp only []))
    | simp only [mk_kept_iff]
    | split
theorem pmapWrite_kept {s : State} {p : Nat} {v : Word32} : Kept s (pmapWrite s p v).1 := by
  unfold pmapWrite
  (try simp only [])
  repeat' first
    | with_reducible apply Kept.ite ?_ ?_
    | with_reducible exact Kept.refl
    | with_reducible apply Kept.trans ?_ setReg_kept
    | with_reducible apply Kept.trans ?_ setShape_kept
    | (with_reducible apply Kept.foldl ?_ ?_; intro x a; (try simp only []))
    | simp only [mk_kept_iff]
    | split
end Sys2Proof.Laws
end

