-- ==== Sys2Proof/Laws/KeepDrives.lean ====
section
/-! SUPPORT. What the operations of Machine/Drives.lean leave alone (Laws/Kept.lean). -/
namespace Sys2Proof.Laws
set_option linter.unusedTactic false
set_option linter.unreachableTactic false
open Sys2Proof.Machine
theorem slotDone_kept {s : State} {addr : Nat} {w6 : Nat} {w5 : Nat} {status : Nat} : Kept s (slotDone s addr w6 w5 status) := by
  unfold slotDone
  (try simp only [])
  repeat' first
    | with_reducible apply Kept.ite ?_ ?_
    | with_reducible exact Kept.refl
    | with_reducible apply Kept.trans ?_ dmaWrite_kept
    | with_reducible apply Kept.trans ?_ dmaRing_kept
    | with_reducible refine Kept.viaFst ‹dmaWrite _ _ _ _ = (_, _)› dmaWrite_kept ?_
    | (with_reducible apply Kept.foldl ?_ ?_; intro x a; (try simp only []))
    | simp only [mk_kept_iff]
    | (split <;> (try simp only []))
theorem fenceCount_kept {s : State} {good : Bool} : Kept s (fenceCount s good) := by
  unfold fenceCount
  (try simp only [])
  repeat' first
    | with_reducible apply Kept.ite ?_ ?_
    | with_reducible exact Kept.refl
    | with_reducible apply Kept.trans ?_ State_setRegF_kept
    | (with_reducible apply Kept.foldl ?_ ?_; intro x a; (try simp only []))
    | simp only [mk_kept_iff]
    | split
theorem fenceDone_kept {s : State} {p : Nat} {src : DSrc} {status : Nat} {held : Bool} :
    Kept s (fenceDone s p src status held) := by
  unfold fenceDone
  (try simp only [])
  repeat' first
    | with_reducible apply Kept.ite ?_ ?_
    | with_reducible exact Kept.refl
    | with_reducible apply Kept.trans ?_ fenceCount_kept
    | with_reducible apply Kept.trans ?_ progressOf_kept
    | with_reducible apply Kept.trans ?_ State_setPort_kept
    | with_reducible apply Kept.trans ?_ State_setRegF_kept
    | with_reducible apply Kept.trans ?_ State_setReady_kept
    | (with_reducible apply Kept.foldl ?_ ?_; intro x a; (try simp only []))
    | simp only [mk_kept_iff]
    | split
theorem turGood_kept {s : State} {p : Nat} : Kept s (turGood s p) := by
  unfold turGood
  (try simp only [])
  repeat' first
    | with_reducible apply Kept.ite ?_ ?_
    | with_reducible exact Kept.refl
    | with_reducible apply Kept.trans ?_ State_setMstate_kept
    | with_reducible apply Kept.trans ?_ progressOf_kept
    | with_reducible apply Kept.trans ?_ State_setPort_kept
    | (with_reducible apply Kept.foldl ?_ ?_; intro x a; (try simp only []))
    | simp only [mk_kept_iff]
    | split
theorem flushEnd_kept {s : State} {i : Nat} : Kept s (flushEnd s i) := by
  unfold flushEnd
  (try simp only [])
  repeat' first
    | with_reducible apply Kept.ite ?_ ?_
    | with_reducible exact Kept.refl
    | with_reducible apply Kept.trans ?_ qeEnd_kept
    | (with_reducible apply Kept.foldl ?_ ?_; intro x a; (try simp only []))
    | simp only [mk_kept_iff]
    | split
theorem reqDone_kept {s : State} {p : Nat} {r : DReq} {status : Nat} {w5 : Nat} {held : Bool} :
    Kept s (reqDone s p r status w5 held) := by
  unfold reqDone
  (try simp only [])
  repeat' first
    | with_reducible apply Kept.ite ?_ ?_
    | with_reducible exact Kept.refl
    | with_reducible apply Kept.trans ?_ slotDone_kept
    | with_reducible apply Kept.trans ?_ progressOf_kept
    | with_reducible apply Kept.trans ?_ turGood_kept
    | with_reducible apply Kept.trans ?_ State_setIft_kept
    | with_reducible apply Kept.trans ?_ flushEnd_kept
    | with_reducible apply Kept.trans ?_ fenceDone_kept
    | (with_reducible apply Kept.foldl ?_ ?_; intro x a; (try simp only []))
    | simp only [mk_kept_iff]
    | split
theorem endAll_kept {s : State} {p : Nat} {status : Nat} : Kept s (endAll s p status) := by
  unfold endAll
  (try simp only [])
  repeat' first
    | with_reducible apply Kept.ite ?_ ?_
    | with_reducible exact Kept.refl
    | with_reducible apply Kept.trans ?_ reqDone_kept
    | with_reducible apply Kept.trans ?_ State_setPort_kept
    | (with_reducible apply Kept.foldl ?_ ?_; intro x a; (try simp only []))
    | simp only [mk_kept_iff]
    | split
theorem dropOps_kept {s : State} {p : Nat} : Kept s (dropOps s p) := by
  unfold dropOps
  (try simp only [])
  repeat' first
    | with_reducible apply Kept.ite ?_ ?_
    | with_reducible exact Kept.refl
    | with_reducible apply Kept.trans ?_ progressOf_kept
    | with_reducible apply Kept.trans ?_ reqDone_kept
    | (with_reducible apply Kept.foldl ?_ ?_; intro x a; (try simp only []))
    | simp only [mk_kept_iff]
    | split
theorem upEdge_kept {old : State} {s : State} {p : Nat} : Kept s (upEdge old s p) := by
  unfold upEdge
  (try simp only [])
  repeat' first
    | with_reducible apply Kept.ite ?_ ?_
    | with_reducible exact Kept.refl
    | with_reducible apply Kept.trans ?_ State_setRegF_kept
    | with_reducible apply Kept.trans ?_ State_irqBit_kept
    | with_reducible apply Kept.trans ?_ progressOf_kept
    | with_reducible apply Kept.trans ?_ dropOps_kept
    | with_reducible apply Kept.trans ?_ dropOut_kept
    | (with_reducible apply Kept.foldl ?_ ?_; intro x a; (try simp only []))
    | simp only [mk_kept_iff]
    | split
theorem closeTags_kept {s : State} {p : Nat} : Kept s (closeTags s p) := by
  unfold closeTags
  (try simp only [])
  repeat' first
    | with_reducible apply Kept.ite ?_ ?_
    | with_reducible exact Kept.refl
    | with_reducible apply Kept.trans ?_ State_setPort_kept
    | (with_reducible apply Kept.foldl ?_ ?_; intro x a; (try simp only []))
    | simp only [mk_kept_iff]
    | split
theorem sataHold_kept {s : State} {p : Nat} : Kept s (sataHold s p) := by
  unfold sataHold
  (try simp only [])
  repeat' first
    | with_reducible apply Kept.ite ?_ ?_
    | with_reducible exact Kept.refl
    | with_reducible apply Kept.trans ?_ endAll_kept
    | with_reducible apply Kept.trans ?_ State_setPort_kept
    | with_reducible apply Kept.trans ?_ State_irqBit_kept
    | with_reducible apply Kept.trans ?_ State_setBay_kept
    | with_reducible apply Kept.trans ?_ exclude_kept
    | (with_reducible apply Kept.foldl ?_ ?_; intro x a; (try simp only []))
    | simp only [mk_kept_iff]
    | split
theorem sataUp_kept {s : State} {p : Nat} : Kept s (sataUp s p) := by
  unfold sataUp
  (try simp only [])
  repeat' first
    | with_reducible apply Kept.ite ?_ ?_
    | with_reducible exact Kept.refl
    | with_reducible apply Kept.trans ?_ State_setPort_kept
    | with_reducible apply Kept.trans ?_ sataHold_kept
    | (with_reducible apply Kept.foldl ?_ ?_; intro x a; (try simp only []))
    | simp only [mk_kept_iff]
    | split
theorem linkAction_kept {s : State} {p : Nat} {act : Nat} {code : Nat} : Kept s (linkAction s p act code).1 := by
  unfold linkAction
  (try simp only [])
  repeat' first
    | with_reducible apply Kept.ite ?_ ?_
    | with_reducible exact Kept.refl
    | with_reducible apply Kept.trans ?_ State_setPort_kept
    | with_reducible apply Kept.trans ?_ sataUp_kept
    | with_reducible apply Kept.trans ?_ endAll_kept
    | with_reducible apply Kept.trans ?_ closeTags_kept
    | with_reducible apply Kept.trans ?_ State_irqBit_kept
    | with_reducible apply Kept.trans ?_ State_setRegF_kept
    | (with_reducible apply Kept.foldl ?_ ?_; intro x a; (try simp only []))
    | simp only [mk_kept_iff]
    | split
theorem linkTake_kept {s : State} {p : Nat} {e : Nat} : Kept s (linkTake s p e).1 := by
  unfold linkTake
  (try simp only [])
  repeat' first
    | with_reducible apply Kept.ite ?_ ?_
    | with_reducible exact Kept.refl
    | with_reducible apply Kept.trans ?_ State_setRegF_kept
    | with_reducible apply Kept.trans ?_ State_setPort_kept
    | with_reducible apply Kept.trans ?_ linkAction_kept
    | (with_reducible apply Kept.foldl ?_ ?_; intro x a; (try simp only []))
    | simp only [mk_kept_iff]
    | split
theorem linkRun_kept {s : State} {p : Nat} {x2 : Nat} {x3 : Nat} : Kept s (linkRun s p x2 x3) := by
  fun_induction linkRun s p x2 x3 <;> (try simp only []) <;>
    repeat' first
      | with_reducible apply Kept.ite ?_ ?_
      | with_reducible exact Kept.refl
      | with_reducible apply Kept.trans ?_ State_setRegF_kept
      | with_reducible apply Kept.trans ?_ linkTake_kept
      | with_reducible refine Kept.viaFst ‹linkTake _ _ _ = (_, _)› linkTake_kept ?_
      | with_reducible apply Kept.trans ?_ (by assumption)
      | (with_reducible apply Kept.foldl ?_ ?_; intro x a; (try simp only []))
      | simp only [mk_kept_iff]
      | (split <;> (try simp only []))
theorem linkEvent_kept {s : State} {p : Nat} {ev : Nat} : Kept s (linkEvent s p ev) := by
  unfold linkEvent
  (try simp only [])
  repeat' first
    | with_reducible apply Kept.ite ?_ ?_
    | with_reducible exact Kept.refl
    | with_reducible apply Kept.trans ?_ State_setPort_kept
    | with_reducible apply Kept.trans ?_ upEdge_kept
    | with_reducible apply Kept.trans ?_ linkRun_kept
    | (with_reducible apply Kept.foldl ?_ ?_; intro x a; (try simp only []))
    | simp only [mk_kept_iff]
    | split
theorem portDisable_kept {s : State} {p : Nat} : Kept s (portDisable s p) := by
  unfold portDisable
  (try simp only [])
  repeat' first
    | with_reducible apply Kept.ite ?_ ?_
    | with_reducible exact Kept.refl
    | with_reducible apply Kept.trans ?_ endAll_kept
    | with_reducible apply Kept.trans ?_ linkEvent_kept
    | with_reducible apply Kept.trans ?_ dropOut_kept
    | (with_reducible apply Kept.foldl ?_ ?_; intro x a; (try simp only []))
    | simp only [mk_kept_iff]
    | split
theorem portReset_kept {s : State} {p : Nat} : Kept s (portReset s p) := by
  unfold portReset
  (try simp only [])
  repeat' first
    | with_reducible apply Kept.ite ?_ ?_
    | with_reducible exact Kept.refl
    | with_reducible apply Kept.trans ?_ linkEvent_kept
    | with_reducible apply Kept.trans ?_ endAll_kept
    | (with_reducible apply Kept.foldl ?_ ?_; intro x a; (try simp only []))
    | simp only [mk_kept_iff]
    | split
theorem portCtlWrite_kept {s : State} {p : Nat} {v : Word32} : Kept s (portCtlWrite s p v) := by
  unfold portCtlWrite
  (try simp only [])
  repeat' first
    | with_reducible apply Kept.ite ?_ ?_
    | with_reducible exact Kept.refl
    | with_reducible apply Kept.trans ?_ portReset_kept
    | with_reducible apply Kept.trans ?_ setReg_kept
    | with_reducible apply Kept.trans ?_ linkEvent_kept
    | with_reducible apply Kept.trans ?_ portDisable_kept
    | (with_reducible apply Kept.foldl ?_ ?_; intro x a; (try simp only []))
    | simp only [mk_kept_iff]
    | split
theorem portLasting_kept {s : State} {p : Nat} : Kept s (portLasting s p) := by
  unfold portLasting
  (try simp only [])
  repeat' first
    | with_reducible apply Kept.ite ?_ ?_
    | with_reducible exact Kept.refl
    | with_reducible apply Kept.trans ?_ portReset_kept
    | with_reducible apply Kept.trans ?_ dropOut_kept
    | with_reducible apply Kept.trans ?_ exclude_kept
    | with_reducible apply Kept.trans ?_ linkEvent_kept
    | with_reducible apply Kept.trans ?_ setReg_kept
    | with_reducible apply Kept.trans ?_ endAll_kept
    | (with_reducible apply Kept.foldl ?_ ?_; intro x a; (try simp only []))
    | simp only [mk_kept_iff]
    | split
theorem linkWrite_kept {s : State} {g : Nat} {e : Nat} {hi : Bool} {v : Word32} : Kept s (linkWrite s g e hi v).1 := by
  unfold linkWrite
  (try simp only [])
  repeat' first
    | with_reducible apply Kept.ite ?_ ?_
    | with_reducible exact Kept.refl
    | (with_reducible apply Kept.foldl ?_ ?_; intro x a; (try simp only []))
    | simp only [mk_kept_iff]
    | split
theorem linkFill_kept {s : State} {g : Nat} {prog : List Nat} : Kept s (linkFill s g prog) := by
  unfold linkFill
  (try simp only [])
  repeat' first
    | with_reducible apply Kept.ite ?_ ?_
    | with_reducible exact Kept.refl
    | (with_reducible apply Kept.foldl ?_ ?_; intro x a; (try simp only []))
    | simp only [mk_kept_iff]
    | split
theorem rbaseWrite_kept {s : State} {page : Nat} {off : Nat} {v : Word32} : Kept s (rbaseWrite s page off v).1 := by
  unfold rbaseWrite
  (try simp only [])
  repeat' first
    | with_reducible apply Kept.ite ?_ ?_
    | with_reducible exact Kept.refl
    | with_reducible apply Kept.trans ?_ setReg_kept
    | (with_reducible apply Kept.foldl ?_ ?_; intro x a; (try simp only []))
    | simp only [mk_kept_iff]
    | split
theorem driveOut_kept {s : State} {p : Nat} {cdb : List Byte} {data : List Byte} : Kept s (driveOut s p cdb data) := by
  unfold driveOut
  (try simp only [])
  repeat' first
    | with_reducible apply Kept.ite ?_ ?_
    | with_reducible exact Kept.refl
    | (with_reducible apply Kept.foldl ?_ ?_; intro x a; (try simp only []))
    | simp only [mk_kept_iff]
    | split
theorem sendReq_kept {s : State} {p : Nat} {r : DReq} {data : List Byte} : Kept s (sendReq s p r data) := by
  unfold sendReq
  (try simp only [])
  repeat' first
    | with_reducible apply Kept.ite ?_ ?_
    | with_reducible exact Kept.refl
    | with_reducible apply Kept.trans ?_ driveOut_kept
    | with_reducible apply Kept.trans ?_ State_setPort_kept
    | (with_reducible apply Kept.foldl ?_ ?_; intro x a; (try simp only []))
    | simp only [mk_kept_iff]
    | split
theorem slotStart_kept {s : State} {r : Nat} {addr : Nat} {b : List Byte} : Kept s (slotStart s r addr b) := by
  unfold slotStart
  (try simp only [])
  repeat' first
    | with_reducible apply Kept.ite ?_ ?_
    | with_reducible exact Kept.refl
    | with_reducible apply Kept.trans ?_ dmaWrite_kept
    | with_reducible apply Kept.trans ?_ setReg_kept
    | (with_reducible apply Kept.foldl ?_ ?_; intro x a; (try simp only []))
    | simp only [mk_kept_iff]
    | split
theorem drbStart_kept {s : State} {r : Nat} {addr : Nat} {b : List Byte} : Kept s (drbStart s r addr b) := by
  unfold drbStart
  (try simp only [])
  repeat' first
    | with_reducible apply Kept.ite ?_ ?_
    | with_reducible exact Kept.refl
    | with_reducible apply Kept.trans ?_ slotDone_kept
    | with_reducible apply Kept.trans ?_ slotStart_kept
    | with_reducible apply Kept.trans ?_ dmaRead_kept
    | with_reducible apply Kept.trans ?_ sendReq_kept
    | with_reducible refine Kept.viaFst ‹dmaRead _ _ _ _ = (_, _)› dmaRead_kept ?_
    | (with_reducible apply Kept.foldl ?_ ?_; intro x a; (try simp only []))
    | simp only [mk_kept_iff]
    | (split <;> (try simp only []))
theorem ringServe_kept {s : State} {r : Nat} {op : Nat} {sa : Option Nat} : Kept s (ringServe s r op sa) := by
  unfold ringServe
  (try simp only [])
  repeat' first
    | with_reducible apply Kept.ite ?_ ?_
    | with_reducible exact Kept.refl
    | with_reducible apply Kept.trans ?_ dmaRead_kept
    | with_reducible apply Kept.trans ?_ drbStart_kept
    | with_reducible refine Kept.viaFst ‹dmaRead _ _ _ _ = (_, _)› dmaRead_kept ?_
    | (with_reducible apply Kept.foldl ?_ ?_; intro x a; (try simp only []))
    | simp only [mk_kept_iff]
    | (split <;> (try simp only []))
theorem opSend_kept {s : State} {want : Nat → DSrc → Bool} : Kept s (opSend s want) := by
  unfold opSend
  (try simp only [])
  repeat' first
    | with_reducible apply Kept.ite ?_ ?_
    | with_reducible exact Kept.refl
    | with_reducible apply Kept.trans ?_ State_setMstate_kept
    | with_reducible apply Kept.trans ?_ sendReq_kept
    | (with_reducible apply Kept.foldl ?_ ?_; intro x a; (try simp only []))
    | simp only [mk_kept_iff]
    | split
theorem startStop_kept {s : State} : Kept s (startStop s) := by
  unfold startStop
  (try simp only [])
  repeat' first
    | with_reducible apply Kept.ite ?_ ?_
    | with_reducible exact Kept.refl
    | with_reducible apply Kept.trans ?_ opSend_kept
    | (with_reducible apply Kept.foldl ?_ ?_; intro x a; (try simp only []))
    | simp only [mk_kept_iff]
    | split
theorem pwrProbe_kept {s : State} {p : Nat} {op : Nat} : Kept s (pwrProbe s p op) := by
  unfold pwrProbe
  (try simp only [])
  repeat' first
    | with_reducible apply Kept.ite ?_ ?_
    | with_reducible exact Kept.refl
    | with_reducible apply Kept.trans ?_ sendReq_kept
    | (with_reducible apply Kept.foldl ?_ ?_; intro x a; (try simp only []))
    | simp only [mk_kept_iff]
    | split
theorem fenceStart_kept {s : State} {op : DSrc} : Kept s (fenceStart s op) := by
  unfold fenceStart
  (try simp only [])
  repeat' first
    | with_reducible apply Kept.ite ?_ ?_
    | with_reducible exact Kept.refl
    | with_reducible apply Kept.trans ?_ State_setRegF_kept
    | (with_reducible apply Kept.foldl ?_ ?_; intro x a; (try simp only []))
    | simp only [mk_kept_iff]
    | split
theorem fctlWrite_kept {s : State} {v : Word32} : Kept s (fctlWrite s v) := by
  unfold fctlWrite
  (try simp only [])
  repeat' first
    | with_reducible apply Kept.ite ?_ ?_
    | with_reducible exact Kept.refl
    | with_reducible apply Kept.trans ?_ setReg_kept
    | with_reducible apply Kept.trans ?_ fenceStart_kept
    | (with_reducible apply Kept.foldl ?_ ?_; intro x a; (try simp only []))
    | simp only [mk_kept_iff]
    | split
theorem driveAnswer_kept {s : State} {p : Nat} {k : Nat} {a : Answer} : Kept s (driveAnswer s p k a) := by
  unfold driveAnswer
  (try simp only [])
  repeat' first
    | with_reducible apply Kept.ite ?_ ?_
    | with_reducible exact Kept.refl
    | with_reducible apply Kept.trans ?_ State_setPort_kept
    | with_reducible apply Kept.trans ?_ reqDone_kept
    | with_reducible apply Kept.trans ?_ dmaWrite_kept
    | with_reducible refine Kept.viaFst ‹dmaWrite _ _ _ _ = (_, _)› dmaWrite_kept ?_
    | (with_reducible apply Kept.foldl ?_ ?_; intro x a; (try simp only []))
    | simp only [mk_kept_iff]
    | (split <;> (try simp only []))
theorem driveTimeout_kept {s : State} {p : Nat} {k : Nat} : Kept s (driveTimeout s p k) := by
  unfold driveTimeout
  (try simp only [])
  repeat' first
    | with_reducible apply Kept.ite ?_ ?_
    | with_reducible exact Kept.refl
    | with_reducible apply Kept.trans ?_ reqDone_kept
    | with_reducible apply Kept.trans ?_ State_setPort_kept
    | (with_reducible apply Kept.foldl ?_ ?_; intro x a; (try simp only []))
    | simp only [mk_kept_iff]
    | split
theorem presenceChange_kept {s : State} {p : Nat} {seated : Bool} : Kept s (presenceChange s p seated) := by
  unfold presenceChange
  (try simp only [])
  repeat' first
    | with_reducible apply Kept.ite ?_ ?_
    | with_reducible exact Kept.refl
    | with_reducible apply Kept.trans ?_ State_irqBit_kept
    | with_reducible apply Kept.trans ?_ State_setRegF_kept
    | with_reducible apply Kept.trans ?_ State_setPort_kept
    | with_reducible apply Kept.trans ?_ State_setBay_kept
    | with_reducible apply Kept.trans ?_ exclude_kept
    | with_reducible apply Kept.trans ?_ State_setReady_kept
    | with_reducible apply Kept.trans ?_ progressOf_kept
    | (with_reducible apply Kept.foldl ?_ ?_; intro x a; (try simp only []))
    | simp only [mk_kept_iff]
    | split
theorem bayOff_kept {s : State} {p : Nat} : Kept s (bayOff s p) := by
  unfold bayOff
  (try simp only [])
  repeat' first
    | with_reducible apply Kept.ite ?_ ?_
    | with_reducible exact Kept.refl
    | with_reducible apply Kept.trans ?_ linkEvent_kept
    | (with_reducible apply Kept.foldl ?_ ?_; intro x a; (try simp only []))
    | simp only [mk_kept_iff]
    | split
theorem invalidDword_kept {s : State} {p : Nat} : Kept s (invalidDword s p) := by
  unfold invalidDword
  (try simp only [])
  repeat' first
    | with_reducible apply Kept.ite ?_ ?_
    | with_reducible exact Kept.refl
    | with_reducible apply Kept.trans ?_ State_setPort_kept
    | with_reducible apply Kept.trans ?_ State_correctable_kept
    | with_reducible apply Kept.trans ?_ State_setRegF_kept
    | (with_reducible apply Kept.foldl ?_ ?_; intro x a; (try simp only []))
    | simp only [mk_kept_iff]
    | split
theorem errRate_kept {s : State} {p : Nat} : Kept s (errRate s p) := by
  unfold errRate
  (try simp only [])
  repeat' first
    | with_reducible apply Kept.ite ?_ ?_
    | with_reducible exact Kept.refl
    | with_reducible apply Kept.trans ?_ linkEvent_kept
    | (with_reducible apply Kept.foldl ?_ ?_; intro x a; (try simp only []))
    | simp only [mk_kept_iff]
    | split
theorem sasgOff_kept {s : State} {g : Nat} : Kept s (sasgOff s g) := by
  unfold sasgOff
  (try simp only [])
  repeat' first
    | with_reducible apply Kept.ite ?_ ?_
    | with_reducible exact Kept.refl
    | with_reducible apply Kept.trans ?_ State_setDom_kept
    | with_reducible apply Kept.trans ?_ endAll_kept
    | with_reducible apply Kept.trans ?_ upEdge_kept
    | with_reducible apply Kept.trans ?_ State_setPort_kept
    | (with_reducible apply Kept.foldl ?_ ?_; intro x a; (try simp only []))
    | simp only [mk_kept_iff]
    | split
theorem saspWrite_kept {s : State} {locked : Bool} {n : Nat} {off : Nat} {v : Word32} :
    KeptO s Prod.fst (saspWrite s locked n off v) := by
  unfold saspWrite
  (try simp only [])
  repeat' first
    | with_reducible exact KeptO.none
    | with_reducible apply KeptO.some
    | with_reducible apply KeptO.ite ?_ ?_
    | with_reducible apply KeptO.map
    | with_reducible apply Kept.ite ?_ ?_
    | with_reducible exact Kept.refl
    | with_reducible apply Kept.trans ?_ portCtlWrite_kept
    | with_reducible apply Kept.trans ?_ linkWrite_kept
    | with_reducible apply Kept.trans ?_ fctlWrite_kept
    | with_reducible apply Kept.trans ?_ rbaseWrite_kept
    | with_reducible refine Kept.viaFst ‹linkWrite _ _ _ _ _ = (_, _)› linkWrite_kept ?_
    | with_reducible refine Kept.viaFst ‹rbaseWrite _ _ _ _ = (_, _)› rbaseWrite_kept ?_
    | (with_reducible apply Kept.foldl ?_ ?_; intro x a; (try simp only []))
    | simp only [mk_kept_iff]
    | split
end Sys2Proof.Laws
end

