-- ==== Sys2Proof/Laws/KeepPairPort.lean ====
section
/-! SUPPORT. What the operations of Machine/PairPort.lean leave alone (Laws/Kept.lean). -/
namespace Sys2Proof.Laws
set_option linter.unusedTactic false
set_option linter.unreachableTactic false
open Sys2Proof.Machine
theorem State_setPport_kept {s : State} {n : Nat} {x : PPort} : Kept s (State.setPport s n x) := by
  unfold State.setPport
  (try simp only [])
  repeat' first
    | with_reducible apply Kept.ite ?_ ?_
    | with_reducible exact Kept.refl
    | (with_reducible apply Kept.foldl ?_ ?_; intro x a; (try simp only []))
    | simp only [mk_kept_iff]
    | split
theorem msgFlits_kept {s : State} {n : Nat} {l : List (Nat × List Byte)} : Kept s (msgFlits s n l) := by
  unfold msgFlits
  (try simp only [])
  repeat' first
    | with_reducible apply Kept.ite ?_ ?_
    | with_reducible exact Kept.refl
    | (with_reducible apply Kept.foldl ?_ ?_; intro x a; (try simp only []))
    | simp only [mk_kept_iff]
    | split
theorem pairSend_kept {s : State} {n : Nat} {type : Nat} {tag : Nat} {payload : List Byte} :
    Kept s (pairSend s n type tag payload) := by
  unfold pairSend
  (try simp only [])
  repeat' first
    | with_reducible apply Kept.ite ?_ ?_
    | with_reducible exact Kept.refl
    | with_reducible apply Kept.trans ?_ State_setPport_kept
    | with_reducible apply Kept.trans ?_ msgFlits_kept
    | (with_reducible apply Kept.foldl ?_ ?_; intro x a; (try simp only []))
    | simp only [mk_kept_iff]
    | split
theorem ctrlSend_kept {s : State} {n : Nat} {nak : Bool} : Kept s (ctrlSend s n nak) := by
  unfold ctrlSend
  (try simp only [])
  repeat' first
    | with_reducible apply Kept.ite ?_ ?_
    | with_reducible exact Kept.refl
    | (with_reducible apply Kept.foldl ?_ ?_; intro x a; (try simp only []))
    | simp only [mk_kept_iff]
    | split
theorem idleSend_kept {s : State} {n : Nat} : Kept s (idleSend s n) := by
  unfold idleSend
  (try simp only [])
  repeat' first
    | with_reducible apply Kept.ite ?_ ?_
    | with_reducible exact Kept.refl
    | (with_reducible apply Kept.foldl ?_ ?_; intro x a; (try simp only []))
    | simp only [mk_kept_iff]
    | split
theorem flitResend_kept {s : State} {n : Nat} : Kept s (flitResend s n) := by
  unfold flitResend
  (try simp only [])
  repeat' first
    | with_reducible apply Kept.ite ?_ ?_
    | with_reducible exact Kept.refl
    | with_reducible apply Kept.trans ?_ msgFlits_kept
    | (with_reducible apply Kept.foldl ?_ ?_; intro x a; (try simp only []))
    | simp only [mk_kept_iff]
    | split
theorem flitAck_kept {s : State} {n : Nat} {ack : Nat} : Kept s (flitAck s n ack) := by
  unfold flitAck
  (try simp only [])
  repeat' first
    | with_reducible apply Kept.ite ?_ ?_
    | with_reducible exact Kept.refl
    | with_reducible apply Kept.trans ?_ msgFlits_kept
    | with_reducible apply Kept.trans ?_ State_setPport_kept
    | (with_reducible apply Kept.foldl ?_ ?_; intro x a; (try simp only []))
    | simp only [mk_kept_iff]
    | split
theorem flitGap_kept {s : State} {n : Nat} {q : Option Nat} : Kept s (flitGap s n q) := by
  unfold flitGap
  (try simp only [])
  repeat' first
    | with_reducible apply Kept.ite ?_ ?_
    | with_reducible exact Kept.refl
    | with_reducible apply Kept.trans ?_ State_setPport_kept
    | with_reducible apply Kept.trans ?_ ctrlSend_kept
    | (with_reducible apply Kept.foldl ?_ ?_; intro x a; (try simp only []))
    | simp only [mk_kept_iff]
    | split
theorem flitTake_kept {s : State} {n : Nat} {payload : List Byte} : Kept s (flitTake s n payload) := by
  unfold flitTake
  (try simp only [])
  repeat' first
    | with_reducible apply Kept.ite ?_ ?_
    | with_reducible exact Kept.refl
    | with_reducible apply Kept.trans ?_ ctrlSend_kept
    | with_reducible apply Kept.trans ?_ State_setPport_kept
    | (with_reducible apply Kept.foldl ?_ ?_; intro x a; (try simp only []))
    | simp only [mk_kept_iff]
    | split
theorem flitRx_kept {s : State} {n : Nat} {f : List Byte} : Kept s (flitRx s n f) := by
  unfold flitRx
  (try simp only [])
  repeat' first
    | with_reducible apply Kept.ite ?_ ?_
    | with_reducible exact Kept.refl
    | with_reducible apply Kept.trans ?_ flitGap_kept
    | with_reducible apply Kept.trans ?_ State_correctable_kept
    | with_reducible apply Kept.trans ?_ State_irqBit_kept
    | with_reducible apply Kept.trans ?_ State_setRegF_kept
    | with_reducible apply Kept.trans ?_ flitTake_kept
    | with_reducible apply Kept.trans ?_ flitAck_kept
    | with_reducible apply Kept.trans ?_ flitResend_kept
    | (with_reducible apply Kept.foldl ?_ ?_; intro x a; (try simp only []))
    | simp only [mk_kept_iff]
    | split
theorem inboxTake_kept {s : State} {n : Nat} {type : Nat} : KeptO s Prod.snd (inboxTake s n type) := by
  unfold inboxTake
  (try simp only [])
  repeat' first
    | with_reducible exact KeptO.none
    | with_reducible apply KeptO.some
    | with_reducible apply KeptO.ite ?_ ?_
    | with_reducible apply KeptO.map
    | with_reducible apply Kept.ite ?_ ?_
    | with_reducible exact Kept.refl
    | with_reducible apply Kept.trans ?_ State_setPport_kept
    | (with_reducible apply Kept.foldl ?_ ?_; intro x a; (try simp only []))
    | simp only [mk_kept_iff]
    | split
end Sys2Proof.Laws
end

