-- ==== Sys2Proof/Laws/KeepQueueEngine.lean ====
section
/-! SUPPORT. What the operations of Machine/QueueEngine.lean leave alone (Laws/Kept.lean). -/
namespace Sys2Proof.Laws
set_option linter.unusedTactic false
set_option linter.unreachableTactic false
open Sys2Proof.Machine
theorem sendDelta_kept {s : State} {rec : List Byte} : Kept s (sendDelta s rec) := by
  unfold sendDelta
  (try simp only [])
  repeat' first
    | with_reducible apply Kept.ite ?_ ?_
    | with_reducible exact Kept.refl
    | with_reducible apply Kept.trans ?_ pairSend_kept
    | (with_reducible apply Kept.foldl ?_ ?_; intro x a; (try simp only []))
    | simp only [mk_kept_iff]
    | split
theorem shardOut_kept {s : State} {x : ShardOut} : Kept s (shardOut s x).1 := by
  unfold shardOut
  (try simp only [])
  repeat' first
    | with_reducible apply Kept.ite ?_ ?_
    | with_reducible exact Kept.refl
    | with_reducible apply Kept.trans ?_ dmaRead_kept
    | with_reducible apply Kept.trans ?_ driveOut_kept
    | with_reducible refine Kept.viaFst ‹dmaRead _ _ _ _ = (_, _)› dmaRead_kept ?_
    | (with_reducible apply Kept.foldl ?_ ?_; intro x a; (try simp only []))
    | simp only [mk_kept_iff]
    | (split <;> (try simp only []))
theorem shardOuts_kept {l : List ShardOut} {a : State × Bool} :
    Kept a.1 (l.foldl (fun (a : State × Bool) w => let b := shardOut a.1 w; (b.1, a.2 && b.2)) a).1 := by
  induction l generalizing a with
  | nil => exact Kept.refl
  | cons w l ih => exact Kept.trans shardOut_kept (ih (a := ((shardOut a.1 w).1, a.2 && (shardOut a.1 w).2)))
theorem putRest_kept {s : State} {x : PutRest} : Kept s (putRest s x) := by
  have h := shardOuts_kept (l := x.writes) (a := (s, true))
  unfold putRest
  dsimp only
  refine Kept.ite Kept.refl (Kept.ite ?_ h)
  split
  · exact h.trans memWrite_kept
  · exact h
theorem qeWrite_kept {s : State} {a : Nat} {d : List Byte} : Kept s (qeWrite s a d).1 := by
  unfold qeWrite
  (try simp only [])
  repeat' first
    | with_reducible apply Kept.ite ?_ ?_
    | with_reducible exact Kept.refl
    | with_reducible apply Kept.trans ?_ dmaWrite_kept
    | with_reducible refine Kept.viaFst ‹dmaWrite _ _ _ _ = (_, _)› dmaWrite_kept ?_
    | (with_reducible apply Kept.foldl ?_ ?_; intro x a; (try simp only []))
    | simp only [mk_kept_iff]
    | (split <;> (try simp only []))
theorem freeCtx_kept {s : State} {i : Nat} {e : IftEnt} : Kept s (freeCtx s i e) := by
  unfold freeCtx
  (try simp only [])
  repeat' first
    | with_reducible apply Kept.ite ?_ ?_
    | with_reducible exact Kept.refl
    | with_reducible apply Kept.trans ?_ State_setSc_kept
    | (with_reducible apply Kept.foldl ?_ ?_; intro x a; (try simp only []))
    | simp only [mk_kept_iff]
    | split
theorem freeEntry_kept {s : State} {x1 : Option Nat} : Kept s (freeEntry s x1) := by
  unfold freeEntry
  (try simp only [])
  repeat' first
    | with_reducible apply Kept.ite ?_ ?_
    | with_reducible exact Kept.refl
    | with_reducible apply Kept.trans ?_ State_setIft_kept
    | with_reducible apply Kept.trans ?_ freeCtx_kept
    | (with_reducible apply Kept.foldl ?_ ?_; intro x a; (try simp only []))
    | simp only [mk_kept_iff]
    | split
theorem compFailed_kept {s : State} {q : Nat} {ift : Option Nat} : Kept s (compFailed s q ift) := by
  unfold compFailed
  (try simp only [])
  repeat' first
    | with_reducible apply Kept.ite ?_ ?_
    | with_reducible exact Kept.refl
    | with_reducible apply Kept.trans ?_ State_setIft_kept
    | with_reducible apply Kept.trans ?_ orphanCtx_kept
    | with_reducible apply Kept.trans ?_ ctxError_kept
    | with_reducible apply Kept.trans ?_ countOrphan_kept
    | (with_reducible apply Kept.foldl ?_ ?_; intro x a; (try simp only []))
    | simp only [mk_kept_iff]
    | split
theorem compTail_kept {s : State} {q : Nat} {c : Comp} {ift : Option Nat} : Kept s (compTail s q c ift) := by
  unfold compTail
  (try simp only [])
  repeat' first
    | with_reducible apply Kept.ite ?_ ?_
    | with_reducible exact Kept.refl
    | with_reducible apply Kept.trans ?_ ctxRead_kept
    | with_reducible apply Kept.trans ?_ countOrphan_kept
    | with_reducible apply Kept.trans ?_ qeWrite_kept
    | with_reducible apply Kept.trans ?_ compFailed_kept
    | with_reducible apply Kept.trans ?_ lineSet_kept
    | with_reducible apply Kept.trans ?_ freeEntry_kept
    | with_reducible apply Kept.trans ?_ ctxStore_kept
    | with_reducible apply Kept.trans ?_ putRest_kept
    | with_reducible refine Kept.viaFst ‹ctxRead _ _ = (_, _)› ctxRead_kept ?_
    | with_reducible refine Kept.viaFst ‹qeWrite _ _ _ = (_, _)› qeWrite_kept ?_
    | (with_reducible apply Kept.foldl ?_ ?_; intro x a; (try simp only []))
    | simp only [mk_kept_iff]
    | (split <;> (try simp only []))
theorem complete_kept {s : State} {q : Nat} {c : Comp} {ift : Option Nat} {acc : Bool} : Kept s (complete s q c ift acc) := by
  unfold complete
  (try simp only [])
  repeat' first
    | with_reducible apply Kept.ite ?_ ?_
    | with_reducible exact Kept.refl
    | with_reducible apply Kept.trans ?_ ctxRead_kept
    | with_reducible apply Kept.trans ?_ countOrphan_kept
    | with_reducible apply Kept.trans ?_ qeWrite_kept
    | with_reducible apply Kept.trans ?_ compFailed_kept
    | with_reducible apply Kept.trans ?_ sendDelta_kept
    | with_reducible apply Kept.trans ?_ compTail_kept
    | (with_reducible apply Kept.foldl ?_ ?_; intro x a; (try simp only []))
    | simp only [mk_kept_iff]
    | (split <;> (try (first | (rename_i hq; have hq2 := congrArg Prod.fst hq; dsimp only at hq2; subst hq2) | (rename_i hq hz; have hq2 := congrArg Prod.fst hq; dsimp only at hq2; subst hq2))) <;> (try simp only []))
theorem replayCheck_kept {s : State} {q : Nat} {c : QCtx} {seq : Nat} : Kept s (replayCheck s q c seq).1 := by
  unfold replayCheck
  (try simp only [])
  repeat' first
    | with_reducible apply Kept.ite ?_ ?_
    | with_reducible exact Kept.refl
    | with_reducible apply Kept.trans ?_ dmaRead_kept
    | (with_reducible apply Kept.foldl ?_ ?_; intro x a; (try simp only []))
    | simp only [mk_kept_iff]
    | split
theorem intakeRest_kept {s : State} {q : Nat} {b : List Byte} {acc : Bool} : Kept s (intakeRest s q b acc) := by
  unfold intakeRest
  (try simp only [])
  repeat' first
    | with_reducible apply Kept.ite ?_ ?_
    | with_reducible exact Kept.refl
    | with_reducible apply Kept.trans ?_ complete_kept
    | with_reducible apply Kept.trans ?_ ctxStore_kept
    | (with_reducible apply Kept.foldl ?_ ?_; intro x a; (try simp only []))
    | simp only [mk_kept_iff]
    | split
theorem intakeReplay_kept {s : State} {q : Nat} {c : QCtx} {b : List Byte} : Kept s (intakeReplay s q c b) := by
  unfold intakeReplay
  (try simp only [])
  repeat' first
    | with_reducible apply Kept.ite ?_ ?_
    | with_reducible exact Kept.refl
    | with_reducible apply Kept.trans ?_ replayCheck_kept
    | with_reducible apply Kept.trans ?_ State_bumpReg_kept
    | with_reducible apply Kept.trans ?_ complete_kept
    | with_reducible apply Kept.trans ?_ ctxStore_kept
    | with_reducible apply Kept.trans ?_ intakeRest_kept
    | with_reducible apply Kept.trans ?_ sendDelta_kept
    | with_reducible refine Kept.viaFst ‹replayCheck _ _ _ _ = (_, _)› replayCheck_kept ?_
    | (with_reducible apply Kept.foldl ?_ ?_; intro x a; (try simp only []))
    | simp only [mk_kept_iff]
    | (split <;> (try simp only []))
theorem intake_kept {s : State} {q : Nat} {u : Upset} : Kept s (intake s q u) := by
  unfold intake
  (try simp only [])
  repeat' first
    | with_reducible apply Kept.ite ?_ ?_
    | with_reducible exact Kept.refl
    | with_reducible apply Kept.trans ?_ ctxRead_kept
    | with_reducible apply Kept.trans ?_ memRead_kept
    | with_reducible apply Kept.trans ?_ complete_kept
    | with_reducible apply Kept.trans ?_ ctxStore_kept
    | with_reducible apply Kept.trans ?_ State_berr_kept
    | with_reducible apply Kept.trans ?_ intakeRest_kept
    | with_reducible apply Kept.trans ?_ intakeReplay_kept
    | with_reducible refine Kept.viaFst ‹ctxRead _ _ = (_, _)› ctxRead_kept ?_
    | with_reducible refine Kept.viaFst ‹memRead _ _ _ _ = (_, _)› memRead_kept ?_
    | (with_reducible apply Kept.foldl ?_ ?_; intro x a; (try simp only []))
    | simp only [mk_kept_iff]
    | (split <;> (try simp only []))
theorem parmStore_kept {s : State} {i : Nat} {b : List Byte} : Kept s (parmStore s i b) := by
  unfold parmStore
  (try simp only [])
  repeat' first
    | with_reducible apply Kept.ite ?_ ?_
    | with_reducible exact Kept.refl
    | with_reducible apply Kept.trans ?_ setBytes_kept
    | (with_reducible apply Kept.foldl ?_ ?_; intro x a; (try simp only []))
    | simp only [mk_kept_iff]
    | split
theorem claimCtx_kept {s : State} {n : Fin 8} {c : Fin 4} {i : Nat} {e : Nat} {half : Bool} : Kept s (claimCtx s n c i e half) := by
  unfold claimCtx
  (try simp only [])
  repeat' first
    | with_reducible apply Kept.ite ?_ ?_
    | with_reducible exact Kept.refl
    | with_reducible apply Kept.trans ?_ spStart_kept
    | (with_reducible apply Kept.foldl ?_ ?_; intro x a; (try simp only []))
    | simp only [mk_kept_iff]
    | split
theorem dispatchAt_kept {s : State} {q : Nat} {i : Nat} {e : Nat} {h : Held} : Kept s (dispatchAt s q i e h) := by
  unfold dispatchAt
  (try simp only [])
  repeat' first
    | with_reducible apply Kept.ite ?_ ?_
    | with_reducible exact Kept.refl
    | with_reducible apply Kept.trans ?_ State_setIft_kept
    | with_reducible apply Kept.trans ?_ parmStore_kept
    | with_reducible apply Kept.trans ?_ ctxStore_kept
    | with_reducible apply Kept.trans ?_ setReg_kept
    | with_reducible apply Kept.trans ?_ State_irqBit_kept
    | with_reducible apply Kept.trans ?_ claimCtx_kept
    | (with_reducible apply Kept.foldl ?_ ?_; intro x a; (try simp only []))
    | simp only [mk_kept_iff]
    | split
theorem dispatch_kept {s : State} {q : Nat} {h : Held} : Kept s (dispatch s q h) := by
  unfold dispatch
  (try simp only [])
  repeat' first
    | with_reducible apply Kept.ite ?_ ?_
    | with_reducible exact Kept.refl
    | with_reducible apply Kept.trans ?_ ctxRead_kept
    | with_reducible apply Kept.trans ?_ complete_kept
    | with_reducible apply Kept.trans ?_ ctxStore_kept
    | with_reducible apply Kept.trans ?_ dispatchAt_kept
    | with_reducible refine Kept.viaFst ‹ctxRead _ _ = (_, _)› ctxRead_kept ?_
    | (with_reducible apply Kept.foldl ?_ ?_; intro x a; (try simp only []))
    | simp only [mk_kept_iff]
    | (split <;> (try simp only []))
theorem selection_kept {s : State} : Kept s (selection s) := by
  unfold selection
  (try simp only [])
  repeat' first
    | with_reducible apply Kept.ite ?_ ?_
    | with_reducible exact Kept.refl
    | with_reducible apply Kept.trans ?_ dispatch_kept
    | (with_reducible apply Kept.foldl ?_ ?_; intro x a; (try simp only []))
    | simp only [mk_kept_iff]
    | split
theorem completionWrite_kept {s : State} {i : Nat} : Kept s (completionWrite s i) := by
  unfold completionWrite
  (try simp only [])
  repeat' first
    | with_reducible apply Kept.ite ?_ ?_
    | with_reducible exact Kept.refl
    | with_reducible apply Kept.trans ?_ countOrphan_kept
    | with_reducible apply Kept.trans ?_ freeEntry_kept
    | with_reducible apply Kept.trans ?_ ctxStore_kept
    | with_reducible apply Kept.trans ?_ complete_kept
    | (with_reducible apply Kept.foldl ?_ ?_; intro x a; (try simp only []))
    | simp only [mk_kept_iff]
    | split
theorem dack_kept {s : State} {n : Nat} : Kept s (dack s n) := by
  unfold dack
  (try simp only [])
  repeat' first
    | with_reducible apply Kept.ite ?_ ?_
    | with_reducible exact Kept.refl
    | with_reducible apply Kept.trans ?_ compTail_kept
    | (with_reducible apply Kept.foldl ?_ ?_; intro x a; (try simp only []))
    | simp only [mk_kept_iff]
    | split
theorem spinRun_kept {s : State} {i : Nat} : Kept s (spinRun s i) := by
  unfold spinRun
  (try simp only [])
  repeat' first
    | with_reducible apply Kept.ite ?_ ?_
    | with_reducible exact Kept.refl
    | with_reducible apply Kept.trans ?_ qeEnd_kept
    | with_reducible apply Kept.trans ?_ spinRequest_kept
    | with_reducible apply Kept.trans ?_ State_setIft_kept
    | with_reducible refine Kept.viaFst ‹spinRequest _ _ _ = (_, _)› spinRequest_kept ?_
    | (with_reducible apply Kept.foldl ?_ ?_; intro x a; (try simp only []))
    | simp only [mk_kept_iff]
    | (split <;> (try simp only []))
theorem flushRun_kept {s : State} {i : Nat} : Kept s (flushRun s i) := by
  unfold flushRun
  (try simp only [])
  repeat' first
    | with_reducible apply Kept.ite ?_ ?_
    | with_reducible exact Kept.refl
    | with_reducible apply Kept.trans ?_ qeEnd_kept
    | with_reducible apply Kept.trans ?_ State_setIft_kept
    | with_reducible apply Kept.trans ?_ flushEnd_kept
    | (with_reducible apply Kept.foldl ?_ ?_; intro x a; (try simp only []))
    | simp only [mk_kept_iff]
    | split
end Sys2Proof.Laws
end

