-- ==== Sys2Proof/Laws/KeepPowerDom.lean ====
section
/-! SUPPORT. What the operations of Machine/PowerDom.lean leave alone (Laws/Kept.lean). -/
namespace Sys2Proof.Laws
set_option linter.unusedTactic false
set_option linter.unreachableTactic false
open Sys2Proof.Machine
theorem portUpEdge_kept {s : State} {page : Nat} {sub : Nat} : Kept s (portUpEdge s page sub) := by
  unfold portUpEdge
  (try simp only [])
  repeat' first
    | with_reducible apply Kept.ite ?_ ?_
    | with_reducible exact Kept.refl
    | with_reducible apply Kept.trans ?_ State_irqBit_kept
    | with_reducible apply Kept.trans ?_ State_setRegF_kept
    | (with_reducible apply Kept.foldl ?_ ?_; intro x a; (try simp only []))
    | simp only [mk_kept_iff]
    | split
theorem portDownEdge_kept {s : State} {page : Nat} {sub : Nat} : Kept s (portDownEdge s page sub) := by
  unfold portDownEdge
  (try simp only [])
  repeat' first
    | with_reducible apply Kept.ite ?_ ?_
    | with_reducible exact Kept.refl
    | with_reducible apply Kept.trans ?_ State_irqBit_kept
    | with_reducible apply Kept.trans ?_ State_setRegF_kept
    | (with_reducible apply Kept.foldl ?_ ?_; intro x a; (try simp only []))
    | simp only [mk_kept_iff]
    | split
theorem portDownAll_kept {s : State} {page : Nat} : Kept s (portDownAll s page) := by
  unfold portDownAll
  (try simp only [])
  repeat' first
    | with_reducible apply Kept.ite ?_ ?_
    | with_reducible exact Kept.refl
    | with_reducible apply Kept.trans ?_ portDownEdge_kept
    | (with_reducible apply Kept.foldl ?_ ?_; intro x a; (try simp only []))
    | simp only [mk_kept_iff]
    | split
theorem dropCoef_kept {s : State} {n : Fin 8} : Kept s (dropCoef s n) := by
  unfold dropCoef
  (try simp only [])
  repeat' first
    | with_reducible apply Kept.ite ?_ ?_
    | with_reducible exact Kept.refl
    | with_reducible apply Kept.trans ?_ clearBytes_kept
    | (with_reducible apply Kept.foldl ?_ ?_; intro x a; (try simp only []))
    | simp only [mk_kept_iff]
    | split
theorem domainOff_kept {s : State} {d : Nat} : Kept s (domainOff s d) := by
  unfold domainOff
  (try simp only [])
  repeat' first
    | with_reducible apply Kept.ite ?_ ?_
    | with_reducible exact Kept.refl
    | with_reducible apply Kept.trans ?_ turOff_kept
    | with_reducible apply Kept.trans ?_ State_setDom_kept
    | with_reducible apply Kept.trans ?_ State_setPair_kept
    | with_reducible apply Kept.trans ?_ State_setSpire_kept
    | with_reducible apply Kept.trans ?_ dropCoef_kept
    | with_reducible apply Kept.trans ?_ State_setRegF_kept
    | with_reducible apply Kept.trans ?_ dropChannel_kept
    | with_reducible apply Kept.trans ?_ State_setMch_kept
    | with_reducible apply Kept.trans ?_ sasgOff_kept
    | with_reducible apply Kept.trans ?_ portDownAll_kept
    | with_reducible apply Kept.trans ?_ State_setPport_kept
    | with_reducible apply Kept.trans ?_ lantApply_kept
    | (with_reducible apply Kept.foldl ?_ ?_; intro x a; (try simp only []))
    | simp only [mk_kept_iff]
    | split
theorem csLoad_kept {s : State} {n : Fin 8} : Kept s (csLoad s n) := by
  unfold csLoad
  (try simp only [])
  repeat' first
    | with_reducible apply Kept.ite ?_ ?_
    | with_reducible exact Kept.refl
    | with_reducible apply Kept.trans ?_ State_setSpire_kept
    | with_reducible apply Kept.trans ?_ setReg_kept
    | with_reducible apply Kept.trans ?_ State_setRegF_kept
    | (with_reducible apply Kept.foldl ?_ ?_; intro x a; (try simp only []))
    | simp only [mk_kept_iff]
    | split
theorem domainOn_kept {s : State} {d : Nat} : Kept s (domainOn s d) := by
  unfold domainOn
  (try simp only [])
  repeat' first
    | with_reducible apply Kept.ite ?_ ?_
    | with_reducible exact Kept.refl
    | with_reducible apply Kept.trans ?_ State_setDom_kept
    | with_reducible apply Kept.trans ?_ csLoad_kept
    | with_reducible apply Kept.trans ?_ lantApply_kept
    | (with_reducible apply Kept.foldl ?_ ?_; intro x a; (try simp only []))
    | simp only [mk_kept_iff]
    | split
theorem dreqRefuse_kept {s : State} {cause : Nat} {d : Nat} : Kept s (dreqRefuse s cause d) := by
  unfold dreqRefuse
  (try simp only [])
  repeat' first
    | with_reducible apply Kept.ite ?_ ?_
    | with_reducible exact Kept.refl
    | with_reducible apply Kept.trans ?_ State_irqBit_kept
    | with_reducible apply Kept.trans ?_ State_setRegF_kept
    | (with_reducible apply Kept.foldl ?_ ?_; intro x a; (try simp only []))
    | simp only [mk_kept_iff]
    | split
theorem dreqRun_kept {s : State} {x1 : Nat} {x2 : List (Nat × Bool)} : Kept s (dreqRun s x1 x2) := by
  fun_induction dreqRun s x1 x2 <;> (try simp only []) <;>
    repeat' first
      | with_reducible apply Kept.ite ?_ ?_
      | with_reducible exact Kept.refl
      | with_reducible apply Kept.trans ?_ dreqRefuse_kept
      | with_reducible apply Kept.trans ?_ domainOn_kept
      | with_reducible apply Kept.trans ?_ domainOff_kept
      | with_reducible apply Kept.trans ?_ State_setRegF_kept
      | with_reducible apply Kept.trans ?_ (by assumption)
      | (with_reducible apply Kept.foldl ?_ ?_; intro x a; (try simp only []))
      | simp only [mk_kept_iff]
      | (split <;> (try simp only []))
theorem dreqWrite_kept {s : State} {i : Nat} {v : Word32} : Kept s (dreqWrite s i v) := by
  unfold dreqWrite
  (try simp only [])
  repeat' first
    | with_reducible apply Kept.ite ?_ ?_
    | with_reducible exact Kept.refl
    | with_reducible apply Kept.trans ?_ State_setRegF_kept
    | with_reducible apply Kept.trans ?_ dreqRun_kept
    | (with_reducible apply Kept.foldl ?_ ?_; intro x a; (try simp only []))
    | simp only [mk_kept_iff]
    | split
theorem State_bare_kept {s : State} : Kept s (State.bare s) := ⟨rfl, fun h => swf_filter _ _ h, fun h => swf_filter _ _ h, rfl⟩
theorem powerOff_kept {s : State} : Kept s (powerOff s) := by
  unfold powerOff
  (try simp only [])
  repeat' first
    | with_reducible apply Kept.ite ?_ ?_
    | with_reducible exact Kept.refl
    | with_reducible apply Kept.trans ?_ State_bare_kept
    | with_reducible apply Kept.trans ?_ setReg_kept
    | with_reducible apply Kept.trans ?_ State_setDom_kept
    | (with_reducible apply Kept.foldl ?_ ?_; intro x a; (try simp only []))
    | simp only [mk_kept_iff]
    | split
theorem vigilEnter_kept {s : State} : Kept s (vigilEnter s) := by
  unfold vigilEnter
  (try simp only [])
  repeat' first
    | with_reducible apply Kept.ite ?_ ?_
    | with_reducible exact Kept.refl
    | with_reducible apply Kept.trans ?_ domainOff_kept
    | with_reducible apply Kept.trans ?_ bankWrite_kept
    | with_reducible apply Kept.trans ?_ State_setDom_kept
    | with_reducible apply Kept.trans ?_ State_setRegF_kept
    | (with_reducible apply Kept.foldl ?_ ?_; intro x a; (try simp only []))
    | simp only [mk_kept_iff]
    | split
theorem entryFinish_kept {s : State} {vigil : Bool} : Kept s (entryFinish s vigil) := by
  have k := masterLost_kept (s := s)
  unfold entryFinish
  generalize masterLost s = t at k ⊢
  simp only []
  generalize ({ t.boot with quiet := true, dreq := _, codes := _ } : Boot) = b
  cases vigil with
  | true => exact Kept.trans (Kept.upd (u := { t with boot := b }) k rfl rfl rfl rfl) vigilEnter_kept
  | false => exact Kept.trans (Kept.upd (u := { t with boot := b }) k rfl rfl rfl rfl) powerOff_kept
theorem entryGo_kept {s : State} : Kept s (entryGo s) := by
  unfold entryGo
  (try simp only [])
  repeat' first
    | with_reducible apply Kept.ite ?_ ?_
    | with_reducible exact Kept.refl
    | with_reducible apply Kept.trans ?_ spinRequest_kept
    | with_reducible apply Kept.trans ?_ entryFinish_kept
    | (with_reducible apply Kept.foldl ?_ ?_; intro x a; (try simp only []))
    | simp only [mk_kept_iff]
    | split
theorem psRequest_kept {s : State} {vigil : Bool} : Kept s (psRequest s vigil) := by
  unfold psRequest
  (try simp only [])
  repeat' first
    | with_reducible apply Kept.ite ?_ ?_
    | with_reducible exact Kept.refl
    | with_reducible apply Kept.trans ?_ State_setRegF_kept
    | with_reducible apply Kept.trans ?_ dreqRefuse_kept
    | with_reducible apply Kept.trans ?_ entryGo_kept
    | (with_reducible apply Kept.foldl ?_ ?_; intro x a; (try simp only []))
    | simp only [mk_kept_iff]
    | split
theorem entryCancel_kept {s : State} : Kept s (entryCancel s) := by
  unfold entryCancel
  (try simp only [])
  repeat' first
    | with_reducible apply Kept.ite ?_ ?_
    | with_reducible exact Kept.refl
    | with_reducible apply Kept.trans ?_ State_setRegF_kept
    | (with_reducible apply Kept.foldl ?_ ?_; intro x a; (try simp only []))
    | simp only [mk_kept_iff]
    | split
theorem setWrite_kept {s : State} {locked : Bool} {k : Nat} {v : Word32} : Kept s (setWrite s locked k v) := by
  unfold setWrite
  (try simp only [])
  repeat' first
    | with_reducible apply Kept.ite ?_ ?_
    | with_reducible exact Kept.refl
    | with_reducible apply Kept.trans ?_ State_setRegF_kept
    | with_reducible apply Kept.trans ?_ rearm_kept
    | (with_reducible apply Kept.foldl ?_ ?_; intro x a; (try simp only []))
    | simp only [mk_kept_iff]
    | split
theorem pwrWrite_kept {s : State} {locked : Bool} {n : Nat} {off : Nat} {v : Word32} :
    KeptO s Prod.fst (pwrWrite s locked n off v) := by
  unfold pwrWrite
  (try simp only [])
  repeat' first
    | with_reducible exact KeptO.none
    | with_reducible apply KeptO.some
    | with_reducible apply KeptO.ite ?_ ?_
    | with_reducible apply KeptO.map
    | with_reducible apply Kept.ite ?_ ?_
    | with_reducible exact Kept.refl
    | with_reducible apply Kept.trans ?_ setReg_kept
    | with_reducible apply Kept.trans ?_ spinRequest_kept
    | with_reducible apply Kept.trans ?_ fbctlWrite_kept
    | with_reducible apply Kept.trans ?_ psRequest_kept
    | with_reducible apply Kept.trans ?_ dreqWrite_kept
    | with_reducible apply Kept.trans ?_ setWrite_kept
    | with_reducible apply Kept.trans ?_ pmapWrite_kept
    | with_reducible refine Kept.viaFst ‹spinRequest _ _ _ = (_, _)› spinRequest_kept ?_
    | with_reducible refine Kept.viaFst ‹pmapWrite _ _ _ = (_, _)› pmapWrite_kept ?_
    | (with_reducible apply Kept.foldl ?_ ?_; intro x a; (try simp only []))
    | simp only [mk_kept_iff]
    | split
end Sys2Proof.Laws
end

