-- ==== Sys2Proof/Laws/KeepKeepCtl.lean ====
section
/-! SUPPORT. What the operations of Machine/KeepCtl.lean leave alone (Laws/Kept.lean). -/
namespace Sys2Proof.Laws
set_option linter.unusedTactic false
set_option linter.unreachableTactic false
open Sys2Proof.Machine
theorem State_setPhase_kept {s : State} {v : Nat} : Kept s (State.setPhase s v) := by
  unfold State.setPhase
  (try simp only [])
  repeat' first
    | with_reducible apply Kept.ite ?_ ?_
    | with_reducible exact Kept.refl
    | with_reducible apply Kept.trans ?_ State_setRegF_kept
    | (with_reducible apply Kept.foldl ?_ ?_; intro x a; (try simp only []))
    | simp only [mk_kept_iff]
    | split
theorem State_setKey_kept {s : State} {n : Nat} {k : KeySlot} : Kept s (State.setKey s n k) := by
  unfold State.setKey
  (try simp only [])
  repeat' first
    | with_reducible apply Kept.ite ?_ ?_
    | with_reducible exact Kept.refl
    | (with_reducible apply Kept.foldl ?_ ?_; intro x a; (try simp only []))
    | simp only [mk_kept_iff]
    | split
theorem ksEnd_kept {s : State} {code : Nat} : Kept s (ksEnd s code) := by
  unfold ksEnd
  (try simp only [])
  repeat' first
    | with_reducible apply Kept.ite ?_ ?_
    | with_reducible exact Kept.refl
    | with_reducible apply Kept.trans ?_ setReg_kept
    | (with_reducible apply Kept.foldl ?_ ?_; intro x a; (try simp only []))
    | simp only [mk_kept_iff]
    | split
theorem ksLoad_kept {s : State} {slot kind : Nat} : Kept s (ksLoad s slot kind) := by
  unfold ksLoad
  cases keyLen kind with
  | none => exact ksEnd_kept
  | some n =>
    have k := dmaRead_kept (s := s) (id := keepId) (a := (s.reg 2 0x108).toNat + 2 ^ 32 * (s.reg 2 0x10C).toNat) (n := 28 + n)
    simp only []
    generalize dmaRead s keepId ((s.reg 2 0x108).toNat + 2 ^ 32 * (s.reg 2 0x10C).toNat) (28 + n) = r at k ⊢
    obtain ⟨s1, c | ⟨b, _ | _⟩⟩ := r
    · exact k.trans ksEnd_kept
    · exact Kept.ite ((k.trans State_setKey_kept).trans ksEnd_kept) (k.trans ksEnd_kept)
    · exact k.trans ksEnd_kept
theorem ksCmd_kept {s : State} {v : Word32} : Kept s (ksCmd s v) := by
  unfold ksCmd
  (try simp only [])
  repeat' first
    | with_reducible apply Kept.ite ?_ ?_
    | with_reducible exact Kept.refl
    | with_reducible apply Kept.trans ?_ setReg_kept
    | with_reducible apply Kept.trans ?_ ksLoad_kept
    | with_reducible apply Kept.trans ?_ ksEnd_kept
    | with_reducible apply Kept.trans ?_ State_setKey_kept
    | (with_reducible apply Kept.foldl ?_ ?_; intro x a; (try simp only []))
    | simp only [mk_kept_iff]
    | split
theorem keepCtlWrite_kept {s : State} {v : Word32} : Kept s (keepCtlWrite s v) := by
  unfold keepCtlWrite
  (try simp only [])
  repeat' first
    | with_reducible apply Kept.ite ?_ ?_
    | with_reducible exact Kept.refl
    | with_reducible apply Kept.trans ?_ State_setRegF_kept
    | with_reducible apply Kept.trans ?_ fmRecord_kept
    | (with_reducible apply Kept.foldl ?_ ?_; intro x a; (try simp only []))
    | simp only [mk_kept_iff]
    | split
theorem svnUp_kept {s : State} {v : Word32} : Kept s (svnUp s v) := by
  unfold svnUp
  (try simp only [])
  repeat' first
    | with_reducible apply Kept.ite ?_ ?_
    | with_reducible exact Kept.refl
    | with_reducible apply Kept.trans ?_ State_setRegF_kept
    | (with_reducible apply Kept.foldl ?_ ?_; intro x a; (try simp only []))
    | simp only [mk_kept_iff]
    | split
theorem rcvData_kept {s : State} {v : Word32} : Kept s (rcvData s v).1 := by
  unfold rcvData
  (try simp only [])
  repeat' first
    | with_reducible apply Kept.ite ?_ ?_
    | with_reducible exact Kept.refl
    | with_reducible apply Kept.trans ?_ dmaWriteRaw_kept
    | with_reducible apply Kept.trans ?_ setReg_kept
    | with_reducible refine Kept.viaFst ‹dmaWriteRaw _ _ _ = (_, _)› dmaWriteRaw_kept ?_
    | (with_reducible apply Kept.foldl ?_ ?_; intro x a; (try simp only []))
    | simp only [mk_kept_iff]
    | (split <;> (try simp only []))
theorem rcvGo_kept {s : State} {v : Word32} : Kept s (rcvGo s v) := by
  unfold rcvGo
  (try simp only [])
  repeat' first
    | with_reducible apply Kept.ite ?_ ?_
    | with_reducible exact Kept.refl
    | with_reducible apply Kept.trans ?_ setReg_kept
    | (with_reducible apply Kept.foldl ?_ ?_; intro x a; (try simp only []))
    | simp only [mk_kept_iff]
    | split
theorem keepWrite_kept {s : State} {n : Nat} {off : Nat} {v : Word32} : KeptO s Prod.fst (keepWrite s n off v) := by
  unfold keepWrite
  (try simp only [])
  repeat' first
    | with_reducible exact KeptO.none
    | with_reducible apply KeptO.some
    | with_reducible apply KeptO.ite ?_ ?_
    | with_reducible apply KeptO.map
    | with_reducible apply Kept.ite ?_ ?_
    | with_reducible exact Kept.refl
    | with_reducible apply Kept.trans ?_ keepCtlWrite_kept
    | with_reducible apply Kept.trans ?_ svnUp_kept
    | with_reducible apply Kept.trans ?_ ksCmd_kept
    | with_reducible apply Kept.trans ?_ rcvData_kept
    | with_reducible apply Kept.trans ?_ rcvGo_kept
    | with_reducible refine Kept.viaFst ‹rcvData _ _ = (_, _)› rcvData_kept ?_
    | (with_reducible apply Kept.foldl ?_ ?_; intro x a; (try simp only []))
    | simp only [mk_kept_iff]
    | split
theorem lantWrite_kept {s : State} {n : Nat} {off : Nat} {v : Word32} : KeptO s Prod.fst (lantWrite s n off v) := by
  unfold lantWrite
  (try simp only [])
  repeat' first
    | with_reducible exact KeptO.none
    | with_reducible apply KeptO.some
    | with_reducible apply KeptO.ite ?_ ?_
    | with_reducible apply KeptO.map
    | with_reducible apply Kept.ite ?_ ?_
    | with_reducible exact Kept.refl
    | with_reducible apply Kept.trans ?_ lantApply_kept
    | with_reducible apply Kept.trans ?_ setReg_kept
    | (with_reducible apply Kept.foldl ?_ ?_; intro x a; (try simp only []))
    | simp only [mk_kept_iff]
    | split
end Sys2Proof.Laws
end

