-- ==== Sys2Proof/Laws/KeepCupola.lean ====
section
/-! SUPPORT. What the operations of Machine/Cupola.lean leave alone (Laws/Kept.lean). -/
namespace Sys2Proof.Laws
set_option linter.unusedTactic false
set_option linter.unreachableTactic false
open Sys2Proof.Machine
theorem evPush_kept {s : State} {w : List Nat} : Kept s (evPush s w) := by
  unfold evPush
  (try simp only [])
  repeat' first
    | with_reducible apply Kept.ite ?_ ?_
    | with_reducible exact Kept.refl
    | with_reducible apply Kept.trans ?_ State_irqBit_kept
    | (with_reducible apply Kept.foldl ?_ ?_; intro x a; (try simp only []))
    | simp only [mk_kept_iff]
    | split
theorem cupMsg_kept {s : State} {kind : Nat} {w2 : Nat} : Kept s (cupMsg s kind w2) := by
  unfold cupMsg
  (try simp only [])
  repeat' first
    | with_reducible apply Kept.ite ?_ ?_
    | with_reducible exact Kept.refl
    | with_reducible apply Kept.trans ?_ State_fresh_kept
    | with_reducible apply Kept.trans ?_ evPush_kept
    | (with_reducible apply Kept.foldl ?_ ?_; intro x a; (try simp only []))
    | simp only [mk_kept_iff]
    | split
theorem putParts_kept {s : State} {x1 : List (Nat × List Byte)} : Kept s (putParts s x1) := by
  fun_induction putParts s x1 <;> (try simp only []) <;>
    repeat' first
      | with_reducible apply Kept.ite ?_ ?_
      | with_reducible exact Kept.refl
      | with_reducible apply Kept.trans ?_ setBytes_kept
      | with_reducible apply Kept.trans ?_ (by assumption)
      | (with_reducible apply Kept.foldl ?_ ?_; intro x a; (try simp only []))
      | simp only [mk_kept_iff]
      | (split <;> (try simp only []))
theorem snapshot_kept {s : State} {tag : Nat} {more : List (Nat × List Byte)} : Kept s (snapshot s tag more) := by
  unfold snapshot
  (try simp only [])
  repeat' first
    | with_reducible apply Kept.ite ?_ ?_
    | with_reducible exact Kept.refl
    | with_reducible apply Kept.trans ?_ putParts_kept
    | with_reducible apply Kept.trans ?_ cupMsg_kept
    | (with_reducible apply Kept.foldl ?_ ?_; intro x a; (try simp only []))
    | simp only [mk_kept_iff]
    | split
theorem statUpdate_kept {s : State} : Kept s (statUpdate s) := by
  unfold statUpdate
  (try simp only [])
  repeat' first
    | with_reducible apply Kept.ite ?_ ?_
    | with_reducible exact Kept.refl
    | with_reducible apply Kept.trans ?_ putParts_kept
    | with_reducible apply Kept.trans ?_ cupMsg_kept
    | (with_reducible apply Kept.foldl ?_ ?_; intro x a; (try simp only []))
    | simp only [mk_kept_iff]
    | split
theorem State_setCup_kept {s : State} {c : Cup} (h : c.energy = s.cup.energy) : Kept s (State.setCup s c) := ⟨rfl, id, id, h⟩
theorem logAdd_kept {s : State} {kind : Nat} {param : Nat} {old : Nat} {new : Nat} : Kept s (logAdd s kind param old new) := by
  unfold logAdd
  (try simp only [])
  repeat' first
    | rfl
    | with_reducible apply Kept.ite ?_ ?_
    | with_reducible exact Kept.refl
    | with_reducible apply Kept.trans ?_ cupMsg_kept
    | with_reducible apply Kept.trans ?_ snapshot_kept
    | with_reducible apply Kept.trans ?_ (State_setCup_kept ?_)
    | (with_reducible apply Kept.foldl ?_ ?_; intro x a; (try simp only []))
    | simp only [mk_kept_iff]
    | split
theorem cupRefuse_kept {s : State} {kind : Nat} : Kept s (cupRefuse s kind) := by
  unfold cupRefuse
  (try simp only [])
  repeat' first
    | rfl
    | with_reducible apply Kept.ite ?_ ?_
    | with_reducible exact Kept.refl
    | with_reducible apply Kept.trans ?_ (State_setCup_kept ?_)
    | with_reducible apply Kept.trans ?_ logAdd_kept
    | with_reducible apply Kept.trans ?_ snapshot_kept
    | with_reducible apply Kept.trans ?_ cupMsg_kept
    | (with_reducible apply Kept.foldl ?_ ?_; intro x a; (try simp only []))
    | simp only [mk_kept_iff]
    | split
theorem halfCyclePeak_kept {s : State} : Kept s (halfCyclePeak s) := by
  unfold halfCyclePeak
  split
  · exact Kept.refl
  · rename_i l _
    refine Kept.ite ?_ Kept.refl
    have h : Kept s (snapshot (s.setCup { s.cup with ended := none }) 0 ((rangeFrom 0 4).map (fun k => (0x20C + 16 * k, leBytes 4 (l.getD k 0))) ++
        [(0x244, leBytes 4 (l.getD 4 0)), (0x24C, leBytes 4 s.cup.halves)])) :=
      Kept.trans (State_setCup_kept (c := { s.cup with ended := none }) rfl) snapshot_kept
    dsimp only
    generalize snapshot (s.setCup { s.cup with ended := none }) 0 ((rangeFrom 0 4).map (fun k => (0x20C + 16 * k, leBytes 4 (l.getD k 0))) ++
        [(0x244, leBytes 4 (l.getD 4 0)), (0x24C, leBytes 4 s.cup.halves)]) = s2 at h ⊢
    refine Kept.ite ?_ h
    have h4 : Kept s ((((rangeFrom 0 5).foldl (fun t k => t.setReg 0x382 (0x100 + 4 * k) (w32 (l.getD k 0))) s2).setReg 0x382 0x114
        (w32 s.cup.halves)).irqBit 0x382 0) :=
      ((Kept.foldl (fun _ _ => setReg_kept) h).trans setReg_kept).trans State_irqBit_kept
    generalize (((rangeFrom 0 5).foldl (fun t k => t.setReg 0x382 (0x100 + 4 * k) (w32 (l.getD k 0))) s2).setReg 0x382 0x114
        (w32 s.cup.halves)).irqBit 0x382 0 = s4 at h4 ⊢
    split
    · exact ⟨h4.pending, h4.mem, h4.regs, h4.energy⟩
    · exact h4
theorem cmdEnd_kept {s : State} {result : Nat} : Kept s (cmdEnd s result) := by
  unfold cmdEnd
  (try simp only [])
  repeat' first
    | rfl
    | with_reducible apply Kept.ite ?_ ?_
    | with_reducible exact Kept.refl
    | with_reducible apply Kept.trans ?_ State_irqBit_kept
    | with_reducible apply Kept.trans ?_ setReg_kept
    | with_reducible apply Kept.trans ?_ (State_setCup_kept ?_)
    | (with_reducible apply Kept.foldl ?_ ?_; intro x a; (try simp only []))
    | simp only [mk_kept_iff]
    | split
theorem cmdGo_kept {s : State} {v : Word32} : Kept s (cmdGo s v).1 := by
  unfold cmdGo
  (try simp only [])
  repeat' first
    | rfl
    | with_reducible apply Kept.ite ?_ ?_
    | with_reducible exact Kept.refl
    | with_reducible apply Kept.trans ?_ cmdEnd_kept
    | with_reducible apply Kept.trans ?_ setReg_kept
    | with_reducible apply Kept.trans ?_ (State_setCup_kept ?_)
    | with_reducible apply Kept.trans ?_ cupRefuse_kept
    | (with_reducible apply Kept.foldl ?_ ?_; intro x a; (try simp only []))
    | simp only [mk_kept_iff]
    | split
theorem cupAlign_kept {s : State} {tag : Nat} : Kept s (cupAlign s tag) := by
  unfold cupAlign
  (try simp only [])
  repeat' first
    | with_reducible apply Kept.ite ?_ ?_
    | with_reducible exact Kept.refl
    | with_reducible apply Kept.trans ?_ cupMsg_kept
    | with_reducible apply Kept.trans ?_ snapshot_kept
    | (with_reducible apply Kept.foldl ?_ ?_; intro x a; (try simp only []))
    | simp only [mk_kept_iff]
    | split
theorem fresh256_kept {s : State} : Kept s (fresh256 s).2 := by
  unfold fresh256
  (try simp only [])
  repeat' first
    | with_reducible apply Kept.ite ?_ ?_
    | with_reducible exact Kept.refl
    | with_reducible apply Kept.trans ?_ State_freshBytes_kept
    | (with_reducible apply Kept.foldl ?_ ?_; intro x a; (try simp only []))
    | simp only [mk_kept_iff]
    | split
theorem cupSign_kept {s : State} {w : List Nat} : Kept s (cupSign s w) := by
  unfold cupSign
  (try simp only [])
  repeat' first
    | with_reducible apply Kept.ite ?_ ?_
    | with_reducible exact Kept.refl
    | with_reducible apply Kept.trans ?_ fresh256_kept
    | with_reducible apply Kept.trans ?_ snapshot_kept
    | with_reducible apply Kept.trans ?_ State_fresh_kept
    | with_reducible apply Kept.trans ?_ cupMsg_kept
    | (with_reducible apply Kept.foldl ?_ ?_; intro x a; (try simp only []))
    | simp only [mk_kept_iff]
    | split
theorem absChange_kept {s : State} : Kept s (absChange s) := by
  unfold absChange
  (try simp only [])
  repeat' first
    | with_reducible apply Kept.ite ?_ ?_
    | with_reducible exact Kept.refl
    | with_reducible apply Kept.trans ?_ State_irqBit_kept
    | (with_reducible apply Kept.foldl ?_ ?_; intro x a; (try simp only []))
    | simp only [mk_kept_iff]
    | split
theorem calenChange_kept {s : State} {level : Bool} : Kept s (calenChange s level) := by
  unfold calenChange
  (try simp only [])
  repeat' first
    | rfl
    | with_reducible apply Kept.ite ?_ ?_
    | with_reducible exact Kept.refl
    | with_reducible apply Kept.trans ?_ (State_setCup_kept ?_)
    | with_reducible apply Kept.trans ?_ logAdd_kept
    | with_reducible apply Kept.trans ?_ statUpdate_kept
    | (with_reducible apply Kept.foldl ?_ ?_; intro x a; (try simp only []))
    | simp only [mk_kept_iff]
    | split
theorem calAnswer_kept {s : State} {cmd : Nat} {status : Nat} {data : List Byte} : Kept s (calAnswer s cmd status data) := by
  unfold calAnswer
  (try simp only [])
  repeat' first
    | with_reducible apply Kept.ite ?_ ?_
    | with_reducible exact Kept.refl
    | (with_reducible apply Kept.foldl ?_ ?_; intro x a; (try simp only []))
    | simp only [mk_kept_iff]
    | split
theorem calIdent_kept {s : State} : Kept s (calIdent s) := by
  unfold calIdent
  (try simp only [])
  repeat' first
    | with_reducible apply Kept.ite ?_ ?_
    | with_reducible exact Kept.refl
    | with_reducible apply Kept.trans ?_ calAnswer_kept
    | (with_reducible apply Kept.foldl ?_ ?_; intro x a; (try simp only []))
    | simp only [mk_kept_iff]
    | split
theorem calRead_kept {s : State} {id : Nat} : Kept s (calRead s id) := by
  unfold calRead
  (try simp only [])
  repeat' first
    | with_reducible apply Kept.ite ?_ ?_
    | with_reducible exact Kept.refl
    | with_reducible apply Kept.trans ?_ calAnswer_kept
    | (with_reducible apply Kept.foldl ?_ ?_; intro x a; (try simp only []))
    | simp only [mk_kept_iff]
    | split
theorem calWrite_kept {s : State} {id v : Nat} : Kept s (calWrite s id v) := by
  unfold calWrite
  refine Kept.ite calAnswer_kept (Kept.ite calAnswer_kept ?_)
  dsimp only
  have h := logAdd_kept (s := s) (kind := 1) (param := id) (old := (cupParam s.cup id).getD 0) (new := v)
  generalize logAdd s 1 id ((cupParam s.cup id).getD 0) v = s1 at h ⊢
  generalize (if 0x10 ≤ id ∧ id < 0x18 then 0x40000000 else if 0x1C ≤ id then 250 else 0) = d
  exact ((h.trans (State_setCup_kept (c := { s1.cup with params := sput s1.cup.params id v d }) rfl)).trans statUpdate_kept).trans calAnswer_kept
theorem calSeal_kept {s : State} : Kept s (calSeal s) := by
  unfold calSeal
  refine Kept.ite calAnswer_kept (Kept.ite calAnswer_kept ?_)
  dsimp only
  have h := logAdd_kept (s := s) (kind := 2) (param := 0) (old := 0) (new := 1)
  generalize logAdd s 2 0 0 1 = s1 at h ⊢
  exact ((h.trans (State_setCup_kept (c := { s1.cup with sealed := true }) rfl)).trans statUpdate_kept).trans calAnswer_kept
theorem calLog_kept {s : State} {n : Nat} : Kept s (calLog s n) := by
  unfold calLog
  (try simp only [])
  repeat' first
    | with_reducible apply Kept.ite ?_ ?_
    | with_reducible exact Kept.refl
    | with_reducible apply Kept.trans ?_ calAnswer_kept
    | (with_reducible apply Kept.foldl ?_ ?_; intro x a; (try simp only []))
    | simp only [mk_kept_iff]
    | split
theorem cupwWrite_kept {s : State} {n : Nat} {off : Nat} {v : Word32} : KeptO s Prod.fst (cupwWrite s n off v) := by
  unfold cupwWrite
  (try simp only [])
  repeat' first
    | with_reducible exact KeptO.none
    | with_reducible apply KeptO.some
    | with_reducible apply KeptO.ite ?_ ?_
    | with_reducible apply KeptO.map
    | rfl
    | with_reducible apply Kept.ite ?_ ?_
    | with_reducible exact Kept.refl
    | with_reducible apply Kept.trans ?_ cmdGo_kept
    | with_reducible apply Kept.trans ?_ (State_setCup_kept ?_)
    | with_reducible refine Kept.viaFst ‹cmdGo _ _ = (_, _)› cmdGo_kept ?_
    | (with_reducible apply Kept.foldl ?_ ?_; intro x a; (try simp only []))
    | simp only [mk_kept_iff]
    | split
theorem windowRead_kept {s : State} {a : Nat} {n : Nat} {u : Upset} : Kept s (windowRead s a n u).1 := by
  unfold windowRead
  (try simp only [])
  repeat' first
    | with_reducible apply Kept.ite ?_ ?_
    | with_reducible exact Kept.refl
    | with_reducible apply Kept.trans ?_ setReg_kept
    | with_reducible apply Kept.trans ?_ State_irqBit_kept
    | with_reducible apply Kept.trans ?_ State_correctable_kept
    | (with_reducible apply Kept.foldl ?_ ?_; intro x a; (try simp only []))
    | simp only [mk_kept_iff]
    | split
end Sys2Proof.Laws
end

