-- ==== Sys2Proof/Laws/KeepTransport.lean ====
section
/-! SUPPORT. What the operations of Machine/Transport.lean leave alone (Laws/Kept.lean). -/
namespace Sys2Proof.Laws
set_option linter.unusedTactic false
set_option linter.unreachableTactic false
open Sys2Proof.Machine
theorem dropCst_kept {s : State} {n : Nat} : Kept s (dropCst s n) := by
  unfold dropCst
  (try simp only [])
  repeat' first
    | with_reducible apply Kept.ite ?_ ?_
    | with_reducible exact Kept.refl
    | with_reducible apply Kept.trans ?_ State_setRegF_kept
    | (with_reducible apply Kept.foldl ?_ ?_; intro x a; (try simp only []))
    | simp only [mk_kept_iff]
    | split
theorem dropIp_kept {s : State} {n : Nat} : Kept s (dropIp s n) := by
  unfold dropIp
  (try simp only [])
  repeat' first
    | with_reducible apply Kept.ite ?_ ?_
    | with_reducible exact Kept.refl
    | with_reducible apply Kept.trans ?_ State_setRegF_kept
    | (with_reducible apply Kept.foldl ?_ ?_; intro x a; (try simp only []))
    | simp only [mk_kept_iff]
    | split
theorem cstOut_kept {s : State} {n : Nat} {prio : Nat} {peer : List Byte} {b : List Byte} : Kept s (cstOut s n prio peer b) := by
  unfold cstOut
  (try simp only [])
  repeat' first
    | with_reducible apply Kept.ite ?_ ?_
    | with_reducible exact Kept.refl
    | (with_reducible apply Kept.foldl ?_ ?_; intro x a; (try simp only []))
    | simp only [mk_kept_iff]
    | split
theorem cstSend_kept {s : State} {n : Nat} {peer : List Byte} {f : Cst} : Kept s (cstSend s n peer f) := by
  unfold cstSend
  (try simp only [])
  repeat' first
    | with_reducible apply Kept.ite ?_ ?_
    | with_reducible exact Kept.refl
    | with_reducible apply Kept.trans ?_ cstOut_kept
    | (with_reducible apply Kept.foldl ?_ ?_; intro x a; (try simp only []))
    | simp only [mk_kept_iff]
    | split
theorem pfcRx_kept {s : State} {n : Nat} {prio : Nat} {pause : Bool} : Kept s (pfcRx s n prio pause) := by
  unfold pfcRx
  (try simp only [])
  repeat' first
    | with_reducible apply Kept.ite ?_ ?_
    | with_reducible exact Kept.refl
    | (with_reducible apply Kept.foldl ?_ ?_; intro x a; (try simp only []))
    | simp only [mk_kept_iff]
    | split
theorem bufferIn_kept {s : State} {n : Nat} {prio : Nat} {len : Nat} : Kept s (bufferIn s n prio len) := by
  unfold bufferIn
  (try simp only [])
  repeat' first
    | with_reducible apply Kept.ite ?_ ?_
    | with_reducible exact Kept.refl
    | (with_reducible apply Kept.foldl ?_ ?_; intro x a; (try simp only []))
    | simp only [mk_kept_iff]
    | split
theorem bufferOut_kept {s : State} {n : Nat} {prio : Nat} : Kept s (bufferOut s n prio) := by
  unfold bufferOut
  (try simp only [])
  repeat' first
    | with_reducible apply Kept.ite ?_ ?_
    | with_reducible exact Kept.refl
    | (with_reducible apply Kept.foldl ?_ ?_; intro x a; (try simp only []))
    | simp only [mk_kept_iff]
    | split
theorem State_setWin_kept {s : State} {w : Nat} {x : Option Win} : Kept s (State.setWin s w x) := by
  unfold State.setWin
  (try simp only [])
  repeat' first
    | with_reducible apply Kept.ite ?_ ?_
    | with_reducible exact Kept.refl
    | (with_reducible apply Kept.foldl ?_ ?_; intro x a; (try simp only []))
    | simp only [mk_kept_iff]
    | split
theorem winSend_kept {s : State} {ix : Nat} {w : Win} {kind : Nat} {off : Nat} {arg : Nat} {payload : List Byte} :
    Kept s (winSend s ix w kind off arg payload) := by
  unfold winSend
  (try simp only [])
  repeat' first
    | with_reducible apply Kept.ite ?_ ?_
    | with_reducible exact Kept.refl
    | with_reducible apply Kept.trans ?_ cstSend_kept
    | (with_reducible apply Kept.foldl ?_ ?_; intro x a; (try simp only []))
    | simp only [mk_kept_iff]
    | split
theorem sendCredit_kept {s : State} {ix : Nat} : Kept s (sendCredit s ix) := by
  unfold sendCredit
  (try simp only [])
  repeat' first
    | with_reducible apply Kept.ite ?_ ?_
    | with_reducible exact Kept.refl
    | with_reducible apply Kept.trans ?_ State_setWin_kept
    | with_reducible apply Kept.trans ?_ winSend_kept
    | (with_reducible apply Kept.foldl ?_ ?_; intro x a; (try simp only []))
    | simp only [mk_kept_iff]
    | split
theorem submit_kept {s : State} {n : Nat} {q : Nat} {entry : List Byte} : Kept s (submit s n q entry).1 := by
  unfold submit
  (try simp only [])
  repeat' first
    | with_reducible apply Kept.ite ?_ ?_
    | with_reducible exact Kept.refl
    | with_reducible apply Kept.trans ?_ ctxRead_kept
    | with_reducible apply Kept.trans ?_ dmaWrite_kept
    | with_reducible apply Kept.trans ?_ doorbell_kept
    | with_reducible refine Kept.viaFst ‹ctxRead _ _ = (_, _)› ctxRead_kept ?_
    | with_reducible refine Kept.viaFst ‹dmaWrite _ _ _ _ = (_, _)› dmaWrite_kept ?_
    | with_reducible refine Kept.viaFst ‹doorbell _ _ _ _ = (_, _)› doorbell_kept ?_
    | (with_reducible apply Kept.foldl ?_ ?_; intro x a; (try simp only []))
    | simp only [mk_kept_iff]
    | (split <;> (try simp only []))
theorem subPut_kept {s : State} {x : Sub} : Kept s (subPut s x) := by
  unfold subPut
  (try simp only [])
  repeat' first
    | with_reducible apply Kept.ite ?_ ?_
    | with_reducible exact Kept.refl
    | (with_reducible apply Kept.foldl ?_ ?_; intro x a; (try simp only []))
    | simp only [mk_kept_iff]
    | split
theorem winSubmit_kept {s : State} {ix : Nat} : Kept s (winSubmit s ix) := by
  unfold winSubmit
  (try simp only [])
  repeat' first
    | with_reducible apply Kept.ite ?_ ?_
    | with_reducible exact Kept.refl
    | with_reducible apply Kept.trans ?_ submit_kept
    | with_reducible apply Kept.trans ?_ State_setWin_kept
    | with_reducible apply Kept.trans ?_ subPut_kept
    | with_reducible refine Kept.viaFst ‹submit _ _ _ _ = (_, _)› submit_kept ?_
    | (with_reducible apply Kept.foldl ?_ ?_; intro x a; (try simp only []))
    | simp only [mk_kept_iff]
    | (split <;> (try simp only []))
theorem plainSubmit_kept {s : State} {n : Nat} {peer : List Byte} {f : Cst} {entry : List Byte} :
    Kept s (plainSubmit s n peer f entry) := by
  unfold plainSubmit
  (try simp only [])
  repeat' first
    | with_reducible apply Kept.ite ?_ ?_
    | with_reducible exact Kept.refl
    | with_reducible apply Kept.trans ?_ submit_kept
    | with_reducible apply Kept.trans ?_ subPut_kept
    | with_reducible apply Kept.trans ?_ cstSend_kept
    | with_reducible refine Kept.viaFst ‹submit _ _ _ _ = (_, _)› submit_kept ?_
    | (with_reducible apply Kept.foldl ?_ ?_; intro x a; (try simp only []))
    | simp only [mk_kept_iff]
    | (split <;> (try simp only []))
theorem sendData_kept {s : State} {ix : Nat} {off : Nat} : Kept s (sendData s ix off).1 := by
  unfold sendData
  (try simp only [])
  repeat' first
    | with_reducible apply Kept.ite ?_ ?_
    | with_reducible exact Kept.refl
    | with_reducible apply Kept.trans ?_ dmaRead_kept
    | with_reducible apply Kept.trans ?_ winSend_kept
    | with_reducible refine Kept.viaFst ‹dmaRead _ _ _ _ = (_, _)› dmaRead_kept ?_
    | (with_reducible apply Kept.foldl ?_ ?_; intro x a; (try simp only []))
    | simp only [mk_kept_iff]
    | (split <;> (try simp only []))
theorem sendMore_kept {s : State} {ix : Nat} {x2 : Nat} : Kept s (sendMore s ix x2) := by
  fun_induction sendMore s ix x2 <;> (try simp only []) <;>
    repeat' first
      | with_reducible apply Kept.ite ?_ ?_
      | with_reducible exact Kept.refl
      | with_reducible apply Kept.trans ?_ sendData_kept
      | with_reducible apply Kept.trans ?_ State_setWin_kept
      | with_reducible refine Kept.viaFst ‹sendData _ _ _ = (_, _)› sendData_kept ?_
      | with_reducible apply Kept.trans ?_ (by assumption)
      | (with_reducible apply Kept.foldl ?_ ?_; intro x a; (try simp only []))
      | simp only [mk_kept_iff]
      | (split <;> (try simp only []))
theorem resendData_kept {s : State} {ix : Nat} : Kept s (resendData s ix) := by
  unfold resendData
  (try simp only [])
  repeat' first
    | with_reducible apply Kept.ite ?_ ?_
    | with_reducible exact Kept.refl
    | with_reducible apply Kept.trans ?_ sendData_kept
    | (with_reducible apply Kept.foldl ?_ ?_; intro x a; (try simp only []))
    | simp only [mk_kept_iff]
    | split
theorem sendResp_kept {s : State} {ix : Nat} : Kept s (sendResp s ix) := by
  unfold sendResp
  (try simp only [])
  repeat' first
    | with_reducible apply Kept.ite ?_ ?_
    | with_reducible exact Kept.refl
    | with_reducible apply Kept.trans ?_ State_setWin_kept
    | with_reducible apply Kept.trans ?_ winSend_kept
    | (with_reducible apply Kept.foldl ?_ ?_; intro x a; (try simp only []))
    | simp only [mk_kept_iff]
    | split
theorem sentAll_kept {s : State} {ix : Nat} : Kept s (sentAll s ix) := by
  unfold sentAll
  (try simp only [])
  repeat' first
    | with_reducible apply Kept.ite ?_ ?_
    | with_reducible exact Kept.refl
    | with_reducible apply Kept.trans ?_ sendResp_kept
    | (with_reducible apply Kept.foldl ?_ ?_; intro x a; (try simp only []))
    | simp only [mk_kept_iff]
    | split
theorem winComplete_kept {s : State} {ix : Nat} {w : Win} {comp : List Byte} : Kept s (winComplete s ix w comp) := by
  unfold winComplete
  (try simp only [])
  repeat' first
    | with_reducible apply Kept.ite ?_ ?_
    | with_reducible exact Kept.refl
    | with_reducible apply Kept.trans ?_ sendMore_kept
    | with_reducible apply Kept.trans ?_ State_setWin_kept
    | with_reducible apply Kept.trans ?_ sendResp_kept
    | (with_reducible apply Kept.foldl ?_ ?_; intro x a; (try simp only []))
    | simp only [mk_kept_iff]
    | split
theorem subComplete_kept {s : State} {x : Sub} {comp : List Byte} : Kept s (subComplete s x comp) := by
  unfold subComplete
  (try simp only [])
  repeat' first
    | with_reducible apply Kept.ite ?_ ?_
    | with_reducible exact Kept.refl
    | with_reducible apply Kept.trans ?_ cstSend_kept
    | with_reducible apply Kept.trans ?_ winComplete_kept
    | (with_reducible apply Kept.foldl ?_ ?_; intro x a; (try simp only []))
    | simp only [mk_kept_iff]
    | split
theorem cqAdvance_kept {s : State} {n : Nat} {q : Nat} {c : QCtx} : Kept s (cqAdvance s n q c) := by
  unfold cqAdvance
  (try simp only [])
  repeat' first
    | with_reducible apply Kept.ite ?_ ?_
    | with_reducible exact Kept.refl
    | with_reducible apply Kept.trans ?_ doorbell_kept
    | (with_reducible apply Kept.foldl ?_ ?_; intro x a; (try simp only []))
    | simp only [mk_kept_iff]
    | split
theorem outComplete_kept {s : State} {q : Nat} : Kept s (outComplete s q) := by
  unfold outComplete
  (try simp only [])
  repeat' first
    | with_reducible apply Kept.ite ?_ ?_
    | with_reducible exact Kept.refl
    | with_reducible apply Kept.trans ?_ ctxRead_kept
    | with_reducible apply Kept.trans ?_ dmaRead_kept
    | with_reducible apply Kept.trans ?_ subComplete_kept
    | with_reducible apply Kept.trans ?_ cqAdvance_kept
    | with_reducible refine Kept.viaFst ‹ctxRead _ _ = (_, _)› ctxRead_kept ?_
    | with_reducible refine Kept.viaFst ‹dmaRead _ _ _ _ = (_, _)› dmaRead_kept ?_
    | (with_reducible apply Kept.foldl ?_ ?_; intro x a; (try simp only []))
    | simp only [mk_kept_iff]
    | (split <;> (try simp only []))
theorem dataRetransmit_kept {s : State} {ix : Nat} {i : Nat} : Kept s (dataRetransmit s ix i) := by
  unfold dataRetransmit
  (try simp only [])
  repeat' first
    | with_reducible apply Kept.ite ?_ ?_
    | with_reducible exact Kept.refl
    | with_reducible apply Kept.trans ?_ sendData_kept
    | (with_reducible apply Kept.foldl ?_ ?_; intro x a; (try simp only []))
    | simp only [mk_kept_iff]
    | split
theorem respAgain_kept {s : State} {ix : Nat} : Kept s (respAgain s ix) := by
  unfold respAgain
  (try simp only [])
  repeat' first
    | with_reducible apply Kept.ite ?_ ?_
    | with_reducible exact Kept.refl
    | with_reducible apply Kept.trans ?_ State_setWin_kept
    | with_reducible apply Kept.trans ?_ sendResp_kept
    | (with_reducible apply Kept.foldl ?_ ?_; intro x a; (try simp only []))
    | simp only [mk_kept_iff]
    | split
theorem newWindow_kept {s : State} {n : Nat} {peer : List Byte} {f : Cst} : Kept s (newWindow s n peer f) := by
  unfold newWindow
  (try simp only [])
  repeat' first
    | with_reducible apply Kept.ite ?_ ?_
    | with_reducible exact Kept.refl
    | with_reducible apply Kept.trans ?_ cstSend_kept
    | with_reducible apply Kept.trans ?_ winSend_kept
    | with_reducible apply Kept.trans ?_ State_setWin_kept
    | with_reducible apply Kept.trans ?_ winSubmit_kept
    | (with_reducible apply Kept.foldl ?_ ?_; intro x a; (try simp only []))
    | simp only [mk_kept_iff]
    | split
theorem reqRx_kept {s : State} {n : Nat} {peer : List Byte} {f : Cst} : Kept s (reqRx s n peer f) := by
  unfold reqRx
  (try simp only [])
  repeat' first
    | with_reducible apply Kept.ite ?_ ?_
    | with_reducible exact Kept.refl
    | with_reducible apply Kept.trans ?_ dropCst_kept
    | with_reducible apply Kept.trans ?_ cstSend_kept
    | with_reducible apply Kept.trans ?_ ctxRead_kept
    | with_reducible apply Kept.trans ?_ State_setWin_kept
    | with_reducible apply Kept.trans ?_ winSend_kept
    | with_reducible apply Kept.trans ?_ winSubmit_kept
    | with_reducible apply Kept.trans ?_ resendData_kept
    | with_reducible apply Kept.trans ?_ sendResp_kept
    | with_reducible apply Kept.trans ?_ plainSubmit_kept
    | with_reducible apply Kept.trans ?_ newWindow_kept
    | with_reducible refine Kept.viaFst ‹ctxRead _ _ = (_, _)› ctxRead_kept ?_
    | (with_reducible apply Kept.foldl ?_ ?_; intro x a; (try simp only []))
    | simp only [mk_kept_iff]
    | (split <;> (try simp only []))
theorem dataRx_kept {s : State} {n : Nat} {f : Cst} : Kept s (dataRx s n f) := by
  unfold dataRx
  (try simp only [])
  repeat' first
    | with_reducible apply Kept.ite ?_ ?_
    | with_reducible exact Kept.refl
    | with_reducible apply Kept.trans ?_ dropCst_kept
    | with_reducible apply Kept.trans ?_ sendCredit_kept
    | with_reducible apply Kept.trans ?_ dmaWrite_kept
    | with_reducible apply Kept.trans ?_ State_setWin_kept
    | with_reducible apply Kept.trans ?_ winSubmit_kept
    | with_reducible refine Kept.viaFst ‹dmaWrite _ _ _ _ = (_, _)› dmaWrite_kept ?_
    | (with_reducible apply Kept.foldl ?_ ?_; intro x a; (try simp only []))
    | simp only [mk_kept_iff]
    | (split <;> (try simp only []))
theorem creditRx_kept {s : State} {f : Cst} : Kept s (creditRx s f) := by
  unfold creditRx
  (try simp only [])
  repeat' first
    | with_reducible apply Kept.ite ?_ ?_
    | with_reducible exact Kept.refl
    | with_reducible apply Kept.trans ?_ sentAll_kept
    | with_reducible apply Kept.trans ?_ sendMore_kept
    | with_reducible apply Kept.trans ?_ State_setWin_kept
    | (with_reducible apply Kept.foldl ?_ ?_; intro x a; (try simp only []))
    | simp only [mk_kept_iff]
    | split
theorem rackRx_kept {s : State} {f : Cst} : Kept s (rackRx s f) := by
  unfold rackRx
  (try simp only [])
  repeat' first
    | with_reducible apply Kept.ite ?_ ?_
    | with_reducible exact Kept.refl
    | with_reducible apply Kept.trans ?_ State_setWin_kept
    | (with_reducible apply Kept.foldl ?_ ?_; intro x a; (try simp only []))
    | simp only [mk_kept_iff]
    | split
theorem cstRx_kept {s : State} {n : Nat} {peer : List Byte} {dgram : List Byte} {want : Nat} :
    Kept s (cstRx s n peer dgram want) := by
  unfold cstRx
  (try simp only [])
  repeat' first
    | with_reducible apply Kept.ite ?_ ?_
    | with_reducible exact Kept.refl
    | with_reducible apply Kept.trans ?_ dropCst_kept
    | with_reducible apply Kept.trans ?_ reqRx_kept
    | with_reducible apply Kept.trans ?_ dataRx_kept
    | with_reducible apply Kept.trans ?_ creditRx_kept
    | with_reducible apply Kept.trans ?_ rackRx_kept
    | (with_reducible apply Kept.foldl ?_ ?_; intro x a; (try simp only []))
    | simp only [mk_kept_iff]
    | split
theorem ethRx_kept {s : State} {n : Nat} {frame : List Byte} {f : State → EthRx → State} (hf : ∀ t c, Kept t (f t c)) :
    Kept s (ethRx s n frame f) :=
  Kept.ite (bufferIn_kept.trans ((hf _ _).trans bufferOut_kept)) Kept.refl
theorem cstFrame_kept {s : State} {n : Nat} {frame : List Byte} {want : Nat} : Kept s (cstFrame s n frame want) :=
  ethRx_kept fun t c => by
    cases c with
    | cst peer dgram => exact cstRx_kept
    | _ => exact Kept.refl
theorem creditTimer_kept {s : State} {ix : Nat} : Kept s (creditTimer s ix) := by
  unfold creditTimer
  (try simp only [])
  repeat' first
    | with_reducible apply Kept.ite ?_ ?_
    | with_reducible exact Kept.refl
    | with_reducible apply Kept.trans ?_ sendCredit_kept
    | (with_reducible apply Kept.foldl ?_ ?_; intro x a; (try simp only []))
    | simp only [mk_kept_iff]
    | split
theorem slowPut_kept {s : State} {n : Nat} {frame : List Byte} : Kept s (slowPut s n frame) := by
  unfold slowPut
  (try simp only [])
  repeat' first
    | with_reducible apply Kept.ite ?_ ?_
    | with_reducible exact Kept.refl
    | with_reducible apply Kept.trans ?_ dmaWrite_kept
    | with_reducible apply Kept.trans ?_ State_irqBit_kept
    | with_reducible apply Kept.trans ?_ State_setRegF_kept
    | with_reducible refine Kept.viaFst ‹dmaWrite _ _ _ _ = (_, _)› dmaWrite_kept ?_
    | (with_reducible apply Kept.foldl ?_ ?_; intro x a; (try simp only []))
    | simp only [mk_kept_iff]
    | (split <;> (try simp only []))
theorem slowRx_kept {s : State} {n : Nat} {frame : List Byte} : Kept s (slowRx s n frame) :=
  ethRx_kept fun t c => by
    cases c with
    | ipRule => exact dropIp_kept
    | slow => exact slowPut_kept
    | _ => exact Kept.refl
theorem slowTx_kept {s : State} {n : Nat} {x2 : Nat} : Kept s (slowTx s n x2) := by
  fun_induction slowTx s n x2 <;> (try simp only []) <;>
    repeat' first
      | with_reducible apply Kept.ite ?_ ?_
      | with_reducible exact Kept.refl
      | with_reducible apply Kept.trans ?_ dmaRead_kept
      | with_reducible apply Kept.trans ?_ State_setRegF_kept
      | with_reducible refine Kept.viaFst ‹dmaRead _ _ _ _ = (_, _)› dmaRead_kept ?_
      | with_reducible apply Kept.trans ?_ (by assumption)
      | (with_reducible apply Kept.foldl ?_ ?_; intro x a; (try simp only []))
      | simp only [mk_kept_iff]
      | (split <;> (try simp only []))
theorem linkCtlWrite_kept {s : State} {page : Nat} {m : Word32} {v : Word32} : Kept s (linkCtlWrite s page m v) := by
  unfold linkCtlWrite
  (try simp only [])
  repeat' first
    | with_reducible apply Kept.ite ?_ ?_
    | with_reducible exact Kept.refl
    | with_reducible apply Kept.trans ?_ setReg_kept
    | with_reducible apply Kept.trans ?_ portDownAll_kept
    | (with_reducible apply Kept.foldl ?_ ?_; intro x a; (try simp only []))
    | simp only [mk_kept_iff]
    | split
theorem portCameUp_kept {s : State} {n : Nat} {sub : Nat} : Kept s (portCameUp s n sub) := by
  unfold portCameUp
  (try simp only [])
  repeat' first
    | with_reducible apply Kept.ite ?_ ?_
    | with_reducible exact Kept.refl
    | with_reducible apply Kept.trans ?_ portUpEdge_kept
    | with_reducible apply Kept.trans ?_ slowTx_kept
    | (with_reducible apply Kept.foldl ?_ ?_; intro x a; (try simp only []))
    | simp only [mk_kept_iff]
    | split
theorem linkLasting_kept {s : State} {page : Nat} : Kept s (linkLasting s page) := by
  unfold linkLasting
  (try simp only [])
  repeat' first
    | with_reducible apply Kept.ite ?_ ?_
    | with_reducible exact Kept.refl
    | with_reducible apply Kept.trans ?_ portDownAll_kept
    | with_reducible apply Kept.trans ?_ State_setRegF_kept
    | (with_reducible apply Kept.foldl ?_ ?_; intro x a; (try simp only []))
    | simp only [mk_kept_iff]
    | split
theorem ethpWrite_kept {s : State} {n : Nat} {off : Nat} {v : Word32} : KeptO s Prod.fst (ethpWrite s n off v) := by
  unfold ethpWrite
  (try simp only [])
  repeat' first
    | with_reducible exact KeptO.none
    | with_reducible apply KeptO.some
    | with_reducible apply KeptO.ite ?_ ?_
    | with_reducible apply KeptO.map
    | with_reducible apply Kept.ite ?_ ?_
    | with_reducible exact Kept.refl
    | with_reducible apply Kept.trans ?_ linkCtlWrite_kept
    | with_reducible apply Kept.trans ?_ slowTx_kept
    | with_reducible apply Kept.trans ?_ State_setRegF_kept
    | (with_reducible apply Kept.foldl ?_ ?_; intro x a; (try simp only []))
    | simp only [mk_kept_iff]
    | split
end Sys2Proof.Laws
end

