-- ==== Sys2Proof/Laws/KeepPairLink.lean ====
section
/-! SUPPORT. What the operations of Machine/PairLink.lean leave alone (Laws/Kept.lean). -/
namespace Sys2Proof.Laws
set_option linter.unusedTactic false
set_option linter.unreachableTactic false
open Sys2Proof.Machine
theorem State_setSup64_kept {s : State} {off : Nat} {v : Nat} : Kept s (State.setSup64 s off v) := by
  unfold State.setSup64
  (try simp only [])
  repeat' first
    | with_reducible apply Kept.ite ?_ ?_
    | with_reducible exact Kept.refl
    | with_reducible apply Kept.trans ?_ setReg_kept
    | (with_reducible apply Kept.foldl ?_ ?_; intro x a; (try simp only []))
    | simp only [mk_kept_iff]
    | split
theorem State_setEpoch_kept {s : State} {v : Nat} : Kept s (State.setEpoch s v) := by
  unfold State.setEpoch
  (try simp only [])
  repeat' first
    | with_reducible apply Kept.ite ?_ ?_
    | with_reducible exact Kept.refl
    | with_reducible apply Kept.trans ?_ State_setSup64_kept
    | (with_reducible apply Kept.foldl ?_ ?_; intro x a; (try simp only []))
    | simp only [mk_kept_iff]
    | split
theorem State_setPstate_kept {s : State} {v : Nat} : Kept s (State.setPstate s v) := by
  unfold State.setPstate
  (try simp only [])
  repeat' first
    | with_reducible apply Kept.ite ?_ ?_
    | with_reducible exact Kept.refl
    | with_reducible apply Kept.trans ?_ State_setRegF_kept
    | (with_reducible apply Kept.foldl ?_ ?_; intro x a; (try simp only []))
    | simp only [mk_kept_iff]
    | split
theorem State_setPlink_kept {s : State} {x : PairLink} : Kept s (State.setPlink s x) := by
  unfold State.setPlink
  (try simp only [])
  repeat' first
    | with_reducible apply Kept.ite ?_ ?_
    | with_reducible exact Kept.refl
    | (with_reducible apply Kept.foldl ?_ ?_; intro x a; (try simp only []))
    | simp only [mk_kept_iff]
    | split
theorem masterTaken_kept {s : State} : Kept s (masterTaken s) := by
  unfold masterTaken
  (try simp only [])
  repeat' first
    | with_reducible apply Kept.ite ?_ ?_
    | with_reducible exact Kept.refl
    | with_reducible apply Kept.trans ?_ State_setRegF_kept
    | with_reducible apply Kept.trans ?_ State_setBay_kept
    | with_reducible apply Kept.trans ?_ State_setMstate_kept
    | (with_reducible apply Kept.foldl ?_ ?_; intro x a; (try simp only []))
    | simp only [mk_kept_iff]
    | split
theorem mirrorEnd_kept {s : State} {m : Mirror} {status : Nat} : Kept s (mirrorEnd s m status) := by
  unfold mirrorEnd
  (try simp only [])
  repeat' first
    | with_reducible apply Kept.ite ?_ ?_
    | with_reducible exact Kept.refl
    | with_reducible apply Kept.trans ?_ dmaWrite_kept
    | with_reducible apply Kept.trans ?_ dmaRing_kept
    | with_reducible refine Kept.viaFst ‹dmaWrite _ _ _ _ = (_, _)› dmaWrite_kept ?_
    | (with_reducible apply Kept.foldl ?_ ?_; intro x a; (try simp only []))
    | simp only [mk_kept_iff]
    | (split <;> (try simp only []))
theorem mirrorsLost_kept {s : State} : Kept s (mirrorsLost s) := by
  unfold mirrorsLost
  (try simp only [])
  repeat' first
    | with_reducible apply Kept.ite ?_ ?_
    | with_reducible exact Kept.refl
    | with_reducible apply Kept.trans ?_ mirrorEnd_kept
    | with_reducible apply Kept.trans ?_ State_setPlink_kept
    | (with_reducible apply Kept.foldl ?_ ?_; intro x a; (try simp only []))
    | simp only [mk_kept_iff]
    | split
theorem survive_kept {s : State} : Kept s (survive s) := by
  unfold survive
  (try simp only [])
  repeat' first
    | with_reducible apply Kept.ite ?_ ?_
    | with_reducible exact Kept.refl
    | with_reducible apply Kept.trans ?_ masterTaken_kept
    | with_reducible apply Kept.trans ?_ homeAll_kept
    | with_reducible apply Kept.trans ?_ State_setPstate_kept
    | with_reducible apply Kept.trans ?_ State_setEpoch_kept
    | with_reducible apply Kept.trans ?_ State_irqBit_kept
    | with_reducible apply Kept.trans ?_ fctlWrite_kept
    | (with_reducible apply Kept.foldl ?_ ?_; intro x a; (try simp only []))
    | simp only [mk_kept_iff]
    | split
theorem enterSolo_kept {s : State} : Kept s (enterSolo s) := by
  unfold enterSolo
  (try simp only [])
  repeat' first
    | with_reducible apply Kept.ite ?_ ?_
    | with_reducible exact Kept.refl
    | with_reducible apply Kept.trans ?_ masterTaken_kept
    | with_reducible apply Kept.trans ?_ homeAll_kept
    | with_reducible apply Kept.trans ?_ State_setPstate_kept
    | (with_reducible apply Kept.foldl ?_ ?_; intro x a; (try simp only []))
    | simp only [mk_kept_iff]
    | split
theorem dropDispatched_kept {s : State} : Kept s (dropDispatched s) := by
  unfold dropDispatched
  (try simp only [])
  repeat' first
    | with_reducible apply Kept.ite ?_ ?_
    | with_reducible exact Kept.refl
    | (with_reducible apply Kept.foldl ?_ ?_; intro x a; (try simp only []))
    | simp only [mk_kept_iff]
    | split
theorem deltasReleased_kept {s : State} {survivor : Bool} : Kept s (deltasReleased s survivor) := by
  unfold deltasReleased
  (try simp only [])
  repeat' first
    | with_reducible apply Kept.ite ?_ ?_
    | with_reducible exact Kept.refl
    | with_reducible apply Kept.trans ?_ compTail_kept
    | (with_reducible apply Kept.foldl ?_ ?_; intro x a; (try simp only []))
    | simp only [mk_kept_iff]
    | split
theorem fencedSteps_kept {s : State} : Kept s (fencedSteps s) := by
  unfold fencedSteps
  (try simp only [])
  repeat' first
    | with_reducible apply Kept.ite ?_ ?_
    | with_reducible exact Kept.refl
    | with_reducible apply Kept.trans ?_ fenceDevice_kept
    | with_reducible apply Kept.trans ?_ dropDispatched_kept
    | (with_reducible apply Kept.foldl ?_ ?_; intro x a; (try simp only []))
    | simp only [mk_kept_iff]
    | split
theorem loss_kept {s : State} : Kept s (loss s) := by
  unfold loss
  (try simp only [])
  repeat' first
    | with_reducible apply Kept.ite ?_ ?_
    | with_reducible exact Kept.refl
    | with_reducible apply Kept.trans ?_ State_irqBit_kept
    | with_reducible apply Kept.trans ?_ State_setPlink_kept
    | with_reducible apply Kept.trans ?_ deltasReleased_kept
    | with_reducible apply Kept.trans ?_ mirrorsLost_kept
    | with_reducible apply Kept.trans ?_ survive_kept
    | with_reducible apply Kept.trans ?_ fencedSteps_kept
    | (with_reducible apply Kept.foldl ?_ ?_; intro x a; (try simp only []))
    | simp only [mk_kept_iff]
    | split
theorem joinKey_kept {s : State} : Kept s (joinKey s) := by
  unfold joinKey
  (try simp only [])
  repeat' first
    | with_reducible apply Kept.ite ?_ ?_
    | with_reducible exact Kept.refl
    | with_reducible apply Kept.trans ?_ State_fresh_kept
    | with_reducible apply Kept.trans ?_ setReg_kept
    | (with_reducible apply Kept.foldl ?_ ?_; intro x a; (try simp only []))
    | simp only [mk_kept_iff]
    | split
theorem heartbeat_kept {s : State} : Kept s (heartbeat s) := by
  unfold heartbeat
  (try simp only [])
  repeat' first
    | with_reducible apply Kept.ite ?_ ?_
    | with_reducible exact Kept.refl
    | with_reducible apply Kept.trans ?_ State_setPlink_kept
    | with_reducible apply Kept.trans ?_ pairSend_kept
    | with_reducible apply Kept.trans ?_ joinKey_kept
    | with_reducible apply Kept.trans ?_ enterSolo_kept
    | (with_reducible apply Kept.foldl ?_ ?_; intro x a; (try simp only []))
    | simp only [mk_kept_iff]
    | split
theorem supSlew_kept {s : State} {d : Int} {partner : Nat} : Kept s (supSlew s d partner) := by
  unfold supSlew
  (try simp only [])
  repeat' first
    | with_reducible apply Kept.ite ?_ ?_
    | with_reducible exact Kept.refl
    | with_reducible apply Kept.trans ?_ State_setBelf_kept
    | (with_reducible apply Kept.foldl ?_ ?_; intro x a; (try simp only []))
    | simp only [mk_kept_iff]
    | split
theorem hbRx_kept {s : State} {n : Nat} {rtt : Nat} : Kept s (hbRx s n rtt) := by
  unfold hbRx
  (try simp only [])
  repeat' first
    | with_reducible apply Kept.ite ?_ ?_
    | with_reducible exact Kept.refl
    | with_reducible apply Kept.trans ?_ State_setPlink_kept
    | with_reducible apply Kept.trans ?_ setReg_kept
    | with_reducible apply Kept.trans ?_ supSlew_kept
    | with_reducible refine KeptO.via (f := Prod.snd) ‹inboxTake _ _ _ = some _› inboxTake_kept ?_
    | exact KeptO.via (f := Prod.snd) ‹inboxTake _ _ _ = some _› inboxTake_kept Kept.refl
    | with_reducible apply KeptO.getD inboxTake_kept
    | (with_reducible apply Kept.foldl ?_ ?_; intro x a; (try simp only []))
    | simp only [mk_kept_iff]
    | (split <;> (try simp only []))
theorem joinGo_kept {s : State} {epoch : Nat} {serial : Nat} {key : Nat} : Kept s (joinGo s epoch serial key) := by
  unfold joinGo
  (try simp only [])
  repeat' first
    | with_reducible apply Kept.ite ?_ ?_
    | with_reducible exact Kept.refl
    | with_reducible apply Kept.trans ?_ State_setPlink_kept
    | with_reducible apply Kept.trans ?_ homeAll_kept
    | with_reducible apply Kept.trans ?_ masterLost_kept
    | with_reducible apply Kept.trans ?_ State_setPstate_kept
    | with_reducible apply Kept.trans ?_ enterSolo_kept
    | (with_reducible apply Kept.foldl ?_ ?_; intro x a; (try simp only []))
    | simp only [mk_kept_iff]
    | split
theorem joinSeen_kept {s : State} {serial : Nat} {time : Nat} : Kept s (joinSeen s serial time) := by
  unfold joinSeen
  (try simp only [])
  repeat' first
    | with_reducible apply Kept.ite ?_ ?_
    | with_reducible exact Kept.refl
    | with_reducible apply Kept.trans ?_ supSlew_kept
    | with_reducible apply Kept.trans ?_ State_setSup64_kept
    | (with_reducible apply Kept.foldl ?_ ?_; intro x a; (try simp only []))
    | simp only [mk_kept_iff]
    | split
theorem joinRx_kept {s : State} {n : Nat} : Kept s (joinRx s n) := by
  unfold joinRx
  (try simp only [])
  repeat' first
    | with_reducible apply Kept.ite ?_ ?_
    | with_reducible exact Kept.refl
    | with_reducible apply Kept.trans ?_ joinKey_kept
    | with_reducible apply Kept.trans ?_ joinSeen_kept
    | with_reducible apply Kept.trans ?_ pairSend_kept
    | with_reducible apply Kept.trans ?_ joinGo_kept
    | with_reducible refine KeptO.via (f := Prod.snd) ‹inboxTake _ _ _ = some _› inboxTake_kept ?_
    | exact KeptO.via (f := Prod.snd) ‹inboxTake _ _ _ = some _› inboxTake_kept Kept.refl
    | with_reducible apply KeptO.getD inboxTake_kept
    | (with_reducible apply Kept.foldl ?_ ?_; intro x a; (try simp only []))
    | simp only [mk_kept_iff]
    | (split <;> (try simp only []))
theorem joinrspRx_kept {s : State} {n : Nat} : Kept s (joinrspRx s n) := by
  unfold joinrspRx
  (try simp only [])
  repeat' first
    | with_reducible apply Kept.ite ?_ ?_
    | with_reducible exact Kept.refl
    | with_reducible apply Kept.trans ?_ joinSeen_kept
    | with_reducible apply Kept.trans ?_ joinGo_kept
    | with_reducible apply Kept.trans ?_ State_irqBit_kept
    | with_reducible apply Kept.trans ?_ homeAll_kept
    | with_reducible apply Kept.trans ?_ masterLost_kept
    | with_reducible apply Kept.trans ?_ State_setPstate_kept
    | with_reducible apply Kept.trans ?_ State_setPlink_kept
    | with_reducible refine KeptO.via (f := Prod.snd) ‹inboxTake _ _ _ = some _› inboxTake_kept ?_
    | exact KeptO.via (f := Prod.snd) ‹inboxTake _ _ _ = some _› inboxTake_kept Kept.refl
    | with_reducible apply KeptO.getD inboxTake_kept
    | (with_reducible apply Kept.foldl ?_ ?_; intro x a; (try simp only []))
    | simp only [mk_kept_iff]
    | (split <;> (try simp only []))
theorem sataShut_kept {s : State} : Kept s (sataShut s) := by
  unfold sataShut
  (try simp only [])
  repeat' first
    | with_reducible apply Kept.ite ?_ ?_
    | with_reducible exact Kept.refl
    | with_reducible apply Kept.trans ?_ upEdge_kept
    | with_reducible apply Kept.trans ?_ sataHold_kept
    | (with_reducible apply Kept.foldl ?_ ?_; intro x a; (try simp only []))
    | simp only [mk_kept_iff]
    | split
theorem resyncDone_kept {s : State} : Kept s (resyncDone s) := by
  unfold resyncDone
  (try simp only [])
  repeat' first
    | with_reducible apply Kept.ite ?_ ?_
    | with_reducible exact Kept.refl
    | with_reducible apply Kept.trans ?_ State_setPlink_kept
    | with_reducible apply Kept.trans ?_ State_setPstate_kept
    | with_reducible apply Kept.trans ?_ State_setEpoch_kept
    | with_reducible apply Kept.trans ?_ State_setRegF_kept
    | with_reducible apply Kept.trans ?_ setReg_kept
    | with_reducible apply Kept.trans ?_ sataShut_kept
    | with_reducible apply Kept.trans ?_ State_irqBit_kept
    | with_reducible apply Kept.trans ?_ masterTaken_kept
    | with_reducible apply Kept.trans ?_ masterLost_kept
    | (with_reducible apply Kept.foldl ?_ ?_; intro x a; (try simp only []))
    | simp only [mk_kept_iff]
    | split
theorem resyncSend_kept {s : State} {n : Nat} {off : Nat} : Kept s (resyncSend s n off) := by
  unfold resyncSend
  (try simp only [])
  repeat' first
    | with_reducible apply Kept.ite ?_ ?_
    | with_reducible exact Kept.refl
    | with_reducible apply Kept.trans ?_ dmaRead_kept
    | with_reducible apply Kept.trans ?_ pairSend_kept
    | with_reducible apply Kept.trans ?_ ctxRead_kept
    | with_reducible refine Kept.viaFst ‹dmaRead _ _ _ _ = (_, _)› dmaRead_kept ?_
    | with_reducible refine Kept.viaFst ‹ctxRead _ _ = (_, _)› ctxRead_kept ?_
    | (with_reducible apply Kept.foldl ?_ ?_; intro x a; (try simp only []))
    | simp only [mk_kept_iff]
    | (split <;> (try simp only []))
theorem resyncRx_kept {s : State} {n : Nat} : Kept s (resyncRx s n) := by
  unfold resyncRx
  (try simp only [])
  repeat' first
    | with_reducible apply Kept.ite ?_ ?_
    | with_reducible exact Kept.refl
    | with_reducible apply Kept.trans ?_ dmaWrite_kept
    | with_reducible apply Kept.trans ?_ ctxRead_kept
    | with_reducible apply Kept.trans ?_ ctxStore_kept
    | with_reducible refine KeptO.via (f := Prod.snd) ‹inboxTake _ _ _ = some _› inboxTake_kept ?_
    | exact KeptO.via (f := Prod.snd) ‹inboxTake _ _ _ = some _› inboxTake_kept Kept.refl
    | with_reducible apply KeptO.getD inboxTake_kept
    | with_reducible refine Kept.viaFst ‹dmaWrite _ _ _ _ = (_, _)› dmaWrite_kept ?_
    | with_reducible refine Kept.viaFst ‹ctxRead _ _ = (_, _)› ctxRead_kept ?_
    | (with_reducible apply Kept.foldl ?_ ?_; intro x a; (try simp only []))
    | simp only [mk_kept_iff]
    | (split <;> (try simp only []))
theorem robinSend_kept {s : State} {type : Nat} {tag : Nat} {payload : List Byte} : Kept s (robinSend s type tag payload) := by
  unfold robinSend
  (try simp only [])
  repeat' first
    | with_reducible apply Kept.ite ?_ ?_
    | with_reducible exact Kept.refl
    | with_reducible apply Kept.trans ?_ pairSend_kept
    | with_reducible apply Kept.trans ?_ State_setPlink_kept
    | (with_reducible apply Kept.foldl ?_ ?_; intro x a; (try simp only []))
    | simp only [mk_kept_iff]
    | split
theorem wabSend_kept {s : State} {mid : Nat} {src : Nat} {moff : Nat} {x4 : Nat} {x5 : Nat} {x6 : Nat} :
    Kept s (wabSend s mid src moff x4 x5 x6).1 := by
  fun_induction wabSend s mid src moff x4 x5 x6 <;> (try simp only []) <;>
    repeat' first
      | with_reducible apply Kept.ite ?_ ?_
      | with_reducible exact Kept.refl
      | with_reducible apply Kept.trans ?_ dmaRead_kept
      | with_reducible apply Kept.trans ?_ robinSend_kept
      | with_reducible refine Kept.viaFst ‹dmaRead _ _ _ _ = (_, _)› dmaRead_kept ?_
      | with_reducible apply Kept.trans ?_ (by assumption)
      | (with_reducible apply Kept.foldl ?_ ?_; intro x a; (try simp only []))
      | simp only [mk_kept_iff]
      | (split <;> (try simp only []))
theorem mirrorServe_kept {s : State} {addr : Nat} {b : List Byte} : Kept s (mirrorServe s addr b) := by
  unfold mirrorServe
  (try simp only [])
  repeat' first
    | with_reducible apply Kept.ite ?_ ?_
    | with_reducible exact Kept.refl
    | with_reducible apply Kept.trans ?_ State_setPlink_kept
    | with_reducible apply Kept.trans ?_ dmaRead_kept
    | with_reducible apply Kept.trans ?_ dmaWrite_kept
    | with_reducible apply Kept.trans ?_ mirrorEnd_kept
    | with_reducible apply Kept.trans ?_ robinSend_kept
    | with_reducible apply Kept.trans ?_ wabSend_kept
    | with_reducible refine Kept.viaFst ‹dmaRead _ _ _ _ = (_, _)› dmaRead_kept ?_
    | with_reducible refine Kept.viaFst ‹dmaWrite _ _ _ _ = (_, _)› dmaWrite_kept ?_
    | with_reducible refine Kept.viaFst ‹wabSend _ _ _ _ _ _ _ = (_, _)› wabSend_kept ?_
    | (with_reducible apply Kept.foldl ?_ ?_; intro x a; (try simp only []))
    | simp only [mk_kept_iff]
    | (split <;> (try simp only []))
theorem mirrorRequest_kept {s : State} {r : Nat} : Kept s (mirrorRequest s r) := by
  unfold mirrorRequest
  (try simp only [])
  repeat' first
    | with_reducible apply Kept.ite ?_ ?_
    | with_reducible exact Kept.refl
    | with_reducible apply Kept.trans ?_ dmaRead_kept
    | with_reducible apply Kept.trans ?_ dmaWrite_kept
    | with_reducible apply Kept.trans ?_ mirrorServe_kept
    | with_reducible apply Kept.trans ?_ setReg_kept
    | with_reducible refine Kept.viaFst ‹dmaRead _ _ _ _ = (_, _)› dmaRead_kept ?_
    | with_reducible refine Kept.viaFst ‹dmaWrite _ _ _ _ = (_, _)› dmaWrite_kept ?_
    | (with_reducible apply Kept.foldl ?_ ?_; intro x a; (try simp only []))
    | simp only [mk_kept_iff]
    | (split <;> (try simp only []))
theorem jrecWrite_kept {s : State} {n : Nat} {slot : Nat} {m : PairMsg} : Kept s (jrecWrite s n slot m) := by
  unfold jrecWrite
  (try simp only [])
  repeat' first
    | with_reducible apply Kept.ite ?_ ?_
    | with_reducible exact Kept.refl
    | with_reducible apply Kept.trans ?_ dmaWrite_kept
    | with_reducible apply Kept.trans ?_ pairSend_kept
    | with_reducible apply Kept.trans ?_ State_setPlink_kept
    | with_reducible refine Kept.viaFst ‹dmaWrite _ _ _ _ = (_, _)› dmaWrite_kept ?_
    | (with_reducible apply Kept.foldl ?_ ?_; intro x a; (try simp only []))
    | simp only [mk_kept_iff]
    | (split <;> (try simp only []))
theorem wabRx_kept {s : State} {n : Nat} : Kept s (wabRx s n) := by
  unfold wabRx
  (try simp only [])
  repeat' first
    | with_reducible apply Kept.ite ?_ ?_
    | with_reducible exact Kept.refl
    | with_reducible apply Kept.trans ?_ dmaWrite_kept
    | with_reducible apply Kept.trans ?_ State_setPlink_kept
    | with_reducible apply Kept.trans ?_ jrecWrite_kept
    | with_reducible refine KeptO.via (f := Prod.snd) ‹inboxTake _ _ _ = some _› inboxTake_kept ?_
    | exact KeptO.via (f := Prod.snd) ‹inboxTake _ _ _ = some _› inboxTake_kept Kept.refl
    | with_reducible apply KeptO.getD inboxTake_kept
    | with_reducible refine Kept.viaFst ‹dmaWrite _ _ _ _ = (_, _)› dmaWrite_kept ?_
    | (with_reducible apply Kept.foldl ?_ ?_; intro x a; (try simp only []))
    | simp only [mk_kept_iff]
    | (split <;> (try simp only []))
theorem jrecRx_kept {s : State} {n : Nat} {slot : Nat} : Kept s (jrecRx s n slot) := by
  unfold jrecRx
  (try simp only [])
  repeat' first
    | with_reducible apply Kept.ite ?_ ?_
    | with_reducible exact Kept.refl
    | with_reducible apply Kept.trans ?_ jrecWrite_kept
    | with_reducible apply Kept.trans ?_ State_setPlink_kept
    | with_reducible refine KeptO.via (f := Prod.snd) ‹inboxTake _ _ _ = some _› inboxTake_kept ?_
    | exact KeptO.via (f := Prod.snd) ‹inboxTake _ _ _ = some _› inboxTake_kept Kept.refl
    | with_reducible apply KeptO.getD inboxTake_kept
    | (with_reducible apply Kept.foldl ?_ ?_; intro x a; (try simp only []))
    | simp only [mk_kept_iff]
    | (split <;> (try simp only []))
theorem mackRx_kept {s : State} {n : Nat} : Kept s (mackRx s n) := by
  unfold mackRx
  (try simp only [])
  repeat' first
    | with_reducible apply Kept.ite ?_ ?_
    | with_reducible exact Kept.refl
    | with_reducible apply Kept.trans ?_ mirrorEnd_kept
    | with_reducible apply Kept.trans ?_ State_setPlink_kept
    | with_reducible refine KeptO.via (f := Prod.snd) ‹inboxTake _ _ _ = some _› inboxTake_kept ?_
    | exact KeptO.via (f := Prod.snd) ‹inboxTake _ _ _ = some _› inboxTake_kept Kept.refl
    | with_reducible apply KeptO.getD inboxTake_kept
    | (with_reducible apply Kept.foldl ?_ ?_; intro x a; (try simp only []))
    | simp only [mk_kept_iff]
    | (split <;> (try simp only []))
theorem retireRx_kept {s : State} {n : Nat} : Kept s (retireRx s n) := by
  unfold retireRx
  (try simp only [])
  repeat' first
    | with_reducible apply Kept.ite ?_ ?_
    | with_reducible exact Kept.refl
    | with_reducible apply Kept.trans ?_ dmaRead_kept
    | with_reducible apply Kept.trans ?_ dmaWrite_kept
    | with_reducible apply Kept.trans ?_ pairSend_kept
    | with_reducible refine KeptO.via (f := Prod.snd) ‹inboxTake _ _ _ = some _› inboxTake_kept ?_
    | exact KeptO.via (f := Prod.snd) ‹inboxTake _ _ _ = some _› inboxTake_kept Kept.refl
    | with_reducible apply KeptO.getD inboxTake_kept
    | with_reducible refine Kept.viaFst ‹dmaRead _ _ _ _ = (_, _)› dmaRead_kept ?_
    | with_reducible refine Kept.viaFst ‹dmaWrite _ _ _ _ = (_, _)› dmaWrite_kept ?_
    | (with_reducible apply Kept.foldl ?_ ?_; intro x a; (try simp only []))
    | simp only [mk_kept_iff]
    | (split <;> (try simp only []))
theorem qdeltaRx_kept {s : State} {n : Nat} : Kept s (qdeltaRx s n) := by
  unfold qdeltaRx
  (try simp only [])
  repeat' first
    | with_reducible apply Kept.ite ?_ ?_
    | with_reducible exact Kept.refl
    | with_reducible apply Kept.trans ?_ ctxRead_kept
    | with_reducible apply Kept.trans ?_ ctxStore_kept
    | with_reducible apply Kept.trans ?_ dmaWrite_kept
    | with_reducible apply Kept.trans ?_ pairSend_kept
    | with_reducible refine KeptO.via (f := Prod.snd) ‹inboxTake _ _ _ = some _› inboxTake_kept ?_
    | exact KeptO.via (f := Prod.snd) ‹inboxTake _ _ _ = some _› inboxTake_kept Kept.refl
    | with_reducible apply KeptO.getD inboxTake_kept
    | with_reducible refine Kept.viaFst ‹ctxRead _ _ = (_, _)› ctxRead_kept ?_
    | with_reducible refine Kept.viaFst ‹dmaWrite _ _ _ _ = (_, _)› dmaWrite_kept ?_
    | (with_reducible apply Kept.foldl ?_ ?_; intro x a; (try simp only []))
    | simp only [mk_kept_iff]
    | (split <;> (try simp only []))
theorem dackRx_kept {s : State} {n : Nat} : Kept s (dackRx s n) := by
  unfold dackRx
  (try simp only [])
  repeat' first
    | with_reducible apply Kept.ite ?_ ?_
    | with_reducible exact Kept.refl
    | with_reducible apply Kept.trans ?_ dack_kept
    | with_reducible refine KeptO.via (f := Prod.snd) ‹inboxTake _ _ _ = some _› inboxTake_kept ?_
    | exact KeptO.via (f := Prod.snd) ‹inboxTake _ _ _ = some _› inboxTake_kept Kept.refl
    | with_reducible apply KeptO.getD inboxTake_kept
    | (with_reducible apply Kept.foldl ?_ ?_; intro x a; (try simp only []))
    | simp only [mk_kept_iff]
    | (split <;> (try simp only []))
theorem setHome_kept {s : State} {q : Nat} {v : Bool} : Kept s (setHome s q v) := by
  unfold setHome
  (try simp only [])
  repeat' first
    | with_reducible apply Kept.ite ?_ ?_
    | with_reducible exact Kept.refl
    | with_reducible apply Kept.trans ?_ ctxRead_kept
    | with_reducible apply Kept.trans ?_ ctxStore_kept
    | with_reducible refine Kept.viaFst ‹ctxRead _ _ = (_, _)› ctxRead_kept ?_
    | (with_reducible apply Kept.foldl ?_ ?_; intro x a; (try simp only []))
    | simp only [mk_kept_iff]
    | (split <;> (try simp only []))
theorem homeReq_kept {s : State} {v : Word32} : Kept s (homeReq s v) := by
  unfold homeReq
  (try simp only [])
  repeat' first
    | with_reducible apply Kept.ite ?_ ?_
    | with_reducible exact Kept.refl
    | with_reducible apply Kept.trans ?_ pairSend_kept
    | with_reducible apply Kept.trans ?_ setHome_kept
    | (with_reducible apply Kept.foldl ?_ ?_; intro x a; (try simp only []))
    | simp only [mk_kept_iff]
    | split
theorem homesetRx_kept {s : State} {n : Nat} : Kept s (homesetRx s n) := by
  unfold homesetRx
  (try simp only [])
  repeat' first
    | with_reducible apply Kept.ite ?_ ?_
    | with_reducible exact Kept.refl
    | with_reducible apply Kept.trans ?_ setHome_kept
    | with_reducible refine KeptO.via (f := Prod.snd) ‹inboxTake _ _ _ = some _› inboxTake_kept ?_
    | exact KeptO.via (f := Prod.snd) ‹inboxTake _ _ _ = some _› inboxTake_kept Kept.refl
    | with_reducible apply KeptO.getD inboxTake_kept
    | (with_reducible apply Kept.foldl ?_ ?_; intro x a; (try simp only []))
    | simp only [mk_kept_iff]
    | (split <;> (try simp only []))
theorem pstateRx_kept {s : State} {n : Nat} : Kept s (pstateRx s n) := by
  unfold pstateRx
  (try simp only [])
  repeat' first
    | with_reducible apply Kept.ite ?_ ?_
    | with_reducible exact Kept.refl
    | with_reducible apply Kept.trans ?_ enterSt_kept
    | with_reducible apply Kept.trans ?_ State_setReady_kept
    | with_reducible apply Kept.trans ?_ State_setRegF_kept
    | with_reducible apply Kept.trans ?_ linkEvent_kept
    | with_reducible refine KeptO.via (f := Prod.snd) ‹inboxTake _ _ _ = some _› inboxTake_kept ?_
    | exact KeptO.via (f := Prod.snd) ‹inboxTake _ _ _ = some _› inboxTake_kept Kept.refl
    | with_reducible apply KeptO.getD inboxTake_kept
    | (with_reducible apply Kept.foldl ?_ ?_; intro x a; (try simp only []))
    | simp only [mk_kept_iff]
    | (split <;> (try simp only []))
theorem leaseReq_kept {s : State} : Kept s (leaseReq s) := by
  unfold leaseReq
  (try simp only [])
  repeat' first
    | with_reducible apply Kept.ite ?_ ?_
    | with_reducible exact Kept.refl
    | with_reducible apply Kept.trans ?_ State_setPlink_kept
    | (with_reducible apply Kept.foldl ?_ ?_; intro x a; (try simp only []))
    | simp only [mk_kept_iff]
    | split
theorem leaseGrant_kept {s : State} {k : Nat} {frame : List Byte} {elapsed : Nat} : Kept s (leaseGrant s k frame elapsed) := by
  unfold leaseGrant
  (try simp only [])
  repeat' first
    | with_reducible apply Kept.ite ?_ ?_
    | with_reducible exact Kept.refl
    | with_reducible apply Kept.trans ?_ setReg_kept
    | with_reducible apply Kept.trans ?_ State_setPlink_kept
    | with_reducible apply Kept.trans ?_ State_setRegF_kept
    | with_reducible apply Kept.trans ?_ survive_kept
    | with_reducible apply Kept.trans ?_ enterSolo_kept
    | (with_reducible apply Kept.foldl ?_ ?_; intro x a; (try simp only []))
    | simp only [mk_kept_iff]
    | split
theorem leaseDeny_kept {s : State} {k : Nat} {frame : List Byte} : Kept s (leaseDeny s k frame) := by
  unfold leaseDeny
  (try simp only [])
  repeat' first
    | with_reducible apply Kept.ite ?_ ?_
    | with_reducible exact Kept.refl
    | with_reducible apply Kept.trans ?_ State_setPlink_kept
    | (with_reducible apply Kept.foldl ?_ ?_; intro x a; (try simp only []))
    | simp only [mk_kept_iff]
    | split
theorem leaseLapse_kept {s : State} : Kept s (leaseLapse s) := by
  unfold leaseLapse
  (try simp only [])
  repeat' first
    | with_reducible apply Kept.ite ?_ ?_
    | with_reducible exact Kept.refl
    | with_reducible apply Kept.trans ?_ State_irqBit_kept
    | with_reducible apply Kept.trans ?_ setReg_kept
    | with_reducible apply Kept.trans ?_ State_setPlink_kept
    | with_reducible apply Kept.trans ?_ deltasReleased_kept
    | with_reducible apply Kept.trans ?_ fencedSteps_kept
    | with_reducible apply Kept.trans ?_ homeAll_kept
    | with_reducible apply Kept.trans ?_ masterLost_kept
    | with_reducible apply Kept.trans ?_ State_setPstate_kept
    | (with_reducible apply Kept.foldl ?_ ?_; intro x a; (try simp only []))
    | simp only [mk_kept_iff]
    | split
theorem pairCtlWrite_kept {s : State} {n : Nat} {v : Word32} : Kept s (pairCtlWrite s n v) := by
  unfold pairCtlWrite
  (try simp only [])
  repeat' first
    | with_reducible apply Kept.ite ?_ ?_
    | with_reducible exact Kept.refl
    | with_reducible apply Kept.trans ?_ linkCtlWrite_kept
    | with_reducible apply Kept.trans ?_ idleSend_kept
    | (with_reducible apply Kept.foldl ?_ ?_; intro x a; (try simp only []))
    | simp only [mk_kept_iff]
    | split
theorem pairWrite_kept {s : State} {n : Nat} {off : Nat} {v : Word32} : KeptO s Prod.fst (pairWrite s n off v) := by
  unfold pairWrite
  (try simp only [])
  repeat' first
    | with_reducible exact KeptO.none
    | with_reducible apply KeptO.some
    | with_reducible apply KeptO.ite ?_ ?_
    | with_reducible apply KeptO.map
    | with_reducible apply Kept.ite ?_ ?_
    | with_reducible exact Kept.refl
    | with_reducible apply Kept.trans ?_ pairCtlWrite_kept
    | with_reducible apply Kept.trans ?_ homeReq_kept
    | with_reducible apply Kept.trans ?_ rbaseWrite_kept
    | with_reducible refine Kept.viaFst ‹rbaseWrite _ _ _ _ = (_, _)› rbaseWrite_kept ?_
    | (with_reducible apply Kept.foldl ?_ ?_; intro x a; (try simp only []))
    | simp only [mk_kept_iff]
    | split
theorem leaseLeft_kept {s : State} : Kept s (leaseLeft s).1 := by
  unfold leaseLeft
  (try simp only [])
  repeat' first
    | with_reducible apply Kept.ite ?_ ?_
    | with_reducible exact Kept.refl
    | with_reducible apply Kept.trans ?_ State_fresh_kept
    | with_reducible apply Kept.trans ?_ setReg_kept
    | (with_reducible apply Kept.foldl ?_ ?_; intro x a; (try simp only []))
    | simp only [mk_kept_iff]
    | split
theorem pairRead_kept {s : State} {n : Nat} {off : Nat} : KeptO s Prod.fst (pairRead s n off) := by
  unfold pairRead
  (try simp only [])
  repeat' first
    | with_reducible exact KeptO.none
    | with_reducible apply KeptO.some
    | with_reducible apply KeptO.ite ?_ ?_
    | with_reducible apply KeptO.map
    | with_reducible apply Kept.ite ?_ ?_
    | with_reducible exact Kept.refl
    | with_reducible apply Kept.trans ?_ leaseLeft_kept
    | with_reducible refine Kept.viaFst ‹leaseLeft _ = (_, _)› leaseLeft_kept ?_
    | (with_reducible apply Kept.foldl ?_ ?_; intro x a; (try simp only []))
    | simp only [mk_kept_iff]
    | split
end Sys2Proof.Laws
end

