-- ==== Sys2Proof/Laws/KeepBus.lean ====
section
/-! SUPPORT. What the operations of Machine/Bus.lean leave alone (Laws/Kept.lean). -/
namespace Sys2Proof.Laws
set_option linter.unusedTactic false
set_option linter.unreachableTactic false
open Sys2Proof.Machine
theorem lockKeyWrite_kept {s : State} {id : Nat} {page : Nat} {v : Word32} : Kept s (lockKeyWrite s id page v) := by
  unfold lockKeyWrite
  (try simp only [])
  repeat' first
    | with_reducible apply Kept.ite ?_ ?_
    | with_reducible exact Kept.refl
    | (with_reducible apply Kept.foldl ?_ ?_; intro x a; (try simp only []))
    | simp only [mk_kept_iff]
    | split
theorem plainWrite_kept {s : State} {page : Nat} {off : Nat} {i : RegInfo} {v : Word32} : Kept s (plainWrite s page off i v) := by
  unfold plainWrite
  (try simp only [])
  repeat' first
    | with_reducible apply Kept.ite ?_ ?_
    | with_reducible exact Kept.refl
    | with_reducible apply Kept.trans ?_ setReg_kept
    | (with_reducible apply Kept.foldl ?_ ?_; intro x a; (try simp only []))
    | simp only [mk_kept_iff]
    | split
theorem headerWrite_kept {s : State} {id : Nat} {page : Nat} {off : Nat} {i : RegInfo} {v : Word32} :
    Kept s (headerWrite s id page off i v) := by
  unfold headerWrite
  (try simp only [])
  repeat' first
    | with_reducible apply Kept.ite ?_ ?_
    | with_reducible exact Kept.refl
    | with_reducible apply Kept.trans ?_ State_irq_kept
    | with_reducible apply Kept.trans ?_ pageEdge_kept
    | with_reducible apply Kept.trans ?_ plainWrite_kept
    | with_reducible apply Kept.trans ?_ lockKeyWrite_kept
    | (with_reducible apply Kept.foldl ?_ ?_; intro x a; (try simp only []))
    | simp only [mk_kept_iff]
    | split
theorem belfPageWrite_kept {s : State} {n : Nat} {off : Nat} {v : Word32} : KeptO s Prod.fst (belfPageWrite s n off v) := by
  unfold belfPageWrite
  (try simp only [])
  repeat' first
    | with_reducible exact KeptO.none
    | with_reducible apply KeptO.some
    | with_reducible apply KeptO.ite ?_ ?_
    | with_reducible apply KeptO.map
    | with_reducible apply Kept.ite ?_ ?_
    | with_reducible exact Kept.refl
    | with_reducible apply Kept.trans ?_ belfCtlWrite_kept
    | with_reducible apply Kept.trans ?_ belfSlewWrite_kept
    | with_reducible apply Kept.trans ?_ bcmpWrite_kept
    | with_reducible refine Kept.viaFst ‹bcmpWrite _ _ _ _ = (_, _)› bcmpWrite_kept ?_
    | (with_reducible apply Kept.foldl ?_ ?_; intro x a; (try simp only []))
    | simp only [mk_kept_iff]
    | split
theorem tmrPageWrite_kept {s : State} {n : Nat} {off : Nat} {v : Word32} : KeptO s Prod.fst (tmrPageWrite s n off v) := by
  unfold tmrPageWrite
  (try simp only [])
  repeat' first
    | with_reducible exact KeptO.none
    | with_reducible apply KeptO.some
    | with_reducible apply KeptO.ite ?_ ?_
    | with_reducible apply KeptO.map
    | with_reducible apply Kept.ite ?_ ?_
    | with_reducible exact Kept.refl
    | with_reducible apply Kept.trans ?_ tmrWrite_kept
    | (with_reducible apply Kept.foldl ?_ ?_; intro x a; (try simp only []))
    | simp only [mk_kept_iff]
    | split
theorem evtPageWrite_kept {s : State} {n : Nat} {off : Nat} {v : Word32} : KeptO s Prod.fst (evtPageWrite s n off v) := by
  unfold evtPageWrite
  (try simp only [])
  repeat' first
    | with_reducible exact KeptO.none
    | with_reducible apply KeptO.some
    | with_reducible apply KeptO.ite ?_ ?_
    | with_reducible apply KeptO.map
    | with_reducible apply Kept.ite ?_ ?_
    | with_reducible exact Kept.refl
    | with_reducible apply Kept.trans ?_ swSet_kept
    | with_reducible apply Kept.trans ?_ routeWrite_kept
    | with_reducible refine Kept.viaFst ‹routeWrite _ _ _ = (_, _)› routeWrite_kept ?_
    | (with_reducible apply Kept.foldl ?_ ?_; intro x a; (try simp only []))
    | simp only [mk_kept_iff]
    | split
theorem mbxPageWrite_kept {s : State} {id : Nat} {n : Nat} {off : Nat} {v : Word32} :
    KeptO s Prod.fst (mbxPageWrite s id n off v) := by
  unfold mbxPageWrite
  (try simp only [])
  repeat' first
    | with_reducible exact KeptO.none
    | with_reducible apply KeptO.some
    | with_reducible apply KeptO.ite ?_ ?_
    | with_reducible apply KeptO.map
    | with_reducible apply Kept.ite ?_ ?_
    | with_reducible exact Kept.refl
    | with_reducible apply Kept.trans ?_ bindingWrite_kept
    | with_reducible apply Kept.trans ?_ mbWrite_kept
    | with_reducible refine Kept.viaFst ‹bindingWrite _ _ _ = (_, _)› bindingWrite_kept ?_
    | (with_reducible apply Kept.foldl ?_ ?_; intro x a; (try simp only []))
    | simp only [mk_kept_iff]
    | split
theorem memcPageWrite_kept {s : State} {n : Nat} {off : Nat} {v : Word32} : KeptO s Prod.fst (memcPageWrite s n off v) := by
  unfold memcPageWrite
  (try simp only [])
  repeat' first
    | with_reducible exact KeptO.none
    | with_reducible apply KeptO.some
    | with_reducible apply KeptO.ite ?_ ?_
    | with_reducible apply KeptO.map
    | with_reducible apply Kept.ite ?_ ?_
    | with_reducible exact Kept.refl
    | with_reducible apply Kept.trans ?_ memcCtlWrite_kept
    | with_reducible apply Kept.trans ?_ spareCtlWrite_kept
    | (with_reducible apply Kept.foldl ?_ ?_; intro x a; (try simp only []))
    | simp only [mk_kept_iff]
    | split
theorem scrPageWrite_kept {s : State} {n : Nat} {off : Nat} {v : Word32} : KeptO s Prod.fst (scrPageWrite s n off v) := by
  unfold scrPageWrite
  (try simp only [])
  repeat' first
    | with_reducible exact KeptO.none
    | with_reducible apply KeptO.some
    | with_reducible apply KeptO.ite ?_ ?_
    | with_reducible apply KeptO.map
    | with_reducible apply Kept.ite ?_ ?_
    | with_reducible exact Kept.refl
    | with_reducible apply Kept.trans ?_ bstateWrite_kept
    | with_reducible refine Kept.viaFst ‹bstateWrite _ _ _ _ = (_, _)› bstateWrite_kept ?_
    | (with_reducible apply Kept.foldl ?_ ?_; intro x a; (try simp only []))
    | simp only [mk_kept_iff]
    | split
theorem turPageWrite_kept {s : State} {n : Nat} {off : Nat} {v : Word32} : KeptO s Prod.fst (turPageWrite s n off v) := by
  unfold turPageWrite
  (try simp only [])
  repeat' first
    | with_reducible exact KeptO.none
    | with_reducible apply KeptO.some
    | with_reducible apply KeptO.ite ?_ ?_
    | with_reducible apply KeptO.map
    | with_reducible apply Kept.ite ?_ ?_
    | with_reducible exact Kept.refl
    | with_reducible apply Kept.trans ?_ turCtlWrite_kept
    | with_reducible apply Kept.trans ?_ cmpCtlWrite_kept
    | with_reducible apply Kept.trans ?_ injectWrite_kept
    | with_reducible refine Kept.viaFst ‹cmpCtlWrite _ _ _ = (_, _)› cmpCtlWrite_kept ?_
    | (with_reducible apply Kept.foldl ?_ ?_; intro x a; (try simp only []))
    | simp only [mk_kept_iff]
    | split
theorem blockWrite_kept {s : State} {id : Nat} {b : Block} {n : Nat} {off : Nat} {v : Word32} :
    KeptO s Prod.fst (blockWrite s id b n off v) := by
  unfold blockWrite
  (try simp only [])
  repeat' first
    | with_reducible exact KeptO.none
    | with_reducible apply KeptO.some
    | with_reducible apply KeptO.ite ?_ ?_
    | with_reducible apply KeptO.map
    | with_reducible exact belfPageWrite_kept
    | with_reducible exact tmrPageWrite_kept
    | with_reducible exact evtPageWrite_kept
    | with_reducible exact mbxPageWrite_kept
    | with_reducible exact memcPageWrite_kept
    | with_reducible exact scrPageWrite_kept
    | with_reducible exact turPageWrite_kept
    | with_reducible exact keepWrite_kept
    | with_reducible exact qstWrite_kept
    | with_reducible exact sprWrite_kept
    | with_reducible exact saspWrite_kept
    | with_reducible exact ethpWrite_kept
    | with_reducible exact pairWrite_kept
    | with_reducible exact pwrWrite_kept
    | with_reducible exact cupwWrite_kept
    | with_reducible exact lantWrite_kept
    | with_reducible apply Kept.ite ?_ ?_
    | with_reducible exact Kept.refl
    | with_reducible apply Kept.trans ?_ lockWrite_kept
    | with_reducible apply Kept.trans ?_ linkCtlWrite_kept
    | with_reducible refine KeptO.via (f := Prod.fst) ‹belfPageWrite _ _ _ _ = some _› belfPageWrite_kept ?_
    | exact KeptO.via (f := Prod.fst) ‹belfPageWrite _ _ _ _ = some _› belfPageWrite_kept Kept.refl
    | with_reducible apply KeptO.getD belfPageWrite_kept
    | with_reducible refine KeptO.via (f := Prod.fst) ‹tmrPageWrite _ _ _ _ = some _› tmrPageWrite_kept ?_
    | exact KeptO.via (f := Prod.fst) ‹tmrPageWrite _ _ _ _ = some _› tmrPageWrite_kept Kept.refl
    | with_reducible apply KeptO.getD tmrPageWrite_kept
    | with_reducible refine KeptO.via (f := Prod.fst) ‹evtPageWrite _ _ _ _ = some _› evtPageWrite_kept ?_
    | exact KeptO.via (f := Prod.fst) ‹evtPageWrite _ _ _ _ = some _› evtPageWrite_kept Kept.refl
    | with_reducible apply KeptO.getD evtPageWrite_kept
    | with_reducible refine KeptO.via (f := Prod.fst) ‹mbxPageWrite _ _ _ _ _ = some _› mbxPageWrite_kept ?_
    | exact KeptO.via (f := Prod.fst) ‹mbxPageWrite _ _ _ _ _ = some _› mbxPageWrite_kept Kept.refl
    | with_reducible apply KeptO.getD mbxPageWrite_kept
    | with_reducible refine Kept.viaFst ‹lockWrite _ _ _ _ = (_, _)› lockWrite_kept ?_
    | with_reducible refine KeptO.via (f := Prod.fst) ‹memcPageWrite _ _ _ _ = some _› memcPageWrite_kept ?_
    | exact KeptO.via (f := Prod.fst) ‹memcPageWrite _ _ _ _ = some _› memcPageWrite_kept Kept.refl
    | with_reducible apply KeptO.getD memcPageWrite_kept
    | with_reducible refine KeptO.via (f := Prod.fst) ‹scrPageWrite _ _ _ _ = some _› scrPageWrite_kept ?_
    | exact KeptO.via (f := Prod.fst) ‹scrPageWrite _ _ _ _ = some _› scrPageWrite_kept Kept.refl
    | with_reducible apply KeptO.getD scrPageWrite_kept
    | with_reducible refine KeptO.via (f := Prod.fst) ‹turPageWrite _ _ _ _ = some _› turPageWrite_kept ?_
    | exact KeptO.via (f := Prod.fst) ‹turPageWrite _ _ _ _ = some _› turPageWrite_kept Kept.refl
    | with_reducible apply KeptO.getD turPageWrite_kept
    | with_reducible refine KeptO.via (f := Prod.fst) ‹keepWrite _ _ _ _ = some _› keepWrite_kept ?_
    | exact KeptO.via (f := Prod.fst) ‹keepWrite _ _ _ _ = some _› keepWrite_kept Kept.refl
    | with_reducible apply KeptO.getD keepWrite_kept
    | with_reducible refine KeptO.via (f := Prod.fst) ‹qstWrite _ _ _ _ _ = some _› qstWrite_kept ?_
    | exact KeptO.via (f := Prod.fst) ‹qstWrite _ _ _ _ _ = some _› qstWrite_kept Kept.refl
    | with_reducible apply KeptO.getD qstWrite_kept
    | with_reducible refine KeptO.via (f := Prod.fst) ‹sprWrite _ _ _ _ = some _› sprWrite_kept ?_
    | exact KeptO.via (f := Prod.fst) ‹sprWrite _ _ _ _ = some _› sprWrite_kept Kept.refl
    | with_reducible apply KeptO.getD sprWrite_kept
    | with_reducible refine KeptO.via (f := Prod.fst) ‹saspWrite _ _ _ _ _ = some _› saspWrite_kept ?_
    | exact KeptO.via (f := Prod.fst) ‹saspWrite _ _ _ _ _ = some _› saspWrite_kept Kept.refl
    | with_reducible apply KeptO.getD saspWrite_kept
    | with_reducible refine KeptO.via (f := Prod.fst) ‹ethpWrite _ _ _ _ = some _› ethpWrite_kept ?_
    | exact KeptO.via (f := Prod.fst) ‹ethpWrite _ _ _ _ = some _› ethpWrite_kept Kept.refl
    | with_reducible apply KeptO.getD ethpWrite_kept
    | with_reducible refine KeptO.via (f := Prod.fst) ‹pairWrite _ _ _ _ = some _› pairWrite_kept ?_
    | exact KeptO.via (f := Prod.fst) ‹pairWrite _ _ _ _ = some _› pairWrite_kept Kept.refl
    | with_reducible apply KeptO.getD pairWrite_kept
    | with_reducible refine KeptO.via (f := Prod.fst) ‹pwrWrite _ _ _ _ _ = some _› pwrWrite_kept ?_
    | exact KeptO.via (f := Prod.fst) ‹pwrWrite _ _ _ _ _ = some _› pwrWrite_kept Kept.refl
    | with_reducible apply KeptO.getD pwrWrite_kept
    | with_reducible refine KeptO.via (f := Prod.fst) ‹cupwWrite _ _ _ _ = some _› cupwWrite_kept ?_
    | exact KeptO.via (f := Prod.fst) ‹cupwWrite _ _ _ _ = some _› cupwWrite_kept Kept.refl
    | with_reducible apply KeptO.getD cupwWrite_kept
    | with_reducible refine KeptO.via (f := Prod.fst) ‹lantWrite _ _ _ _ = some _› lantWrite_kept ?_
    | exact KeptO.via (f := Prod.fst) ‹lantWrite _ _ _ _ = some _› lantWrite_kept Kept.refl
    | with_reducible apply KeptO.getD lantWrite_kept
    | (with_reducible apply Kept.foldl ?_ ?_; intro x a; (try simp only []))
    | simp only [mk_kept_iff]
    | split
theorem mbxPageRead_kept {s : State} {id : Nat} {n : Nat} {off : Nat} : KeptO s Prod.fst (mbxPageRead s id n off) := by
  unfold mbxPageRead
  (try simp only [])
  repeat' first
    | with_reducible exact KeptO.none
    | with_reducible apply KeptO.some
    | with_reducible apply KeptO.ite ?_ ?_
    | with_reducible apply KeptO.map
    | with_reducible apply Kept.ite ?_ ?_
    | with_reducible exact Kept.refl
    | with_reducible apply Kept.trans ?_ mbHeadUE_kept
    | (with_reducible apply Kept.foldl ?_ ?_; intro x a; (try simp only []))
    | simp only [mk_kept_iff]
    | split
theorem tmrPageRead_kept {s : State} {id : Nat} {n : Nat} {off : Nat} : KeptO s Prod.fst (tmrPageRead s id n off) := by
  unfold tmrPageRead
  (try simp only [])
  repeat' first
    | with_reducible exact KeptO.none
    | with_reducible apply KeptO.some
    | with_reducible apply KeptO.ite ?_ ?_
    | with_reducible apply KeptO.map
    | with_reducible apply Kept.ite ?_ ?_
    | with_reducible exact Kept.refl
    | with_reducible apply Kept.trans ?_ countRead_kept
    | with_reducible refine Kept.viaFst ‹countRead _ _ _ _ = (_, _)› countRead_kept ?_
    | (with_reducible apply Kept.foldl ?_ ?_; intro x a; (try simp only []))
    | simp only [mk_kept_iff]
    | split
theorem turPageRead_kept {s : State} {n : Nat} {off : Nat} : KeptO s Prod.fst (turPageRead s n off) := by
  unfold turPageRead
  (try simp only [])
  repeat' first
    | with_reducible exact KeptO.none
    | with_reducible apply KeptO.some
    | with_reducible apply KeptO.ite ?_ ?_
    | with_reducible apply KeptO.map
    | with_reducible apply Kept.ite ?_ ?_
    | with_reducible exact Kept.refl
    | (with_reducible apply Kept.foldl ?_ ?_; intro x a; (try simp only []))
    | simp only [mk_kept_iff]
    | split
theorem blockRead_kept {s : State} {id : MasterId} {b : Block} {n : Nat} {off : Nat} :
    KeptO s Prod.fst (blockRead s id b n off) := by
  unfold blockRead
  (try simp only [])
  repeat' first
    | with_reducible exact KeptO.none
    | with_reducible apply KeptO.some
    | with_reducible apply KeptO.ite ?_ ?_
    | with_reducible apply KeptO.map
    | with_reducible exact tmrPageRead_kept
    | with_reducible exact mbxPageRead_kept
    | with_reducible exact turPageRead_kept
    | with_reducible exact pairRead_kept
    | with_reducible apply Kept.ite ?_ ?_
    | with_reducible exact Kept.refl
    | with_reducible apply Kept.trans ?_ belfRead_kept
    | with_reducible apply Kept.trans ?_ lockRead_kept
    | with_reducible refine Kept.viaFst ‹belfRead _ _ _ _ = (_, _)› belfRead_kept ?_
    | with_reducible refine KeptO.via (f := Prod.fst) ‹tmrPageRead _ _ _ _ = some _› tmrPageRead_kept ?_
    | exact KeptO.via (f := Prod.fst) ‹tmrPageRead _ _ _ _ = some _› tmrPageRead_kept Kept.refl
    | with_reducible apply KeptO.getD tmrPageRead_kept
    | with_reducible refine KeptO.via (f := Prod.fst) ‹mbxPageRead _ _ _ _ = some _› mbxPageRead_kept ?_
    | exact KeptO.via (f := Prod.fst) ‹mbxPageRead _ _ _ _ = some _› mbxPageRead_kept Kept.refl
    | with_reducible apply KeptO.getD mbxPageRead_kept
    | with_reducible refine Kept.viaFst ‹lockRead _ _ _ = (_, _)› lockRead_kept ?_
    | with_reducible refine KeptO.via (f := Prod.fst) ‹turPageRead _ _ _ = some _› turPageRead_kept ?_
    | exact KeptO.via (f := Prod.fst) ‹turPageRead _ _ _ = some _› turPageRead_kept Kept.refl
    | with_reducible apply KeptO.getD turPageRead_kept
    | with_reducible refine KeptO.via (f := Prod.fst) ‹pairRead _ _ _ = some _› pairRead_kept ?_
    | exact KeptO.via (f := Prod.fst) ‹pairRead _ _ _ = some _› pairRead_kept Kept.refl
    | with_reducible apply KeptO.getD pairRead_kept
    | (with_reducible apply Kept.foldl ?_ ?_; intro x a; (try simp only []))
    | simp only [mk_kept_iff]
    | split
theorem regRead_kept {s : State} {id : MasterId} {page : Nat} {off : Nat} : Kept s (regRead s id page off).1 := by
  unfold regRead
  (try simp only [])
  repeat' first
    | with_reducible apply Kept.ite ?_ ?_
    | with_reducible exact Kept.refl
    | with_reducible refine KeptO.via (f := Prod.fst) ‹blockRead _ _ _ _ _ = some _› blockRead_kept ?_
    | exact KeptO.via (f := Prod.fst) ‹blockRead _ _ _ _ _ = some _› blockRead_kept Kept.refl
    | with_reducible apply KeptO.getD blockRead_kept
    | (with_reducible apply Kept.foldl ?_ ?_; intro x a; (try simp only []))
    | simp only [mk_kept_iff]
    | (split <;> (try simp only []))
theorem regWriteOk_kept {s : State} {id : Nat} {page : Nat} {off : Nat} {i : RegInfo} {v : Word32} :
    Kept s (regWriteOk s id page off i v).1 := by
  unfold regWriteOk
  (try simp only [])
  repeat' first
    | with_reducible apply Kept.ite ?_ ?_
    | with_reducible exact Kept.refl
    | with_reducible apply Kept.trans ?_ headerWrite_kept
    | with_reducible apply Kept.trans ?_ plainWrite_kept
    | with_reducible refine KeptO.via (f := Prod.fst) ‹blockWrite _ _ _ _ _ _ = some _› blockWrite_kept ?_
    | exact KeptO.via (f := Prod.fst) ‹blockWrite _ _ _ _ _ _ = some _› blockWrite_kept Kept.refl
    | with_reducible apply KeptO.getD blockWrite_kept
    | (with_reducible apply Kept.foldl ?_ ?_; intro x a; (try simp only []))
    | simp only [mk_kept_iff]
    | (split <;> (try simp only []))
theorem regWrite_kept {s : State} {id : Nat} {page : Nat} {off : Nat} {cust : Bool} {d : List Byte} :
    Kept s (regWrite s id page off cust d).1 := by
  unfold regWrite
  (try simp only [])
  repeat' first
    | with_reducible apply Kept.ite ?_ ?_
    | with_reducible exact Kept.refl
    | with_reducible apply Kept.trans ?_ regWriteOk_kept
    | (with_reducible apply Kept.foldl ?_ ?_; intro x a; (try simp only []))
    | simp only [mk_kept_iff]
    | split
theorem regReadAcc_kept {s : State} {id : MasterId} {page : Nat} {off : Nat} {n : Nat} : Kept s (regReadAcc s id page off n).1 := by
  unfold regReadAcc
  (try simp only [])
  repeat' first
    | with_reducible apply Kept.ite ?_ ?_
    | with_reducible exact Kept.refl
    | with_reducible apply Kept.trans ?_ regRead_kept
    | (with_reducible apply Kept.foldl ?_ ?_; intro x a; (try simp only []))
    | simp only [mk_kept_iff]
    | split
theorem busReadRaw_kept {s : State} {id : MasterId} {a n : Nat} {u : Upset} : Kept s (busReadRaw s id a n u).1 := by
  unfold busReadRaw
  cases targetOf a with
  | turretLocal => exact Kept.refl
  | nothing => exact Kept.refl
  | page p off => exact regReadAcc_kept
  | cupola => exact windowRead_kept
  | memory => exact memRead_kept
  | tcmAlias =>
    cases aliasPlace s id.val a n with
    | error c => exact Kept.refl
    | ok r => exact tcmRead_kept
theorem busWriteRaw_kept {s : State} {id : MasterId} {cust : Bool} {a : Nat} {d : List Byte} {u : Upset} : Kept s (busWriteRaw s id cust a d u).1 := by
  unfold busWriteRaw
  cases targetOf a with
  | turretLocal => exact Kept.refl
  | nothing => exact Kept.refl
  | page p off => exact regWrite_kept
  | cupola => exact Kept.refl
  | memory =>
    dsimp only
    split
    · exact ctxWrite_kept
    · exact memWrite_kept
  | tcmAlias =>
    cases aliasPlace s id.val a d.length with
    | error c => exact Kept.refl
    | ok r => exact tcmWrite_kept
theorem busRead_kept {s : State} {id : MasterId} {a : Nat} {n : Nat} {u : optParam Upset { }} : Kept s (busRead s id a n u).1 := by
  unfold busRead
  (try simp only [])
  repeat' first
    | with_reducible apply Kept.ite ?_ ?_
    | with_reducible exact Kept.refl
    | with_reducible apply Kept.trans ?_ busReadRaw_kept
    | with_reducible apply Kept.trans ?_ State_berr_kept
    | with_reducible refine Kept.viaFst ‹busReadRaw _ _ _ _ _ = (_, _)› busReadRaw_kept ?_
    | (with_reducible apply Kept.foldl ?_ ?_; intro x a; (try simp only []))
    | simp only [mk_kept_iff]
    | (split <;> (try simp only []))
theorem busWriteW_kept {s : State} {id : MasterId} {cust : Bool} {a : Nat} {d : List Byte} {u : optParam Upset { }} :
    Kept s (busWriteW s id cust a d u).1 := by
  unfold busWriteW
  (try simp only [])
  repeat' first
    | with_reducible apply Kept.ite ?_ ?_
    | with_reducible exact Kept.refl
    | with_reducible apply Kept.trans ?_ busWriteRaw_kept
    | with_reducible apply Kept.trans ?_ State_berr_kept
    | with_reducible refine Kept.viaFst ‹busWriteRaw _ _ _ _ _ _ = (_, _)› busWriteRaw_kept ?_
    | (with_reducible apply Kept.foldl ?_ ?_; intro x a; (try simp only []))
    | simp only [mk_kept_iff]
    | (split <;> (try simp only []))
theorem busWrite_kept {s : State} {id : MasterId} {a : Nat} {d : List Byte} {u : optParam Upset { }} :
    Kept s (busWrite s id a d u).1 := by
  unfold busWrite
  (try simp only [])
  repeat' first
    | with_reducible apply Kept.ite ?_ ?_
    | with_reducible exact Kept.refl
    | with_reducible apply Kept.trans ?_ busWriteW_kept
    | (with_reducible apply Kept.foldl ?_ ?_; intro x a; (try simp only []))
    | simp only [mk_kept_iff]
    | split
theorem cmdWrite_kept {s : State} {id : MasterId} {a : Nat} {d : List Byte} {u : optParam Upset { }} :
    Kept s (cmdWrite s id a d u) := by
  unfold cmdWrite
  (try simp only [])
  repeat' first
    | with_reducible apply Kept.ite ?_ ?_
    | with_reducible exact Kept.refl
    | with_reducible apply Kept.trans ?_ busWrite_kept
    | (with_reducible apply Kept.foldl ?_ ?_; intro x a; (try simp only []))
    | simp only [mk_kept_iff]
    | split
theorem cmdRead_kept {s : State} {id : MasterId} {a : Nat} {n : Nat} {u : optParam Upset { }} : Kept s (cmdRead s id a n u) := by
  unfold cmdRead
  (try simp only [])
  repeat' first
    | with_reducible apply Kept.ite ?_ ?_
    | with_reducible exact Kept.refl
    | with_reducible apply Kept.trans ?_ busRead_kept
    | (with_reducible apply Kept.foldl ?_ ?_; intro x a; (try simp only []))
    | simp only [mk_kept_iff]
    | split
theorem cmdReg_kept {s : State} {id : MasterId} {page : Nat} {off : Nat} {v : Word32} : Kept s (cmdReg s id page off v) := by
  unfold cmdReg
  (try simp only [])
  repeat' first
    | with_reducible apply Kept.ite ?_ ?_
    | with_reducible exact Kept.refl
    | with_reducible apply Kept.trans ?_ cmdWrite_kept
    | (with_reducible apply Kept.foldl ?_ ?_; intro x a; (try simp only []))
    | simp only [mk_kept_iff]
    | split
theorem cmdRegRead_kept {s : State} {id : MasterId} {page : Nat} {off : Nat} : Kept s (cmdRegRead s id page off) := by
  unfold cmdRegRead
  (try simp only [])
  repeat' first
    | with_reducible apply Kept.ite ?_ ?_
    | with_reducible exact Kept.refl
    | with_reducible apply Kept.trans ?_ cmdRead_kept
    | (with_reducible apply Kept.foldl ?_ ?_; intro x a; (try simp only []))
    | simp only [mk_kept_iff]
    | split
theorem execRegisterWrite_kept {id : MasterId} {addr : Addr} {data : List Byte} {s : State} :
    KeptR s (execRegisterWrite id addr data s) := by
  unfold execRegisterWrite
  (try simp only [])
  repeat' first
    | with_reducible exact KeptR.fault
    | with_reducible apply KeptR.ok
    | with_reducible apply KeptR.okIf
    | with_reducible apply KeptR.ite ?_ ?_
    | with_reducible apply Kept.ite ?_ ?_
    | with_reducible exact Kept.refl
    | with_reducible apply Kept.trans ?_ cmdWrite_kept
    | (with_reducible apply Kept.foldl ?_ ?_; intro x a; (try simp only []))
    | simp only [mk_kept_iff]
    | split
theorem execLock_kept {id : MasterId} {page : BitVec 12} {key : Word32} {s : State} : KeptR s (execLock id page key s) := by
  unfold execLock
  (try simp only [])
  repeat' first
    | with_reducible exact KeptR.fault
    | with_reducible apply KeptR.ok
    | with_reducible apply KeptR.okIf
    | with_reducible apply KeptR.ite ?_ ?_
    | with_reducible apply Kept.ite ?_ ?_
    | with_reducible exact Kept.refl
    | with_reducible apply Kept.trans ?_ cmdReg_kept
    | (with_reducible apply Kept.foldl ?_ ?_; intro x a; (try simp only []))
    | simp only [mk_kept_iff]
    | split
theorem execIrqSet_kept {id : MasterId} {page : BitVec 12} {bits : Word32} {s : State} : KeptR s (execIrqSet id page bits s) := by
  unfold execIrqSet
  (try simp only [])
  repeat' first
    | with_reducible exact KeptR.fault
    | with_reducible apply KeptR.ok
    | with_reducible apply KeptR.okIf
    | with_reducible apply KeptR.ite ?_ ?_
    | with_reducible apply Kept.ite ?_ ?_
    | with_reducible exact Kept.refl
    | with_reducible apply Kept.trans ?_ cmdReg_kept
    | (with_reducible apply Kept.foldl ?_ ?_; intro x a; (try simp only []))
    | simp only [mk_kept_iff]
    | split
theorem execDramRead_kept {id : MasterId} {addr : Addr} {len : Nat} {upset : Upset} {s : State} :
    KeptR s (execDramRead id addr len upset s) := by
  unfold execDramRead
  (try simp only [])
  repeat' first
    | with_reducible exact KeptR.fault
    | with_reducible apply KeptR.ok
    | with_reducible apply KeptR.okIf
    | with_reducible apply KeptR.ite ?_ ?_
    | with_reducible apply Kept.ite ?_ ?_
    | with_reducible exact Kept.refl
    | with_reducible apply Kept.trans ?_ cmdRead_kept
    | (with_reducible apply Kept.foldl ?_ ?_; intro x a; (try simp only []))
    | simp only [mk_kept_iff]
    | split
theorem execDramWrite_kept {id : MasterId} {addr : Addr} {data : List Byte} {upset : Upset} {s : State} :
    KeptR s (execDramWrite id addr data upset s) := by
  unfold execDramWrite
  (try simp only [])
  repeat' first
    | with_reducible exact KeptR.fault
    | with_reducible apply KeptR.ok
    | with_reducible apply KeptR.okIf
    | with_reducible apply KeptR.ite ?_ ?_
    | with_reducible apply Kept.ite ?_ ?_
    | with_reducible exact Kept.refl
    | with_reducible apply Kept.trans ?_ cmdWrite_kept
    | (with_reducible apply Kept.foldl ?_ ?_; intro x a; (try simp only []))
    | simp only [mk_kept_iff]
    | split
theorem execSramAccess_kept {id : MasterId} {addr : Addr} {op : SramOp} {upset : Upset} {s : State} :
    KeptR s (execSramAccess id addr op upset s) := by
  unfold execSramAccess
  (try simp only [])
  repeat' first
    | with_reducible exact KeptR.fault
    | with_reducible apply KeptR.ok
    | with_reducible apply KeptR.okIf
    | with_reducible apply KeptR.ite ?_ ?_
    | with_reducible apply Kept.ite ?_ ?_
    | with_reducible exact Kept.refl
    | with_reducible apply Kept.trans ?_ cmdRead_kept
    | with_reducible apply Kept.trans ?_ cmdWrite_kept
    | (with_reducible apply Kept.foldl ?_ ?_; intro x a; (try simp only []))
    | simp only [mk_kept_iff]
    | split
theorem execScrBstateWrite_kept {id : MasterId} {page : Fin 2} {reg : Fin 16} {v : Word32} {s : State} :
    KeptR s (execScrBstateWrite id page reg v s) := by
  unfold execScrBstateWrite
  (try simp only [])
  repeat' first
    | with_reducible exact KeptR.fault
    | with_reducible apply KeptR.ok
    | with_reducible apply KeptR.okIf
    | with_reducible apply KeptR.ite ?_ ?_
    | with_reducible apply Kept.ite ?_ ?_
    | with_reducible exact Kept.refl
    | with_reducible apply Kept.trans ?_ cmdReg_kept
    | (with_reducible apply Kept.foldl ?_ ?_; intro x a; (try simp only []))
    | simp only [mk_kept_iff]
    | split
theorem execWiden_kept {id : MasterId} {v : Word32} {s : State} : KeptR s (execWiden id v s) := by
  unfold execWiden
  (try simp only [])
  repeat' first
    | with_reducible exact KeptR.fault
    | with_reducible apply KeptR.ok
    | with_reducible apply KeptR.okIf
    | with_reducible apply KeptR.ite ?_ ?_
    | with_reducible apply Kept.ite ?_ ?_
    | with_reducible exact Kept.refl
    | with_reducible apply Kept.trans ?_ cmdReg_kept
    | (with_reducible apply Kept.foldl ?_ ?_; intro x a; (try simp only []))
    | simp only [mk_kept_iff]
    | split
theorem execSpareForce_kept {id : MasterId} {v : Word32} {s : State} : KeptR s (execSpareForce id v s) := by
  unfold execSpareForce
  (try simp only [])
  repeat' first
    | with_reducible exact KeptR.fault
    | with_reducible apply KeptR.ok
    | with_reducible apply KeptR.okIf
    | with_reducible apply KeptR.ite ?_ ?_
    | with_reducible apply Kept.ite ?_ ?_
    | with_reducible exact Kept.refl
    | with_reducible apply Kept.trans ?_ cmdReg_kept
    | (with_reducible apply Kept.foldl ?_ ?_; intro x a; (try simp only []))
    | simp only [mk_kept_iff]
    | split
theorem execSrcWrite_kept {id : MasterId} {v : Word32} {s : State} : KeptR s (execSrcWrite id v s) := by
  unfold execSrcWrite
  (try simp only [])
  repeat' first
    | with_reducible exact KeptR.fault
    | with_reducible apply KeptR.ok
    | with_reducible apply KeptR.okIf
    | with_reducible apply KeptR.ite ?_ ?_
    | with_reducible apply Kept.ite ?_ ?_
    | with_reducible exact Kept.refl
    | with_reducible apply Kept.trans ?_ cmdReg_kept
    | (with_reducible apply Kept.foldl ?_ ?_; intro x a; (try simp only []))
    | simp only [mk_kept_iff]
    | split
theorem execBelfSlewWrite_kept {id : MasterId} {v : Word32} {s : State} : KeptR s (execBelfSlewWrite id v s) := by
  unfold execBelfSlewWrite
  (try simp only [])
  repeat' first
    | with_reducible exact KeptR.fault
    | with_reducible apply KeptR.ok
    | with_reducible apply KeptR.okIf
    | with_reducible apply KeptR.ite ?_ ?_
    | with_reducible apply Kept.ite ?_ ?_
    | with_reducible exact Kept.refl
    | with_reducible apply Kept.trans ?_ cmdReg_kept
    | (with_reducible apply Kept.foldl ?_ ?_; intro x a; (try simp only []))
    | simp only [mk_kept_iff]
    | split
theorem execBelfTimeLoRead_kept {id : MasterId} {s : State} : KeptR s (execBelfTimeLoRead id s) := by
  unfold execBelfTimeLoRead
  (try simp only [])
  repeat' first
    | with_reducible exact KeptR.fault
    | with_reducible apply KeptR.ok
    | with_reducible apply KeptR.okIf
    | with_reducible apply KeptR.ite ?_ ?_
    | with_reducible apply Kept.ite ?_ ?_
    | with_reducible exact Kept.refl
    | with_reducible apply Kept.trans ?_ cmdRegRead_kept
    | (with_reducible apply Kept.foldl ?_ ?_; intro x a; (try simp only []))
    | simp only [mk_kept_iff]
    | split
theorem execBelfTimeHiRead_kept {id : MasterId} {s : State} : KeptR s (execBelfTimeHiRead id s) := by
  unfold execBelfTimeHiRead
  (try simp only [])
  repeat' first
    | with_reducible exact KeptR.fault
    | with_reducible apply KeptR.ok
    | with_reducible apply KeptR.okIf
    | with_reducible apply KeptR.ite ?_ ?_
    | with_reducible apply Kept.ite ?_ ?_
    | with_reducible exact Kept.refl
    | with_reducible apply Kept.trans ?_ cmdRegRead_kept
    | (with_reducible apply Kept.foldl ?_ ?_; intro x a; (try simp only []))
    | simp only [mk_kept_iff]
    | split
theorem execBcmpCtlWrite_kept {id : MasterId} {c : Fin 64} {v : Word32} {s : State} : KeptR s (execBcmpCtlWrite id c v s) := by
  unfold execBcmpCtlWrite
  (try simp only [])
  repeat' first
    | with_reducible exact KeptR.fault
    | with_reducible apply KeptR.ok
    | with_reducible apply KeptR.okIf
    | with_reducible apply KeptR.ite ?_ ?_
    | with_reducible apply Kept.ite ?_ ?_
    | with_reducible exact Kept.refl
    | with_reducible apply Kept.trans ?_ cmdReg_kept
    | (with_reducible apply Kept.foldl ?_ ?_; intro x a; (try simp only []))
    | simp only [mk_kept_iff]
    | split
theorem execBcmpTargetWrite_kept {id : MasterId} {c : Fin 64} {high : Bool} {v : Word32} {s : State} :
    KeptR s (execBcmpTargetWrite id c high v s) := by
  unfold execBcmpTargetWrite
  (try simp only [])
  repeat' first
    | with_reducible exact KeptR.fault
    | with_reducible apply KeptR.ok
    | with_reducible apply KeptR.okIf
    | with_reducible apply KeptR.ite ?_ ?_
    | with_reducible apply Kept.ite ?_ ?_
    | with_reducible exact Kept.refl
    | with_reducible apply Kept.trans ?_ cmdReg_kept
    | (with_reducible apply Kept.foldl ?_ ?_; intro x a; (try simp only []))
    | simp only [mk_kept_iff]
    | split
theorem execTctlWrite_kept {id : MasterId} {page : Fin 12} {t : Fin 8} {v : Word32} {s : State} :
    KeptR s (execTctlWrite id page t v s) := by
  unfold execTctlWrite
  (try simp only [])
  repeat' first
    | with_reducible exact KeptR.fault
    | with_reducible apply KeptR.ok
    | with_reducible apply KeptR.okIf
    | with_reducible apply KeptR.ite ?_ ?_
    | with_reducible apply Kept.ite ?_ ?_
    | with_reducible exact Kept.refl
    | with_reducible apply Kept.trans ?_ cmdReg_kept
    | (with_reducible apply Kept.foldl ?_ ?_; intro x a; (try simp only []))
    | simp only [mk_kept_iff]
    | split
theorem execCmpWrite_kept {id : MasterId} {page : Fin 12} {t : Fin 8} {v : Word32} {edge : Bool} {s : State} :
    KeptR s (execCmpWrite id page t v edge s) := by
  unfold execCmpWrite
  (try simp only [])
  repeat' first
    | with_reducible exact KeptR.fault
    | with_reducible apply KeptR.ok
    | with_reducible apply KeptR.okIf
    | with_reducible apply KeptR.ite ?_ ?_
    | with_reducible apply Kept.ite ?_ ?_
    | with_reducible exact Kept.refl
    | with_reducible apply Kept.trans ?_ cmdReg_kept
    | with_reducible apply Kept.trans ?_ tmrTick_kept
    | (with_reducible apply Kept.foldl ?_ ?_; intro x a; (try simp only []))
    | simp only [mk_kept_iff]
    | split
theorem execCmpPreWrite_kept {id : MasterId} {page : Fin 12} {t : Fin 8} {v : Word32} {s : State} :
    KeptR s (execCmpPreWrite id page t v s) := by
  unfold execCmpPreWrite
  (try simp only [])
  repeat' first
    | with_reducible exact KeptR.fault
    | with_reducible apply KeptR.ok
    | with_reducible apply KeptR.okIf
    | with_reducible apply KeptR.ite ?_ ?_
    | with_reducible apply Kept.ite ?_ ?_
    | with_reducible exact Kept.refl
    | with_reducible apply Kept.trans ?_ cmdReg_kept
    | (with_reducible apply Kept.foldl ?_ ?_; intro x a; (try simp only []))
    | simp only [mk_kept_iff]
    | split
theorem execCountWrite_kept {id : MasterId} {page : Fin 12} {t : Fin 8} {v : Word32} {s : State} :
    KeptR s (execCountWrite id page t v s) := by
  unfold execCountWrite
  (try simp only [])
  repeat' first
    | with_reducible exact KeptR.fault
    | with_reducible apply KeptR.ok
    | with_reducible apply KeptR.okIf
    | with_reducible apply KeptR.ite ?_ ?_
    | with_reducible apply Kept.ite ?_ ?_
    | with_reducible exact Kept.refl
    | with_reducible apply Kept.trans ?_ cmdReg_kept
    | (with_reducible apply Kept.foldl ?_ ?_; intro x a; (try simp only []))
    | simp only [mk_kept_iff]
    | split
theorem execReloadWrite_kept {id : MasterId} {page : Fin 12} {t : Fin 8} {v : Word32} {s : State} :
    KeptR s (execReloadWrite id page t v s) := by
  unfold execReloadWrite
  (try simp only [])
  repeat' first
    | with_reducible exact KeptR.fault
    | with_reducible apply KeptR.ok
    | with_reducible apply KeptR.okIf
    | with_reducible apply KeptR.ite ?_ ?_
    | with_reducible apply Kept.ite ?_ ?_
    | with_reducible exact Kept.refl
    | with_reducible apply Kept.trans ?_ cmdReg_kept
    | (with_reducible apply Kept.foldl ?_ ?_; intro x a; (try simp only []))
    | simp only [mk_kept_iff]
    | split
theorem execLinkedCountRead_kept {id : MasterId} {page : Fin 12} {t : Fin 8} {s : State} :
    KeptR s (execLinkedCountRead id page t s) := by
  unfold execLinkedCountRead
  (try simp only [])
  repeat' first
    | with_reducible exact KeptR.fault
    | with_reducible apply KeptR.ok
    | with_reducible apply KeptR.okIf
    | with_reducible apply KeptR.ite ?_ ?_
    | with_reducible apply Kept.ite ?_ ?_
    | with_reducible exact Kept.refl
    | with_reducible apply Kept.trans ?_ cmdRegRead_kept
    | (with_reducible apply Kept.foldl ?_ ?_; intro x a; (try simp only []))
    | simp only [mk_kept_iff]
    | split
theorem execSoftwareEventSet_kept {id : MasterId} {reg : Fin 4} {v : Word32} {s : State} :
    KeptR s (execSoftwareEventSet id reg v s) := by
  unfold execSoftwareEventSet
  (try simp only [])
  repeat' first
    | with_reducible exact KeptR.fault
    | with_reducible apply KeptR.ok
    | with_reducible apply KeptR.okIf
    | with_reducible apply KeptR.ite ?_ ?_
    | with_reducible apply Kept.ite ?_ ?_
    | with_reducible exact Kept.refl
    | with_reducible apply Kept.trans ?_ cmdReg_kept
    | (with_reducible apply Kept.foldl ?_ ?_; intro x a; (try simp only []))
    | simp only [mk_kept_iff]
    | split
theorem execRouteWrite_kept {id : MasterId} {src : Fin 512} {v : Word32} {s : State} : KeptR s (execRouteWrite id src v s) := by
  unfold execRouteWrite
  (try simp only [])
  repeat' first
    | with_reducible exact KeptR.fault
    | with_reducible apply KeptR.ok
    | with_reducible apply KeptR.okIf
    | with_reducible apply KeptR.ite ?_ ?_
    | with_reducible apply Kept.ite ?_ ?_
    | with_reducible exact Kept.refl
    | with_reducible apply Kept.trans ?_ cmdReg_kept
    | (with_reducible apply Kept.foldl ?_ ?_; intro x a; (try simp only []))
    | simp only [mk_kept_iff]
    | split
theorem execBindingWrite_kept {id : MasterId} {ch : Fin 64} {v : Word32} {s : State} : KeptR s (execBindingWrite id ch v s) := by
  unfold execBindingWrite
  (try simp only [])
  repeat' first
    | with_reducible exact KeptR.fault
    | with_reducible apply KeptR.ok
    | with_reducible apply KeptR.okIf
    | with_reducible apply KeptR.ite ?_ ?_
    | with_reducible apply Kept.ite ?_ ?_
    | with_reducible exact Kept.refl
    | with_reducible apply Kept.trans ?_ cmdReg_kept
    | (with_reducible apply Kept.foldl ?_ ?_; intro x a; (try simp only []))
    | simp only [mk_kept_iff]
    | split
theorem execMbTxlo_kept {id : MasterId} {ch : Fin 64} {v : Word32} {s : State} : KeptR s (execMbTxlo id ch v s) := by
  unfold execMbTxlo
  (try simp only [])
  repeat' first
    | with_reducible exact KeptR.fault
    | with_reducible apply KeptR.ok
    | with_reducible apply KeptR.okIf
    | with_reducible apply KeptR.ite ?_ ?_
    | with_reducible apply Kept.ite ?_ ?_
    | with_reducible exact Kept.refl
    | with_reducible apply Kept.trans ?_ cmdReg_kept
    | (with_reducible apply Kept.foldl ?_ ?_; intro x a; (try simp only []))
    | simp only [mk_kept_iff]
    | split
theorem execMbTxhi_kept {id : MasterId} {ch : Fin 64} {v : Word32} {s : State} : KeptR s (execMbTxhi id ch v s) := by
  unfold execMbTxhi
  (try simp only [])
  repeat' first
    | with_reducible exact KeptR.fault
    | with_reducible apply KeptR.ok
    | with_reducible apply KeptR.okIf
    | with_reducible apply KeptR.ite ?_ ?_
    | with_reducible apply Kept.ite ?_ ?_
    | with_reducible exact Kept.refl
    | with_reducible apply Kept.trans ?_ cmdReg_kept
    | (with_reducible apply Kept.foldl ?_ ?_; intro x a; (try simp only []))
    | simp only [mk_kept_iff]
    | split
theorem execMbRing_kept {id : MasterId} {ch : Fin 64} {v : Word32} {s : State} : KeptR s (execMbRing id ch v s) := by
  unfold execMbRing
  (try simp only [])
  repeat' first
    | with_reducible exact KeptR.fault
    | with_reducible apply KeptR.ok
    | with_reducible apply KeptR.okIf
    | with_reducible apply KeptR.ite ?_ ?_
    | with_reducible apply Kept.ite ?_ ?_
    | with_reducible exact Kept.refl
    | with_reducible apply Kept.trans ?_ cmdReg_kept
    | (with_reducible apply Kept.foldl ?_ ?_; intro x a; (try simp only []))
    | simp only [mk_kept_iff]
    | split
theorem execMbWait_kept {id : MasterId} {ch : Fin 64} {v : Word32} {s : State} : KeptR s (execMbWait id ch v s) := by
  unfold execMbWait
  (try simp only [])
  repeat' first
    | with_reducible exact KeptR.fault
    | with_reducible apply KeptR.ok
    | with_reducible apply KeptR.okIf
    | with_reducible apply KeptR.ite ?_ ?_
    | with_reducible apply Kept.ite ?_ ?_
    | with_reducible exact Kept.refl
    | with_reducible apply Kept.trans ?_ cmdReg_kept
    | (with_reducible apply Kept.foldl ?_ ?_; intro x a; (try simp only []))
    | simp only [mk_kept_iff]
    | split
theorem execPop_kept {id : MasterId} {ch : Fin 64} {s : State} : KeptR s (execPop id ch s) := by
  unfold execPop
  (try simp only [])
  repeat' first
    | with_reducible exact KeptR.fault
    | with_reducible apply KeptR.ok
    | with_reducible apply KeptR.okIf
    | with_reducible apply KeptR.ite ?_ ?_
    | with_reducible apply Kept.ite ?_ ?_
    | with_reducible exact Kept.refl
    | with_reducible apply Kept.trans ?_ cmdReg_kept
    | (with_reducible apply Kept.foldl ?_ ?_; intro x a; (try simp only []))
    | simp only [mk_kept_iff]
    | split
theorem execLockRead_kept {id : MasterId} {n : Fin 16} {s : State} : KeptR s (execLockRead id n s) := by
  unfold execLockRead
  (try simp only [])
  repeat' first
    | with_reducible exact KeptR.fault
    | with_reducible apply KeptR.ok
    | with_reducible apply KeptR.okIf
    | with_reducible apply KeptR.ite ?_ ?_
    | with_reducible apply Kept.ite ?_ ?_
    | with_reducible exact Kept.refl
    | with_reducible apply Kept.trans ?_ cmdRegRead_kept
    | (with_reducible apply Kept.foldl ?_ ?_; intro x a; (try simp only []))
    | simp only [mk_kept_iff]
    | split
theorem execLockRelease_kept {id : MasterId} {n : Fin 16} {v : Word32} {s : State} : KeptR s (execLockRelease id n v s) := by
  unfold execLockRelease
  (try simp only [])
  repeat' first
    | with_reducible exact KeptR.fault
    | with_reducible apply KeptR.ok
    | with_reducible apply KeptR.okIf
    | with_reducible apply KeptR.ite ?_ ?_
    | with_reducible apply Kept.ite ?_ ?_
    | with_reducible exact Kept.refl
    | with_reducible apply Kept.trans ?_ cmdReg_kept
    | (with_reducible apply Kept.foldl ?_ ?_; intro x a; (try simp only []))
    | simp only [mk_kept_iff]
    | split
theorem execInjectionTest_kept {id : MasterId} {p : Fin 4} {groups : BitVec 8} {fails : BitVec 8} {s : State} :
    KeptR s (execInjectionTest id p groups fails s) := by
  unfold execInjectionTest
  (try simp only [])
  repeat' first
    | with_reducible exact KeptR.fault
    | with_reducible apply KeptR.ok
    | with_reducible apply KeptR.okIf
    | with_reducible apply KeptR.ite ?_ ?_
    | with_reducible apply Kept.ite ?_ ?_
    | with_reducible exact Kept.refl
    | with_reducible apply Kept.trans ?_ injectEnd_kept
    | with_reducible apply Kept.trans ?_ injectWrite_kept
    | with_reducible apply Kept.trans ?_ cmdReg_kept
    | (with_reducible apply Kept.foldl ?_ ?_; intro x a; (try simp only []))
    | simp only [mk_kept_iff]
    | split
end Sys2Proof.Laws
end

