-- ==== Sys2Proof/Laws/KeepSpireGroup.lean ====
section
/-! SUPPORT. What the operations of Machine/SpireGroup.lean leave alone (Laws/Kept.lean). -/
namespace Sys2Proof.Laws
set_option linter.unusedTactic false
set_option linter.unreachableTactic false
open Sys2Proof.Machine
theorem sprCE_kept {s : State} {n : Fin 8} : Kept s (sprCE s n) := by
  unfold sprCE
  (try simp only [])
  repeat' first
    | with_reducible apply Kept.ite ?_ ?_
    | with_reducible exact Kept.refl
    | with_reducible apply Kept.trans ?_ State_irqBit_kept
    | with_reducible apply Kept.trans ?_ State_correctable_kept
    | (with_reducible apply Kept.foldl ?_ ?_; intro x a; (try simp only []))
    | simp only [mk_kept_iff]
    | split
theorem sprUE_kept {s : State} {n : Fin 8} {wh : Nat} {word : Nat} : Kept s (sprUE s n wh word) := by
  unfold sprUE
  (try simp only [])
  repeat' first
    | with_reducible apply Kept.ite ?_ ?_
    | with_reducible exact Kept.refl
    | with_reducible apply Kept.trans ?_ State_irqBit_kept
    | with_reducible apply Kept.trans ?_ setReg_kept
    | (with_reducible apply Kept.foldl ?_ ?_; intro x a; (try simp only []))
    | simp only [mk_kept_iff]
    | split
theorem coefWord_kept {s : State} {n : Fin 8} {k : Nat} {bits : Nat} : Kept s (coefWord s n k bits).1 := by
  unfold coefWord
  (try simp only [])
  repeat' first
    | with_reducible apply Kept.ite ?_ ?_
    | with_reducible exact Kept.refl
    | with_reducible apply Kept.trans ?_ State_setWordErr_kept
    | with_reducible apply Kept.trans ?_ State_freshBytes_kept
    | with_reducible apply Kept.trans ?_ State_fresh_kept
    | with_reducible apply Kept.trans ?_ sprUE_kept
    | with_reducible apply Kept.trans ?_ sprCE_kept
    | with_reducible apply Kept.trans ?_ setBytes_kept
    | (with_reducible apply Kept.foldl ?_ ?_; intro x a; (try simp only []))
    | simp only [mk_kept_iff]
    | split
theorem coefParts_kept {s : State} {n : Fin 8} {x2 : List (Nat × Nat)} : Kept s (coefParts s n x2).1 := by
  fun_induction coefParts s n x2 <;> (try simp only []) <;>
    repeat' first
      | with_reducible apply Kept.ite ?_ ?_
      | with_reducible exact Kept.refl
      | with_reducible apply Kept.trans ?_ coefWord_kept
      | with_reducible refine Kept.viaFst ‹coefWord _ _ _ _ = (_, _)› coefWord_kept ?_
      | with_reducible apply Kept.trans ?_ (by assumption)
      | (with_reducible apply Kept.foldl ?_ ?_; intro x a; (try simp only []))
      | simp only [mk_kept_iff]
      | (split <;> (try simp only []))
theorem coefBytes_kept {s : State} {n : Fin 8} {off : Nat} {len : Nat} : Kept s (coefBytes s n off len).1 := by
  unfold coefBytes
  (try simp only [])
  repeat' first
    | with_reducible apply Kept.ite ?_ ?_
    | with_reducible exact Kept.refl
    | with_reducible apply Kept.trans ?_ coefParts_kept
    | (with_reducible apply Kept.foldl ?_ ?_; intro x a; (try simp only []))
    | simp only [mk_kept_iff]
    | split
theorem coefPut_kept {s : State} {n : Fin 8} {off : Nat} {d : List Byte} : Kept s (coefPut s n off d) := by
  unfold coefPut
  (try simp only [])
  repeat' first
    | with_reducible apply Kept.ite ?_ ?_
    | with_reducible exact Kept.refl
    | with_reducible apply Kept.trans ?_ setBytes_kept
    | with_reducible apply Kept.trans ?_ State_setWordErr_kept
    | with_reducible apply Kept.trans ?_ coefWord_kept
    | (with_reducible apply Kept.foldl ?_ ?_; intro x a; (try simp only []))
    | simp only [mk_kept_iff]
    | split
theorem coefWriteParts_kept {s : State} {n : Fin 8} {x2 : List (Nat × Nat)} {x3 : List Byte} :
    Kept s (coefWriteParts s n x2 x3) := by
  fun_induction coefWriteParts s n x2 x3 <;> (try simp only []) <;>
    repeat' first
      | with_reducible apply Kept.ite ?_ ?_
      | with_reducible exact Kept.refl
      | with_reducible apply Kept.trans ?_ coefPut_kept
      | with_reducible apply Kept.trans ?_ (by assumption)
      | (with_reducible apply Kept.foldl ?_ ?_; intro x a; (try simp only []))
      | simp only [mk_kept_iff]
      | (split <;> (try simp only []))
theorem coefWrite_kept {s : State} {n : Fin 8} {off : Nat} {d : List Byte} : Kept s (coefWrite s n off d) := by
  unfold coefWrite
  (try simp only [])
  repeat' first
    | with_reducible apply Kept.ite ?_ ?_
    | with_reducible exact Kept.refl
    | with_reducible apply Kept.trans ?_ coefWriteParts_kept
    | (with_reducible apply Kept.foldl ?_ ?_; intro x a; (try simp only []))
    | simp only [mk_kept_iff]
    | split
theorem unitRead_kept {s : State} {n : Fin 8} {c : UnitCache} {a : Nat} {sz : Nat} : Kept s (unitRead s n c a sz).1 := by
  unfold unitRead
  (try simp only [])
  repeat' first
    | with_reducible apply Kept.ite ?_ ?_
    | with_reducible exact Kept.refl
    | with_reducible apply Kept.trans ?_ busRead_kept
    | (with_reducible apply Kept.foldl ?_ ?_; intro x a; (try simp only []))
    | simp only [mk_kept_iff]
    | split
theorem elemRead_kept {s : State} {n : Fin 8} {c : UnitCache} {l : List (Nat × Nat)} {sz : Nat} : Kept s (elemRead s n c l sz).1 := by
  induction l generalizing s c with
  | nil => exact Kept.refl
  | cons x t ih =>
    obtain ⟨a, k⟩ := x
    have h := unitRead_kept (s := s) (n := n) (c := c) (a := a / sz * sz) (sz := sz)
    unfold elemRead
    generalize unitRead s n c (a / sz * sz) sz = r at h ⊢
    obtain ⟨s1, c1, e | ⟨d, _ | _⟩, kd⟩ := r
    · exact h
    · have h2 := ih (s := s1) (c := c1)
      dsimp only
      generalize elemRead s1 n c1 t sz = q at h2 ⊢
      obtain ⟨s2, c2, e | r⟩ := q
      · exact h.trans h2
      · exact h.trans h2
    · exact h
theorem seenBytes_kept {s : State} {rs : List GStore} {a : Nat} {d : List Byte} : Kept s (seenBytes s rs a d).1 := by
  unfold seenBytes
  (try simp only [])
  repeat' first
    | with_reducible apply Kept.ite ?_ ?_
    | with_reducible exact Kept.refl
    | (with_reducible apply Kept.foldl ?_ ?_; intro x a; (try simp only []))
    | simp only [mk_kept_iff]
    | split
theorem opSetup_kept {s : State} {n : Fin 8} {o : GOp} {tot : Nat} : Kept s (opSetup s n o tot).1 := by
  unfold opSetup
  (try simp only [])
  repeat' first
    | with_reducible apply Kept.ite ?_ ?_
    | with_reducible exact Kept.refl
    | with_reducible apply Kept.trans ?_ coefBytes_kept
    | (with_reducible apply Kept.foldl ?_ ?_; intro x a; (try simp only []))
    | simp only [mk_kept_iff]
    | split
theorem permStep_kept {s : State} {n : Fin 8} {o : GOp} {first : Nat} {xs : List (Option Nat)} :
    Kept s (permStep s n o first xs).1 := by
  unfold permStep
  (try simp only [])
  repeat' first
    | with_reducible apply Kept.ite ?_ ?_
    | with_reducible exact Kept.refl
    | with_reducible apply Kept.trans ?_ coefBytes_kept
    | (with_reducible apply Kept.foldl ?_ ?_; intro x a; (try simp only []))
    | simp only [mk_kept_iff]
    | split
theorem permSteps_kept {s : State} {n : Fin 8} {o : GOp} {x3 : Nat} {x4 : List (List (Option Nat))} :
    Kept s (permSteps s n o x3 x4).1 := by
  fun_induction permSteps s n o x3 x4 <;> (try simp only []) <;>
    repeat' first
      | with_reducible apply Kept.ite ?_ ?_
      | with_reducible exact Kept.refl
      | with_reducible apply Kept.trans ?_ permStep_kept
      | with_reducible refine Kept.viaFst ‹permStep _ _ _ _ _ = (_, _)› permStep_kept ?_
      | with_reducible apply Kept.trans ?_ (by assumption)
      | (with_reducible apply Kept.foldl ?_ ?_; intro x a; (try simp only []))
      | simp only [mk_kept_iff]
      | (split <;> (try simp only []))
theorem setupAll_kept {s : State} {n : Fin 8} {g : Group} {x3 : Nat} {x4 : List (GOp × Nat)} : Kept s (setupAll s n g x3 x4).1 := by
  fun_induction setupAll s n g x3 x4 <;> (try simp only []) <;>
    repeat' first
      | with_reducible apply Kept.ite ?_ ?_
      | with_reducible exact Kept.refl
      | with_reducible apply Kept.trans ?_ opSetup_kept
      | with_reducible refine Kept.viaFst ‹opSetup _ _ _ _ = (_, _)› opSetup_kept ?_
      | with_reducible apply Kept.trans ?_ (by assumption)
      | (with_reducible apply Kept.foldl ?_ ?_; intro x a; (try simp only []))
      | simp only [mk_kept_iff]
      | (split <;> (try simp only []))
theorem doWrites_kept {s : State} {n : Fin 8} {step : Nat} {rec : List GStore} {l : List (Nat × List Byte)} :
    Kept s (doWrites s n step rec l).1 := by
  induction l generalizing s rec with
  | nil => exact Kept.refl
  | cons x t ih =>
    obtain ⟨a, b⟩ := x
    have h := busWriteRaw_kept (s := s) (id := sprId n) (cust := false) (a := a) (d := b) (u := {})
    unfold doWrites
    dsimp only
    generalize busWriteRaw s (sprId n) false a b {} = r at h ⊢
    obtain ⟨s1, _ | c⟩ := r
    · exact h.trans ih
    · exact (h.trans State_berr_kept).trans ih
theorem chooseSome_kept {s : State} {x1 : List (Nat × Nat × List Byte)} : Kept s (chooseSome s x1).1 := by
  fun_induction chooseSome s x1 <;> (try simp only []) <;>
    repeat' first
      | with_reducible apply Kept.ite ?_ ?_
      | with_reducible exact Kept.refl
      | with_reducible apply Kept.trans ?_ State_fresh_kept
      | with_reducible refine Kept.viaSnd ‹State.fresh _ = (_, _)› State_fresh_kept ?_
      | with_reducible apply Kept.trans ?_ (by assumption)
      | (with_reducible apply Kept.foldl ?_ ?_; intro x a; (try simp only []))
      | simp only [mk_kept_iff]
      | (split <;> (try simp only []))
theorem loadOne_kept {n : Fin 8} {rs : List GStore} {d : SDesc} {q : LdAcc} {i x : Nat} : Kept q.s (loadOne n rs d q i x).s := by
  have h : Kept q.s (if classHolds d.mclass (d.addr i x) d.w then
      elemRead q.s n q.cache (parts (if d.mclass then 8 else 64) d.w (d.addr i x) d.w) (if d.mclass then 8 else 64)
      else (q.s, q.cache, .error (6, 1))).1 := by
    split
    · exact elemRead_kept
    · exact Kept.refl
  unfold loadOne
  dsimp only
  generalize (if classHolds d.mclass (d.addr i x) d.w then
      elemRead q.s n q.cache (parts (if d.mclass then 8 else 64) d.w (d.addr i x) d.w) (if d.mclass then 8 else 64)
      else (q.s, q.cache, .error (6, 1))) = r at h ⊢
  obtain ⟨s1, c1, e | b⟩ := r
  · dsimp only
    split <;> exact h
  · exact h.trans seenBytes_kept
theorem loadList_kept {n : Fin 8} {rs : List GStore} {d : SDesc} {q : LdAcc} {l : List (Nat × Option Nat)} :
    Kept q.s (loadList n rs d q l).s := by
  induction l generalizing q with
  | nil => exact Kept.refl
  | cons x t ih =>
    obtain ⟨i, _ | x⟩ := x
    · exact ih (q := { q with vals := q.vals ++ [none] })
    · exact loadOne_kept.trans ih
theorem sourceRange_kept {n : Fin 8} {g : Group} {rs : List GStore} {i : Nat} {o : GOp} {r : SrcRef} {a b : Nat} {q : StepAcc} :
    Kept q.s (sourceRange n g rs i o r a b q).1.s := by
  unfold sourceRange
  dsimp only
  split
  · split <;> exact Kept.refl
  · split
    · exact coefBytes_kept
    · refine Kept.trans ?_ loadList_kept
      cases r.ix with
      | none => exact Kept.refl
      | some k => exact loadList_kept (q := { s := q.s, cache := q.cache })
theorem sourceRanges_kept {n : Fin 8} {g : Group} {rs : List GStore} {i : Nat} {o : GOp} {a b : Nat} {q : StepAcc} {l : List SrcRef} :
    Kept q.s (sourceRanges n g rs i o a b q l).1.s := by
  induction l generalizing q with
  | nil => exact Kept.refl
  | cons r t ih => exact sourceRange_kept.trans ih
theorem opEval_kept {s : State} {n : Fin 8} {o : GOp} {e : Nat} {run : OpRun} {ins : List (List (Option Nat))} {cnt : Nat} :
    Kept s (opEval s n o e run ins cnt).s := by
  have hm : ∀ xs, Kept s (opMat s n o run xs).s := by
    intro xs; unfold opMat; dsimp only; split
    · exact Kept.refl
    · exact coefBytes_kept
  have hb : ∀ xs, Kept s (opBfly s n o run xs cnt).s := by
    intro xs; unfold opBfly; dsimp only; split
    · exact Kept.refl
    · exact coefBytes_kept
  have ha : ∀ xs, Kept s (opAes s o run xs).s := by
    intro xs; unfold opAes; split
    · exact Kept.refl
    · unfold opGcm; split <;> exact Kept.refl
  unfold opEval
  dsimp only
  split
  · exact hm _
  · exact hb _
  · exact hb _
  · exact permSteps_kept
  · exact ha _
  · exact ha _
  · exact Kept.refl
  · exact Kept.refl
  · split
    · split <;> exact Kept.refl
    · split <;> exact Kept.refl
theorem stepOps_kept {n : Fin 8} {g : Group} {rs : List GStore} {q : StepAcc} {i : Nat} {l : List (GOp × OpRun × Nat)} :
    Kept q.s (stepOps n g rs q i l).s := by
  induction l generalizing q i with
  | nil => exact Kept.refl
  | cons x t ih =>
    obtain ⟨o, run, tgt⟩ := x
    unfold stepOps
    dsimp only
    refine Kept.trans ?_ ih
    exact Kept.trans sourceRanges_kept opEval_kept
theorem stepEval_kept {s : State} {n : Fin 8} {r : GRun} : Kept s (stepEval s n r).s := by
  unfold stepEval
  dsimp only
  refine Kept.trans ?_ stepOps_kept
  dsimp only
  split
  · exact setupAll_kept
  · exact Kept.refl
theorem scatterIx_kept {n : Fin 8} {g : Group} {rs : List GStore} {i : Nat} {r : SrcRef} {xs : List (Nat × Option Nat)} {q : StepAcc} :
    Kept q.s (scatterIx n g rs i r xs q).1.s := by
  unfold scatterIx
  split
  · exact Kept.refl
  · exact loadList_kept (q := { s := q.s, cache := q.cache })
theorem stepFull_kept {s : State} {n : Fin 8} {r : GRun} : Kept s (stepFull s n r).1.s := by
  unfold stepFull
  dsimp only
  split
  · exact stepEval_kept
  · split
    · exact stepEval_kept
    · exact stepEval_kept.trans (scatterIx_kept (q := { s := (stepEval s n r).s }))
theorem trailSteps_kept {n : Fin 8} {k : Nat} {s : State} {r : GRun} : Kept s (trailSteps n k s r) := by
  induction k generalizing s r with
  | zero => exact Kept.refl
  | succ k ih =>
    unfold trailSteps
    dsimp only
    refine Kept.ite Kept.refl (Kept.ite stepFull_kept ?_)
    exact (stepFull_kept.trans (chooseSome_kept.trans doWrites_kept)).trans ih
theorem halfStore_kept {s : State} {n : Fin 8} {g : Group} {d : SrcRef} {xs : List (Nat × Nat × List Byte)} {upto : Nat}
    {skip : List Nat} : Kept s (halfStore s n g d xs upto skip) := by
  unfold halfStore
  (try simp only [])
  repeat' first
    | with_reducible apply Kept.ite ?_ ?_
    | with_reducible exact Kept.refl
    | with_reducible apply Kept.trans ?_ chooseSome_kept
    | with_reducible apply Kept.trans ?_ doWrites_kept
    | (with_reducible apply Kept.foldl ?_ ?_; intro x a; (try simp only []))
    | simp only [mk_kept_iff]
    | split
theorem State_setRun_kept {s : State} {n : Fin 8} {r : Option GRun} : Kept s (State.setRun s n r) := by
  unfold State.setRun
  (try simp only [])
  repeat' first
    | with_reducible apply Kept.ite ?_ ?_
    | with_reducible exact Kept.refl
    | with_reducible apply Kept.trans ?_ State_setSpire_kept
    | (with_reducible apply Kept.foldl ?_ ?_; intro x a; (try simp only []))
    | simp only [mk_kept_iff]
    | split
theorem haltAt_kept {s : State} {n : Fin 8} {r : GRun} {f : GFault} {hole : Nat} : Kept s (haltAt s n r f hole) := by
  unfold haltAt
  (try simp only [])
  repeat' first
    | with_reducible apply Kept.ite ?_ ?_
    | with_reducible exact Kept.refl
    | with_reducible apply Kept.trans ?_ State_setRun_kept
    | (with_reducible apply Kept.foldl ?_ ?_; intro x a; (try simp only []))
    | simp only [mk_kept_iff]
    | split
theorem groupStep_kept {s : State} {n : Fin 8} {r : GRun} : Kept s (groupStep s n r) := by
  have h := stepFull_kept (s := s) (n := n) (r := r)
  have hc : ∀ (l : List (Nat × Nat × List Byte)) (t : State), Kept t (l.foldl (fun t x => coefWrite t n x.2.1 x.2.2) t) :=
    fun l t => Kept.foldl (fun _ _ => coefWrite_kept) Kept.refl
  unfold groupStep
  dsimp only
  generalize stepFull s n r = o at h ⊢
  split
  · split
    · exact h.trans haltAt_kept
    · exact h.trans State_setRun_kept
  · split
    · split
      · exact ((h.trans (hc _ _)).trans (chooseSome_kept.trans (hc _ _))).trans haltAt_kept
      · exact (h.trans (hc _ _)).trans State_setRun_kept
    · split
      · refine Kept.trans ?_ (halfStore_kept.trans haltAt_kept)
        refine Kept.ite h (h.trans doWrites_kept)
      · split
        · exact (h.trans doWrites_kept).trans State_setRun_kept
        · exact ((h.trans (doWrites_kept.trans halfStore_kept)).trans (State_fresh_kept.trans trailSteps_kept)).trans haltAt_kept
theorem groupAdmit_kept {s : State} {n : Fin 8} : Kept s (groupAdmit s n) := by
  unfold groupAdmit
  (try simp only [])
  repeat' first
    | with_reducible apply Kept.ite ?_ ?_
    | with_reducible exact Kept.refl
    | with_reducible apply Kept.trans ?_ State_setSpire_kept
    | with_reducible apply Kept.trans ?_ State_setSc_kept
    | (with_reducible apply Kept.foldl ?_ ?_; intro x a; (try simp only []))
    | simp only [mk_kept_iff]
    | split
theorem writeBack_kept {s : State} {n : Fin 8} {x2 : List (GOp × OpRun)} : Kept s (writeBack s n x2) := by
  fun_induction writeBack s n x2 <;> (try simp only []) <;>
    repeat' first
      | with_reducible apply Kept.ite ?_ ?_
      | with_reducible exact Kept.refl
      | with_reducible apply Kept.trans ?_ coefWrite_kept
      | with_reducible apply Kept.trans ?_ (by assumption)
      | (with_reducible apply Kept.foldl ?_ ?_; intro x a; (try simp only []))
      | simp only [mk_kept_iff]
      | (split <;> (try simp only []))
theorem groupCounters_kept {s : State} {n : Fin 8} : Kept s (groupCounters s n) := by
  unfold groupCounters
  (try simp only [])
  repeat' first
    | with_reducible apply Kept.ite ?_ ?_
    | with_reducible exact Kept.refl
    | with_reducible apply Kept.trans ?_ State_fresh_kept
    | with_reducible apply Kept.trans ?_ setReg_kept
    | (with_reducible apply Kept.foldl ?_ ?_; intro x a; (try simp only []))
    | simp only [mk_kept_iff]
    | split
theorem execGroupStep_kept {sp : Fin 8} {s : State} : KeptR s (execGroupStep sp s) := by
  unfold execGroupStep
  (try simp only [])
  repeat' first
    | with_reducible exact KeptR.fault
    | with_reducible apply KeptR.ok
    | with_reducible apply KeptR.okIf
    | with_reducible apply KeptR.ite ?_ ?_
    | with_reducible apply Kept.ite ?_ ?_
    | with_reducible exact Kept.refl
    | with_reducible apply Kept.trans ?_ groupStep_kept
    | with_reducible apply Kept.trans ?_ groupCounters_kept
    | (with_reducible apply Kept.foldl ?_ ?_; intro x a; (try simp only []))
    | simp only [mk_kept_iff]
    | split
theorem execGroupAdmit_kept {sp : Fin 8} {s : State} : KeptR s (execGroupAdmit sp s) := by
  unfold execGroupAdmit
  (try simp only [])
  repeat' first
    | with_reducible exact KeptR.fault
    | with_reducible apply KeptR.ok
    | with_reducible apply KeptR.okIf
    | with_reducible apply KeptR.ite ?_ ?_
    | with_reducible apply Kept.ite ?_ ?_
    | with_reducible exact Kept.refl
    | with_reducible apply Kept.trans ?_ groupAdmit_kept
    | (with_reducible apply Kept.foldl ?_ ?_; intro x a; (try simp only []))
    | simp only [mk_kept_iff]
    | split
theorem groupEnd_kept {s : State} {n : Fin 8} {r : GRun} {f : SpCtx → SpCtx} : Kept s (groupEnd s n r f) := by
  unfold groupEnd
  (try simp only [])
  repeat' first
    | with_reducible apply Kept.ite ?_ ?_
    | with_reducible exact Kept.refl
    | with_reducible apply Kept.trans ?_ State_setRun_kept
    | with_reducible apply Kept.trans ?_ spStopDue_kept
    | with_reducible apply Kept.trans ?_ State_setSc_kept
    | (with_reducible apply Kept.foldl ?_ ?_; intro x a; (try simp only []))
    | simp only [mk_kept_iff]
    | split
theorem execGroupComplete_kept {sp : Fin 8} {s : State} : KeptR s (execGroupComplete sp s) := by
  unfold execGroupComplete
  (try simp only [])
  repeat' first
    | with_reducible exact KeptR.fault
    | with_reducible apply KeptR.ok
    | with_reducible apply KeptR.okIf
    | with_reducible apply KeptR.ite ?_ ?_
    | with_reducible apply Kept.ite ?_ ?_
    | with_reducible exact Kept.refl
    | with_reducible apply Kept.trans ?_ setReg_kept
    | with_reducible apply Kept.trans ?_ writeBack_kept
    | with_reducible apply Kept.trans ?_ groupEnd_kept
    | (with_reducible apply Kept.foldl ?_ ?_; intro x a; (try simp only []))
    | simp only [mk_kept_iff]
    | split
theorem execGroupHalt_kept {sp : Fin 8} {s : State} : KeptR s (execGroupHalt sp s) := by
  unfold execGroupHalt
  (try simp only [])
  repeat' first
    | with_reducible exact KeptR.fault
    | with_reducible apply KeptR.ok
    | with_reducible apply KeptR.okIf
    | with_reducible apply KeptR.ite ?_ ?_
    | with_reducible apply Kept.ite ?_ ?_
    | with_reducible exact Kept.refl
    | with_reducible apply Kept.trans ?_ groupEnd_kept
    | (with_reducible apply Kept.foldl ?_ ?_; intro x a; (try simp only []))
    | simp only [mk_kept_iff]
    | split
theorem execFencedSet_kept {sp : Fin 8} {s : State} : KeptR s (execFencedSet sp s) := by
  unfold execFencedSet
  (try simp only [])
  repeat' first
    | with_reducible exact KeptR.fault
    | with_reducible apply KeptR.ok
    | with_reducible apply KeptR.okIf
    | with_reducible apply KeptR.ite ?_ ?_
    | with_reducible apply Kept.ite ?_ ?_
    | with_reducible exact Kept.refl
    | with_reducible apply Kept.trans ?_ State_irqBit_kept
    | with_reducible apply Kept.trans ?_ setReg_kept
    | (with_reducible apply Kept.foldl ?_ ?_; intro x a; (try simp only []))
    | simp only [mk_kept_iff]
    | split
end Sys2Proof.Laws
end

