-- ==== Sys2Proof/Laws/KeptRun.lean ====
section
/-! SUPPORT. What the parts of an instruction leave alone (Laws/Kept.lean): the state a part answers, whether it goes on or traps. -/
namespace Sys2Proof.Laws
open Sys2Proof.Machine

/-- The state a part of an instruction answers. -/
def runState {α : Type} : Run α → State
  | .ok _ s => s
  | .trap _ s => s

@[simp] theorem runState_ok {α : Type} (a : α) (s : State) : runState (Run.ok a s) = s := rfl
@[simp] theorem runState_trap {α : Type} (t : Trap) (s : State) : runState (Run.trap t s : Run α) = s := rfl

theorem Kept.viaOk {s t u : State} {α : Type} {r : Run α} {a : α} (e : r = .ok a u) (k : Kept t (runState r)) (h : Kept s t) :
    Kept s u := by subst e; exact h.trans k
theorem Kept.viaTrap {s t u : State} {α : Type} {r : Run α} {x : Trap} (e : r = .trap x u) (k : Kept t (runState r)) (h : Kept s t) :
    Kept s u := by subst e; exact h.trans k

/-- A sequence of two parts. -/
theorem bind_kept {α β : Type} {s : State} {r : Run α} {f : α → State → Run β} (h : Kept s (runState r))
    (hf : ∀ a t, Kept t (runState (f a t))) : Kept s (runState (r.bind f)) := by
  cases r with
  | ok a t => exact h.trans (hf a t)
  | trap x t => exact h

end Sys2Proof.Laws
end

