-- ==== Sys2Proof/Laws/KeepTurretCore.lean ====
section
/-! SUPPORT. What the operations of Machine/TurretCore.lean leave alone (Laws/Kept.lean). -/
namespace Sys2Proof.Laws
set_option linter.unusedTactic false
set_option linter.unreachableTactic false
open Sys2Proof.Machine
theorem State_setCx_kept {s : State} {n : Fin 8} {x : TCtx} : Kept s (State.setCx s n x) := by
  unfold State.setCx
  (try simp only [])
  repeat' first
    | with_reducible apply Kept.ite ?_ ?_
    | with_reducible exact Kept.refl
    | with_reducible apply Kept.trans ?_ State_setCore_kept
    | (with_reducible apply Kept.foldl ?_ ?_; intro x a; (try simp only []))
    | simp only [mk_kept_iff]
    | split
theorem sbLeave_kept {s : State} {n : Fin 8} {e : SbEntry} : Kept s (sbLeave s n e) := by
  unfold sbLeave
  (try simp only [])
  repeat' first
    | with_reducible apply Kept.ite ?_ ?_
    | with_reducible exact Kept.refl
    | with_reducible apply Kept.trans ?_ busWriteW_kept
    | with_reducible apply Kept.trans ?_ tcmWrite_kept
    | (with_reducible apply Kept.foldl ?_ ?_; intro x a; (try simp only []))
    | simp only [mk_kept_iff]
    | split
theorem sbDrain_kept {s : State} {n : Fin 8} : Kept s (sbDrain s n) := by
  unfold sbDrain
  (try simp only [])
  repeat' first
    | with_reducible apply Kept.ite ?_ ?_
    | with_reducible exact Kept.refl
    | with_reducible apply Kept.trans ?_ sbLeave_kept
    | with_reducible apply Kept.trans ?_ State_setCore_kept
    | (with_reducible apply Kept.foldl ?_ ?_; intro x a; (try simp only []))
    | simp only [mk_kept_iff]
    | split
theorem sbSettle_kept {s : State} {n : Fin 8} {far : Bool} {a : Nat} {k : Nat} {x5 : Nat} : Kept s (sbSettle s n far a k x5) := by
  fun_induction sbSettle s n far a k x5 <;> (try simp only []) <;>
    repeat' first
      | with_reducible apply Kept.ite ?_ ?_
      | with_reducible exact Kept.refl
      | with_reducible apply Kept.trans ?_ sbDrain_kept
      | with_reducible apply Kept.trans ?_ (by assumption)
      | (with_reducible apply Kept.foldl ?_ ?_; intro x a; (try simp only []))
      | simp only [mk_kept_iff]
      | (split <;> (try simp only []))
theorem sbEmpty_kept {s : State} {n : Fin 8} {x2 : Nat} : Kept s (sbEmpty s n x2) := by
  fun_induction sbEmpty s n x2 <;> (try simp only []) <;>
    repeat' first
      | with_reducible apply Kept.ite ?_ ?_
      | with_reducible exact Kept.refl
      | with_reducible apply Kept.trans ?_ sbDrain_kept
      | with_reducible apply Kept.trans ?_ (by assumption)
      | (with_reducible apply Kept.foldl ?_ ?_; intro x a; (try simp only []))
      | simp only [mk_kept_iff]
      | (split <;> (try simp only []))
theorem sbPush_kept {s : State} {n : Fin 8} {e : SbEntry} : Kept s (sbPush s n e) := by
  unfold sbPush
  (try simp only [])
  repeat' first
    | with_reducible apply Kept.ite ?_ ?_
    | with_reducible exact Kept.refl
    | with_reducible apply Kept.trans ?_ sbDrain_kept
    | with_reducible apply Kept.trans ?_ State_setCore_kept
    | (with_reducible apply Kept.foldl ?_ ?_; intro x a; (try simp only []))
    | simp only [mk_kept_iff]
    | split
theorem dtcmLoad_kept {s : State} {n : Fin 8} {a : Nat} {k : Nat} {bits : Nat} : Kept s (dtcmLoad s n a k bits).1 := by
  unfold dtcmLoad
  (try simp only [])
  repeat' first
    | with_reducible apply Kept.ite ?_ ?_
    | with_reducible exact Kept.refl
    | with_reducible apply Kept.trans ?_ tcmRead_kept
    | with_reducible apply Kept.trans ?_ sbSettle_kept
    | (with_reducible apply Kept.foldl ?_ ?_; intro x a; (try simp only []))
    | simp only [mk_kept_iff]
    | split
theorem dtcmPut_kept {s : State} {n : Fin 8} {a : Nat} {d : List Byte} : Kept s (dtcmPut s n a d) := by
  unfold dtcmPut
  (try simp only [])
  repeat' first
    | with_reducible apply Kept.ite ?_ ?_
    | with_reducible exact Kept.refl
    | with_reducible apply Kept.trans ?_ tcmWrite_kept
    | with_reducible apply Kept.trans ?_ sbSettle_kept
    | (with_reducible apply Kept.foldl ?_ ?_; intro x a; (try simp only []))
    | simp only [mk_kept_iff]
    | split
theorem spillOne_kept {s : State} {n : Fin 8} : Kept s (spillOne s n) := by
  unfold spillOne
  (try simp only [])
  repeat' first
    | with_reducible apply Kept.ite ?_ ?_
    | with_reducible exact Kept.refl
    | with_reducible apply Kept.trans ?_ dtcmPut_kept
    | with_reducible apply Kept.trans ?_ State_setWordErr_kept
    | with_reducible apply Kept.trans ?_ State_setCx_kept
    | (with_reducible apply Kept.foldl ?_ ?_; intro x a; (try simp only []))
    | simp only [mk_kept_iff]
    | split
theorem spillN_kept {s : State} {n : Fin 8} {x2 : Nat} : Kept s (spillN s n x2) := by
  fun_induction spillN s n x2 <;> (try simp only []) <;>
    repeat' first
      | with_reducible apply Kept.ite ?_ ?_
      | with_reducible exact Kept.refl
      | with_reducible apply Kept.trans ?_ spillOne_kept
      | with_reducible apply Kept.trans ?_ (by assumption)
      | (with_reducible apply Kept.foldl ?_ ?_; intro x a; (try simp only []))
      | simp only [mk_kept_iff]
      | (split <;> (try simp only []))
theorem fillOne_kept {s : State} {n : Fin 8} : Kept s (fillOne s n) := by
  unfold fillOne
  (try simp only [])
  repeat' first
    | with_reducible apply Kept.ite ?_ ?_
    | with_reducible exact Kept.refl
    | with_reducible apply Kept.trans ?_ dtcmLoad_kept
    | with_reducible apply Kept.trans ?_ State_setCx_kept
    | (with_reducible apply Kept.foldl ?_ ?_; intro x a; (try simp only []))
    | simp only [mk_kept_iff]
    | split
theorem fillN_kept {s : State} {n : Fin 8} {x2 : Nat} : Kept s (fillN s n x2) := by
  fun_induction fillN s n x2 <;> (try simp only []) <;>
    repeat' first
      | with_reducible apply Kept.ite ?_ ?_
      | with_reducible exact Kept.refl
      | with_reducible apply Kept.trans ?_ fillOne_kept
      | with_reducible apply Kept.trans ?_ (by assumption)
      | (with_reducible apply Kept.foldl ?_ ?_; intro x a; (try simp only []))
      | simp only [mk_kept_iff]
      | (split <;> (try simp only []))
theorem stackNeed_kept {s : State} {n : Fin 8} {k : Nat} {m : Nat} : Kept s (runState (stackNeed s n k m)) := by
  unfold stackNeed
  (try simp only [])
  (try simp only [runState_ok, runState_trap])
  repeat' first
    | with_reducible apply bind_kept ?_ ?_
    | intro a t
    | with_reducible apply Kept.ite ?_ ?_
    | with_reducible exact Kept.refl
    | with_reducible apply Kept.trans ?_ fillN_kept
    | with_reducible apply Kept.trans ?_ spillN_kept
    | (with_reducible apply Kept.foldl ?_ ?_; intro x a; (try simp only []))
    | simp only [mk_kept_iff]
    | (split <;> (try simp only [runState_ok, runState_trap]))
theorem stackPut_kept {s : State} {n : Fin 8} {k : Nat} {rs : List Cell} : Kept s (stackPut s n k rs) := by
  unfold stackPut
  (try simp only [])
  repeat' first
    | with_reducible apply Kept.ite ?_ ?_
    | with_reducible exact Kept.refl
    | with_reducible apply Kept.trans ?_ State_setCx_kept
    | (with_reducible apply Kept.foldl ?_ ?_; intro x a; (try simp only []))
    | simp only [mk_kept_iff]
    | split
theorem lineToItcm_kept {s : State} {n : Fin 8} {base : Nat} {x3 : List (Nat × Byte)} : Kept s (lineToItcm s n base x3) := by
  fun_induction lineToItcm s n base x3 <;> (try simp only []) <;>
    repeat' first
      | with_reducible apply Kept.ite ?_ ?_
      | with_reducible exact Kept.refl
      | with_reducible apply Kept.trans ?_ tcmWrite_kept
      | with_reducible apply Kept.trans ?_ (by assumption)
      | (with_reducible apply Kept.foldl ?_ ?_; intro x a; (try simp only []))
      | simp only [mk_kept_iff]
      | (split <;> (try simp only []))
theorem cwbLeave_kept {s : State} {n : Fin 8} {p : CwbLine → Bool} : Kept s (cwbLeave s n p) := by
  unfold cwbLeave
  (try simp only [])
  repeat' first
    | with_reducible apply Kept.ite ?_ ?_
    | with_reducible exact Kept.refl
    | with_reducible apply Kept.trans ?_ lineToItcm_kept
    | with_reducible apply Kept.trans ?_ State_setCore_kept
    | (with_reducible apply Kept.foldl ?_ ?_; intro x a; (try simp only []))
    | simp only [mk_kept_iff]
    | split
theorem cwbFlush_kept {s : State} {n : Fin 8} {x2 : Nat} : Kept s (cwbFlush s n x2) := by
  fun_induction cwbFlush s n x2 <;> (try simp only []) <;>
    repeat' first
      | with_reducible apply Kept.ite ?_ ?_
      | with_reducible exact Kept.refl
      | with_reducible apply Kept.trans ?_ cwbLeave_kept
      | with_reducible apply Kept.trans ?_ (by assumption)
      | (with_reducible apply Kept.foldl ?_ ?_; intro x a; (try simp only []))
      | simp only [mk_kept_iff]
      | (split <;> (try simp only []))
theorem cwbCommit_kept {s : State} {n : Fin 8} : Kept s (cwbCommit s n) := by
  unfold cwbCommit
  (try simp only [])
  repeat' first
    | with_reducible apply Kept.ite ?_ ?_
    | with_reducible exact Kept.refl
    | with_reducible apply Kept.trans ?_ State_setCore_kept
    | (with_reducible apply Kept.foldl ?_ ?_; intro x a; (try simp only []))
    | simp only [mk_kept_iff]
    | split
theorem syncI_kept {s : State} {n : Fin 8} : Kept s (syncI s n) := by
  unfold syncI
  (try simp only [])
  repeat' first
    | with_reducible apply Kept.ite ?_ ?_
    | with_reducible exact Kept.refl
    | with_reducible apply Kept.trans ?_ cwbFlush_kept
    | with_reducible apply Kept.trans ?_ cwbCommit_kept
    | (with_reducible apply Kept.foldl ?_ ?_; intro x a; (try simp only []))
    | simp only [mk_kept_iff]
    | split
theorem cwbStore_kept {s : State} {n : Fin 8} {off : Nat} {d : List Byte} : Kept s (cwbStore s n off d) := by
  unfold cwbStore
  (try simp only [])
  repeat' first
    | with_reducible apply Kept.ite ?_ ?_
    | with_reducible exact Kept.refl
    | with_reducible apply Kept.trans ?_ cwbLeave_kept
    | with_reducible apply Kept.trans ?_ State_setCore_kept
    | with_reducible apply Kept.trans ?_ syncI_kept
    | (with_reducible apply Kept.foldl ?_ ?_; intro x a; (try simp only []))
    | simp only [mk_kept_iff]
    | split
theorem nearRead_kept {s : State} {n : Fin 8} {a : Nat} {k : Nat} {bits : Nat} : Kept s (runState (nearRead s n a k bits)) := by
  unfold nearRead
  (try simp only [])
  (try simp only [runState_ok, runState_trap])
  repeat' first
    | with_reducible apply bind_kept ?_ ?_
    | intro a t
    | with_reducible apply Kept.ite ?_ ?_
    | with_reducible exact Kept.refl
    | with_reducible apply Kept.trans ?_ tcmRead_kept
    | with_reducible apply Kept.trans ?_ dtcmLoad_kept
    | with_reducible refine Kept.viaFst ‹tcmRead _ _ _ _ _ = (_, _)› tcmRead_kept ?_
    | with_reducible refine Kept.viaFst ‹dtcmLoad _ _ _ _ _ = (_, _)› dtcmLoad_kept ?_
    | (with_reducible apply Kept.foldl ?_ ?_; intro x a; (try simp only []))
    | simp only [mk_kept_iff]
    | (split <;> (try simp only [runState_ok, runState_trap]))
theorem nearWrite_kept {s : State} {n : Fin 8} {a : Nat} {d : List Byte} : Kept s (runState (nearWrite s n a d)) := by
  unfold nearWrite
  (try simp only [])
  (try simp only [runState_ok, runState_trap])
  repeat' first
    | with_reducible apply bind_kept ?_ ?_
    | intro a t
    | with_reducible apply Kept.ite ?_ ?_
    | with_reducible exact Kept.refl
    | with_reducible apply Kept.trans ?_ cwbStore_kept
    | with_reducible apply Kept.trans ?_ sbPush_kept
    | (with_reducible apply Kept.foldl ?_ ?_; intro x a; (try simp only []))
    | simp only [mk_kept_iff]
    | (split <;> (try simp only [runState_ok, runState_trap]))
theorem sampleRead_kept {s : State} {id : MasterId} {skew : Bool} {p : Nat} {off : Nat} :
    Kept s (sampleRead s id skew p off).1 := by
  unfold sampleRead
  (try simp only [])
  repeat' first
    | with_reducible apply Kept.ite ?_ ?_
    | with_reducible exact Kept.refl
    | with_reducible apply Kept.trans ?_ belfRead_kept
    | with_reducible apply Kept.trans ?_ belfTick_kept
    | with_reducible apply Kept.trans ?_ countRead_kept
    | with_reducible apply Kept.trans ?_ tmrTick_kept
    | (with_reducible apply Kept.foldl ?_ ?_; intro x a; (try simp only []))
    | simp only [mk_kept_iff]
    | split
theorem farRead_kept {s : State} {n : Fin 8} {id : MasterId} {skew : Bool} {a : Nat} {k : Nat} :
    Kept s (farRead s n id skew a k).1 := by
  unfold farRead
  (try simp only [])
  repeat' first
    | with_reducible apply Kept.ite ?_ ?_
    | with_reducible exact Kept.refl
    | with_reducible apply Kept.trans ?_ busRead_kept
    | with_reducible apply Kept.trans ?_ sampleRead_kept
    | with_reducible apply Kept.trans ?_ sbSettle_kept
    | with_reducible refine Kept.viaFst ‹busRead _ _ _ _ _ = (_, _)› busRead_kept ?_
    | with_reducible refine Kept.viaFst ‹sampleRead _ _ _ _ _ = (_, _)› sampleRead_kept ?_
    | (with_reducible apply Kept.foldl ?_ ?_; intro x a; (try simp only []))
    | simp only [mk_kept_iff]
    | (split <;> (try simp only []))
theorem farWrite_kept {s : State} {n : Fin 8} {a : Nat} {d : List Byte} : Kept s (farWrite s n a d) := by
  unfold farWrite
  (try simp only [])
  repeat' first
    | with_reducible apply Kept.ite ?_ ?_
    | with_reducible exact Kept.refl
    | with_reducible apply Kept.trans ?_ sbPush_kept
    | (with_reducible apply Kept.foldl ?_ ?_; intro x a; (try simp only []))
    | simp only [mk_kept_iff]
    | split
theorem landReg_kept {s : State} {n : Fin 8} {c : Fin 8} {r : Fin 4} : Kept s (landReg s n c r) := by
  unfold landReg
  (try simp only [])
  repeat' first
    | with_reducible apply Kept.ite ?_ ?_
    | with_reducible exact Kept.refl
    | with_reducible apply Kept.trans ?_ State_setCore_kept
    | (with_reducible apply Kept.foldl ?_ ?_; intro x a; (try simp only []))
    | simp only [mk_kept_iff]
    | split
theorem landAll_kept {s : State} {n : Fin 8} : Kept s (landAll s n) := by
  unfold landAll
  (try simp only [])
  repeat' first
    | with_reducible apply Kept.ite ?_ ?_
    | with_reducible exact Kept.refl
    | with_reducible apply Kept.trans ?_ State_setCx_kept
    | (with_reducible apply Kept.foldl ?_ ?_; intro x a; (try simp only []))
    | simp only [mk_kept_iff]
    | split
theorem farIssue_kept {s : State} {n : Fin 8} {r : Fin 4} {a : Nat} {w : Nat} {ans : FarAns} {signed : Bool} {sampled : Bool} :
    Kept s (farIssue s n r a w ans signed sampled) := by
  unfold farIssue
  (try simp only [])
  repeat' first
    | with_reducible apply Kept.ite ?_ ?_
    | with_reducible exact Kept.refl
    | with_reducible apply Kept.trans ?_ landReg_kept
    | with_reducible apply Kept.trans ?_ State_setCx_kept
    | (with_reducible apply Kept.foldl ?_ ?_; intro x a; (try simp only []))
    | simp only [mk_kept_iff]
    | split
end Sys2Proof.Laws
end

