-- ==== Sys2Proof/Laws/KeepExceptions.lean ====
section
/-! SUPPORT. What the operations of Machine/Exceptions.lean leave alone (Laws/Kept.lean). -/
namespace Sys2Proof.Laws
set_option linter.unusedTactic false
set_option linter.unreachableTactic false
open Sys2Proof.Machine
theorem mpuCopy_kept {s : State} {n : Fin 8} {base : Nat} {x3 : Nat} : Kept s (mpuCopy s n base x3).1 := by
  fun_induction mpuCopy s n base x3 <;> (try simp only []) <;>
    repeat' first
      | with_reducible apply Kept.ite ?_ ?_
      | with_reducible exact Kept.refl
      | with_reducible apply Kept.trans ?_ dtcmLoad_kept
      | with_reducible refine Kept.viaFst ‹dtcmLoad _ _ _ _ _ = (_, _)› dtcmLoad_kept ?_
      | with_reducible apply Kept.trans ?_ (by assumption)
      | (with_reducible apply Kept.foldl ?_ ?_; intro x a; (try simp only []))
      | simp only [mk_kept_iff]
      | (split <;> (try simp only []))
theorem applyPending_kept {s : State} {n : Fin 8} : Kept s (applyPending s n) := by
  unfold applyPending
  (try simp only [])
  repeat' first
    | with_reducible apply Kept.ite ?_ ?_
    | with_reducible exact Kept.refl
    | with_reducible apply Kept.trans ?_ State_setCore_kept
    | with_reducible apply Kept.trans ?_ State_setCx_kept
    | with_reducible apply Kept.trans ?_ mpuCopy_kept
    | (with_reducible apply Kept.foldl ?_ ?_; intro x a; (try simp only []))
    | simp only [mk_kept_iff]
    | split
theorem unitOut_kept {s : State} {n : Fin 8} {u : Fin 3} : Kept s (unitOut s n u) := by
  unfold unitOut
  (try simp only [])
  repeat' first
    | with_reducible apply Kept.ite ?_ ?_
    | with_reducible exact Kept.refl
    | with_reducible apply Kept.trans ?_ dtcmPut_kept
    | with_reducible apply Kept.trans ?_ State_setCore_kept
    | (with_reducible apply Kept.foldl ?_ ?_; intro x a; (try simp only []))
    | simp only [mk_kept_iff]
    | split
theorem unitOwn_kept {s : State} {n : Fin 8} {u : Fin 3} {v : Cell} : Kept s (unitOwn s n u v) := by
  unfold unitOwn
  (try simp only [])
  repeat' first
    | with_reducible apply Kept.ite ?_ ?_
    | with_reducible exact Kept.refl
    | with_reducible apply Kept.trans ?_ State_setCore_kept
    | (with_reducible apply Kept.foldl ?_ ?_; intro x a; (try simp only []))
    | simp only [mk_kept_iff]
    | split
theorem unitTouch_kept {s : State} {n : Fin 8} {u : Fin 3} : Kept s (runState (unitTouch s n u)) := by
  unfold unitTouch
  (try simp only [])
  (try simp only [runState_ok, runState_trap])
  repeat' first
    | with_reducible apply bind_kept ?_ ?_
    | intro a t
    | with_reducible apply Kept.ite ?_ ?_
    | with_reducible exact Kept.refl
    | with_reducible apply Kept.trans ?_ unitOwn_kept
    | with_reducible apply Kept.trans ?_ unitOut_kept
    | (with_reducible apply Kept.foldl ?_ ?_; intro x a; (try simp only []))
    | simp only [mk_kept_iff]
    | (split <;> (try simp only [runState_ok, runState_trap]))
theorem unitSet_kept {s : State} {n : Fin 8} {u : Fin 3} {v : Cell} : Kept s (unitSet s n u v) := by
  unfold unitSet
  (try simp only [])
  repeat' first
    | with_reducible apply Kept.ite ?_ ?_
    | with_reducible exact Kept.refl
    | with_reducible apply Kept.trans ?_ State_setCore_kept
    | (with_reducible apply Kept.foldl ?_ ?_; intro x a; (try simp only []))
    | simp only [mk_kept_iff]
    | split
theorem reserveOne_kept {s : State} {n : Fin 8} {u : Fin 3} : Kept s (reserveOne s n u) := by
  unfold reserveOne
  (try simp only [])
  repeat' first
    | with_reducible apply Kept.ite ?_ ?_
    | with_reducible exact Kept.refl
    | with_reducible apply Kept.trans ?_ State_setCx_kept
    | (with_reducible apply Kept.foldl ?_ ?_; intro x a; (try simp only []))
    | simp only [mk_kept_iff]
    | split
theorem reserveAll_kept {s : State} {n : Fin 8} : Kept s (reserveAll s n) := by
  unfold reserveAll
  (try simp only [])
  repeat' first
    | with_reducible apply Kept.ite ?_ ?_
    | with_reducible exact Kept.refl
    | with_reducible apply Kept.trans ?_ reserveOne_kept
    | (with_reducible apply Kept.foldl ?_ ?_; intro x a; (try simp only []))
    | simp only [mk_kept_iff]
    | split
theorem releaseOne_kept {s : State} {n : Fin 8} {u : Fin 3} : Kept s (releaseOne s n u) := by
  unfold releaseOne
  (try simp only [])
  repeat' first
    | with_reducible apply Kept.ite ?_ ?_
    | with_reducible exact Kept.refl
    | with_reducible apply Kept.trans ?_ unitOut_kept
    | with_reducible apply Kept.trans ?_ dtcmLoad_kept
    | with_reducible apply Kept.trans ?_ unitOwn_kept
    | with_reducible apply Kept.trans ?_ State_setCx_kept
    | (with_reducible apply Kept.foldl ?_ ?_; intro x a; (try simp only []))
    | simp only [mk_kept_iff]
    | split
theorem switchIn_kept {s : State} {n : Fin 8} : Kept s (switchIn s n) := by
  unfold switchIn
  (try simp only [])
  repeat' first
    | with_reducible apply Kept.ite ?_ ?_
    | with_reducible exact Kept.refl
    | with_reducible apply Kept.trans ?_ releaseOne_kept
    | (with_reducible apply Kept.foldl ?_ ?_; intro x a; (try simp only []))
    | simp only [mk_kept_iff]
    | split
theorem descRead_kept {s : State} {n : Fin 8} {v : Nat} : Kept s (descRead s n v).1 := by
  unfold descRead
  (try simp only [])
  repeat' first
    | with_reducible apply Kept.ite ?_ ?_
    | with_reducible exact Kept.refl
    | with_reducible apply Kept.trans ?_ dtcmLoad_kept
    | (with_reducible apply Kept.foldl ?_ ?_; intro x a; (try simp only []))
    | simp only [mk_kept_iff]
    | split
theorem selectStack_kept {s : State} {n : Fin 8} {h : Fin 8} {ssel : Nat} {force : Bool} :
    Kept s (selectStack s n h ssel force).1 := by
  unfold selectStack
  (try simp only [])
  repeat' first
    | with_reducible apply Kept.ite ?_ ?_
    | with_reducible exact Kept.refl
    | with_reducible apply Kept.trans ?_ dtcmLoad_kept
    | with_reducible apply Kept.trans ?_ State_setCore_kept
    | (with_reducible apply Kept.foldl ?_ ?_; intro x a; (try simp only []))
    | simp only [mk_kept_iff]
    | split
theorem Kept.ofId {s t : State} {o : Option State} (k : KeptO s id o) (e : o = some t) : Kept s t := k t e
theorem enterHandler_kept {s : State} {n h : Fin 8} {d : Desc} {force : Bool} {mask : Nat} {frame : List Cell} :
    KeptO s id (enterHandler s n h d force mask frame) := by
  have k := selectStack_kept (s := s) (n := n) (h := h) (ssel := d.ssel) (force := force)
  unfold enterHandler
  dsimp only
  generalize selectStack s n h d.ssel force = r at k ⊢
  split
  · exact KeptO.none
  · split
    · refine KeptO.some ?_
      exact ((((k.trans State_setCore_kept).trans spillN_kept).trans stackPut_kept).trans State_setCx_kept).trans cwbCommit_kept
    · exact KeptO.none
theorem doubleFault_kept {s : State} {n : Fin 8} {orig reason info : Nat} : Kept s (doubleFault s n orig reason info) := by
  have k := descRead_kept (s := s) (n := n) (v := vDOUBLE)
  unfold doubleFault
  refine Kept.ite coreReset_kept (Kept.ite coreReset_kept ?_)
  generalize descRead s n vDOUBLE = r at k ⊢
  obtain ⟨s1, _ | d⟩ := r
  · exact k.trans coreReset_kept
  · refine Kept.ite (k.trans coreReset_kept) ?_
    dsimp only at k ⊢
    have k2 : Kept s (if (s1.core n).active 7 then s1 else reserveAll s1 n) := Kept.ite k (k.trans reserveAll_kept)
    generalize (if (s1.core n).active 7 then s1 else reserveAll s1 n) = s2 at k2 ⊢
    split
    · exact k2.trans coreReset_kept
    · exact (k2.trans (Kept.ofId enterHandler_kept ‹_›)).trans State_setCore_kept
theorem enterAt_kept {s : State} {n h : Fin 8} {v : Nat} {lvl : Option Nat} {info : Nat} : Kept s (enterAt s n h v lvl info) := by
  have k0 := applyPending_kept (s := s) (n := n)
  unfold enterAt
  dsimp only
  generalize applyPending s n = s0 at k0 ⊢
  refine Kept.ite (k0.trans coreReset_kept) ?_
  have k := k0.trans (descRead_kept (s := s0) (n := n) (v := v))
  generalize descRead s0 n v = r at k ⊢
  obtain ⟨s1, _ | d⟩ := r
  · exact k.trans doubleFault_kept
  · refine Kept.ite (k.trans doubleFault_kept) ?_
    dsimp only at k ⊢
    have k2 : Kept s (if (s1.core n).active h then s1 else reserveAll s1 n) := Kept.ite k (k.trans reserveAll_kept)
    generalize (if (s1.core n).active h then s1 else reserveAll s1 n) = s2 at k2 ⊢
    split
    · exact k.trans doubleFault_kept
    · exact k2.trans (Kept.ofId enterHandler_kept ‹_›)
theorem faultEntry_kept {s : State} {n : Fin 8} {t : Trap} : Kept s (faultEntry s n t) := by
  unfold faultEntry
  (try simp only [])
  repeat' first
    | with_reducible apply Kept.ite ?_ ?_
    | with_reducible exact Kept.refl
    | with_reducible apply Kept.trans ?_ State_setCx_kept
    | with_reducible apply Kept.trans ?_ enterAt_kept
    | (with_reducible apply Kept.foldl ?_ ?_; intro x a; (try simp only []))
    | simp only [mk_kept_iff]
    | split
theorem interruptEntry_kept {s : State} {n : Fin 8} : Kept s (interruptEntry s n) := by
  unfold interruptEntry
  (try simp only [])
  repeat' first
    | with_reducible apply Kept.ite ?_ ?_
    | with_reducible exact Kept.refl
    | with_reducible apply Kept.trans ?_ State_setCore_kept
    | with_reducible apply Kept.trans ?_ enterAt_kept
    | (with_reducible apply Kept.foldl ?_ ?_; intro x a; (try simp only []))
    | simp only [mk_kept_iff]
    | split
theorem reteTake_kept {s : State} {n : Fin 8} {pc : Nat} {f1 : Nat} {rc : Cell} : Kept s (reteTake s n pc f1 rc) := by
  unfold reteTake
  (try simp only [])
  repeat' first
    | with_reducible apply Kept.ite ?_ ?_
    | with_reducible exact Kept.refl
    | with_reducible apply Kept.trans ?_ coreReset_kept
    | with_reducible apply Kept.trans ?_ stackPut_kept
    | with_reducible apply Kept.trans ?_ cwbCommit_kept
    | with_reducible apply Kept.trans ?_ applyPending_kept
    | with_reducible apply Kept.trans ?_ State_setCore_kept
    | with_reducible apply Kept.trans ?_ reserveAll_kept
    | with_reducible apply Kept.trans ?_ switchIn_kept
    | (with_reducible apply Kept.foldl ?_ ?_; intro x a; (try simp only []))
    | simp only [mk_kept_iff]
    | split
theorem gateTake_kept {s : State} {n : Fin 8} {g : Nat} {next : Nat} : Kept s (runState (gateTake s n g next)) := by
  unfold gateTake
  (try simp only [])
  (try simp only [runState_ok, runState_trap])
  repeat' first
    | with_reducible apply bind_kept ?_ ?_
    | intro a t
    | with_reducible apply Kept.ite ?_ ?_
    | with_reducible exact Kept.refl
    | with_reducible apply Kept.trans ?_ dtcmLoad_kept
    | with_reducible apply Kept.trans ?_ stackPut_kept
    | with_reducible apply Kept.trans ?_ State_setCx_kept
    | with_reducible refine Kept.viaFst ‹dtcmLoad _ _ _ _ _ = (_, _)› dtcmLoad_kept ?_
    | (with_reducible apply Kept.foldl ?_ ?_; intro x a; (try simp only []))
    | simp only [mk_kept_iff]
    | (split <;> (try simp only [runState_ok, runState_trap]))
end Sys2Proof.Laws
end

