-- ==== Sys2Proof/Laws/KeepTurretExec.lean ====
section
/-! SUPPORT. What the operations of Machine/TurretExec.lean leave alone (Laws/Kept.lean). -/
namespace Sys2Proof.Laws
set_option linter.unusedTactic false
set_option linter.unreachableTactic false
open Sys2Proof.Machine
theorem undo_kept {s0 s1 : State} {n : Fin 8} : Kept s1 (undo s0 s1 n) := State_setCore_kept
theorem fetchCheck_kept {s : State} {n : Fin 8} {len : Nat} {bits : Nat} : Kept s (runState (fetchCheck s n len bits)) := by
  unfold fetchCheck
  (try simp only [])
  (try simp only [runState_ok, runState_trap])
  repeat' first
    | with_reducible apply bind_kept ?_ ?_
    | intro a t
    | with_reducible apply Kept.ite ?_ ?_
    | with_reducible exact Kept.refl
    | with_reducible apply Kept.trans ?_ tcmRead_kept
    | with_reducible refine Kept.viaFst ‹tcmRead _ _ _ _ _ = (_, _)› tcmRead_kept ?_
    | (with_reducible apply Kept.foldl ?_ ?_; intro x a; (try simp only []))
    | simp only [mk_kept_iff]
    | (split <;> (try simp only [runState_ok, runState_trap]))
theorem flowTo_kept {s : State} {e : Env} {f : Flow} : Kept s (flowTo s e f) := by
  unfold flowTo
  (try simp only [])
  repeat' first
    | with_reducible apply Kept.ite ?_ ?_
    | with_reducible exact Kept.refl
    | with_reducible apply Kept.trans ?_ State_setCx_kept
    | (with_reducible apply Kept.foldl ?_ ?_; intro x a; (try simp only []))
    | simp only [mk_kept_iff]
    | split
theorem trailIn_kept {s : State} {p : Fin 4} : Kept s (trailIn s p) := by
  unfold trailIn
  (try simp only [])
  repeat' first
    | with_reducible apply Kept.ite ?_ ?_
    | with_reducible exact Kept.refl
    | with_reducible apply Kept.trans ?_ State_setCore_kept
    | (with_reducible apply Kept.foldl ?_ ?_; intro x a; (try simp only []))
    | simp only [mk_kept_iff]
    | split
theorem oddLatches_kept {s1 : State} {s2 : State} {p : Fin 4} : Kept s1 (oddLatches s1 s2 p) := by
  unfold oddLatches
  (try simp only [])
  repeat' first
    | with_reducible apply Kept.ite ?_ ?_
    | with_reducible exact Kept.refl
    | (with_reducible apply Kept.foldl ?_ ?_; intro x a; (try simp only []))
    | simp only [mk_kept_iff]
    | split
theorem trailOut_kept {s1 : State} {s2 : State} {p : Fin 4} : Kept s1 (trailOut s1 s2 p) := by
  unfold trailOut
  (try simp only [])
  repeat' first
    | with_reducible apply Kept.ite ?_ ?_
    | with_reducible exact Kept.refl
    | with_reducible apply Kept.trans ?_ oddLatches_kept
    | with_reducible apply Kept.trans ?_ State_setCore_kept
    | (with_reducible apply Kept.foldl ?_ ?_; intro x a; (try simp only []))
    | simp only [mk_kept_iff]
    | split
end Sys2Proof.Laws
end

