-- ==== Sys2Proof/Laws/KeepSpireExec.lean ====
section
/-! SUPPORT. What the operations of Machine/SpireExec.lean leave alone (Laws/Kept.lean). -/
namespace Sys2Proof.Laws
set_option linter.unusedTactic false
set_option linter.unreachableTactic false
open Sys2Proof.Machine
theorem SEnv_put_kept {e : SEnv} {s : State} {x : SpCtx} : Kept s (SEnv.put e s x) := by
  unfold SEnv.put
  (try simp only [])
  repeat' first
    | with_reducible apply Kept.ite ?_ ?_
    | with_reducible exact Kept.refl
    | with_reducible apply Kept.trans ?_ State_setSc_kept
    | (with_reducible apply Kept.foldl ?_ ?_; intro x a; (try simp only []))
    | simp only [mk_kept_iff]
    | split
theorem pbLine_kept {s : State} {n : Fin 8} {a : Nat} : Kept s (pbLine s n a).1 := by
  unfold pbLine
  (try simp only [])
  repeat' first
    | with_reducible apply Kept.ite ?_ ?_
    | with_reducible exact Kept.refl
    | with_reducible apply Kept.trans ?_ busRead_kept
    | with_reducible apply Kept.trans ?_ State_setSpire_kept
    | with_reducible apply Kept.trans ?_ State_fresh_kept
    | with_reducible refine Kept.viaFst ‹busRead _ _ _ _ _ = (_, _)› busRead_kept ?_
    | with_reducible refine Kept.viaSnd ‹State.fresh _ = (_, _)› State_fresh_kept ?_
    | (with_reducible apply Kept.foldl ?_ ?_; intro x a; (try simp only []))
    | simp only [mk_kept_iff]
    | (split <;> (try simp only []))
theorem pbFetch_kept {s : State} {n : Fin 8} {a : Nat} {len : Nat} : Kept s (pbFetch s n a len).1 := by
  unfold pbFetch
  (try simp only [])
  repeat' first
    | with_reducible apply Kept.ite ?_ ?_
    | with_reducible exact Kept.refl
    | with_reducible apply Kept.trans ?_ pbLine_kept
    | with_reducible refine Kept.viaFst ‹pbLine _ _ _ = (_, _)› pbLine_kept ?_
    | (with_reducible apply Kept.foldl ?_ ?_; intro x a; (try simp only []))
    | simp only [mk_kept_iff]
    | (split <;> (try simp only []))
theorem pbDisturb_kept {s : State} {n : Fin 8} {bits : Nat} : Kept s (pbDisturb s n bits).1 := by
  unfold pbDisturb
  (try simp only [])
  repeat' first
    | with_reducible apply Kept.ite ?_ ?_
    | with_reducible exact Kept.refl
    | with_reducible apply Kept.trans ?_ State_fresh_kept
    | with_reducible apply Kept.trans ?_ sprUE_kept
    | with_reducible apply Kept.trans ?_ sprCE_kept
    | (with_reducible apply Kept.foldl ?_ ?_; intro x a; (try simp only []))
    | simp only [mk_kept_iff]
    | split
theorem csRead_kept {s : State} {n : Fin 8} {wd : Nat} {k : Nat} {bits : Nat} : Kept s (csRead s n wd k bits).1 := by
  unfold csRead
  (try simp only [])
  repeat' first
    | with_reducible apply Kept.ite ?_ ?_
    | with_reducible exact Kept.refl
    | with_reducible apply Kept.trans ?_ State_setSpire_kept
    | with_reducible apply Kept.trans ?_ selfStopTest_kept
    | with_reducible apply Kept.trans ?_ State_fenceSpire_kept
    | with_reducible apply Kept.trans ?_ declareLog_kept
    | with_reducible apply Kept.trans ?_ sprUE_kept
    | with_reducible apply Kept.trans ?_ sprCE_kept
    | (with_reducible apply Kept.foldl ?_ ?_; intro x a; (try simp only []))
    | simp only [mk_kept_iff]
    | split
theorem seqFront_kept {s : State} {n : Fin 8} {c : Fin 4} {len : Nat} {hw : HwEvent} {ownsTcm : Bool} :
    Kept s (seqFront s n c len hw ownsTcm).1 := by
  unfold seqFront
  (try simp only [])
  repeat' first
    | with_reducible apply Kept.ite ?_ ?_
    | with_reducible exact Kept.refl
    | with_reducible apply Kept.trans ?_ pbFetch_kept
    | with_reducible apply Kept.trans ?_ pbDisturb_kept
    | with_reducible apply Kept.trans ?_ csRead_kept
    | with_reducible refine Kept.viaFst ‹pbFetch _ _ _ _ = (_, _)› pbFetch_kept ?_
    | with_reducible refine Kept.viaFst ‹pbDisturb _ _ _ = (_, _)› pbDisturb_kept ?_
    | with_reducible refine Kept.viaFst ‹csRead _ _ _ _ _ = (_, _)› csRead_kept ?_
    | (with_reducible apply Kept.foldl ?_ ?_; intro x a; (try simp only []))
    | simp only [mk_kept_iff]
    | (split <;> (try simp only []))
theorem enqueue_kept {e : SEnv} {s : State} {g : Group} : Kept s (enqueue e s g) := by
  unfold enqueue
  (try simp only [])
  repeat' first
    | with_reducible apply Kept.ite ?_ ?_
    | with_reducible exact Kept.refl
    | with_reducible apply Kept.trans ?_ SEnv_put_kept
    | with_reducible apply Kept.trans ?_ State_setSpire_kept
    | (with_reducible apply Kept.foldl ?_ ?_; intro x a; (try simp only []))
    | simp only [mk_kept_iff]
    | split
theorem execSprGo_kept {id : MasterId} {sp : Fin 8} {c : Fin 4} {s : State} : KeptR s (execSprGo id sp c s) := by
  unfold execSprGo
  (try simp only [])
  repeat' first
    | with_reducible exact KeptR.fault
    | with_reducible apply KeptR.ok
    | with_reducible apply KeptR.okIf
    | with_reducible apply KeptR.ite ?_ ?_
    | with_reducible apply Kept.ite ?_ ?_
    | with_reducible exact Kept.refl
    | with_reducible apply Kept.trans ?_ cmdReg_kept
    | (with_reducible apply Kept.foldl ?_ ?_; intro x a; (try simp only []))
    | simp only [mk_kept_iff]
    | split
theorem execSprStop_kept {id : MasterId} {sp : Fin 8} {c : Fin 4} {s : State} : KeptR s (execSprStop id sp c s) := by
  unfold execSprStop
  (try simp only [])
  repeat' first
    | with_reducible exact KeptR.fault
    | with_reducible apply KeptR.ok
    | with_reducible apply KeptR.okIf
    | with_reducible apply KeptR.ite ?_ ?_
    | with_reducible apply Kept.ite ?_ ?_
    | with_reducible exact Kept.refl
    | with_reducible apply Kept.trans ?_ cmdReg_kept
    | (with_reducible apply Kept.foldl ?_ ?_; intro x a; (try simp only []))
    | simp only [mk_kept_iff]
    | split
theorem execSpireReset_kept {id : MasterId} {sp : Fin 8} {s : State} : KeptR s (execSpireReset id sp s) := by
  unfold execSpireReset
  (try simp only [])
  repeat' first
    | with_reducible exact KeptR.fault
    | with_reducible apply KeptR.ok
    | with_reducible apply KeptR.okIf
    | with_reducible apply KeptR.ite ?_ ?_
    | with_reducible apply Kept.ite ?_ ?_
    | with_reducible exact Kept.refl
    | with_reducible apply Kept.trans ?_ cmdReg_kept
    | (with_reducible apply Kept.foldl ?_ ?_; intro x a; (try simp only []))
    | simp only [mk_kept_iff]
    | split
theorem execPinv_kept {id : MasterId} {sp : Fin 8} {s : State} : KeptR s (execPinv id sp s) := by
  unfold execPinv
  (try simp only [])
  repeat' first
    | with_reducible exact KeptR.fault
    | with_reducible apply KeptR.ok
    | with_reducible apply KeptR.okIf
    | with_reducible apply KeptR.ite ?_ ?_
    | with_reducible apply Kept.ite ?_ ?_
    | with_reducible exact Kept.refl
    | with_reducible apply Kept.trans ?_ cmdReg_kept
    | (with_reducible apply Kept.foldl ?_ ?_; intro x a; (try simp only []))
    | simp only [mk_kept_iff]
    | split
theorem execProgramFetch_kept {sp : Fin 8} {c : Fin 4} {s : State} : KeptR s (execProgramFetch sp c s) := by
  unfold execProgramFetch
  (try simp only [])
  repeat' first
    | with_reducible exact KeptR.fault
    | with_reducible apply KeptR.ok
    | with_reducible apply KeptR.okIf
    | with_reducible apply KeptR.ite ?_ ?_
    | with_reducible apply Kept.ite ?_ ?_
    | with_reducible exact Kept.refl
    | with_reducible apply Kept.trans ?_ pbLine_kept
    | with_reducible apply Kept.trans ?_ spPrecise_kept
    | with_reducible refine Kept.viaFst ‹pbLine _ _ _ = (_, _)› pbLine_kept ?_
    | (with_reducible apply Kept.foldl ?_ ?_; intro x a; (try simp only []))
    | simp only [mk_kept_iff]
    | split
end Sys2Proof.Laws
end

