-- ==== Sys2Proof/Laws/KeepTurretMem.lean ====
section
/-! SUPPORT. What the operations of Machine/TurretMem.lean leave alone (Laws/Kept.lean). -/
namespace Sys2Proof.Laws
set_option linter.unusedTactic false
set_option linter.unreachableTactic false
open Sys2Proof.Machine
theorem State_setAnchor_kept {s : State} {e : Env} {a : Anchor} : Kept s (State.setAnchor s e a) := by
  unfold State.setAnchor
  (try simp only [])
  repeat' first
    | with_reducible apply Kept.ite ?_ ?_
    | with_reducible exact Kept.refl
    | with_reducible apply Kept.trans ?_ State_setCx_kept
    | (with_reducible apply Kept.foldl ?_ ?_; intro x a; (try simp only []))
    | simp only [mk_kept_iff]
    | split
theorem loadAt_kept {e : Env} {s : State} {k a : Nat} {signed : Bool} : Kept s (runState (loadAt e s k a signed)) := by
  unfold loadAt
  split
  · exact Kept.refl
  · split
    · exact (farRead_kept.trans farIssue_kept).trans stackPut_kept
    · exact bind_kept nearRead_kept fun _ _ => stackPut_kept
theorem storeAt_kept {e : Env} {s : State} {k a : Nat} {v : Cell} : Kept s (runState (storeAt e s k a v)) := by
  unfold storeAt
  split
  · exact Kept.refl
  · dsimp only; split
    · exact farWrite_kept.trans stackPut_kept
    · exact bind_kept nearWrite_kept fun _ _ => stackPut_kept
theorem atNear_kept {o : AtOp} {e : Env} {s : State} {k : Nat} {a : Nat} {v : Cell} {exp : Cell} :
    Kept s (runState (atNear o e s k a v exp)) := by
  unfold atNear
  (try simp only [])
  (try simp only [runState_ok, runState_trap])
  repeat' first
    | with_reducible apply bind_kept ?_ ?_
    | intro a t
    | with_reducible apply Kept.ite ?_ ?_
    | with_reducible exact Kept.refl
    | with_reducible apply Kept.trans ?_ nearRead_kept
    | with_reducible apply Kept.trans ?_ sbEmpty_kept
    | with_reducible apply Kept.trans ?_ stackPut_kept
    | with_reducible apply Kept.trans ?_ State_setCx_kept
    | with_reducible apply Kept.trans ?_ nearWrite_kept
    | with_reducible refine Kept.viaOk ‹nearRead _ _ _ _ _ = Run.ok _ _› nearRead_kept ?_
    | with_reducible refine Kept.viaTrap ‹nearRead _ _ _ _ _ = Run.trap _ _› nearRead_kept ?_
    | with_reducible refine Kept.viaOk ‹nearWrite _ _ _ _ = Run.ok _ _› nearWrite_kept ?_
    | with_reducible refine Kept.viaTrap ‹nearWrite _ _ _ _ = Run.trap _ _› nearWrite_kept ?_
    | (with_reducible apply Kept.foldl ?_ ?_; intro x a; (try simp only []))
    | simp only [mk_kept_iff]
    | (split <;> (try simp only [runState_ok, runState_trap]))
theorem atFar_kept {o : AtOp} {e : Env} {s : State} {k : Nat} {a : Nat} {v : Cell} {exp : Cell} :
    Kept s (runState (atFar o e s k a v exp)) := by
  unfold atFar
  (try simp only [])
  (try simp only [runState_ok, runState_trap])
  repeat' first
    | with_reducible apply bind_kept ?_ ?_
    | intro a t
    | with_reducible apply Kept.ite ?_ ?_
    | with_reducible exact Kept.refl
    | with_reducible apply Kept.trans ?_ sbEmpty_kept
    | with_reducible apply Kept.trans ?_ farRead_kept
    | with_reducible apply Kept.trans ?_ stackPut_kept
    | with_reducible apply Kept.trans ?_ farIssue_kept
    | with_reducible apply Kept.trans ?_ farWrite_kept
    | with_reducible refine Kept.viaFst ‹farRead _ _ _ _ _ _ = (_, _)› farRead_kept ?_
    | (with_reducible apply Kept.foldl ?_ ?_; intro x a; (try simp only []))
    | simp only [mk_kept_iff]
    | (split <;> (try simp only [runState_ok, runState_trap]))
theorem nearBytes_kept {s : State} {n : Fin 8} {a bits k : Nat} : Kept s (runState (nearBytes s n a bits k)) := by
  induction k generalizing s a bits with
  | zero => exact Kept.refl
  | succ k ih => exact bind_kept nearRead_kept fun _ _ => bind_kept ih fun _ _ => Kept.refl
theorem longRead_kept {e : Env} {s : State} {a : Nat} {k : Nat} : Kept s (runState (longRead e s a k)) := by
  unfold longRead
  (try simp only [])
  (try simp only [runState_ok, runState_trap])
  repeat' first
    | with_reducible apply bind_kept ?_ ?_
    | intro a t
    | with_reducible apply Kept.ite ?_ ?_
    | with_reducible exact Kept.refl
    | with_reducible apply Kept.trans ?_ farRead_kept
    | with_reducible apply Kept.trans ?_ nearBytes_kept
    | with_reducible refine Kept.viaFst ‹farRead _ _ _ _ _ _ = (_, _)› farRead_kept ?_
    | with_reducible refine Kept.viaOk ‹nearBytes _ _ _ _ _ = Run.ok _ _› nearBytes_kept ?_
    | with_reducible refine Kept.viaTrap ‹nearBytes _ _ _ _ _ = Run.trap _ _› nearBytes_kept ?_
    | (with_reducible apply Kept.foldl ?_ ?_; intro x a; (try simp only []))
    | simp only [mk_kept_iff]
    | (split <;> (try simp only [runState_ok, runState_trap]))
theorem longStore_kept {e : Env} {s : State} {a : Nat} {d : List Byte} : Kept s (longStore e s a d) := by
  unfold longStore
  (try simp only [])
  repeat' first
    | with_reducible apply Kept.ite ?_ ?_
    | with_reducible exact Kept.refl
    | with_reducible apply Kept.trans ?_ farWrite_kept
    | with_reducible apply Kept.trans ?_ nearWrite_kept
    | with_reducible refine Kept.viaOk ‹nearWrite _ _ _ _ = Run.ok _ _› nearWrite_kept ?_
    | with_reducible refine Kept.viaTrap ‹nearWrite _ _ _ _ = Run.trap _ _› nearWrite_kept ?_
    | (with_reducible apply Kept.foldl ?_ ?_; intro x a; (try simp only []))
    | simp only [mk_kept_iff]
    | (split <;> (try simp only []))
theorem longStep_kept {o : LongOp} {e : Env} {s : State} {top sec : Cell} {rc : Nat} {f : Flags} :
    Kept s (runState (longStep o e s top sec rc f)) := by
  cases o with
  | mov =>
    refine bind_kept longRead_kept fun d t => ?_
    split
    · exact Kept.refl
    · exact longStore_kept
  | fill =>
    unfold longStep; dsimp only; split
    · exact Kept.refl
    · exact longStore_kept
  | crc => exact bind_kept longRead_kept fun _ _ => Kept.refl
  | cmp =>
    refine bind_kept longRead_kept fun _ _ => bind_kept longRead_kept fun _ _ => ?_
    split <;> exact Kept.refl
theorem longLoop_kept {o : LongOp} {e : Env} {k : Nat} {s : State} : Kept s (runState (longLoop o e k s)) := by
  induction k generalizing s with
  | zero => exact Kept.refl
  | succ k ih =>
    have h := longStep_kept (o := o) (e := e) (s := s) (top := ((s.cx e.n).win.getD 0 {}).v) (sec := ((s.cx e.n).win.getD 1 {}).v)
      (rc := (s.cx e.n).rc.toNat) (f := (s.cx e.n).flags)
    unfold longLoop
    dsimp only
    generalize longStep o e s ((s.cx e.n).win.getD 0 {}).v ((s.cx e.n).win.getD 1 {}).v (s.cx e.n).rc.toNat (s.cx e.n).flags = r at h ⊢
    cases r with
    | trap t s1 => exact Kept.trans h undo_kept
    | ok r s1 =>
      dsimp only
      split
      · exact (((Kept.trans h stackPut_kept).trans State_setCx_kept).trans unitSet_kept).trans stackPut_kept
      · refine Kept.trans ?_ ih
        exact ((Kept.trans h stackPut_kept).trans State_setCx_kept).trans unitSet_kept
theorem rollDown_kept {s : State} {n : Fin 8} {x : TCtx} {x3 : Nat} : Kept s (rollDown s n x x3) := by
  fun_induction rollDown s n x x3 <;> (try simp only []) <;>
    repeat' first
      | with_reducible apply Kept.ite ?_ ?_
      | with_reducible exact Kept.refl
      | with_reducible apply Kept.trans ?_ dtcmLoad_kept
      | with_reducible apply Kept.trans ?_ dtcmPut_kept
      | with_reducible apply Kept.trans ?_ State_setWordErr_kept
      | with_reducible refine Kept.viaFst ‹dtcmLoad _ _ _ _ _ = (_, _)› dtcmLoad_kept ?_
      | with_reducible apply Kept.trans ?_ (by assumption)
      | (with_reducible apply Kept.foldl ?_ ?_; intro x a; (try simp only []))
      | simp only [mk_kept_iff]
      | (split <;> (try simp only []))
end Sys2Proof.Laws
end

