-- ==== Sys2Proof/Laws/KeepTurretSys.lean ====
section
/-! SUPPORT. What the operations of Machine/TurretSys.lean leave alone (Laws/Kept.lean). -/
namespace Sys2Proof.Laws
set_option linter.unusedTactic false
set_option linter.unreachableTactic false
open Sys2Proof.Machine
theorem unitOf_kept {s : State} {n : Fin 8} {c : Fin 8} {u : Fin 3} : Kept s (unitOf s n c u).1 := by
  unfold unitOf
  (try simp only [])
  repeat' first
    | with_reducible apply Kept.ite ?_ ?_
    | with_reducible exact Kept.refl
    | with_reducible apply Kept.trans ?_ dtcmLoad_kept
    | (with_reducible apply Kept.foldl ?_ ?_; intro x a; (try simp only []))
    | simp only [mk_kept_iff]
    | split
theorem unitPut_kept {s : State} {n : Fin 8} {c : Fin 8} {u : Fin 3} {v : Cell} : Kept s (unitPut s n c u v) := by
  unfold unitPut
  (try simp only [])
  repeat' first
    | with_reducible apply Kept.ite ?_ ?_
    | with_reducible exact Kept.refl
    | with_reducible apply Kept.trans ?_ State_setCore_kept
    | with_reducible apply Kept.trans ?_ unitSet_kept
    | with_reducible apply Kept.trans ?_ dtcmPut_kept
    | (with_reducible apply Kept.foldl ?_ ?_; intro x a; (try simp only []))
    | simp only [mk_kept_iff]
    | split
theorem crWrite_kept {s : State} {n : Fin 8} {r : Nat} {v : Cell} : Kept s (runState (crWrite s n r v)) := by
  unfold crWrite
  dsimp only
  split
  · exact State_setCore_kept
  · exact State_setCore_kept
  · exact bind_kept unitTouch_kept fun _ _ => unitSet_kept
  · exact State_setCx_kept
theorem bankCell_kept {s : State} {x : TCtx} {i : Nat} : Kept s (bankCell s x i).1 := by
  unfold bankCell
  (try simp only [])
  repeat' first
    | with_reducible apply Kept.ite ?_ ?_
    | with_reducible exact Kept.refl
    | with_reducible apply Kept.trans ?_ State_fresh_kept
    | (with_reducible apply Kept.foldl ?_ ?_; intro x a; (try simp only []))
    | simp only [mk_kept_iff]
    | split
theorem bankCells_kept {s : State} {x : TCtx} {x2 : Nat} : Kept s (bankCells s x x2).1 := by
  fun_induction bankCells s x x2 <;> (try simp only []) <;>
    repeat' first
      | with_reducible apply Kept.ite ?_ ?_
      | with_reducible exact Kept.refl
      | with_reducible apply Kept.trans ?_ bankCell_kept
      | with_reducible refine Kept.viaFst ‹bankCell _ _ _ = (_, _)› bankCell_kept ?_
      | with_reducible apply Kept.trans ?_ (by assumption)
      | (with_reducible apply Kept.foldl ?_ ?_; intro x a; (try simp only []))
      | simp only [mk_kept_iff]
      | (split <;> (try simp only []))
theorem bankOccPut_kept {s : State} {x : TCtx} {m : Nat} : Kept s (bankOccPut s x m).1 := by
  unfold bankOccPut
  (try simp only [])
  repeat' first
    | with_reducible apply Kept.ite ?_ ?_
    | with_reducible exact Kept.refl
    | with_reducible apply Kept.trans ?_ bankCells_kept
    | (with_reducible apply Kept.foldl ?_ ?_; intro x a; (try simp only []))
    | simp only [mk_kept_iff]
    | split
theorem bankRead_kept {s : State} {n : Fin 8} {i : Nat} : Kept s (bankRead s n i).1 := by
  unfold bankRead
  (try simp only [])
  repeat' first
    | with_reducible apply Kept.ite ?_ ?_
    | with_reducible exact Kept.refl
    | with_reducible apply Kept.trans ?_ bankCell_kept
    | with_reducible apply Kept.trans ?_ unitOf_kept
    | (with_reducible apply Kept.foldl ?_ ?_; intro x a; (try simp only []))
    | simp only [mk_kept_iff]
    | split
theorem bankWriteItem_kept {s : State} {n : Fin 8} {i : Nat} {v : Cell} : Kept s (bankWriteItem s n i v) := by
  unfold bankWriteItem
  (try simp only [])
  repeat' first
    | with_reducible apply Kept.ite ?_ ?_
    | with_reducible exact Kept.refl
    | with_reducible apply Kept.trans ?_ unitPut_kept
    | with_reducible apply Kept.trans ?_ bankOccPut_kept
    | with_reducible apply Kept.trans ?_ State_setCore_kept
    | (with_reducible apply Kept.foldl ?_ ?_; intro x a; (try simp only []))
    | simp only [mk_kept_iff]
    | split
theorem decDeliver_kept {s : State} {n : Fin 8} {k : Nat} {o : DecOut} : Kept s (decDeliver s n k o) := by
  unfold decDeliver
  (try simp only [])
  repeat' first
    | with_reducible apply Kept.ite ?_ ?_
    | with_reducible exact Kept.refl
    | with_reducible apply Kept.trans ?_ unitSet_kept
    | with_reducible apply Kept.trans ?_ stackPut_kept
    | with_reducible apply Kept.trans ?_ State_setCx_kept
    | (with_reducible apply Kept.foldl ?_ ?_; intro x a; (try simp only []))
    | simp only [mk_kept_iff]
    | split
end Sys2Proof.Laws
end

