-- ==== Sys2Proof/Laws/KeepBodies.lean ====
section
/-! SUPPORT. What the bodies of turret instructions leave alone, and what running one leaves alone (Laws/Kept.lean). -/
namespace Sys2Proof.Laws
open Sys2Proof.Machine

theorem Kept.ifRun {α : Type} {s : State} {c : Prop} [Decidable c] {a b : Run α} (ha : Kept s (runState a)) (hb : Kept s (runState b)) :
    Kept s (runState (if c then a else b)) := by split <;> assumption

/-- A body of an instruction leaves the queue, the canonical forms and the energy registers alone. -/
def KeptB (b : Body) : Prop := ∀ e s, Kept s (runState (b e s))

theorem scalarBody_kept {x : Scalar} : KeptB (scalarBody x) := by
  intro e s
  refine bind_kept stackNeed_kept fun c t => ?_
  dsimp only
  split
  · exact Kept.refl
  · exact Kept.trans (Kept.ite Kept.refl stackPut_kept) State_setCx_kept
theorem loadBody_kept {b : Bool} : KeptB (loadBody b) := fun _ _ =>
  bind_kept stackNeed_kept fun _ _ => bind_kept loadAt_kept fun _ _ => Kept.refl
theorem storeBody_kept : KeptB storeBody := fun _ _ => bind_kept stackNeed_kept fun _ _ => bind_kept storeAt_kept fun _ _ => Kept.refl
theorem anLoadBody_kept {a b c : Bool} : KeptB (anLoadBody a b c) := fun _ _ =>
  bind_kept stackNeed_kept fun _ _ => bind_kept loadAt_kept fun _ _ => Kept.ite State_setAnchor_kept Kept.refl
theorem anStoreBody_kept {a b : Bool} : KeptB (anStoreBody a b) := fun _ _ =>
  bind_kept stackNeed_kept fun _ _ => bind_kept storeAt_kept fun _ _ => Kept.ite State_setAnchor_kept Kept.refl
theorem anldBody_kept : KeptB anldBody := fun _ _ =>
  bind_kept stackNeed_kept fun _ _ => Kept.ifRun (stackPut_kept.trans State_setAnchor_kept) Kept.refl
theorem anoffBody_kept : KeptB anoffBody := fun _ _ =>
  bind_kept stackNeed_kept fun _ _ => stackPut_kept.trans State_setAnchor_kept
theorem anrdBody_kept : KeptB anrdBody := fun _ _ => bind_kept stackNeed_kept fun _ _ => stackPut_kept
theorem anadrBody_kept : KeptB anadrBody := fun _ _ => bind_kept stackNeed_kept fun _ _ => stackPut_kept
theorem anstepBody_kept : KeptB anstepBody := fun _ _ => State_setAnchor_kept
theorem ldlBody_kept {r : Fin 4} : KeptB (ldlBody r) := by
  intro e s
  unfold ldlBody
  split
  · exact Kept.refl
  · exact bind_kept stackNeed_kept fun _ _ => stackPut_kept
theorem lwaitBody_kept : KeptB lwaitBody := by
  intro e s
  unfold lwaitBody
  refine Kept.ifRun Kept.refl ?_
  dsimp only
  split <;> exact landAll_kept
theorem fenceBody_kept : KeptB fenceBody := fun _ _ => sbEmpty_kept
theorem atBody_kept {o : AtOp} : KeptB (atBody o) := by
  intro e s
  refine bind_kept stackNeed_kept fun c t => ?_
  dsimp only
  split
  · exact Kept.refl
  · split
    · split
      · exact Kept.refl
      · exact atFar_kept
    · exact atNear_kept
theorem longBody_kept {o : LongOp} : KeptB (longBody o) := by
  intro e s
  have h := stackNeed_kept (s := s) (n := e.n) (k := 2) (m := 0)
  unfold longBody
  generalize stackNeed s e.n 2 0 = r at h ⊢
  cases r with
  | trap t s1 => exact Kept.trans h undo_kept
  | ok c s0 =>
    have h2 := Kept.trans h (unitTouch_kept (s := s0) (n := e.n) (u := 2))
    dsimp only
    generalize unitTouch s0 e.n 2 = r at h2 ⊢
    cases r with
    | trap t s1 => exact Kept.trans h2 undo_kept
    | ok v s1 =>
      dsimp only
      refine Kept.ifRun ?_ (Kept.trans h2 longLoop_kept)
      exact Kept.ite (Kept.trans (Kept.trans h2 stackPut_kept) State_setCx_kept) (Kept.trans h2 stackPut_kept)
theorem pickBody_kept : KeptB pickBody := by
  intro e s
  refine bind_kept stackNeed_kept fun c t => ?_
  dsimp only
  refine Kept.ifRun Kept.refl (Kept.ifRun ?_ (Kept.ifRun dtcmLoad_kept (dtcmLoad_kept.trans stackPut_kept)))
  split
  · exact Kept.refl
  · exact stackPut_kept
theorem rollBody_kept : KeptB rollBody := by
  intro e s
  refine bind_kept stackNeed_kept fun c t => ?_
  dsimp only
  refine Kept.ifRun Kept.refl (Kept.ifRun ?_ (Kept.ifRun dtcmLoad_kept ?_))
  · split
    · exact Kept.refl
    · exact State_setCx_kept
  · refine Kept.trans ?_ State_setCx_kept
    refine Kept.trans ?_ stackPut_kept
    refine Kept.trans ?_ rollDown_kept
    exact dtcmLoad_kept
theorem syncIBody_kept : KeptB syncIBody := fun _ _ => syncI_kept
theorem syncCBody_kept : KeptB syncCBody := fun _ _ => applyPending_kept
theorem gateBody_kept : KeptB gateBody := fun _ _ => bind_kept stackNeed_kept fun _ _ => bind_kept gateTake_kept fun _ _ => Kept.refl
theorem reteBody_kept : KeptB reteBody := by
  intro e s
  refine bind_kept stackNeed_kept fun c t => ?_
  dsimp only
  split
  · exact Kept.refl
  · exact reteTake_kept
theorem cswBody_kept : KeptB cswBody := by
  intro e s
  refine bind_kept stackNeed_kept fun c t => ?_
  dsimp only
  split
  · exact Kept.refl
  · split
    · split
      · exact Kept.refl
      · have h : Kept t (flowTo (stackPut t e.n 1 []) e .next) := by
          refine Kept.trans ?_ flowTo_kept
          exact stackPut_kept
        generalize flowTo (stackPut t e.n 1 []) e .next = u at h ⊢
        have h2 := h.trans (reserveAll_kept (n := e.n))
        generalize reserveAll u e.n = v at h2 ⊢
        rw [runState_ok]
        refine Kept.trans ?_ switchIn_kept
        exact h2.trans State_setCore_kept
    · exact Kept.refl
theorem waitBody_kept : KeptB waitBody := by
  intro e s
  exact Kept.ifRun Kept.refl (Kept.ite Kept.refl State_setCore_kept)
theorem brkBody_kept : KeptB brkBody := fun _ _ => Kept.ifRun State_setCore_kept Kept.refl
theorem chkstBody_kept : KeptB chkstBody := fun _ _ => bind_kept stackNeed_kept fun _ _ => Kept.ifRun Kept.refl stackPut_kept
theorem mfcrBody_kept {r : Nat} : KeptB (mfcrBody r) := fun _ _ =>
  Kept.ifRun Kept.refl (bind_kept stackNeed_kept fun _ _ => Kept.ifRun (bind_kept unitTouch_kept fun _ _ => stackPut_kept) stackPut_kept)
theorem mtcrBody_kept {r : Nat} : KeptB (mtcrBody r) := fun _ _ =>
  Kept.ifRun Kept.refl (bind_kept stackNeed_kept fun _ _ => Kept.ifRun Kept.refl (Kept.ifRun Kept.refl
    (Kept.trans stackPut_kept (bind_kept crWrite_kept fun _ _ => Kept.refl))))
theorem bankrdBody_kept : KeptB bankrdBody := fun _ _ =>
  bind_kept stackNeed_kept fun _ _ => Kept.ifRun Kept.refl (Kept.ifRun Kept.refl (bankRead_kept.trans stackPut_kept))
theorem bankwrBody_kept : KeptB bankwrBody := fun _ _ =>
  bind_kept stackNeed_kept fun _ _ => Kept.ifRun Kept.refl (Kept.ifRun Kept.refl (stackPut_kept.trans bankWriteItem_kept))
theorem decBody_kept {k m : Nat} {bad : List Cell → Option Nat} {zero : List Cell} {f : List Cell → Flags → Cell → DecOut} :
    KeptB (decBody k m bad zero f) := by
  intro e s
  refine bind_kept stackNeed_kept fun c t => bind_kept unitTouch_kept fun d u => ?_
  split
  · exact Kept.ifRun decDeliver_kept Kept.refl
  · exact decDeliver_kept
theorem fltBody_kept {k : Nat} {f : FFmt → Nat → List Cell → Nat × Nat} : KeptB (fltBody k f) := fun _ _ =>
  bind_kept stackNeed_kept fun _ _ => bind_kept unitTouch_kept fun _ _ => unitSet_kept.trans stackPut_kept

theorem repLoop_kept {e : Env} {long : Bool} {b : Body} (hb : KeptB b) {k : Nat} {s : State} : Kept s (repLoop e long b k s).1 := by
  induction k generalizing s with
  | zero => exact Kept.refl
  | succ k ih =>
    have h := hb e s
    unfold repLoop
    generalize b e s = r at h ⊢
    cases r with
    | trap t s1 => exact Kept.ite h (Kept.trans h undo_kept)
    | ok f s1 => exact Kept.trans (Kept.trans h State_setCx_kept) ih
theorem runRep_kept {e : Env} {long : Bool} {b : Body} (hb : KeptB b) {s : State} : Kept s (runRep e long b s) := by
  have h : ∀ k, Kept s (repLoop e long b k s).1 := fun _ => repLoop_kept hb
  have h3 : ∀ k, Kept s (match repLoop e long b k s with
      | (s1, some t) => faultEntry s1 e.n t
      | (s1, none) => if k < (s.cx e.n).rc.toNat then s1 else flowTo s1 e .next) := by
    intro k
    have h2 := h k
    generalize repLoop e long b k s = r at h2 ⊢
    obtain ⟨s1, _ | t⟩ := r
    · exact Kept.ite h2 (h2.trans flowTo_kept)
    · exact h2.trans faultEntry_kept
  unfold runRep
  dsimp only
  refine Kept.ite (Kept.ite faultEntry_kept (Kept.ite Kept.refl ?_)) ?_
  · have h2 := h (s.cx e.n).rc.toNat
    generalize repLoop e long b (s.cx e.n).rc.toNat s = r at h2 ⊢
    obtain ⟨s1, _ | t⟩ := r
    · exact h2.trans flowTo_kept
    · exact (h2.trans undo_kept).trans faultEntry_kept
  · exact h3 _
theorem runOn_kept {e : Env} {x : Insn} (hb : KeptB x.body) {s0 : State} : Kept s0 (runOn e x s0) := by
  have h := fetchCheck_kept (s := s0) (n := e.n) (len := e.next - e.pc) (bits := 0)
  unfold runOn
  generalize fetchCheck s0 e.n (e.next - e.pc) 0 = r at h ⊢
  cases r with
  | trap t s => exact Kept.trans h faultEntry_kept
  | ok v s =>
    have h : Kept s0 s := h
    dsimp only
    refine Kept.ite (h.trans faultEntry_kept) (Kept.ite (h.trans (runRep_kept hb)) (Kept.ite ?_ (Kept.ite h ?_)))
    · have h2 := h.trans (hb e s)
      generalize x.body e s = r at h2 ⊢
      cases r with
      | trap t s1 => exact Kept.trans h2 faultEntry_kept
      | ok f s1 => exact Kept.trans h2 flowTo_kept
    · have h2 := h.trans (hb e s)
      generalize x.body e s = r at h2 ⊢
      cases r with
      | trap t s1 => exact (Kept.trans h2 undo_kept).trans faultEntry_kept
      | ok f s1 => exact Kept.trans h2 flowTo_kept
theorem pairRun_kept {s : State} {p : Fin 4} {skew : Bool} {cls : Nat → Nat} {digest ctl : Bool} {f : MasterId → Bool → State → State}
    (hf : ∀ i k t, Kept t (f i k t)) : Kept s (pairRun s p skew cls digest ctl f) := by
  unfold pairRun
  dsimp only
  split
  · exact cmpHalt_kept
  · exact (hf _ _ _).trans trailOut_kept
theorem turretGo_kept {s : State} {n : Fin 8} {x : Insn} (hb : KeptB x.body) {p : Pfx} {op : DisOp} : Kept s (turretGo s n x p op) := by
  unfold turretGo
  dsimp only
  refine Kept.ite (Kept.ite ?_ (runOn_kept hb)) Kept.refl
  split
  · exact cmpHalt_kept
  · exact setReg_kept.trans cmpHalt_kept
  · exact cmpHalt_kept
  · exact pairRun_kept fun _ _ _ => runOn_kept hb
  · exact pairRun_kept fun _ _ _ => runOn_kept hb
  · exact pairRun_kept fun _ _ _ => runOn_kept hb
  · exact pairRun_kept fun _ _ _ => runOn_kept hb
theorem coreCmd_kept {s : State} {n : Fin 8} {f : State → State} (hf : ∀ t, Kept t (f t)) : Kept s (coreCmd s n f) := by
  unfold coreCmd
  exact Kept.ite (Kept.ite (pairRun_kept fun _ _ t => hf t) (hf s)) Kept.refl
theorem reservedInsn_kept {x : Insn} (hb : KeptB x.body) {r : Option Byte} : KeptB (reservedInsn x r).body := by
  cases r with
  | none => exact hb
  | some b => exact fun _ _ => Kept.refl
theorem turretRun_kept {s : State} {n : Fin 8} {x : Insn} (hb : KeptB x.body) {op : DisOp} : KeptR s (turretRun s n x op) := by
  unfold turretRun
  split
  · intro t e; cases e
  · exact KeptR.okIf (turretGo_kept (reservedInsn_kept hb))

theorem execInterruptEntry_kept {n : Fin 8} {s : State} : KeptR s (execInterruptEntry n s) :=
  KeptR.ok (Kept.ite Kept.refl (coreCmd_kept fun _ => interruptEntry_kept))
theorem execSpillEngineSpill_kept {n : Fin 8} {s : State} : KeptR s (execSpillEngineSpill n s) :=
  KeptR.ok (coreCmd_kept fun _ => Kept.ite spillOne_kept Kept.refl)
theorem execSpillEngineFill_kept {n : Fin 8} {s : State} : KeptR s (execSpillEngineFill n s) :=
  KeptR.ok (coreCmd_kept fun _ => Kept.ite fillOne_kept Kept.refl)
theorem execStoreBufferDrain_kept {n : Fin 8} {s : State} : KeptR s (execStoreBufferDrain n s) :=
  KeptR.ok (coreCmd_kept fun _ => sbDrain_kept)
theorem execCwbLineWrite_kept {n : Fin 8} {s : State} : KeptR s (execCwbLineWrite n s) :=
  KeptR.ok (coreCmd_kept fun _ => cwbLeave_kept)
theorem execFarLoadReturn_kept {n c : Fin 8} {r : Fin 4} {s : State} : KeptR s (execFarLoadReturn n c r s) :=
  KeptR.ok (coreCmd_kept fun _ => landReg_kept)

end Sys2Proof.Laws
end

