-- ==== Sys2Proof/Laws/KeepSpireBodies.lean ====
section
/-! SUPPORT. What the bodies of spire instructions leave alone, and what running one leaves alone (Laws/Kept.lean). -/
namespace Sys2Proof.Laws
open Sys2Proof.Machine

/-- The state a part of a spire instruction answers. -/
def sresState : SRes → State
  | .done s _ => s
  | .wait s _ => s
  | .bad s _ _ => s
  | .stopped s => s
theorem Kept.ifS {s : State} {c : Prop} [Decidable c] {a b : SRes} (ha : Kept s (sresState a)) (hb : Kept s (sresState b)) :
    Kept s (sresState (if c then a else b)) := by split <;> assumption
/-- A body of a spire instruction leaves the queue, the canonical forms and the energy registers alone. -/
def KeptS (b : SBody) : Prop := ∀ e s, Kept s (sresState (b e s))
theorem withCells_kept {e : SEnv} {s : State} {k m : Nat} {f : List Cell → SRes} (hf : ∀ c, Kept s (sresState (f c))) :
    Kept s (sresState (withCells e s k m f)) := by
  unfold withCells
  dsimp only
  exact Kept.ifS Kept.refl (hf _)
theorem scalarS_kept {x : Scalar} : KeptS (scalarS x) := by
  intro e s
  refine withCells_kept fun c => ?_
  dsimp only
  split
  · exact Kept.refl
  · exact SEnv_put_kept
theorem pickS_kept {b : Bool} : KeptS (pickS b) := by
  intro e s
  refine withCells_kept fun c => ?_
  dsimp only
  split
  · exact Kept.refl
  · exact Kept.ifS SEnv_put_kept Kept.refl
theorem vdldS_kept : KeptS vdldS := by
  intro e s
  refine withCells_kept fun c => ?_
  have h := busRead_kept (s := s) (id := sprId e.n) (a := (c.getD 0 0).toNat) (n := 32) (u := {})
  dsimp only
  refine Kept.ifS Kept.refl (Kept.ifS Kept.refl (Kept.ifS Kept.refl ?_))
  generalize busRead s (sprId e.n) (c.getD 0 0).toNat 32 {} = r at h ⊢
  obtain ⟨s1, b | ⟨d, _ | _⟩⟩ := r
  · exact h
  · exact Kept.trans h SEnv_put_kept
  · exact h
theorem vdstS_kept : KeptS vdstS := by
  intro e s
  refine withCells_kept fun c => ?_
  dsimp only
  split
  · exact Kept.refl
  · rename_i d t _
    have h := busWrite_kept (s := s) (id := sprId e.n) (a := (c.getD 0 0).toNat) (d := d.bytes) (u := {})
    refine Kept.ifS Kept.refl (Kept.ifS Kept.refl ?_)
    generalize busWrite s (sprId e.n) (c.getD 0 0).toNat d.bytes {} = r at h ⊢
    obtain ⟨s1, _ | b⟩ := r
    · exact Kept.trans h SEnv_put_kept
    · exact h
theorem vddropS_kept : KeptS vddropS := by
  intro e s
  unfold vddropS
  dsimp only
  split
  · exact Kept.refl
  · exact SEnv_put_kept
theorem vddupS_kept : KeptS vddupS := by
  intro e s
  unfold vddupS
  dsimp only
  split
  · exact Kept.refl
  · exact Kept.ifS Kept.refl SEnv_put_kept
theorem vdswapS_kept : KeptS vdswapS := by
  intro e s
  unfold vdswapS
  dsimp only
  split
  · exact SEnv_put_kept
  · exact Kept.refl
theorem vdgetS_kept : KeptS vdgetS := by
  intro e s
  refine Kept.ifS Kept.refl (withCells_kept fun c => ?_)
  dsimp only
  split
  · exact Kept.refl
  · exact SEnv_put_kept
theorem vdsetS_kept : KeptS vdsetS := by
  intro e s
  refine Kept.ifS Kept.refl (withCells_kept fun c => ?_)
  dsimp only
  split
  · exact Kept.refl
  · exact SEnv_put_kept
theorem elemS_kept {v : VOp} : KeptS (elemS v) := by
  intro e s
  refine withCells_kept fun c => ?_
  dsimp only
  split
  · exact Kept.refl
  · exact SEnv_put_kept
/-- What a collection answers is kept. -/
def collState (s : State) : Collected → State
  | .fine t => t
  | .waits => s
  | .full => s
  | .handler t _ => t
  | .fault t => t
theorem collect_kept {e : SEnv} {s : State} : Kept s (collState s (collect e s)) := by
  unfold collect
  dsimp only
  split
  · exact Kept.refl
  · exact Kept.refl
  · exact Kept.refl
  · split
    · exact Kept.refl
    · exact SEnv_put_kept
  · split
    · exact SEnv_put_kept
    · exact Kept.trans SEnv_put_kept spEnterFault_kept
theorem vwaitS_kept : KeptS vwaitS := by
  intro e s
  have h := collect_kept (e := e) (s := s)
  unfold vwaitS
  generalize collect e s = r at h ⊢
  cases r with
  | fine t => exact h
  | waits => exact Kept.refl
  | full => exact Kept.refl
  | handler t a => exact h
  | fault t => exact h
theorem vgoS_kept : KeptS vgoS := by
  intro e s
  have h := collect_kept (e := e) (s := s)
  unfold vgoS
  generalize collect e s = r at h ⊢
  cases r with
  | fine t =>
    dsimp only
    split
    · exact Kept.refl
    · split
      · exact SEnv_put_kept
      · exact Kept.trans h enqueue_kept
  | waits => exact Kept.refl
  | full => exact Kept.refl
  | handler t a => exact h
  | fault t => exact Kept.trans h SEnv_put_kept
theorem vendS_kept : KeptS vendS := by
  intro e s
  have h := collect_kept (e := e) (s := s)
  unfold vendS
  generalize collect e s = r at h ⊢
  cases r with
  | fine t =>
    dsimp only
    split
    · exact Kept.refl
    · exact (Kept.trans h SEnv_put_kept).trans spEnd_kept
  | waits => exact Kept.refl
  | full => exact Kept.refl
  | handler t a => exact h
  | fault t => exact h
theorem vonfS_kept : KeptS vonfS := fun _ _ => withCells_kept fun _ => SEnv_put_kept
theorem vfrecS_kept : KeptS vfrecS := fun _ _ => withCells_kept fun _ => Kept.ifS Kept.refl SEnv_put_kept
theorem vfdescS_kept : KeptS vfdescS := by
  intro e s
  refine withCells_kept fun c => ?_
  dsimp only
  split
  · exact Kept.refl
  · exact Kept.ifS Kept.refl SEnv_put_kept
theorem vresumeS_kept : KeptS vresumeS := by
  intro e s
  refine withCells_kept fun c => ?_
  dsimp only
  split
  · refine Kept.ifS Kept.refl (Kept.ifS SEnv_put_kept ?_)
    refine Kept.trans ?_ SEnv_put_kept
    refine Kept.trans ?_ enqueue_kept
    exact SEnv_put_kept
  · exact Kept.refl
theorem vldcS_kept : KeptS vldcS := by
  intro e s
  refine withCells_kept fun c => ?_
  have h := busRead_kept (s := s) (id := sprId e.n) (a := (c.getD 0 0).toNat) (n := 8) (u := {})
  dsimp only
  refine Kept.ifS Kept.refl ?_
  split
  · exact Kept.refl
  · generalize busRead s (sprId e.n) (c.getD 0 0).toNat 8 {} = r at h ⊢
    obtain ⟨s1, b | ⟨d, _ | _⟩⟩ := r
    · exact h
    · exact Kept.trans h SEnv_put_kept
    · exact h
theorem vstcS_kept : KeptS vstcS := by
  intro e s
  refine withCells_kept fun c => ?_
  have h := busWrite_kept (s := s) (id := sprId e.n) (a := (c.getD 0 0).toNat) (d := leBytes 8 (c.getD 1 0).toNat) (u := {})
  dsimp only
  refine Kept.ifS Kept.refl ?_
  split
  · exact Kept.refl
  · generalize busWrite s (sprId e.n) (c.getD 0 0).toNat (leBytes 8 (c.getD 1 0).toNat) {} = r at h ⊢
    obtain ⟨s1, _ | b⟩ := r
    · exact Kept.trans h SEnv_put_kept
    · exact h
theorem coefWaits_kept {e : SEnv} {s : State} : Kept s (sresState (coefWaits e s)) := SEnv_put_kept
theorem coefDone_kept {e : SEnv} {s : State} {k : Nat} {r : List Cell} : Kept s (sresState (coefDone e s k r)) := SEnv_put_kept
theorem vcgetS_kept : KeptS vcgetS := by
  intro e s
  refine withCells_kept fun c => ?_
  have h := coefWord_kept (s := s) (n := e.n) (k := (c.getD 0 0).toNat / 8) (bits := e.bits)
  dsimp only
  refine Kept.ifS Kept.refl (Kept.ifS coefWaits_kept (Kept.ifS (Kept.trans State_fresh_kept coefDone_kept) ?_))
  generalize coefWord s e.n ((c.getD 0 0).toNat / 8) e.bits = r at h ⊢
  obtain ⟨s1, _ | b⟩ := r
  · exact h
  · exact Kept.trans h coefDone_kept
theorem vcputS_kept : KeptS vcputS := by
  intro e s
  refine withCells_kept fun c => ?_
  dsimp only
  refine Kept.ifS Kept.refl (Kept.ifS coefWaits_kept ?_)
  refine Kept.trans ?_ coefDone_kept
  exact Kept.ite coefWrite_kept Kept.refl
theorem vmbringS_kept : KeptS vmbringS := by
  intro e s
  refine withCells_kept fun c => ?_
  dsimp only
  refine Kept.ifS Kept.refl ?_
  split
  · exact Kept.viaFst ‹_› busWrite_kept Kept.refl
  · refine Kept.trans ?_ SEnv_put_kept
    exact Kept.viaFst ‹_› busWrite_kept Kept.refl
theorem vmbwaitS_kept : KeptS vmbwaitS := by
  intro e s
  refine withCells_kept fun c => ?_
  dsimp only
  refine Kept.ifS SEnv_put_kept (Kept.ifS Kept.refl ?_)
  split
  · exact Kept.viaFst ‹_› busRead_kept Kept.refl
  · refine Kept.ifS (Kept.viaFst ‹_› busRead_kept Kept.refl) ?_
    have h := Kept.viaFst ‹_› (busRead_kept (s := s)) Kept.refl
    split
    · exact Kept.viaFst ‹_› busWrite_kept h
    · refine Kept.trans ?_ SEnv_put_kept
      exact Kept.viaFst ‹_› busWrite_kept h
theorem seqGo_kept {s : State} {n : Fin 8} {c : Fin 4} {acc : Acc} {w : Waits} {len : Nat} {e : SEnv} {hw : HwEvent} {own : Bool}
    {body : Option SBody} (hb : ∀ b, body = some b → KeptS b) : Kept s (seqGo s n c acc w len e hw own body) := by
  have h := seqFront_kept (s := s) (n := n) (c := c) (len := len) (hw := hw) (ownsTcm := own)
  unfold seqGo
  refine Kept.ite ?_ Kept.refl
  generalize seqFront s n c len hw own = r at h ⊢
  obtain ⟨s1, _ | f⟩ := r
  · cases body with
    | none => exact h.trans spPrecise_kept
    | some b =>
      dsimp only
      refine Kept.ite (h.trans spPrecise_kept) ?_
      have h2 : Kept s (s1.setSc n c { s1.sc n c with st := .run }) := h.trans State_setSc_kept
      have h3 := h2.trans (hb b rfl e (s1.setSc n c { s1.sc n c with st := .run }))
      generalize b e (s1.setSc n c { s1.sc n c with st := .run }) = q at h3 ⊢
      cases q with
      | done s3 j => exact Kept.trans h3 State_setSc_kept
      | wait s3 st => exact Kept.trans h3 State_setSc_kept
      | bad s3 k d => exact Kept.trans h3 spPrecise_kept
      | stopped s3 => exact h3
  · exact h.trans spPrecise_kept
theorem spireRun_kept {s : State} {n : Fin 8} {c : Fin 4} {acc : Acc} {opc : Nat} {hasImm : Bool} {imm : Imm} {op : DisOp} {w : Waits}
    {own : Bool} {body : Option SBody} (hb : ∀ b, body = some b → KeptS b) : KeptR s (spireRun s n c acc opc hasImm imm op w own body) := by
  unfold spireRun
  split
  · intro t e; cases e
  · refine KeptR.okIf (seqGo_kept fun b h => ?_)
    split at h
    · cases h
    · exact hb b h

end Sys2Proof.Laws
end

