-- ==== Sys2Proof/Laws/KeepDis.lean ====
section
/-! SUPPORT. What the instructions leave alone (Laws/Kept.lean): one lemma per row. -/
namespace Sys2Proof.Laws
open Sys2Proof.Machine

theorem KeptS.none : ∀ b, (none : Option SBody) = some b → KeptS b := fun _ e => by cases e
theorem KeptS.some {x : SBody} (h : KeptS x) : ∀ b, some x = some b → KeptS b := fun _ e => by cases e; exact h
theorem vecIllegal_kept : KeptB vecIllegal := fun _ _ => Kept.refl
theorem rdspBody_kept : KeptB rdspBody := fun _ _ => bind_kept stackNeed_kept fun _ _ => stackPut_kept

section
variable {s : State} {op : DisOp} {acc : Acc} {opc : Nat} {imm : Imm} {tb : Body} {sb : Option SBody} {b : SBody} {x : Scalar}
theorem disRun_kept (hb : KeptB tb) (hs : ∀ b, sb = some b → KeptS b) : KeptR s (disRun op acc opc tb sb s) := by
  unfold disRun
  split
  · exact turretRun_kept hb
  · exact spireRun_kept hs
theorem disImm_kept (hb : KeptB tb) (hs : ∀ b, sb = some b → KeptS b) : KeptR s (disImm op acc opc imm tb sb s) := by
  unfold disImm
  split
  · exact turretRun_kept hb
  · exact spireRun_kept hs
theorem disScalar_kept : KeptR s (disScalar op acc opc x s) := disRun_kept scalarBody_kept (KeptS.some scalarS_kept)
theorem disTurret_kept : KeptR s (disTurret op acc opc x s) := disRun_kept scalarBody_kept KeptS.none
theorem disScalarImm_kept : KeptR s (disScalarImm op acc opc imm x s) := disImm_kept scalarBody_kept (KeptS.some scalarS_kept)
theorem disLong_kept (hb : KeptB tb) : KeptR s (disLong op acc opc tb s) := by
  unfold disLong
  split
  · exact turretRun_kept hb
  · exact spireRun_kept KeptS.none
theorem disReg_kept {r : BitVec 8} (hb : KeptB tb) : KeptR s (disReg op opc r tb s) := disImm_kept hb KeptS.none
theorem disVec_kept {w : Waits} (hs : KeptS b) : KeptR s (disVec op opc w b s) := by
  unfold disVec
  split
  · exact turretRun_kept vecIllegal_kept
  · exact spireRun_kept (KeptS.some hs)
theorem disField_kept {f : BitVec 8} (hs : KeptS b) : KeptR s (disField op opc f b s) := by
  unfold disField
  split
  · exact turretRun_kept vecIllegal_kept
  · exact spireRun_kept (KeptS.some hs)
theorem disElem_kept {v : VOp} : KeptR s (disElem op opc v s) := disVec_kept elemS_kept
end

theorem execNop_kept {op : DisOp} {s : State} : KeptR s (execNop op s) := disScalar_kept
theorem execDup_kept {op : DisOp} {s : State} : KeptR s (execDup op s) := disScalar_kept
theorem execDrop_kept {op : DisOp} {s : State} : KeptR s (execDrop op s) := disScalar_kept
theorem execSwap_kept {op : DisOp} {s : State} : KeptR s (execSwap op s) := disScalar_kept
theorem execOver_kept {op : DisOp} {s : State} : KeptR s (execOver op s) := disScalar_kept
theorem execRot_kept {op : DisOp} {s : State} : KeptR s (execRot op s) := disScalar_kept
theorem execNrot_kept {op : DisOp} {s : State} : KeptR s (execNrot op s) := disScalar_kept
theorem execNip_kept {op : DisOp} {s : State} : KeptR s (execNip op s) := disScalar_kept
theorem execTuck_kept {op : DisOp} {s : State} : KeptR s (execTuck op s) := disScalar_kept
theorem execPick_kept {op : DisOp} {s : State} : KeptR s (execPick op s) := disRun_kept pickBody_kept (KeptS.some pickS_kept)
theorem execRoll_kept {op : DisOp} {s : State} : KeptR s (execRoll op s) := disRun_kept rollBody_kept (KeptS.some pickS_kept)
theorem execDepth_kept {op : DisOp} {s : State} : KeptR s (execDepth op s) := disScalar_kept
theorem execDup2_kept {op : DisOp} {s : State} : KeptR s (execDup2 op s) := disScalar_kept
theorem execDrop2_kept {op : DisOp} {s : State} : KeptR s (execDrop2 op s) := disScalar_kept
theorem execSwap2_kept {op : DisOp} {s : State} : KeptR s (execSwap2 op s) := disScalar_kept
theorem execZero_kept {op : DisOp} {s : State} : KeptR s (execZero op s) := disScalar_kept
theorem execAdd_kept {op : DisOp} {s : State} : KeptR s (execAdd op s) := disScalar_kept
theorem execSub_kept {op : DisOp} {s : State} : KeptR s (execSub op s) := disScalar_kept
theorem execAdc_kept {op : DisOp} {s : State} : KeptR s (execAdc op s) := disScalar_kept
theorem execSbb_kept {op : DisOp} {s : State} : KeptR s (execSbb op s) := disScalar_kept
theorem execNeg_kept {op : DisOp} {s : State} : KeptR s (execNeg op s) := disScalar_kept
theorem execInc_kept {op : DisOp} {s : State} : KeptR s (execInc op s) := disScalar_kept
theorem execDec_kept {op : DisOp} {s : State} : KeptR s (execDec op s) := disScalar_kept
theorem execMul_kept {op : DisOp} {s : State} : KeptR s (execMul op s) := disScalar_kept
theorem execMulh_kept {op : DisOp} {s : State} : KeptR s (execMulh op s) := disScalar_kept
theorem execMulhu_kept {op : DisOp} {s : State} : KeptR s (execMulhu op s) := disScalar_kept
theorem execDiv_kept {op : DisOp} {s : State} : KeptR s (execDiv op s) := disTurret_kept
theorem execDivu_kept {op : DisOp} {s : State} : KeptR s (execDivu op s) := disTurret_kept
theorem execMin_kept {op : DisOp} {s : State} : KeptR s (execMin op s) := disScalar_kept
theorem execMax_kept {op : DisOp} {s : State} : KeptR s (execMax op s) := disScalar_kept
theorem execMinu_kept {op : DisOp} {s : State} : KeptR s (execMinu op s) := disScalar_kept
theorem execMaxu_kept {op : DisOp} {s : State} : KeptR s (execMaxu op s) := disScalar_kept
theorem execAnd_kept {op : DisOp} {s : State} : KeptR s (execAnd op s) := disScalar_kept
theorem execOr_kept {op : DisOp} {s : State} : KeptR s (execOr op s) := disScalar_kept
theorem execXor_kept {op : DisOp} {s : State} : KeptR s (execXor op s) := disScalar_kept
theorem execNot_kept {op : DisOp} {s : State} : KeptR s (execNot op s) := disScalar_kept
theorem execAndn_kept {op : DisOp} {s : State} : KeptR s (execAndn op s) := disScalar_kept
theorem execShl_kept {op : DisOp} {s : State} : KeptR s (execShl op s) := disScalar_kept
theorem execShr_kept {op : DisOp} {s : State} : KeptR s (execShr op s) := disScalar_kept
theorem execSar_kept {op : DisOp} {s : State} : KeptR s (execSar op s) := disScalar_kept
theorem execRol_kept {op : DisOp} {s : State} : KeptR s (execRol op s) := disScalar_kept
theorem execRor_kept {op : DisOp} {s : State} : KeptR s (execRor op s) := disScalar_kept
theorem execPopc_kept {op : DisOp} {s : State} : KeptR s (execPopc op s) := disScalar_kept
theorem execClz_kept {op : DisOp} {s : State} : KeptR s (execClz op s) := disScalar_kept
theorem execCtz_kept {op : DisOp} {s : State} : KeptR s (execCtz op s) := disScalar_kept
theorem execBswap_kept {op : DisOp} {s : State} : KeptR s (execBswap op s) := disScalar_kept
theorem execSext_kept {op : DisOp} {s : State} : KeptR s (execSext op s) := disScalar_kept
theorem execZext_kept {op : DisOp} {s : State} : KeptR s (execZext op s) := disScalar_kept
theorem execEq_kept {op : DisOp} {s : State} : KeptR s (execEq op s) := disScalar_kept
theorem execNe_kept {op : DisOp} {s : State} : KeptR s (execNe op s) := disScalar_kept
theorem execLt_kept {op : DisOp} {s : State} : KeptR s (execLt op s) := disScalar_kept
theorem execLe_kept {op : DisOp} {s : State} : KeptR s (execLe op s) := disScalar_kept
theorem execGt_kept {op : DisOp} {s : State} : KeptR s (execGt op s) := disScalar_kept
theorem execGe_kept {op : DisOp} {s : State} : KeptR s (execGe op s) := disScalar_kept
theorem execLtu_kept {op : DisOp} {s : State} : KeptR s (execLtu op s) := disScalar_kept
theorem execLeu_kept {op : DisOp} {s : State} : KeptR s (execLeu op s) := disScalar_kept
theorem execGtu_kept {op : DisOp} {s : State} : KeptR s (execGtu op s) := disScalar_kept
theorem execGeu_kept {op : DisOp} {s : State} : KeptR s (execGeu op s) := disScalar_kept
theorem execCmp_kept {op : DisOp} {s : State} : KeptR s (execCmp op s) := disScalar_kept
theorem execTst_kept {op : DisOp} {s : State} : KeptR s (execTst op s) := disScalar_kept
theorem execSel_kept {op : DisOp} {s : State} : KeptR s (execSel op s) := disScalar_kept
theorem execRdrc_kept {op : DisOp} {s : State} : KeptR s (execRdrc op s) := disScalar_kept
theorem execWrrc_kept {op : DisOp} {s : State} : KeptR s (execWrrc op s) := disScalar_kept
theorem execRdfl_kept {op : DisOp} {s : State} : KeptR s (execRdfl op s) := disScalar_kept
theorem execWrfl_kept {op : DisOp} {s : State} : KeptR s (execWrfl op s) := disScalar_kept
theorem execRet_kept {op : DisOp} {s : State} : KeptR s (execRet op s) := disScalar_kept
theorem execJmp_kept {op : DisOp} {s : State} : KeptR s (execJmp op s) := disScalar_kept
theorem execCalli_kept {op : DisOp} {s : State} : KeptR s (execCalli op s) := disTurret_kept
theorem execRdsp_kept {op : DisOp} {s : State} : KeptR s (execRdsp op s) := disRun_kept rdspBody_kept KeptS.none
theorem execBrk_kept {op : DisOp} {s : State} : KeptR s (execBrk op s) := disRun_kept brkBody_kept KeptS.none
theorem execPushi_kept {op : DisOp} {imm : Imm} {s : State} : KeptR s (execPushi op imm s) := disScalarImm_kept
theorem execPushu_kept {op : DisOp} {imm : Imm} {s : State} : KeptR s (execPushu op imm s) := disScalarImm_kept
theorem execAddi_kept {op : DisOp} {imm : Imm} {s : State} : KeptR s (execAddi op imm s) := disScalarImm_kept
theorem execAndi_kept {op : DisOp} {imm : Imm} {s : State} : KeptR s (execAndi op imm s) := disScalarImm_kept
theorem execOri_kept {op : DisOp} {imm : Imm} {s : State} : KeptR s (execOri op imm s) := disScalarImm_kept
theorem execBr_kept {op : DisOp} {imm : Imm} {s : State} : KeptR s (execBr op imm s) := disScalarImm_kept
theorem execBz_kept {op : DisOp} {imm : Imm} {s : State} : KeptR s (execBz op imm s) := disScalarImm_kept
theorem execBnz_kept {op : DisOp} {imm : Imm} {s : State} : KeptR s (execBnz op imm s) := disScalarImm_kept
theorem execCall_kept {op : DisOp} {imm : Imm} {s : State} : KeptR s (execCall op imm s) := disScalarImm_kept
theorem execLoop_kept {op : DisOp} {imm : Imm} {s : State} : KeptR s (execLoop op imm s) := disScalarImm_kept
theorem execLd_kept {op : DisOp} {s : State} : KeptR s (execLd op s) := disRun_kept loadBody_kept KeptS.none
theorem execLds_kept {op : DisOp} {s : State} : KeptR s (execLds op s) := disRun_kept loadBody_kept KeptS.none
theorem execSt_kept {op : DisOp} {s : State} : KeptR s (execSt op s) := disRun_kept storeBody_kept KeptS.none
theorem execLdl_kept {op : DisOp} {r : Fin 4} {s : State} : KeptR s (execLdl op r s) := by
  unfold execLdl
  split
  · refine turretRun_kept ?_
    exact ldlBody_kept
  · exact spireRun_kept KeptS.none
theorem execLwait_kept {op : DisOp} {s : State} : KeptR s (execLwait op s) := disLong_kept lwaitBody_kept
theorem execFence_kept {op : DisOp} {s : State} : KeptR s (execFence op s) := disRun_kept fenceBody_kept KeptS.none
theorem execSwapm_kept {op : DisOp} {s : State} : KeptR s (execSwapm op s) := disRun_kept atBody_kept KeptS.none
theorem execCasm_kept {op : DisOp} {s : State} : KeptR s (execCasm op s) := disRun_kept atBody_kept KeptS.none
theorem execAddm_kept {op : DisOp} {s : State} : KeptR s (execAddm op s) := disRun_kept atBody_kept KeptS.none
theorem execAndm_kept {op : DisOp} {s : State} : KeptR s (execAndm op s) := disRun_kept atBody_kept KeptS.none
theorem execOrm_kept {op : DisOp} {s : State} : KeptR s (execOrm op s) := disRun_kept atBody_kept KeptS.none
theorem execXorm_kept {op : DisOp} {s : State} : KeptR s (execXorm op s) := disRun_kept atBody_kept KeptS.none
theorem execLda_kept {op : DisOp} {s : State} : KeptR s (execLda op s) := disRun_kept anLoadBody_kept KeptS.none
theorem execLdaPostmod_kept {op : DisOp} {s : State} : KeptR s (execLdaPostmod op s) := disRun_kept anLoadBody_kept KeptS.none
theorem execLdsa_kept {op : DisOp} {s : State} : KeptR s (execLdsa op s) := disRun_kept anLoadBody_kept KeptS.none
theorem execLdsaPostmod_kept {op : DisOp} {s : State} : KeptR s (execLdsaPostmod op s) := disRun_kept anLoadBody_kept KeptS.none
theorem execSta_kept {op : DisOp} {s : State} : KeptR s (execSta op s) := disRun_kept anStoreBody_kept KeptS.none
theorem execStaPostmod_kept {op : DisOp} {s : State} : KeptR s (execStaPostmod op s) := disRun_kept anStoreBody_kept KeptS.none
theorem execAnld_kept {op : DisOp} {s : State} : KeptR s (execAnld op s) := disRun_kept anldBody_kept KeptS.none
theorem execAnoff_kept {op : DisOp} {s : State} : KeptR s (execAnoff op s) := disRun_kept anoffBody_kept KeptS.none
theorem execAnrd_kept {op : DisOp} {s : State} : KeptR s (execAnrd op s) := disRun_kept anrdBody_kept KeptS.none
theorem execAnadr_kept {op : DisOp} {s : State} : KeptR s (execAnadr op s) := disRun_kept anadrBody_kept KeptS.none
theorem execAnstep_kept {op : DisOp} {s : State} : KeptR s (execAnstep op s) := disRun_kept anstepBody_kept KeptS.none
theorem execMovb_kept {op : DisOp} {s : State} : KeptR s (execMovb op s) := disLong_kept longBody_kept
theorem execFillb_kept {op : DisOp} {s : State} : KeptR s (execFillb op s) := disLong_kept longBody_kept
theorem execCrcb_kept {op : DisOp} {s : State} : KeptR s (execCrcb op s) := disLong_kept longBody_kept
theorem execCmpb_kept {op : DisOp} {s : State} : KeptR s (execCmpb op s) := disLong_kept longBody_kept
theorem execLdd_kept {op : DisOp} {imm : Imm} {s : State} : KeptR s (execLdd op imm s) := disImm_kept anLoadBody_kept KeptS.none
theorem execStd_kept {op : DisOp} {imm : Imm} {s : State} : KeptR s (execStd op imm s) := disImm_kept anStoreBody_kept KeptS.none
theorem execSyncI_kept {op : DisOp} {s : State} : KeptR s (execSyncI op s) := disRun_kept syncIBody_kept KeptS.none
theorem execSyncC_kept {op : DisOp} {s : State} : KeptR s (execSyncC op s) := disRun_kept syncCBody_kept KeptS.none
theorem execGate_kept {op : DisOp} {s : State} : KeptR s (execGate op s) := disRun_kept gateBody_kept KeptS.none
theorem execRete_kept {op : DisOp} {s : State} : KeptR s (execRete op s) := disRun_kept reteBody_kept KeptS.none
theorem execCsw_kept {op : DisOp} {s : State} : KeptR s (execCsw op s) := disRun_kept cswBody_kept KeptS.none
theorem execWait_kept {op : DisOp} {s : State} : KeptR s (execWait op s) := disRun_kept waitBody_kept KeptS.none
theorem execChkst_kept {op : DisOp} {s : State} : KeptR s (execChkst op s) := by
  unfold execChkst
  split
  · refine turretRun_kept ?_
    exact chkstBody_kept
  · exact spireRun_kept KeptS.none
theorem execBankrd_kept {op : DisOp} {s : State} : KeptR s (execBankrd op s) := disRun_kept bankrdBody_kept KeptS.none
theorem execBankwr_kept {op : DisOp} {s : State} : KeptR s (execBankwr op s) := disRun_kept bankwrBody_kept KeptS.none
theorem execMfcr_kept {op : DisOp} {reg : BitVec 8} {s : State} : KeptR s (execMfcr op reg s) := disReg_kept mfcrBody_kept
theorem execMtcr_kept {op : DisOp} {reg : BitVec 8} {s : State} : KeptR s (execMtcr op reg s) := by
  unfold execMtcr
  split
  · refine turretRun_kept ?_
    exact mtcrBody_kept
  · exact spireRun_kept KeptS.none
theorem execDadd_kept {op : DisOp} {s : State} : KeptR s (execDadd op s) := disRun_kept decBody_kept KeptS.none
theorem execDsub_kept {op : DisOp} {s : State} : KeptR s (execDsub op s) := disRun_kept decBody_kept KeptS.none
theorem execDchk_kept {op : DisOp} {s : State} : KeptR s (execDchk op s) := disRun_kept decBody_kept KeptS.none
theorem execDtob_kept {op : DisOp} {s : State} : KeptR s (execDtob op s) := disRun_kept decBody_kept KeptS.none
theorem execBtod_kept {op : DisOp} {s : State} : KeptR s (execBtod op s) := disRun_kept decBody_kept KeptS.none
theorem execFadd_kept {op : DisOp} {s : State} : KeptR s (execFadd op s) := disRun_kept fltBody_kept KeptS.none
theorem execFsub_kept {op : DisOp} {s : State} : KeptR s (execFsub op s) := disRun_kept fltBody_kept KeptS.none
theorem execFmul_kept {op : DisOp} {s : State} : KeptR s (execFmul op s) := disRun_kept fltBody_kept KeptS.none
theorem execFdiv_kept {op : DisOp} {s : State} : KeptR s (execFdiv op s) := disRun_kept fltBody_kept KeptS.none
theorem execFsqrt_kept {op : DisOp} {s : State} : KeptR s (execFsqrt op s) := disRun_kept fltBody_kept KeptS.none
theorem execFma_kept {op : DisOp} {s : State} : KeptR s (execFma op s) := disRun_kept fltBody_kept KeptS.none
theorem execFmin_kept {op : DisOp} {s : State} : KeptR s (execFmin op s) := disRun_kept fltBody_kept KeptS.none
theorem execFmax_kept {op : DisOp} {s : State} : KeptR s (execFmax op s) := disRun_kept fltBody_kept KeptS.none
theorem execFeq_kept {op : DisOp} {s : State} : KeptR s (execFeq op s) := disRun_kept fltBody_kept KeptS.none
theorem execFlt_kept {op : DisOp} {s : State} : KeptR s (execFlt op s) := disRun_kept fltBody_kept KeptS.none
theorem execFle_kept {op : DisOp} {s : State} : KeptR s (execFle op s) := disRun_kept fltBody_kept KeptS.none
theorem execFneg_kept {op : DisOp} {s : State} : KeptR s (execFneg op s) := disRun_kept fltBody_kept KeptS.none
theorem execFabs_kept {op : DisOp} {s : State} : KeptR s (execFabs op s) := disRun_kept fltBody_kept KeptS.none
theorem execFclass_kept {op : DisOp} {s : State} : KeptR s (execFclass op s) := disRun_kept fltBody_kept KeptS.none
theorem execFcvtI_kept {op : DisOp} {s : State} : KeptR s (execFcvtI op s) := disRun_kept fltBody_kept KeptS.none
theorem execFcvtF_kept {op : DisOp} {s : State} : KeptR s (execFcvtF op s) := disRun_kept fltBody_kept KeptS.none
theorem execFwiden_kept {op : DisOp} {s : State} : KeptR s (execFwiden op s) := disRun_kept fltBody_kept KeptS.none
theorem execFnarrow_kept {op : DisOp} {s : State} : KeptR s (execFnarrow op s) := disRun_kept fltBody_kept KeptS.none
theorem execVdld_kept {op : DisOp} {s : State} : KeptR s (execVdld op s) := disVec_kept vdldS_kept
theorem execVdst_kept {op : DisOp} {s : State} : KeptR s (execVdst op s) := disVec_kept vdstS_kept
theorem execVddrop_kept {op : DisOp} {s : State} : KeptR s (execVddrop op s) := disVec_kept vddropS_kept
theorem execVddup_kept {op : DisOp} {s : State} : KeptR s (execVddup op s) := disVec_kept vddupS_kept
theorem execVdswap_kept {op : DisOp} {s : State} : KeptR s (execVdswap op s) := disVec_kept vdswapS_kept
theorem execVgo_kept {op : DisOp} {s : State} : KeptR s (execVgo op s) := disVec_kept vgoS_kept
theorem execVwait_kept {op : DisOp} {s : State} : KeptR s (execVwait op s) := disVec_kept vwaitS_kept
theorem execVend_kept {op : DisOp} {s : State} : KeptR s (execVend op s) := disVec_kept vendS_kept
theorem execVldc_kept {op : DisOp} {s : State} : KeptR s (execVldc op s) := disVec_kept vldcS_kept
theorem execVstc_kept {op : DisOp} {s : State} : KeptR s (execVstc op s) := disVec_kept vstcS_kept
theorem execVcget_kept {op : DisOp} {s : State} : KeptR s (execVcget op s) := by
  unfold execVcget
  split
  · refine turretRun_kept ?_
    exact vecIllegal_kept
  · exact spireRun_kept (KeptS.some vcgetS_kept)
theorem execVcput_kept {op : DisOp} {s : State} : KeptR s (execVcput op s) := disVec_kept vcputS_kept
theorem execVmbring_kept {op : DisOp} {s : State} : KeptR s (execVmbring op s) := disVec_kept vmbringS_kept
theorem execVmbwait_kept {op : DisOp} {s : State} : KeptR s (execVmbwait op s) := disVec_kept vmbwaitS_kept
theorem execVonf_kept {op : DisOp} {s : State} : KeptR s (execVonf op s) := disVec_kept vonfS_kept
theorem execVfrec_kept {op : DisOp} {s : State} : KeptR s (execVfrec op s) := disVec_kept vfrecS_kept
theorem execVfdesc_kept {op : DisOp} {s : State} : KeptR s (execVfdesc op s) := disVec_kept vfdescS_kept
theorem execVresume_kept {op : DisOp} {s : State} : KeptR s (execVresume op s) := disVec_kept vresumeS_kept
theorem execVdget_kept {op : DisOp} {field : BitVec 8} {s : State} : KeptR s (execVdget op field s) := disField_kept vdgetS_kept
theorem execVdset_kept {op : DisOp} {field : BitVec 8} {s : State} : KeptR s (execVdset op field s) := disField_kept vdsetS_kept
theorem execVadd_kept {op : DisOp} {s : State} : KeptR s (execVadd op s) := disElem_kept
theorem execVsub_kept {op : DisOp} {s : State} : KeptR s (execVsub op s) := disElem_kept
theorem execVadds_kept {op : DisOp} {s : State} : KeptR s (execVadds op s) := disElem_kept
theorem execVsubs_kept {op : DisOp} {s : State} : KeptR s (execVsubs op s) := disElem_kept
theorem execVaddus_kept {op : DisOp} {s : State} : KeptR s (execVaddus op s) := disElem_kept
theorem execVsubus_kept {op : DisOp} {s : State} : KeptR s (execVsubus op s) := disElem_kept
theorem execVmin_kept {op : DisOp} {s : State} : KeptR s (execVmin op s) := disElem_kept
theorem execVmax_kept {op : DisOp} {s : State} : KeptR s (execVmax op s) := disElem_kept
theorem execVminu_kept {op : DisOp} {s : State} : KeptR s (execVminu op s) := disElem_kept
theorem execVmaxu_kept {op : DisOp} {s : State} : KeptR s (execVmaxu op s) := disElem_kept
theorem execVand_kept {op : DisOp} {s : State} : KeptR s (execVand op s) := disElem_kept
theorem execVor_kept {op : DisOp} {s : State} : KeptR s (execVor op s) := disElem_kept
theorem execVxor_kept {op : DisOp} {s : State} : KeptR s (execVxor op s) := disElem_kept
theorem execVandn_kept {op : DisOp} {s : State} : KeptR s (execVandn op s) := disElem_kept
theorem execVnot_kept {op : DisOp} {s : State} : KeptR s (execVnot op s) := disElem_kept
theorem execVpopc_kept {op : DisOp} {s : State} : KeptR s (execVpopc op s) := disElem_kept
theorem execVshl_kept {op : DisOp} {s : State} : KeptR s (execVshl op s) := disElem_kept
theorem execVshr_kept {op : DisOp} {s : State} : KeptR s (execVshr op s) := disElem_kept
theorem execVsar_kept {op : DisOp} {s : State} : KeptR s (execVsar op s) := disElem_kept
theorem execVrol_kept {op : DisOp} {s : State} : KeptR s (execVrol op s) := disElem_kept
theorem execVror_kept {op : DisOp} {s : State} : KeptR s (execVror op s) := disElem_kept
theorem execVcmpeq_kept {op : DisOp} {s : State} : KeptR s (execVcmpeq op s) := disElem_kept
theorem execVcmpne_kept {op : DisOp} {s : State} : KeptR s (execVcmpne op s) := disElem_kept
theorem execVcmplt_kept {op : DisOp} {s : State} : KeptR s (execVcmplt op s) := disElem_kept
theorem execVcmpltu_kept {op : DisOp} {s : State} : KeptR s (execVcmpltu op s) := disElem_kept
theorem execVsel_kept {op : DisOp} {s : State} : KeptR s (execVsel op s) := disElem_kept
theorem execVcopy_kept {op : DisOp} {s : State} : KeptR s (execVcopy op s) := disElem_kept
theorem execVfill_kept {op : DisOp} {s : State} : KeptR s (execVfill op s) := disElem_kept
theorem execVperm_kept {op : DisOp} {s : State} : KeptR s (execVperm op s) := disElem_kept
theorem execVgfmul_kept {op : DisOp} {s : State} : KeptR s (execVgfmul op s) := disElem_kept
theorem execVgfmuls_kept {op : DisOp} {s : State} : KeptR s (execVgfmuls op s) := disElem_kept
theorem execVgfmac_kept {op : DisOp} {s : State} : KeptR s (execVgfmac op s) := disElem_kept
theorem execVgfinv_kept {op : DisOp} {s : State} : KeptR s (execVgfinv op s) := disElem_kept
theorem execVgfmatx_kept {op : DisOp} {s : State} : KeptR s (execVgfmatx op s) := disElem_kept
theorem execVbfly_kept {op : DisOp} {s : State} : KeptR s (execVbfly op s) := disElem_kept
theorem execVibfly_kept {op : DisOp} {s : State} : KeptR s (execVibfly op s) := disElem_kept
theorem execVpmul_kept {op : DisOp} {s : State} : KeptR s (execVpmul op s) := disElem_kept
theorem execVcld_kept {op : DisOp} {s : State} : KeptR s (execVcld op s) := disElem_kept
theorem execVcrd_kept {op : DisOp} {s : State} : KeptR s (execVcrd op s) := disElem_kept
theorem execVcrc32c_kept {op : DisOp} {s : State} : KeptR s (execVcrc32c op s) := disElem_kept
theorem execVcrc64_kept {op : DisOp} {s : State} : KeptR s (execVcrc64 op s) := disElem_kept
theorem execVsha256_kept {op : DisOp} {s : State} : KeptR s (execVsha256 op s) := disElem_kept
theorem execVghash_kept {op : DisOp} {s : State} : KeptR s (execVghash op s) := disElem_kept
theorem execVaesx_kept {op : DisOp} {s : State} : KeptR s (execVaesx op s) := disElem_kept
theorem execVaesg_kept {op : DisOp} {s : State} : KeptR s (execVaesg op s) := disElem_kept
theorem execVrxor_kept {op : DisOp} {s : State} : KeptR s (execVrxor op s) := disElem_kept
theorem execVradd_kept {op : DisOp} {s : State} : KeptR s (execVradd op s) := disElem_kept
theorem execVrfmis_kept {op : DisOp} {s : State} : KeptR s (execVrfmis op s) := disElem_kept
theorem execVrnz_kept {op : DisOp} {s : State} : KeptR s (execVrnz op s) := disElem_kept

end Sys2Proof.Laws
end

