-- ==== Sys2Proof/Laws/KeepImage.lean ====
section
/-! SUPPORT. What the operations of Machine/Image.lean leave alone (Laws/Kept.lean). -/
namespace Sys2Proof.Laws
set_option linter.unusedTactic false
set_option linter.unreachableTactic false
open Sys2Proof.Machine
theorem loadBytes_kept {s : State} {a : Nat} {d : List Byte} {n : Nat} : Kept s (loadBytes s a d n).1 := by
  induction n generalizing s a d with
  | zero => exact Kept.refl
  | succ n ih =>
    unfold loadBytes
    dsimp only
    split
    · exact Kept.refl
    · split
      · exact busWrite_kept.trans ih
      · exact busWrite_kept
theorem keepPut_kept {s : State} {a : Nat} {v : Nat} : Kept s (keepPut s a v).1 := by
  unfold keepPut
  (try simp only [])
  repeat' first
    | with_reducible apply Kept.ite ?_ ?_
    | with_reducible exact Kept.refl
    | with_reducible apply Kept.trans ?_ busWrite_kept
    | (with_reducible apply Kept.foldl ?_ ?_; intro x a; (try simp only []))
    | simp only [mk_kept_iff]
    | split
theorem keepGet_kept {s : State} {a : Nat} : Kept s (keepGet s a).1 := by
  unfold keepGet
  (try simp only [])
  repeat' first
    | with_reducible apply Kept.ite ?_ ?_
    | with_reducible exact Kept.refl
    | with_reducible apply Kept.trans ?_ busRead_kept
    | (with_reducible apply Kept.foldl ?_ ?_; intro x a; (try simp only []))
    | simp only [mk_kept_iff]
    | split
theorem keepPut2_kept {s : State} {a : Nat} {v : Nat} {w : Nat} : Kept s (keepPut2 s a v w).1 := by
  unfold keepPut2
  (try simp only [])
  repeat' first
    | with_reducible apply Kept.ite ?_ ?_
    | with_reducible exact Kept.refl
    | with_reducible apply Kept.trans ?_ keepPut_kept
    | (with_reducible apply Kept.foldl ?_ ?_; intro x a; (try simp only []))
    | simp only [mk_kept_iff]
    | split
theorem tabEntry_kept {m : Image} {s : State} {polls : List Bool} {e : List Byte} : Kept s (tabEntry m s polls e).1 := by
  unfold tabEntry
  dsimp only
  split
  · exact keepPut_kept
  · split
    · exact keepGet_kept.trans keepPut_kept
    · exact keepGet_kept
  · exact keepGet_kept
  · exact Kept.refl
  · exact keepPut2_kept
  · split
    · exact loadBytes_kept
    · exact Kept.refl
  · exact Kept.refl
theorem tabRun_kept {m : Image} {cold : Bool} {s : State} {polls : List Bool} {done did : List Byte} {l : List (List Byte)} :
    Kept s (tabRun m cold s polls done did l).1 := by
  induction l generalizing s polls done did with
  | nil => exact Kept.refl
  | cons e t ih =>
    unfold tabRun
    dsimp only
    split
    · exact Kept.refl
    · split
      · exact ih
      · split
        · exact tabEntry_kept.trans ih
        · exact tabEntry_kept
theorem putHash_kept {s : State} {page : Nat} {off : Nat} {h : List Byte} : Kept s (putHash s page off h) := by
  unfold putHash
  (try simp only [])
  repeat' first
    | with_reducible apply Kept.ite ?_ ?_
    | with_reducible exact Kept.refl
    | with_reducible apply Kept.trans ?_ setReg_kept
    | (with_reducible apply Kept.foldl ?_ ?_; intro x a; (try simp only []))
    | simp only [mk_kept_iff]
    | split
theorem linkFillAll_kept {s : State} {prog : List Nat} {ver : Nat} : Kept s (linkFillAll s prog ver) := by
  unfold linkFillAll
  (try simp only [])
  repeat' first
    | with_reducible apply Kept.ite ?_ ?_
    | with_reducible exact Kept.refl
    | with_reducible apply Kept.trans ?_ State_setRegF_kept
    | with_reducible apply Kept.trans ?_ setReg_kept
    | with_reducible apply Kept.trans ?_ linkFill_kept
    | (with_reducible apply Kept.foldl ?_ ?_; intro x a; (try simp only []))
    | simp only [mk_kept_iff]
    | split
theorem imageUse_kept {s : State} {u : List Byte × Nat} {l : List Nat × Nat} {tab : List Byte} : Kept s (imageUse s u l tab) := by
  unfold imageUse
  (try simp only [])
  repeat' first
    | with_reducible apply Kept.ite ?_ ?_
    | with_reducible exact Kept.refl
    | (with_reducible apply Kept.foldl ?_ ?_; intro x a; (try simp only []))
    | simp only [mk_kept_iff]
    | split
theorem linkFillOk_kept {s : State} {x1 : Option (List Nat × Nat)} : Kept s (linkFillOk s x1) := by
  unfold linkFillOk
  (try simp only [])
  repeat' first
    | with_reducible apply Kept.ite ?_ ?_
    | with_reducible exact Kept.refl
    | with_reducible apply Kept.trans ?_ linkFillAll_kept
    | (with_reducible apply Kept.foldl ?_ ?_; intro x a; (try simp only []))
    | simp only [mk_kept_iff]
    | split
theorem imageApply_kept {s : State} {m : Image} {cold : Bool} {polls : List Bool} : Kept s (imageApply s m cold polls).1 := by
  unfold imageApply
  generalize chunks 16 65536 (m.first 1) = cs
  dsimp only
  have h : Kept s (tabRun m cold (linkFillOk s (linkProgram s m)) polls [] [] cs).1 := linkFillOk_kept.trans tabRun_kept
  generalize tabRun m cold (linkFillOk s (linkProgram s m)) polls [] [] cs = r at h ⊢
  split
  · exact (h.trans (imageUse_kept.trans putHash_kept)).trans setReg_kept
  · exact h
end Sys2Proof.Laws
end

