-- ==== Sys2Proof/Laws/KeepFaultRows.lean ====
section
/-! SUPPORT. What the operations of Machine/FaultRows.lean leave alone (Laws/Kept.lean). -/
namespace Sys2Proof.Laws
set_option linter.unusedTactic false
set_option linter.unreachableTactic false
open Sys2Proof.Machine
theorem routeAction_kept {s : State} {c : Nat} {late : Bool} : Kept s (routeAction s c late) := by
  unfold routeAction
  (try simp only [])
  repeat' first
    | rfl
    | with_reducible apply Kept.ite ?_ ?_
    | with_reducible exact Kept.refl
    | with_reducible apply Kept.trans ?_ heartbeat_kept
    | with_reducible apply Kept.trans ?_ (State_setCup_kept ?_)
    | with_reducible apply Kept.trans ?_ pwrFire_kept
    | (with_reducible apply Kept.foldl ?_ ?_; intro x a; (try simp only []))
    | simp only [mk_kept_iff]
    | split
theorem comparatorFire_kept {s : State} {c : Nat} : Kept s (comparatorFire s c) := by
  unfold comparatorFire
  (try simp only [])
  repeat' first
    | with_reducible apply Kept.ite ?_ ?_
    | with_reducible exact Kept.refl
    | with_reducible apply Kept.trans ?_ routeAction_kept
    | with_reducible apply Kept.trans ?_ bcmpFired_kept
    | (with_reducible apply Kept.foldl ?_ ?_; intro x a; (try simp only []))
    | simp only [mk_kept_iff]
    | split
theorem execComparatorFire_kept {c : Fin 64} {s : State} : KeptR s (execComparatorFire c s) := by
  unfold execComparatorFire
  (try simp only [])
  repeat' first
    | with_reducible exact KeptR.fault
    | with_reducible apply KeptR.ok
    | with_reducible apply KeptR.okIf
    | with_reducible apply KeptR.ite ?_ ?_
    | with_reducible apply Kept.ite ?_ ?_
    | with_reducible exact Kept.refl
    | with_reducible apply Kept.trans ?_ comparatorFire_kept
    | (with_reducible apply Kept.foldl ?_ ?_; intro x a; (try simp only []))
    | simp only [mk_kept_iff]
    | split
theorem innerUpset_kept {s : State} {x1 : InnerUpset} : Kept s (innerUpset s x1) := by
  unfold innerUpset
  (try simp only [])
  repeat' first
    | with_reducible apply Kept.ite ?_ ?_
    | with_reducible exact Kept.refl
    | with_reducible apply Kept.trans ?_ State_correctable_kept
    | with_reducible apply Kept.trans ?_ routeUpset_kept
    | with_reducible apply Kept.trans ?_ messageUpset_kept
    | (with_reducible apply Kept.foldl ?_ ?_; intro x a; (try simp only []))
    | simp only [mk_kept_iff]
    | split
theorem execSynchronousTick_kept {faults : List InnerUpset} {s : State} : KeptR s (execSynchronousTick faults s) := by
  unfold execSynchronousTick
  (try simp only [])
  repeat' first
    | with_reducible exact KeptR.fault
    | with_reducible apply KeptR.ok
    | with_reducible apply KeptR.okIf
    | with_reducible apply KeptR.ite ?_ ?_
    | with_reducible apply Kept.ite ?_ ?_
    | with_reducible exact Kept.refl
    | with_reducible apply Kept.trans ?_ innerUpset_kept
    | with_reducible apply Kept.trans ?_ syncTick_kept
    | (with_reducible apply Kept.foldl ?_ ?_; intro x a; (try simp only []))
    | simp only [mk_kept_iff]
    | split
theorem turLasting_kept {s : State} {n : Fin 8} : Kept s (turLasting s n) := by
  unfold turLasting
  (try simp only [])
  repeat' first
    | with_reducible apply Kept.ite ?_ ?_
    | with_reducible exact Kept.refl
    | with_reducible apply Kept.trans ?_ pairOffline_kept
    | with_reducible apply Kept.trans ?_ State_setRegF_kept
    | with_reducible apply Kept.trans ?_ State_setDom_kept
    | with_reducible apply Kept.trans ?_ turOff_kept
    | with_reducible apply Kept.trans ?_ sideReset_kept
    | (with_reducible apply Kept.foldl ?_ ?_; intro x a; (try simp only []))
    | simp only [mk_kept_iff]
    | split
theorem tableAgain_kept {page : Nat} {s : State} {e : List Byte} : Kept s (tableAgain page s e) := by
  unfold tableAgain
  (try simp only [])
  repeat' first
    | with_reducible apply Kept.ite ?_ ?_
    | with_reducible exact Kept.refl
    | with_reducible apply Kept.trans ?_ linkWrite_kept
    | (with_reducible apply Kept.foldl ?_ ?_; intro x a; (try simp only []))
    | simp only [mk_kept_iff]
    | split
theorem tablesReload_kept {s : State} {page : Nat} : Kept s (tablesReload s page) := by
  unfold tablesReload
  (try simp only [])
  repeat' first
    | with_reducible apply Kept.ite ?_ ?_
    | with_reducible exact Kept.refl
    | with_reducible apply Kept.trans ?_ tableAgain_kept
    | with_reducible apply Kept.trans ?_ linkFill_kept
    | (with_reducible apply Kept.foldl ?_ ?_; intro x a; (try simp only []))
    | simp only [mk_kept_iff]
    | split
theorem lastingAction_kept {s : State} {page : Nat} : Kept s (lastingAction s page) := by
  unfold lastingAction
  (try simp only [])
  repeat' first
    | with_reducible apply Kept.ite ?_ ?_
    | with_reducible exact Kept.refl
    | with_reducible apply Kept.trans ?_ spareLasting_kept
    | with_reducible apply Kept.trans ?_ State_fenceSpire_kept
    | with_reducible apply Kept.trans ?_ turLasting_kept
    | with_reducible apply Kept.trans ?_ pairOffline_kept
    | with_reducible apply Kept.trans ?_ portLasting_kept
    | with_reducible apply Kept.trans ?_ linkLasting_kept
    | with_reducible apply Kept.trans ?_ tablesReload_kept
    | (with_reducible apply Kept.foldl ?_ ?_; intro x a; (try simp only []))
    | simp only [mk_kept_iff]
    | split
theorem lastingFault_kept {s : State} {page : Nat} : Kept s (lastingFault s page) := by
  unfold lastingFault
  (try simp only [])
  repeat' first
    | with_reducible apply Kept.ite ?_ ?_
    | with_reducible exact Kept.refl
    | with_reducible apply Kept.trans ?_ selfStopTest_kept
    | with_reducible apply Kept.trans ?_ lastingAction_kept
    | with_reducible apply Kept.trans ?_ declareLog_kept
    | (with_reducible apply Kept.foldl ?_ ?_; intro x a; (try simp only []))
    | simp only [mk_kept_iff]
    | split
theorem execLastingFaultDeclaration_kept {page : BitVec 12} {s : State} : KeptR s (execLastingFaultDeclaration page s) := by
  unfold execLastingFaultDeclaration
  (try simp only [])
  repeat' first
    | with_reducible exact KeptR.fault
    | with_reducible apply KeptR.ok
    | with_reducible apply KeptR.okIf
    | with_reducible apply KeptR.ite ?_ ?_
    | with_reducible apply Kept.ite ?_ ?_
    | with_reducible exact Kept.refl
    | with_reducible apply Kept.trans ?_ entryGo_kept
    | with_reducible apply Kept.trans ?_ lastingFault_kept
    | (with_reducible apply Kept.foldl ?_ ?_; intro x a; (try simp only []))
    | simp only [mk_kept_iff]
    | split
end Sys2Proof.Laws
end

