-- ==== Sys2Proof/Laws/KeepStartup.lean ====
section
/-! SUPPORT. What the operations of Machine/Startup.lean leave alone (Laws/Kept.lean). -/
namespace Sys2Proof.Laws
set_option linter.unusedTactic false
set_option linter.unreachableTactic false
open Sys2Proof.Machine
theorem State_setBoot_kept {s : State} {b : Boot} : Kept s (State.setBoot s b) := by
  unfold State.setBoot
  (try simp only [])
  repeat' first
    | with_reducible apply Kept.ite ?_ ?_
    | with_reducible exact Kept.refl
    | (with_reducible apply Kept.foldl ?_ ?_; intro x a; (try simp only []))
    | simp only [mk_kept_iff]
    | split
theorem bootErr_kept {s : State} {e : Nat} : Kept s (bootErr s e) := by
  unfold bootErr
  (try simp only [])
  repeat' first
    | with_reducible apply Kept.ite ?_ ?_
    | with_reducible exact Kept.refl
    | with_reducible apply Kept.trans ?_ State_irqBit_kept
    | with_reducible apply Kept.trans ?_ State_setRegF_kept
    | (with_reducible apply Kept.foldl ?_ ?_; intro x a; (try simp only []))
    | simp only [mk_kept_iff]
    | split
theorem halted_kept {s : State} {e : Nat} : Kept s (halted s e) := by
  unfold halted
  (try simp only [])
  repeat' first
    | with_reducible apply Kept.ite ?_ ?_
    | with_reducible exact Kept.refl
    | with_reducible apply Kept.trans ?_ bootErr_kept
    | with_reducible apply Kept.trans ?_ State_setPhase_kept
    | with_reducible apply Kept.trans ?_ State_setBoot_kept
    | (with_reducible apply Kept.foldl ?_ ?_; intro x a; (try simp only []))
    | simp only [mk_kept_iff]
    | split
theorem armKeep_kept {s : State} : Kept s (armKeep s) := by
  unfold armKeep
  (try simp only [])
  repeat' first
    | with_reducible apply Kept.ite ?_ ?_
    | with_reducible exact Kept.refl
    | with_reducible apply Kept.trans ?_ setReg_kept
    | with_reducible apply Kept.trans ?_ State_setBcmpTarget_kept
    | (with_reducible apply Kept.foldl ?_ ?_; intro x a; (try simp only []))
    | simp only [mk_kept_iff]
    | split
theorem startEarly_kept {s : State} : Kept s (startEarly s) := by
  unfold startEarly
  (try simp only [])
  repeat' first
    | with_reducible apply Kept.ite ?_ ?_
    | with_reducible exact Kept.refl
    | with_reducible apply Kept.trans ?_ State_setPhase_kept
    | with_reducible apply Kept.trans ?_ armKeep_kept
    | with_reducible apply Kept.trans ?_ State_setDom_kept
    | (with_reducible apply Kept.foldl ?_ ?_; intro x a; (try simp only []))
    | simp only [mk_kept_iff]
    | split
theorem recoveryPorts_kept {s : State} : Kept s (recoveryPorts s) := by
  unfold recoveryPorts
  (try simp only [])
  repeat' first
    | with_reducible apply Kept.ite ?_ ?_
    | with_reducible exact Kept.refl
    | with_reducible apply Kept.trans ?_ setReg_kept
    | with_reducible apply Kept.trans ?_ State_setRegF_kept
    | with_reducible apply Kept.trans ?_ State_setDom_kept
    | (with_reducible apply Kept.foldl ?_ ?_; intro x a; (try simp only []))
    | simp only [mk_kept_iff]
    | split
theorem recoveryEnter_kept {s : State} : Kept s (recoveryEnter s) := by
  unfold recoveryEnter
  (try simp only [])
  repeat' first
    | with_reducible apply Kept.ite ?_ ?_
    | with_reducible exact Kept.refl
    | with_reducible apply Kept.trans ?_ recoveryPorts_kept
    | with_reducible apply Kept.trans ?_ State_setRegF_kept
    | with_reducible apply Kept.trans ?_ State_setPhase_kept
    | with_reducible apply Kept.trans ?_ State_setBankSt_kept
    | with_reducible apply Kept.trans ?_ State_setDom_kept
    | (with_reducible apply Kept.foldl ?_ ?_; intro x a; (try simp only []))
    | simp only [mk_kept_iff]
    | split
theorem noImage_kept {s : State} : Kept s (noImage s) := by
  unfold noImage
  (try simp only [])
  repeat' first
    | with_reducible apply Kept.ite ?_ ?_
    | with_reducible exact Kept.refl
    | with_reducible apply Kept.trans ?_ halted_kept
    | with_reducible apply Kept.trans ?_ recoveryEnter_kept
    | (with_reducible apply Kept.foldl ?_ ?_; intro x a; (try simp only []))
    | simp only [mk_kept_iff]
    | split
theorem loadStores_kept {s : State} {bad : BitVec 8} : Kept s (loadStores s bad) := by
  unfold loadStores
  (try simp only [])
  repeat' first
    | with_reducible apply Kept.ite ?_ ?_
    | with_reducible exact Kept.refl
    | with_reducible apply Kept.trans ?_ State_fenceSpire_kept
    | with_reducible apply Kept.trans ?_ declareLog_kept
    | with_reducible apply Kept.trans ?_ csLoad_kept
    | (with_reducible apply Kept.foldl ?_ ?_; intro x a; (try simp only []))
    | simp only [mk_kept_iff]
    | split
theorem injectAll_kept {s : State} {fails : List (BitVec 8)} : Kept s (injectAll s fails) := by
  unfold injectAll
  (try simp only [])
  repeat' first
    | with_reducible apply Kept.ite ?_ ?_
    | with_reducible exact Kept.refl
    | with_reducible apply Kept.trans ?_ injectEnd_kept
    | with_reducible apply Kept.trans ?_ injectWrite_kept
    | (with_reducible apply Kept.foldl ?_ ?_; intro x a; (try simp only []))
    | simp only [mk_kept_iff]
    | split
theorem trainOne_kept {s : State} {p : Nat} : Kept s (trainOne s p) := by
  unfold trainOne
  (try simp only [])
  repeat' first
    | with_reducible apply Kept.ite ?_ ?_
    | with_reducible exact Kept.refl
    | with_reducible apply Kept.trans ?_ State_setBoot_kept
    | with_reducible apply Kept.trans ?_ State_setMch_kept
    | with_reducible apply Kept.trans ?_ State_setLineErr_kept
    | with_reducible apply Kept.trans ?_ setBytes_kept
    | (with_reducible apply Kept.foldl ?_ ?_; intro x a; (try simp only []))
    | simp only [mk_kept_iff]
    | split
theorem train1_kept {s : State} {fails : BitVec 64} : Kept s (train1 s fails) := by
  unfold train1
  (try simp only [])
  repeat' first
    | with_reducible apply Kept.ite ?_ ?_
    | with_reducible exact Kept.refl
    | with_reducible apply Kept.trans ?_ trainOne_kept
    | with_reducible apply Kept.trans ?_ State_setPhase_kept
    | with_reducible apply Kept.trans ?_ halted_kept
    | (with_reducible apply Kept.foldl ?_ ?_; intro x a; (try simp only []))
    | simp only [mk_kept_iff]
    | split
theorem dropDram_kept {s : State} : Kept s (dropDram s) :=
  ⟨rfl, fun h => swf_filter _ _ h, id, rfl⟩
theorem restore_kept {s : State} {fails : BitVec 64} : Kept s (restore s fails) := by
  unfold restore
  (try simp only [])
  repeat' first
    | with_reducible apply Kept.ite ?_ ?_
    | with_reducible exact Kept.refl
    | with_reducible apply Kept.trans ?_ State_setMch_kept
    | with_reducible apply Kept.trans ?_ State_setPhase_kept
    | with_reducible apply Kept.trans ?_ spareAgain_kept
    | with_reducible apply Kept.trans ?_ train1_kept
    | with_reducible apply Kept.trans ?_ dropDram_kept
    | with_reducible apply Kept.trans ?_ State_setRegF_kept
    | with_reducible apply Kept.trans ?_ bootErr_kept
    | (with_reducible apply Kept.foldl ?_ ?_; intro x a; (try simp only []))
    | simp only [mk_kept_iff]
    | split
theorem startLate_kept {s : State} {kept : Bool} {io : StartIo} : Kept s (startLate s kept io) := by
  unfold startLate
  (try simp only [])
  repeat' first
    | with_reducible apply Kept.ite ?_ ?_
    | with_reducible exact Kept.refl
    | with_reducible apply Kept.trans ?_ injectAll_kept
    | with_reducible apply Kept.trans ?_ loadStores_kept
    | with_reducible apply Kept.trans ?_ State_setPhase_kept
    | with_reducible apply Kept.trans ?_ restore_kept
    | with_reducible apply Kept.trans ?_ train1_kept
    | (with_reducible apply Kept.foldl ?_ ?_; intro x a; (try simp only []))
    | simp only [mk_kept_iff]
    | split
theorem warmKeep_kept {s : State} {vigil kept : Bool} : Kept s (warmKeep s vigil kept) := by
  have k : Kept s ((List.finRange 8).foldl undoRunning (masterLost s)) := Kept.foldl (fun _ _ => undoRunning_kept) masterLost_kept
  unfold warmKeep
  dsimp only
  generalize (List.finRange 8).foldl undoRunning (masterLost s) = s0 at k ⊢
  refine Kept.trans ?_ State_setRegF_kept
  refine Kept.trans ?_ State_setRegF_kept
  refine Kept.trans ?_ State_setRegF_kept
  refine Kept.foldl (fun _ _ => State_setDom_kept) ?_
  exact ⟨k.pending, fun h => swf_filter _ _ (k.mem h), fun h => swf_filter _ _ (k.regs h), k.energy⟩
theorem slotFail_kept {s : State} {k : Nat} : Kept s (slotFail s k) := by
  unfold slotFail
  (try simp only [])
  repeat' first
    | with_reducible apply Kept.ite ?_ ?_
    | with_reducible exact Kept.refl
    | with_reducible apply Kept.trans ?_ State_setRegF_kept
    | (with_reducible apply Kept.foldl ?_ ?_; intro x a; (try simp only []))
    | simp only [mk_kept_iff]
    | split
theorem imageRetry_kept {s : State} : Kept s (imageRetry s) := by
  unfold imageRetry
  (try simp only [])
  repeat' first
    | with_reducible apply Kept.ite ?_ ?_
    | with_reducible exact Kept.refl
    | with_reducible apply Kept.trans ?_ State_setRegF_kept
    | with_reducible apply Kept.trans ?_ warmKeep_kept
    | (with_reducible apply Kept.foldl ?_ ?_; intro x a; (try simp only []))
    | simp only [mk_kept_iff]
    | split
theorem slotTry_kept {s t : State} {k : Nat} {cold : Bool} {polls : List Bool}
    (h : slotTry s k cold polls = .done t ∨ slotTry s k cold polls = .retry t) : Kept s t := by
  unfold slotTry at h
  split at h
  · rcases h with h | h <;> cases h
  · split at h
    · rcases h with h | h <;> cases h
    · dsimp only at h
      have g : ∀ m, Kept s (imageApply (s.setRegF 0 oStat 16 4 k) m cold polls).1 := fun m => State_setRegF_kept.trans imageApply_kept
      split at h
      · rcases h with h | h <;> cases h
        exact g _
      · rcases h with h | h <;> cases h
        exact g _
theorem startSlots_kept {s : State} {cold kept : Bool} {io : StartIo} {skip n : Nat} : Kept s (startSlots s cold kept io skip n) := by
  induction n generalizing s cold kept skip with
  | zero => exact noImage_kept
  | succ n ih =>
    unfold startSlots
    dsimp only
    have h1 : Kept s ((startEarly s).setPhase 2) := startEarly_kept.trans State_setPhase_kept
    split
    · exact h1.trans noImage_kept
    · split
      · exact slotFail_kept.trans ih
      · rename_i h
        exact (h1.trans (slotTry_kept (.inl h))).trans startLate_kept
      · rename_i h
        exact (((h1.trans (slotTry_kept (.inr h))).trans slotFail_kept).trans imageRetry_kept).trans ih
theorem coldStart_kept {s : State} {io : StartIo} : Kept s (coldStart s io) := by
  unfold coldStart
  (try simp only [])
  repeat' first
    | with_reducible apply Kept.ite ?_ ?_
    | with_reducible exact Kept.refl
    | with_reducible apply Kept.trans ?_ noImage_kept
    | with_reducible apply Kept.trans ?_ startEarly_kept
    | with_reducible apply Kept.trans ?_ startSlots_kept
    | (with_reducible apply Kept.foldl ?_ ?_; intro x a; (try simp only []))
    | simp only [mk_kept_iff]
    | split
theorem warmStart_kept {s : State} {cause : Nat} {io : StartIo} : Kept s (warmStart s cause io) := by
  unfold warmStart
  (try simp only [])
  repeat' first
    | with_reducible apply Kept.ite ?_ ?_
    | with_reducible exact Kept.refl
    | with_reducible apply Kept.trans ?_ State_setRegF_kept
    | with_reducible apply Kept.trans ?_ warmKeep_kept
    | with_reducible apply Kept.trans ?_ State_setBoot_kept
    | with_reducible apply Kept.trans ?_ startSlots_kept
    | (with_reducible apply Kept.foldl ?_ ?_; intro x a; (try simp only []))
    | simp only [mk_kept_iff]
    | split
theorem resume_kept {s : State} {src : Nat} {io : StartIo} : Kept s (resume s src io) := by
  unfold resume
  (try simp only [])
  repeat' first
    | with_reducible apply Kept.ite ?_ ?_
    | with_reducible exact Kept.refl
    | with_reducible apply Kept.trans ?_ State_setRegF_kept
    | with_reducible apply Kept.trans ?_ warmKeep_kept
    | with_reducible apply Kept.trans ?_ startSlots_kept
    | with_reducible apply Kept.trans ?_ State_irqBit_kept
    | with_reducible apply Kept.trans ?_ setReg_kept
    | (with_reducible apply Kept.foldl ?_ ?_; intro x a; (try simp only []))
    | simp only [mk_kept_iff]
    | split
theorem releasePair_kept {s : State} {p : Fin 4} : Kept s (releasePair s p) := by
  unfold releasePair
  (try simp only [])
  repeat' first
    | with_reducible apply Kept.ite ?_ ?_
    | with_reducible exact Kept.refl
    | with_reducible apply Kept.trans ?_ State_setRegF_kept
    | with_reducible apply Kept.trans ?_ pairRelease_kept
    | (with_reducible apply Kept.foldl ?_ ?_; intro x a; (try simp only []))
    | simp only [mk_kept_iff]
    | split
theorem fullService_kept {s : State} : Kept s (fullService s) := by
  unfold fullService
  (try simp only [])
  repeat' first
    | with_reducible apply Kept.ite ?_ ?_
    | with_reducible exact Kept.refl
    | with_reducible apply Kept.trans ?_ sptCommit_kept
    | with_reducible apply Kept.trans ?_ State_fresh_kept
    | with_reducible apply Kept.trans ?_ State_setRegF_kept
    | with_reducible apply Kept.trans ?_ State_setPhase_kept
    | with_reducible apply Kept.trans ?_ State_irqBit_kept
    | (with_reducible apply Kept.foldl ?_ ?_; intro x a; (try simp only []))
    | simp only [mk_kept_iff]
    | split
theorem release_kept {s : State} : Kept s (release s) := by
  unfold release
  (try simp only [])
  repeat' first
    | with_reducible apply Kept.ite ?_ ?_
    | with_reducible exact Kept.refl
    | with_reducible apply Kept.trans ?_ State_setRegF_kept
    | with_reducible apply Kept.trans ?_ releasePair_kept
    | with_reducible apply Kept.trans ?_ State_fresh_kept
    | with_reducible apply Kept.trans ?_ State_setPhase_kept
    | with_reducible apply Kept.trans ?_ State_irqBit_kept
    | with_reducible apply Kept.trans ?_ setReg_kept
    | with_reducible apply Kept.trans ?_ fullService_kept
    | (with_reducible apply Kept.foldl ?_ ?_; intro x a; (try simp only []))
    | simp only [mk_kept_iff]
    | split
theorem train2Fail_kept {s : State} {p : Nat} : Kept s (train2Fail s p) := by
  unfold train2Fail
  (try simp only [])
  repeat' first
    | with_reducible apply Kept.ite ?_ ?_
    | with_reducible exact Kept.refl
    | with_reducible apply Kept.trans ?_ State_setDom_kept
    | with_reducible apply Kept.trans ?_ State_setMch_kept
    | with_reducible apply Kept.trans ?_ bootErr_kept
    | (with_reducible apply Kept.foldl ?_ ?_; intro x a; (try simp only []))
    | simp only [mk_kept_iff]
    | split
theorem train2_kept {s : State} {fails : BitVec 8} : Kept s (train2 s fails) := by
  unfold train2
  (try simp only [])
  repeat' first
    | with_reducible apply Kept.ite ?_ ?_
    | with_reducible exact Kept.refl
    | with_reducible apply Kept.trans ?_ State_setPhase_kept
    | with_reducible apply Kept.trans ?_ trainOne_kept
    | with_reducible apply Kept.trans ?_ train2Fail_kept
    | with_reducible apply Kept.trans ?_ State_setBoot_kept
    | with_reducible apply Kept.trans ?_ memcCtlWrite_kept
    | (with_reducible apply Kept.foldl ?_ ?_; intro x a; (try simp only []))
    | simp only [mk_kept_iff]
    | split
theorem raisePor_kept {s : State} {cause : Nat} : Kept s (raisePor s cause) := by
  unfold raisePor
  (try simp only [])
  repeat' first
    | with_reducible apply Kept.ite ?_ ?_
    | with_reducible exact Kept.refl
    | with_reducible apply Kept.trans ?_ State_setRegF_kept
    | with_reducible apply Kept.trans ?_ State_setBoot_kept
    | (with_reducible apply Kept.foldl ?_ ?_; intro x a; (try simp only []))
    | simp only [mk_kept_iff]
    | split
theorem powerOnReset_kept {s : State} {io : StartIo} : Kept s (powerOnReset s io) := by
  unfold powerOnReset
  (try simp only [])
  repeat' first
    | with_reducible apply Kept.ite ?_ ?_
    | with_reducible exact Kept.refl
    | with_reducible apply Kept.trans ?_ State_bare_kept
    | with_reducible apply Kept.trans ?_ coldStart_kept
    | with_reducible apply Kept.trans ?_ State_setRegF_kept
    | with_reducible apply Kept.trans ?_ State_setBoot_kept
    | (with_reducible apply Kept.foldl ?_ ?_; intro x a; (try simp only []))
    | simp only [mk_kept_iff]
    | split
theorem wake_kept {s : State} {src : WakeSource} {io : StartIo} : Kept s (wake s src io) := by
  unfold wake
  (try simp only [])
  repeat' first
    | with_reducible apply Kept.ite ?_ ?_
    | with_reducible exact Kept.refl
    | with_reducible apply Kept.trans ?_ entryCancel_kept
    | with_reducible apply Kept.trans ?_ resume_kept
    | with_reducible apply Kept.trans ?_ State_setBoot_kept
    | with_reducible apply Kept.trans ?_ raisePor_kept
    | (with_reducible apply Kept.foldl ?_ ?_; intro x a; (try simp only []))
    | simp only [mk_kept_iff]
    | split
theorem vin12Loss_kept {s : State} : Kept s (vin12Loss s) := by
  unfold vin12Loss
  (try simp only [])
  repeat' first
    | with_reducible apply Kept.ite ?_ ?_
    | with_reducible exact Kept.refl
    | with_reducible apply Kept.trans ?_ State_setBoot_kept
    | with_reducible apply Kept.trans ?_ powerOff_kept
    | (with_reducible apply Kept.foldl ?_ ?_; intro x a; (try simp only []))
    | simp only [mk_kept_iff]
    | split
theorem vaux33Loss_kept {s : State} : Kept s (vaux33Loss s) := by
  unfold vaux33Loss
  (try simp only [])
  repeat' first
    | with_reducible apply Kept.ite ?_ ?_
    | with_reducible exact Kept.refl
    | with_reducible apply Kept.trans ?_ State_bare_kept
    | with_reducible apply Kept.trans ?_ State_setBoot_kept
    | (with_reducible apply Kept.foldl ?_ ?_; intro x a; (try simp only []))
    | simp only [mk_kept_iff]
    | split
theorem vaux33Good_kept {s : State} : Kept s (vaux33Good s) := by
  unfold vaux33Good
  (try simp only [])
  repeat' first
    | with_reducible apply Kept.ite ?_ ?_
    | with_reducible exact Kept.refl
    | with_reducible apply Kept.trans ?_ raisePor_kept
    | with_reducible apply Kept.trans ?_ State_setBoot_kept
    | (with_reducible apply Kept.foldl ?_ ?_; intro x a; (try simp only []))
    | simp only [mk_kept_iff]
    | split
theorem thermalTrip_kept {s : State} : Kept s (thermalTrip s) := by
  unfold thermalTrip
  (try simp only [])
  repeat' first
    | with_reducible apply Kept.ite ?_ ?_
    | with_reducible exact Kept.refl
    | with_reducible apply Kept.trans ?_ powerOff_kept
    | with_reducible apply Kept.trans ?_ State_setBoot_kept
    | (with_reducible apply Kept.foldl ?_ ?_; intro x a; (try simp only []))
    | simp only [mk_kept_iff]
    | split
theorem thermalRelease_kept {s : State} : Kept s (thermalRelease s) := by
  unfold thermalRelease
  (try simp only [])
  repeat' first
    | with_reducible apply Kept.ite ?_ ?_
    | with_reducible exact Kept.refl
    | with_reducible apply Kept.trans ?_ State_setBoot_kept
    | with_reducible apply Kept.trans ?_ raisePor_kept
    | (with_reducible apply Kept.foldl ?_ ?_; intro x a; (try simp only []))
    | simp only [mk_kept_iff]
    | split
theorem rstPin_kept {s : State} {io : StartIo} : Kept s (rstPin s io) := by
  unfold rstPin
  (try simp only [])
  repeat' first
    | with_reducible apply Kept.ite ?_ ?_
    | with_reducible exact Kept.refl
    | with_reducible apply Kept.trans ?_ State_setBoot_kept
    | with_reducible apply Kept.trans ?_ warmStart_kept
    | (with_reducible apply Kept.foldl ?_ ?_; intro x a; (try simp only []))
    | simp only [mk_kept_iff]
    | split
theorem rstRise_kept {s : State} {io : StartIo} : Kept s (rstRise s io) := by
  unfold rstRise
  (try simp only [])
  repeat' first
    | with_reducible apply Kept.ite ?_ ?_
    | with_reducible exact Kept.refl
    | with_reducible apply Kept.trans ?_ State_setBoot_kept
    | with_reducible apply Kept.trans ?_ startSlots_kept
    | (with_reducible apply Kept.foldl ?_ ?_; intro x a; (try simp only []))
    | simp only [mk_kept_iff]
    | split
theorem slotStore_kept {s : State} {k : Nat} {b : List Byte} : Kept s (slotStore s k b) := by
  unfold slotStore
  (try simp only [])
  repeat' first
    | with_reducible apply Kept.ite ?_ ?_
    | with_reducible exact Kept.refl
    | with_reducible apply Kept.trans ?_ setBytes_kept
    | with_reducible apply Kept.trans ?_ State_setBoot_kept
    | (with_reducible apply Kept.foldl ?_ ?_; intro x a; (try simp only []))
    | simp only [mk_kept_iff]
    | split
theorem rcvRun_kept {s : State} {io : StartIo} {ok : Bool} : Kept s (rcvRun s io ok) := by
  unfold rcvRun
  dsimp only
  refine Kept.ite ?_ Kept.refl
  split
  · exact setReg_kept
  · refine Kept.ite setReg_kept ?_
    have h : ∀ b k, Kept s (if regBit (s.reg 3 0x114) 9 then slotStore s k b else s) := fun b k => Kept.ite slotStore_kept Kept.refl
    refine Kept.ite ?_ ((h _ _).trans setReg_kept)
    refine Kept.ite ?_ ?_
    · exact (((h _ _).trans imageApply_kept).trans setReg_kept).trans startLate_kept
    · refine Kept.trans ?_ startSlots_kept
      refine Kept.trans ?_ imageRetry_kept
      refine Kept.trans ?_ setReg_kept
      exact Kept.ite (((h _ _).trans imageApply_kept).trans slotFail_kept) ((h _ _).trans imageApply_kept)
theorem execPowerOnReset_kept {io : StartIo} {s : State} : KeptR s (execPowerOnReset io s) := by
  unfold execPowerOnReset
  (try simp only [])
  repeat' first
    | with_reducible exact KeptR.fault
    | with_reducible apply KeptR.ok
    | with_reducible apply KeptR.okIf
    | with_reducible apply KeptR.ite ?_ ?_
    | with_reducible apply Kept.ite ?_ ?_
    | with_reducible exact Kept.refl
    | with_reducible apply Kept.trans ?_ powerOnReset_kept
    | (with_reducible apply Kept.foldl ?_ ?_; intro x a; (try simp only []))
    | simp only [mk_kept_iff]
    | split
theorem execRelease_kept {s : State} : KeptR s (execRelease s) := by
  unfold execRelease
  (try simp only [])
  repeat' first
    | with_reducible exact KeptR.fault
    | with_reducible apply KeptR.ok
    | with_reducible apply KeptR.okIf
    | with_reducible apply KeptR.ite ?_ ?_
    | with_reducible apply Kept.ite ?_ ?_
    | with_reducible exact Kept.refl
    | with_reducible apply Kept.trans ?_ release_kept
    | (with_reducible apply Kept.foldl ?_ ?_; intro x a; (try simp only []))
    | simp only [mk_kept_iff]
    | split
theorem execTrain2GroupDone_kept {fails : BitVec 8} {s : State} : KeptR s (execTrain2GroupDone fails s) := by
  unfold execTrain2GroupDone
  (try simp only [])
  repeat' first
    | with_reducible exact KeptR.fault
    | with_reducible apply KeptR.ok
    | with_reducible apply KeptR.okIf
    | with_reducible apply KeptR.ite ?_ ?_
    | with_reducible apply Kept.ite ?_ ?_
    | with_reducible exact Kept.refl
    | with_reducible apply Kept.trans ?_ train2_kept
    | (with_reducible apply Kept.foldl ?_ ?_; intro x a; (try simp only []))
    | simp only [mk_kept_iff]
    | split
theorem execFullService_kept {s : State} : KeptR s (execFullService s) := by
  unfold execFullService
  (try simp only [])
  repeat' first
    | with_reducible exact KeptR.fault
    | with_reducible apply KeptR.ok
    | with_reducible apply KeptR.okIf
    | with_reducible apply KeptR.ite ?_ ?_
    | with_reducible apply Kept.ite ?_ ?_
    | with_reducible exact Kept.refl
    | with_reducible apply Kept.trans ?_ fullService_kept
    | (with_reducible apply Kept.foldl ?_ ?_; intro x a; (try simp only []))
    | simp only [mk_kept_iff]
    | split
theorem raisedReset_kept {s : State} {io : StartIo} : Kept s (raisedReset s io) := by
  unfold raisedReset
  (try simp only [])
  repeat' first
    | with_reducible apply Kept.ite ?_ ?_
    | with_reducible exact Kept.refl
    | with_reducible apply Kept.trans ?_ warmStart_kept
    | with_reducible apply Kept.trans ?_ State_setBoot_kept
    | (with_reducible apply Kept.foldl ?_ ?_; intro x a; (try simp only []))
    | simp only [mk_kept_iff]
    | split
theorem execDeviceWarmReset_kept {src : WarmSource} {io : StartIo} {s : State} : KeptR s (execDeviceWarmReset src io s) := by
  unfold execDeviceWarmReset
  (try simp only [])
  repeat' first
    | with_reducible exact KeptR.fault
    | with_reducible apply KeptR.ok
    | with_reducible apply KeptR.okIf
    | with_reducible apply KeptR.ite ?_ ?_
    | with_reducible apply Kept.ite ?_ ?_
    | with_reducible exact Kept.refl
    | with_reducible apply Kept.trans ?_ raisedReset_kept
    | with_reducible apply Kept.trans ?_ cmdReg_kept
    | with_reducible apply Kept.trans ?_ rstPin_kept
    | (with_reducible apply Kept.foldl ?_ ?_; intro x a; (try simp only []))
    | simp only [mk_kept_iff]
    | split
theorem execRstNRisingEdge_kept {io : StartIo} {s : State} : KeptR s (execRstNRisingEdge io s) := by
  unfold execRstNRisingEdge
  (try simp only [])
  repeat' first
    | with_reducible exact KeptR.fault
    | with_reducible apply KeptR.ok
    | with_reducible apply KeptR.okIf
    | with_reducible apply KeptR.ite ?_ ?_
    | with_reducible apply Kept.ite ?_ ?_
    | with_reducible exact Kept.refl
    | with_reducible apply Kept.trans ?_ rstRise_kept
    | (with_reducible apply Kept.foldl ?_ ?_; intro x a; (try simp only []))
    | simp only [mk_kept_iff]
    | split
theorem execVigilRequest_kept {id : MasterId} {s : State} : KeptR s (execVigilRequest id s) := by
  unfold execVigilRequest
  (try simp only [])
  repeat' first
    | with_reducible exact KeptR.fault
    | with_reducible apply KeptR.ok
    | with_reducible apply KeptR.okIf
    | with_reducible apply KeptR.ite ?_ ?_
    | with_reducible apply Kept.ite ?_ ?_
    | with_reducible exact Kept.refl
    | with_reducible apply Kept.trans ?_ cmdReg_kept
    | (with_reducible apply Kept.foldl ?_ ?_; intro x a; (try simp only []))
    | simp only [mk_kept_iff]
    | split
theorem execOffRequest_kept {id : MasterId} {s : State} : KeptR s (execOffRequest id s) := by
  unfold execOffRequest
  (try simp only [])
  repeat' first
    | with_reducible exact KeptR.fault
    | with_reducible apply KeptR.ok
    | with_reducible apply KeptR.okIf
    | with_reducible apply KeptR.ite ?_ ?_
    | with_reducible apply Kept.ite ?_ ?_
    | with_reducible exact Kept.refl
    | with_reducible apply Kept.trans ?_ cmdReg_kept
    | (with_reducible apply Kept.foldl ?_ ?_; intro x a; (try simp only []))
    | simp only [mk_kept_iff]
    | split
theorem execWake_kept {src : WakeSource} {io : StartIo} {s : State} : KeptR s (execWake src io s) := by
  unfold execWake
  (try simp only [])
  repeat' first
    | with_reducible exact KeptR.fault
    | with_reducible apply KeptR.ok
    | with_reducible apply KeptR.okIf
    | with_reducible apply KeptR.ite ?_ ?_
    | with_reducible apply Kept.ite ?_ ?_
    | with_reducible exact Kept.refl
    | with_reducible apply Kept.trans ?_ wake_kept
    | (with_reducible apply Kept.foldl ?_ ?_; intro x a; (try simp only []))
    | simp only [mk_kept_iff]
    | split
theorem execVin12Loss_kept {s : State} : KeptR s (execVin12Loss s) := by
  unfold execVin12Loss
  (try simp only [])
  repeat' first
    | with_reducible exact KeptR.fault
    | with_reducible apply KeptR.ok
    | with_reducible apply KeptR.okIf
    | with_reducible apply KeptR.ite ?_ ?_
    | with_reducible apply Kept.ite ?_ ?_
    | with_reducible exact Kept.refl
    | with_reducible apply Kept.trans ?_ vin12Loss_kept
    | (with_reducible apply Kept.foldl ?_ ?_; intro x a; (try simp only []))
    | simp only [mk_kept_iff]
    | split
theorem execVaux33Loss_kept {s : State} : KeptR s (execVaux33Loss s) := by
  unfold execVaux33Loss
  (try simp only [])
  repeat' first
    | with_reducible exact KeptR.fault
    | with_reducible apply KeptR.ok
    | with_reducible apply KeptR.okIf
    | with_reducible apply KeptR.ite ?_ ?_
    | with_reducible apply Kept.ite ?_ ?_
    | with_reducible exact Kept.refl
    | with_reducible apply Kept.trans ?_ vaux33Loss_kept
    | (with_reducible apply Kept.foldl ?_ ?_; intro x a; (try simp only []))
    | simp only [mk_kept_iff]
    | split
theorem execVaux33PowerGood_kept {s : State} : KeptR s (execVaux33PowerGood s) := by
  unfold execVaux33PowerGood
  (try simp only [])
  repeat' first
    | with_reducible exact KeptR.fault
    | with_reducible apply KeptR.ok
    | with_reducible apply KeptR.okIf
    | with_reducible apply KeptR.ite ?_ ?_
    | with_reducible apply Kept.ite ?_ ?_
    | with_reducible exact Kept.refl
    | with_reducible apply Kept.trans ?_ vaux33Good_kept
    | (with_reducible apply Kept.foldl ?_ ?_; intro x a; (try simp only []))
    | simp only [mk_kept_iff]
    | split
theorem execThermalTrip_kept {s : State} : KeptR s (execThermalTrip s) := by
  unfold execThermalTrip
  (try simp only [])
  repeat' first
    | with_reducible exact KeptR.fault
    | with_reducible apply KeptR.ok
    | with_reducible apply KeptR.okIf
    | with_reducible apply KeptR.ite ?_ ?_
    | with_reducible apply Kept.ite ?_ ?_
    | with_reducible exact Kept.refl
    | with_reducible apply Kept.trans ?_ thermalTrip_kept
    | (with_reducible apply Kept.foldl ?_ ?_; intro x a; (try simp only []))
    | simp only [mk_kept_iff]
    | split
theorem execThermN_kept {hot : Bool} {s : State} : KeptR s (execThermN hot s) := by
  unfold execThermN
  (try simp only [])
  repeat' first
    | with_reducible exact KeptR.fault
    | with_reducible apply KeptR.ok
    | with_reducible apply KeptR.okIf
    | with_reducible apply KeptR.ite ?_ ?_
    | with_reducible apply Kept.ite ?_ ?_
    | with_reducible exact Kept.refl
    | with_reducible apply Kept.trans ?_ State_setBoot_kept
    | (with_reducible apply Kept.foldl ?_ ?_; intro x a; (try simp only []))
    | simp only [mk_kept_iff]
    | split
theorem execThermalWakeRelease_kept {s : State} : KeptR s (execThermalWakeRelease s) := by
  unfold execThermalWakeRelease
  (try simp only [])
  repeat' first
    | with_reducible exact KeptR.fault
    | with_reducible apply KeptR.ok
    | with_reducible apply KeptR.okIf
    | with_reducible apply KeptR.ite ?_ ?_
    | with_reducible apply Kept.ite ?_ ?_
    | with_reducible exact Kept.refl
    | with_reducible apply Kept.trans ?_ thermalRelease_kept
    | (with_reducible apply Kept.foldl ?_ ?_; intro x a; (try simp only []))
    | simp only [mk_kept_iff]
    | split
theorem execSvnup_kept {id : MasterId} {s : State} : KeptR s (execSvnup id s) := by
  unfold execSvnup
  (try simp only [])
  repeat' first
    | with_reducible exact KeptR.fault
    | with_reducible apply KeptR.ok
    | with_reducible apply KeptR.okIf
    | with_reducible apply KeptR.ite ?_ ?_
    | with_reducible apply Kept.ite ?_ ?_
    | with_reducible exact Kept.refl
    | with_reducible apply Kept.trans ?_ cmdReg_kept
    | (with_reducible apply Kept.foldl ?_ ?_; intro x a; (try simp only []))
    | simp only [mk_kept_iff]
    | split
theorem execKsLoad_kept {id : MasterId} {v : Word32} {s : State} : KeptR s (execKsLoad id v s) := by
  unfold execKsLoad
  (try simp only [])
  repeat' first
    | with_reducible exact KeptR.fault
    | with_reducible apply KeptR.ok
    | with_reducible apply KeptR.okIf
    | with_reducible apply KeptR.ite ?_ ?_
    | with_reducible apply Kept.ite ?_ ?_
    | with_reducible exact Kept.refl
    | with_reducible apply Kept.trans ?_ cmdReg_kept
    | (with_reducible apply Kept.foldl ?_ ?_; intro x a; (try simp only []))
    | simp only [mk_kept_iff]
    | split
theorem execKsClear_kept {id : MasterId} {v : Word32} {s : State} : KeptR s (execKsClear id v s) := by
  unfold execKsClear
  (try simp only [])
  repeat' first
    | with_reducible exact KeptR.fault
    | with_reducible apply KeptR.ok
    | with_reducible apply KeptR.okIf
    | with_reducible apply KeptR.ite ?_ ?_
    | with_reducible apply Kept.ite ?_ ?_
    | with_reducible exact Kept.refl
    | with_reducible apply Kept.trans ?_ cmdReg_kept
    | (with_reducible apply Kept.foldl ?_ ?_; intro x a; (try simp only []))
    | simp only [mk_kept_iff]
    | split
theorem execKsGrant_kept {id : MasterId} {v : Word32} {s : State} : KeptR s (execKsGrant id v s) := by
  unfold execKsGrant
  (try simp only [])
  repeat' first
    | with_reducible exact KeptR.fault
    | with_reducible apply KeptR.ok
    | with_reducible apply KeptR.okIf
    | with_reducible apply KeptR.ite ?_ ?_
    | with_reducible apply Kept.ite ?_ ?_
    | with_reducible exact Kept.refl
    | with_reducible apply Kept.trans ?_ cmdReg_kept
    | (with_reducible apply Kept.foldl ?_ ?_; intro x a; (try simp only []))
    | simp only [mk_kept_iff]
    | split
theorem execRcvData_kept {id : MasterId} {v : Word32} {s : State} : KeptR s (execRcvData id v s) := by
  unfold execRcvData
  (try simp only [])
  repeat' first
    | with_reducible exact KeptR.fault
    | with_reducible apply KeptR.ok
    | with_reducible apply KeptR.okIf
    | with_reducible apply KeptR.ite ?_ ?_
    | with_reducible apply Kept.ite ?_ ?_
    | with_reducible exact Kept.refl
    | with_reducible apply Kept.trans ?_ cmdReg_kept
    | (with_reducible apply Kept.foldl ?_ ?_; intro x a; (try simp only []))
    | simp only [mk_kept_iff]
    | split
theorem execRcvGo_kept {id : MasterId} {v : Word32} {io : StartIo} {norOk : Bool} {s : State} :
    KeptR s (execRcvGo id v io norOk s) := by
  unfold execRcvGo
  (try simp only [])
  repeat' first
    | with_reducible exact KeptR.fault
    | with_reducible apply KeptR.ok
    | with_reducible apply KeptR.okIf
    | with_reducible apply KeptR.ite ?_ ?_
    | with_reducible apply Kept.ite ?_ ?_
    | with_reducible exact Kept.refl
    | with_reducible apply Kept.trans ?_ rcvRun_kept
    | with_reducible apply Kept.trans ?_ cmdReg_kept
    | (with_reducible apply Kept.foldl ?_ ?_; intro x a; (try simp only []))
    | simp only [mk_kept_iff]
    | split
theorem execLantHalt_kept {id : MasterId} {v : Word32} {s : State} : KeptR s (execLantHalt id v s) := by
  unfold execLantHalt
  (try simp only [])
  repeat' first
    | with_reducible exact KeptR.fault
    | with_reducible apply KeptR.ok
    | with_reducible apply KeptR.okIf
    | with_reducible apply KeptR.ite ?_ ?_
    | with_reducible apply Kept.ite ?_ ?_
    | with_reducible exact Kept.refl
    | with_reducible apply Kept.trans ?_ cmdReg_kept
    | (with_reducible apply Kept.foldl ?_ ?_; intro x a; (try simp only []))
    | simp only [mk_kept_iff]
    | split
end Sys2Proof.Laws
end

