-- ==== Sys2Proof/Laws/KeepSupply.lean ====
section
/-! SUPPORT. What a change of the Cupola's supply leaves alone (Laws/Kept.lean): everything but the energy registers. -/
namespace Sys2Proof.Laws
open Sys2Proof.Machine

/-- `Kept` without the energy registers: what a change of the Cupola's supply keeps. -/
structure KeptQ (s t : State) : Prop where
  pending : t.pending = s.pending
  mem : Memory.wf s = true → Memory.wf t = true
  regs : Regs.wf s = true → Regs.wf t = true
theorem Kept.q {s t : State} (k : Kept s t) : KeptQ s t := ⟨k.pending, k.mem, k.regs⟩
theorem KeptQ.trans {s t u : State} (h : KeptQ s t) (k : KeptQ t u) : KeptQ s u :=
  ⟨k.pending.trans h.pending, k.mem ∘ h.mem, k.regs ∘ h.regs⟩
theorem State_setCup_keptQ {s : State} {c : Cup} : KeptQ s (s.setCup c) := ⟨rfl, id, id⟩
theorem KeptQ.ite {s a b : State} {c : Prop} [Decidable c] (ha : KeptQ s a) (hb : KeptQ s b) : KeptQ s (if c then a else b) := by
  split <;> assumption
theorem cupDown_keptQ {s : State} : KeptQ s (cupDown s) := by
  unfold cupDown
  dsimp only
  refine KeptQ.trans ?_ absChange_kept.q
  exact KeptQ.ite ((clearBytes_kept.q.trans State_setCup_keptQ).trans cmdEnd_kept.q) (clearBytes_kept.q.trans State_setCup_keptQ)
theorem brownOut_keptQ {s : State} {done lost : Bool} : KeptQ s (brownOut s done lost) := by
  unfold brownOut
  dsimp only
  refine KeptQ.ite (KeptQ.ite (State_setCup_keptQ.trans cupDown_keptQ) ?_) Kept.refl.q
  exact (State_setCup_keptQ.trans State_setCup_keptQ).trans statUpdate_kept.q
theorem cupPowerUp_keptQ {s : State} {calen : Bool} : KeptQ s (cupPowerUp s calen) := by
  unfold cupPowerUp
  refine KeptQ.ite Kept.refl.q ?_
  dsimp only
  have h : ∀ c, KeptQ s (absChange (s.setCup c)) := fun c => State_setCup_keptQ.trans absChange_kept.q
  have h2 : ∀ (c1 : Cup) (t : State), KeptQ s t → ∀ a b c d,
      KeptQ s (if s.cup.save.fail then t else if logFree c1 then logAdd t.fresh.2 a b c d else t) := fun _ _ k _ _ _ _ =>
    KeptQ.ite k (KeptQ.ite ((k.trans State_fresh_kept.q).trans logAdd_kept.q) k)
  refine KeptQ.ite (h2 _ _ (h _) _ _ _ _) (KeptQ.ite ?_ ?_)
  · exact ((h2 _ _ (h _) _ _ _ _).trans State_setCup_keptQ).trans logAdd_kept.q
  · exact (h2 _ _ (h _) _ _ _ _).trans State_setCup_keptQ
theorem execBrownOut_keptQ {done lost : Bool} {s t : State} (h : execBrownOut done lost s = .next t) : KeptQ s t := by
  cases h; exact brownOut_keptQ
theorem execSample_keptQ {c0 c1 c2 c3 : CupSample} {s t : State} (h : execSample c0 c1 c2 c3 s = .next t) : KeptQ s t := by
  cases h; exact KeptQ.ite State_setCup_keptQ Kept.refl.q
theorem execCupolaPowerUp_keptQ {calen : Bool} {s t : State} (h : execCupolaPowerUp calen s = .next t) : KeptQ s t := by
  cases h; exact cupPowerUp_keptQ

end Sys2Proof.Laws
end

