-- ==== Sys2Proof/Laws/KeepVendor.lean ====
section
/-! SUPPORT. What the vendor programs leave alone (Laws/Kept.lean). -/
namespace Sys2Proof.Laws
set_option linter.unusedTactic false
set_option linter.unreachableTactic false
open Sys2Proof.Machine

/-- A part of a vendor program leaves the queue, the canonical forms and the energy registers alone. -/
def KeptV {α : Type} (p : VM α) : Prop := ∀ s, Kept s (p.run s).2
theorem KeptV.pure {α : Type} {a : α} : KeptV (Pure.pure a : VM α) := fun _ => Kept.refl
theorem KeptV.throw {α : Type} {x : Nat} : KeptV (MonadExcept.throw x : VM α) := fun _ => Kept.refl
theorem KeptV.bind {α β : Type} {p : VM α} {f : α → VM β} (hp : KeptV p) (hf : ∀ a, KeptV (f a)) : KeptV (p >>= f) := by
  intro s
  have h := hp s
  rw [ExceptT.run_bind]
  rcases hr : ExceptT.run p s with ⟨_ | a, t⟩
  · rw [hr] at h
    simp only [Bind.bind, StateT.bind, hr]
    exact h
  · rw [hr] at h
    simp only [Bind.bind, StateT.bind, hr]
    exact Kept.trans h (hf a t)
theorem KeptV.get : KeptV (MonadState.get : VM State) := fun _ => Kept.refl
/-- A program part that reads the state and goes on from it. -/
theorem KeptV.seen {α : Type} {k : State → VM α} (h : ∀ s, Kept s ((k s).run s).2) : KeptV ((MonadState.get : VM State) >>= k) :=
  fun s => h s
/-- A program part that reads the state, changes it and goes on. -/
theorem KeptV.change {α : Type} {g : State → State} {k : State → VM α} (hg : ∀ s, Kept s (g s)) (hk : ∀ s, KeptV (k s)) :
    KeptV ((MonadState.get : VM State) >>= fun s => (MonadState.set (g s) : VM PUnit) >>= fun _ => k s) :=
  fun s => Kept.trans (hg s) (hk s (g s))
theorem KeptV.ite {α : Type} {c : Prop} [Decidable c] {p q : VM α} (hp : KeptV p) (hq : KeptV q) : KeptV (if c then p else q) := by
  split <;> assumption
theorem KeptV.mapM {α β : Type} {f : α → VM β} (hf : ∀ a, KeptV (f a)) (l : List α) : KeptV (l.mapM f) := by
  induction l with
  | nil => exact KeptV.pure
  | cons a t ih => rw [List.mapM_cons]; exact KeptV.bind (hf a) fun _ => KeptV.bind ih fun _ => KeptV.pure
theorem KeptV.forM {α : Type} {f : α → VM PUnit} (hf : ∀ a, KeptV (f a)) (l : List α) : KeptV (l.forM f) := by
  induction l with
  | nil => exact KeptV.pure
  | cons a t ih => exact KeptV.bind (hf a) fun _ => ih
theorem KeptV.map {α β : Type} {f : α → β} {p : VM α} (hp : KeptV p) : KeptV (f <$> p) := by
  rw [map_eq_pure_bind]
  exact KeptV.bind hp fun _ => KeptV.pure
theorem need_kept {b : Bool} {x : Nat} : KeptV (need b x) := KeptV.ite KeptV.pure KeptV.throw
theorem vRead_kept {e : VEnv} {a n : Nat} : KeptV (vRead e a n) := by
  unfold vRead
  refine KeptV.change (g := fun s => (busRead s (sprId e.n) a n).1) (fun s => busRead_kept) fun s => ?_
  split
  · exact KeptV.throw
  · exact KeptV.ite KeptV.throw KeptV.pure
theorem vWrite_kept {e : VEnv} {a : Nat} {d : List Byte} : KeptV (vWrite e a d) := by
  unfold vWrite
  refine KeptV.ite KeptV.pure ?_
  refine KeptV.change (g := fun s => (busWrite s (sprId e.n) a d).1) (fun s => busWrite_kept) fun s => ?_
  split
  · exact KeptV.throw
  · exact KeptV.pure
theorem vFree_kept {n : Nat} : KeptV (vFree n) := by
  unfold vFree
  exact KeptV.change (g := fun s => (s.freshBytes (n / 8)).2) (fun s => State_freshBytes_kept) fun _ => KeptV.pure
theorem vParms_kept {e : VEnv} : KeptV (vParms e) := by
  unfold vParms
  repeat' first
    | with_reducible exact KeptV.pure
    | with_reducible exact KeptV.throw
    | with_reducible exact KeptV.get
    | with_reducible exact need_kept
    | with_reducible exact vRead_kept
    | with_reducible exact vWrite_kept
    | with_reducible exact vFree_kept
    | with_reducible refine KeptV.bind ?_ fun _ => ?_
    | with_reducible refine KeptV.ite ?_ ?_
    | with_reducible refine KeptV.mapM (fun _ => ?_) _
    | with_reducible refine KeptV.forM (fun _ => ?_) _
    | split
    | dsimp only
theorem vHeader_kept {e : VEnv} {a : Nat} : KeptV (vHeader e a) := by
  unfold vHeader
  repeat' first
    | with_reducible exact KeptV.pure
    | with_reducible exact KeptV.throw
    | with_reducible exact KeptV.get
    | with_reducible exact need_kept
    | with_reducible exact vRead_kept
    | with_reducible exact vWrite_kept
    | with_reducible exact vFree_kept
    | with_reducible refine KeptV.bind ?_ fun _ => ?_
    | with_reducible refine KeptV.ite ?_ ?_
    | with_reducible refine KeptV.mapM (fun _ => ?_) _
    | with_reducible refine KeptV.forM (fun _ => ?_) _
    | split
    | dsimp only
theorem vGen_kept {e : VEnv} {j : Job} : KeptV (vGen e j) :=
  KeptV.bind vRead_kept fun _ => KeptV.bind need_kept fun _ => KeptV.bind vFree_kept fun _ =>
  KeptV.change (fun _ => coefWrite_kept) fun _ => KeptV.pure
theorem vScratch_kept {e : VEnv} {a : Nat} {c : Code} : KeptV (vScratch e a c) := KeptV.bind vFree_kept fun _ => vWrite_kept
theorem vStage_kept {e : VEnv} {c : Code} {work : Nat} {l : List (List Byte)} : KeptV (vStage e c work l) := by
  unfold vStage
  repeat' first
    | with_reducible exact KeptV.pure
    | with_reducible exact KeptV.throw
    | with_reducible exact KeptV.get
    | with_reducible exact vWrite_kept
    | with_reducible refine KeptV.bind ?_ fun _ => ?_
    | with_reducible refine KeptV.ite ?_ ?_
    | with_reducible refine KeptV.mapM (fun _ => ?_) _
    | with_reducible refine KeptV.forM (fun _ => ?_) _
    | split
    | dsimp only
theorem vShard_kept {e : VEnv} {j : Job} {work : Option Nat} {x k : Nat} : KeptV (vShard e j work x k) := by
  unfold vShard
  dsimp only
  split
  · exact KeptV.bind vWrite_kept fun _ => KeptV.pure
  · exact KeptV.pure
theorem vPresent_kept {e : VEnv} {j : Job} {work : Option Nat} {x k : Nat} : KeptV (vPresent e j work x k) :=
  KeptV.ite vShard_kept KeptV.pure
theorem vDrives_kept {e : VEnv} {j : Job} {l : List (Nat × List Byte)} : KeptV (vDrives e j l) := by
  refine KeptV.bind KeptV.get fun s => KeptV.bind need_kept fun _ => ?_
  split
  · exact KeptV.throw
  · exact KeptV.forM (fun x s => driveOut_kept) l
theorem vKey_kept {e : VEnv} {m : SMapRec} : KeptV (vKey e m) := by
  refine KeptV.bind KeptV.get fun s => ?_
  split
  · exact KeptV.pure
  · exact KeptV.throw
theorem vHand_kept {e : VEnv} {k : Nat} : KeptV (vHand e k) := by
  unfold vHand
  repeat' first
    | with_reducible exact KeptV.pure
    | with_reducible exact KeptV.throw
    | with_reducible exact KeptV.get
    | with_reducible exact need_kept
    | with_reducible exact vRead_kept
    | with_reducible exact vWrite_kept
    | with_reducible exact vFree_kept
    | with_reducible refine KeptV.bind ?_ fun _ => ?_
    | with_reducible refine KeptV.ite ?_ ?_
    | with_reducible refine KeptV.mapM (fun _ => ?_) _
    | with_reducible refine KeptV.forM (fun _ => ?_) _
    | split
    | dsimp only
theorem vAnswer_kept {e : VEnv} : KeptV (vAnswer e) := by
  unfold vAnswer
  repeat' first
    | with_reducible exact KeptV.pure
    | with_reducible exact KeptV.throw
    | with_reducible exact KeptV.get
    | with_reducible exact need_kept
    | with_reducible exact vRead_kept
    | with_reducible exact vWrite_kept
    | with_reducible exact vFree_kept
    | with_reducible refine KeptV.bind ?_ fun _ => ?_
    | with_reducible refine KeptV.ite ?_ ?_
    | with_reducible refine KeptV.mapM (fun _ => ?_) _
    | with_reducible refine KeptV.forM (fun _ => ?_) _
    | split
    | dsimp only
theorem vMore_kept {e : VEnv} {j : Job} {work : Option Nat} {l : List Nat} {r : List (Nat × ShardRead)} : KeptV (vMore e j work l r) := by
  induction l generalizing r with
  | nil => exact KeptV.pure
  | cons x t ih => exact KeptV.ite KeptV.pure (KeptV.bind vPresent_kept fun _ => ih)
theorem vObject_kept {e : VEnv} : KeptV (vObject e) := by
  unfold vObject
  repeat' first
    | with_reducible exact KeptV.pure
    | with_reducible exact KeptV.throw
    | with_reducible exact KeptV.get
    | with_reducible exact need_kept
    | with_reducible exact vRead_kept
    | with_reducible exact vWrite_kept
    | with_reducible exact vFree_kept
    | with_reducible exact vParms_kept
    | with_reducible exact vHeader_kept
    | with_reducible refine KeptV.bind ?_ fun _ => ?_
    | with_reducible refine KeptV.ite ?_ ?_
    | with_reducible refine KeptV.mapM (fun _ => ?_) _
    | with_reducible refine KeptV.forM (fun _ => ?_) _
    | split
    | dsimp only
theorem vPlain_kept {e : VEnv} {p : Parms} {j : Job} {bodies : List (List Byte)} : KeptV (vPlain e p j bodies) := by
  unfold vPlain
  repeat' first
    | with_reducible exact KeptV.pure
    | with_reducible exact KeptV.throw
    | with_reducible exact KeptV.get
    | with_reducible exact need_kept
    | with_reducible exact vRead_kept
    | with_reducible exact vWrite_kept
    | with_reducible exact vFree_kept
    | with_reducible exact vKey_kept
    | with_reducible refine KeptV.bind ?_ fun _ => ?_
    | with_reducible refine KeptV.ite ?_ ?_
    | with_reducible refine KeptV.mapM (fun _ => ?_) _
    | with_reducible refine KeptV.forM (fun _ => ?_) _
    | split
    | dsimp only
theorem vGetNarrow_kept {e : VEnv} {p : Parms} {j : Job} : KeptV (vGetNarrow e p j) := by
  unfold vGetNarrow
  repeat' first
    | with_reducible exact KeptV.pure
    | with_reducible exact KeptV.throw
    | with_reducible exact KeptV.get
    | with_reducible exact need_kept
    | with_reducible exact vRead_kept
    | with_reducible exact vWrite_kept
    | with_reducible exact vFree_kept
    | with_reducible exact vKey_kept
    | with_reducible exact vAnswer_kept
    | with_reducible exact vHand_kept
    | with_reducible exact vPlain_kept
    | with_reducible exact vGen_kept
    | with_reducible exact vScratch_kept
    | with_reducible refine KeptV.bind ?_ fun _ => ?_
    | with_reducible refine KeptV.ite ?_ ?_
    | with_reducible refine KeptV.mapM (fun _ => ?_) _
    | with_reducible refine KeptV.forM (fun _ => ?_) _
    | split
    | dsimp only
theorem vGet_kept {e : VEnv} : KeptV (vGet e) := by
  unfold vGet
  repeat' first
    | with_reducible exact KeptV.pure
    | with_reducible exact KeptV.throw
    | with_reducible exact KeptV.get
    | with_reducible exact need_kept
    | with_reducible exact vRead_kept
    | with_reducible exact vWrite_kept
    | with_reducible exact vFree_kept
    | with_reducible exact vObject_kept
    | with_reducible exact vGetNarrow_kept
    | with_reducible exact vGen_kept
    | with_reducible exact vScratch_kept
    | with_reducible exact vKey_kept
    | with_reducible exact vPresent_kept
    | with_reducible exact vMore_kept
    | with_reducible exact vStage_kept
    | with_reducible exact vPlain_kept
    | with_reducible refine KeptV.bind ?_ fun _ => ?_
    | with_reducible refine KeptV.ite ?_ ?_
    | with_reducible refine KeptV.mapM (fun _ => ?_) _
    | with_reducible refine KeptV.forM (fun _ => ?_) _
    | split
    | dsimp only
theorem vSealed_kept {e : VEnv} {p : Parms} {j0 : Job} : KeptV (vSealed e p j0) := by
  unfold vSealed
  repeat' first
    | with_reducible exact KeptV.pure
    | with_reducible exact KeptV.throw
    | with_reducible exact KeptV.get
    | with_reducible exact need_kept
    | with_reducible exact vRead_kept
    | with_reducible exact vWrite_kept
    | with_reducible exact vFree_kept
    | with_reducible exact vGen_kept
    | with_reducible exact vScratch_kept
    | with_reducible exact vKey_kept
    | with_reducible exact vStage_kept
    | with_reducible refine KeptV.bind ?_ fun _ => ?_
    | with_reducible refine KeptV.ite ?_ ?_
    | with_reducible refine KeptV.mapM (fun _ => ?_) _
    | with_reducible refine KeptV.forM (fun _ => ?_) _
    | split
    | dsimp only
theorem vMirror_kept {e : VEnv} {p : Parms} {j : Job} {k jslot moff : Nat} : KeptV (vMirror e p j k jslot moff) := by
  unfold vMirror
  repeat' first
    | with_reducible exact KeptV.pure
    | with_reducible exact KeptV.throw
    | with_reducible exact KeptV.get
    | with_reducible exact need_kept
    | with_reducible exact vRead_kept
    | with_reducible exact vWrite_kept
    | with_reducible exact vFree_kept
    | with_reducible refine KeptV.bind ?_ fun _ => ?_
    | with_reducible refine KeptV.ite ?_ ?_
    | with_reducible refine KeptV.mapM (fun _ => ?_) _
    | with_reducible refine KeptV.forM (fun _ => ?_) _
    | split
    | dsimp only
theorem vMirrored_kept {st : Nat} : KeptV (vMirrored st) :=
  KeptV.ite KeptV.pure (KeptV.ite (KeptV.bind KeptV.get fun _ => need_kept)
    (KeptV.change (g := fun s => s.fresh.2) (fun _ => State_fresh_kept) fun _ => KeptV.throw))
theorem vPutDone_kept {e : VEnv} {p : Parms} {j : Job} {jslot : Nat} : KeptV (vPutDone e p j jslot) := by
  refine KeptV.seen fun s => ?_
  split
  · exact State_setIft_kept
  · exact Kept.refl
theorem vPutNarrow_kept {e : VEnv} {p : Parms} {j : Job} : KeptV (vPutNarrow e p j) := by
  unfold vPutNarrow
  repeat' first
    | with_reducible exact KeptV.pure
    | with_reducible exact KeptV.throw
    | with_reducible exact KeptV.get
    | with_reducible exact need_kept
    | with_reducible exact vRead_kept
    | with_reducible exact vWrite_kept
    | with_reducible exact vFree_kept
    | with_reducible exact vAnswer_kept
    | with_reducible exact vMirrored_kept
    | with_reducible exact vHand_kept
    | with_reducible exact vSealed_kept
    | with_reducible refine KeptV.bind ?_ fun _ => ?_
    | with_reducible refine KeptV.ite ?_ ?_
    | with_reducible refine KeptV.mapM (fun _ => ?_) _
    | with_reducible refine KeptV.forM (fun _ => ?_) _
    | split
    | dsimp only
theorem vPut_kept {e : VEnv} : KeptV (vPut e) := by
  unfold vPut
  repeat' first
    | with_reducible exact KeptV.pure
    | with_reducible exact KeptV.throw
    | with_reducible exact KeptV.get
    | with_reducible exact need_kept
    | with_reducible exact vRead_kept
    | with_reducible exact vWrite_kept
    | with_reducible exact vFree_kept
    | with_reducible exact vObject_kept
    | with_reducible exact vPutNarrow_kept
    | with_reducible exact vMirror_kept
    | with_reducible exact vMirrored_kept
    | with_reducible exact vPutDone_kept
    | with_reducible exact vSealed_kept
    | with_reducible refine KeptV.bind ?_ fun _ => ?_
    | with_reducible refine KeptV.ite ?_ ?_
    | with_reducible refine KeptV.mapM (fun _ => ?_) _
    | with_reducible refine KeptV.forM (fun _ => ?_) _
    | split
    | dsimp only
theorem vEncode_kept {e : VEnv} : KeptV (vEncode e) := by
  unfold vEncode
  repeat' first
    | with_reducible exact KeptV.pure
    | with_reducible exact KeptV.throw
    | with_reducible exact KeptV.get
    | with_reducible exact need_kept
    | with_reducible exact vRead_kept
    | with_reducible exact vWrite_kept
    | with_reducible exact vFree_kept
    | with_reducible exact vParms_kept
    | with_reducible exact vHeader_kept
    | with_reducible exact vGen_kept
    | with_reducible exact vScratch_kept
    | with_reducible exact vStage_kept
    | with_reducible refine KeptV.bind ?_ fun _ => ?_
    | with_reducible refine KeptV.ite ?_ ?_
    | with_reducible refine KeptV.mapM (fun _ => ?_) _
    | with_reducible refine KeptV.forM (fun _ => ?_) _
    | split
    | dsimp only
theorem vRepair_kept {e : VEnv} {j : Job} {a : Nat} : KeptV (vRepair e j a) := by
  unfold vRepair
  repeat' first
    | with_reducible exact KeptV.pure
    | with_reducible exact KeptV.throw
    | with_reducible exact KeptV.get
    | with_reducible exact need_kept
    | with_reducible exact vRead_kept
    | with_reducible exact vWrite_kept
    | with_reducible exact vFree_kept
    | with_reducible refine KeptV.bind ?_ fun _ => ?_
    | with_reducible refine KeptV.ite ?_ ?_
    | with_reducible refine KeptV.mapM (fun _ => ?_) _
    | with_reducible refine KeptV.forM (fun _ => ?_) _
    | split
    | dsimp only
theorem vRebuilt_kept {e : VEnv} {j : Job} {work : Nat} {p : Parms} {out : List (Nat × List Byte)} : KeptV (vRebuilt e j work p out) := by
  unfold vRebuilt
  repeat' first
    | with_reducible exact KeptV.pure
    | with_reducible exact KeptV.throw
    | with_reducible exact KeptV.get
    | with_reducible exact need_kept
    | with_reducible exact vRead_kept
    | with_reducible exact vWrite_kept
    | with_reducible exact vFree_kept
    | with_reducible exact vDrives_kept
    | with_reducible refine KeptV.bind ?_ fun _ => ?_
    | with_reducible refine KeptV.ite ?_ ?_
    | with_reducible refine KeptV.mapM (fun _ => ?_) _
    | with_reducible refine KeptV.forM (fun _ => ?_) _
    | split
    | dsimp only
theorem vRecon_kept {e : VEnv} : KeptV (vRecon e) := by
  unfold vRecon
  repeat' first
    | with_reducible exact KeptV.pure
    | with_reducible exact KeptV.throw
    | with_reducible exact KeptV.get
    | with_reducible exact need_kept
    | with_reducible exact vRead_kept
    | with_reducible exact vWrite_kept
    | with_reducible exact vFree_kept
    | with_reducible exact vParms_kept
    | with_reducible exact vHeader_kept
    | with_reducible exact vGen_kept
    | with_reducible exact vScratch_kept
    | with_reducible exact vStage_kept
    | with_reducible exact vMore_kept
    | with_reducible exact vRebuilt_kept
    | with_reducible exact vPresent_kept
    | with_reducible exact vRepair_kept
    | with_reducible refine KeptV.bind ?_ fun _ => ?_
    | with_reducible refine KeptV.ite ?_ ?_
    | with_reducible refine KeptV.map ?_
    | with_reducible refine KeptV.mapM (fun _ => ?_) _
    | with_reducible refine KeptV.forM (fun _ => ?_) _
    | split
    | dsimp only
theorem vScan_kept {scrub : Bool} {e : VEnv} {j : Job} {work : Nat} {l : List Nat} {a : List Nat × List Nat × List Nat} :
    KeptV (vScan scrub e j work l a) := by
  induction l generalizing a with
  | nil => exact KeptV.pure
  | cons x t ih =>
    obtain ⟨g, b, k⟩ := a
    refine KeptV.bind KeptV.get fun _ => ?_
    dsimp only
    exact KeptV.ite KeptV.pure (KeptV.ite ih (KeptV.bind vShard_kept fun _ => ih))
theorem vVerify_kept {b : Bool} {e : VEnv} : KeptV (vVerify b e) := by
  unfold vVerify
  repeat' first
    | with_reducible exact KeptV.pure
    | with_reducible exact KeptV.throw
    | with_reducible exact KeptV.get
    | with_reducible exact need_kept
    | with_reducible exact vRead_kept
    | with_reducible exact vWrite_kept
    | with_reducible exact vFree_kept
    | with_reducible exact vParms_kept
    | with_reducible exact vHeader_kept
    | with_reducible exact vGen_kept
    | with_reducible exact vScan_kept
    | with_reducible exact vStage_kept
    | with_reducible refine KeptV.bind ?_ fun _ => ?_
    | with_reducible refine KeptV.ite ?_ ?_
    | with_reducible refine KeptV.mapM (fun _ => ?_) _
    | with_reducible refine KeptV.forM (fun _ => ?_) _
    | split
    | dsimp only
theorem vContribute_kept {e : VEnv} {j : Job} {p : Parms} {rs : RepairSet} {c : Carry} : KeptV (vContribute e j p rs c) := by
  unfold vContribute
  repeat' first
    | with_reducible exact KeptV.pure
    | with_reducible exact KeptV.throw
    | with_reducible exact KeptV.get
    | with_reducible exact need_kept
    | with_reducible exact vRead_kept
    | with_reducible exact vWrite_kept
    | with_reducible exact vFree_kept
    | with_reducible exact vShard_kept
    | with_reducible refine KeptV.bind ?_ fun _ => ?_
    | with_reducible refine KeptV.ite ?_ ?_
    | with_reducible refine KeptV.mapM (fun _ => ?_) _
    | with_reducible refine KeptV.forM (fun _ => ?_) _
    | split
    | dsimp only
theorem vCarry_kept {e : VEnv} {j : Job} {p : Parms} {rs : RepairSet} : KeptV (vCarry e j p rs) := by
  unfold vCarry
  repeat' first
    | with_reducible exact KeptV.pure
    | with_reducible exact KeptV.throw
    | with_reducible exact KeptV.get
    | with_reducible exact need_kept
    | with_reducible exact vRead_kept
    | with_reducible exact vWrite_kept
    | with_reducible exact vFree_kept
    | with_reducible refine KeptV.bind ?_ fun _ => ?_
    | with_reducible refine KeptV.ite ?_ ?_
    | with_reducible refine KeptV.mapM (fun _ => ?_) _
    | with_reducible refine KeptV.forM (fun _ => ?_) _
    | split
    | dsimp only
theorem vAccum_kept {e : VEnv} {b : Bool} : KeptV (vAccum e b) := by
  unfold vAccum
  repeat' first
    | with_reducible exact KeptV.pure
    | with_reducible exact KeptV.throw
    | with_reducible exact KeptV.get
    | with_reducible exact need_kept
    | with_reducible exact vRead_kept
    | with_reducible exact vWrite_kept
    | with_reducible exact vFree_kept
    | with_reducible exact vParms_kept
    | with_reducible exact vHeader_kept
    | with_reducible exact vGen_kept
    | with_reducible exact vRepair_kept
    | with_reducible refine KeptV.bind ?_ fun _ => ?_
    | with_reducible refine KeptV.ite ?_ ?_
    | with_reducible refine KeptV.mapM (fun _ => ?_) _
    | with_reducible refine KeptV.forM (fun _ => ?_) _
    | split
    | dsimp only
theorem vAccumOut_kept {e : VEnv} : KeptV (vAccumOut e) := by
  unfold vAccumOut
  repeat' first
    | with_reducible exact KeptV.pure
    | with_reducible exact KeptV.throw
    | with_reducible exact KeptV.get
    | with_reducible exact need_kept
    | with_reducible exact vRead_kept
    | with_reducible exact vWrite_kept
    | with_reducible exact vFree_kept
    | with_reducible exact vAccum_kept
    | with_reducible exact vCarry_kept
    | with_reducible exact vContribute_kept
    | with_reducible refine KeptV.bind ?_ fun _ => ?_
    | with_reducible refine KeptV.ite ?_ ?_
    | with_reducible refine KeptV.mapM (fun _ => ?_) _
    | with_reducible refine KeptV.forM (fun _ => ?_) _
    | split
    | dsimp only
theorem vAccumIn_kept {e : VEnv} : KeptV (vAccumIn e) := by
  unfold vAccumIn
  repeat' first
    | with_reducible exact KeptV.pure
    | with_reducible exact KeptV.throw
    | with_reducible exact KeptV.get
    | with_reducible exact need_kept
    | with_reducible exact vRead_kept
    | with_reducible exact vWrite_kept
    | with_reducible exact vFree_kept
    | with_reducible exact vAccum_kept
    | with_reducible exact vCarry_kept
    | with_reducible exact vContribute_kept
    | with_reducible exact vDrives_kept
    | with_reducible refine KeptV.bind ?_ fun _ => ?_
    | with_reducible refine KeptV.ite ?_ ?_
    | with_reducible refine KeptV.mapM (fun _ => ?_) _
    | with_reducible refine KeptV.forM (fun _ => ?_) _
    | split
    | dsimp only
theorem vSurvivors_kept {e : VEnv} {g : Nat} {j : Job} : KeptV (vSurvivors e g j) := by
  have h : ∀ l r, KeptV (vSurvivors.go e g j l r) := by
    intro l
    induction l with
    | nil => exact fun _ => KeptV.pure
    | cons x t ih => exact fun r => KeptV.ite KeptV.pure (KeptV.bind vPresent_kept fun _ => ih _)
  exact KeptV.bind (h _ _) fun _ => KeptV.bind need_kept fun _ => KeptV.pure
theorem vTranscode_kept {e : VEnv} : KeptV (vTranscode e) := by
  unfold vTranscode
  repeat' first
    | with_reducible exact KeptV.pure
    | with_reducible exact KeptV.throw
    | with_reducible exact KeptV.get
    | with_reducible exact need_kept
    | with_reducible exact vRead_kept
    | with_reducible exact vWrite_kept
    | with_reducible exact vFree_kept
    | with_reducible exact vParms_kept
    | with_reducible exact vHeader_kept
    | with_reducible exact vGen_kept
    | with_reducible exact vScratch_kept
    | with_reducible exact vStage_kept
    | with_reducible exact vSurvivors_kept
    | with_reducible exact vRebuilt_kept
    | with_reducible refine KeptV.bind ?_ fun _ => ?_
    | with_reducible refine KeptV.ite ?_ ?_
    | with_reducible refine KeptV.mapM (fun _ => ?_) _
    | with_reducible refine KeptV.forM (fun _ => ?_) _
    | split
    | dsimp only
theorem vendorRun_kept {s : State} {n : Fin 8} {c : Fin 4} {op : Nat} {io : StripeIo} {body : VEnv → VM VOut} (hb : ∀ e, KeptV (body e)) :
    Kept s (vendorRun s n c op io body) := by
  unfold vendorRun
  dsimp only
  refine Kept.ite ?_ Kept.refl
  split
  · exact Kept.refl
  · refine Kept.ite spEnd_kept ?_
    split
    · exact Kept.refl
    · exact Kept.ite ((Kept.trans State_setIft_kept (hb _ _)).trans vEnd_kept) Kept.refl
theorem execGet_kept {n : Fin 8} {c : Fin 4} {io : StripeIo} {s : State} : KeptR s (execGet n c io s) :=
  KeptR.ok (vendorRun_kept fun _ => vGet_kept)
theorem execPut_kept {n : Fin 8} {c : Fin 4} {io : StripeIo} {s : State} : KeptR s (execPut n c io s) :=
  KeptR.ok (vendorRun_kept fun _ => vPut_kept)
theorem execEncode_kept {n : Fin 8} {c : Fin 4} {io : StripeIo} {s : State} : KeptR s (execEncode n c io s) :=
  KeptR.ok (vendorRun_kept fun _ => vEncode_kept)
theorem execRecon_kept {n : Fin 8} {c : Fin 4} {io : StripeIo} {s : State} : KeptR s (execRecon n c io s) :=
  KeptR.ok (vendorRun_kept fun _ => vRecon_kept)
theorem execVerify_kept {n : Fin 8} {c : Fin 4} {io : StripeIo} {s : State} : KeptR s (execVerify n c io s) :=
  KeptR.ok (vendorRun_kept fun _ => vVerify_kept)
theorem execScrub_kept {n : Fin 8} {c : Fin 4} {io : StripeIo} {s : State} : KeptR s (execScrub n c io s) :=
  KeptR.ok (vendorRun_kept fun _ => vVerify_kept)
theorem execAccumOut_kept {n : Fin 8} {c : Fin 4} {io : StripeIo} {s : State} : KeptR s (execAccumOut n c io s) :=
  KeptR.ok (vendorRun_kept fun _ => vAccumOut_kept)
theorem execAccumIn_kept {n : Fin 8} {c : Fin 4} {io : StripeIo} {s : State} : KeptR s (execAccumIn n c io s) :=
  KeptR.ok (vendorRun_kept fun _ => vAccumIn_kept)
theorem execTranscode_kept {n : Fin 8} {c : Fin 4} {io : StripeIo} {s : State} : KeptR s (execTranscode n c io s) :=
  KeptR.ok (vendorRun_kept fun _ => vTranscode_kept)

end Sys2Proof.Laws
end

