-- ==== Sys2Proof/Safety.lean ====
section
/-! DEFINITION. Safe outcomes of a step. -/
namespace Sys2Proof.Machine

/-- The step goes on. -/
def goesOn (s : State) : Prop := ∃ t, step s = .next t

end Sys2Proof.Machine
end

