-- ==== Sys2Proof/Tests/Slice0.lean ====
section
/-! SUPPORT. The model's own tests: for every obligation a witness of its hypotheses, with results the specification gives, and
ill-formed terms that the well-formedness check refuses. -/

namespace Sys2Proof.Tests

open Sys2Proof Sys2Proof.Machine
set_option maxRecDepth 40000
set_option Elab.async false

/-- The state that a command answers, if it goes on. -/
def after (r : Res) : Option State :=
  match r with
  | .next t => some t
  | _ => none
/-- A property holds of the state that a command answers. -/
def holds (r : Res) (p : State → Bool) : Bool :=
  match r with
  | .next t => p t
  | _ => false
/-- The Keep core, whose transactions carry the Custody world, and the management block, whose do not. -/
abbrev keep : MasterId := 23
abbrev mgmt : MasterId := 22
/-- The reset state with a register set. -/
def put (page off : Nat) (v : Word32) : State := State.reset.setReg page off v

/-! ### The block -/

theorem witness_StepsRunTheCommandQueue :
    ({ State.reset with pending := [.phaseTick, .slewStep] } : State).pending = .phaseTick :: [.slewStep] ∧ State.reset.pending = [] ∧
    after (step { State.reset with pending := [.phaseTick] }) = after (exec .phaseTick State.reset) ∧
    after (step State.reset) = some State.reset := by decide
theorem witness_OnlyIllFormedCommandsStop :
    Instr.wf .phaseTick = true ∧ Instr.wf (.registerWrite keep 0 []) = false ∧
    after (exec (.registerWrite keep 0 []) State.reset) = none := by decide
theorem witness_NoCommandTouchesTheQueue :
    holds (step { State.reset with pending := [.phaseTick, .release] }) (fun t => t.pending == [.release]) = true := by decide
theorem witness_StepKeepsMemoryCanonical :
    Memory.wf State.reset = true ∧ Regs.wf State.reset = true ∧
    holds (step { State.reset with pending := [.softwareEventSet keep 0 1] }) (fun t => Memory.wf t && Regs.wf t) = true := by decide
theorem witness_ResetState :
    (regInfo 0 0x100).map (·.reset) = some 0x1F ∧ State.reset.reg 0 0x100 = 0x1F ∧ (regInfo 0x3A1 0x100).isSome = true := by decide
theorem witness_MeterReadingsAreIsolated :
    holds (exec (.softwareEventSet keep 0 1) State.reset) (fun t => t.cup.energy == State.reset.cup.energy) = true := by decide

/-! ### Registers -/

theorem witness_RegisterWritesFollowAccessCodes :
    (State.reset.issues keep && State.reset.custodyOf keep) = true ∧ pageBlock 0 = some (.keep, 0) ∧ (regInfo 0 0x108).isSome = true ∧
    powerBad State.reset 0 0x108 = false ∧ identityBad State.reset 23 0 0x108 (some true) = false ∧
    (blockWrite State.reset 23 .keep 0 0x108 7).isNone = true ∧
    after (exec (.registerWrite keep (BitVec.ofNat 48 (regAddr 0 0x108)) (leBytes 4 7)) State.reset) =
      some { State.reset.setReg 0 0x108 7 with resp := .done } ∧
    -- refused: WIDTH, UNMAPPED, ACCESS, and a page of no block
    holds (exec (.registerWrite keep (BitVec.ofNat 48 (regAddr 0 0x102)) [1]) State.reset) (fun t => t.resp == .err .width) = true ∧
    regInfo 0 0xFFC = none ∧
    holds (exec (.registerWrite keep (BitVec.ofNat 48 (regAddr 0 0xFFC)) (leBytes 4 7)) State.reset) (fun t => t.resp == .err .unmapped) = true ∧
    State.reset.custodyOf mgmt = false ∧
    holds (exec (.registerWrite mgmt (BitVec.ofNat 48 (regAddr 0 0x108)) (leBytes 4 7)) State.reset) (fun t => t.resp == .err .access) = true ∧
    pageBlock 0x400 = none := by decide
theorem witness_LocksAndInterruptFlags :
    State.reset.locked 0x60 = false ∧ pageBlock 0x60 = some (.mbx, 0) ∧
    holds (exec (.lock keep 0x60 0x5A17) State.reset) (fun s => (sget s.locks 0x60 {}).first == 24 &&
      holds (exec (.lock keep 0x60 0xA5E8) s) (fun t => t.locked 0x60 && holds (exec (.lock keep 0x60 0) t) (fun u => u.locked 0x60))) = true ∧
    holds (exec (.lock keep 0x60 0x5A17) State.reset) (fun s => holds (exec (.lock mgmt 0x60 0xA5E8) s) (fun t =>
      !(t.locked 0x60) && (sget t.locks 0x60 {}).first == 0)) = true ∧
    pageSource 0x1C0 = some 250 ∧ irqMask 0x1C0 = 3 ∧
    holds (exec (.irqSet keep 0x1C0 0xFF) State.reset) (fun t => t.reg 0x1C0 oIrqRaw == 3) = true := by decide

/-! ### The Belfry and the timers -/

/-- The Belfry one tick before a wrap, with a slew in hand. -/
def slewing (v : Word32) : State := State.reset.setBelf { State.reset.belf with phase := 0xFFFF, slew := v, slewWait := 0 }

theorem witness_PhaseTickAdvancesBelfryTime :
    slewDue State.reset.belf = false ∧ slewDue (slewing 0).belf = false ∧ State.reset.boot.power ≠ .off ∧
    holds (exec .phaseTick { slewing 0 with boot := { State.reset.boot with power := .off } }) (fun t => t.belf == (slewing 0).belf) = true ∧
    holds (exec .phaseTick (slewing 0)) (fun t => t.belf.phase == 0 && t.belf.cycle == State.reset.belf.cycle + 1) = true := by decide
theorem witness_SlewStepsMoveOnlyTheCycleCount :
    (slewing 1).boot.power ≠ .off ∧ (slewing 1).belf.phase = 0xFFFF ∧ (slewing 1).belf.slew ≠ 0 ∧
    (State.reset.issues keep && State.reset.custodyOf keep) = true ∧ slewDue State.reset.belf = false ∧ slewDue (slewing 1).belf = true ∧
    slewDue (slewing 0xFFFFFFFF).belf = true ∧ Regs.wf (slewing 1) = true ∧
    holds (exec .slewStep (slewing 1)) (fun t => t.belf.slew == 0 && t.regB 0x10 oIrqRaw 4 && t.belf.cycle == State.reset.belf.cycle + 2) = true ∧
    holds (exec .slewStep (slewing 0xFFFFFFFE)) (fun t => t.belf.slew == 0xFFFFFFFF && t.belf.cycle == State.reset.belf.cycle) = true := by decide
theorem witness_BelfryTimeReadsAreConsistent :
    State.reset.issues 0 = true ∧ State.reset.issues keep = true ∧
    holds (exec (.synchronousTick [.route 0 2]) (slewing 0)) (fun t => t.belf == { (slewing 0).belf with shadow := 0xFFFF }) = true ∧
    holds (exec (.belfTimeLoRead keep) (State.reset.setBelf { State.reset.belf with cycle := 0x10000 })) (fun s =>
      holds (exec (.belfTimeHiRead keep) s) (fun t => t.resp == .data [1, 0, 0, 0] false)) = true := by decide

/-- The Belfry in a state, with its last crossing `n` REFCLK cycles ago. -/
def belfIn (st : BelfSt) (n : Nat) : State :=
  State.reset.setBelf { State.reset.belf with st := st, start := false, since := n, tracked := 2000000, phase := 0, next := none, holdCnt := 9 }

theorem witness_CrossingsMoveTheBelfry :
    crossSelected State.reset .cycPin = false ∧ crossSelected State.reset .cupola = true ∧ State.reset.belf.start = true ∧
    crossSelected (belfIn .synth 0) .cupola = true ∧
    holds (exec (.referenceCrossing .cupola 1538500) (belfIn .synth 0)) (fun t => t.belf.valid == 1 && t.belf.since == 0) = true ∧
    holds (exec (.referenceCrossing .cupola 2222200) (belfIn .acquire 0)) (fun t => t.belf.valid == 1) = true ∧
    holds (exec (.referenceCrossing .cupola 1538499) (belfIn .synth 0)) (fun t => t.regB 0x10 oIrqRaw 5) = true ∧
    holds (exec (.referenceCrossing .cupola 2222201) (belfIn .acquire 0)) (fun t => t.regB 0x10 oIrqRaw 5) = true ∧
    holds (exec .belfryStateChange ((belfIn .synth 0).setBelf { (belfIn .synth 0).belf with next := some .acquire }))
      (fun t => t.belf.st == .acquire && t.regB 0x10 oIrqRaw (belfIrq .acquire)) = true ∧
    Regs.wf (belfIn .synth 0) = true ∧ 33 * (belfIn .locked 0).belf.tracked < 16 * 4125001 ∧
    holds (exec (.crossingTimeout 4125001) (belfIn .locked 0)) (fun t => t.belf.next == some .holdover) = true ∧
    holds (exec .holdLimitExpiry ((belfIn .holdover 0).setRegF 0x10 oCtl 16 16 9)) (fun t => t.belf.next == some .synth) = true ∧
    holds (exec (.srcWrite keep 2) (belfIn .locked 0)) (fun t => t.belf.next == some .synth && t.belf.start) = true ∧
    holds (exec (.srcWrite keep 1) (belfIn .locked 0)) (fun t => t.belf.next == some .holdover) = true := by decide

/-- Comparator 4 with a control word and a target of 0. -/
def cmp4 (ctl : Word32) : State := put 0x11 0x148 ctl

theorem witness_ComparatorTargetsFreezeWhileArmed :
    State.reset.bcmpEn 4 = false ∧ (cmp4 1).bcmpEn 4 = true ∧ State.reset.bcmpEn 31 = false ∧ State.reset.issues keep = true := by decide
theorem witness_ComparatorsArmAndFire :
    State.reset.issues mgmt = true ∧ State.reset.custodyOf mgmt = false ∧ State.reset.issues keep = true ∧ State.reset.custodyOf keep = true ∧
    holds (exec (.bcmpTargetWrite keep 32 false 5) State.reset) (fun t => t.regs == []) = true ∧
    Regs.wf (cmp4 1) = true ∧ bcmpDue State.reset 4 = false ∧
    bcmpDue ((cmp4 1).setBelf { State.reset.belf with cycle := 5 }) 4 = true ∧
    holds (exec (.comparatorFire 4) ((cmp4 1).setBelf { State.reset.belf with cycle := 5 })) (fun t =>
      t.regB 0x11 oIrqRaw 4 && (!(t.bcmpEn 4) && t.regB 0x11 0x14C 0)) = true ∧
    holds (exec (.bcmpCtlWrite keep 31 0xFFFFFFFF) State.reset) (fun t => t.reg 0x11 0x2F8 == 0xFFFFFF03) = true := by decide

/-- Timer 0 of page 0x020 with a control word, COUNT and RELOAD. -/
def tmr0 (ctl count reload : Word32) : State :=
  ((put 0x20 (tmrOff 0) ctl).setReg 0x20 (tmrOff 0 + 4) count).setReg 0x20 (tmrOff 0 + 0xC) reload

theorem witness_TimersCountMatchAndMakeUp :
    State.reset.c5 0 = false ∧ regFld (0x20 : Word32) 4 3 < 3 ∧
    holds (exec (.tctlWrite keep 0 0 0xFFFFFF21) State.reset) (fun t => t.reg 0x20 (tmrOff 0) == 0x00FFFF21) = true ∧
    State.reset.tRuns 0 0 = false ∧ (tmr0 1 6 7).tRuns 0 0 = true ∧ (tmr0 1 6 7).tLink 0 0 = false ∧ (tmr0 1 6 7).tLow 0 0 = false ∧
    Regs.wf (tmr0 1 6 7) = true ∧
    holds (exec (.timerTick 0 0) (tmr0 1 6 7)) (fun t => t.reg 0x20 (tmrOff 0 + 4) == 7) = true ∧
    holds (exec (.timerTick 0 0) (tmr0 1 7 7)) (fun t => t.reg 0x20 (tmrOff 0 + 4) == 0 && t.regB 0x20 oIrqRaw 1) = true ∧
    (put 0x20 (tmrOff 1) 4).tLow 0 0 = true ∧ (put 0x20 (tmrOff 1) 4).tLink 0 1 = true ∧
    (State.reset.timer 0 0).stopped = false ∧ State.reset.tSleeps 0 = false ∧ (tmr0 1 6 7).tDue 0 0 = true ∧ (tmr0 0x101 6 7).tDue 0 0 = false ∧
    (tmr0 0x101 6 7).tSrc 0 0 = 0 ∧ ((tmr0 0x101 6 7).timer 0 0).div < (tmr0 0x101 6 7).tPresc 0 0 ∧
    holds (exec (.cmpWrite keep 0 0 7 true) (tmr0 1 6 9)) (fun t => t.reg 0x20 (tmrOff 0 + 4) == 7 && t.regB 0x20 oIrqRaw 0) = true ∧
    holds (exec (.timerTick 0 0) (tmr0 0x101 6 7)) (fun t => t.reg 0x20 (tmrOff 0 + 4) == 6) = true ∧
    ((tmr0 1 6 7).setTimer 0 0 { stopped := true, frac := 0 }).tEn 0 0 = true ∧
    holds (exec (.timerRestart 0 0 1) ((tmr0 1 0 0xFFFFFFFF).setTimer 0 0 { stopped := true, frac := 0 }))
      (fun t => t.reg 0x20 (tmrOff 0 + 4) == 3051 && (t.timer 0 0).frac == 24832) = true := by decide
/-! ### Memory -/

/-- An address of DRAM as the commands carry it. -/
def dramAt (l o : Nat) : Addr := BitVec.ofNat 48 (dramBase + l * 64 + o)

theorem witness_ChannelFoldIsTheResidue :
    fold63 0 = 0 ∧ fold63 62 = 62 ∧ fold63 63 = 0 ∧ fold63 (2 ^ 32 - 1) = (2 ^ 32 - 1) % 63 := by decide
theorem witness_WideMapIsInjective :
    0 < dramLines ∧ 63 < dramLines ∧ fold63 0 = fold63 63 ∧ dramPlace ((0 - fold63 0) / 63) ≠ dramPlace ((63 - fold63 63) / 63) := by decide

/-- Every DRAM channel has power. -/
def dchOn (s : State) : State := (rangeFrom 0 64).foldl (fun t p => t.setDom (pdDch p) true) s
/-- The reset state with a memory mode, a widening pointer and every channel powered. -/
def modeOf (m : MemMode) (ptr : Nat) : State :=
  dchOn { State.reset with memc := { State.reset.memc with mode := m, widenPtr := ptr } }
/-- NARROW with an error in a stored line. -/
def erred (bits tag : Nat) : State :=
  (modeOf .narrow 0).setLineErr (((modeOf .narrow 0).dramLocs 0).getD ((0, 0), [])).1 { bits := bits, tag := tag }

/-- A copy to the spare has passed line 0, whose place in channel 63 has two bits in error. -/
def passed : State :=
  let s := { modeOf .wide 0 with memc := { (modeOf .wide 0).memc with spareSt := .copy, sparePtr := 1, spareLogical := fold63 0 } }
  match s.dramLocs 0 with
  | some (rd, _) => s.setLineErr rd { bits := 2 }
  | none => s

/-- NARROW with no channel on. -/
def unpowered : State := { State.reset with memc := { State.reset.memc with mode := .narrow } }

theorem witness_DramAccessesActOnTheirLine :
    ((modeOf .narrow 0).dramLocs 0).map (fun x => (modeOf .narrow 0).chansOn (x.1 :: x.2)) = some true ∧
    (unpowered.dramLocs 0).map (fun x => unpowered.dom (pdDch x.1.1)) = some false ∧
    holds (exec (.dramRead keep (dramAt 0 0) 1 {}) unpowered) (fun t => t.resp == .err .power) = true ∧
    (passed.dramLocs 0).map (fun x => (x.1.1, x.2.length)) = some (63, 2) ∧ passed.memc.held = [] ∧ passed.memc.spareLogical < 63 ∧
    passed.dom (pdDch 63) = true ∧
    holds (exec (.dramRead keep (dramAt 0 0) 1 {}) passed) (fun t => t.memc.spareSt == .failed && t.resp == .data [0] false) = true ∧
    (modeOf .narrow 0).issues keep = true ∧ 0 < dramLines ∧ 60 + 4 ≤ 64 ∧ Regs.wf (modeOf .narrow 0) = true ∧ Memory.wf (modeOf .narrow 0) = true ∧
    (modeOf .narrow 0).dramLocs (dramLines - 1) = none ∧ ((modeOf .narrow 0).dramLocs 0).isSome = true ∧
    (erred 1 0).lineErrAt (((modeOf .narrow 0).dramLocs 0).getD ((0, 0), [])).1 = { bits := 1, tag := 0 } ∧
    holds (exec (.dramRead keep (dramAt 0 60) 4 {}) (modeOf .narrow 0)) (fun t => t.resp == .data [0, 0, 0, 0] false && t.regs == []) = true ∧
    holds (exec (.dramRead keep (dramAt 0 0) 1 {}) (erred 1 0)) (fun t => t.resp == .data [0] false && (t.lineErr == [])) = true ∧
    holds (exec (.dramRead keep (dramAt 0 0) 1 {}) (erred 2 0)) (fun t => t.resp == .data [0] true) = true ∧
    holds (exec (.dramRead keep (dramAt (dramLines - 1) 0) 1 {}) (modeOf .narrow 0)) (fun t => t.resp == .err .notmapped) = true ∧
    (match (modeOf .narrow 0).dramLocs 0 with | some (rd, ws) => ws == [rd] | none => false) = true ∧
    holds (exec (.dramWrite keep (dramAt 0 60) [1, 2, 3, 4] {}) (modeOf .narrow 0)) (fun t =>
      (t.resp == .done && t.mem.length == 4) && holds (exec (.dramRead keep (dramAt 0 59) 3 {}) t) (fun u => u.resp == .data [0, 1, 2] false)) = true := by decide +kernel

theorem witness_WideningKeepsEveryLine :
    (modeOf .widening 0).memc.mode = .widening ∧ (modeOf .widening 0).memc.widenPtr + 32 ≤ narrowLines ∧ (modeOf .widening 0).lineErr = [] ∧
    Memory.wf (modeOf .widening 0) = true ∧
    holds (exec (.wideningCopyBlock []) (modeOf .widening (narrowLines - 32))) (fun t => t.memc.widenPtr == narrowLines) = true := by decide +kernel

/-- WIDE with a spare state and a copy pointer. -/
def spareIn (st : SpareSt) (p : Nat) : State :=
  dchOn { State.reset with memc := { State.reset.memc with mode := .wide, spareSt := st, sparePtr := p } }

theorem witness_WideningAndSparingRun :
    (modeOf .narrow 0).issues keep = true ∧ (modeOf .narrow 0).custodyOf keep = true ∧
    holds (exec (.widen keep 1) State.reset) (fun t => t.memc.mode == State.reset.memc.mode) = true ∧
    (modeOf .widening narrowLines).memc.held = [] ∧ swf domainReset (spareIn .switch 0).domains = true ∧
    holds (exec .wideDone { modeOf .widening narrowLines with memc := { (modeOf .widening narrowLines).memc with spareSt := .copy, sparePtr := 7 } })
      (fun t => t.memc.spareSt == .arm && t.memc.sparePtr == 0) = true ∧
    holds (exec (.scrubRead 63 0 { bits := 1 }) ((put 0x80 0x118 0x80000000).setDom (pdDch 63) true)) (fun t =>
      t.reg 0xFF 0x100 == 1 && (t.regB 0xFF oIrqRaw 0 && t.lineErr == [])) = true ∧
    holds (exec .wideDone (modeOf .widening narrowLines)) (fun t => t.memc.mode == .wide && t.regB 0x80 oIrqRaw 4) = true ∧
    holds (exec (.spareForce keep 0x003E0100) (spareIn .idle 0)) (fun t => t.memc.spareSt == .arm && t.memc.spareLogical == 62) = true ∧
    regFld (0x003E0100 : Word32) 16 6 = 62 ∧ regBit (0x003E0100 : Word32) 8 = true ∧
    holds (exec (.spareCopyBlock []) (spareIn .arm 0)) (fun t => t.memc.spareSt == .copy && t.memc.sparePtr == 1) = true ∧
    holds (exec (.spareCopyBlock []) (spareIn .copy (spareBlocks - 1))) (fun t => t.memc.spareSt == .switch) = true ∧
    holds (exec .spareSwitch (spareIn .switch 0)) (fun t => t.memc.spareSt == .used && t.memc.spareValid) = true ∧
    holds (exec (.spareAbort .verifyFailed) (spareIn .copy 5)) (fun t => t.memc.spareSt == .failed && t.regB 0x80 oIrqRaw 3) = true ∧
    (put 0x80 0x118 0).regB 0x80 0x118 31 = false ∧ (put 0x80 0x118 0x80000000).regB 0x80 0x118 31 = true ∧
    ((put 0x80 0x118 0x80000000).setDom (pdDch 63) true).dom (pdDch 63) = true ∧ 0 < chanLines ∧
    holds (exec (.scrubRead 63 0 {}) ((put 0x80 0x118 0x80000000).setDom (pdDch 63) true)) (fun t => t.mem == []) = true := by decide +kernel

/-- Bank 0 of SCR0 in a state. -/
def bank0 (v : Nat) : State := State.reset.setBankSt 0 0 v

theorem witness_ScratchAndBanksActByState :
    State.reset.issues keep = true ∧ bankOf (scrBase + 8 * 0 + 7) = some (0, 0) ∧ (bank0 1).bankSt 0 0 = 1 ∧ sget (bank0 1).scr0.filling 0 0 = 0 ∧
    (bank0 0).bankSt 0 0 = 0 ∧ (bank0 3).bankSt 0 0 = 3 ∧ Memory.wf (bank0 1) = true ∧
    holds (exec (.sramAccess keep (BitVec.ofNat 48 scrBase) (.write [9, 8]) {}) (bank0 1)) (fun t => t.mem == [(scrBase, 9), (scrBase + 1, 8)]) = true ∧
    holds (exec (.sramAccess keep (BitVec.ofNat 48 (scrBase + 7)) (.read 1) {}) (bank0 1)) (fun t => t.resp == .data [0] false) = true ∧
    holds (exec (.sramAccess keep (BitVec.ofNat 48 scrBase) (.read 1) {}) (bank0 0)) (fun t => t.resp == .err .power) = true ∧
    holds (exec (.dmaStarve 1) State.reset) (fun t => t.regB 0x101 oIrqRaw 4 && t.reg 0x101 0x148 == 1) = true ∧
    State.reset.regB (scrPage 0) oCtl 0 = true ∧ (put (scrPage 0) oCtl 0).regB (scrPage 0) oCtl 0 = false ∧
    (patrolTarget State.reset 0).isSome = true ∧ (State.reset.scr 0).stuck = none ∧
    (List.range 16).all (fun i => !(bstateRefused State.reset 1 3 0xFFFFFFFF i)) = true ∧ bankMoves 0 1 true = 1 ∧ bankMoves 3 0 true = 3 ∧
    holds (exec (.scrBstateWrite keep 0 15 1) ((State.reset.setDom (bankDomain 0 240) true).setDom pdFab1 true)) (fun t => t.bankSt 0 240 == 1) = true ∧
    holds (exec (.scrBstateWrite keep 0 0 0) { bank0 1 with mem := [(scrBase, 9)] }) (fun t => t.bankSt 0 0 == 0 && t.mem == []) = true ∧
    holds (exec (.bankZeroFill 0 0) { bank0 1 with scr0 := { (bank0 1).scr0 with filling := [(0, 1)] }, mem := [(scrBase, 9)] })
      (fun t => t.mem == [] && sget t.scr0.filling 0 0 == 0) = true ∧
    holds (exec (.patrolRegion 0 0) State.reset) (fun t => t.scr0.next == 1) = true := by decide +kernel
/-! ### Turret cores -/

/-- Core 0 running alone with a window, RC and FLAGS. -/
def tur (w : List Cell) (rc : Cell) (f : Flags) : State :=
  (((State.reset.setDom (pdTur 0) true).setReg 0x1A0 8 0).setPair 0 { State.reset.pair 0 with relSplit := true }).setCx 0
    { (State.reset.cx 0) with win := cellsOf w, rc := rc, flags := f, custody := true, super := true, mask := 0 }
/-- Its instruction, with prefix bytes. -/
def op0 (b : List Byte) : DisOp := { ex := .turret 0, pfx := b }
/-- The hypothesis that an instruction runs plainly, as a test. -/
def plainB (s : State) (op : DisOp) (p : Pfx) (a : Acc) (len : Nat) : Bool :=
  (decide (op.ex = .turret 0) && (op.stop == none && (decide (op.hw = .quiet) && op.reserved == none))) && (decide (pfxParse {} op.pfx = some p) &&
    (decide (p.page = a.page) && (pfxBad a p == false && (s.executes 0 == true && (s.lockstep 0 == false &&
      (match fetchCheck s 0 (op.pfx.length + 1 + len) 0 with | .ok _ t => t == s | _ => false))))))
theorem plain_of {s : State} {op : DisOp} {p : Pfx} {a : Acc} {len : Nat} (h : plainB s op p a len = true) : plainRun s 0 op p a len := by
  simp only [plainB, Bool.and_eq_true, decide_eq_true_eq, beq_iff_eq] at h
  obtain ⟨⟨h1, h2, h3, h0⟩, h4, h5, h6, h7, h8, h9⟩ := h
  refine ⟨h1, h2, h3, h0, h4, h5, h6, h7, h8, ?_⟩
  split at h9
  · rename_i t he
    rw [he, beq_iff_eq.mp h9]
  · cases h9
/-- What a row makes of a window at 64 bits. -/
def rowOn (r : ScalarRow) (s : State) (w : List Cell) : State :=
  afterOp s 0 (cellsOf (r.f 64 (s.cx 0).flags (w.take r.k)).1 ++ cellsOf (w.drop r.k)) (r.f 64 (s.cx 0).flags (w.take r.k)).2 1

theorem plain_tur : plainB (tur [5, 3, 2, 1] 0 0) (op0 []) {} { rep := true, repn := true } 0 = true ∧
    plainB (tur [5, 3, 2, 1] 0 0) (op0 []) {} { w32 := true, w16 := true, rep := true, repn := true } 0 = true := by decide +kernel
theorem witness_ScalarInstructionsDoTheirRow :
    plainRun (tur [5, 3, 2, 1] 0 0) 0 (op0 []) {} { w32 := true, w16 := true, rep := true, repn := true } 0 :=
  plain_of plain_tur.2
theorem test_scalar_rows :
    scalarRows.all (fun r => holds (exec (r.instr (op0 [])) (tur [5, 3, 2, 1] 0 0)) (fun t =>
      t.cx 0 == (rowOn r (tur [5, 3, 2, 1] 0 0) [5, 3, 2, 1]).cx 0)) = true := by decide +kernel
/-- A result leaves core 0 with this window, FLAGS and RC, at this address. -/
def core0 (r : Res) (w : List Cell) (f : Flags) (rc : Cell) (pc : Nat) : Bool :=
  holds r fun t => ((t.cx 0).win == cellsOf w && (t.cx 0).flags == f) && ((t.cx 0).rc == rc && (t.cx 0).pc.toNat == pc)

theorem witness_CountedInstructionsStepByRc :
    plainRun (tur [7, 1] 2 0) 0 (op0 [0xF1]) { repi := true, count := 1 } { w32 := true, w16 := true, rep := true, repn := true } 0 ∧
    plainRun (tur [7, 1] 64 0) 0 (op0 [0xF0]) { repn := true, count := 1 } { w32 := true, w16 := true, rep := true, repn := true } 0 ∧
    plainRun (tur [0x40008, 0x40010] 0 0) 0 (op0 []) {} { far := true } 0 :=
  ⟨plain_of (by decide +kernel), plain_of (by decide +kernel), plain_of (by decide +kernel)⟩
theorem test_repeat :
    core0 (exec (.inc (op0 [0xF1])) (tur [7, 1] 2 0)) [9, 1] 0 0 2 = true ∧
    core0 (exec (.inc { op0 [0xF1] with stop := some 1 }) (tur [7, 1] 2 0)) [8, 1] 0 1 0 = true ∧
    core0 (exec (.inc { op0 [0xF0] with stop := some 1 }) (tur [7, 1] 2 0)) [7, 1] 0 2 0 = true ∧
    core0 (exec (.inc (op0 [0xF0])) (tur [7, 1] 64 0)) [71, 1] 0 0 2 = true ∧
    core0 (exec (.inc (op0 [0xF1])) (tur [7, 1] 0 0)) [7, 1] 0 0 2 = true := by decide +kernel
/-- Core 0 owns the stream unit. -/
def streams (w : List Cell) (rc : Cell) : State :=
  (tur w rc 0).setCore 0 { (tur w rc 0).core 0 with owner := ((tur w rc 0).core 0).owner.set 2 (some 0) }
theorem test_long_moves :
    core0 (exec (.movb (op0 [])) (streams [0x40008, 0x40010, 6] 0)) [6] 0 0 1 = true ∧
    core0 (exec (.cmpb (op0 [])) (streams [0x40008, 0x40010, 6] 0)) [0x40008, 0x40010, 6] (setZ 0 true) 0 1 = true ∧
    core0 (exec (.cmpb (op0 [])) (streams [0x40008, 0x40010, 6] 8)) [0x40010, 0x40018, 6] (setZ 0 true) 0 1 = true ∧
    core0 (exec (.crcb (op0 [])) (streams [0x40008, 0x40010, 6] 0)) [0x40010, 6] 0 0 1 = true := by decide +kernel

theorem witness_long_operands :
    nearOperand (streams [0x40008, 0x40010, 6] 6) 0 0x40008 6 (List.replicate 6 0) ∧ nearTarget (streams [0x40008, 0x40010, 6] 6) 0 0x40010 6 ∧
    (0x40010 : Nat) % 8 + 6 ≤ 8 ∧ 8 - (0x40010 : Nat) % 8 < 9 :=
  ⟨⟨by decide +kernel, rfl⟩, ⟨by decide +kernel, by decide, by decide, by decide +kernel⟩, by decide, by decide⟩
theorem test_long_bytes :
    holds (exec (.movb (op0 [])) (streams [0x40008, 0x40010, 6] 6)) (fun t => (t.cx 0).win == cellsOf [6] && ((t.cx 0).rc == 0 &&
      (t.core 0).sb.map (fun e => (e.addr, e.data)) == [(0x40010, List.replicate 6 0)])) = true ∧
    holds (exec (.fillb { op0 [] with stop := some 1 }) (streams [0x0102, 0x40013, 6] 9)) (fun t => (t.cx 0).win == cellsOf [0x0102, 0x40018, 6] &&
      ((t.cx 0).rc == 4 && (t.core 0).sb.map (fun e => (e.addr, e.data)) == [(0x40013, [0, 0, 0, 0, 0])])) = true ∧
    core0 (exec (.cmpb (op0 [])) (streams [0x40008, 0x40010, 6] 6)) [0x4000E, 0x40016, 6] (setZ 0 true) 0 1 = true := by decide +kernel

theorem witness_ExactArithmetic :
    (255 : Nat) < 2 ^ 8 ∧ (1 : Nat) < 2 ^ 8 ∧ (2 ^ 64 - 1 : Nat) < 2 ^ 64 ∧ binOp .add 8 255 1 false = { r := 0, c := true, v := false } ∧
    binOp .sub 8 128 1 false = { r := 127, c := false, v := true } ∧ divSigned 8 0xF9 2 = (0xFD, 0xFF, false) ∧
    shfOp .sar 8 0x80 9 = 0xFF := by decide

theorem witness_ControlFlowAndImmediates :
    immOk { size := 0, value := 0xFE } = true ∧ once ({} : Pfx) ∧
    plainRun (tur [0, 1] 2 0) 0 (op0 []) {} {} (immLen { size := 0, value := 0xFE }) ∧
    plainRun (tur [0, 1] 2 0) 0 (op0 []) {} {} (immLen { size := 3, value := 0x1234 }) ∧
    plainRun (tur [0, 1] 2 0) 0 (op0 []) {} { rep := true, repn := true } 1 ∧
    plainRun (tur [0, 1] 2 0) 0 (op0 []) {} { w32 := true, w16 := true, rep := true, repn := true } 1 ∧
    divCell true 64 0 false 7 (0xFFFFFFFFFFFFFFFE) = some (0xFFFFFFFFFFFFFFFD, 1, setZNCV 0 false true false false) :=
  ⟨rfl, ⟨rfl, rfl⟩, plain_of (by decide +kernel), plain_of (by decide +kernel), plain_of (by decide +kernel), plain_of (by decide +kernel),
   by decide +kernel⟩
theorem test_control_flow :
    core0 (exec (.br (op0 []) { size := 0, value := 0x7E }) (tur [0, 1] 2 0)) [0, 1] 0 2 0x80 = true ∧
    core0 (exec (.call (op0 []) { size := 3, value := 0x1234 }) (tur [0, 1] 2 0)) [9, 0, 1] 0 2 0x1234 = true ∧
    core0 (exec (.bz (op0 []) { size := 0, value := 0x0E }) (tur [0, 1] 2 0)) [1] 0 2 0x10 = true ∧
    core0 (exec (.bnz (op0 []) { size := 0, value := 0x0E }) (tur [0, 1] 2 0)) [1] 0 2 2 = true ∧
    core0 (exec (.loop (op0 []) { size := 0, value := 0x0E }) (tur [] 1 0)) [] 0 0 2 = true ∧
    core0 (exec (.pushi (op0 []) { size := 0, value := 0xFE }) (tur [] 0 0)) [0xFFFFFFFFFFFFFFFE] 0 0 2 = true ∧
    core0 (exec (.ret (op0 [])) (tur [0x55, 1] 0 0)) [1] 0 0 0x55 = true ∧
    core0 (exec (.calli (op0 [])) (tur [0x55, 1] 0 0)) [1, 1] 0 0 0x55 = true := by decide +kernel
theorem test_window_access :
    core0 (exec (.wrfl (op0 [])) (tur [0x7F, 1] 0 0)) [1] 0x3F 0 1 = true ∧
    core0 (exec (.wrrc (op0 [])) (tur [0x7F, 1] 0 0)) [1] 0 0x7F 1 = true ∧
    core0 (exec (.depth (op0 [])) (tur [9, 1] 0 0)) [2, 9, 1] 0 0 1 = true ∧
    core0 (exec (.pick (op0 [])) (tur [1, 4, 5] 0 0)) [5, 4, 5] 0 0 1 = true ∧
    core0 (exec (.roll (op0 [])) (tur [1, 4, 5] 0 0)) [5, 4] 0 0 1 = true ∧
    core0 (exec (.divu (op0 [])) (tur [3, 20] 0 0)) [2, 6] 0 0 1 = true ∧
    core0 (exec (.addi (op0 []) { size := 0, value := 0xFF }) (tur [1] 0 0)) [0] (setZNCV 0 true false true false) 0 2 = true := by decide +kernel

theorem witness_NearMemoryThroughTheStoreBuffer :
    (8 : Nat) ∈ [1, 2, 4, 8] ∧ sbYoungest (tur [] 0 0) 0 false 0x40000 8 = none ∧ (tur [] 0 0).wordErrAt (dtcmKey 0 0x40000 / 8) = 0 ∧
    (tur [] 0 0).coreRuns 0 = true ∧ (tur [] 0 0).lockstep 0 = false ∧ ((tur [] 0 0).core 0).sb.length < 8 ∧ ((tur [] 0 0).core 0).cwb = [] ∧
    (match nearPlace (tur [] 0 0).remap 0 with | .rom 0 => true | _ => false) = true ∧
    (match nearPlace (tur [] 0 0).remap 0x80000 with | .bad => true | _ => false) = true ∧
    (match nearPlace (tur [] 0 0).remap 0x100000 with | .itcm _ => true | _ => false) = true := by decide +kernel
/-- Two stores of core 0 that its buffer holds. -/
def stored : State :=
  (tur [] 0 0).setCore 0 { (tur [] 0 0).core 0 with
    sb := [{ far := false, addr := 0x40000, data := [1, 2], custody := true }, { far := false, addr := 0x40002, data := [3], custody := true }] }
theorem test_store_buffer :
    holds (exec (.storeBufferDrain 0) stored) (fun t => (t.core 0).sb.length == 1 && t.mem == [(dtcmKey 0 0x40000, 1), (dtcmKey 0 0x40001, 2)]) = true ∧
    holds (exec (.fence (op0 [])) stored) (fun t => (t.core 0).sb == [] && t.mem.length == 3) = true ∧
    holds (exec (.cwbLineWrite 0) stored) (fun t => (t.core 0).sb.length == 2) = true ∧
    holds (exec (.syncI (op0 [0xF9])) stored) (fun t => (t.core 0).sb.length == 2 && (t.cx 0).pc == 2) = true ∧
    (sbYoungest stored 0 false 0x40000 2).map (·.data) = some [1, 2] := by decide +kernel
theorem plain_page9 : plainRun (tur [] 0 0) 0 (op0 [0xF9]) { page := 0xF9, count := 1 } { page := 0xF9 } 0 := plain_of (by decide +kernel)

theorem witness_NearLoadsStoresAndAnchors :
    once ({} : Pfx) ∧ plainRun (tur [0x40000, 7] 0 0) 0 (op0 []) {} (loadAcc false) 0 ∧ plainRun (tur [0x40000, 7] 0 0) 0 (op0 []) {} (loadAcc true) 1 ∧
    plainRun (tur [0x40000, 7] 0 0) 0 (op0 []) {} (storeAcc false) 0 ∧ plainRun (tur [0x40000, 7] 0 0) 0 (op0 []) {} (storeAcc true) 1 ∧
    mayAccess (tur [0x40000, 7] 0 0) 0 .read 0x40000 8 false ∧ mayAccess (tur [0x40000, 7] 0 0) 0 .write 0x40000 8 false ∧
    (0x40001 : Nat) % 8 ≠ 0 ∧ anCtlOk 0 = true :=
  ⟨⟨rfl, rfl⟩, plain_of (by decide +kernel), plain_of (by decide +kernel), plain_of (by decide +kernel), plain_of (by decide +kernel),
   ⟨rfl, by decide +kernel⟩, ⟨rfl, by decide +kernel⟩, by decide, by decide +kernel⟩
/-- Core 0 with anchor 0 at the start of its DTCM, stepping by 8. -/
def anchored (w : List Cell) : State :=
  (tur w 0 0).setCx 0 { (tur w 0 0).cx 0 with an := ((tur w 0 0).cx 0).an.set 0 { base := 0x40000, off := 8, inc := 8 } }
theorem test_loads_and_stores :
    core0 (exec (.ld (op0 [])) (tur [0x40000, 7] 0 0)) [0, 7] 0 0 1 = true ∧
    holds (exec (.st (op0 [])) (tur [0x40000, 7, 9] 0 0)) (fun t => (t.cx 0).win == cellsOf [9] &&
      (t.core 0).sb.map (fun e => (e.addr, e.data)) == [(0x40000, leBytes 8 7)]) = true ∧
    holds (exec (.staPostmod (op0 [])) (anchored [7])) (fun t => ((t.cx 0).an[0]).off == 16 &&
      (t.core 0).sb.map (fun e => (e.addr, e.data)) == [(0x40008, leBytes 8 7)]) = true ∧
    core0 (exec (.anadr (op0 [])) (anchored [7])) [0x40008, 7] 0 0 1 = true ∧
    holds (exec (.anld (op0 [])) (anchored [0, 0x41000, 3])) (fun t => ((t.cx 0).an[0]).base == 0x41000 && ((t.cx 0).an[0]).off == 0) = true := by
  decide +kernel

theorem witness_AtomicsAndFarLoads :
    plainRun (tur [0x40000, 7] 0 0) 0 (op0 []) {} { w32 := true, w16 := true, far := true, atom := true, rep := true } 0 ∧
    plainRun (tur [0x40000, 7] 0 0) 0 (op0 [0xF7, 3]) { far := some 3, count := 1 } (loadAcc false) 0 ∧
    (tur [] 0 0).coreRuns 0 = true ∧ (tur [] 0 0).lockstep 0 = false ∧
    (∀ r : Fin 4, (landOne ((tur [] 0 0).cx 0).ls[r]).err = none) :=
  ⟨plain_of (by decide +kernel), plain_of (by decide +kernel), by decide +kernel, by decide +kernel, by decide +kernel⟩
theorem witness_far_loads :
    mayAccess (tur [cell scrBase] 0 0) 0 .read scrBase 8 true ∧ farBad scrBase = false ∧
    (farRead ((tur [cell scrBase] 0 0).setBankSt 0 0 1) 0 0 false scrBase 8).2 = (.inl (List.replicate 8 0), false) :=
  ⟨⟨rfl, by decide +kernel⟩, by decide +kernel, by decide +kernel⟩
theorem test_far_load :
    holds (exec (.ld (op0 [0xF7, 3])) ((tur [cell scrBase, 7] 0 0).setBankSt 0 0 1)) (fun t => (t.cx 0).win == cellsOf [7] &&
      (((t.cx 0).ls[(3 : Fin 4)]).pend.isSome && holds (exec (.farLoadReturn 0 0 3) t) (fun u => ((u.cx 0).ls[(3 : Fin 4)]).pend == none))) = true := by
  decide +kernel
theorem test_atomics :
    holds (exec (.addm (op0 [])) (tur [0x40000, 7, 9] 0 0)) (fun t => (t.cx 0).win == cellsOf [0, 9] &&
      (t.core 0).sb.map (fun e => (e.addr, e.data)) == [(0x40000, leBytes 8 7)]) = true ∧
    core0 (exec (.casm (op0 [])) (tur [0x40000, 5, 7, 9] 0 0)) [0, 9] 0 0 1 = true ∧
    core0 (exec (.casm (op0 [])) (tur [0x40000, 0, 7, 9] 0 0)) [0, 9] (setZ 0 true) 0 1 = true ∧
    core0 (exec (.ldl (op0 []) 2) (tur [1] 0 0)) [0, 1] 0 0 1 = true ∧ core0 (exec (.lwait (op0 [])) (tur [1] 0 0)) [1] 0 0 1 = true := by decide +kernel
/-- Core 0 with a descriptor table at the start of its DTCM whose entries 11 and 32 go to the start of ITCM, Custody Supervisor, level 15. -/
def ready (w : List Cell) : State :=
  (((tur w 0 0).setCore 0 { (tur w 0 0).core 0 with edtb := 0x40000 }).setBytes (dtcmKey 0 0x400B0) (leBytes 8 0x100080 ++ leBytes 8 0xF007)).setBytes
    (dtcmKey 0 0x40200) (leBytes 8 0x100080 ++ leBytes 8 0xF007)
/-- What that entry says. -/
def readyDesc : Desc := { handler := 0x100080, pri := 15, ssel := 0, nmask := 0, custody := true, super := true }
/-- Core 0 with source 5 routed to it at vector 32 and level 9, and pending. -/
def routed : State := ({ ready [1] with regs := (ready [1]).regs }).setReg 0x41 (0x100 + 4 * 5) 0x80010920

theorem witness_BreakpointsAndInterruptsEnterHandlers :
    plainRun (ready [1]) 0 (op0 []) {} {} 0 ∧ once ({} : Pfx) ∧ (ready [1]).attached = false ∧ entryReady (ready [1]) 0 7 vBRKPT 15 readyDesc ∧
    (ready [1]).coreRuns 0 = true ∧ (ready [1]).lockstep 0 = false ∧ takenEvent (ready [1]) 0 = none ∧ entryReady (ready [1]) 0 6 32 9 readyDesc :=
  ⟨plain_of (by decide +kernel), ⟨rfl, rfl⟩, rfl, ⟨by decide, by decide, rfl, by decide +kernel, by decide +kernel, rfl, by decide, by decide,
    by decide +kernel, by decide +kernel⟩, by decide +kernel, by decide +kernel, by decide +kernel,
    ⟨by decide, by decide, rfl, by decide +kernel, by decide +kernel, rfl, by decide, by decide, by decide +kernel, by decide +kernel⟩⟩
theorem test_brk :
    holds (exec (.brk (op0 [])) (ready [1])) (fun t => (t.core 0).cur == 7 && (t.cx 0).pc == 0x100080 &&
      ((t.cx 0).win == frameOf (ready [1]) 0 vBRKPT 0 0 0 && (t.cx 0).mask == 15)) = true := by decide +kernel
theorem witness_ReturnRestoresTheInterruptedContext :
    readyDesc.custody = true ∧ ((ready [1]).core 0).bankcfg.getLsbD 0 = true ∧ ((ready [1]).cx 0).resv = Vector.replicate 3 {} ∧
    ((ready [1]).core 0).depth7 = 0 ∧ ((ready [1]).core 0).dfOut = false ∧
    holds (exec (.brk (op0 [])) (ready [1])) (fun t => plainB t (op0 [0xF9]) { page := 0xF9, count := 1 } { page := 0xF9 } 0 &&
      holds (exec (.rete (op0 [0xF9])) t) (fun u => (u.core 0).cur == 0 && (u.cx 0 == (ready [1]).cx 0 && u.mem == (ready [1]).mem))) = true := by
  decide +kernel

/-- Core 0 with one gate, at the start of its DTCM: Custody Supervisor, every caller, one argument. -/
def gated (w : List Cell) : State :=
  ((tur w 0 0).setCore 0 { (tur w 0 0).core 0 with world := 0x0100000000040000 }).setBytes (dtcmKey 0 0x40000)
    (leBytes 8 0x1234 ++ leBytes 8 0x1F067)
/-- The page of the system instructions. -/
def pfx9 : Pfx := { page := 0xF9, count := 1 }

theorem witness_GatesCallMorePrivilegedCode :
    plainRun (gated [0, 5]) 0 (op0 [0xF9]) pfx9 { page := 0xF9 } 0 ∧ once pfx9 ∧ fld ((gated []).core 0).world.toNat 56 8 = 1 ∧
    bit 0x1F067 0 = true ∧ fld 0x1F067 19 45 = 0 ∧ fld 0x1F067 8 4 = 0 ∧ bit 0x1F067 3 = false ∧ fld 0x1F067 16 3 = 1 ∧
    anyEvent (tur [] 0 0) 0 = false ∧ ((tur [] 0 0).core 0).owner = Vector.replicate 3 none :=
  ⟨plain_of (by decide +kernel), ⟨rfl, rfl⟩, by decide +kernel, by decide, by decide, by decide, by decide, by decide, by decide +kernel,
   by decide +kernel⟩
theorem test_gate_out_of_range :
    fld ((gated []).core 0).world.toNat 56 8 ≤ 0x10101 ∧
    holds (exec (.gate (op0 [0xF9])) (gated [0x10101, 5])) (fun t =>
      t.core 0 == (faultEntry (gated [0x10101, 5]) 0 { vec := vGATE, info := 0x10101 }).core 0) = true := by decide +kernel
theorem test_gates :
    holds (exec (.gate (op0 [0xF9])) (gated [0, 5])) (fun t => (t.cx 0).pc == 0x1234 && ((t.cx 0).mask == 6 &&
      (t.cx 0).win == frameOf (gated [0, 5]) 0 0 (2 ^ 32) 0 2 ++ cellsOf [5])) = true ∧
    holds (exec (.wait (op0 [0xF9])) (tur [] 0 0)) (fun t => (t.core 0).sleep) = true ∧
    holds (exec (.csw (op0 [0xF9])) ((tur [1] 0 0).setCore 0 { (tur [1] 0 0).core 0 with bankcfg := 3 })) (fun t => (t.core 0).cur == 1) = true := by
  decide +kernel

theorem witness_ControlRegistersAndBankWindow :
    plainRun (tur [3] 0 0) 0 (op0 [0xF9]) pfx9 { page := 0xF9 } 1 ∧ plainRun (tur [3] 0 0) 0 (op0 [0xF9]) pfx9 { page := 0xF9 } 0 ∧
    crOk ((tur [] 0 0).core 0) 1 0 = true ∧ crOk ((tur [] 0 0).core 0) 2 0x40000 = true ∧ crOk ((tur [] 0 0).core 0) 5 0x41000 = true ∧
    bankTarget { (tur [] 0 0).core 0 with bankwin := 0x101 } = 1 :=
  ⟨plain_of (by decide +kernel), plain_of (by decide +kernel), by decide +kernel, by decide +kernel, by decide +kernel, by decide +kernel⟩
theorem test_control_registers :
    core0 (exec (.mfcr (op0 [0xF9]) 0) (tur [] 0 0)) [3] 0 0 3 = true ∧
    holds (exec (.mtcr (op0 [0xF9]) 9) (tur [3] 0 0)) (fun t => (t.core 0).trapmask == 3) = true ∧
    holds (exec (.mtcr (op0 [0xF9]) 2) (tur [0x40000] 0 0)) (fun t => (t.core 0).edtb == 0 &&
      holds (exec (.syncC (op0 [0xF9])) t) (fun u => (u.core 0).edtb == 0x40000)) = true := by decide +kernel

/-- A window of `k` cells, stack memory ending at `sb`. -/
def deep (k vsp : Nat) : State :=
  (tur [] 0 0).setCx 0 { (tur [] 0 0).cx 0 with
    win := (List.range k).map (fun i => { v := cell i }), vsp := BitVec.ofNat 48 vsp, sbase := 0x41000, slim := 0x40000 }
theorem witness_SpillFillAndCoreReset :
    (deep 29 0x41000).coreRuns 0 = true ∧ (deep 29 0x41000).lockstep 0 = false ∧ Memory.wf (deep 29 0x41000) = true ∧
    ((deep 29 0x41000).cx 0).win = (List.range 28).map (fun i => { v := cell i }) ++ [{ v := 28 }] ∧
    ((deep 29 0x41000).cx 0).slim.toNat + 8 ≤ 0x41000 ∧ (deep 3 0x40FF8).wordErrAt (dtcmKey 0 0x40FF8 / 8) = 0 ∧
    holds (exec (.spillEngineSpill 0) (deep 29 0x41000)) (fun t => (t.cx 0).win.length == 28 && ((t.cx 0).vsp == 0x40FF8 &&
      t.mem == [(dtcmKey 0 0x40FF8, 28)])) = true ∧
    holds (exec (.spillEngineFill 0) (deep 3 0x40FF8)) (fun t => (t.cx 0).win.length == 4 && (t.cx 0).vsp == 0x41000) = true ∧
    holds (exec (.spillEngineFill 0) (deep 4 0x40FF8)) (fun t => (t.cx 0).win.length == 4) = true ∧
    holds (exec (.coreWarmReset 0) (deep 3 0x40FF8)) (fun t => (t.cx 0).win == [] && t.regB 0x1A0 oIrqRaw 2) = true := by decide +kernel

/-- Core 0 owns every unit. -/
def owning (w : List Cell) : State :=
  (tur w 0 0).setCore 0 { (tur w 0 0).core 0 with owner := Vector.replicate 3 (some 0) }
theorem witness_FloatInstructionsPushTheirResult :
    plainRun (owning [0x3FF0000000000000]) 0 (op0 [0xFB]) { page := 0xFB, count := 1 } { page := 0xFB, w32 := true } 0 ∧
    plainRun (owning [0x3F800000]) 0 (op0 [0xF2, 0xFB]) { page := 0xFB, w32 := true, count := 2 } { page := 0xFB, w32 := true } 0 ∧
    ((owning []).core 0).owner[0] = some ((owning []).core 0).cur :=
  ⟨plain_of (by decide +kernel), plain_of (by decide +kernel), by decide +kernel⟩
theorem test_float :
    core0 (exec (.fadd (op0 [0xFB])) (owning [0x3FF0000000000000, 0x4000000000000000, 7])) [0x4008000000000000, 7] 0 0 2 = true ∧
    core0 (exec (.fsqrt (op0 [0xF2, 0xFB])) (owning [1])) [0x1A3504F3] 0 0 3 = true ∧
    core0 (exec (.fneg (op0 [0xFB])) (owning [0x3FF0000000000000])) [0xBFF0000000000000] 0 0 2 = true := by decide +kernel
theorem witness_DecimalInstructionsPushTheirResult :
    plainRun (owning [0xC, 0x1, 0xC, 0x9999999999999999]) 0 (op0 [0xFA]) { page := 0xFA, count := 1 } { page := 0xFA } 0 ∧
    badDigit2 0x9999999999999999 1 = none ∧ badDigit2 0xA 0 ≠ none :=
  ⟨plain_of (by decide +kernel), by decide +kernel, by decide +kernel⟩
theorem test_decimal :
    core0 (exec (.dadd (op0 [0xFA])) (owning [0xC, 0x5, 0xC, 0x17])) ((decAdd false 0 0 0x17 0xC 0x5 0xC).cells.reverse)
      (decAdd false 0 0 0x17 0xC 0x5 0xC).flags 0 2 = true ∧
    (decAdd false 0 0 0x17 0xC 0x5 0xC).cells = [0x22, 0xC] ∧ (decAdd true 0 0 0x17 0xC 0x22 0xC).cells = [0x05, 0xD] ∧
    (binToDec 0 0 (0xFFFFFFFFFFFFFFFB)).cells = [5, 0xD] ∧ (decToBin 0 0 5 0xD).cells = [0xFFFFFFFFFFFFFFFB] := by decide +kernel
theorem witness_DecimalAndBinaryRoundTrip :
    (sgn (cell 9999999999999999).toNat 64).natAbs < 10 ^ 16 ∧ (sgn (0xFFFFFFFFFFFFFFFF : Cell).toNat 64).natAbs < 10 ^ 16 := by decide +kernel
/-! ### Spires -/

/-- Spire 0 with its control store loaded, its first program line fetched, and context 0 in a state. -/
def spr (x : SpCtx) : State :=
  ((((State.reset.setDom (pdSps 0) true).setDom (pdSpd 0) true).setReg (sprPage 0) oStat 1).setReg (sprPage 0) oCtl 1).setSpire 0
    { ctxs := (Vector.replicate 4 ({} : SpCtx)).set 0 x, pbuf := [{ addr := 0, data := List.replicate 64 0 }] }
/-- A running context with a window and stream stack. -/
def running (w : List Cell) (d : List SDesc) : SpCtx := { st := .run, win := w, descs := d }
/-- Instructions of context 0 without prefix and on the vector page. -/
def sop (b : List Byte) : DisOp := { ex := .spire 0 0, pfx := b }
def sopV : DisOp := sop [0xF8]
/-- The vector page prefix. -/
def pfx8 : Pfx := { page := 0xF8, count := 1 }
/-- The hypothesis that a spire instruction runs, as a test. -/
def spireB (s : State) (op : DisOp) (p : Pfx) (a : Acc) (w : Waits) (k : Nat) : Bool :=
  (decide (op.ex = .spire 0 0) && (decide (op.hw = .quiet) && (op.reserved == none && decide (pfxParse {} op.pfx = some p)))) && (decide (p.page = a.page) &&
    (pfxBad (spireAcc a) p == false && (seqRuns s 0 && (progOn s (s.sc 0 0) && (waitsFor w (s.sc 0 0).st &&
      ((pbFetch s 0 (s.sc 0 0).pc.toNat (op.pfx.length + k)).1 == s && (pbFetch s 0 (s.sc 0 0).pc.toNat (op.pfx.length + k)).2 == none))))))
theorem spire_of {s : State} {op : DisOp} {p : Pfx} {a : Acc} {w : Waits} {k : Nat} (h : spireB s op p a w k = true) :
    spireRuns s 0 0 op p a w k := by
  simp only [spireB, Bool.and_eq_true, decide_eq_true_eq, beq_iff_eq] at h
  obtain ⟨⟨h1, h2, h0, h3⟩, h4, h5, h6, h7, h8, h9, h10⟩ := h
  exact ⟨h1, h0, h2, h3, h4, h5, h6, h7, h8, Prod.ext h9 h10⟩
/-- A result leaves context 0 with this stack, at this address, in this state. -/
def sp0 (r : Res) (w : List Cell) (pc : Nat) (st : SpSt) : Bool :=
  holds r fun t => ((t.sc 0 0).win == w && (t.sc 0 0).pc.toNat == pc) && (t.sc 0 0).st == st
/-- Valid descriptors: 8 elements of 8 bytes from a DRAM address, as a source and as a destination. -/
def lin (base : Nat) : SDesc := { d0 := cell (base + 3 * 2 ^ 48), d1 := cell (8 * 2 ^ 32 + 8) }

theorem witness_SpireScalarInstructions :
    spireRuns (spr (running [5, 3, 2, 1] [])) 0 0 (sop []) {} { rep := true, repn := true } .none 1 ∧
    spireRuns (spr (running [5, 3, 2, 1] [])) 0 0 (sop []) {} {} .none 1 ∧
    spireRuns (spr (running (List.replicate 32 7) [])) 0 0 (sop []) {} { w32 := true, w16 := true, rep := true, repn := true } .none 1 ∧
    spireRuns (spr (running [5, 3] [])) 0 0 (sop []) {} {} .none 2 ∧ spireRuns (spr (running [5, 3] [])) 0 0 (sop []) {} { rep := true, repn := true } .none 2 ∧
    spireRuns (spr (running [5, 3] [])) 0 0 (sop [0xF9]) { page := 0xF9, count := 1 } { page := 0xF9 } .none 1 ∧
    spireRuns (spr (running [5, 3] [])) 0 0 (sop [0xF9]) { page := 0xF9, count := 1 } { page := 0xF9 } .none 2 ∧ turretRows.length = 67 :=
  ⟨spire_of (by decide +kernel), spire_of (by decide +kernel), spire_of (by decide +kernel), spire_of (by decide +kernel),
   spire_of (by decide +kernel), spire_of (by decide +kernel), spire_of (by decide +kernel), by decide⟩
theorem test_spire_scalars :
    sp0 (exec (.add (sop [])) (spr (running [5, 3, 2] []))) [8, 2] 1 .run = true ∧
    sp0 (exec (.dup (sop [])) (spr (running (List.replicate 32 7) []))) (List.replicate 32 7) 0 .fault = true ∧
    sp0 (exec (.add (sop [])) (spr (running [5] []))) [5] 0 .fault = true ∧
    sp0 (exec (.div (sop [])) (spr (running [5, 3] []))) [5, 3] 0 .fault = true ∧
    sp0 (exec (.pick (sop [])) (spr (running [1, 4, 5] []))) [5, 4, 5] 1 .run = true ∧
    sp0 (exec (.call (sop []) { size := 0, value := 0x0E }) (spr (running [4] []))) [2, 4] 0x10 .run = true := by decide +kernel
theorem witness_ElementInstructionsAndTheirValues :
    spireRuns (spr (running [9] [lin 0x400000000000, lin 0x400000000040])) 0 0 sopV pfx8 vecPage .none 1 ∧
    (lin 0x400000000000).ok false = true ∧ (lin 0x400000000000).ok true = true ∧ (lin 0x400000000000).mode < 3 ∧
    VOp.widthOk .vnot (lin 0x400000000000).w = true ∧ (255 : Nat) < 2 ^ (8 * 1) ∧
    elemFn .vadds 1 0 [127, 1] = 127 ∧ elemFn .vsubs 1 0 [128, 1] = 128 ∧ elemFn .vaddus 1 0 [255, 1] = 255 ∧
    elemFn .vror 2 3 [elemFn .vrol 2 3 [0x8001]] = 0x8001 :=
  ⟨spire_of (by decide +kernel), by decide +kernel⟩
theorem test_take_in :
    holds (exec (.vcopy sopV) (spr (running [9] [lin 0x400000000000, lin 0x400000000040]))) (fun t => ((t.sc 0 0).opened.map (·.ops.length)) == some 1 &&
      ((t.sc 0 0).descs == [] && (t.sc 0 0).win == [9])) = true ∧
    sp0 (exec (.vadd sopV) (spr (running [9] [lin 0x400000000000]))) [9] 0 .fault = true := by decide +kernel
theorem witness_DescriptorAndCellInstructions :
    spireRuns (spr (running [0x20] [lin 0x400000000000])) 0 0 sopV pfx8 vecPage .none 1 ∧
    spireRuns (spr (running [0x20] [lin 0x400000000000])) 0 0 sopV pfx8 vecPage .none 2 ∧
    busyGroup ((spr (running [] [])).sc 0 0) = false ∧ cellBad scrBase = none ∧ ((spr (running [] [])).spire 0).running = none ∧
    spireRuns ((spr (running [8, 0x77] [])).setDom (pdSpd 0) false) 0 0 sopV pfx8 vecPage .none 1 ∧
    spireRuns ((spr (running [8, 0x77] [])).setRun 0 (some { ctx := 1, group := {} })) 0 0 sopV pfx8 vecPage .none 1 ∧
    (spr (running [8] [])).dom (pdSpd 0) = true ∧ (coefWord (spr (running [8] [])) 0 1 0).2 = some (List.replicate 8 0) ∧ (0x21 : Nat) % 32 ≠ 0 :=
  ⟨spire_of (by decide +kernel), spire_of (by decide +kernel), by decide +kernel, by decide +kernel, by decide +kernel,
   spire_of (by decide +kernel), spire_of (by decide +kernel), by decide +kernel, by decide +kernel, by decide⟩
theorem test_descriptors :
    holds (exec (.vdswap sopV) (spr (running [] [lin 8, lin 16]))) (fun t => (t.sc 0 0).descs == [lin 16, lin 8]) = true ∧
    sp0 (exec (.vddrop sopV) (spr (running [1] []))) [1] 0 .fault = true ∧
    sp0 (exec (.vdst sopV) (spr (running [0x21] [lin 8]))) [0x21] 0 .fault = true ∧
    holds (exec (.vcget sopV) ((spr (running [8] [])).setRun 0 (some { ctx := 1, group := {} }))) (fun t => (t.sc 0 0).coefWait && ((t.sc 0 0).pc == 0 && t.coefHeld 0)) = true ∧
    sp0 (exec (.vdget sopV 0) (spr (running [1] [lin 8]))) [(lin 8).get 0, 1] 3 .run = true ∧
    holds (exec (.vcput sopV) (spr (running [8, 0x77] []))) (fun t => (t.sc 0 0).win == [] && sp0 (exec (.vcget sopV) (t.setSc 0 0 { t.sc 0 0 with win := [8], pc := 0 })) [0x77] 2 .run) = true := by
  decide +kernel

/-- A group of one copy of 8 elements. -/
def copyGroup : Group :=
  { descs := [lin 0x400000000040, lin 0x400000000000],
    ops := [{ op := .vcopy, w := 8, srcs := [⟨0, none⟩], dst := some ⟨1, none⟩ }] }
theorem witness_GroupsMailboxesAndHandlers :
    spireRuns (spr { running [1] [] with opened := some copyGroup }) 0 0 sopV pfx8 vecPage .group 1 ∧ vgoBad copyGroup = none ∧
    spireRuns (spr { running [1] [] with st := .gwait, adm := .running }) 0 0 sopV pfx8 vecPage .group 1 ∧
    spireRuns (spr { running [0, 0] [] with st := .mwait }) 0 0 sopV pfx8 vecPage .mailbox 1 ∧ VOp.restart0 .vrxor = true ∧ 0 < copyGroup.n :=
  ⟨spire_of (by decide +kernel), by decide +kernel, spire_of (by decide +kernel), spire_of (by decide +kernel), by decide +kernel, by decide +kernel⟩
theorem test_groups :
    holds (exec (.vgo sopV) (spr { running [1] [] with opened := some copyGroup })) (fun t => (t.spire 0).queue == [(0, copyGroup)] &&
      (t.sc 0 0).adm == .queued) = true ∧
    sp0 (exec (.vwait sopV) (spr { running [1] [] with adm := .running })) [1] 0 .gwait = true ∧
    sp0 (exec (.vwait sopV) (spr { running [1] [] with adm := .ended [4, 5] })) [5, 4, 1] 2 .run = true ∧
    sp0 (exec (.vwait sopV) (spr { running [1] [] with adm := .halted, image := some ⟨copyGroup, 6⟩, handler := 0x40 })) [6, 0, 1] 0x40 .run = true ∧
    holds (exec (.vend sopV) (spr (running [0x0A03] []))) (fun t => (t.sc 0 0).st == .idle && ((t.sc 0 0).status == 3 &&
      regBit (t.reg (sprPage 0) oIrqRaw) 4)) = true ∧
    sp0 (exec (.vmbwait sopV) (spr (running [0, 0] []))) [0] 2 .run = true := by decide +kernel
theorem witness_SpiresStartStopAndRunGroups :
    (spr { cpc := 0x80 }).issues keep = true ∧ (spr {}).custodyOf keep = true ∧ (spr { cpc := 0x80 }).pageOn (sprPage 0) = true ∧
    (spr {}).qeCtx 0 0 = false ∧ (spr {}).csOk 0 = true ∧
    (spr {}).spireFenced 0 = false ∧ (spr {}).spdOn 0 = true ∧ seqRuns (spr {}) 0 = true ∧ textPlace dramBase = true ∧
    regBit ((spr {}).reg (sprPage 0) oCtl) 0 = true ∧
    holds (exec (.sprGo keep 0 0) (spr { cpc := 0x80, arg0 := 1, arg1 := 2 })) (fun t => (t.sc 0 0).win == [2, 1] && (t.sc 0 0).pc == 0x80) = true ∧
    holds (exec (.sprStop keep 0 0) (spr (running [] []))) (fun t => (t.sc 0 0).status == 7 && (t.sc 0 0).st == .idle) = true ∧
    holds (exec (.spireReset keep 0) (spr { running [1] [] with cpc := 0x80 })) (fun t => t.sc 0 0 == {} && (t.spire 0).pbuf == []) = true ∧
    (spr {}).coefHeld 0 = false ∧ ((spr {}).setSc 0 1 { st := .run, coefWait := true }).coefHeld 0 = true ∧ regBit ((spr {}).reg (sprPage 0) oStat) 2 = false ∧
    holds (exec (.pinv keep 0) (spr {})) (fun t => (t.spire 0).pbuf == []) = true ∧
    ((spr {}).fenceSpire 0).spireFenced 0 = true ∧
    holds (exec (.fencedSet 0) ((spr {}).fenceSpire 0)) (fun t => regBit (t.reg (sprPage 0) oStat) 2) = true := by decide +kernel
/-- The copy group is the running one, after `k` steps. -/
def atStep (k : Nat) (h : Option (GFault × Nat)) : State :=
  (spr { st := .gwait, adm := .running }).setRun 0 (some { ctx := 0, group := copyGroup, step := k, halt := h })
theorem test_group_steps :
    holds (exec (.groupAdmit 0) ((spr { adm := .queued }).setSpire 0 { (spr { adm := .queued }).spire 0 with queue := [(0, copyGroup)] }))
      (fun t => (t.spire 0).queue == [] && ((t.spire 0).running.map (·.ctx) == some 0 && (t.sc 0 0).adm == .running)) = true ∧
    holds (exec (.groupComplete 0) (atStep 8 none)) (fun t => (t.spire 0).running == none && t.reg (sprPage 0) 0x108 == 1) = true ∧
    holds (exec (.groupHalt 0) (atStep 0 (some ({ gix := 0, stream := 0, opn := 0, cause := 1, detail := 0, e := 3, user := 0 }, 2)))) (fun t =>
      (t.sc 0 0).adm == .halted && ((t.sc 0 0).fe == 3 && (t.sc 0 0).fw == 2)) = true := by decide +kernel
/-! ### Queues -/

/-- Context of an enabled queue with 16-entry rings in DRAM and client 5, with SQTAIL. -/
def qctx (en tail : Nat) : QCtx :=
  qset (qset (qset (qset (qset (qset (qset (qset (qset (List.replicate 8 0) qEN en) qHOME 1) qCREDIT 8) qCLIENT 5) qSQLOG 4) qCQLOG 4)
    qSQADDR dramBase) qSQTAIL tail) qCQADDR (dramBase + 0x1000)
/-- Queue 0 in a queue-store bank that is on; its first submission is FLUSH of power set 0 with sequence number `seq`. -/
def queued (en tail seq : Nat) : State :=
  let s := ((({ modeOf .narrow 0 with pending := [] }.setBankSt 1 0 1).setReg 0x120 oCtl 1).setReg 0x130 0x100 1).setReg 0x350 0x150 1
  (ctxStore s 0 (qset (qctx en tail) qRCADDR (dramBase + 0x2000))).setBytes (locKey (((s.dramLocs 0).getD ((0, 0), [])).1))
    ([0x0B, 1, 0, 0] ++ (leBytes 4 seq ++ (leBytes 6 5 ++ List.replicate 50 0)))
/-- The submission is held. -/
def heldQ : State := (after (execSubmissionIntake 0 {} (queued 1 1 0))).getD State.reset
/-- It is in flight, and ended. -/
def flightQ : State := (after (execSchedulerSelection heldQ)).getD State.reset
def endedQ : State := (after (execFlush 0 flightQ)).getD State.reset

theorem witness_QueueRegistersAndContexts :
    (queued 0 0 0).issues keep = true ∧ bankOf (ctxAddr 0) = some (1, 0) ∧ (queued 0 0 0).bankSt 1 0 = 1 ∧ Memory.wf (queued 0 0 0) = true ∧
    Regs.wf (queued 0 0 0) = true ∧
    sget ((queued 0 0 0).scr 1).filling 0 0 = 0 ∧ (List.range 8).all (fun k => sget (queued 0 0 0).wordErr (ctxAddr 0 / 8 + k) {} == {}) = true ∧
    ctxRefused (queued 0 0 0) 0 ((queued 0 0 0).ctxRaw 0) (ctxOf (List.replicate 64 0)) = false ∧
    ctxRefused (queued 1 1 0) 0 ((queued 1 1 0).ctxRaw 0) (ctxOf (List.replicate 64 1)) = true ∧
    slotBound (queued 1 1 0) 0 = true ∧ slotBound (queued 0 0 0) 0 = false := by decide +kernel
theorem test_queue_registers :
    holds (exec (.queueContextWrite keep 0 0 (List.replicate 64 0) {}) (queued 0 0 0)) (fun t => t.resp == .done && t.ctxRaw 0 == List.replicate 8 0) = true ∧
    holds (exec (.queueContextWrite keep 0 0 (List.replicate 64 1) {}) (queued 1 1 0)) (fun t => t.resp == .err .binding) = true ∧
    holds (exec (.sqDoorbell keep 15) (queued 1 1 0)) (fun t => qf (t.ctxRaw 0) qSQTAIL == 15) = true ∧
    holds (exec (.sqDoorbell keep 16) (queued 1 1 0)) (fun t => t.regB 0x120 oIrqRaw 0) = true ∧
    holds (exec (.cqDoorbell keep 1) (queued 1 1 0)) (fun t => t.regB 0x120 oIrqRaw 0) = true ∧
    holds (exec (.sqDoorbell keep 1) (queued 0 0 0)) (fun t => t.resp == .err .binding) = true ∧
    holds (exec (.ecommit keep 0x0A 1) State.reset) (fun t => t.resp == .err .access) = true ∧
    holds (exec (.tenantTableWrite keep 0 0x7FF) (queued 1 1 0)) (fun t => t.resp == .err .binding) = true := by decide +kernel
theorem witness_CommandsAreTakenInAndScheduled :
    intakeReady (queued 1 1 0) 0 ((queued 1 1 0).ctxRaw 0) = true ∧ intakeReady (queued 1 0 0) 0 ((queued 1 0 0).ctxRaw 0) = false ∧
    (match ctxRead (queued 1 1 0) 0 with | (_, .ok c) => c == (queued 1 1 0).ctxRaw 0 | _ => false) = true ∧
    (match memRead (queued 1 1 0) dramBase 64 {} with | (_, .ok (b, p)) => (!p) && (subReserved b && (leAt b 8 6 == 5 && (intakeStatus (queued 1 1 0) b == none))) | _ => false) = true ∧
    eligibles heldQ = [0] ∧ (selectQueue heldQ).map (·.1) = some 0 ∧ heldQ.qeOn = true ∧ Memory.wf heldQ = true ∧ freeIft heldQ = some 0 ∧
    (endedQ.ift 0).map (·.st) = some 2 ∧ (endedQ.ift 0).map (·.drop) = some false ∧ endedQ.paired = false ∧ endedQ.qe.waits = [] := by
  decide +kernel
/-- The held command is a program's, and spire 0 serves. -/
def progQ : State :=
  let s := ((((heldQ.setDom (pdSps 0) true).setDom (pdSpd 0) true).setReg (sprPage 0) oStat 1).setReg (sprPage 0) oCtl 3).setReg (sprPage 0) 0x100 15
  { s.setReg (sptPage 1) (sptOff 1) 0x400 with qe := { s.qe with
    held := [(0, some { slot := 0, data := [1, 1, 0, 0] ++ (leBytes 4 0 ++ (leBytes 6 5 ++ List.replicate 50 0)) })] } }
theorem test_dispatch :
    (selectQueue progQ).map (·.1) = some 0 ∧ progQ.sptEmpty 1 = false ∧ (pickSpire progQ).map Fin.val = some 0 ∧
    holds (exec .schedulerSelection progQ) (fun t => (t.sc 0 (pickCtx progQ 0)).st == .run && ((t.sc 0 (pickCtx progQ 0)).pc == 0x400 &&
      ((t.sc 0 (pickCtx progQ 0)).ift == some 0 && (t.sc 0 (pickCtx progQ 0)).win == [0, 0, cell parmBase]))) = true := by decide +kernel
theorem test_queue_path :
    (flightQ.ift 0).map (fun e => (e.st, e.opcode, e.engine)) = some (0, 0x0B, true) ∧ qf (flightQ.ctxRaw 0) qINFL = 1 ∧ qf (flightQ.ctxRaw 0) qSQHEAD = 1 ∧
    (endedQ.ift 0).map (·.status) = some 0 ∧
    holds (exec (.completionWrite 0) endedQ) (fun t => (t.ift 0).isNone && (qf (t.ctxRaw 0) qCQTAIL == 1 && (qf (t.ctxRaw 0) qINFL == 0 &&
      qf (t.ctxRaw 0) qNCOMP == 1))) = true := by decide +kernel

/-- Context 0 of spire 0 runs the command of in-flight entry 0. -/
def command (op : Nat) (st : Nat) : State :=
  (spr { running [] [] with ift := some 0 }).setIft 0 (some { opcode := op, st := st, engine := decide (op = 0x0A ∨ op = 0x0B) })
theorem witness_StripeCommandsEndWithTheirStatus :
    seqRuns (command 1 1) 0 = true ∧ ((command 1 1).sc 0 0).st = .run ∧ ((command 1 1).sc 0 0).ift = some 0 ∧
    ((command 9 1).ift 0).map (·.opcode) = some 9 ∧ ((command 0x0A 0).ift 0).map (·.engine) = some true ∧ onlyAux0 (command 0x0A 0) 0 = true ∧
    (command 0x0A 0).members 0 = [] ∧ ((command 0x0B 0).setReg 0x350 0x150 0).ready 0 = false := by decide +kernel
theorem witness_offset_is_refused :
    goodData (busRead ((command 1 0).setBytes (parmBase + 32) [1]) (sprId 0) parmBase 64).2 = some (List.replicate 32 0 ++ (1 :: List.replicate 31 0)) ∧
    holds (exec (.get 0 0 {}) ((command 1 0).setBytes (parmBase + 32) [1])) (fun t => (t.ift 0).map (fun e => (e.st, e.status)) == some (2, 3) &&
      ((t.sc 0 0).st == .idle && t.out == [])) = true := by decide +kernel
theorem test_engine_commands :
    holds (exec (.spin 0) (command 0x0A 0)) (fun t => (t.ift 0).map (fun e => (e.st, e.status)) == some (2, 0)) = true ∧
    holds (exec (.flush 0) (command 0x0B 0)) (fun t => (t.ift 0).map (fun e => (e.st, e.status)) == some (2, 0)) = true ∧
    holds (exec (.prog 0 0) (command 0x0C 0)) (fun t => (t.ift 0).map (·.st) == some 1) = true := by decide +kernel
/-! ### Drives and power sets -/

/-- Port 0 up and empty-handed, ring 0 on, its first slot submitted with TEST UNIT READY for that port. -/
def driven : State :=
  let s := (((State.reset.setDom (pdSasg 0) true).setBankSt 0 0 1).setReg 0x2FF 0x140 0x80000000).setPort 0 { lp := 6, opened := true, rate := 2 }
  (s.setBytes scrBase (List.replicate 56 0 ++ [1, 0, 0, 0, 0, 0, 0, 0]))
/-- Port 0 in set 0, that the device powers. -/
def inSet0 (st : Nat) : State := (((driven.setReg 0x352 0x100 0x80000000).setRegF 0x350 oStat 31 1 1).setRegF 0x351 0x104 0 3 st).setRegF (portPage 0) 0x110 9 1 1

/-- The power master with commands of its own waiting. -/
def ops (l : List (Nat × DSrc)) : State := { inSet0 3 with pwr := { (inSet0 3).pwr with ops := l } }

theorem witness_DriveRequestsRunFromTheirRings :
    State.reset.ringOn 47 = false ∧ driven.ringOn 0 = true ∧ headSlot driven 0 = scrBase ∧
    (match dmaRead driven 17 (headSlot driven 0) 64 with
      | (t, .ok (b, false)) => leAt b 56 1 == 1 && (leAt b 0 1 == 0 && (!(drbRefused t b) && (flagReady t 0 && (t.portUp 0 && (tagFree t 0 && !(opsWaiting t 0))))))
      | _ => false) = true ∧
    drbRefused driven (List.replicate 28 0 ++ [240, 0, 0, 0]) = true ∧ flagReady (((inSet0 3).setReg 0x350 0x150 0)) 0 = false ∧
    (driven.setReg 0x352 0x100 0x80000040).inSet 0 = true ∧ driven.issues keep = true ∧ driven.custodyOf keep = true ∧ fenceBusy driven = false ∧
    driven.pwr.ops = [] ∧ canSend driven (0, .probe) = true ∧ (driven.port 0).rate ≠ 3 ∧ sataMay 0x12 = true ∧
    canSend (ops [(0, .flush 3)]) (0, .flush 3) = true ∧ canSend (ops [(0, .stop), (0, .preempt)]) (0, .stop) = false ∧
    firstNat (fun q => (ops [(0, .start)]).pwr.ops.contains (q, .start) && canSend (ops [(0, .start)]) (q, .start)) allPorts = some 0 ∧
    regBit (driven.reg 0x2FF 0x140) 31 = true ∧ regBit (driven.reg 0x2FF 0x148) 31 = false := by decide +kernel
theorem test_own_commands :
    holds (exec (.synchronizeCache16 (.own 0)) (ops [(0, .flush 3)])) (fun t => t.pwr.ops == [] && (t.port 0).active.map (·.src) == [.flush 3]) = true ∧
    holds (exec .startStopUnit (ops [(0, .stop)])) (fun t => (t.port 0).active.map (·.src) == [.stop]) = true ∧
    holds (exec .persistentReserveOut (ops [(0, .stop), (0, .preempt)])) (fun t => t.pwr.ops == [(0, .stop)]) = true ∧
    holds (exec .startStopUnit driven) (fun t => t == driven) = true := by decide +kernel
theorem test_drive_commands :
    holds (exec (.testUnitReady (.ring 0)) driven) (fun t => (t.port 0).active.length == 1 && (t.ringHead 0 == 1 &&
      (t.out == [.drive 0 (List.replicate 16 0) []] && t.byteAt (scrBase + 56) == 2))) = true ∧
    holds (exec (.read16 0) driven) (fun t => t == driven) = true ∧
    holds (exec (.inquiry (.own 0)) driven) (fun t => (t.port 0).active.map (·.src) == [.probe]) = true ∧
    holds (exec (.testUnitReady (.ring 0)) driven) (fun t => holds (exec (.driveRequestComplete 0 0 {}) t) (fun u =>
      (u.port 0).active == [])) = true ∧
    holds (exec (.saspRbaseWrite keep 1 0xFFFFFFFF) driven) (fun t => t.reg 0x2FF 0x148 == 0x83FFF000) = true ∧
    holds (exec (.saspRbaseWrite keep 0 0xFFFFFFFF) driven) (fun t => t.resp == .err .binding) = true := by decide +kernel
theorem witness_PortsFollowTheirLinkPrograms :
    State.reset.dom (pdSasg 0) = false ∧ driven.dom (pdSasg 0) = true ∧ linkMatch driven 0 6 4 = none ∧
    linkMatch { driven with links := [(linkKey 0 0, 2 ^ 63)] } 0 0 0 = some 0 ∧ driven.locked (grpPage 0) = false ∧
    driven.present 0 = false ∧ bit (driven.link 0 96) 62 = false ∧ bit (driven.link 0 0) 62 = false ∧ operatorOk (96 * 0) = true ∧
    (driven.setRegF (portPage 0) oCtl 0 1 1).regB (portPage 0) oCtl 0 = true := by decide +kernel
theorem test_ports :
    holds (exec (.cominitRx 0) driven) (fun t => t.regF (portPage 0) 0x118 8 8 == 1) = true ∧
    holds (exec (.presenceChange 0 true) driven) (fun t => t.present 0 && t.regB (portPage 0) oIrqRaw 2) = true ∧
    holds (exec (.identRx 0 0x5000000011112222) driven) (fun t => t.reg (portPage 0) 0x100 == 0x11112222 && t.reg (portPage 0) 0x104 == 0x50000000) = true ∧
    holds (exec (.linkProgramWrite keep 0 0 true 0) driven) (fun t => t.resp == .err .access) = true := by decide +kernel
theorem witness_PowerSetsSpinUpAndDown :
    driven.members 0 = [] ∧ (inSet0 3).members 0 = [0] ∧ (inSet0 3).liveMembers 0 = [0] ∧ (inSet0 3).pmaster = true ∧ (inSet0 3).setSt 0 = 3 ∧
    (inSet0 3).portUp 0 = true ∧ inFlightOn (inSet0 3) 0 = false ∧ Regs.wf (inSet0 3) = true ∧ (inSet0 0).present 0 = true ∧
    ((inSet0 0).setPort 0 {}).portUp 0 = false ∧ ((inSet0 3).setRegF 0x351 0x104 4 1 1).dropHold 0 = true ∧ State.reset.belf.phase = 0 ∧
    State.reset.pwr.missed < 3 ∧ State.reset.pwr.peak = none ∧
    (((rangeFrom 96 32).filter (· < 182)).filter fun x => State.reset.dom x != regBit (1 : Word32) (x % 32)) = [96] := by decide +kernel
theorem test_power_sets :
    holds (exec (.spinUpRequest keep 63) driven) (fun t => t.reg 0x350 0x14C == 256 + 63) = true ∧
    holds (exec (.spinUpRequest keep 0) ((inSet0 0).setPort 0 {})) (fun t => t.setSt 0 == 1) = true ∧
    holds (exec (.spinDownRequest keep 0) (inSet0 3)) (fun t => t.setSt 0 == 4 && (!(t.ready 0) && t.pwr.ops == [(0, .stop)])) = true ∧
    holds (exec (.rearm keep 0) ((inSet0 3).setRegF 0x351 0x104 4 1 1)) (fun t => t.ready 0 && !(t.dropHold 0)) = true ∧
    holds (exec .feedbackUpdate driven) (fun t => t.pwr.missed == 1) = true := by decide +kernel
/-! ### Transport -/

/-- Ethernet port 0 up with one sub-port. -/
def eth0 : State := ((State.reset.setDom (pdEth 0) true).setReg (ethPage 0) oCtl 3).setReg (ethPage 0) oStat 1
/-- Queue 0 enabled for client 5, reached over port 0. -/
def ethQ : State := ((((queued 1 0 0).setDom (pdEth 0) true).setReg (ethPage 0) oCtl 3).setReg (ethPage 0) oStat 1).setReg (ethPage 0) 0x134 16
/-- A datagram. -/
def gram (kind off arg win : Nat) (p : List Byte) : List Byte := cstBytes { kind := kind, client := 5, seq := 9, qid := 0, win := win, off := off, arg := arg, payload := p }
/-- An entry of client 5 with sequence number 9. -/
def entry9 : List Byte := [0x0B, 0, 0, 0, 9, 0, 0, 0, 5, 0, 0, 0, 0, 0] ++ List.replicate 50 0
/-- The window it opens, for 100 bytes in and none out. -/
def win0 (st : WinSt) (pages since : Nat) : Win :=
  { client := 5, seq := 9, qid := 0, port := 0, peer := [1], unit := 0, units := winUnits 100 0, blen := 100, olen := 0, entry := entry9, st := st, pages := pages, since := since }

/-- An Ethernet frame for port 0 of `eth0` from 10.0.0.1, UDP port 0x1234, with a datagram. -/
def frame4 (d : List Byte) : List Byte :=
  List.replicate 12 0 ++ [8, 0, 0x45, 0] ++ beBytes 2 (28 + d.length) ++ [0, 0, 0, 0, 64, 17, 0, 0, 10, 0, 0, 1, 0, 0, 0, 0, 0x12, 0x34] ++
    beBytes 2 (eth0.regF (ethPage 0) 0x120 0 16) ++ beBytes 2 (8 + d.length) ++ [0, 0] ++ d
/-- Its sender. -/
def peer4 : List Byte := List.replicate 6 0 ++ [0x12, 0x34, 10, 0, 0, 1]
/-- A frame that is no IP packet. -/
def plainFrame : List Byte := List.replicate 60 0x11

theorem witness_CstDatagramsRoundTrip :
    (1 : Nat) ∈ cstKinds ∧ cstParse (gram 1 100 0 0 entry9) = some { kind := 1, client := 5, seq := 9, qid := 0, win := 0, off := 100, arg := 0, payload := entry9 } ∧
    (gram 6 0 0 0 []).length = 36 ∧ cstParse (List.replicate 35 0) = none ∧ cstParse ((gram 6 0 0 0 []).set 3 0xFF) = none := by decide +kernel
theorem witness_ShelfTransportWindows :
    State.reset.linkUp 0 = false ∧ eth0.linkUp 0 = true ∧ ethQ.linkUp 0 = true ∧ swf (fun _ => (none : Option Win)) ethQ.eth.wins = true ∧ leAt entry9 8 6 = 5 ∧ leAt entry9 4 4 = 9 ∧
    ethClass ethQ 0 (frame4 (gram 1 100 0 0 entry9)) = .cst peer4 (gram 1 100 0 0 entry9) ∧ ethClass ethQ 0 plainFrame = .slow ∧
    ethClass ethQ 0 (frame4 [1]) = .cst peer4 [1] ∧ cstParse [1] = none ∧
    (frameIn ethQ 0 plainFrame).out = [] ∧ (frameIn (ethQ.setReg (ethPage 0) 0x128 59) 0 plainFrame).out = [.pfc 0 0 true] ∧
    subOf { ethQ with eth := { ethQ.eth with subs := [⟨0, 0, 9, none, 0, [1], 5⟩] } } 0 0 9 = some ⟨0, 0, 9, none, 0, [1], 5⟩ ∧
    (match ctxRead ethQ 0 with | (_, .ok c) => qf c qEN == 1 && (qf c qHOME == 1 && !(cachedSeq ethQ c 9)) | _ => false) = true ∧
    (firstFit ethQ 0 (winUnits 100 0)).isSome = true ∧ firstNat (fun i => (ethQ.win i).isNone) (rangeFrom 0 4096) = some 0 ∧
    dataShape (win0 .filling 0 0) { kind := 3, client := 5, seq := 9, qid := 0, win := 0, off := 0, arg := 0, payload := List.replicate 100 0 } = true ∧
    firstMissing (win0 .filling 0 0) = some 0 := by decide +kernel
theorem test_requests :
    holds (exec (.req 0 (frame4 (gram 1 100 0 0 entry9))) ethQ) (fun t => (t.win 0).isSome && (t.out.head?.map (fun o => match o with
      | .cst 0 _ _ _ f => (cstParse f).map (·.kind) | _ => none) == some (some 2))) = true ∧
    holds (exec (.req 0 (frame4 (gram 1 100 0 0 entry9))) eth0) (fun t => t.win 0 == none) = true ∧
    holds (exec (.rack 0 (frame4 (gram 6 0 0 0 []))) (ethQ.setWin 0 (some (win0 .responded 1 0)))) (fun t => t.win 0 == none) = true ∧
    holds (exec (.creditTimer 0) (ethQ.setWin 0 (some (win0 .filling 1 3)))) (fun t => (t.win 0).map (·.since) == some 0) = true ∧
    holds (exec (.data 0 (frame4 (gram 3 0 0 1 []))) ethQ) (fun t => t.win 1 == none) = true := by decide +kernel
theorem witness_PortsCarryTheSlowPathAndManagement :
    State.reset.linkUp 7 = false ∧ eth0.linkUp 0 = true ∧ (eth0.regF (ethPage 0) 0x140 16 8 + 1) % 256 ≠ eth0.regF (ethPage 0) 0x140 0 8 ∧
    (((eth0.setRegF (ethPage 0) 0x140 16 8 255).regF (ethPage 0) 0x140 16 8 + 1) % 256 = 0) ∧ eth0.issues keep = true ∧ Regs.wf eth0 = true ∧
    (eth0.setReg (ethPage 0) oStat 0).regB (ethPage 0) oStat 0 = false ∧ (eth0.regF (ethPage 0) oCtl 1 2 = 1) ∧
    (mgFrame eth0 0 [] 0x10).isNone = true ∧ eth0.recovery = false ∧
    beAt (List.replicate 2 0 ++ [0xF0, 0, 3, 0x24, 1, 0]) 2 6 = 0xF00003240100 := by decide +kernel
theorem test_ports_up_and_down :
    holds (exec (.portCameUp 0 0) (eth0.setReg (ethPage 0) oStat 0)) (fun t => t.linkUp 0) = true ∧
    holds (exec (.portWentDown 0 0) eth0) (fun t => !(t.linkUp 0) && t.regB (ethPage 0) oIrqRaw 1) = true ∧
    holds (exec (.priorityFlowControl 0 3 true) eth0) (fun t => sget t.eth.paused 0 0 == 8) = true ∧
    holds (exec (.slowPathTx keep 0 0) eth0) (fun t => t.resp == .done) = true ∧
    ethClass eth0 0 ((frame4 [1]).set 14 0x46) = .ipRule ∧ ethClass eth0 0 (List.replicate 9213 0) = .over ∧
    holds (exec (.slowPathRx 0 ((frame4 [1]).set 14 0x46)) eth0) (fun t => t.resp == eth0.resp) = true := by decide +kernel
/-! ### The pair -/

/-- Pair port 0 enabled and up in a supervision state, with messages in its inbox. -/
def pair0 (st : Nat) (l : List PairMsg) : State :=
  (((((State.reset.setDom (pdPair 0) true).setReg (pairPage 0) oCtl 1).setReg (pairPage 0) oStat 1).setReg 0x324 0x104 (w32 st)).setPlink
    { State.reset.plink with lost := false }).setPport 0 { inbox := l }
/-- Flit bytes with a sound FCRC. -/
def flit (seq kind : Nat) (p : List Byte) : List Byte :=
  let b := beBytes 2 seq ++ (byte kind :: 0 :: (p ++ List.replicate (248 - p.length) 0))
  b ++ beBytes 4 (crcInv b)

theorem witness_PairLinkChannelsAndMirroring :
    (flit 0 0 []).length = 256 ∧ pageBlock (pairPage 0) = some (.pair, 0) ∧ State.reset.regB (pairPage 3) oCtl 0 = false ∧
    (pair0 3 []).regB (pairPage 0) oCtl 0 = true ∧ (pair0 3 []).pairUp 0 = true ∧
    swf (fun _ => ({} : PPort)) (pair0 3 []).plink.ports = true ∧ beAt (flit 0 0 []) 252 4 = crcInv ((flit 0 0 []).take 252) ∧
    beAt ((flit 0 0 []).set 9 1) 252 4 ≠ crcInv (((flit 0 0 []).set 9 1).take 252) ∧ leAt (flit 0 2 []) 2 1 = 2 ∧
    (inboxTake (pair0 3 [⟨4, 7, List.replicate 72 0⟩]) 0 4).map (·.1.tag) = some 7 ∧
    (∀ k ∈ [(5, 72), (7, 48), (8, 0), (9, 0), (10, 520), (11, 1024)], (inboxTake (pair0 3 [⟨k.1, 7, List.replicate k.2 0⟩]) 0 k.1).isSome = true) ∧
    (flitBytes 7 0 (List.replicate 248 0)).length = 256 ∧ seqAhead 5 6 = 1 ∧ 32768 ≤ seqAhead 5 4 ∧ (pair0 3 []).qe.waits = [] ∧
    (pair0 3 []).pmaster = false ∧ (pair0 3 []).plink.loser = false ∧ (pair0 3 []).plink.jrecs = [] ∧ leAt (List.replicate 64 (0 : Byte)) 8 4 % 64 = 0 ∧
    (inboxTake ((pair0 3 [⟨4, 7, List.replicate 72 0⟩]).setPlink { (pair0 3 [⟨4, 7, List.replicate 72 0⟩]).plink with
      jrecs := [(0, 3, ⟨5, 7, List.replicate 72 0⟩)] }) 0 4).map (fun x => x.2.plink.jrecs.find? (fun j => j.2.2.tag == x.1.tag && jrecReady x.2 j.2.2)) =
      some (some (0, 3, ⟨5, 7, List.replicate 72 0⟩)) ∧
    (inboxTake (pair0 3 [⟨12, 5, [1]⟩]) 0 12).isSome = true ∧ State.reset.paired = false ∧ (pair0 3 []).paired = true ∧
    State.reset.regB 0x325 (0x100 + 8 * 31) 31 = false ∧ State.reset.issues keep = true ∧ (pair0 3 []).deltaPort = some 0 := by decide +kernel
theorem test_flits :
    holds (exec (.flitRx 0 (flit 0 0 [])) (pair0 3 [])) (fun t => (t.pport 0).expect == 1 && t.out == [.flit 0 (flitBytes 0 2 ([0, 1, 0] ++ List.replicate 245 0))]) = true ∧
    holds (exec (.flitRx 0 ((flit 0 0 []).set 9 1)) (pair0 3 [])) (fun t => (t.pport 0).nak && t.out == [.flit 0 (flitBytes 0 2 ([0, 0, 1] ++ List.replicate 245 0))]) = true ∧
    holds (exec (.flitRx 0 (flit 5 0 [])) (pair0 3 [])) (fun t => (t.pport 0).last == some 5 &&
      holds (exec (.flitRx 0 (flit 6 0 [])) t) (fun u => u.out.length == 1 && holds (exec (.flitRx 0 (flit 9 0 [])) u) (fun v => v.out.length == 2))) = true ∧
    holds (exec (.flitRx 0 (flit 0 3 [])) (pair0 3 [])) (fun t => t.out == []) = true ∧
    holds (exec (.pairPortDown 0) (pair0 3 [])) (fun t => !(t.pairUp 0) && t.regB (pairPage 0) oIrqRaw 1) = true ∧
    holds (exec (.mack 0) (pair0 3 [⟨4, 7, []⟩])) (fun t => (t.pport 0).inbox.length == 1) = true ∧
    holds (exec (.mack 0) (pair0 3 [⟨6, 7, []⟩])) (fun t => (t.pport 0).inbox.length == 0) = true ∧
    holds (exec (.homereq keep 5) (pair0 0 [])) (fun t => t.out == []) = true := by decide +kernel
/-- A join record of another revision, and one that is refused. -/
def joinMsg (ty out : Nat) : PairMsg := ⟨ty, 0, (beBytes 2 0xFFFF ++ List.replicate 78 0) ++ (byte out :: List.replicate 15 0)⟩
theorem witness_JoinLossAndLeaseDecideWhoServes :
    (joinMsg 1 0).payload.length = 96 ∧ (inboxTake (pair0 0 [joinMsg 1 0]) 0 1).isSome = true ∧ (pair0 0 []).pstate = 0 ∧
    isJoiner (seen (pair0 0 []) (joinMsg 1 0)) 0 0 = false ∧ leAt (joinMsg 2 1).payload 80 1 = 1 ∧ Regs.wf (pair0 3 []) = true ∧
    (pair0 3 []).plink.lost = false ∧ (pair0 3 []).nowit = false ∧ State.reset.fm.selfStop = false ∧ (pair0 0 []).plink.refused = false ∧
    isJoiner (met ((pair0 0 []).setReg 0x2FF 0x100 1) ⟨1, 0, beBytes 2 0 ++ List.replicate 94 0xFF⟩) 1 0 = true ∧
    (State.reset.port 0).lp ≠ 8 ∧ hbStopped (pair0 4 []) = false ∧ (pair0 0 []).pstate = 0 ∧ mayAsk (pair0 1 []) = false ∧ mayAsk (pair0 0 []) = true ∧
    (mgFrame State.reset 0 [] 0x21).isNone = true := by decide +kernel
theorem test_pairing :
    holds (exec (.joinrsp 0) (pair0 0 [joinMsg 2 1])) (fun t => t.pstate == 4 && t.plink.refused) = true ∧
    holds (exec .resyncDone ((pair0 1 []).setPlink { (pair0 1 []).plink with joined := true })) (fun t => t.pstate == 3 && !(t.fence)) = true ∧
    holds (exec .loss (pair0 3 [])) (fun t => t.pstate == 4 && t.fence) = true ∧
    holds (exec .loss ((pair0 3 []).setPlink { (pair0 3 []).plink with lease := true })) (fun t => t.pstate == 0 && (t.pmaster && t.epoch == 1)) = true ∧
    holds (exec .leaseReq (pair0 0 [])) (fun t => t.plink.asked) = true ∧
    holds (exec .leaseLapse ((pair0 3 []).setPlink { (pair0 3 []).plink with lease := true })) (fun t => !(t.plink.lease) && t.regB 0x324 oIrqRaw 4) = true := by
  decide +kernel

/-! ### Events and faults -/

/-- Channel 0 is bound between turret 0 and the Keep. -/
def bound : State := (put 0x60 0x100 0x80001700)
theorem witness_EventsMailboxesAndLocks :
    State.reset.custodyOf mgmt = false ∧ State.reset.custodyOf keep = true ∧ bound.mbSide 0 23 = some true ∧ bound.mbSide 0 0 = some false ∧
    bound.mbSide 0 1 = none ∧ regBit (0x80010A20 : Word32) 31 = true ∧ regFld (0x80010A20 : Word32) 8 4 = 10 ∧ regFld (0x80010A20 : Word32) 0 8 = 0x20 ∧
    regFld (0x80001900 : Word32) 8 5 = 25 ∧ bound.locked 0x60 = false ∧ swf (fun _ => ({} : MbChan)) bound.mbx = true ∧
    sget State.reset.lck 15 none = none ∧ keep.val = 23 := by decide +kernel
theorem test_events :
    holds (exec (.routeWrite keep 511 0x8001091F) State.reset) (fun t => t.resp == .err .access) = true ∧
    holds (exec (.routeWrite keep 511 0x80010920) State.reset) (fun t => t.route 511 == 0x80010920) = true ∧
    holds (exec (.bindingWrite keep 0 0x80001A00) State.reset) (fun t => t.resp == .err .access) = true ∧
    holds (exec (.bindingWrite keep 0 0x80001701) bound) (fun t => t.resp == .err .binding) = true ∧
    holds (exec (.mbTxlo keep 0 7) bound) (fun t => holds (exec (.mbTxhi keep 0 9) t) (fun u =>
      ((u.chan 0).side true).queue == [(0x0000000900000007, false)])) = true ∧
    holds (exec (.mbRing keep 0 0xFFFFFFFF) bound) (fun t => ((t.chan 0).side false).db == 0x7FFFFFFF) = true ∧
    holds (exec (.pop keep 0) bound) (fun t => ((t.chan 0).side true).flags == 2) = true ∧
    holds (exec (.lockRead keep 15) State.reset) (fun t => t.resp == .data (leBytes 4 0x80000017) false &&
      holds (exec (.lockRead mgmt 15) t) (fun u => u.resp == .data (leBytes 4 0x40000017) false)) = true := by decide +kernel
/-- Pair 0 halted with a class, its source routed to the Keep. -/
def halted (c : Nat) : State := (((put 0x41 (0x100 + 4 * 246) 0xC0000000).setReg 0x1A8 oIrqEn 0x1F).setReg 0x1A8 oIrqRaw 2).setPair 0 { st := .halt, haltClass := c }
/-- Cores 0 and 1 in lockstep, with one window. -/
def twin (w : List Cell) : State :=
  let s := ((tur w 0 0).setDom (pdTur 1) true).setReg 0x1A1 8 0
  (s.setCore 1 (s.core 0)).setPair 0 { s.pair 0 with st := .locked }
/-- The hypothesis that the pair runs an instruction, as a test. -/
def pairB (s : State) (op : DisOp) (p : Pfx) (a : Acc) : Bool :=
  decide (op.ex = .turret 0) && (op.stop == none && (op.reserved == none && (decide (pfxParse {} op.pfx = some p) &&
    (decide (p.page = a.page) && (s.executes 0 == true && s.lockstep 0 == true)))))
theorem pair_of {s : State} {op : DisOp} {p : Pfx} {a : Acc} (h : pairB s op p a = true) : pairRuns s 0 op p a := by
  simp only [pairB, Bool.and_eq_true, decide_eq_true_eq, beq_iff_eq] at h
  exact h
theorem witness_pair_runs : pairRuns (twin [5, 3, 2]) 0 (op0 []) {} { w32 := true, w16 := true, rep := true, repn := true } := pair_of (by decide +kernel)
theorem test_pairs :
    (twin [5, 3, 2]).core (oddCore (pairOf 0)) = (twin [5, 3, 2]).core 0 ∧
    holds (exec (.add (op0 [])) (twin [5, 3, 2])) (fun t => (t.core 1 == t.core 0 && (t.cx 0).win == cellsOf [8, 2]) && (t.pair 0).st == .locked) = true ∧
    holds (exec (.add { op0 [] with hw := .coreFault 1 }) (twin [5, 3, 2])) (fun t => (t.pair 0).st == .halt && ((t.pair 0).haltClass == 1 &&
      (t.cx 0).win == cellsOf [5, 3, 2])) = true ∧
    holds (exec (.add { op0 [] with hw := .dreg true 7 2 }) (twin [5, 3, 2])) (fun t => t.reg 0x1A8 0x11C == 0x8007 &&
      (t.regF 0x1A8 0x100 27 3 == 3 && t.regF 0x1A8 0x100 24 3 == 2)) = true ∧
    holds (exec (.add { op0 [] with hw := .selfFault 5 }) (twin [5, 3, 2])) (fun t => t.regB 0x1A8 oIrqRaw 3) = true := by decide +kernel
theorem witness_FaultsAreCountedDeclaredAndRecovered :
    pageBlock 0 ≠ none ∧ pageBlock 0x400 = none ∧ (State.reset.err 0).signal = false ∧ lastingCode 0 = 0 ∧
    ((State.reset.setErr 0 { State.reset.err 0 with signal := true }).err 0).signal = true ∧ ((halted 2).pair 0).st = .halt ∧
    (State.reset.pair 0).st ≠ .halt ∧ (halted 2).toKeep 246 = true ∧ State.reset.toKeep 246 = false ∧ dregSecond (halted 3) 0 = false ∧
    dregSecond ((halted 3).setErr 0x1A8 { (halted 3).err 0x1A8 with dreg := some 0 }) 0 = true ∧ innerCounted 0x41 = true ∧ State.reset.pageOn 0x41 = true ∧
    ((State.reset.chan 0).side false).queue = [] ∧ (({ State.reset.chan 0 with a := { queue := [(5, false)] } } : MbChan).side false).queue[0]? = some (5, false) ∧ swf domainReset State.reset.domains = true ∧ swf (fun _ => ({} : PageErr)) State.reset.errs = true ∧
    swf (fun _ => ({} : FmRec)) State.reset.fm.recs = true ∧ State.reset.held (evenCore 0) = true ∧ State.reset.held (oddCore 0) = true ∧
    (State.reset.setDom (pdCmp 0) true).dom (pdCmp 0) = true ∧ (State.reset.setDom (pdCmp 0) false).dom (pdCmp 0) = false := by decide +kernel
theorem test_faults :
    holds (exec (.lastingFaultDeclaration 0) (State.reset.setErr 0 { State.reset.err 0 with signal := true })) (fun t =>
      (t.err 0).lasting == 1 && (t.fm.head == 1 && !((t.err 0).signal))) = true ∧
    holds (exec (.pairRecovery 0 none) (halted 2)) (fun t => (t.pair 0).st == .locked) = true ∧
    holds (exec (.pairRecovery 0 (some 3)) (halted 2)) (fun t => (t.pair 0).st == .offline && ((t.pair 0).splitOnly && t.regF 0x1A8 0x100 27 3 == 4)) = true ∧
    holds (exec (.pairRecovery 0 none) (halted 4)) (fun t => (t.pair 0).st == .offline && (t.pair 0).splitOnly) = true ∧
    holds (exec (.synchronousTick [.route 3 2, .counted 0x42, .message 0 false 0 2]) (put 0x41 0x10C 0x80010920)) (fun t =>
      !(regBit (t.route 3) 31) && (t.regB 0x40 oIrqRaw 0 && (t.err 0x42).buckets.head? == some 1)) = true ∧
    holds (exec (.injectionTest mgmt 0 255 0) State.reset) (fun t => t.resp == .err .identity) = true ∧
    holds (exec (.injectionTest keep 0 255 0) (State.reset.setDom (pdCmp 0) true)) (fun t => (t.pair 0).injok == 255) = true := by decide +kernel
/-! ### The Cupola -/

/-- The Cupola with a changed die state. -/
def cupola (f : Cup → Cup) : State := { State.reset with cup := f State.reset.cup }
/-- CUP_V0 is below zero, `n` samples into a half-cycle. -/
def crossing (n : Nat) : State := cupola fun c => { c with nhalf := n, v0 := -5 }
/-- A request waits in the master slot. -/
def asked (l : List Nat) : State := cupola fun c => { c with master := some l }

theorem witness_CupolaMeasuresAndPublishes :
    State.reset.cup.ready = true ∧ (cupola fun c => { c with ready := false }).cup.ready = false ∧ State.reset.cup.log = [] ∧
    Regs.wf State.reset = true ∧ Memory.wf State.reset = true ∧ (List.finRange 10).all (fun r => State.reset.cup.energy.reg[r] < 1000000000000) = true ∧
    (cupola fun c => { c with ended := some [1, 2, 3, 4, 5] }).boot.power = .active ∧ ((0 : Fin 10) ≠ 1) ∧ State.reset.cup.nhalf = 0 ∧ cupTimed State.reset.cup = false ∧
    (crossing 3).cup.nhalf ≠ 0 ∧ crossAny (crossing 3).cup.v0 5 = true ∧ State.reset.cwSeq = 0 ∧
    (3599 + 2 ^ 32 - 0) % 2 ^ 32 < 3600 ∧ 3600 ≤ (3600 + 2 ^ 32 - 0) % 2 ^ 32 := by decide +kernel
theorem test_metering :
    (energyPower State.reset.cup.energy 0 1 (28800000000000 : Int)).reg[0] = 1 ∧ (energyPower State.reset.cup.energy 0 1 (-(28800000000000 : Int))).reg[1] = 1 ∧
    (energyPower { State.reset.cup.energy with reg := State.reset.cup.energy.reg.set 0 999999999999 } 0 1 (28800000000000 : Int)).reg[0] = 0 ∧
    holds (exec .snapshot State.reset) (fun t => t.cwSeq == 2 && (t.le (cupBase + 4) 4 == 0x0809003C && t.cup.energy == State.reset.cup.energy)) = true ∧
    holds (exec (.sample ⟨5, 0, 5, 0⟩ ⟨0, 0, 0, 0⟩ ⟨0, 0, 0, 0⟩ ⟨0, 0, 0, 0⟩) (crossing 3)) (fun t => t.cup.ended == some [0, 0, 0, 0, 0] && t.cup.nhalf == 1) = true ∧
    holds (exec (.sample ⟨5, 0, 5, 0⟩ ⟨0, 0, 0, 0⟩ ⟨0, 0, 0, 0⟩ ⟨0, 0, 0, 0⟩) (crossing 0)) (fun t => t.cup.ended == none && t.cup.halves == 0) = true ∧
    holds (exec .halfCyclePeak (cupola fun c => { c with ended := some [1, 2, 3, 4, 5] })) (fun t => t.reg 0x382 0x110 == 5 && t.regB 0x382 oIrqRaw 0) = true ∧
    holds (exec .warmUpEnd (cupola fun c => { c with warmLeft := 0 })) (fun t => !(t.cup.warm)) = true ∧
    holds (exec .periodicSave (cupola fun c => { c with opsec := 3600 })) (fun t => t.cup.save.opsec == 3600 && !(t.cup.save.fail)) = true ∧
    holds (exec .periodicSave (cupola fun c => { c with opsec := 3599 })) (fun t => t.cup.savedAt == 0) = true ∧
    holds (exec (.brownOut true true) State.reset) (fun t => t.cup.save.fail && !(t.cup.ready)) = true := by decide +kernel
theorem witness_CupolaAnswersRequestsAndCalibration :
    State.reset.issues keep = true ∧ State.reset.cup.master = none ∧ (asked [3, 7, 0, 0]).cup.master.isSome = true ∧ cmdOk [4, 10, 0, 0] = true ∧
    cmdOk [4, 1000, 0, 0] = true ∧ cmdOk [4, 1001, 0, 0] = false ∧ cmdOk [4, 9, 0, 0] = false ∧ cupHas (asked [3, 7, 0, 0]) 3 = some [3, 7, 0, 0] ∧
    (cupola fun c => { c with calen := true }).cup.calen = true ∧ cupParam State.reset.cup 0x10 = some 0x40000000 ∧ cupParam State.reset.cup 0xFF = none ∧
    cupMode State.reset.cup = 0 := by decide +kernel
theorem test_requests_and_calibration :
    holds (exec .ping (asked [3, 7, 0, 0])) (fun t => t.cup.master == none && (t.cup.evq.length == 1 && t.reg 0x380 0x114 == 1)) = true ∧
    holds (exec .snapint (asked [4, 10, 0, 0])) (fun t => t.cup.snapint == 10) = true ∧
    holds (exec (.cupwCmdgo keep 1) (asked [3, 7, 0, 0])) (fun t => t.resp == .err .binding) = true ∧
    holds (exec (.rdparam 0xFF) (cupola fun c => { c with calen := true })) (fun t => t.out == [calFrame 2 1 []]) = true ∧
    holds (exec (.wrparam 0x10 5) (cupola fun c => { c with calen := true })) (fun t => cupParam t.cup 0x10 == some 5 && t.cup.log.length == 1) = true ∧
    holds (exec (.wrparam 0 4) (cupola fun c => { c with calen := true })) (fun t => t.cup.log == [] && t.out == [calFrame 3 1 []]) = true ∧
    holds (exec .sealCal (cupola fun c => { c with calen := true })) (fun t => !(t.cup.sealed)) = true ∧
    holds (exec (.calenChange true) State.reset) (fun t => t.cup.calen && t.cup.log.map (·.kind) == [3]) = true := by decide +kernel

/-! ### Start, reset and the Keep -/

/-- A start-up phase and a memory mode. -/
def phased (ph : Nat) (m : MemMode) : State := (modeOf m 0).setRegF 0 oStat 28 4 ph
/-- The start-up block with a change. -/
def booted (f : Boot → Boot) : State := { State.reset with boot := f State.reset.boot }

theorem witness_StartReleaseAndFullService :
    (booted fun b => { b with vaux33 := false }).boot.vaux33 = false ∧ State.reset.boot.vaux33 = true ∧ State.reset.boot.trip = false ∧
    State.reset.boot.por = true ∧ Regs.wf State.reset = true ∧ (put 1 0x118 0x10).regB 1 0x118 4 = true ∧
    leAt (State.reset.bytes (slotKey 0) 0x400) 0 4 ≠ 0x49584354 ∧ bit (booted fun b => { b with torn := 3 }).tornSlots 1 = true ∧ (phased 4 .narrow).regF 0 oStat 28 4 = 4 ∧ Regs.wf (phased 4 .wide) = true ∧
    ((phased 7 .wide).setRegF 0x120 oStat 1 1 1).regB 0x120 oStat 1 = true ∧ (phased 5 .narrow).boot.group = 0 ∧
    swf (fun _ => ({} : Chan)) (phased 5 .narrow).memc.chans = true := by decide +kernel
theorem test_start :
    holds (exec (.powerOnReset { rcv := true }) (put 1 0x118 0x10)) (fun t => t.regF 0 oStat 28 4 == 9 && (t.regF 0 oStat 8 8 == 1 && t.boot.faultLow)) = true ∧
    holds (exec .release (phased 4 .narrow)) (fun t => t.fm.released) = true ∧
    holds (exec .fullService ((phased 7 .wide).setRegF 0x120 oStat 1 1 1)) (fun t => t.memc.mode == .wide) = true ∧
    holds (exec .release (phased 3 .narrow)) (fun t => t.regF 0 oStat 28 4 == 3) = true := by decide +kernel
/-- The device runs: power-on reset is over. -/
def live (p : PowerSt) : State := { phased 7 .wide with boot := { State.reset.boot with por := false, power := p } }
theorem witness_ResetsWakesAndSupplies :
    (live .off).boot.power = .off ∧ (live .active).boot.por = false ∧ 5 ≤ (live .active).regF 0 oStat 28 4 ∧ Regs.wf (live .active) = true ∧
    (live .active).boot.warm = none ∧ (live .active).custodyOf mgmt = false ∧ (live .active).issues mgmt = true ∧ (live .active).custodyOf keep = true ∧ anyC5 (live .active) = false ∧
    anyC5 ((live .active).setReg 0x2B oCtl 1) = true ∧ vigilBusy (live .active) = false ∧ vigilBusy (modeOf .widening 0) = true ∧
    inflAll (live .active) = 0 ∧ inflAll (heldQ.setIft 0 (some {})) ≠ inflAll heldQ ∨ inflAll flightQ ≠ 0 := by decide +kernel
theorem test_resets :
    holds (exec (.deviceWarmReset .rstPin {}) (live .active)) (fun t => t.boot.rstLow && (t.boot.warm == some 4 && t.held 0)) = true ∧
    holds (exec (.deviceWarmReset .rstPin {}) (live .off)) (fun t => t.boot.rstLow && t.boot.warm == none) = true ∧
    holds (exec (.offRequest keep) (live .active)) (fun t => t.boot.power == .off) = true ∧
    holds (exec (.vigilRequest keep) ((live .active).setReg 0x2B oCtl 1)) (fun t => t.boot.power == .active && t.boot.entry == none) = true ∧
    holds (exec (.wake .wakePin {}) (live .off)) (fun t => t.boot.por) = true ∧ holds (exec (.wake .mg0 {}) (live .off)) (fun t => !(t.boot.por)) = true ∧
    holds (exec .vin12Loss (live .active)) (fun t => t.boot.power == .off && !(t.boot.vin12)) = true ∧
    holds (exec .thermalTrip (live .active)) (fun t => t.boot.trip && (t.boot.faultLow && t.boot.power == .off)) = true := by decide +kernel
theorem witness_KeepServesKeysRecoveryAndDebug :
    State.reset.issues mgmt = true ∧ State.reset.custodyOf mgmt = false ∧ State.reset.custodyOf keep = true ∧ Regs.wf State.reset = true ∧
    (put 0 0x114 1).regF 1 0x11C 0 6 < ((put 0 0x114 1).reg 0 0x114).toNat ∧ keyLen 0 = none ∧ (keyLen 1).isSome = true ∧
    swf (fun _ => ({} : KeySlot)) State.reset.keys = true ∧ rcvRefused State.reset 22 false = true ∧ rcvRefused State.reset 23 true = false ∧
    State.reset.regB 3 0x114 31 = false ∧ State.reset.regB 1 0x118 5 = false ∧ lantOwn 0xF00010020 = false := by decide +kernel
theorem test_keep :
    holds (exec (.svnup keep) (put 0 0x114 1)) (fun t => t.regF 1 0x11C 0 6 == 1) = true ∧
    holds (exec (.svnup mgmt) (put 0 0x114 1)) (fun t => t.resp == .err .access) = true ∧
    holds (exec (.ksGrant keep 0x5502) State.reset) (fun t => t.key 0 == { grant := 0x55 } && t.reg 2 0x114 == 1) = true ∧
    holds (exec (.rcvData mgmt 0) State.reset) (fun t => t.resp == .err .identity) = true ∧
    holds (exec (.lantHalt keep 0xFF) (State.reset.setDom pdLant true)) (fun t => (t.core 7).dhalt) = true ∧
    holds (exec (.lantHalt keep 0xFF) (State.reset.setDom pdLant false)) (fun t => !((t.core 7).dhalt)) = true ∧
    holds (exec (.lantHalt 25 0xFF) (State.reset.setDom pdLant true)) (fun t => (t.core 7).dhalt) = true ∧
    holds (exec (.lock 25 0x10 0x5A17) State.reset) (fun t => t.locks == []) = true := by decide +kernel
/-! ### Ill-formed commands: one for each check of `Instr.wf` -/

theorem test_wf_refuses_bytes_that_are_no_prefix : Instr.wf (.add (op0 [0x10])) = false := by decide
theorem test_wf_refuses_an_operand_byte_that_is_missing : Instr.wf (.lda (op0 [0xF5])) = false := by decide
theorem test_wf_refuses_another_page :
    Instr.wf (.add (op0 [0xF9])) = false ∧ Instr.wf (.gate (op0 [])) = false ∧ Instr.wf (.mfcr (op0 [0xFA]) 0) = false ∧
    Instr.wf (.dadd (op0 [0xFB])) = false ∧ Instr.wf (.fadd (op0 [0xFA])) = false ∧ Instr.wf (.vadd (op0 [])) = false ∧
    Instr.wf (.vdget (op0 [0xF9]) 0) = false ∧ Instr.wf (.ldl (op0 [0xF8]) 0) = false := by decide
theorem test_wf_refuses_an_immediate_that_does_not_fit :
    Instr.wf (.pushi (op0 []) { size := 0, value := 0x100 }) = false ∧ Instr.wf (.br (op0 []) { size := 2, value := 0x100000000 }) = false := by decide
theorem test_wf_refuses_empty_accesses :
    Instr.wf (.registerWrite keep 0 []) = false ∧ Instr.wf (.dramRead keep 0 0 {}) = false ∧ Instr.wf (.dramWrite keep 0 [] {}) = false ∧
    Instr.wf (.sramAccess keep 0 (.read 0) {}) = false ∧ Instr.wf (.sramAccess keep 0 (.write []) {}) = false ∧
    Instr.wf (.queueContextWrite keep 0 0 [] {}) = false := by decide
theorem test_wf_refuses_a_short_flit : Instr.wf (.flitRx 0 (List.replicate 255 0)) = false := by decide
theorem test_wf_accepts :
    Instr.wf (.add (op0 [0xF3])) = true ∧ Instr.wf (.add (op0 [0xFF])) = true ∧ Instr.wf (.gate (op0 [0xF9])) = true ∧
    Instr.wf (.pushi (op0 []) { size := 0, value := 0xFF }) = true ∧ Instr.wf (.flitRx 0 (List.replicate 256 0)) = true := by decide

end Sys2Proof.Tests
end

section
/-! PROOF. The state after reset: the registers' values and the canonical forms (R14). -/
namespace Sys2Proof.Proofs
open Sys2Proof.Machine Sys2Proof.Laws

theorem reg_reset {page off : Nat} (h : off < 4096) : State.reset.reg page off = regReset page off := by
  have hp : (page * 4096 + off) / 4096 = page := by omega
  have ho : (page * 4096 + off) % 4096 = off := by omega
  show regResetAt (regKey page off) = _
  rw [regResetAt, regKey, hp, ho]

/-- Settles O5: every register reads its reset value because none is listed. -/
theorem resetState : Obligations.ResetState := by
  refine ⟨rfl, rfl, rfl, rfl, fun page off i ho hi => ?_⟩
  rw [reg_reset ho, regReset, hi]

end Sys2Proof.Proofs
end

section
/-! PROOF. What every command keeps: the canonical forms of memory and registers, and, but for three commands, the energy registers. -/
namespace Sys2Proof.Proofs
open Sys2Proof.Machine Sys2Proof.Laws

/-- The commands that act on the Cupola's own energy registers: its sample, and the loss and return of its supply (R412, R420). -/
def setsMeter : Instr → Bool
  | .sample .. | .brownOut .. | .cupolaPowerUp .. => true
  | _ => false

theorem setsMeter_cases {c : Instr} (h : setsMeter c = true) :
    (∃ c0 c1 c2 c3, c = .sample c0 c1 c2 c3) ∨ (∃ d l, c = .brownOut d l) ∨ ∃ b, c = .cupolaPowerUp b := by
  unfold setsMeter at h
  split at h
  · exact .inl ⟨_, _, _, _, rfl⟩
  · exact .inr (.inl ⟨_, _, rfl⟩)
  · exact .inr (.inr ⟨_, rfl⟩)
  · cases h

/-- Every command but those keeps the queue, the canonical forms and the energy registers: the lemma of its row, row by row. -/
theorem exec_kept (c : Instr) (s : State) (h : setsMeter c = false) : KeptR s (exec c s) := by
  cases c with
  | sample | brownOut | cupolaPowerUp => cases h
  | registerWrite => exact execRegisterWrite_kept
  | lock => exact execLock_kept
  | irqSet => exact execIrqSet_kept
  | dramRead => exact execDramRead_kept
  | dramWrite => exact execDramWrite_kept
  | sramAccess => exact execSramAccess_kept
  | scrBstateWrite => exact execScrBstateWrite_kept
  | bankZeroFill => exact execBankZeroFill_kept
  | patrolRegion => exact execPatrolRegion_kept
  | dmaStarve => exact execDmaStarve_kept
  | scrubRead => exact execScrubRead_kept
  | widen => exact execWiden_kept
  | wideningCopyBlock => exact execWideningCopyBlock_kept
  | wideDone => exact execWideDone_kept
  | spareForce => exact execSpareForce_kept
  | spareCopyBlock => exact execSpareCopyBlock_kept
  | spareSwitch => exact execSpareSwitch_kept
  | spareAbort why => exact execSpareAbort_kept (_why := why)
  | phaseTick => exact execPhaseTick_kept
  | referenceCrossing => exact execReferenceCrossing_kept
  | belfryStateChange => exact execBelfryStateChange_kept
  | crossingTimeout => exact execCrossingTimeout_kept
  | holdLimitExpiry => exact execHoldLimitExpiry_kept
  | srcWrite => exact execSrcWrite_kept
  | belfSlewWrite => exact execBelfSlewWrite_kept
  | slewStep => exact execSlewStep_kept
  | belfTimeLoRead => exact execBelfTimeLoRead_kept
  | belfTimeHiRead => exact execBelfTimeHiRead_kept
  | synchronousTick => exact execSynchronousTick_kept
  | bcmpCtlWrite => exact execBcmpCtlWrite_kept
  | bcmpTargetWrite => exact execBcmpTargetWrite_kept
  | comparatorFire => exact execComparatorFire_kept
  | tctlWrite => exact execTctlWrite_kept
  | timerTick => exact execTimerTick_kept
  | cmpWrite => exact execCmpWrite_kept
  | cmpPreWrite => exact execCmpPreWrite_kept
  | countWrite => exact execCountWrite_kept
  | reloadWrite => exact execReloadWrite_kept
  | linkedCountRead => exact execLinkedCountRead_kept
  | timerStop => exact execTimerStop_kept
  | timerRestart => exact execTimerRestart_kept
  | nop => exact execNop_kept
  | dup => exact execDup_kept
  | drop => exact execDrop_kept
  | swap => exact execSwap_kept
  | rot => exact execRot_kept
  | nrot => exact execNrot_kept
  | nip => exact execNip_kept
  | tuck => exact execTuck_kept
  | pick => exact execPick_kept
  | roll => exact execRoll_kept
  | depth => exact execDepth_kept
  | dup2 => exact execDup2_kept
  | drop2 => exact execDrop2_kept
  | swap2 => exact execSwap2_kept
  | zero => exact execZero_kept
  | add => exact execAdd_kept
  | sub => exact execSub_kept
  | adc => exact execAdc_kept
  | sbb => exact execSbb_kept
  | neg => exact execNeg_kept
  | inc => exact execInc_kept
  | dec => exact execDec_kept
  | mul => exact execMul_kept
  | mulh => exact execMulh_kept
  | mulhu => exact execMulhu_kept
  | div => exact execDiv_kept
  | divu => exact execDivu_kept
  | min => exact execMin_kept
  | max => exact execMax_kept
  | minu => exact execMinu_kept
  | maxu => exact execMaxu_kept
  | and => exact execAnd_kept
  | or => exact execOr_kept
  | xor => exact execXor_kept
  | not => exact execNot_kept
  | andn => exact execAndn_kept
  | shl => exact execShl_kept
  | shr => exact execShr_kept
  | sar => exact execSar_kept
  | rol => exact execRol_kept
  | ror => exact execRor_kept
  | popc => exact execPopc_kept
  | clz => exact execClz_kept
  | ctz => exact execCtz_kept
  | bswap => exact execBswap_kept
  | sext => exact execSext_kept
  | zext => exact execZext_kept
  | eq => exact execEq_kept
  | ne => exact execNe_kept
  | lt => exact execLt_kept
  | le => exact execLe_kept
  | gt => exact execGt_kept
  | ge => exact execGe_kept
  | ltu => exact execLtu_kept
  | leu => exact execLeu_kept
  | gtu => exact execGtu_kept
  | geu => exact execGeu_kept
  | cmp => exact execCmp_kept
  | tst => exact execTst_kept
  | sel => exact execSel_kept
  | ld => exact execLd_kept
  | lds => exact execLds_kept
  | st => exact execSt_kept
  | ldl => exact execLdl_kept
  | lwait => exact execLwait_kept
  | fence => exact execFence_kept
  | swapm => exact execSwapm_kept
  | casm => exact execCasm_kept
  | addm => exact execAddm_kept
  | andm => exact execAndm_kept
  | orm => exact execOrm_kept
  | xorm => exact execXorm_kept
  | lda => exact execLda_kept
  | ldaPostmod => exact execLdaPostmod_kept
  | ldsa => exact execLdsa_kept
  | ldsaPostmod => exact execLdsaPostmod_kept
  | sta => exact execSta_kept
  | staPostmod => exact execStaPostmod_kept
  | anld => exact execAnld_kept
  | anoff => exact execAnoff_kept
  | anrd => exact execAnrd_kept
  | anadr => exact execAnadr_kept
  | anstep => exact execAnstep_kept
  | ret => exact execRet_kept
  | jmp => exact execJmp_kept
  | calli => exact execCalli_kept
  | brk => exact execBrk_kept
  | rdrc => exact execRdrc_kept
  | wrrc => exact execWrrc_kept
  | rdfl => exact execRdfl_kept
  | wrfl => exact execWrfl_kept
  | rdsp => exact execRdsp_kept
  | movb => exact execMovb_kept
  | fillb => exact execFillb_kept
  | crcb => exact execCrcb_kept
  | cmpb => exact execCmpb_kept
  | pushi => exact execPushi_kept
  | pushu => exact execPushu_kept
  | addi => exact execAddi_kept
  | andi => exact execAndi_kept
  | ori => exact execOri_kept
  | ldd => exact execLdd_kept
  | std => exact execStd_kept
  | br => exact execBr_kept
  | bz => exact execBz_kept
  | bnz => exact execBnz_kept
  | call => exact execCall_kept
  | loop => exact execLoop_kept
  | syncI => exact execSyncI_kept
  | syncC => exact execSyncC_kept
  | gate => exact execGate_kept
  | rete => exact execRete_kept
  | csw => exact execCsw_kept
  | wait => exact execWait_kept
  | chkst => exact execChkst_kept
  | bankrd => exact execBankrd_kept
  | bankwr => exact execBankwr_kept
  | mfcr => exact execMfcr_kept
  | mtcr => exact execMtcr_kept
  | dadd => exact execDadd_kept
  | dsub => exact execDsub_kept
  | dchk => exact execDchk_kept
  | dtob => exact execDtob_kept
  | btod => exact execBtod_kept
  | fadd => exact execFadd_kept
  | fsub => exact execFsub_kept
  | fmul => exact execFmul_kept
  | fdiv => exact execFdiv_kept
  | fsqrt => exact execFsqrt_kept
  | fma => exact execFma_kept
  | fmin => exact execFmin_kept
  | fmax => exact execFmax_kept
  | feq => exact execFeq_kept
  | flt => exact execFlt_kept
  | fle => exact execFle_kept
  | fneg => exact execFneg_kept
  | fabs => exact execFabs_kept
  | fclass => exact execFclass_kept
  | fcvtI => exact execFcvtI_kept
  | fcvtF => exact execFcvtF_kept
  | fwiden => exact execFwiden_kept
  | fnarrow => exact execFnarrow_kept
  | interruptEntry => exact execInterruptEntry_kept
  | spillEngineSpill => exact execSpillEngineSpill_kept
  | spillEngineFill => exact execSpillEngineFill_kept
  | farLoadReturn => exact execFarLoadReturn_kept
  | storeBufferDrain => exact execStoreBufferDrain_kept
  | cwbLineWrite => exact execCwbLineWrite_kept
  | coreWarmReset => exact execCoreWarmReset_kept
  | vdld => exact execVdld_kept
  | vdst => exact execVdst_kept
  | vddrop => exact execVddrop_kept
  | vddup => exact execVddup_kept
  | vdswap => exact execVdswap_kept
  | vgo => exact execVgo_kept
  | vwait => exact execVwait_kept
  | vend => exact execVend_kept
  | vldc => exact execVldc_kept
  | vstc => exact execVstc_kept
  | vcget => exact execVcget_kept
  | vcput => exact execVcput_kept
  | vmbring => exact execVmbring_kept
  | vmbwait => exact execVmbwait_kept
  | vonf => exact execVonf_kept
  | vfrec => exact execVfrec_kept
  | vfdesc => exact execVfdesc_kept
  | vresume => exact execVresume_kept
  | vdget => exact execVdget_kept
  | vdset => exact execVdset_kept
  | vadd => exact execVadd_kept
  | vsub => exact execVsub_kept
  | vadds => exact execVadds_kept
  | vsubs => exact execVsubs_kept
  | vaddus => exact execVaddus_kept
  | vsubus => exact execVsubus_kept
  | vmin => exact execVmin_kept
  | vmax => exact execVmax_kept
  | vminu => exact execVminu_kept
  | vmaxu => exact execVmaxu_kept
  | vand => exact execVand_kept
  | vor => exact execVor_kept
  | vxor => exact execVxor_kept
  | vandn => exact execVandn_kept
  | vnot => exact execVnot_kept
  | vpopc => exact execVpopc_kept
  | vshl => exact execVshl_kept
  | vshr => exact execVshr_kept
  | vsar => exact execVsar_kept
  | vrol => exact execVrol_kept
  | vror => exact execVror_kept
  | vcmpeq => exact execVcmpeq_kept
  | vcmpne => exact execVcmpne_kept
  | vcmplt => exact execVcmplt_kept
  | vcmpltu => exact execVcmpltu_kept
  | vsel => exact execVsel_kept
  | vcopy => exact execVcopy_kept
  | vfill => exact execVfill_kept
  | vperm => exact execVperm_kept
  | vgfmul => exact execVgfmul_kept
  | vgfmuls => exact execVgfmuls_kept
  | vgfmac => exact execVgfmac_kept
  | vgfinv => exact execVgfinv_kept
  | vgfmatx => exact execVgfmatx_kept
  | vbfly => exact execVbfly_kept
  | vibfly => exact execVibfly_kept
  | vpmul => exact execVpmul_kept
  | vcld => exact execVcld_kept
  | vcrd => exact execVcrd_kept
  | vcrc32c => exact execVcrc32c_kept
  | vcrc64 => exact execVcrc64_kept
  | vsha256 => exact execVsha256_kept
  | vghash => exact execVghash_kept
  | vaesx => exact execVaesx_kept
  | vaesg => exact execVaesg_kept
  | vrxor => exact execVrxor_kept
  | vradd => exact execVradd_kept
  | vrfmis => exact execVrfmis_kept
  | vrnz => exact execVrnz_kept
  | sprGo => exact execSprGo_kept
  | sprStop => exact execSprStop_kept
  | spireReset => exact execSpireReset_kept
  | pinv => exact execPinv_kept
  | programFetch => exact execProgramFetch_kept
  | groupAdmit => exact execGroupAdmit_kept
  | groupStep => exact execGroupStep_kept
  | groupComplete => exact execGroupComplete_kept
  | groupHalt => exact execGroupHalt_kept
  | fencedSet => exact execFencedSet_kept
  | queueContextWrite => exact execQueueContextWrite_kept
  | ecommit => exact execEcommit_kept
  | tenantTableWrite => exact execTenantTableWrite_kept
  | sqDoorbell => exact execSqDoorbell_kept
  | cqDoorbell => exact execCqDoorbell_kept
  | submissionIntake => exact execSubmissionIntake_kept
  | schedulerSelection => exact execSchedulerSelection_kept
  | completionWrite => exact execCompletionWrite_kept
  | get => exact execGet_kept
  | put => exact execPut_kept
  | encode => exact execEncode_kept
  | recon => exact execRecon_kept
  | verify => exact execVerify_kept
  | scrub => exact execScrub_kept
  | accumOut => exact execAccumOut_kept
  | accumIn => exact execAccumIn_kept
  | transcode => exact execTranscode_kept
  | spin => exact execSpin_kept
  | flush => exact execFlush_kept
  | prog => exact execProg_kept
  | read16 => exact execRead16_kept
  | write16 => exact execWrite16_kept
  | synchronizeCache16 => exact execSynchronizeCache16_kept
  | startStopUnit => exact execStartStopUnit_kept
  | logSense => exact execLogSense_kept
  | modeSense10 => exact execModeSense10_kept
  | modeSelect10 => exact execModeSelect10_kept
  | persistentReserveIn => exact execPersistentReserveIn_kept
  | persistentReserveOut => exact execPersistentReserveOut_kept
  | inquiry => exact execInquiry_kept
  | reportLuns => exact execReportLuns_kept
  | testUnitReady => exact execTestUnitReady_kept
  | requestSense => exact execRequestSense_kept
  | reportZones => exact execReportZones_kept
  | closeZone => exact execCloseZone_kept
  | finishZone => exact execFinishZone_kept
  | openZone => exact execOpenZone_kept
  | resetWritePointer => exact execResetWritePointer_kept
  | driveRequestComplete => exact execDriveRequestComplete_kept
  | commandTimeout => exact execCommandTimeout_kept
  | saspRbaseWrite => exact execSaspRbaseWrite_kept
  | portEn => exact execPortEn_kept
  | portReset => exact execPortReset_kept
  | disable => exact execDisable_kept
  | timeout => exact execTimeout_kept
  | cominitRx => exact execCominitRx_kept
  | comsasRx => exact execComsasRx_kept
  | comwakeRx => exact execComwakeRx_kept
  | snwPass => exact execSnwPass_kept
  | snwFail => exact execSnwFail_kept
  | identRx => exact execIdentRx_kept
  | sataSig => exact execSataSig_kept
  | dwsyncLost => exact execDwsyncLost_kept
  | hardResetRx => exact execHardResetRx_kept
  | bayOff => exact execBayOff_kept
  | errRate => exact execErrRate_kept
  | linkProgramWrite => exact execLinkProgramWrite_kept
  | presenceChange => exact execPresenceChange_kept
  | spinUpRequest => exact execSpinUpRequest_kept
  | spinDownRequest => exact execSpinDownRequest_kept
  | bayPowerOn => exact execBayPowerOn_kept
  | linkUpTimeout => exact execLinkUpTimeout_kept
  | sputmoExpiry => exact execSputmoExpiry_kept
  | admission => exact execAdmission_kept
  | feedbackUpdate => exact execFeedbackUpdate_kept
  | rearm => exact execRearm_kept
  | fenceRegister => exact execFenceRegister_kept
  | preempt => exact execPreempt_kept
  | pwrDreqWrite => exact execPwrDreqWrite_kept
  | req => exact execReq_kept
  | data => exact execData_kept
  | credit => exact execCredit_kept
  | creditTimer => exact execCreditTimer_kept
  | outboundCompletion => exact execOutboundCompletion_kept
  | dataRetransmit => exact execDataRetransmit_kept
  | resp => exact execResp_kept
  | rack => exact execRack_kept
  | slowPathRx => exact execSlowPathRx_kept
  | slowPathTx => exact execSlowPathTx_kept
  | mreq => exact execMreq_kept
  | flitRx => exact execFlitRx_kept
  | flitResend => exact execFlitResend_kept
  | pairPortDown => exact execPairPortDown_kept
  | join => exact execJoin_kept
  | joinrsp => exact execJoinrsp_kept
  | resyncDone => exact execResyncDone_kept
  | hb => exact execHb_kept
  | loss => exact execLoss_kept
  | mirrorRequest => exact execMirrorRequest_kept
  | wab => exact execWab_kept
  | jrec => exact execJrec_kept
  | mack => exact execMack_kept
  | qdelta => exact execQdelta_kept
  | dack => exact execDack_kept
  | retire => exact execRetire_kept
  | pstate => exact execPstate_kept
  | resync => exact execResync_kept
  | homeset => exact execHomeset_kept
  | homereq => exact execHomereq_kept
  | leaseReq => exact execLeaseReq_kept
  | leaseGrant => exact execLeaseGrant_kept
  | leaseDeny => exact execLeaseDeny_kept
  | leaseLapse => exact execLeaseLapse_kept
  | pairRecovery => exact execPairRecovery_kept
  | injectionTest => exact execInjectionTest_kept
  | softwareEventSet => exact execSoftwareEventSet_kept
  | routeWrite => exact execRouteWrite_kept
  | bindingWrite => exact execBindingWrite_kept
  | mbTxlo => exact execMbTxlo_kept
  | mbTxhi => exact execMbTxhi_kept
  | pop => exact execPop_kept
  | mbRing => exact execMbRing_kept
  | mbWait => exact execMbWait_kept
  | lockRead => exact execLockRead_kept
  | lockRelease => exact execLockRelease_kept
  | bucketShift => exact execBucketShift_kept
  | lastingFaultDeclaration => exact execLastingFaultDeclaration_kept
  | evpop => exact execEvpop_kept
  | align => exact execAlign_kept
  | sign => exact execSign_kept
  | ping => exact execPing_kept
  | snapint => exact execSnapint_kept
  | snapshot => exact execSnapshot_kept
  | halfCyclePeak => exact execHalfCyclePeak_kept
  | phaseMark => exact execPhaseMark_kept
  | selfCheck => exact execSelfCheck_kept
  | warmUpEnd => exact execWarmUpEnd_kept
  | ident => exact execIdent_kept
  | rdparam => exact execRdparam_kept
  | wrparam => exact execWrparam_kept
  | sealCal => exact execSealCal_kept
  | rdlog => exact execRdlog_kept
  | calenChange => exact execCalenChange_kept
  | periodicSave => exact execPeriodicSave_kept
  | powerOnReset => exact execPowerOnReset_kept
  | release => exact execRelease_kept
  | fullService => exact execFullService_kept
  | deviceWarmReset => exact execDeviceWarmReset_kept
  | vigilRequest => exact execVigilRequest_kept
  | offRequest => exact execOffRequest_kept
  | wake => exact execWake_kept
  | vin12Loss => exact execVin12Loss_kept
  | vaux33Loss => exact execVaux33Loss_kept
  | thermalTrip => exact execThermalTrip_kept
  | thermN => exact execThermN_kept
  | svnup => exact execSvnup_kept
  | ksLoad => exact execKsLoad_kept
  | ksClear => exact execKsClear_kept
  | ksGrant => exact execKsGrant_kept
  | rcvData => exact execRcvData_kept
  | rcvGo => exact execRcvGo_kept
  | lantHalt => exact execLantHalt_kept
  | train2GroupDone => exact execTrain2GroupDone_kept
  | rstNRisingEdge => exact execRstNRisingEdge_kept
  | vaux33PowerGood => exact execVaux33PowerGood_kept
  | portCameUp => exact execPortCameUp_kept
  | portWentDown => exact execPortWentDown_kept
  | priorityFlowControl => exact execPriorityFlowControl_kept
  | invalidDword => exact execInvalidDword_kept
  | fecCorrectedCodeword => exact execFecCorrectedCodeword_kept
  | dieTemperatureChange => exact execDieTemperatureChange_kept
  | cupwCmdgo => exact execCupwCmdgo_kept
  | thermalWakeRelease => exact execThermalWakeRelease_kept
  -- OVER, whose constructor bears the name of a keyword of Lean
  | _ => exact execOver_kept

/-- The canonical forms and the queue are kept by every command, the three that set the energy registers included. -/
theorem exec_keptQ {c : Instr} {s t : State} (h : exec c s = .next t) : KeptQ s t := by
  cases hc : setsMeter c with
  | false => exact (exec_kept c s hc t h).q
  | true =>
    obtain ⟨c0, c1, c2, c3, rfl⟩ | ⟨d, l, rfl⟩ | ⟨b, rfl⟩ := setsMeter_cases hc
    · exact execSample_keptQ h
    · exact execBrownOut_keptQ h
    · exact execCupolaPowerUp_keptQ h

/-- Settles O4: a step is its front command's effect, and every command keeps the canonical forms. -/
theorem stepKeepsMemoryCanonical : Obligations.StepKeepsMemoryCanonical := by
  intro s t hm hr h
  unfold step at h
  split at h
  · cases h
    exact ⟨hm, hr⟩
  · have k := exec_keptQ h
    exact ⟨k.mem hm, k.regs hr⟩

/-- Settles O6: every command but the three that `setsMeter` names keeps the energy registers. -/
theorem meterReadingsAreIsolated : Obligations.MeterReadingsAreIsolated := by
  intro c s t hs hb hp h
  refine (exec_kept c s (Bool.eq_false_iff.mpr fun hc => ?_) t h).energy
  obtain ⟨c0, c1, c2, c3, e⟩ | ⟨d, l, e⟩ | ⟨b, e⟩ := setsMeter_cases hc
  · exact hs c0 c1 c2 c3 e
  · exact hb d l e
  · exact hp b e

end Sys2Proof.Proofs
end

section
/-! PROOF. Which commands run: those whose operands are well formed. -/
namespace Sys2Proof.Proofs
open Sys2Proof.Machine Sys2Proof.Laws

/-- The answer goes on if `w` holds, and stops as ill-formed if it does not. -/
def RunsIf (w : Bool) (r : Res) : Prop := (w = true → ∃ t, r = .next t) ∧ (w = false → r = .fault .illFormed)

theorem runsIf_ok {s : State} : RunsIf true (ok s) := ⟨fun _ => ⟨s, rfl⟩, nofun⟩
theorem runsIf_fault : RunsIf false (.fault .illFormed) := ⟨nofun, fun _ => rfl⟩
theorem runsIf_okIf {w b : Bool} {s : State} (h : b = w) : RunsIf w (okIf b s) := by
  subst h
  cases b
  · exact runsIf_fault
  · exact runsIf_ok

section
variable {s : State} {n : Fin 8} {c : Fin 4} {op : DisOp} {acc : Acc} {opc page : Nat} {imm : Imm} {tb : Body} {sb : Option SBody}
  {b : SBody} {w : Bool}

/-- A turret instruction goes on if its prefixes, its reserved opcode and its immediate are well formed (R116-R118). -/
theorem turretRun_runsIf {x : Insn} (h : (op.wf x.acc.page && (!x.hasImm || immOk x.imm)) = w) :
    RunsIf w (turretRun s n x op) := by
  subst h
  unfold turretRun DisOp.wf
  cases pfxParse {} op.pfx with
  | none => exact runsIf_fault
  | some p => exact runsIf_okIf (by rw [Bool.and_assoc, Bool.and_comm (reservedOk _ _)])

/-- A spire instruction goes on under the same condition (R179). -/
theorem spireRun_runsIf {hasImm own : Bool} {wt : Waits} (h : (op.wf acc.page && (!hasImm || immOk imm)) = w) :
    RunsIf w (spireRun s n c acc opc hasImm imm op wt own sb) := by
  subst h
  unfold spireRun DisOp.wf
  cases pfxParse {} op.pfx with
  | none => exact runsIf_fault
  | some p => exact runsIf_okIf (by rw [Bool.and_assoc, Bool.and_comm (reservedOk _ _)])

/-- The one byte of a register or field number always fits. -/
theorem immOk_byte (r : BitVec 8) : immOk { size := 0, value := r.zeroExtend 64 } = true := by
  simp only [immOk, immBytes]
  have := r.isLt
  simp
  omega

theorem disRun_runsIf (h : acc.page = page) : RunsIf (op.wf page) (disRun op acc opc tb sb s) := by
  unfold disRun
  split
  · exact turretRun_runsIf (by simp [h])
  · exact spireRun_runsIf (by simp [h])
theorem disLong_runsIf (h : acc.page = page) : RunsIf (op.wf page) (disLong op acc opc tb s) := by
  unfold disLong
  split
  · exact turretRun_runsIf (by simp [h])
  · exact spireRun_runsIf (by simp [h])
theorem disImm_runsIf (h : acc.page = page) : RunsIf (op.wf page && immOk imm) (disImm op acc opc imm tb sb s) := by
  unfold disImm
  split
  · exact turretRun_runsIf (by simp [h])
  · exact spireRun_runsIf (by simp [h])
theorem disVec_runsIf {wt : Waits} : RunsIf (op.wf 0xF8) (disVec op opc wt b s) := by
  unfold disVec
  split
  · exact turretRun_runsIf (by simp [accVec])
  · exact spireRun_runsIf (by simp [accVec])
theorem disField_runsIf {f : BitVec 8} : RunsIf (op.wf 0xF8) (disField op opc f b s) := by
  unfold disField
  split
  · exact turretRun_runsIf (by simp [accVec, immOk_byte])
  · exact spireRun_runsIf (by simp [accVec, immOk_byte])
theorem disReg_runsIf {r : BitVec 8} : RunsIf (op.wf 0xF9) (disReg op opc r tb s) := by
  have h := disImm_runsIf (s := s) (op := op) (acc := accSys) (opc := opc) (imm := { size := 0, value := r.zeroExtend 64 }) (tb := tb)
    (sb := none) rfl
  rwa [immOk_byte, Bool.and_true] at h
theorem execLdl_runsIf {r : Fin 4} : RunsIf (op.wf 0) (execLdl op r s) := by
  unfold execLdl
  split
  · exact turretRun_runsIf (by simp [accLdl])
  · exact spireRun_runsIf (by simp [accLdl])
theorem execChkst_runsIf : RunsIf (op.wf 0xF9) (execChkst op s) := by
  unfold execChkst
  split
  · exact turretRun_runsIf (by simp [accSys])
  · exact spireRun_runsIf (by simp [accSys])
theorem execMtcr_runsIf {r : BitVec 8} : RunsIf (op.wf 0xF9) (execMtcr op r s) := by
  unfold execMtcr
  split
  · exact turretRun_runsIf (by simp [accSys, immOk_byte])
  · exact spireRun_runsIf (by simp [accSys, immOk_byte])
theorem execVcget_runsIf : RunsIf (op.wf 0xF8) (execVcget op s) := by
  unfold execVcget
  split
  · exact turretRun_runsIf (by simp [accVec])
  · exact spireRun_runsIf (by simp [accVec])
theorem execSramAccess_runsIf {id : MasterId} {a : Addr} {x : SramOp} {u : Upset} : RunsIf x.wf (execSramAccess id a x u s) := by
  cases x with
  | read => exact runsIf_okIf rfl
  | write => exact runsIf_okIf rfl
theorem execInjectionTest_runsIf {id : MasterId} {p : Fin 4} {g f : BitVec 8} : RunsIf true (execInjectionTest id p g f s) := by
  unfold execInjectionTest
  split
  · exact runsIf_ok
  · exact runsIf_ok
end

/-- Every command runs exactly when its operands are well formed: by its executor where it is an instruction, by its own check where it
has one, and without a condition otherwise. -/
theorem exec_runsIf (c : Instr) (s : State) : RunsIf c.wf (exec c s) := by
  cases c with
  | pushi | pushu | addi | andi | ori | ldd | std | br | bz | bnz | call | loop => exact disImm_runsIf rfl
  | vdld | vdst | vddrop | vddup | vdswap | vgo | vwait | vend | vldc | vstc | vcput | vmbring | vmbwait | vonf | vfrec |
    vfdesc | vresume | vadd | vsub | vadds | vsubs | vaddus | vsubus | vmin | vmax | vminu | vmaxu | vand | vor | vxor | vandn
    | vnot | vpopc | vshl | vshr | vsar | vrol | vror | vcmpeq | vcmpne | vcmplt | vcmpltu | vsel | vcopy | vfill | vperm |
    vgfmul | vgfmuls | vgfmac | vgfinv | vgfmatx | vbfly | vibfly | vpmul | vcld | vcrd | vcrc32c | vcrc64 | vsha256 | vghash
    | vaesx | vaesg | vrxor | vradd | vrfmis | vrnz => exact disVec_runsIf
  | vdget | vdset => exact disField_runsIf
  | lwait | movb | fillb | crcb | cmpb => exact disLong_runsIf rfl
  | ldl => exact execLdl_runsIf
  | chkst => exact execChkst_runsIf
  | mfcr => exact disReg_runsIf
  | mtcr => exact execMtcr_runsIf
  | vcget => exact execVcget_runsIf
  | registerWrite | dramRead | dramWrite | queueContextWrite | flitRx => exact runsIf_okIf rfl
  | sramAccess => exact execSramAccess_runsIf
  | injectionTest => exact execInjectionTest_runsIf
  | lock | irqSet | scrBstateWrite | bankZeroFill | patrolRegion | dmaStarve | scrubRead | widen | wideningCopyBlock |
    wideDone | spareForce | spareCopyBlock | spareSwitch | spareAbort | phaseTick | referenceCrossing | belfryStateChange |
    crossingTimeout | holdLimitExpiry | srcWrite | belfSlewWrite | slewStep | belfTimeLoRead | belfTimeHiRead |
    synchronousTick | bcmpCtlWrite | bcmpTargetWrite | comparatorFire | tctlWrite | timerTick | cmpWrite | cmpPreWrite |
    countWrite | reloadWrite | linkedCountRead | timerStop | timerRestart | interruptEntry | spillEngineSpill |
    spillEngineFill | farLoadReturn | storeBufferDrain | cwbLineWrite | coreWarmReset | sprGo | sprStop | spireReset | pinv |
    programFetch | groupAdmit | groupStep | groupComplete | groupHalt | fencedSet | ecommit | tenantTableWrite | sqDoorbell |
    cqDoorbell | submissionIntake | schedulerSelection | completionWrite | get | put | encode | recon | verify | scrub |
    accumOut | accumIn | transcode | spin | flush | prog | read16 | write16 | synchronizeCache16 | startStopUnit | logSense |
    modeSense10 | modeSelect10 | persistentReserveIn | persistentReserveOut | inquiry | reportLuns | testUnitReady |
    requestSense | reportZones | closeZone | finishZone | openZone | resetWritePointer | driveRequestComplete | commandTimeout
    | saspRbaseWrite | portEn | portReset | disable | timeout | cominitRx | comsasRx | comwakeRx | snwPass | snwFail | identRx
    | sataSig | dwsyncLost | hardResetRx | bayOff | errRate | linkProgramWrite | presenceChange | spinUpRequest |
    spinDownRequest | bayPowerOn | linkUpTimeout | sputmoExpiry | admission | feedbackUpdate | rearm | fenceRegister | preempt
    | pwrDreqWrite | req | data | credit | creditTimer | outboundCompletion | dataRetransmit | resp | rack | slowPathRx |
    slowPathTx | mreq | flitResend | pairPortDown | join | joinrsp | resyncDone | hb | loss | mirrorRequest | wab | jrec |
    mack | qdelta | dack | retire | pstate | resync | homeset | homereq | leaseReq | leaseGrant | leaseDeny | leaseLapse |
    pairRecovery | softwareEventSet | routeWrite | bindingWrite | mbTxlo | mbTxhi | pop | mbRing | mbWait | lockRead |
    lockRelease | bucketShift | lastingFaultDeclaration | evpop | align | sign | ping | snapint | snapshot | sample |
    halfCyclePeak | phaseMark | selfCheck | warmUpEnd | ident | rdparam | wrparam | sealCal | rdlog | calenChange | brownOut |
    periodicSave | cupolaPowerUp | powerOnReset | release | fullService | deviceWarmReset | vigilRequest | offRequest | wake |
    vin12Loss | vaux33Loss | thermalTrip | thermN | svnup | ksLoad | ksClear | ksGrant | rcvData | rcvGo | lantHalt |
    train2GroupDone | rstNRisingEdge | vaux33PowerGood | portCameUp | portWentDown | priorityFlowControl | invalidDword |
    fecCorrectedCodeword | dieTemperatureChange | cupwCmdgo | thermalWakeRelease => exact runsIf_ok
  -- the plain instructions of every page
  | _ => exact disRun_runsIf rfl

/-- Settles O2, by the condition under which each command runs. -/
theorem onlyIllFormedCommandsStop : Obligations.OnlyIllFormedCommandsStop := exec_runsIf

end Sys2Proof.Proofs
end

section
/-! PROOF. A write to a register page: the order of causes (R10) and the access codes (R11). -/
namespace Sys2Proof.Proofs
open Sys2Proof.Machine Sys2Proof.Laws

/-! ### A write to a register page -/

theorem exec_registerWrite {id : MasterId} {a : Addr} {d : List Byte} {s : State} (h : d ≠ []) :
    exec (.registerWrite id a d) s = ok (cmdWrite s id a.toNat d) := by
  have : (!d.isEmpty) = true := by simpa using h
  show okIf _ _ = _
  rw [this]
  rfl

theorem targetOf_regAddr {page off : Nat} (hp : page < 4096) (ho : off < 4096) : targetOf (regAddr page off) = .page page off := by
  have hpg : (regAddr page off - 0xF00000000) / 4096 = page := by unfold regAddr; omega
  have hoff : regAddr page off % 4096 = off := by unfold regAddr; omega
  unfold targetOf
  rw [if_neg (by unfold regAddr; omega), if_neg (by unfold regAddr; omega), if_pos (by unfold regAddr; omega), hpg, hoff]

theorem toNat_regAddr {page off : Nat} (hp : page < 4096) (ho : off < 4096) :
    (BitVec.ofNat 48 (regAddr page off)).toNat = regAddr page off := by
  rw [BitVec.toNat_ofNat, Nat.mod_eq_of_lt]
  unfold regAddr
  omega

/-- A write to a page that completes answers `done` over what the page made of it. -/
theorem cmdWrite_page_done {s t : State} {id : MasterId} {page off : Nat} {d : List Byte} (hi : s.issues id = true)
    (hp : page < 4096) (ho : off < 4096) (h : regWrite s id.val page off (s.custodyOf id) d = (t, none)) :
    cmdWrite s id (regAddr page off) d = { t with resp := .done } := by
  have hb : busWrite s id (regAddr page off) d = (t, none) := by
    simp only [busWrite, busWriteW, busWriteRaw, targetOf_regAddr hp ho, h]
  rw [cmdWrite_of_issues hi, hb]
  rfl

/-- A write that a page refuses is recorded as a bus error and changes nothing else (R106). -/
theorem cmdWrite_page_err {s : State} {id : MasterId} {page off : Nat} {d : List Byte} {e : BusCause} (hi : s.issues id = true)
    (hp : page < 4096) (ho : off < 4096) (h : regWrite s id.val page off (s.custodyOf id) d = (s, some e)) :
    cmdWrite s id (regAddr page off) d = { s.berr id (regAddr page off) true e with resp := .err e } := by
  have hb : busWrite s id (regAddr page off) d = (s.berr id (regAddr page off) true e, some e) := by
    simp only [busWrite, busWriteW, busWriteRaw, targetOf_regAddr hp ho, h]
  rw [cmdWrite_of_issues hi, hb]
  rfl

theorem exec_registerWrite_page {s : State} {id : MasterId} {page off : Nat} {d : List Byte} (hp : page < 4096) (ho : off < 4096)
    (hd : d ≠ []) :
    exec (.registerWrite id (BitVec.ofNat 48 (regAddr page off)) d) s = .next (cmdWrite s id (regAddr page off) d) := by
  rw [exec_registerWrite hd, toNat_regAddr hp ho]
  rfl

/-- The four causes that come before the access code (R10). -/
theorem regWrite_reaches {s : State} {id page off n : Nat} {cust : Bool} {b : Block} {d : List Byte} {i : RegInfo}
    (hb : pageBlock page = some (b, n)) (hl : d.length = 4) (ha : off % 4 = 0) (hpw : powerBad s page off = false)
    (hr : regInfo page off = some i) (hid : identityBad s id page off (some cust) = false) :
    regWrite s id page off cust d =
      if accessBad cust i then (s, some .access) else regWriteOk s id page off i (w32 (ofLE d)) := by
  simp [regWrite, hb, hl, ha, hpw, hr, hid]

theorem ofLE_leBytes (n x : Nat) : ofLE (leBytes n x) = x % 256 ^ n := by
  induction n generalizing x with
  | zero => simp [leBytes, ofLE, Nat.mod_one]
  | succ n ih =>
    have h : 256 ^ (n + 1) = 256 * 256 ^ n := Nat.pow_succ'
    rw [leBytes, ofLE, ih, h, Nat.mod_mul]
    simp [byte]

@[simp] theorem length_leBytes (n x : Nat) : (leBytes n x).length = n := by
  induction n generalizing x with
  | zero => rfl
  | succ n ih => simp [leBytes, ih]

theorem leBytes_ne_nil {n : Nat} (x : Nat) (h : n ≠ 0) : leBytes n x ≠ [] := by
  intro e
  have := length_leBytes n x
  simp [e] at this
  omega

/-- The four bytes of a word are the word (R9). -/
theorem w32_ofLE_leBytes (v : Word32) : w32 (ofLE (leBytes 4 v.toNat)) = v := by
  rw [ofLE_leBytes, w32]
  have := v.isLt
  rw [Nat.mod_eq_of_lt (by omega), BitVec.ofNat_toNat, BitVec.setWidth_eq]

/-! ### The access codes (R11) -/

theorem regBit_w32 (m : Nat) {k : Nat} (h : k < 32) : regBit (w32 m) k = bit m k := by
  rw [regBit, w32, BitVec.getLsbD_ofNat, decide_eq_true h, Bool.true_and, Nat.testBit_eq_decide_div_mod_eq, bit,
    Nat.shiftRight_eq_div_pow]
theorem regBit_and (a b : Word32) (k : Nat) : regBit (a &&& b) k = (regBit a k && regBit b k) := BitVec.getLsbD_and
theorem regBit_or (a b : Word32) (k : Nat) : regBit (a ||| b) k = (regBit a k || regBit b k) := BitVec.getLsbD_or
theorem regBit_not (a : Word32) {k : Nat} (h : k < 32) : regBit (~~~a) k = !regBit a k := by
  simp [regBit, h]

/-- The bits a write stores: RW, RWC, and RWL on a page that is not locked. -/
theorem regBit_writable (i : RegInfo) (locked : Bool) {k : Nat} (h : k < 32) :
    regBit (w32 i.rw ||| (w32 i.rwc ||| (if locked then 0 else w32 i.rwl))) k =
      (bit i.rw k || (bit i.rwc k || (bit i.rwl k && !locked))) := by
  rw [regBit_or, regBit_or, regBit_w32 _ h, regBit_w32 _ h]
  cases locked
  · simp [regBit_w32 _ h]
  · simp [regBit]

theorem regBit_writeWord (i : RegInfo) (locked : Bool) (old v : Word32) {k : Nat} (h : k < 32) :
    regBit (writeWord i locked old v) k =
      ((if bit i.rw k || (bit i.rwc k || (bit i.rwl k && !locked)) then regBit v k else regBit old k) &&
        !(regBit v k && bit i.w1c k)) := by
  simp only [writeWord, regBit_and, regBit_not _ h, regBit_w32 _ h]
  rw [regBit_or, regBit_and, regBit_and, regBit_not _ h, regBit_writable i locked h]
  cases (bit i.rw k || (bit i.rwc k || (bit i.rwl k && !locked))) <;> simp

/-- A write command to one register that no check refuses is the write of the register's block, answered `done`. -/
theorem cmdReg_done {s t : State} {id : MasterId} {page off n : Nat} {b : Block} {i : RegInfo} {v : Word32} (hi : s.issues id = true)
    (hp : page < 4096) (ho : off < 4096) (hb : pageBlock page = some (b, n)) (ha : off % 4 = 0) (hpw : powerBad s page off = false)
    (hr : regInfo page off = some i) (hid : identityBad s id.val page off (some (s.custodyOf id)) = false)
    (hacc : accessBad (s.custodyOf id) i = false) (h : regWriteOk s id.val page off i v = (t, none)) :
    cmdReg s id page off v = { t with resp := .done } := by
  refine cmdWrite_page_done hi hp ho ?_
  rw [regWrite_reaches hb (length_leBytes 4 _) ha hpw hr hid, hacc, w32_ofLE_leBytes, h]
  rfl

/-- The first half of O7: a register without an action of its own takes the bits its access codes let through. -/
theorem plainRegisterWritesFollowAccessCodes : PlainRegisterWritesFollowAccessCodes := by
  intro s id page off n b i v hi hc hb hr hp ho ha hlo hpw hid hw
  refine ⟨writeWord i (s.locked page) (s.reg page off) v, ?_, fun k hk => regBit_writeWord i _ _ _ hk⟩
  have hh : ¬ (off < 0x100 ∧ off ≠ oCtl) := by omega
  have hok : regWriteOk s id.val page off i v = (plainWrite s page off i v, none) := by
    simp only [regWriteOk, hb, if_neg hh, hw, Option.getD_none]
  rw [exec_registerWrite_page hp ho (leBytes_ne_nil _ (by decide))]
  exact congrArg _ (cmdReg_done hi hp ho hb ha hpw hr (by rwa [hc]) (by simp [hc, accessBad]) hok)

/-- The second half of O7: the causes of R10 in their order. -/
theorem refusedRegisterWritesChangeNothing : RefusedRegisterWritesChangeNothing := by
  intro s id page off d hi hp ho hd
  have key : ∀ e, regWrite s id.val page off (s.custodyOf id) d = (s, some e) →
      exec (.registerWrite id (BitVec.ofNat 48 (regAddr page off)) d) s =
        .next { s.berr id (regAddr page off) true e with resp := .err e } := fun e h => by
    rw [exec_registerWrite_page hp ho hd, cmdWrite_page_err hi hp ho h]
  refine ⟨fun b n hb hw => key _ ?_, fun b n hb hl ha hpw hr => key _ ?_, fun b n i hb hl ha hpw hr hc hcu hid => key _ ?_,
    fun hb => key _ ?_⟩
  · simp only [regWrite, hb, if_pos hw]
  · simp [regWrite, hb, hl, ha, hpw, hr]
  · rw [hcu, regWrite_reaches hb hl ha hpw hr hid]
    simp [accessBad, hc]
  · simp only [regWrite, hb]

/-- Settles O7, from its two halves. -/
theorem registerWritesFollowAccessCodes : Obligations.RegisterWritesFollowAccessCodes :=
  ⟨plainRegisterWritesFollowAccessCodes, refusedRegisterWritesChangeNothing⟩

end Sys2Proof.Proofs
end

section
/-! PROOF. The header registers LOCK and IRQ_SET (R43, R44), and the cores that an event wakes (R335). -/
namespace Sys2Proof.Proofs
open Sys2Proof.Machine Sys2Proof.Laws

/-! ### LOCK and IRQ_SET (R43, R44) -/

theorem powerBad_header {s : State} {page off : Nat} (ho : off < 0x100) (hc : off ≠ oCtl) : powerBad s page off = false := by
  have h1 : (off == oCtl) = false := beq_false_of_ne hc
  have h2 : decide (0x200 ≤ off) = false := decide_eq_false (by omega)
  simp [powerBad, h1, h2]

/-- Below offset 0x100 only page 3 of the Keep asks for an identity (R447). -/
theorem identityBad_header {s : State} {id page off n : Nat} {b : Block} {w : Option Bool} (hb : pageBlock page = some (b, n))
    (h3 : ¬ (b = .keep ∧ n = 3)) (ho : off < 0x100) : identityBad s id page off w = false := by
  have h1 : decide (0x100 ≤ off) = false := decide_eq_false (by omega)
  have h2 : (off == 0x110) = false := beq_false_of_ne (by omega)
  cases b with
  | keep =>
    have hn : (n == 3) = false := by simpa using h3
    simp [identityBad, hb, hn]
  | mbx => simp [identityBad, hb, h1]
  | tur => simp [identityBad, hb, h2]
  | _ => simp [identityBad, hb]

/-- A write command to a header register other than CTL that any world may write (R42). -/
theorem cmdReg_header {s : State} {id : MasterId} {page off n : Nat} {b : Block} {i : RegInfo} {v : Word32}
    (hi : s.issues id = true) (hp : page < 4096) (hb : pageBlock page = some (b, n)) (h3 : ¬ (b = .keep ∧ n = 3))
    (ho : off < 0x100) (hc : off ≠ oCtl) (ha : off % 4 = 0) (hr : hdrInfo (pidWord b n) (blockHdr b n) off = some i)
    (hw : i.rwc = 0) (hcu : i.custody = false) :
    cmdReg s id page off v = { headerWrite s id.val page off i v with resp := .done } := by
  refine cmdReg_done (i := i) hi hp (by omega) hb ha (powerBad_header ho hc) ?_ (identityBad_header hb h3 ho) ?_ ?_
  · simp only [regInfo, hb, if_pos ho, hr]
  · simp [accessBad, hw, hcu]
  · simp only [regWriteOk, hb, if_pos (And.intro ho hc)]

theorem exec_lock {s : State} {id : MasterId} {page : BitVec 12} {b : Block} {n : Nat} (v : Word32) (hi : s.issues id = true)
    (hb : pageBlock page.toNat = some (b, n)) (h3 : ¬ (b = .keep ∧ n = 3)) :
    exec (.lock id page v) s = .next { lockKeyWrite s id.val page.toNat v with resp := .done } :=
  congrArg _ (cmdReg_header hi page.isLt hb h3 (by decide) (by decide) (by decide) rfl rfl rfl)

theorem exec_irqSet {s : State} {id : MasterId} {page : BitVec 12} {b : Block} {n : Nat} (v : Word32) (hi : s.issues id = true)
    (hb : pageBlock page.toNat = some (b, n)) (h3 : ¬ (b = .keep ∧ n = 3)) :
    exec (.irqSet id page v) s = .next { s.irq page.toNat (v &&& irqMask page.toNat) with resp := .done } :=
  congrArg _ (cmdReg_header hi page.isLt hb h3 (by decide) (by decide) (by decide) rfl rfl rfl)

/-! The four outcomes of a write to LOCK (R44). -/

section
variable {s : State} {id page : Nat} {v : Word32}
theorem lockKeyWrite_locked (h : s.locked page = true) : lockKeyWrite s id page v = s := by
  unfold State.locked at h
  simp only [lockKeyWrite, h, if_true]
theorem lockKeyWrite_first (h : s.locked page = false) :
    lockKeyWrite s id page 0x5A17 = { s with locks := sput s.locks page { locked := false, first := id + 1 } {} } := by
  unfold State.locked at h
  simp [lockKeyWrite, h]
theorem lockKeyWrite_second (h : s.locked page = false) (hf : (sget s.locks page {}).first = id + 1) :
    lockKeyWrite s id page 0xA5E8 = { s with locks := sput s.locks page { locked := true, first := 0 } {} } := by
  unfold State.locked at h
  simp [lockKeyWrite, h, hf]
theorem lockKeyWrite_other (h : s.locked page = false) (h1 : v ≠ 0x5A17)
    (h2 : v ≠ 0xA5E8 ∨ (sget s.locks page {}).first ≠ id + 1) :
    lockKeyWrite s id page v = { s with locks := sput s.locks page {} {} } := by
  unfold State.locked at h
  have h2' : ¬ (v = 0xA5E8 ∧ (sget s.locks page {}).first = id + 1) := fun k => h2.elim (· k.1) (· k.2)
  simp only [lockKeyWrite, h, if_neg h1, if_neg h2', Bool.false_eq_true, if_false]
end

/-- The first half of O8: R44. -/
theorem lockNeedsBothKeysFromOneMaster : LockNeedsBothKeysFromOneMaster := by
  intro s id page b n hi hb h3
  refine ⟨fun hl => ?_, fun hl hf => ⟨_, exec_lock _ hi hb h3, ?_⟩, fun v hl h1 h2 => ?_, fun v hl => ?_⟩
  · rw [exec_lock _ hi hb h3, lockKeyWrite_first hl]
  · rw [lockKeyWrite_second hl hf]
    exact ⟨rfl, rfl, rfl, rfl⟩
  · rw [exec_lock _ hi hb h3, lockKeyWrite_other hl h1 h2]
  · rw [exec_lock _ hi hb h3, lockKeyWrite_locked hl]

/-! ### Waking the cores (R335, R351) -/

/-- From `s` to `t` nothing but the cores has changed, and none of them fell asleep. -/
structure Woken (s t : State) : Prop where
  only : ∃ cs, t = { s with cores := cs }
  awake : ∀ m, (s.core m).sleep = false → (t.core m).sleep = false

namespace Woken
variable {s t u : State}
theorem refl : Woken s s := ⟨⟨s.cores, rfl⟩, fun _ h => h⟩
theorem trans (h : Woken s t) (k : Woken t u) : Woken s u := by
  obtain ⟨cs, rfl⟩ := h.only
  obtain ⟨ds, rfl⟩ := k.only
  exact ⟨⟨ds, rfl⟩, fun m w => k.awake m (h.awake m w)⟩
theorem mem (h : Woken s t) : t.mem = s.mem := by obtain ⟨cs, rfl⟩ := h.only; rfl
theorem belf (h : Woken s t) : t.belf = s.belf := by obtain ⟨cs, rfl⟩ := h.only; rfl
theorem regs (h : Woken s t) : t.regs = s.regs := by obtain ⟨cs, rfl⟩ := h.only; rfl
/-- Where an event source goes does not depend on the cores. -/
theorem toTurret (h : Woken s t) (e : Nat) (n : Fin 8) : t.toTurret e n = s.toTurret e n := by obtain ⟨cs, rfl⟩ := h.only; rfl
end Woken

theorem wakeOne_woken (s : State) (n : Fin 8) : Woken s (wakeOne s n) := by
  unfold wakeOne
  split
  · refine ⟨⟨_, rfl⟩, fun m h => ?_⟩
    by_cases e : m = n
    · rw [e, core_setCore]
    · rwa [core_setCore_ne _ _ _ _ e]
  · exact Woken.refl
theorem wakeOne_awake (s : State) (n : Fin 8) : ((wakeOne s n).core n).sleep = false := by
  unfold wakeOne
  split
  · rw [core_setCore]
  · next h => simpa using h

theorem wakeCore_woken (s : State) (n : Fin 8) : Woken s (wakeCore s n) := by
  unfold wakeCore
  split
  · exact (wakeOne_woken _ _).trans (wakeOne_woken _ _)
  · exact wakeOne_woken _ _

theorem core_of_pairOf (n : Fin 8) : n = evenCore (pairOf n) ∨ n = oddCore (pairOf n) := by
  simp only [Fin.ext_iff, evenCore, oddCore, pairOf]
  omega

theorem wakeCore_awake (s : State) (n : Fin 8) : ((wakeCore s n).core n).sleep = false := by
  unfold wakeCore
  split
  · rcases core_of_pairOf n with e | e
    · refine (wakeOne_woken _ _).awake n ?_
      rw [← e]
      exact wakeOne_awake s n
    · rw [← e]
      exact wakeOne_awake _ n
  · exact wakeOne_awake s n

theorem wakeNew_woken (old s : State) (e : Nat) (l : List (Fin 8)) : Woken s (wakeNew old s e l) := by
  induction l generalizing s with
  | nil => exact Woken.refl
  | cons n l ih =>
    refine Woken.trans ?_ (ih _)
    split
    · exact wakeCore_woken s n
    · exact Woken.refl

/-- Every listed core that the source newly reaches is awake. -/
theorem wakeNew_awake {old s : State} {e : Nat} {l : List (Fin 8)} {c : Fin 8} (hc : c ∈ l) (ho : old.toTurret e c = false)
    (hs : s.toTurret e c = true) : ((wakeNew old s e l).core c).sleep = false := by
  induction l generalizing s with
  | nil => cases hc
  | cons n l ih =>
    rw [wakeNew]
    rcases List.mem_cons.mp hc with rfl | hl
    · refine (wakeNew_woken _ _ _ _).awake _ ?_
      simp only [hs, ho, Bool.not_false, Bool.and_self, if_true]
      exact wakeCore_awake s c
    · refine ih hl ?_
      split
      · rwa [(wakeCore_woken s n).toTurret]
      · exact hs

/-! ### The edge of an event source (R387, R389) -/

/-- What the rising delivery of a source does: nothing without a route; else it may set a bit of EVT_MPEND, and wakes cores. -/
theorem evtEdge_cases (old s : State) (e : Nat) :
    (s.route e = 0 ∧ evtEdge old s e = s) ∨
      ∃ s1, (s1 = s ∨ ∃ v, s1 = s.setReg 0x40 (0x164 + 4 * (e / 32)) v) ∧ evtEdge old s e = wakeNew old s1 e (List.finRange 8) := by
  by_cases h : s.route e = 0
  · exact .inl ⟨h, by simp only [evtEdge, if_pos h]⟩
  · refine .inr ⟨_, ?_, by simp only [evtEdge, if_neg h]; rfl⟩
    split
    · exact .inr ⟨_, rfl⟩
    · exact .inl rfl

/-- A core that the source newly reaches is awake (R335). -/
theorem evtEdge_awake {old s : State} {e : Nat} {c : Fin 8} (ho : old.toTurret e c = false)
    (ht : (evtEdge old s e).toTurret e c = true) : ((evtEdge old s e).core c).sleep = false := by
  obtain ⟨h0, he⟩ | ⟨s1, -, he⟩ := evtEdge_cases old s e
  · rw [he, State.toTurret, h0] at ht
    simp [regBit] at ht
  · rw [he] at ht ⊢
    rw [(wakeNew_woken _ _ _ _).toTurret] at ht
    exact wakeNew_awake (List.mem_finRange c) ho ht

/-- The edge leaves memory, the Belfry and every register but EVT_MPEND alone. -/
theorem evtEdge_frame (old s : State) (e : Nat) :
    (evtEdge old s e).mem = s.mem ∧ (evtEdge old s e).belf = s.belf ∧
      ∀ p o, regKey p o ≠ regKey 0x40 (0x164 + 4 * (e / 32)) → (evtEdge old s e).reg p o = s.reg p o := by
  obtain ⟨-, he⟩ | ⟨s1, h1, he⟩ := evtEdge_cases old s e
  · rw [he]
    exact ⟨rfl, rfl, fun _ _ _ => rfl⟩
  · have w := wakeNew_woken old s1 e (List.finRange 8)
    rw [he, w.mem, w.belf]
    obtain rfl | ⟨v, rfl⟩ := h1
    · exact ⟨rfl, rfl, fun p o _ => reg_congr w.regs p o⟩
    · exact ⟨rfl, rfl, fun p o h => (reg_congr w.regs p o).trans (reg_setReg_key _ _ _ _ _ _ h)⟩

theorem ite_some_lt {c : Prop} [Decidable c] {a n : Nat} {o : Option Nat} (ha : c → a < n) (ho : ∀ e ∈ o, e < n) :
    ∀ e ∈ (if c then some a else o), e < n := by
  split
  · next h => exact fun e he => by cases he; exact ha h
  · exact ho

theorem pageSource_lt (p : Nat) : ∀ e ∈ pageSource p, e < 512 := by
  unfold pageSource
  repeat' refine ite_some_lt (fun _ => by omega) ?_
  exact nofun

/-- IRQ_RAW of no page is a word of EVT_MPEND. -/
theorem irqRaw_ne_mpend {p e : Nat} (he : e < 512) : regKey p oIrqRaw ≠ regKey 0x40 (0x164 + 4 * (e / 32)) := by
  unfold regKey oIrqRaw
  omega

/-- Setting flags of a page (R13, R43): its IRQ_RAW takes the bits, memory and the Belfry stay. -/
theorem irq_frame {s : State} {page : Nat} {bits : Word32} (hr : Regs.wf s = true) :
    (s.irq page bits).reg page oIrqRaw = s.reg page oIrqRaw ||| bits ∧ (s.irq page bits).mem = s.mem ∧
      (s.irq page bits).belf = s.belf := by
  have hset := reg_setReg s page oIrqRaw (s.reg page oIrqRaw ||| bits) hr
  unfold State.irq pageEdge
  split
  · next e he =>
    obtain ⟨hm, hb, hg⟩ := evtEdge_frame s (s.setReg page oIrqRaw (s.reg page oIrqRaw ||| bits)) e
    exact ⟨(hg _ _ (irqRaw_ne_mpend (pageSource_lt _ _ he))).trans hset, hm, hb⟩
  · exact ⟨hset, rfl, rfl⟩

/-- A core that the page's source newly reaches is awake. -/
theorem irq_awake {s : State} {page e : Nat} {bits : Word32} {c : Fin 8} (he : pageSource page = some e) (ho : s.toTurret e c = false)
    (ht : (s.irq page bits).toTurret e c = true) : ((s.irq page bits).core c).sleep = false := by
  unfold State.irq pageEdge at ht ⊢
  rw [he] at ht ⊢
  exact evtEdge_awake ho ht

/-- The second half of O8: R13, R43 and R335. -/
theorem irqSetRaisesFlagsAsHardwareDoes : IrqSetRaisesFlagsAsHardwareDoes := by
  intro s id page b n v hi hb h3 hr
  obtain ⟨hraw, hmem, hbelf⟩ := irq_frame (page := page.toNat) (bits := v &&& irqMask page.toNat) hr
  exact ⟨_, exec_irqSet v hi hb h3, hraw, hmem, hbelf, rfl, fun e c he ho ht => irq_awake he ho ht⟩

/-- Settles O8, from its two halves. -/
theorem locksAndInterruptFlags : Obligations.LocksAndInterruptFlags :=
  ⟨lockNeedsBothKeysFromOneMaster, irqSetRaisesFlagsAsHardwareDoes⟩

end Sys2Proof.Proofs
end

section
/-! PROOF. A command's effect on the queue, and a near read over a word whose error record has no bits in error. -/
namespace Sys2Proof.Proofs
open Sys2Proof.Machine Sys2Proof.Laws

/-- Settles O3: an empty queue idles, and the effect of the front command keeps the queue it is given, which is the rest. -/
theorem noCommandTouchesTheQueue : Obligations.NoCommandTouchesTheQueue := by
  intro s t h
  unfold step at h
  split at h
  next hq =>
    cases h
    rw [hq]
    rfl
  next c rest hq =>
    rw [hq, List.tail_cons]
    exact (exec_keptQ h).pending

/-! ### A word without bits in error whose record is not the empty one (R143) -/

/-- The first word of core 0's DTCM has no bits in error, but a record all the same: the record's tag, which means nothing for a word of a
TCM, is 1. -/
def taggedWord : State := { State.reset with wordErr := [(dtcmKey 0 0x40000 / 8, { bits := 0, tag := 1 })] }

theorem errsWf_taggedWord : errsWf taggedWord := ⟨rfl, by decide +kernel⟩
theorem wordErrAt_taggedWord : taggedWord.wordErrAt (dtcmKey 0 0x40000 / 8) = 0 := by decide +kernel

/-- A read of that word drops its record. -/
theorem nearRead_taggedWord : (runState (nearRead taggedWord 0 0x40000 1 0)).wordErr = [] := by decide +kernel

theorem not_nearReadsSeeTheYoungestStore : ¬ NearReadsSeeTheYoungestStore := by
  intro h
  obtain ⟨-, hmem, -⟩ := h taggedWord 0 0x40000 1 (by decide) rfl errsWf_taggedWord
  have hr := hmem (by decide) (by decide) rfl wordErrAt_taggedWord
  have hw := nearRead_taggedWord
  rw [hr, runState_ok] at hw
  cases hw

/-- Refutes O26: a word whose error record counts no bits in error but has a tag reads back its bytes, and the read drops the record, so the
read of DTCM does not leave the state as it was. -/
theorem not_nearMemoryThroughTheStoreBuffer : ¬ Obligations.NearMemoryThroughTheStoreBuffer :=
  fun h => not_nearReadsSeeTheYoungestStore h.1

end Sys2Proof.Proofs
end

section
/-! PROOF. A field of a register word (R8) is its bits; a canonical table written with what it holds stays as it is. -/
namespace Sys2Proof.Proofs
open Sys2Proof.Machine Sys2Proof.Laws

theorem testBit_regFld (r : Word32) (lo w i : Nat) : (regFld r lo w).testBit i = (decide (i < w) && regBit r (lo + i)) := by
  rw [regFld, fld, Nat.testBit_mod_two_pow, Nat.testBit_shiftRight]
  rfl

theorem regBit_eq_false (r : Word32) {i : Nat} (h : 32 ≤ i) : regBit r i = false := BitVec.getLsbD_of_ge r i h

/-- A field is its bits. -/
theorem regFld_congr {a b : Word32} {lo w : Nat} (h : ∀ i, lo ≤ i → i < lo + w → i < 32 → regBit a i = regBit b i) :
    regFld a lo w = regFld b lo w := by
  refine Nat.eq_of_testBit_eq fun i => ?_
  rw [testBit_regFld, testBit_regFld]
  by_cases hi : i < w
  · rw [decide_eq_true hi, Bool.true_and, Bool.true_and]
    by_cases h32 : lo + i < 32
    · exact h _ (by omega) (by omega) h32
    · rw [regBit_eq_false a (by omega), regBit_eq_false b (by omega)]
  · rw [decide_eq_false hi, Bool.false_and, Bool.false_and]

/-- Storing what a canonical table holds changes nothing. -/
theorem sput_sget_from {α : Type} [DecidableEq α] {dd : Nat → α} {lo : Nat} (m : SMap α) {k : Nat} (hk : lo ≤ k)
    (w : swfFrom dd lo m = true) : sput m k (sget m k (dd k)) (dd k) = m := by
  induction m generalizing lo with
  | nil => simp [sput, sget]
  | cons c t ih =>
    obtain ⟨j, x⟩ := c
    simp only [swfFrom, Bool.and_eq_true, decide_eq_true_eq] at w
    obtain ⟨-, hx, ht⟩ := w
    rcases Nat.lt_trichotomy k j with h | h | h
    · simp [sput, sget, h, Nat.ne_of_lt h, sget_lt (dd k) ht (Nat.lt_succ_of_lt h)]
    · subst h
      simp [sput, sget, hx]
    · simp [sput, sget, Nat.not_lt.mpr (Nat.le_of_lt h), Nat.ne_of_gt h, ih h ht]

theorem sput_sget {α : Type} [DecidableEq α] {dd : Nat → α} {m : SMap α} (k : Nat) (w : swf dd m = true) :
    sput m k (sget m k (dd k)) (dd k) = m := sput_sget_from m (Nat.zero_le k) w

end Sys2Proof.Proofs
end

section
/-! PROOF. Write commands to the registers of an open page (R10, R11): what the block makes of them is what they answer. -/
namespace Sys2Proof.Proofs
open Sys2Proof.Machine Sys2Proof.Laws

/-- The write of identity `id` to a register of a block, above the page header, meets no cause of R10. -/
structure RegOpen (s : State) (id : MasterId) (page off : Nat) (b : Block) (n : Nat) (i : RegInfo) : Prop where
  issues : s.issues id = true
  page_lt : page < 4096
  above : 0x100 ≤ off
  off_lt : off < 4096
  aligned : off % 4 = 0
  block : pageBlock page = some (b, n)
  power : powerBad s page off = false
  info : regInfo page off = some i
  identity : identityBad s id.val page off (some (s.custodyOf id)) = false
  access : accessBad (s.custodyOf id) i = false

namespace RegOpen
variable {s t : State} {id : MasterId} {page off n : Nat} {b : Block} {i : RegInfo} {v : Word32} {e : BusCause}

theorem regWriteOk_eq (h : RegOpen s id page off b n i) :
    regWriteOk s id.val page off i v = (blockWrite s id.val b n off v).getD (plainWrite s page off i v, none) := by
  have hh : ¬ (off < 0x100 ∧ off ≠ oCtl) := by have := h.above; omega
  simp only [regWriteOk, h.block, if_neg hh]

/-- The block completes the write. -/
theorem done (h : RegOpen s id page off b n i) (hw : blockWrite s id.val b n off v = some (t, none)) :
    cmdReg s id page off v = { t with resp := .done } :=
  cmdReg_done h.issues h.page_lt h.off_lt h.block h.aligned h.power h.info h.identity h.access (by rw [h.regWriteOk_eq, hw]; rfl)

/-- The block stores the word as any register does. -/
theorem plain (h : RegOpen s id page off b n i) (hw : blockWrite s id.val b n off v = none) :
    cmdReg s id page off v = { plainWrite s page off i v with resp := .done } :=
  cmdReg_done h.issues h.page_lt h.off_lt h.block h.aligned h.power h.info h.identity h.access (by rw [h.regWriteOk_eq, hw]; rfl)

/-- The block refuses the write, which is recorded as a bus error (R106). -/
theorem err (h : RegOpen s id page off b n i) (hw : blockWrite s id.val b n off v = some (s, some e)) :
    cmdReg s id page off v = { s.berr id (regAddr page off) true e with resp := .err e } := by
  refine cmdWrite_page_err h.issues h.page_lt h.off_lt ?_
  rw [regWrite_reaches h.block (length_leBytes 4 _) h.aligned h.power h.info h.identity, h.access, w32_ofLE_leBytes, h.regWriteOk_eq, hw]
  rfl
end RegOpen

/-- Only the CTL registers, and SPR_CCTL on the spires' pages, want power (R48). -/
theorem powerBad_of_page {s : State} {page off : Nat} (hc : off ≠ oCtl) (hp : page < 0x160 ∨ 0x168 ≤ page) : powerBad s page off = false := by
  have h1 : (off == oCtl) = false := beq_false_of_ne hc
  have h2 : (0x160 ≤ page && (page < 0x168 && (0x200 ≤ off && (off < 0x300 && off % 64 == 0)))) = false := by
    rcases hp with h | h
    · rw [decide_eq_false (by omega : ¬ 0x160 ≤ page), Bool.false_and]
    · rw [decide_eq_false (by omega : ¬ page < 0x168), Bool.false_and, Bool.and_false]
  rw [powerBad, h1, h2]
  rfl

theorem pageBlock_qst : ∀ n : Fin 24, n.val = 0 ∨ 8 ≤ n.val → pageBlock (0x120 + n.val) = some (.qst, n.val) := by decide

/-- A register of a page of the queue engine that both worlds may write. -/
theorem regOpen_qst {s : State} {id : MasterId} {n off : Nat} {i : RegInfo} (hi : s.issues id = true) (hn : n < 24)
    (h8 : n = 0 ∨ 8 ≤ n) (hlo : 0x100 ≤ off) (ho : off < 4096) (ha : off % 4 = 0) (hr : qstInfo n off = some i)
    (hw : i.rwc = 0) (hc : i.custody = false) : RegOpen s id (0x120 + n) off .qst n i := by
  have hb := pageBlock_qst ⟨n, hn⟩ h8
  exact {
    issues := hi, page_lt := by omega, above := hlo, off_lt := ho, aligned := ha, block := hb
    power := powerBad_of_page (show off ≠ 8 by omega) (by omega)
    info := by simp only [regInfo, hb, if_neg (Nat.not_lt.mpr hlo), blockInfo, hr]
    identity := by simp only [identityBad, hb]
    access := by simp [accessBad, hw, hc] }

/-- The element and the offset within it that an offset of a register array names. -/
theorem arrIx_elem {lo stride n i sub : Nat} (hi : i < n) (hs : sub < stride) :
    arrIx (lo + i * stride + sub) lo stride n = some (i, sub) := by
  have hlt : i * stride + sub < stride * n := calc
    i * stride + sub < i * stride + stride := by omega
    _ = stride * (i + 1) := by rw [Nat.mul_add, Nat.mul_comm, Nat.mul_one]
    _ ≤ stride * n := Nat.mul_le_mul_left _ hi
  have he : lo + i * stride + sub - lo = sub + stride * i := by rw [Nat.mul_comm stride]; omega
  rw [arrIx, if_pos (by omega), he, Nat.add_mul_div_left _ _ (by omega), Nat.add_mul_mod_self_left, Nat.div_eq_of_lt hs,
    Nat.mod_eq_of_lt hs, Nat.zero_add]

end Sys2Proof.Proofs
end

section
/-! PROOF. Doorbells, the tenant table and the stripe program table (R245, R246, R258, R268). -/
namespace Sys2Proof.Proofs
open Sys2Proof.Machine Sys2Proof.Laws

/-! ### Doorbells (R258) -/

/-- How far `x` lies past `head` on a ring of `n` places, where it has not wrapped. -/
theorem ringDistance_eq {n head x : Nat} (hx : head ≤ x) (hn : x < n) : (x + n - head) % n = x - head := by
  rw [Nat.sub_add_comm hx, Nat.add_mod_right, Nat.mod_eq_of_lt (by omega)]

section
variable {s : State} {id : Nat} {v : Nat} {c : QCtx} (hr : ctxRead s (sget s.qe.dbsel id 0) = (s, .ok c))
include hr
theorem doorbell_disabled {sq : Bool} (h : qf c qEN = 0) : doorbell s id sq v = (s, some .binding) := by
  simp only [doorbell, hr, if_pos h]
theorem doorbell_sq (h : qf c qEN = 1) (hv : v < 2 ^ qf c qSQLOG) :
    doorbell s id true v = (ctxStore s (sget s.qe.dbsel id 0) (qset c qSQTAIL v), none) := by
  simp [doorbell, hr, h, hv]
theorem doorbell_sq_off_ring (h : qf c qEN = 1) (hv : 2 ^ qf c qSQLOG ≤ v) : doorbell s id true v = (s.irqBit 0x120 0, none) := by
  simp [doorbell, hr, h, Nat.not_lt.mpr hv]

/-- CQHEAD moves up to CQTAIL and no further, on a ring whose tail has not wrapped below its head. -/
theorem doorbell_cq (h : qf c qEN = 1) (hv : qf c qCQHEAD ≤ v) (hvt : v ≤ qf c qCQTAIL) (ht : qf c qCQTAIL < 2 ^ qf c qCQLOG) :
    doorbell s id false v = (ctxStore s (sget s.qe.dbsel id 0) (qset c qCQHEAD v), none) := by
  have hlt : v < 2 ^ qf c qCQLOG := by omega
  have hle : (v + 2 ^ qf c qCQLOG - qf c qCQHEAD) % 2 ^ qf c qCQLOG ≤
      (qf c qCQTAIL + 2 ^ qf c qCQLOG - qf c qCQHEAD) % 2 ^ qf c qCQLOG := by
    rw [ringDistance_eq hv hlt, ringDistance_eq (by omega) ht]
    omega
  simp only [doorbell, hr, h, Nat.one_ne_zero, if_false, Bool.false_eq_true, if_pos (And.intro hlt hle)]
theorem doorbell_cq_past_tail (h : qf c qEN = 1) (hh : qf c qCQHEAD ≤ qf c qCQTAIL) (ht : qf c qCQTAIL < v)
    (hv : v < 2 ^ qf c qCQLOG) : doorbell s id false v = (s.irqBit 0x120 0, none) := by
  have hlt : ¬ (v + 2 ^ qf c qCQLOG - qf c qCQHEAD) % 2 ^ qf c qCQLOG ≤
      (qf c qCQTAIL + 2 ^ qf c qCQLOG - qf c qCQHEAD) % 2 ^ qf c qCQLOG := by
    rw [ringDistance_eq (by omega) hv, ringDistance_eq hh (by omega)]
    omega
  simp only [doorbell, hr, h, Nat.one_ne_zero, if_false, Bool.false_eq_true, if_neg fun k => hlt (And.right k)]
end

/-- The access codes of a doorbell. -/
abbrev doorbellInfo : RegInfo := { wo := 0xFFFF }

section
variable {s t : State} {id : MasterId} {v : Word32} {e : BusCause} (hi : s.issues id = true)
include hi
theorem regOpen_sqDoorbell : RegOpen s id 0x120 0x104 .qst 0 doorbellInfo :=
  regOpen_qst hi (by decide) (.inl rfl) (by decide) (by decide) rfl rfl rfl rfl
theorem regOpen_cqDoorbell : RegOpen s id 0x120 0x108 .qst 0 doorbellInfo :=
  regOpen_qst hi (by decide) (.inl rfl) (by decide) (by decide) rfl rfl rfl rfl
theorem exec_sqDoorbell_done (h : doorbell s id.val true (regFld v 0 16) = (t, none)) :
    exec (.sqDoorbell id v) s = .next { t with resp := .done } := congrArg _ ((regOpen_sqDoorbell hi).done (congrArg some h))
theorem exec_sqDoorbell_err (h : doorbell s id.val true (regFld v 0 16) = (s, some e)) :
    exec (.sqDoorbell id v) s = .next { s.berr id (regAddr 0x120 0x104) true e with resp := .err e } :=
  congrArg _ ((regOpen_sqDoorbell hi).err (congrArg some h))
theorem exec_cqDoorbell_done (h : doorbell s id.val false (regFld v 0 16) = (t, none)) :
    exec (.cqDoorbell id v) s = .next { t with resp := .done } := congrArg _ ((regOpen_cqDoorbell hi).done (congrArg some h))
theorem exec_cqDoorbell_err (h : doorbell s id.val false (regFld v 0 16) = (s, some e)) :
    exec (.cqDoorbell id v) s = .next { s.berr id (regAddr 0x120 0x108) true e with resp := .err e } :=
  congrArg _ ((regOpen_cqDoorbell hi).err (congrArg some h))
end

/-! ### The tenant table (R268) -/

/-- The access codes of a tenant-table entry. -/
abbrev tenantInfo : RegInfo := { rw := 0x0FFFFFFF }

theorem regOpen_tenant {s : State} {id : MasterId} (hi : s.issues id = true) (t : BitVec 12) :
    RegOpen s id (0x120 + (16 + t.toNat / 512)) (0x100 + t.toNat % 512 * 4) .qst (16 + t.toNat / 512) tenantInfo := by
  have ht := t.isLt
  have hx : arrIx (0x100 + t.toNat % 512 * 4) 0x100 4 512 = some (t.toNat % 512, 0) :=
    arrIx_elem (i := t.toNat % 512) (sub := 0) (by omega) (by omega)
  refine regOpen_qst hi (by omega) (by omega) (by omega) (by omega) (by omega) ?_ rfl rfl
  simp only [qstInfo, if_neg (by omega : ¬ 16 + t.toNat / 512 = 0), if_neg (by omega : ¬ 16 + t.toNat / 512 < 16), hx, rwr]

theorem blockWrite_tenant (s : State) (id : Nat) (t : BitVec 12) (v : Word32) :
    blockWrite s id .qst (16 + t.toNat / 512) (0x100 + t.toNat % 512 * 4) v = tenantWrite s t.toNat v := by
  have hx : arrIx (0x100 + t.toNat % 512 * 4) 0x100 4 512 = some (t.toNat % 512, 0) :=
    arrIx_elem (i := t.toNat % 512) (sub := 0) (by omega) (by omega)
  have ht : (16 + t.toNat / 512 - 16) * 512 + t.toNat % 512 = t.toNat := by omega
  simp only [blockWrite, qstWrite, if_neg (by omega : ¬ 16 + t.toNat / 512 = 0), if_neg (by omega : ¬ 16 + t.toNat / 512 < 16), hx, ht]

theorem exec_tenantTableWrite (s : State) (id : MasterId) (t : BitVec 12) (v : Word32) : exec (.tenantTableWrite id t v) s =
    .next (cmdReg s id (0x120 + (16 + t.toNat / 512)) (0x100 + t.toNat % 512 * 4) v) := by
  rw [← Nat.add_assoc]
  rfl

/-- The word an entry takes: 28 bits of the written one. -/
theorem regFld_tenant_word (locked : Bool) (old v : Word32) :
    regFld (writeWord tenantInfo locked old v) 0 28 = regFld v 0 28 ∧
      regFld (writeWord tenantInfo locked old v) 28 4 = regFld old 28 4 := by
  have h0 : ∀ k, bit 0 k = false := fun k => by simp [bit]
  have hlo : ∀ k < 28, bit 0x0FFFFFFF k = true := by decide
  have hhi : ∀ k < 32, 28 ≤ k → bit 0x0FFFFFFF k = false := by decide
  constructor
  · refine regFld_congr fun k _ hk h32 => ?_
    simp [regBit_writeWord _ _ _ _ h32, h0, hlo k (by omega)]
  · refine regFld_congr fun k hk _ h32 => ?_
    simp [regBit_writeWord _ _ _ _ h32, h0, hhi k h32 hk]

/-- The third clause of O44: R268. -/
theorem tenantTableWrite_cases {s : State} {id : MasterId} (t : BitVec 12) (v : Word32) (hi : s.issues id = true) :
    (regFld v 8 20 = regFld (s.tenant t.toNat) 8 20 ∨ slotBound s t.toNat = false → ∃ w, exec (.tenantTableWrite id t v) s =
      .next { s.setReg (0x130 + t.toNat / 512) (0x100 + t.toNat % 512 * 4) w with resp := .done } ∧
      regFld w 0 28 = regFld v 0 28 ∧ regFld w 28 4 = regFld (s.tenant t.toNat) 28 4) ∧
    (regFld v 8 20 ≠ regFld (s.tenant t.toNat) 8 20 → slotBound s t.toNat = true → exec (.tenantTableWrite id t v) s =
      .next { s.berr id (regAddr (0x130 + t.toNat / 512) (0x100 + t.toNat % 512 * 4)) true .binding with resp := .err .binding }) := by
  have hp : 0x120 + (16 + t.toNat / 512) = 0x130 + t.toNat / 512 := by omega
  have hb := blockWrite_tenant s id.val t v
  rw [exec_tenantTableWrite, ← hp]
  constructor
  · intro h
    have hn : tenantWrite s t.toNat v = none := by
      rw [tenantWrite, if_neg]
      rcases h with h | h <;> simp [h]
    refine ⟨_, congrArg _ ((regOpen_tenant hi t).plain (hb.trans hn)), ?_⟩
    rw [hp]
    exact regFld_tenant_word _ _ _
  · intro h hs
    have hr : tenantWrite s t.toNat v = some (s, some .binding) := by
      rw [tenantWrite, if_pos]
      simp [h, hs]
    exact congrArg _ ((regOpen_tenant hi t).err (hb.trans hr))

/-! ### The stripe program table (R245, R246) -/

theorem pinvAll_eq (s : State) (l : List (Fin 8)) : ∃ xs, pinvAll s l = { s with spires := xs } := by
  induction l generalizing s with
  | nil => exact ⟨_, rfl⟩
  | cons n l ih =>
    obtain ⟨xs, h⟩ := ih (s.setSpire n { s.spire n with pbuf := [] })
    exact ⟨xs, h⟩

/-- Emptying the program buffers changes of a spire its program buffer alone. -/
theorem spire_pinvAll (s : State) (l : List (Fin 8)) (n : Fin 8) :
    (pinvAll s l).spire n = if n ∈ l then { s.spire n with pbuf := [] } else s.spire n := by
  induction l generalizing s with
  | nil => rfl
  | cons m l ih =>
    rw [pinvAll, ih]
    by_cases h : n = m
    · subst h
      simp
    · simp [h, spire_setSpire_ne _ _ _ _ h]

theorem regOpen_espt {s : State} {id : MasterId} (hi : s.issues id = true) (e : Byte) :
    RegOpen s id (0x120 + (8 + e.toNat / 32)) (sptOff e.toNat + 0x24) .qst (8 + e.toNat / 32) { wo := 1 } := by
  have he := e.isLt
  have hx : arrIx (sptOff e.toNat + 0x24) 0x100 0x40 32 = some (e.toNat % 32, 0x24) := arrIx_elem (Nat.mod_lt _ (by decide)) (by decide)
  refine regOpen_qst hi (by omega) (by omega) ?_ ?_ ?_ ?_ rfl rfl
  · unfold sptOff; omega
  · unfold sptOff; omega
  · unfold sptOff; omega
  · simp only [qstInfo, if_neg (by omega : ¬ 8 + e.toNat / 32 = 0), if_pos (by omega : 8 + e.toNat / 32 < 16), hx]
    rfl

theorem blockWrite_espt (s : State) (id : Nat) (e : Byte) (v : Word32) :
    blockWrite s id .qst (8 + e.toNat / 32) (sptOff e.toNat + 0x24) v = sptWrite s e.toNat 0x24 v := by
  have he := e.isLt
  have hx : arrIx (sptOff e.toNat + 0x24) 0x100 0x40 32 = some (e.toNat % 32, 0x24) := arrIx_elem (Nat.mod_lt _ (by decide)) (by decide)
  have hn : (8 + e.toNat / 32 - 8) * 32 + e.toNat % 32 = e.toNat := by omega
  simp only [blockWrite, qstWrite, if_neg (by omega : ¬ 8 + e.toNat / 32 = 0), if_pos (by omega : 8 + e.toNat / 32 < 16), hx, hn]

theorem exec_ecommit (s : State) (id : MasterId) (e : Byte) (v : Word32) : exec (.ecommit id e v) s =
    .next (cmdReg s id (0x120 + (8 + e.toNat / 32)) (sptOff e.toNat + 0x24) v) := by
  rw [← Nat.add_assoc]
  rfl

/-- A write of ECOMMIT to an entry of firmware. -/
theorem sptWrite_commit {s : State} {e : Nat} {v : Word32} (ha : e ≠ 0x0A) (hb : e ≠ 0x0B) :
    sptWrite s e 0x24 v = some (if regBit v 0 then sptCommit s e else s, none) := by
  simp [sptWrite, ha, hb]

/-- The half of an entry that its commit makes active. -/
theorem sptHalf_sptCommit {s : State} (h : Regs.wf s = true) (e : Nat) : (sptCommit s e).sptHalf e = !(s.sptHalf e) := by
  obtain ⟨xs, hx⟩ := pinvAll_eq (s.setReg (sptPage e) (sptOff e + 0x20) (s.reg (sptPage e) (sptOff e + 0x20) ^^^ mask1 31)) (List.finRange 8)
  have hreg : (sptCommit s e).reg (sptPage e) (sptOff e + 0x20) = s.reg (sptPage e) (sptOff e + 0x20) ^^^ mask1 31 := by
    rw [sptCommit, hx]
    exact reg_setReg _ _ _ _ h
  have h31 : (mask1 31).getLsbD 31 = true := by decide
  rw [State.sptHalf, State.regB, hreg, regBit, BitVec.getLsbD_xor, h31, Bool.xor_true]
  rfl

theorem spire_sptCommit (s : State) (e : Nat) (n : Fin 8) : (sptCommit s e).spire n = { s.spire n with pbuf := [] } := by
  rw [sptCommit, spire_pinvAll, if_pos (List.mem_finRange n)]
  rfl
theorem mem_sptCommit (s : State) (e : Nat) : (sptCommit s e).mem = s.mem := by
  obtain ⟨xs, hx⟩ := pinvAll_eq (s.setReg (sptPage e) (sptOff e + 0x20) (s.reg (sptPage e) (sptOff e + 0x20) ^^^ mask1 31)) (List.finRange 8)
  rw [sptCommit, hx]
  rfl
theorem sc_sptCommit (s : State) (e : Nat) (n : Fin 8) (c : Fin 4) : (sptCommit s e).sc n c = s.sc n c := by
  rw [State.sc, spire_sptCommit]
  rfl

/-- The second clause of O44: R246, and R168 for the program buffers. -/
theorem ecommit_cases {s : State} {id : MasterId} (e : Byte) (v : Word32) (hi : s.issues id = true) (hr : Regs.wf s = true) :
    (e.toNat ≠ 0x0A → e.toNat ≠ 0x0B → regBit v 0 = true → ∃ t, exec (.ecommit id e v) s = .next t ∧ t.resp = .done ∧
      t.sptHalf e.toNat = !(s.sptHalf e.toNat) ∧ (∀ n, (t.spire n).pbuf = []) ∧ t.mem = s.mem ∧
      (∀ n c, t.sc n c = s.sc n c)) ∧
    (e.toNat ≠ 0x0A → e.toNat ≠ 0x0B → regBit v 0 = false → exec (.ecommit id e v) s = .next { s with resp := .done }) ∧
    (e.toNat = 0x0A ∨ e.toNat = 0x0B → exec (.ecommit id e v) s = .next
      { s.berr id (regAddr (sptPage e.toNat) (sptOff e.toNat + 0x24)) true .access with resp := .err .access }) := by
  have hw := blockWrite_espt s id.val e v
  have ho := regOpen_espt hi e
  rw [exec_ecommit]
  refine ⟨fun ha hb hv => ?_, fun ha hb hv => ?_, fun h => ?_⟩
  · rw [sptWrite_commit ha hb, if_pos hv] at hw
    have hhalf := sptHalf_sptCommit hr e.toNat
    have hpbuf : ∀ n, ((sptCommit s e.toNat).spire n).pbuf = [] := fun n => by rw [spire_sptCommit]
    have hsc := sc_sptCommit s e.toNat
    have hmem := mem_sptCommit s e.toNat
    generalize sptCommit s e.toNat = u at hw hhalf hpbuf hsc hmem
    exact ⟨_, congrArg _ (ho.done hw), rfl, hhalf, hpbuf, hmem, hsc⟩
  · rw [sptWrite_commit ha hb, hv] at hw
    exact congrArg _ (ho.done hw)
  · have hp : 0x120 + (8 + e.toNat / 32) = sptPage e.toNat := by unfold sptPage; omega
    rw [sptWrite, if_pos h] at hw
    rw [← hp]
    exact congrArg _ (ho.err hw)

end Sys2Proof.Proofs
end

section
/-! PROOF. A master's write of a whole queue context (R249, R251, R252). -/
namespace Sys2Proof.Proofs
open Sys2Proof.Machine Sys2Proof.Laws

/-! ### Ranges of bytes in aligned parts -/

theorem bytes_add (s : State) (a m n : Nat) : s.bytes a (m + n) = s.bytes a m ++ s.bytes (a + m) n := by
  induction m generalizing a with
  | zero => simp [State.bytes]
  | succ m ih => rw [Nat.succ_add, State.bytes, ih, State.bytes, List.cons_append, Nat.add_right_comm, Nat.add_assoc]

theorem memPut_append (m : List Host.Cell) (a : Nat) (l r : List Byte) : memPut m a (l ++ r) = memPut (memPut m a l) (a + l.length) r := by
  induction l generalizing m a with
  | nil => rfl
  | cons b l ih => rw [List.cons_append, memPut, ih, memPut, List.length_cons, Nat.add_assoc, Nat.add_comm 1]

theorem setBytes_append (s : State) (a : Nat) (l r : List Byte) : s.setBytes a (l ++ r) = (s.setBytes a l).setBytes (a + l.length) r := by
  rw [State.setBytes, memPut_append]
  rfl

/-- The first part of a range of words at an aligned address. -/
theorem parts_aligned {al fuel a m : Nat} (hal : 0 < al) (ha : a % al = 0) :
    parts al (fuel + 1) a (al * (m + 1)) = (a, al) :: parts al fuel (a + al) (al * m) := by
  have hm : al * (m + 1) = al + al * m := by rw [Nat.mul_add, Nat.mul_one, Nat.add_comm]
  have hk : min (al * (m + 1)) (al - a % al) = al := by rw [ha, hm]; omega
  simp only [parts, if_neg (by omega : ¬ al * (m + 1) = 0), hk, show al * (m + 1) - al = al * m by omega]

theorem parts_zero (al fuel a : Nat) : parts al fuel a 0 = [] := by cases fuel <;> rfl

/-- A range whose aligned parts all read back their bytes, and change nothing, reads back its bytes. -/
theorem readParts_aligned {f : State → Nat → Nat → State × RdAns} {s : State} {al fuel a m : Nat} (hal : 0 < al) (ha : a % al = 0)
    (hm : m ≤ fuel) (hf : ∀ k < m, f s (a + al * k) al = (s, .ok (s.bytes (a + al * k) al, false))) :
    readParts f s (parts al fuel a (al * m)) = (s, .ok (s.bytes a (al * m), false)) := by
  induction m generalizing a fuel with
  | zero => rw [Nat.mul_zero, parts_zero]; rfl
  | succ m ih =>
    obtain ⟨fuel, rfl⟩ : ∃ g, fuel = g + 1 := ⟨fuel - 1, by omega⟩
    have h0 := hf 0 (by omega)
    have ht := ih (a := a + al) (fuel := fuel) (by rw [Nat.add_mod_right, ha]) (by omega) fun k hk => by
      have := hf (k + 1) (by omega)
      rwa [show a + al * (k + 1) = a + al + al * k by rw [Nat.mul_add]; omega] at this
    rw [Nat.mul_zero, Nat.add_zero] at h0
    rw [parts_aligned hal ha]
    simp only [readParts, h0, ht, Bool.or_self]
    rw [← bytes_add, Nat.mul_add, Nat.mul_one, Nat.add_comm al]

/-- A range whose aligned parts are all stored is stored; `P` is what a store needs and keeps. -/
theorem writeParts_aligned {f : State → Nat → List Byte → State × Option BusCause} {P : State → Prop} {s : State} {al fuel a m : Nat}
    {d : List Byte} (hal : 0 < al) (ha : a % al = 0) (hm : m ≤ fuel) (hd : d.length = al * m) (hs : P s)
    (hP : ∀ t b e, P t → P (t.setBytes b e))
    (hf : ∀ t, P t → ∀ k < m, ∀ e, e.length = al → f t (a + al * k) e = (t.setBytes (a + al * k) e, none)) :
    writeParts f s (parts al fuel a (al * m)) d = (s.setBytes a d, none) := by
  induction m generalizing a fuel d s with
  | zero =>
    rw [Nat.mul_zero, parts_zero, List.eq_nil_of_length_eq_zero hd]
    rfl
  | succ m ih =>
    obtain ⟨fuel, rfl⟩ : ∃ g, fuel = g + 1 := ⟨fuel - 1, by omega⟩
    have hmul : al * (m + 1) = al + al * m := by rw [Nat.mul_add, Nat.mul_one, Nat.add_comm]
    have hlen : (d.take al).length = al := by rw [List.length_take]; omega
    have h0 := hf s hs 0 (by omega) (d.take al) hlen
    rw [Nat.mul_zero, Nat.add_zero] at h0
    have ht := ih (a := a + al) (fuel := fuel) (d := d.drop al) (s := s.setBytes a (d.take al)) (by rw [Nat.add_mod_right, ha])
      (by omega) (by rw [List.length_drop]; omega) (hP _ _ _ hs) fun t ht k hk e he => by
        have := hf t ht (k + 1) (by omega) e he
        rwa [show a + al * (k + 1) = a + al + al * k by rw [Nat.mul_add]; omega] at this
    rw [parts_aligned hal ha]
    simp only [writeParts, h0, ht]
    have happ := setBytes_append s a (d.take al) (d.drop al)
    rw [List.take_append_drop, hlen] at happ
    rw [happ]

/-! ### Where a context lies (R249) -/

theorem ctxAddr_aligned (q : Nat) : ctxAddr q % 64 = 0 := by unfold ctxAddr qstBase; omega
theorem ctxAddr_words (q : Nat) : ctxAddr q % 8 = 0 := by unfold ctxAddr qstBase; omega
theorem ctxAddr_index (q : Nat) : (ctxAddr q - qstBase) / 64 = q := by unfold ctxAddr; omega
theorem ctxAddr_bounds {q : Nat} (hq : q < 2 ^ 18) : qstBase ≤ ctxAddr q ∧ ctxAddr q < qstBase + 0x1000000 := by unfold ctxAddr; omega
theorem memKind_ctx {q : Nat} (hq : q < 2 ^ 18) : memKind (ctxAddr q) = .sram := by
  rw [memKind, if_neg (by unfold ctxAddr qstBase dramBase; omega), if_pos (.inr (ctxAddr_bounds hq))]
theorem targetOf_ctx {q : Nat} (hq : q < 2 ^ 18) : targetOf (ctxAddr q) = .memory := by
  have hb := ctxAddr_bounds hq
  unfold qstBase at hb
  rw [targetOf, if_neg (by omega), if_neg (by omega), if_neg (by omega), if_neg (by omega), memKind_ctx hq]

/-! ### The words of a context whose bank is on and which has no error -/

/-- Clearing the error of a word that has none changes nothing. -/
theorem setWordErr_clean {s : State} {w : Nat} (he : errsWf s) (h : sget s.wordErr w {} = {}) : s.setWordErr w 0 = s := by
  have := sput_sget (dd := fun _ => ({} : CellErr)) w he.2
  rw [h] at this
  rw [State.setWordErr]
  exact congrArg (fun m => { s with wordErr := m }) this

theorem wordErrAt_clean {s : State} {w : Nat} (h : sget s.wordErr w {} = {}) : s.wordErrAt w = 0 := by rw [State.wordErrAt, h]

/-- Every word of a context lies in the context's bank (R95). -/
theorem bankOf_ctx {q k : Nat} (hk : k < 8) : bankOf (ctxAddr q + 8 * k) = bankOf (ctxAddr q) := by
  have h1 : fld (ctxAddr q + 8 * k - qstBase) 6 3 = fld (ctxAddr q - qstBase) 6 3 := by
    simp only [fld, ctxAddr, Nat.shiftRight_eq_div_pow]
    omega
  have h2 : fld (ctxAddr q + 8 * k - qstBase) 21 3 = fld (ctxAddr q - qstBase) 21 3 := by
    simp only [fld, ctxAddr, Nat.shiftRight_eq_div_pow]
    omega
  have hs : ∀ j, ¬ (scrBase ≤ ctxAddr q + j ∧ ctxAddr q + j < scrBase + 0x4000000) := fun j => by unfold ctxAddr qstBase scrBase; omega
  have hin : (qstBase ≤ ctxAddr q + 8 * k ∧ ctxAddr q + 8 * k < qstBase + 0x1000000) ↔
      (qstBase ≤ ctxAddr q ∧ ctxAddr q < qstBase + 0x1000000) := by unfold ctxAddr qstBase; omega
  have hs0 := hs 0
  rw [Nat.add_zero] at hs0
  unfold bankOf
  rw [if_neg (hs _), if_neg hs0, h1, h2]
  simp only [hin]

section
variable {s : State} {q k : Nat} (h : cleanCtx s q) (hk : k < 8)
include h hk

theorem cleanCtx_word : sget s.wordErr ((ctxAddr q + 8 * k) / 8) {} = {} := by
  obtain ⟨-, -, hw⟩ := h
  have := hw k hk
  rwa [show (ctxAddr q + 8 * k) / 8 = ctxAddr q / 8 + k by omega]

/-- The bank of the word is ready. -/
theorem bankReady_ctx : ∃ b, bankOf (ctxAddr q + 8 * k) = some (1, b) ∧ bankReady s 1 b = (s, none) := by
  obtain ⟨-, ⟨b, hb, hst, hf⟩, -⟩ := h
  refine ⟨b, (bankOf_ctx hk).trans hb, ?_⟩
  rw [bankReady, if_pos hst, State.endFill, if_pos hf]

omit h hk in
theorem word_aligned : (ctxAddr q + 8 * k) / 8 * 8 = ctxAddr q + 8 * k := by unfold ctxAddr qstBase; omega

theorem sramPartRead_ctx : sramPartRead s (ctxAddr q + 8 * k) 8 {} = (s, .ok (s.bytes (ctxAddr q + 8 * k) 8, false)) := by
  obtain ⟨b, hb, hr⟩ := bankReady_ctx h hk
  have hw := cleanCtx_word h hk
  have hd : (s.bytes (ctxAddr q + 8 * k) 8).length = 8 := length_bytes _ _ _
  have hmod : (ctxAddr q + 8 * k) % 8 = 0 := by rw [← word_aligned]; exact Nat.mul_mod_left _ _
  simp only [sramPartRead, hb, hr, wordRead, wordErrAt_clean hw, Nat.add_zero, setWordErr_clean h.1 hw, word_aligned, hmod]
  simp [List.take_of_length_le (Nat.le_of_eq hd)]

theorem sramPartWrite_ctx {d : List Byte} (hd : d.length = 8) :
    sramPartWrite s (ctxAddr q + 8 * k) d {} = (s.setBytes (ctxAddr q + 8 * k) d, none) := by
  obtain ⟨b, hb, hr⟩ := bankReady_ctx h hk
  have hw := cleanCtx_word h hk
  simp only [sramPartWrite, hb, hr, wordWrite, if_pos hd, setWordErr_clean h.1 hw, word_aligned]
end

/-- The engine and a write read the stored context and change nothing. -/
theorem readParts_ctx {s : State} {q : Nat} (h : cleanCtx s q) :
    readParts (fun s a n => sramPartRead s a n {}) s (parts 8 64 (ctxAddr q) 64) = (s, .ok (s.bytes (ctxAddr q) 64, false)) :=
  readParts_aligned (al := 8) (m := 8) (by decide) (ctxAddr_words q) (by decide) fun _ hk => sramPartRead_ctx h hk

theorem memPartWrite_ctx {s : State} {q : Nat} {d : List Byte} (hq : q < 2 ^ 18) (h : cleanCtx s q) (hd : d.length = 64) :
    memPartWrite {} s (ctxAddr q) d = (s.setBytes (ctxAddr q) d, none) := by
  simp only [memPartWrite, memKind_ctx hq, hd]
  exact writeParts_aligned (al := 8) (m := 8) (P := (cleanCtx · q)) (by decide) (ctxAddr_words q) (by decide) hd h
    (fun _ _ _ ht => ht) fun _ ht _ hk _ he => sramPartWrite_ctx ht hk he

/-! ### The write of a context -/


theorem listPut_all {l d : List Byte} (h : d.length = l.length) : listPut l 0 d = d := by
  simp [listPut, ← h]

/-- What the queue engine holds after a write to context `q`: nothing of the queue where a field beside EN has changed (R251). -/
def heldAfter (s : State) (q : Nat) (d : List Byte) : Qe :=
  if ctxDiffers (s.ctxRaw q) (ctxOf d) then { s.qe with held := sput s.qe.held q none none } else s.qe

/-! A write of a whole context comes down to the refusal of R251 and R252, or to the store. The state and the answer are read off one by
one: as one equation of pairs, the kernel would have to evaluate the read of the old context. -/

section
variable {s : State} {q : Nat} {d : List Byte} (hq : q < 2 ^ 18) (h : cleanCtx s q) (hd : d.length = 64)
include hq h hd
theorem ctxPartWrite_state : (ctxPartWrite {} s (ctxAddr q) d).1 =
    if ctxRefused s q (s.ctxRaw q) (ctxOf d) then s else { s.setBytes (ctxAddr q) d with qe := heldAfter s q d } := by
  have hput : listPut (s.bytes (ctxAddr q) 64) 0 d = d := listPut_all (by rw [length_bytes, hd])
  have hraw : ctxOf (s.bytes (ctxAddr q) 64) = s.ctxRaw q := rfl
  unfold ctxPartWrite heldAfter
  simp only []
  rw [ctxAddr_index, readParts_ctx h, ctxAddr_aligned]
  simp only []
  rw [if_neg Bool.false_ne_true, if_neg Bool.false_ne_true, hput, hraw, memPartWrite_ctx hq h hd]
  cases ctxRefused s q (s.ctxRaw q) (ctxOf d)
  · cases ctxDiffers (s.ctxRaw q) (ctxOf d) <;> rfl
  · rfl
theorem ctxPartWrite_answer : (ctxPartWrite {} s (ctxAddr q) d).2 =
    if ctxRefused s q (s.ctxRaw q) (ctxOf d) then some .binding else none := by
  have hput : listPut (s.bytes (ctxAddr q) 64) 0 d = d := listPut_all (by rw [length_bytes, hd])
  have hraw : ctxOf (s.bytes (ctxAddr q) 64) = s.ctxRaw q := rfl
  unfold ctxPartWrite
  simp only []
  rw [ctxAddr_index, readParts_ctx h, ctxAddr_aligned]
  simp only []
  rw [if_neg Bool.false_ne_true, if_neg Bool.false_ne_true, hput, hraw, memPartWrite_ctx hq h hd]
  cases ctxRefused s q (s.ctxRaw q) (ctxOf d)
  · cases ctxDiffers (s.ctxRaw q) (ctxOf d) <;> rfl
  · rfl
theorem ctxPartWrite_refused (hr : ctxRefused s q (s.ctxRaw q) (ctxOf d) = true) :
    ctxPartWrite {} s (ctxAddr q) d = (s, some .binding) :=
  Prod.ext (by rw [ctxPartWrite_state hq h hd, if_pos hr]) (by rw [ctxPartWrite_answer hq h hd, if_pos hr])
theorem ctxPartWrite_stored (hr : ctxRefused s q (s.ctxRaw q) (ctxOf d) = false) :
    ctxPartWrite {} s (ctxAddr q) d = ({ s.setBytes (ctxAddr q) d with qe := heldAfter s q d }, none) :=
  Prod.ext (by rw [ctxPartWrite_state hq h hd, hr, if_neg Bool.false_ne_true])
    (by rw [ctxPartWrite_answer hq h hd, hr, if_neg Bool.false_ne_true])
end

/-- The bus takes the write of a whole context to the context. -/
theorem busWriteRaw_ctx {s : State} {id : MasterId} {cust : Bool} {q : Nat} {d : List Byte} (hq : q < 2 ^ 18) (hd : d.length = 64) :
    busWriteRaw s id cust (ctxAddr q) d {} = ctxPartWrite {} s (ctxAddr q) d := by
  have hp : parts 64 64 (ctxAddr q) 64 = [(ctxAddr q, 64)] :=
    (parts_aligned (m := 0) (by decide) (ctxAddr_aligned q)).trans (by rw [Nat.mul_zero, parts_zero])
  unfold busWriteRaw
  rw [targetOf_ctx hq]
  dsimp only
  rw [if_pos (ctxAddr_bounds hq), ctxWrite, hd, hp, writeParts, List.take_of_length_le (Nat.le_of_eq hd)]
  cases ctxPartWrite {} s (ctxAddr q) d with
  | mk t e => cases e <;> rfl

section
variable {s t : State} {id : MasterId} {q : BitVec 18} {d : List Byte} {e : BusCause} (hi : s.issues id = true) (hd : d.length = 64)
include hi hd

theorem exec_queueContextWrite :
    exec (.queueContextWrite id q 0 d {}) s =
      .next { (busWrite s id (ctxAddr q.toNat) d).1 with resp := respOf (busWrite s id (ctxAddr q.toNat) d).2 } := by
  have hne : (!d.isEmpty) = true := by cases d <;> simp_all
  show okIf _ (cmdWrite s id (ctxAddr q.toNat + 0) d) = _
  rw [hne, Nat.add_zero, cmdWrite_of_issues hi]
  rfl
theorem exec_queueContextWrite_done (h : ctxPartWrite {} s (ctxAddr q.toNat) d = (t, none)) :
    exec (.queueContextWrite id q 0 d {}) s = .next { t with resp := .done } := by
  have hb : busWrite s id (ctxAddr q.toNat) d = (t, none) := by simp only [busWrite, busWriteW, busWriteRaw_ctx q.isLt hd, h]
  rw [exec_queueContextWrite hi hd, hb]
  rfl
theorem exec_queueContextWrite_err (h : ctxPartWrite {} s (ctxAddr q.toNat) d = (s, some e)) :
    exec (.queueContextWrite id q 0 d {}) s = .next { s.berr id (ctxAddr q.toNat) true e with resp := .err e } := by
  have hb : busWrite s id (ctxAddr q.toNat) d = (s.berr id (ctxAddr q.toNat) true e, some e) := by
    simp only [busWrite, busWriteW, busWriteRaw_ctx q.isLt hd, h]
  rw [exec_queueContextWrite hi hd, hb]
  rfl
end

/-- The first clause of O44: R249, and R251 and R252 through `ctxRefused`. -/
theorem queueContextWrite_cases {s : State} {id : MasterId} (q : BitVec 18) {d : List Byte} (hi : s.issues id = true) (hd : d.length = 64)
    (hm : Memory.wf s = true) (hc : cleanCtx s q.toNat) :
    (ctxRefused s q.toNat (s.ctxRaw q.toNat) (ctxOf d) = false → ∃ t, exec (.queueContextWrite id q 0 d {}) s = .next t ∧ t.resp = .done ∧
      t.ctxRaw q.toNat = ctxOf d ∧ t.regs = s.regs ∧
      ∀ a, a < ctxAddr q.toNat ∨ ctxAddr q.toNat + 64 ≤ a → t.byteAt a = s.byteAt a) ∧
    (ctxRefused s q.toNat (s.ctxRaw q.toNat) (ctxOf d) = true → exec (.queueContextWrite id q 0 d {}) s =
      .next { s.berr id (ctxAddr q.toNat) true .binding with resp := .err .binding }) := by
  have hraw : ctxOf ((s.setBytes (ctxAddr q.toNat) d).bytes (ctxAddr q.toNat) 64) = ctxOf d := by
    rw [← hd, bytes_setBytes _ _ _ hm]
  have hout : ∀ a, a < ctxAddr q.toNat ∨ ctxAddr q.toNat + 64 ≤ a → (s.setBytes (ctxAddr q.toNat) d).byteAt a = s.byteAt a :=
    fun a ha => byteAt_setBytes_out _ _ _ _ (by rwa [hd])
  constructor
  · intro hr
    exact ⟨_, exec_queueContextWrite_done hi hd (ctxPartWrite_stored q.isLt hc hd hr), rfl, hraw, rfl, hout⟩
  · intro hr
    exact exec_queueContextWrite_err hi hd (ctxPartWrite_refused q.isLt hc hd hr)

/-- Settles O44, clause by clause. -/
theorem queueRegistersAndContexts : Obligations.QueueRegistersAndContexts := by
  refine ⟨fun s id q d hi hd hm hc => queueContextWrite_cases q hi hd hm hc, fun s id e v hi hr => ecommit_cases e v hi hr,
    fun s id t v hi => tenantTableWrite_cases t v hi, fun s id v c hi hr => ⟨fun h => ⟨?_, ?_⟩, fun h hv => ?_, fun h hv => ?_,
      fun h hv hvt ht => ?_, fun h hh ht hv => ?_⟩⟩
  · exact exec_sqDoorbell_err hi (doorbell_disabled hr h)
  · exact exec_cqDoorbell_err hi (doorbell_disabled hr h)
  · exact exec_sqDoorbell_done hi (doorbell_sq hr h hv)
  · exact exec_sqDoorbell_done hi (doorbell_sq_off_ring hr h hv)
  · exact exec_cqDoorbell_done hi (doorbell_cq hr h hv hvt ht)
  · exact exec_cqDoorbell_done hi (doorbell_cq_past_tail hr h hh ht hv)

end Sys2Proof.Proofs
end

section
/-! PROOF. Spin-up of a power set (R284, R285) where the port table is not in canonical form. -/
namespace Sys2Proof.Proofs
open Sys2Proof.Machine Sys2Proof.Laws

/-- Port 0 is present, alone in its DOWN set, powered by this device and listed twice: the first entry, the one that counts, is not up and
still registered from a former spin-up; the second is up. -/
def twiceListed : State :=
  { ((((State.reset.setDom (pdSasg 0) true).setReg 0x352 0x100 0x80000000).setRegF 0x350 oStat 31 1 1).setReg 0x351 0x104 0).setRegF
      (portPage 0) 0x110 9 1 1 with
    ports := [(0, { registered := true }), (0, { lp := 6, opened := true })] }

/-- The Keep core, identity 23 (R22), may ask for the spin-up of the set. -/
theorem keep_twiceListed : twiceListed.issues 23 = true ∧ twiceListed.custodyOf 23 = true := by decide +kernel

/-- The registers are canonical, and port 0 is a live member of a DOWN set and not up. -/
theorem down_twiceListed : 0 ∈ twiceListed.members 0 ∧ twiceListed.pmaster = true ∧ Regs.wf twiceListed = true ∧
    twiceListed.setSt 0 = 0 ∧ twiceListed.present 0 = true ∧ (twiceListed.port 0).lp ≠ 9 ∧ twiceListed.portUp 0 = false := by
  decide +kernel

/-- State of set 0 after a command that goes on. -/
def set0After : Res → Option Nat
  | .next t => some (t.setSt 0)
  | _ => none

/-- Once its registration ends, the first entry is a default one and leaves the table: port 0 is up, and POWERING ends at once. -/
theorem spinUp_twiceListed : set0After (exec (.spinUpRequest 23 0) twiceListed) = some 2 := by decide +kernel

/-- Refutes O49: SPIN_UP of a DOWN set with a live member that is not up enters SPINNING, not POWERING, where the port table lists the member
twice. The clause asks for canonical registers and for nothing of the port table. -/
theorem not_powerSetsSpinUpAndDown : ¬ Obligations.PowerSetsSpinUpAndDown := by
  unfold Obligations.PowerSetsSpinUpAndDown
  intro h
  obtain ⟨hreq, -⟩ := h
  obtain ⟨hissues, hcustody⟩ := keep_twiceListed
  obtain ⟨hmember, hmaster, hwf, hdown, hpresent, hsata, hup⟩ := down_twiceListed
  obtain ⟨-, hspin, -⟩ := hreq twiceListed 23 0 hissues hcustody
  obtain ⟨t, ht, hpowering, -⟩ := hspin 0 hmember hmaster hwf hdown hpresent hsata hup
  have h2 := spinUp_twiceListed
  rw [ht] at h2
  have h12 : some 1 = some 2 := (congrArg some hpowering).symm.trans h2
  simp at h12

end Sys2Proof.Proofs
end

section
/-! PROOF. What setting interrupt flags (R13, R43) leaves alone, and the bits of a register one of whose fields is replaced (R8). -/
namespace Sys2Proof.Proofs
open Sys2Proof.Machine Sys2Proof.Laws

/-! ### Interrupt flags (R13, R43) -/

/-- Setting flags of a page changes registers and wakes cores; nothing else. -/
theorem irq_only (s : State) (page : Nat) (bits : Word32) : ∃ rs cs, s.irq page bits = { s with regs := rs, cores := cs } := by
  unfold State.irq pageEdge
  split
  · obtain ⟨-, he⟩ | ⟨s1, h1, he⟩ := evtEdge_cases s (s.setReg page oIrqRaw (s.reg page oIrqRaw ||| bits)) _
    · exact ⟨_, _, he⟩
    · obtain ⟨cs, hcs⟩ := (wakeNew_woken s s1 _ (List.finRange 8)).only
      rw [he, hcs]
      obtain rfl | ⟨v, rfl⟩ := h1
      · exact ⟨_, cs, rfl⟩
      · exact ⟨_, cs, rfl⟩
  · exact ⟨_, _, rfl⟩

section
variable (s : State) (page n : Nat) (bits : Word32)
theorem irqBit_only : ∃ rs cs, s.irqBit page n = { s with regs := rs, cores := cs } := irq_only s page (mask1 n)
@[simp] theorem irq_mem : (s.irq page bits).mem = s.mem := by obtain ⟨_, _, h⟩ := irq_only s page bits; rw [h]
@[simp] theorem irq_belf : (s.irq page bits).belf = s.belf := by obtain ⟨_, _, h⟩ := irq_only s page bits; rw [h]
@[simp] theorem irq_boot : (s.irq page bits).boot = s.boot := by obtain ⟨_, _, h⟩ := irq_only s page bits; rw [h]
@[simp] theorem irq_cup : (s.irq page bits).cup = s.cup := by obtain ⟨_, _, h⟩ := irq_only s page bits; rw [h]
@[simp] theorem irqBit_mem : (s.irqBit page n).mem = s.mem := irq_mem _ _ _
@[simp] theorem irqBit_belf : (s.irqBit page n).belf = s.belf := irq_belf _ _ _
@[simp] theorem irqBit_boot : (s.irqBit page n).boot = s.boot := irq_boot _ _ _
@[simp] theorem irqBit_cup : (s.irqBit page n).cup = s.cup := irq_cup _ _ _
end

theorem wf_irq {s : State} (page : Nat) (bits : Word32) (h : Regs.wf s = true) : Regs.wf (s.irq page bits) = true := State_irq_kept.regs h
theorem wf_irqBit {s : State} (page n : Nat) (h : Regs.wf s = true) : Regs.wf (s.irqBit page n) = true := State_irqBit_kept.regs h
theorem wf_setRegF {s : State} (p o lo w v : Nat) (h : Regs.wf s = true) : Regs.wf (s.setRegF p o lo w v) = true := wf_setReg _ _ _ _ h

/-- A register outside of the event page (R385) that is not IRQ_RAW of the page keeps its word. -/
theorem reg_irq_ne (s : State) (page : Nat) (bits : Word32) {p o : Nat} (ho : o < 4096) (h40 : p ≠ 0x40) (h : ¬ (p = page ∧ o = oIrqRaw)) :
    (s.irq page bits).reg p o = s.reg p o := by
  have hraw : (s.setReg page oIrqRaw (s.reg page oIrqRaw ||| bits)).reg p o = s.reg p o := reg_setReg_ne _ _ _ _ _ _ (by decide) ho h
  unfold State.irq pageEdge
  split
  · next e he =>
    have hlt := pageSource_lt _ _ he
    obtain ⟨-, -, hreg⟩ := evtEdge_frame s (s.setReg page oIrqRaw (s.reg page oIrqRaw ||| bits)) e
    rw [hreg p o (by rw [Ne, regKey_inj (by omega) ho]; exact fun k => h40 k.1), hraw]
  · exact hraw
theorem reg_irqBit_ne (s : State) (page n : Nat) {p o : Nat} (ho : o < 4096) (h40 : p ≠ 0x40) (h : ¬ (p = page ∧ o = oIrqRaw)) :
    (s.irqBit page n).reg p o = s.reg p o := reg_irq_ne s page (mask1 n) ho h40 h

/-! ### A field replaced (R8) -/

theorem fldSet_eq (x lo w v : Nat) : fldSet x lo w v = 2 ^ lo * (2 ^ w * (x / 2 ^ (lo + w)) + v % 2 ^ w) + x % 2 ^ lo := by
  have h1 : x = 2 ^ lo * (x / 2 ^ lo) + x % 2 ^ lo := (Nat.div_add_mod x (2 ^ lo)).symm
  have h2 : x / 2 ^ lo = 2 ^ w * (x / 2 ^ lo / 2 ^ w) + x / 2 ^ lo % 2 ^ w := (Nat.div_add_mod _ _).symm
  rw [Nat.div_div_eq_div_mul, ← Nat.pow_add] at h2
  rw [fldSet, fld, Nat.shiftRight_eq_div_pow]
  rw [h2, Nat.mul_add] at h1
  rw [Nat.mul_add, Nat.mul_comm (x / 2 ^ lo % 2 ^ w), Nat.mul_comm (v % 2 ^ w)]
  omega

theorem testBit_fldSet (x lo w v k : Nat) :
    (fldSet x lo w v).testBit k = if lo ≤ k ∧ k < lo + w then v.testBit (k - lo) else x.testBit k := by
  rw [fldSet_eq, Nat.testBit_two_pow_mul_add _ (Nat.mod_lt _ (Nat.two_pow_pos lo))]
  by_cases hlo : k < lo
  · rw [if_pos hlo, if_neg (by omega), Nat.testBit_mod_two_pow, decide_eq_true hlo, Bool.true_and]
  rw [if_neg hlo, Nat.testBit_two_pow_mul_add _ (Nat.mod_lt _ (Nat.two_pow_pos w))]
  by_cases hw : k < lo + w
  · rw [if_pos (by omega), if_pos (by omega), Nat.testBit_mod_two_pow, decide_eq_true (by omega), Bool.true_and]
  · rw [if_neg (by omega), if_neg (by omega), Nat.testBit_div_two_pow]
    congr 1
    omega

theorem testBit_w32 (m : Nat) {k : Nat} (h : k < 32) : regBit (w32 m) k = m.testBit k := by
  rw [regBit, w32, BitVec.getLsbD_ofNat, decide_eq_true h, Bool.true_and]

theorem regBit_regSet (r : Word32) (lo w v : Nat) {k : Nat} (h : k < 32) :
    regBit (regSet r lo w v) k = if lo ≤ k ∧ k < lo + w then v.testBit (k - lo) else regBit r k :=
  (testBit_w32 _ h).trans (testBit_fldSet _ _ _ _ _)

theorem regBit_mask1 (n : Nat) {k : Nat} (h : k < 32) : regBit (mask1 n) k = decide (n = k) :=
  (testBit_w32 (2 ^ n) h).trans Nat.testBit_two_pow

/-- A field just replaced is read back. -/
theorem regFld_regSet (r : Word32) {lo w : Nat} (v : Nat) (h : lo + w ≤ 32) : regFld (regSet r lo w v) lo w = v % 2 ^ w := by
  refine Nat.eq_of_testBit_eq fun i => ?_
  rw [testBit_regFld, Nat.testBit_mod_two_pow]
  by_cases hi : i < w
  · rw [regBit_regSet _ _ _ _ (by omega), if_pos (by omega), Nat.add_sub_cancel_left]
  · rw [decide_eq_false hi, Bool.false_and, Bool.false_and]

section
variable {s : State} {p o lo w v : Nat}
theorem reg_setRegF (h : Regs.wf s = true) : (s.setRegF p o lo w v).reg p o = regSet (s.reg p o) lo w v := reg_setReg _ _ _ _ h
theorem reg_setRegF_ne {p' o' : Nat} (ho : o < 4096) (ho' : o' < 4096) (h : ¬ (p' = p ∧ o' = o)) :
    (s.setRegF p o lo w v).reg p' o' = s.reg p' o' := reg_setReg_ne _ _ _ _ _ _ ho ho' h
theorem regF_setRegF (h : Regs.wf s = true) (hw : lo + w ≤ 32) : (s.setRegF p o lo w v).regF p o lo w = v % 2 ^ w := by
  rw [State.regF, reg_setRegF h, regFld_regSet _ _ hw]
end

/-- A flag just set is up. -/
theorem regBit_irqBit {s : State} {page n : Nat} (h : Regs.wf s = true) (hn : n < 32) : regBit ((s.irqBit page n).reg page oIrqRaw) n = true := by
  obtain ⟨hraw, -⟩ := irq_frame (page := page) (bits := mask1 n) h
  rw [State.irqBit, hraw, regBit_or, regBit_mask1 _ hn, decide_eq_true rfl, Bool.or_true]

end Sys2Proof.Proofs
end

section
/-! PROOF. The Belfry: time and slew, reads, crossings and states (R49-R59). -/
namespace Sys2Proof.Proofs
open Sys2Proof.Machine Sys2Proof.Laws

/-! ### A tick (R49, R57) -/

theorem belfTick_off {s : State} (h : s.boot.power = .off) : belfTick s = s := if_pos h
theorem belfTick_within {s : State} (h : s.boot.power ≠ .off) (hp : s.belf.phase ≠ 0xFFFF) : belfTick s = s.setBelf (belfStep s.belf) := by
  rw [belfTick, if_neg h, if_neg hp]
/-- A wrap steps the Belfry, and may set SLEW_DONE. -/
theorem belfTick_wrap {s : State} (h : s.boot.power ≠ .off) (hp : s.belf.phase = 0xFFFF) :
    belfTick s = if s.belf.slew ≠ 0 ∧ (belfWrap s.belf s.slewRate).slew = 0 then (s.setBelf (belfWrap s.belf s.slewRate)).irqBit 0x10 4
      else s.setBelf (belfWrap s.belf s.slewRate) := by
  rw [belfTick, if_neg h, if_pos hp]
  rfl

theorem belf_belfTick_wrap {s : State} (h : s.boot.power ≠ .off) (hp : s.belf.phase = 0xFFFF) :
    (belfTick s).belf = belfWrap s.belf s.slewRate := by
  rw [belfTick_wrap h hp]
  split
  · rw [irqBit_belf]; rfl
  · rfl

theorem belfTick_mem (s : State) : (belfTick s).mem = s.mem := by
  unfold belfTick
  split
  · rfl
  split
  · dsimp only
    split
    · rw [irqBit_mem]; rfl
    · rfl
  · rfl

theorem slewDue_iff {b : Belf} : slewDue b = true ↔ b.phase = 0xFFFF ∧ b.slew ≠ 0 ∧ b.slewWait = 0 := by simp [slewDue]

@[simp] theorem belfWrap_phase (b : Belf) (rate : Nat) : (belfWrap b rate).phase = 0 := by
  unfold belfWrap
  dsimp only
  repeat' split
  all_goals rfl
/-- A wrap at which no slew step falls adds 1 to CYCLE. -/
theorem belfWrap_cycle {b : Belf} (rate : Nat) (h : b.slew = 0 ∨ b.slewWait ≠ 0) : (belfWrap b rate).cycle = b.cycle + 1 := by
  unfold belfWrap
  dsimp only
  split
  · rfl
  · next h0 =>
    rw [if_neg (h.resolve_left h0)]
/-- A wrap between two slew steps keeps the count. -/
theorem belfWrap_between {b : Belf} (rate : Nat) (h : b.slew ≠ 0) (hw : b.slewWait ≠ 0) :
    (belfWrap b rate).slew = b.slew ∧ (belfWrap b rate).slewWait = b.slewWait - 1 := by
  unfold belfWrap
  dsimp only
  rw [if_neg h, if_neg hw]
  exact ⟨rfl, rfl⟩
/-- A slew step with a negative count. -/
theorem belfWrap_back {b : Belf} (rate : Nat) (h : b.slew ≠ 0) (hw : b.slewWait = 0) (hn : regBit b.slew 31 = true) :
    (belfWrap b rate).cycle = b.cycle ∧ (belfWrap b rate).slew = b.slew + 1 ∧ (belfWrap b rate).slewWait = 2 ^ rate - 1 := by
  unfold belfWrap
  dsimp only
  rw [if_neg h, if_pos hw, if_pos hn]
  exact ⟨rfl, rfl, rfl⟩
/-- A slew step with a positive count. -/
theorem belfWrap_forth {b : Belf} (rate : Nat) (h : b.slew ≠ 0) (hw : b.slewWait = 0) (hn : regBit b.slew 31 = false) :
    (belfWrap b rate).cycle = b.cycle + 2 ∧ (belfWrap b rate).slew = b.slew - 1 ∧ (belfWrap b rate).slewWait = 2 ^ rate - 1 := by
  unfold belfWrap
  dsimp only
  rw [if_neg h, if_pos hw, hn]
  exact ⟨rfl, rfl, rfl⟩

/-- The time of a Belfry whose phase goes on within the cycle. -/
theorem time_within {b : Belf} (h : b.phase ≠ 0xFFFF) :
    (b.cycle.toNat * 65536 + (b.phase + 1).toNat) = (b.cycle.toNat * 65536 + b.phase.toNat + 1) % 2 ^ 64 := by
  have hc := b.cycle.isLt
  have hp : (b.phase + 1).toNat = b.phase.toNat + 1 := by bv_omega
  have hlt : b.phase.toNat + 1 < 65536 := by bv_omega
  omega
/-- The time of a Belfry that wraps into the next cycle. -/
theorem time_wrap {b : Belf} (h : b.phase = 0xFFFF) :
    ((b.cycle + 1).toNat * 65536 + (0 : BitVec 16).toNat) = (b.cycle.toNat * 65536 + b.phase.toNat + 1) % 2 ^ 64 := by
  have hc := b.cycle.isLt
  have hp : b.phase.toNat = 65535 := congrArg BitVec.toNat h
  have hn : (b.cycle + 1).toNat = (b.cycle.toNat + 1) % 2 ^ 48 := BitVec.toNat_add ..
  have h0 : (0 : BitVec 16).toNat = 0 := rfl
  omega

theorem time_belfTick {s : State} (h : s.boot.power ≠ .off) (hd : slewDue s.belf = false) :
    (belfTick s).time = (s.time + 1) % 2 ^ 64 := by
  by_cases hp : s.belf.phase = 0xFFFF
  · have hns : s.belf.slew = 0 ∨ s.belf.slewWait ≠ 0 := by
      by_contra hc
      rw [not_or, not_not] at hc
      rw [slewDue_iff.mpr ⟨hp, hc⟩] at hd
      cases hd
    rw [State.time, belf_belfTick_wrap h hp, belfWrap_cycle _ hns, belfWrap_phase]
    exact time_wrap hp
  · rw [belfTick_within h hp]
    exact time_within hp

/-- Settles O9: within a cycle, at a wrap without a slew step, and in OFF. -/
theorem phaseTickAdvancesBelfryTime : Obligations.PhaseTickAdvancesBelfryTime := by
  refine fun s => ⟨belfTick s, rfl, time_belfTick, belfTick_off, belfTick_mem s, (exec_keptQ (c := .phaseTick) rfl).pending, fun hp => ?_⟩
  by_cases h : s.boot.power = .off
  · rw [belfTick_off h]
  · rw [belfTick_within h hp]
    rfl

/-! ### The slew (R57) -/

/-- The access codes of BELF_SLEW. -/
abbrev slewInfo : RegInfo := { rwc := 0xFFFFFFFF }

theorem regOpen_slew {s : State} {id : MasterId} (hi : s.issues id = true) (hc : s.custodyOf id = true) :
    RegOpen s id 0x10 0x118 .belf 0 slewInfo where
  issues := hi
  page_lt := by decide
  above := by decide
  off_lt := by decide
  aligned := rfl
  block := rfl
  power := powerBad_of_page (by decide) (.inl (by decide))
  info := rfl
  identity := rfl
  access := by rw [hc]; rfl

/-- A slew step, as R57 counts it. -/
theorem slewStep_cases {s : State} (hd : slewDue s.belf = true) (h : s.boot.power ≠ .off) (hw : Regs.wf s = true) :
    (belfTick s).belf.phase = 0 ∧ (belfTick s).belf.slewWait = 2 ^ s.slewRate - 1 ∧
    (regBit s.belf.slew 31 = false → (belfTick s).belf.cycle = s.belf.cycle + 2 ∧ (belfTick s).belf.slew = s.belf.slew - 1) ∧
    (regBit s.belf.slew 31 = true → (belfTick s).belf.cycle = s.belf.cycle ∧ (belfTick s).belf.slew = s.belf.slew + 1) ∧
    ((belfTick s).belf.slew = 0 → regBit ((belfTick s).reg 0x10 oIrqRaw) 4 = true) := by
  obtain ⟨hp, hs, hz⟩ := slewDue_iff.mp hd
  rw [belf_belfTick_wrap h hp]
  refine ⟨belfWrap_phase _ _, ?_, fun hn => ?_, fun hn => ?_, fun h0 => ?_⟩
  · cases hn : regBit s.belf.slew 31 with
    | true => exact (belfWrap_back _ hs hz hn).2.2
    | false => exact (belfWrap_forth _ hs hz hn).2.2
  · obtain ⟨hcyc, hslew, -⟩ := belfWrap_forth s.slewRate hs hz hn
    exact ⟨hcyc, hslew⟩
  · obtain ⟨hcyc, hslew, -⟩ := belfWrap_back s.slewRate hs hz hn
    exact ⟨hcyc, hslew⟩
  · rw [belfTick_wrap h hp, if_pos ⟨hs, h0⟩]
    exact regBit_irqBit hw (by decide)

/-- Settles O10: the write, a wrap without a step due, a step, and a wrap between two steps. -/
theorem slewStepsMoveOnlyTheCycleCount : Obligations.SlewStepsMoveOnlyTheCycleCount := by
  refine ⟨fun s id v hi hc => congrArg _ ((regOpen_slew hi hc).done rfl), fun s hd => ?_, fun s hd h hw => ?_, fun s hp hs hz h => ?_⟩
  · show ok (if slewDue s.belf then belfTick s else s) = _
    rw [hd]
    rfl
  · obtain ⟨hphase, hwait, hforth, hback, hdone⟩ := slewStep_cases hd h hw
    refine ⟨belfTick s, ?_, hphase, hwait, hforth, hback, hdone, belfTick_mem s⟩
    show ok (if slewDue s.belf then belfTick s else s) = _
    rw [hd]
    rfl
  · obtain ⟨hslew, hwait⟩ := belfWrap_between s.slewRate hs hz
    have hb := belf_belfTick_wrap h hp
    refine ⟨belfTick s, rfl, ?_⟩
    rw [hb]
    exact ⟨belfWrap_phase _ _, belfWrap_cycle _ (.inr hz), hslew, hwait⟩

/-! ### Reads (R58, R59) -/

/-- A read command of one register that no check refuses is the answer of the register's block. -/
theorem cmdRegRead_done {s t : State} {id : MasterId} {page off n : Nat} {b : Block} {i : RegInfo} {v : Word32} (hi : s.issues id = true)
    (hp : page < 4096) (hlo : 0x100 ≤ off) (ho : off < 4096) (ha : off % 4 = 0) (hb : pageBlock page = some (b, n))
    (hr : regInfo page off = some i) (hid : identityBad s id.val page off none = false) (h : blockRead s id b n off = some (t, v)) :
    cmdRegRead s id page off = { t with resp := .data (leBytes 4 v.toNat) false } := by
  have hread : regRead s id page off = (t, v) := by
    unfold regRead
    split
    case h_8 => rw [hb]; simp only [h, Option.getD_some]
    all_goals omega
  have hacc : regReadAcc s id page off 4 = (t, .ok (leBytes 4 v.toNat, false)) := by
    simp [regReadAcc, hb, ha, hr, hid, hread]
  have hbus : busRead s id (regAddr page off) 4 = (t, .ok (leBytes 4 v.toNat, false)) := by
    simp only [busRead, busReadRaw, targetOf_regAddr hp ho, hacc]
  rw [cmdRegRead, cmdRead_of_issues hi, hbus]
  rfl

theorem exec_belfTimeLoRead {s : State} {id : MasterId} (hi : s.issues id = true) : exec (.belfTimeLoRead id) s =
    .next { s.setBelf { s.belf with latches := sput s.belf.latches id.val (w32 (s.time / 2 ^ 32)) 0 } with
      resp := .data (leBytes 4 (w32 s.time).toNat) false } :=
  congrArg _ (cmdRegRead_done hi (by decide) (by decide) (by decide) rfl rfl rfl rfl rfl)
theorem exec_belfTimeHiRead {s : State} {id : MasterId} (hi : s.issues id = true) : exec (.belfTimeHiRead id) s =
    .next { s with resp := .data (leBytes 4 (sget s.belf.latches id.val 0).toNat) false } :=
  congrArg _ (cmdRegRead_done hi (by decide) (by decide) (by decide) rfl rfl rfl rfl rfl)

theorem captureTimers_only (s : State) (l : List Nat) : ∃ rs, captureTimers s l = { s with regs := rs } := by
  induction l generalizing s with
  | nil => exact ⟨_, rfl⟩
  | cons i l ih => exact ih _

/-- The tick captures the time (R59), and every timer's COUNT in registers (R353). -/
theorem syncTick_only (s : State) : ∃ rs, syncTick s = { s with belf := { s.belf with shadow := cell s.time }, regs := rs } := by
  obtain ⟨rs, h⟩ := captureTimers_only { s with belf := { s.belf with shadow := cell s.time } } (rangeFrom 0 96)
  exact ⟨rs, h⟩

/-- What a block finds in its own words at the tick leaves memory and the Belfry alone (R391, R393, R401). -/
theorem innerUpset_frame (s : State) (u : InnerUpset) : (innerUpset s u).mem = s.mem ∧ (innerUpset s u).belf = s.belf := by
  cases u with
  | counted page =>
    simp only [innerUpset]
    split <;> exact ⟨rfl, rfl⟩
  | route e bits =>
    simp only [innerUpset, routeUpset]
    split
    · exact ⟨rfl, rfl⟩
    · exact ⟨rfl, rfl⟩
    · obtain ⟨hmem, hbelf, -⟩ := evtEdge_frame s (s.setRegF (0x41 + e.val / 256) (0x100 + (e.val % 256) * 4) 31 1 0) e.val
      exact ⟨(irqBit_mem _ _ _).trans hmem, (irqBit_belf _ _ _).trans hbelf⟩
  | message c b place bits =>
    simp only [innerUpset, messageUpset]
    split <;> exact ⟨rfl, rfl⟩

theorem innerUpsets_frame (s : State) (us : List InnerUpset) :
    (us.foldl innerUpset s).mem = s.mem ∧ (us.foldl innerUpset s).belf = s.belf := by
  induction us generalizing s with
  | nil => exact ⟨rfl, rfl⟩
  | cons u us ih =>
    obtain ⟨hm, hb⟩ := innerUpset_frame s u
    obtain ⟨hms, hbs⟩ := ih (innerUpset s u)
    exact ⟨hms.trans hm, hbs.trans hb⟩

/-- Settles O11: the two reads, the latches after reset, and the tick. -/
theorem belfryTimeReadsAreConsistent : Obligations.BelfryTimeReadsAreConsistent := by
  refine ⟨fun s id hi => exec_belfTimeLoRead hi, fun s id hi => exec_belfTimeHiRead hi, fun id => rfl, fun s us => ?_⟩
  obtain ⟨rs, hs⟩ := syncTick_only s
  obtain ⟨hm, hb⟩ := innerUpsets_frame (syncTick s) us
  refine ⟨us.foldl innerUpset (syncTick s), rfl, ?_, ?_, fun h => ?_⟩
  · rw [hb, hs]
  · rw [hm, hs]
  · rw [h, List.foldl_nil, hs]

end Sys2Proof.Proofs
end

section
/-! PROOF. Crossings and the states of the Belfry (R51-R55). -/
namespace Sys2Proof.Proofs
open Sys2Proof.Machine Sys2Proof.Laws

/-! ### Crossings (R52, R54) -/

/-- While the Belfry is not locked, one crossing is one period, and the interval alone decides. -/
theorem ivCount_unlocked {b : Belf} (iv : Nat) (h : b.st = .synth ∨ b.st = .acquire) : ivCount b iv = 1 := by
  rcases h with h | h <;> simp only [ivCount, h]
theorem ivValid_unlocked {b : Belf} (iv : Nat) (h : b.st = .synth ∨ b.st = .acquire) :
    ivValid b iv = decide (1538500 ≤ iv ∧ iv ≤ 2222200) := by
  have hn := ivCount_unlocked iv h
  rcases h with h | h <;> simp only [ivValid, hn, h, Nat.mul_one, Bool.and_true]

/-- What a valid crossing counts and keeps. -/
theorem belfValid_frame (b : Belf) (iv : Nat) : (belfValid b iv).valid = b.valid + 1 ∧ (belfValid b iv).since = 0 ∧
    (belfValid b iv).measured = iv / ivCount b iv ∧ (belfValid b iv).st = b.st ∧ (belfValid b iv).cycle = b.cycle ∧
    (belfValid b iv).phase = b.phase := by
  unfold belfValid
  dsimp only
  split <;> exact ⟨rfl, rfl, rfl, rfl, rfl, rfl⟩

theorem exec_referenceCrossing_selected {s : State} {src : CrossSource} (e : Nat) (h : crossSelected s src = true) :
    exec (.referenceCrossing src e) s = .next (belfCross s e) := by
  show ok (if crossSelected s src then _ else _) = _
  rw [h]
  rfl
theorem belfCross_start {s : State} (e : Nat) (h : s.belf.start = true) :
    belfCross s e = s.setBelf { s.belf with start := false, since := 0 } := if_pos h
theorem belfCross_valid {s : State} {e : Nat} (h : s.belf.start = false) (hv : ivValid s.belf (s.belf.since + e) = true) :
    belfCross s e = (s.setBelf (belfValid s.belf (s.belf.since + e))).setReg 0x10 0x114 ((phaseError s.belf).zeroExtend 32) := by
  simp only [belfCross, h, hv, if_true, Bool.false_eq_true, if_false]
theorem belfCross_rejected {s : State} {e : Nat} (h : s.belf.start = false) (hv : ivValid s.belf (s.belf.since + e) = false) :
    belfCross s e = (s.setBelf { s.belf with since := s.belf.since + e }).irqBit 0x10 5 := by
  simp only [belfCross, h, hv, Bool.false_eq_true, if_false]

/-- The first half of O12: R52 and R54. -/
theorem crossingsAreJudgedByTheirInterval : CrossingsAreJudgedByTheirInterval := by
  refine ⟨fun s src e h => ?_, fun s src e h hs => ?_, fun s src e h hs hst => ⟨fun hv => ?_, fun hv => ?_⟩⟩
  · show ok (if crossSelected s src then _ else _) = _
    rw [h]
    rfl
  · rw [exec_referenceCrossing_selected e h, belfCross_start e hs]
    rfl
  · have hval : ivValid s.belf (s.belf.since + e) = true := by rw [ivValid_unlocked _ hst, decide_eq_true hv]
    obtain ⟨hvalid, hsince, hmeas, hstate, hcycle, hphase⟩ := belfValid_frame s.belf (s.belf.since + e)
    rw [ivCount_unlocked _ hst, Nat.div_one] at hmeas
    exact ⟨_, exec_referenceCrossing_selected e h, by
      rw [belfCross_valid hs hval]
      exact ⟨hvalid, hsince, hmeas, hstate, hcycle, hphase, rfl⟩⟩
  · have hval : ivValid s.belf (s.belf.since + e) = false := by rw [ivValid_unlocked _ hst, decide_eq_false hv]
    rw [exec_referenceCrossing_selected e h, belfCross_rejected hs hval]

/-! ### States (R53) -/

theorem belfStateChange_enters {s : State} {x : BelfSt} (hn : s.belf.next = some x) (hp : s.belf.phase = 0) :
    belfStateChange s = (s.setBelf (belfEnter s.belf x)).irqBit 0x10 (belfIrq x) := by
  simp only [belfStateChange, hn, if_pos hp]
theorem belfStateChange_waits {s : State} (hp : s.belf.phase ≠ 0) : belfStateChange s = s := by
  unfold belfStateChange
  split
  · exact if_neg hp
  · rfl
theorem belfIrq_lt (x : BelfSt) : belfIrq x < 32 := by cases x <;> decide

theorem crossingTimeout_decides {s : State} {e : Nat} (hs : s.belf.st = .acquire ∨ s.belf.st = .locked) (hn : s.belf.next = none)
    (he : 33 * s.belf.tracked < 16 * e) : crossingTimeout s e = s.setBelf { s.belf with next := some .holdover } := by
  have hst : (s.belf.st == .acquire || s.belf.st == .locked) = true := by
    rcases hs with h | h <;> rw [h] <;> rfl
  simp only [crossingTimeout, hst, hn, decide_eq_true he, beq_self_eq_true, Bool.and_self, if_true]
theorem holdLimit_decides {s : State} (hs : s.belf.st = .holdover) (hl : s.holdLim ≤ s.belf.holdCnt.toNat) :
    holdLimit s = s.setBelf { s.belf with next := some .synth } := by
  simp only [holdLimit, hs, decide_eq_true hl, beq_self_eq_true, Bool.and_self, if_true]

/-- The access codes of BELF_CTL. -/
abbrev belfCtlInfo : RegInfo := { reset := 0x0BB80040, rwl := 0xFFFF0070, rwc := 3 }

theorem exec_srcWrite {s : State} {id : MasterId} {v : Word32} (hi : s.issues id = true) (hc : s.custodyOf id = true) :
    exec (.srcWrite id v) s = .next { belfCtlWrite s (s.locked 0x10) v with resp := .done } :=
  congrArg _ (cmdReg_done (b := .belf) (n := 0) (i := belfCtlInfo) hi (by decide) (by decide) rfl rfl rfl rfl rfl (by rw [hc]; rfl) rfl)

/-- A write of a SRC that exists starts the count anew and decides a change of state. -/
theorem belf_belfCtlWrite {s : State} {locked : Bool} {v : Word32} (h : regFld v 0 2 ≠ 3) : (belfCtlWrite s locked v).belf =
    { s.belf with start := true, valid := 0, since := 0, next := srcDecides s.belf (regFld v 0 2) } := by
  simp only [belfCtlWrite, if_neg h]
  rfl
theorem srcDecides_holdover {b : Belf} {v : Nat} (h : b.st = .acquire ∨ b.st = .locked) (hv : v ≠ 2) : srcDecides b v = some .holdover := by
  rcases h with h | h <;> simp only [srcDecides, h, if_neg hv]
theorem srcDecides_synth {b : Belf} (h : b.st ≠ .synth) : srcDecides b 2 = some .synth := by
  cases hs : b.st with
  | synth => exact absurd hs h
  | acquire | locked | holdover => simp only [srcDecides, hs, if_true]

/-- The second half of O12: R53. -/
theorem belfryStatesChangeAtPhaseZero : BelfryStatesChangeAtPhaseZero := by
  refine ⟨fun s x hn hp hw => ?_, fun s hp => congrArg _ (belfStateChange_waits hp), fun s e hs hn he =>
    congrArg _ (crossingTimeout_decides hs hn he), fun s hs hl => congrArg _ (holdLimit_decides hs hl), fun s id v hi hc hv => ?_⟩
  · refine ⟨_, congrArg Host.Outcome.next (belfStateChange_enters hn hp), ?_⟩
    rw [irqBit_belf]
    exact ⟨rfl, rfl, rfl, rfl, rfl, regBit_irqBit hw (belfIrq_lt x)⟩
  · refine ⟨_, exec_srcWrite hi hc, ?_⟩
    dsimp only
    rw [belf_belfCtlWrite hv]
    exact ⟨rfl, rfl, rfl, rfl, rfl, srcDecides_holdover, fun h h2 => by rw [h2]; exact srcDecides_synth h, rfl⟩

/-- Settles O12, from its two halves. -/
theorem crossingsMoveTheBelfry : Obligations.CrossingsMoveTheBelfry :=
  ⟨crossingsAreJudgedByTheirInterval, belfryStatesChangeAtPhaseZero⟩

end Sys2Proof.Proofs
end

section
/-! PROOF. The comparators (R60-R63). -/
namespace Sys2Proof.Proofs
open Sys2Proof.Machine Sys2Proof.Laws

/-! ### Their registers (R63) -/

theorem bcmpPage_fw {c : Nat} (h : c < 32) : bcmpPage c = 0x11 := by unfold bcmpPage; omega
theorem bcmpOff_fw {c : Nat} (h : c < 32) : bcmpOff c = 0x100 + c * 16 := by rw [bcmpOff, Nat.mod_eq_of_lt h]
theorem bcmpOff_bounds (c : Nat) : 0x100 ≤ bcmpOff c ∧ bcmpOff c + 16 ≤ 0x300 ∧ bcmpOff c % 16 = 0 := by unfold bcmpOff; omega

theorem pageBlock_bcmp {c : Nat} (h : c < 64) : pageBlock (bcmpPage c) = some (.belf, 1 + c / 32) := by
  have hc : c / 32 = 0 ∨ c / 32 = 1 := by omega
  unfold bcmpPage
  rcases hc with e | e <;> rw [e] <;> rfl

theorem arrIx_bcmp {c sub : Nat} (hs : sub < 16) : arrIx (bcmpOff c + sub) 0x100 16 32 = some (c % 32, sub) :=
  arrIx_elem (Nat.mod_lt _ (by decide)) hs

theorem regInfo_bcmp {c sub : Nat} (h : c < 64) (hs : sub < 16) : regInfo (bcmpPage c) (bcmpOff c + sub) = bcmpInfo c sub := by
  have hlo : ¬ bcmpOff c + sub < 0x100 := by unfold bcmpOff; omega
  have hn : ¬ 1 + c / 32 = 0 := by omega
  have hc : (1 + c / 32 - 1) * 32 + c % 32 = c := by omega
  simp only [regInfo, pageBlock_bcmp h, if_neg hlo, blockInfo, belfInfo, if_neg hn, arrIx_bcmp hs, hc]

theorem blockWrite_bcmp {s : State} {id c sub : Nat} {v : Word32} (h : c < 32) (hs : sub < 16) :
    blockWrite s id .belf (1 + c / 32) (bcmpOff c + sub) v = some (bcmpWrite s c sub v) := by
  have hn : ¬ 1 + c / 32 = 0 := by omega
  have hc : (1 + c / 32 - 1) * 32 + c % 32 = c := by omega
  simp only [blockWrite, belfPageWrite, if_neg hn, arrIx_bcmp hs, hc, if_pos h]
/-- Comparators 32 to 63 take no write. -/
theorem blockWrite_bcmp_hw {s : State} {id c sub : Nat} {v : Word32} (h : 32 ≤ c) (hs : sub < 16) :
    blockWrite s id .belf (1 + c / 32) (bcmpOff c + sub) v = none := by
  have hn : ¬ 1 + c / 32 = 0 := by omega
  have hc : (1 + c / 32 - 1) * 32 + c % 32 = c := by omega
  simp only [blockWrite, belfPageWrite, if_neg hn, arrIx_bcmp hs, hc, if_neg (Nat.not_lt.mpr h)]

/-- Comparators 0 to 3 take writes of the Custody world alone. -/
theorem accessBad_bcmp {c reset m w : Nat} {i : RegInfo} {cust : Bool} (h : bcmpAcc c reset m w = some i) :
    accessBad cust i = (!cust && decide (c < 4)) := by
  unfold bcmpAcc ro at h
  split at h
  next h4 =>
    cases h
    simp [accessBad, h4]
  next h4 =>
    split at h <;> cases h <;> simp [accessBad, h4]

/-- The offset of one half of a target. -/
theorem targetInfo (c : Nat) (high : Bool) : bcmpInfo c (4 * b2n high) = bcmpAcc c 0 0xFFFFFFFF 0 ∧ 4 * b2n high < 16 ∧
    4 * b2n high % 4 = 0 ∧ (4 * b2n high = 0 ∨ 4 * b2n high = 4) := by
  cases high <;> exact ⟨rfl, by decide, by decide, by decide⟩

theorem identityBad_belf {s : State} {id page off n : Nat} {w : Option Bool} (hb : pageBlock page = some (.belf, n)) :
    identityBad s id page off w = false := by simp only [identityBad, hb]

theorem powerBad_bcmp (s : State) {c sub : Nat} (h : c < 64) : powerBad s (bcmpPage c) (bcmpOff c + sub) = false :=
  powerBad_of_page (by unfold bcmpOff oCtl; omega) (.inl (by unfold bcmpPage; omega))

section
variable {s : State} {id : MasterId} {c sub : Nat} {i : RegInfo}
/-- A comparator's register is open to its writers. -/
theorem regOpen_bcmp (hi : s.issues id = true) (h : c < 64) (hs : sub < 16) (ha : sub % 4 = 0) (hr : bcmpInfo c sub = some i)
    (hacc : accessBad (s.custodyOf id) i = false) : RegOpen s id (bcmpPage c) (bcmpOff c + sub) .belf (1 + c / 32) i where
  issues := hi
  page_lt := by unfold bcmpPage; omega
  above := by unfold bcmpOff; omega
  off_lt := by unfold bcmpOff; omega
  aligned := by unfold bcmpOff; omega
  block := pageBlock_bcmp h
  power := powerBad_bcmp s h
  info := (regInfo_bcmp h hs).trans hr
  identity := identityBad_belf (pageBlock_bcmp h)
  access := hacc

/-- A write that the access code forbids is recorded as a bus error (R11, R106). -/
theorem cmdReg_bcmp_access {v : Word32} (hi : s.issues id = true) (h : c < 64) (hs : sub < 16) (ha : sub % 4 = 0) (hr : bcmpInfo c sub = some i)
    (hacc : accessBad (s.custodyOf id) i = true) : cmdReg s id (bcmpPage c) (bcmpOff c + sub) v =
      { s.berr id (regAddr (bcmpPage c) (bcmpOff c + sub)) true .access with resp := .err .access } := by
  refine cmdWrite_page_err hi (by unfold bcmpPage; omega) (by unfold bcmpOff; omega) ?_
  rw [regWrite_reaches (pageBlock_bcmp h) (length_leBytes 4 _) (by unfold bcmpOff; omega) (powerBad_bcmp s h) ((regInfo_bcmp h hs).trans hr)
    (identityBad_belf (pageBlock_bcmp h)), if_pos hacc]
end

theorem exec_bcmpTargetWrite (s : State) (id : MasterId) (c : Fin 64) (high : Bool) (v : Word32) : exec (.bcmpTargetWrite id c high v) s =
    .next (cmdReg s id (bcmpPage c.val) (bcmpOff c.val + 4 * b2n high) v) := rfl

theorem custody_bcmp {c : Nat} {cust : Bool} (h : 4 ≤ c ∨ cust = true) : (!cust && decide (c < 4)) = false := by
  rcases h with h | h
  · rw [decide_eq_false (by omega), Bool.and_false]
  · rw [h]; rfl

theorem bcmpAcc_isSome (c reset m w : Nat) : ∃ i, bcmpAcc c reset m w = some i := by
  unfold bcmpAcc ro
  repeat' split
  all_goals exact ⟨_, rfl⟩

/-! ### Targets (R62) -/

theorem bcmpWrite_target {s : State} {c sub : Nat} {v : Word32} (hs : sub = 0 ∨ sub = 4) : bcmpWrite s c sub v =
    if s.bcmpEn c then (s, some .binding) else (s.setReg (bcmpPage c) (bcmpOff c + sub) v, none) := if_pos hs

/-- Settles O13: R62. -/
theorem comparatorTargetsFreezeWhileArmed : Obligations.ComparatorTargetsFreezeWhileArmed := by
  intro s id c high v hi hc hw
  obtain ⟨hinfo, hsub, halign, hhalf⟩ := targetInfo c.val high
  obtain ⟨i, hacc⟩ := bcmpAcc_isSome c.val 0 0xFFFFFFFF 0
  have ho := regOpen_bcmp hi (by omega) hsub halign (hinfo.trans hacc) ((accessBad_bcmp hacc).trans (custody_bcmp hw))
  have hb := blockWrite_bcmp (s := s) (id := id.val) (v := v) hc hsub
  rw [bcmpWrite_target hhalf] at hb
  rw [exec_bcmpTargetWrite, ← bcmpOff_fw hc, ← bcmpPage_fw hc]
  refine ⟨fun he => ?_, fun he => ?_⟩
  · rw [he] at hb
    exact congrArg _ (ho.done hb)
  · rw [he] at hb
    exact congrArg _ (ho.err hb)

/-! ### Arming (R60, R61) -/

/-- The last two clauses of O14: writes that a comparator does not take (R63). -/
theorem bcmpTargetWrite_operator {s : State} {id : MasterId} {c : Fin 64} (high : Bool) (v : Word32) (hi : s.issues id = true)
    (hc : c.val < 4) (hop : s.custodyOf id = false) : exec (.bcmpTargetWrite id c high v) s =
      .next { s.berr id (regAddr 0x11 (0x100 + c.val * 16 + 4 * b2n high)) true .access with resp := .err .access } := by
  obtain ⟨hinfo, hsub, halign, -⟩ := targetInfo c.val high
  obtain ⟨i, hacc⟩ := bcmpAcc_isSome c.val 0 0xFFFFFFFF 0
  have hbad : accessBad (s.custodyOf id) i = true := by rw [accessBad_bcmp hacc, hop, decide_eq_true hc]; rfl
  rw [exec_bcmpTargetWrite, cmdReg_bcmp_access hi (by omega) hsub halign (hinfo.trans hacc) hbad, bcmpPage_fw (by omega), bcmpOff_fw (by omega)]

/-- A read-only register keeps its word. -/
theorem plainWrite_ro {s : State} (page off reset : Nat) (v : Word32) (h : Regs.wf s = true) :
    plainWrite s page off { reset := reset } v = s := by
  have hword : writeWord { reset := reset } (s.locked page) (s.reg page off) v = s.reg page off :=
    BitVec.eq_of_getLsbD_eq fun k hk => (regBit_writeWord _ _ _ _ hk).trans (by simp [bit, regBit])
  rw [plainWrite, hword, State.setReg, State.reg, sput_sget _ h]

theorem bcmpTargetWrite_hw {s : State} {id : MasterId} {c : Fin 64} (high : Bool) (v : Word32) (hi : s.issues id = true)
    (hc : 32 ≤ c.val) (hw : Regs.wf s = true) : exec (.bcmpTargetWrite id c high v) s = .next { s with resp := .done } := by
  obtain ⟨hinfo, hsub, halign, -⟩ := targetInfo c.val high
  have hacc : bcmpAcc c.val 0 0xFFFFFFFF 0 = some { reset := 0 } := by
    rw [bcmpAcc, if_neg (by omega), if_neg (by omega)]
    rfl
  have ho := regOpen_bcmp hi c.isLt hsub halign (hinfo.trans hacc) ((accessBad_bcmp hacc).trans (custody_bcmp (.inl (by omega))))
  rw [exec_bcmpTargetWrite, ho.plain (blockWrite_bcmp_hw hc hsub), plainWrite_ro _ _ _ _ hw]

/-- A write of the control word: what it stores, and SKIP cleared where EN is written 1. -/
theorem bcmpWrite_ctl (s : State) (c : Nat) (v : Word32) : bcmpWrite s c 8 v =
    (if regBit v 0 then (s.setReg (bcmpPage c) (bcmpOff c + 8) ((s.reg (bcmpPage c) (bcmpOff c + 8) &&& 0xFC) ||| (v &&& 0xFFFFFF03))).setRegF
        (bcmpPage c) (bcmpOff c + 12) 8 8 0
      else s.setReg (bcmpPage c) (bcmpOff c + 8) ((s.reg (bcmpPage c) (bcmpOff c + 8) &&& 0xFC) ||| (v &&& 0xFFFFFF03)), none) := rfl

theorem bcmpWrite_ctl_cases {s : State} (c : Nat) (v : Word32) (hw : Regs.wf s = true) : ∃ t, bcmpWrite s c 8 v = (t, none) ∧
    t.reg (bcmpPage c) (bcmpOff c + 8) = (s.reg (bcmpPage c) (bcmpOff c + 8) &&& 0xFC) ||| (v &&& 0xFFFFFF03) ∧
    (regBit v 0 = true → t.regF (bcmpPage c) (bcmpOff c + 12) 8 8 = 0) ∧ t.mem = s.mem := by
  obtain ⟨-, hlt, -⟩ := bcmpOff_bounds c
  refine ⟨_, bcmpWrite_ctl s c v, ?_⟩
  split
  · refine ⟨?_, fun _ => regF_setRegF (wf_setReg _ _ _ _ hw) (by decide), rfl⟩
    rw [reg_setRegF_ne (by omega) (by omega) (by omega), reg_setReg _ _ _ _ hw]
  · next h0 => exact ⟨reg_setReg _ _ _ _ hw, fun h => absurd h h0, rfl⟩

/-- The first clause of O14. -/
theorem bcmpCtlWrite_arms {s : State} {id : MasterId} {c : Fin 64} (v : Word32) (hi : s.issues id = true) (hc : c.val < 32)
    (hcu : 4 ≤ c.val ∨ s.custodyOf id = true) (hw : Regs.wf s = true) : ∃ t, exec (.bcmpCtlWrite id c v) s = .next t ∧ t.resp = .done ∧
      t.reg 0x11 (0x108 + c.val * 16) = (s.reg 0x11 (0x108 + c.val * 16) &&& 0xFC) ||| (v &&& 0xFFFFFF03) ∧
      (regBit v 0 = true → t.regF 0x11 (0x10C + c.val * 16) 8 8 = 0) ∧ t.mem = s.mem := by
  obtain ⟨i, hacc⟩ := bcmpAcc_isSome c.val (0x4000 + bcmpRoute c.val * 4) 0xFFFFFF03 0
  have ho := regOpen_bcmp (sub := 8) hi (by omega) (by decide) rfl hacc ((accessBad_bcmp hacc).trans (custody_bcmp hcu))
  have hb := blockWrite_bcmp (s := s) (id := id.val) (v := v) hc (show 8 < 16 by decide)
  obtain ⟨t, ht, hctl, hskip, hmem⟩ := bcmpWrite_ctl_cases c.val v hw
  rw [ht] at hb
  have h8 : 0x108 + c.val * 16 = bcmpOff c.val + 8 := by rw [bcmpOff_fw hc]; omega
  have h12 : 0x10C + c.val * 16 = bcmpOff c.val + 12 := by rw [bcmpOff_fw hc]; omega
  rw [h8, h12, ← bcmpPage_fw hc]
  exact ⟨_, congrArg Host.Outcome.next (ho.done hb), rfl, hctl, hskip, hmem⟩

/-! ### Firing (R60, R61) -/

/-- IRQ_RAW stands in the header. -/
theorem irqRaw_apart {p p' o : Nat} (h : 0x100 ≤ o) : ¬ (p' = p ∧ oIrqRaw = o) := by unfold oIrqRaw; omega

/-- The comparator's flags after a firing: its bit of IRQ_RAW, and LATE. -/
def bcmpFlagged (s : State) (c : Nat) : State :=
  if s.bcmpTarget c < s.time then (s.irqBit (bcmpPage c) (c % 32)).setRegF (bcmpPage c) (bcmpOff c + 12) 0 1 1
  else s.irqBit (bcmpPage c) (c % 32)

/-- A one-shot comparator disarms. -/
theorem bcmpFired_once {s : State} {c : Nat} (h : s.regB (bcmpPage c) (bcmpOff c + 8) 1 = false) :
    bcmpFired s c = (bcmpFlagged s c).setRegF (bcmpPage c) (bcmpOff c + 8) 0 1 0 := by
  unfold State.regB at h
  simp only [bcmpFired, h, bcmpFlagged, decide_eq_true_eq, Bool.false_eq_true, if_false]
/-- A periodic comparator takes its next target and counts what it skipped. -/
theorem bcmpFired_periodic {s : State} {c : Nat} (h : s.regB (bcmpPage c) (bcmpOff c + 8) 1 = true) : ∃ n, bcmpFired s c =
    ((bcmpFlagged s c).setBcmpTarget c ((bcmpAdvance (s.bcmpTarget c) s.time (s.regF (bcmpPage c) (bcmpOff c + 8) 8 24)).2 % 2 ^ 64)).setRegF
      (bcmpPage c) (bcmpOff c + 12) 8 8 n := by
  unfold State.regB at h
  exact ⟨_, by simp only [bcmpFired, h, bcmpFlagged, decide_eq_true_eq, if_true]; rfl⟩

section
variable (s : State) (c : Nat)
@[simp] theorem bcmpFlagged_mem : (bcmpFlagged s c).mem = s.mem := by
  unfold bcmpFlagged; split <;> exact irqBit_mem _ _ _
@[simp] theorem bcmpFlagged_belf : (bcmpFlagged s c).belf = s.belf := by
  unfold bcmpFlagged; split <;> exact irqBit_belf _ _ _
end

section
variable {s : State} {c : Nat} (hc : c < 64)
theorem wf_bcmpFlagged (hw : Regs.wf s = true) : Regs.wf (bcmpFlagged s c) = true := by
  unfold bcmpFlagged
  split
  · exact wf_setRegF _ _ _ _ _ (wf_irqBit _ _ hw)
  · exact wf_irqBit _ _ hw
include hc
/-- Target and control word stay. -/
theorem reg_bcmpFlagged {o : Nat} (ho : 0x100 ≤ o) (hlt : o < 4096) (hne : o ≠ bcmpOff c + 12) :
    (bcmpFlagged s c).reg (bcmpPage c) o = s.reg (bcmpPage c) o := by
  obtain ⟨-, hb, -⟩ := bcmpOff_bounds c
  have hirq : (s.irqBit (bcmpPage c) (c % 32)).reg (bcmpPage c) o = s.reg (bcmpPage c) o :=
    reg_irqBit_ne _ _ _ hlt (by unfold bcmpPage; omega) (by unfold oIrqRaw; omega)
  unfold bcmpFlagged
  split
  · rw [reg_setRegF_ne (by omega) hlt (by omega), hirq]
  · exact hirq
omit hc
theorem irqRaw_bcmpFlagged (hw : Regs.wf s = true) : regBit ((bcmpFlagged s c).reg (bcmpPage c) oIrqRaw) (c % 32) = true := by
  obtain ⟨hlo, hb, -⟩ := bcmpOff_bounds c
  have hirq := regBit_irqBit (page := bcmpPage c) (n := c % 32) hw (Nat.mod_lt _ (by decide))
  unfold bcmpFlagged
  split
  · rwa [reg_setRegF_ne (by omega) (by decide) (irqRaw_apart (by omega))]
  · exact hirq
theorem late_bcmpFlagged (hw : Regs.wf s = true) (hl : s.bcmpTarget c < s.time) :
    (bcmpFlagged s c).regB (bcmpPage c) (bcmpOff c + 12) 0 = true := by
  rw [bcmpFlagged, if_pos hl, State.regB, reg_setRegF (wf_irqBit _ _ hw), regBit_regSet _ _ _ _ (by decide)]
  rfl
end

/-- A target is read back. -/
theorem bcmpTarget_setBcmpTarget {s : State} {c x : Nat} (hw : Regs.wf s = true) (hx : x < 2 ^ 64) :
    (s.setBcmpTarget c x).bcmpTarget c = x := by
  obtain ⟨-, hb, -⟩ := bcmpOff_bounds c
  have hhi : (s.setBcmpTarget c x).reg (bcmpPage c) (bcmpOff c + 4) = w32 (x / 2 ^ 32) := reg_setReg _ _ _ _ (wf_setReg _ _ _ _ hw)
  have hlo : (s.setBcmpTarget c x).reg (bcmpPage c) (bcmpOff c) = w32 x := by
    rw [State.setBcmpTarget, reg_setReg_ne _ _ _ _ _ _ (by omega) (by omega) (by omega), reg_setReg _ _ _ _ hw]
  rw [State.bcmpTarget, hhi, hlo, w32, w32, BitVec.toNat_ofNat, BitVec.toNat_ofNat]
  omega

/-- The next target of a periodic comparator that is due lies after the time, and no further than one period (R61). -/
theorem bcmpAdvance_after {target time period : Nat} (h : target ≤ time) :
    time < (bcmpAdvance target time period).2 ∧ (bcmpAdvance target time period).2 ≤ time + max 1 period * 1024 := by
  have hp : 0 < max 1 period * 1024 := by omega
  unfold bcmpAdvance
  dsimp only
  generalize max 1 period * 1024 = p at hp
  split
  · next hle =>
    have hdiv := Nat.div_add_mod (time - (target + p)) p
    have hmod := Nat.mod_lt (time - (target + p)) hp
    rw [Nat.add_mul, Nat.one_mul, Nat.mul_comm ((time - (target + p)) / p)]
    omega
  · omega

/-- Comparators 4 to 31 have no action of hardware (R63). -/
theorem comparatorFire_fw {s : State} {c : Nat} (h4 : 4 ≤ c) (h : c < 32) (hd : bcmpDue s c = true) : comparatorFire s c = bcmpFired s c := by
  rw [comparatorFire, if_pos hd, routeAction, if_neg (by omega), if_neg (by omega), if_neg (by omega), if_neg (by omega)]

section
variable {s : State} {c : Nat} (hc : c < 32) (hw : Regs.wf s = true)
include hc hw

/-- What firing does to a one-shot comparator (R60). -/
theorem bcmpFired_once_cases (h : s.regB (bcmpPage c) (bcmpOff c + 8) 1 = false) :
    (bcmpFired s c).bcmpEn c = false ∧ (bcmpFired s c).bcmpTarget c = s.bcmpTarget c ∧
      (s.bcmpTarget c < s.time → (bcmpFired s c).regB (bcmpPage c) (bcmpOff c + 12) 0 = true) := by
  obtain ⟨hlo, hb, -⟩ := bcmpOff_bounds c
  have hwf := wf_bcmpFlagged (c := c) hw
  have hne : ∀ o, o < 4096 → o ≠ bcmpOff c + 8 → (bcmpFired s c).reg (bcmpPage c) o = (bcmpFlagged s c).reg (bcmpPage c) o := fun o ho hn => by
    rw [bcmpFired_once h, reg_setRegF_ne (by omega) ho (by omega)]
  refine ⟨?_, ?_, fun hl => ?_⟩
  · rw [State.bcmpEn, State.regB, bcmpFired_once h, reg_setRegF hwf, regBit_regSet _ _ _ _ (by decide)]
    rfl
  · rw [State.bcmpTarget, hne _ (by omega) (by omega), hne _ (by omega) (by omega), reg_bcmpFlagged (by omega) (by omega) (by omega) (by omega),
      reg_bcmpFlagged (by omega) (by omega) (by omega) (by omega), State.bcmpTarget]
  · rw [State.regB, hne _ (by omega) (by omega)]
    exact late_bcmpFlagged hw hl

/-- What firing does to a periodic comparator (R61). -/
theorem bcmpFired_periodic_cases (hd : bcmpDue s c = true) (h : s.regB (bcmpPage c) (bcmpOff c + 8) 1 = true) :
    (bcmpFired s c).bcmpEn c = true ∧ (s.time + 2 ^ 35 < 2 ^ 64 → s.time < (bcmpFired s c).bcmpTarget c) := by
  obtain ⟨hlo, hb, -⟩ := bcmpOff_bounds c
  have hwf := wf_bcmpFlagged (c := c) hw
  obtain ⟨n, hn⟩ := bcmpFired_periodic h
  have hen : s.bcmpEn c = true ∧ s.bcmpTarget c ≤ s.time := by simpa [bcmpDue] using hd
  obtain ⟨hen, hle⟩ := hen
  refine ⟨?_, fun hlt => ?_⟩
  · rw [State.bcmpEn, State.regB, hn, reg_setRegF_ne (by omega) (by omega) (by omega), State.setBcmpTarget,
      reg_setReg_ne _ _ _ _ _ _ (by omega) (by omega) (by omega), reg_setReg_ne _ _ _ _ _ _ (by omega) (by omega) (by omega),
      reg_bcmpFlagged (by omega) (by omega) (by omega) (by omega)]
    exact hen
  · obtain ⟨hafter, hnear⟩ := bcmpAdvance_after (period := s.regF (bcmpPage c) (bcmpOff c + 8) 8 24) hle
    have hperiod : s.regF (bcmpPage c) (bcmpOff c + 8) 8 24 < 2 ^ 24 := Nat.mod_lt _ (by decide)
    rw [hn, State.bcmpTarget, reg_setRegF_ne (by omega) (by omega) (by omega), reg_setRegF_ne (by omega) (by omega) (by omega),
      ← State.bcmpTarget, bcmpTarget_setBcmpTarget hwf (Nat.mod_lt _ (by decide)), Nat.mod_eq_of_lt (by omega)]
    exact hafter

theorem irqRaw_bcmpFired : regBit ((bcmpFired s c).reg (bcmpPage c) oIrqRaw) c = true := by
  obtain ⟨hlo, hb, -⟩ := bcmpOff_bounds c
  have hraw := irqRaw_bcmpFlagged (c := c) hw
  rw [Nat.mod_eq_of_lt hc] at hraw
  cases h : s.regB (bcmpPage c) (bcmpOff c + 8) 1 with
  | false => rwa [bcmpFired_once h, reg_setRegF_ne (by omega) (by decide) (irqRaw_apart (by omega))]
  | true =>
    obtain ⟨n, hn⟩ := bcmpFired_periodic h
    rwa [hn, reg_setRegF_ne (by omega) (by decide) (irqRaw_apart (by omega)), State.setBcmpTarget, reg_setReg_ne _ _ _ _ _ _ (by omega) (by decide) (irqRaw_apart (by omega)),
      reg_setReg_ne _ _ _ _ _ _ (by omega) (by decide) (irqRaw_apart (by omega))]
omit hc hw

theorem bcmpFired_frame : (bcmpFired s c).mem = s.mem ∧ (bcmpFired s c).belf = s.belf := by
  cases h : s.regB (bcmpPage c) (bcmpOff c + 8) 1 with
  | false =>
    rw [bcmpFired_once h]
    exact ⟨bcmpFlagged_mem _ _, bcmpFlagged_belf _ _⟩
  | true =>
    obtain ⟨n, hn⟩ := bcmpFired_periodic h
    rw [hn]
    exact ⟨bcmpFlagged_mem _ _, bcmpFlagged_belf _ _⟩
end

/-- The third clause of O14: a firing. -/
theorem comparatorFire_cases {s : State} {c : Fin 64} (h4 : 4 ≤ c.val) (hc : c.val < 32) (hd : bcmpDue s c.val = true)
    (hw : Regs.wf s = true) :
    ∃ t, exec (.comparatorFire c) s = .next t ∧ regBit (t.reg 0x11 oIrqRaw) c.val = true ∧ t.mem = s.mem ∧ t.belf = s.belf ∧
      (s.regB 0x11 (0x108 + c.val * 16) 1 = false →
        t.bcmpEn c.val = false ∧ t.bcmpTarget c.val = s.bcmpTarget c.val ∧
        (s.bcmpTarget c.val < s.time → t.regB 0x11 (0x10C + c.val * 16) 0 = true)) ∧
      (s.regB 0x11 (0x108 + c.val * 16) 1 = true → t.bcmpEn c.val = true ∧
        (s.time + 2 ^ 35 < 2 ^ 64 → s.time < t.bcmpTarget c.val)) := by
  have h8 : 0x108 + c.val * 16 = bcmpOff c.val + 8 := by rw [bcmpOff_fw hc]; omega
  have h12 : 0x10C + c.val * 16 = bcmpOff c.val + 12 := by rw [bcmpOff_fw hc]; omega
  obtain ⟨hmem, hbelf⟩ := bcmpFired_frame (s := s) (c := c.val)
  rw [h8, h12, ← bcmpPage_fw hc]
  exact ⟨_, congrArg Host.Outcome.next (comparatorFire_fw h4 hc hd), irqRaw_bcmpFired hc hw, hmem, hbelf, bcmpFired_once_cases hc hw,
    bcmpFired_periodic_cases hc hw hd⟩

/-- Settles O14: arming, a comparator that is not due, a firing, and the two kinds of writes that a comparator does not take. -/
theorem comparatorsArmAndFire : Obligations.ComparatorsArmAndFire := by
  refine ⟨fun s id c v hi hc hcu hw => bcmpCtlWrite_arms v hi hc hcu hw, fun s c hd => ?_, fun s c h4 hc hd hw => comparatorFire_cases h4 hc hd hw,
    fun s id c high v hi hc hop => bcmpTargetWrite_operator high v hi hc hop, fun s id c high v hi hc hw => bcmpTargetWrite_hw high v hi hc hw⟩
  show ok (comparatorFire s c.val) = _
  rw [comparatorFire, hd]
  rfl

end Sys2Proof.Proofs
end

section
/-! PROOF. The registers of the timers (R65-R73): what each write stores and each read answers. -/
namespace Sys2Proof.Proofs
open Sys2Proof.Machine Sys2Proof.Laws

/-! ### A timer's registers -/

theorem tmrOff_bounds {t : Nat} (h : t < 8) : 0x100 ≤ tmrOff t ∧ tmrOff t + 32 ≤ 0x200 ∧ tmrOff t % 32 = 0 := by unfold tmrOff; omega
/-- The registers of two timers of a page are apart. -/
theorem tmrOff_apart {t u a b : Nat} (h : t ≠ u) (ha : a < 32) (hb : b < 32) : tmrOff t + a ≠ tmrOff u + b := by unfold tmrOff; omega

theorem pageBlock_tmr : ∀ p : Fin 12, pageBlock (tmrPage p.val) = some (.tmr, p.val) := by decide

theorem arrIx_tmr {t sub : Nat} (h : t < 8) (hs : sub < 32) : arrIx (tmrOff t + sub) 0x100 32 8 = some (t, sub) := arrIx_elem h hs

section
variable {s : State} {id : MasterId} {p : Fin 12} {t : Fin 8} {sub : Nat} {v : Word32}

theorem regInfo_tmr (hs : sub < 32) : regInfo (tmrPage p.val) (tmrOff t.val + sub) = timerInfo t.val sub := by
  have hlo : ¬ tmrOff t.val + sub < 0x100 := by unfold tmrOff; omega
  simp only [regInfo, pageBlock_tmr p, if_neg hlo, blockInfo, tmrInfo, arrIx_tmr t.isLt hs]

/-- Every register of a timer is open to both worlds (R65). -/
theorem regOpen_tmr {i : RegInfo} (hi : s.issues id = true) (hs : sub < 32) (ha : sub % 4 = 0) (hr : timerInfo t.val sub = some i)
    (hw : i.rwc = 0) (hc : i.custody = false) : RegOpen s id (tmrPage p.val) (tmrOff t.val + sub) .tmr p.val i where
  issues := hi
  page_lt := by unfold tmrPage; omega
  above := by unfold tmrOff; omega
  off_lt := by unfold tmrOff; omega
  aligned := by unfold tmrOff; omega
  block := pageBlock_tmr p
  power := powerBad_of_page (by unfold tmrOff oCtl; omega) (.inl (by unfold tmrPage; omega))
  info := (regInfo_tmr hs).trans hr
  identity := by simp only [identityBad, pageBlock_tmr p]
  access := by simp [accessBad, hw, hc]

theorem blockWrite_tmr (hs : sub < 32) :
    blockWrite s id.val .tmr p.val (tmrOff t.val + sub) v = some (tmrWrite s p.val t.val sub v, none) := by
  simp only [blockWrite, tmrPageWrite, arrIx_tmr t.isLt hs]

/-- A write command to a register of a timer. -/
theorem cmdReg_tmr {i : RegInfo} (hi : s.issues id = true) (hs : sub < 32) (ha : sub % 4 = 0) (hr : timerInfo t.val sub = some i)
    (hw : i.rwc = 0) (hc : i.custody = false) :
    cmdReg s id (tmrPage p.val) (tmrOff t.val + sub) v = { tmrWrite s p.val t.val sub v with resp := .done } :=
  (regOpen_tmr hi hs ha hr hw hc).done (blockWrite_tmr hs)
end

/-! ### Writes (R66-R71) -/

section
variable (s : State) (p t : Nat) (v : Word32)
theorem tmrWrite_tctl : tmrWrite s p t 0 v = tctlWrite s p t v := if_pos rfl
theorem tmrWrite_pre : tmrWrite s p t 0x14 v =
    (s.setReg (tmrPage p) (tmrOff t + 0x14) v).setRegF (tmrPage p) (tmrOff t) 24 1 1 := by
  rw [tmrWrite, if_neg (by decide), if_pos rfl]
theorem tmrWrite_store {sub : Nat} (h0 : sub ≠ 0) (h14 : sub ≠ 0x14) (h18 : sub ≠ 0x18) (h8 : sub ≠ 8) :
    tmrWrite s p t sub v = s.setReg (tmrPage p) (tmrOff t + sub) v := by
  rw [tmrWrite, if_neg h0, if_neg h14, if_neg h18, if_neg h8]
end

section
variable {s : State} {id : MasterId} (p : Fin 12) (t : Fin 8) (v : Word32) (hi : s.issues id = true)
include hi

/-- A write to COUNT, RELOAD or CMP stores the word (R68, R71). -/
theorem cmdReg_tmr_store {sub : Nat} (h : sub = 4 ∨ sub = 0xC ∨ sub = 0x10) : cmdReg s id (tmrPage p.val) (tmrOff t.val + sub) v =
    { s.setReg (tmrPage p.val) (tmrOff t.val + sub) v with resp := .done } := by
  have hinfo : ∃ i, timerInfo t.val sub = some i ∧ i.rwc = 0 ∧ i.custody = false := by
    rcases h with rfl | rfl | rfl <;> exact ⟨_, rfl, rfl, rfl⟩
  obtain ⟨i, hr, hw, hc⟩ := hinfo
  rw [cmdReg_tmr hi (by omega) (by omega) hr hw hc, tmrWrite_store _ _ _ _ (by omega) (by omega) (by omega) (by omega)]

theorem exec_cmpPreWrite : exec (.cmpPreWrite id p t v) s =
    .next { (s.setReg (tmrPage p.val) (tmrOff t.val + 0x14) v).setRegF (tmrPage p.val) (tmrOff t.val) 24 1 1 with resp := .done } := by
  have h := cmdReg_tmr (p := p) (t := t) (v := v) (sub := 0x14) (i := { reset := 0xFFFFFFFF, rw := 0xFFFFFFFF }) hi (by decide) rfl rfl rfl rfl
  rw [tmrWrite_pre] at h
  exact congrArg Host.Outcome.next h

theorem exec_tctlWrite : exec (.tctlWrite id p t v) s = .next { tctlWrite s p.val t.val v with resp := .done } := by
  have h := cmdReg_tmr (p := p) (t := t) (v := v) (sub := 0) (i := { rw := if t.val % 2 = 1 then 0x00FFFF7F else 0x00FFFF7B })
    hi (by decide) rfl rfl rfl rfl
  rw [tmrWrite_tctl] at h
  exact congrArg Host.Outcome.next h
end

/-- The first clause of O15. -/
theorem exec_timerStores : ∀ r ∈ timerStores, ∀ (s : State) (id : MasterId) (p : Fin 12) (t : Fin 8) (v : Word32), s.issues id = true →
    exec (r.1 id p t v) s = .next { s.setReg (tmrPage p.val) (tmrOff t.val + r.2) v with resp := .done } := by
  intro r hr s id p t v hi
  simp only [timerStores, List.mem_cons, List.not_mem_nil, or_false] at hr
  rcases hr with rfl | rfl | rfl
  · exact congrArg Host.Outcome.next (cmdReg_tmr_store p t v hi (.inr (.inr rfl)))
  · exact congrArg Host.Outcome.next (cmdReg_tmr_store p t v hi (.inl rfl))
  · exact congrArg Host.Outcome.next (cmdReg_tmr_store p t v hi (.inr (.inl rfl)))

/-! ### The control word (R66, R67, R72) -/

theorem testBit_b2n (b : Bool) (j : Nat) : (b2n b).testBit j = (decide (j = 0) && b) := by
  cases b with
  | false => simp [b2n]
  | true =>
    rw [Bool.and_true, Bool.eq_iff_iff, decide_eq_true_eq]
    exact Nat.testBit_one_eq_true_iff_self_eq_zero

/-- The word that TCTL takes, bit by bit. -/
theorem tctlWord_bits (pend dbg link pre en : Bool) (v : Word32) {k : Nat} (h : k < 32) :
    regBit (w32 (b2n pend * 2 ^ 24 + regFld v 8 16 * 256 + regFld v 4 3 * 16 + b2n dbg * 8 + b2n link * 4 + b2n pre * 2 + b2n en)) k =
      if k = 24 then pend else if 24 < k then false else if 8 ≤ k then regBit v k else if k = 7 then false else if 4 ≤ k then regBit v k
      else if k = 3 then dbg else if k = 2 then link else if k = 1 then pre else en := by
  have hb : ∀ b, b2n b < 2 := fun b => by cases b <;> decide
  have hf : regFld v 8 16 < 2 ^ 16 := Nat.mod_lt _ (by decide)
  have hs : regFld v 4 3 < 2 ^ 3 := Nat.mod_lt _ (by decide)
  have hen := hb en
  have hpre := hb pre
  have hlink := hb link
  have hdbg := hb dbg
  have e : b2n pend * 2 ^ 24 + regFld v 8 16 * 256 + regFld v 4 3 * 16 + b2n dbg * 8 + b2n link * 4 + b2n pre * 2 + b2n en =
      2 ^ 24 * b2n pend + (2 ^ 8 * regFld v 8 16 + (2 ^ 4 * regFld v 4 3 + (2 ^ 3 * b2n dbg + (2 ^ 2 * b2n link + (2 ^ 1 * b2n pre + b2n en))))) := by
    omega
  rw [testBit_w32 _ h, e, Nat.testBit_two_pow_mul_add _ (by omega), Nat.testBit_two_pow_mul_add _ (by omega),
    Nat.testBit_two_pow_mul_add _ (by omega), Nat.testBit_two_pow_mul_add _ (by omega), Nat.testBit_two_pow_mul_add _ (by omega),
    Nat.testBit_two_pow_mul_add _ (by omega)]
  simp only [testBit_b2n, testBit_regFld]
  clear e
  interval_cases k <;> simp

/-- The state after a write of TCTL differs in that register, the timer's hidden state and the latches. -/
theorem tctlWrite_only {s : State} {p t : Nat} {v : Word32} (hc : s.c5 p = false) (hv : regFld v 4 3 < 3) :
    ∃ ts ls, tctlWrite s p t v = { s.setReg (tmrPage p) (tmrOff t)
      (w32 (b2n (regBit (s.reg (tmrPage p) (tmrOff t)) 24) * 2 ^ 24 + regFld v 8 16 * 256 + regFld v 4 3 * 16 + b2n (regBit v 3) * 8 +
        b2n (regBit v 2 && decide (t % 2 = 1)) * 4 + b2n (regBit v 1) * 2 + b2n (regBit v 0))) with timers := ts, tlatch := ls } := by
  simp only [tctlWrite, hc, if_pos hv, Bool.false_and, Bool.or_false]
  split <;> exact ⟨_, _, rfl⟩

/-- The fourth clause of O15's writes. -/
theorem tctlWrite_cases {s : State} {id : MasterId} (p : Fin 12) (t : Fin 8) (v : Word32) (hi : s.issues id = true)
    (hc : s.c5 p.val = false) (hv : regFld v 4 3 < 3) (hw : Regs.wf s = true) :
    ∃ u, exec (.tctlWrite id p t v) s = .next u ∧ u.resp = .done ∧ u.mem = s.mem ∧
      u.reg (tmrPage p.val) oIrqRaw = s.reg (tmrPage p.val) oIrqRaw ∧
      (∀ k < 32, regBit (u.reg (tmrPage p.val) (tmrOff t.val)) k =
        (if k = 24 then regBit (s.reg (tmrPage p.val) (tmrOff t.val)) 24
         else if k = 2 then regBit v 2 && decide (t.val % 2 = 1)
         else if k < 7 ∨ (8 ≤ k ∧ k < 24) then regBit v k else false)) := by
  obtain ⟨hlo, hb, -⟩ := tmrOff_bounds t.isLt
  obtain ⟨ts, ls, hu⟩ := tctlWrite_only (t := t.val) hc hv
  refine ⟨_, exec_tctlWrite p t v hi, rfl, ?_, ?_, fun k hk => ?_⟩
  · rw [hu]
    rfl
  · rw [hu]
    exact reg_setReg_ne _ _ _ _ _ _ (by omega) (by decide) (irqRaw_apart hlo)
  · rw [hu]
    refine (congrArg (regBit · k) (reg_setReg _ _ _ _ hw)).trans ((tctlWord_bits _ _ _ _ _ _ hk).trans ?_)
    interval_cases k <;> rfl

/-! ### Reads of a linked pair (R73) -/

theorem blockRead_tmr_count {s : State} {id : MasterId} {p t : Nat} (ht : t < 8) :
    blockRead s id .tmr p (tmrOff t + 4) = some (countRead s id.val p t) := by
  have hst : ¬ tmrOff t + 4 = 0x00C := by unfold tmrOff; omega
  simp only [blockRead, tmrPageRead, if_neg hst, arrIx_tmr ht (show 4 < 32 by decide)]

theorem exec_linkedCountRead {s u : State} {id : MasterId} {p : Fin 12} {t : Fin 8} {v : Word32} (hi : s.issues id = true)
    (h : countRead s id.val p.val t.val = (u, v)) :
    exec (.linkedCountRead id p t) s = .next { u with resp := .data (leBytes 4 v.toNat) false } := by
  have ho := regOpen_tmr (p := p) (t := t) (sub := 4) (i := { rw := 0xFFFFFFFF }) hi (by decide) rfl rfl rfl rfl
  refine congrArg Host.Outcome.next (cmdRegRead_done hi ho.page_lt ho.above ho.off_lt ho.aligned ho.block ho.info ?_ ?_)
  · simp only [identityBad, pageBlock_tmr p]
  · rw [blockRead_tmr_count t.isLt, h]

theorem countRead_low {s : State} {id p t : Nat} (h : s.tLow p t = true) : countRead s id p t =
    ({ s with tlatch := sput s.tlatch (tmrIx p (t + 1) * 32 + id) (s.reg (tmrPage p) (tmrOff (t + 1) + 4)) 0 },
      s.reg (tmrPage p) (tmrOff t + 4)) := by simp only [countRead, h, if_true]
/-- A timer is not both halves of a pair. -/
theorem tLow_of_tLink {s : State} {p t : Nat} (h : s.tLink p t = true) : s.tLow p t = false := by
  have ht : t % 2 = 1 := by
    simp only [State.tLink, Bool.and_eq_true, decide_eq_true_eq] at h
    exact h.1
  simp [State.tLow, ht]
theorem countRead_high {s : State} {id p t : Nat} (h : s.tLink p t = true) :
    countRead s id p t = (s, sget s.tlatch (tmrIx p t * 32 + id) 0) := by
  simp only [countRead, tLow_of_tLink h, h, Bool.false_eq_true, if_false, if_true]

end Sys2Proof.Proofs
end

section
/-! PROOF. Ticks of the timers, and what sleep leaves to make up (R66-R75). -/
namespace Sys2Proof.Proofs
open Sys2Proof.Machine Sys2Proof.Laws

/-! ### A tick of one timer (R66, R68-R70) -/

section
variable (x : TView) (raw : Bool)
theorem tvTick_count : (tvTick x raw).1.count = if x.reload ≤ x.count then 0 else x.count + 1 := by
  simp only [tvTick, decide_eq_true_eq]
theorem tvTick_cmp : (tvTick x raw).1.cmp =
    if x.reload ≤ x.count ∧ x.preEn = true ∧ x.prePend = true ∧ raw = false then x.pre else x.cmp := by
  simp only [tvTick, Bool.and_eq_true, decide_eq_true_eq, Bool.not_eq_true']
/-- In the cycle of a raw write the live comparator and PRE_PEND stay (R70). -/
theorem tvTick_raw : (tvTick x true).1.cmp = x.cmp ∧ (tvTick x true).1.prePend = x.prePend := by
  simp [tvTick]
end

/-- A view that four registers of 32 bits can hold. -/
def viewFits (x : TView) : Prop := x.count < 2 ^ 32 ∧ x.reload < 2 ^ 32 ∧ x.cmp < 2 ^ 32 ∧ x.pre < 2 ^ 32

theorem fits_tview (s : State) (p t : Nat) : viewFits (s.tview p t) := ⟨BitVec.isLt _, BitVec.isLt _, BitVec.isLt _, BitVec.isLt _⟩
theorem fits_tvTick {x : TView} (raw : Bool) (h : viewFits x) : viewFits (tvTick x raw).1 := by
  obtain ⟨hcount, hreload, hcmp, hpre⟩ := h
  refine ⟨?_, hreload, ?_, hpre⟩
  · rw [tvTick_count]
    split <;> omega
  · rw [tvTick_cmp]
    split <;> assumption

section
variable {s : State} {p t : Nat} {x : TView}

theorem toNat_w32 {n : Nat} (h : n < 2 ^ 32) : (w32 n).toNat = n := by rw [w32, BitVec.toNat_ofNat, Nat.mod_eq_of_lt h]

/-- The registers that a view does not touch. -/
theorem reg_setTview_ne (x : TView) {p' o : Nat} (ht : t < 8) (ho : o < 4096)
    (h : ¬ (p' = tmrPage p ∧ (o = tmrOff t ∨ o = tmrOff t + 4 ∨ o = tmrOff t + 0x10))) : (s.setTview p t x).reg p' o = s.reg p' o := by
  obtain ⟨-, hb, -⟩ := tmrOff_bounds ht
  rw [State.setTview, reg_setRegF_ne (by omega) ho (by tauto), reg_setReg_ne _ _ _ _ _ _ (by omega) ho (by tauto),
    reg_setReg_ne _ _ _ _ _ _ (by omega) ho (by tauto)]

theorem wf_setTview (h : Regs.wf s = true) : Regs.wf (s.setTview p t x) = true := wf_setRegF _ _ _ _ _ (wf_setReg _ _ _ _ (wf_setReg _ _ _ _ h))

/-- A view is read back, where it keeps what no tick writes. -/
theorem tview_setTview (ht : t < 8) (hw : Regs.wf s = true) (hf : viewFits x) (hr : x.reload = (s.tview p t).reload)
    (hp : x.pre = (s.tview p t).pre) (he : x.preEn = (s.tview p t).preEn) : (s.setTview p t x).tview p t = x := by
  obtain ⟨-, hb, -⟩ := tmrOff_bounds ht
  obtain ⟨hfc, -, hfm, -⟩ := hf
  have hctl : (s.setTview p t x).reg (tmrPage p) (tmrOff t) = regSet (s.reg (tmrPage p) (tmrOff t)) 24 1 (b2n x.prePend) := by
    rw [State.setTview, reg_setRegF (wf_setReg _ _ _ _ (wf_setReg _ _ _ _ hw)), reg_setReg_ne _ _ _ _ _ _ (by omega) (by omega) (by omega),
      reg_setReg_ne _ _ _ _ _ _ (by omega) (by omega) (by omega)]
  have hcount : (s.setTview p t x).reg (tmrPage p) (tmrOff t + 4) = w32 x.count := by
    rw [State.setTview, reg_setRegF_ne (by omega) (by omega) (by omega), reg_setReg_ne _ _ _ _ _ _ (by omega) (by omega) (by omega),
      reg_setReg _ _ _ _ hw]
  have hcmp : (s.setTview p t x).reg (tmrPage p) (tmrOff t + 0x10) = w32 x.cmp := by
    rw [State.setTview, reg_setRegF_ne (by omega) (by omega) (by omega), reg_setReg _ _ _ _ (wf_setReg _ _ _ _ hw)]
  have hpend : regBit (regSet (s.reg (tmrPage p) (tmrOff t)) 24 1 (b2n x.prePend)) 24 = x.prePend := by
    rw [regBit_regSet _ _ _ _ (by decide), if_pos (by decide), testBit_b2n]
    rfl
  have hen : regBit (regSet (s.reg (tmrPage p) (tmrOff t)) 24 1 (b2n x.prePend)) 1 = x.preEn := by
    rw [regBit_regSet _ _ _ _ (by decide), if_neg (by decide), he]
    rfl
  rw [State.tview, State.regB, State.regB, hctl, hcount, hcmp, hpend, hen, toNat_w32 hfc, toNat_w32 hfm,
    reg_setTview_ne x ht (by omega) (by omega), reg_setTview_ne x ht (by omega) (by omega)]
  cases x
  cases hr
  cases hp
  rfl

/-- A view depends on the registers of its timer alone. -/
theorem tview_congr {u : State} (h : ∀ k < 32, u.reg (tmrPage p) (tmrOff t + k) = s.reg (tmrPage p) (tmrOff t + k)) :
    u.tview p t = s.tview p t := by
  have h0 := h 0 (by decide)
  rw [Nat.add_zero] at h0
  simp only [State.tview, State.regB, h0, h 4 (by decide), h 0xC (by decide), h 0x10 (by decide), h 0x14 (by decide)]

theorem tview_setTview_ne {u : Nat} (ht : t < 8) (hu : u < 8) (hne : u ≠ t) : (s.setTview p t x).tview p u = s.tview p u := by
  obtain ⟨-, hb, -⟩ := tmrOff_bounds hu
  refine tview_congr fun k hk => reg_setTview_ne x ht (by omega) fun ⟨_, h⟩ => ?_
  have h0 := tmrOff_apart hne hk (show 0 < 32 by decide)
  have h4 := tmrOff_apart hne hk (show 4 < 32 by decide)
  have h16 := tmrOff_apart hne hk (show 0x10 < 32 by decide)
  omega

theorem tmrPage_ne (hp : p < 12) : tmrPage p ≠ 0x40 := by unfold tmrPage; omega

theorem tview_tmrFlags (hp : p < 12) {u : Nat} (hu : u < 8) (ovf mat : Bool) : (tmrFlags s p t ovf mat).tview p u = s.tview p u := by
  obtain ⟨hlo, hb, -⟩ := tmrOff_bounds hu
  exact tview_congr fun k hk => reg_irq_ne _ _ _ (by omega) (tmrPage_ne hp) (by unfold oIrqRaw; omega)

theorem flagWord_bits (ovf mat : Bool) (t : Nat) :
    (b2n ovf * 2 ^ (2 * t + 1) + b2n mat * 2 ^ (2 * t)).testBit (2 * t + 1) = ovf ∧
      (b2n ovf * 2 ^ (2 * t + 1) + b2n mat * 2 ^ (2 * t)).testBit (2 * t) = mat := by
  have e : b2n ovf * 2 ^ (2 * t + 1) + b2n mat * 2 ^ (2 * t) = 2 ^ (2 * t) * (b2n ovf * 2 + b2n mat) := by rw [Nat.pow_succ]; ring
  rw [e, Nat.testBit_two_pow_mul, Nat.testBit_two_pow_mul, Nat.add_sub_cancel_left, Nat.sub_self]
  cases ovf <;> cases mat <;> simp [b2n] <;> decide

/-- The flags of a tick are set, and none is cleared. -/
theorem irqRaw_tmrFlags (ht : t < 8) (hw : Regs.wf s = true) (ovf mat : Bool) :
    (ovf = true → regBit ((tmrFlags s p t ovf mat).reg (tmrPage p) oIrqRaw) (2 * t + 1) = true) ∧
    (mat = true → regBit ((tmrFlags s p t ovf mat).reg (tmrPage p) oIrqRaw) (2 * t) = true) ∧
    ∀ k, regBit (s.reg (tmrPage p) oIrqRaw) k = true → regBit ((tmrFlags s p t ovf mat).reg (tmrPage p) oIrqRaw) k = true := by
  obtain ⟨hraw, -⟩ := irq_frame (page := tmrPage p) (bits := w32 (b2n ovf * 2 ^ (2 * t + 1) + b2n mat * 2 ^ (2 * t))) hw
  obtain ⟨hovf, hmat⟩ := flagWord_bits ovf mat t
  simp only [tmrFlags, hraw, regBit_or]
  rw [testBit_w32 _ (by omega), testBit_w32 _ (by omega), hovf, hmat]
  exact ⟨fun h => by rw [h, Bool.or_true], fun h => by rw [h, Bool.or_true], fun k h => by rw [h, Bool.true_or]⟩

/-- What a tick of one timer does. -/
theorem tmrTickOne_cases (hp : p < 12) (ht : t < 8) (hw : Regs.wf s = true) (raw : Bool) :
    (tmrTickOne s p t raw).1.tview p t = (tvTick (s.tview p t) raw).1 ∧
    (∀ u < 8, u ≠ t → (tmrTickOne s p t raw).1.tview p u = s.tview p u) ∧
    ((s.tview p t).reload ≤ (s.tview p t).count → regBit ((tmrTickOne s p t raw).1.reg (tmrPage p) oIrqRaw) (2 * t + 1) = true) ∧
    ((tvTick (s.tview p t) raw).1.count = (tvTick (s.tview p t) raw).1.cmp →
      regBit ((tmrTickOne s p t raw).1.reg (tmrPage p) oIrqRaw) (2 * t) = true) ∧
    (∀ k, regBit (s.reg (tmrPage p) oIrqRaw) k = true → regBit ((tmrTickOne s p t raw).1.reg (tmrPage p) oIrqRaw) k = true) ∧
    Regs.wf (tmrTickOne s p t raw).1 = true := by
  have hwf := wf_setTview (p := p) (t := t) (x := (tvTick (s.tview p t) raw).1) hw
  obtain ⟨hovf, hmat, hkeep⟩ := irqRaw_tmrFlags (p := p) ht hwf (tvTick (s.tview p t) raw).2.1 (tvTick (s.tview p t) raw).2.2
  obtain ⟨hb, -, -⟩ := tmrOff_bounds ht
  refine ⟨?_, fun u hu hne => ?_, fun h => hovf (decide_eq_true h), fun h => hmat (decide_eq_true h), fun k h => hkeep k ?_, wf_irq _ _ hwf⟩
  · rw [tmrTickOne, tview_tmrFlags hp ht]
    exact tview_setTview ht hw (fits_tvTick raw (fits_tview s p t)) rfl rfl rfl
  · rw [tmrTickOne, tview_tmrFlags hp hu]
    exact tview_setTview_ne ht hu hne
  · rwa [reg_setTview_ne _ ht (by decide) (by unfold oIrqRaw; omega)]
theorem tmrTickOne_ovf (s : State) (p t : Nat) (raw : Bool) :
    (tmrTickOne s p t raw).2 = decide ((s.tview p t).reload ≤ (s.tview p t).count) := rfl
theorem tmrTickOne_mem (s : State) (p t : Nat) (raw : Bool) : (tmrTickOne s p t raw).1.mem = s.mem := irq_mem _ _ _
end

/-! ### A tick with the linked half (R66, R72) -/

/-- The low half of a linked pair is not the last timer of a page. -/
theorem tLow_lt {s : State} {p t : Nat} (ht : t < 8) (h : s.tLow p t = true) : t + 1 < 8 := by
  simp only [State.tLow, Bool.and_eq_true, decide_eq_true_eq] at h
  omega

/-- The high half is ticked by this tick of the timer. -/
def carries (s : State) (p t : Nat) : Bool :=
  decide ((s.tview p t).reload ≤ (s.tview p t).count) && (s.tLow p t && s.tRuns p (t + 1))

theorem tmrCount_alone {s : State} {p t : Nat} {raw : Option Nat} (h : carries s p t = false) :
    tmrCount s p t raw = (tmrTickOne s p t (raw == some t)).1 := by
  simp only [carries] at h
  simp only [tmrCount, tmrTickOne_ovf, h, Bool.false_eq_true, if_false]
theorem tmrCount_carries {s : State} {p t : Nat} {raw : Option Nat} (h : carries s p t = true) :
    tmrCount s p t raw = (tmrTickOne (tmrTickOne s p t (raw == some t)).1 p (t + 1) (raw == some (t + 1))).1 := by
  simp only [carries] at h
  simp only [tmrCount, tmrTickOne_ovf, h, if_true]

/-- What a tick of a timer that is no linked high half does to the timer, and to its high half where it has one. -/
theorem tmrCount_cases {s : State} {p t : Nat} (hp : p < 12) (ht : t < 8) (hw : Regs.wf s = true) (raw : Option Nat) :
    (tmrCount s p t raw).tview p t = (tvTick (s.tview p t) (raw == some t)).1 ∧
    ((s.tview p t).reload ≤ (s.tview p t).count → regBit ((tmrCount s p t raw).reg (tmrPage p) oIrqRaw) (2 * t + 1) = true) ∧
    ((tvTick (s.tview p t) (raw == some t)).1.count = (tvTick (s.tview p t) (raw == some t)).1.cmp →
      regBit ((tmrCount s p t raw).reg (tmrPage p) oIrqRaw) (2 * t) = true) ∧
    (s.tLow p t = true → (tmrCount s p t raw).tview p (t + 1) =
      if (s.tview p t).reload ≤ (s.tview p t).count ∧ s.tRuns p (t + 1) = true then (tvTick (s.tview p (t + 1)) (raw == some (t + 1))).1
      else s.tview p (t + 1)) ∧
    (tmrCount s p t raw).mem = s.mem := by
  obtain ⟨hview, hother, hovf, hmat, -, hwf⟩ := tmrTickOne_cases hp ht hw (raw == some t)
  cases hc : carries s p t with
  | false =>
    rw [tmrCount_alone hc]
    refine ⟨hview, hovf, hmat, fun hl => ?_, tmrTickOne_mem _ _ _ _⟩
    have hn : ¬ ((s.tview p t).reload ≤ (s.tview p t).count ∧ s.tRuns p (t + 1) = true) := fun ⟨ho, hr⟩ => by
      rw [carries, decide_eq_true ho, hl, hr] at hc
      cases hc
    rw [if_neg hn]
    exact hother _ (tLow_lt ht hl) (by omega)
  | true =>
    have hc' := hc
    simp only [carries, Bool.and_eq_true, decide_eq_true_eq] at hc'
    obtain ⟨hle, hl, hr⟩ := hc'
    have ht1 := tLow_lt ht hl
    obtain ⟨hview1, hother1, -, -, hkeep1, -⟩ := tmrTickOne_cases hp ht1 hwf (raw == some (t + 1))
    rw [tmrCount_carries hc]
    refine ⟨?_, fun h => hkeep1 _ (hovf h), fun h => hkeep1 _ (hmat h), fun _ => ?_, ?_⟩
    · rw [hother1 t ht (by omega), hview]
    · rw [if_pos ⟨hle, hr⟩, hview1, hother _ ht1 (by omega)]
    · rw [tmrTickOne_mem, tmrTickOne_mem]

/-! ### The edge of the source (R67) -/

/-- An edge changes the timer's divider and its count of Belfry ticks, and nothing else. -/
theorem tmrEdge_only (s : State) (p t : Nat) : ∃ d n, tmrEdge s p t = s.setTimer p t { s.timer p t with div := d, seen := n } := by
  unfold tmrEdge
  dsimp only
  split
  · exact ⟨_, (s.timer p t).seen, rfl⟩
  · exact ⟨(s.timer p t).div, _, rfl⟩

theorem timer_setTimer_ne {s : State} {p t u : Nat} (x : Timer) (h : u ≠ t) : (s.setTimer p t x).timer p u = s.timer p u :=
  sget_sput_ne _ _ _ _ (by unfold tmrIx; omega)

theorem tRuns_tmrEdge_next (s : State) (p t : Nat) : (tmrEdge s p t).tRuns p (t + 1) = s.tRuns p (t + 1) := by
  obtain ⟨d, n, h⟩ := tmrEdge_only s p t
  have ht := timer_setTimer_ne (s := s) (p := p) (t := t) { s.timer p t with div := d, seen := n } (show t + 1 ≠ t by omega)
  rw [h, State.tRuns, ht]
  rfl

theorem tmrTick_due {s : State} {p t : Nat} {raw : Option Nat} (hr : s.tRuns p t = true) (hl : s.tLink p t = false) (hd : s.tDue p t = true) :
    tmrTick s p t raw = tmrCount (tmrEdge s p t) p t raw := by
  simp only [tmrTick, hr, hl, hd, Bool.false_eq_true, if_false, if_true]

/-- A tick of a running timer that is no linked high half. -/
theorem tmrTick_cases {s : State} {p t : Nat} (hp : p < 12) (ht : t < 8) (hw : Regs.wf s = true) (raw : Option Nat) (hr : s.tRuns p t = true)
    (hl : s.tLink p t = false) (hd : s.tDue p t = true) :
    (tmrTick s p t raw).tview p t = (tvTick (s.tview p t) (raw == some t)).1 ∧
    ((s.tview p t).reload ≤ (s.tview p t).count → regBit ((tmrTick s p t raw).reg (tmrPage p) oIrqRaw) (2 * t + 1) = true) ∧
    ((tvTick (s.tview p t) (raw == some t)).1.count = (tvTick (s.tview p t) (raw == some t)).1.cmp →
      regBit ((tmrTick s p t raw).reg (tmrPage p) oIrqRaw) (2 * t) = true) ∧
    (s.tLow p t = true → (tmrTick s p t raw).tview p (t + 1) =
      if (s.tview p t).reload ≤ (s.tview p t).count ∧ s.tRuns p (t + 1) = true then (tvTick (s.tview p (t + 1)) (raw == some (t + 1))).1
      else s.tview p (t + 1)) ∧
    (tmrTick s p t raw).mem = s.mem := by
  obtain ⟨d, n, he⟩ := tmrEdge_only s p t
  have hruns := tRuns_tmrEdge_next s p t
  rw [tmrTick_due hr hl hd]
  rw [he] at hruns ⊢
  have h := tmrCount_cases (s := s.setTimer p t { s.timer p t with div := d, seen := n }) hp ht hw raw
  rw [hruns] at h
  exact h

theorem exec_timerTick (s : State) (p : Fin 12) (t : Fin 8) : exec (.timerTick p t) s = .next (tmrTick s p.val t.val none) := rfl

theorem tRuns_stopped {s : State} {p t : Nat} (h : (s.timer p t).stopped = true) : s.tRuns p t = false := by
  simp [State.tRuns, h]

/-- The second half of O15: R66-R69 and R72. -/
theorem timerTicksCountMatchAndOverflow : TimerTicksCountMatchAndOverflow := by
  refine ⟨fun s p t h => ?_, fun s p t hr => ?_, fun s p t hr hl hs hd => ?_, fun s p t hr hl hd hw => ?_⟩
  · rw [exec_timerTick, tmrTick]
    rcases h with h | h
    · rw [if_pos h]
    · rw [tRuns_stopped h, h]
      simp
  · rw [exec_timerTick, tmrTick]
    obtain ⟨d, n, he⟩ := tmrEdge_only s p.val t.val
    refine ⟨_, rfl, ?_⟩
    rw [hr, if_neg Bool.false_ne_true, he]
    repeat' split
    all_goals exact ⟨rfl, rfl⟩
  · have hnd : s.tDue p.val t.val = false := by
      rw [State.tDue, if_pos hs, decide_eq_false (by omega)]
    rw [exec_timerTick, tmrTick]
    simp only [hl, hr, hnd, tmrEdge, hs, Bool.false_eq_true, if_false, if_true]
  · obtain ⟨hview, hovf, hmat, hhigh, hmem⟩ := tmrTick_cases p.isLt t.isLt hw none hr hl hd
    refine ⟨_, exec_timerTick s p t, hmem, ?_, ?_, ?_, hovf, fun h => hmat ?_, fun hlow => ?_⟩
    · rw [hview]
      rfl
    · rw [hview, tvTick_count]
    · rw [hview, tvTick_cmp]
      simp
    · rwa [hview] at h
    · rw [hhigh hlow]
      split
      · rw [tvTick_count]
      · rfl

end Sys2Proof.Proofs
end

section
/-! PROOF. A raw write of the live comparator in the cycle of a tick (R70), and what sleep leaves to make up (R74, R75). -/
namespace Sys2Proof.Proofs
open Sys2Proof.Machine Sys2Proof.Laws

/-! ### CMP_WRITE in the cycle of a tick (R70) -/

section
variable (s : State) {p t : Nat} (ht : t < 8) (v : Word32)
include ht

/-- A write of the comparator leaves every other register of the page. -/
theorem reg_setCmp {o : Nat} (ho : o < 4096) (hne : o ≠ tmrOff t + 0x10) :
    (s.setReg (tmrPage p) (tmrOff t + 0x10) v).reg (tmrPage p) o = s.reg (tmrPage p) o := by
  obtain ⟨-, hb, -⟩ := tmrOff_bounds ht
  exact reg_setReg_ne _ _ _ _ _ _ (by omega) ho (by omega)
theorem tctl_setCmp : (s.setReg (tmrPage p) (tmrOff t + 0x10) v).reg (tmrPage p) (tmrOff t) = s.reg (tmrPage p) (tmrOff t) := by
  obtain ⟨-, hb, -⟩ := tmrOff_bounds ht
  exact reg_setCmp s ht v (by omega) (by omega)

/-- Whether a timer runs does not depend on its comparator. -/
theorem tRuns_setCmp (hp : p < 12) : (s.setReg (tmrPage p) (tmrOff t + 0x10) v).tRuns p t = s.tRuns p t := by
  obtain ⟨hlo, hb, -⟩ := tmrOff_bounds ht
  have hpage : (s.setReg (tmrPage p) (tmrOff t + 0x10) v).reg (tmrPage p) oCtl = s.reg (tmrPage p) oCtl :=
    reg_setCmp s ht v (by decide) (by unfold oCtl; omega)
  have hlant : (s.setReg (tmrPage p) (tmrOff t + 0x10) v).reg 0x3A0 0x100 = s.reg 0x3A0 0x100 :=
    reg_setReg_ne _ _ _ _ _ _ (by omega) (by decide) (by unfold tmrPage; omega)
  unfold State.tRuns State.tEn State.c5 State.tDebug State.regB
  rw [tctl_setCmp s ht, hpage, hlant]
  rfl
theorem tDue_setCmp : (s.setReg (tmrPage p) (tmrOff t + 0x10) v).tDue p t = s.tDue p t := by
  unfold State.tDue State.tSrc State.tPresc State.regF
  rw [tctl_setCmp s ht]
  rfl
theorem tLink_setCmp : (s.setReg (tmrPage p) (tmrOff t + 0x10) v).tLink p t = s.tLink p t := by
  unfold State.tLink State.regB
  rw [tctl_setCmp s ht]
theorem tview_setCmp (hw : Regs.wf s = true) :
    (s.setReg (tmrPage p) (tmrOff t + 0x10) v).tview p t = { s.tview p t with cmp := v.toNat } := by
  obtain ⟨-, hb, -⟩ := tmrOff_bounds ht
  have hne : ∀ k < 32, k ≠ 0x10 → (s.setReg (tmrPage p) (tmrOff t + 0x10) v).reg (tmrPage p) (tmrOff t + k) = s.reg (tmrPage p) (tmrOff t + k) :=
    fun k hk h => reg_setCmp s ht v (by omega) (by omega)
  simp only [State.tview, State.regB, tctl_setCmp s ht, hne 4 (by decide) (by decide), hne 0xC (by decide) (by decide),
    hne 0x14 (by decide) (by decide), reg_setReg _ _ _ _ hw]
end

/-- The write comes first, then the tick. -/
theorem exec_cmpWrite_edge {s : State} {id : MasterId} {p : Fin 12} {t : Fin 8} (v : Word32) (hi : s.issues id = true)
    (hl : s.tLink p.val t.val = false) : exec (.cmpWrite id p t v true) s =
      .next (tmrTick { s.setReg (tmrPage p.val) (tmrOff t.val + 0x10) v with resp := .done } p.val t.val (some t.val)) := by
  have hlink : ({ s.setReg (tmrPage p.val) (tmrOff t.val + 0x10) v with resp := .done } : State).tLink p.val t.val = false :=
    (tLink_setCmp s t.isLt v).trans hl
  show ok (tmrTick (cmdReg s id (tmrPage p.val) (tmrOff t.val + 0x10) v) p.val _ _) = _
  rw [cmdReg_tmr_store p t v hi (.inr (.inr rfl)), hlink, hi]
  rfl

/-- The second clause of O15's writes. -/
theorem cmpWrite_edge_cases {s : State} {id : MasterId} {p : Fin 12} {t : Fin 8} (v : Word32) (hi : s.issues id = true)
    (hr : s.tRuns p.val t.val = true) (hd : s.tDue p.val t.val = true) (hl : s.tLink p.val t.val = false) (hw : Regs.wf s = true) :
    ∃ u, exec (.cmpWrite id p t v true) s = .next u ∧ (u.tview p.val t.val).cmp = v.toNat ∧
      (u.tview p.val t.val).prePend = (s.tview p.val t.val).prePend ∧
      (u.tview p.val t.val).count = (if (s.tview p.val t.val).reload ≤ (s.tview p.val t.val).count then 0
        else (s.tview p.val t.val).count + 1) ∧
      ((u.tview p.val t.val).count = v.toNat → regBit (u.reg (tmrPage p.val) oIrqRaw) (2 * t.val) = true) := by
  have hwf : Regs.wf ({ s.setReg (tmrPage p.val) (tmrOff t.val + 0x10) v with resp := .done } : State) = true := wf_setReg _ _ _ _ hw
  have hview : ({ s.setReg (tmrPage p.val) (tmrOff t.val + 0x10) v with resp := .done } : State).tview p.val t.val =
      { s.tview p.val t.val with cmp := v.toNat } := tview_setCmp s t.isLt v hw
  have hraw : (some t.val == some t.val) = true := beq_self_eq_true _
  obtain ⟨htick, -, hmat, -, -⟩ := tmrTick_cases p.isLt t.isLt hwf (some t.val) ((tRuns_setCmp s t.isLt v p.isLt).trans hr)
    ((tLink_setCmp s t.isLt v).trans hl) ((tDue_setCmp s t.isLt v).trans hd)
  rw [hview, hraw] at htick hmat
  obtain ⟨hcmp, hpend⟩ := tvTick_raw { s.tview p.val t.val with cmp := v.toNat }
  refine ⟨_, exec_cmpWrite_edge v hi hl, ?_, ?_, ?_, fun h => hmat ?_⟩
  · rw [htick, hcmp]
  · rw [htick, hpend]
  · rw [htick, tvTick_count]
  · rw [htick] at h
    exact h.trans hcmp.symm

/-- The first half of O15: R66-R71. -/
theorem timerWritesTakeEffectAtOnce : TimerWritesTakeEffectAtOnce :=
  ⟨exec_timerStores, fun _ _ _ _ v hi hr hd hl _ hw => cmpWrite_edge_cases v hi hr hd hl hw, fun _ _ p t v hi => exec_cmpPreWrite p t v hi,
    fun _ _ p t v hi hc hv hw => tctlWrite_cases p t v hi hc hv hw⟩

/-! ### Sleep (R74, R75) -/

theorem exec_timerStop (s : State) (p : Fin 12) (t : Fin 8) : exec (.timerStop p t) s = .next
    (if s.tSleeps p.val = true ∧ s.c5 p.val = false then s.setTimer p.val t.val { s.timer p.val t.val with stopped := true } else s) := by
  show ok (tmrStop s p.val t.val) = _
  simp only [tmrStop, Bool.and_eq_true, Bool.not_eq_true']
  rfl

theorem exec_timerRestart (s : State) (p : Fin 12) (t : Fin 8) (e : Nat) :
    exec (.timerRestart p t e) s = .next (tmrRestart s p.val t.val e) := rfl
theorem tmrRestart_not_due {s : State} {p t : Nat} (e : Nat) (h : (s.timer p t).stopped = false ∨ s.tSleeps p = true) :
    tmrRestart s p t e = s := by
  rcases h with h | h <;> simp [tmrRestart, h]

/-- A timer without a linked half makes up its own ticks. -/
theorem tmrRestart_alone {s : State} {p t : Nat} (e : Nat) (hs : (s.timer p t).stopped = true) (ha : s.tSleeps p = false)
    (he : s.tEn p t = true) (hl : s.tLink p t = false) (hlow : s.tLow p t = false) :
    tmrRestart s p t e = (tmrAdd (s.setTimer p t (wakeTicks s p t e).2) p t (wakeTicks s p t e).1).1 := by
  simp [tmrRestart, hs, ha, he, hl, hlow]

theorem wakeTicks_refclk {s : State} {p t : Nat} (e : Nat) (h : s.tSrc p t = 0) : wakeTicks s p t e =
    (((s.timer p t).frac + e * 100000000) / (32768 * (s.tPresc p t + 1)), { s.timer p t with
      frac := ((s.timer p t).frac + e * 100000000) % (32768 * (s.tPresc p t + 1)), div := 0, stopped := false }) := by
  rw [wakeTicks, if_pos h, makeUp, Nat.mul_comm 100000000 e]
theorem wakeTicks_belfry {s : State} {p t : Nat} (e : Nat) (h : s.tSrc p t ≠ 0) : wakeTicks s p t e =
    (s.belf.ticks (s.tSrc p t) - (s.timer p t).seen, { s.timer p t with seen := s.belf.ticks (s.tSrc p t), div := 0, stopped := false }) :=
  if_neg h

/-- The third part of O15: R73-R75. -/
theorem linkedReadsAndSleepMakeUp : LinkedReadsAndSleepMakeUp := by
  refine ⟨fun s id p t hi hl => exec_linkedCountRead hi (countRead_low hl), fun s id p t hi hl => exec_linkedCountRead hi (countRead_high hl),
    exec_timerStop, fun s p t e h => ?_, fun s p t e hs ha he hl hlow => ?_⟩
  · rw [exec_timerRestart, tmrRestart_not_due e h]
  · rw [exec_timerRestart, tmrRestart_alone e hs ha he hl hlow]
    split
    · next h => rw [wakeTicks_refclk e h]
    · next h => rw [wakeTicks_belfry e h]

/-- Settles O15, from its three parts. -/
theorem timersCountMatchAndMakeUp : Obligations.TimersCountMatchAndMakeUp :=
  ⟨timerWritesTakeEffectAtOnce, timerTicksCountMatchAndOverflow, linkedReadsAndSleepMakeUp⟩

end Sys2Proof.Proofs
end

section
/-! PROOF. Samples of the Cupola: energy, half-cycles and peaks (R411-R413). -/
namespace Sys2Proof.Proofs
open Sys2Proof.Machine Sys2Proof.Laws

/-! ### Energy (R412) -/

section
variable (e : CupEnergy) (i : Fin 10) (x : Nat)
theorem energyAdd_same : (energyAdd e i x).reg[i] = (e.reg[i] + (e.res[i] + (e.part[i] + x) / 28800000) / 1000000) % 1000000000000 ∧
    (energyAdd e i x).res[i] = (e.res[i] + (e.part[i] + x) / 28800000) % 1000000 ∧
    (energyAdd e i x).part[i] = (e.part[i] + x) % 28800000 := by
  simp [energyAdd]
theorem energyAdd_other {r : Fin 10} (h : r ≠ i) : (energyAdd e i x).reg[r] = e.reg[r] ∧ (energyAdd e i x).res[r] = e.res[r] ∧
    (energyAdd e i x).part[r] = e.part[r] := by
  have hv : i.val ≠ r.val := fun k => h (Fin.ext k.symm)
  simp [energyAdd, hv]
end

/-- Every register shows at most 12 digits. -/
def energyShows (e : CupEnergy) : Prop := ∀ r : Fin 10, e.reg[r] < 1000000000000

theorem energyShows_energyAdd {e : CupEnergy} (i : Fin 10) (x : Nat) (h : energyShows e) : energyShows (energyAdd e i x) := by
  intro r
  by_cases hr : r = i
  · subst hr
    rw [(energyAdd_same e r x).1]
    exact Nat.mod_lt _ (by decide)
  · rw [(energyAdd_other e i x hr).1]
    exact h r
theorem energyShows_energyPower {e : CupEnergy} (i x : Fin 10) (p : Int) (h : energyShows e) : energyShows (energyPower e i x p) := by
  unfold energyPower
  split
  · exact energyShows_energyAdd _ _ h
  split
  · exact energyShows_energyAdd _ _ h
  · exact h
theorem energyShows_foldl {α : Type} {f : CupEnergy → α → CupEnergy} (hf : ∀ e a, energyShows e → energyShows (f e a)) {e : CupEnergy}
    (l : List α) (h : energyShows e) : energyShows (l.foldl f e) := by
  induction l generalizing e with
  | nil => exact h
  | cons a l ih => exact ih (hf _ _ h)

/-- The power of a sample counts in one register, by its sign. -/
theorem energyPower_eq {e : CupEnergy} {i x y : Fin 10} {p : Int} {q : Nat} (hp : p ≠ 0)
    (h : (y, q) = (if 0 < p then (i, p.toNat) else (x, (-p).toNat))) : energyPower e i x p = energyAdd e y q := by
  unfold energyPower
  split at h
  · next hpos =>
    cases h
    rw [if_pos hpos]
  · next hneg =>
    cases h
    rw [if_neg hneg, if_pos (by omega)]

/-! ### What a sample changes (R411-R415) -/

/-- A crossing changes counts of crossings, the frequency and the warm-up. -/
theorem cupCross_only (c : Cup) (v : Int) : ∃ n m f w, cupCross c v = { c with crossings := n, ncross := m, freq := f, warmLeft := w } := by
  unfold cupCross
  split
  · exact ⟨_, _, _, _, rfl⟩
  · exact ⟨_, _, _, _, rfl⟩
/-- A half-cycle changes peaks, what has ended, and the warm-up. -/
theorem cupHalf_only (c : Cup) (v : Int) : ∃ n e h k ch w,
    cupHalf c v = { c with nhalf := n, ended := e, halves := h, peakTot := k, chans := ch, warmLeft := w } := by
  unfold cupHalf
  split
  · split <;> exact ⟨_, _, _, _, _, _, rfl⟩
  · generalize (if cupTimed c then decide (80 ≤ c.nhalf) else crossAny c.v0 v) = b
    split <;> exact ⟨_, _, _, _, _, _, rfl⟩
/-- A second changes readings and OPSEC. -/
theorem cupSecond_only (c : Cup) : ∃ n m o ch x y,
    cupSecond c = { c with nsec := n, measured := m, opsec := o, chans := ch, total := x, sumTot := y } := by
  unfold cupSecond
  split
  · exact ⟨_, _, _, _, _, _, rfl⟩
  · exact ⟨_, _, _, _, _, _, rfl⟩

/-- The Cupola when its sample has been judged for crossings and half-cycles: what the energy and the sums are added to. -/
def sampled (c : Cup) (x0 : CupSample) : Cup :=
  cupHalf (cupCross c (gained x0.v ((cupParam c 0x10).getD 0))) (gained x0.v ((cupParam c 0x10).getD 0))

theorem sampled_only (c : Cup) (x : CupSample) : ∃ n m f w nh e h k ch, sampled c x =
    { c with crossings := n, ncross := m, freq := f, nhalf := nh, ended := e, halves := h, peakTot := k, chans := ch, warmLeft := w } := by
  obtain ⟨n, m, f, w, h1⟩ := cupCross_only c (gained x.v ((cupParam c 0x10).getD 0))
  obtain ⟨nh, e, h, k, ch, w2, h2⟩ := cupHalf_only (cupCross c (gained x.v ((cupParam c 0x10).getD 0))) (gained x.v ((cupParam c 0x10).getD 0))
  exact ⟨n, m, f, w2, nh, e, h, k, ch, by rw [sampled, h2, h1]⟩

/-- A sample adds to energy, sums and peaks, and may end a second. -/
theorem cupSample_eq (c : Cup) (x0 x1 x2 x3 : CupSample) : ∃ e st pt v, cupSample c x0 x1 x2 x3 = cupSecond { sampled c x0 with
      energy := e, chans := Vector.ofFn fun k => chanAdd (sampled c x0) k (#v[x0, x1, x2, x3] : Vector CupSample 4)[k],
      sumTot := st, peakTot := pt, v0 := v } ∧ (energyShows c.energy → energyShows e) :=
  ⟨_, _, _, _, rfl, fun h => energyShows_energyPower _ _ _ (energyShows_foldl (fun _ _ he => energyShows_energyPower _ _ _ he) _ h)⟩

theorem cupSample_kept (c : Cup) (x0 x1 x2 x3 : CupSample) : (cupSample c x0 x1 x2 x3).log = c.log ∧
    (cupSample c x0 x1 x2 x3).params = c.params ∧ (cupSample c x0 x1 x2 x3).sealed = c.sealed ∧ (cupSample c x0 x1 x2 x3).save = c.save ∧
    (energyShows c.energy → energyShows (cupSample c x0 x1 x2 x3).energy) ∧
    (cupSample c x0 x1 x2 x3).ended = (sampled c x0).ended ∧ (cupSample c x0 x1 x2 x3).halves = (sampled c x0).halves := by
  obtain ⟨e, st, pt, v, hs, he⟩ := cupSample_eq c x0 x1 x2 x3
  obtain ⟨n, m, f, w, nh, en, h, k, ch, hh⟩ := sampled_only c x0
  obtain ⟨n2, m2, o2, ch2, x, y, h2⟩ := cupSecond_only { sampled c x0 with
      energy := e, chans := Vector.ofFn fun k => chanAdd (sampled c x0) k (#v[x0, x1, x2, x3] : Vector CupSample 4)[k],
      sumTot := st, peakTot := pt, v0 := v }
  rw [hs, h2, hh]
  exact ⟨rfl, rfl, rfl, rfl, he, rfl, rfl⟩

/-! ### Half-cycles (R413) -/

theorem cupTimed_cupCross (c : Cup) (v : Int) : cupTimed (cupCross c v) = cupTimed c := by
  obtain ⟨n, m, f, w, h⟩ := cupCross_only c v
  rw [h]
  rfl

/-- Before the first crossing no half-cycle ends. -/
theorem cupHalf_before {c : Cup} (v : Int) (ht : cupTimed c = false) (hn : c.nhalf = 0) :
    (cupHalf c v).ended = c.ended ∧ (cupHalf c v).halves = c.halves := by
  rw [cupHalf, if_pos ⟨hn, ht⟩]
  split <;> exact ⟨rfl, rfl⟩
/-- A crossing ends the half-cycle with the peaks before it. -/
theorem cupHalf_crossing {c : Cup} {v : Int} (ht : cupTimed c = false) (hn : c.nhalf ≠ 0) (hx : crossAny c.v0 v = true) :
    (cupHalf c v).ended = some (c.chans.toList.map (·.peak) ++ [c.peakTot]) ∧ (cupHalf c v).halves = c.halves + 1 ∧
      (cupHalf c v).chans = c.chans.map fun x => { x with peak := 0 } := by
  rw [cupHalf, if_neg (fun h => hn h.1), ht, if_neg Bool.false_ne_true, if_pos hx]
  exact ⟨rfl, rfl, rfl⟩

theorem sampled_before {c : Cup} (x : CupSample) (ht : cupTimed c = false) (hn : c.nhalf = 0) :
    (sampled c x).ended = c.ended ∧ (sampled c x).halves = c.halves := by
  obtain ⟨n, m, f, w, h⟩ := cupCross_only c (gained x.v ((cupParam c 0x10).getD 0))
  have hb := cupHalf_before (c := cupCross c (gained x.v ((cupParam c 0x10).getD 0))) (gained x.v ((cupParam c 0x10).getD 0))
    ((cupTimed_cupCross _ _).trans ht) (by rw [h]; exact hn)
  rw [sampled, hb.1, hb.2, h]
  exact ⟨rfl, rfl⟩
theorem sampled_crossing {c : Cup} {x : CupSample} (ht : cupTimed c = false) (hn : c.nhalf ≠ 0)
    (hx : crossAny c.v0 (gained x.v ((cupParam c 0x10).getD 0)) = true) :
    (sampled c x).ended = some (c.chans.toList.map (·.peak) ++ [c.peakTot]) ∧ (sampled c x).halves = c.halves + 1 ∧
      (sampled c x).chans = c.chans.map fun x => { x with peak := 0 } := by
  obtain ⟨n, m, f, w, h⟩ := cupCross_only c (gained x.v ((cupParam c 0x10).getD 0))
  have hb := cupHalf_crossing (c := cupCross c (gained x.v ((cupParam c 0x10).getD 0))) (v := gained x.v ((cupParam c 0x10).getD 0))
    ((cupTimed_cupCross _ _).trans ht) (by rw [h]; exact hn) (by rw [h]; exact hx)
  rw [h] at hb
  rw [sampled, h]
  exact hb

/-- The calibration of a sample does not depend on crossings and half-cycles. -/
theorem samplePower_sampled (c : Cup) (x0 : CupSample) (k : Nat) (x : CupSample) : samplePower (sampled c x0) k x = samplePower c k x := by
  obtain ⟨n, m, f, w, nh, e, h, kk, ch, hs⟩ := sampled_only c x0
  rw [hs]
  rfl

/-- A second keeps the peaks. -/
theorem peak_cupSecond (c : Cup) (k : Fin 4) : (cupSecond c).chans[k].peak = c.chans[k].peak := by
  unfold cupSecond
  split
  · rfl
  · simp [chanSecond]

/-- The sample after a crossing is the first of its half-cycle. -/
theorem peak_cupSample {c : Cup} {x0 : CupSample} (x1 x2 x3 : CupSample) (k : Fin 4)
    (h : (sampled c x0).chans = c.chans.map fun x => { x with peak := 0 }) : (cupSample c x0 x1 x2 x3).chans[k].peak =
      (samplePower c k.val (#v[x0, x1, x2, x3] : Vector CupSample 4)[k] / 1000).toNat := by
  obtain ⟨e, st, pt, v, hs, -⟩ := cupSample_eq c x0 x1 x2 x3
  have h0 : (sampled c x0).chans[k].peak = 0 := by simp [h]
  have hp := samplePower_sampled c x0 k.val (#v[x0, x1, x2, x3] : Vector CupSample 4)[k]
  rw [hs, peak_cupSecond]
  simp only [Fin.getElem_fin, Vector.getElem_ofFn, chanAdd] at h0 hp ⊢
  rw [h0, hp, Nat.zero_max]

/-- A command that a flag of the state gates. -/
theorem ok_if_false {b : Bool} {t s : State} (h : b = false) : ok (if b then t else s) = .next s := by rw [h]; rfl
theorem ok_if_true {b : Bool} {t s : State} (h : b = true) : ok (if b then t else s) = .next t := by rw [h]; rfl

theorem exec_sample {s : State} (a b c d : CupSample) (h : s.cup.ready = true) :
    exec (.sample a b c d) s = .next { s with cup := cupSample s.cup a b c d } := ok_if_true h

/-- A die that is not ready does nothing but take its temperature in. -/
theorem exec_not_ready {s : State} (a b c d : CupSample) (h : s.cup.ready = false) : exec (.sample a b c d) s = .next s ∧
    exec .snapshot s = .next s ∧ exec .halfCyclePeak s = .next s ∧ exec .warmUpEnd s = .next s ∧ exec .periodicSave s = .next s ∧
    (∀ x, exec (.selfCheck x) s = .next s) ∧ (∀ n, exec (.phaseMark n) s = .next s) ∧ (∀ x y, exec (.brownOut x y) s = .next s) ∧
    (∀ x, exec (.dieTemperatureChange x) s = .next { s with cup := { s.cup with tempOk := x } }) := by
  have hpeak : halfCyclePeak s = s := by
    unfold halfCyclePeak
    split
    · rfl
    · rw [h]; rfl
  have hand : ∀ b, (s.cup.ready && b) = false := fun b => by rw [h]; rfl
  exact ⟨ok_if_false h, ok_if_false h, congrArg Host.Outcome.next hpeak, ok_if_false (hand _), ok_if_false (hand _),
    fun _ => ok_if_false h, fun _ => ok_if_false (hand _), fun _ _ => ok_if_false h, fun _ => ok_if_false h⟩

end Sys2Proof.Proofs
end

section
/-! PROOF. The Cupola's window, its saves and its supply (R409, R415, R420, R423). -/
namespace Sys2Proof.Proofs
open Sys2Proof.Machine Sys2Proof.Laws

/-! ### What an update of the window changes (R423, R425) -/

/-- From `s` to `t` the window's memory, flags, waking cores, free values and the message queue may have changed, and nothing else. -/
structure Shown (s t : State) : Prop where
  only : ∃ fr rs m cs q l, t = { s with free := fr, regs := rs, mem := m, cores := cs, cup := { s.cup with evq := q, evlost := l } }

namespace Shown
variable {s t u : State}
theorem refl : Shown s s := ⟨_, _, _, _, _, _, rfl⟩
theorem trans (h : Shown s t) (k : Shown t u) : Shown s u := by
  obtain ⟨_, _, _, _, _, _, rfl⟩ := h.only
  obtain ⟨_, _, _, _, _, _, rfl⟩ := k.only
  exact ⟨_, _, _, _, _, _, rfl⟩
theorem boot (h : Shown s t) : t.boot = s.boot := by obtain ⟨_, _, _, _, _, _, rfl⟩ := h.only; rfl
/-- The die keeps everything but its message queue. -/
theorem cup (h : Shown s t) : ∃ q l, t.cup = { s.cup with evq := q, evlost := l } := by
  obtain ⟨_, _, _, _, _, _, rfl⟩ := h.only
  exact ⟨_, _, rfl⟩
end Shown

theorem irqBit_shown (s : State) (page n : Nat) : Shown s (s.irqBit page n) := by
  obtain ⟨rs, cs, h⟩ := irqBit_only s page n
  rw [h]
  exact ⟨_, _, _, _, _, _, rfl⟩
theorem evPush_shown (s : State) (w : List Nat) : Shown s (evPush s w) := by
  unfold evPush
  split
  · exact Shown.trans ⟨_, _, _, _, _, _, rfl⟩ (irqBit_shown _ _ _)
  · exact Shown.trans ⟨_, _, _, _, _, _, rfl⟩ (irqBit_shown _ _ _)
theorem cupMsg_shown (s : State) (kind w2 : Nat) : Shown s (cupMsg s kind w2) :=
  Shown.trans (t := s.fresh.2) ⟨_, _, _, _, _, _, rfl⟩ (evPush_shown _ _)
theorem putParts_only (s : State) (l : List (Nat × List Byte)) : ∃ m, putParts s l = { s with mem := m } := by
  induction l generalizing s with
  | nil => exact ⟨_, rfl⟩
  | cons x l ih => exact ih _
theorem putParts_shown (s : State) (l : List (Nat × List Byte)) : Shown s (putParts s l) := by
  obtain ⟨m, h⟩ := putParts_only s l
  rw [h]
  exact ⟨_, _, _, _, _, _, rfl⟩

/-- What a snapshot writes, in its order. -/
def snapshotParts (s : State) (tag : Nat) (more : List (Nat × List Byte)) : List (Nat × List Byte) :=
  (if s.cwSeq == 0 then (s.cup.log.map fun e => (0x1000 + 16 * e.num, logBytes e)) ++ [(0x3000, ecPublic p256 s.cup.key)] else []) ++
    windowParts s.cup s.cwStat tag ++ more ++ [(0, leBytes 4 (seqNext s.cwSeq))]

/-- A snapshot is its parts, and a STATUS message where the status bits have changed. -/
theorem snapshot_cases (s : State) (tag : Nat) (more : List (Nat × List Byte)) :
    snapshot s tag more = putParts s (snapshotParts s tag more) ∨
      snapshot s tag more = cupMsg (putParts s (snapshotParts s tag more)) 3 s.cwStat := by
  unfold snapshot
  dsimp only
  split
  · exact .inr rfl
  · exact .inl rfl
theorem snapshot_shown (s : State) (tag : Nat) (more : List (Nat × List Byte)) : Shown s (snapshot s tag more) := by
  rcases snapshot_cases s tag more with h | h
  · rw [h]; exact putParts_shown _ _
  · rw [h]; exact (putParts_shown _ _).trans (cupMsg_shown _ _ _)
theorem statUpdate_shown (s : State) : Shown s (statUpdate s) := by
  unfold statUpdate
  dsimp only
  split
  · exact Shown.refl
  split
  · exact (putParts_shown _ _).trans (cupMsg_shown _ _ _)
  · exact putParts_shown _ _

/-- The entry that `logAdd` appends (R419). -/
theorem logAdd_shown (s : State) (kind param old new : Nat) : Shown { s with cup := { s.cup with log := s.cup.log ++
    [{ num := s.cup.log.length, kind := kind, param := param, opsec := s.cup.opsec, old := old, new := new }] } } (logAdd s kind param old new) :=
  (snapshot_shown _ _ _).trans (cupMsg_shown _ _ _)

/-! ### What a snapshot shows (R422, R423) -/

theorem evPush_mem (s : State) (w : List Nat) : (evPush s w).mem = s.mem := by
  unfold evPush
  split <;> exact irqBit_mem _ _ _
theorem cupMsg_mem (s : State) (kind w2 : Nat) : (cupMsg s kind w2).mem = s.mem := evPush_mem _ _
theorem snapshot_mem (s : State) (tag : Nat) (more : List (Nat × List Byte)) :
    (snapshot s tag more).mem = (putParts s (snapshotParts s tag more)).mem := by
  rcases snapshot_cases s tag more with h | h
  · rw [h]
  · rw [h, cupMsg_mem]

/-- Reading bytes depends on the memory alone. -/
theorem bytes_congr {s t : State} (h : t.mem = s.mem) (a n : Nat) : t.bytes a n = s.bytes a n := by
  induction n generalizing a with
  | zero => rfl
  | succ n ih => rw [State.bytes, State.bytes, ih, State.byteAt, State.byteAt, h]

theorem putParts_append (s : State) (l m : List (Nat × List Byte)) : putParts s (l ++ m) = putParts (putParts s l) m := by
  induction l generalizing s with
  | nil => rfl
  | cons x l ih => exact ih _
theorem wf_putParts {s : State} (l : List (Nat × List Byte)) (h : Memory.wf s = true) : Memory.wf (putParts s l) = true := putParts_kept.mem h
/-- Bytes that no part touches stay. -/
theorem bytes_putParts_out (s : State) {l : List (Nat × List Byte)} {b n : Nat}
    (h : ∀ x ∈ l, b + n ≤ cupBase + x.1 ∨ cupBase + x.1 + x.2.length ≤ b) : (putParts s l).bytes b n = s.bytes b n := by
  induction l generalizing s with
  | nil => rfl
  | cons x l ih => rw [putParts, ih _ fun y hy => h y (List.mem_cons_of_mem _ hy), bytes_setBytes_out _ _ _ _ _ (h x List.mem_cons_self)]
theorem byteAt_putParts_below (s : State) (l : List (Nat × List Byte)) {a : Nat} (h : a < cupBase) : (putParts s l).byteAt a = s.byteAt a := by
  induction l generalizing s with
  | nil => rfl
  | cons x l ih => rw [putParts, ih, byteAt_setBytes_out _ _ _ _ (.inl (by omega))]

/-- A word that one part writes and no later part touches is read back. -/
theorem le_putParts {s : State} {l r : List (Nat × List Byte)} {o v : Nat} (hw : Memory.wf s = true)
    (h : ∀ x ∈ r, o + 4 ≤ x.1 ∨ x.1 + x.2.length ≤ o) :
    (putParts s (l ++ (o, leBytes 4 v) :: r)).le (cupBase + o) 4 = v % 2 ^ 32 := by
  have hlen := length_leBytes 4 v
  have hpart : ((putParts s l).setBytes (cupBase + o) (leBytes 4 v)).bytes (cupBase + o) 4 = leBytes 4 v := by
    have := bytes_setBytes (putParts s l) (cupBase + o) (leBytes 4 v) (wf_putParts l hw)
    rwa [hlen] at this
  rw [State.le, putParts_append, putParts, bytes_putParts_out _ fun x hx => (h x hx).imp (by omega) (by omega), hpart, ofLE_leBytes]
  rfl

/-- The parts of a snapshot after CW_TAG. -/
theorem windowParts_split (c : Cup) (stat tag : Nat) : ∃ r, windowParts c stat tag =
    (0x04, leBytes 4 stat) :: (0x08, leBytes 4 c.opsec) :: (0x0C, leBytes 4 tag) :: r ∧ ∀ x ∈ r, 0x10 ≤ x.1 :=
  ⟨_, rfl, by simp⟩

/-- The first four words of the window after a snapshot. -/
theorem window_snapshot {s : State} (tag : Nat) (hw : Memory.wf s = true) :
    (snapshot s tag []).cwSeq = seqNext s.cwSeq % 2 ^ 32 ∧ (snapshot s tag []).le (cupBase + 4) 4 = s.cwStat % 2 ^ 32 ∧
    (snapshot s tag []).le (cupBase + 8) 4 = s.cup.opsec % 2 ^ 32 ∧ (snapshot s tag []).le (cupBase + 0xC) 4 = tag % 2 ^ 32 := by
  obtain ⟨r, hr, hlo⟩ := windowParts_split s.cup s.cwStat tag
  have hle : ∀ a n, (snapshot s tag []).le a n = (putParts s (snapshotParts s tag [])).le a n := fun a n => by
    rw [State.le, State.le, bytes_congr (snapshot_mem s tag [])]
  have hrest : ∀ o, 4 ≤ o → o + 4 ≤ 0x10 → ∀ x ∈ r ++ [(0, leBytes 4 (seqNext s.cwSeq))], o + 4 ≤ x.1 ∨ x.1 + x.2.length ≤ o := by
    intro o h4 ho x hx
    rcases List.mem_append.mp hx with h | h
    · exact .inl (ho.trans (hlo x h))
    · rw [List.mem_singleton.mp h, length_leBytes]
      exact .inr (by omega)
  rw [State.cwSeq, hle, hle, hle, hle, snapshotParts, hr]
  generalize (if s.cwSeq == 0 then (s.cup.log.map fun e => (0x1000 + 16 * e.num, logBytes e)) ++ [(0x3000, ecPublic p256 s.cup.key)]
    else []) = f
  simp only [List.append_nil, List.append_assoc, List.cons_append]
  refine ⟨?_, ?_, ?_, ?_⟩
  · have h := le_putParts (s := s) (l := f ++ (0x04, leBytes 4 s.cwStat) :: (0x08, leBytes 4 s.cup.opsec) :: (0x0C, leBytes 4 tag) :: r)
      (r := []) (o := 0) (v := seqNext s.cwSeq) hw (by simp)
    simpa only [List.append_assoc, List.cons_append] using h
  · exact le_putParts (o := 4) hw (by simpa using hrest 4 (by decide) (by decide))
  · have h := le_putParts (s := s) (l := f ++ [(0x04, leBytes 4 s.cwStat)]) (o := 8) (v := s.cup.opsec)
      (r := (0x0C, leBytes 4 tag) :: (r ++ [(0, leBytes 4 (seqNext s.cwSeq))])) hw (by simpa using hrest 8 (by decide) (by decide))
    simpa only [List.append_assoc, List.cons_append, List.nil_append] using h
  · have h := le_putParts (s := s) (l := f ++ [(0x04, leBytes 4 s.cwStat), (0x08, leBytes 4 s.cup.opsec)]) (o := 0xC) (v := tag)
      (r := r ++ [(0, leBytes 4 (seqNext s.cwSeq))]) hw (hrest 0xC (by decide) (by decide))
    simpa only [List.append_assoc, List.cons_append, List.nil_append] using h

end Sys2Proof.Proofs
end

section
/-! PROOF. Snapshots, published half-cycles, marks, saves and supply of the Cupola (R413, R415, R420, R423). -/
namespace Sys2Proof.Proofs
open Sys2Proof.Machine Sys2Proof.Laws

/-! ### The snapshot (R422, R423) -/

/-- CW_STAT of the first snapshot fits its word. -/
theorem cwStat_first {s : State} (h : s.cwSeq = 0) : s.cwStat % 2 ^ 32 =
    (if s.cup.sealed then 2 ^ 31 else 0) + 2 ^ 27 + cupMode s.cup % 8 * 2 ^ 24 + 2 ^ 19 + 2 ^ 16 + 60 := by
  rw [State.cwStat, if_pos h]
  cases s.cup.sealed <;> simp only [b2n, if_true, if_false, Bool.false_eq_true] <;> omega

/-- The fifth clause of O56. -/
theorem snapshot_cases_shown {s : State} (hr : s.cup.ready = true) (hw : cupWf s) : ∃ t, exec .snapshot s = .next t ∧ t.cup.energy = s.cup.energy ∧
    t.cwSeq = seqNext s.cwSeq % 2 ^ 32 ∧ t.le (cupBase + 0x0C) 4 = 0 ∧ t.le (cupBase + 0x08) 4 = s.cup.opsec % 2 ^ 32 ∧
    (s.cwSeq = 0 → t.le (cupBase + 0x04) 4 = (if s.cup.sealed then 2 ^ 31 else 0) + 2 ^ 27 + cupMode s.cup % 8 * 2 ^ 24 + 2 ^ 19 + 2 ^ 16 + 60) ∧
    ∀ a, a < cupBase → t.byteAt a = s.byteAt a := by
  obtain ⟨-, hmem⟩ := hw
  obtain ⟨hseq, hstat, hopsec, htag⟩ := window_snapshot 0 hmem
  refine ⟨snapshot s 0 [], ok_if_true hr, snapshot_kept.energy, hseq, htag, hopsec, fun h => hstat.trans (cwStat_first h), fun a ha => ?_⟩
  rw [State.byteAt, snapshot_mem]
  exact byteAt_putParts_below _ _ ha

/-! ### The half-cycle that has ended (R413) -/

/-- Consecutive registers of a page, written in order. -/
def setRegs (s : State) (page : Nat) (f : Nat → Word32) (l : List Nat) : State := l.foldl (fun t k => t.setReg page (0x100 + 4 * k) (f k)) s

theorem wf_setRegs {s : State} (page : Nat) (f : Nat → Word32) (l : List Nat) (h : Regs.wf s = true) : Regs.wf (setRegs s page f l) = true := by
  unfold setRegs
  induction l generalizing s with
  | nil => exact h
  | cons k l ih => exact ih (wf_setReg _ _ _ _ h)
theorem setRegs_only (s : State) (page : Nat) (f : Nat → Word32) (l : List Nat) : ∃ rs, setRegs s page f l = { s with regs := rs } := by
  unfold setRegs
  induction l generalizing s with
  | nil => exact ⟨_, rfl⟩
  | cons k l ih => exact ih _
/-- Each register holds its word. -/
theorem reg_setRegs {s : State} {page : Nat} (f : Nat → Word32) {l : List Nat} {k : Nat} (h : Regs.wf s = true) (hk : k ∈ l ∨ s.reg page (0x100 + 4 * k) = f k) :
    (setRegs s page f l).reg page (0x100 + 4 * k) = f k := by
  unfold setRegs
  induction l generalizing s with
  | nil => exact hk.resolve_left List.not_mem_nil
  | cons j l ih =>
    refine ih (wf_setReg _ _ _ _ h) ?_
    by_cases e : k = j
    · subst e
      exact .inr (reg_setReg _ _ _ _ h)
    · rw [reg_setReg_key _ _ _ _ _ _ (by unfold regKey; omega)]
      exact hk.imp (fun m => (List.mem_cons.mp m).resolve_left e) id

/-- The peaks `l` and the number of half-cycles in the window. -/
def halfInWindow (s : State) (l : List Nat) : State :=
  snapshot (s.setCup { s.cup with ended := none }) 0 ((rangeFrom 0 4).map (fun k => (0x20C + 16 * k, leBytes 4 (l.getD k 0))) ++
    [(0x244, leBytes 4 (l.getD 4 0)), (0x24C, leBytes 4 s.cup.halves)])
/-- The same in the registers of page 0x382, with PEAK. -/
def halfInRegs (s : State) (l : List Nat) (halves : Nat) : State :=
  ((setRegs s 0x382 (fun k => w32 (l.getD k 0)) (rangeFrom 0 5)).setReg 0x382 0x114 (w32 halves)).irqBit 0x382 0

/-- Beside window and registers the half-cycle leaves its peak for the power budget. -/
theorem halfCyclePeak_eq {s : State} {l : List Nat} (hr : s.cup.ready = true) (he : s.cup.ended = some l) (ho : s.boot.power ≠ .off) :
    (halfCyclePeak s).regs = (halfInRegs (halfInWindow s l) l s.cup.halves).regs ∧
      (halfCyclePeak s).cup = (halfInRegs (halfInWindow s l) l s.cup.halves).cup := by
  have hon : (s.boot.power != .off) = true := bne_iff_ne.mpr ho
  unfold halfCyclePeak halfInRegs halfInWindow setRegs
  simp only [he, hr, hon, if_true]
  generalize State.irqBit _ 0x382 0 = u
  split <;> exact ⟨rfl, rfl⟩

section
variable {u : State} (l : List Nat) (n : Nat)
theorem halfInRegs_cup : (halfInRegs u l n).cup = u.cup := by
  obtain ⟨rs, hrs⟩ := setRegs_only u 0x382 (fun k => w32 (l.getD k 0)) (rangeFrom 0 5)
  rw [halfInRegs, irqBit_cup, hrs]
  rfl
theorem halfInRegs_peak (h : Regs.wf u = true) {k : Nat} (hk : k < 5) : (halfInRegs u l n).reg 0x382 (0x100 + 4 * k) = w32 (l.getD k 0) := by
  have hmem : k ∈ rangeFrom 0 5 := by interval_cases k <;> decide
  rw [halfInRegs, reg_irqBit_ne _ _ _ (by omega) (by decide) (by unfold oIrqRaw; omega), reg_setReg_ne _ _ _ _ _ _ (by decide) (by omega) (by omega),
    reg_setRegs (fun k => w32 (l.getD k 0)) h (.inl hmem)]
theorem halfInRegs_count (h : Regs.wf u = true) : (halfInRegs u l n).reg 0x382 0x114 = w32 n := by
  rw [halfInRegs, reg_irqBit_ne _ _ _ (by decide) (by decide) (by decide), reg_setReg _ _ _ _ (wf_setRegs _ _ _ h)]
theorem halfInRegs_flag (h : Regs.wf u = true) : (halfInRegs u l n).regB 0x382 oIrqRaw 0 = true :=
  regBit_irqBit (wf_setReg _ _ _ _ (wf_setRegs _ _ _ h)) (by decide)
end

/-- The sixth clause of O56. -/
theorem halfCyclePeak_cases {s : State} {l : List Nat} (hr : s.cup.ready = true) (he : s.cup.ended = some l) (ho : s.boot.power ≠ .off)
    (hw : cupWf s) : ∃ t, exec .halfCyclePeak s = .next t ∧ (∀ k < 5, t.reg 0x382 (0x100 + 4 * k) = w32 (l.getD k 0)) ∧
      t.reg 0x382 0x114 = w32 s.cup.halves ∧ t.regB 0x382 oIrqRaw 0 = true ∧ t.cup.energy = s.cup.energy ∧ t.cup.ended = none := by
  obtain ⟨hregs, hcup⟩ := halfCyclePeak_eq hr he ho
  obtain ⟨hrw, -⟩ := hw
  have hwf : Regs.wf (halfInWindow s l) = true := snapshot_kept.regs hrw
  have hshown : Shown (s.setCup { s.cup with ended := none }) (halfInWindow s l) := snapshot_shown _ _ _
  obtain ⟨q, n, hq⟩ := hshown.cup
  rw [halfInRegs_cup, hq] at hcup
  refine ⟨halfCyclePeak s, rfl, fun k hk => ?_, ?_, ?_, ?_, ?_⟩
  · rw [reg_congr hregs, halfInRegs_peak l _ hwf hk]
  · rw [reg_congr hregs, halfInRegs_count l _ hwf]
  · rw [State.regB, reg_congr hregs]
    exact halfInRegs_flag l _ hwf
  · rw [hcup]
    rfl
  · rw [hcup]
    rfl

theorem halfCyclePeak_none {s : State} (h : s.cup.ended = none) : halfCyclePeak s = s := by simp only [halfCyclePeak, h]

/-! ### Marks, self-check, temperature and warm-up (R414, R415) -/

theorem exec_phaseMark {s : State} (n : Nat) (hr : s.cup.ready = true) :
    exec (.phaseMark n) s = .next (if cupNomark s.cup = false ∧ s.belfSrc = 0 then belfCross s n else s) := by
  show ok (if s.cup.ready && (!(cupNomark s.cup) && s.belfSrc == 0) then _ else _) = _
  simp only [hr, Bool.true_and, Bool.and_eq_true, Bool.not_eq_true', beq_iff_eq]
  rfl
theorem exec_warmUpEnd {s : State} (hr : s.cup.ready = true) : exec .warmUpEnd s =
    .next (if s.cup.warm = true ∧ s.cup.warmLeft = 0 then statUpdate { s with cup := { s.cup with warm := false } } else s) := by
  show ok (if s.cup.ready && (s.cup.warm && s.cup.warmLeft == 0) then _ else _) = _
  simp only [hr, Bool.true_and, Bool.and_eq_true, beq_iff_eq]
  rfl

/-! ### Supply and saves (R409, R415, R420) -/

theorem sget_sdrop {α : Type} {f : Nat → Bool} (m : SMap α) (d : α) {k : Nat} (h : f k = true) : sget (sdrop f m) k d = d := by
  induction m with
  | nil => rfl
  | cons c m ih =>
    obtain ⟨j, x⟩ := c
    rw [sdrop]
    split
    · exact ih
    · next hj =>
      rw [sget, if_neg (by rintro rfl; exact hj h)]
      exact ih
theorem byteAt_clearBytes (s : State) {a b n : Nat} (h : a ≤ b ∧ b < a + n) : (s.clearBytes a n).byteAt b = 0 :=
  sget_sdrop _ _ (by simp [h])

/-- The supply sinks and comes back: the die warms up again. -/
theorem brownOut_back {s : State} (hr : s.cup.ready = true) :
    brownOut s true false = statUpdate { s with cup := { powerFail s.cup true with warm := true, warmLeft := 60 } } := by
  simp only [brownOut, hr, if_true, Bool.false_eq_true, if_false]
  rfl
/-- The supply is lost. -/
theorem brownOut_lost {s : State} (hr : s.cup.ready = true) : brownOut s true true = cupDown (s.setCup (powerFail s.cup true)) := by
  simp only [brownOut, hr, if_true]

/-- What the die keeps without its supply. -/
theorem cupDown_cases {s : State} (hw : Regs.wf s = true) : (cupDown s).cup.ready = false ∧ (cupDown s).cup.save = s.cup.save ∧
    (cupDown s).cup.holdupOk = s.cup.holdupOk ∧ (cupDown s).regB 0x380 oIrqRaw 1 = true ∧
    ∀ a, cupBase ≤ a → a < cupBase + 0x10000 → (cupDown s).byteAt a = 0 := by
  have hbytes : ∀ a, cupBase ≤ a → a < cupBase + 0x10000 → (s.clearBytes cupBase 0x10000).byteAt a = 0 := fun a hlo hhi =>
    byteAt_clearBytes s ⟨hlo, hhi⟩
  unfold cupDown
  dsimp only
  split
  · refine ⟨?_, ?_, ?_, regBit_irqBit (wf_irqBit _ _ (wf_setReg _ _ _ _ hw)) (by decide), fun a hlo hhi => ?_⟩
    · rw [absChange, irqBit_cup, cmdEnd, irqBit_cup]; rfl
    · rw [absChange, irqBit_cup, cmdEnd, irqBit_cup]; rfl
    · rw [absChange, irqBit_cup, cmdEnd, irqBit_cup]; rfl
    · rw [State.byteAt, absChange, irqBit_mem, cmdEnd, irqBit_mem]
      exact hbytes a hlo hhi
  · refine ⟨?_, ?_, ?_, regBit_irqBit hw (by decide), fun a hlo hhi => ?_⟩
    · rw [absChange, irqBit_cup]; rfl
    · rw [absChange, irqBit_cup]; rfl
    · rw [absChange, irqBit_cup]; rfl
    · rw [State.byteAt, absChange, irqBit_mem]
      exact hbytes a hlo hhi

/-- The ninth clause of O56: a completed power-fail write. -/
theorem brownOut_cases {s : State} (l : Bool) (hr : s.cup.ready = true) (hw : cupWf s) : ∃ t, exec (.brownOut true l) s = .next t ∧
    t.cup.save = { energy := s.cup.energy, opsec := s.cup.opsec, fail := true } ∧ t.cup.holdupOk = true ∧
    (l = false → t.cup.ready = true ∧ t.cup.warm = true ∧ t.cup.warmLeft = 60 ∧ t.cup.energy = s.cup.energy) ∧
    (l = true → t.cup.ready = false ∧ t.regB 0x380 oIrqRaw 1 = true ∧ ∀ a, cupBase ≤ a → a < cupBase + 0x10000 → t.byteAt a = 0) := by
  obtain ⟨hregs, -⟩ := hw
  cases l with
  | false =>
    obtain ⟨q, n, h⟩ := (statUpdate_shown { s with cup := { powerFail s.cup true with warm := true, warmLeft := 60 } }).cup
    refine ⟨_, congrArg Host.Outcome.next (brownOut_back hr), ?_⟩
    rw [h]
    exact ⟨rfl, rfl, fun _ => ⟨hr, rfl, rfl, rfl⟩, nofun⟩
  | true =>
    obtain ⟨hready, hsave, hholdup, hflag, hbytes⟩ := cupDown_cases (s := s.setCup (powerFail s.cup true)) hregs
    exact ⟨_, congrArg Host.Outcome.next (brownOut_lost hr), hsave, hholdup, nofun, fun _ => ⟨hready, hflag, hbytes⟩⟩

theorem exec_periodicSave {s : State} (hr : s.cup.ready = true) : exec .periodicSave s = .next
    (if 3600 ≤ (s.cup.opsec + 2 ^ 32 - s.cup.savedAt) % 2 ^ 32 then { s with cup := { s.cup with
      save := { energy := s.cup.energy, opsec := s.cup.opsec, fail := false }, savedAt := s.cup.opsec } } else s) := by
  show ok (if s.cup.ready && decide (3600 ≤ (2 ^ 32 + s.cup.opsec - s.cup.savedAt) % 2 ^ 32) then _ else _) = _
  rw [hr, Nat.add_comm (2 ^ 32)]
  simp only [Bool.true_and, decide_eq_true_eq]
  rfl

/-- The die as it comes up, before its log (R420). -/
def cupUp (c : Cup) (calen : Bool) : Cup :=
  { c with ready := true, energy := c.save.energy, opsec := c.save.opsec, savedAt := c.save.opsec, calen := calen,
           holdupOk := c.holdupOk && c.save.fail }

/-- The die after the log entry of a roll-back, where its save was no power-fail write. -/
def cupRolled (s : State) (calen : Bool) : State :=
  let s1 := absChange (s.setCup (cupUp s.cup calen))
  if s.cup.save.fail then s1
  else if logFree (cupUp s.cup calen) then logAdd s1.fresh.2 6 0 s.cup.save.opsec (s1.fresh.1.toNat % 2 ^ 32) else s1

theorem cupPowerUp_eq {s : State} (calen : Bool) (hr : s.cup.ready = false) : cupPowerUp s calen =
    if calen == s.cup.calenLogged then cupRolled s calen
    else if logFree (cupRolled s calen).cup then
      logAdd ((cupRolled s calen).setCup { (cupRolled s calen).cup with calenLogged := calen }) (if calen then 3 else 4) 0 (b2n (!calen)) (b2n calen)
    else (cupRolled s calen).setCup { (cupRolled s calen).cup with calenLogged := calen } := by
  simp only [cupPowerUp, hr, Bool.false_eq_true, if_false]
  rfl

/-- What the die has after the roll-back entry: all but log and messages as it came up. -/
theorem cupRolled_cup (s : State) (calen : Bool) : ∃ lg q n, (cupRolled s calen).cup = { cupUp s.cup calen with log := lg, evq := q, evlost := n } ∧
    (s.cup.save.fail = true → lg = s.cup.log) ∧
    (s.cup.save.fail = false → s.cup.log.length < 256 → ∃ n, lg = s.cup.log ++
      [{ num := s.cup.log.length, kind := 6, param := 0, opsec := s.cup.save.opsec, old := s.cup.save.opsec, new := n }]) := by
  have habs : (absChange (s.setCup (cupUp s.cup calen))).cup = cupUp s.cup calen := irqBit_cup _ _ _
  unfold cupRolled
  dsimp only
  split
  · next hf => exact ⟨s.cup.log, _, _, habs, fun _ => rfl, fun h => absurd hf (by rw [h]; decide)⟩
  next hf =>
  split
  · obtain ⟨q, n, h⟩ := (logAdd_shown (absChange (s.setCup (cupUp s.cup calen))).fresh.2 6 0 s.cup.save.opsec
      ((absChange (s.setCup (cupUp s.cup calen))).fresh.1.toNat % 2 ^ 32)).cup
    have hfresh : (absChange (s.setCup (cupUp s.cup calen))).fresh.2.cup = cupUp s.cup calen := habs
    rw [hfresh] at h
    exact ⟨_, q, n, h, fun k => absurd k hf, fun _ _ => ⟨_, rfl⟩⟩
  · next hfree =>
    refine ⟨s.cup.log, _, _, habs, fun _ => rfl, fun _ hlt => absurd ?_ hfree⟩
    exact decide_eq_true hlt

/-- The last clause of O56: power-up. -/
theorem cupolaPowerUp_cases {s : State} (b : Bool) (hr : s.cup.ready = false) : ∃ t, exec (.cupolaPowerUp b) s = .next t ∧ t.cup.ready = true ∧
    t.cup.energy = s.cup.save.energy ∧ t.cup.opsec = s.cup.save.opsec ∧ t.cup.holdupOk = (s.cup.holdupOk && s.cup.save.fail) ∧
    (s.cup.save.fail = true → b = s.cup.calenLogged → t.cup.log = s.cup.log) ∧
    (s.cup.save.fail = false → b = s.cup.calenLogged → s.cup.log.length < 256 → ∃ n, t.cup.log = s.cup.log ++
      [{ num := s.cup.log.length, kind := 6, param := 0, opsec := s.cup.save.opsec, old := s.cup.save.opsec, new := n }]) := by
  obtain ⟨lg, q, n, hc, hkept, hrolled⟩ := cupRolled_cup s b
  refine ⟨cupPowerUp s b, rfl, ?_⟩
  rw [cupPowerUp_eq b hr]
  split
  · rw [hc]
    exact ⟨rfl, rfl, rfl, rfl, fun h _ => hkept h, fun h _ hlt => hrolled h hlt⟩
  next hb =>
  have hne : ¬ b = s.cup.calenLogged := fun h => hb (beq_iff_eq.mpr h)
  split
  · obtain ⟨q2, n2, h2⟩ := (logAdd_shown ((cupRolled s b).setCup { (cupRolled s b).cup with calenLogged := b }) (if b then 3 else 4) 0
      (b2n (!b)) (b2n b)).cup
    have hset : ((cupRolled s b).setCup { (cupRolled s b).cup with calenLogged := b }).cup = { (cupRolled s b).cup with calenLogged := b } := rfl
    rw [h2, hset, hc]
    exact ⟨rfl, rfl, rfl, rfl, fun _ h => absurd h hne, fun _ h => absurd h hne⟩
  · have hset : ((cupRolled s b).setCup { (cupRolled s b).cup with calenLogged := b }).cup = { (cupRolled s b).cup with calenLogged := b } := rfl
    rw [hset, hc]
    exact ⟨rfl, rfl, rfl, rfl, fun _ h => absurd h hne, fun _ h => absurd h hne⟩

/-- Settles O56, clause by clause. -/
theorem cupolaMeasuresAndPublishes : Obligations.CupolaMeasuresAndPublishes := by
  refine ⟨fun s a b c d => ⟨exec_not_ready a b c d, fun h => ?_⟩, fun e i x p _ => ⟨rfl, fun hp y q hq => ?_⟩,
    fun s a b c d hr ht hn => ?_, fun s a b c d hr ht hn hx => ?_, fun s hr hw _ => snapshot_cases_shown hr hw,
    fun s => ⟨fun he => congrArg Host.Outcome.next (halfCyclePeak_none he), fun l hr he ho hw => halfCyclePeak_cases hr he ho hw⟩,
    fun s n hr => exec_phaseMark n hr, fun s b hr => ⟨ok_if_true hr, ok_if_true hr, exec_warmUpEnd hr⟩,
    fun s hr => ⟨fun l hw => brownOut_cases l hr hw, fun h => ?_, fun h => ?_, fun b => ok_if_true hr⟩,
    fun s b hr => cupolaPowerUp_cases b hr⟩
  · obtain ⟨hlog, hparams, hsealed, hsave, henergy, -, -⟩ := cupSample_kept s.cup a b c d
    exact ⟨_, exec_sample a b c d h, hlog, hparams, hsealed, hsave, henergy⟩
  · rw [energyPower_eq hp hq]
    obtain ⟨hreg, hres, hpart⟩ := energyAdd_same e y q
    exact ⟨hreg, hres, hpart, fun r hr => energyAdd_other e y q hr⟩
  · obtain ⟨-, -, -, -, -, hended, hhalves⟩ := cupSample_kept s.cup a b c d
    obtain ⟨he, hh⟩ := sampled_before a ht hn
    exact ⟨_, exec_sample a b c d hr, hended.trans he, hhalves.trans hh⟩
  · obtain ⟨-, -, -, -, -, hended, hhalves⟩ := cupSample_kept s.cup a b c d
    obtain ⟨he, hh, hch⟩ := sampled_crossing ht hn hx
    exact ⟨_, exec_sample a b c d hr, hended.trans he, hhalves.trans hh, fun k => peak_cupSample b c d k hch⟩
  · rw [exec_periodicSave hr, if_neg (by omega)]
  · rw [exec_periodicSave hr, if_pos h]

end Sys2Proof.Proofs
end

section
/-! PROOF. What the loss of the power master's role (R283, R296) and of running spire groups (R173) change, and what a device warm reset keeps
(R449, R469). -/
namespace Sys2Proof.Proofs
open Sys2Proof.Machine Sys2Proof.Laws

/-! ### Tables cut by their keys -/

theorem sget_filter {α : Type} (p : Nat → Bool) (m : SMap α) (k : Nat) (d : α) :
    sget (m.filter fun c => p c.1) k d = if p k then sget m k d else d := by
  induction m with
  | nil => exact (ite_self _).symm
  | cons c m ih =>
    obtain ⟨j, x⟩ := c
    by_cases hk : k = j
    · subst hk
      by_cases hp : p k = true
      · simp [hp, sget]
      · simp [hp, ih]
    · by_cases hp : p j = true
      · simp [hp, sget, hk, ih]
      · simp [hp, ih, sget, hk]

/-! ### The power master's role ends (R283, R296) -/

/-- Registers, ports and the power sets' bookkeeping alone may differ. -/
def PortsMoved (s t : State) : Prop := ∃ rs ps w, t = { s with regs := rs, ports := ps, pwr := w }

theorem PortsMoved.refl {s : State} : PortsMoved s s := ⟨_, _, _, rfl⟩
theorem PortsMoved.trans {s t u : State} (h : PortsMoved s t) (k : PortsMoved t u) : PortsMoved s u := by
  obtain ⟨_, _, _, rfl⟩ := h
  obtain ⟨rs, ps, w, rfl⟩ := k
  exact ⟨rs, ps, w, rfl⟩
theorem PortsMoved.setRegF {s : State} (p o lo w v : Nat) : PortsMoved s (s.setRegF p o lo w v) := ⟨_, _, _, rfl⟩
theorem PortsMoved.foldl {α : Type} {f : State → α → State} (hf : ∀ t a, PortsMoved t (f t a)) (l : List α) (s : State) :
    PortsMoved s (l.foldl f s) := by
  induction l generalizing s with
  | nil => exact .refl
  | cons a l ih => exact (hf s a).trans (ih _)

theorem unbind_moves (s : State) (p : Nat) : PortsMoved s (unbind s p) := by
  unfold unbind
  rcases boundTo s p with _ | c
  · by_cases h : s.started p = true
    · simp only [h, if_true]
      exact ⟨_, _, _, rfl⟩
    · simp only [h]
      exact ⟨_, _, _, rfl⟩
  · dsimp only
    split <;> exact ⟨_, _, _, rfl⟩
theorem disarmAll_moves (l : List Nat) (s : State) : PortsMoved s (disarmAll s l) := by
  induction l generalizing s with
  | nil => exact .refl
  | cons p l ih => exact ((unbind_moves s p).trans (.setRegF _ _ _ _ _)).trans (ih _)
theorem requeueBound_moves (s : State) : PortsMoved s (requeueBound s) := (disarmAll_moves _ s).trans ⟨_, _, _, rfl⟩
theorem bayDark_moves (s : State) (p : Nat) : PortsMoved s (bayDark s p) := by
  unfold bayDark
  dsimp only
  split <;> split <;> exact ⟨_, _, _, rfl⟩
theorem masterLost_moves (s : State) : PortsMoved s (masterLost s) := by
  unfold masterLost
  split
  · refine PortsMoved.trans ?_ (PortsMoved.foldl bayDark_moves _ _)
    exact ((PortsMoved.setRegF 0x350 oStat 31 1 0).trans (requeueBound_moves _)).trans ⟨_, _, _, rfl⟩
  · exact .refl

/-! ### Running spire groups are lost (R173) -/

/-- Memory and the free choices alone may differ. -/
def MemMoved (s t : State) : Prop := ∃ m f, t = { s with mem := m, free := f }

theorem MemMoved.refl {s : State} : MemMoved s s := ⟨_, _, rfl⟩
theorem MemMoved.trans {s t u : State} (h : MemMoved s t) (k : MemMoved t u) : MemMoved s u := by
  obtain ⟨_, _, rfl⟩ := h
  obtain ⟨m, f, rfl⟩ := k
  exact ⟨m, f, rfl⟩
theorem MemMoved.foldl {α : Type} {f : State → α → State} (hf : ∀ t a, MemMoved t (f t a)) (l : List α) (s : State) :
    MemMoved s (l.foldl f s) := by
  induction l generalizing s with
  | nil => exact .refl
  | cons a l ih => exact (hf s a).trans (ih _)

theorem poke_moves (s : State) (a : Nat) (d : List Byte) : MemMoved s (s.poke a d) := by
  unfold State.poke
  split
  · split
    · exact .foldl (fun _ _ => ⟨_, _, rfl⟩) _ _
    · exact .refl
  · exact ⟨_, _, rfl⟩
theorem undoStores_moves (l : List GStore) (s : State) : MemMoved s (undoStores s l) := by
  induction l generalizing s with
  | nil => exact .refl
  | cons g l ih =>
    have hf : MemMoved s s.fresh.2 := ⟨_, _, rfl⟩
    refine MemMoved.trans ?_ (ih _)
    split
    · exact hf.trans (poke_moves _ _ _)
    · exact hf
theorem undoRunning_moves (s : State) (n : Fin 8) : MemMoved s (undoRunning s n) := by
  unfold undoRunning
  split
  · exact undoStores_moves _ s
  · exact .refl

/-- Where no group runs, nothing is lost. -/
theorem foldl_undoRunning_idle {s : State} (h : ∀ n : Fin 8, (s.spire n).running = none) (l : List (Fin 8)) : l.foldl undoRunning s = s := by
  induction l with
  | nil => rfl
  | cons n l ih =>
    have hn : undoRunning s n = s := by simp only [undoRunning, h n]
    rw [List.foldl_cons, hn, ih]

/-- The state whose contents a device warm reset keeps in part (R449). -/
def warmLast (s : State) : State := (List.finRange 8).foldl undoRunning (masterLost s)

theorem warmLast_boot (s : State) : (warmLast s).boot = s.boot := by
  obtain ⟨_, _, _, h⟩ := masterLost_moves s
  obtain ⟨_, _, k⟩ := MemMoved.foldl undoRunning_moves (List.finRange 8) (masterLost s)
  rw [warmLast, k, h]
theorem warmLast_mem_idle {s : State} (h : ∀ n : Fin 8, (s.spire n).running = none) : (warmLast s).mem = s.mem := by
  obtain ⟨_, _, _, hm⟩ := masterLost_moves s
  have hr : ∀ n : Fin 8, ((masterLost s).spire n).running = none := fun n => by rw [hm]; exact h n
  rw [warmLast, foldl_undoRunning_idle hr, hm]

/-! ### What a device warm reset keeps (R449) -/

section
variable (g : Nat → Bool) (l : List Nat) (s : State)
theorem foldl_setDom_only : ∃ ds, l.foldl (fun t d => t.setDom d (g d)) s = { s with domains := ds } := by
  induction l generalizing s with
  | nil => exact ⟨_, rfl⟩
  | cons d l ih => exact ih _
@[simp] theorem foldl_setDom_mem : (l.foldl (fun t d => t.setDom d (g d)) s).mem = s.mem := by
  obtain ⟨_, h⟩ := foldl_setDom_only g l s; rw [h]
@[simp] theorem foldl_setDom_boot : (l.foldl (fun t d => t.setDom d (g d)) s).boot = s.boot := by
  obtain ⟨_, h⟩ := foldl_setDom_only g l s; rw [h]
@[simp] theorem foldl_setDom_regs : (l.foldl (fun t d => t.setDom d (g d)) s).regs = s.regs := by
  obtain ⟨_, h⟩ := foldl_setDom_only g l s; rw [h]
end

/-- The keys of memory that a device warm reset keeps. -/
def warmMem (kept : Bool) (a : Nat) : Bool :=
  decide (2 ^ 51 ≤ a) || (decide (cupBase ≤ a ∧ a < cupBase + 0x10000) || kept && decide (2 ^ 50 ≤ a ∧ a < 2 ^ 51))

theorem warmKeep_parts (s : State) (kept : Bool) : ∃ t : State, t.boot.rstLow = s.boot.rstLow ∧
    t.mem = (warmLast s).mem.filter (fun c => warmMem kept c.1) ∧
    t.regs = (warmLast s).regs.filter (fun r => warmReg (r.1 / 4096) (r.1 % 4096)) ∧
    warmKeep s false kept = ((t.setRegF 0x350 0x158 8 2 2).setRegF 0x350 0x158 0 2 2).setRegF 0 oStat 0 1 (b2n kept) := by
  have hb := warmLast_boot s
  have hdef : warmLast s = (List.finRange 8).foldl undoRunning (masterLost s) := rfl
  unfold warmKeep
  rw [← hdef]
  generalize warmLast s = s0 at hb ⊢
  dsimp only
  refine ⟨_, ?_, ?_, ?_, rfl⟩
  · rw [foldl_setDom_boot, ← hb]
  · rw [foldl_setDom_mem]
    simp only [warmMem, Bool.false_and, Bool.or_false]
  · rw [foldl_setDom_regs]
    simp only [Bool.false_and, Bool.or_false]

theorem warmKeep_rstLow (s : State) (kept : Bool) : (warmKeep s false kept).boot.rstLow = s.boot.rstLow := by
  obtain ⟨t, hlow, -, -, h⟩ := warmKeep_parts s kept
  rw [h]
  exact hlow
theorem warmKeep_byteAt (s : State) (kept : Bool) (a : Nat) :
    (warmKeep s false kept).byteAt a = if warmMem kept a then (warmLast s).byteAt a else 0 := by
  obtain ⟨t, -, hmem, -, h⟩ := warmKeep_parts s kept
  rw [h]
  exact (congrArg (sget · a 0) hmem).trans (sget_filter _ _ _ _)

theorem warmReg_turretCtl : ∀ n : Fin 8, warmReg (0x1A0 + n.val) oCtl = false := by decide
theorem turretCtl_reset : ∀ n : Fin 8, regReset (0x1A0 + n.val) oCtl = 1 := by decide

/-- Every turret is held: its CTL is at its reset value. -/
theorem warmKeep_turretCtl (s : State) (kept : Bool) (n : Fin 8) :
    (warmKeep s false kept).reg (0x1A0 + n.val) oCtl = 1 := by
  have hn := n.isLt
  have hkey : regKey (0x1A0 + n.val) oCtl / 4096 = 0x1A0 + n.val ∧ regKey (0x1A0 + n.val) oCtl % 4096 = oCtl := by
    unfold regKey oCtl; omega
  obtain ⟨t, -, -, ht, h⟩ := warmKeep_parts s kept
  rw [h, reg_setRegF_ne (by decide) (by decide) (by omega), reg_setRegF_ne (by decide) (by decide) (by omega),
    reg_setRegF_ne (by decide) (by decide) (by omega)]
  rw [State.reg, ht, sget_filter (fun k => warmReg (k / 4096) (k % 4096)), hkey.1, hkey.2, warmReg_turretCtl n,
    if_neg Bool.false_ne_true, regResetAt, hkey.1, hkey.2]
  exact turretCtl_reset n

end Sys2Proof.Proofs
end

section
/-! PROOF. RST_N, DWRST and a warm reset that was raised (R449, R469). -/
namespace Sys2Proof.Proofs
open Sys2Proof.Machine Sys2Proof.Laws

/-- What a device warm reset has kept, with its cause, while RST_N holds its start (R469). -/
def heldReset (w : State) (c : Nat) : State := (w.setRegF 0 oStat 24 4 c).setBoot { (w.setRegF 0 oStat 24 4 c).boot with warm := some c }

section
variable (w : State) (c : Nat)
theorem byteAt_heldReset (a : Nat) : (heldReset w c).byteAt a = w.byteAt a := rfl
theorem reg_heldReset (p o : Nat) : (heldReset w c).reg p o = (w.setRegF 0 oStat 24 4 c).reg p o := rfl
theorem rstLow_heldReset : (heldReset w c).boot.rstLow = w.boot.rstLow := rfl
theorem warm_heldReset : (heldReset w c).boot.warm = some c := rfl
theorem pending_heldReset : (heldReset w c).pending = w.pending := rfl
theorem energy_heldReset : (heldReset w c).cup.energy = w.cup.energy := rfl
end

/-- The start of a device warm reset waits while RST_N is low. -/
theorem warmStart_held {s : State} (c : Nat) (io : StartIo) (h : s.boot.rstLow = true) :
    warmStart s c io = heldReset (warmKeep s false (s.memc.mode == .wide)) c := by
  have hlow := (warmKeep_rstLow s (s.memc.mode == .wide)).trans h
  unfold warmStart
  dsimp only
  rw [if_pos (by rw [setRegF_boot]; exact hlow)]
  rfl

theorem exec_rstPin (s : State) (io : StartIo) : exec (.deviceWarmReset .rstPin io) s = .next (rstPin s io) := rfl
theorem exec_raised (s : State) (io : StartIo) : exec (.deviceWarmReset .raised io) s = .next (raisedReset s io) := rfl
theorem exec_dwrst (s : State) (id : MasterId) (io : StartIo) : exec (.deviceWarmReset (.dwrst id) io) s =
    .next (raisedReset (cmdReg s id 0 oCtl (w32 (2 + b2n (s.regB 0 oCtl 0)))) io) := rfl

/-- Past the release, RST_N low raises a warm reset of cause 4 (R469). -/
theorem rstPin_late {s : State} (io : StartIo) (ho : s.boot.power ≠ .off) (hp : s.boot.por = false) (h5 : 5 ≤ s.regF 0 oStat 28 4) :
    rstPin s io = warmStart { s with boot := { s.boot with rstLow := true } } 4 io := by
  have hearly : decide (s.phase < 5) = false := decide_eq_false (Nat.not_lt.mpr h5)
  unfold rstPin
  rw [if_neg (by rw [hp]; exact fun h => h.elim ho Bool.false_ne_true), hearly, Bool.false_and]
  rfl

/-! ### What is in memory after a device warm reset -/

theorem warmMem_dram {kept : Bool} {a : Nat} (h : dramKey a) : warmMem kept a = kept := by
  obtain ⟨hlo, hhi⟩ := h
  have h1 : ¬ 2 ^ 51 ≤ a := by omega
  have h2 : ¬ (cupBase ≤ a ∧ a < cupBase + 0x10000) := by unfold cupBase; omega
  rw [warmMem, decide_eq_false h1, decide_eq_false h2, decide_eq_true ⟨hlo, hhi⟩, Bool.and_true, Bool.false_or, Bool.false_or]
theorem warmMem_other {kept : Bool} {a : Nat} (h : a < 2 ^ 50) (hl : ¬ lasting a = true) : warmMem kept a = false := by
  simp only [lasting, decide_eq_true_eq, not_or] at hl
  rw [warmMem, decide_eq_false hl.1, decide_eq_false hl.2, decide_eq_false (by omega : ¬ (2 ^ 50 ≤ a ∧ a < 2 ^ 51)), Bool.and_false]
  rfl

theorem warmKeep_dram (s : State) {kept : Bool} {a : Nat} (h : dramKey a) :
    (warmKeep s false kept).byteAt a = if kept then (warmLast s).byteAt a else 0 := by rw [warmKeep_byteAt, warmMem_dram h]
theorem warmKeep_other (s : State) {kept : Bool} {a : Nat} (h : a < 2 ^ 50) (hl : ¬ lasting a = true) :
    (warmKeep s false kept).byteAt a = 0 := by rw [warmKeep_byteAt, warmMem_other h hl, if_neg Bool.false_ne_true]

/-- The second clause of O59. -/
theorem rstPin_holds {s : State} (io : StartIo) (ho : s.boot.power ≠ .off) (hp : s.boot.por = false) (h5 : 5 ≤ s.regF 0 oStat 28 4)
    (hw : Regs.wf s = true) : ∃ t,
      exec (.deviceWarmReset .rstPin io) s = .next t ∧ t.boot.rstLow = true ∧ t.boot.warm = some 4 ∧ t.regF 0 oStat 24 4 = 4 ∧
      t.pending = s.pending ∧ t.cup.energy = s.cup.energy ∧ (∀ n : Fin 8, t.held n = true) ∧
      ((∀ n : Fin 8, (s.spire n).running = none) → ∀ a, dramKey a → t.byteAt a = if s.memc.mode = .wide then s.byteAt a else 0) ∧
      (∀ a, dramKey a → t.byteAt a = if s.memc.mode = .wide then
        ((List.finRange 8).foldl undoRunning (masterLost { s with boot := { s.boot with rstLow := true } })).byteAt a else 0) ∧
      (∀ a, a < 2 ^ 50 → ¬lasting a → t.byteAt a = 0) := by
  obtain ⟨u, hu⟩ : ∃ u : State, u = { s with boot := { s.boot with rstLow := true } } := ⟨_, rfl⟩
  have hmode : u.memc.mode = s.memc.mode := by rw [hu]
  have hu' : u.boot.rstLow = true ∧ u.pending = s.pending ∧ u.cup.energy = s.cup.energy ∧ u.mem = s.mem ∧ Regs.wf u = true := by
    rw [hu]; exact ⟨rfl, rfl, rfl, rfl, hw⟩
  obtain ⟨hlow, hpend, hen, hmem, hwf⟩ := hu'
  have hk := warmKeep_kept (s := u) (vigil := false) (kept := u.memc.mode == .wide)
  have hdram : ∀ a, dramKey a → (heldReset (warmKeep u false (u.memc.mode == .wide)) 4).byteAt a =
      if s.memc.mode = .wide then (warmLast u).byteAt a else 0 := fun a ha => by
    rw [byteAt_heldReset, warmKeep_dram u ha, hmode]
    simp only [beq_iff_eq]
  rw [exec_rstPin, rstPin_late io ho hp h5, ← hu, warmStart_held 4 io hlow]
  refine ⟨_, rfl, ?_, warm_heldReset _ _, ?_, ?_, ?_, fun n => ?_, fun hr a ha => ?_, hdram, fun a ha hl => ?_⟩
  · rw [rstLow_heldReset, warmKeep_rstLow, hlow]
  · rw [State.regF, reg_heldReset]
    exact regF_setRegF (hk.regs hwf) (by decide)
  · rw [pending_heldReset, hk.pending, hpend]
  · rw [energy_heldReset, hk.energy, hen]
  · rw [State.held, State.regB, reg_heldReset, reg_setRegF_ne (by decide) (by decide) (by omega), warmKeep_turretCtl]
    decide
  · have hidle : (warmLast u).mem = u.mem := warmLast_mem_idle (by rw [hu]; exact hr)
    rw [hdram a ha, State.byteAt, State.byteAt, hidle, hmem]
  · rw [byteAt_heldReset, warmKeep_other u ha hl]

/-! ### Resets raised and refused -/

theorem raisedReset_none {s : State} (io : StartIo) (h : s.boot.warm = none) : raisedReset s io = s := by
  unfold raisedReset
  rw [h]
theorem raisedReset_rstLow {s : State} (io : StartIo) (h : s.boot.rstLow = true) : raisedReset s io = s := by
  unfold raisedReset
  split
  · exact if_pos h
  · rfl
theorem rstRise_none {s : State} (io : StartIo) (h : s.boot.warm = none) :
    rstRise s io = { s with boot := { s.boot with rstLow := false, warm := none } } := by
  unfold rstRise
  rw [h]
  rfl

@[simp] theorem berr_boot (s : State) (id : MasterId) (a : Nat) (w : Bool) (c : BusCause) : (s.berr id a w c).boot = s.boot := by
  unfold State.berr
  rw [irqBit_boot]
  split <;> rfl

/-- KEEP_CTL is Custody's to write (R11, R450). -/
theorem cmdReg_keepCtl_access {s : State} {id : MasterId} (v : Word32) (hi : s.issues id = true) (hc : s.custodyOf id = false) :
    cmdReg s id 0 oCtl v = refusedWrite s id 0 oCtl .access := by
  have hinfo : regInfo 0 oCtl = some { rwc := 3 } := rfl
  refine cmdWrite_page_err hi (by decide) (by decide) ?_
  rw [regWrite_reaches (b := .keep) (n := 0) rfl (length_leBytes 4 _) rfl rfl hinfo rfl, hc]
  rfl

/-- RST_N, DWRST and a raised reset: the first part of O59. -/
theorem resets_hold (s : State) (io : StartIo) :
    (s.boot.power = .off ∨ s.boot.por = true → exec (.deviceWarmReset .rstPin io) s =
      .next { s with boot := { s.boot with rstLow := true } }) ∧
    (s.boot.warm = none ∨ s.boot.rstLow = true → exec (.deviceWarmReset .raised io) s = .next s) ∧
    (s.boot.warm = none → exec (.rstNRisingEdge io) s = .next { s with boot := { s.boot with rstLow := false, warm := none } }) ∧
    (∀ id, s.issues id = true → s.custodyOf id = false → s.boot.warm = none →
      exec (.deviceWarmReset (.dwrst id) io) s = .next (refusedWrite s id 0 oCtl .access)) := by
  refine ⟨fun h => congrArg Host.Outcome.next (if_pos h), fun h => ?_, fun h => congrArg Host.Outcome.next (rstRise_none io h), fun id hi hc hn => ?_⟩
  · rw [exec_raised]
    exact congrArg _ (h.elim (raisedReset_none io) (raisedReset_rstLow io))
  · rw [exec_dwrst, cmdReg_keepCtl_access _ hi hc]
    exact congrArg _ (raisedReset_none io ((congrArg Boot.warm (berr_boot _ _ _ _ _)).trans hn))

end Sys2Proof.Proofs
end

section
/-! PROOF. Requests for VIGIL and OFF, and what OFF keeps (R428-R430). -/
namespace Sys2Proof.Proofs
open Sys2Proof.Machine Sys2Proof.Laws

/-! ### What the loss of the supplies keeps (R428, R433) -/

theorem bare_byteAt (s : State) (a : Nat) : s.bare.byteAt a = if lasting a then s.byteAt a else 0 := by
  refine (sget_filter (fun k => decide (2 ^ 51 ≤ k) || decide (0xE00000000 ≤ k ∧ k < 0xE00010000)) s.mem a 0).trans ?_
  unfold lasting
  rw [Bool.decide_or]
  rfl
theorem powerOff_byteAt (s : State) (a : Nat) : (powerOff s).byteAt a = if lasting a then s.byteAt a else 0 :=
  Eq.trans rfl (bare_byteAt s a)
theorem powerOff_power (s : State) : (powerOff s).boot.power = .off := rfl
theorem powerOff_vin12 (s : State) : (powerOff s).boot.vin12 = s.boot.vin12 := rfl

/-! ### The request (R429, R430) -/

theorem psRequest_stored {s : State} {v : Bool} (vigil : Bool) (h : s.boot.entry = some v) :
    psRequest s vigil = s.setRegF 0x350 0x158 0 2 (b2n vigil) := by
  unfold psRequest
  exact if_pos (by rw [h]; rfl)

/-- The state of an entry that has begun: no queue is served (R430, steps 1 and 2). -/
def entryBegun (s : State) (vigil : Bool) : State :=
  let s1 := (s.setRegF 0x350 0x158 0 2 (b2n vigil)).setRegF 0x120 oCtl 0 1 0
  { s1 with qe := { s1.qe with held := [] }, boot := { s1.boot with entry := some vigil } }

section
variable {s : State} (he : s.boot.entry = none)
include he
theorem psRequest_cx5120 (hc : anyC5 s = true) : psRequest s true = dreqRefuse (s.setRegF 0x350 0x158 0 2 1) 5 0xFF := by
  unfold psRequest
  rw [if_neg (by rw [he]; exact Bool.false_ne_true), hc]
  rfl
theorem psRequest_sparing (hc : anyC5 s = false) (hb : vigilBusy s = true) :
    psRequest s true = dreqRefuse (s.setRegF 0x350 0x158 0 2 1) 6 0xFF := by
  unfold psRequest
  rw [if_neg (by rw [he]; exact Bool.false_ne_true), hc, hb]
  rfl
theorem psRequest_begins {vigil : Bool} (h : vigil = true → anyC5 s = false ∧ vigilBusy s = false) :
    psRequest s vigil = entryGo (entryBegun s vigil) := by
  have hc : ¬ (vigil && anyC5 s) = true := fun k => by
    rw [Bool.and_eq_true] at k
    exact Bool.false_ne_true ((h k.1).1.symm.trans k.2)
  have hb : ¬ (vigil && vigilBusy s) = true := fun k => by
    rw [Bool.and_eq_true] at k
    exact Bool.false_ne_true ((h k.1).2.symm.trans k.2)
  unfold psRequest
  rw [if_neg (by rw [he]; exact Bool.false_ne_true), if_neg hc, if_neg hb]
  rfl
end

/-- Commands in flight keep the entry waiting. -/
theorem entryGo_waits {s : State} (h : inflAll s ≠ 0) : entryGo s = s := by
  unfold entryGo
  split
  · rfl
  · exact if_pos h
theorem entryBegun_inflAll (s : State) (vigil : Bool) : inflAll (entryBegun s vigil) = inflAll s := rfl

theorem entryBegun_qstEn {s : State} (vigil : Bool) (hw : Regs.wf s = true) : (entryBegun s vigil).regB 0x120 oCtl 0 = false := by
  have h : (entryBegun s vigil).reg 0x120 oCtl = ((s.setRegF 0x350 0x158 0 2 (b2n vigil)).setRegF 0x120 oCtl 0 1 0).reg 0x120 oCtl := rfl
  rw [State.regB, h, reg_setRegF (wf_setRegF _ _ _ _ _ hw), regBit_regSet _ _ _ _ (by decide)]
  rfl

/-- A device that is not the power master has no sets to wait for. -/
theorem entryGo_off {s : State} (he : s.boot.entry = some false) (hi : inflAll s = 0) (hm : s.pmaster = false) :
    ∃ b : Boot, entryGo s = powerOff { s with boot := b } := by
  have hlost : masterLost s = s := by
    unfold masterLost
    exact if_neg (by rw [hm]; exact Bool.false_ne_true)
  unfold entryGo
  rw [he]
  dsimp only
  rw [if_neg (not_not.mpr hi), if_neg (by rw [hm]; exact Bool.false_ne_true)]
  unfold entryFinish
  rw [hlost]
  exact ⟨_, rfl⟩
theorem entryBegun_pmaster (s : State) (vigil : Bool) : (entryBegun s vigil).pmaster = s.pmaster := by
  have h : (entryBegun s vigil).reg 0x350 oStat =
      ((s.setRegF 0x350 0x158 0 2 (b2n vigil)).setRegF 0x120 oCtl 0 1 0).reg 0x350 oStat := rfl
  rw [State.pmaster, State.regB, h, reg_setRegF_ne (by decide) (by decide) (by omega), reg_setRegF_ne (by decide) (by decide) (by decide)]
  rfl

/-! ### The commands -/

section
variable {s : State} {id : MasterId} (hi : s.issues id = true) (hc : s.custodyOf id = true)
include hi hc
/-- PWR_PS is Custody's to write (R429). -/
theorem regOpen_pwrPs : RegOpen s id 0x350 0x158 .pwr 0 { reset := 0x0202, rwc := 3 } where
  issues := hi
  page_lt := by decide
  above := by decide
  off_lt := by decide
  aligned := rfl
  block := rfl
  power := powerBad_of_page (by decide) (by decide)
  info := rfl
  identity := rfl
  access := by rw [hc]; rfl

theorem exec_vigilRequest : exec (.vigilRequest id) s = .next { psRequest s true with resp := .done } :=
  congrArg Host.Outcome.next ((regOpen_pwrPs hi hc).done (v := 1) (t := psRequest s true) rfl)
theorem exec_offRequest : exec (.offRequest id) s = .next { psRequest s false with resp := .done } :=
  congrArg Host.Outcome.next ((regOpen_pwrPs hi hc).done (v := 0) (t := psRequest s false) rfl)

/-- Requests for VIGIL and OFF: the second part of O59. -/
theorem requests_hold :
    (∀ v, s.boot.entry = some v → exec (.vigilRequest id) s = .next { s.setRegF 0x350 0x158 0 2 1 with resp := .done } ∧
      exec (.offRequest id) s = .next { s.setRegF 0x350 0x158 0 2 0 with resp := .done }) ∧
    (s.boot.entry = none → anyC5 s = true → exec (.vigilRequest id) s =
      .next { dreqRefuse (s.setRegF 0x350 0x158 0 2 1) 5 0xFF with resp := .done }) ∧
    (s.boot.entry = none → anyC5 s = false → vigilBusy s = true → exec (.vigilRequest id) s =
      .next { dreqRefuse (s.setRegF 0x350 0x158 0 2 1) 6 0xFF with resp := .done }) ∧
    (s.boot.entry = none → inflAll s ≠ 0 → Regs.wf s = true →
      (anyC5 s = false → vigilBusy s = false → ∃ t, exec (.vigilRequest id) s = .next t ∧ t.boot.entry = some true ∧
        t.regB 0x120 oCtl 0 = false ∧ t.qe.held = [] ∧ t.boot.power = s.boot.power ∧ t.mem = s.mem) ∧
      (∃ t, exec (.offRequest id) s = .next t ∧ t.boot.entry = some false ∧ t.regB 0x120 oCtl 0 = false ∧ t.qe.held = [] ∧
        t.boot.power = s.boot.power ∧ t.mem = s.mem)) ∧
    (s.boot.entry = none → inflAll s = 0 → s.pmaster = false → ∃ t, exec (.offRequest id) s = .next t ∧ t.boot.power = .off ∧
      ∀ a, ¬lasting a → t.byteAt a = 0) := by
  rw [exec_vigilRequest hi hc, exec_offRequest hi hc]
  refine ⟨fun v he => ?_, fun he h5 => ?_, fun he h5 hb => ?_, fun he hn hw => ⟨fun h5 hb => ?_, ?_⟩, fun he h0 hm => ?_⟩
  · rw [psRequest_stored true he, psRequest_stored false he]
    exact ⟨rfl, rfl⟩
  · rw [psRequest_cx5120 he h5]
  · rw [psRequest_sparing he h5 hb]
  · rw [psRequest_begins he fun _ => ⟨h5, hb⟩, entryGo_waits ((entryBegun_inflAll s true).trans_ne hn)]
    exact ⟨_, rfl, rfl, entryBegun_qstEn true hw, rfl, rfl, rfl⟩
  · rw [psRequest_begins he (fun h => absurd h Bool.false_ne_true), entryGo_waits ((entryBegun_inflAll s false).trans_ne hn)]
    exact ⟨_, rfl, rfl, entryBegun_qstEn false hw, rfl, rfl, rfl⟩
  · obtain ⟨b, hoff⟩ := entryGo_off (s := entryBegun s false) rfl h0 ((entryBegun_pmaster s false).trans hm)
    rw [psRequest_begins he (fun h => absurd h Bool.false_ne_true), hoff]
    exact ⟨_, rfl, powerOff_power _, fun a ha => (powerOff_byteAt _ a).trans (if_neg ha)⟩
end

end Sys2Proof.Proofs
end

section
/-! PROOF. Wakes, and what the supplies and the temperature do (R430, R431, R460, R465, R470). -/
namespace Sys2Proof.Proofs
open Sys2Proof.Machine Sys2Proof.Laws

/-! ### Wakes (R430, R431, R460) -/

theorem exec_wake (s : State) (w : WakeSource) (io : StartIo) : exec (.wake w io) s = .next (wake s w io) := rfl

section
variable {s : State} {w : WakeSource} {io : StartIo}
theorem wake_active (h : s.boot.power = .active) :
    wake s w io = if s.boot.entry.isSome && s.regB 0 0x100 (wakeBit w) then entryCancel s else s := by
  unfold wake
  rw [h]
theorem wake_vigil (h : s.boot.power = .vigil) : wake s w io = if s.regB 0 0x100 (wakeBit w) then resume s (wakeBit w) io else s := by
  unfold wake
  rw [h]
theorem wake_off (h : s.boot.power = .off) : wake s w io =
    if w = .wakePin ∨ w = .aonTimer then
      if s.boot.por then s
      else if s.boot.trip || !(s.boot.vin12) then s.setBoot { s.boot with wakeHeld := true }
      else raisePor s 2
    else s := by
  unfold wake
  rw [h]

/-- A wake before step 5 cancels the entry. -/
theorem entryCancel_cases (hw : Regs.wf s = true) : (entryCancel s).boot.entry = none ∧ (entryCancel s).regB 0x120 oCtl 0 = true ∧
    (entryCancel s).regF 0x350 0x158 0 2 = 2 ∧ (entryCancel s).mem = s.mem := by
  have hreg : ∀ p o, (entryCancel s).reg p o = ((s.setRegF 0x120 oCtl 0 1 1).setRegF 0x350 0x158 0 2 2).reg p o := fun _ _ => rfl
  refine ⟨rfl, ?_, ?_, rfl⟩
  · rw [State.regB, hreg, reg_setRegF_ne (by decide) (by decide) (by decide), reg_setRegF hw, regBit_regSet _ _ _ _ (by decide)]
    rfl
  · rw [State.regF, hreg]
    exact regF_setRegF (wf_setRegF _ _ _ _ _ hw) (by decide)
end

/-- The third part of O59. -/
theorem wakes_hold (s : State) (w : WakeSource) (io : StartIo) :
    (s.boot.power = .active → s.boot.entry = none → exec (.wake w io) s = .next s) ∧
    (∀ v, s.boot.power = .active → s.boot.entry = some v → s.regB 0 0x100 (wakeBit w) = true → Regs.wf s = true → ∃ t,
      exec (.wake w io) s = .next t ∧ t.boot.entry = none ∧ t.regB 0x120 oCtl 0 = true ∧ t.regF 0x350 0x158 0 2 = 2 ∧ t.mem = s.mem) ∧
    (s.boot.power ≠ .off → s.regB 0 0x100 (wakeBit w) = false → exec (.wake w io) s = .next s) ∧
    (s.boot.power = .vigil → s.regB 0 0x100 (wakeBit w) = true → exec (.wake w io) s = .next (resume s (wakeBit w) io)) ∧
    (s.boot.power = .off → (w ≠ .wakePin ∧ w ≠ .aonTimer) ∨ s.boot.por = true → exec (.wake w io) s = .next s) ∧
    (s.boot.power = .off → w = .wakePin ∨ w = .aonTimer → s.boot.por = false →
      (s.boot.trip = true ∨ s.boot.vin12 = false → exec (.wake w io) s = .next { s with boot := { s.boot with wakeHeld := true } }) ∧
      (s.boot.trip = false → s.boot.vin12 = true → exec (.wake w io) s = .next (raisePor s 2))) := by
  rw [exec_wake]
  refine ⟨fun ha he => ?_, fun v ha he hb hw => ?_, fun ho hb => ?_, fun hv hb => ?_, fun ho h => ?_,
    fun ho hsrc hp => ⟨fun h => ?_, fun ht h12 => ?_⟩⟩
  · rw [wake_active ha, he]
    rfl
  · rw [wake_active ha, he, hb]
    exact ⟨_, rfl, entryCancel_cases hw⟩
  · match hpow : s.boot.power with
    | .active => rw [wake_active hpow, hb, Bool.and_false, if_neg Bool.false_ne_true]
    | .vigil => rw [wake_vigil hpow, hb, if_neg Bool.false_ne_true]
    | .off => exact absurd hpow ho
  · rw [wake_vigil hv, hb, if_pos rfl]
  · rw [wake_off ho]
    rcases h with ⟨h1, h2⟩ | hp
    · rw [if_neg (not_or.mpr ⟨h1, h2⟩)]
    · rw [if_pos hp, ite_self]
  · have hheld : (s.boot.trip || !s.boot.vin12) = true := by
      rcases h with h | h <;> rw [h]
      · exact Bool.true_or _
      · exact Bool.or_true _
    rw [wake_off ho, if_pos hsrc, hp, if_neg Bool.false_ne_true, if_pos hheld]
    rfl
  · rw [wake_off ho, if_pos hsrc, hp, ht, h12]
    rfl

/-! ### Supplies and temperature (R460, R465, R470) -/

theorem vin12Loss_off {s : State} (h : s.boot.power = .off) : vin12Loss s = s.setBoot { s.boot with vin12 := false } := if_pos h
theorem vin12Loss_on {s : State} (h : s.boot.power ≠ .off) : vin12Loss s = powerOff (s.setBoot { s.boot with vin12 := false }) := if_neg h

theorem vin12Loss_holds (s : State) : ∃ t, exec .vin12Loss s = .next t ∧ t.boot.vin12 = false ∧ t.boot.power = .off ∧
    t.cup.energy = s.cup.energy ∧ (s.boot.power ≠ .off → ∀ a, t.byteAt a = if lasting a then s.byteAt a else 0) := by
  refine ⟨vin12Loss s, rfl, ?_⟩
  by_cases h : s.boot.power = .off
  · rw [vin12Loss_off h]
    exact ⟨rfl, h, rfl, absurd h⟩
  · rw [vin12Loss_on h]
    exact ⟨powerOff_vin12 _, powerOff_power _, powerOff_kept.energy, fun _ a => powerOff_byteAt _ a⟩

theorem thermalTrip_holds (s : State) : ∃ t, exec .thermalTrip s = .next t ∧ t.boot.power = .off ∧ t.boot.trip = true ∧
    t.boot.faultLow = true ∧ t.cup.energy = s.cup.energy := by
  refine ⟨thermalTrip s, rfl, ?_⟩
  unfold thermalTrip
  split
  · next h => exact ⟨h, rfl, rfl, rfl⟩
  · exact ⟨powerOff_power s, rfl, rfl, powerOff_kept.energy⟩

theorem vaux33Good_on {s : State} (h : s.boot.vaux33 = true) : vaux33Good s = s := if_pos h
theorem vaux33Good_off {s : State} (h : s.boot.vaux33 = false) : vaux33Good s = raisePor (s.setBoot { s.boot with vaux33 := true }) 1 :=
  if_neg (by rw [h]; exact Bool.false_ne_true)

theorem thermalRelease_none {s : State} (h : s.boot.trip = false) : thermalRelease s = s := if_neg (by rw [h]; exact Bool.false_ne_true)
theorem thermalRelease_trip {s : State} (h : s.boot.trip = true) : thermalRelease s =
    if s.boot.wakeHeld && s.boot.vin12 then raisePor (s.setBoot { s.boot with trip := false }) 2
    else s.setBoot { s.boot with trip := false } := if_pos h

/-- The fourth part of O59. -/
theorem supplies_hold (s : State) : (∃ t, exec .vin12Loss s = .next t ∧ t.boot.vin12 = false ∧ t.boot.power = .off ∧ t.cup.energy = s.cup.energy ∧
      (s.boot.power ≠ .off → ∀ a, t.byteAt a = if lasting a then s.byteAt a else 0)) ∧
    (∃ t, exec .vaux33Loss s = .next t ∧ t.boot.vaux33 = false ∧ t.boot.power = .off ∧ t.boot.por = true ∧ t.boot.faultLow = false ∧
      t.cup.energy = s.cup.energy ∧ ∀ a, t.byteAt a = if lasting a then s.byteAt a else 0) ∧
    (s.boot.vaux33 = true → exec .vaux33PowerGood s = .next s) ∧
    (s.boot.vaux33 = false → exec .vaux33PowerGood s = .next (raisePor { s with boot := { s.boot with vaux33 := true } } 1)) ∧
    (∃ t, exec .thermalTrip s = .next t ∧ t.boot.power = .off ∧ t.boot.trip = true ∧ t.boot.faultLow = true ∧
      t.cup.energy = s.cup.energy) ∧
    (∀ h, exec (.thermN h) s = .next { s with boot := { s.boot with thermLow := h && s.boot.vaux33 } }) ∧
    (s.boot.trip = false → exec .thermalWakeRelease s = .next s) ∧
    (s.boot.trip = true → s.boot.wakeHeld = false ∨ s.boot.vin12 = false → exec .thermalWakeRelease s =
      .next { s with boot := { s.boot with trip := false } }) ∧
    (s.boot.trip = true → s.boot.wakeHeld = true → s.boot.vin12 = true → exec .thermalWakeRelease s =
      .next (raisePor { s with boot := { s.boot with trip := false } } 2)) := by
  refine ⟨vin12Loss_holds s, ⟨vaux33Loss s, rfl, rfl, rfl, rfl, rfl, rfl, bare_byteAt s⟩, fun h => congrArg Host.Outcome.next (vaux33Good_on h),
    fun h => congrArg Host.Outcome.next (vaux33Good_off h), thermalTrip_holds s, fun _ => rfl,
    fun h => congrArg Host.Outcome.next (thermalRelease_none h), fun ht h => congrArg Host.Outcome.next ((thermalRelease_trip ht).trans (if_neg ?_)),
    fun ht hh h12 => congrArg Host.Outcome.next ((thermalRelease_trip ht).trans (if_pos ?_))⟩
  · rw [Bool.and_eq_true]
    rintro ⟨hh, h12⟩
    exact h.elim (fun k => Bool.false_ne_true (k.symm.trans hh)) (fun k => Bool.false_ne_true (k.symm.trans h12))
  · rw [hh, h12]
    rfl

/-- Settles O59: R428-R431, R449, R460, R465, R469, R470. -/
theorem resetsWakesAndSupplies : Obligations.ResetsWakesAndSupplies := by
  refine ⟨fun s io => ?_, fun s id hi hc => requests_hold hi hc, wakes_hold, supplies_hold⟩
  obtain ⟨hoff, hraised, hrise, hdwrst⟩ := resets_hold s io
  exact ⟨hoff, rstPin_holds io, hraised, hrise, hdwrst⟩

end Sys2Proof.Proofs
end

section
/-! PROOF. The address functions of DRAM (R80-R84): the fold is the residue, and the wide map drops no bit. -/
namespace Sys2Proof.Proofs
open Sys2Proof.Machine Sys2Proof.Laws

/-! ### The fold (R81) -/

theorem fld_eq_div_mod (x lo w : Nat) : fld x lo w = x / 2 ^ lo % 2 ^ w := by rw [fld, Nat.shiftRight_eq_div_pow]

/-- A number and the sum of its digit of 6 bits and the rest leave the same residue: 64 leaves 1 modulo 63. -/
theorem digit_add_rest_mod (x : Nat) : (x % 64 + x / 64) % 63 = x % 63 := by
  have h : x = x % 64 + x / 64 + 63 * (x / 64) := by omega
  rw [h, Nat.add_mul_mod_self_left, ← h]

/-- The three sums of R81: each leaves the residue of the one before. -/
theorem foldDigits_mod {l : Nat} (h : l < 2 ^ 32) :
    (fld l 0 6 + fld l 6 6 + fld l 12 6 + fld l 18 6 + fld l 24 6 + fld l 30 2) % 63 = l % 63 := by
  have h1 := digit_add_rest_mod l
  have h2 := digit_add_rest_mod (l / 64)
  have h3 := digit_add_rest_mod (l / 64 / 64)
  have h4 := digit_add_rest_mod (l / 64 / 64 / 64)
  have h5 := digit_add_rest_mod (l / 64 / 64 / 64 / 64)
  simp only [fld_eq_div_mod, Nat.reducePow, Nat.div_one, Nat.div_div_eq_div_mul, Nat.reduceMul] at *
  have h6 : l / 1073741824 % 4 = l / 1073741824 := Nat.mod_eq_of_lt (by omega)
  omega
theorem foldDigits_le (l : Nat) : fld l 0 6 + fld l 6 6 + fld l 12 6 + fld l 18 6 + fld l 24 6 + fld l 30 2 ≤ 318 := by
  simp only [fld_eq_div_mod]
  omega
theorem foldSum_mod {x : Nat} (h : x ≤ 318) : (fld x 0 6 + fld x 6 3) % 63 = x % 63 ∧ fld x 0 6 + fld x 6 3 ≤ 67 := by
  have hd := digit_add_rest_mod x
  have hr : x / 64 % 8 = x / 64 := Nat.mod_eq_of_lt (by omega)
  simp only [fld_eq_div_mod, Nat.reducePow, Nat.div_one, hr]
  omega
theorem foldLast_mod {x : Nat} (h : x ≤ 67) : (fld x 0 6 + fld x 6 1) % 63 = x % 63 ∧ fld x 0 6 + fld x 6 1 ≤ 63 := by
  have hd := digit_add_rest_mod x
  have hr : x / 64 % 2 = x / 64 := Nat.mod_eq_of_lt (by omega)
  simp only [fld_eq_div_mod, Nat.reducePow, Nat.div_one, hr]
  omega

/-- The fold is the residue. -/
theorem fold63_eq_mod {l : Nat} (h : l < 2 ^ 32) : fold63 l = l % 63 := by
  obtain ⟨h2, hb2⟩ := foldSum_mod (foldDigits_le l)
  obtain ⟨h3, hb3⟩ := foldLast_mod hb2
  rw [← foldDigits_mod h, ← h2, ← h3, fold63]
  split
  · next h63 => rw [h63]
  · next h63 => exact (Nat.mod_eq_of_lt (Nat.lt_of_le_of_ne hb3 h63)).symm

/-- Settles O16: every digit of 6 bits weighs 1 modulo 63. -/
theorem channelFoldIsTheResidue : Obligations.ChannelFoldIsTheResidue := by
  intro l h
  rw [fold63_eq_mod h]
  exact ⟨rfl, by omega⟩

theorem fold63_of_line {l : Nat} (h : l < dramLines) : fold63 l = l % 63 := fold63_eq_mod (Nat.lt_trans h (by decide))

/-! ### The place of a line (R82) -/

theorem dramPlace_dataRow (j : Nat) : j >>> 9 = 63488 * (dramPlace j).rank + (31 * ((dramPlace j).row / 32) + (dramPlace j).row % 32) := by
  simp only [dramPlace]
  omega

/-- The exclusive or with the low bits of the data row is undone by them. -/
theorem dramPlace_bank (j : Nat) : fld j 5 4 = (dramPlace j).bank ^^^ fld ((j >>> 9) % 63488) 0 4 := by
  simp only [dramPlace, Nat.xor_assoc, Nat.xor_self, Nat.xor_zero]

/-- A line slot, a bank field and a data row make up the in-channel line. -/
theorem line_of_fields (j : Nat) : j = 512 * (j >>> 9) + 32 * fld j 5 4 + fld j 0 5 := by
  simp only [fld_eq_div_mod, Nat.shiftRight_eq_div_pow, Nat.reducePow, Nat.div_one]
  omega

/-- The place of an in-channel line determines it. -/
theorem dramPlace_injective {j k : Nat} (h : dramPlace j = dramPlace k) : j = k := by
  have hrow : j >>> 9 = k >>> 9 := by rw [dramPlace_dataRow j, h, ← dramPlace_dataRow k]
  have hbank : fld j 5 4 = fld k 5 4 := by rw [dramPlace_bank j, h, hrow, ← dramPlace_bank k]
  have hcol : fld j 0 5 = fld k 0 5 := congrArg DramPlace.col h
  rw [line_of_fields j, hrow, hbank, hcol, ← line_of_fields k]

/-- Settles O17: the channel is the remainder and the place determines the quotient of one division by 63. -/
theorem wideMapIsInjective : Obligations.WideMapIsInjective := by
  intro l m hl hm hfold hplace
  have hquot := dramPlace_injective hplace
  rw [fold63_of_line hl, fold63_of_line hm] at hfold hquot
  omega

end Sys2Proof.Proofs
end

section
/-! PROOF. Lines of DRAM: what a read under R87 does, and what a store of a whole line leaves (R86-R88). -/
namespace Sys2Proof.Proofs
open Sys2Proof.Machine Sys2Proof.Laws

/-! ### Locations -/

theorem locIx_injective {x y : Loc} (hx : x.2 < chanLines) (hy : y.2 < chanLines) (h : locIx x = locIx y) : x = y := by
  unfold locIx chanLines at h
  unfold chanLines at hx hy
  exact Prod.ext (by omega) (by omega)

/-- The 64 bytes of two locations do not meet. -/
theorem locKey_apart {x y : Loc} (hx : x.2 < chanLines) (hy : y.2 < chanLines) (h : x ≠ y) :
    locKey x + 64 ≤ locKey y ∨ locKey y + 64 ≤ locKey x := by
  have hne : locIx x ≠ locIx y := fun k => h (locIx_injective hx hy k)
  unfold locKey
  omega

/-- Two locations of one in-channel line, on different channels. -/
theorem locIx_ne_of_chan {p q j : Nat} (h : p ≠ q) : locIx (p, j) ≠ locIx (q, j) := by unfold locIx chanLines; dsimp only; omega

/-! ### Stored errors of a line -/

theorem lineErrAt_setLineErr {s : State} (l : Loc) (e : CellErr) (h : swf (fun _ => ({} : CellErr)) s.lineErr = true) :
    (s.setLineErr l e).lineErrAt l = e := sget_sput_eq (dd := fun _ => ({} : CellErr)) _ _ _ h
theorem lineErrAt_setLineErr_ne {s : State} {l m : Loc} (e : CellErr) (h : locIx m ≠ locIx l) :
    (s.setLineErr l e).lineErrAt m = s.lineErrAt m := sget_sput_ne _ _ _ _ h
theorem swf_setLineErr {s : State} (l : Loc) (e : CellErr) (h : swf (fun _ => ({} : CellErr)) s.lineErr = true) :
    swf (fun _ => ({} : CellErr)) (s.setLineErr l e).lineErr = true := swf_sput (dd := fun _ => ({} : CellErr)) _ _ _ h
/-- With no error stored in any line, clearing one changes nothing. -/
theorem setLineErr_none {s : State} (l : Loc) (h : s.lineErr = []) : s.setLineErr l {} = s := by
  rw [State.setLineErr, h, sput, if_pos rfl, ← h]

/-- The stored tag is the location's exactly where no bit of it is in error (R86). -/
theorem storedTag_eq_iff (l : Loc) (t : Nat) : storedTag l t = dramTag (dramPlace l.2) ↔ t = 0 := by
  refine ⟨fun h => ?_, fun h => by rw [h, storedTag, Nat.xor_zero]⟩
  have hself : dramTag (dramPlace l.2) ^^^ storedTag l t = 0 := by rw [h, Nat.xor_self]
  rwa [storedTag, ← Nat.xor_assoc, Nat.xor_self, Nat.zero_xor] at hself

/-! ### A read (R87) -/

/-- What a read of the line at `l` finds in error: what is stored, and what strikes now. -/
def readErr (s : State) (l : Loc) (u : Upset) : CellErr :=
  { bits := (s.lineErrAt l).bits + u.bits, tag := (s.lineErrAt l).tag ^^^ u.tag.toNat }

section
variable {s : State} {l : Loc} {u : Upset} (addr : Nat)

theorem lineRead_clean (hb : (readErr s l u).bits = 0) (ht : (readErr s l u).tag = 0) :
    lineRead s addr l u = (s.setLineErr l {}, s.bytes (locKey l) 64, false) := by
  have htag := (storedTag_eq_iff l 0).mpr rfl
  simp only [readErr] at hb ht
  simp only [lineRead, hb, ht, htag, ne_eq, not_true, if_false, Nat.reduceLeDiff, OfNat.zero_ne_ofNat, zero_ne_one]

theorem lineRead_corrected (hb : (readErr s l u).bits = 1) (ht : (readErr s l u).tag = 0) :
    lineRead s addr l u =
      (((s.setLineErr l (readErr s l u)).setLineErr l {}).lineCE l.1, s.bytes (locKey l) 64, false) := by
  have htag := (storedTag_eq_iff l _).mpr ht
  simp only [readErr] at hb ht htag
  simp only [lineRead, readErr, htag, hb, ne_eq, not_true, if_false, if_true, Nat.reduceLeDiff, OfNat.one_ne_ofNat]

theorem lineRead_uncorrectable (h : (readErr s l u).bits = 2 ∨ (readErr s l u).bits < 2 ∧ (readErr s l u).tag ≠ 0) :
    ∃ kind, lineRead s addr l u =
      ((s.setLineErr l (readErr s l u)).lineUE addr l.1 kind, s.bytes (locKey l) 64, true) := by
  simp only [readErr] at h ⊢
  have h3 : ¬ 3 ≤ (s.lineErrAt l).bits + u.bits := by omega
  by_cases h2 : (s.lineErrAt l).bits + u.bits = 2
  · exact ⟨1, by simp only [lineRead, if_neg h3, if_pos h2]⟩
  · obtain ⟨-, ht⟩ := h.resolve_left h2
    have htag := fun k => ht ((storedTag_eq_iff l _).mp k)
    refine ⟨tagKind (storedTag l ((s.lineErrAt l).tag ^^^ u.tag.toNat) ^^^ dramTag (dramPlace l.2)), ?_⟩
    simp only [lineRead, if_neg h3, if_neg h2, ne_eq, if_pos htag]

/-- With fewer than three bits in error, one of the three. -/
theorem readErr_cases (h : (readErr s l u).bits < 3) :
    ((readErr s l u).bits = 0 ∧ (readErr s l u).tag = 0) ∨ ((readErr s l u).bits = 1 ∧ (readErr s l u).tag = 0) ∨
      ((readErr s l u).bits = 2 ∨ (readErr s l u).bits < 2 ∧ (readErr s l u).tag ≠ 0) := by
  omega
end

/-! ### What the reports of a line change (R87) -/

/-- A correctable event of a page changes its error counter alone. -/
theorem correctable_only (s : State) (page : Nat) : ∃ es, s.correctable page = { s with errs := es } := ⟨_, rfl⟩

theorem memcRecord_only (s : State) (addr pch kind : Nat) : ∃ rs cs, s.memcRecord addr pch kind = { s with regs := rs, cores := cs } := by
  unfold State.memcRecord
  split
  · exact ⟨_, _, rfl⟩
  · obtain ⟨rs, cs, h⟩ := irqBit_only (((s.setReg 0x80 0x10C (w32 addr)).setReg 0x80 0x110 (w32 (addr / 2 ^ 32 % 2 ^ 16))).setReg 0x80 0x114
      (w32 (2 ^ 31 + pch * 256 + kind))) 0x80 0
    exact ⟨rs, cs, by rw [h]; rfl⟩

theorem lineUE_only (s : State) (addr pch kind : Nat) : ∃ rs cs, s.lineUE addr pch kind = { s with regs := rs, cores := cs } := by
  obtain ⟨_, _, h1⟩ := irqBit_only (s.bumpReg (0xC0 + pch) 0x104) (0xC0 + pch) 1
  obtain ⟨_, _, h2⟩ := memcRecord_only ((s.bumpReg (0xC0 + pch) 0x104).irqBit (0xC0 + pch) 1) addr pch kind
  rw [State.lineUE, h2, h1]
  exact ⟨_, _, rfl⟩

theorem lineCE_only (s : State) (pch : Nat) : ∃ rs cs es, s.lineCE pch = { s with regs := rs, cores := cs, errs := es } := by
  obtain ⟨_, _, h⟩ := irqBit_only ((s.bumpReg (0xC0 + pch) 0x100).correctable (0xC0 + pch)) (0xC0 + pch) 0
  rw [State.lineCE, h]
  exact ⟨_, _, _, rfl⟩

/-- A counter just counted up shows one more, or stands at its end (R87). -/
theorem reg_bumpReg {s : State} (page off : Nat) (h : Regs.wf s = true) :
    ((s.bumpReg page off).reg page off).toNat = min ((s.reg page off).toNat + 1) 0xFFFFFFFF := by
  rw [State.bumpReg, reg_setReg _ _ _ _ h, satAdd, toNat_w32 (Nat.lt_of_le_of_lt (Nat.min_le_right _ _) (by decide))]
theorem wf_bumpReg {s : State} (page off : Nat) (h : Regs.wf s = true) : Regs.wf (s.bumpReg page off) = true := wf_setReg _ _ _ _ h

/-- The UE record (R87) is on page 0x080: no register of another page but EVT_MPEND's changes. -/
theorem reg_memcRecord_ne (s : State) (addr pch kind : Nat) {p o : Nat} (ho : o < 4096) (h40 : p ≠ 0x40) (h80 : p ≠ 0x80) :
    (s.memcRecord addr pch kind).reg p o = s.reg p o := by
  unfold State.memcRecord
  split
  · rfl
  · rw [reg_irqBit_ne _ _ _ ho h40 (fun k => h80 k.1), reg_setReg_ne _ _ _ _ _ _ (by decide) ho (fun k => h80 k.1),
      reg_setReg_ne _ _ _ _ _ _ (by decide) ho (fun k => h80 k.1), reg_setReg_ne _ _ _ _ _ _ (by decide) ho (fun k => h80 k.1)]

/-- An uncorrectable line counts in MCH_UECNT and sets IRQ_RAW bit 1 of its channel. -/
theorem lineUE_counts {s : State} (addr pch kind : Nat) (h : Regs.wf s = true) :
    ((s.lineUE addr pch kind).reg (0xC0 + pch) 0x104).toNat = min ((s.reg (0xC0 + pch) 0x104).toNat + 1) 0xFFFFFFFF ∧
      (s.lineUE addr pch kind).regB (0xC0 + pch) oIrqRaw 1 = true := by
  constructor
  · rw [State.lineUE, reg_memcRecord_ne _ _ _ _ (by decide) (by omega) (by omega),
      reg_irqBit_ne _ _ _ (by decide) (by omega) (by unfold oIrqRaw; omega), reg_bumpReg _ _ h]
  · rw [State.regB, State.lineUE, reg_memcRecord_ne _ _ _ _ (by decide) (by omega) (by omega)]
    exact regBit_irqBit (wf_bumpReg _ _ h) (by decide)

/-- A corrected line counts in MCH_CECNT and sets IRQ_RAW bit 0 of its channel. -/
theorem lineCE_counts {s : State} (pch : Nat) (h : Regs.wf s = true) :
    ((s.lineCE pch).reg (0xC0 + pch) 0x100).toNat = min ((s.reg (0xC0 + pch) 0x100).toNat + 1) 0xFFFFFFFF ∧
      (s.lineCE pch).regB (0xC0 + pch) oIrqRaw 0 = true := by
  constructor
  · rw [State.lineCE, reg_irqBit_ne _ _ _ (by decide) (by omega) (by unfold oIrqRaw; omega)]
    exact reg_bumpReg _ _ h
  · exact regBit_irqBit (show Regs.wf ((s.bumpReg (0xC0 + pch) 0x100).correctable (0xC0 + pch)) = true from wf_bumpReg _ _ h) (by decide)

/-! ### A store of whole lines (R88) -/

theorem lineStore_only (s : State) (data : List Byte) (poison : Bool) (ls : List Loc) :
    ∃ m e, lineStore s data poison ls = { s with mem := m, lineErr := e } := by
  induction ls generalizing s with
  | nil => exact ⟨_, _, rfl⟩
  | cons l ls ih =>
    obtain ⟨m, e, h⟩ := ih ((s.setLineErr l (if poison then { bits := 0, tag := 31 } else {})).setBytes (locKey l) data)
    exact ⟨m, e, h⟩

section
variable {s : State} {data : List Byte} {poison : Bool} {ls : List Loc}

/-- The bytes outside of the stored lines stay. -/
theorem byteAt_lineStore_out {a : Nat} (h : ∀ l ∈ ls, a < locKey l ∨ locKey l + data.length ≤ a) :
    (lineStore s data poison ls).byteAt a = s.byteAt a := by
  induction ls generalizing s with
  | nil => rfl
  | cons l ls ih =>
    rw [lineStore, ih fun m hm => h m (List.mem_cons_of_mem _ hm), byteAt_setBytes_out _ _ _ _ (h l List.mem_cons_self)]
    rfl

/-- A location that is not stored to reads as before. -/
theorem bytes_lineStore_out (hd : data.length = 64) {x : Loc} (hx : x.2 < chanLines) (hl : ∀ l ∈ ls, l.2 < chanLines) (h : x ∉ ls) :
    (lineStore s data poison ls).bytes (locKey x) 64 = s.bytes (locKey x) 64 :=
  List.ext_getElem (by simp) fun i h1 h2 => by
    have hi : i < 64 := by simpa using h2
    rw [getElem_bytes _ _ _ _ hi, getElem_bytes _ _ _ _ hi, byteAt_lineStore_out fun l hm => ?_]
    have := locKey_apart hx (hl l hm) fun k => h (k ▸ hm)
    omega

theorem wf_lineStore (h : Memory.wf s = true) : Memory.wf (lineStore s data poison ls) = true := lineStore_kept.mem h

/-- A location that is stored to reads back the line. -/
theorem bytes_lineStore_in (hw : Memory.wf s = true) (hd : data.length = 64) (hl : ∀ l ∈ ls, l.2 < chanLines) {x : Loc} (h : x ∈ ls) :
    (lineStore s data poison ls).bytes (locKey x) 64 = data := by
  induction ls generalizing s with
  | nil => cases h
  | cons l ls ih =>
    have hl' := fun m hm => hl m (List.mem_cons_of_mem _ hm)
    by_cases hx : x ∈ ls
    · exact ih (wf_setBytes _ _ _ hw) hl' hx
    · obtain rfl : x = l := (List.mem_cons.mp h).resolve_right hx
      rw [lineStore, bytes_lineStore_out hd (hl x h) hl' hx, ← hd]
      exact bytes_setBytes _ _ _ hw

/-- With no error stored in any line, a good store leaves none. -/
theorem lineErr_lineStore_none (h : s.lineErr = []) : (lineStore s data false ls).lineErr = [] := by
  induction ls generalizing s with
  | nil => exact h
  | cons l ls ih => exact ih (by rw [if_neg Bool.false_ne_true, setLineErr_none l h]; exact h)

theorem lineErrAt_lineStore_out {x : Loc} (hx : x.2 < chanLines) (hl : ∀ l ∈ ls, l.2 < chanLines) (h : x ∉ ls) :
    (lineStore s data poison ls).lineErrAt x = s.lineErrAt x := by
  induction ls generalizing s with
  | nil => rfl
  | cons l ls ih =>
    have hne : locIx x ≠ locIx l := fun k => h (List.mem_cons.mpr (.inl (locIx_injective hx (hl l List.mem_cons_self) k)))
    rw [lineStore, ih (fun m hm => hl m (List.mem_cons_of_mem _ hm)) fun hm => h (List.mem_cons_of_mem _ hm)]
    exact lineErrAt_setLineErr_ne _ hne

/-- A good store clears the errors of the locations it stores to (R88). -/
theorem lineErrAt_lineStore_in (he : swf (fun _ => ({} : CellErr)) s.lineErr = true) (hl : ∀ l ∈ ls, l.2 < chanLines) {x : Loc}
    (h : x ∈ ls) : (lineStore s data false ls).lineErrAt x = {} := by
  induction ls generalizing s with
  | nil => cases h
  | cons l ls ih =>
    have hl' := fun m hm => hl m (List.mem_cons_of_mem _ hm)
    by_cases hx : x ∈ ls
    · exact ih (swf_setLineErr l _ he) hl' hx
    · obtain rfl : x = l := (List.mem_cons.mp h).resolve_right hx
      rw [lineStore, lineErrAt_lineStore_out (hl x h) hl' hx]
      exact lineErrAt_setLineErr x _ he
end

end Sys2Proof.Proofs
end

section
/-! PROOF. The narrow and the wide layout of the window, and a copy block of the widening (R80, R84, R85). -/
namespace Sys2Proof.Proofs
open Sys2Proof.Machine Sys2Proof.Laws

theorem mem_rangeFrom {x a n : Nat} : x ∈ rangeFrom a n ↔ a ≤ x ∧ x < a + n := by
  induction n generalizing a with
  | zero => exact ⟨nofun, fun h => by omega⟩
  | succ n ih =>
    rw [rangeFrom, List.mem_cons, ih]
    omega

theorem nodup_rangeFrom (a n : Nat) : (rangeFrom a n).Nodup := by
  induction n generalizing a with
  | zero => exact List.nodup_nil
  | succ n ih => exact List.nodup_cons.mpr ⟨fun h => by rw [mem_rangeFrom] at h; omega, ih _⟩

/-! ### The layouts (R80, R84, R92) -/

/-- The in-channel line of line `l` in the wide map. -/
def wideIx (l : Nat) : Nat := (l - fold63 l) / 63

/-- In the wide map a line lies on its own channel, or where the spare carries that channel on channel 63, or while the copy has passed it
on both, and is then read from channel 63. -/
theorem wideLocs_cases (s : State) (l : Nat) :
    s.wideLocs l = ((fold63 l, wideIx l), [(fold63 l, wideIx l)]) ∨
      s.memc.spareLogical = fold63 l ∧ (s.wideLocs l = ((63, wideIx l), [(63, wideIx l)]) ∨
        s.wideLocs l = ((63, wideIx l), [(fold63 l, wideIx l), (63, wideIx l)])) := by
  unfold State.wideLocs wideIx
  dsimp only
  split
  · next h =>
    simp only [Bool.and_eq_true, beq_iff_eq] at h
    exact .inr ⟨h.2, .inl rfl⟩
  · split
    · next h =>
      simp only [Bool.and_eq_true, beq_iff_eq] at h
      exact .inr ⟨h.2.1, .inr rfl⟩
    · exact .inl rfl

theorem wideLocs_congr {s t : State} (h : t.memc = s.memc) (l : Nat) : t.wideLocs l = s.wideLocs l := by
  unfold State.wideLocs
  rw [h]
/-- The pointer of the widening does not move the wide map. -/
theorem wideLocs_widenPtr {s t : State} {n : Nat} (h : t.memc = { s.memc with widenPtr := n }) (l : Nat) : t.wideLocs l = s.wideLocs l := by
  unfold State.wideLocs
  rw [h]

/-- A line is read from one of the places it is written to. -/
theorem wideRead_mem (s : State) (l : Nat) : (s.wideLocs l).1 ∈ (s.wideLocs l).2 := by
  obtain h | ⟨-, h | h⟩ := wideLocs_cases s l
  · rw [h]; exact List.mem_singleton_self _
  · rw [h]; exact List.mem_singleton_self _
  · rw [h]; exact List.mem_cons_of_mem _ (List.mem_singleton_self _)

/-- A place of line `l` is its in-channel line on its own channel, or on channel 63 where the spare carries or copies its channel. -/
theorem mem_wideLocs {s : State} {l : Nat} {x : Loc} (h : x ∈ (s.wideLocs l).2) :
    x = (fold63 l, wideIx l) ∨ x = (63, wideIx l) ∧ s.memc.spareLogical = fold63 l := by
  obtain hw | ⟨hl, hw | hw⟩ := wideLocs_cases s l
  · rw [hw] at h
    exact .inl (List.mem_singleton.mp h)
  · rw [hw] at h
    exact .inr ⟨List.mem_singleton.mp h, hl⟩
  · rw [hw] at h
    rcases List.mem_cons.mp h with h | h
    · exact .inl h
    · exact .inr ⟨List.mem_singleton.mp h, hl⟩

theorem wideIx_of_line {l : Nat} (h : l < dramLines) : wideIx l = l / 63 := by
  rw [wideIx, fold63_of_line h]
  omega

section
variable {s : State} {l m : Nat}

/-- Two lines of the map have no place in common (R82, R92). -/
theorem wideLocs_disjoint (hl : l < dramLines) (hm : m < dramLines) {x : Loc} (h : x ∈ (s.wideLocs l).2) (k : x ∈ (s.wideLocs m).2) :
    l = m := by
  have key : fold63 l = fold63 m → wideIx l = wideIx m → l = m := by
    rw [fold63_of_line hl, fold63_of_line hm, wideIx_of_line hl, wideIx_of_line hm]
    omega
  have h63 : ∀ n, n < dramLines → fold63 n ≠ 63 := fun n hn => by rw [fold63_of_line hn]; omega
  obtain h1 | ⟨h1, hs⟩ := mem_wideLocs h
  · obtain k1 | ⟨k1, -⟩ := mem_wideLocs k
    · obtain ⟨hf, hi⟩ := Prod.mk.inj (h1.symm.trans k1)
      exact key hf hi
    · exact absurd (Prod.mk.inj (h1.symm.trans k1)).1 (h63 l hl)
  · obtain k1 | ⟨k1, ks⟩ := mem_wideLocs k
    · exact absurd (Prod.mk.inj (k1.symm.trans h1)).1 (h63 m hm)
    · exact key (hs.symm.trans ks) (Prod.mk.inj (h1.symm.trans k1)).2

theorem wideLocs_bound (hl : l < dramLines) {x : Loc} (h : x ∈ (s.wideLocs l).2) : x.2 < chanLines := by
  have hx : x.2 = wideIx l := by
    obtain h | ⟨h, -⟩ := mem_wideLocs h
    · rw [h]
    · rw [h]
  rw [hx, wideIx_of_line hl]
  unfold dramLines at hl
  unfold chanLines
  omega

theorem narrowLoc_bound (hl : l < narrowLines) : (narrowLoc l).2 < chanLines := by
  unfold narrowLines at hl
  unfold narrowLoc chanLines
  dsimp only
  omega

/-- The two layouts of the window never share a location (R84). -/
theorem narrowLoc_not_wide (hm : m < narrowLines) : narrowLoc l ∉ (s.wideLocs m).2 := by
  intro h
  have hx : (narrowLoc l).2 = wideIx m := by
    obtain h | ⟨h, -⟩ := mem_wideLocs h
    · rw [h]
    · rw [h]
  unfold narrowLines at hm
  rw [wideIx_of_line (by unfold dramLines; omega), narrowLoc] at hx
  dsimp only at hx
  omega
end

/-! ### A copy block (R85) -/

/-- With no error stored in any line and none striking, a copied line holds what its source held. -/
theorem copyLine_clean {s : State} (addr : Nat) (src : Loc) (dst : List Loc) (h : s.lineErr = []) :
    copyLine s addr src dst {} = lineStore s (s.bytes (locKey src) 64) false dst := by
  have he : s.lineErrAt src = {} := by rw [State.lineErrAt, h]; rfl
  have hb : (readErr s src {}).bits = 0 := by rw [readErr, he]; rfl
  have ht : (readErr s src {}).tag = 0 := by rw [readErr, he]; rfl
  rw [copyLine, lineRead_clean addr hb ht, setLineErr_none _ h]

/-- From `s` to `t` the lines `ls` of the window have been copied to their wide places, and every other place reads as before. -/
structure Widened (s t : State) (ls : List Nat) : Prop where
  memc : t.memc = s.memc
  regs : t.regs = s.regs
  clean : t.lineErr = []
  wf : Memory.wf t = true
  copied : ∀ l ∈ ls, t.bytes (locKey (s.wideLocs l).1) 64 = s.bytes (locKey (narrowLoc l)) 64
  others : ∀ x : Loc, x.2 < chanLines → (∀ l ∈ ls, x ∉ (s.wideLocs l).2) → t.bytes (locKey x) 64 = s.bytes (locKey x) 64

theorem window_lt_map {l : Nat} (h : l < narrowLines) : l < dramLines := Nat.lt_trans h (by decide)

theorem copyLine_widens {s : State} {l : Nat} (hl : l < narrowLines) (he : s.lineErr = []) (hw : Memory.wf s = true) :
    Widened s (copyLine s (dramBase + l * 64) (narrowLoc l) (s.wideLocs l).2 {}) [l] := by
  have hlen := length_bytes s (locKey (narrowLoc l)) 64
  have hbound : ∀ x ∈ (s.wideLocs l).2, x.2 < chanLines := fun x hx => wideLocs_bound (window_lt_map hl) hx
  rw [copyLine_clean _ _ _ he]
  obtain ⟨m, e, honly⟩ := lineStore_only s (s.bytes (locKey (narrowLoc l)) 64) false (s.wideLocs l).2
  refine ⟨by rw [honly], by rw [honly], lineErr_lineStore_none he, wf_lineStore hw, fun k hk => ?_, fun x hx h => ?_⟩
  · rw [List.mem_singleton.mp hk]
    exact bytes_lineStore_in hw hlen hbound (wideRead_mem s l)
  · exact bytes_lineStore_out hlen hx hbound (h l (List.mem_singleton_self l))

/-- One line after the other: no wide place is met twice, and none is a narrow one. -/
theorem Widened.cons {s t u : State} {l : Nat} {ls : List Nat} (h : Widened s t [l]) (k : Widened t u ls) (hl : l < narrowLines)
    (hls : ∀ m ∈ ls, m < narrowLines) (hn : l ∉ ls) : Widened s u (l :: ls) := by
  have hwide := wideLocs_congr h.memc
  have hhead := h.copied l (List.mem_singleton_self l)
  have hrest : ∀ x : Loc, x.2 < chanLines → x ∉ (s.wideLocs l).2 → t.bytes (locKey x) 64 = s.bytes (locKey x) 64 :=
    fun x hx hm => h.others x hx fun m hml => by rwa [List.mem_singleton.mp hml]
  refine ⟨k.memc.trans h.memc, k.regs.trans h.regs, k.clean, k.wf, fun m hm => ?_, fun x hx hx' => ?_⟩
  · rcases List.mem_cons.mp hm with rfl | hm
    · refine (k.others _ (wideLocs_bound (window_lt_map hl) (wideRead_mem s m)) fun i hi hin => hn ?_).trans hhead
      rw [hwide] at hin
      rwa [wideLocs_disjoint (window_lt_map hl) (window_lt_map (hls i hi)) (wideRead_mem s m) hin]
    · rw [← hwide, k.copied m hm, hrest _ (narrowLoc_bound (hls m hm)) (narrowLoc_not_wide hl)]
  · refine (k.others x hx fun m hm => ?_).trans (hrest x hx (hx' l List.mem_cons_self))
    rw [hwide]
    exact hx' m (List.mem_cons_of_mem _ hm)

theorem widenLines_copies {s : State} {ls : List Nat} (hlt : ∀ l ∈ ls, l < narrowLines) (hn : ls.Nodup) (he : s.lineErr = [])
    (hw : Memory.wf s = true) : Widened s (widenLines s [] ls) ls := by
  induction ls generalizing s with
  | nil => exact ⟨rfl, rfl, he, hw, nofun, fun _ _ _ => rfl⟩
  | cons l ls ih =>
    obtain ⟨hnl, hn⟩ := List.nodup_cons.mp hn
    have hl := hlt l List.mem_cons_self
    have hls := fun m hm => hlt m (List.mem_cons_of_mem _ hm)
    have hone := copyLine_widens hl he hw
    exact hone.cons (ih hls hn hone.clean hone.wf) hl hls hnl

/-- The places a line of the window is read from, and written to, during the widening (R85). -/
theorem dramLocs_widening {s : State} {l : Nat} (h : s.memc.mode = .widening) (hl : l < narrowLines) :
    s.dramLocs l = some (if l < s.memc.widenPtr then s.wideLocs l else (narrowLoc l, [narrowLoc l])) := by
  rw [State.dramLocs, h]
  dsimp only
  rw [if_pos hl]
  split
  · rfl
  · rfl

/-- The state with the pointer of the widening moved on. -/
def withPtr (s : State) (n : Nat) : State := { s with memc := { s.memc with widenPtr := n } }
theorem withPtr_regs (s : State) (n : Nat) : (withPtr s n).regs = s.regs := rfl

/-- A block that there is room for copies its 32 lines, and the pointer passes them. -/
theorem exec_wideningCopyBlock {s : State} (us : List Upset) (hm : s.memc.mode = .widening) (hp : s.memc.widenPtr < narrowLines) :
    exec (.wideningCopyBlock us) s =
      .next (withPtr (widenLines s us (rangeFrom s.memc.widenPtr 32)) (s.memc.widenPtr + 32)) := by
  have hgo : (s.memc.mode == .widening && decide (s.memc.widenPtr < narrowLines)) = true := by
    rw [hm, decide_eq_true hp]
    rfl
  show ok (widenBlock s us) = _
  rw [widenBlock, if_pos hgo]
  rfl

/-- After a block every line of the window reads as before: what the block has copied at its wide place, what was copied before still there,
and the rest still at its narrow place, which no wide place meets. -/
theorem Widened.reads {s t : State} {n l : Nat} (h : Widened s t (rangeFrom s.memc.widenPtr n)) (hmode : s.memc.mode = .widening)
    (hn : s.memc.widenPtr + n ≤ narrowLines) (hl : l < narrowLines) :
    ∃ rd wr rd' wr', s.dramLocs l = some (rd, wr) ∧ (withPtr t (s.memc.widenPtr + n)).dramLocs l = some (rd', wr') ∧
      (withPtr t (s.memc.widenPtr + n)).bytes (locKey rd') 64 = s.bytes (locKey rd) 64 := by
  have hmemc : (withPtr t (s.memc.widenPtr + n)).memc = { s.memc with widenPtr := s.memc.widenPtr + n } := by rw [withPtr, h.memc]
  have hs := dramLocs_widening hmode hl
  have ht := dramLocs_widening (s := withPtr t (s.memc.widenPtr + n)) (by rw [hmemc, hmode]) hl
  rw [wideLocs_widenPtr hmemc, hmemc] at ht
  dsimp only at ht
  have hblock : ∀ m ∈ rangeFrom s.memc.widenPtr n, m < narrowLines := fun m hm => Nat.lt_of_lt_of_le (mem_rangeFrom.mp hm).2 hn
  by_cases hin : l ∈ rangeFrom s.memc.widenPtr n
  · obtain ⟨hlo, hhi⟩ := mem_rangeFrom.mp hin
    rw [if_neg (Nat.not_lt.mpr hlo)] at hs
    rw [if_pos hhi] at ht
    exact ⟨_, _, _, _, hs, ht, h.copied l hin⟩
  by_cases hlo : l < s.memc.widenPtr
  · rw [if_pos hlo] at hs
    rw [if_pos (Nat.lt_of_lt_of_le hlo (Nat.le_add_right _ _))] at ht
    refine ⟨_, _, _, _, hs, ht, h.others _ (wideLocs_bound (window_lt_map hl) (wideRead_mem s l)) fun m hm hx => hin ?_⟩
    rwa [wideLocs_disjoint (window_lt_map hl) (window_lt_map (hblock m hm)) (wideRead_mem s l) hx]
  · rw [if_neg hlo] at hs
    rw [if_neg fun k => hin (mem_rangeFrom.mpr ⟨Nat.not_lt.mp hlo, k⟩)] at ht
    exact ⟨_, _, _, _, hs, ht, h.others _ (narrowLoc_bound hl) fun m hm => narrowLoc_not_wide (hblock m hm)⟩

/-- Settles O19, from the copied lines of the block. -/
theorem wideningKeepsEveryLine : Obligations.WideningKeepsEveryLine := by
  intro s hmode hptr he hw
  have hlt : ∀ l ∈ rangeFrom s.memc.widenPtr 32, l < narrowLines := fun l hl => Nat.lt_of_lt_of_le (mem_rangeFrom.mp hl).2 hptr
  have hblock := widenLines_copies hlt (nodup_rangeFrom _ _) he hw
  have hmemc : (withPtr (widenLines s [] (rangeFrom s.memc.widenPtr 32)) (s.memc.widenPtr + 32)).memc =
    { s.memc with widenPtr := s.memc.widenPtr + 32 } := by rw [withPtr, hblock.memc]
  have hp : s.memc.widenPtr < narrowLines := Nat.lt_of_lt_of_le (by omega : s.memc.widenPtr < s.memc.widenPtr + 32) hptr
  exact ⟨_, exec_wideningCopyBlock [] hmode hp, hmemc, (withPtr_regs _ _).trans hblock.regs,
    fun l hl => hblock.reads hmode hptr hl⟩

end Sys2Proof.Proofs
end

section
/-! PROOF. Accesses to DRAM by the masters (R37, R48, R84, R87, R88, R92, R93). -/
namespace Sys2Proof.Proofs
open Sys2Proof.Machine Sys2Proof.Laws

/-! ### An access that lies within one line or word (R103) -/

theorem parts_within {al a n : Nat} (hn : 0 < n) (h : a % al + n ≤ al) : parts al n a n = [(a, n)] := by
  obtain ⟨m, rfl⟩ : ∃ m, n = m + 1 := ⟨n - 1, by omega⟩
  have hmin : min (m + 1) (al - a % al) = m + 1 := Nat.min_eq_left (by omega)
  simp only [parts, if_neg (Nat.succ_ne_zero m), hmin, Nat.sub_self, parts_zero]

theorem readParts_one (f : State → Nat → Nat → State × RdAns) (s : State) (a n : Nat) : readParts f s [(a, n)] = f s a n := by
  rw [readParts]
  split
  · next h => rw [h]
  · next h => simp only [readParts, List.append_nil, Bool.or_false, h]

theorem writeParts_one (f : State → Nat → List Byte → State × Option BusCause) (s : State) (a : Nat) (d : List Byte) :
    writeParts f s [(a, d.length)] d = f s a d := by
  rw [writeParts, List.take_length]
  split
  · next h => rw [h]
  · next h => rw [writeParts, h]

theorem memRead_within {s : State} {a n : Nat} {u : Upset} (hn : 0 < n) (h : a % 64 + n ≤ 64) : memRead s a n u = memPartRead u s a n := by
  rw [memRead, parts_within hn h, readParts_one]
theorem memWrite_within {s : State} {a : Nat} {d : List Byte} {u : Upset} (hd : d ≠ []) (h : a % 64 + d.length ≤ 64) :
    memWrite s a d u = memPartWrite u s a d := by
  rw [memWrite, parts_within (List.length_pos_iff.mpr hd) h, writeParts_one]

/-- Bytes of bytes. -/
theorem take_drop_bytes (s : State) (k : Nat) {o n m : Nat} (h : o + n ≤ m) : ((s.bytes k m).drop o).take n = s.bytes (k + o) n := by
  obtain ⟨r, rfl⟩ : ∃ r, m = o + (n + r) := ⟨m - o - n, by omega⟩
  rw [bytes_add, List.drop_left' (length_bytes _ _ _), bytes_add, List.take_left' (length_bytes _ _ _)]

/-! ### The bus command of an access to DRAM -/

theorem line_of_addr (l : Nat) {o : Nat} (ho : o < 64) : (dramBase + l * 64 + o - dramBase) / 64 = l ∧ (dramBase + l * 64 + o) % 64 = o ∧
    dramBase + l * 64 + o - o = dramBase + l * 64 := by unfold dramBase; omega

section
variable {s t : State} {id : MasterId} {l o n : Nat} {u : Upset} {d : List Byte} {p : Bool} {e : BusCause} (hl : l < dramLines)
include hl

theorem toNat_dramAddr (ho : o < 64) : (dramAddr l o).toNat = dramBase + l * 64 + o := by
  unfold dramLines at hl
  rw [dramAddr, BitVec.toNat_ofNat, Nat.mod_eq_of_lt]
  unfold dramBase
  omega

theorem memKind_line (ho : o < 64) : memKind (dramBase + l * 64 + o) = .dram := by
  unfold dramLines at hl
  unfold memKind dramBase
  rw [if_pos (by omega)]

theorem targetOf_line (ho : o < 64) : targetOf (dramBase + l * 64 + o) = .memory := by
  have hk := memKind_line hl ho
  unfold targetOf
  rw [hk, if_neg (by unfold dramBase; omega), if_neg (by unfold dramBase; omega), if_neg (by unfold dramBase; omega),
    if_neg (by unfold dramBase; omega)]

section
variable (hn : 0 < n) (h : o + n ≤ 64)
include hn h

theorem busReadRaw_line : busReadRaw s id (dramBase + l * 64 + o) n u = dramPartRead s (dramBase + l * 64 + o) n u := by
  obtain ⟨-, hmod, -⟩ := line_of_addr l (show o < 64 by omega)
  rw [busReadRaw, targetOf_line hl (by omega)]
  dsimp only
  rw [memRead_within hn (by rw [hmod]; exact h), memPartRead, memKind_line hl (by omega)]

variable (hi : s.issues id = true)
include hi

theorem exec_dramRead : exec (.dramRead id (dramAddr l o) n u) s = .next { (busRead s id (dramBase + l * 64 + o) n u).1 with
    resp := respRd (busRead s id (dramBase + l * 64 + o) n u).2 } := by
  show okIf (decide (0 < n)) (cmdRead s id (dramAddr l o).toNat n u) = _
  rw [decide_eq_true hn, toNat_dramAddr hl (by omega), cmdRead_of_issues hi]
  rfl

theorem exec_dramRead_data (hr : dramPartRead s (dramBase + l * 64 + o) n u = (t, .ok (d, p))) :
    exec (.dramRead id (dramAddr l o) n u) s = .next { t with resp := .data d p } := by
  have hb : busRead s id (dramBase + l * 64 + o) n u = (t, .ok (d, p)) := by rw [busRead, busReadRaw_line hl hn h, hr]
  rw [exec_dramRead hl hn h hi, hb]
  rfl
theorem exec_dramRead_err (hr : dramPartRead s (dramBase + l * 64 + o) n u = (s, .error e)) :
    exec (.dramRead id (dramAddr l o) n u) s = .next { s.berr id (dramBase + l * 64 + o) false e with resp := .err e } := by
  have hb : busRead s id (dramBase + l * 64 + o) n u = (s.berr id (dramBase + l * 64 + o) false e, .error e) := by
    rw [busRead, busReadRaw_line hl hn h, hr]
  rw [exec_dramRead hl hn h hi, hb]
  rfl
end

section
variable (hd : d ≠ []) (h : o + d.length ≤ 64)
include hd h

theorem busWriteRaw_line {cust : Bool} :
    busWriteRaw s id cust (dramBase + l * 64 + o) d u = dramPartWrite s (dramBase + l * 64 + o) d u := by
  have ho : o < 64 := by have := List.length_pos_iff.mpr hd; omega
  obtain ⟨-, hmod, -⟩ := line_of_addr l ho
  rw [busWriteRaw, targetOf_line hl ho]
  dsimp only
  rw [if_neg (by unfold dramBase qstBase; omega), memWrite_within hd (by rw [hmod]; exact h), memPartWrite, memKind_line hl ho]

variable (hi : s.issues id = true)
include hi

theorem exec_dramWrite : exec (.dramWrite id (dramAddr l o) d u) s = .next { (busWrite s id (dramBase + l * 64 + o) d u).1 with
    resp := respOf (busWrite s id (dramBase + l * 64 + o) d u).2 } := by
  have ho : o < 64 := by have := List.length_pos_iff.mpr hd; omega
  have hne : (!d.isEmpty) = true := by simpa using hd
  show okIf (!d.isEmpty) (cmdWrite s id (dramAddr l o).toNat d u) = _
  rw [hne, toNat_dramAddr hl ho, cmdWrite_of_issues hi]
  rfl

theorem exec_dramWrite_done (hr : dramPartWrite s (dramBase + l * 64 + o) d u = (t, none)) :
    exec (.dramWrite id (dramAddr l o) d u) s = .next { t with resp := .done } := by
  have hb : busWrite s id (dramBase + l * 64 + o) d u = (t, none) := by
    rw [busWrite, busWriteW, busWriteRaw_line hl hd h, hr]
  rw [exec_dramWrite hl hd h hi, hb]
  rfl
theorem exec_dramWrite_err (hr : dramPartWrite s (dramBase + l * 64 + o) d u = (s, some e)) :
    exec (.dramWrite id (dramAddr l o) d u) s = .next { s.berr id (dramBase + l * 64 + o) true e with resp := .err e } := by
  have hb : busWrite s id (dramBase + l * 64 + o) d u = (s.berr id (dramBase + l * 64 + o) true e, some e) := by
    rw [busWrite, busWriteW, busWriteRaw_line hl hd h, hr]
  rw [exec_dramWrite hl hd h hi, hb]
  rfl
end
end

/-! ### The access within its line (R48, R84) -/

section
variable {s : State} {l o n : Nat} {u : Upset} {d : List Byte} {rd : Loc} {wr : List Loc} (ho : o < 64)
include ho

theorem dramPartRead_unmapped (h : s.dramLocs l = none) : dramPartRead s (dramBase + l * 64 + o) n u = (s, .error .notmapped) := by
  obtain ⟨hline, -, -⟩ := line_of_addr l ho
  simp only [dramPartRead, hline, h]
theorem dramPartRead_off (h : s.dramLocs l = some (rd, wr)) (hp : s.dom (pdDch rd.1) = false) :
    dramPartRead s (dramBase + l * 64 + o) n u = (s, .error .power) := by
  obtain ⟨hline, -, -⟩ := line_of_addr l ho
  have hc : s.chansOn [rd] = false := by rw [State.chansOn, List.all_cons, hp, Bool.false_and]
  simp only [dramPartRead, hline, h, hc, Bool.false_eq_true, if_false]
theorem dramPartRead_on (h : s.dramLocs l = some (rd, wr)) (hp : s.dom (pdDch rd.1) = true) :
    dramPartRead s (dramBase + l * 64 + o) n u = ((chanRead s (dramBase + l * 64) rd u).1,
      .ok (((chanRead s (dramBase + l * 64) rd u).2.1.drop o).take n, (chanRead s (dramBase + l * 64) rd u).2.2)) := by
  obtain ⟨hline, hmod, hsub⟩ := line_of_addr l ho
  have hc : s.chansOn [rd] = true := by rw [State.chansOn, List.all_cons, hp]; rfl
  simp only [dramPartRead, hline, hmod, hsub, h, hc, if_true]

theorem dramPartWrite_unmapped (h : s.dramLocs l = none) : dramPartWrite s (dramBase + l * 64 + o) d u = (s, some .notmapped) := by
  obtain ⟨hline, -, -⟩ := line_of_addr l ho
  simp only [dramPartWrite, hline, h]
theorem dramPartWrite_off (h : s.dramLocs l = some (rd, wr)) (hp : s.chansOn (rd :: wr) = false) :
    dramPartWrite s (dramBase + l * 64 + o) d u = (s, some .power) := by
  obtain ⟨hline, -, -⟩ := line_of_addr l ho
  simp only [dramPartWrite, hline, h, hp, Bool.false_eq_true, if_false]
theorem dramPartWrite_on (h : s.dramLocs l = some (rd, wr)) (hp : s.chansOn (rd :: wr) = true) :
    dramPartWrite s (dramBase + l * 64 + o) d u = (lineWrite s (dramBase + l * 64) rd wr o d u, none) := by
  obtain ⟨hline, hmod, hsub⟩ := line_of_addr l ho
  simp only [dramPartWrite, hline, hmod, hsub, h, hp, if_true]
end

end Sys2Proof.Proofs
end

section
/-! PROOF. What DRAM_READ and DRAM_WRITE answer and leave (R84, R87, R88, R92, R93). -/
namespace Sys2Proof.Proofs
open Sys2Proof.Machine Sys2Proof.Laws

/-! ### An abandoned copy (R93) -/

/-- With nothing held, nothing acts (R90). -/
theorem actHeld_none {s : State} (h : s.memc.held = []) : actHeld s = s := by
  have hs : { s with memc := { s.memc with held := [] } } = s := by rw [← h]
  rw [actHeld, hs, h, releaseHeld]

/-- The flags of an abandoned copy, with nothing held. -/
theorem spareAbandon_flags {s : State} (h : s.memc.held = []) :
    spareAbandon s = (((s.setSpareSt .failed).setCstate s.memc.spareLogical 2).irqBit 0x80 2).irqBit 0x80 3 := by
  obtain ⟨_, _, h1⟩ := irqBit_only ((s.setSpareSt .failed).setCstate s.memc.spareLogical 2) 0x80 2
  obtain ⟨_, _, h2⟩ := irqBit_only (((s.setSpareSt .failed).setCstate s.memc.spareLogical 2).irqBit 0x80 2) 0x80 3
  exact actHeld_none (by rw [h2, h1]; exact h)

/-- An abandoned copy leaves the spare FAILED and the old channel DEGRADED; beside the controller only flags and sleeping cores change. -/
theorem spareAbandon_only {s : State} (h : s.memc.held = []) : ∃ rs cs, spareAbandon s = { s with
    regs := rs, cores := cs,
    memc := { s.memc with spareSt := .failed, chans := sput s.memc.chans s.memc.spareLogical { s.mch s.memc.spareLogical with cstate := 2 } {} } } := by
  obtain ⟨_, _, h1⟩ := irqBit_only ((s.setSpareSt .failed).setCstate s.memc.spareLogical 2) 0x80 2
  obtain ⟨_, _, h2⟩ := irqBit_only (((s.setSpareSt .failed).setCstate s.memc.spareLogical 2).irqBit 0x80 2) 0x80 3
  rw [spareAbandon_flags h, h2, h1]
  exact ⟨_, _, rfl⟩

theorem spareAbandon_frame {s : State} (h : s.memc.held = []) : (spareAbandon s).memc.spareSt = .failed ∧ (spareAbandon s).mem = s.mem ∧
    (spareAbandon s).lineErr = s.lineErr := by
  obtain ⟨_, _, hab⟩ := spareAbandon_only h
  rw [hab]
  exact ⟨rfl, rfl, rfl⟩

/-! ### A demand read (R87, R92) -/

section
variable {s : State} {rd : Loc} {u : Upset} (addr : Nat)

/-- A read of a line that no copy directs to the spare is a read under R87. -/
theorem chanRead_direct (h : rd.1 ≠ 63 ∨ s.memc.spareSt ≠ .copy) : chanRead s addr rd u = lineRead s addr rd u := by
  have hc : (rd.1 == 63 && s.memc.spareSt == .copy) = false := by
    rcases h with h | h
    · rw [beq_false_of_ne h, Bool.false_and]
    · rw [beq_false_of_ne h, Bool.and_false]
  rw [chanRead, hc, Bool.and_false, if_neg Bool.false_ne_true]

/-- A good read needs no second one. -/
theorem chanRead_clean (hb : (readErr s rd u).bits = 0) (ht : (readErr s rd u).tag = 0) :
    chanRead s addr rd u = (s.setLineErr rd {}, s.bytes (locKey rd) 64, false) := by
  rw [chanRead, lineRead_clean addr hb ht, Bool.false_and, if_neg Bool.false_ne_true]

theorem readErr_none (h : s.lineErrAt rd = {}) : (readErr s rd {}).bits = 0 ∧ (readErr s rd {}).tag = 0 := by
  rw [readErr, h]
  exact ⟨rfl, rfl⟩

/-- An uncorrectable read is poisoned, and leaves memory and the controller alone. -/
theorem lineRead_uncorrectable_frame (h : (readErr s rd u).bits = 2 ∨ (readErr s rd u).bits < 2 ∧ (readErr s rd u).tag ≠ 0) :
    ∃ t, lineRead s addr rd u = (t, s.bytes (locKey rd) 64, true) ∧ t.mem = s.mem ∧ t.memc = s.memc ∧
      t.lineErr = (s.setLineErr rd (readErr s rd u)).lineErr := by
  obtain ⟨kind, hread⟩ := lineRead_uncorrectable addr h
  obtain ⟨_, _, honly⟩ := lineUE_only (s.setLineErr rd (readErr s rd u)) addr rd.1 kind
  exact ⟨_, hread, by rw [honly]; rfl, by rw [honly]; rfl, by rw [honly]⟩

/-- A read that the spare fails while a copy directs it there: the copy is abandoned, and the old channel answers (R93). -/
theorem chanRead_abandons {j : Nat} (hc : s.memc.spareSt = .copy) (hh : s.memc.held = []) (hb : (readErr s (63, j) u).bits = 2)
    (hl : s.memc.spareLogical < 63) (he : s.lineErrAt (s.memc.spareLogical, j) = {}) :
    ∃ t, chanRead s addr (63, j) u = (t, s.bytes (locKey (s.memc.spareLogical, j)) 64, false) ∧ t.memc.spareSt = .failed ∧
      t.mem = s.mem := by
  obtain ⟨w, hread, hmem, hmemc, herr⟩ := lineRead_uncorrectable_frame addr (s := s) (rd := (63, j)) (.inl hb)
  obtain ⟨hst, hmem', herr'⟩ := spareAbandon_frame (s := w) (by rw [hmemc, hh])
  have hold : (spareAbandon w).lineErrAt (s.memc.spareLogical, j) = {} := by
    rw [State.lineErrAt, herr', herr]
    exact (lineErrAt_setLineErr_ne _ (locIx_ne_of_chan (Nat.ne_of_lt hl))).trans he
  obtain ⟨hb', ht'⟩ := readErr_none hold
  refine ⟨(spareAbandon w).setLineErr (s.memc.spareLogical, j) {}, ?_, by rw [setLineErr_memc, hst], by rw [setLineErr_mem, hmem', hmem]⟩
  have hgo : (true && ((63 : Nat) == 63 && SpareSt.copy == SpareSt.copy)) = true := by decide
  rw [chanRead, hread, hc]
  dsimp only
  rw [if_pos hgo, lineRead_clean addr hb' ht', bytes_congr (hmem'.trans hmem)]
end

section
variable {s : State} {rd : Loc} {u : Upset} (addr : Nat)

/-- A line with one bit in error and the right tag: it is put right and counted, and its bytes are answered. -/
theorem lineRead_corrected_holds (hb : (readErr s rd u).bits = 1) (ht : (readErr s rd u).tag = 0) (hr : Regs.wf s = true)
    (he : swf (fun _ => ({} : CellErr)) s.lineErr = true) : ∃ t, lineRead s addr rd u = (t, s.bytes (locKey rd) 64, false) ∧
      t.mem = s.mem ∧ t.resp = s.resp ∧ t.lineErrAt rd = {} ∧
      (t.reg (0xC0 + rd.1) 0x100).toNat = min ((s.reg (0xC0 + rd.1) 0x100).toNat + 1) 0xFFFFFFFF ∧
      t.regB (0xC0 + rd.1) oIrqRaw 0 = true := by
  obtain ⟨hcount, hflag⟩ := lineCE_counts (s := (s.setLineErr rd (readErr s rd u)).setLineErr rd {}) rd.1 hr
  obtain ⟨_, _, _, honly⟩ := lineCE_only ((s.setLineErr rd (readErr s rd u)).setLineErr rd {}) rd.1
  refine ⟨_, lineRead_corrected addr hb ht, by rw [honly]; rfl, by rw [honly]; rfl, ?_, hcount, hflag⟩
  rw [honly]
  exact lineErrAt_setLineErr rd {} (swf_setLineErr rd _ he)

/-- An uncorrectable line: it is counted, and answered poisoned. -/
theorem lineRead_uncorrectable_holds (h : (readErr s rd u).bits = 2 ∨ (readErr s rd u).bits < 2 ∧ (readErr s rd u).tag ≠ 0)
    (hr : Regs.wf s = true) : ∃ t, lineRead s addr rd u = (t, s.bytes (locKey rd) 64, true) ∧ t.mem = s.mem ∧ t.resp = s.resp ∧
      (t.reg (0xC0 + rd.1) 0x104).toNat = min ((s.reg (0xC0 + rd.1) 0x104).toNat + 1) 0xFFFFFFFF ∧
      t.regB (0xC0 + rd.1) oIrqRaw 1 = true := by
  obtain ⟨kind, hread⟩ := lineRead_uncorrectable addr h
  obtain ⟨hcount, hflag⟩ := lineUE_counts (s := s.setLineErr rd (readErr s rd u)) addr rd.1 kind hr
  obtain ⟨_, _, honly⟩ := lineUE_only (s.setLineErr rd (readErr s rd u)) addr rd.1 kind
  exact ⟨_, hread, by rw [honly]; rfl, by rw [honly]; rfl, hcount, hflag⟩
end

section
variable {s : State} {id : MasterId} {l o n : Nat} {u : Upset} {rd : Loc} {wr : List Loc}
  (hi : s.issues id = true) (hl : l < dramLines) (hon : o + n ≤ 64) (hn : 0 < n) (hw : s.dramLocs l = some (rd, wr))
  (hp : s.dom (pdDch rd.1) = true)
include hi hl hon hn hw hp

/-- What the read of the line answers, DRAM_READ answers in its bytes. -/
theorem exec_dramRead_chan {t : State} {k : Nat} {p : Bool} (h : chanRead s (dramBase + l * 64) rd u = (t, s.bytes k 64, p)) :
    exec (.dramRead id (dramAddr l o) n u) s = .next { t with resp := .data (s.bytes (k + o) n) p } := by
  refine exec_dramRead_data hl hn hon hi ?_
  rw [dramPartRead_on (by omega) hw hp, h, take_drop_bytes _ _ hon]

/-- The third clause of the reads: what two or fewer bits in error, and the tag, make of a read. -/
theorem dramRead_cases (hd : rd.1 ≠ 63 ∨ s.memc.spareSt ≠ .copy) (hr : Regs.wf s = true) (he : errsWf s) :
    ∃ t, exec (.dramRead id (dramAddr l o) n u) s = .next t ∧ ((readErr s rd u).bits < 3 → t.mem = s.mem) ∧
      ((readErr s rd u).bits = 0 → (readErr s rd u).tag = 0 → t.resp = .data (s.bytes (locKey rd + o) n) false ∧ t.regs = s.regs) ∧
      ((readErr s rd u).bits = 1 → (readErr s rd u).tag = 0 → t.resp = .data (s.bytes (locKey rd + o) n) false ∧ t.lineErrAt rd = {} ∧
        (t.reg (0xC0 + rd.1) 0x100).toNat = min ((s.reg (0xC0 + rd.1) 0x100).toNat + 1) 0xFFFFFFFF ∧
        t.regB (0xC0 + rd.1) oIrqRaw 0 = true) ∧
      ((readErr s rd u).bits = 2 ∨ (readErr s rd u).bits < 2 ∧ (readErr s rd u).tag ≠ 0 →
        t.resp = .data (s.bytes (locKey rd + o) n) true ∧
        (t.reg (0xC0 + rd.1) 0x104).toNat = min ((s.reg (0xC0 + rd.1) 0x104).toNat + 1) 0xFFFFFFFF ∧
        t.regB (0xC0 + rd.1) oIrqRaw 1 = true) := by
  have hchan := chanRead_direct (u := u) (dramBase + l * 64) hd
  by_cases h3 : 3 ≤ (readErr s rd u).bits
  · exact ⟨_, exec_dramRead_data hl hn hon hi (dramPartRead_on (by omega) hw hp), fun k => by omega, fun k => by omega,
      fun k => by omega, fun k => by omega⟩
  obtain ⟨hb, ht⟩ | ⟨hb, ht⟩ | h := readErr_cases (Nat.lt_of_not_le h3)
  · refine ⟨_, exec_dramRead_chan hi hl hon hn hw hp (hchan.trans (lineRead_clean _ hb ht)), fun _ => rfl, fun _ _ => ⟨rfl, rfl⟩,
      fun k => by omega, fun k => by omega⟩
  · obtain ⟨t, hread, hmem, -, hclear, hcount, hflag⟩ := lineRead_corrected_holds (dramBase + l * 64) hb ht hr he.1
    exact ⟨_, exec_dramRead_chan hi hl hon hn hw hp (hchan.trans hread), fun _ => hmem, fun k => by omega,
      fun _ _ => ⟨rfl, hclear, hcount, hflag⟩, fun k => by omega⟩
  · obtain ⟨t, hread, hmem, -, hcount, hflag⟩ := lineRead_uncorrectable_holds (dramBase + l * 64) h hr
    exact ⟨_, exec_dramRead_chan hi hl hon hn hw hp (hchan.trans hread), fun _ => hmem, fun k => by omega, fun k => by omega,
      fun _ => ⟨rfl, hcount, hflag⟩⟩
end

/-- The first half of O18: R84, R87, R92 and R93. -/
theorem dramReadsFollowTheCheckWord : DramReadsFollowTheCheckWord := by
  intro s id l o n u hi hl hon hn
  refine ⟨fun h => ?_, fun rd wr h hp => ?_, fun rd wr h hp hd hr he => ?_, fun j wr h hp hc hh he hb hsl hold => ?_⟩
  · exact exec_dramRead_err hl hn hon hi (dramPartRead_unmapped (by omega) h)
  · exact exec_dramRead_err hl hn hon hi (dramPartRead_off (by omega) h hp)
  · exact dramRead_cases hi hl hon hn h hp hd hr he
  · obtain ⟨t, hread, hst, hmem⟩ := chanRead_abandons (dramBase + l * 64) hc hh hb hsl hold
    exact ⟨_, exec_dramRead_chan hi hl hon hn h hp hread, hst, hmem, rfl⟩

end Sys2Proof.Proofs
end

section
/-! PROOF. What DRAM_WRITE stores (R84, R88, R92). -/
namespace Sys2Proof.Proofs
open Sys2Proof.Machine Sys2Proof.Laws

/-! ### Bytes put into a line (R88) -/

section
variable {l d : List Byte} {o : Nat} (h : o + d.length ≤ l.length)
include h

theorem listPut_within : listPut l o d = l.take o ++ d ++ l.drop (o + d.length) := by
  refine List.take_of_length_le ?_
  simp only [List.length_append, List.length_take, List.length_drop]
  omega
theorem length_listPut : (listPut l o d).length = l.length := by
  rw [listPut_within h]
  simp only [List.length_append, List.length_take, List.length_drop]
  omega
theorem take_drop_listPut : ((listPut l o d).drop o).take d.length = d := by
  have ho : (l.take o).length = o := by rw [List.length_take]; omega
  rw [listPut_within h, List.append_assoc, List.drop_left' ho, List.take_left' rfl]
theorem getElem_listPut_out {i : Nat} (hi : i < l.length) (hout : i < o ∨ o + d.length ≤ i) :
    (listPut l o d)[i]'((length_listPut h).symm ▸ hi) = l[i] := by
  have ho : (l.take o).length = o := by rw [List.length_take]; omega
  simp only [listPut_within h]
  rcases hout with k | k
  · rw [List.getElem_append_left (by rw [List.length_append]; omega), List.getElem_append_left (by omega), List.getElem_take]
  · rw [List.getElem_append_right (by rw [List.length_append]; omega), List.getElem_drop]
    congr 1
    rw [List.length_append]
    omega
end

/-- An answer touches no byte. -/
theorem bytes_withResp (s : State) (r : Resp) (a n : Nat) : ({ s with resp := r } : State).bytes a n = s.bytes a n :=
  bytes_congr (t := { s with resp := r }) (s := s) rfl a n
theorem byteAt_withResp (s : State) (r : Resp) (a : Nat) : ({ s with resp := r } : State).byteAt a = s.byteAt a := rfl

/-! ### Places of a line (R80, R84) -/

/-- A line is read from one of the places it is written to, and all of them are lines of a channel. -/
theorem dramLocs_places {s : State} {l : Nat} {rd : Loc} {wr : List Loc} (h : s.dramLocs l = some (rd, wr)) (hl : l < dramLines) :
    rd ∈ wr ∧ ∀ x ∈ wr, x.2 < chanLines := by
  have hwide : some (s.wideLocs l) = some (rd, wr) → rd ∈ wr ∧ ∀ x ∈ wr, x.2 < chanLines := fun k => by
    have hrd := wideRead_mem s l
    have hwr := fun x hx => wideLocs_bound (s := s) (x := x) hl hx
    rw [Option.some.inj k] at hrd hwr
    exact ⟨hrd, hwr⟩
  have hnarrow : l < narrowLines → some (narrowLoc l, [narrowLoc l]) = some (rd, wr) → rd ∈ wr ∧ ∀ x ∈ wr, x.2 < chanLines := fun hn k => by
    cases k
    exact ⟨List.mem_singleton_self _, fun x hx => by rw [List.mem_singleton.mp hx]; exact narrowLoc_bound hn⟩
  unfold State.dramLocs at h
  split at h
  · cases h
  · split at h
    · next hn => exact hnarrow hn h
    · cases h
  · split at h
    · next hn =>
      split at h
      · exact hwide h
      · exact hnarrow hn h
    · cases h
  · rw [if_pos hl] at h
    exact hwide h

/-! ### A store of bytes within a line or a word (R88, R95) -/

/-- Bytes stored in their old surroundings: they are read back, and every other byte stays. -/
theorem setBytes_put {s : State} {k m o : Nat} {d : List Byte} (h : o + d.length ≤ m) (hw : Memory.wf s = true) :
    (s.setBytes k (listPut (s.bytes k m) o d)).bytes (k + o) d.length = d ∧
      ∀ a, a < k + o ∨ k + o + d.length ≤ a → (s.setBytes k (listPut (s.bytes k m) o d)).byteAt a = s.byteAt a := by
  have hlen := length_bytes s k m
  have hput : o + d.length ≤ (s.bytes k m).length := by rw [hlen]; exact h
  have hplen := (length_listPut hput).trans hlen
  have hin := bytes_setBytes s k (listPut (s.bytes k m) o d) hw
  rw [hplen] at hin
  refine ⟨?_, fun a ha => ?_⟩
  · rw [← take_drop_bytes _ _ h, hin, take_drop_listPut hput]
  · by_cases hk : k ≤ a ∧ a < k + m
    · obtain ⟨i, rfl⟩ : ∃ i, a = k + i := ⟨a - k, by omega⟩
      have hi : i < m := by omega
      rw [← getElem_bytes _ _ m i hi, ← getElem_bytes _ _ m i hi]
      simp only [hin]
      exact getElem_listPut_out hput _ (by omega)
    · exact byteAt_setBytes_out _ _ _ _ (by rw [hplen]; omega)

/-- The place of a line that has only one stays the only one, whatever became of a copy. -/
theorem writeLocs_one (s : State) (rd : Loc) : writeLocs s [rd] = [rd] := by
  unfold writeLocs
  split
  · rfl
  · rfl

/-- A write within a line that has one place and no error, or of the whole line, stores the line with the written bytes in it. -/
theorem lineWrite_one {s : State} {rd : Loc} {d : List Byte} {o : Nat} (addr : Nat) (h : o + d.length ≤ 64)
    (he : s.lineErrAt rd = {} ∨ d.length = 64) : ∃ w, lineWrite s addr rd [rd] o d {} =
      lineStore w (listPut (w.bytes (locKey rd) 64) o d) false [rd] ∧ (w = s ∨ w = s.setLineErr rd {}) := by
  unfold lineWrite
  by_cases hd : d.length = 64
  · obtain rfl : o = 0 := by omega
    rw [if_pos hd]
    exact ⟨s, by rw [listPut_all (by rw [length_bytes, hd])], .inl rfl⟩
  · obtain ⟨hb, ht⟩ := readErr_none (he.resolve_right hd)
    rw [if_neg hd, chanRead_clean addr hb ht]
    dsimp only
    exact ⟨_, by rw [writeLocs_one, bytes_congr (t := s.setLineErr rd {}) (setLineErr_mem s rd {})], .inr rfl⟩

section
variable {s : State} {id : MasterId} {l o : Nat} {d : List Byte} (hi : s.issues id = true) (hl : l < dramLines) (hod : o + d.length ≤ 64)
  (hd : d ≠ []) (hm : Memory.wf s = true) (he : errsWf s)
include hi hl hod hd hm he

/-- The third clause of the writes: a line with a single place. -/
theorem dramWrite_one {rd : Loc} (h : s.dramLocs l = some (rd, [rd])) (hp : s.dom (pdDch rd.1) = true)
    (hc : s.lineErrAt rd = {} ∨ d.length = 64) : ∃ t, exec (.dramWrite id (dramAddr l o) d {}) s = .next t ∧ t.resp = .done ∧
      t.regs = s.regs ∧ t.bytes (locKey rd + o) d.length = d ∧ t.lineErrAt rd = {} ∧
      ∀ a, a < locKey rd + o ∨ locKey rd + o + d.length ≤ a → t.byteAt a = s.byteAt a := by
  have ho : o < 64 := by have := List.length_pos_iff.mpr hd; omega
  have hb := (dramLocs_places h hl).2 rd (List.mem_singleton_self rd)
  have hon : s.chansOn [rd, rd] = true := by simp only [State.chansOn, List.all_cons, hp, List.all_nil, Bool.and_self]
  obtain ⟨w, hline, hw⟩ := lineWrite_one (dramBase + l * 64) hod hc
  obtain ⟨hmem, hregs, herr⟩ : w.mem = s.mem ∧ w.regs = s.regs ∧ swf (fun _ => ({} : CellErr)) w.lineErr = true := by
    rcases hw with rfl | rfl
    · exact ⟨rfl, rfl, he.1⟩
    · exact ⟨rfl, rfl, swf_setLineErr rd {} he.1⟩
  have hwm : Memory.wf w = true := by rw [Memory.wf, hmem]; exact hm
  obtain ⟨hin, hout⟩ := setBytes_put (s := w) (k := locKey rd) hod hwm
  have hput : (lineStore w (listPut (w.bytes (locKey rd) 64) o d) false [rd]).mem =
    (w.setBytes (locKey rd) (listPut (w.bytes (locKey rd) 64) o d)).mem := rfl
  obtain ⟨_, _, honly⟩ := lineStore_only w (listPut (w.bytes (locKey rd) 64) o d) false [rd]
  refine ⟨_, exec_dramWrite_done hl hd hod hi (dramPartWrite_on ho h hon), rfl, ?_, ?_, ?_, fun a ha => ?_⟩
  · rw [hline, ← hregs, honly]
  · rw [hline, bytes_withResp, bytes_congr hput, hin]
  · rw [hline]
    exact lineErrAt_lineStore_in herr (fun x hx => by rwa [List.mem_singleton.mp hx]) (List.mem_singleton_self rd)
  · rw [hline, byteAt_withResp, State.byteAt, hput, ← State.byteAt, hout a ha, State.byteAt, State.byteAt, hmem]

/-- The last clause of the writes: a whole line with two places. -/
theorem dramWrite_both {rd x y : Loc} (h : s.dramLocs l = some (rd, [x, y])) (hp : s.chansOn [rd, x, y] = true) (h64 : d.length = 64) :
    ∃ t, exec (.dramWrite id (dramAddr l o) d {}) s = .next t ∧ t.resp = .done ∧ t.regs = s.regs ∧
      t.bytes (locKey x) 64 = d ∧ t.bytes (locKey y) 64 = d ∧ t.lineErrAt x = {} ∧ t.lineErrAt y = {} ∧
      ∀ a, a < locKey x ∨ locKey x + 64 ≤ a → a < locKey y ∨ locKey y + 64 ≤ a → t.byteAt a = s.byteAt a := by
  have hb := (dramLocs_places h hl).2
  have hx : x ∈ [x, y] := List.mem_cons_self
  have hy : y ∈ [x, y] := List.mem_cons_of_mem _ (List.mem_singleton_self y)
  have hline : lineWrite s (dramBase + l * 64) rd [x, y] o d {} = lineStore s d false [x, y] := if_pos h64
  obtain ⟨_, _, honly⟩ := lineStore_only s d false [x, y]
  refine ⟨_, exec_dramWrite_done hl hd hod hi (dramPartWrite_on (by omega) h hp), rfl, ?_, ?_, ?_, ?_, ?_, fun a hax hay => ?_⟩
  · rw [hline, honly]
  · rw [hline]
    exact (bytes_withResp _ _ _ _).trans (bytes_lineStore_in hm h64 hb hx)
  · rw [hline]
    exact (bytes_withResp _ _ _ _).trans (bytes_lineStore_in hm h64 hb hy)
  · rw [hline]
    exact lineErrAt_lineStore_in he.1 hb hx
  · rw [hline]
    exact lineErrAt_lineStore_in he.1 hb hy
  · rw [hline]
    refine (byteAt_withResp _ _ _).trans (byteAt_lineStore_out fun z hz => ?_)
    rw [h64]
    rcases List.mem_cons.mp hz with rfl | hz
    · exact hax
    · rw [List.mem_singleton.mp hz]
      exact hay
end

/-- The second half of O18: R84, R88 and R92. -/
theorem dramWritesStoreTheirBytesAlone : DramWritesStoreTheirBytesAlone := by
  intro s id l o d hi hl hod hd hm he
  have ho : o < 64 := by have := List.length_pos_iff.mpr hd; omega
  refine ⟨fun h => ?_, fun rd wr h hp => ?_, fun rd h hp hc => ?_, fun rd x y h hp h64 => ?_⟩
  · exact exec_dramWrite_err hl hd hod hi (dramPartWrite_unmapped ho h)
  · exact exec_dramWrite_err hl hd hod hi (dramPartWrite_off ho h hp)
  · exact dramWrite_one hi hl hod hd hm he h hp hc
  · exact dramWrite_both hi hl hod hd hm he h hp h64

/-- Settles O18, from its two halves. -/
theorem dramAccessesActOnTheirLine : Obligations.DramAccessesActOnTheirLine :=
  ⟨dramReadsFollowTheCheckWord, dramWritesStoreTheirBytesAlone⟩

end Sys2Proof.Proofs
end

section
/-! PROOF. Widening, the live spare and the scrub (R85, R89-R94). -/
namespace Sys2Proof.Proofs
open Sys2Proof.Machine Sys2Proof.Laws

/-- A value that is no default is read back from any table, canonical or not. -/
theorem sget_sput_of_ne {α : Type} [DecidableEq α] (m : SMap α) (k : Nat) {v d : α} (e : α) (h : v ≠ d) : sget (sput m k v d) k e = v := by
  induction m with
  | nil => simp [sput, sget, h]
  | cons c m ih =>
    obtain ⟨j, x⟩ := c
    rw [sput]
    split
    · rw [sget, if_pos rfl]
    · split
      · rw [sget, if_pos rfl]
      · next hne => rw [sget, if_neg hne, ih]

/-! ### WIDEN and SPARE_FORCE (R85, R90) -/

section
variable {s : State} {id : MasterId} {v : Word32} (hi : s.issues id = true) (hc : s.custodyOf id = true)
include hi hc

theorem exec_widen : exec (.widen id v) s = .next { memcCtlWrite s v with resp := .done } :=
  congrArg _ (cmdReg_done (b := .memc) (n := 0) (i := { rwc := 1 }) hi (by decide) (by decide) rfl rfl rfl rfl rfl (by rw [hc]; rfl) rfl)

theorem exec_spareForce : exec (.spareForce id v) s = .next { spareCtlWrite s v with resp := .done } :=
  congrArg _ (cmdReg_done (b := .memc) (n := 0) (i := { reset := 8, rwc := 0x003F010F }) hi (by decide) (by decide) rfl rfl rfl rfl rfl
    (by rw [hc]; rfl) rfl)

/-- The first clause of O20. -/
theorem widen_cases : exec (.widen id v) s = .next (if regBit v 0 = true ∧ s.memc.mode = .narrow ∧ s.allTrained = true
    then { s with memc := { s.memc with mode := .widening, widenPtr := 0, widen := true }, resp := .done }
    else { s with resp := .done }) := by
  rw [exec_widen hi hc, memcCtlWrite]
  simp only [Bool.and_eq_true, beq_iff_eq]
  split
  · rfl
  · rfl

/-- The third clause of O20. -/
theorem spareForce_arms (hm : s.memc.mode = .wide) (hs : s.memc.spareSt = .idle) (hf : regBit v 8 = true) (hl : regFld v 16 6 < 63) :
    ∃ t, exec (.spareForce id v) s = .next t ∧ t.memc.spareSt = .arm ∧ t.memc.spareLogical = regFld v 16 6 ∧ t.memc.sparePtr = 0 ∧
      t.memc.spareValid = false ∧ (t.mch 63).trained = true ∧ t.mem = s.mem ∧ t.resp = .done := by
  have harm : spareCtlWrite s v = spareArm (s.setReg 0x80 0x104 (v &&& w32 0x003F000F)) (regFld v 16 6) := by
    have h1 : ¬ ((!regBit v 8) = true ∨ 62 < regFld v 16 6) := by rw [hf]; simp only [Bool.not_true, Bool.false_eq_true, false_or]; omega
    simp only [spareCtlWrite, if_neg h1, setReg_memc, hm, hs, bne_self_eq_false, Bool.false_eq_true, if_false]
  have htrained : ((spareArm (s.setReg 0x80 0x104 (v &&& w32 0x003F000F)) (regFld v 16 6)).mch 63) = { cstate := 1, trained := true } :=
    sget_sput_of_ne _ _ _ (by decide)
  refine ⟨_, exec_spareForce hi hc, ?_⟩
  rw [harm]
  exact ⟨rfl, rfl, rfl, rfl, congrArg Chan.trained htrained, rfl, rfl⟩
end

/-! ### WIDE_DONE (R85, R94) -/

theorem running_iff {x : SpareSt} : (x == .arm || (x == .copy || x == .switch)) = true ↔ x = .arm ∨ x = .copy ∨ x = .switch := by
  simp only [Bool.or_eq_true, beq_iff_eq]

theorem spareAgain_running {s : State} (h : s.memc.spareSt = .arm ∨ s.memc.spareSt = .copy ∨ s.memc.spareSt = .switch) :
    spareAgain s = spareArm s s.memc.spareLogical := if_pos (running_iff.mpr h)
theorem spareAgain_none {s : State} (h : ¬ (s.memc.spareSt = .arm ∨ s.memc.spareSt = .copy ∨ s.memc.spareSt = .switch)) :
    spareAgain s = s := if_neg fun k => h (running_iff.mp k)

/-- The state in which the widening has ended and nothing has acted on it yet. -/
def widened (s : State) : State := ({ s with memc := { s.memc with mode := .wide } } : State).irqBit 0x80 4

theorem widened_only (s : State) : ∃ rs cs, widened s = { s with memc := { s.memc with mode := .wide }, regs := rs, cores := cs } := by
  obtain ⟨_, _, h⟩ := irqBit_only ({ s with memc := { s.memc with mode := .wide } } : State) 0x80 4
  exact ⟨_, _, h⟩

theorem widened_flag {s : State} (h : Regs.wf s = true) : (widened s).regB 0x80 oIrqRaw 4 = true := regBit_irqBit h (by decide)

/-- The second clause of O20. -/
theorem wideDone_holds {s : State} (hm : s.memc.mode = .widening) (hp : narrowLines ≤ s.memc.widenPtr) (hh : s.memc.held = [])
    (hr : Regs.wf s = true) : ∃ t, exec .wideDone s = .next t ∧ t.memc.mode = .wide ∧ t.regB 0x80 oIrqRaw 4 = true ∧ t.mem = s.mem ∧
      (s.memc.spareSt ≠ .arm → s.memc.spareSt ≠ .copy → s.memc.spareSt ≠ .switch → t.memc = { s.memc with mode := .wide }) ∧
      (s.memc.spareSt = .arm ∨ s.memc.spareSt = .copy ∨ s.memc.spareSt = .switch → t.memc.spareSt = .arm ∧ t.memc.sparePtr = 0 ∧
        t.memc.spareLogical = s.memc.spareLogical) := by
  obtain ⟨rs, cs, honly⟩ := widened_only s
  have hflag := widened_flag hr
  have hgo : (s.memc.mode == .widening && decide (narrowLines ≤ s.memc.widenPtr)) = true := by rw [hm, decide_eq_true hp]; rfl
  have hexec : exec .wideDone s = .next (actHeld (spareAgain (widened s))) := congrArg Host.Outcome.next (if_pos hgo)
  have hmemc : (widened s).memc = { s.memc with mode := .wide } := by rw [honly]
  have hmem : (widened s).mem = s.mem := by rw [honly]
  rw [hexec]
  by_cases h : s.memc.spareSt = .arm ∨ s.memc.spareSt = .copy ∨ s.memc.spareSt = .switch
  · have hst : (widened s).memc.spareSt = .arm ∨ (widened s).memc.spareSt = .copy ∨ (widened s).memc.spareSt = .switch := by rwa [hmemc]
    rw [spareAgain_running hst, actHeld_none (s := spareArm _ _) ((congrArg Memc.held hmemc).trans hh)]
    exact ⟨_, rfl, congrArg Memc.mode hmemc, hflag, hmem, fun h1 h2 h3 => absurd h (by simp only [h1, h2, h3, or_self, not_false_iff]),
      fun _ => ⟨rfl, rfl, (congrArg Memc.spareLogical hmemc :)⟩⟩
  · have hst : ¬ ((widened s).memc.spareSt = .arm ∨ (widened s).memc.spareSt = .copy ∨ (widened s).memc.spareSt = .switch) := by rwa [hmemc]
    rw [spareAgain_none hst, actHeld_none ((congrArg Memc.held hmemc).trans hh)]
    exact ⟨_, rfl, congrArg Memc.mode hmemc, hflag, hmem, fun _ _ _ => hmemc, fun k => absurd k h⟩

/-! ### SPARE_COPY_BLOCK (R91) -/

theorem lineUE_memc (s : State) (a p k : Nat) : (s.lineUE a p k).memc = s.memc := by
  obtain ⟨_, _, h⟩ := lineUE_only s a p k
  rw [h]
theorem lineCE_memc (s : State) (p : Nat) : (s.lineCE p).memc = s.memc := by
  obtain ⟨_, _, _, h⟩ := lineCE_only s p
  rw [h]
/-- Free bytes use up free values, and change nothing else. -/
theorem freshBytes_only (s : State) (n : Nat) : ∃ f, (s.freshBytes n).2 = { s with free := f } := by
  induction n generalizing s with
  | zero => exact ⟨_, rfl⟩
  | succ n ih => exact ih _
theorem freshBytes_memc (s : State) (n : Nat) : (s.freshBytes n).2.memc = s.memc := by
  obtain ⟨_, h⟩ := freshBytes_only s n
  rw [h]
theorem fresh_memc (s : State) : s.fresh.2.memc = s.memc := rfl

/-- A read of a line leaves the controller alone, whatever is in error. -/
theorem lineRead_memc (s : State) (addr : Nat) (l : Loc) (u : Upset) : (lineRead s addr l u).1.memc = s.memc := by
  unfold lineRead
  dsimp only
  split
  · split
    · rw [lineUE_memc, fresh_memc, freshBytes_memc, setLineErr_memc]
    · split
      · rw [lineCE_memc, setBytes_memc, setLineErr_memc, fresh_memc, freshBytes_memc, setLineErr_memc]
      · rw [fresh_memc, freshBytes_memc, setLineErr_memc]
  · split
    · rw [lineUE_memc, setLineErr_memc]
    · split
      · rw [lineUE_memc, setLineErr_memc]
      · split
        · rw [lineCE_memc, setLineErr_memc, setLineErr_memc]
        · rw [setLineErr_memc]

theorem copyLine_memc (s : State) (addr : Nat) (src : Loc) (dst : List Loc) (u : Upset) : (copyLine s addr src dst u).memc = s.memc := by
  obtain ⟨_, _, h⟩ := lineStore_only (lineRead s addr src u).1 (lineRead s addr src u).2.1 (lineRead s addr src u).2.2 dst
  rw [copyLine, h]
  exact lineRead_memc s addr src u

theorem spareCopyLines_memc (s : State) (us : List Upset) (l : Nat) (js : List Nat) : (spareCopyLines s us l js).memc = s.memc := by
  induction js generalizing s with
  | nil => rfl
  | cons j js ih => rw [spareCopyLines, ih, copyLine_memc]

/-- The controller after a copy block. -/
theorem spareCopyBlock_memc {s : State} (us : List Upset) (hm : s.memc.mode = .wide) (hs : s.memc.spareSt = .arm ∨ s.memc.spareSt = .copy)
    (hp : s.memc.sparePtr < spareBlocks) : (spareCopyBlock s us).memc = { s.memc with
      sparePtr := s.memc.sparePtr + 1, spareSt := if s.memc.sparePtr + 1 = spareBlocks then .switch else .copy } := by
  have hgo : (s.memc.mode == .wide && ((s.memc.spareSt == .arm || s.memc.spareSt == .copy) && decide (s.memc.sparePtr < spareBlocks))) =
      true := by
    rw [hm, decide_eq_true hp, Bool.and_true, Bool.and_eq_true, Bool.or_eq_true, beq_iff_eq, beq_iff_eq, beq_iff_eq]
    exact ⟨rfl, hs⟩
  rw [spareCopyBlock, if_pos hgo]
  dsimp only
  rw [spareCopyLines_memc]
  rfl

/-! ### SPARE_SWITCH and SPARE_ABORT (R91, R93) -/

/-- The state at the end of the switch, before its flag is set. -/
def switched (s : State) : State :=
  (dropChannel (({ s with memc := { s.memc with spareSt := .used, spareValid := true } } : State).setCstate s.memc.spareLogical 3)
    s.memc.spareLogical).setDom (pdDch s.memc.spareLogical) false

theorem switched_memc (s : State) : (switched s).memc = { s.memc with
    spareSt := .used, spareValid := true,
    chans := sput s.memc.chans s.memc.spareLogical { s.mch s.memc.spareLogical with cstate := 3 } {} } := rfl
theorem switched_dom {s : State} (h : swf domainReset s.domains = true) : (switched s).dom (pdDch s.memc.spareLogical) = false :=
  dom_setDom _ _ _ h

theorem retired_ne_reset (c : Chan) : ({ c with cstate := 3 } : Chan) ≠ {} := fun h => by cases h
theorem degraded_ne_reset (c : Chan) : ({ c with cstate := 2 } : Chan) ≠ {} := fun h => by cases h

/-- The fifth clause of O20. -/
theorem spareSwitch_holds {s : State} (hs : s.memc.spareSt = .switch) (hh : s.memc.held = []) (hr : Regs.wf s = true)
    (hd : swf domainReset s.domains = true) : ∃ t, exec .spareSwitch s = .next t ∧ t.memc.spareSt = .used ∧ t.memc.spareValid = true ∧
      (t.mch s.memc.spareLogical).cstate = 3 ∧ t.dom (pdDch s.memc.spareLogical) = false ∧ t.regB 0x80 oIrqRaw 1 = true := by
  obtain ⟨rs, cs, honly⟩ := irqBit_only (switched s) 0x80 1
  have hflag : ((switched s).irqBit 0x80 1).regB 0x80 oIrqRaw 1 = true := regBit_irqBit (s := switched s) hr (by decide)
  have hmemc : ((switched s).irqBit 0x80 1).memc = (switched s).memc := by rw [honly]
  have hheld : ((switched s).irqBit 0x80 1).memc.held = [] := by rw [hmemc, switched_memc]; exact hh
  have hswitch : spareSwitch s = (switched s).irqBit 0x80 1 := by
    rw [← actHeld_none hheld, spareSwitch, if_pos (by rw [hs]; rfl)]
    rfl
  refine ⟨_, congrArg Host.Outcome.next hswitch, ?_, ?_, ?_, ?_, hflag⟩
  · rw [hmemc, switched_memc]
  · rw [hmemc, switched_memc]
  · rw [State.mch, hmemc, switched_memc]
    exact congrArg Chan.cstate (sget_sput_of_ne _ _ _ (retired_ne_reset _))
  · rw [honly]
    exact switched_dom hd

/-- The sixth clause of O20. -/
theorem spareAbort_holds {s : State} (w : SpareAbortWhy) (hs : s.memc.spareSt = .copy) (hh : s.memc.held = []) (hr : Regs.wf s = true) :
    ∃ t, exec (.spareAbort w) s = .next t ∧ t.memc.spareSt = .failed ∧ (t.mch s.memc.spareLogical).cstate = 2 ∧
      t.regB 0x80 oIrqRaw 3 = true ∧ t.mem = s.mem := by
  obtain ⟨rs, cs, honly⟩ := spareAbandon_only hh
  obtain ⟨hst, hmem, -⟩ := spareAbandon_frame hh
  have hgo : (s.memc.spareSt == .copy) = true := by rw [hs]; rfl
  refine ⟨_, congrArg Host.Outcome.next (if_pos hgo), hst, ?_, ?_, hmem⟩
  · rw [honly]
    exact congrArg Chan.cstate (sget_sput_of_ne _ _ _ (degraded_ne_reset _))
  · rw [spareAbandon_flags hh]
    exact regBit_irqBit (wf_irqBit (s := (s.setSpareSt .failed).setCstate s.memc.spareLogical 2) 0x80 2 hr) (by decide)

/-- The seventh clause of O20. -/
theorem spareAbort_outside {s : State} (w : SpareAbortWhy) (h : s.memc.spareSt ≠ .copy) : exec (.spareAbort w) s = .next s :=
  congrArg Host.Outcome.next (if_neg (by rw [beq_iff_eq]; exact h))

/-! ### SCRUB_READ (R89) -/

/-- The eighth clause of O20. -/
theorem scrubRead_off {s : State} {p : Fin 64} {j : Nat} {u : Upset} (h : s.regB 0x80 0x118 31 = false ∨ s.dom (pdDch p.val) = false) :
    exec (.scrubRead p j u) s = .next s := by
  refine congrArg Host.Outcome.next (if_neg ?_)
  rw [Bool.and_eq_true, Bool.and_eq_true]
  rintro ⟨he, hd, -⟩
  exact h.elim (fun k => Bool.false_ne_true (k.symm.trans he)) (fun k => Bool.false_ne_true (k.symm.trans hd))

/-- A scrub read is a read under R87. -/
theorem exec_scrubRead {s t : State} {p : Fin 64} {j : Nat} {u : Upset} {x : List Byte × Bool} (he : s.regB 0x80 0x118 31 = true)
    (hd : s.dom (pdDch p.val) = true) (hj : j < chanLines) (h : lineRead s (copyAddr p.val j) (p.val, j) u = (t, x)) :
    exec (.scrubRead p j u) s = .next t := by
  have hgo : (s.regB 0x80 0x118 31 && (s.dom (pdDch p.val) && decide (j < chanLines))) = true := by rw [he, hd, decide_eq_true hj]; rfl
  show ok (scrubRead s p.val j u) = _
  rw [scrubRead, if_pos hgo, h]
  rfl

/-- The last clause of O20. -/
theorem scrubRead_holds {s : State} {p : Fin 64} {j : Nat} {u : Upset} (he : s.regB 0x80 0x118 31 = true)
    (hd : s.dom (pdDch p.val) = true) (hj : j < chanLines) (h3 : (readErr s (p.val, j) u).bits < 3) (hw : errsWf s) (hr : Regs.wf s = true) :
    ∃ t, exec (.scrubRead p j u) s = .next t ∧ t.mem = s.mem ∧ t.resp = s.resp ∧
      ((readErr s (p.val, j) u).bits = 1 → (readErr s (p.val, j) u).tag = 0 → t.lineErrAt (p.val, j) = {} ∧
        (t.reg (0xC0 + p.val) 0x100).toNat = min ((s.reg (0xC0 + p.val) 0x100).toNat + 1) 0xFFFFFFFF ∧
        t.regB (0xC0 + p.val) oIrqRaw 0 = true) ∧
      ((readErr s (p.val, j) u).bits = 2 →
        (t.reg (0xC0 + p.val) 0x104).toNat = min ((s.reg (0xC0 + p.val) 0x104).toNat + 1) 0xFFFFFFFF ∧
        t.regB (0xC0 + p.val) oIrqRaw 1 = true) := by
  obtain ⟨hb, ht⟩ | ⟨hb, ht⟩ | h := readErr_cases h3
  · exact ⟨_, exec_scrubRead he hd hj (lineRead_clean _ hb ht), rfl, rfl, fun k => by omega, fun k => by omega⟩
  · obtain ⟨t, hread, hmem, hresp, hclear, hcount, hflag⟩ := lineRead_corrected_holds (copyAddr p.val j) hb ht hr hw.1
    exact ⟨t, exec_scrubRead he hd hj hread, hmem, hresp, fun _ _ => ⟨hclear, hcount, hflag⟩, fun k => by omega⟩
  · obtain ⟨t, hread, hmem, hresp, hcount, hflag⟩ := lineRead_uncorrectable_holds (copyAddr p.val j) h hr
    exact ⟨t, exec_scrubRead he hd hj hread, hmem, hresp, fun k => by omega, fun _ => ⟨hcount, hflag⟩⟩

/-- Settles O20, clause by clause. -/
theorem wideningAndSparingRun : Obligations.WideningAndSparingRun := by
  refine ⟨fun s id v hi hc => widen_cases hi hc, fun s hm hp hh hr => wideDone_holds hm hp hh hr,
    fun s id v hi hc hm hs hf hl => spareForce_arms hi hc hm hs hf hl, fun s us hm hs hp => ⟨spareCopyBlock s us, rfl, ?_⟩,
    fun s hs hh hr hd => spareSwitch_holds hs hh hr hd, fun s w hs hh hr => spareAbort_holds w hs hh hr,
    fun s w h => spareAbort_outside w h, fun s p j u h => scrubRead_off h,
    fun s p j u he hd hj h3 hw hr => scrubRead_holds he hd hj h3 hw hr⟩
  rw [spareCopyBlock_memc us hm hs hp]
  exact ⟨rfl, rfl, hm⟩

end Sys2Proof.Proofs
end

section
/-! PROOF. SRAM_ACCESS: scratch and queue store word by word, as the state of the bank allows (R95, R96). -/
namespace Sys2Proof.Proofs
open Sys2Proof.Machine Sys2Proof.Laws

/-! ### Where a word lies (R95) -/

/-- A field above the 6 lowest bits is one of the line number. -/
theorem fld_of_line {x y : Nat} (h : x / 64 = y / 64) (k w : Nat) : fld x (6 + k) w = fld y (6 + k) w := by
  have hs : 2 ^ (6 + k) = 64 * 2 ^ k := Nat.pow_add 2 6 k
  rw [fld_eq_div_mod, fld_eq_div_mod, hs, ← Nat.div_div_eq_div_mul, ← Nat.div_div_eq_div_mul, h]

/-- The bytes of one line lie in one bank. -/
theorem bankOf_congr {a c : Nat} (h : a / 64 = c / 64) : bankOf a = bankOf c := by
  have hscr : (scrBase ≤ a ∧ a < scrBase + 0x4000000) ↔ (scrBase ≤ c ∧ c < scrBase + 0x4000000) := by unfold scrBase; omega
  have hqst : (qstBase ≤ a ∧ a < qstBase + 0x1000000) ↔ (qstBase ≤ c ∧ c < qstBase + 0x1000000) := by unfold qstBase; omega
  have hsub : ∀ k, (a - 64 * k) / 64 = (c - 64 * k) / 64 := fun k => by omega
  unfold bankOf
  rw [if_congr hscr rfl rfl, if_congr hqst rfl rfl,
    fld_of_line (hsub 0x4000000) 15, fld_of_line (hsub 0x4000000) 0, fld_of_line (hsub 0x8000000) 15, fld_of_line (hsub 0x8000000) 0]

theorem bankOf_cases {a p b : Nat} (h : bankOf a = some (p, b)) :
    (p = 0 ∧ (scrBase ≤ a ∧ a < scrBase + 0x4000000) ∧ b < 256) ∨ (p = 1 ∧ (qstBase ≤ a ∧ a < qstBase + 0x1000000) ∧ b < 64) := by
  unfold bankOf at h
  split at h
  · next hr =>
    cases h
    refine .inl ⟨rfl, hr, ?_⟩
    simp only [fld_eq_div_mod]
    omega
  · split at h
    · next hr =>
      cases h
      refine .inr ⟨rfl, hr, ?_⟩
      simp only [fld_eq_div_mod]
      omega
    · cases h

theorem bankOf_lt {a p b : Nat} (h : bankOf a = some (p, b)) : b < 256 := by
  obtain ⟨-, -, hb⟩ | ⟨-, -, hb⟩ := bankOf_cases h
  · exact hb
  · exact Nat.lt_trans hb (by decide)

theorem memKind_sram {a p b : Nat} (h : bankOf a = some (p, b)) : memKind a = .sram := by
  have hr := bankOf_cases h
  unfold scrBase qstBase at hr
  unfold memKind dramBase scrBase qstBase
  rw [if_neg (by omega), if_pos (by omega)]

theorem targetOf_sram {a p b : Nat} (h : bankOf a = some (p, b)) : targetOf a = .memory := by
  have hr := bankOf_cases h
  have hk := memKind_sram h
  unfold scrBase qstBase at hr
  unfold targetOf
  rw [hk, if_neg (by omega), if_neg (by omega), if_neg (by omega), if_neg (by omega)]

/-! ### The bus command of an access to one word -/

theorem exec_sramRead {s : State} {id : MasterId} {a : Addr} {n : Nat} {u : Upset} (hn : 0 < n) (hi : s.issues id = true) :
    exec (.sramAccess id a (.read n) u) s = .next { (busRead s id a.toNat n u).1 with resp := respRd (busRead s id a.toNat n u).2 } := by
  show okIf (decide (0 < n)) (cmdRead s id a.toNat n u) = _
  rw [decide_eq_true hn, cmdRead_of_issues hi]
  rfl
theorem exec_sramWrite {s : State} {id : MasterId} {a : Addr} {d : List Byte} {u : Upset} (hd : d ≠ []) (hi : s.issues id = true) :
    exec (.sramAccess id a (.write d) u) s = .next { (busWrite s id a.toNat d u).1 with resp := respOf (busWrite s id a.toNat d u).2 } := by
  have hne : (!d.isEmpty) = true := by simpa using hd
  show okIf (!d.isEmpty) (cmdWrite s id a.toNat d u) = _
  rw [hne, cmdWrite_of_issues hi]
  rfl

section
variable {s t : State} {id : MasterId} {a : Addr} {p b n : Nat} {u : Upset} {d : List Byte} {q : Bool} {e : BusCause}
  (hb : bankOf a.toNat = some (p, b))
include hb

section
variable (hn : 0 < n) (h : a.toNat % 8 + n ≤ 8)
include hn h

theorem busReadRaw_word : busReadRaw s id a.toNat n u = sramPartRead s a.toNat n u := by
  rw [busReadRaw, targetOf_sram hb]
  dsimp only
  rw [memRead_within hn (by omega), memPartRead, memKind_sram hb]
  dsimp only
  rw [parts_within hn h, readParts_one]

variable (hi : s.issues id = true)
include hi

theorem exec_sramRead_data (hr : sramPartRead s a.toNat n u = (t, .ok (d, q))) :
    exec (.sramAccess id a (.read n) u) s = .next { t with resp := .data d q } := by
  have hbus : busRead s id a.toNat n u = (t, .ok (d, q)) := by rw [busRead, busReadRaw_word hb hn h, hr]
  rw [exec_sramRead hn hi, hbus]
  rfl
theorem exec_sramRead_err (hr : sramPartRead s a.toNat n u = (s, .error e)) :
    exec (.sramAccess id a (.read n) u) s = .next { s.berr id a.toNat false e with resp := .err e } := by
  have hbus : busRead s id a.toNat n u = (s.berr id a.toNat false e, .error e) := by rw [busRead, busReadRaw_word hb hn h, hr]
  rw [exec_sramRead hn hi, hbus]
  rfl
end

section
variable (hp : p = 0) (hd : d ≠ []) (h : a.toNat % 8 + d.length ≤ 8)
include hp hd h

theorem busWriteRaw_word {cust : Bool} : busWriteRaw s id cust a.toNat d u = sramPartWrite s a.toNat d u := by
  have hr := bankOf_cases hb
  unfold scrBase qstBase at hr
  rw [busWriteRaw, targetOf_sram hb]
  dsimp only
  rw [if_neg (by unfold qstBase; omega), memWrite_within hd (by omega), memPartWrite, memKind_sram hb]
  dsimp only
  rw [parts_within (List.length_pos_iff.mpr hd) h, writeParts_one]

variable (hi : s.issues id = true)
include hi

theorem exec_sramWrite_done (hr : sramPartWrite s a.toNat d u = (t, none)) :
    exec (.sramAccess id a (.write d) u) s = .next { t with resp := .done } := by
  have hbus : busWrite s id a.toNat d u = (t, none) := by rw [busWrite, busWriteW, busWriteRaw_word hb hp hd h, hr]
  rw [exec_sramWrite hd hi, hbus]
  rfl
theorem exec_sramWrite_err (hr : sramPartWrite s a.toNat d u = (s, some e)) :
    exec (.sramAccess id a (.write d) u) s = .next { s.berr id a.toNat true e with resp := .err e } := by
  have hbus : busWrite s id a.toNat d u = (s.berr id a.toNat true e, some e) := by
    rw [busWrite, busWriteW, busWriteRaw_word hb hp hd h, hr]
  rw [exec_sramWrite hd hi, hbus]
  rfl
end
end

/-! ### The state of the bank (R96) -/

section
variable {s : State} {p b : Nat}

theorem bankSt_congr {t : State} (h : t.regs = s.regs) : t.bankSt p b = s.bankSt p b := by
  rw [State.bankSt, State.bankSt, State.regF, State.regF, reg_congr h]

/-- Where the state of a bank stands: above the header and below the other registers of the page (R105). -/
theorem bstateOff_bounds (hb : b < 256) : 0x100 ≤ 0x100 + 4 * (b / 16) ∧ 0x100 + 4 * (b / 16) < 0x140 := by omega

theorem bankSt_irqBit {q n : Nat} (hb : b < 256) : (s.irqBit (scrPage q) n).bankSt p b = s.bankSt p b := by
  rw [State.bankSt, State.bankSt, State.regF, State.regF, reg_irqBit_ne]
  · omega
  · unfold scrPage; omega
  · unfold oIrqRaw; omega
theorem bankSt_setReg {q o : Nat} {v : Word32} (hb : b < 256) (h : 0x140 ≤ o) (ho : o < 4096) :
    (s.setReg (scrPage q) o v).bankSt p b = s.bankSt p b := by
  rw [State.bankSt, State.bankSt, State.regF, State.regF, reg_setReg_ne _ _ _ _ _ _ ho (by omega) (by omega)]
theorem bankSt_setBankSt {v : Nat} (hr : Regs.wf s = true) : (s.setBankSt p b v).bankSt p b = v % 4 :=
  regF_setRegF hr (by omega)

theorem endFill_none (h : sget (s.scr p).filling b 0 = 0) : s.endFill p b = s := if_pos h

/-- An access wakes a bank that keeps its contents (R96): it is ON, and nothing but its state has changed. -/
theorem bankReady_wakes (h : s.bankSt p b = 1 ∨ s.bankSt p b = 2) (hf : sget (s.scr p).filling b 0 = 0) (hr : Regs.wf s = true) :
    ∃ rs, bankReady s p b = ({ s with regs := rs }, none) ∧ ({ s with regs := rs } : State).bankSt p b = 1 ∧
      Regs.wf { s with regs := rs } = true ∧ (s.bankSt p b = 1 → rs = s.regs) := by
  unfold bankReady
  rw [endFill_none hf]
  rcases h with h | h
  · exact ⟨s.regs, if_pos h, h, hr, fun _ => rfl⟩
  · refine ⟨(s.setBankSt p b 1).regs, ?_, bankSt_setBankSt hr, wf_setRegF _ _ _ _ _ hr, fun k => by omega⟩
    rw [if_neg (by omega), if_pos h]
    rfl
theorem bankReady_on (h : s.bankSt p b = 1) : bankReady s p b = (s.endFill p b, none) := if_pos h
theorem bankReady_off (h : s.bankSt p b = 0 ∨ s.bankSt p b = 3) : bankReady s p b = (s, some .power) := by
  rw [bankReady, if_neg (by omega), if_neg (by omega)]

/-! ### The access within its word -/

variable {a n : Nat} {d : List Byte} (hb : bankOf a = some (p, b))
include hb

theorem sramPartRead_ready {w : State} (h : bankReady s p b = (w, none)) : sramPartRead s a n {} = ((wordRead w p (a / 8) 0).1,
    .ok (((wordRead w p (a / 8) 0).2.1.drop (a % 8)).take n, (wordRead w p (a / 8) 0).2.2)) := by
  rw [sramPartRead, hb]
  dsimp only
  rw [h]
theorem sramPartRead_refused {c : BusCause} (h : bankReady s p b = (s, some c)) : sramPartRead s a n {} = (s, .error c) := by
  rw [sramPartRead, hb]
  dsimp only
  rw [h]
theorem sramPartWrite_ready {w : State} (h : bankReady s p b = (w, none)) :
    sramPartWrite s a d {} = (wordWrite w p (a / 8) (a % 8) d 0, none) := by
  rw [sramPartWrite, hb]
  dsimp only
  rw [h]
theorem sramPartWrite_refused {c : BusCause} (h : bankReady s p b = (s, some c)) : sramPartWrite s a d {} = (s, some c) := by
  rw [sramPartWrite, hb]
  dsimp only
  rw [h]
end

/-! ### A word under SECDED (R95, R99) -/

section
variable {s : State} {p w : Nat}

theorem wordErrAt_setWordErr (n : Nat) (h : swf (fun _ => ({} : CellErr)) s.wordErr = true) : (s.setWordErr w n).wordErrAt w = n :=
  congrArg CellErr.bits (sget_sput_eq (dd := fun _ => ({} : CellErr)) _ _ { bits := n } h)
theorem swf_setWordErr (n : Nat) (h : swf (fun _ => ({} : CellErr)) s.wordErr = true) :
    swf (fun _ => ({} : CellErr)) (s.setWordErr w n).wordErr = true := swf_sput (dd := fun _ => ({} : CellErr)) _ _ _ h

/-- An uncorrectable word is recorded and flagged (R99). -/
def wordUE (s : State) (p w : Nat) : State :=
  (s.setReg (scrPage p) 0x14C (w32 ((w * 8 - (if p = 0 then scrBase else qstBase)) % 2 ^ 26))).irqBit (scrPage p) 1
/-- A corrected word is counted and flagged (R95). -/
def wordCE (s : State) (p : Nat) : State := (s.correctable (scrPage p)).irqBit (scrPage p) 0

theorem wordUE_only (s : State) (p w : Nat) : ∃ rs cs, wordUE s p w = { s with regs := rs, cores := cs } := by
  obtain ⟨_, _, h⟩ := irqBit_only (s.setReg (scrPage p) 0x14C (w32 ((w * 8 - (if p = 0 then scrBase else qstBase)) % 2 ^ 26))) (scrPage p) 1
  rw [wordUE, h]
  exact ⟨_, _, rfl⟩
theorem wordCE_only (s : State) (p : Nat) : ∃ rs cs es, wordCE s p = { s with regs := rs, cores := cs, errs := es } := by
  obtain ⟨_, _, h⟩ := irqBit_only (s.correctable (scrPage p)) (scrPage p) 0
  rw [wordCE, h]
  exact ⟨_, _, _, rfl⟩
theorem wordCE_flag (p : Nat) (h : Regs.wf s = true) : (wordCE s p).regB (scrPage p) oIrqRaw 0 = true :=
  regBit_irqBit (s := s.correctable (scrPage p)) h (by decide)
theorem bankSt_wordUE {b : Nat} (hb : b < 256) (s : State) (p q w : Nat) : (wordUE s q w).bankSt p b = s.bankSt p b := by
  rw [wordUE, bankSt_irqBit hb, bankSt_setReg hb (by decide) (by decide)]
theorem bankSt_wordCE {b : Nat} (hb : b < 256) (s : State) (p q : Nat) : (wordCE s q).bankSt p b = s.bankSt p b := by
  rw [wordCE, bankSt_irqBit hb]
  exact bankSt_congr rfl

theorem wordRead_clean (h : s.wordErrAt w = 0) : wordRead s p w 0 = (s.setWordErr w 0, s.bytes (w * 8) 8, false) := by
  simp only [wordRead, h, Nat.reduceLeDiff, if_false, Nat.reduceAdd, OfNat.zero_ne_ofNat, zero_ne_one]
theorem wordRead_corrected (h : s.wordErrAt w = 1) :
    wordRead s p w 0 = (wordCE ((s.setWordErr w 1).setWordErr w 0) p, s.bytes (w * 8) 8, false) := by
  simp only [wordRead, h, Nat.reduceLeDiff, if_false, if_true, Nat.reduceAdd, OfNat.one_ne_ofNat]
  rfl
theorem wordRead_uncorrectable (h : s.wordErrAt w = 2) : wordRead s p w 0 = (wordUE (s.setWordErr w 2) p w, s.bytes (w * 8) 8, true) := by
  simp only [wordRead, h, Nat.reduceLeDiff, if_false, if_true, Nat.reduceAdd]
  rfl

/-- Whatever is in error, a read of a word leaves the states of the banks alone. -/
theorem bankSt_wordRead {b : Nat} (hb : b < 256) (s : State) (p w bits : Nat) : (wordRead s p w bits).1.bankSt p b = s.bankSt p b := by
  obtain ⟨_, hfree⟩ := freshBytes_only (s.setWordErr w (s.wordErrAt w + bits)) 1
  have hregs : (((s.setWordErr w (s.wordErrAt w + bits)).freshBytes 1).2.fresh.2).regs = s.regs := by rw [hfree]; rfl
  unfold wordRead
  dsimp only
  split
  · split
    · exact (bankSt_wordUE hb _ p p w).trans (bankSt_congr hregs)
    · split
      · exact (bankSt_wordCE hb _ p p).trans (bankSt_congr hregs)
      · exact bankSt_congr hregs
  · split
    · exact (bankSt_wordUE hb _ p p w).trans (bankSt_congr rfl)
    · split
      · exact (bankSt_wordCE hb _ p p).trans (bankSt_congr rfl)
      · exact bankSt_congr rfl
end

/-! ### The clauses (R95, R96) -/

/-- The bytes that a read of a word answers. -/
theorem take_drop_word (s : State) {a n : Nat} (h : a % 8 + n ≤ 8) :
    ((s.bytes (a / 8 * 8) 8).drop (a % 8)).take n = s.bytes a n := by
  rw [take_drop_bytes _ _ h, Nat.div_add_mod']

section
variable {s : State} {id : MasterId} {a : Addr} {p b n : Nat} {d : List Byte} (hi : s.issues id = true) (hb : bankOf a.toNat = some (p, b))
include hi hb

/-- The first clause: a read in a bank that keeps its contents. -/
theorem sramRead_on (hn : 0 < n) (h : a.toNat % 8 + n ≤ 8) (hst : s.bankSt p b = 1 ∨ s.bankSt p b = 2)
    (hf : sget (s.scr p).filling b 0 = 0) (hr : Regs.wf s = true) (he : errsWf s) :
    ∃ t, exec (.sramAccess id a (.read n) {}) s = .next t ∧ t.bankSt p b = 1 ∧ (s.wordErrAt (a.toNat / 8) < 3 → t.mem = s.mem) ∧
      (s.wordErrAt (a.toNat / 8) = 0 → (s.bankSt p b = 1 → t.regs = s.regs) ∧ t.resp = .data (s.bytes a.toNat n) false) ∧
      (s.wordErrAt (a.toNat / 8) = 1 → t.wordErrAt (a.toNat / 8) = 0 ∧ t.regB (scrPage p) oIrqRaw 0 = true ∧
        t.resp = .data (s.bytes a.toNat n) false) ∧
      (s.wordErrAt (a.toNat / 8) = 2 → t.resp = .data (s.bytes a.toNat n) true) := by
  obtain ⟨rs, hready, hon, hwf, hregs⟩ := bankReady_wakes hst hf hr
  have hexec := exec_sramRead_data hb hn h hi (sramPartRead_ready hb hready)
  have hbank := (bankSt_wordRead (bankOf_lt hb) { s with regs := rs } p (a.toNat / 8) 0).trans hon
  have hbytes : (({ s with regs := rs } : State).bytes (a.toNat / 8 * 8) 8) = s.bytes (a.toNat / 8 * 8) 8 :=
    bytes_congr (t := { s with regs := rs }) (s := s) rfl _ _
  have herr : ({ s with regs := rs } : State).wordErrAt (a.toNat / 8) = s.wordErrAt (a.toNat / 8) := rfl
  refine ⟨_, hexec, hbank, ?_⟩
  obtain h0 | h1 | h2 | h3 : s.wordErrAt (a.toNat / 8) = 0 ∨ s.wordErrAt (a.toNat / 8) = 1 ∨ s.wordErrAt (a.toNat / 8) = 2 ∨
      3 ≤ s.wordErrAt (a.toNat / 8) := by omega
  · rw [wordRead_clean (herr.trans h0), hbytes, take_drop_word _ h]
    exact ⟨fun _ => rfl, fun _ => ⟨hregs, rfl⟩, fun k => by omega, fun k => by omega⟩
  · rw [wordRead_corrected (herr.trans h1), hbytes, take_drop_word _ h]
    have hflag := wordCE_flag p (s := (({ s with regs := rs } : State).setWordErr (a.toNat / 8) 1).setWordErr (a.toNat / 8) 0) hwf
    obtain ⟨_, _, _, honly⟩ := wordCE_only ((({ s with regs := rs } : State).setWordErr (a.toNat / 8) 1).setWordErr (a.toNat / 8) 0) p
    refine ⟨fun _ => by rw [honly]; rfl, fun k => by omega, fun _ => ⟨?_, hflag, rfl⟩, fun k => by omega⟩
    rw [honly]
    exact wordErrAt_setWordErr 0 (swf_setWordErr 1 he.2)
  · rw [wordRead_uncorrectable (herr.trans h2), hbytes, take_drop_word _ h]
    obtain ⟨_, _, honly⟩ := wordUE_only (({ s with regs := rs } : State).setWordErr (a.toNat / 8) 2) p (a.toNat / 8)
    exact ⟨fun _ => by rw [honly]; rfl, fun k => by omega, fun k => by omega, fun _ => rfl⟩
  · exact ⟨fun k => by omega, fun k => by omega, fun k => by omega, fun k => by omega⟩
end

end Sys2Proof.Proofs
end

section
/-! PROOF. A bank that loses or zeroes its contents, and the accesses of SRAM_ACCESS to a bank being filled, to write and to a bank without
power (R95, R96). -/
namespace Sys2Proof.Proofs
open Sys2Proof.Machine Sys2Proof.Laws

/-! ### The record of a page -/

section
variable (s : State) (p : Nat) (x : Scr)

theorem scr_setScr : (s.setScr p x).scr p = x := by
  unfold State.setScr State.scr
  split
  · rfl
  · rfl
/-- Of a page's record nothing is memory or register. -/
theorem setScr_only : ∃ y z, s.setScr p x = { s with scr0 := y, scr1 := z } := by
  unfold State.setScr
  split
  · exact ⟨_, _, rfl⟩
  · exact ⟨_, _, rfl⟩
@[simp] theorem setScr_regs : (s.setScr p x).regs = s.regs := by obtain ⟨_, _, h⟩ := setScr_only s p x; rw [h]
@[simp] theorem setScr_mem : (s.setScr p x).mem = s.mem := by obtain ⟨_, _, h⟩ := setScr_only s p x; rw [h]
@[simp] theorem setScr_wordErr : (s.setScr p x).wordErr = s.wordErr := by obtain ⟨_, _, h⟩ := setScr_only s p x; rw [h]
@[simp] theorem setScr_domains : (s.setScr p x).domains = s.domains := by obtain ⟨_, _, h⟩ := setScr_only s p x; rw [h]
end

/-! ### Contents lost and contents zeroed (R96) -/

theorem sget_sdrop_ne {α : Type} {f : Nat → Bool} (m : SMap α) (d : α) {k : Nat} (h : f k = false) : sget (sdrop f m) k d = sget m k d := by
  induction m with
  | nil => rfl
  | cons c m ih =>
    obtain ⟨j, x⟩ := c
    rw [sdrop, sget]
    split
    · next hj =>
      rw [ih, if_neg (by rintro rfl; simp [h] at hj)]
    · rw [sget, ih]

section
variable {s : State} {p b : Nat}

/-- Every byte of the bank is 0, and no other byte has changed. -/
theorem byteAt_loseBank (a : Nat) : (loseBank s p b).byteAt a = if bankOf a = some (p, b) then 0 else s.byteAt a := by
  rw [State.byteAt, loseBank, setScr_mem]
  split
  · next h => exact sget_sdrop _ _ (by rw [h, beq_self_eq_true])
  · next h => exact sget_sdrop_ne _ _ (beq_eq_false_iff_ne.mpr h)
theorem wordErrAt_loseBank {w : Nat} (h : bankOf (w * 8) = some (p, b)) : (loseBank s p b).wordErrAt w = 0 := by
  rw [State.wordErrAt, loseBank, setScr_wordErr]
  exact congrArg CellErr.bits (sget_sdrop _ _ (by rw [h, beq_self_eq_true]))
@[simp] theorem loseBank_regs : (loseBank s p b).regs = s.regs := setScr_regs _ _ _
@[simp] theorem loseBank_domains : (loseBank s p b).domains = s.domains := setScr_domains _ _ _
theorem scr_loseBank : (loseBank s p b).scr p = { s.scr p with filling := sput (s.scr p).filling b 0 0 } := scr_setScr _ _ _

/-- A fill that ends leaves a bank what a loss of its contents leaves it: zeros (R96). -/
theorem endFill_pending (h : sget (s.scr p).filling b 0 ≠ 0) : s.endFill p b = loseBank s p b := if_neg h
end

theorem bytes_zero {s : State} {a n : Nat} (h : ∀ i < n, s.byteAt (a + i) = 0) : s.bytes a n = List.replicate n 0 :=
  List.ext_getElem (by simp) fun i h1 _ => by
    rw [getElem_bytes _ _ _ _ (by simpa using h1), h i (by simpa using h1), List.getElem_replicate]

/-- What a write leaves of a word with no error in it, or of a whole word: the word with the written bytes in it, and no error. -/
theorem wordWrite_clean {s : State} {p w o : Nat} {d : List Byte} (h : o + d.length ≤ 8) (he : s.wordErrAt w = 0 ∨ d.length = 8)
    (hwf : swf (fun _ => ({} : CellErr)) s.wordErr = true) :
    ∃ v : State, wordWrite s p w o d 0 = v.setBytes (w * 8) (listPut (v.bytes (w * 8) 8) o d) ∧
      v.wordErrAt w = 0 ∧ v.mem = s.mem ∧ v.regs = s.regs := by
  unfold wordWrite
  by_cases hd : d.length = 8
  · obtain rfl : o = 0 := by omega
    rw [if_pos hd]
    exact ⟨s.setWordErr w 0, by rw [listPut_all (by rw [length_bytes, hd])], wordErrAt_setWordErr 0 hwf, rfl, rfl⟩
  · rw [if_neg hd, wordRead_clean (he.resolve_right hd)]
    exact ⟨(s.setWordErr w 0).setWordErr w 0, rfl, wordErrAt_setWordErr 0 (swf_setWordErr 0 hwf), rfl, rfl⟩

/-! ### The clauses (R95, R96) -/

section
variable {s : State} {id : MasterId} {a : Addr} {p b n : Nat} {d : List Byte} (hi : s.issues id = true) (hb : bankOf a.toNat = some (p, b))
include hi hb

/-- The second clause: a read in a bank being filled answers zeros. -/
theorem sramRead_filling (hn : 0 < n) (h : a.toNat % 8 + n ≤ 8) (hst : s.bankSt p b = 1) (hf : sget (s.scr p).filling b 0 ≠ 0) :
    ∃ t, exec (.sramAccess id a (.read n) {}) s = .next t ∧ t.regs = s.regs ∧ t.resp = .data (List.replicate n 0) false := by
  have hexec := exec_sramRead_data hb hn h hi (sramPartRead_ready hb (bankReady_on hst))
  rw [endFill_pending hf] at hexec
  have hbank : ∀ i < 8, bankOf (a.toNat / 8 * 8 + i) = some (p, b) := fun i h8 => (bankOf_congr (by omega)).trans hb
  have hzero : (loseBank s p b).bytes a.toNat n = List.replicate n 0 :=
    bytes_zero fun i hin => by
      have hk := hbank (a.toNat % 8 + i) (by omega)
      rw [← Nat.add_assoc, Nat.div_add_mod'] at hk
      rw [byteAt_loseBank, if_pos hk]
  rw [wordRead_clean (wordErrAt_loseBank (hbank 0 (by decide))), take_drop_word _ h, hzero] at hexec
  exact ⟨_, hexec, loseBank_regs, rfl⟩

/-- The third clause: a write in a bank that is ON. -/
theorem sramWrite_on (hp : p = 0) (hd : d ≠ []) (h : a.toNat % 8 + d.length ≤ 8) (hst : s.bankSt p b = 1)
    (hf : sget (s.scr p).filling b 0 = 0) (hm : Memory.wf s = true) (herr : errsWf s) (he : s.wordErrAt (a.toNat / 8) = 0 ∨ d.length = 8) :
    ∃ t, exec (.sramAccess id a (.write d) {}) s = .next t ∧ t.resp = .done ∧ t.bytes a.toNat d.length = d ∧
      t.wordErrAt (a.toNat / 8) = 0 ∧ t.regs = s.regs ∧ ∀ x, x < a.toNat ∨ a.toNat + d.length ≤ x → t.byteAt x = s.byteAt x := by
  have hexec := exec_sramWrite_done hb hp hd h hi (sramPartWrite_ready hb (bankReady_on hst))
  obtain ⟨v, hv, hw, hmem, hregs⟩ := wordWrite_clean (p := p) h he herr.2
  rw [endFill_none hf, hv] at hexec
  obtain ⟨hin, hout⟩ := setBytes_put (s := v) (k := a.toNat / 8 * 8) h (by rw [Memory.wf, hmem]; exact hm)
  rw [Nat.div_add_mod'] at hin hout
  refine ⟨_, hexec, rfl, (bytes_withResp _ _ _ _).trans hin, hw, hregs, fun x hx => (byteAt_withResp _ _ _).trans ((hout x hx).trans ?_)⟩
  rw [State.byteAt, State.byteAt, hmem]

/-- The last clause: a bank without power refuses. -/
theorem sramRead_off (hn : 0 < n) (h : a.toNat % 8 + n ≤ 8) (hst : s.bankSt p b = 0 ∨ s.bankSt p b = 3) :
    exec (.sramAccess id a (.read n) {}) s = .next { s.berr id a.toNat false .power with resp := .err .power } :=
  exec_sramRead_err hb hn h hi (sramPartRead_refused hb (bankReady_off hst))
theorem sramWrite_off (hp : p = 0) (hd : d ≠ []) (h : a.toNat % 8 + d.length ≤ 8) (hst : s.bankSt p b = 0 ∨ s.bankSt p b = 3) :
    exec (.sramAccess id a (.write d) {}) s = .next { s.berr id a.toNat true .power with resp := .err .power } :=
  exec_sramWrite_err hb hp hd h hi (sramPartWrite_refused hb (bankReady_off hst))
end

theorem sramAccessesFollowTheBankState : SramAccessesFollowTheBankState := by
  intro s id a p b hi hb
  refine ⟨fun n hn h hst hf hr he => sramRead_on hi hb hn h hst hf hr he, fun n hn h hst hf _ _ => sramRead_filling hi hb hn h hst hf,
    fun d hp hd h hst hf hm herr he => ?_, fun hst => ⟨fun n hn h => sramRead_off hi hb hn h hst, fun d hp hd h => sramWrite_off hi hb hp hd h hst⟩⟩
  subst hp
  exact sramWrite_on hi hb rfl hd h hst hf hm herr he

end Sys2Proof.Proofs
end

section
/-! PROOF. BANK_ZERO_FILL, PATROL_REGION and DMA_STARVE (R96-R99). -/
namespace Sys2Proof.Proofs
open Sys2Proof.Machine Sys2Proof.Laws

/-! ### The end of a zero fill (R96) -/

theorem zeroFill_ends {s : State} {p : Fin 2} {b : Fin 256} (hf : sget (s.scr p.val).filling b.val 0 ≠ 0)
    (hwf : swf (fun _ => 0) (s.scr p.val).filling = true) : ∃ t, exec (.bankZeroFill p b) s = .next t ∧ t.regs = s.regs ∧
      sget (t.scr p.val).filling b.val 0 = 0 ∧ ∀ a, t.byteAt a = if bankOf a = some (p.val, b.val) then 0 else s.byteAt a := by
  refine ⟨loseBank s p.val b.val, congrArg Host.Outcome.next (endFill_pending hf), loseBank_regs, ?_, fun a => byteAt_loseBank a⟩
  rw [scr_loseBank]
  exact sget_sput_eq (dd := fun _ => 0) _ _ _ hwf

/-! ### Rows mapped to spare rows (R98) -/

/-- One more of the bank's spare rows is in use. -/
def takeSpare (s : State) (p b : Nat) : State :=
  s.setScr p { s.scr p with repairs := sput (s.scr p).repairs b (sget (s.scr p).repairs b 0 + 1) 0 }
/-- One failing row of the bank mapped to a spare row, counted and flagged. -/
def spareRow (s : State) (p b : Nat) : State :=
  ((takeSpare s p b).setReg (scrPage p) 0x144 ((takeSpare s p b).reg (scrPage p) 0x144 + 1)).irqBit (scrPage p) 2

section
variable {s : State} {p b : Nat}

theorem patrolRepair_succ {n : Nat} (h : sget (s.scr p).repairs b 0 + sget (s.scr p).factory b 0 < 4) :
    patrolRepair s p b (n + 1) = patrolRepair (spareRow s p b) p b n := if_pos h

theorem spareRow_only (s : State) (p b : Nat) : ∃ rs cs, spareRow s p b = { takeSpare s p b with regs := rs, cores := cs } := by
  obtain ⟨_, _, h⟩ := irqBit_only ((takeSpare s p b).setReg (scrPage p) 0x144 ((takeSpare s p b).reg (scrPage p) 0x144 + 1)) (scrPage p) 2
  exact ⟨_, _, h⟩
theorem spareRow_mem (s : State) (p b : Nat) : (spareRow s p b).mem = s.mem := by
  obtain ⟨_, _, h⟩ := spareRow_only s p b
  rw [h]
  exact setScr_mem _ _ _
theorem scr_spareRow (s : State) (p b : Nat) : (spareRow s p b).scr p =
    { s.scr p with repairs := sput (s.scr p).repairs b (sget (s.scr p).repairs b 0 + 1) 0 } := by
  obtain ⟨_, _, h⟩ := spareRow_only s p b
  rw [h]
  exact scr_setScr _ _ _
theorem wf_spareCount (v : Word32) (h : Regs.wf s = true) : Regs.wf ((takeSpare s p b).setReg (scrPage p) 0x144 v) = true :=
  wf_setReg _ _ _ _ (State_setScr_kept.regs h)
theorem wf_spareRow (h : Regs.wf s = true) : Regs.wf (spareRow s p b) = true := wf_irqBit _ _ (wf_spareCount _ h)
theorem spareRow_flag (h : Regs.wf s = true) : (spareRow s p b).regB (scrPage p) oIrqRaw 2 = true :=
  regBit_irqBit (wf_spareCount _ h) (by decide)

/-- While the bank has spare rows enough, every failing row takes one. -/
theorem patrolRepair_spares {f : Nat} (hwf : Regs.wf s = true)
    (h : sget (s.scr p).repairs b 0 + sget (s.scr p).factory b 0 + f ≤ 4) : (patrolRepair s p b f).mem = s.mem ∧
      sget ((patrolRepair s p b f).scr p).repairs b 0 = sget (s.scr p).repairs b 0 + f ∧ Regs.wf (patrolRepair s p b f) = true ∧
      (0 < f ∨ s.regB (scrPage p) oIrqRaw 2 = true → (patrolRepair s p b f).regB (scrPage p) oIrqRaw 2 = true) := by
  induction f generalizing s with
  | zero => exact ⟨rfl, rfl, hwf, fun k => k.resolve_left (by decide)⟩
  | succ n ih =>
    have hrep : sget ((spareRow s p b).scr p).repairs b 0 = sget (s.scr p).repairs b 0 + 1 := by
      rw [scr_spareRow]
      exact sget_sput_of_ne _ _ _ (by omega)
    have hfac : ((spareRow s p b).scr p).factory = (s.scr p).factory := by rw [scr_spareRow]
    obtain ⟨hmem, hcount, hregs, hflag⟩ := ih (s := spareRow s p b) (wf_spareRow hwf) (by rw [hrep, hfac]; omega)
    rw [patrolRepair_succ (by omega)]
    exact ⟨hmem.trans (spareRow_mem s p b), by rw [hcount, hrep]; omega, hregs, fun _ => hflag (.inr (spareRow_flag hwf))⟩
end

/-! ### One region (R98) -/

/-- The patrol records the region `r` it has done and goes on to the next one. -/
def patrolNext (s : State) (p r : Nat) : State :=
  (s.setRegF (scrPage p) oStat 0 14 r).setScr p { s.scr p with next := (r + 1) % (nbank p * 64) }

section
variable {s : State} {p r f : Nat}

theorem patrolRegion_off (h : s.regB (scrPage p) oCtl 0 = false) : patrolRegion s p f = s := by
  rw [patrolRegion, h]
  exact if_neg (by simp)
/-- With no error stored, a region of a bank whose contents are there only has its failing rows mapped. -/
theorem patrolRegion_clean (hc : s.regB (scrPage p) oCtl 0 = true) (hs : (s.scr p).stuck = none) (ht : patrolTarget s p = some r)
    (hf : sget (s.scr p).filling (r / 64) 0 = 0) (he : s.wordErr = []) :
    patrolRegion s p f = patrolNext (patrolRepair s p (r / 64) f) p r := by
  rw [patrolRegion, if_pos (by rw [hc, hs]; rfl), ht]
  dsimp only
  rw [endFill_none hf, he]
  rfl

theorem patrolNext_mem : (patrolNext s p r).mem = s.mem := setScr_mem _ _ _
theorem scr_patrolNext : (patrolNext s p r).scr p = { s.scr p with next := (r + 1) % (nbank p * 64) } := scr_setScr _ _ _
theorem reg_patrolNext (q o : Nat) : (patrolNext s p r).reg q o = (s.setRegF (scrPage p) oStat 0 14 r).reg q o := reg_congr (setScr_regs _ _ _) q o
end

/-- The patrol of a region with failing rows and spare rows for them. -/
theorem patrolRegion_repairs {s : State} {p : Fin 2} {r f : Nat} (hc : s.regB (scrPage p.val) oCtl 0 = true) (hs : (s.scr p.val).stuck = none)
    (ht : patrolTarget s p.val = some r) (hf : sget (s.scr p.val).filling (r / 64) 0 = 0) (he : s.wordErr = []) (hwf : Regs.wf s = true)
    (hpos : 0 < f) (h : sget (s.scr p.val).repairs (r / 64) 0 + sget (s.scr p.val).factory (r / 64) 0 + f ≤ 4) :
    ∃ t, exec (.patrolRegion p f) s = .next t ∧ t.mem = s.mem ∧
      sget (t.scr p.val).repairs (r / 64) 0 = sget (s.scr p.val).repairs (r / 64) 0 + f ∧ t.regB (scrPage p.val) oIrqRaw 2 = true ∧
      t.regF (scrPage p.val) oStat 0 14 = r % 16384 ∧ (t.scr p.val).next = (r + 1) % (nbank p.val * 64) := by
  obtain ⟨hmem, hcount, hregs, hflag⟩ := patrolRepair_spares hwf h
  refine ⟨_, congrArg Host.Outcome.next (patrolRegion_clean hc hs ht hf he), patrolNext_mem.trans hmem, ?_, ?_, ?_, ?_⟩
  · rw [scr_patrolNext]
    exact hcount
  · rw [State.regB, reg_patrolNext, reg_setRegF_ne (by decide) (by decide) fun k => absurd k.2 (by decide)]
    exact hflag (.inl hpos)
  · rw [State.regF, reg_patrolNext]
    exact regF_setRegF hregs (by decide)
  · rw [scr_patrolNext]

/-! ### A starved transfer (R97) -/

theorem dmaStarve_counts {s : State} {p : Fin 2} (h : Regs.wf s = true) : ∃ t, exec (.dmaStarve p) s = .next t ∧ t.mem = s.mem ∧
    t.regB (scrPage p.val) oIrqRaw 4 = true ∧
    (t.reg (scrPage p.val) 0x148).toNat = min ((s.reg (scrPage p.val) 0x148).toNat + 1) 0xFFFFFFFF := by
  refine ⟨_, rfl, irqBit_mem _ _ _, regBit_irqBit (wf_bumpReg _ _ h) (by decide), ?_⟩
  rw [reg_irqBit_ne _ _ _ (by decide) (by unfold scrPage; omega) fun k => absurd k.2 (by decide), reg_bumpReg _ _ h]

end Sys2Proof.Proofs
end

section
/-! PROOF. SCR_BSTATE_WRITE: the banks of a register move to the states of their fields (R96). -/
namespace Sys2Proof.Proofs
open Sys2Proof.Machine Sys2Proof.Laws

/-! ### One bank's field -/

theorem regFld_regSet_ne (r : Word32) {lo w lo' w' : Nat} (v : Nat) (h : lo' + w' ≤ lo ∨ lo + w ≤ lo') :
    regFld (regSet r lo w v) lo' w' = regFld r lo' w' :=
  regFld_congr fun i h1 h2 h3 => by rw [regBit_regSet _ _ _ _ h3, if_neg (by omega)]

theorem regFld_lt (r : Word32) (lo w : Nat) : regFld r lo w < 2 ^ w := by
  rw [regFld, fld]
  exact Nat.mod_lt _ (Nat.two_pow_pos w)

section
variable {s : State} {p b c v : Nat}

/-- The states of the other banks stay, whether they stand in the same register or in another. -/
theorem bankSt_setBankSt_ne (hr : Regs.wf s = true) (hb : b < 256) (hc : c < 256) (h : c ≠ b) : (s.setBankSt p b v).bankSt p c = s.bankSt p c := by
  unfold State.bankSt State.setBankSt State.regF
  by_cases hreg : c / 16 = b / 16
  · rw [hreg, reg_setRegF hr, regFld_regSet_ne _ _ (by omega)]
  · rw [reg_setRegF_ne (by omega) (by omega) (by omega)]
theorem reg_setBankSt_ne {k : Nat} (hb : b < 256) (hk : k < 16) (h : k ≠ b / 16) :
    (s.setBankSt p b v).reg (scrPage p) (0x100 + 4 * k) = s.reg (scrPage p) (0x100 + 4 * k) :=
  reg_setRegF_ne (by omega) (by omega) (by omega)
end

/-! ### What goes with a move: contents lost or to be filled, domains switched -/

/-- `t` is `s` but for the contents of banks, which may have become 0, for their pending fills, and for the domains of banks. -/
structure SameStates (s t : State) (p : Nat) : Prop where
  regs : t.regs = s.regs
  stuck : (t.scr p).stuck = (s.scr p).stuck
  needs : ∀ d, 71 ≤ d → t.dom d = s.dom d
  zeros : ∀ a, s.byteAt a = 0 → t.byteAt a = 0

/-- Bank `b` of page `p` has moved to state `v`; the other banks are in the states they were in. -/
structure BankMoved (s t : State) (p b v : Nat) : Prop where
  wf : Regs.wf t = true
  state : t.bankSt p b = v
  banks : ∀ c < 256, c ≠ b → t.bankSt p c = s.bankSt p c
  regs : ∀ k < 16, k ≠ b / 16 → t.reg (scrPage p) (0x100 + 4 * k) = s.reg (scrPage p) (0x100 + 4 * k)
  stuck : (t.scr p).stuck = (s.scr p).stuck
  needs : ∀ d, 71 ≤ d → t.dom d = s.dom d
  zeros : ∀ a, s.byteAt a = 0 → t.byteAt a = 0

theorem bankDomain_lt {p b : Nat} (hb : b < nbank p) : bankDomain p b < 71 := by
  unfold nbank at hb
  unfold bankDomain pdScr pdQst
  split
  · rw [if_pos ‹_›] at hb
    omega
  · rw [if_neg ‹_›] at hb
    omega

/-- The domain of a bank needs one half of the fabric, and no bank's domain. -/
theorem domainNeeds_bank {p b d : Nat} (hb : b < nbank p) (h : d ∈ domainNeeds (bankDomain p b)) : 71 ≤ d := by
  have hlt := bankDomain_lt hb
  have hge : 31 ≤ bankDomain p b := by
    unfold bankDomain pdScr pdQst
    split
    · exact Nat.le_add_right _ _
    · omega
  unfold domainNeeds at h
  rw [if_neg (by omega), if_neg (by omega), if_neg (by omega), if_neg (by omega), if_neg (by omega)] at h
  split at h
  · obtain rfl := List.mem_singleton.mp h
    decide
  · obtain rfl := List.mem_singleton.mp h
    decide

theorem needs_congr {s t : State} {p b : Nat} (hb : b < nbank p) (h : ∀ d, 71 ≤ d → t.dom d = s.dom d) :
    (domainNeeds (bankDomain p b)).all t.dom = (domainNeeds (bankDomain p b)).all s.dom := by
  rw [Bool.eq_iff_iff, List.all_eq_true, List.all_eq_true]
  exact forall₂_congr fun d hd => by rw [h d (domainNeeds_bank hb hd)]

section
variable {s t u : State} {p b f v : Nat}

theorem SameStates.refl : SameStates s s p := ⟨rfl, rfl, fun _ _ => rfl, fun _ h => h⟩
theorem sameStates_loseBank : SameStates s (loseBank s p b) p where
  regs := loseBank_regs
  stuck := by rw [scr_loseBank]
  needs d _ := by rw [State.dom, State.dom, loseBank_domains]
  zeros a h := by rw [byteAt_loseBank, h, ite_self]
theorem sameStates_setDom {on : Bool} (hb : b < nbank p) : SameStates s (s.setDom (bankDomain p b) on) p where
  regs := rfl
  stuck := rfl
  needs d hd := dom_setDom_ne _ _ _ _ (by have := bankDomain_lt hb; omega)
  zeros _ h := h
theorem sameStates_bankDomainOff (hb : b < nbank p) : SameStates s (bankDomainOff s p b) p := by
  unfold bankDomainOff
  split
  · exact sameStates_setDom hb
  · exact .refl
theorem sameStates_filling (l : SMap Nat) : SameStates s (s.setScr p { s.scr p with filling := l }) p where
  regs := setScr_regs _ _ _
  stuck := by rw [scr_setScr]
  needs d _ := by rw [State.dom, State.dom, setScr_domains]
  zeros a h := by rw [State.byteAt, setScr_mem]; exact h

theorem nbank_le (p : Nat) : nbank p ≤ 256 := by
  unfold nbank
  split
  · exact Nat.le_refl _
  · decide

/-- The state of a bank written, with what goes with it before and after. -/
theorem BankMoved.of_setBankSt (h1 : SameStates s u p) (h2 : SameStates (u.setBankSt p b v) t p) (hr : Regs.wf s = true) (hb : b < nbank p)
    (hv : v < 4) : BankMoved s t p b v := by
  have hb' := Nat.lt_of_lt_of_le hb (nbank_le p)
  have hu : Regs.wf u = true := by rw [Regs.wf, h1.regs]; exact hr
  exact {
    wf := by rw [Regs.wf, h2.regs]; exact wf_setRegF _ _ _ _ _ hu
    state := by rw [bankSt_congr h2.regs, bankSt_setBankSt hu, Nat.mod_eq_of_lt hv]
    banks := fun c hc hne => by rw [bankSt_congr h2.regs, bankSt_setBankSt_ne hu hb' hc hne, bankSt_congr h1.regs]
    regs := fun k hk hne => by rw [reg_congr h2.regs, reg_setBankSt_ne hb' hk hne, reg_congr h1.regs]
    stuck := h2.stuck.trans h1.stuck
    needs := fun d hd => (h2.needs d hd).trans (h1.needs d hd)
    zeros := fun a ha => h2.zeros a (h1.zeros a ha) }
theorem BankMoved.refl (hr : Regs.wf s = true) : BankMoved s s p b (s.bankSt p b) :=
  ⟨hr, rfl, fun _ _ _ => rfl, fun _ _ _ => rfl, rfl, fun _ _ => rfl, fun _ h => h⟩

/-! ### The branches of a write to a bank's field -/

theorem bankMoves_same {old f : Nat} {on : Bool} (h : old = 3 ∨ f = 3 ∨ old = f) : bankMoves old f on = old := by
  unfold bankMoves
  obtain h | h | rfl := h
  · rw [if_pos (.inl h)]
  · rw [if_pos (.inr h)]
  · rw [ite_self, ite_self]
theorem bankMoves_field {old f : Nat} {on : Bool} (h : ¬ (old = 3 ∨ f = 3 ∨ old = f)) (ho : old ≠ 0 ∨ on = true) : bankMoves old f on = f := by
  unfold bankMoves
  rw [if_neg fun k => h (k.imp_right .inl), if_neg fun k => ho.elim (· k.1) fun ht => by simp [ht] at k]

/-- A bank that is moved to OFF has lost its contents when its domain goes off, if it does. -/
theorem bankWrite_off (hs : (s.scr p).stuck ≠ some b) (h0 : s.bankSt p b ≠ 0) (h3 : s.bankSt p b ≠ 3) :
    bankWrite s p b 0 = bankDomainOff ((loseBank s p b).setBankSt p b 0) p b := by
  unfold bankWrite
  dsimp only
  rw [if_neg (by omega), if_neg hs, if_pos rfl]

variable (hr : Regs.wf s = true) (hb : b < nbank p) (hs : (s.scr p).stuck ≠ some b)
include hr hb hs

/-- What a write of `f` to the field of a bank does (R96). -/
theorem bankWrite_moves (hf : f < 4) : BankMoved s (bankWrite s p b f) p b (bankMoves (s.bankSt p b) f ((domainNeeds (bankDomain p b)).all s.dom)) := by
  unfold bankWrite
  dsimp only
  by_cases hsame : s.bankSt p b = 3 ∨ f = 3 ∨ s.bankSt p b = f
  · rw [if_pos hsame, bankMoves_same hsame]
    exact .refl hr
  rw [if_neg hsame, if_neg hs]
  by_cases h0 : f = 0
  · rw [if_pos h0, bankMoves_field hsame (.inl (by omega)), h0]
    exact .of_setBankSt sameStates_loseBank (sameStates_bankDomainOff hb) hr hb (by decide)
  rw [if_neg h0]
  by_cases hold : s.bankSt p b = 0
  · rw [if_pos hold]
    cases hon : (domainNeeds (bankDomain p b)).all s.dom
    · have hstay : bankMoves (s.bankSt p b) f false = s.bankSt p b := by
        unfold bankMoves
        rw [if_neg fun k => hsame (k.imp_right .inl), if_pos ⟨hold, rfl⟩]
      rw [if_neg Bool.false_ne_true, hstay]
      exact .refl hr
    · rw [if_pos rfl, bankMoves_field hsame (.inr rfl)]
      exact .of_setBankSt (sameStates_setDom hb) (sameStates_filling _) hr hb hf
  · rw [if_neg hold, bankMoves_field hsame (.inl hold)]
    exact .of_setBankSt .refl .refl hr hb hf
end

theorem byteAt_bankDomainOff (s : State) (p b a : Nat) : (bankDomainOff s p b).byteAt a = s.byteAt a := by
  unfold bankDomainOff
  split
  · rfl
  · rfl
theorem bankWrite_loses {s : State} {p b a : Nat} (hs : (s.scr p).stuck ≠ some b) (h0 : s.bankSt p b ≠ 0) (h3 : s.bankSt p b ≠ 3)
    (ha : bankOf a = some (p, b)) : (bankWrite s p b 0).byteAt a = 0 := by
  rw [bankWrite_off hs h0 h3, byteAt_bankDomainOff]
  exact (byteAt_loseBank a).trans (if_pos ha)

/-! ### The fields in turn -/

/-- The banks of register `r` that `l` names have moved as the fields of `v` say; the other banks are as they were. -/
structure FieldsMoved (s t : State) (p r : Nat) (v : Word32) (l : List Nat) : Prop where
  moved : ∀ i ∈ l, t.bankSt p (16 * r + i) = bankMoves (s.bankSt p (16 * r + i)) (regFld v (2 * i) 2)
    ((domainNeeds (bankDomain p (16 * r + i))).all s.dom)
  banks : ∀ c < 256, (∀ i ∈ l, c ≠ 16 * r + i) → t.bankSt p c = s.bankSt p c
  lost : ∀ i ∈ l, ∀ a, bankOf a = some (p, 16 * r + i) → regFld v (2 * i) 2 = 0 → s.bankSt p (16 * r + i) ≠ 0 →
    s.bankSt p (16 * r + i) ≠ 3 → t.byteAt a = 0
  regs : ∀ k < 16, k ≠ r → t.reg (scrPage p) (0x100 + 4 * k) = s.reg (scrPage p) (0x100 + 4 * k)
  zeros : ∀ a, s.byteAt a = 0 → t.byteAt a = 0

theorem bstateFields_moves {s : State} {p r : Nat} {v : Word32} {l : List Nat} (hr : Regs.wf s = true) (hn : 16 * r + 16 ≤ nbank p)
    (hs : ∀ b, (s.scr p).stuck = some b → b / 16 ≠ r) (hl : ∀ i ∈ l, i < 16) (hd : l.Nodup) :
    FieldsMoved s (bstateFields s p r v l) p r v l := by
  induction l generalizing s with
  | nil => exact ⟨nofun, fun _ _ _ => rfl, nofun, fun _ _ _ => rfl, fun _ h => h⟩
  | cons i l ih =>
    obtain ⟨hil, hdl⟩ := List.nodup_cons.mp hd
    have hi := hl i List.mem_cons_self
    have hl' : ∀ j ∈ l, j < 16 := fun j hj => hl j (List.mem_cons_of_mem i hj)
    have hne : ∀ j ∈ l, 16 * r + j ≠ 16 * r + i := fun j hj k => hil (Nat.add_left_cancel k ▸ hj)
    have hlt : ∀ j < 16, 16 * r + j < nbank p := fun j hj => by omega
    have h256 : ∀ j < 16, 16 * r + j < 256 := fun j hj => Nat.lt_of_lt_of_le (hlt j hj) (nbank_le p)
    have hstuck : (s.scr p).stuck ≠ some (16 * r + i) := fun k => hs _ k (by omega)
    have hm := bankWrite_moves hr (hlt i hi) hstuck (regFld_lt v (2 * i) 2)
    have hrest := ih hm.wf (fun b hb => hs b (hm.stuck ▸ hb)) hl' hdl
    have hstays : ∀ j ∈ l, (bankWrite s p (16 * r + i) (regFld v (2 * i) 2)).bankSt p (16 * r + j) = s.bankSt p (16 * r + j) :=
      fun j hj => hm.banks _ (h256 j (hl' j hj)) (hne j hj)
    refine ⟨List.forall_mem_cons.mpr ⟨?_, fun j hj => ?_⟩, fun c hc hnot => ?_, List.forall_mem_cons.mpr ⟨?_, fun j hj => ?_⟩,
      fun k hk hkr => ?_, fun a ha => hrest.zeros a (hm.zeros a ha)⟩
    · exact (hrest.banks _ (h256 i hi) fun j hj => (hne j hj).symm).trans hm.state
    · refine (hrest.moved j hj).trans ?_
      rw [hstays j hj, needs_congr (hlt j (hl' j hj)) hm.needs]
    · obtain ⟨hci, hcl⟩ := List.forall_mem_cons.mp hnot
      exact (hrest.banks c hc hcl).trans (hm.banks c hc hci)
    · exact fun a ha hf h0 h3 => hrest.zeros a (by rw [hf]; exact bankWrite_loses hstuck h0 h3 ha)
    · exact fun a ha hf h0 h3 => hrest.lost j hj a ha hf (by rw [hstays j hj]; exact h0) (by rw [hstays j hj]; exact h3)
    · exact (hrest.regs k hk hkr).trans (hm.regs k hk (by omega))

/-! ### The register write -/

/-- The access codes of SCR_BSTATE (R105). -/
abbrev bstateInfo : RegInfo := { reset := 0x55555555, rw := 0xFFFFFFFF }

theorem pageBlock_scr : ∀ p : Fin 2, pageBlock (scrPage p.val) = some (.scr, p.val) := by decide
theorem regInfo_bstate : ∀ (p : Fin 2) (r : Fin 16), p = 0 ∨ r.val < 4 → regInfo (scrPage p.val) (0x100 + 4 * r.val) = some bstateInfo := by decide

section
variable {s : State} {id : MasterId} {p : Fin 2} {r : Fin 16} {v : Word32}

theorem regOpen_bstate (hi : s.issues id = true) (hp : p = 0 ∨ r.val < 4) :
    RegOpen s id (scrPage p.val) (0x100 + 4 * r.val) .scr p.val bstateInfo :=
  have hpage : scrPage p.val < 0x160 := by unfold scrPage; omega
  { issues := hi, page_lt := by omega, above := by omega, off_lt := by omega, aligned := by omega
    block := pageBlock_scr p
    power := powerBad_of_page (by unfold oCtl; omega) (.inl hpage)
    info := regInfo_bstate p r hp
    identity := by simp only [identityBad, pageBlock_scr]
    access := by simp [accessBad] }

theorem blockWrite_bstate : blockWrite s id.val .scr p.val (0x100 + 4 * r.val) v = some (bstateWrite s p.val r.val v) := by
  have hreg : (0x100 + 4 * r.val - 0x100) / 4 = r.val := by omega
  show scrPageWrite s p.val (0x100 + 4 * r.val) v = _
  rw [scrPageWrite, if_pos (by omega), hreg]

/-- The first clause: no bank holds what forbids its move. -/
theorem scrBstateWrite_moves (hi : s.issues id = true) (hp : p = 0 ∨ r.val < 4) (hr : Regs.wf s = true)
    (hq : ∀ i < 16, bstateRefused s p.val r.val v i = false) (hs : ∀ b, (s.scr p.val).stuck = some b → b / 16 ≠ r.val) :
    ∃ t : State, exec (.scrBstateWrite id p r v) s = .next { t with resp := .done } ∧ FieldsMoved s t p.val r.val v (rangeFrom 0 16) := by
  have hn : 16 * r.val + 16 ≤ nbank p.val := by
    unfold nbank
    split
    · omega
    · next hp1 =>
      have h4 : r.val < 4 := hp.resolve_left fun k => hp1 (congrArg Fin.val k)
      omega
  have hw : bstateWrite s p.val r.val v = (bstateFields s p.val r.val v (rangeFrom 0 16), none) := if_neg fun k => by
    obtain ⟨i, hmem, hbad⟩ := List.any_eq_true.mp k
    rw [hq i (mem_rangeFrom.mp hmem).2] at hbad
    exact Bool.false_ne_true hbad
  exact ⟨_, congrArg Host.Outcome.next ((regOpen_bstate hi hp).done (blockWrite_bstate.trans (congrArg some hw))),
    bstateFields_moves hr hn hs (fun i hmem => (mem_rangeFrom.mp hmem).2) (nodup_rangeFrom 0 16)⟩

/-- The second clause: a queue-store bank with an enabled queue context is not switched off. -/
theorem scrBstateWrite_refused {i : Nat} (hi : s.issues id = true) (h4 : r.val < 4) (h16 : i < 16)
    (hst : s.bankSt 1 (16 * r.val + i) = 1 ∨ s.bankSt 1 (16 * r.val + i) = 2) (hf : regFld v (2 * i) 2 = 0)
    (hq : bankHasQueue s (16 * r.val + i) = true) : exec (.scrBstateWrite id 1 r v) s =
      .next { s.berr id (regAddr 0x101 (0x100 + 4 * r.val)) true .binding with resp := .err .binding } := by
  have hbad : bstateRefused s 1 r.val v i = true := by
    unfold bstateRefused
    rw [hf, hq]
    obtain h | h := hst
    · rw [h]; rfl
    · rw [h]; rfl
  have hw : bstateWrite s 1 r.val v = (s, some .binding) := if_pos (List.any_eq_true.mpr ⟨i, mem_rangeFrom.mpr ⟨Nat.zero_le i, by omega⟩, hbad⟩)
  exact congrArg Host.Outcome.next ((regOpen_bstate (p := 1) hi (.inr h4)).err ((blockWrite_bstate (p := 1)).trans (congrArg some hw)))
end

theorem banksPatrolAndStarvation : BanksPatrolAndStarvation := by
  refine ⟨fun s id p r v hi hp hr hq hs => ?_, fun s id r v i hi h4 h16 hst hf hq => scrBstateWrite_refused hi h4 h16 hst hf hq,
    fun s p b => ⟨fun hf => congrArg Host.Outcome.next (endFill_none hf), zeroFill_ends⟩,
    fun s p f hc => congrArg Host.Outcome.next (patrolRegion_off hc),
    fun s p r hc hs ht hf he => congrArg Host.Outcome.next (patrolRegion_clean hc hs ht hf he),
    fun s p r f hc hs ht hf he hwf hpos h => patrolRegion_repairs hc hs ht hf he hwf hpos h, fun s p hr => dmaStarve_counts hr⟩
  obtain ⟨t, hexec, ht⟩ := scrBstateWrite_moves hi hp hr hq hs
  exact ⟨_, hexec, rfl, fun i h16 => ht.moved i (mem_rangeFrom.mpr ⟨Nat.zero_le i, by omega⟩),
    fun i h16 => ht.lost i (mem_rangeFrom.mpr ⟨Nat.zero_le i, by omega⟩), ht.regs⟩

/-- Settles O21: scratch word by word as the state of its bank allows, the moves of the banks, the fills, the patrol and a starved transfer. -/
theorem scratchAndBanksActByState : Obligations.ScratchAndBanksActByState := ⟨sramAccessesFollowTheBankState, banksPatrolAndStarvation⟩

end Sys2Proof.Proofs
end

section
/-! PROOF. Contexts of the spires (R145): what a read of a context gives after an update of it, of its spire or of another part of the state. -/
namespace Sys2Proof.Proofs
open Sys2Proof.Machine Sys2Proof.Laws

section
variable (s : State) (n : Fin 8) (c : Fin 4) (x y : SpCtx) (a b : Spire)

@[simp] theorem setSpire_setSpire : (s.setSpire n a).setSpire n b = s.setSpire n b := by simp [State.setSpire]
@[simp] theorem spires_setSpire : (s.setSpire n a).spires = s.spires.set n a := rfl
theorem setSpire_spire : s.setSpire n (s.spire n) = s := by simp [State.setSpire, State.spire]

@[simp] theorem sc_setSc : (s.setSc n c x).sc n c = x := by simp [State.sc, State.setSc]
@[simp] theorem setSc_setSc : (s.setSc n c x).setSc n c y = s.setSc n c y := by simp [State.setSc]
@[simp] theorem setSc_sc : s.setSc n c (s.sc n c) = s := by
  simpa [State.setSc, State.sc] using setSpire_spire s n
theorem spire_setSc : (s.setSc n c x).spire n = { s.spire n with ctxs := (s.spire n).ctxs.set c x } := by simp [State.setSc]
@[simp] theorem running_setSc : ((s.setSc n c x).spire n).running = (s.spire n).running := by rw [spire_setSc]
@[simp] theorem queue_setSc : ((s.setSc n c x).spire n).queue = (s.spire n).queue := by rw [spire_setSc]
@[simp] theorem setSc_mem : (s.setSc n c x).mem = s.mem := rfl
@[simp] theorem setSc_regs : (s.setSc n c x).regs = s.regs := rfl
@[simp] theorem setSc_out : (s.setSc n c x).out = s.out := rfl
@[simp] theorem ift_setSc (i : Nat) : (s.setSc n c x).ift i = s.ift i := rfl

/-- A context of a spire whose contexts stay. -/
theorem sc_setSpire (h : a.ctxs = (s.spire n).ctxs) : (s.setSpire n a).sc n c = s.sc n c := by
  rw [State.sc, spire_setSpire, h, State.sc]
end

section
variable {s t : State} {n : Fin 8} {c : Fin 4}
/-- Reading a spire depends on the spires alone. -/
theorem spire_congr (h : t.spires = s.spires) : t.spire n = s.spire n := by rw [State.spire, h, State.spire]
theorem sc_congr (h : t.spires = s.spires) : t.sc n c = s.sc n c := by rw [State.sc, spire_congr h, State.sc]
end

@[simp] theorem irq_spires (s : State) (page : Nat) (bits : Word32) : (s.irq page bits).spires = s.spires := by
  obtain ⟨_, _, h⟩ := irq_only s page bits
  rw [h]
@[simp] theorem irqBit_spires (s : State) (page n : Nat) : (s.irqBit page n).spires = s.spires := irq_spires _ _ _
@[simp] theorem irqBit_qe (s : State) (page n : Nat) : (s.irqBit page n).qe = s.qe := by
  obtain ⟨_, _, h⟩ := irqBit_only s page n
  rw [h]

/-! ### The end of a program (R165, R264) -/

section
variable {s : State} {i : Nat} {e : IftEnt}
@[simp] theorem ift_setIft : (s.setIft i (some e)).ift i = some e := sget_sput_of_ne _ _ _ (Option.some_ne_none e)
/-- The command of an in-flight entry that has not ended yet ends. -/
theorem qeEnd_ends {st : Nat} {r : Word32} (h : s.ift i = some e) (he : e.st ≠ 2) :
    qeEnd s i st r = s.setIft i (some { e with st := 2, status := st, result := r }) := by
  simp only [qeEnd, h, if_neg he]
/-- The end of a command changes the queue engine's part of the state alone. -/
theorem qeEnd_only (s : State) (i st : Nat) (r : Word32) : ∃ q, qeEnd s i st r = { s with qe := q } := by
  unfold qeEnd
  split
  · split
    · exact ⟨_, rfl⟩
    · exact ⟨_, rfl⟩
  · exact ⟨_, rfl⟩
@[simp] theorem qeEnd_mem (s : State) (i st : Nat) (r : Word32) : (qeEnd s i st r).mem = s.mem := by obtain ⟨_, h⟩ := qeEnd_only s i st r; rw [h]
@[simp] theorem qeEnd_regs (s : State) (i st : Nat) (r : Word32) : (qeEnd s i st r).regs = s.regs := by obtain ⟨_, h⟩ := qeEnd_only s i st r; rw [h]
@[simp] theorem qeEnd_out (s : State) (i st : Nat) (r : Word32) : (qeEnd s i st r).out = s.out := by obtain ⟨_, h⟩ := qeEnd_only s i st r; rw [h]
@[simp] theorem qeEnd_spires (s : State) (i st : Nat) (r : Word32) : (qeEnd s i st r).spires = s.spires := by
  obtain ⟨_, h⟩ := qeEnd_only s i st r
  rw [h]
end

/-- A context that its program has left (R165, R167). -/
def endedCtx (x : SpCtx) (code : Nat) : SpCtx :=
  { x with st := .idle, status := byte code, opened := none, adm := .none, image := none, stop := false, coefWait := false,
           ift := none, vwait := none }

section
variable {s : State} {n : Fin 8} {c : Fin 4} {code : Nat} {r : Word32}
/-- The end of a program of firmware sets SPR flag 4 + context. -/
theorem spEnd_firmware (h : (s.sc n c).ift = none) :
    spEnd s n c code r = (s.setSc n c (endedCtx (s.sc n c) code)).irqBit (sprPage n) (4 + c.val) := by
  simp only [spEnd, h, endedCtx]
/-- The end of a queue command's program ends the command. -/
theorem spEnd_command {i : Nat} (h : (s.sc n c).ift = some i) :
    spEnd s n c code r = qeEnd (s.setSc n c (endedCtx (s.sc n c) code)) i (vendStatus code) r := by
  simp only [spEnd, h, endedCtx]
@[simp] theorem sc_spEnd : (spEnd s n c code r).sc n c = endedCtx (s.sc n c) code := by
  cases h : (s.sc n c).ift with
  | none => rw [spEnd_firmware h, sc_congr (irqBit_spires _ _ _), sc_setSc]
  | some i => rw [spEnd_command h, sc_congr (qeEnd_spires _ _ _ _), sc_setSc]
@[simp] theorem spEnd_mem : (spEnd s n c code r).mem = s.mem := by
  cases h : (s.sc n c).ift with
  | none => rw [spEnd_firmware h, irqBit_mem, setSc_mem]
  | some i => rw [spEnd_command h, qeEnd_mem, setSc_mem]
/-- SPR flag 4 + context is up after the end of a program of firmware. -/
theorem spEnd_raises (h : (s.sc n c).ift = none) (hr : Regs.wf s = true) :
    regBit ((spEnd s n c code r).reg (sprPage n) oIrqRaw) (4 + c.val) = true := by
  rw [spEnd_firmware h]
  exact regBit_irqBit hr (by omega)
/-- The end of a queue command's program leaves the registers alone. -/
theorem spEnd_regs {i : Nat} (h : (s.sc n c).ift = some i) : (spEnd s n c code r).regs = s.regs := by
  rw [spEnd_command h, qeEnd_regs, setSc_regs]
theorem spEnd_out {i : Nat} (h : (s.sc n c).ift = some i) : (spEnd s n c code r).out = s.out := by
  rw [spEnd_command h, qeEnd_out, setSc_out]
/-- The in-flight entry of the program takes the status and the result. -/
theorem ift_spEnd {i : Nat} {e : IftEnt} (h : (s.sc n c).ift = some i) (he : s.ift i = some e) (hst : e.st ≠ 2) :
    (spEnd s n c code r).ift i = some { e with st := 2, status := vendStatus code, result := r } := by
  rw [spEnd_command h, qeEnd_ends (s := s.setSc n c (endedCtx (s.sc n c) code)) he hst, ift_setIft]
end

end Sys2Proof.Proofs
end

section
/-! PROOF. An instruction on a spire context (R142, R146, R205): what its body answers is what the command leaves. -/
namespace Sys2Proof.Proofs
open Sys2Proof.Machine Sys2Proof.Laws

/-- What a running instruction of the statements sees: `k` bytes follow its prefixes. -/
def spEnv (s : State) (n : Fin 8) (c : Fin 4) (op : DisOp) (p : Pfx) (imm : Imm) (opc k : Nat) : SEnv :=
  { n := n, c := c, p := p, imm := imm, opc := opc, next := spNextN s n c op k, bits := 0 }
/-- The state in which the body runs: the context is in RUN. -/
def spStarted (s : State) (n : Fin 8) (c : Fin 4) : State := s.setSc n c { s.sc n c with st := .run }
/-- What an instruction leaves whose body has answered; `next` is the address of the next instruction. -/
def afterBody (n : Fin 8) (c : Fin 4) (next : Nat) : SRes → State
  | .done s j => s.setSc n c { s.sc n c with pc := BitVec.ofNat 48 (j.getD next) }
  | .wait s st => s.setSc n c { s.sc n c with st := st }
  | .bad s cause d => spPrecise s n c cause d
  | .stopped s => s

section
variable {s : State} {n : Fin 8} {c : Fin 4} {op : DisOp} {p : Pfx} {acc : Acc} {w : Waits} {k opc : Nat} {imm : Imm} {hasImm own : Bool}
  {b : SBody}

/-- A context in RUN is in RUN already. -/
theorem spStarted_of_run (h : (s.sc n c).st = .run) : spStarted s n c = s := by
  have hx : ({ s.sc n c with st := .run } : SpCtx) = s.sc n c := by rw [← h]
  rw [spStarted, hx, setSc_sc]

theorem st_of_waitsFor_none {st : SpSt} (h : waitsFor .none st = true) : st = .run := by
  cases st with
  | run => rfl
  | _ => cases h

/-- Without disturbance the sequencer runs the body. -/
theorem seqGo_runs {e : SEnv} {len : Nat} (hx : pfxBad acc e.p = false) (hs : seqRuns s n = true) (hp : progOn s (s.sc n c) = true)
    (hw : waitsFor w (s.sc n c).st = true) (hf : pbFetch s n (s.sc n c).pc.toNat len = (s, none)) :
    seqGo s n c acc w len e .quiet own (some b) = afterBody n c e.next (b e (spStarted s n c)) := by
  have hfront : seqFront s n c len .quiet own = (s, none) := by simp only [seqFront, hf]
  simp only [seqGo, hs, hp, hw, hfront, hx, Bool.and_self, if_true, Bool.false_eq_true, if_false, spStarted]
  cases b e (s.setSc n c { s.sc n c with st := .run }) <;> rfl

theorem spireRun_runs (h : spireRuns s n c op p acc w k) (hk : k = 1 + if hasImm then immBytes imm else 0)
    (hi : hasImm = true → immOk imm = true) : spireRun s n c acc opc hasImm imm op w own (some b) =
      .next (afterBody n c (spNextN s n c op k) (b (spEnv s n c op p imm opc k) (spStarted s n c))) := by
  obtain ⟨-, hres, hhw, hparse, hpage, hbad, hruns, hprog, hwait, hfetch⟩ := h
  have hwf : ((p.illegal || p.page == acc.page) && ((!hasImm || immOk imm) && reservedOk acc.page none)) = true := by
    cases hasImm with
    | false => simp [hpage, reservedOk]
    | true => simp [hpage, reservedOk, hi rfl]
  rw [hk, ← Nat.add_assoc] at hfetch
  simp only [spireRun, hparse, hres, hhw, hwf, okIf, if_true, Option.isSome_none, Bool.false_eq_true, if_false]
  rw [seqGo_runs hbad hruns hprog hwait hfetch, hk]
  simp only [spEnv, spNextN, Nat.add_assoc]

/-- An instruction of the vector page without immediate. -/
theorem disVec_runs (h : spireRuns s n c op p vecPage w 1) : disVec op opc w b s =
    .next (afterBody n c (spNextN s n c op 1) (b (spEnv s n c op p { size := 0, value := 0 } opc 1) (spStarted s n c))) := by
  simp only [disVec, h.1]
  exact spireRun_runs h rfl nofun
/-- The same, of an instruction that no waiting context runs. -/
theorem disVec_runs_now (h : spireRuns s n c op p vecPage .none 1) : disVec op opc .none b s =
    .next (afterBody n c (spNextN s n c op 1) (b (spEnv s n c op p { size := 0, value := 0 } opc 1) s)) := by
  obtain ⟨-, -, -, -, -, -, -, -, hw, -⟩ := id h
  rw [disVec_runs h, spStarted_of_run (st_of_waitsFor_none hw)]
/-- VDGET and VDSET, with a byte after their opcode. -/
theorem disField_runs {f : BitVec 8} (h : spireRuns s n c op p vecPage .none 2) : disField op opc f b s =
    .next (afterBody n c (spNextN s n c op 2) (b (spEnv s n c op p { size := 0, value := f.zeroExtend 64 } opc 2) s)) := by
  obtain ⟨-, -, -, -, -, -, -, -, hw, -⟩ := id h
  simp only [disField, h.1]
  rw [spireRun_runs (acc := accVec) h rfl fun _ => immOk_byte f, spStarted_of_run (st_of_waitsFor_none hw)]
/-- VCGET. -/
theorem execVcget_runs (h : spireRuns s n c op p vecPage .none 1) : execVcget op s =
    .next (afterBody n c (spNextN s n c op 1) (vcgetS (spEnv s n c op p { size := 0, value := 0 } 0x0A 1) s)) := by
  obtain ⟨-, -, -, -, -, -, -, -, hw, -⟩ := id h
  simp only [execVcget, h.1]
  rw [spireRun_runs (acc := accVec) (hasImm := false) h rfl nofun, spStarted_of_run (st_of_waitsFor_none hw)]

theorem st_of_runs (h : spireRuns s n c op p acc .none k) : (s.sc n c).st = .run := by
  obtain ⟨-, -, -, -, -, -, -, -, hw, -⟩ := h
  exact st_of_waitsFor_none hw
end

/-! ### What a body sees and answers -/

section
variable {s t : State} {n : Fin 8} {c : Fin 4} {op : DisOp} {p : Pfx} {opc j : Nat} {imm : Imm} {x : SpCtx}
@[simp] theorem spEnv_x : (spEnv s n c op p imm opc j).x t = t.sc n c := rfl
@[simp] theorem spEnv_put : (spEnv s n c op p imm opc j).put t x = t.setSc n c x := rfl
@[simp] theorem spEnv_n : (spEnv s n c op p imm opc j).n = n := rfl
@[simp] theorem spEnv_c : (spEnv s n c op p imm opc j).c = c := rfl
@[simp] theorem spEnv_imm : (spEnv s n c op p imm opc j).imm = imm := rfl
@[simp] theorem spEnv_bits : (spEnv s n c op p imm opc j).bits = 0 := rfl

/-- A body that is done leaves its context at the next instruction. -/
theorem afterBody_put : Host.Outcome.next (afterBody n c (spNextN s n c op j) (.done (t.setSc n c x) none)) =
    (.next (spOn t n c x (spNext s n c op j)) : Res) := by
  simp only [afterBody, sc_setSc, setSc_setSc]
  rfl
theorem spOn_of_run {pc : Addr} (h : x.st = .run) : spOn t n c x pc = spDone t n c x pc := by rw [spDone, ← h]; rfl
theorem afterBody_put_run (h : x.st = .run) : Host.Outcome.next (afterBody n c (spNextN s n c op j) (.done (t.setSc n c x) none)) =
    (.next (spDone t n c x (spNext s n c op j)) : Res) := by
  rw [afterBody_put, spOn_of_run h]
end

section
variable {s t : State} {n : Fin 8} {c : Fin 4} {op : DisOp} {p : Pfx} {opc j k m : Nat} {imm : Imm} {f : List Cell → SRes}
  {cs rest r : List Cell} {x : SpCtx}
/-- The operands of an instruction whose cells are there and whose results have room (R146). -/
theorem withCells_of_win (hw : (t.sc n c).win = cs ++ rest) (hk : cs.length = k) (hm : rest.length + m ≤ 32) :
    withCells (spEnv s n c op p imm opc j) t k m f = f cs := by
  subst hk
  have h1 : ¬ ((cs ++ rest).length < cs.length ∨ 32 < (cs ++ rest).length - cs.length + m) := by
    rw [List.length_append]; omega
  simp only [withCells, spEnv_x, hw, if_neg h1, List.take_left]
theorem swapCells_of_win (hw : x.win = cs ++ rest) (hk : cs.length = k) : swapCells x k r = { x with win := r ++ rest } := by
  subst hk
  simp only [swapCells, hw, List.drop_left]
theorem withCells_none (hm : (t.sc n c).win.length + m ≤ 32) : withCells (spEnv s n c op p imm opc j) t 0 m f = f [] :=
  withCells_of_win rfl rfl hm
theorem withCells_one {a : Cell} (hw : (t.sc n c).win = a :: rest) (hm : rest.length + m ≤ 32) :
    withCells (spEnv s n c op p imm opc j) t 1 m f = f [a] := withCells_of_win (cs := [a]) hw rfl hm
theorem withCells_two {a b : Cell} (hw : (t.sc n c).win = a :: b :: rest) (hm : rest.length + m ≤ 32) :
    withCells (spEnv s n c op p imm opc j) t 2 m f = f [a, b] := withCells_of_win (cs := [a, b]) hw rfl hm
theorem swapCells_none : swapCells x 0 r = { x with win := r ++ x.win } := rfl
theorem swapCells_one {a : Cell} (hw : x.win = a :: rest) : swapCells x 1 r = { x with win := r ++ rest } :=
  swapCells_of_win (cs := [a]) hw rfl
theorem swapCells_two {a b : Cell} (hw : x.win = a :: b :: rest) : swapCells x 2 r = { x with win := r ++ rest } :=
  swapCells_of_win (cs := [a, b]) hw rfl
end

end Sys2Proof.Proofs
end

section
/-! PROOF. Element instructions: take-in into the open group (R154, R155, R179, R185). -/
namespace Sys2Proof.Proofs
open Sys2Proof.Machine Sys2Proof.Laws

/-! ### The instruction (R154, R185) -/

section
variable {s : State} {n : Fin 8} {c : Fin 4} {op : DisOp} {p : Pfx} {opc : Nat} {v : VOp} {cs rest : List Cell}
  (h : spireRuns s n c op p vecPage .none 1) (hw : (s.sc n c).win = cs ++ rest) (hl : cs.length = v.cells) (hr : rest.length ≤ 32)
include h hw hl hr

/-- Operands that take-in accepts join the open group. -/
theorem elem_joins {st : List SDesc} {g : Group} (ht : takeIn v (s.sc n c).pc (s.sc n c).descs (s.sc n c).opened cs = .ok (st, g)) :
    disElem op opc v s = .next (spDone s n c { s.sc n c with win := rest, descs := st, opened := some g } (spNext s n c op 1)) := by
  rw [disElem, disVec_runs_now h, elemS, withCells_of_win hw hl hr]
  simp only [spEnv_x, spEnv_put, ht, swapCells_of_win hw hl]
  exact afterBody_put_run (st_of_runs h)

/-- Operands that take-in refuses raise an issue fault with its reason. -/
theorem elem_refused {why : Nat} (ht : takeIn v (s.sc n c).pc (s.sc n c).descs (s.sc n c).opened cs = .error why) :
    disElem op opc v s = .next (spPrecise s n c cISSUE why) := by
  rw [disElem, disVec_runs_now h, elemS, withCells_of_win hw hl hr]
  simp only [spEnv_x, ht, afterBody]
end

/-! ### Take-in of two plain descriptors -/

section
variable {v : VOp} {pc : Addr} {a d : SDesc} {rest : List SDesc}

/-- A descriptor that is not INDEXED names no index descriptor. -/
theorem indexCheck_plain {stack : List SDesc} {used : List Nat} (h : a.mode < 3) : indexCheck stack used a = none :=
  if_pos (Nat.ne_of_lt h)
theorem chain_plain (h : a.mode < 3) : a.chain = false := beq_false_of_ne (show a.mode ≠ 4 by omega)
theorem indexed_plain (h : a.mode < 3) : (a.mode == mINDEXED) = false := beq_false_of_ne (Nat.ne_of_lt h)

/-- The operation that take-in of a source and a destination makes. -/
def copyOp (v : VOp) (w : Nat) : GOp := { op := v, w := w, p := 0, t := 0, srcs := [⟨0, none⟩], dst := some ⟨1, none⟩ }
/-- Its group. -/
def copyOf (v : VOp) (pc : Addr) (a d : SDesc) : Group := { pc := pc, descs := [a, d], ops := [copyOp v d.w] }

/-- Two plain descriptors keep within the limits of a group (R155). -/
theorem copyOf_within (ha : a.mode < 3) (hd : d.mode < 3) : limitBad (copyOf v pc a d) [] (copyOp v d.w) = false := by
  have hp (u : Unit4) : u.places ≠ 0 := by cases u <;> decide
  simp [limitBad, copyOf, copyOp, Group.loads, GOp.loads, GOp.stores, GOp.slotW, Group.desc, chain_plain ha, chain_plain hd, hp]

/-- What is left of the stream stack when its two top places are gone. -/
theorem keep_below_two : ((List.range (d :: a :: rest).length).filter fun i => !([1, 0] : List Nat).contains i).map
    (fun i => (d :: a :: rest).getD i {}) = rest := by
  have hr : (List.range (d :: a :: rest).length).filter (fun i => !([1, 0] : List Nat).contains i) = (List.range rest.length).map (· + 2) := by
    rw [List.length_cons, List.length_cons, List.range_succ_eq_map, List.range_succ_eq_map]
    simp [List.filter_map, Function.comp_def]
  rw [hr, List.map_map]
  refine List.ext_getElem (by simp) fun i h1 h2 => ?_
  simp [h2]

/-- An operation with one source and a destination, without parameter cell and without coefficient RAM. -/
structure Unary (v : VOp) : Prop where
  pos : operandPos v = [1, 0]
  nsrc : v.nsrc = 1
  hasDst : v.hasDst = true
  param : ∀ w p, paramBad v w p = false
  range : ∀ w p src dst, rangeBad v w p src dst = false
  notLoad : v ≠ .vcld
  notRead : v ≠ .vcrd

theorem unary_of_mem (h : v ∈ ([.vnot, .vpopc, .vcopy, .vgfinv] : List VOp)) : Unary v := by
  fin_cases h <;> exact ⟨rfl, rfl, rfl, fun _ _ => rfl, fun _ _ _ _ => Bool.and_false _, nofun, nofun⟩

/-- Take-in of a source and a destination that are plain descriptors of one legal width. -/
theorem takeIn_plain (hv : Unary v) (ha : a.ok false = true) (hd : d.ok true = true)
    (hma : a.mode < 3) (hmd : d.mode < 3) (hw : a.w = d.w) (hwo : v.widthOk d.w = true) :
    takeIn v pc (d :: a :: rest) none [] = .ok (rest, copyOf v pc a d) := by
  have hma3 : a.mode ≠ mINDEXED := Nat.ne_of_lt hma
  have hmd3 : d.mode ≠ mINDEXED := Nat.ne_of_lt hmd
  simp only [takeIn, hv.pos, hv.nsrc, hv.hasDst, hv.param, hv.range, hv.notLoad, hv.notRead, ha, hd, hw, hwo, indexCheck_plain hma,
    indexCheck_plain hmd, chain_plain hma, indexed_plain hma, indexed_plain hmd, hma3, hmd3, placeRefs, firstReason, failIf, List.length_cons,
    List.length_nil, List.map_cons, List.map_nil, List.getD_cons_zero, List.getD_cons_succ, List.getD_nil, List.take_succ_cons, List.take_zero,
    List.any_cons, List.any_nil, List.filter_cons, List.filter_nil, Option.getD_none, if_true, if_false, Bool.not_true, Bool.false_and,
    Bool.or_false, Bool.false_eq_true, List.getElem?_cons_succ, List.getElem?_cons_zero, List.flatten_cons, List.flatten_nil, bne_self_eq_false,
    List.nodup_nil, decide_true]
  have hlim : ¬ limitBad (copyOf v pc a d) [] (copyOp v d.w) = true := by rw [copyOf_within hma hmd]; exact Bool.false_ne_true
  rw [if_neg (by omega)]
  exact (if_neg hlim).trans (congrArg (fun k => Except.ok (k, copyOf v pc a d)) keep_below_two)
end

/-- The first half of O40. -/
theorem elementInstructionsJoinTheGroup : ElementInstructionsJoinTheGroup := by
  refine ⟨fun r hr s n c op p cs rest h hw hl hrest => ?_, fun v hv pc a d rest ha hd hma hmd hw hwo =>
    takeIn_plain (unary_of_mem hv) ha hd hma hmd hw hwo⟩
  obtain ⟨opc, hx⟩ : ∃ opc, ∀ op s, exec (r.1 op) s = disElem op opc r.2 s := by
    fin_cases hr <;> exact ⟨_, fun _ _ => rfl⟩
  rw [hx]
  exact ⟨fun st g ht => elem_joins h hw hl hrest ht, fun why ht => elem_refused h hw hl hrest ht⟩

end Sys2Proof.Proofs
end

section
/-! PROOF. What the element operations compute (R187, R188, R193). -/
namespace Sys2Proof.Proofs
open Sys2Proof.Machine Sys2Proof.Laws

/-! ### Signed and unsigned ends (R188) -/

/-- A number in the signed range of `b` bits is the signed value of its low `b` bits. -/
theorem sgn_uns {b : Nat} {y : Int} (hb : 0 < b) (hlo : -(2 ^ (b - 1) : Int) ≤ y) (hhi : y < (2 ^ (b - 1) : Int)) : sgn (uns y b) b = y := by
  have hn : (2 : Nat) ^ b = 2 * 2 ^ (b - 1) := by rw [← pow_succ', Nat.sub_add_cancel hb]
  have hc : (2 : Int) ^ (b - 1) = ((2 ^ (b - 1) : Nat) : Int) := by push_cast; rfl
  simp only [sgn, uns, Int.ofNat_eq_natCast, hn]
  rw [hc] at hlo hhi
  generalize 2 ^ (b - 1) = h at hlo hhi
  rcases Int.lt_or_le y 0 with hy | hy
  · have hm : y % ((2 * h : Nat) : Int) = y + 2 * h := by
      rw [← Int.add_emod_right, Int.emod_eq_of_lt (by omega) (by omega)]
      push_cast
      rfl
    rw [hm, Nat.mod_eq_of_lt (by omega), if_neg (by omega)]
    omega
  · rw [Int.emod_eq_of_lt hy (by omega), Nat.mod_eq_of_lt (by omega), if_pos (by omega), Int.toNat_of_nonneg hy]

theorem sgn_clampS {b : Nat} (hb : 0 < b) (x : Int) : sgn (clampS b x) b = max (-(2 ^ (b - 1) : Int)) (min x (2 ^ (b - 1) - 1)) := by
  have hpos : (0 : Int) < 2 ^ (b - 1) := by positivity
  rw [clampS]
  push_cast
  exact sgn_uns hb (by omega) (by omega)

theorem clampU_add (b x y : Nat) : clampU b (Int.ofNat x + Int.ofNat y) = min (x + y) (2 ^ b - 1) := by
  have hpos := Nat.two_pow_pos b
  unfold clampU
  generalize 2 ^ b = t at hpos
  simp only [Int.ofNat_eq_natCast]
  omega
theorem clampU_sub {b x : Nat} (hx : x < 2 ^ b) (y : Nat) : clampU b (Int.ofNat x - Int.ofNat y) = x - y := by
  unfold clampU
  generalize 2 ^ b = t at hx
  simp only [Int.ofNat_eq_natCast]
  omega

/-! ### Rotation (R188) -/

/-- A number whose parts above and below bit `k` have changed places. -/
theorem rotate_eq {m k a : Nat} (ha : a < 2 ^ (m + k)) :
    (a * 2 ^ m + a / 2 ^ k) % 2 ^ (m + k) = 2 ^ m * (a % 2 ^ k) + a / 2 ^ k := by
  have hhi : a / 2 ^ k < 2 ^ m := Nat.div_lt_of_lt_mul (by rwa [← Nat.pow_add, Nat.add_comm])
  have hlo : a % 2 ^ k + 1 ≤ 2 ^ k := Nat.mod_lt _ (Nat.two_pow_pos k)
  have hlt : 2 ^ m * (a % 2 ^ k) + a / 2 ^ k < 2 ^ (m + k) := calc
    _ < 2 ^ m * (a % 2 ^ k) + 2 ^ m := by omega
    _ = 2 ^ m * (a % 2 ^ k + 1) := (Nat.mul_succ _ _).symm
    _ ≤ 2 ^ (m + k) := by rw [Nat.pow_add]; exact Nat.mul_le_mul_left _ hlo
  have hsum : a * 2 ^ m + a / 2 ^ k = 2 ^ m * (a % 2 ^ k) + a / 2 ^ k + 2 ^ (m + k) * (a / 2 ^ k) := by
    nth_rewrite 1 [← Nat.div_add_mod a (2 ^ k)]
    ring
  rw [hsum, Nat.add_mul_mod_self_left, Nat.mod_eq_of_lt hlt]

/-- A number turned by `m` of `m + k` bits and turned back. -/
theorem rotate_back {m k a : Nat} (ha : a < 2 ^ (m + k)) :
    ((a * 2 ^ m + a / 2 ^ k) % 2 ^ (m + k) / 2 ^ m + (a * 2 ^ m + a / 2 ^ k) % 2 ^ (m + k) * 2 ^ k) % 2 ^ (m + k) = a := by
  have hhi : a / 2 ^ k < 2 ^ m := Nat.div_lt_of_lt_mul (by rwa [← Nat.pow_add, Nat.add_comm])
  have hsum : a % 2 ^ k + (2 ^ m * (a % 2 ^ k) + a / 2 ^ k) * 2 ^ k = a + 2 ^ (m + k) * (a % 2 ^ k) := by
    nth_rewrite 4 [← Nat.div_add_mod a (2 ^ k)]
    ring
  rw [rotate_eq ha, Nat.mul_add_div (Nat.two_pow_pos m), Nat.div_eq_of_lt hhi, Nat.add_zero, hsum, Nat.add_mul_mod_self_left,
    Nat.mod_eq_of_lt ha]

/-! ### The operations -/

section
variable {w : Nat} {p : Cell} {a b : Nat}

theorem elemFn_vsub_vadd (ha : a < 2 ^ (8 * w)) (hb : b < 2 ^ (8 * w)) : elemFn .vadd w p [elemFn .vsub w p [a, b], b] = a := by
  show ((a + 2 ^ (8 * w) - b) % 2 ^ (8 * w) + b) % 2 ^ (8 * w) = a
  rw [Nat.mod_add_mod, Nat.sub_add_cancel (by omega), Nat.add_mod_right, Nat.mod_eq_of_lt ha]

theorem elemFn_vnot_vnot (ha : a < 2 ^ (8 * w)) : elemFn .vnot w p [elemFn .vnot w p [a]] = a := by
  show 2 ^ (8 * w) - 1 - (2 ^ (8 * w) - 1 - a) = a
  omega

theorem elemFn_vrol_vror (hw : 0 < w) (ha : a < 2 ^ (8 * w)) : elemFn .vror w p [elemFn .vrol w p [a]] = a := by
  have hm : p.toNat % (8 * w) + (8 * w - p.toNat % (8 * w)) = 8 * w := Nat.add_sub_cancel' (Nat.mod_lt _ (by omega)).le
  have h := rotate_back (m := p.toNat % (8 * w)) (k := 8 * w - p.toNat % (8 * w)) (a := a) (by rwa [hm])
  rw [hm] at h
  exact h

theorem elemFn_shifted_out (hn : 8 * w ≤ p.toNat) : elemFn .vshl w p [a] = 0 ∧ elemFn .vshr w p [a] = 0 := ⟨if_pos hn, if_pos hn⟩
end

/-- VIBFLY undoes VBFLY, and VBFLY undoes VIBFLY (R193). -/
theorem bfly_bfly (w t a b : Nat) : bfly true w t (bfly false w t a b).1 (bfly false w t a b).2 = (a, b) ∧
    bfly false w t (bfly true w t a b).1 (bfly true w t a b).2 = (a, b) := by
  have hback (x y : Nat) : x ^^^ y ^^^ y = x := Nat.xor_xor_cancel_right x y
  have hswap (x y : Nat) : x ^^^ (y ^^^ x) = y := by rw [Nat.xor_comm y, Nat.xor_xor_cancel_left]
  constructor
  · simp only [bfly, if_true, Bool.false_eq_true, if_false, hswap, hback]
  · simp only [bfly, if_true, Bool.false_eq_true, if_false, hback, Nat.xor_comm (a ^^^ b) a, Nat.xor_xor_cancel_left]

/-- The second half of O40. -/
theorem elementOperationsComputeTheirValue : ElementOperationsComputeTheirValue := by
  refine ⟨fun w hw a b ha hb p => ?_, bfly_bfly⟩
  have hpos : 0 < w := by
    have hall : ∀ v ∈ [1, 2, 4, 8], 0 < v := by decide
    exact hall w hw
  have hbits : 0 < 8 * w := by omega
  exact ⟨Nat.mod_add_div _ _, elemFn_vsub_vadd ha hb, clampU_add _ _ _, clampU_sub ha _, sgn_clampS hbits _, sgn_clampS hbits _, elemFn_vnot_vnot ha,
    by simp [elemFn, allOnes], elemFn_vrol_vror hpos ha, elemFn_shifted_out⟩

/-- Settles O40, from its two halves. -/
theorem elementInstructionsAndTheirValues : Obligations.ElementInstructionsAndTheirValues :=
  ⟨elementInstructionsJoinTheGroup, elementOperationsComputeTheirValue⟩

end Sys2Proof.Proofs
end

section
/-! PROOF. Descriptor instructions (R147, R153, R181). -/
namespace Sys2Proof.Proofs
open Sys2Proof.Machine Sys2Proof.Laws

section
variable {s t : State} {n : Fin 8} {c : Fin 4} {op : DisOp} {p : Pfx} {rest : List Cell} {a : Cell}
  (h : spireRuns s n c op p vecPage .none 1) (hr : rest.length ≤ 31) (hw : (s.sc n c).win = a :: rest)
include h hr hw

theorem vdld_reads {d : List Byte} (hd : (s.sc n c).descs.length < 8) (ha : a.toNat % 32 = 0) (h48 : a.toNat < 2 ^ 48)
    (hb : busRead s (sprId n) a.toNat 32 = (t, .ok (d, false))) : exec (.vdld op) s = .next (spOn t n c { t.sc n c with
      win := (t.sc n c).win.drop 1, descs := SDesc.ofBytes d :: (t.sc n c).descs } (spNext s n c op 1)) := by
  show disVec op 0x00 .none vdldS s = _
  rw [disVec_runs_now h, vdldS, withCells_one hw (by omega)]
  simp only [List.getD_cons_zero, spEnv_x, spEnv_n, spEnv_put, if_neg (Nat.not_le.mpr hd), if_neg (not_not_intro ha),
    if_neg (Nat.not_le.mpr h48), hb]
  exact afterBody_put

theorem vdst_stores {d : SDesc} {ds : List SDesc} (hd : (s.sc n c).descs = d :: ds) (ha : a.toNat % 32 = 0) (h48 : a.toNat < 2 ^ 48)
    (hb : busWrite s (sprId n) a.toNat d.bytes = (t, none)) : exec (.vdst op) s = .next (spOn t n c { t.sc n c with
      win := (t.sc n c).win.drop 1 } (spNext s n c op 1)) := by
  show disVec op 0x01 .none vdstS s = _
  rw [disVec_runs_now h, vdstS, withCells_one hw (by omega)]
  simp only [List.getD_cons_zero, spEnv_x, spEnv_n, spEnv_put, hd, if_neg (not_not_intro ha), if_neg (Nat.not_le.mpr h48), hb]
  exact afterBody_put

theorem vdld_unaligned (hd : (s.sc n c).descs.length < 8) (ha : a.toNat % 32 ≠ 0) : exec (.vdld op) s = .next (spPrecise s n c cISSUE 2) := by
  show disVec op 0x00 .none vdldS s = _
  rw [disVec_runs_now h, vdldS, withCells_one hw (by omega)]
  simp only [List.getD_cons_zero, spEnv_x, if_neg (Nat.not_le.mpr hd), if_pos ha, afterBody]

theorem vdst_unaligned (hd : (s.sc n c).descs ≠ []) (ha : a.toNat % 32 ≠ 0) : exec (.vdst op) s = .next (spPrecise s n c cISSUE 2) := by
  obtain ⟨d, ds, hds⟩ := List.exists_cons_of_ne_nil hd
  show disVec op 0x01 .none vdstS s = _
  rw [disVec_runs_now h, vdstS, withCells_one hw (by omega)]
  simp only [List.getD_cons_zero, spEnv_x, hds, if_pos ha, afterBody]
end

section
variable {s : State} {n : Fin 8} {c : Fin 4} {op : DisOp} {p : Pfx} {d e : SDesc} {ds : List SDesc}
  (h : spireRuns s n c op p vecPage .none 1)
include h

theorem vddrop_drops (hd : (s.sc n c).descs = d :: ds) :
    exec (.vddrop op) s = .next (spDone s n c { s.sc n c with descs := ds } (spNext s n c op 1)) := by
  show disVec op 0x02 .none vddropS s = _
  rw [disVec_runs_now h, vddropS]
  simp only [spEnv_x, spEnv_put, hd]
  exact afterBody_put_run (st_of_runs h)
theorem vddrop_empty (hd : (s.sc n c).descs = []) : exec (.vddrop op) s = .next (spPrecise s n c cISSUE 1) := by
  show disVec op 0x02 .none vddropS s = _
  rw [disVec_runs_now h, vddropS]
  simp only [spEnv_x, hd, afterBody]
theorem vddup_copies (hd : (s.sc n c).descs = d :: ds) (hl : ds.length < 7) :
    exec (.vddup op) s = .next (spDone s n c { s.sc n c with descs := d :: d :: ds } (spNext s n c op 1)) := by
  have hroom : ¬ 8 ≤ (d :: ds).length := by rw [List.length_cons]; omega
  show disVec op 0x03 .none vddupS s = _
  rw [disVec_runs_now h, vddupS]
  simp only [spEnv_x, spEnv_put, hd, if_neg hroom]
  exact afterBody_put_run (st_of_runs h)
theorem vdswap_swaps (hd : (s.sc n c).descs = d :: e :: ds) :
    exec (.vdswap op) s = .next (spDone s n c { s.sc n c with descs := e :: d :: ds } (spNext s n c op 1)) := by
  show disVec op 0x04 .none vdswapS s = _
  rw [disVec_runs_now h, vdswapS]
  simp only [spEnv_x, spEnv_put, hd]
  exact afterBody_put_run (st_of_runs h)
end

/-! ### Fields of the top descriptor (R181) -/

theorem toNat_zeroExtend_byte (f : BitVec 8) : (f.zeroExtend 64).toNat = f.toNat := by
  have hlt := f.isLt
  rw [BitVec.zeroExtend, BitVec.toNat_setWidth, Nat.mod_eq_of_lt (by omega)]

section
variable {s : State} {n : Fin 8} {c : Fin 4} {op : DisOp} {p : Pfx} {d : SDesc} {ds : List SDesc} {f : BitVec 8}
  (h : spireRuns s n c op p vecPage .none 2) (hf : f.toNat ≤ 9) (hd : (s.sc n c).descs = d :: ds)
include h hf hd

theorem vdget_pushes (hw : (s.sc n c).win.length ≤ 31) : exec (.vdget op f) s =
    .next (spDone s n c { s.sc n c with win := d.get f.toNat :: (s.sc n c).win } (spNext s n c op 2)) := by
  have hf' : (f.zeroExtend 64).toNat = f.toNat := toNat_zeroExtend_byte f
  show disField op 0xC0 f vdgetS s = _
  rw [disField_runs h, vdgetS]
  simp only [spEnv_imm, hf', if_neg (Nat.not_lt.mpr hf)]
  rw [withCells_none (by omega)]
  simp only [spEnv_x, spEnv_put, hd, swapCells_none]
  exact afterBody_put_run (st_of_runs h)

theorem vdset_replaces {v : Cell} {rest : List Cell} (hw : (s.sc n c).win = v :: rest) (hr : rest.length ≤ 32) : exec (.vdset op f) s =
    .next (spDone s n c { s.sc n c with win := rest, descs := d.set f.toNat v :: ds } (spNext s n c op 2)) := by
  have hf' : (f.zeroExtend 64).toNat = f.toNat := toNat_zeroExtend_byte f
  show disField op 0xC4 f vdsetS s = _
  rw [disField_runs h, vdsetS]
  simp only [spEnv_imm, hf', if_neg (Nat.not_lt.mpr hf)]
  rw [withCells_one hw hr]
  simp only [spEnv_x, spEnv_put, hd, List.getD_cons_zero, swapCells_one hw]
  exact afterBody_put_run (st_of_runs h)
end

/-! ### Descriptors as data (R147, R181) -/

theorem testBit_fld (x lo w i : Nat) : (fld x lo w).testBit i = (decide (i < w) && x.testBit (lo + i)) := by
  rw [fld, Nat.testBit_mod_two_pow, Nat.testBit_shiftRight]

section
variable {x lo w v lo' w' : Nat}
/-- A field of a cell just replaced is read back. -/
theorem fld_cell_fldSet (h : lo + w ≤ 64) : fld (cell (fldSet x lo w v)).toNat lo w = v % 2 ^ w := by
  refine Nat.eq_of_testBit_eq fun i => ?_
  rw [testBit_fld, Nat.testBit_mod_two_pow, cell, BitVec.toNat_ofNat, Nat.testBit_mod_two_pow, testBit_fldSet]
  by_cases hi : i < w
  · rw [decide_eq_true (by omega : lo + i < 64), if_pos (by omega), Nat.add_sub_cancel_left, Bool.true_and]
  · rw [decide_eq_false hi, Bool.false_and, Bool.false_and]
/-- Another field of the cell stays. -/
theorem fld_cell_fldSet_ne (h : lo' + w' ≤ 64) (hd : lo' + w' ≤ lo ∨ lo + w ≤ lo') :
    fld (cell (fldSet x lo w v)).toNat lo' w' = fld x lo' w' := by
  refine Nat.eq_of_testBit_eq fun i => ?_
  rw [testBit_fld, testBit_fld, cell, BitVec.toNat_ofNat, Nat.testBit_mod_two_pow, testBit_fldSet]
  by_cases hi : i < w'
  · rw [decide_eq_true (by omega : lo' + i < 64), if_neg (by omega), Bool.true_and]
  · rw [decide_eq_false hi, Bool.false_and, Bool.false_and]
end

/-- The number in field `i` of a descriptor. -/
def fieldNum (d : SDesc) (i : Nat) : Nat := fld (d.word (fieldPlace i).1).toNat (fieldPlace i).2.1 (fieldPlace i).2.2

theorem get_eq (d : SDesc) (i : Nat) : d.get i = if i = 2 then cell (uns (sgn (fieldNum d i) 32) 64) else cell (fieldNum d i) := rfl

theorem word_setWord (d : SDesc) (k : Nat) (v : Cell) : (d.setWord k v).word k = v := by
  unfold SDesc.setWord SDesc.word
  split
  · rfl
  · split
    · rfl
    · split <;> rfl
theorem word_setWord_ne (d : SDesc) {k j : Nat} (v : Cell) (hk : k ≤ 3) (hj : j ≤ 3) (h : j ≠ k) : (d.setWord k v).word j = d.word j := by
  grind [SDesc.setWord, SDesc.word]

/-- Every field lies within its word. -/
theorem fieldPlace_fits : ∀ i < 10, (fieldPlace i).1 ≤ 3 ∧ (fieldPlace i).2.1 + (fieldPlace i).2.2 ≤ 64 := by decide
/-- No two fields share a bit. -/
theorem fieldPlace_apart : ∀ i < 10, ∀ j < 10, i ≠ j → (fieldPlace j).1 = (fieldPlace i).1 →
    (fieldPlace j).2.1 + (fieldPlace j).2.2 ≤ (fieldPlace i).2.1 ∨ (fieldPlace i).2.1 + (fieldPlace i).2.2 ≤ (fieldPlace j).2.1 := by decide

section
variable {d : SDesc} {v : Cell} {i j : Nat}
theorem fieldNum_set (hi : i ≤ 9) : fieldNum (d.set i v) i = v.toNat % 2 ^ (fieldPlace i).2.2 := by
  obtain ⟨-, hf⟩ := fieldPlace_fits i (by omega)
  rw [fieldNum, SDesc.set, word_setWord, fld_cell_fldSet hf]
theorem fieldNum_set_ne (hi : i ≤ 9) (hj : j ≤ 9) (h : i ≠ j) : fieldNum (d.set i v) j = fieldNum d j := by
  obtain ⟨hwi, -⟩ := fieldPlace_fits i (by omega)
  obtain ⟨hwj, hfj⟩ := fieldPlace_fits j (by omega)
  by_cases hw : (fieldPlace j).1 = (fieldPlace i).1
  · have hd := fieldPlace_apart i (by omega) j (by omega) h hw
    rw [fieldNum, SDesc.set, hw, word_setWord, fld_cell_fldSet_ne hfj hd, fieldNum, hw]
  · rw [fieldNum, SDesc.set, word_setWord_ne _ _ hwi hwj hw, fieldNum]

theorem get_set (hi : i ≤ 9) : (d.set i v).get i =
    if i = 2 then cell (uns (sgn (v.toNat % 2 ^ 32) 32) 64) else cell (v.toNat % 2 ^ (fieldPlace i).2.2) := by
  rw [get_eq, fieldNum_set hi]
  split
  · next h => rw [h]; rfl
  · rfl
theorem get_set_ne (hi : i ≤ 9) (hj : j ≤ 9) (h : i ≠ j) : (d.set i v).get j = d.get j := by
  rw [get_eq, get_eq, fieldNum_set_ne hi hj h]
end

/-- A cell is the value of its eight bytes (R9). -/
theorem cell_ofLE_leBytes (x : Cell) : cell (ofLE (leBytes 8 x.toNat)) = x := by
  have hx := x.isLt
  rw [ofLE_leBytes, cell, Nat.mod_eq_of_lt (by omega), BitVec.ofNat_toNat, BitVec.setWidth_eq]

theorem ofBytes_bytes (d : SDesc) : SDesc.ofBytes d.bytes = d := by
  simp [SDesc.ofBytes, SDesc.bytes, leAt, List.drop_append, List.take_of_length_le, List.drop_eq_nil_of_le, cell_ofLE_leBytes]

end Sys2Proof.Proofs
end

section
/-! PROOF. Cells of memory and of the coefficient RAM (R182, R183). -/
namespace Sys2Proof.Proofs
open Sys2Proof.Machine Sys2Proof.Laws

/-- An offset that VCGET and VCPUT accept. -/
theorem coefOffset_ok {a : Cell} (ha : a.toNat % 8 = 0) (h64 : a.toNat < 65536) : ¬ (a.toNat % 8 ≠ 0 ∨ 65536 ≤ a.toNat) := by omega

section
variable {s t : State} {n : Fin 8} {c : Fin 4} {op : DisOp} {p : Pfx} {opc j next off : Nat} {imm : Imm} {d : List Byte}
/-- A context in RUN that waits for the running group stays in RUN, its wait recorded. -/
theorem afterBody_coefWaits (h : (t.sc n c).st = .run) : afterBody n c next (coefWaits (spEnv s n c op p imm opc j) t) =
    t.setSc n c { t.sc n c with coefWait := true } := by
  simp only [coefWaits, spEnv_x, spEnv_put, afterBody, sc_setSc, setSc_setSc]
  rw [← h]

/-- A context that is done with the coefficient RAM, in a state that has left the contexts alone. -/
theorem afterBody_coefDone {k : Nat} {cs rest r : List Cell} (hx : t.sc n c = s.sc n c) (h : (s.sc n c).st = .run)
    (hw : (s.sc n c).win = cs ++ rest) (hk : cs.length = k) :
    Host.Outcome.next (afterBody n c (spNextN s n c op j) (coefDone (spEnv s n c op p imm opc j) t k r)) =
      (.next (spDone t n c { s.sc n c with win := r ++ rest, coefWait := false } (spNext s n c op j)) : Res) := by
  simp only [coefDone, spEnv_x, spEnv_put, hx, swapCells_of_win hw hk]
  exact afterBody_put_run h

/-- A write of a whole word of the coefficient RAM. -/
theorem coefWrite_word (ha : off % 8 = 0) (hd : d.length = 8) :
    coefWrite s n off d = (s.setWordErr (coefKey n off / 8) 0).setBytes (coefKey n off) d := by
  rw [coefWrite, hd, parts_within (by decide) (by omega)]
  simp only [coefWriteParts, coefPut, List.take_of_length_le hd.le, hd, if_true]
end

section
variable {s t : State} {n : Fin 8} {c : Fin 4} {op : DisOp} {p : Pfx} {rest : List Cell} {a v : Cell}
  (h : spireRuns s n c op p vecPage .none 1) (hr : rest.length ≤ 31)
include h hr

/-! ### Memory (R182) -/

theorem vldc_reads {d : List Byte} (hw : (s.sc n c).win = a :: rest) (hg : busyGroup (s.sc n c) = false) (ha : cellBad a.toNat = none)
    (hb : busRead s (sprId n) a.toNat 8 = (t, .ok (d, false))) : exec (.vldc op) s = .next (spOn t n c { t.sc n c with
      win := cell (ofLE d) :: (t.sc n c).win.drop 1 } (spNext s n c op 1)) := by
  show disVec op 0x08 .none vldcS s = _
  rw [disVec_runs_now h, vldcS, withCells_one hw (by omega)]
  simp only [List.getD_cons_zero, spEnv_x, spEnv_n, spEnv_put, hg, Bool.false_eq_true, if_false, ha, hb]
  exact afterBody_put

theorem vstc_stores (hw : (s.sc n c).win = a :: v :: rest) (hg : busyGroup (s.sc n c) = false) (ha : cellBad a.toNat = none)
    (hb : busWrite s (sprId n) a.toNat (leBytes 8 v.toNat) = (t, none)) : exec (.vstc op) s = .next (spOn t n c { t.sc n c with
      win := (t.sc n c).win.drop 2 } (spNext s n c op 1)) := by
  show disVec op 0x09 .none vstcS s = _
  rw [disVec_runs_now h, vstcS, withCells_two hw (by omega)]
  simp only [List.getD_cons_zero, List.getD_cons_succ, spEnv_x, spEnv_n, spEnv_put, hg, Bool.false_eq_true, if_false, ha, hb]
  exact afterBody_put

/-! ### The coefficient RAM (R183) -/

section
variable (ha : a.toNat % 8 = 0) (h64 : a.toNat < 65536)
include ha h64

section
variable (hw : (s.sc n c).win = a :: rest)
include hw

theorem vcget_reads {d : List Byte} (hq : (s.spire n).running = none) (hd : s.dom (pdSpd n.val) = true)
    (hb : coefWord s n (a.toNat / 8) 0 = (t, some d)) : exec (.vcget op) s = .next (spOn t n c { t.sc n c with
      win := cell (ofLE d) :: (t.sc n c).win.drop 1, coefWait := false } (spNext s n c op 1)) := by
  show execVcget op s = _
  rw [execVcget_runs h, vcgetS, withCells_one hw (by omega)]
  simp only [List.getD_cons_zero, if_neg (coefOffset_ok ha h64), spEnv_n, spEnv_bits, hq, hd, hb, Option.isSome_none, Bool.not_true, Bool.false_eq_true,
    if_false]
  exact afterBody_put

theorem vcget_unpowered (hq : (s.spire n).running = none) (hd : s.dom (pdSpd n.val) = false) : exec (.vcget op) s =
    .next (spDone s.fresh.2 n c { s.sc n c with win := s.fresh.1 :: rest, coefWait := false } (spNext s n c op 1)) := by
  show execVcget op s = _
  rw [execVcget_runs h, vcgetS, withCells_one hw (by omega)]
  simp only [List.getD_cons_zero, if_neg (coefOffset_ok ha h64), spEnv_n, hq, hd, Option.isSome_none, Bool.not_false, Bool.false_eq_true, if_false,
    if_true]
  exact afterBody_coefDone (cs := [a]) rfl (st_of_runs h) hw rfl

theorem vcget_waits (hq : (s.spire n).running ≠ none) : exec (.vcget op) s = .next (s.setSc n c { s.sc n c with coefWait := true }) := by
  show execVcget op s = _
  rw [execVcget_runs h, vcgetS, withCells_one hw (by omega)]
  simp only [List.getD_cons_zero, if_neg (coefOffset_ok ha h64), spEnv_n, Option.isSome_iff_ne_none.mpr hq, if_true]
  exact congrArg _ (afterBody_coefWaits (st_of_runs h))
end

section
variable (hw : (s.sc n c).win = a :: v :: rest)
include hw

theorem vcput_stores (hq : (s.spire n).running = none) (hd : s.dom (pdSpd n.val) = true) : exec (.vcput op) s =
    .next (spDone ((s.setWordErr (coefKey n a.toNat / 8) 0).setBytes (coefKey n a.toNat) (leBytes 8 v.toNat)) n c
      { s.sc n c with win := rest, coefWait := false } (spNext s n c op 1)) := by
  show disVec op 0x0B .none vcputS s = _
  rw [disVec_runs_now h, vcputS, withCells_two hw (by omega)]
  simp only [List.getD_cons_zero, List.getD_cons_succ, if_neg (coefOffset_ok ha h64), spEnv_n, hq, hd, Option.isSome_none, Bool.false_eq_true,
    if_false, if_true, coefWrite_word ha (length_leBytes 8 _)]
  exact afterBody_coefDone (cs := [a, v]) rfl (st_of_runs h) hw rfl

theorem vcput_unpowered (hq : (s.spire n).running = none) (hd : s.dom (pdSpd n.val) = false) : exec (.vcput op) s =
    .next (spDone s n c { s.sc n c with win := rest, coefWait := false } (spNext s n c op 1)) := by
  show disVec op 0x0B .none vcputS s = _
  rw [disVec_runs_now h, vcputS, withCells_two hw (by omega)]
  simp only [List.getD_cons_zero, if_neg (coefOffset_ok ha h64), spEnv_n, hq, hd, Option.isSome_none, Bool.false_eq_true, if_false]
  exact afterBody_coefDone (cs := [a, v]) rfl (st_of_runs h) hw rfl

theorem vcput_waits (hq : (s.spire n).running ≠ none) : exec (.vcput op) s = .next (s.setSc n c { s.sc n c with coefWait := true }) := by
  show disVec op 0x0B .none vcputS s = _
  rw [disVec_runs_now h, vcputS, withCells_two hw (by omega)]
  simp only [List.getD_cons_zero, if_neg (coefOffset_ok ha h64), spEnv_n, Option.isSome_iff_ne_none.mpr hq, if_true]
  exact congrArg _ (afterBody_coefWaits (st_of_runs h))
end
end
end

/-- Settles O41: descriptors, their fields, cells of memory and cells of the coefficient RAM. -/
theorem descriptorAndCellInstructions : Obligations.DescriptorAndCellInstructions := by
  refine ⟨fun s n c op p rest h hr => ⟨fun a t d hw hd ha h48 hb => vdld_reads h hr hw hd ha h48 hb,
      fun a t d ds hw hd ha h48 hb => vdst_stores h hr hw hd ha h48 hb,
      fun a hw ha => ⟨fun hd => vdld_unaligned h hr hw hd ha, fun hd => vdst_unaligned h hr hw hd ha⟩,
      fun d ds hd => ⟨vddrop_drops h hd, fun hl => vddup_copies h hd hl, fun e es he => vdswap_swaps h (he ▸ hd)⟩, fun hd => vddrop_empty h hd,
      fun a t d hw hg ha hb => vldc_reads h hr hw hg ha hb, fun a v t hw hg ha hb => vstc_stores h hr hw hg ha hb,
      fun a hw ha h64 => ⟨fun t d hq hd hb => vcget_reads h hr ha h64 hw hq hd hb, fun hq hd => vcget_unpowered h hr ha h64 hw hq hd,
        fun hq => vcget_waits h hr ha h64 hw hq⟩,
      fun a v hw ha h64 => ⟨fun hq hd => vcput_stores h hr ha h64 hw hq hd, fun hq hd => vcput_unpowered h hr ha h64 hw hq hd,
        fun hq => vcput_waits h hr ha h64 hw hq⟩⟩,
    fun s n c op p d ds f hf h hd => ⟨fun hw => vdget_pushes h hf hd hw, fun v rest hw hr => vdset_replaces h hf hd hw hr⟩,
    fun d v i j hi hj => ⟨get_set hi, fun hij => get_set_ne hi hj hij⟩, ofBytes_bytes⟩

end Sys2Proof.Proofs
end

section
/-! PROOF. Groups (R155, R159, R161, R165): VGO, VWAIT and VEND. -/
namespace Sys2Proof.Proofs
open Sys2Proof.Machine Sys2Proof.Laws

/-! ### What collecting the group answers (R159, R211) -/

section
variable {s t : State} {n : Fin 8} {c : Fin 4} {op : DisOp} {p : Pfx} {opc j : Nat} {imm : Imm}
theorem collect_none (h : (t.sc n c).adm = .none) : collect (spEnv s n c op p imm opc j) t = .fine t := by
  simp only [collect, spEnv_x, h]
theorem collect_outstanding (h : (t.sc n c).adm = .queued ∨ (t.sc n c).adm = .running) : collect (spEnv s n c op p imm opc j) t = .waits := by
  rcases h with h | h
  · simp only [collect, spEnv_x, h]
  · simp only [collect, spEnv_x, h]
theorem collect_ended {rs : List Cell} (h : (t.sc n c).adm = .ended rs) (hl : (t.sc n c).win.length + rs.length ≤ 32) :
    collect (spEnv s n c op p imm opc j) t =
      .fine (t.setSc n c { t.sc n c with win := rs.reverse ++ (t.sc n c).win, adm := .none }) := by
  simp only [collect, spEnv_x, spEnv_put, h]
  exact if_neg (Nat.not_lt.mpr hl)
theorem collect_halted {i : FaultImage} (h : (t.sc n c).adm = .halted) (hi : (t.sc n c).image = some i) (hh : (t.sc n c).handler ≠ 0)
    (hl : (t.sc n c).win.length ≤ 30) : collect (spEnv s n c op p imm opc j) t =
      .handler (t.setSc n c { t.sc n c with
        win := cell i.w :: cell (t.sc n c).pc.toNat :: (t.sc n c).win, adm := .none, finfo := (t.sc n c).finfo ||| mask1 30 })
        (t.sc n c).handler.toNat := by
  simp only [collect, spEnv_x, spEnv_put, h, hi, if_pos (And.intro hh hl)]

/-- The state after a group has entered the admission queue (R161). -/
theorem enqueue_eq (g : Group) : enqueue (spEnv s n c op p imm opc j) t g =
    (t.setSc n c { t.sc n c with opened := none, adm := .queued, image := none }).setSpire n
      { (t.setSc n c { t.sc n c with opened := none, adm := .queued, image := none }).spire n with
        queue := (t.spire n).queue ++ [(c, g)] } := by
  simp only [enqueue, spEnv_x, spEnv_put, spEnv_n, spEnv_c, queue_setSc]
theorem sc_enqueue (g : Group) : (enqueue (spEnv s n c op p imm opc j) t g).sc n c =
    { t.sc n c with opened := none, adm := .queued, image := none } := by
  rw [enqueue_eq]
  exact (sc_setSpire _ _ _ _ (by rfl)).trans (sc_setSc _ _ _ _)
theorem queue_enqueue (g : Group) : ((enqueue (spEnv s n c op p imm opc j) t g).spire n).queue = (t.spire n).queue ++ [(c, g)] := by
  rw [enqueue_eq, spire_setSpire]
end

/-! ### VGO, VWAIT and VEND -/

section
variable {s t : State} {n : Fin 8} {c : Fin 4} {x : SpCtx} {next : Nat} {j : Option Nat}
@[simp] theorem sc_spStarted : (spStarted s n c).sc n c = { s.sc n c with st := .run } := sc_setSc _ _ _ _
@[simp] theorem queue_spStarted : ((spStarted s n c).spire n).queue = (s.spire n).queue := queue_setSc _ _ _ _
@[simp] theorem setSc_spStarted : (spStarted s n c).setSc n c x = s.setSc n c x := setSc_setSc _ _ _ _ _
theorem afterBody_done : afterBody n c next (.done t j) = t.setSc n c { t.sc n c with pc := BitVec.ofNat 48 (j.getD next) } := rfl
/-- An instruction that waits, leaving the rest as it was. -/
theorem afterBody_wait {st : SpSt} : afterBody n c next (.wait (spStarted s n c) st) = s.setSc n c { s.sc n c with st := st } := by
  simp only [afterBody, sc_spStarted, setSc_spStarted]
end

section
variable {s : State} {n : Fin 8} {c : Fin 4} {op : DisOp} {p : Pfx} (h : spireRuns s n c op p vecPage .group 1)
include h

theorem vgo_queues {g : Group} (ha : (s.sc n c).adm = .none) (ho : (s.sc n c).opened = some g) (hg : vgoBad g = none) :
    ∃ t, exec (.vgo op) s = .next t ∧ (t.spire n).queue = (s.spire n).queue ++ [(c, g)] ∧ t.mem = s.mem ∧ t.regs = s.regs ∧
      t.sc n c = { s.sc n c with st := .run, opened := none, adm := .queued, image := none, pc := spNext s n c op 1 } := by
  have hexec : exec (.vgo op) s = .next (afterBody n c (spNextN s n c op 1)
      (.done (enqueue (spEnv s n c op p { size := 0, value := 0 } 0x05 1) (spStarted s n c) g) none)) := by
    show disVec op 0x05 .group vgoS s = _
    rw [disVec_runs h, vgoS, collect_none (by rw [sc_spStarted]; exact ha)]
    simp only [spEnv_x, sc_spStarted, ho, hg]
  refine ⟨_, hexec, ?_, ?_, ?_, ?_⟩
  · rw [afterBody_done, queue_setSc, queue_enqueue, queue_spStarted]
  · rw [afterBody_done, enqueue_eq]; rfl
  · rw [afterBody_done, enqueue_eq]; rfl
  · rw [afterBody_done, sc_setSc, sc_enqueue, sc_spStarted]; rfl

/-- While the group is outstanding VGO, VWAIT and VEND wait at their address (R159). -/
theorem group_waits (ha : (s.sc n c).adm = .queued ∨ (s.sc n c).adm = .running) :
    exec (.vgo op) s = .next (s.setSc n c { s.sc n c with st := .gwait }) ∧
    exec (.vwait op) s = .next (s.setSc n c { s.sc n c with st := .gwait }) ∧
    exec (.vend op) s = .next (s.setSc n c { s.sc n c with st := .gwait }) := by
  have hc (opc : Nat) : collect (spEnv s n c op p { size := 0, value := 0 } opc 1) (spStarted s n c) = .waits :=
    collect_outstanding (by rw [sc_spStarted]; exact ha)
  refine ⟨?_, ?_, ?_⟩
  · show disVec op 0x05 .group vgoS s = _
    rw [disVec_runs h, vgoS, hc]
    exact congrArg _ afterBody_wait
  · show disVec op 0x06 .group vwaitS s = _
    rw [disVec_runs h, vwaitS, hc]
    exact congrArg _ afterBody_wait
  · show disVec op 0x07 .group vendS s = _
    rw [disVec_runs h, vendS, hc]
    exact congrArg _ afterBody_wait

theorem vwait_none (ha : (s.sc n c).adm = .none) : exec (.vwait op) s = .next (spDone s n c (s.sc n c) (spNext s n c op 1)) := by
  show disVec op 0x06 .group vwaitS s = _
  rw [disVec_runs h, vwaitS, collect_none (by rw [sc_spStarted]; exact ha)]
  simp only [afterBody_done, sc_spStarted, setSc_spStarted]
  rfl

theorem vwait_ended {rs : List Cell} (ha : (s.sc n c).adm = .ended rs) (hl : (s.sc n c).win.length + rs.length ≤ 32) :
    exec (.vwait op) s = .next (spDone s n c { s.sc n c with win := rs.reverse ++ (s.sc n c).win, adm := .none } (spNext s n c op 1)) := by
  show disVec op 0x06 .group vwaitS s = _
  rw [disVec_runs h, vwaitS, collect_ended (by rw [sc_spStarted]; exact ha) (by rw [sc_spStarted]; exact hl)]
  simp only [afterBody_done, sc_spStarted, setSc_spStarted, sc_setSc, setSc_setSc]
  rfl

theorem vwait_halted {i : FaultImage} (ha : (s.sc n c).adm = .halted) (hi : (s.sc n c).image = some i) (hh : (s.sc n c).handler ≠ 0)
    (hl : (s.sc n c).win.length ≤ 30) : ∃ t, exec (.vwait op) s = .next t ∧ (t.sc n c).pc = (s.sc n c).handler ∧ (t.sc n c).adm = .none ∧
      (t.sc n c).win = cell i.w :: cell (s.sc n c).pc.toNat :: (s.sc n c).win ∧ (t.sc n c).image = some i := by
  have hc := collect_halted (s := s) (t := spStarted s n c) (op := op) (p := p) (opc := 0x06) (j := 1) (imm := { size := 0, value := 0 })
    (by rw [sc_spStarted]; exact ha) (by rw [sc_spStarted]; exact hi) (by rw [sc_spStarted]; exact hh) (by rw [sc_spStarted]; exact hl)
  have hexec : exec (.vwait op) s = _ := disVec_runs (b := vwaitS) (opc := 0x06) h
  rw [vwaitS, hc] at hexec
  refine ⟨_, hexec, ?_⟩
  simp only [afterBody_done, sc_spStarted, setSc_spStarted, sc_setSc, Option.getD_some, BitVec.ofNat_toNat, BitVec.setWidth_eq]
  exact ⟨trivial, trivial, trivial, hi⟩

/-- VEND without a group to collect pops the completion cell (R165). -/
theorem vend_pops {v : Cell} {rest : List Cell} (ha : (s.sc n c).adm = .none) (hw : (s.sc n c).win = v :: rest) : exec (.vend op) s =
    .next (afterBody n c (spNextN s n c op 1) (.done (spEnd (s.setSc n c { s.sc n c with st := .run, win := rest }) n c (v.toNat % 256)
      (w32 (v.toNat / 256))) none)) := by
  show disVec op 0x07 .group vendS s = _
  rw [disVec_runs h, vendS, collect_none (by rw [sc_spStarted]; exact ha)]
  simp only [spEnv_x, spEnv_put, spEnv_n, spEnv_c, sc_spStarted, setSc_spStarted, hw]

theorem vend_ends {v : Cell} {rest : List Cell} (ha : (s.sc n c).adm = .none) (hw : (s.sc n c).win = v :: rest) :
    ∃ t, exec (.vend op) s = .next t ∧ (t.sc n c).st = .idle ∧
      (t.sc n c).status = byte (v.toNat % 256) ∧ (t.sc n c).win = rest ∧ (t.sc n c).opened = none ∧ (t.sc n c).ift = none ∧
      t.mem = s.mem ∧
      ((s.sc n c).ift = none → Regs.wf s = true → regBit (t.reg (sprPage n) oIrqRaw) (4 + c.val) = true) ∧
      (∀ i e, (s.sc n c).ift = some i → s.ift i = some e → e.st ≠ 2 → t.regs = s.regs ∧
        t.ift i = some { e with st := 2, status := vendStatus (v.toNat % 256), result := w32 (v.toNat / 256) }) := by
  refine ⟨_, vend_pops h ha hw, ?_⟩
  simp only [afterBody_done, sc_setSc, sc_spEnd]
  refine ⟨rfl, rfl, rfl, rfl, rfl, ?_, fun hi hr => ?_, fun i e hi he hst => ?_⟩
  · rw [setSc_mem, spEnd_mem, setSc_mem]
  · exact spEnd_raises (by rw [sc_setSc]; exact hi) hr
  · exact ⟨spEnd_regs (by rw [sc_setSc]; exact hi), ift_spEnd (by rw [sc_setSc]; exact hi) he hst⟩
end

end Sys2Proof.Proofs
end

section
/-! PROOF. Handlers, resumption and mailboxes of the spires (R184, R211-R213). -/
namespace Sys2Proof.Proofs
open Sys2Proof.Machine Sys2Proof.Laws

/-! ### VONF, VFREC, VFDESC and VRESUME (R211-R213) -/

section
variable {s : State} {n : Fin 8} {c : Fin 4} {op : DisOp} {p : Pfx} {rest : List Cell} {a : Cell}
  (h : spireRuns s n c op p vecPage .none 1) (hw : (s.sc n c).win = a :: rest) (hr : rest.length ≤ 31)
include h hw hr

theorem vonf_sets : exec (.vonf op) s =
    .next (spDone s n c { s.sc n c with win := rest, handler := BitVec.ofNat 48 a.toNat } (spNext s n c op 1)) := by
  show disVec op 0x0E .none vonfS s = _
  rw [disVec_runs_now h, vonfS, withCells_one hw (by omega)]
  simp only [List.getD_cons_zero, spEnv_x, spEnv_put, swapCells_one hw]
  exact afterBody_put_run (st_of_runs h)

theorem vfrec_pushes (ha : a.toNat ≤ 7) : exec (.vfrec op) s = .next (spDone s n c { s.sc n c with
    win := cell (spctxRead (s.sc n c) (0x20 + 4 * a.toNat)).toNat :: rest } (spNext s n c op 1)) := by
  show disVec op 0x0F .none vfrecS s = _
  rw [disVec_runs_now h, vfrecS, withCells_one hw (by omega)]
  simp only [List.getD_cons_zero, if_neg (Nat.not_lt.mpr ha), spEnv_x, spEnv_put, swapCells_one hw]
  exact afterBody_put_run (st_of_runs h)

theorem vfdesc_takes {i : FaultImage} {d : SDesc} (hi : (s.sc n c).image = some i) (hd : i.group.descs[a.toNat]? = some d)
    (hl : (s.sc n c).descs.length < 8) : exec (.vfdesc op) s = .next (spDone s n c { s.sc n c with
      win := rest, descs := d :: (s.sc n c).descs } (spNext s n c op 1)) := by
  have hb : ((s.sc n c).image.bind fun i => i.group.descs[a.toNat]?) = some d := by rw [hi]; exact hd
  show disVec op 0x10 .none vfdescS s = _
  rw [disVec_runs_now h, vfdescS, withCells_one hw (by omega)]
  simp only [List.getD_cons_zero, spEnv_x, spEnv_put, hb, if_neg (Nat.not_le.mpr hl), swapCells_one hw]
  exact afterBody_put_run (st_of_runs h)

/-- A group whose restart rule is 0 enters the queue again as it was (R212). -/
theorem vresume_queues {i : FaultImage} (hi : (s.sc n c).image = some i) (hadm : (s.sc n c).adm = .none) (ha : a = 0)
    (hres : i.group.restart0 = true) (hn : 0 < i.group.n) : ∃ t, exec (.vresume op) s = .next t ∧
      (t.spire n).queue = (s.spire n).queue ++ [(c, i.group)] ∧ (t.sc n c).adm = .queued ∧ (t.sc n c).opened = (s.sc n c).opened ∧
      (t.sc n c).win = rest ∧ (t.sc n c).image = none ∧ (t.sc n c).pc = spNext s n c op 1 ∧ t.mem = s.mem := by
  subst ha
  have hsk : ¬ (true && BitVec.toNat (0 : Cell) != 0) = true := by decide
  have hexec : exec (.vresume op) s = _ := disVec_runs_now (b := vresumeS) (opc := 0x11) h
  rw [vresumeS, withCells_one hw (by omega)] at hexec
  simp only [List.getD_cons_zero, spEnv_x, spEnv_put, hi, hadm, hres, if_true, swapCells_one hw, if_neg (Nat.not_le.mpr hn), if_neg hsk,
    afterBody_done, sc_enqueue, sc_setSc, setSc_setSc] at hexec
  refine ⟨_, hexec, ?_⟩
  rw [sc_setSc, queue_setSc, queue_enqueue, queue_setSc, enqueue_eq]
  exact ⟨rfl, rfl, rfl, rfl, rfl, rfl, rfl⟩
end

/-! ### VMBRING and VMBWAIT (R184) -/

section
variable {s t : State} {n : Fin 8} {c : Fin 4} {op : DisOp} {p : Pfx} {rest : List Cell} {a v : Cell}

theorem vmbring_rings (h : spireRuns s n c op p vecPage .none 1) (hw : (s.sc n c).win = a :: v :: rest) (hr : rest.length ≤ 32)
    (ha : a.toNat < 64) (hb : busWrite s (sprId n) (regAddr (mbPage a.toNat) (mbOff a.toNat + 0x20)) (leBytes 4 (v.toNat % 2 ^ 31)) = (t, none)) :
    exec (.vmbring op) s = .next (spOn t n c { t.sc n c with win := (t.sc n c).win.drop 2 } (spNext s n c op 1)) := by
  show disVec op 0x0C .none vmbringS s = _
  rw [disVec_runs_now h, vmbringS, withCells_two hw (by omega)]
  simp only [List.getD_cons_zero, List.getD_cons_succ, if_neg (Nat.not_le.mpr ha), spEnv_n, spEnv_x, spEnv_put, hb]
  exact afterBody_put

section
variable (h : spireRuns s n c op p vecPage .mailbox 1) (hw : (s.sc n c).win = a :: v :: rest) (hr : rest.length ≤ 31)
include h hw hr

theorem vmbwait_of_no_bits (hm : v.toNat % 2 ^ 32 = 0) :
    exec (.vmbwait op) s = .next (spDone s n c { s.sc n c with win := 0 :: rest } (spNext s n c op 1)) := by
  show disVec op 0x0D .mailbox vmbwaitS s = _
  rw [disVec_runs h, vmbwaitS, withCells_two (by rw [sc_spStarted]; exact hw) (by omega)]
  have hsw : swapCells { s.sc n c with st := .run } 2 [0] = { s.sc n c with st := .run, win := 0 :: rest } := swapCells_two hw
  simp only [List.getD_cons_succ, List.getD_cons_zero, if_pos hm, spEnv_x, spEnv_put, sc_spStarted, setSc_spStarted, hsw]
  exact afterBody_put_run rfl

variable {d : List Byte} {q : Bool} (hm : v.toNat % 2 ^ 32 ≠ 0) (ha : a.toNat < 64)
  (hb : busRead (s.setSc n c { s.sc n c with st := .run }) (sprId n) (regAddr (mbPage a.toNat) (mbOff a.toNat + 0x24)) 4 = (t, .ok (d, q)))
include hm ha hb

theorem vmbwait_waits (hd : ofLE d &&& (v.toNat % 2 ^ 32) = 0) : exec (.vmbwait op) s = .next (t.setSc n c { t.sc n c with st := .mwait }) := by
  show disVec op 0x0D .mailbox vmbwaitS s = _
  rw [disVec_runs h, vmbwaitS, withCells_two (by rw [sc_spStarted]; exact hw) (by omega)]
  simp only [List.getD_cons_succ, List.getD_cons_zero, if_neg hm, if_neg (Nat.not_le.mpr ha), spEnv_n, spStarted, hb, hd, if_true, afterBody]

theorem vmbwait_takes {u : State} (hd : ofLE d &&& (v.toNat % 2 ^ 32) ≠ 0)
    (hu : busWrite t (sprId n) (regAddr (mbPage a.toNat) (mbOff a.toNat + 0x24)) (leBytes 4 (ofLE d &&& (v.toNat % 2 ^ 32))) = (u, none)) :
    exec (.vmbwait op) s = .next (spOn u n c { u.sc n c with
      win := cell (ofLE d &&& (v.toNat % 2 ^ 32)) :: (u.sc n c).win.drop 2 } (spNext s n c op 1)) := by
  show disVec op 0x0D .mailbox vmbwaitS s = _
  rw [disVec_runs h, vmbwaitS, withCells_two (by rw [sc_spStarted]; exact hw) (by omega)]
  simp only [List.getD_cons_succ, List.getD_cons_zero, if_neg hm, if_neg (Nat.not_le.mpr ha), spEnv_n, spEnv_x, spEnv_put, spStarted, hb,
    if_neg hd, hu]
  exact afterBody_put
end
end

/-- Settles O42: groups queued and collected, programs ended, handlers, resumption and mailboxes. -/
theorem groupsMailboxesAndHandlers : Obligations.GroupsMailboxesAndHandlers := by
  intro s n c op p
  refine ⟨fun h _ => ⟨fun g ha ho hg => vgo_queues h ha ho hg, group_waits h, vwait_none h, fun rs ha hl => vwait_ended h ha hl,
      fun i ha hi hh hl => vwait_halted h ha hi hh hl, fun v rest ha hw => vend_ends h ha hw⟩,
    fun h => ⟨fun a rest hw hr => ⟨vonf_sets h hw hr, vfrec_pushes h hw hr, fun i d hi hd hl => vfdesc_takes h hw hr hi hd hl,
      fun i hi hadm ha hres hn => vresume_queues h hw hr hi hadm ha hres hn⟩, fun a v rest t hw hr ha hb => vmbring_rings h hw hr ha hb⟩,
    fun h a m rest hw hr => ⟨vmbwait_of_no_bits h hw hr, fun t d q hm ha hb => ⟨vmbwait_waits h hw hr hm ha hb,
      fun u hd hu => vmbwait_takes h hw hr hm ha hb hd hu⟩⟩⟩

end Sys2Proof.Proofs
end

section
/-! PROOF. The datapath of a spire (R157-R161, R196, R203, R207-R210): admission, steps, completion and halts. -/
namespace Sys2Proof.Proofs
open Sys2Proof.Machine Sys2Proof.Laws

/-! ### The coefficient RAM leaves the spires alone (R162) -/

section
variable (s : State) (n : Fin 8)
@[simp] theorem fresh_spires : s.fresh.2.spires = s.spires := rfl
@[simp] theorem freshBytes_spires (k : Nat) : (s.freshBytes k).2.spires = s.spires := by
  obtain ⟨_, h⟩ := freshBytes_only s k
  rw [h]
@[simp] theorem sprCE_spires : (sprCE s n).spires = s.spires := irqBit_spires _ _ _
@[simp] theorem sprUE_spires (wh word : Nat) : (sprUE s n wh word).spires = s.spires := by
  unfold sprUE
  dsimp only
  split
  · exact irqBit_spires _ _ _
  · exact irqBit_spires _ _ _
@[simp] theorem coefWord_spires (k bits : Nat) : (coefWord s n k bits).1.spires = s.spires := by
  unfold coefWord
  dsimp only
  split
  · split
    · simp
    · split
      · simp
      · simp
  · split
    · simp
    · split
      · simp
      · simp
@[simp] theorem coefPut_spires (off : Nat) (d : List Byte) : (coefPut s n off d).spires = s.spires := by
  unfold coefPut
  dsimp only
  split
  · simp
  · simp
theorem coefWriteParts_spires (l : List (Nat × Nat)) (d : List Byte) : (coefWriteParts s n l d).spires = s.spires := by
  induction l generalizing s d with
  | nil => rfl
  | cons x l ih => rw [coefWriteParts, ih, coefPut_spires]
@[simp] theorem coefWrite_spires (off : Nat) (d : List Byte) : (coefWrite s n off d).spires = s.spires := coefWriteParts_spires _ _ _ _
@[simp] theorem writeBack_spires (l : List (GOp × OpRun)) : (writeBack s n l).spires = s.spires := by
  induction l generalizing s with
  | nil => rfl
  | cons x l ih =>
    rw [writeBack, ih]
    split
    · rfl
    · exact coefWrite_spires _ _ _ _
end

/-! ### The running group -/

section
variable (s : State) (n : Fin 8) (r : Option GRun)
@[simp] theorem running_setRun : ((s.setRun n r).spire n).running = r := by rw [State.setRun, spire_setSpire]
@[simp] theorem sc_setRun (c : Fin 4) : (s.setRun n r).sc n c = s.sc n c := sc_setSpire _ _ _ _ (by rfl)
@[simp] theorem setRun_mem : (s.setRun n r).mem = s.mem := rfl
@[simp] theorem setRun_regs : (s.setRun n r).regs = s.regs := rfl
end

/-! ### Admission (R161) -/

section
variable {s : State} {n : Fin 8}
theorem groupAdmit_takes {c : Fin 4} {g : Group} {q : List (Fin 4 × Group)} (hon : s.spdOn n = true) (hr : (s.spire n).running = none)
    (hh : s.coefHeld n = false) (hq : (s.spire n).queue = (c, g) :: q) :
    groupAdmit s n = (s.setSpire n { s.spire n with queue := q, running := some { ctx := c, group := g } }).setSc n c
      { s.sc n c with adm := .running } := by
  have hc : (s.spdOn n && ((s.spire n).running.isNone && !(s.coefHeld n))) = true := by rw [hon, hr, hh]; rfl
  have hx : (s.setSpire n { s.spire n with queue := q, running := some { ctx := c, group := g } }).sc n c = s.sc n c :=
    sc_setSpire _ _ _ _ (by rfl)
  simp only [groupAdmit, if_pos hc, hq, hx]

theorem groupAdmit_idle (h : (s.spire n).running ≠ none ∨ s.coefHeld n = true ∨ (s.spire n).queue = []) : groupAdmit s n = s := by
  rcases h with h | h | h
  · have hr : (s.spire n).running.isNone = false := by rwa [Option.isNone_eq_false_iff, Option.isSome_iff_ne_none]
    simp [groupAdmit, hr]
  · simp [groupAdmit, h]
  · simp [groupAdmit, h]
end

/-! ### Steps (R157, R206-R209) -/

section
variable {s : State} {n : Fin 8} {r : GRun} {o : StepOut} {xs : List (Nat × Nat × List Byte)}

theorem execGroupStep_runs (hon : s.spdOn n = true) (hr : (s.spire n).running = some r) (hh : r.halt = none)
    (hn : r.step * r.group.e < r.group.n) : exec (.groupStep n) s = .next (groupStep (groupCounters s n) n r) := by
  have hc : (s.spdOn n && (r.halt.isNone && decide (r.step * r.group.e < r.group.n))) = true := by simp [hon, hh, hn]
  show execGroupStep n s = _
  simp only [execGroupStep, hr, if_pos hc]
  rfl

variable (hf : stepFull s n r = (o, xs))
include hf
theorem groupStep_faults {f : GFault} (hs : r.group.store = none) (hl : lowestFault o.faults = some f) :
    groupStep s n r = haltAt o.s n { r with marks := r.marks ++ o.marks } f o.hole := by
  simp only [groupStep, hf, hs, hl]
theorem groupStep_goes (hs : r.group.store = none) (hl : o.faults = []) :
    groupStep s n r = o.s.setRun n (some { r with step := r.step + 1, runs := o.runs, marks := r.marks ++ o.marks }) := by
  simp only [groupStep, hf, hs, hl, lowestFault]
theorem groupStep_coef {i : Nat} {op : GOp} {d : SrcRef} (hs : r.group.store = some (i, op, d)) (hop : op.op = .vcld) (hl : o.faults = []) :
    groupStep s n r = (xs.foldl (fun t x => coefWrite t n x.2.1 x.2.2) o.s).setRun n
      (some { r with step := r.step + 1, runs := o.runs, marks := r.marks ++ o.marks }) := by
  simp only [groupStep, hf, hs, hl, lowestFault, if_pos hop]
theorem groupStep_stores {i : Nat} {op : GOp} {d : SrcRef} (hs : r.group.store = some (i, op, d)) (hop : op.op ≠ .vcld) (hl : o.faults = [])
    (hst : storeFaults o.s n r.group i d xs = []) : ∃ l, groupStep s n r = (doWrites o.s n r.step r.recent (stepWrites xs)).1.setRun n
      (some { r with step := r.step + 1, runs := o.runs, marks := r.marks ++ o.marks, recent := l }) := by
  refine ⟨(doWrites o.s n r.step r.recent (stepWrites xs)).2.1.filter fun x => decide (r.step + 1 < x.step + 64), ?_⟩
  simp only [groupStep, hf, hs, hl, hst, lowestFault, if_neg hop]
end

/-! ### Completion and halt (R160, R203, R207, R208) -/

@[simp] theorem addMarks_stop (x : SpCtx) (ms : List (Nat × Nat)) : (addMarks x ms).stop = x.stop := by cases ms <;> rfl

section
variable {s : State} {n : Fin 8} {r : GRun}
/-- The end of a group that no STOP waits for. -/
theorem groupEnd_running {f : SpCtx → SpCtx} (ha : (s.sc n r.ctx).adm = .running) (hs : (f (s.sc n r.ctx)).stop = false) :
    groupEnd s n r f = (s.setRun n none).setSc n r.ctx (f (s.sc n r.ctx)) := by
  simp only [groupEnd, sc_setRun, if_pos ha, spStopDue, sc_setSc, hs, Bool.false_eq_true, if_false]

theorem execGroupComplete_runs (hon : s.spdOn n = true) (hr : (s.spire n).running = some r) (hh : r.halt = none)
    (hn : r.group.n ≤ r.step * r.group.e) (ha : (s.sc n r.ctx).adm = .running) (hs : (s.sc n r.ctx).stop = false) :
    exec (.groupComplete n) s = .next ((((writeBack s n (r.group.ops.zip r.runs)).setReg (sprPage n) 0x108
      (s.reg (sprPage n) 0x108 + 1)).setRun n none).setSc n r.ctx { addMarks (s.sc n r.ctx) r.marks with adm := .ended (groupResults r) }) := by
  have hc : (s.spdOn n && (r.halt.isNone && decide (r.group.n ≤ r.step * r.group.e))) = true := by simp [hon, hh, hn]
  have hx : ((writeBack s n (r.group.ops.zip r.runs)).setReg (sprPage n) 0x108 (s.reg (sprPage n) 0x108 + 1)).sc n r.ctx = s.sc n r.ctx :=
    sc_congr ((setReg_spires ..).trans (writeBack_spires s n _))
  show execGroupComplete n s = _
  simp only [execGroupComplete, hr, if_pos hc]
  rw [groupEnd_running (by rw [hx]; exact ha) (by rw [hx]; exact (addMarks_stop _ _).trans hs), hx]
  rfl

theorem execGroupHalt_runs {f : GFault} {w : Nat} (hr : (s.spire n).running = some r) (hh : r.halt = some (f, w))
    (ha : (s.sc n r.ctx).adm = .running) (hs : (s.sc n r.ctx).stop = false) :
    exec (.groupHalt n) s = .next ((s.setRun n none).setSc n r.ctx (haltRecord (s.sc n r.ctx) r f w)) := by
  show execGroupHalt n s = _
  simp only [execGroupHalt, hr, hh]
  rw [groupEnd_running ha ((addMarks_stop _ _).trans hs)]
  rfl
end

/-- Cause, stream and operation of a fault record (R203). -/
theorem finfoWord_fields (old : Word32) {cause stream opn : Nat} (hc : cause < 32) (hs : stream < 4) (ho : opn < 8) :
    regFld (finfoWord old cause stream opn) 26 5 = cause ∧ regFld (finfoWord old cause stream opn) 24 2 = stream ∧
      regFld (finfoWord old cause stream opn) 21 3 = opn := by
  have h : (finfoWord old cause stream opn).toNat = 2 ^ 31 + cause * 2 ^ 26 + stream * 2 ^ 24 + opn * 2 ^ 21 + old.toNat % 2 ^ 16 := by
    rw [finfoWord, w32, BitVec.toNat_ofNat]
    omega
  simp only [regFld, h, fld_eq_div_mod]
  omega

/-! ### The program buffer and the fence (R168, R175) -/

section
variable {s t : State} {n : Fin 8} {c : Fin 4}
theorem execProgramFetch_brings {d : List Byte} (hs : seqRuns s n = true) (hp : progOn s (s.sc n c) = true) (hst : (s.sc n c).st = .run)
    (hm : (s.spire n).pbuf.any (fun l => l.addr == (s.sc n c).pc.toNat / 64 * 64) = false) (ht : textPlace (s.sc n c).pc.toNat = true)
    (hb : busRead s (sprId n) ((s.sc n c).pc.toNat / 64 * 64) 64 = (t, .ok (d, false))) (hl : (t.spire n).pbuf.length < 256) :
    exec (.programFetch n c) s = .next (t.setSpire n { t.spire n with
      pbuf := ⟨(s.sc n c).pc.toNat / 64 * 64, d⟩ :: (t.spire n).pbuf }) := by
  have hline : pbLine s n (s.sc n c).pc.toNat = (t.setSpire n { t.spire n with
      pbuf := ⟨(s.sc n c).pc.toNat / 64 * 64, d⟩ :: (t.spire n).pbuf }, none) := by
    simp only [pbLine, hm, ht, hb, if_pos hl, Bool.false_eq_true, if_false, Bool.not_true]
  have hc : (seqRuns s n && (progOn s (s.sc n c) && (s.sc n c).st == .run)) = true := by rw [hs, hp, hst]; rfl
  show execProgramFetch n c s = _
  simp only [execProgramFetch, if_pos hc, hline]
  rfl

/-- SPR flag 10 and bit 2 of STAT tell that a fenced spire is quiet (R175). -/
theorem execFencedSet_marks (hf : s.spireFenced n = true) (hst : ∀ c, (s.sc n c).st = .idle ∨ (s.sc n c).st = .fault)
    (hq : (s.spire n).queue = []) (hr : (s.spire n).running = none) (hb : regBit (s.reg (sprPage n) oStat) 2 = false) :
    exec (.fencedSet n) s = .next ((s.setReg (sprPage n) oStat (s.reg (sprPage n) oStat ||| 4)).irqBit (sprPage n) 10) := by
  have hall : ((List.finRange 4).all fun c => (s.sc n c).st == .idle || (s.sc n c).st == .fault) = true := by
    rw [List.all_eq_true]
    intro c _
    rcases hst c with h | h <;> rw [h] <;> rfl
  have hc : (s.spireFenced n && (((List.finRange 4).all (fun c => (s.sc n c).st == .idle || (s.sc n c).st == .fault) &&
      ((s.spire n).queue.isEmpty && (s.spire n).running.isNone)) && !(s.regB (sprPage n) oStat 2))) = true := by
    rw [hf, hall, hq, hr, State.regB, hb]
    rfl
  exact congrArg _ (if_pos hc)
theorem stat_fencedSet {v : Word32} (h : Regs.wf s = true) :
    regBit (((s.setReg (sprPage n) oStat (v ||| 4)).irqBit (sprPage n) 10).reg (sprPage n) oStat) 2 = true := by
  have h40 : sprPage n ≠ 0x40 := by simp only [sprPage]; omega
  rw [reg_irqBit_ne _ _ _ (by decide) h40 (fun h => absurd h.2 (by decide)), reg_setReg _ _ _ _ h, regBit_or]
  simp [regBit]
end

end Sys2Proof.Proofs
end

section
/-! PROOF. The SPR pages (R164, R167, R173, R175): start, stop and reset of contexts. -/
namespace Sys2Proof.Proofs
open Sys2Proof.Machine Sys2Proof.Laws

/-! ### Writes to a spire's page -/

theorem pageBlock_spr : ∀ n : Fin 8, pageBlock (sprPage n) = some (.spr, n.val) := by decide
/-- Where the control register of a context stands. -/
theorem arrIx_cctl : ∀ c : Fin 4, arrIx (0x200 + 64 * c.val) 0x200 0x40 4 = some (c.val, 0) := by decide
theorem sprInfo_cctl (n : Nat) (c : Fin 4) : sprInfo n (0x200 + 64 * c.val) = wor 3 := by
  fin_cases c <;> rfl

section
variable {s t : State} {id : MasterId} {n : Fin 8} {c : Fin 4} {v : Word32}

theorem powerBad_spr {off : Nat} (h : s.pageOn (sprPage n) = true) : powerBad s (sprPage n) off = false := by
  rw [powerBad, h, Bool.not_true, Bool.and_false]

theorem regOpen_cctl (hi : s.issues id = true) (hon : s.pageOn (sprPage n) = true) :
    RegOpen s id (sprPage n) (0x200 + 64 * c.val) .spr n.val { rwc := 0, wo := 3 } := {
  issues := hi, page_lt := by simp only [sprPage]; omega, above := by omega, off_lt := by omega, aligned := by omega,
  block := pageBlock_spr n, power := powerBad_spr hon
  info := by
    have hlo : ¬ 0x200 + 64 * c.val < 0x100 := by omega
    simp only [regInfo, pageBlock_spr, if_neg hlo, blockInfo, sprInfo_cctl]
    rfl
  identity := by simp only [identityBad, pageBlock_spr]
  access := Bool.and_false _ }

/-- A write to a context's control register is what the context makes of it. -/
theorem cmdReg_cctl (hi : s.issues id = true) (hon : s.pageOn (sprPage n) = true) (h : spctxWrite s n c 0 v = (t, none)) :
    cmdReg s id (sprPage n) (0x200 + 64 * c.val) v = { t with resp := .done } := by
  refine (regOpen_cctl hi hon).done ?_
  have hc : (⟨c.val % 4, Nat.mod_lt _ (by decide)⟩ : Fin 4) = c := Fin.ext (Nat.mod_eq_of_lt c.isLt)
  have h8 : ¬ 0x200 + 64 * c.val = oCtl := by show ¬ 0x200 + 64 * c.val = 8; omega
  have h100 : ¬ 0x200 + 64 * c.val = 0x100 := by omega
  simp only [blockWrite, n.isLt, dite_true, sprWrite, if_neg h8, if_neg h100, arrIx_cctl, Fin.eta, hc, h]

/-- A write to CTL, which keeps EN. -/
theorem cmdReg_ctl (hi : s.issues id = true) (hcu : s.custodyOf id = true) (hon : s.pageOn (sprPage n) = true)
    (h : sprWrite s n oCtl v = some (t, none)) : cmdReg s id (sprPage n) oCtl v = { t with resp := .done } := by
  refine cmdReg_done hi (by simp only [sprPage]; omega) (by decide) (pageBlock_spr n) (by decide) (powerBad_spr hon)
    (i := { rw := 2, rwc := 1, wo := 0xC }) ?_ ?_ ?_ ?_
  · simp only [regInfo, pageBlock_spr]
    rfl
  · simp only [identityBad, pageBlock_spr]
  · rw [accessBad, hcu]; rfl
  · have h8 : ¬ (oCtl < 0x100 ∧ oCtl ≠ oCtl) := fun k => k.2 rfl
    simp only [regWriteOk, pageBlock_spr, if_neg h8, blockWrite, n.isLt, dite_true, Fin.eta, h, Option.getD_some]
end

/-! ### GO and STOP (R164, R167) -/

section
variable {s : State} {n : Fin 8} {c : Fin 4} (hq : s.qeCtx n c = false)
include hq
theorem spctxWrite_go (hst : (s.sc n c).st = .idle) (hcs : s.csOk n = true) (hf : s.spireFenced n = false) :
    spctxWrite s n c 0 1 = (spStart s n c (s.sc n c).cpc [(s.sc n c).arg0, (s.sc n c).arg1] none, none) := by
  simp [spctxWrite, hq, hst, hcs, hf, regBit]
theorem spctxWrite_stop : spctxWrite s n c 0 2 = (spStop s n c, none) := by
  simp [spctxWrite, hq, regBit]
end

/-- The context that GO starts: both arguments on its stack and no program left over. -/
def startedCtx (x : SpCtx) (pc : Addr) (cells : List Cell) : SpCtx :=
  { st := .run, pc := pc, win := cells.reverse, status := x.status, cpc := x.cpc, arg0 := x.arg0, arg1 := x.arg1 }
theorem sc_spStart (s : State) (n : Fin 8) (c : Fin 4) (pc : Addr) (cells : List Cell) :
    (spStart s n c pc cells none).sc n c = startedCtx (s.sc n c) pc cells := sc_setSc ..

section
variable {s : State} {n : Fin 8} {c : Fin 4}
/-- STOP while the group is outstanding waits for it. -/
theorem spStop_waits (hi : (s.sc n c).st ≠ .idle) (hf : (s.sc n c).st ≠ .fault) (ha : (s.sc n c).adm = .queued ∨ (s.sc n c).adm = .running) :
    spStop s n c = s.setSc n c { s.sc n c with stop := true, coefWait := false } := by
  cases hs : (s.sc n c).st with
  | idle => exact absurd hs hi
  | fault => exact absurd hs hf
  | _ => rcases ha with ha | ha <;> simp only [spStop, hs, ha]
theorem spStop_ends (hi : (s.sc n c).st ≠ .idle) (hf : (s.sc n c).st ≠ .fault) (hq : (s.sc n c).adm ≠ .queued) (hr : (s.sc n c).adm ≠ .running) :
    spStop s n c = spEnd s n c 7 0 := by
  cases hs : (s.sc n c).st with
  | idle => exact absurd hs hi
  | fault => exact absurd hs hf
  | _ =>
    cases ha : (s.sc n c).adm with
    | queued => exact absurd ha hq
    | running => exact absurd ha hr
    | _ => simp only [spStop, hs, ha]
theorem spStop_fault (hf : (s.sc n c).st = .fault) :
    spStop s n c = s.setSc n c { s.sc n c with st := .idle, opened := none, adm := .none, image := none, stop := false, ift := none } := by
  simp only [spStop, hf]
end

/-! ### Spire reset (R173, R397, R400) -/

theorem evtEdge_spires (old s : State) (e : Nat) : (evtEdge old s e).spires = s.spires := by
  obtain ⟨-, he⟩ | ⟨s1, h1, he⟩ := evtEdge_cases old s e
  · rw [he]
  · obtain ⟨_, hw⟩ := (wakeNew_woken old s1 e (List.finRange 8)).only
    rw [he, hw]
    obtain rfl | ⟨_, rfl⟩ := h1
    · rfl
    · rfl
@[simp] theorem mbPut_spires (s : State) (c : Nat) (x : MbChan) : (mbPut s c x).spires = s.spires := by
  rw [mbPut, evtEdge_spires, evtEdge_spires, setChan_spires]
theorem sideResetOne_spires (s : State) (ids : List Nat) (c : Nat) : (sideResetOne s ids c).spires = s.spires := by
  unfold sideResetOne
  dsimp only
  split
  · simp
  · split
    · simp
    · split
      · simp
      · rfl
theorem sideResetChans_spires (s : State) (ids : List Nat) (k : Nat) : (sideResetChans s ids k).spires = s.spires := by
  induction k with
  | zero => rfl
  | succ k ih => rw [sideResetChans, sideResetOne_spires, ih]
theorem freeLocks_spires (s : State) (ids l : List Nat) : (freeLocks s ids l).spires = s.spires := by
  induction l generalizing s with
  | nil => rfl
  | cons k l ih =>
    unfold freeLocks
    split
    · split
      · rw [ih, irqBit_spires]
      · exact ih _
    · exact ih _
theorem sideReset_spires (s : State) (ids : List Nat) : (sideReset s ids).spires = s.spires := by
  rw [sideReset, freeLocks_spires, sideResetChans_spires]
theorem abortAll_spires (s : State) (n : Fin 8) (l : List (Fin 4)) : (abortAll s n l).spires = s.spires := by
  induction l generalizing s with
  | nil => rfl
  | cons c l ih =>
    rw [abortAll, ih]
    split
    · exact qeEnd_spires _ _ _ _
    · rfl
theorem undoRunning_spires (s : State) (n : Fin 8) : (undoRunning s n).spires = s.spires := by
  obtain ⟨_, _, h⟩ := undoRunning_moves s n
  rw [h]

/-- After its reset a spire holds its control store and nothing else. -/
theorem spire_spireReset (s : State) (n : Fin 8) :
    (spireReset s n).spire n = { cstore := (s.spire n).cstore, csErr := (s.spire n).csErr } := by
  have hs : (abortAll (undoRunning s n) n (List.finRange 4)).spires = s.spires := (abortAll_spires ..).trans (undoRunning_spires s n)
  rw [spireReset, spire_congr (sideReset_spires _ _), spire_setSpire, spire_congr ((dropRegs_spires ..).trans hs)]

/-! ### SRST and PINV -/

/-- The bits of CTL that stay under a write which keeps them and asks for SRST or PINV. -/
theorem ctl_kept (x : Word32) {b : Word32} (hb : b &&& 3 = 0) : ((x &&& 3) ||| b) &&& 3 = x &&& 3 := by
  rw [BitVec.and_or_distrib_right, hb, BitVec.and_assoc, BitVec.and_self]
  exact BitVec.or_zero

section
variable {s : State} {n : Fin 8} (hen : regBit (s.reg (sprPage n) oCtl) 0 = true)
include hen
/-- A write to CTL that keeps EN. -/
theorem sprWrite_ctl {b : Word32} (hb : b &&& 3 = 0) : sprWrite s n oCtl ((s.reg (sprPage n) oCtl &&& 3) ||| b) =
    let s1 := s.setReg (sprPage n) oCtl (s.reg (sprPage n) oCtl &&& 3)
    let s2 := if regBit b 3 then s1.setSpire n { s1.spire n with pbuf := [] } else s1
    some (if regBit b 2 then spireReset s2 n else s2, none) := by
  have h0 : regBit ((s.reg (sprPage n) oCtl &&& 3) ||| b) 0 = true := by
    rw [regBit_or, regBit_and, hen]
    simp [regBit]
  have h (k : Nat) (h3 : regBit 3 k = false) : regBit ((s.reg (sprPage n) oCtl &&& 3) ||| b) k = regBit b k := by
    rw [regBit_or, regBit_and, h3, Bool.and_false, Bool.false_or]
  simp only [sprWrite, if_true, h0, Bool.not_true, Bool.false_and, Bool.false_eq_true, if_false, ctl_kept _ hb, h 3 (by decide), h 2 (by decide)]
theorem sprWrite_srst : sprWrite s n oCtl ((s.reg (sprPage n) oCtl &&& 3) ||| 4) =
    some (spireReset (s.setReg (sprPage n) oCtl (s.reg (sprPage n) oCtl &&& 3)) n, none) := sprWrite_ctl hen (by decide)
theorem sprWrite_pinv : sprWrite s n oCtl ((s.reg (sprPage n) oCtl &&& 3) ||| 8) =
    some ((s.setReg (sprPage n) oCtl (s.reg (sprPage n) oCtl &&& 3)).setSpire n { s.spire n with pbuf := [] }, none) :=
  sprWrite_ctl hen (by decide)
end

/-! ### The commands -/

section
variable {s : State} {id : MasterId} {n : Fin 8} (hi : s.issues id = true) (hon : s.pageOn (sprPage n) = true)
include hi hon
section
variable {c : Fin 4} (hq : s.qeCtx n c = false)
include hq
theorem sprGo_starts (hst : (s.sc n c).st = .idle) (hcs : s.csOk n = true) (hf : s.spireFenced n = false) :
    exec (.sprGo id n c) s = .next { spStart s n c (s.sc n c).cpc [(s.sc n c).arg0, (s.sc n c).arg1] none with resp := .done } :=
  congrArg Host.Outcome.next (cmdReg_cctl hi hon (spctxWrite_go hq hst hcs hf))
theorem sprStop_stops : exec (.sprStop id n c) s = .next { spStop s n c with resp := .done } :=
  congrArg Host.Outcome.next (cmdReg_cctl hi hon (spctxWrite_stop hq))
end
variable (hcu : s.custodyOf id = true) (hen : regBit (s.reg (sprPage n) oCtl) 0 = true)
include hcu hen
theorem spireReset_resets : exec (.spireReset id n) s =
    .next { spireReset (s.setReg (sprPage n) oCtl (s.reg (sprPage n) oCtl &&& 3)) n with resp := .done } :=
  congrArg Host.Outcome.next (cmdReg_ctl hi hcu hon (sprWrite_srst hen))
theorem pinv_empties : exec (.pinv id n) s = .next { (s.setReg (sprPage n) oCtl (s.reg (sprPage n) oCtl &&& 3)).setSpire n
    { s.spire n with pbuf := [] } with resp := .done } :=
  congrArg Host.Outcome.next (cmdReg_ctl hi hcu hon (sprWrite_pinv hen))
end

/-- A context without a program, in its reset state. -/
theorem sc_of_reset {s : State} {n : Fin 8} {l : List Byte} {e : SMap Nat} (h : s.spire n = { cstore := l, csErr := e }) (c : Fin 4) :
    s.sc n c = {} := by
  rw [State.sc, h]
  exact Vector.getElem_replicate _

/-- Settles O43: contexts started, stopped and reset, and the datapath's admission, steps, completion and halts. -/
theorem spiresStartStopAndRunGroups : Obligations.SpiresStartStopAndRunGroups := by
  refine ⟨fun s id n c hi hon hq => ⟨fun hst hcs hf => ?_, fun hi1 hf ha => ?_, fun hi1 hf hq1 hr hift hwf => ?_, fun hf => ?_⟩,
    fun s id n hi hcu hon hen => ⟨?_, pinv_empties hi hon hcu hen⟩,
    fun s n c t d hs hp hst hm ht hb hl => execProgramFetch_brings hs hp hst hm ht hb hl,
    fun s n hon => ⟨fun c g q hr hh hq => ?_, fun h => congrArg _ (groupAdmit_idle h), fun r o xs f hr hh hn hst hf hl => ?_,
      fun r o xs i op d hr hh hn hst hop hf hl => ?_, fun r o hr hh hn hst hf hl => ?_,
      fun r o xs i op d hr hh hn hst hop hf hl hsf => ?_,
      fun r hr hh hn ha hs => execGroupComplete_runs hon hr hh hn ha hs, fun r f w hr hh ha hs hc hst ho => ?_⟩,
    fun s n hf hwf hst hq hr hb => ⟨_, execFencedSet_marks hf hst hq hr hb, stat_fencedSet hwf,
      regBit_irqBit (wf_setReg _ _ _ _ hwf) (by decide), irqBit_spires _ _ _, irqBit_mem ..⟩⟩
  · have hsc := sc_spStart s n c (s.sc n c).cpc [(s.sc n c).arg0, (s.sc n c).arg1]
    exact ⟨_, sprGo_starts hi hon hq hst hcs hf, rfl, congrArg (fun x => { s.setSc n c x with resp := .done }) hsc.symm,
      congrArg SpCtx.st hsc, congrArg SpCtx.pc hsc, congrArg SpCtx.win hsc, congrArg SpCtx.descs hsc, congrArg SpCtx.opened hsc,
      congrArg SpCtx.ift hsc⟩
  · rw [sprStop_stops hi hon hq, spStop_waits hi1 hf ha]
  · rw [sprStop_stops hi hon hq, spStop_ends hi1 hf hq1 hr]
    have hsc : (spEnd s n c 7 0).sc n c = endedCtx (s.sc n c) 7 := sc_spEnd
    exact ⟨_, rfl, congrArg SpCtx.st hsc, congrArg SpCtx.status hsc, spEnd_raises hift hwf, spEnd_mem⟩
  · rw [sprStop_stops hi hon hq, spStop_fault hf]
    have hsc := sc_setSc s n c { s.sc n c with st := .idle, opened := none, adm := .none, image := none, stop := false, ift := none }
    exact ⟨_, rfl, congrArg SpCtx.st hsc, (congrArg SpCtx.finfo hsc).trans rfl, rfl, rfl⟩
  · have h : _ = ({ cstore := (s.spire n).cstore, csErr := (s.spire n).csErr } : Spire) :=
      spire_spireReset (s.setReg (sprPage n) oCtl (s.reg (sprPage n) oCtl &&& 3)) n
    exact ⟨_, spireReset_resets hi hon hcu hen, rfl, congrArg Spire.running h, congrArg Spire.queue h, sc_of_reset h,
      (congrArg Spire.cstore h).trans rfl, congrArg Spire.pbuf h⟩
  · refine ⟨_, congrArg Host.Outcome.next (groupAdmit_takes hon hr hh hq), ?_, ?_, sc_setSc _ _ _ _, rfl, rfl⟩
    · rw [running_setSc, spire_setSpire]
    · rw [queue_setSc, spire_setSpire]
  · rw [execGroupStep_runs hon hr hh hn, groupStep_faults hf hst hl]
  · rw [execGroupStep_runs hon hr hh hn, groupStep_coef hf hst hop hl]
  · rw [execGroupStep_runs hon hr hh hn, groupStep_goes hf hst hl]
  · obtain ⟨l, h⟩ := groupStep_stores hf hst hop hl hsf
    refine ⟨_, _, (execGroupStep_runs hon hr hh hn).trans (congrArg _ h), running_setRun _ _ _, rfl, rfl, ?_, rfl, rfl, rfl⟩
    exact hh
  · refine ⟨_, execGroupHalt_runs hr hh ha hs, ?_, rfl, rfl, ?_⟩
    · rw [running_setSc, running_setRun]
    · rw [sc_setSc]
      exact ⟨rfl, rfl, rfl, rfl, rfl, finfoWord_fields _ hc hst ho⟩

end Sys2Proof.Proofs
end

section
/-! PROOF. Vendor programs (R164, R165, R247) and the engine's own commands SPIN and FLUSH (R244, R265). -/
namespace Sys2Proof.Proofs
open Sys2Proof.Machine Sys2Proof.Laws

/-! ### Steps of a vendor program -/

section
variable {α β : Type} {s t : State} {x : VM α} {f : α → VM β}
theorem run_bind_ok {a : α} (h : x.run s = (.ok a, t)) : (x >>= f).run s = (f a).run t := by
  show (StateT.bind x.run (ExceptT.bindCont f)) s = _
  simp only [StateT.bind, h]
  rfl
theorem run_bind_error {st : Nat} (h : x.run s = (.error st, t)) : (x >>= f).run s = (.error st, t) := by
  show (StateT.bind x.run (ExceptT.bindCont f)) s = _
  simp only [StateT.bind, h]
  rfl
theorem run_need_false {b : Bool} {st : Nat} (h : b = false) : (need b st).run s = (.error st, s) := by
  subst h
  rfl
end

section
variable {s t : State} {e : VEnv} {b : List Byte}
theorem vRead_ok {a k : Nat} (h : busRead s (sprId e.n) a k = (t, .ok (b, false))) : (vRead e a k).run s = (.ok b, t) := by
  show (match (busRead s (sprId e.n) a k).2 with
    | .error _ => (throw 3 : VM (List Byte))
    | .ok (d, p) => if p then throw 5 else pure d).run (busRead s (sprId e.n) a k).1 = _
  simp only [h]
  rfl

variable (h : busRead s (sprId e.n) (parmBase + e.i * 64) 64 = (t, .ok (b, false))) (hb : leAt b 32 8 ≠ 0)
include h hb
/-- GET and PUT end with PARAM where OFF is not 0. -/
theorem vObject_param : (vObject e).run s = (.error 3, t) := by
  have hp : (vParms e).run s = (.ok ⟨leAt b 16 8, leAt b 24 8, leAt b 32 8, leAt b 40 8, leAt b 48 8, leAt b 56 8⟩, t) :=
    run_bind_ok (vRead_ok h)
  rw [vObject, run_bind_ok hp]
  exact run_bind_error (run_need_false (by simp [hb]))
theorem vGet_param : (vGet e).run s = (.error 3, t) := run_bind_error (vObject_param h hb)
theorem vPut_param : (vPut e).run s = (.error 3, t) := run_bind_error (vObject_param h hb)
theorem vVerify_param (scrub : Bool) : (vVerify scrub e).run s = (.error 3, t) := by
  have hp : (vParms e).run s = (.ok ⟨leAt b 16 8, leAt b 24 8, leAt b 32 8, leAt b 40 8, leAt b 48 8, leAt b 56 8⟩, t) :=
    run_bind_ok (vRead_ok h)
  rw [vVerify, run_bind_ok hp]
  exact run_bind_error (run_need_false (by simp [hb]))
end

/-! ### A run of the program in its context -/

section
variable {s t : State} {n : Fin 8} {c : Fin 4} {op i : Nat} {io : StripeIo} {e : IftEnt} {body : VEnv → VM VOut}

theorem vendorRun_runs (hs : seqRuns s n = true) (hst : (s.sc n c).st = .run ∨ (s.sc n c).st = .gwait ∨ (s.sc n c).st = .mwait)
    (hi : (s.sc n c).ift = some i) (hlt : i < 8192) (he : s.ift i = some e) (hop : e.opcode = op) (hne : e.st ≠ 2)
    {res : Except Nat VOut}
    (hr : (body { n := n, c := c, i := i, ent := e, io := io, wait := (s.sc n c).vwait }).run (s.setIft i (some { e with st := 1 })) = (res, t)) :
    vendorRun s n c op io body = vEnd t n c res := by
  have hwait : ((s.sc n c).st == .run || (s.sc n c).st == .gwait || (s.sc n c).st == .mwait) = true := by
    rcases hst with h | h | h <;> rw [h] <;> rfl
  simp only [vendorRun, hs, hwait, hi, he, hr, if_neg (Nat.not_le.mpr hlt), if_pos (And.intro hop hne), Bool.and_self, if_true]

theorem vEnd_waits (w : VWait) : vEnd s n c (.ok (some w)) = s.setSc n c { s.sc n c with
    vwait := some w, st := match w with | .hand _ => .mwait | _ => .run } := by
  cases w <;> rfl
theorem vEnd_ends : vEnd s n c (.ok none) = spEnd s.fresh.2 n c 0 (w32 s.fresh.1.toNat) := rfl
theorem vEnd_fails (st : Nat) : vEnd s n c (.error st) = spEnd s.fresh.2 n c st (w32 s.fresh.1.toNat) := rfl

/-- A run whose program ends with PARAM. -/
theorem vendorRun_param (hs : seqRuns s n = true) (hst : (s.sc n c).st = .run) (hi : (s.sc n c).ift = some i) (hlt : i < 8192)
    (he : s.ift i = some e) (hop : e.opcode = op) (hne : e.st ≠ 2) (hti : (t.sc n c).ift = some i) (hte : t.ift i = some { e with st := 1 })
    (hr : (body { n := n, c := c, i := i, ent := e, io := io, wait := (s.sc n c).vwait }).run (s.setIft i (some { e with st := 1 })) =
      (.error 3, t)) :
    ∃ u x, vendorRun s n c op io body = u ∧ (u.sc n c).st = .idle ∧ (u.sc n c).status = 3 ∧ u.mem = t.mem ∧ u.out = t.out ∧
      u.regs = t.regs ∧ u.ift i = some { e with st := 2, status := 3, result := x } := by
  have hfi : (t.fresh.2.sc n c).ift = some i := hti
  refine ⟨_, _, (vendorRun_runs hs (.inl hst) hi hlt he hop hne hr).trans (vEnd_fails 3), ?_, ?_, spEnd_mem, spEnd_out hfi, spEnd_regs hfi,
    ift_spEnd (e := { e with st := 1 }) hfi hte (show 1 ≠ 2 by decide)⟩
  · rw [sc_spEnd]; rfl
  · rw [sc_spEnd]; rfl
end

theorem progStart_starts {s : State} {n : Fin 8} {c : Fin 4} {i : Nat} {e : IftEnt} (hs : seqRuns s n = true) (hi : (s.sc n c).ift = some i)
    (he : s.ift i = some e) (hst : e.st = 0) : progStart s n c = s.setIft i (some { e with st := 1 }) := by
  simp only [progStart, hs, hi, he, if_pos hst, if_true]

/-! ### SPIN and FLUSH -/

/-- A set number, with the bit that asks for a spin-up (R244). -/
theorem spinArg {a : Nat} (h : a < 64 ∨ (256 ≤ a ∧ a < 320)) :
    fld a 0 6 = a % 64 ∧ bit a 8 = decide (256 ≤ a) ∧ a - fld a 0 6 - fld a 8 1 * 256 = 0 := by
  have h8 : a / 2 ^ 8 % 2 = if 256 ≤ a then 1 else 0 := by split <;> omega
  rw [fld_eq_div_mod, fld_eq_div_mod, bit, Nat.shiftRight_eq_div_pow, pow_one, h8]
  split
  · exact ⟨by omega, by simp [*], by omega⟩
  · exact ⟨by omega, by simp [*], by omega⟩
theorem spinParms_ok {s : State} {i a : Nat} (ha : onlyAux0 s i = true) (h : a < 64 ∨ (256 ≤ a ∧ a < 320)) :
    ¬ (!onlyAux0 s i || a - fld a 0 6 - fld a 8 1 * 256 != 0) = true := by
  obtain ⟨-, -, hr⟩ := spinArg h
  rw [ha, hr]
  decide
theorem fld_set {a : Nat} (h : a < 64) : fld a 0 6 = a := by
  rw [fld_eq_div_mod]
  omega
theorem flushParms_ok {s : State} {i a : Nat} (ha : onlyAux0 s i = true) (h : a < 64) : ¬ (!onlyAux0 s i || a - fld a 0 6 != 0) = true := by
  rw [ha, fld_set h, Nat.sub_self]
  decide
/-- An entry of the engine's own commands that has not been taken up. -/
theorem entry_waits {e : IftEnt} {k : Nat} (hg : e.engine = true) (hop : e.opcode = k) (hst : e.st = 0) :
    (e.engine && (e.opcode == k && e.st == 0)) = true := by
  rw [hg, hop, hst, beq_self_eq_true]
  rfl

/-- A request for a set without members is answered at once. -/
theorem spinRequest_empty {s : State} {k : Nat} (up : Bool) (h : s.members k = []) : spinRequest s k up = (s, some 0) := by
  rw [spinRequest, h]
  rfl

/-- The state after FLUSH of entry `i` has asked the drives of the ports `l`. -/
def flushing (s : State) (i : Nat) (e : IftEnt) (l : List Nat) : State :=
  { s.setIft i (some { e with st := 1 }) with pwr := { s.pwr with ops := s.pwr.ops ++ l.map fun p => (p, .flush i) } }
/-- The command waits for the drives it has asked. -/
theorem flushEnd_flushing {s : State} {i p : Nat} {e : IftEnt} {l : List Nat} :
    flushEnd (flushing s i e (p :: l)) i = flushing s i e (p :: l) := by
  have hw : ((flushing s i e (p :: l)).pwr.ops.any fun o => o.2 == .flush i) = true := by simp [flushing]
  rw [flushEnd, if_pos (by rw [hw, Bool.true_or])]

section
variable {s : State} {i : Nat} {e : IftEnt} (he : s.ift i = some e) (hg : e.engine = true) (hst : e.st = 0)
include he hg hst

section
variable (hop : e.opcode = 0x0A)
include hop
theorem spinRun_param (ha : onlyAux0 s i = false) : spinRun s i = s.setIft i (some { e with st := 2, status := 3, result := 0 }) := by
  simp only [spinRun, he, if_pos (entry_waits hg hop hst), ha, Bool.not_false, Bool.true_or, if_true]
  exact qeEnd_ends he (by omega)

variable {t : State} (ha : onlyAux0 s i = true) (hk : e.aux0.toNat < 64 ∨ (256 ≤ e.aux0.toNat ∧ e.aux0.toNat < 320)) (ht : t.ift i = some e)
include ha hk ht
theorem spinRun_answered {st : Nat} (hs : spinRequest s (e.aux0.toNat % 64) (decide (256 ≤ e.aux0.toNat)) = (t, some st)) :
    spinRun s i = t.setIft i (some { e with st := 2, status := st, result := 0 }) := by
  obtain ⟨h0, h8, -⟩ := spinArg hk
  rw [← h0, ← h8] at hs
  simp only [spinRun, he, if_pos (entry_waits hg hop hst), if_neg (spinParms_ok ha hk), hs]
  exact qeEnd_ends ht (by omega)
theorem spinRun_taken (hs : spinRequest s (e.aux0.toNat % 64) (decide (256 ≤ e.aux0.toNat)) = (t, none)) :
    spinRun s i = t.setIft i (some { e with st := 1 }) := by
  obtain ⟨h0, h8, -⟩ := spinArg hk
  rw [← h0, ← h8] at hs
  simp only [spinRun, he, if_pos (entry_waits hg hop hst), if_neg (spinParms_ok ha hk), hs, ht, if_pos hst]
end

section
variable (hop : e.opcode = 0x0B)
include hop
theorem flushRun_param (ha : onlyAux0 s i = false) : flushRun s i = s.setIft i (some { e with st := 2, status := 3, result := 0 }) := by
  simp only [flushRun, he, if_pos (entry_waits hg hop hst), ha, Bool.not_false, Bool.true_or, if_true]
  exact qeEnd_ends he (by omega)

variable (ha : onlyAux0 s i = true) (hk : e.aux0.toNat < 64)
include ha hk
theorem flushRun_unready (hr : s.ready e.aux0.toNat = false) :
    flushRun s i = s.setIft i (some { e with st := 2, status := 0, result := 0 }) := by
  simp only [flushRun, he, if_pos (entry_waits hg hop hst), if_neg (flushParms_ok ha hk)]
  rw [fld_set hk, hr]
  exact qeEnd_ends he (by omega)

theorem flushRun_asks (hr : s.ready e.aux0.toNat = true) {p : Nat} {l : List Nat} (hl : (s.liveMembers e.aux0.toNat).filter s.portUp = p :: l) :
    flushRun s i = flushing s i e (p :: l) := by
  have hready : ¬ (!true) = true := by decide
  simp only [flushRun, he, if_pos (entry_waits hg hop hst), if_neg (flushParms_ok ha hk)]
  rw [fld_set hk, hr, hl, if_neg hready]
  exact flushEnd_flushing
end
end

/-- Settles O46: vendor programs run to their next wait or their end, PROG starts its operator program, and SPIN and FLUSH are answered. -/
theorem stripeCommandsEndWithTheirStatus : Obligations.StripeCommandsEndWithTheirStatus := by
  refine ⟨fun r hr s n c io i e hs hst hi hlt he hop hne => ?_, fun r hr s t n c io i e b hs hst hi hlt he hop hne hb hoff hti hte => ?_,
    fun s n c i e hs hi he hst => ?_, fun s i e he hg hst => ⟨?_, ?_, ?_, ?_, ?_⟩⟩
  · have hx : exec (r.1 n c io) s = .next (vendorRun s n c r.2.1 io r.2.2) := by fin_cases hr <;> rfl
    rcases hrun : (r.2.2 { n := n, c := c, i := i, ent := e, io := io, wait := (s.sc n c).vwait }).run
      (s.setIft i (some { e with st := 1 })) with ⟨res, t⟩
    rw [hx, vendorRun_runs hs hst hi hlt he hop hne hrun]
    refine ⟨res, t, rfl, fun w hw => ?_, fun hw => ?_, fun st hw => ?_⟩
    · rw [hw]
      exact (congrArg _ (vEnd_waits w)).trans (by cases w <;> rfl)
    · rw [hw, vEnd_ends]
    · rw [hw, vEnd_fails]
  · have hx : ∃ body : VEnv → VM VOut, exec (r.1 n c io) s = .next (vendorRun s n c r.2 io body) ∧
        ∀ v : VEnv, v.n = n → v.i = i → (body v).run (s.setIft i (some { e with st := 1 })) = (.error 3, t) := by
      simp only [List.mem_cons, List.not_mem_nil, or_false] at hr
      rcases hr with rfl | rfl | rfl | rfl
      · exact ⟨vGet, rfl, by rintro v rfl rfl; exact vGet_param hb hoff⟩
      · exact ⟨vPut, rfl, by rintro v rfl rfl; exact vPut_param hb hoff⟩
      · exact ⟨vVerify false, rfl, by rintro v rfl rfl; exact vVerify_param hb hoff false⟩
      · exact ⟨vVerify true, rfl, by rintro v rfl rfl; exact vVerify_param hb hoff true⟩
    obtain ⟨body, hx, hrun⟩ := hx
    obtain ⟨u, x, hu, h⟩ := vendorRun_param hs hst hi hlt he hop hne hti hte (io := io) (hrun _ rfl rfl)
    exact ⟨u, x, hx.trans (congrArg _ hu), h⟩
  · exact congrArg _ (progStart_starts hs hi he hst)
  · exact fun hop ha => congrArg _ (spinRun_param he hg hst hop ha)
  · refine fun hop ha hk => ⟨fun hm => ?_, fun t st hs ht => congrArg _ (spinRun_answered he hg hst hop ha hk ht hs),
      fun t hs ht => congrArg _ (spinRun_taken he hg hst hop ha hk ht hs)⟩
    exact congrArg _ (spinRun_answered he hg hst hop ha hk he (spinRequest_empty _ hm))
  · exact fun hop ha => congrArg _ (flushRun_param he hg hst hop ha)
  · exact fun hop ha hk hr => congrArg _ (flushRun_unready he hg hst hop ha hk hr)
  · exact fun hop ha hk hr p l hl => ⟨_, congrArg Host.Outcome.next (flushRun_asks he hg hst hop ha hk hr hl), ift_setIft, rfl⟩

end Sys2Proof.Proofs
end

section
/-! PROOF. COMPLETION_WRITE (R256) of a PUT where the in-flight table is not in canonical form, and the write of the replay-cache slot meets a
poisoned queue context (R269). -/
namespace Sys2Proof.Proofs
open Sys2Proof.Machine Sys2Proof.Laws

/-- Words 2 and 3 of context 1, which the rings of queue 0 name: a write there leaves EN and INFL of context 1 as they are. -/
def ringAddr : Nat := ctxAddr 1 + 16
/-- Queue 0: one command in flight, replay cache and completion ring both at `ringAddr`. -/
def ringCtx : QCtx :=
  qset (qset (qset (qset (List.replicate 8 0) qEN 1) qINFL 1) qRCADDR ringAddr) qCQADDR ringAddr
/-- What a PUT still has to do after its completion (R36): one shard goes from scratch to drive 0. -/
def shardLeft : PutRest := { writes := [{ port := 0, lba := 0, addr := scrBase, len := 64, good := true }], ring := 0, jslot := 0 }
/-- That PUT of queue 0, ended with OK. -/
def endedPut : IftEnt := { st := 2, opcode := 2, entry := 2, rest := some shardLeft }
/-- In-flight index 0 is listed twice: first the PUT, the entry that counts, then a command of queue 1, whose context is poisoned. -/
def twiceInFlight : State :=
  { (((State.reset.setBankSt 0 0 1).setBankSt 1 0 1).setBankSt 1 1 1).setBytes (ctxAddr 0) (ctxBytes ringCtx) with
    wordErr := [(ctxAddr 1 / 8, { bits := 2 })]
    qe := { ift := [(0, some endedPut), (0, some { qid := 1 })] } }
/-- After the write of the replay-cache slot. It reads context 1, whose error discards the commands in flight of queue 1. -/
def slotWritten : State :=
  (qeWrite twiceInFlight (qf ringCtx qRCADDR + endedPut.seq.toNat % 64 * 16) (compBytes (ownCompletion endedPut 0) true)).1
/-- After the write of the completion entry that follows it. -/
def entryWritten : State :=
  (qeWrite slotWritten (qf ringCtx qCQADDR + qf ringCtx qCQTAIL * 16) (compBytes (ownCompletion endedPut 0) (qf ringCtx qCQPHASE == 1))).1

/-- Queue 0 reads its context, and the PUT is what in-flight index 0 holds; no pair, so nothing waits for a DACK. -/
theorem ready_twiceInFlight : ctxRead twiceInFlight 0 = (twiceInFlight, .ok ringCtx) ∧ twiceInFlight.ctxRaw 0 = ringCtx ∧
    twiceInFlight.ift 0 = some endedPut ∧ twiceInFlight.qe.waits = [] ∧ twiceInFlight.paired = false := by decide +kernel

/-- The slot is written without a bus error, and queue 0 reads the same context after it. -/
theorem slot_twiceInFlight :
    qeWrite twiceInFlight (qf ringCtx qRCADDR + endedPut.seq.toNat % 64 * 16) (compBytes (ownCompletion endedPut 0) true) =
      (slotWritten, true) ∧ slotWritten.paired = false ∧ ctxRead slotWritten 0 = (slotWritten, .ok ringCtx) := by decide +kernel

/-- So is the completion entry. -/
theorem entry_slotWritten :
    qeWrite slotWritten (qf ringCtx qCQADDR + qf ringCtx qCQTAIL * 16) (compBytes (ownCompletion endedPut 0) (qf ringCtx qCQPHASE == 1)) =
      (entryWritten, true) := by decide +kernel

/-- The error of context 1 frees index 0, and with it the PUT: the entry that the table lists second is left there. -/
theorem ift_entryWritten : entryWritten.ift 0 = some { qid := 1 } := by decide +kernel

/-- What has left the device after a command that goes on. -/
def sentAfter : Res → Option (List Out)
  | .next t => some t.out
  | _ => none

/-- COMPLETION_WRITE therefore sends nothing to the drive. -/
theorem completionWrite_twiceInFlight : sentAfter (exec (.completionWrite 0) twiceInFlight) = some [] := by decide +kernel

/-- The state that the statement asks for: the PUT's shard goes to its drive after the completion. -/
def shardSent : State :=
  entryGo (putRest (lineSet (freeEntry (ctxStore entryWritten endedPut.qid
    (ctxCompleted (entryWritten.ctxRaw endedPut.qid) endedPut.status true)) (some 0)) (qf ringCtx qEVSEL)) shardLeft)

theorem out_shardSent : shardSent.out = [.drive 0 (writeCdb 0 0) (List.replicate 64 0)] := by decide +kernel

/-- Refutes O45: COMPLETION_WRITE of a PUT never sends its drive writes where the in-flight table lists its index twice and the write of the
replay-cache slot discards the command listed second (R269). The clause asks nothing of the in-flight table, nor that the rings lie in DRAM
(R252). -/
theorem not_commandsAreTakenInAndScheduled : ¬ Obligations.CommandsAreTakenInAndScheduled := by
  unfold Obligations.CommandsAreTakenInAndScheduled
  intro h
  obtain ⟨-, -, -, hcompletion, -⟩ := h
  obtain ⟨hread, hraw, hift, hwaits, hpaired⟩ := ready_twiceInFlight
  obtain ⟨hslot, hpaired', hread'⟩ := slot_twiceInFlight
  have hsends : exec (.completionWrite 0) twiceInFlight = .next shardSent :=
    hcompletion twiceInFlight slotWritten entryWritten 0 endedPut ringCtx ringCtx hift rfl rfl rfl hwaits hpaired hraw hread
      hslot hpaired' hread' entry_slotWritten
  have hout := completionWrite_twiceInFlight
  rw [hsends, sentAfter, out_shardSent] at hout
  simp at hout

end Sys2Proof.Proofs
end

section
/-! PROOF. Writes to the pages of the drive ports and port groups (R271, R294). -/
namespace Sys2Proof.Proofs
open Sys2Proof.Machine Sys2Proof.Laws

theorem pageBlock_sasp {n : Nat} (h : n < 256) : pageBlock (0x200 + n) = some (.sasp, n) := by
  unfold pageBlock
  iterate 13 rw [if_neg (by omega)]
  rw [if_pos (by omega), Nat.add_sub_cancel_left]

/-- A register above the header of a SASP page, which the writer's world may write. -/
theorem regOpen_sasp {s : State} {id : MasterId} {n off : Nat} {i : RegInfo} (hi : s.issues id = true) (hn : n < 256) (hlo : 0x100 ≤ off)
    (ho : off < 4096) (ha : off % 4 = 0) (hr : saspInfo n off = some i) (hacc : accessBad (s.custodyOf id) i = false) :
    RegOpen s id (0x200 + n) off .sasp n i := by
  have hb := pageBlock_sasp hn
  exact {
    issues := hi, page_lt := by omega, above := hlo, off_lt := ho, aligned := ha, block := hb
    power := powerBad_of_page (show off ≠ 8 by omega) (by omega)
    info := by simp only [regInfo, hb, if_neg (Nat.not_lt.mpr hlo), blockInfo, hr]
    identity := by simp only [identityBad, hb]
    access := hacc }

/-- A write to CTL of a port whose group has power (R48). -/
theorem cmdReg_portCtl {s : State} {id : MasterId} {p : Fin 240} {v : Word32} (hi : s.issues id = true)
    (hon : s.dom (pdSasg (p.val / 8)) = true) :
    cmdReg s id (portPage p.val) oCtl v = { portCtlWrite s p.val v with resp := .done } := by
  have hb : pageBlock (portPage p.val) = some (.sasp, p.val) := pageBlock_sasp (by omega)
  have hon' : s.pageOn (portPage p.val) = true := by simp only [State.pageOn, pageDomain, hb, p.isLt, if_true, hon]
  have hctl : ¬ (oCtl < 0x100 ∧ oCtl ≠ oCtl) := fun h => h.2 rfl
  refine cmdReg_done hi (by unfold portPage; omega) (by decide) hb (by decide) (i := (saspHdr p.val).ctl) ?_ ?_ ?_ ?_ ?_
  · rw [powerBad, hon', Bool.not_true, Bool.and_false]
  · simp only [regInfo, hb]
    rfl
  · simp only [identityBad, hb]
  · rw [saspHdr, if_pos p.isLt]
    exact Bool.and_false _
  · simp only [regWriteOk, hb, if_neg hctl, blockWrite, saspWrite, p.isLt, if_true, Option.getD_some]

/-- Setting EN raises PORT_EN (R279, R294). -/
theorem portCtlWrite_en (s : State) (p : Nat) : portCtlWrite s p 1 = linkEvent (s.setReg (portPage p) oCtl 1) p 0 := by
  simp [portCtlWrite, regBit]
/-- PRST with EN resets the port before it raises PORT_EN. -/
theorem portCtlWrite_reset (s : State) (p : Nat) :
    portCtlWrite s p 3 = linkEvent ((portReset s p).setReg (portPage p) oCtl 1) p 0 := by
  simp [portCtlWrite, regBit]
/-- Clearing EN disables the port. -/
theorem portCtlWrite_off (s : State) (p : Nat) : portCtlWrite s p 0 = portDisable (s.setReg (portPage p) oCtl 0) p := by
  simp [portCtlWrite, regBit]

/-! ### The link table (R281) -/

/-- The registers of a group page are those of its two blocks. -/
theorem saspInfo_of_grpOf {n off g sub : Nat} (hlo : 240 ≤ n) (hhi : n < 255) (h : grpOf n off = some (g, sub)) :
    saspInfo n off = saspGroup sub := by
  unfold saspInfo
  rw [if_neg (by omega), if_pos hhi]
  unfold grpOf at h
  split_ifs at h with h1 h2 h3 <;> obtain ⟨-, rfl⟩ := Prod.mk.inj (Option.some.inj h)
  · rw [if_neg h1, if_pos h2]
  · rw [if_neg h1, if_neg h2, if_pos h3]
theorem saspGroup_table {sub : Nat} (hlo : 0x300 ≤ sub) (hhi : sub < 0x700) (ha : sub % 4 = 0) :
    saspGroup sub = some { rwl := 0xFFFFFFFF } := by
  unfold saspGroup
  split
  · omega
  · omega
  · omega
  · rw [if_pos ⟨hlo, hhi, ha⟩]
    rfl

/-- An offset in group `g`'s block of its page names that group. -/
theorem grpOf_grpOff {g sub : Nat} (h : sub < 0x700) : grpOf (0xF0 + g / 2) (grpOff g + sub) = some (g, sub) := by
  have hg := Nat.mod_two_eq_zero_or_one g
  unfold grpOf grpOff
  rw [if_neg (by omega)]
  rcases hg with h0 | h1
  · rw [if_pos (by omega)]
    exact congrArg some (Prod.ext (by omega) (by omega))
  · rw [if_neg (by omega), if_pos (by omega)]
    exact congrArg some (Prod.ext (by omega) (by omega))

/-- Where a word of entry `e` stands in its group's block. -/
def linkSub (e : Nat) (high : Bool) : Nat := 0x300 + 8 * e + 4 * b2n high

theorem grpOff_linkSub (g e : Nat) (high : Bool) : grpOff g + linkSub e high = grpOff g + 0x300 + 8 * e + 4 * b2n high := by
  rw [linkSub, ← Nat.add_assoc, ← Nat.add_assoc]
/-- The word at that place is word `high` of entry `e`. -/
theorem linkSub_place {e : Nat} (he : e < 128) (high : Bool) : 0x300 ≤ linkSub e high ∧ linkSub e high < 0x700 ∧ linkSub e high % 4 = 0 ∧
    (linkSub e high - 0x300) / 8 = e ∧ (linkSub e high % 8 == 4) = high := by
  have hb : b2n high ≤ 1 := by cases high <;> decide
  have h8 : linkSub e high % 8 = 4 * b2n high := by unfold linkSub; omega
  have hhi : (linkSub e high % 8 == 4) = high := by rw [h8]; cases high <;> rfl
  unfold linkSub at hhi ⊢
  exact ⟨by omega, by omega, by omega, by omega, hhi⟩

section
variable {s t : State} {id : MasterId} {g : Fin 30} {e : Fin 128} {high : Bool} {v : Word32}

theorem regOpen_link (hi : s.issues id = true) :
    RegOpen s id (grpPage g.val) (grpOff g.val + linkSub e.val high) .sasp (0xF0 + g.val / 2) { rwl := 0xFFFFFFFF } := by
  obtain ⟨h3, h7, h4, -, -⟩ := linkSub_place e.isLt high
  have hoff : 0x100 ≤ grpOff g.val ∧ grpOff g.val ≤ 0x800 ∧ grpOff g.val % 4 = 0 := by unfold grpOff; omega
  have hp : grpPage g.val = 0x200 + (0xF0 + g.val / 2) := by unfold grpPage; omega
  rw [hp]
  exact regOpen_sasp hi (by omega) (by omega) (by omega) (by omega)
    ((saspInfo_of_grpOf (by omega) (by omega) (grpOf_grpOff h7)).trans (saspGroup_table h3 h7 h4)) (Bool.and_false _)

/-- What the block makes of a write to an entry of an unlocked table. -/
theorem blockWrite_link (hl : s.locked (grpPage g.val) = false) :
    blockWrite s id.val .sasp (0xF0 + g.val / 2) (grpOff g.val + linkSub e.val high) v = some (linkWrite s g.val e.val high v) := by
  obtain ⟨h3, h7, -, he, hhi⟩ := linkSub_place e.isLt high
  have hp : 0x200 + (0xF0 + g.val / 2) = grpPage g.val := by unfold grpPage; omega
  simp only [blockWrite, saspWrite, if_neg (show ¬ 0xF0 + g.val / 2 < 240 by omega), if_pos (show 0xF0 + g.val / 2 < 255 by omega),
    grpOf_grpOff h7, if_pos h3, hp, hl, Bool.false_eq_true, if_false, he, hhi]

theorem exec_linkProgramWrite : exec (.linkProgramWrite id g e high v) s =
    .next (cmdReg s id (grpPage g.val) (grpOff g.val + linkSub e.val high) v) := by
  rw [grpOff_linkSub]
  rfl

variable (hi : s.issues id = true) (hl : s.locked (grpPage g.val) = false)
include hi hl
theorem linkProgramWrite_done (h : linkWrite s g.val e.val high v = (t, none)) :
    exec (.linkProgramWrite id g e high v) s = .next { t with resp := .done } := by
  rw [exec_linkProgramWrite, (regOpen_link hi).done ((blockWrite_link hl).trans (congrArg some h))]
theorem linkProgramWrite_err {c : BusCause} (h : linkWrite s g.val e.val high v = (s, some c)) :
    exec (.linkProgramWrite id g e high v) s =
      .next { s.berr id (regAddr (grpPage g.val) (grpOff g.val + linkSub e.val high)) true c with resp := .err c } := by
  rw [exec_linkProgramWrite, (regOpen_link hi).err ((blockWrite_link hl).trans (congrArg some h))]
end

end Sys2Proof.Proofs
end

section
/-! PROOF. Events of the link programs (R279, R280), and the rows that raise them. -/
namespace Sys2Proof.Proofs
open Sys2Proof.Machine Sys2Proof.Laws

/-! ### An event at a port (R279) -/

/-- A port that stays up, or down, raises no edge. -/
theorem upEdge_same {old s : State} {p : Nat} (h : s.portUp p = old.portUp p) : upEdge old s p = s := by
  rw [upEdge, h, beq_self_eq_true, if_pos rfl]

/-- Port `p` after it has taken entry `e`, whose LIMIT is 0 and whose action is NONE. -/
def linkMoved (s : State) (p e : Nat) : State :=
  let u := (s.setRegF (portPage p) 0x118 0 7 e).setPort p { s.port p with
    lp := lkNext (s.link (p / 8) e),
    timer := decide (lkUnit (s.link (p / 8) e) ≠ 3 ∧ lkTimer (s.link (p / 8) e) ≠ 0) }
  if lkNext (s.link (p / 8) e) = 5 then { u with out := .identify p (sasAddr u p) :: u.out } else u

section
variable {s : State} {p ev : Nat}
theorem linkTake_none {e : Nat} (hl : lkLimit (s.link (p / 8) e) = 0) (ha : lkAction (s.link (p / 8) e) = 0) :
    linkTake s p e = (linkMoved s p e, none) := by
  have hlim : ¬ (lkLimit (s.link (p / 8) e) ≠ 0 ∧ lkLimit (s.link (p / 8) e) < (s.port p).retry + 1) := fun h => h.1 hl
  have hret : ¬ lkLimit (s.link (p / 8) e) ≠ 0 := fun h => h hl
  simp only [linkTake, if_neg hlim, if_neg hret, ha]
  rfl

/-- A chain of events ends with an event that no entry matches. -/
theorem linkRun_unmatched (n : Nat) (h : linkMatch s (p / 8) (s.port p).lp ev = none) :
    linkRun s p (n + 1) ev = s.setRegF (portPage p) 0x118 8 8 (satAdd (s.regF (portPage p) 0x118 8 8) 1 255) := by
  rw [linkRun, h]
/-- It also ends with an entry that raises nothing at once. -/
theorem linkRun_taken (n : Nat) {e : Nat} {t : State} (h : linkMatch s (p / 8) (s.port p).lp ev = some e) (ht : linkTake s p e = (t, none)) :
    linkRun s p (n + 1) ev = t := by
  simp only [linkRun, h, ht]

theorem linkEvent_unmatched (h0 : ev ≠ 0) (h : linkMatch s (p / 8) (s.port p).lp ev = none) :
    linkEvent s p ev = s.setRegF (portPage p) 0x118 8 8 (satAdd (s.regF (portPage p) 0x118 8 8) 1 255) := by
  rw [linkEvent, if_neg h0, linkRun_unmatched 33023 h]
  exact upEdge_same rfl
theorem linkEvent_moves (h0 : ev ≠ 0) {e : Nat} (h : linkMatch s (p / 8) (s.port p).lp ev = some e) (hl : lkLimit (s.link (p / 8) e) = 0)
    (ha : lkAction (s.link (p / 8) e) = 0) : linkEvent s p ev = upEdge s (linkMoved s p e) p := by
  rw [linkEvent, if_neg h0, linkRun_taken 33023 h (linkTake_none hl ha)]
end

section
variable {s : State} {p : Nat} (ev : Nat)
theorem portEvent_off (h : s.dom (pdSasg (p / 8)) = false) : portEvent s p ev = s := by
  rw [portEvent, h, if_neg Bool.false_ne_true]
theorem portEvent_on (h : s.dom (pdSasg (p / 8)) = true) : portEvent s p ev = entryGo (linkEvent s p ev) := by
  rw [portEvent, h, if_pos rfl]
end

/-! ### The rows of a port whose group has power -/

section
variable {s : State} {p : Fin 240} (hon : s.dom (pdSasg (p.val / 8)) = true)
include hon
theorem exec_timeout : exec (.timeout p) s = .next (if (s.port p.val).timer then entryGo (linkEvent s p.val 3) else s) := by
  rw [← portEvent_on 3 hon]
  rfl
theorem exec_identRx (a : BitVec 64) : exec (.identRx p a) s = .next (entryGo (linkEvent ((s.setReg (portPage p.val) 0x100
    (w32 a.toNat)).setReg (portPage p.val) 0x104 (w32 (a.toNat / 2 ^ 32))) p.val 9)) :=
  congrArg Host.Outcome.next ((if_pos hon).trans (portEvent_on 9 hon))
theorem exec_dwsyncLost : exec (.dwsyncLost p) s = .next (entryGo (linkEvent (s.setRegF (portPage p.val) 0x114 0 16
    (satAdd (s.regF (portPage p.val) 0x114 0 16) 1 0xFFFF)) p.val 0x0B)) :=
  congrArg Host.Outcome.next ((if_pos hon).trans (portEvent_on 0x0B hon))
theorem exec_bayOff : exec (.bayOff p) s = .next (entryGo (if s.present p.val && s.bayOn p.val then s else linkEvent s p.val 0x0D)) :=
  congrArg Host.Outcome.next (if_pos hon)
theorem exec_errRate : exec (.errRate p) s = .next (entryGo (if (s.port p.val).dwCycle = s.belf.cycle.toNat ∧
    s.regF (grpPage (p.val / 8)) (grpOff (p.val / 8)) 8 8 < (s.port p.val).dwords then linkEvent s p.val 0x0E else s)) :=
  congrArg Host.Outcome.next (if_pos hon)

/-- An invalid dword counts in the cycle in which it comes (R279, R294). -/
theorem exec_invalidDword : ∃ t, exec (.invalidDword p) s = .next t ∧ (t.port p.val).dwCycle = s.belf.cycle.toNat ∧
    (t.port p.val).dwords = (if (s.port p.val).dwCycle = s.belf.cycle.toNat then (s.port p.val).dwords + 1 else 1) := by
  have hport : (invalidDword s p.val).port p.val = { s.port p.val with
      dwords := if (s.port p.val).dwCycle = s.belf.cycle.toNat then (s.port p.val).dwords + 1 else 1, dwCycle := s.belf.cycle.toNat } := by
    refine sget_sput_of_ne _ _ _ fun h => ?_
    have hd := congrArg Port.dwords h
    dsimp only at hd
    split at hd <;> omega
  refine ⟨_, congrArg Host.Outcome.next (if_pos hon), ?_, ?_⟩
  · rw [hport]
  · rw [hport]

section
variable {id : MasterId} (hi : s.issues id = true)
include hi
theorem exec_portEn : exec (.portEn id p) s = .next { linkEvent (s.setReg (portPage p.val) oCtl 1) p.val 0 with resp := .done } :=
  congrArg Host.Outcome.next ((cmdReg_portCtl hi hon).trans (by rw [portCtlWrite_en]))
theorem exec_portReset (hen : s.regB (portPage p.val) oCtl 0 = true) : exec (.portReset id p) s =
    .next { linkEvent ((portReset s p.val).setReg (portPage p.val) oCtl 1) p.val 0 with resp := .done } := by
  have hv : w32 (2 + b2n (s.regB (portPage p.val) oCtl 0)) = 3 := by rw [hen]; rfl
  show Host.Outcome.next (cmdReg s id (portPage p.val) oCtl (w32 (2 + b2n (s.regB (portPage p.val) oCtl 0)))) = _
  rw [hv, cmdReg_portCtl hi hon, portCtlWrite_reset]
theorem exec_disable : exec (.disable id p) s =
    .next (entryGo { portDisable (s.setReg (portPage p.val) oCtl 0) p.val with resp := .done }) :=
  congrArg (fun t => Host.Outcome.next (entryGo t)) ((cmdReg_portCtl hi hon).trans (by rw [portCtlWrite_off]))
end
end

/-! ### The link table (R281) -/

section
variable {s : State} {g e : Nat} {v : Word32}
/-- The entry that a write of `v` to the high word of entry `e` would commit; VENDOR_ENTRY stays as it is. -/
def linkNew (s : State) (g e : Nat) (v : Word32) : Nat :=
  fldSet (2 ^ 32 * v.toNat + (sget s.linkLo (linkKey g e) none).getD (s.link g e % 2 ^ 32)) 62 1 (fld (s.link g e) 62 1)
/-- R281 allows the entry `new` at place `e`. -/
def linkGood (s : State) (g e new : Nat) : Bool :=
  if e < 96 then bit (s.link g e) 62 && vendorOk (s.link g e) (sget s.loaded (linkKey g e) 0) new else operatorOk new

theorem linkWrite_low : linkWrite s g e false v = ({ s with linkLo := sput s.linkLo (linkKey g e) (some v.toNat) none }, none) := rfl
theorem linkWrite_high : linkWrite s g e true v = if linkGood s g e (linkNew s g e v) = true then
    ({ s with links := sput s.links (linkKey g e) (linkNew s g e v) 0 }, none) else (s, some .access) := rfl
end

/-! ### Presence (R282) -/

theorem presenceChange_same {s : State} {p : Nat} {b : Bool} (h : s.present p = b) : presenceChange s p b = s := by
  rw [presenceChange, h, beq_self_eq_true, if_pos rfl]
theorem presenceChange_seated {s : State} {p : Nat} (h : s.present p = false) :
    presenceChange s p true = (s.setRegF (portPage p) 0x110 9 1 1).irqBit (portPage p) 2 := by
  rw [presenceChange, h]
  rfl

/-- Settles O48, clause by clause. -/
theorem portsFollowTheirLinkPrograms : Obligations.PortsFollowTheirLinkPrograms := by
  refine ⟨fun x hx s p => ?_, fun s p hon => ⟨exec_timeout hon, exec_identRx hon, exec_dwsyncLost hon, exec_bayOff hon, exec_errRate hon,
      exec_invalidDword hon, fun id hi => ⟨exec_portEn hon hi, exec_portReset hon hi, exec_disable hon hi⟩⟩,
    fun s p b => ⟨fun h => ?_, fun h => ?_⟩, fun s id g e v hi hl => ⟨linkProgramWrite_done hi hl linkWrite_low, ?_⟩⟩
  · have hrow : exec (x.1 p) s = .next (portEvent s p.val x.2) := by fin_cases hx <;> rfl
    have h0 : x.2 ≠ 0 := by fin_cases hx <;> decide
    rw [hrow]
    refine ⟨fun hoff => ?_, fun hon hm => ?_, fun e hon hm hl ha => ?_⟩
    · rw [portEvent_off _ hoff]
    · rw [portEvent_on _ hon, linkEvent_unmatched h0 hm]
    · rw [portEvent_on _ hon, linkEvent_moves h0 hm hl ha]
      rfl
  · exact congrArg (fun t => Host.Outcome.next (entryGo t)) (presenceChange_same h)
  · exact congrArg (fun t => Host.Outcome.next (entryGo t)) (presenceChange_seated h)
  · rintro new rfl
    refine ⟨fun hg => linkProgramWrite_done hi hl (linkWrite_high.trans (if_pos hg)), fun hg => ?_⟩
    rw [linkProgramWrite_err hi hl (linkWrite_high.trans (if_neg (ne_true_of_eq_false hg))), grpOff_linkSub]
    rfl

end Sys2Proof.Proofs
end

section
/-! PROOF. The rings' requests (R272-R277): what the request at HEAD comes to, and how it ends. -/
namespace Sys2Proof.Proofs
open Sys2Proof.Machine Sys2Proof.Laws

/-! ### The slot at HEAD (R275) -/

section
variable {s t : State} {r op : Nat} {sa : Option Nat} {b : List Byte}

theorem ringServe_off (h : s.ringOn r = false) : ringServe s r op sa = s := by
  rw [ringServe, h, if_neg Bool.false_ne_true]

section
variable (hon : s.ringOn r = true) (hb : dmaRead s 17 (s.ringBase r + s.ringHead r * 64) 64 = (t, .ok (b, false))) (hs : leAt b 56 1 = 1)
include hon hb hs
/-- A submitted slot that R272 refuses is taken up by whichever command finds it. -/
theorem ringServe_refused (hr : drbRefused t b = true) : ringServe s r op sa = drbStart t r (s.ringBase r + s.ringHead r * 64) b := by
  simp only [ringServe, hon, hb, hs, hr, if_true, Bool.or_true]
/-- A submitted slot is taken up by its own command. -/
theorem ringServe_mine (ho : leAt b 0 1 = op) (ha : ∀ a, sa = some a → leAt b 1 1 % 32 = a) :
    ringServe s r op sa = drbStart t r (s.ringBase r + s.ringHead r * 64) b := by
  cases sa with
  | none => simp only [ringServe, hon, hb, hs, ho, if_true, beq_self_eq_true, Bool.and_self, Bool.true_or]
  | some a => simp only [ringServe, hon, hb, hs, ho, ha a rfl, if_true, beq_self_eq_true, Bool.and_self, Bool.true_or]
end
end

/-! ### What the request comes to (R275-R277) -/

/-- Only the two writes, and PERSISTENT RESERVE OUT, have data out (R272). -/
theorem cmdDir_dataOut {op sa : Nat} : cmdDir op sa = some .dataOut ↔ op = 0x8A ∨ op = 0x55 ∨ op = 0x5F := by
  unfold cmdDir
  split <;> simp_all

/-- The slot at `addr` ends with `st` as soon as it has started. -/
def slotEnded (s : State) (r addr : Nat) (b : List Byte) (st : Nat) : State :=
  slotDone (slotStart s r addr b) addr (leAt b 48 8) (noBytes (b.take 16) (leAt b 24 4)) st

section
variable {s : State} {r : Fin 48} {addr : Nat} {b : List Byte}
theorem drbStart_refused (hr : drbRefused s b = true) : drbStart s r addr b = slotEnded s r addr b 5 := by
  simp only [drbStart, hr, if_true]
  rfl

variable (hr : drbRefused s b = false)
include hr
theorem drbStart_notReady (hf : flagReady s (leAt b 28 1) = false) :
    drbStart s r addr b = if bit (leAt b 24 8) 40 then s else slotEnded s r addr b 8 := by
  simp only [drbStart, hr, hf, Bool.false_eq_true, if_false, Bool.not_false, if_true]
  rfl

variable (hf : flagReady s (leAt b 28 1) = true)
include hf
theorem drbStart_link (hu : s.portUp (leAt b 28 1) = false) : drbStart s r addr b = slotEnded s r addr b 4 := by
  simp only [drbStart, hr, hf, hu, Bool.false_eq_true, if_false, Bool.not_false, Bool.not_true, if_true]
  rfl

variable (hu : s.portUp (leAt b 28 1) = true)
include hu
theorem drbStart_waits (hw : tagFree s (leAt b 28 1) = false ∨ opsWaiting s (leAt b 28 1) = true) : drbStart s r addr b = s := by
  have hwait : (!(tagFree s (leAt b 28 1)) || opsWaiting s (leAt b 28 1)) = true := by
    rcases hw with h | h <;> simp [h]
  simp only [drbStart, hr, hf, hu, hwait, Bool.false_eq_true, if_false, Bool.not_true, if_true]

variable (ht : tagFree s (leAt b 28 1) = true) (hw : opsWaiting s (leAt b 28 1) = false)
include ht hw
theorem drbStart_sends (hd : cmdDir (leAt b 0 1) (leAt b 1 1 % 32) ≠ some .dataOut) :
    drbStart s r addr b = sendReq (slotStart s r addr b) (leAt b 28 1) (slotReq r addr b) [] := by
  simp only [drbStart, hr, hf, hu, ht, hw, hd, Bool.false_eq_true, if_false, Bool.not_true, Bool.or_self]
  rfl

section
variable (hd : cmdDir (leAt b 0 1) (leAt b 1 1 % 32) = some .dataOut)
include hd
theorem drbStart_sends_data {u : State} {d : List Byte}
    (hm : dmaRead (slotStart s r addr b) (dataId (leAt b 28 1)) (leAt b 16 6) (leAt b 24 4) = (u, .ok (d, false))) :
    drbStart s r addr b = sendReq u (leAt b 28 1) (slotReq r addr b) d := by
  simp only [drbStart, hr, hf, hu, ht, hw, hd, hm, Bool.false_eq_true, if_false, Bool.not_true, Bool.or_self, if_true]
  rfl
theorem drbStart_dmaErr {u : State} {e : RdAns}
    (hm : dmaRead (slotStart s r addr b) (dataId (leAt b 28 1)) (leAt b 16 6) (leAt b 24 4) = (u, e)) (he : ∀ d, e ≠ .ok (d, false)) :
    drbStart s r addr b = slotDone u addr (leAt b 48 8) (leAt b 24 4) 7 := by
  simp only [drbStart, hr, hf, hu, ht, hw, hd, hm, Bool.false_eq_true, if_false, Bool.not_true, Bool.or_self, if_true]
end
end

/-! ### The end of a ring's request (R276) -/

/-- The port without the request at place `k`. -/
def tagFreed (s : State) (p k : Nat) : State := s.setPort p { s.port p with active := (s.port p).active.eraseIdx k }
/-- STATUS of an answer to request `r`; TEST UNIT READY of a SATA drive is GOOD where it reports active or idle (R273). -/
def answerStatus (s : State) (p : Nat) (r : DReq) (a : Answer) : Nat :=
  if (s.port p).rate = 3 ∧ leAt r.cdb 0 1 = 0 ∧ a.active = false ∧ ansStatus a = 0 then 1 else ansStatus a

section
variable {s : State} {p k : Nat} {r : DReq} {q addr : Nat} (hr : (s.port p).active[k]? = some r) (hsrc : r.src = .ring q addr)

include hr hsrc
section
variable {a : Answer}
theorem driveAnswer_noData (hd : a.data = []) :
    driveAnswer s p k a = slotDone (tagFreed s p k) addr r.w6.toNat (ansW5 a) (answerStatus s p r a) := by
  simp only [driveAnswer, hr, hsrc, hd, List.isEmpty_nil, if_true, reqDone]
  rfl

variable (hd : a.data ≠ [])
include hd
theorem driveAnswer_data {u : State} (hw : dmaWrite (tagFreed s p k) (dataId p) r.buf (a.data.take r.len) = (u, none)) :
    driveAnswer s p k a = slotDone u addr r.w6.toNat (ansW5 a)
      (if stillPoisoned u r.buf (a.data.take r.len).length then 7 else answerStatus s p r a) := by
  have hne : a.data.isEmpty = false := List.isEmpty_eq_false_iff.mpr hd
  unfold tagFreed at hw
  simp only [driveAnswer, hr, hsrc, hne, hw, Bool.false_eq_true, if_false, reqDone]
  rfl
theorem driveAnswer_dmaErr {u : State} {e : BusCause} (hw : dmaWrite (tagFreed s p k) (dataId p) r.buf (a.data.take r.len) = (u, some e)) :
    driveAnswer s p k a = slotDone u addr r.w6.toNat (ansW5 a) 7 := by
  have hne : a.data.isEmpty = false := List.isEmpty_eq_false_iff.mpr hd
  unfold tagFreed at hw
  simp only [driveAnswer, hr, hsrc, hne, hw, Bool.false_eq_true, if_false, reqDone]
end

theorem driveTimeout_ends (ht : s.regF (portPage p) 0x10C 0 16 ≠ 0) :
    driveTimeout s p k = slotDone (tagFreed s p k) addr r.w6.toNat (noBytes r.cdb r.len) 3 := by
  simp only [driveTimeout, if_neg ht, hr, reqDone, hsrc]
  rfl
end

section
variable {s : State} {p : Nat} (h : (s.port p).active = []) (k : Nat)
include h
theorem driveAnswer_none (a : Answer) : driveAnswer s p k a = s := by
  simp only [driveAnswer, h, List.getElem?_nil]
theorem driveTimeout_none : driveTimeout s p k = s := by
  simp only [driveTimeout, h, List.getElem?_nil, ite_self]
end

end Sys2Proof.Proofs
end

section
/-! PROOF. The commands that the device itself sends to drives (R277, R289, R292, R293), and SASP_RBASE and SASP_FCTL. -/
namespace Sys2Proof.Proofs
open Sys2Proof.Machine Sys2Proof.Laws

/-! ### The first waiting command that may go (R277) -/

section
variable {s : State} {want : Nat → DSrc → Bool} {p : Nat} {src : DSrc}

/-- `opSend` takes the first command of its kind that may be sent. -/
theorem opSend_found (h : s.pwr.ops.find? (fun o => want o.1 o.2 && canSend s o) = some (p, src)) (hs : src ≠ .start) :
    opSend s want = sentOp s (s.pwr.ops.erase (p, src)) p src (opCdb s src).1 (opCdb s src).2 := by
  unfold canSend at h
  simp only [opSend, preemptWaits, h, if_neg hs]
  rfl
/-- A START makes its member STARTED (R289). -/
theorem opSend_found_start (h : s.pwr.ops.find? (fun o => want o.1 o.2 && canSend s o) = some (p, .start)) :
    opSend s want = sendReq (({ s with pwr := { s.pwr with ops := s.pwr.ops.erase (p, .start) } } : State).setMstate p 4) p
      { src := .start, cdb := (opCdb s .start).1 } (opCdb s .start).2 := by
  unfold canSend at h
  simp only [opSend, preemptWaits, h, if_true]

theorem opSend_sends {pre post : List (Nat × DSrc)} (ho : s.pwr.ops = pre ++ (p, src) :: post) (hw : want p src = true)
    (hc : canSend s (p, src) = true) (hpre : ∀ o ∈ pre, want o.1 o.2 = true → canSend s o = false) (hs : src ≠ .start) :
    opSend s want = sentOp s (pre ++ post) p src (opCdb s src).1 (opCdb s src).2 := by
  have hnone : pre.find? (fun o => want o.1 o.2 && canSend s o) = none := List.find?_eq_none.mpr fun o hm h => by
    obtain ⟨h1, h2⟩ := Bool.and_eq_true_iff.mp h
    rw [hpre o hm h1] at h2
    exact Bool.false_ne_true h2
  have hfind : s.pwr.ops.find? (fun o => want o.1 o.2 && canSend s o) = some (p, src) := by
    rw [ho, List.find?_append, hnone, Option.none_or, List.find?_cons_of_pos (by simp only [hw, hc, Bool.and_self])]
  have hnot : (p, src) ∉ pre := fun hm => by
    rw [hpre _ hm hw] at hc
    exact Bool.false_ne_true hc
  rw [opSend_found hfind hs, ho, List.erase_append_right _ hnot, List.erase_cons_head]
end

/-- The SYNCHRONIZE CACHE of a FLUSH (R244). -/
def isFlush : DSrc → Bool
  | .flush _ => true
  | _ => false
theorem isFlush_iff {x : DSrc} : isFlush x = true ↔ ∃ j, x = .flush j := by
  cases x <;> simp [isFlush]
/-- A command of the fencing engine (R292, R293). -/
abbrev isFence (x : DSrc) : Bool := x == .register || (x == .reserve || x == .preempt)
theorem isFence_iff {x : DSrc} : isFence x = true ↔ x = .register ∨ x = .reserve ∨ x = .preempt := by
  simp [isFence]

section
variable {s : State} {pre post : List (Nat × DSrc)}
theorem synchronizeCache16_sends {p : Fin 240} {i : Nat} (ho : s.pwr.ops = pre ++ (p.val, .flush i) :: post)
    (hc : canSend s (p.val, .flush i) = true) (hpre : ∀ o ∈ pre, ∀ j, o ≠ (p.val, .flush j)) :
    exec (.synchronizeCache16 (.own p)) s = .next (sentOp s (pre ++ post) p.val (.flush i) (0x91 :: List.replicate 15 0) []) := by
  have hrow : exec (.synchronizeCache16 (.own p)) s = .next (opSend s fun q x => q == p.val && isFlush x) := rfl
  have hother : ∀ o ∈ pre, (o.1 == p.val && isFlush o.2) = true → canSend s o = false := fun o hm hw => by
    obtain ⟨hq, hx⟩ := Bool.and_eq_true_iff.mp hw
    obtain ⟨j, hj⟩ := isFlush_iff.mp hx
    exact absurd (Prod.ext (beq_iff_eq.mp hq) hj) (hpre o hm j)
  rw [hrow, opSend_sends ho (Bool.and_eq_true_iff.mpr ⟨beq_self_eq_true _, rfl⟩) hc hother nofun]
  rfl
theorem persistentReserveOut_sends {p : Nat} {src : DSrc} (ho : s.pwr.ops = pre ++ (p, src) :: post) (hf : isFence src = true)
    (hc : canSend s (p, src) = true) (hpre : ∀ o ∈ pre, o.2 = .register ∨ o.2 = .reserve ∨ o.2 = .preempt → canSend s o = false) :
    exec .persistentReserveOut s = .next (sentOp s (pre ++ post) p src (opCdb s src).1 (opCdb s src).2) :=
  congrArg Host.Outcome.next (opSend_sends (want := fun _ x => isFence x) ho hf hc (fun o hm hw => hpre o hm (isFence_iff.mp hw))
    fun h => by rw [h] at hf; cases hf)
end

/-! ### START STOP UNIT (R289) -/

theorem firstNat_some {f : Nat → Bool} {l : List Nat} {a : Nat} (h : firstNat f l = some a) : f a = true := by
  induction l with
  | nil => cases h
  | cons x l ih =>
    rw [firstNat] at h
    split at h
    · next hx => rwa [← Option.some.inj h]
    · exact ih h

/-- The START of port `q` waits and may be sent. -/
abbrev startDue (s : State) (q : Nat) : Bool := s.pwr.ops.contains (q, .start) && canSend s (q, .start)

section
variable {s : State} (hm : s.pmaster = true)
include hm
theorem startStop_eq : startStop s = match firstNat (startDue s) allPorts with
    | some p => opSend s fun q x => q == p && x == .start
    | none => opSend s fun _ x => x == .stop := by
  rw [startStop, if_pos hm]
  rfl
theorem startStop_starts {p : Nat} (h : firstNat (startDue s) allPorts = some p) : startStop s =
    sendReq (({ s with pwr := { s.pwr with ops := s.pwr.ops.erase (p, .start) } } : State).setMstate p 4) p
      { src := .start, cdb := (opCdb s .start).1 } (opCdb s .start).2 := by
  obtain ⟨hin, hsend⟩ := Bool.and_eq_true_iff.mp (firstNat_some h)
  have hfind : s.pwr.ops.find? (fun o => (o.1 == p && o.2 == .start) && canSend s o) = some (p, .start) := by
    cases hf : s.pwr.ops.find? (fun o => (o.1 == p && o.2 == .start) && canSend s o) with
    | none => exact absurd (by simp [hsend]) (List.find?_eq_none.mp hf (p, .start) (List.contains_iff_mem.mp hin))
    | some o =>
      have ho := List.find?_some hf
      simp only [Bool.and_eq_true, beq_iff_eq] at ho
      obtain ⟨⟨h1, h2⟩, -⟩ := ho
      rw [← h1, ← h2]
  rw [startStop_eq hm, h]
  exact opSend_found_start hfind
theorem startStop_stops {pre post : List (Nat × DSrc)} {p : Nat} (h : firstNat (startDue s) allPorts = none)
    (ho : s.pwr.ops = pre ++ (p, .stop) :: post) (hc : canSend s (p, .stop) = true) (hpre : ∀ o ∈ pre, o.2 = .stop → canSend s o = false) :
    startStop s = sentOp s (pre ++ post) p .stop (opCdb s .stop).1 (opCdb s .stop).2 := by
  rw [startStop_eq hm, h]
  exact opSend_sends ho rfl hc (fun o hmem hw => hpre o hmem (beq_iff_eq.mp hw)) (by decide)
end
theorem startStop_idle {s : State} (hm : s.pmaster = false) : startStop s = s := by
  rw [startStop, hm, if_neg Bool.false_ne_true]

/-! ### Probes (R272, R285) -/

section
variable {s : State} {p op : Nat}
/-- PWR may send a command of its own on port `p`. -/
theorem pwrProbe_free (hc : canSend s (p, .probe) = true) (hr : (s.port p).rate ≠ 3 ∨ sataMay op = true) :
    (s.portUp p && (tagFree s p && (!(preemptWaits s p) && ((s.port p).rate != 3 || sataMay op)))) = true := by
  have hrate : ((s.port p).rate != 3 || sataMay op) = true := by
    rcases hr with h | h <;> simp [h]
  have hc' : (!(preemptWaits s p) && (s.portUp p && tagFree s p)) = true := hc
  simp only [Bool.and_eq_true] at hc' ⊢
  obtain ⟨h1, h2, h3⟩ := hc'
  exact ⟨h2, h3, h1, hrate⟩
theorem pwrProbe_sends (hc : canSend s (p, .probe) = true) (hr : (s.port p).rate ≠ 3 ∨ sataMay op = true) (h0 : op ≠ 0) :
    pwrProbe s p op = sendReq s p { src := .probe, cdb := byte op :: List.replicate 15 0 } [] := by
  rw [pwrProbe, if_pos (pwrProbe_free hc hr)]
  simp only [if_neg h0]
theorem pwrProbe_tur (hc : canSend s (p, .tur) = true) (hi : s.inSet p = true) (hst : s.setSt (s.setNo p) = 2) (hms : s.mstate p = 4) :
    pwrProbe s p 0 = sendReq s p { src := .tur, cdb := List.replicate 16 0 } [] := by
  rw [pwrProbe, if_pos (pwrProbe_free hc (.inr rfl))]
  simp only [hi, hst, hms, beq_self_eq_true, Bool.and_self, if_true]
  rfl
end

/-! ### SASP_RBASE (R294) -/

/-- SASP_RBASE of ring `r`. -/
theorem saspInfo_rbase : ∀ r : Fin 48, saspInfo 255 (0x140 + 8 * r.val) = some { rw := 0x83FFF000 } := by decide

section
variable {s t : State} {id : MasterId} {r : Fin 48} {v : Word32} (hi : s.issues id = true)
theorem blockWrite_rbase : blockWrite s id.val .sasp 255 (0x140 + 8 * r.val) v = some (rbaseWrite s 0x2FF (0x140 + 8 * r.val) v) := by
  have hix : arrIx (0x140 + 8 * r.val) 0x140 8 48 = some (r.val, 0) := by
    have h := arrIx_elem (lo := 0x140) (stride := 8) (sub := 0) r.isLt (by decide)
    rwa [Nat.mul_comm] at h
  simp only [blockWrite, saspWrite, if_neg (show ¬ 255 < 240 by decide), if_neg (show ¬ 255 < 255 by decide),
    if_neg (show ¬ 0x140 + 8 * r.val = 0x110 by omega), hix]

include hi
theorem regOpen_rbase : RegOpen s id 0x2FF (0x140 + 8 * r.val) .sasp 255 { rw := 0x83FFF000 } :=
  regOpen_sasp hi (by decide) (by omega) (by omega) (by omega) (saspInfo_rbase r) (Bool.and_false _)
theorem saspRbaseWrite_done (h : rbaseWrite s 0x2FF (0x140 + 8 * r.val) v = (t, none)) :
    exec (.saspRbaseWrite id r v) s = .next { t with resp := .done } :=
  congrArg Host.Outcome.next ((regOpen_rbase hi).done (blockWrite_rbase.trans (congrArg some h)))
theorem saspRbaseWrite_err {c : BusCause} (h : rbaseWrite s 0x2FF (0x140 + 8 * r.val) v = (s, some c)) :
    exec (.saspRbaseWrite id r v) s = .next { s.berr id (regAddr 0x2FF (0x140 + 8 * r.val)) true c with resp := .err c } :=
  congrArg Host.Outcome.next ((regOpen_rbase hi).err (blockWrite_rbase.trans (congrArg some h)))
end

section
variable {s : State} {page off : Nat} {v : Word32}
/-- EN of the word that a write to a ring's base leaves. -/
theorem regBit_rbase (v : Word32) : regBit (v &&& w32 0x83FFF000) 31 = regBit v 31 := by
  rw [regBit_and, show regBit (w32 0x83FFF000) 31 = true from rfl, Bool.and_true]
theorem rbaseWrite_enables (ho : regBit (s.reg page off) 31 = false) (hv : regBit v 31 = true) :
    rbaseWrite s page off v = ((s.setReg page off (v &&& 0x83FFF000)).setReg page (off + 4) 0, none) := by
  simp only [rbaseWrite, ho, regBit_rbase, hv, Bool.false_eq_true, if_false, if_true]
  rfl
theorem rbaseWrite_disables (hv : regBit v 31 = false) : rbaseWrite s page off v = (s.setReg page off (v &&& 0x83FFF000), none) := by
  simp only [rbaseWrite, regBit_rbase, hv, Bool.false_eq_true, if_false, ite_self]
  rfl
theorem rbaseWrite_binding (ho : regBit (s.reg page off) 31 = true) (hv : regBit v 31 = true) :
    rbaseWrite s page off v = (s, some .binding) := by
  simp only [rbaseWrite, ho, regBit_rbase, hv, if_true]
end

/-! ### SASP_FCTL (R292, R293) -/

section
variable {s : State} {id : MasterId} {v : Word32} (hi : s.issues id = true) (hc : s.custodyOf id = true)
include hi hc
theorem regOpen_fctl : RegOpen s id 0x2FF 0x110 .sasp 255 { wo := 3, custody := true } :=
  regOpen_sasp (n := 255) (off := 0x110) hi (by decide) (by decide) (by decide) (by decide) rfl (by rw [hc]; rfl)
theorem exec_fenceRegister : exec (.fenceRegister id) s = .next { fctlWrite s 1 with resp := .done } :=
  congrArg Host.Outcome.next ((regOpen_fctl hi hc).done (v := 1) rfl)
theorem exec_preempt : exec (.preempt id) s = .next { fctlWrite s 2 with resp := .done } :=
  congrArg Host.Outcome.next ((regOpen_fctl hi hc).done (v := 2) rfl)
end

section
variable {s : State}
theorem fctlWrite_busy (h : fenceBusy s = true) (v : Word32) : fctlWrite s v = s := by rw [fctlWrite, if_pos h]
theorem fctlWrite_register (h : fenceBusy s = false) : fctlWrite s 1 = fenceStart (s.setReg 0x2FF 0x114 0) .register := by
  simp [fctlWrite, h, regBit]
theorem fctlWrite_preempt (h : fenceBusy s = false) : fctlWrite s 2 = fenceStart (s.setReg 0x2FF 0x114 0) .preempt := by
  simp [fctlWrite, h, regBit]
end

/-! ### The drives that a fencing command goes to -/

/-- Whether a port is up depends on the ports and the domains. -/
theorem portUp_congr {s t : State} (hp : t.ports = s.ports) (hd : t.domains = s.domains) (p : Nat) : t.portUp p = s.portUp p := by
  unfold State.portUp State.port State.dom
  rw [hp, hd]

theorem mem_allPorts {p : Nat} : p ∈ allPorts ↔ p < 240 := by
  rw [allPorts, mem_rangeFrom]
  omega
/-- A fencing command goes to port `p`: its drive is live, up and no SATA drive. -/
def fenced (s : State) (p : Nat) : Bool := s.portUp p && (s.live p && (s.port p).rate != 3)
/-- The bit of SASP_FPEND that records a preempt of port `p` (R293). -/
def fpend (s : State) (p : Nat) : Bool := regBit (s.reg 0x2FF (0x118 + p / 32 * 4)) (p % 32)

/-- `t` is `s` after the fencing engine has gone through the ports `l` with command `op`: it queues the command for each of their drives that
it goes to, and records a preempt of a drive that is not up. -/
structure FenceQueued (s t : State) (op : DSrc) (l : List Nat) : Prop where
  only : ∃ rs os, t = { s with regs := rs, pwr := { s.pwr with ops := os } }
  regs : ∀ p o, p ≠ 0x2FF → o < 4096 → t.reg p o = s.reg p o
  ops : t.pwr.ops = s.pwr.ops ++ (l.filter (fenced s)).map fun p => (p, op)
  wf : Regs.wf s = true → Regs.wf t = true
  pend : op = .preempt → Regs.wf s = true → ∀ p ∈ l, s.present p = true → s.portUp p = false → fpend t p = true

/-- One port of `fenceStart`. -/
def fenceStep (op : DSrc) (t : State) (p : Nat) : State :=
  if t.portUp p then
    (if t.live p && (t.port p).rate != 3 then { t with pwr := { t.pwr with ops := t.pwr.ops ++ [(p, op)] } } else t)
  else if op = .preempt ∧ t.present p = true then t.setRegF 0x2FF (0x118 + p / 32 * 4) (p % 32) 1 1 else t

theorem fenceStart_eq (s : State) (op : DSrc) : fenceStart s op = allPorts.foldl (fenceStep op) s := rfl

section
variable {s t : State} {op : DSrc} {l : List Nat}

/-- What decides about a port is not touched by the engine. -/
theorem FenceQueued.sees (h : FenceQueued s t op l) {p : Nat} (hp : p < 240) :
    t.portUp p = s.portUp p ∧ t.live p = s.live p ∧ t.port p = s.port p ∧ t.present p = s.present p := by
  obtain ⟨rs, os, ht⟩ := h.only
  have hport : t.port p = s.port p := by rw [ht]; rfl
  have hbay : t.present p = s.present p :=
    congrArg (regBit · 9) (h.regs (portPage p) 0x110 (by unfold portPage; omega) (by decide))
  have hexcl : t.excl p = s.excl p := congrArg (regFld · 8 3) (h.regs 0x352 (0x100 + 4 * p) (by decide) (by omega))
  refine ⟨portUp_congr (by rw [ht]) (by rw [ht]) p, ?_, hport, hbay⟩
  rw [State.live, State.live, hbay, hexcl, hport]

/-- A record of SASP_FPEND stays when another is made. -/
theorem fpend_setRegF {p q : Nat} (hw : Regs.wf t = true) (h : fpend t q = true ∨ q = p) (hp : p < 240) (hq : q < 240) :
    fpend (t.setRegF 0x2FF (0x118 + p / 32 * 4) (p % 32) 1 1) q = true := by
  unfold fpend
  by_cases hword : q / 32 = p / 32
  · rw [hword, reg_setRegF hw, regBit_regSet _ _ _ _ (Nat.mod_lt _ (by decide))]
    by_cases hbit : q % 32 = p % 32
    · rw [if_pos (by omega), hbit, Nat.sub_self]
      rfl
    · rw [if_neg (by omega), ← hword]
      exact h.resolve_right fun he => hbit (by rw [he])
  · rw [reg_setRegF_ne (by omega) (by omega) (by omega)]
    exact h.resolve_right fun he => hword (by rw [he])

/-- A port for which the engine queues nothing and records nothing. -/
theorem FenceQueued.skip (h : FenceQueued s t op l) {p : Nat} (hf : fenced s p = false)
    (hn : op = .preempt → s.present p = true → s.portUp p = true) : FenceQueued s t op (l ++ [p]) := by
  refine ⟨h.only, h.regs, ?_, h.wf, fun ho hw q hq hpr hd => ?_⟩
  · rw [h.ops, List.filter_append, List.filter_singleton, hf, Bool.cond_false, List.append_nil]
  · rcases List.mem_append.mp hq with hq | hq
    · exact h.pend ho hw q hq hpr hd
    · obtain rfl := List.mem_singleton.mp hq
      rw [hn ho hpr] at hd
      cases hd
/-- A port for whose drive the engine queues the command. -/
theorem FenceQueued.queue (h : FenceQueued s t op l) {p : Nat} (hf : fenced s p = true) :
    FenceQueued s { t with pwr := { t.pwr with ops := t.pwr.ops ++ [(p, op)] } } op (l ++ [p]) := by
  obtain ⟨rs, os, ht⟩ := h.only
  refine ⟨⟨rs, t.pwr.ops ++ [(p, op)], by rw [ht]⟩, h.regs, ?_, h.wf, fun ho hw q hq hpr hd => ?_⟩
  · rw [List.filter_append, List.filter_singleton, hf, Bool.cond_true, List.map_append, ← List.append_assoc, ← h.ops]
    rfl
  · rcases List.mem_append.mp hq with hq | hq
    · exact h.pend ho hw q hq hpr hd
    · obtain rfl := List.mem_singleton.mp hq
      rw [fenced, hd, Bool.false_and] at hf
      cases hf
/-- A port whose drive the engine records in SASP_FPEND. -/
theorem FenceQueued.record (h : FenceQueued s t op l) {p : Nat} (hl : ∀ q ∈ l, q < 240) (hp : p < 240) (hd : s.portUp p = false) :
    FenceQueued s (t.setRegF 0x2FF (0x118 + p / 32 * 4) (p % 32) 1 1) op (l ++ [p]) := by
  obtain ⟨rs, os, ht⟩ := h.only
  refine ⟨⟨_, os, by rw [ht]; rfl⟩, fun q o hq ho => ?_, ?_, fun hw => wf_setRegF _ _ _ _ _ (h.wf hw), fun ho hw q hq hpr hdq => ?_⟩
  · rw [reg_setRegF_ne (by omega) ho (fun hk => hq hk.1), h.regs q o hq ho]
  · rw [setRegF_pwr, h.ops, List.filter_append, List.filter_singleton, fenced, hd, Bool.false_and, Bool.cond_false, List.append_nil]
  · rcases List.mem_append.mp hq with hq | hq
    · exact fpend_setRegF (h.wf hw) (.inl (h.pend ho hw q hq hpr hdq)) hp (hl q hq)
    · exact fpend_setRegF (h.wf hw) (.inr (List.mem_singleton.mp hq)) hp (List.mem_singleton.mp hq ▸ hp)

theorem FenceQueued.step (h : FenceQueued s t op l) {p : Nat} (hl : ∀ q ∈ l, q < 240) (hp : p < 240) :
    FenceQueued s (fenceStep op t p) op (l ++ [p]) := by
  obtain ⟨hup, hlive, hport, hbay⟩ := h.sees hp
  unfold fenceStep
  rw [hup, hlive, hport, hbay]
  split_ifs with hu hf hr
  · exact h.queue (by rw [fenced, hu, hf]; rfl)
  · exact h.skip (by rw [fenced, hu, Bool.true_and]; exact Bool.eq_false_of_not_eq_true hf) fun _ _ => hu
  · exact h.record hl hp (Bool.eq_false_of_not_eq_true hu)
  · exact h.skip (by rw [fenced, Bool.eq_false_of_not_eq_true hu, Bool.false_and]) fun ho hpr => absurd ⟨ho, hpr⟩ hr

/-- Before its first port the engine has cleared SASP_FSTAT and nothing else. -/
theorem FenceQueued.begin (s : State) (op : DSrc) : FenceQueued s (s.setReg 0x2FF 0x114 0) op [] where
  only := ⟨_, s.pwr.ops, rfl⟩
  regs := fun _ _ hp ho => reg_setReg_ne _ _ _ _ _ _ (by decide) ho fun h => hp h.1
  ops := (List.append_nil _).symm
  wf := fun h => wf_setReg _ _ _ _ h
  pend := fun _ _ _ hp => absurd hp List.not_mem_nil

theorem FenceQueued.foldl {m : List Nat} (h : FenceQueued s t op l) (hl : ∀ q ∈ l ++ m, q < 240) :
    FenceQueued s (m.foldl (fenceStep op) t) op (l ++ m) := by
  induction m generalizing t l with
  | nil => rwa [List.append_nil]
  | cons p m ih =>
    rw [List.append_cons] at hl ⊢
    exact ih (h.step (fun q hq => hl q (by simp [hq])) (hl p (by simp))) hl

theorem fenceStart_queues (s : State) (op : DSrc) : FenceQueued s (fenceStart (s.setReg 0x2FF 0x114 0) op) op allPorts := by
  rw [fenceStart_eq]
  exact (FenceQueued.begin s op).foldl fun _ hq => mem_allPorts.mp hq

theorem FenceQueued.mem (h : FenceQueued s t op l) : t.mem = s.mem := by
  obtain ⟨_, _, ht⟩ := h.only
  rw [ht]
end

end Sys2Proof.Proofs
end

section
/-! PROOF. Drive requests (R272-R277, R292, R294). -/
namespace Sys2Proof.Proofs
open Sys2Proof.Machine Sys2Proof.Laws

/-- Settles O47, clause by clause. -/
theorem driveRequestsRunFromTheirRings : Obligations.DriveRequestsRunFromTheirRings := by
  refine ⟨fun x hx s t r b => ?_, fun x hx s p hc hr => ?_, fun s p pre post => ⟨fun hc hi hst hms => ?_, fun i ho hc hpre => ?_,
      fun hm h => ?_, fun hm h ho hc hpre => ?_, fun hm => congrArg _ (startStop_idle hm), fun x hx ho hc hpre => ?_⟩,
    fun s p k a r q addr hk hsrc v st hv hst => ?_, fun s p k h => ⟨fun a => ?_, ?_⟩, fun s id r v hi => ?_,
    fun s id hi hcu => ?_⟩
  · have hrow : exec (x.1 r) s = .next (ringServe s r.val x.2.1 x.2.2) := by fin_cases hx <;> rfl
    have hop : x.2.1 ≠ 0x5F := by fin_cases hx <;> decide
    rw [hrow]
    refine ⟨fun hoff => ?_, fun hon hb hs href => ?_, fun hon hb hs ho ha => ?_⟩
    · rw [ringServe_off hoff]
    · exact congrArg _ ((ringServe_refused hon hb hs href).trans (drbStart_refused href))
    · have hmine : ringServe s r.val x.2.1 x.2.2 = drbStart t r (headSlot s r) b := ringServe_mine hon hb hs ho ha
      have hdir : cmdDir (leAt b 0 1) (leAt b 1 1 % 32) = some .dataOut ↔ x.2.1 = 0x8A ∨ x.2.1 = 0x55 := by
        rw [cmdDir_dataOut, ho]
        simp only [hop, or_false]
      rw [hmine]
      refine ⟨fun hr hf => congrArg _ (drbStart_notReady hr hf), fun hr hf hu => congrArg _ (drbStart_link hr hf hu),
        fun hr hf hu hw => congrArg _ (drbStart_waits hr hf hu hw), fun hr hf hu ht hw => ⟨fun h1 h2 => ?_, fun u d h hm => ?_,
        fun u e h hm he => ?_⟩⟩
      · exact congrArg _ (drbStart_sends hr hf hu ht hw fun h => (hdir.mp h).elim h1 h2)
      · exact congrArg _ (drbStart_sends_data hr hf hu ht hw (hdir.mpr h) hm)
      · exact congrArg _ (drbStart_dmaErr hr hf hu ht hw (hdir.mpr h) hm he)
  · have hrow : exec (x.1 (.own p)) s = .next (pwrProbe s p.val x.2) := by fin_cases hx <;> rfl
    have h0 : x.2 ≠ 0 := by fin_cases hx <;> decide
    rw [hrow, pwrProbe_sends hc hr h0]
  · exact congrArg _ (pwrProbe_tur hc hi hst hms)
  · exact synchronizeCache16_sends ho hc hpre
  · exact congrArg _ (startStop_starts hm h)
  · exact congrArg _ (startStop_stops hm h ho hc hpre)
  · obtain ⟨hf, hcdb⟩ : isFence x.1 = true ∧ opCdb s x.1 = x.2 := by
      simp only [List.mem_cons, List.not_mem_nil, or_false] at hx
      rcases hx with rfl | rfl | rfl <;> exact ⟨rfl, rfl⟩
    rw [persistentReserveOut_sends ho hf hc hpre, hcdb]
  · subst hv hst
    exact ⟨fun hd => congrArg _ (congrArg entryGo (driveAnswer_noData hk hsrc hd)),
      fun u hd hw => congrArg _ (congrArg entryGo (driveAnswer_data (a := answerOf a) hk hsrc hd hw)),
      fun u e hd hw => congrArg _ (congrArg entryGo (driveAnswer_dmaErr (a := answerOf a) hk hsrc hd hw)),
      fun ht => congrArg _ (congrArg entryGo (driveTimeout_ends hk hsrc ht))⟩
  · exact congrArg _ (congrArg entryGo (driveAnswer_none h _ _))
  · exact congrArg _ (congrArg entryGo (driveTimeout_none h _))
  · have hhead : 0x144 + 8 * r.val = 0x140 + 8 * r.val + 4 := by omega
    rw [hhead]
    exact ⟨fun ho hv => saspRbaseWrite_done hi (rbaseWrite_enables ho hv), fun hv => saspRbaseWrite_done hi (rbaseWrite_disables hv),
      fun ho hv => saspRbaseWrite_err hi (rbaseWrite_binding ho hv)⟩
  · rw [exec_fenceRegister hi hcu, exec_preempt hi hcu]
    refine ⟨fun hb => ?_, fun hb => ?_⟩
    · rw [fctlWrite_busy hb, fctlWrite_busy hb]
      exact ⟨rfl, rfl⟩
    · rw [fctlWrite_register hb, fctlWrite_preempt hb]
      have hreg := fenceStart_queues s .register
      have hpre := fenceStart_queues s .preempt
      generalize fenceStart (s.setReg 0x2FF 0x114 0) .register = t at hreg ⊢
      generalize fenceStart (s.setReg 0x2FF 0x114 0) .preempt = u at hpre ⊢
      exact ⟨⟨_, rfl, rfl, hreg.mem, hreg.ops⟩, ⟨_, rfl, rfl, hpre.mem, hpre.ops, fun hw p hp => hpre.pend rfl hw p (mem_allPorts.mpr hp)⟩⟩

end Sys2Proof.Proofs
end

section
/-! PROOF. Byte strings that are read back field by field, and the CRC-32C that ends CST datagrams and flits (R300, R306). -/
namespace Sys2Proof.Proofs
open Sys2Proof.Machine Sys2Proof.Laws

/-! ### Fields of a byte string (R9) -/

@[simp] theorem length_beBytes (n x : Nat) : (beBytes n x).length = n := by rw [beBytes, List.length_reverse, length_leBytes]
theorem ofBE_beBytes (n x : Nat) : ofBE (beBytes n x) = x % 256 ^ n := by rw [ofBE, beBytes, List.reverse_reverse, ofLE_leBytes]

theorem ofLE_lt (l : List Byte) : ofLE l < 256 ^ l.length := by
  induction l with
  | nil => exact Nat.one_pos
  | cons b l ih =>
    have hb := b.isLt
    rw [ofLE, List.length_cons, Nat.pow_succ']
    omega
theorem leAt_lt (l : List Byte) (o n : Nat) : leAt l o n < 256 ^ n :=
  (ofLE_lt _).trans_le (Nat.pow_le_pow_right (by decide) (List.length_take_le _ _))
theorem beAt_lt (l : List Byte) (o n : Nat) : beAt l o n < 256 ^ n := by
  refine (ofLE_lt _).trans_le (Nat.pow_le_pow_right (by decide) ?_)
  rw [List.length_reverse]
  exact List.length_take_le _ _

section
variable {a b : List Byte} (c : List Byte) {o n : Nat}
theorem drop_take_mid (ho : a.length = o) (hn : b.length = n) : ((a ++ (b ++ c)).drop o).take n = b := by
  rw [List.drop_left' ho, List.take_left' hn]
theorem beAt_mid (ho : a.length = o) (hn : b.length = n) : beAt (a ++ (b ++ c)) o n = ofBE b := by rw [beAt, drop_take_mid c ho hn]
theorem leAt_mid (ho : a.length = o) (hn : b.length = n) : leAt (a ++ (b ++ c)) o n = ofLE b := by rw [leAt, drop_take_mid c ho hn]
end

/-- The bytes of fields in network order, each a width and a value. -/
def fieldBytes (l : List (Nat × Nat)) : List Byte := l.flatMap fun x => beBytes x.1 x.2

theorem length_fieldBytes (l : List (Nat × Nat)) : (fieldBytes l).length = (l.map Prod.fst).sum := by
  simp [fieldBytes, List.length_flatMap]
/-- Each field is read where the ones before it end. -/
theorem beAt_fieldBytes (l : List (Nat × Nat)) (w x : Nat) (r : List (Nat × Nat)) (c : List Byte) :
    beAt (fieldBytes (l ++ (w, x) :: r) ++ c) (l.map Prod.fst).sum w = x % 256 ^ w := by
  have hsplit : fieldBytes (l ++ (w, x) :: r) ++ c = fieldBytes l ++ (beBytes w x ++ (fieldBytes r ++ c)) := by
    simp [fieldBytes]
  rw [hsplit, beAt_mid _ (length_fieldBytes l) (length_beBytes w x), ofBE_beBytes]

/-! ### The CRC-32C at the end (R300, R306) -/

theorem crcShiftR_lt (n : Nat) {c : Nat} (h : c < 2 ^ 32) : crcShiftR 0x82F63B78 n c < 2 ^ 32 := by
  induction n generalizing c with
  | zero => exact h
  | succ n ih =>
    refine ih ?_
    have hhalf : c / 2 < 2 ^ 32 := by omega
    split
    · exact Nat.xor_lt_two_pow hhalf (by decide)
    · exact hhalf
theorem crc32c_lt (l : List Byte) {c : Nat} (h : c < 2 ^ 32) : crc32c c l < 2 ^ 32 := by
  induction l generalizing c with
  | nil => exact h
  | cons b l ih => exact ih (crcShiftR_lt 8 (Nat.xor_lt_two_pow h (by have := b.isLt; omega)))
theorem crcInv_lt (l : List Byte) : crcInv l < 2 ^ 32 := Nat.xor_lt_two_pow (crc32c_lt l (by decide)) (by decide)

/-- A byte string with its CRC-32C behind it. -/
def sealed (b : List Byte) : List Byte := b ++ beBytes 4 (crcInv b)

theorem length_sealed (b : List Byte) : (sealed b).length = b.length + 4 := by rw [sealed, List.length_append, length_beBytes]
theorem take_sealed (b : List Byte) : (sealed b).take b.length = b := List.take_left
theorem crc_sealed (b : List Byte) : beAt (sealed b) b.length 4 = crcInv b := by
  have h := beAt_mid (a := b) [] rfl (length_beBytes 4 (crcInv b))
  rw [List.append_nil, ofBE_beBytes] at h
  exact h.trans (Nat.mod_eq_of_lt (crcInv_lt b))

/-! ### CST datagrams (R300) -/

/-- The header fields of R300. -/
def cstFields (f : Cst) : List (Nat × Nat) := [(1, 0x10), (1, f.kind), (2, b2n f.retry), (6, f.client), (4, f.seq), (4, f.qid), (2, f.win),
  (8, f.off), (4, f.arg)]

theorem cstBytes_eq (f : Cst) : cstBytes f = sealed (fieldBytes (cstFields f) ++ f.payload) := by
  have hone : ∀ x, beBytes 1 x = [byte x] := fun x => rfl
  simp [cstBytes, sealed, fieldBytes, cstFields, hone, byte]

theorem length_cstFields (f : Cst) : (fieldBytes (cstFields f)).length = 32 := length_fieldBytes _

theorem length_cstBytes (f : Cst) : (cstBytes f).length = f.payload.length + 36 := by
  rw [cstBytes_eq, length_sealed, List.length_append, length_cstFields]
  omega
theorem crc_cstBytes (f : Cst) : beAt (cstBytes f) ((cstBytes f).length - 4) 4 = crcInv ((cstBytes f).take ((cstBytes f).length - 4)) := by
  have hcut : (cstBytes f).length - 4 = (fieldBytes (cstFields f) ++ f.payload).length := by rw [cstBytes_eq, length_sealed]; rfl
  rw [hcut, cstBytes_eq, crc_sealed, take_sealed]
/-- A header field is read back where its value fits its width. -/
theorem beAt_cstBytes {f : Cst} {l : List (Nat × Nat)} {w x : Nat} {r : List (Nat × Nat)} {o : Nat} (h : cstFields f = l ++ (w, x) :: r)
    (ho : (l.map Prod.fst).sum = o) (hx : x < 256 ^ w) : beAt (cstBytes f) o w = x := by
  rw [cstBytes_eq, sealed, List.append_assoc, h, ← ho, beAt_fieldBytes, Nat.mod_eq_of_lt hx]
theorem payload_cstBytes (f : Cst) : ((cstBytes f).drop 32).take ((cstBytes f).length - 36) = f.payload := by
  rw [length_cstBytes, cstBytes_eq, sealed, List.append_assoc]
  exact drop_take_mid _ (length_cstFields f) rfl

/-- A sound datagram is read as its fields. -/
theorem cstParse_sound {b : List Byte} (hl : 36 ≤ b.length) (hcrc : beAt b (b.length - 4) 4 = crcInv (b.take (b.length - 4)))
    (hv : beAt b 0 1 = 0x10) (hr : beAt b 2 2 ≤ 1) (hk : beAt b 1 1 ∈ cstKinds) : cstParse b =
      some { kind := beAt b 1 1, retry := beAt b 2 2 == 1, client := beAt b 4 6, seq := beAt b 10 4, qid := beAt b 14 4, win := beAt b 18 2,
             off := beAt b 20 8, arg := beAt b 28 4, payload := (b.drop 32).take (b.length - 36) } := by
  have hgood : ¬ (beAt b 0 1 ≠ 0x10 ∨ 1 < beAt b 2 2 ∨ cstKinds.contains (beAt b 1 1) = false) := by
    rintro (h | h | h)
    · exact h hv
    · omega
    · rw [List.contains_iff_mem.mpr hk] at h
      cases h
  simp only [cstParse, if_neg (Nat.not_lt.mpr hl), if_neg (fun h => h hcrc : ¬ _ ≠ _), if_neg hgood]

theorem cstParse_cstBytes {f : Cst} (hk : f.kind ∈ cstKinds) (hc : f.client < 2 ^ 48) (hs : f.seq < 2 ^ 32) (hq : f.qid < 2 ^ 32)
    (hw : f.win < 2 ^ 16) (ho : f.off < 2 ^ 64) (ha : f.arg < 2 ^ 32) : cstParse (cstBytes f) = some f := by
  have hkind : f.kind < 256 ^ 1 := (by decide : ∀ k ∈ cstKinds, k < 256 ^ 1) _ hk
  have hretry : b2n f.retry ≤ 1 := by cases f.retry <;> decide
  have hback : (b2n f.retry == 1) = f.retry := by cases f.retry <;> rfl
  have h0 : beAt (cstBytes f) 0 1 = 0x10 := beAt_cstBytes (l := []) rfl rfl (by decide)
  have h1 : beAt (cstBytes f) 1 1 = f.kind := beAt_cstBytes (l := (cstFields f).take 1) rfl rfl hkind
  have h2 : beAt (cstBytes f) 2 2 = b2n f.retry := beAt_cstBytes (l := (cstFields f).take 2) rfl rfl (by omega)
  have h3 : beAt (cstBytes f) 4 6 = f.client := beAt_cstBytes (l := (cstFields f).take 3) rfl rfl (by omega)
  have h4 : beAt (cstBytes f) 10 4 = f.seq := beAt_cstBytes (l := (cstFields f).take 4) rfl rfl (by omega)
  have h5 : beAt (cstBytes f) 14 4 = f.qid := beAt_cstBytes (l := (cstFields f).take 5) rfl rfl (by omega)
  have h6 : beAt (cstBytes f) 18 2 = f.win := beAt_cstBytes (l := (cstFields f).take 6) rfl rfl (by omega)
  have h7 : beAt (cstBytes f) 20 8 = f.off := beAt_cstBytes (l := (cstFields f).take 7) rfl rfl (by omega)
  have h8 : beAt (cstBytes f) 28 4 = f.arg := beAt_cstBytes (l := (cstFields f).take 8) rfl rfl (by omega)
  rw [cstParse_sound (by rw [length_cstBytes]; omega) (crc_cstBytes f) h0 (by rw [h2]; exact hretry) (by rw [h1]; exact hk), h1, h2, h3, h4,
    h5, h6, h7, h8, payload_cstBytes, hback]

theorem cstParse_unsound {b : List Byte} (h : b.length < 36 ∨ beAt b (b.length - 4) 4 ≠ crcInv (b.take (b.length - 4))) : cstParse b = none := by
  by_cases hs : b.length < 36
  · simp only [cstParse, if_pos hs]
  · simp only [cstParse, if_neg hs, if_pos (h.resolve_left hs)]

theorem cstDatagramsRoundTrip : CstDatagramsRoundTrip :=
  ⟨fun _ hk hc hs hq hw ho ha => cstParse_cstBytes hk hc hs hq hw ho ha, fun _ h => cstParse_unsound h⟩

end Sys2Proof.Proofs
end

section
/-! PROOF. CST frames at an Ethernet port, and what REQ answers (R298-R302). -/
namespace Sys2Proof.Proofs
open Sys2Proof.Machine Sys2Proof.Laws

/-! ### A table entry that is no default is read back -/

theorem sget_sput_listed {α : Type} [DecidableEq α] (m : SMap α) (k : Nat) {v d : α} (e : α) (h : v ≠ d) : sget (sput m k v d) k e = v := by
  fun_induction sput m k v d <;> grind [sget]

@[simp] theorem win_setWin (s : State) (ix : Nat) (w : Win) : (s.setWin ix (some w)).win ix = some w :=
  sget_sput_listed _ _ _ (Option.some_ne_none w)

/-! ### A frame at a port (R298-R300) -/

section
variable {s : State} {p : Fin 8} {b peer d : List Byte} {f : Cst} {want : Nat}

theorem ethRx_down {g : State → EthRx → State} (h : s.linkUp p.val = false) : ethRx s p.val b g = s := by
  rw [ethRx, h, if_neg Bool.false_ne_true]
theorem ethRx_up {g : State → EthRx → State} (h : s.linkUp p.val = true) :
    ethRx s p.val b g = frameOut (g (frameIn s p b) (ethClass s p.val b)) p b := by
  rw [ethRx, if_pos h]
  rfl

theorem cstFrame_down (h : s.linkUp p.val = false) : cstFrame s p.val b want = s := ethRx_down h
section
variable (h : s.linkUp p.val = true)
include h
theorem cstFrame_other (hc : ∀ peer d, ethClass s p.val b ≠ .cst peer d) : cstFrame s p.val b want = frameOut (frameIn s p b) p b := by
  rw [cstFrame, ethRx_up h]
  rcases hcl : ethClass s p.val b with _ | _ | ⟨peer, d⟩ | _
  · rfl
  · rfl
  · exact absurd hcl (hc peer d)
  · rfl
theorem cstFrame_cst (hc : ethClass s p.val b = .cst peer d) :
    cstFrame s p.val b want = frameOut (cstRx (frameIn s p b) p.val peer d want) p b := by
  rw [cstFrame, ethRx_up h, hc]
theorem cstFrame_unsound (hc : ethClass s p.val b = .cst peer d) (hd : cstParse d = none) :
    cstFrame s p.val b want = frameOut (dropCst (frameIn s p b) p.val) p b := by
  rw [cstFrame_cst h hc]
  simp only [cstRx, hd]
end

section
variable (hup : s.linkUp p.val = true) (hc : ethClass s p.val b = .cst peer d) (hd : cstParse d = some f)
include hup hc hd
theorem cstFrame_sound : cstFrame s p.val b want = frameOut (if f.kind ≠ want then frameIn s p b
    else if want = 1 then reqRx (frameIn s p b) p.val peer f else if want = 3 then dataRx (frameIn s p b) p.val f
    else if want = 4 then creditRx (frameIn s p b) f else rackRx (frameIn s p b) f) p b := by
  rw [cstFrame_cst hup hc]
  simp only [cstRx, hd]

theorem exec_req (hk : f.kind = 1) : exec (.req p b) s = .next (frameOut (reqRx (frameIn s p b) p.val peer f) p b) :=
  congrArg _ ((cstFrame_sound hup hc hd).trans (by rw [if_neg fun hn => hn hk, if_pos rfl]))
theorem exec_data (hk : f.kind = 3) : exec (.data p b) s = .next (frameOut (dataRx (frameIn s p b) p.val f) p b) :=
  congrArg _ ((cstFrame_sound hup hc hd).trans (by rw [if_neg fun hn => hn hk]; rfl))
theorem exec_credit (hk : f.kind = 4) : exec (.credit p b) s = .next (frameOut (creditRx (frameIn s p b) f) p b) :=
  congrArg _ ((cstFrame_sound hup hc hd).trans (by rw [if_neg fun hn => hn hk]; rfl))
theorem exec_rack (hk : f.kind = 6) : exec (.rack p b) s = .next (frameOut (rackRx (frameIn s p b) f) p b) :=
  congrArg _ ((cstFrame_sound hup hc hd).trans (by rw [if_neg fun hn => hn hk]; rfl))
end
end

/-- The rows of the four kinds of frame (R300). -/
theorem exec_cstRow {x : (Fin 8 → List Byte → Instr) × Nat} (hx : x ∈ ([(.req, 1), (.data, 3), (.credit, 4), (.rack, 6)] :
    List ((Fin 8 → List Byte → Instr) × Nat))) (s : State) (p : Fin 8) (b : List Byte) : exec (x.1 p b) s = .next (cstFrame s p.val b x.2) := by
  simp only [List.mem_cons, List.not_mem_nil, or_false] at hx
  rcases hx with rfl | rfl | rfl | rfl <;> rfl

/-! ### REQ (R301, R302) -/

/-- The header of REQ `f` is that of its entry. -/
def reqFits (f : Cst) : Prop := f.payload.length = 64 ∧ leAt f.payload 8 6 = f.client ∧ leAt f.payload 4 4 = f.seq ∧ f.qid < 2 ^ 18

section
variable {v t : State} {n : Nat} {peer : List Byte} {f : Cst} {c : QCtx}

theorem reqRx_misfit (h : f.payload.length ≠ 64 ∨ leAt f.payload 8 6 ≠ f.client ∨ leAt f.payload 4 4 ≠ f.seq ∨ 2 ^ 18 ≤ f.qid) :
    reqRx v n peer f = dropCst v n := by rw [reqRx, if_pos h]

theorem reqFits_iff : ¬ (f.payload.length ≠ 64 ∨ leAt f.payload 8 6 ≠ f.client ∨ leAt f.payload 4 4 ≠ f.seq ∨ 2 ^ 18 ≤ f.qid) ↔ reqFits f := by
  simp [reqFits]

section
variable (hf : reqFits f) (hr : ctxRead v f.qid = (t, .ok c))
include hf hr
theorem reqRx_notHome (h : qf c qEN = 0 ∨ qf c qHOME = 0) : reqRx v n peer f = plainAnswer t n peer f 7 (peerAddr t) := by
  simp only [reqRx, if_neg (reqFits_iff.mpr hf), hr, if_pos h]
  rfl

variable (hh : ¬ (qf c qEN = 0 ∨ qf c qHOME = 0))
include hh

section
variable {ix : Nat} {w x : Win} {u : State} (hw : findWin t (winKey f) = some (ix, w)) (hx : x = { w with rport := n, peer := peer })
  (hu : u = t.setWin ix (some x))
include hw hx hu
theorem reqRx_filling (hs : w.st = .filling) : reqRx v n peer f = if (firstMissing w).isNone
    then winSubmit (winSend u ix x 2 (contig w) (inLimit u x) []) ix else winSend u ix x 2 (contig w) (inLimit u x) [] := by
  subst hx hu
  simp only [reqRx, if_neg (reqFits_iff.mpr hf), hr, if_neg hh, hw, hs]
  rfl
theorem reqRx_submitted (hs : w.st = .submitted) : reqRx v n peer f = winSend u ix x 2 w.blen w.blen [] := by
  subst hx hu
  simp only [reqRx, if_neg (reqFits_iff.mpr hf), hr, if_neg hh, hw, hs]
theorem reqRx_sending (hs : w.st = .sending) : reqRx v n peer f = resendData u ix := by
  subst hx hu
  simp only [reqRx, if_neg (reqFits_iff.mpr hf), hr, if_neg hh, hw, hs]
theorem reqRx_responded (hs : w.st = .responded) : reqRx v n peer f = (winSend u ix x 5 w.sent 0 w.comp).setWin ix (some x) := by
  subst hx hu
  simp only [reqRx, if_neg (reqFits_iff.mpr hf), hr, if_neg hh, hw, hs, sendResp, win_setWin]
end

variable (hw : findWin t (winKey f) = none)
include hw
theorem reqRx_cached (hc : cachedSeq t c f.seq = true) : reqRx v n peer f = plainSubmit t n peer f (listPut f.payload 24 (leBytes 8 0)) := by
  simp only [reqRx, if_neg (reqFits_iff.mpr hf), hr, if_neg hh, hw, hc, if_true]

variable (hc : cachedSeq t c f.seq = false)
include hc
theorem reqRx_noData (h : f.off = 0 ∧ f.arg = 0) : reqRx v n peer f = plainSubmit t n peer f f.payload := by
  simp only [reqRx, if_neg (reqFits_iff.mpr hf), hr, if_neg hh, hw, hc, Bool.false_eq_true, if_false, if_pos h]
theorem reqRx_newWindow (h : ¬ (f.off = 0 ∧ f.arg = 0)) : reqRx v n peer f = newWindow t n peer f := by
  simp only [reqRx, if_neg (reqFits_iff.mpr hf), hr, if_neg hh, hw, hc, Bool.false_eq_true, if_false, if_neg h]
end

theorem newWindow_busy (h : firstFit t n (winUnits f.off f.arg) = none ∨ firstNat (fun i => (t.win i).isNone) (rangeFrom 0 4096) = none) :
    newWindow t n peer f = plainAnswer t n peer f 8 [] := by
  unfold newWindow
  split
  · next hi hu =>
    rw [hi, hu] at h
    simp at h
  · rfl
theorem newWindow_opens {ix u : Nat} {x : State} (hi : firstNat (fun i => (t.win i).isNone) (rangeFrom 0 4096) = some ix)
    (hu : firstFit t n (winUnits f.off f.arg) = some u)
    (hx : x = winSend (t.setWin ix (some (reqWin n peer f u))) ix (reqWin n peer f u) 2 0 (inLimit t (reqWin n peer f u)) []) :
    newWindow t n peer f = if f.off = 0 then winSubmit x ix else x := by
  subst hx
  simp only [newWindow, hi, hu]
  rfl
end

end Sys2Proof.Proofs
end

section
/-! PROOF. DATA, CREDIT, RACK, the timers and completions of the bulk windows (R303, R304). -/
namespace Sys2Proof.Proofs
open Sys2Proof.Machine Sys2Proof.Laws

/-! ### What the ports' frames change -/

/-- A datagram that is sent leaves the device, or joins the frames that its priority holds. -/
theorem cstSend_only (s : State) (n : Nat) (peer : List Byte) (f : Cst) :
    ∃ h o, cstSend s n peer f = { s with eth := { s.eth with held := h }, out := o } := by
  unfold cstSend
  split
  · dsimp only
    generalize (if n < 8 then cstPrio s n (f.qid % 2 ^ 18) else 0) = pr
    split <;> exact ⟨_, _, rfl⟩
  · exact ⟨_, _, rfl⟩
theorem bufferIn_only (s : State) (n prio len : Nat) :
    ∃ x o, bufferIn s n prio len = { s with eth := { s.eth with xoff := x }, out := o } := by
  unfold bufferIn
  dsimp only
  split <;> exact ⟨_, _, rfl⟩
theorem bufferOut_only (s : State) (n prio : Nat) :
    ∃ x o, bufferOut s n prio = { s with eth := { s.eth with xoff := x }, out := o } := by
  unfold bufferOut
  dsimp only
  split <;> exact ⟨_, _, rfl⟩

/-- From `s` to `t` nothing changes in memory and registers. -/
theorem frame_frameIn (s : State) (p : Fin 8) (b : List Byte) : (frameIn s p b).mem = s.mem ∧ (frameIn s p b).regs = s.regs := by
  obtain ⟨_, _, h⟩ := bufferIn_only s p.val (ethTag b).1 b.length
  rw [frameIn, h]
  exact ⟨rfl, rfl⟩
theorem frame_frameOut (s : State) (p : Fin 8) (b : List Byte) : (frameOut s p b).mem = s.mem ∧ (frameOut s p b).regs = s.regs ∧
    ∀ ix, (frameOut s p b).win ix = s.win ix := by
  obtain ⟨_, _, h⟩ := bufferOut_only s p.val (ethTag b).1
  rw [frameOut, h]
  exact ⟨rfl, rfl, fun _ => rfl⟩
theorem frame_winSend (s : State) (ix : Nat) (w : Win) (kind off arg : Nat) (d : List Byte) :
    (winSend s ix w kind off arg d).mem = s.mem ∧ (winSend s ix w kind off arg d).regs = s.regs := by
  obtain ⟨_, _, h⟩ := cstSend_only s w.rport w.peer (winFrame w ix kind off arg d)
  rw [winSend, h]
  exact ⟨rfl, rfl⟩

/-! ### DATA (R303) -/

theorem sendCredit_win {s : State} {ix : Nat} {w : Win} (h : s.win ix = some w) :
    sendCredit s ix = (winSend s ix w 4 (contig w) (inLimit s w) []).setWin ix (some { w with since := 0 }) := by
  simp only [sendCredit, h]

section
variable {v : State} {n : Nat} {f : Cst}
theorem dataRx_unknown (h : v.win f.win = none) : dataRx v n f = v := by simp only [dataRx, h]

variable {w : Win} (hw : v.win f.win = some w)
include hw
theorem dataRx_otherKey (hk : winKey f w = false) : dataRx v n f = v := by
  simp only [dataRx, hw, hk, Bool.not_false, if_true]

variable (hk : winKey f w = true)
include hk
theorem dataRx_misshapen (hs : dataShape w f = false) : dataRx v n f = dropCst v n := by
  simp only [dataRx, hw, hk, hs, Bool.not_true, Bool.not_false, Bool.false_eq_true, if_false, if_true]

variable (hs : dataShape w f = true)
include hs
theorem dataRx_again (hb : bit w.pages (f.off / 8192) = true) : dataRx v n f =
    (winSend v f.win w 4 (contig w) (inLimit v w) []).setWin f.win (some { w with since := 0 }) := by
  simp only [dataRx, hw, hk, hs, hb, Bool.not_true, Bool.false_eq_true, if_false, if_true, sendCredit_win hw]

variable (hb : bit w.pages (f.off / 8192) = false)
include hb
theorem dataRx_beyond (hl : inLimit v w < f.off + f.payload.length) : dataRx v n f = v := by
  simp only [dataRx, hw, hk, hs, hb, Bool.not_true, Bool.false_eq_true, if_false, if_pos hl]
theorem dataRx_accepted {t u : State} {x : Win} (hl : f.off + f.payload.length ≤ inLimit v w)
    (hd : dmaWrite v (ethId w.port) (winIn v w + f.off) f.payload = (t, none))
    (hx : x = { w with pages := w.pages + 2 ^ (f.off / 8192), got := w.got + 1, since := w.since + 1 })
    (hu : u = t.setWin f.win (some x)) : dataRx v n f = if (firstMissing x).isNone then winSubmit (sendCredit u f.win) f.win
      else if x.got % 32 = 0 then sendCredit u f.win else u := by
  subst hx hu
  simp only [dataRx, hw, hk, hs, hb, Bool.not_true, Bool.false_eq_true, if_false, if_neg (Nat.not_lt.mpr hl), hd]
end

/-! ### CREDIT and RACK (R304) -/

section
variable {v : State} {f : Cst} {w : Win} (hw : v.win f.win = some w) (hk : winKey f w = true)

theorem sendMore_all {s : State} {ix : Nat} {x : Win} (h : s.win ix = some x) (hs : x.sent = x.olen) (k : Nat) : sendMore s ix k = s := by
  cases k with
  | zero => rfl
  | succ k => simp only [sendMore, h, hs, Nat.sub_self, Nat.min_zero, Nat.lt_irrefl, false_and, and_false, if_false]

/-- The window after a CREDIT that covers all of its outbound part. -/
def covered (w : Win) (limit : Nat) : Win := { w with acked := max w.acked w.olen, limit := max w.limit (min limit w.olen) }

include hw
theorem creditRx_idle (hs : w.st ≠ .sending) : creditRx v f = v := by
  have hne : (w.st == .sending) = false := beq_false_of_ne hs
  simp only [creditRx, hw, hne, Bool.and_false, Bool.false_eq_true, if_false]
theorem rackRx_idle (hs : w.st ≠ .responded) : rackRx v f = v := by
  have hne : (w.st == .responded) = false := beq_false_of_ne hs
  simp only [rackRx, hw, hne, Bool.and_false, Bool.false_eq_true, if_false]

include hk
theorem rackRx_frees (hs : w.st = .responded) : rackRx v f = v.setWin f.win none := by
  simp only [rackRx, hw, hk, hs, beq_self_eq_true, Bool.and_self, if_true]
theorem creditRx_covers (hs : w.st = .sending) (hall : w.sent = w.olen) (ho : w.olen ≤ f.off) : creditRx v f =
    (winSend (v.setWin f.win (some (covered w f.arg))) f.win (covered w f.arg) 5 w.sent 0 w.comp).setWin f.win
      (some { covered w f.arg with st := .responded }) := by
  have hmin : min f.off w.sent = w.olen := by omega
  have hcov : ({ w with acked := max w.acked (min f.off w.sent), limit := max w.limit (min f.arg w.olen) } : Win) = covered w f.arg := by
    rw [hmin]; rfl
  have hdone : (covered w f.arg).st = .sending ∧ (covered w f.arg).olen ≤ (covered w f.arg).acked := ⟨hs, Nat.le_max_right _ _⟩
  have hst : (w.st == .sending) = true := by rw [hs]; rfl
  simp only [creditRx, hw, hk, hst, Bool.and_self, if_true, hcov]
  rw [sendMore_all (x := covered w f.arg) (win_setWin _ _ _) hall]
  simp only [sentAll, win_setWin, if_pos hdone, sendResp]
  rfl
end

/-! ### The timers (R303, R304) -/

section
variable {s : State} {ix : Nat}
theorem timers_noWindow (h : s.win ix = none) : creditTimer s ix = s ∧ respAgain s ix = s ∧ ∀ i, dataRetransmit s ix i = s := by
  simp only [creditTimer, respAgain, dataRetransmit, h, implies_true, and_self]

variable {w : Win} (hw : s.win ix = some w)
include hw
theorem creditTimer_sends (hs : w.st = .filling ∧ 0 < w.since) : creditTimer s ix =
    (winSend s ix w 4 (contig w) (inLimit s w) []).setWin ix (some { w with since := 0 }) := by
  simp only [creditTimer, hw, if_pos hs, sendCredit_win hw]
theorem creditTimer_none (hs : w.since = 0) : creditTimer s ix = s := by
  have h0 : ¬ (w.st = .filling ∧ 0 < w.since) := fun h => by omega
  simp only [creditTimer, hw, if_neg h0]
theorem dataRetransmit_sends {t : State} {i : Nat} {d : List Byte} (h : w.st = .sending ∧ w.acked ≤ i * 8192 ∧ i * 8192 < w.sent)
    (hd : dmaRead s (ethId w.port) (winOut s w + i * 8192) (min 8192 (w.olen - i * 8192)) = (t, .ok (d, false))) :
    dataRetransmit s ix i = winSend t ix w 3 (i * 8192) 0 d := by
  simp only [dataRetransmit, hw, if_pos h, sendData, hd]

variable (hs : w.st = .responded)
include hs
theorem respAgain_frees (h : s.regF 0x308 0x108 0 4 ≤ w.tries) : respAgain s ix = s.setWin ix none := by
  simp only [respAgain, hw, if_pos hs, if_neg (Nat.not_lt.mpr h)]
theorem respAgain_sends (h : w.tries < s.regF 0x308 0x108 0 4) : (respAgain s ix).win ix = some { w with tries := w.tries + 1 } ∧
    (respAgain s ix).mem = s.mem ∧ (respAgain s ix).regs = s.regs := by
  have heq : respAgain s ix = (sendResp s ix).setWin ix (some { w with tries := w.tries + 1 }) := by
    simp only [respAgain, hw, if_pos hs, if_pos h]
  rw [heq]
  refine ⟨win_setWin _ _ _, ?_⟩
  simp only [sendResp, hw]
  exact frame_winSend s ix w 5 w.sent 0 w.comp
end

end Sys2Proof.Proofs
end

section
/-! PROOF. Completions on their way to the clients (R304). -/
namespace Sys2Proof.Proofs
open Sys2Proof.Machine Sys2Proof.Laws

/-! ### The queue engine leaves the ports alone (R258, R269) -/

@[simp] theorem irq_eth (s : State) (page : Nat) (bits : Word32) : (s.irq page bits).eth = s.eth := by
  obtain ⟨_, _, h⟩ := irq_only s page bits
  rw [h]
@[simp] theorem irqBit_eth (s : State) (page n : Nat) : (s.irqBit page n).eth = s.eth := irq_eth _ _ _
@[simp] theorem setScr_eth (s : State) (p : Nat) (x : Scr) : (s.setScr p x).eth = s.eth := by
  obtain ⟨_, _, h⟩ := setScr_only s p x
  rw [h]
@[simp] theorem correctable_eth (s : State) (page : Nat) : (s.correctable page).eth = s.eth := rfl
@[simp] theorem freshBytes_eth (s : State) (n : Nat) : (s.freshBytes n).2.eth = s.eth := by
  obtain ⟨_, h⟩ := freshBytes_only s n
  rw [h]

@[simp] theorem endFill_eth (s : State) (p b : Nat) : (s.endFill p b).eth = s.eth := by
  unfold State.endFill
  split
  · rfl
  · exact setScr_eth _ _ _
theorem bankReady_eth (s : State) (p b : Nat) : (bankReady s p b).1.eth = s.eth := by
  unfold bankReady
  split
  · exact endFill_eth _ _ _
  split
  · exact endFill_eth _ _ _
  · rfl
theorem wordRead_eth (s : State) (p w bits : Nat) : (wordRead s p w bits).1.eth = s.eth := by
  have hue : ∀ (t : State) (v : Word32), ((t.setReg (scrPage p) 0x14C v).irqBit (scrPage p) 1).eth = t.eth := fun t v => irqBit_eth _ _ _
  have hce : ∀ t : State, ((t.correctable (scrPage p)).irqBit (scrPage p) 0).eth = t.eth := fun t => irqBit_eth _ _ _
  have hfree : ∀ t : State, (t.freshBytes 1).2.fresh.2.eth = t.eth := fun t => freshBytes_eth t 1
  unfold wordRead
  dsimp only
  split
  · split
    · rw [hue, hfree]; rfl
    split
    · rw [hce]; exact hfree _
    · rw [hfree]; rfl
  split
  · rw [hue]; rfl
  split
  · rw [hce]; rfl
  · rfl
theorem sramPartRead_eth (s : State) (a n : Nat) (u : Upset) : (sramPartRead s a n u).1.eth = s.eth := by
  unfold sramPartRead
  rcases bankOf a with _ | ⟨p, b⟩
  · rfl
  have hb := bankReady_eth s p b
  dsimp only
  rcases hr : bankReady s p b with ⟨s1, _ | c⟩
  · rw [hr] at hb
    exact (wordRead_eth s1 p _ _).trans hb
  · rwa [hr] at hb
theorem readParts_eth {g : State → Nat → Nat → State × RdAns} (hg : ∀ s a n, (g s a n).1.eth = s.eth) (s : State) (l : List (Nat × Nat)) :
    (readParts g s l).1.eth = s.eth := by
  induction l generalizing s with
  | nil => rfl
  | cons x l ih =>
    obtain ⟨a, n⟩ := x
    have h1 := hg s a n
    unfold readParts
    rcases hr : g s a n with ⟨s1, c | ⟨d, q⟩⟩
    · rwa [hr] at h1
    · rw [hr] at h1
      have h2 := ih s1
      dsimp only
      rcases hr2 : readParts g s1 l with ⟨s2, c | ⟨d2, q2⟩⟩ <;> rw [hr2] at h2 <;> exact h2.trans h1

theorem countOrphan_eth (s : State) : (countOrphan s).eth = s.eth := irqBit_eth _ _ _
theorem orphanCtx_eth (s : State) (i : Nat) (e : IftEnt) : (orphanCtx s i e).eth = s.eth := by
  unfold orphanCtx
  split
  · rfl
  · dsimp only
    split <;> rfl
theorem discardAll_eth (s : State) (l : List Nat) : (discardAll s l).eth = s.eth := by
  induction l generalizing s with
  | nil => rfl
  | cons i l ih =>
    rw [discardAll]
    split
    · next e _ => exact (ih _).trans ((countOrphan_eth _).trans (orphanCtx_eth s i e))
    · exact ih s
theorem countWaits_eth (s : State) (l : List Wait) : (countWaits s l).eth = s.eth := by
  induction l generalizing s with
  | nil => rfl
  | cons w l ih =>
    rw [countWaits, ih]
    split
    · exact countOrphan_eth s
    · rfl
theorem ctxerrRecord_eth (s : State) (q : Nat) : (ctxerrRecord s q).eth = s.eth := by
  unfold ctxerrRecord
  split <;> rfl
@[simp] theorem ctxStore_eth (s : State) (q : Nat) (c : QCtx) : (ctxStore s q c).eth = s.eth := rfl
theorem ctxError_eth (s : State) (q irqb : Nat) : (ctxError s q irqb).eth = s.eth := by
  unfold ctxError
  refine (discardAll_eth _ _).trans ((countWaits_eth _ _).trans ?_)
  rw [ctxStore_eth, irqBit_eth, ctxerrRecord_eth]
theorem ctxRead_eth (s : State) (q : Nat) : (ctxRead s q).1.eth = s.eth := by
  have hp := readParts_eth (fun s a n => sramPartRead_eth s a n {}) s (parts 8 64 (ctxAddr q) 64)
  unfold ctxRead
  rcases hr : readParts (fun s a n => sramPartRead s a n {}) s (parts 8 64 (ctxAddr q) 64) with ⟨s1, c | ⟨d, _ | _⟩⟩ <;> rw [hr] at hp
  · exact hp
  · exact hp
  · exact (ctxError_eth _ _ _).trans hp
theorem doorbell_eth (s : State) (id : Nat) (sq : Bool) (v : Nat) : (doorbell s id sq v).1.eth = s.eth := by
  have hc := ctxRead_eth s (sget s.qe.dbsel id 0)
  unfold doorbell
  dsimp only
  rcases hr : ctxRead s (sget s.qe.dbsel id 0) with ⟨s1, (_ | _) | c⟩ <;> rw [hr] at hc
  · exact hc
  · exact (irqBit_eth _ _ _).trans hc
  · dsimp only
    split
    · exact hc
    split
    · split
      · exact hc
      · exact (irqBit_eth _ _ _).trans hc
    · split
      · exact hc
      · exact (irqBit_eth _ _ _).trans hc
theorem consumed_eth (s : State) (n q : Nat) (c : QCtx) : (consumed s n q c).eth = s.eth := doorbell_eth _ _ _ _

/-! ### Completions (R304) -/

/-- The submission of completion `x` is forgotten. -/
def subDone (u : State) (x : Sub) (q : Nat) (c : QCtx) : State :=
  { consumed u x.port q c with eth := { u.eth with subs := u.eth.subs.erase x } }

theorem subDone_eq (u : State) (x : Sub) (q : Nat) (c : QCtx) : subDone u x q c =
    { cqAdvance u x.port q c with eth := { (cqAdvance u x.port q c).eth with subs := (cqAdvance u x.port q c).eth.subs.erase x } } := by
  rw [show (cqAdvance u x.port q c).eth = u.eth from consumed_eth u x.port q c]
  rfl

section
variable {u : State} {x : Sub} {q : Nat} {c : QCtx} {b : List Byte}
theorem subComplete_plain (hx : x.win = none) : subComplete (cqAdvance u x.port q c) x b = cstSend (subDone u x q c) x.port x.peer
    { kind := 5, client := x.client, seq := leAt b 0 4, qid := x.qid, payload := b } := by
  simp only [subComplete, hx, subDone_eq]
theorem subComplete_window {ix : Nat} {w : Win} (hx : x.win = some ix) (hw : u.win ix = some w)
    (h : w.st = .submitted ∧ w.qid = x.qid ∧ w.seq = x.seq) :
    subComplete (cqAdvance u x.port q c) x b = winComplete (subDone u x q c) ix w b := by
  have hwin : (subDone u x q c).win ix = some w := hw
  simp only [subComplete, hx, ← subDone_eq, hwin, if_pos h]
end

section
variable {s t : State} {q : Nat} {c : QCtx} (hr : ctxRead s q = (t, .ok c))
include hr
theorem outComplete_none (h : qf c qEN = 0 ∨ qf c qCQHEAD = qf c qCQTAIL) : outComplete s q = t := by
  simp only [outComplete, hr, if_pos h]

variable {u : State} {b : List Byte} (h : ¬ (qf c qEN = 0 ∨ qf c qCQHEAD = qf c qCQTAIL))
  (hb : dmaRead t 19 (qf c qCQADDR + qf c qCQHEAD * 16) 16 = (u, .ok (b, false)))
include h hb
theorem outComplete_sub {x : Sub} (hx : subOf u q (leAt b 4 2) (leAt b 0 4) = some x) :
    outComplete s q = subComplete (cqAdvance u x.port q c) x b := by
  simp only [outComplete, hr, if_neg h, hb, hx]
theorem outComplete_noSub (hx : subOf u q (leAt b 4 2) (leAt b 0 4) = none) : outComplete s q = consumed u 0 q c := by
  simp only [outComplete, hr, if_neg h, hb, hx]
  rfl
end

end Sys2Proof.Proofs
end

section
/-! PROOF. The shelf transport's statement (R297-R304). -/
namespace Sys2Proof.Proofs
open Sys2Proof.Machine Sys2Proof.Laws

/-- The clauses of R300 to R304, each by the lemma about its frame, timer or completion. -/
theorem requestsAndWindowsFollowTheTable : RequestsAndWindowsFollowTheTable := by
  refine ⟨fun x hx s p b => ?_, fun s v p peer b f hc hk hv => ?_, fun s v p peer b f hc hk hv => ?_,
    fun s v p peer b f w hc hv hw hkey _ => ?_, fun s ix => ⟨fun h => ?_, fun w hw => ?_⟩, fun s t q c hr => ?_⟩
  · rw [exec_cstRow hx]
    refine ⟨fun h => by rw [cstFrame_down h], fun h hc => by rw [cstFrame_other h hc],
      fun peer d h hc hd => by rw [cstFrame_unsound h hc hd], fun peer f hc hk => ?_⟩
    obtain ⟨hup, d, hc, hd⟩ := hc
    rw [cstFrame_sound hup hc hd, if_pos hk]
  · obtain ⟨hup, d, hc, hd⟩ := hc
    subst hv
    rw [exec_req hup hc hd hk]
    refine ⟨fun h => by rw [reqRx_misfit h], fun t c h64 hcl hseq hq hr => ?_⟩
    have hf : reqFits f := ⟨h64, hcl, hseq, hq⟩
    refine ⟨fun h => by rw [reqRx_notHome hf hr h], fun hen hhome => ?_⟩
    have hh : ¬ (qf c qEN = 0 ∨ qf c qHOME = 0) := fun h => h.elim hen hhome
    refine ⟨fun ix w x u hw hx hu => ⟨fun hs hm => ?_, fun hs hm => ?_, fun hs => ?_, fun hs => ?_, fun hs => ?_⟩,
      fun hw hc => by rw [reqRx_cached hf hr hh hw hc], fun hw hc => ⟨fun h0 h1 => ?_, fun h hb => ?_, fun ix u x h hi hu hx => ?_⟩⟩
    · rw [reqRx_filling hf hr hh hw hx hu hs, if_neg (by rwa [Option.isNone_iff_eq_none])]
    · rw [reqRx_filling hf hr hh hw hx hu hs, if_pos (Option.isNone_iff_eq_none.mpr hm)]
    · rw [reqRx_submitted hf hr hh hw hx hu hs]
    · rw [reqRx_sending hf hr hh hw hx hu hs]
    · rw [reqRx_responded hf hr hh hw hx hu hs]
    · rw [reqRx_noData hf hr hh hw hc ⟨h0, h1⟩]
    · rw [reqRx_newWindow hf hr hh hw hc (by omega), newWindow_busy hb]
    · rw [reqRx_newWindow hf hr hh hw hc (by omega), newWindow_opens hi hu hx]
  · obtain ⟨hup, d, hc, hd⟩ := hc
    subst hv
    rw [exec_data hup hc hd hk]
    refine ⟨fun h => by rw [dataRx_unknown h], fun w hw => ⟨fun h => by rw [dataRx_otherKey hw h],
      fun h hs => by rw [dataRx_misshapen hw h hs], fun h hs hb => by rw [dataRx_again hw h hs hb],
      fun h hs hb hl => by rw [dataRx_beyond hw h hs hb hl], fun t x u h hs hb hl hd hx hu => ?_⟩⟩
    have hwin : u.win f.win = some x := by rw [hu, win_setWin]
    rw [dataRx_accepted hw h hs hb hl hd hx hu, sendCredit_win hwin]
    refine ⟨fun hm hg => ?_, fun hm hg => ?_, fun hm => ?_⟩
    · rw [if_neg (by rwa [Option.isNone_iff_eq_none]), if_neg hg]
    · rw [if_neg (by rwa [Option.isNone_iff_eq_none]), if_pos hg]
    · rw [if_pos (Option.isNone_iff_eq_none.mpr hm)]
  · obtain ⟨hup, d, hc, hd⟩ := hc
    subst hv
    refine ⟨fun hk hs hall ho => ⟨_, exec_credit hup hc hd hk, ?_⟩, fun hk hs => by rw [exec_credit hup hc hd hk, creditRx_idle hw hs],
      fun hk hs => by rw [exec_rack hup hc hd hk, rackRx_frees hw hkey hs], fun hk hs => by rw [exec_rack hup hc hd hk, rackRx_idle hw hs]⟩
    obtain ⟨hmem, hregs, hwin⟩ := frame_frameOut (creditRx (frameIn s p b) f) p b
    obtain ⟨hmem', hregs'⟩ := frame_frameIn s p b
    rw [hmem, hregs, hwin, creditRx_covers hw hkey hs hall ho]
    obtain ⟨hm, hr⟩ := frame_winSend ((frameIn s p b).setWin f.win (some (covered w f.arg))) f.win (covered w f.arg) 5 w.sent 0 w.comp
    exact ⟨win_setWin _ _ _, hm.trans hmem', hr.trans hregs'⟩
  · obtain ⟨hcr, hre, hda⟩ := timers_noWindow h
    exact ⟨congrArg _ hcr, congrArg _ hre, fun i => congrArg _ (hda i)⟩
  · exact ⟨fun hs h0 => congrArg _ (creditTimer_sends hw ⟨hs, h0⟩), fun h0 => congrArg _ (creditTimer_none hw h0),
      fun t i d hs ha hsent hd _ => congrArg _ (dataRetransmit_sends hw ⟨hs, ha, hsent⟩ hd),
      fun hs h _ => ⟨_, rfl, respAgain_sends hw hs h⟩, fun hs h => congrArg _ (respAgain_frees hw hs h)⟩
  · refine ⟨fun h => congrArg _ (outComplete_none hr h), fun u b hen hne hb => ?_⟩
    have h : ¬ (qf c qEN = 0 ∨ qf c qCQHEAD = qf c qCQTAIL) := fun h => h.elim hen hne
    exact ⟨fun x hx => ⟨fun hw => congrArg _ ((outComplete_sub hr h hb hx).trans (subComplete_plain hw)),
      fun ix w hix hw hs hq hseq => congrArg _ ((outComplete_sub hr h hb hx).trans (subComplete_window hix hw ⟨hs, hq, hseq⟩))⟩,
      fun hx => congrArg _ (outComplete_noSub hr h hb hx)⟩

/-- Settles O50: the datagrams' round trip, and the rows' clauses. -/
theorem shelfTransportWindows : Obligations.ShelfTransportWindows := ⟨cstDatagramsRoundTrip, requestsAndWindowsFollowTheTable⟩

end Sys2Proof.Proofs
end

section
/-! PROOF. Slow-path frames, pauses and link edges of the Ethernet and management ports (R297-R299, R321, R402). -/
namespace Sys2Proof.Proofs
open Sys2Proof.Machine Sys2Proof.Laws

/-! ### Frames for the receive ring (R298) -/

theorem regF_congr {s t : State} (h : t.regs = s.regs) (p o lo w : Nat) : t.regF p o lo w = s.regF p o lo w := by
  rw [State.regF, State.regF, reg_congr h]
theorem spBase_congr {s t : State} (h : t.regs = s.regs) (n : Nat) : spBase t n = spBase s n := by
  rw [spBase, spBase, reg_congr h, regF_congr h]

section
variable {s : State} {p : Fin 8} {b : List Byte}
theorem slowRx_down (h : s.linkUp p.val = false) : slowRx s p.val b = s := ethRx_down h
section
variable (h : s.linkUp p.val = true)
include h
theorem slowRx_ipRule (hc : ethClass s p.val b = .ipRule) : slowRx s p.val b = frameOut (dropIp (frameIn s p b) p.val) p b := by
  rw [slowRx, ethRx_up h, hc]
theorem slowRx_served (hc : ethClass s p.val b = .over ∨ ∃ peer d, ethClass s p.val b = .cst peer d) :
    slowRx s p.val b = frameOut (frameIn s p b) p b := by
  obtain hc | ⟨peer, d, hc⟩ := hc
  · rw [slowRx, ethRx_up h, hc]
  · rw [slowRx, ethRx_up h, hc]
theorem slowRx_slow (hc : ethClass s p.val b = .slow) : slowRx s p.val b = frameOut (slowPut (frameIn s p b) p.val b) p b := by
  rw [slowRx, ethRx_up h, hc]
end

theorem slowPut_full {n : Nat} (h : (s.regF (ethPage n) 0x140 16 8 + 1) % 256 = s.regF (ethPage n) 0x140 0 8) : slowPut s n b = s := by
  simp only [slowPut, if_pos h]
theorem slowPut_stores {n : Nat} {t : State} (h : (s.regF (ethPage n) 0x140 16 8 + 1) % 256 ≠ s.regF (ethPage n) 0x140 0 8)
    (hd : dmaWrite s (ethId n) (spBase s n + s.regF (ethPage n) 0x140 16 8 * 10240) (leBytes 4 b.length ++ b) = (t, none)) :
    slowPut s n b = (t.setRegF (ethPage n) 0x140 16 8 ((s.regF (ethPage n) 0x140 16 8 + 1) % 256)).irqBit (ethPage n) 2 := by
  simp only [slowPut, if_neg h, hd]

/-! ### Flow control (R299) -/

theorem frameIn_xoff (hx : bit (sget s.eth.xoff p.val 0) (ethTag b).1 = false) (hl : (s.reg (ethPage p.val) 0x128).toNat < b.length) :
    (frameIn s p b).out = .pfc p.val (ethTag b).1 true :: s.out := by
  rw [frameIn, bufferIn, if_pos ⟨hl, hx⟩]
theorem frameIn_below (hl : b.length ≤ (s.reg (ethPage p.val) 0x128).toNat) : frameIn s p b = s := by
  rw [frameIn, bufferIn, if_neg fun h => by omega]
theorem frameOut_xon (hx : bit (sget s.eth.xoff p.val 0) (ethTag b).1 = true) (hl : 0 < (s.reg (ethPage p.val) 0x128).toNat) :
    (frameOut s p b).out = .pfc p.val (ethTag b).1 false :: s.out := by
  rw [frameOut, bufferOut, if_pos ⟨hl, hx⟩]
end

/-! ### The transmit ring (R298) -/

section
variable {s : State} {n : Nat}
theorem slowTx_idle (h : s.regF (ethPage n) 0x144 0 8 = s.regF (ethPage n) 0x144 16 8 ∨ s.linkUp n = false) (k : Nat) : slowTx s n k = s := by
  cases k with
  | zero => rfl
  | succ k => simp only [slowTx, if_pos h]
theorem slowTx_sends {t u : State} {l d : List Byte}
    (h : ¬ (s.regF (ethPage n) 0x144 0 8 = s.regF (ethPage n) 0x144 16 8 ∨ s.linkUp n = false))
    (hl : dmaRead s (ethId n) (2621440 + spBase s n + s.regF (ethPage n) 0x144 0 8 * 10240) 4 = (t, .ok (l, false)))
    (hd : dmaRead t (ethId n) (2621440 + spBase s n + s.regF (ethPage n) 0x144 0 8 * 10240 + 4) (min (ofLE l) 10236) = (u, .ok (d, false)))
    (k : Nat) : slowTx s n (k + 1) = slowTx (({ u with out := .slow n d :: u.out } : State).setRegF (ethPage n) 0x144 0 8
      ((s.regF (ethPage n) 0x144 0 8 + 1) % 256)) n k := by
  simp only [slowTx, if_neg h, hl, hd]
end

/-- The state that a write of `tail` to the transmit ring's TAIL leaves to be sent from. -/
def txTail (s : State) (p : Fin 8) (tail : Nat) : State := s.setRegF (ethPage p.val) 0x144 16 8 tail

section
variable {s : State} {p : Fin 8} {tail : Nat}
theorem reg_txTail_ne {o : Nat} (ho : o < 4096) (hne : o ≠ 0x144) : (txTail s p tail).reg (ethPage p.val) o = s.reg (ethPage p.val) o :=
  reg_setRegF_ne (by decide) ho fun h => hne h.2
theorem linkUp_txTail : (txTail s p tail).linkUp p.val = s.linkUp p.val := by
  have hpage : linkPage p.val = ethPage p.val := if_pos p.isLt
  simp only [State.linkUp, State.regB, State.regF, hpage, reg_txTail_ne (show oCtl < 4096 by decide) (by decide),
    reg_txTail_ne (show oStat < 4096 by decide) (by decide)]
  rfl
theorem spBase_txTail : spBase (txTail s p tail) p.val = spBase s p.val := by
  simp only [spBase, State.regF, reg_txTail_ne (show 0x138 < 4096 by decide) (by decide), reg_txTail_ne (show 0x13C < 4096 by decide) (by decide)]

variable (hw : Regs.wf s = true)
include hw
theorem head_txTail : (txTail s p tail).regF (ethPage p.val) 0x144 0 8 = s.regF (ethPage p.val) 0x144 0 8 := by
  rw [State.regF, txTail, reg_setRegF hw, regFld_regSet_ne _ _ (.inl (by decide))]
  rfl
theorem tail_txTail (h : tail < 256) : (txTail s p tail).regF (ethPage p.val) 0x144 16 8 = tail := by
  rw [txTail, regF_setRegF hw (by decide), Nat.mod_eq_of_lt (show tail < 2 ^ 8 from h)]
end

theorem pageBlock_ethp : ∀ p : Fin 9, pageBlock (0x300 + p.val) = some (.ethp, p.val) := by decide

theorem ethpInfo_slowTx {n : Nat} (h : n < 8) : ethpInfo n 0x144 = some { rw := 0xFF0000 } := (if_pos h).trans rfl

theorem regOpen_slowTx {s : State} {id : MasterId} {p : Fin 8} (hi : s.issues id = true) :
    RegOpen s id (ethPage p.val) 0x144 .ethp p.val { rw := 0xFF0000 } := by
  have hb : pageBlock (ethPage p.val) = some (.ethp, p.val) := pageBlock_ethp p.castSucc
  exact {
    issues := hi, page_lt := by have := p.isLt; unfold ethPage; omega, above := by decide, off_lt := by decide, aligned := by decide, block := hb
    power := powerBad_of_page (by decide) (.inr (by unfold ethPage; omega))
    info := by simp only [regInfo, hb, if_neg (show ¬ 0x144 < 0x100 by decide), blockInfo, ethpInfo_slowTx p.isLt]
    identity := by simp only [identityBad, hb]
    access := Bool.and_false _ }

theorem exec_slowPathTx {s : State} {id : MasterId} {p : Fin 8} {v : Word32} (hi : s.issues id = true) :
    exec (.slowPathTx id p v) s = .next { slowTx (txTail s p (regFld v 16 8)) p.val 256 with resp := .done } := by
  have hw : blockWrite s id.val .ethp p.val 0x144 v = some (slowTx (txTail s p (regFld v 16 8)) p.val 256, none) := by
    simp only [blockWrite, ethpWrite, if_pos p.isLt]
    rfl
  exact congrArg Host.Outcome.next ((regOpen_slowTx hi).done hw)

/-! ### Pauses (R297) -/

section
variable {s : State} {n prio : Nat}
theorem pfcRx_down {b : Bool} (h : s.linkUp n = false) : pfcRx s n prio b = s := by rw [pfcRx, h, if_neg Bool.false_ne_true]
variable (h : s.linkUp n = true)
include h
theorem pfcRx_pause : pfcRx s n prio true =
    { s with eth := { s.eth with paused := sput s.eth.paused n (fldSet (sget s.eth.paused n 0) prio 1 1) 0 } } := by
  simp only [pfcRx, if_pos h, if_true]
theorem pfcRx_resume : pfcRx s n prio false = { s with
    eth := { s.eth with paused := sput s.eth.paused n (fldSet (sget s.eth.paused n 0) prio 1 0) 0,
                        held := sput s.eth.held n ((sget s.eth.held n []).filter fun f => f.prio ≠ prio) [] }
    out := (((sget s.eth.held n []).filter fun f => f.prio = prio).map fun f => Out.cst n f.prio (ethVid s n) f.peer f.frame).reverse ++ s.out } := by
  simp only [pfcRx, if_pos h, Bool.false_eq_true, if_false]
end

/-! ### Link edges (R321) -/

section
variable {s : State} {n sub : Nat}
/-- A port comes up only while it is enabled, powered, of a mode and down. -/
theorem portCameUp_stays (h : s.regB (linkPage n) oCtl 0 = false ∨ s.dom (linkDomain n) = false ∨ s.regB (linkPage n) oStat sub = true ∨
    (n < 8 ∧ s.regF (linkPage n) oCtl 1 2 = 0)) : portCameUp s n sub = s := by
  unfold portCameUp
  refine if_neg fun hup => ?_
  simp only [Bool.and_eq_true, Bool.not_eq_true'] at hup
  obtain ⟨hmode, hen, hdom, hdown⟩ := hup
  rcases h with h | h | h | ⟨hn, h⟩
  · rw [hen] at h; cases h
  · rw [hdom] at h; cases h
  · rw [hdown] at h; cases h
  · rw [if_pos hn, h] at hmode; cases hmode

theorem ring_portUpEdge (hp : linkPage n = ethPage n) (hn : n < 8) (lo w : Nat) :
    (portUpEdge s (linkPage n) sub).regF (ethPage n) 0x144 lo w = s.regF (ethPage n) 0x144 lo w := by
  rw [portUpEdge, hp, State.regF, reg_irqBit_ne _ _ _ (by decide) (by unfold ethPage; omega) fun h => absurd h.2 (by decide),
    reg_setRegF_ne (by decide) (by decide) fun h => absurd h.2 (by decide)]
  rfl

variable (hen : s.regB (linkPage n) oCtl 0 = true) (hdom : s.dom (linkDomain n) = true) (hdown : s.regB (linkPage n) oStat sub = false)
include hen hdom hdown
theorem portCameUp_mgmt (hn : 8 ≤ n) (hs : sub = 0) : portCameUp s n sub = portUpEdge s (linkPage n) 0 := by
  subst hs
  simp only [portCameUp, if_neg (Nat.not_lt.mpr hn), hen, hdom, hdown, beq_self_eq_true, Bool.not_false, Bool.and_self, if_true]
theorem portCameUp_eth (hn : n < 8) (hm : s.regF (linkPage n) oCtl 1 2 = 2 ∨ (s.regF (linkPage n) oCtl 1 2 = 1 ∧ sub = 0))
    (hr : s.regF (linkPage n) 0x144 0 8 = s.regF (linkPage n) 0x144 16 8) : portCameUp s n sub = portUpEdge s (linkPage n) sub := by
  have hp : linkPage n = ethPage n := if_pos hn
  have hmode : (s.regF (linkPage n) oCtl 1 2 == 1 && sub == 0 || s.regF (linkPage n) oCtl 1 2 == 2) = true := by
    rcases hm with h | ⟨h, h0⟩
    · simp [h]
    · simp [h, h0]
  have hidle : slowTx (portUpEdge s (linkPage n) sub) n 256 = portUpEdge s (linkPage n) sub :=
    slowTx_idle (.inl (by rw [ring_portUpEdge hp hn, ring_portUpEdge hp hn, ← hp, hr])) 256
  simp only [portCameUp, if_pos hn, hmode, hen, hdom, hdown, Bool.not_false, Bool.and_self, if_true, hidle]
end

theorem portDownEdge_up {s : State} {page sub : Nat} (h : s.regB page oStat sub = true) :
    portDownEdge s page sub = (s.setRegF page oStat sub 1 0).irqBit page 1 := if_pos h
theorem portDownEdge_down {s : State} {page sub : Nat} (h : s.regB page oStat sub = false) : portDownEdge s page sub = s :=
  if_neg (ne_true_of_eq_false h)

end Sys2Proof.Proofs
end

section
/-! PROOF. Management requests (R313, R447), and the ports' statement. -/
namespace Sys2Proof.Proofs
open Sys2Proof.Machine Sys2Proof.Laws

/-! ### MREQ (R313) -/

/-- The MRESP to MREQ `f` with the operations' answers `d`. -/
def mrespTo (f : Cst) (d : List Byte) : List Byte :=
  cstBytes { kind := 0x11, client := f.client, seq := f.seq, qid := f.qid, arg := f.arg, payload := d }

section
variable {s : State} {k : Nat} {peer b : List Byte}
theorem mreqRx_none (h : mgFrame s k b 0x10 = none) : mreqRx s k peer b = s := by simp only [mreqRx, h]

variable {f : Cst} (hf : mgFrame s k b 0x10 = some f)
include hf
theorem mreqRx_misshapen (h : mreqShape f = false) : mreqRx s k peer b = s := by
  simp only [mreqRx, hf, h, Bool.not_false, if_true]

variable (hs : mreqShape f = true)
include hs
theorem mreqRx_repeated {m : Mreq} (hm : sget s.eth.mreq k none = some m) (h : m.client = f.client ∧ m.seq = f.seq) :
    mreqRx s k peer b = { s with out := .cst (8 + k) 0 none peer m.resp :: s.out } := by
  simp only [mreqRx, hf, hs, hm, if_pos h, Bool.not_true, Bool.false_eq_true, if_false]
theorem mreqRx_new {t : State} {d : List Byte} (hm : ∀ m, sget s.eth.mreq k none = some m → m.client ≠ f.client ∨ m.seq ≠ f.seq)
    (hd : mreqOps s (chunks 16 64 f.payload) = (t, d)) : mreqRx s k peer b = { t with
      eth := { t.eth with mreq := sput t.eth.mreq k (some ⟨f.client, f.seq, mrespTo f d⟩) none }
      out := .cst (8 + k) 0 none peer (mrespTo f d) :: t.out } := by
  cases hst : sget s.eth.mreq k none with
  | none =>
    simp only [mreqRx, hf, hs, hst, hd, Bool.not_true, Bool.false_eq_true, if_false]
    rfl
  | some m =>
    have hne : ¬ (m.client = f.client ∧ m.seq = f.seq) := fun h => (hm m hst).elim (fun hc => hc h.1) fun hq => hq h.2
    simp only [mreqRx, hf, hs, hst, hd, if_neg hne, Bool.not_true, Bool.false_eq_true, if_false]
    rfl
end

/-! ### One operation (R313, R447) -/

/-- A write of PAIR_CTL, whose bits Custody alone writes, is refused to the management DMA (R11). -/
theorem busWriteW_pairCtl (s : State) {d : List Byte} (hd : d.length = 4) :
    busWriteW s mgmtId false (regAddr 0x324 0x100) d = (s.berr mgmtId (regAddr 0x324 0x100) true .access, some .access) := by
  have hw : regWrite s mgmtId.val 0x324 0x100 false d = (s, some .access) :=
    (regWrite_reaches (b := .pair) (n := 4) (i := { reset := 1, rwc := 3 }) rfl hd rfl (powerBad_of_page (by decide) (.inr (by decide))) rfl
      rfl).trans rfl
  simp only [busWriteW, busWriteRaw, targetOf_regAddr (show 0x324 < 4096 by decide) (show 0x100 < 4096 by decide), hw]

section
variable {s : State} {b : List Byte}
theorem mreqOp_pairCtl (hr : s.recovery = false) (ho : leAt b 0 1 = 2) (ha : beAt b 2 6 = regAddr 0x324 0x100) :
    mreqOp s b = (s.berr mgmtId (regAddr 0x324 0x100) true .access, listPut b 1 [3]) := by
  simp only [mreqOp, hr, ho, ha, Bool.false_and, Bool.false_eq_true, if_false, if_true, busWriteW_pairCtl s (length_leBytes 4 _)]
  rfl
theorem mreqOp_recovery (hr : s.recovery = true) (h0 : beAt b 2 6 / 4096 ≠ 0xF00000) (h3 : beAt b 2 6 / 4096 ≠ 0xF00003) :
    mreqOp s b = (s, listPut b 1 [7]) := by
  have hpage : (s.recovery && !(decide (beAt b 2 6 / 4096 = 0xF00000 ∨ beAt b 2 6 / 4096 = 0xF00003))) = true := by
    rw [hr, decide_eq_false fun h => h.elim h0 h3]
    rfl
  simp only [mreqOp, if_pos hpage]
  rfl
end

/-- Settles O51, clause by clause. -/
theorem portsCarryTheSlowPathAndManagement : Obligations.PortsCarryTheSlowPathAndManagement := by
  refine ⟨fun s v p b hv => ?_, fun s id p v hi hw => ?_, fun s p q => ⟨fun b h => congrArg _ (pfcRx_down h), fun h => congrArg _ (pfcRx_pause h),
      fun h => ⟨_, congrArg Host.Outcome.next (pfcRx_resume h), rfl, rfl, rfl, rfl⟩⟩, fun s n k => ⟨fun h => congrArg _ (portCameUp_stays h),
      fun hen hdom hdown => ⟨fun hn hk => congrArg _ (portCameUp_mgmt hen hdom hdown hn hk), fun hn hm hr => congrArg _ (portCameUp_eth hen hdom hdown hn hm hr)⟩,
      fun h => congrArg _ (portDownEdge_up h), fun h => congrArg _ (portDownEdge_down h)⟩, fun s p => ?_,
    fun s k peer b => ⟨fun h => congrArg _ (mreqRx_none h), fun f hf => ⟨fun h => congrArg _ (mreqRx_misshapen hf h),
      fun m hs hm hc hq => congrArg _ (mreqRx_repeated hf hs hm ⟨hc, hq⟩),
      fun t d hs hm hd => ⟨_, congrArg Host.Outcome.next (mreqRx_new hf hs hm hd), rfl, rfl, sget_sput_listed _ _ _ (Option.some_ne_none _), rfl⟩⟩⟩,
    fun s b _ => ⟨mreqOp_pairCtl, mreqOp_recovery⟩⟩
  · subst hv
    obtain ⟨-, hregs⟩ := frame_frameIn s p b
    refine ⟨fun h => congrArg _ (slowRx_down h), fun h hc => congrArg _ (slowRx_ipRule h hc), fun h hc => congrArg _ (slowRx_served h hc),
      fun h hc hfull => ?_, fun t h hc hroom hd => ?_, fun hx => ⟨fun hl => frameIn_xoff hx hl, fun hl => frameIn_below hl⟩,
      fun t hx hl => frameOut_xon hx hl⟩
    · refine congrArg _ ((slowRx_slow h hc).trans ?_)
      rw [slowPut_full (by rw [regF_congr hregs, regF_congr hregs, hfull])]
    · refine congrArg _ ((slowRx_slow h hc).trans ?_)
      rw [slowPut_stores (by rwa [regF_congr hregs, regF_congr hregs]) (by rwa [spBase_congr hregs, regF_congr hregs]), regF_congr hregs]
  · have htail := tail_txTail (p := p) hw (regFld_lt v 16 8)
    have hhead := head_txTail (p := p) (tail := regFld v 16 8) hw
    rw [exec_slowPathTx hi]
    refine ⟨fun h => ?_, fun t u l d hne hup hl hd => ?_⟩
    · rw [slowTx_idle (by rwa [htail, hhead, linkUp_txTail, eq_comm (a := State.regF _ _ _ _ _)])]
      rfl
    · have hgo : ¬ ((txTail s p (regFld v 16 8)).regF (ethPage p.val) 0x144 0 8 = (txTail s p (regFld v 16 8)).regF (ethPage p.val) 0x144 16 8 ∨
          (txTail s p (regFld v 16 8)).linkUp p.val = false) := by
        rw [htail, hhead, linkUp_txTail, hup]
        exact fun h => h.elim (fun he => hne he.symm) Bool.noConfusion
      have hsent := slowTx_sends hgo (by rwa [spBase_txTail, hhead]) (by rwa [spBase_txTail, hhead]) 255
      rw [hhead] at hsent
      rw [hsent]
  · refine congrArg Host.Outcome.next ?_
    simp only [Bool.and_eq_true]

end Sys2Proof.Proofs
end

section
/-! PROOF. The pair ports as reliable channels (R306-R308). -/
namespace Sys2Proof.Proofs
open Sys2Proof.Machine Sys2Proof.Laws

/-! ### Flits (R306) -/

theorem flitBytes_eq (q k : Nat) (d : List Byte) : flitBytes q k d = sealed (beBytes 2 q ++ ([byte k] ++ ([0] ++ d))) := by
  simp [flitBytes, sealed]

section
variable {q k : Nat} {d : List Byte}
theorem length_flit (hd : d.length = 248) : (beBytes 2 q ++ ([byte k] ++ ([0] ++ d))).length = 252 := by
  simp only [List.length_append, length_beBytes, List.length_singleton, hd]
theorem length_flitBytes (hd : d.length = 248) : (flitBytes q k d).length = 256 := by rw [flitBytes_eq, length_sealed, length_flit hd]
theorem seq_flitBytes (hq : q < 65536) : beAt (flitBytes q k d) 0 2 = q := by
  rw [flitBytes_eq, sealed, List.append_assoc]
  exact (beAt_mid (a := []) _ rfl (length_beBytes 2 q)).trans ((ofBE_beBytes 2 q).trans (Nat.mod_eq_of_lt hq))
theorem kind_flitBytes (hk : k < 256) : leAt (flitBytes q k d) 2 1 = k := by
  rw [flitBytes_eq, sealed, List.append_assoc, List.append_assoc, leAt_mid (n := 1) _ (length_beBytes 2 q) rfl]
  simp [ofLE, byte, Nat.mod_eq_of_lt hk]
theorem payload_flitBytes (hd : d.length = 248) : ((flitBytes q k d).drop 4).take 248 = d := by
  have hsplit : flitBytes q k d = (beBytes 2 q ++ ([byte k] ++ [0])) ++ (d ++ beBytes 4 (crcInv (beBytes 2 q ++ ([byte k] ++ ([0] ++ d))))) := by
    simp only [flitBytes_eq, sealed, List.append_assoc]
  rw [hsplit]
  exact drop_take_mid _ (by simp only [List.length_append, length_beBytes, List.length_singleton]) hd
theorem crc_flitBytes (hd : d.length = 248) : beAt (flitBytes q k d) 252 4 = crcInv ((flitBytes q k d).take 252) := by
  rw [flitBytes_eq, ← length_flit (q := q) (k := k) hd, crc_sealed, take_sealed]
end

/-! ### A port's record -/

theorem pport_setPport {s : State} (h : pportsWf s) (n : Nat) (x : PPort) : (s.setPport n x).pport n = x :=
  sget_sput_eq (dd := fun _ => ({} : PPort)) _ _ _ h

/-- MSG flits put out are outputs, and nothing else changes. -/
theorem msgFlits_eq (s : State) (n : Nat) (l : List (Nat × List Byte)) :
    msgFlits s n l = { s with out := (l.map fun h => Out.flit n (flitBytes h.1 0 h.2)).reverse ++ s.out } := by
  induction l generalizing s with
  | nil => rfl
  | cons f l ih =>
    refine (ih _).trans ?_
    simp

/-! ### Flits sent again and acknowledged (R307) -/

section
variable {s : State} {n a : Nat} {g : Nat × List Byte} {r : List (Nat × List Byte)} (hu : (s.pport n).unacked = g :: r)
include hu
theorem flitAck_within (h : seqAhead g.1 a ≤ min 1024 (r.length + 1)) : flitAck s n a =
    msgFlits (s.setPport n { s.pport n with unacked := (g :: r).drop (seqAhead g.1 a) }) n (((g :: r).drop 1024).take (seqAhead g.1 a)) := by
  have h' : seqAhead g.1 a ≤ min flitWindow (g :: r).length := h
  simp only [flitAck, hu, if_pos h']
  rfl
theorem flitAck_beyond (h : min 1024 (r.length + 1) < seqAhead g.1 a) : flitAck s n a = s := by
  have h' : ¬ seqAhead g.1 a ≤ min flitWindow (g :: r).length := Nat.not_le.mpr h
  simp only [flitAck, hu, if_neg h']
end

/-! ### A gap (R307) -/

theorem ctrlSend_eq (s : State) (p : Fin 4) (nak : Bool) : ctrlSend s p.val nak = ctrlOut s p nak := by cases nak <;> rfl

section
variable {s : State} {p : Fin 4} {q : Nat}
theorem flitGap_crc : flitGap s p.val none = ctrlOut (gapAt s p none) p true := by
  simp only [flitGap, Bool.and_false, Bool.false_eq_true, if_false, ctrlSend_eq]
  rfl
theorem flitGap_first (h : (s.pport p.val).nak = false) : flitGap s p.val (some q) = ctrlOut (gapAt s p (some q)) p true := by
  simp only [flitGap, h, Bool.false_and, Bool.false_eq_true, if_false, ctrlSend_eq]
  rfl

variable (h : (s.pport p.val).nak = true)
include h
/-- A flit that goes on with the run being discarded is no further gap. -/
theorem flitGap_goesOn (hl : ∀ l, (s.pport p.val).last = some l → q = l ∨ q = (l + 1) % 65536) :
    flitGap s p.val (some q) = gapAt s p (some q) := by
  cases hlast : (s.pport p.val).last with
  | none =>
    simp only [flitGap, h, hlast, Bool.and_self, if_true]
    rfl
  | some l =>
    have hq : (q == l || q == (l + 1) % 65536) = true := by simpa using hl l hlast
    simp only [flitGap, h, hlast, hq, Bool.and_self, if_true]
    rfl
theorem flitGap_again {l : Nat} (hlast : (s.pport p.val).last = some l) (h1 : q ≠ l) (h2 : q ≠ (l + 1) % 65536) :
    flitGap s p.val (some q) = ctrlOut (gapAt s p (some q)) p true := by
  have hq : (q == l || q == (l + 1) % 65536) = false := by simp [h1, h2]
  simp only [flitGap, h, hlast, hq, Bool.and_false, Bool.false_eq_true, if_false, ctrlSend_eq]
  rfl
end

/-! ### FLIT_RX (R306, R307) -/

theorem seqAhead_self (a : Nat) : seqAhead a a = 0 := by rw [seqAhead, Nat.add_sub_cancel]

theorem exec_flitRx {s : State} {p : Fin 4} {f : List Byte} (h : f.length = 256) : exec (.flitRx p f) s = .next (flitRx s p.val f) :=
  if_pos (decide_eq_true h)

section
variable {s : State} {n : Nat} {f : List Byte}
theorem flitRx_off (h : s.regB (pairPage n) oCtl 0 = false ∨ s.dom (pdPair n) = false) : flitRx s n f = s := by
  have hoff : (s.regB (pairPage n) oCtl 0 && s.dom (pdPair n)) = false := by rcases h with h | h <;> simp [h]
  rw [flitRx, hoff, if_neg Bool.false_ne_true]

variable (hen : s.regB (pairPage n) oCtl 0 = true) (hdom : s.dom (pdPair n) = true)
include hen hdom
theorem flitRx_crc (h : beAt f 252 4 ≠ crcInv (f.take 252)) : flitRx s n f = flitGap (s.correctable (pairPage n)) n none := by
  simp only [flitRx, hen, hdom, Bool.and_self, if_true, if_pos h]

variable (hcrc : beAt f 252 4 = crcInv (f.take 252))
include hcrc
theorem flitRx_unknown (h : 2 < leAt f 2 1) : flitRx s n f = s := by
  simp only [flitRx, hen, hdom, hcrc, Bool.and_self, if_true, ne_eq, not_true, if_false, if_pos h]

theorem flitRx_brings_up (hdown : s.pairUp n = false) (hk : leAt f 2 1 = 1) (hq : beAt f 0 2 = (s.pport n).expect) :
    flitRx s n f = (s.setRegF (pairPage n) oStat 0 1 1).irqBit (pairPage n) 0 := by
  have hport : ((s.setRegF (pairPage n) oStat 0 1 1).irqBit (pairPage n) 0).pport n = s.pport n := by
    obtain ⟨_, _, h⟩ := irqBit_only (s.setRegF (pairPage n) oStat 0 1 1) (pairPage n) 0
    rw [h]
    rfl
  simp only [flitRx, hen, hdom, hcrc, hdown, hk, hport, hq, seqAhead_self, Bool.and_self, if_true, ne_eq, not_true, if_false, Bool.false_eq_true,
    Nat.lt_irrefl, false_and, Nat.reduceLT, Nat.reduceEqDiff]

variable (hup : s.pairUp n = true)
include hup
theorem flitRx_msg (hk : leAt f 2 1 = 0) : flitRx s n f = if seqAhead (s.pport n).expect (beAt f 0 2) = 0 then flitTake s n ((f.drop 4).take 248)
    else if seqAhead (s.pport n).expect (beAt f 0 2) < 32768 then flitGap s n (some (beAt f 0 2)) else s := by
  simp only [flitRx, hen, hdom, hcrc, hup, hk, Bool.and_self, if_true, ne_eq, not_true, if_false, Nat.not_lt_zero]
theorem flitRx_idle (hk : leAt f 2 1 = 1) (hq : beAt f 0 2 = (s.pport n).expect) : flitRx s n f = s := by
  simp only [flitRx, hen, hdom, hcrc, hup, hk, hq, seqAhead_self, Bool.and_self, if_true, ne_eq, not_true, if_false, Nat.lt_irrefl, false_and,
    Nat.reduceLT, Nat.reduceEqDiff]
theorem flitRx_ctrl (hk : leAt f 2 1 = 2) (hq : beAt f 0 2 = (s.pport n).expect) : flitRx s n f =
    if bit (leAt f 6 1) 0 then flitResend (flitAck s n (beAt f 4 2)) n else flitAck s n (beAt f 4 2) := by
  simp only [flitRx, hen, hdom, hcrc, hup, hk, hq, seqAhead_self, Bool.and_self, if_true, ne_eq, not_true, if_false, Nat.lt_irrefl, false_and,
    Nat.reduceLT, Nat.reduceEqDiff]
end

/-- The port's record after the expected MSG flit with payload `d`. -/
def taken (x : PPort) (d : List Byte) : PPort :=
  let r := parseMsgs 20 (x.inBytes ++ d)
  { x with expect := (x.expect + 1) % 65536, nak := false, last := none, inBytes := r.2, inbox := x.inbox ++ r.1.filter fun m => decide (m.type ≤ 12) }

/-- An MSG flit that is taken is acknowledged, and the next one is expected. -/
theorem flitTake_acks {s : State} {p : Fin 4} (d : List Byte) (h : pportsWf s) :
    ((flitTake s p.val d).pport p.val).expect = ((s.pport p.val).expect + 1) % 65536 ∧ ((flitTake s p.val d).pport p.val).nak = false ∧
    (flitTake s p.val d).mem = s.mem ∧ (flitTake s p.val d).out = .flit p.val (flitBytes (s.pport p.val).nextSeq 2
      (beBytes 2 (((s.pport p.val).expect + 1) % 65536) ++ 0 :: List.replicate 245 0)) :: s.out := by
  have hport : (s.setPport p.val (taken (s.pport p.val) d)).pport p.val = taken (s.pport p.val) d := pport_setPport h _ _
  have htake : flitTake s p.val d = ctrlOut (s.setPport p.val (taken (s.pport p.val) d)) p false := rfl
  have hkeep : (flitTake s p.val d).pport p.val = taken (s.pport p.val) d := hport
  rw [hkeep]
  refine ⟨rfl, rfl, rfl, ?_⟩
  rw [htake, ctrlOut, hport]
  rfl

/-! ### Messages that are not of a row's type (R308) -/

theorem inboxTake_none {s : State} {n type : Nat} (h : ((s.pport n).inbox.head?.map (·.type)) ≠ some type) : inboxTake s n type = none := by
  unfold inboxTake
  rcases hb : (s.pport n).inbox with _ | ⟨m, t⟩
  · rfl
  · rw [hb] at h
    exact if_neg fun e => h (congrArg some e)

/-- Each message row leaves the port's oldest message alone where it is of another type. -/
theorem exec_message_none {k : BitVec 16} {x : (Fin 4 → Instr) × Nat} (hx : x ∈ ([(.join, 1), (.joinrsp, 2), (.wab, 4), (fun p => .jrec p k, 5),
    (.mack, 6), (.qdelta, 7), (.retire, 9), (.pstate, 10), (fun p => .resync p none, 11), (.homeset, 12)] : List ((Fin 4 → Instr) × Nat)))
    {s : State} {p : Fin 4} (h : inboxTake s p.val x.2 = none) : exec (x.1 p) s = .next s := by
  simp only [List.mem_cons, List.not_mem_nil, or_false] at hx
  rcases hx with rfl | rfl | rfl | rfl | rfl | rfl | rfl | rfl | rfl | rfl <;> dsimp only at h
  · exact congrArg Host.Outcome.next (show joinRx s p.val = s by simp only [joinRx, h])
  · exact congrArg Host.Outcome.next (show joinrspRx s p.val = s by simp only [joinrspRx, h])
  · exact congrArg Host.Outcome.next (show wabRx s p.val = s by simp only [wabRx, h])
  · exact congrArg Host.Outcome.next (show jrecRx s p.val k.toNat = s by simp only [jrecRx, h])
  · exact congrArg Host.Outcome.next (show mackRx s p.val = s by simp only [mackRx, h])
  · exact congrArg Host.Outcome.next (show qdeltaRx s p.val = s by simp only [qdeltaRx, h])
  · exact congrArg Host.Outcome.next (show retireRx s p.val = s by simp only [retireRx, h])
  · exact congrArg Host.Outcome.next (show pstateRx s p.val = s by simp only [pstateRx, h])
  · exact congrArg Host.Outcome.next (show resyncRx s p.val = s by simp only [resyncRx, h])
  · exact congrArg Host.Outcome.next (show homesetRx s p.val = s by simp only [homesetRx, h])

/-- The clauses of R306 to R308 about flits, acknowledgements and the oldest message. -/
theorem pairPortsAreReliableChannels : PairPortsAreReliableChannels := by
  refine ⟨fun q k d hq hk hd => ⟨length_flitBytes hd, seq_flitBytes hq, kind_flitBytes hk, payload_flitBytes hd, crc_flitBytes hd⟩,
    fun s p f hl hw => ?_, fun s p a g r hw hu => ⟨fun h => ?_, fun h => flitAck_beyond hu h⟩, fun s p => ?_,
    fun k x hx s p h => exec_message_none hx (inboxTake_none h)⟩
  · rw [exec_flitRx hl]
    refine ⟨fun h => by rw [flitRx_off h], fun hen hdom => ⟨fun h => by rw [flitRx_crc hen hdom h, flitGap_crc],
      fun hc hk => by rw [flitRx_unknown hen hdom hc hk], fun hc hdown hk hq => by rw [flitRx_brings_up hen hdom hc hdown hk hq],
      fun hc hup => ⟨fun hk _ hq => ⟨_, rfl, ?_⟩, fun hk hq => ?_, fun hk hq hlt => ?_, fun hk _ hq => by rw [flitRx_idle hen hdom hc hup hk hq],
        fun hk _ hq => by rw [flitRx_ctrl hen hdom hc hup hk hq]⟩⟩⟩
    · rw [flitRx_msg hen hdom hc hup hk, hq, if_pos (seqAhead_self _)]
      exact ⟨rfl, flitTake_acks _ hw⟩
    · rw [flitRx_msg hen hdom hc hup hk, if_neg (by omega), if_neg (by omega)]
    · rw [flitRx_msg hen hdom hc hup hk, if_neg (by omega), if_pos hlt]
      exact ⟨fun hn => by rw [flitGap_first hn], fun hn hl => by rw [flitGap_goesOn hn hl], fun l hn hl h1 h2 => by rw [flitGap_again hn hl h1 h2]⟩
  · rw [flitAck_within hu h, msgFlits_eq]
    refine ⟨?_, rfl, rfl, rfl⟩
    exact congrArg PPort.unacked (pport_setPport hw p.val _)
  · refine ⟨fun h => congrArg _ (if_neg (ne_true_of_eq_false h)), fun h => congrArg _ ((if_pos h).trans (msgFlits_eq _ _ _)),
      fun h => congrArg _ (portDownEdge_up h), fun h => congrArg _ (portDownEdge_down h)⟩

end Sys2Proof.Proofs
end

section
/-! PROOF. Mirror requests, deltas, homes and the resync copy (R309-R312, R317, R322). -/
namespace Sys2Proof.Proofs
open Sys2Proof.Machine Sys2Proof.Laws

/-! ### WAB, JREC, MACK and RETIRE (R310) -/

section
variable {s t u v : State} {n slot : Nat} {m : PairMsg}

theorem jrecWrite_done (h : dmaWrite s pairId (jSlot s slot) (m.payload.drop 8) = (u, none)) : jrecWrite s n slot m =
    pairSend (u.setPlink { u.plink with chunks := sput u.plink.chunks m.tag 0 0 }) n 6 m.tag [] := by
  simp only [jrecWrite, h]

/-- The state after a chunk of mirror id `tag` has been written: it is counted. -/
def chunkCounted (s : State) (tag : Nat) : State :=
  s.setPlink { s.plink with chunks := sput s.plink.chunks tag (sget s.plink.chunks tag 0 + 1) 0 }

section
variable (ht : inboxTake s n 4 = some (m, t))
include ht
theorem wabRx_dropped (h : m.payload.length < 8 ∨ mirSize t < beAt m.payload 0 8 + (m.payload.length - 8)) : wabRx s n = t := by
  simp only [wabRx, ht, if_pos h.symm]

variable (hl : 8 ≤ m.payload.length) (hin : beAt m.payload 0 8 + (m.payload.length - 8) ≤ mirSize t)
  (hw : dmaWrite t pairId (mirBase t + beAt m.payload 0 8) (m.payload.drop 8) = (u, none))
include hl hin hw
theorem wabRx_written : wabRx s n =
    match (chunkCounted u m.tag).plink.jrecs.find? fun j => j.2.2.tag == m.tag && jrecReady (chunkCounted u m.tag) j.2.2 with
    | some j => jrecWrite ((chunkCounted u m.tag).setPlink { (chunkCounted u m.tag).plink with
        jrecs := (chunkCounted u m.tag).plink.jrecs.erase j }) j.1 j.2.1 j.2.2
    | none => chunkCounted u m.tag := by
  have hout : ¬ (mirSize t < beAt m.payload 0 8 + (m.payload.length - 8) ∨ m.payload.length < 8) := by omega
  simp only [wabRx, ht, if_neg hout, hw]
  rfl
end

section
variable (ht : inboxTake s n 5 = some (m, t))
include ht
theorem jrecRx_misshapen (h : m.payload.length ≠ 72) : jrecRx s n slot = t := by simp only [jrecRx, ht, if_pos h]
variable (hl : m.payload.length = 72)
include hl
theorem jrecRx_waits (h : sget t.plink.chunks m.tag 0 < beAt m.payload 0 8) :
    jrecRx s n slot = t.setPlink { t.plink with jrecs := t.plink.jrecs ++ [(n, slot, m)] } := by
  have hready : jrecReady t m = false := decide_eq_false (Nat.not_le.mpr h)
  simp only [jrecRx, ht, if_neg (not_not_intro hl), hready, Bool.false_eq_true, if_false]
theorem jrecRx_ready (h : beAt m.payload 0 8 ≤ sget t.plink.chunks m.tag 0) : jrecRx s n slot = jrecWrite t n slot m := by
  have hready : jrecReady t m = true := decide_eq_true h
  simp only [jrecRx, ht, if_neg (not_not_intro hl), hready, if_true]
end

section
variable (ht : inboxTake s n 6 = some (m, t))
include ht
theorem mackRx_unawaited (h : t.plink.mirrors.find? (fun x => x.mid == m.tag) = none) : mackRx s n = t := by simp only [mackRx, ht, h]
theorem mackRx_ends {x : Mirror} (h : t.plink.mirrors.find? (fun x => x.mid == m.tag) = some x) :
    mackRx s n = mirrorEnd (t.setPlink { t.plink with mirrors := t.plink.mirrors.erase x }) x 0 := by
  simp only [mackRx, ht, h]
end

theorem retireRx_frees {r : List Byte} (ht : inboxTake s n 9 = some (m, t)) (hr : dmaRead t pairId (jSlot t m.tag) 16 = (u, .ok (r, false)))
    (hw : dmaWrite u pairId (jSlot u m.tag) (List.replicate 8 0) = (v, none)) : retireRx s n = pairSend v n 6 (leAt r 8 8) [] := by
  simp only [retireRx, ht, hr, hw]

/-! ### DACK and HOMESET (R311, R312) -/

theorem dackRx_none (h : inboxTake s n 8 = none) : dackRx s n = s := by simp only [dackRx, h]
theorem dackRx_some (h : inboxTake s n 8 = some (m, t)) : dackRx s n = dack t m.tag := by simp only [dackRx, h]
theorem dack_no_wait {d : Nat} (h : t.qe.waits = []) :
    dack t d = { t with qe := { t.qe with deltas := t.qe.deltas.filter fun x => x.1 ≠ d } } := by
  simp only [dack, h, List.find?_nil, List.filter_nil]
theorem dack_one_wait {w : Wait} (h : t.qe.waits = [w]) : dack t w.delta =
    compTail { t with qe := { t.qe with deltas := t.qe.deltas.filter fun x => x.1 ≠ w.delta, waits := [] } } w.q w.comp w.ift := by
  simp [dack, h]

theorem setHome_read {q : Nat} {c : QCtx} (b : Bool) (h : ctxRead t q = (u, .ok c)) : setHome t q b = ctxStore u q (qset c qHOME (b2n b)) := by
  simp only [setHome, h]
theorem homesetRx_some (h : inboxTake s n 12 = some (m, t)) :
    homesetRx s n = setHome t (m.tag % 262144) (leAt m.payload 0 1 == 0) := by simp only [homesetRx, h]
theorem b2n_beq_zero (k : Nat) : b2n (k == 0) = if k = 0 then 1 else 0 := by simp [b2n]
end

/-! ### The resync copy (R317) -/

section
variable {s t u : State} {n off : Nat} {m : PairMsg} {c : QCtx} {d : List Byte}
theorem resyncSend_not (h : s.plink.joined = false ∨ s.plink.loser = true ∨ s.pairUp n = false) : resyncSend s n off = s := by
  have hoff : (s.plink.joined && (!s.plink.loser && s.pairUp n)) = false := by rcases h with h | h | h <;> simp [h]
  rw [resyncSend, hoff, if_neg Bool.false_ne_true]

section
variable (hj : s.plink.joined = true) (hwin : s.plink.loser = false) (hup : s.pairUp n = true)
include hj hwin hup
theorem resyncSend_area (ha : (resyncPlace s off).2 ≠ 0)
    (hr : dmaRead s pairId (resyncPlace s off).1 (resyncPlace s off).2 = (t, .ok (d, false))) :
    resyncSend s n off = pairSend t n 11 off d := by
  simp only [resyncSend, hj, hwin, hup, Bool.not_false, Bool.and_self, if_true, if_pos ha, hr]
theorem resyncSend_queue (ha : (resyncPlace s off).2 = 0) (hc : ctxRead s (resyncQueue s off % 262144) = (t, .ok c)) (hen : qf c qEN = 1)
    (hr : dmaRead t pairId (qf c qRCADDR) 1024 = (u, .ok (d, false))) : resyncSend s n off = pairSend u n 11 off (ctxBytes c ++ d) := by
  simp only [resyncSend, hj, hwin, hup, Bool.not_false, Bool.and_self, if_true, if_neg (not_not_intro ha), hc, if_pos hen, hr]
end

variable (ht : inboxTake s n 11 = some (m, t))
include ht
theorem resyncRx_winner (h : t.plink.loser = false) : resyncRx s n = t := by simp only [resyncRx, ht, h, Bool.false_eq_true, if_false]
theorem resyncRx_area (h : t.plink.loser = true) (ha : (resyncPlace t m.tag).2 ≠ 0) : resyncRx s n =
    (dmaWrite t pairId (resyncPlace t m.tag).1 (m.payload.take (resyncPlace t m.tag).2)).1 := by
  simp only [resyncRx, ht, h, if_true, if_pos ha]
end

/-! ### Mirror requests (R309, R310) -/

section
variable {s t : State} {r : Fin 32} {b : List Byte}
theorem mirrorRequest_off (h : s.regB 0x325 (0x100 + 8 * r.val) 31 = false) : mirrorRequest s r.val = s := by
  have h' : regBit (s.reg 0x325 (0x100 + 8 * r.val)) 31 = false := h
  simp only [mirrorRequest, h', Bool.false_and, Bool.false_eq_true, if_false]
theorem mirrorRequest_waits (hp : s.paired = true) (hd : s.deltaPort = none) : mirrorRequest s r.val = s := by
  simp only [mirrorRequest, hp, hd, Bool.not_true, Option.isSome_none, Bool.or_self, Bool.and_false, Bool.false_eq_true, if_false]

variable (hon : s.regB 0x325 (0x100 + 8 * r.val) 31 = true) (hp : s.paired = false ∨ s.deltaPort ≠ none)
  (hr : dmaRead s pairId (mirSlot s r) 64 = (t, .ok (b, false)))
include hon hp hr
theorem mirrorRequest_read : mirrorRequest s r.val = if leAt b 56 1 = 1 then
    mirrorServe (((dmaWrite t pairId (mirSlot s r + 56) (leBytes 8 (fldSet (leAt b 56 8) 0 8 2))).1).setReg 0x325 (0x104 + 8 * r.val)
      (w32 ((s.regF 0x325 (0x104 + 8 * r.val) 0 6 + 1) % 64))) (mirSlot s r) b else t := by
  have hon' : regBit (s.reg 0x325 (0x100 + 8 * r.val)) 31 = true := hon
  have hgo : (!s.paired || s.deltaPort.isSome) = true := by
    rcases hp with h | h
    · rw [h]; rfl
    · rw [Option.isSome_iff_ne_none.mpr h, Bool.or_true]
  simp only [mirSlot] at hr ⊢
  simp only [mirrorRequest, hon', hgo, Bool.and_self, if_true, hr]
end

section
variable {s t u v : State} {addr : Nat} {b d : List Byte} (hw : bit (leAt b 32 8) 0 = false)
include hw
theorem mirrorServe_outside (h : leAt b 8 4 % 64 ≠ 0 ∨ mirSize s < leAt b 16 6 + leAt b 8 4) :
    mirrorServe s addr b = mirrorEnd s { mid := s.plink.mid, addr := addr, w6 := leAt b 48 8 } 4 := by
  simp only [mirrorServe, hw, Bool.false_eq_true, if_false, if_pos h]

variable (hal : leAt b 8 4 % 64 = 0) (hin : leAt b 16 6 + leAt b 8 4 ≤ mirSize s)
include hal hin
theorem mirrorServe_lost (hs : s.pstate ≠ 0) (hp : s.paired = false) :
    mirrorServe s addr b = mirrorEnd s { mid := s.plink.mid, addr := addr, w6 := leAt b 48 8 } 2 := by
  have hok : ¬ (leAt b 8 4 % 64 ≠ 0 ∨ mirSize s < leAt b 16 6 + leAt b 8 4) := by omega
  simp only [mirrorServe, hw, Bool.false_eq_true, if_false, if_neg hok, if_pos (And.intro hs hp)]
theorem mirrorServe_solo (hs : s.pstate = 0)
    (hr : dmaRead (s.setPlink { s.plink with mid := (s.plink.mid + 1) % 2 ^ 64 }) pairId (leAt b 24 6) 64 = (t, .ok (d, false)))
    (hw1 : dmaWrite t pairId (leAt b 24 6) ((leBytes 8 s.epoch ++ leBytes 8 s.plink.mid ++ d.drop 16).take 16) = (u, none))
    (hw2 : dmaWrite u pairId (jSlot s (leAt b 30 2)) (leBytes 8 s.epoch ++ leBytes 8 s.plink.mid ++ d.drop 16) = (v, none)) (hv : v.pstate = 0) :
    mirrorServe s addr b = mirrorEnd v { mid := s.plink.mid, addr := addr, w6 := leAt b 48 8 } 1 := by
  have hok : ¬ (leAt b 8 4 % 64 ≠ 0 ∨ mirSize s < leAt b 16 6 + leAt b 8 4) := by omega
  have hserves : ¬ (s.pstate ≠ 0 ∧ s.paired = false) := fun h => h.1 hs
  simp only [mirrorServe, hw, Bool.false_eq_true, if_false, if_neg hok, if_neg hserves, hr, hw1, hw2, if_pos hv]
end

end Sys2Proof.Proofs
end

section
/-! PROOF. Deltas, set states and homes taken from the partner (R283, R311, R312). -/
namespace Sys2Proof.Proofs
open Sys2Proof.Machine Sys2Proof.Laws

/-! ### Fields of a context (R250) -/

section
variable {x lo w v lo' w' : Nat}
theorem fld_fldSet : fld (fldSet x lo w v) lo w = v % 2 ^ w := by
  refine Nat.eq_of_testBit_eq fun i => ?_
  rw [testBit_fld, Nat.testBit_mod_two_pow, testBit_fldSet]
  by_cases hi : i < w
  · rw [if_pos (by omega), Nat.add_sub_cancel_left]
  · rw [decide_eq_false hi, Bool.false_and, Bool.false_and]
theorem fld_fldSet_ne (h : lo' + w' ≤ lo ∨ lo + w ≤ lo') : fld (fldSet x lo w v) lo' w' = fld x lo' w' := by
  refine Nat.eq_of_testBit_eq fun i => ?_
  rw [testBit_fld, testBit_fld, testBit_fldSet]
  by_cases hi : i < w'
  · rw [if_neg (by omega)]
  · rw [decide_eq_false hi, Bool.false_and, Bool.false_and]
end

/-- Two fields share no bit of the context. -/
def fieldsApart (f g : CF) : Bool := f.w != g.w || (decide (g.lo + g.n ≤ f.lo) || decide (f.lo + f.n ≤ g.lo))

section
variable {c : QCtx} {f g : CF} {v : Nat}
theorem length_qset : (qset c f v).length = c.length := List.length_set
theorem qf_qset (h : f.w < c.length) : qf (qset c f v) f = v % 2 ^ f.n := by
  rw [qf, qset, List.getD_eq_getElem?_getD, List.getElem?_set_self h, Option.getD_some, fld_fldSet]
/-- A field that shares no bit with the one replaced stays. -/
theorem qf_qset_apart (h : fieldsApart f g = true) : qf (qset c f v) g = qf c g := by
  simp only [fieldsApart, Bool.or_eq_true, bne_iff_ne, decide_eq_true_eq] at h
  by_cases hw : f.w = g.w
  · by_cases hl : f.w < c.length
    · rw [qf, qf, qset, ← hw, List.getD_eq_getElem?_getD, List.getElem?_set_self hl, Option.getD_some, fld_fldSet_ne (by omega)]
    · rw [qset, List.set_eq_of_length_le (by omega)]
  · rw [qf, qset, List.getD_eq_getElem?_getD, List.getElem?_set_ne hw, ← List.getD_eq_getElem?_getD]
    rfl
end

theorem length_ctxRead {s t : State} {q : Nat} {c : QCtx} (h : ctxRead s q = (t, .ok c)) : c.length = 8 := by
  unfold ctxRead at h
  rcases hr : readParts (fun s a n => sramPartRead s a n {}) s (parts 8 64 (ctxAddr q) 64) with ⟨s1, e | ⟨d, _ | _⟩⟩ <;> rw [hr] at h
  · cases h
  · cases h
    rfl
  · cases h

/-! ### QDELTA (R311) -/

/-- The context that QDELTA with payload `b` leaves: the running fields of the record, and CQHEAD equal to CQTAIL. -/
def deltaCtx (c : QCtx) (b : List Byte) : QCtx :=
  qset (qset (qset (qset (qset (qset (qset (qset c qCQPHASE (leAt b 28 1)) qCQTAIL (leAt b 26 2)) qSQHEAD (leAt b 24 2)) qWMAP (leAt b 16 8))
    qNCOMP (leAt b 12 4)) qWBASE (leAt b 8 4)) qLASTSTAT (leAt b 5 1)) qCQHEAD (leAt b 26 2)

theorem qdeltaRx_read {s t u : State} {n : Nat} {m : PairMsg} {c : QCtx} (ht : inboxTake s n 7 = some (m, t))
    (hc : ctxRead t (leAt m.payload 0 4 % 262144) = (u, .ok c)) : qdeltaRx s n =
    pairSend (if leAt m.payload 4 1 = 2 then (dmaWrite (ctxStore u (leAt m.payload 0 4 % 262144) (deltaCtx c m.payload)) qeId
      (qf c qRCADDR + leAt m.payload 29 1 % 64 * 16) ((m.payload.drop 32).take 16)).1
      else ctxStore u (leAt m.payload 0 4 % 262144) (deltaCtx c m.payload)) n 8 m.tag [] := by
  simp only [qdeltaRx, ht, hc]
  rfl

section
variable {c : QCtx} {b : List Byte} (hc : c.length = 8)
include hc
theorem deltaCtx_running : qf (deltaCtx c b) qWBASE = leAt b 8 4 ∧ qf (deltaCtx c b) qNCOMP = leAt b 12 4 ∧ qf (deltaCtx c b) qWMAP = leAt b 16 8 ∧
    qf (deltaCtx c b) qSQHEAD = leAt b 24 2 ∧ qf (deltaCtx c b) qCQTAIL = leAt b 26 2 ∧ qf (deltaCtx c b) qCQHEAD = leAt b 26 2 ∧
    qf (deltaCtx c b) qLASTSTAT = leAt b 5 1 ∧ qf (deltaCtx c b) qCQPHASE = leAt b 28 1 % 2 := by
  have hlt (o n : Nat) : leAt b o n % 256 ^ n = leAt b o n := Nat.mod_eq_of_lt (leAt_lt b o n)
  simp (disch := simp +decide [length_qset, hc]) only [deltaCtx, qf_qset_apart, qf_qset]
  exact ⟨hlt 8 4, hlt 12 4, hlt 16 8, hlt 24 2, hlt 26 2, hlt 26 2, hlt 5 1, rfl⟩
end
theorem deltaCtx_kept (c : QCtx) (b : List Byte) : qf (deltaCtx c b) qHOME = qf c qHOME ∧ qf (deltaCtx c b) qINFL = qf c qINFL ∧
    qf (deltaCtx c b) qSQTAIL = qf c qSQTAIL := by
  refine ⟨?_, ?_, ?_⟩ <;> simp (disch := decide) only [deltaCtx, qf_qset_apart]

/-! ### PSTATE (R283) -/

/-- A set enters the state `v`, if it is in another one. -/
def stTaken (t : State) (k v : Nat) : State := if t.setSt k = v then t else enterSt t k v
/-- The state with the words of set `k` taken from the PSTATE record `b`. -/
def wordsTaken (b : List Byte) (t : State) (k : Nat) : State :=
  ((stTaken t k (fld (beAt b (8 * k + 4) 4) 0 3)).setRegF 0x351 (0x104 + 8 * k) 4 1 (fld (beAt b (8 * k + 4) 4) 4 1)).setReady k
    (bit (beAt b (512 + 4 * (k / 32)) 4) (k % 32))
/-- The state with set `k` taken from the record, where it has members. -/
def setTaken (b : List Byte) (t : State) (k : Nat) : State := if (t.members k).isEmpty then t else wordsTaken b t k
/-- The state of set `k`, its hold and its ready flag are those of the record. -/
def ShowsRecord (b : List Byte) (u : State) (k : Nat) : Prop :=
  u.setSt k = fld (beAt b (8 * k + 4) 4) 0 3 ∧ u.dropHold k = bit (beAt b (8 * k + 4) 4) 4 ∧ u.ready k = bit (beAt b (512 + 4 * (k / 32)) 4) (k % 32)
/-- Set `k` is as it was. -/
def SetAsBefore (t u : State) (k : Nat) : Prop := u.setSt k = t.setSt k ∧ u.dropHold k = t.dropHold k ∧ u.ready k = t.ready k

theorem bit_eq_testBit (x n : Nat) : bit x n = x.testBit n := by
  rw [Nat.testBit_eq_decide_div_mod_eq, bit, Nat.shiftRight_eq_div_pow]

section
variable {t : State} {k v : Nat}
theorem stTaken_only : ∃ rs cs, stTaken t k v = { t with regs := rs, cores := cs } := by
  unfold stTaken
  split
  · exact ⟨_, _, rfl⟩
  · obtain ⟨rs, cs, h⟩ := irqBit_only (t.setRegF 0x351 (0x104 + 8 * k) 0 3 v) 0x350 1
    exact ⟨rs, cs, h⟩
theorem reg_stTaken_ne {p o : Nat} (hk : k < 64) (ho : o < 4096) (h40 : p ≠ 0x40) (hraw : ¬ (p = 0x350 ∧ o = oIrqRaw))
    (h : ¬ (p = 0x351 ∧ o = 0x104 + 8 * k)) : (stTaken t k v).reg p o = t.reg p o := by
  unfold stTaken
  split
  · rfl
  · rw [enterSt, reg_irqBit_ne _ _ _ ho h40 hraw, reg_setRegF_ne (by omega) ho h]

variable (hw : Regs.wf t = true)
include hw
theorem wf_stTaken : Regs.wf (stTaken t k v) = true := by
  unfold stTaken
  split
  · exact hw
  · exact wf_irqBit _ _ (wf_setRegF _ _ _ _ _ hw)
theorem setSt_stTaken (hk : k < 64) (hv : v < 8) : (stTaken t k v).setSt k = v := by
  unfold stTaken
  split
  next h => exact h
  next =>
    rw [State.setSt, State.regF, enterSt, reg_irqBit_ne _ _ _ (by omega) (by decide) (fun h => absurd h.1 (by decide)), reg_setRegF hw,
      regFld_regSet _ _ (by decide), Nat.mod_eq_of_lt (show v < 2 ^ 3 from hv)]
end

section
variable {b : List Byte} {t : State} {k : Nat}
theorem wordsTaken_only : ∃ rs cs, wordsTaken b t k = { t with regs := rs, cores := cs } := by
  obtain ⟨rs, cs, h⟩ := stTaken_only (t := t) (k := k) (v := fld (beAt b (8 * k + 4) 4) 0 3)
  exact ⟨_, cs, by rw [wordsTaken, h]; rfl⟩
/-- Only the word of the set, the word of its ready flag and IRQ_RAW change. -/
theorem reg_wordsTaken_ne {p o : Nat} (hk : k < 64) (ho : o < 4096) (h40 : p ≠ 0x40) (hraw : ¬ (p = 0x350 ∧ o = oIrqRaw))
    (hset : ¬ (p = 0x351 ∧ o = 0x104 + 8 * k)) (hrdy : ¬ (p = 0x350 ∧ o = 0x150 + k / 32 * 4)) : (wordsTaken b t k).reg p o = t.reg p o := by
  rw [wordsTaken, State.setReady, reg_setRegF_ne (by omega) ho hrdy, reg_setRegF_ne (by omega) ho hset, reg_stTaken_ne hk ho h40 hraw hset]
theorem members_wordsTaken (hk : k < 64) (j : Nat) : (wordsTaken b t k).members j = t.members j := by
  refine List.filter_congr fun p hp => ?_
  have hp : p < 240 := (mem_rangeFrom.mp hp).2.trans_eq (Nat.zero_add _)
  have hmap : (wordsTaken b t k).pmap p = t.pmap p :=
    reg_wordsTaken_ne hk (by omega) (by decide) (fun h => absurd h.1 (by decide)) (fun h => absurd h.1 (by decide))
      (fun h => absurd h.1 (by decide))
  rw [State.inSet, State.setNo, hmap]
  rfl

section
variable (hw : Regs.wf t = true)
include hw
theorem wf_wordsTaken : Regs.wf (wordsTaken b t k) = true := wf_setRegF _ _ _ _ _ (wf_setRegF _ _ _ _ _ (wf_stTaken hw))

variable (hk : k < 64)
include hk
theorem reg_wordsTaken_set : (wordsTaken b t k).reg 0x351 (0x104 + 8 * k) =
    regSet ((stTaken t k (fld (beAt b (8 * k + 4) 4) 0 3)).reg 0x351 (0x104 + 8 * k)) 4 1 (fld (beAt b (8 * k + 4) 4) 4 1) := by
  rw [wordsTaken, State.setReady, reg_setRegF_ne (by omega) (by omega) (fun h => absurd h.1 (by decide)), reg_setRegF (wf_stTaken hw)]
theorem reg_wordsTaken_ready : (wordsTaken b t k).reg 0x350 (0x150 + k / 32 * 4) =
    regSet (t.reg 0x350 (0x150 + k / 32 * 4)) (k % 32) 1 (b2n (bit (beAt b (512 + 4 * (k / 32)) 4) (k % 32))) := by
  rw [wordsTaken, State.setReady, reg_setRegF (wf_setRegF _ _ _ _ _ (wf_stTaken hw)), reg_setRegF_ne (by omega) (by omega) (by omega),
    reg_stTaken_ne hk (by omega) (by decide) (fun h => by have := h.2; unfold oIrqRaw at this; omega) (fun h => absurd h.1 (by decide))]

theorem wordsTaken_shows : ShowsRecord b (wordsTaken b t k) k := by
  refine ⟨?_, ?_, ?_⟩
  · rw [State.setSt, State.regF, reg_wordsTaken_set hw hk, regFld_regSet_ne _ _ (.inl (by decide))]
    exact setSt_stTaken hw hk (Nat.mod_lt _ (by decide))
  · rw [State.dropHold, State.regB, reg_wordsTaken_set hw hk, regBit_regSet _ _ _ _ (by decide), if_pos (by decide), testBit_fld, bit_eq_testBit]
    rfl
  · rw [State.ready, State.regB, reg_wordsTaken_ready hw hk, regBit_regSet _ _ _ _ (Nat.mod_lt _ (by decide)), if_pos (by omega), Nat.sub_self]
    cases bit (beAt b (512 + 4 * (k / 32)) 4) (k % 32) <;> rfl
theorem wordsTaken_others {j : Nat} (hj : j < 64) (hne : j ≠ k) : SetAsBefore t (wordsTaken b t k) j := by
  have hset : (wordsTaken b t k).reg 0x351 (0x104 + 8 * j) = t.reg 0x351 (0x104 + 8 * j) :=
    reg_wordsTaken_ne hk (by omega) (by decide) (fun h => absurd h.1 (by decide)) (by omega) (fun h => absurd h.1 (by decide))
  refine ⟨by rw [State.setSt, State.regF, hset]; rfl, by rw [State.dropHold, State.regB, hset]; rfl, ?_⟩
  by_cases hword : j / 32 = k / 32
  · rw [State.ready, State.regB, hword, reg_wordsTaken_ready hw hk, regBit_regSet _ _ _ _ (Nat.mod_lt _ (by decide)), if_neg (by omega), ← hword]
    rfl
  · rw [State.ready, State.regB, reg_wordsTaken_ne hk (by omega) (by decide) (fun h => by have := h.2; unfold oIrqRaw at this; omega)
      (fun h => absurd h.1 (by decide)) (by omega)]
    rfl
end
end

section
variable {b : List Byte} {t : State} {k : Nat}
/-- What the taking of a set leaves as it is. -/
theorem setTaken_keeps (hk : k < 64) : (setTaken b t k).mem = t.mem ∧ (setTaken b t k).ports = t.ports ∧
    ∀ j, (setTaken b t k).members j = t.members j := by
  unfold setTaken
  split
  · exact ⟨rfl, rfl, fun _ => rfl⟩
  · obtain ⟨rs, cs, h⟩ := wordsTaken_only (b := b) (t := t) (k := k)
    exact ⟨by rw [h], by rw [h], members_wordsTaken hk⟩

variable (hw : Regs.wf t = true)
include hw
theorem wf_setTaken : Regs.wf (setTaken b t k) = true := by
  unfold setTaken
  split
  · exact hw
  · exact wf_wordsTaken hw
theorem setTaken_shows (hk : k < 64) (hm : t.members k ≠ []) : ShowsRecord b (setTaken b t k) k := by
  rw [setTaken, if_neg (by rwa [List.isEmpty_iff])]
  exact wordsTaken_shows hw hk
theorem setTaken_others (hk : k < 64) {j : Nat} (hj : j < 64) (h : j ≠ k ∨ t.members j = []) : SetAsBefore t (setTaken b t k) j := by
  unfold setTaken
  split
  · exact ⟨rfl, rfl, rfl⟩
  next hne => exact wordsTaken_others hw hk hj (h.elim id fun he hjk => hne (by rw [← hjk, he]; rfl))
end

theorem SetAsBefore.trans {s t u : State} {k : Nat} (h : SetAsBefore s t k) (h' : SetAsBefore t u k) : SetAsBefore s u k :=
  ⟨h'.1.trans h.1, h'.2.1.trans h.2.1, h'.2.2.trans h.2.2⟩
theorem ShowsRecord.kept {b : List Byte} {t u : State} {k : Nat} (h : ShowsRecord b t k) (h' : SetAsBefore t u k) : ShowsRecord b u k :=
  ⟨h'.1.trans h.1, h'.2.1.trans h.2.1, h'.2.2.trans h.2.2⟩

/-- The sets of a list are taken: those with members show the record's words, the others are as before. -/
theorem setsTaken (b : List Byte) (l : List Nat) {t : State} (hl : ∀ k ∈ l, k < 64) (hw : Regs.wf t = true) :
    (l.foldl (setTaken b) t).mem = t.mem ∧ (l.foldl (setTaken b) t).ports = t.ports ∧ ∀ j < 64,
      (t.members j ≠ [] → j ∈ l ∨ ShowsRecord b t j → ShowsRecord b (l.foldl (setTaken b) t) j) ∧
      (t.members j = [] → SetAsBefore t (l.foldl (setTaken b) t) j) := by
  induction l generalizing t with
  | nil => exact ⟨rfl, rfl, fun j _ => ⟨fun _ h => h.resolve_left List.not_mem_nil, fun _ => ⟨rfl, rfl, rfl⟩⟩⟩
  | cons k l ih =>
    have hk : k < 64 := hl k List.mem_cons_self
    obtain ⟨hmem, hports, hmembers⟩ := setTaken_keeps (b := b) (t := t) hk
    obtain ⟨ihmem, ihports, ihsets⟩ := ih (fun j h => hl j (List.mem_cons_of_mem _ h)) (wf_setTaken (b := b) (k := k) hw)
    refine ⟨ihmem.trans hmem, ihports.trans hports, fun j hj => ⟨fun hm h => ?_, fun he => ?_⟩⟩
    · refine (ihsets j hj).1 (by rwa [hmembers]) ?_
      by_cases hjk : j = k
      · subst hjk
        exact .inr (setTaken_shows hw hk hm)
      · exact h.imp (fun hin => (List.mem_cons.mp hin).resolve_left hjk) fun hs => hs.kept (setTaken_others hw hk hj (.inl hjk))
    · exact (setTaken_others hw hk hj (.inr he)).trans ((ihsets j hj).2 (by rwa [hmembers]))

section
variable {s t : State} {n : Nat} {m : PairMsg} (ht : inboxTake s n 10 = some (m, t))
include ht
theorem pstateRx_ignored (h : t.pmaster = true ∨ m.payload.length ≠ 520) : pstateRx s n = t := by simp only [pstateRx, ht, if_pos h]
/-- A record that has no set enter DOWN with DEPOWER = 1 changes the sets' words alone. -/
theorem pstateRx_takes (hp : t.pmaster = false) (hl : m.payload.length = 520)
    (hpow : ∀ k < 64, fld (beAt m.payload (8 * k + 4) 4) 0 3 ≠ 0 ∨ bit (beAt m.payload (8 * k) 4) 0 = false) :
    pstateRx s n = (rangeFrom 0 64).foldl (setTaken m.payload) t := by
  have hgo : ¬ (t.pmaster = true ∨ m.payload.length ≠ 520) := by simp [hp, hl]
  simp only [pstateRx, ht, if_neg hgo]
  refine List.foldl_ext _ _ _ fun a k hk => ?_
  have hkeeps (x : Nat) : ¬ (x ≠ 0 ∧ fld (beAt m.payload (8 * k + 4) 4) 0 3 = 0 ∧ bit (beAt m.payload (8 * k) 4) 0 = true) := fun ⟨_, h0, hb⟩ =>
    (hpow k (mem_rangeFrom.mp hk).2).elim (fun h => h h0) fun h => by rw [hb] at h; cases h
  simp only [if_neg (hkeeps _)]
  rfl
end

/-! ### PAIR_HOMEREQ (R312) -/

theorem homeReq_discarded {s : State} (v : Word32) (h : s.paired = false) : homeReq s v = s := by
  simp only [homeReq, h, Bool.false_and, Bool.false_eq_true, if_false]
theorem homeReq_sends {s : State} {v : Word32} {n : Nat} (hp : s.paired = true) (hi : qf (s.ctxRaw (regFld v 0 18)) qINFL = 0)
    (hd : s.deltaPort = some n) : homeReq s v =
    pairSend (setHome s (regFld v 0 18) (regBit v 31)) n 12 (regFld v 0 18) [if regBit v 31 then 1 else 0] := by
  simp only [homeReq, hp, hi, hd, beq_self_eq_true, Bool.and_self, if_true]
  cases regBit v 31 <;> rfl

section
variable {s : State} {id : MasterId} {v : Word32} (hi : s.issues id = true)
include hi
theorem regOpen_homereq : RegOpen s id 0x324 0x12C .pair 4 { wo := 0x8003FFFF } where
  issues := hi
  page_lt := by decide
  above := by decide
  off_lt := by decide
  aligned := rfl
  block := rfl
  power := powerBad_of_page (by decide) (by decide)
  info := rfl
  identity := rfl
  access := Bool.and_false _
theorem exec_homereq : exec (.homereq id v) s = .next { homeReq s v with resp := .done } :=
  congrArg Host.Outcome.next ((regOpen_homereq hi).done (t := homeReq s v) rfl)
end

end Sys2Proof.Proofs
end

section
/-! PROOF. O52: the pair link's channels, and the messages of mirroring, deltas, homes and the resync copy. -/
namespace Sys2Proof.Proofs
open Sys2Proof.Machine Sys2Proof.Laws

/-- The clauses of R309 to R312 and R317 about the messages, and those about mirror requests. -/
theorem mirrorRequestsAndDeltasAreAcknowledged : MirrorRequestsAndDeltasAreAcknowledged := by
  refine ⟨fun s t p m ht => ⟨fun h => ?_, fun u hl hin hw x hx => ⟨fun hf => ?_, fun j v y hf hy hv => ?_⟩⟩,
    fun s t p k m ht => ⟨fun h => ?_, fun hl h => ?_, fun u hl h hu => ?_⟩,
    fun s t p m ht => ⟨fun h => ?_, fun x h => ?_⟩, fun s t u v p m r ht hr hw => ?_, fun s t u p m c ht hc => ?_,
    fun s p h => ?_, fun s t p m ht => ⟨fun h => ?_, fun w h hd => ?_⟩, fun s t u p m c ht hc => ?_,
    fun s t p m ht => ⟨fun h => ?_, fun hp hl hw hpow => ?_⟩,
    fun s p off => ⟨fun h => ?_, fun t d hj hwin hup ha hr => ?_, fun t u c d hj hwin hup ha hc hen hr => ?_⟩,
    fun s t p m ht => ⟨fun h => ?_, fun h ha => ?_⟩,
    fun s r => ⟨fun h => ?_, fun hp hd => ?_, fun t b hon hp hr => ⟨fun h => ?_, fun h => ?_⟩⟩,
    fun s addr b hw => ⟨mirrorServe_outside hw, mirrorServe_lost hw, fun t u v d => mirrorServe_solo hw⟩,
    fun s id v hi => ⟨fun hp => ?_, fun n hp hq hd => ?_⟩⟩
  · exact congrArg Host.Outcome.next (wabRx_dropped ht h)
  · subst hx
    exact congrArg Host.Outcome.next ((wabRx_written ht hl hin hw).trans (by simp only [chunkCounted, hf]))
  · subst hx hy
    refine congrArg Host.Outcome.next ((wabRx_written ht hl hin hw).trans ?_)
    simp only [chunkCounted, hf]
    exact jrecWrite_done hv
  · exact congrArg Host.Outcome.next (jrecRx_misshapen ht h)
  · exact congrArg Host.Outcome.next (jrecRx_waits ht hl h)
  · exact congrArg Host.Outcome.next ((jrecRx_ready ht hl h).trans (jrecWrite_done hu))
  · exact congrArg Host.Outcome.next (mackRx_unawaited ht h)
  · exact congrArg Host.Outcome.next (mackRx_ends ht h)
  · exact congrArg Host.Outcome.next (retireRx_frees ht hr hw)
  · obtain ⟨h1, h2, h3, h4, h5, h6, h7, h8⟩ := deltaCtx_running (b := m.payload) (length_ctxRead hc)
    exact ⟨deltaCtx c m.payload, _, rfl, congrArg Host.Outcome.next (qdeltaRx_read ht hc), h1, h2, h3, h4, h5, h6, h7, h8, deltaCtx_kept c m.payload⟩
  · exact congrArg (fun x => Host.Outcome.next (entryGo x)) (dackRx_none (inboxTake_none h))
  · exact congrArg (fun x => Host.Outcome.next (entryGo x)) ((dackRx_some ht).trans (dack_no_wait h))
  · exact congrArg (fun x => Host.Outcome.next (entryGo x)) ((dackRx_some ht).trans (by rw [← hd]; exact dack_one_wait h))
  · exact congrArg Host.Outcome.next ((homesetRx_some ht).trans ((setHome_read _ hc).trans (by rw [b2n_beq_zero])))
  · exact congrArg Host.Outcome.next (pstateRx_ignored ht h)
  · obtain ⟨hmem, hports, hsets⟩ := setsTaken m.payload (rangeFrom 0 64) (fun k hk => (mem_rangeFrom.mp hk).2) hw
    refine ⟨_, congrArg Host.Outcome.next (pstateRx_takes ht hp hl hpow), hmem, hports, fun k hk => ⟨fun hm => ?_, (hsets k hk).2⟩⟩
    exact (hsets k hk).1 hm (.inl (mem_rangeFrom.mpr ⟨Nat.zero_le k, by omega⟩))
  · exact congrArg Host.Outcome.next (resyncSend_not h)
  · exact congrArg Host.Outcome.next (resyncSend_area hj hwin hup ha hr)
  · exact congrArg Host.Outcome.next (resyncSend_queue hj hwin hup ha hc hen hr)
  · exact congrArg Host.Outcome.next (resyncRx_winner ht h)
  · exact congrArg Host.Outcome.next (resyncRx_area ht h ha)
  · exact congrArg Host.Outcome.next (mirrorRequest_off h)
  · exact congrArg Host.Outcome.next (mirrorRequest_waits hp hd)
  · exact congrArg Host.Outcome.next ((mirrorRequest_read hon hp hr).trans (if_neg h))
  · exact congrArg Host.Outcome.next ((mirrorRequest_read hon hp hr).trans (if_pos h))
  · rw [exec_homereq hi, homeReq_discarded v hp]
  · rw [exec_homereq hi, homeReq_sends hp hq hd]

/-- Settles O52: it holds, clause by clause, by the lemmas about each message and each flit. -/
theorem pairLinkChannelsAndMirroring : Obligations.PairLinkChannelsAndMirroring :=
  ⟨pairPortsAreReliableChannels, mirrorRequestsAndDeltasAreAcknowledged⟩

end Sys2Proof.Proofs
end

section
/-! PROOF. The end of the resync copy (R317) where the port table is not in canonical form. -/
namespace Sys2Proof.Proofs
open Sys2Proof.Machine Sys2Proof.Laws

/-- A power master without the lease whose copy runs; its port table lists port 0 twice: bound to a start, as the first entry has it. -/
def portListedTwice : State :=
  { State.reset.setRegF 0x350 oStat 31 1 1 with
    plink := { joined := true }
    pwr := { bound := [0] }
    ports := [(0, { load := some ([], 0) }), (0, { lp := 5 })] }

theorem joined_portListedTwice : portListedTwice.plink.joined = true ∧ portListedTwice.fm.selfStop = false ∧
    Regs.wf portListedTwice = true := by decide +kernel

/-- No port has found a SATA drive. -/
theorem lp_portListedTwice (p : Nat) : (portListedTwice.port p).lp = 0 := by
  by_cases h : p = 0 <;> simp [portListedTwice, State.port, sget, h]

/-- The link state of port 0 after a command that goes on. -/
def lp0After : Res → Option Nat
  | .next t => some (t.port 0).lp
  | _ => none

/-- The start is taken back with its contribution to the ring, which unlists the first entry: the second one shows. -/
theorem resyncDone_portListedTwice : lp0After (exec .resyncDone portListedTwice) = some 5 := by decide +kernel

/-- Refutes O53: RESYNC_DONE takes the role of the power master away, and where the port table lists a bound port twice, the removal of its
inrush contribution (R296) leaves the port in the link state of the second entry. The clause asks nothing of the port table. -/
theorem not_joinLossAndLeaseDecideWhoServes : ¬ Obligations.JoinLossAndLeaseDecideWhoServes := by
  unfold Obligations.JoinLossAndLeaseDecideWhoServes
  intro h
  obtain ⟨-, -, -, hdone, -⟩ := h
  obtain ⟨hjoined, hrun, hwf⟩ := joined_portListedTwice
  obtain ⟨t, hexec, -, -, -, -, -, -, -, hlp, hshut⟩ := (hdone portListedTwice).2 hjoined hrun hwf
  have hnone : sataShut t = t := hshut fun p _ => by rw [lp_portListedTwice]; decide
  have hafter := resyncDone_portListedTwice
  rw [hexec, hnone, lp0After, hlp, lp_portListedTwice] at hafter
  simp at hafter

end Sys2Proof.Proofs
end
